-- ==== Sys2Proof/Word.lean ====
section
/-! DEFINITION. The word types of the machine and their plainest arithmetic. -/

namespace Sys2Proof

/-- One byte of storage. -/
abbrev Byte := BitVec 8

/-- An instruction word (R140). -/
abbrev Word32 := BitVec 32

/-- The contents of a scalar register (R40). -/
abbrev Word := BitVec 64

end Sys2Proof
end

