-- ==== Sys2Proof/Syntax.lean ====
section
/-! DEFINITION. The instructions and engine steps of the PLN-6400: one constructor of `Instr` for each row of the
opcode table. A row with an encoding keeps its fields as bits, in the order D, A, B, F of R140 (a bit of the major
opcode last); a row without one carries what its step needs to know: which agent, engine or table entry it moves, or
what the outside world supplies. -/

namespace Sys2Proof

/-- A role of a gang: one of its harts, or its access-unit context (R13, R15). -/
inductive Role where
  | hart (n : Nat)
  | access
  deriving DecidableEq, Repr

/-- An agent that issues instructions: the role `role` of the gang at place `gang` of the state's list of gangs. -/
structure Agent where
  gang : Nat
  role : Role
  deriving DecidableEq, Repr

/-- An access that is still to be performed (R112): an entry of the write-combining buffer, the next fold of the window
merge at a place of the interlock table, element `i` of a queued load, or the scalar load in flight. -/
inductive Access where
  | entry (k : Nat)
  | fold (x : Nat)
  | element (seq i : Nat)
  | load
  deriving DecidableEq, Repr

/-- The part of a copy that moves next: the transfer at place `xfer` of the interlock table, and the bank whose sectors go
on by themselves (R104, R244). -/
structure CopyPart where
  xfer : Nat
  bank : Nat
  deriving DecidableEq, Repr

/-- The two contexts that read instruction words: a hart, or an access-unit context (R154, R155). -/
inductive Ctx where
  | execute
  | access
  deriving DecidableEq, Repr

/-- The instruction set. Each constructor's docstring cites the rule that gives the row its effect. -/
inductive Instr where
  /-- COPY_COMMAND (R244): a step with no encoding. -/
  | copyCommand (ag : Agent) (x : CopyPart)
  /-- COPY_COMPLETION (R245): a step with no encoding. -/
  | copyCompletion (ag : Agent) (x : Nat)
  /-- ADAPT (R326): a step with no encoding. -/
  | adapt (ag : Agent) (x : Nat)
  /-- ADAPT_STATUS (R327): a step with no encoding. -/
  | adaptStatus (ag : Agent) (x : Nat)
  /-- DESC (R358): a step with no encoding. -/
  | desc (ag : Agent) (x : Nat)
  /-- EXPAND (R359): a step with no encoding. -/
  | expand (ag : Agent) (x : Nat)
  /-- BACKUP (R358): a step with no encoding. -/
  | backup (ag : Agent) (x : Nat)
  /-- ORCHARD_REQUEST_PERFORMED (R348): a step with no encoding. -/
  | orchardRequestPerformed (ag : Agent) (x : Nat)
  /-- MOPEN_BUILD_END (R301): a step with no encoding. -/
  | mopenBuildEnd (p slot : Nat)
  /-- SHEAF_SET_BUILT (R313): a step with no encoding. -/
  | sheafSetBuilt (p slot set : Nat)
  /-- MRECUT_STATUS (R335): a step with no encoding. -/
  | mrecutStatus (ag : Agent) (x : Nat)
  /-- STREAM_ENTRY (R309): a step with no encoding. -/
  | streamEntry (ag : Agent) (x : Nat)
  /-- CHUNK_RESULT (R267): a step with no encoding. -/
  | chunkResult (p gidx chunk : Nat)
  /-- SQ3_CONTRIBUTION (R269): a step with no encoding. -/
  | sq3Contribution (gang : Nat)
  /-- LQ7_RECEIVE (R269): a step with no encoding. -/
  | lq7Receive (gang : Nat)
  /-- ACCESS_CONTEXT_STOP (R251): a step with no encoding. -/
  | accessContextStop (gang : Nat)
  /-- GANG_RETIREMENT (R26): a step with no encoding. -/
  | gangRetirement (gang : Nat)
  /-- TRAP_ENTRY (R383): a step with no encoding. -/
  | trapEntry (ag : Agent)
  /-- SUSPEND (R397): a step with no encoding. -/
  | suspend (c : Nat)
  /-- KILLGANG (R397): a step with no encoding. -/
  | killgang (c : Nat)
  /-- KILLLAUNCH (R397): a step with no encoding. -/
  | killlaunch (c : Nat)
  /-- DHALT (R402): a step with no encoding. -/
  | dhalt (c : Nat)
  /-- RESUME (R397): a step with no encoding. -/
  | resume (c : Nat)
  /-- DRESUME (R402): a step with no encoding. -/
  | dresume (c : Nat)
  /-- GANG_HALT (R389): a step with no encoding. -/
  | gangHalt (gang : Nat)
  /-- CONTEXT_COMMAND_STATUS (R398): a step with no encoding. -/
  | contextCommandStatus (c : Nat)
  /-- VERSION (R451): a step with no encoding. -/
  | version (ag : Agent)
  /-- GROUPSET (R456): a step with no encoding. -/
  | groupset (ag : Agent)
  /-- ROUTESET (R455): a step with no encoding. -/
  | routeset (ag : Agent)
  /-- ATTEST (R450): a step with no encoding. -/
  | attest (ag : Agent)
  /-- LINKSTAT (R451): a step with no encoding. -/
  | linkstat (ag : Agent)
  /-- DISPATCH_SAMPLE (R37): a step with no encoding. -/
  | dispatchSample (p : Nat)
  /-- PLACEMENT_STEP (R421): a step with no encoding. -/
  | placementStep (p : Nat)
  /-- GLEANER_BOUNDARY (R29): a step with no encoding. -/
  | gleanerBoundary (core : Nat)
  /-- GLEANER_ARRIVAL (R29): a step with no encoding. -/
  | gleanerArrival (x : Nat)
  /-- SHELF_UNIT_TICK (R100): a step with no encoding. -/
  | shelfUnitTick (tile : Nat)
  /-- TURNER_RENEWAL (R394): a step with no encoding. -/
  | turnerRenewal (tile : Nat)
  /-- TURNER_MISS (R395): a step with no encoding. -/
  | turnerMiss (tile : Nat)
  /-- REGISTER_REFRESH (R61): a step with no encoding. -/
  | registerRefresh (core : Nat)
  /-- WC_ENTRY_TIMEOUT (R120): a step with no encoding. -/
  | wcEntryTimeout (ag : Agent) (x : Nat)
  /-- GRANARY_TICK (R427): a step with no encoding. -/
  | granaryTick
  /-- GRANARY_DEBIT (R428): a step with no encoding. -/
  | granaryDebit (core : Nat)
  /-- ARBITER_PERIOD (R433): a step with no encoding. -/
  | arbiterPeriod (n : Nat)
  /-- CLOCK_LOWER (R463): a step with no encoding. -/
  | clockLower
  /-- CLOCK_RAISE (R463): a step with no encoding. -/
  | clockRaise
  /-- THERMTRIP (R463): a step with no encoding. -/
  | thermtrip
  /-- MODULE_RESET (R443): a step with no encoding. -/
  | moduleReset
  /-- SELF_TEST (R435): a step with no encoding. -/
  | selfTest
  /-- DCL_TRAINING (R443): a step with no encoding. -/
  | dclTraining
  /-- BGO (R443): a step with no encoding. -/
  | bgo (img len : BitVec 64)
  /-- IMAGE_COPIED (R445): a step with no encoding. -/
  | imageCopied
  /-- FBOOT (R443): a step with no encoding. -/
  | fboot (v : BitVec 64)
  /-- DCL_FAILURE (R452): a step with no encoding. -/
  | dclFailure
  /-- PORT_DOWN (R454): a step with no encoding. -/
  | portDown (q : Nat)
  /-- CXL_PORT_LOST (R453): a step with no encoding. -/
  | cxlPortLost (p : Nat)
  /-- DOORBELL_ORDINARY (R420): a step with no encoding. -/
  | doorbellOrdinary (p : Nat) (tail : BitVec 16)
  /-- DOORBELL_SUPERVISOR (R420): a step with no encoding. -/
  | doorbellSupervisor (p : Nat) (tail : BitVec 16)
  /-- DOORBELL_DBELL (R420): a step with no encoding. -/
  | doorbellDbell (p : Nat)
  /-- EVENT_W1C (R442): a step with no encoding. -/
  | eventW1c (v : BitVec 64)
  /-- SEVENT_W1C (R380): a step with no encoding. -/
  | seventW1c (v : BitVec 64)
  /-- SDSTAT_READ (R426): a step with no encoding. -/
  | sdstatRead
  /-- FPART_WRITE (R407): a step with no encoding. -/
  | fpartWrite (v : BitVec 64)
  /-- FGRATE_WRITE (R427): a step with no encoding. -/
  | fgrateWrite (v : BitVec 64)
  /-- FBTAB_WRITE (R434): a step with no encoding. -/
  | fbtabWrite (k : Nat) (v : BitVec 64)
  /-- FCTEST (R440): a step with no encoding. -/
  | fctest (v : BitVec 64)
  /-- FRCOMMIT (R440): a step with no encoding. -/
  | frcommit
  /-- FSVN_WRITE (R440): a step with no encoding. -/
  | fsvnWrite (v : BitVec 64)
  /-- FHTEST (R459): a step with no encoding. -/
  | fhtest (v : BitVec 64)
  /-- LGMODE_WRITE (R65): a step with no encoding. -/
  | lgmodeWrite (v : BitVec 64)
  /-- QEN_WRITE (R64): a step with no encoding. -/
  | qenWrite (v : BitVec 64)
  /-- CGROUP_WRITE (R263): a step with no encoding. -/
  | cgroupWrite (v : BitVec 64)
  /-- CSR_WRITE (R184): a step with no encoding. -/
  | csrWrite (c : BitVec 12) (v : BitVec 64)
  /-- ELEMENT_GROUP_COMPLETION (R53): a step with no encoding. -/
  | elementGroupCompletion (ag : Agent) (seq : Nat)
  /-- MATRIX_UNIT_COMPLETION (R274): a step with no encoding. -/
  | matrixUnitCompletion (ag : Agent) (ord : Nat)
  /-- ACCESS_PERFORMED (R112): a step with no encoding. -/
  | accessPerformed (ag : Agent) (x : Access)
  /-- CATALOGUE_ANSWER (R316): a step with no encoding. -/
  | catalogueAnswer (ag : Agent)
  /-- PORT_RETRAINED (R454): a step with no encoding. -/
  | portRetrained (q : Nat)
  /-- ADD (R168). -/
  | add (d a b : BitVec 6)
  /-- SUB (R168). -/
  | sub (d a b : BitVec 6)
  /-- AND (R168). -/
  | and (d a b : BitVec 6)
  /-- OR (R168). -/
  | or (d a b : BitVec 6)
  /-- XOR (R168). -/
  | xor (d a b : BitVec 6)
  /-- ANDN (R168). -/
  | andn (d a b : BitVec 6)
  /-- SLL (R168). -/
  | sll (d a b : BitVec 6)
  /-- SRL (R168). -/
  | srl (d a b : BitVec 6)
  /-- SRA (R168). -/
  | sra (d a b : BitVec 6)
  /-- SLT (R168). -/
  | slt (d a b : BitVec 6)
  /-- SLTU (R168). -/
  | sltu (d a b : BitVec 6)
  /-- SEQ (R168). -/
  | seq (d a b : BitVec 6)
  /-- MIN (R168). -/
  | min (d a b : BitVec 6)
  /-- MAX (R168). -/
  | max (d a b : BitVec 6)
  /-- MINU (R168). -/
  | minu (d a b : BitVec 6)
  /-- MAXU (R168). -/
  | maxu (d a b : BitVec 6)
  /-- MUL (R168). -/
  | mul (d a b : BitVec 6)
  /-- MULH (R168). -/
  | mulh (d a b : BitVec 6)
  /-- MULHU (R168). -/
  | mulhu (d a b : BitVec 6)
  /-- DIV (R169). -/
  | div (d a b : BitVec 6)
  /-- DIVU (R169). -/
  | divu (d a b : BitVec 6)
  /-- REM (R169). -/
  | rem (d a b : BitVec 6)
  /-- REMU (R169). -/
  | remu (d a b : BitVec 6)
  /-- CLZ (R168). -/
  | clz (d a : BitVec 6)
  /-- CTZ (R168). -/
  | ctz (d a : BitVec 6)
  /-- POPC (R168). -/
  | popc (d a : BitVec 6)
  /-- ADDI (R170). -/
  | addi (d a : BitVec 6) (i : BitVec 14)
  /-- ANDI (R170). -/
  | andi (d a : BitVec 6) (i : BitVec 14)
  /-- ORI (R170). -/
  | ori (d a : BitVec 6) (i : BitVec 14)
  /-- XORI (R170). -/
  | xori (d a : BitVec 6) (i : BitVec 14)
  /-- SLTI (R170). -/
  | slti (d a : BitVec 6) (i : BitVec 14)
  /-- SLTIU (R170). -/
  | sltiu (d a : BitVec 6) (i : BitVec 14)
  /-- SLLI (R170). -/
  | slli (d a sc : BitVec 6)
  /-- SRLI (R170). -/
  | srli (d a sc : BitVec 6)
  /-- SRAI (R170). -/
  | srai (d a sc : BitVec 6)
  /-- LUI (R170). -/
  | lui (d : BitVec 6) (w : BitVec 20)
  /-- ADDPC (R170). -/
  | addpc (d : BitVec 6) (w : BitVec 20)
  /-- FADD_D (R172). -/
  | faddD (d a b : BitVec 6)
  /-- FSUB_D (R172). -/
  | fsubD (d a b : BitVec 6)
  /-- FMUL_D (R172). -/
  | fmulD (d a b : BitVec 6)
  /-- FDIV_D (R172). -/
  | fdivD (d a b : BitVec 6)
  /-- FSQRT_D (R172). -/
  | fsqrtD (d a : BitVec 6)
  /-- FMIN_D (R172). -/
  | fminD (d a b : BitVec 6)
  /-- FMAX_D (R172). -/
  | fmaxD (d a b : BitVec 6)
  /-- FSGNJ_D (R172). -/
  | fsgnjD (d a b : BitVec 6)
  /-- FSGNJN_D (R172). -/
  | fsgnjnD (d a b : BitVec 6)
  /-- FSGNJX_D (R172). -/
  | fsgnjxD (d a b : BitVec 6)
  /-- FEQ_D (R172). -/
  | feqD (d a b : BitVec 6)
  /-- FLT_D (R172). -/
  | fltD (d a b : BitVec 6)
  /-- FLE_D (R172). -/
  | fleD (d a b : BitVec 6)
  /-- FCLASS_D (R172). -/
  | fclassD (d a : BitVec 6)
  /-- FCVT_L_D (R172). -/
  | fcvtLD (d a : BitVec 6)
  /-- FCVT_LU_D (R172). -/
  | fcvtLuD (d a : BitVec 6)
  /-- FCVT_FL_D (R172). -/
  | fcvtFlD (d a : BitVec 6)
  /-- FCVT_FLU_D (R172). -/
  | fcvtFluD (d a : BitVec 6)
  /-- FCVT_W_D (R172). -/
  | fcvtWD (d a : BitVec 6)
  /-- FADD_S (R172). -/
  | faddS (d a b : BitVec 6)
  /-- FSUB_S (R172). -/
  | fsubS (d a b : BitVec 6)
  /-- FMUL_S (R172). -/
  | fmulS (d a b : BitVec 6)
  /-- FDIV_S (R172). -/
  | fdivS (d a b : BitVec 6)
  /-- FSQRT_S (R172). -/
  | fsqrtS (d a : BitVec 6)
  /-- FMIN_S (R172). -/
  | fminS (d a b : BitVec 6)
  /-- FMAX_S (R172). -/
  | fmaxS (d a b : BitVec 6)
  /-- FSGNJ_S (R172). -/
  | fsgnjS (d a b : BitVec 6)
  /-- FSGNJN_S (R172). -/
  | fsgnjnS (d a b : BitVec 6)
  /-- FSGNJX_S (R172). -/
  | fsgnjxS (d a b : BitVec 6)
  /-- FEQ_S (R172). -/
  | feqS (d a b : BitVec 6)
  /-- FLT_S (R172). -/
  | fltS (d a b : BitVec 6)
  /-- FLE_S (R172). -/
  | fleS (d a b : BitVec 6)
  /-- FCLASS_S (R172). -/
  | fclassS (d a : BitVec 6)
  /-- FCVT_L_S (R172). -/
  | fcvtLS (d a : BitVec 6)
  /-- FCVT_LU_S (R172). -/
  | fcvtLuS (d a : BitVec 6)
  /-- FCVT_FL_S (R172). -/
  | fcvtFlS (d a : BitVec 6)
  /-- FCVT_FLU_S (R172). -/
  | fcvtFluS (d a : BitVec 6)
  /-- FCVT_W_S (R172). -/
  | fcvtWS (d a : BitVec 6)
  /-- FMADD_D (R173). -/
  | fmaddD (d a b c : BitVec 6)
  /-- FMSUB_D (R173). -/
  | fmsubD (d a b c : BitVec 6)
  /-- FNMADD_D (R173). -/
  | fnmaddD (d a b c : BitVec 6)
  /-- FNMSUB_D (R173). -/
  | fnmsubD (d a b c : BitVec 6)
  /-- FMADD_S (R173). -/
  | fmaddS (d a b c : BitVec 6)
  /-- FMSUB_S (R173). -/
  | fmsubS (d a b c : BitVec 6)
  /-- FNMADD_S (R173). -/
  | fnmaddS (d a b c : BitVec 6)
  /-- FNMSUB_S (R173). -/
  | fnmsubS (d a b c : BitVec 6)
  /-- LB (R175). -/
  | lb (d a : BitVec 6) (o : BitVec 11)
  /-- LH (R175). -/
  | lh (d a : BitVec 6) (o : BitVec 11)
  /-- LW (R175). -/
  | lw (d a : BitVec 6) (o : BitVec 11)
  /-- LD (R175). -/
  | ld (d a : BitVec 6) (o : BitVec 11)
  /-- LBU (R175). -/
  | lbu (d a : BitVec 6) (o : BitVec 11)
  /-- LHU (R175). -/
  | lhu (d a : BitVec 6) (o : BitVec 11)
  /-- LWU (R175). -/
  | lwu (d a : BitVec 6) (o : BitVec 11)
  /-- SB (R175). -/
  | sb (d a : BitVec 6) (n : Bool) (o : BitVec 10)
  /-- SH (R175). -/
  | sh (d a : BitVec 6) (n : Bool) (o : BitVec 10)
  /-- SW (R175). -/
  | sw (d a : BitVec 6) (n : Bool) (o : BitVec 10)
  /-- SD (R175). -/
  | sd (d a : BitVec 6) (n : Bool) (o : BitVec 10)
  /-- LB_AQ (R176). -/
  | lbAq (d a : BitVec 6) (sc : BitVec 3)
  /-- LH_AQ (R176). -/
  | lhAq (d a : BitVec 6) (sc : BitVec 3)
  /-- LW_AQ (R176). -/
  | lwAq (d a : BitVec 6) (sc : BitVec 3)
  /-- LD_AQ (R176). -/
  | ldAq (d a : BitVec 6) (sc : BitVec 3)
  /-- LBU_AQ (R176). -/
  | lbuAq (d a : BitVec 6) (sc : BitVec 3)
  /-- LHU_AQ (R176). -/
  | lhuAq (d a : BitVec 6) (sc : BitVec 3)
  /-- LWU_AQ (R176). -/
  | lwuAq (d a : BitVec 6) (sc : BitVec 3)
  /-- SB_RL (R176). -/
  | sbRl (d a : BitVec 6) (sc : BitVec 3)
  /-- SH_RL (R176). -/
  | shRl (d a : BitVec 6) (sc : BitVec 3)
  /-- SW_RL (R176). -/
  | swRl (d a : BitVec 6) (sc : BitVec 3)
  /-- SD_RL (R176). -/
  | sdRl (d a : BitVec 6) (sc : BitVec 3)
  /-- AMOADD (R177). -/
  | amoadd (d a b : BitVec 6) (q : BitVec 2) (sc w : Bool)
  /-- AMOSWAP (R177). -/
  | amoswap (d a b : BitVec 6) (q : BitVec 2) (sc w : Bool)
  /-- AMOAND (R177). -/
  | amoand (d a b : BitVec 6) (q : BitVec 2) (sc w : Bool)
  /-- AMOOR (R177). -/
  | amoor (d a b : BitVec 6) (q : BitVec 2) (sc w : Bool)
  /-- AMOXOR (R177). -/
  | amoxor (d a b : BitVec 6) (q : BitVec 2) (sc w : Bool)
  /-- AMOMIN (R177). -/
  | amomin (d a b : BitVec 6) (q : BitVec 2) (sc w : Bool)
  /-- AMOMAX (R177). -/
  | amomax (d a b : BitVec 6) (q : BitVec 2) (sc w : Bool)
  /-- AMOMINU (R177). -/
  | amominu (d a b : BitVec 6) (q : BitVec 2) (sc w : Bool)
  /-- AMOMAXU (R177). -/
  | amomaxu (d a b : BitVec 6) (q : BitVec 2) (sc w : Bool)
  /-- AMOCAS (R177). -/
  | amocas (d a b : BitVec 6) (q : BitVec 2) (sc w : Bool)
  /-- AMOADD_TW (R178). -/
  | amoaddTw (d a b : BitVec 6) (q : BitVec 2) (sc w : Bool)
  /-- AMOFADD (R177). -/
  | amofadd (d a b : BitVec 6) (q : BitVec 2) (sc w : Bool)
  /-- BEQ (R174). -/
  | beq (d a : BitVec 6) (i : BitVec 14)
  /-- BNE (R174). -/
  | bne (d a : BitVec 6) (i : BitVec 14)
  /-- BLT (R174). -/
  | blt (d a : BitVec 6) (i : BitVec 14)
  /-- BGE (R174). -/
  | bge (d a : BitVec 6) (i : BitVec 14)
  /-- BLTU (R174). -/
  | bltu (d a : BitVec 6) (i : BitVec 14)
  /-- BGEU (R174). -/
  | bgeu (d a : BitVec 6) (i : BitVec 14)
  /-- JAL (R174). -/
  | jal (d : BitVec 6) (w : BitVec 20)
  /-- JALR (R174). -/
  | jalr (d a : BitVec 6) (i : BitVec 14)
  /-- FENCE (R182). -/
  | fence (sc k : BitVec 3)
  /-- FENCE_SV (R119). -/
  | fenceSv
  /-- IFENCE (R183). -/
  | ifence
  /-- WAITW (R179). -/
  | waitw (d a b : BitVec 6)
  /-- BARSYNC (R186). -/
  | barsync
  /-- BARRIVE (R186). -/
  | barrive
  /-- BARDROP (R186). -/
  | bardrop
  /-- BARWAIT (R186). -/
  | barwait
  /-- CSRRW (R184). -/
  | csrrw (d a : BitVec 6) (c : BitVec 12)
  /-- CSRRS (R184). -/
  | csrrs (d a : BitVec 6) (c : BitVec 12)
  /-- CSRRC (R184). -/
  | csrrc (d a : BitVec 6) (c : BitVec 12)
  /-- TASKGET (R187). -/
  | taskget (d : BitVec 6)
  /-- TASKPUT (R188). -/
  | taskput (a : BitVec 6)
  /-- LAUNCH (R189). -/
  | launch (d a : BitVec 6)
  /-- KEND (R190). -/
  | kend
  /-- ACCESS_KEND (R251). -/
  | accessKend
  /-- BREAK (R191). -/
  | brk
  /-- BQPOP (R192). -/
  | bqpop (d : BitVec 6) (k : BitVec 2)
  /-- BQPUSH (R192). -/
  | bqpush (k : BitVec 2) (a : BitVec 6)
  /-- VADD (R204). -/
  | vadd (d a b : BitVec 6) (n sc m g l : Bool)
  /-- VSUB (R204). -/
  | vsub (d a b : BitVec 6) (n sc m g l : Bool)
  /-- VMUL (R204). -/
  | vmul (d a b : BitVec 6) (n sc m g l : Bool)
  /-- VDIV (R204). -/
  | vdiv (d a b : BitVec 6) (n sc m g l : Bool)
  /-- VMIN (R204). -/
  | vmin (d a b : BitVec 6) (n sc m g l : Bool)
  /-- VMAX (R204). -/
  | vmax (d a b : BitVec 6) (n sc m g l : Bool)
  /-- VSADD (R205). -/
  | vsadd (d a b : BitVec 6) (n sc m g l : Bool)
  /-- VSSUB (R205). -/
  | vssub (d a b : BitVec 6) (n sc m g l : Bool)
  /-- VMULH (R205). -/
  | vmulh (d a b : BitVec 6) (n sc m g l : Bool)
  /-- VREM (R205). -/
  | vrem (d a b : BitVec 6) (n sc m g l : Bool)
  /-- VAND (R205). -/
  | vand (d a b : BitVec 6) (n sc m g l : Bool)
  /-- VOR (R205). -/
  | vor (d a b : BitVec 6) (n sc m g l : Bool)
  /-- VXOR (R205). -/
  | vxor (d a b : BitVec 6) (n sc m g l : Bool)
  /-- VSLL (R205). -/
  | vsll (d a b : BitVec 6) (n sc m g l : Bool)
  /-- VSHR (R205). -/
  | vshr (d a b : BitVec 6) (n sc m g l : Bool)
  /-- VSQRT (R206). -/
  | vsqrt (d a : BitVec 6) (n sc m g l : Bool)
  /-- VABS (R206). -/
  | vabs (d a : BitVec 6) (n sc m g l : Bool)
  /-- VNEG (R206). -/
  | vneg (d a : BitVec 6) (n sc m g l : Bool)
  /-- VSGNJ (R206). -/
  | vsgnj (d a b : BitVec 6) (n sc m g l : Bool)
  /-- VSGNJN (R206). -/
  | vsgnjn (d a b : BitVec 6) (n sc m g l : Bool)
  /-- VSGNJX (R206). -/
  | vsgnjx (d a b : BitVec 6) (n sc m g l : Bool)
  /-- VCLASS (R207). -/
  | vclass (d a : BitVec 6) (n sc m g l : Bool)
  /-- VMV (R206). -/
  | vmv (d a : BitVec 6) (n sc m g l : Bool)
  /-- VFMADD (R208). -/
  | vfmadd (d a b : BitVec 6) (n sc m g : Bool)
  /-- VFMSUB (R208). -/
  | vfmsub (d a b : BitVec 6) (n sc m g : Bool)
  /-- VFNMADD (R208). -/
  | vfnmadd (d a b : BitVec 6) (n sc m g : Bool)
  /-- VFNMSUB (R208). -/
  | vfnmsub (d a b : BitVec 6) (n sc m g : Bool)
  /-- VADD_ACC (R209). -/
  | vaddAcc (d a b : BitVec 6) (n sc m : Bool)
  /-- VSUB_ACC (R209). -/
  | vsubAcc (d a b : BitVec 6) (n sc m : Bool)
  /-- VMUL_ACC (R209). -/
  | vmulAcc (d a b : BitVec 6) (n sc m : Bool)
  /-- VDIV_ACC (R209). -/
  | vdivAcc (d a b : BitVec 6) (n sc m : Bool)
  /-- VMIN_ACC (R209). -/
  | vminAcc (d a b : BitVec 6) (n sc m : Bool)
  /-- VMAX_ACC (R209). -/
  | vmaxAcc (d a b : BitVec 6) (n sc m : Bool)
  /-- VSADD_ACC (R209). -/
  | vsaddAcc (d a b : BitVec 6) (n sc m : Bool)
  /-- VSSUB_ACC (R209). -/
  | vssubAcc (d a b : BitVec 6) (n sc m : Bool)
  /-- VMULH_ACC (R209). -/
  | vmulhAcc (d a b : BitVec 6) (n sc m : Bool)
  /-- VREM_ACC (R209). -/
  | vremAcc (d a b : BitVec 6) (n sc m : Bool)
  /-- VAND_ACC (R209). -/
  | vandAcc (d a b : BitVec 6) (n sc m : Bool)
  /-- VOR_ACC (R209). -/
  | vorAcc (d a b : BitVec 6) (n sc m : Bool)
  /-- VXOR_ACC (R209). -/
  | vxorAcc (d a b : BitVec 6) (n sc m : Bool)
  /-- VSLL_ACC (R209). -/
  | vsllAcc (d a b : BitVec 6) (n sc m : Bool)
  /-- VSHR_ACC (R209). -/
  | vshrAcc (d a b : BitVec 6) (n sc m : Bool)
  /-- VSQRT_ACC (R209). -/
  | vsqrtAcc (d a : BitVec 6) (n sc m : Bool)
  /-- VABS_ACC (R209). -/
  | vabsAcc (d a : BitVec 6) (n sc m : Bool)
  /-- VNEG_ACC (R209). -/
  | vnegAcc (d a : BitVec 6) (n sc m : Bool)
  /-- VSGNJ_ACC (R209). -/
  | vsgnjAcc (d a b : BitVec 6) (n sc m : Bool)
  /-- VSGNJN_ACC (R209). -/
  | vsgnjnAcc (d a b : BitVec 6) (n sc m : Bool)
  /-- VSGNJX_ACC (R209). -/
  | vsgnjxAcc (d a b : BitVec 6) (n sc m : Bool)
  /-- VCLASS_ACC (R209). -/
  | vclassAcc (d a : BitVec 6) (n sc m : Bool)
  /-- VMV_ACC (R209). -/
  | vmvAcc (d a : BitVec 6) (n sc m : Bool)
  /-- VFMADD_ACC (R208). -/
  | vfmaddAcc (d a b : BitVec 6) (n sc m : Bool)
  /-- VFMSUB_ACC (R208). -/
  | vfmsubAcc (d a b : BitVec 6) (n sc m : Bool)
  /-- VFNMADD_ACC (R208). -/
  | vfnmaddAcc (d a b : BitVec 6) (n sc m : Bool)
  /-- VFNMSUB_ACC (R208). -/
  | vfnmsubAcc (d a b : BitVec 6) (n sc m : Bool)
  /-- VCMPEQ (R210). -/
  | vcmpeq (d a b : BitVec 6) (m g : Bool)
  /-- VCMPNE (R210). -/
  | vcmpne (d a b : BitVec 6) (m g : Bool)
  /-- VCMPLT (R210). -/
  | vcmplt (d a b : BitVec 6) (m g : Bool)
  /-- VCMPLE (R210). -/
  | vcmple (d a b : BitVec 6) (m g : Bool)
  /-- VCMPGT (R210). -/
  | vcmpgt (d a b : BitVec 6) (m g : Bool)
  /-- VCMPGE (R210). -/
  | vcmpge (d a b : BitVec 6) (m g : Bool)
  /-- VCMPUNORD (R210). -/
  | vcmpunord (d a b : BitVec 6) (m g : Bool)
  /-- VMAND (R211). -/
  | vmand (d a b : BitVec 6)
  /-- VMOR (R211). -/
  | vmor (d a b : BitVec 6)
  /-- VMXOR (R211). -/
  | vmxor (d a b : BitVec 6)
  /-- VMANDN (R211). -/
  | vmandn (d a b : BitVec 6)
  /-- VMNOT (R211). -/
  | vmnot (d a : BitVec 6)
  /-- VMPOPC (R211). -/
  | vmpopc (d a : BitVec 6)
  /-- VMFIRST (R211). -/
  | vmfirst (d a : BitVec 6)
  /-- VMSET (R211). -/
  | vmset (d : BitVec 6)
  /-- VCVT (R214). -/
  | vcvt (d a : BitVec 6) (sc m : Bool) (t : BitVec 5)
  /-- VSLIDEUP (R216). -/
  | vslideup (d a b : BitVec 6) (m : Bool)
  /-- VSLIDEDN (R216). -/
  | vslidedn (d a b : BitVec 6) (m : Bool)
  /-- VGATHR (R217). -/
  | vgathr (d a b : BitVec 6) (m : Bool)
  /-- VSEND (R217). -/
  | vsend (d a b : BitVec 6) (m : Bool)
  /-- VCMPRS (R218). -/
  | vcmprs (d a : BitVec 6) (m : Bool)
  /-- VEXPND (R218). -/
  | vexpnd (d a : BitVec 6) (m : Bool)
  /-- VRESH (R215). -/
  | vresh (d a t : BitVec 6) (m : Bool)
  /-- VBCAST (R219). -/
  | vbcast (d a : BitVec 6) (m : Bool)
  /-- VSLIDE1UP (R216). -/
  | vslide1up (d a b : BitVec 6) (m : Bool)
  /-- VSLIDE1DN (R216). -/
  | vslide1dn (d a b : BitVec 6) (m : Bool)
  /-- VREDSUM (R220). -/
  | vredsum (d a b : BitVec 6) (sc m : Bool)
  /-- VREDMIN (R220). -/
  | vredmin (d a b : BitVec 6) (sc m : Bool)
  /-- VREDMAX (R220). -/
  | vredmax (d a b : BitVec 6) (sc m : Bool)
  /-- VREDAND (R220). -/
  | vredand (d a b : BitVec 6) (sc m : Bool)
  /-- VREDOR (R220). -/
  | vredor (d a b : BitVec 6) (sc m : Bool)
  /-- VREDXOR (R220). -/
  | vredxor (d a b : BitVec 6) (sc m : Bool)
  /-- VSCANSUM (R221). -/
  | vscansum (d a : BitVec 6) (sc m : Bool)
  /-- VSCANMIN (R221). -/
  | vscanmin (d a : BitVec 6) (sc m : Bool)
  /-- VSCANMAX (R221). -/
  | vscanmax (d a : BitVec 6) (sc m : Bool)
  /-- VFUNC (R223). -/
  | vfunc (d a : BitVec 6) (m : Bool) (c : BitVec 5)
  /-- VCFG (R200). -/
  | vcfg (d a : BitVec 6)
  /-- VSETVL (R201). -/
  | vsetvl (d a b : BitVec 6)
  /-- VSETVL_P (R202). -/
  | vsetvlP (d a b : BitVec 6)
  /-- VID (R212). -/
  | vid (d : BitVec 6) (m : Bool)
  /-- VSEL (R212). -/
  | vsel (d a b : BitVec 6)
  /-- VGETE (R212). -/
  | vgete (d a b : BitVec 6)
  /-- VSETE (R212). -/
  | vsete (d a b : BitVec 6)
  /-- VSALSEL (R213). -/
  | vsalsel (d a b : BitVec 6) (m : Bool) (g k : BitVec 2)
  /-- VLD (R230). -/
  | vld (d a : BitVec 6) (f c r l m : Bool)
  /-- VLDS (R230). -/
  | vlds (d a b : BitVec 6) (f c r l m : Bool)
  /-- VLDX (R230). -/
  | vldx (d a b : BitVec 6) (f c r l m : Bool)
  /-- VST (R230). -/
  | vst (d a : BitVec 6) (c n m : Bool)
  /-- VSTS (R230). -/
  | vsts (d a b : BitVec 6) (c n m : Bool)
  /-- VSTX (R230). -/
  | vstx (d a b : BitVec 6) (c n m : Bool)
  /-- VWIN (R235). -/
  | vwin (a b : BitVec 6)
  /-- VWACC (R237). -/
  | vwacc (a b : BitVec 6) (m : Bool)
  /-- VWMERGE (R238). -/
  | vwmerge
  /-- VLSYNC (R239). -/
  | vlsync
  /-- VFENCE (R240). -/
  | vfence (sc k : BitVec 3)
  /-- QDRAIN (R241). -/
  | qdrain (a : BitVec 6)
  /-- SPALLOC (R232). -/
  | spalloc (d a b : BitVec 6)
  /-- SPFREE (R233). -/
  | spfree (a : BitVec 6)
  /-- SPRENEW (R234). -/
  | sprenew (d a : BitVec 6)
  /-- SPAGE (R234). -/
  | spage (d a : BitVec 6)
  /-- VFAR (R260). -/
  | vfar (d a b : BitVec 6)
  /-- MMA (R281). -/
  | mma (t : BitVec 4) (a b : BitVec 6) (sc w z y x : Bool)
  /-- MLD (R286). -/
  | mld (t : BitVec 4) (a b : BitVec 6)
  /-- MST (R286). -/
  | mst (t : BitVec 4) (a b : BitVec 6)
  /-- MZERO (R285). -/
  | mzero (t : BitVec 4)
  /-- MWROW (R289). -/
  | mwrow (a b : BitVec 6)
  /-- MADDROW (R289). -/
  | maddrow (a b : BitVec 6)
  /-- MWAIT (R275). -/
  | mwait
  /-- MOPEN (R301). -/
  | mopen (d a : BitVec 6)
  /-- MCLOSE (R306). -/
  | mclose (a : BitVec 6)
  /-- MSTREAM (R307). -/
  | mstream (q : BitVec 3) (a b : BitVec 6)
  /-- MSHEAF (R312). -/
  | msheaf (d a b : BitVec 6)
  /-- MGENREL (R305). -/
  | mgenrel (a b : BitVec 6)
  /-- MRECUT (R333). -/
  | mrecut (d a : BitVec 6)
  /-- MQUERY (R311). -/
  | mquery (d a : BitVec 6)
  /-- VSOW_F32 (R341). -/
  | vsowF32 (d a b : BitVec 6) (m : Bool)
  /-- VSOW_F64 (R341). -/
  | vsowF64 (d a b : BitVec 6) (m : Bool)
  /-- VSOW_N32 (R341). -/
  | vsowN32 (d a b : BitVec 6) (m : Bool)
  /-- SOWLOAD (R342). -/
  | sowload (a : BitVec 6)
  /-- ONEW (R351). -/
  | onew (d a : BitVec 6)
  /-- ODESC (R352). -/
  | odesc (d a : BitVec 6)
  /-- OEXPAND (R353). -/
  | oexpand (d a b : BitVec 6)
  /-- OBACKUP (R354). -/
  | obackup (d a b : BitVec 6)
  /-- OREUSE (R355). -/
  | oreuse (d a : BitVec 6)
  /-- OFREE (R356). -/
  | ofree (d a : BitVec 6)
  /-- OREAD (R357). -/
  | oread (d a b : BitVec 6)
  /-- CMDB_COPY (R242). -/
  | cmdbCopy (d a : BitVec 6) (m : Bool)
  /-- CMDB_CAT (R242). -/
  | cmdbCat (d a : BitVec 6) (m : Bool)
  /-- CMDB_ORCH (R242). -/
  | cmdbOrch (d a : BitVec 6) (m : Bool)
  /-- TRET (R385). -/
  | tret
  /-- CTXSAVE (R397). -/
  | ctxsave (a : BitVec 6)
  /-- CTXLOAD (R397). -/
  | ctxload (a : BitVec 6)
  /-- XLINV (R417). -/
  | xlinv (a b : BitVec 6)
  /-- WFI (R403). -/
  | wfi
  /-- FWCALL (R404). -/
  | fwcall
  /-- HALTC (R405). -/
  | haltc (a : BitVec 6)
  /-- HALTC_RELEASE (R405). -/
  | haltcRelease (a : BitVec 6)
  /-- ALD (R257). -/
  | ald (d a b : BitVec 6) (p m : Bool) (t : BitVec 5)
  /-- ALD_CL (R265). -/
  | aldCl (q : BitVec 3)
  /-- AGATHER (R257). -/
  | agather (d a b : BitVec 6) (m : Bool) (t : BitVec 5)
  /-- ATRANS (R257). -/
  | atrans (d a b : BitVec 6) (r : BitVec 3) (t : BitVec 5)
  /-- AST (R257). -/
  | ast (d a b : BitVec 6) (p m : Bool)
  /-- AST_CL (R265). -/
  | astCl (q : BitVec 2)
  /-- ASCAT (R257). -/
  | ascat (d a b : BitVec 6) (m : Bool)
  /-- AFAR (R260). -/
  | afar (d a b : BitVec 6) (m : Bool)
  deriving DecidableEq, Repr

end Sys2Proof
end

