-- ==== Sys2Proof/WellFormed.lean ====
section
/-! DEFINITION. Which instruction terms a context accepts, by what the words alone decide: codes the encoding
chapter leaves unassigned, register specifiers outside their ranges, and what R155 lets an access-unit context issue.
Checks that depend on NV, on tags or on the values of operands are made when the instruction is executed. -/

namespace Sys2Proof

/-- Scope codes 6 and 7 are unassigned (R122). -/
def scopeCode (sc : BitVec 3) : Bool := sc.toNat ≤ 5

/-- Scope codes 6 and 7 and kind codes 0 and 4 to 7 are unassigned (R122). -/
def fenceCodes (sc k : BitVec 3) : Bool := scopeCode sc && 1 ≤ k.toNat && k.toNat ≤ 3

/-- Tag codes 18 to 31 are never held (R50). -/
def tagCode (t : BitVec 5) : Bool := t.toNat ≤ 17

/-- A vector destination: a register, or sq0 to sq3; 60 to 63 are illegal (R58). -/
def vecDst (d : BitVec 6) : Bool := d.toNat ≤ 59

/-- A field that must name a vector register and no queue. -/
def vecReg (d : BitVec 6) : Bool := d.toNat ≤ 55

/-- Scalar specifiers of an access-unit context name a0 to a31 (R154). -/
def accessReg (d : BitVec 6) : Bool := d.toNat ≤ 31

/-- A vector source of an access-unit context: a register, or sq0 to sq3 (R154). -/
def accessVecSrc (d : BitVec 6) : Bool := d.toNat ≤ 59

/-- The data of an access store: a register, or sq0 to sq3 (R256). -/
def accessData (d : BitVec 6) : Bool := d.toNat ≤ 59

/-- A term that a context can read from a word (R143 checks 2 to 4, R155). -/
def wellFormed (c : Ctx) (i : Instr) : Bool :=
  match c, i with
  | .execute, .add _ _ _ => true
  | .execute, .sub _ _ _ => true
  | .execute, .and _ _ _ => true
  | .execute, .or _ _ _ => true
  | .execute, .xor _ _ _ => true
  | .execute, .andn _ _ _ => true
  | .execute, .sll _ _ _ => true
  | .execute, .srl _ _ _ => true
  | .execute, .sra _ _ _ => true
  | .execute, .slt _ _ _ => true
  | .execute, .sltu _ _ _ => true
  | .execute, .seq _ _ _ => true
  | .execute, .min _ _ _ => true
  | .execute, .max _ _ _ => true
  | .execute, .minu _ _ _ => true
  | .execute, .maxu _ _ _ => true
  | .execute, .mul _ _ _ => true
  | .execute, .mulh _ _ _ => true
  | .execute, .mulhu _ _ _ => true
  | .execute, .div _ _ _ => true
  | .execute, .divu _ _ _ => true
  | .execute, .rem _ _ _ => true
  | .execute, .remu _ _ _ => true
  | .execute, .clz _ _ => true
  | .execute, .ctz _ _ => true
  | .execute, .popc _ _ => true
  | .execute, .addi _ _ _ => true
  | .execute, .andi _ _ _ => true
  | .execute, .ori _ _ _ => true
  | .execute, .xori _ _ _ => true
  | .execute, .slti _ _ _ => true
  | .execute, .sltiu _ _ _ => true
  | .execute, .slli _ _ _ => true
  | .execute, .srli _ _ _ => true
  | .execute, .srai _ _ _ => true
  | .execute, .lui _ _ => true
  | .execute, .addpc _ _ => true
  | .execute, .faddD _ _ _ => true
  | .execute, .fsubD _ _ _ => true
  | .execute, .fmulD _ _ _ => true
  | .execute, .fdivD _ _ _ => true
  | .execute, .fsqrtD _ _ => true
  | .execute, .fminD _ _ _ => true
  | .execute, .fmaxD _ _ _ => true
  | .execute, .fsgnjD _ _ _ => true
  | .execute, .fsgnjnD _ _ _ => true
  | .execute, .fsgnjxD _ _ _ => true
  | .execute, .feqD _ _ _ => true
  | .execute, .fltD _ _ _ => true
  | .execute, .fleD _ _ _ => true
  | .execute, .fclassD _ _ => true
  | .execute, .fcvtLD _ _ => true
  | .execute, .fcvtLuD _ _ => true
  | .execute, .fcvtFlD _ _ => true
  | .execute, .fcvtFluD _ _ => true
  | .execute, .fcvtWD _ _ => true
  | .execute, .faddS _ _ _ => true
  | .execute, .fsubS _ _ _ => true
  | .execute, .fmulS _ _ _ => true
  | .execute, .fdivS _ _ _ => true
  | .execute, .fsqrtS _ _ => true
  | .execute, .fminS _ _ _ => true
  | .execute, .fmaxS _ _ _ => true
  | .execute, .fsgnjS _ _ _ => true
  | .execute, .fsgnjnS _ _ _ => true
  | .execute, .fsgnjxS _ _ _ => true
  | .execute, .feqS _ _ _ => true
  | .execute, .fltS _ _ _ => true
  | .execute, .fleS _ _ _ => true
  | .execute, .fclassS _ _ => true
  | .execute, .fcvtLS _ _ => true
  | .execute, .fcvtLuS _ _ => true
  | .execute, .fcvtFlS _ _ => true
  | .execute, .fcvtFluS _ _ => true
  | .execute, .fcvtWS _ _ => true
  | .execute, .fmaddD _ _ _ _ => true
  | .execute, .fmsubD _ _ _ _ => true
  | .execute, .fnmaddD _ _ _ _ => true
  | .execute, .fnmsubD _ _ _ _ => true
  | .execute, .fmaddS _ _ _ _ => true
  | .execute, .fmsubS _ _ _ _ => true
  | .execute, .fnmaddS _ _ _ _ => true
  | .execute, .fnmsubS _ _ _ _ => true
  | .execute, .lb _ _ _ => true
  | .execute, .lh _ _ _ => true
  | .execute, .lw _ _ _ => true
  | .execute, .ld _ _ _ => true
  | .execute, .lbu _ _ _ => true
  | .execute, .lhu _ _ _ => true
  | .execute, .lwu _ _ _ => true
  | .execute, .sb _ _ _ _ => true
  | .execute, .sh _ _ _ _ => true
  | .execute, .sw _ _ _ _ => true
  | .execute, .sd _ _ _ _ => true
  | .execute, .lbAq _ _ sc => scopeCode sc
  | .execute, .lhAq _ _ sc => scopeCode sc
  | .execute, .lwAq _ _ sc => scopeCode sc
  | .execute, .ldAq _ _ sc => scopeCode sc
  | .execute, .lbuAq _ _ sc => scopeCode sc
  | .execute, .lhuAq _ _ sc => scopeCode sc
  | .execute, .lwuAq _ _ sc => scopeCode sc
  | .execute, .sbRl _ _ sc => scopeCode sc
  | .execute, .shRl _ _ sc => scopeCode sc
  | .execute, .swRl _ _ sc => scopeCode sc
  | .execute, .sdRl _ _ sc => scopeCode sc
  | .execute, .amoadd _ _ _ _ _ _ => true
  | .execute, .amoswap _ _ _ _ _ _ => true
  | .execute, .amoand _ _ _ _ _ _ => true
  | .execute, .amoor _ _ _ _ _ _ => true
  | .execute, .amoxor _ _ _ _ _ _ => true
  | .execute, .amomin _ _ _ _ _ _ => true
  | .execute, .amomax _ _ _ _ _ _ => true
  | .execute, .amominu _ _ _ _ _ _ => true
  | .execute, .amomaxu _ _ _ _ _ _ => true
  | .execute, .amocas _ _ _ _ _ _ => true
  | .execute, .amoaddTw _ _ _ _ _ _ => true
  | .execute, .amofadd _ _ _ _ _ _ => true
  | .execute, .beq _ _ _ => true
  | .execute, .bne _ _ _ => true
  | .execute, .blt _ _ _ => true
  | .execute, .bge _ _ _ => true
  | .execute, .bltu _ _ _ => true
  | .execute, .bgeu _ _ _ => true
  | .execute, .jal _ _ => true
  | .execute, .jalr _ _ _ => true
  | .execute, .fence sc k => fenceCodes sc k
  | .execute, .fenceSv => true
  | .execute, .ifence => true
  | .execute, .waitw _ _ _ => true
  | .execute, .barsync => true
  | .execute, .barrive => true
  | .execute, .bardrop => true
  | .execute, .barwait => true
  | .execute, .csrrw _ _ _ => true
  | .execute, .csrrs _ _ _ => true
  | .execute, .csrrc _ _ _ => true
  | .execute, .taskget _ => true
  | .execute, .taskput _ => true
  | .execute, .launch _ _ => true
  | .execute, .kend => true
  | .execute, .accessKend => false
  | .execute, .brk => true
  | .execute, .bqpop _ _ => true
  | .execute, .bqpush _ _ => false
  | .execute, .vadd d _ _ _ _ _ _ _ => vecDst d
  | .execute, .vsub d _ _ _ _ _ _ _ => vecDst d
  | .execute, .vmul d _ _ _ _ _ _ _ => vecDst d
  | .execute, .vdiv d _ _ _ _ _ _ _ => vecDst d
  | .execute, .vmin d _ _ _ _ _ _ _ => vecDst d
  | .execute, .vmax d _ _ _ _ _ _ _ => vecDst d
  | .execute, .vsadd d _ _ _ _ _ _ _ => vecDst d
  | .execute, .vssub d _ _ _ _ _ _ _ => vecDst d
  | .execute, .vmulh d _ _ _ _ _ _ _ => vecDst d
  | .execute, .vrem d _ _ _ _ _ _ _ => vecDst d
  | .execute, .vand d _ _ _ _ _ _ _ => vecDst d
  | .execute, .vor d _ _ _ _ _ _ _ => vecDst d
  | .execute, .vxor d _ _ _ _ _ _ _ => vecDst d
  | .execute, .vsll d _ _ _ _ _ _ _ => vecDst d
  | .execute, .vshr d _ _ _ _ _ _ _ => vecDst d
  | .execute, .vsqrt d _ _ _ _ _ _ => vecDst d
  | .execute, .vabs d _ _ _ _ _ _ => vecDst d
  | .execute, .vneg d _ _ _ _ _ _ => vecDst d
  | .execute, .vsgnj d _ _ _ _ _ _ _ => vecDst d
  | .execute, .vsgnjn d _ _ _ _ _ _ _ => vecDst d
  | .execute, .vsgnjx d _ _ _ _ _ _ _ => vecDst d
  | .execute, .vclass d _ _ _ _ _ _ => vecDst d
  | .execute, .vmv d _ _ _ _ _ _ => vecDst d
  | .execute, .vfmadd d _ _ _ _ _ _ => vecDst d
  | .execute, .vfmsub d _ _ _ _ _ _ => vecDst d
  | .execute, .vfnmadd d _ _ _ _ _ _ => vecDst d
  | .execute, .vfnmsub d _ _ _ _ _ _ => vecDst d
  | .execute, .vaddAcc d _ _ _ _ _ => vecDst d
  | .execute, .vsubAcc d _ _ _ _ _ => vecDst d
  | .execute, .vmulAcc d _ _ _ _ _ => vecDst d
  | .execute, .vdivAcc d _ _ _ _ _ => vecDst d
  | .execute, .vminAcc d _ _ _ _ _ => vecDst d
  | .execute, .vmaxAcc d _ _ _ _ _ => vecDst d
  | .execute, .vsaddAcc d _ _ _ _ _ => vecDst d
  | .execute, .vssubAcc d _ _ _ _ _ => vecDst d
  | .execute, .vmulhAcc d _ _ _ _ _ => vecDst d
  | .execute, .vremAcc d _ _ _ _ _ => vecDst d
  | .execute, .vandAcc d _ _ _ _ _ => vecDst d
  | .execute, .vorAcc d _ _ _ _ _ => vecDst d
  | .execute, .vxorAcc d _ _ _ _ _ => vecDst d
  | .execute, .vsllAcc d _ _ _ _ _ => vecDst d
  | .execute, .vshrAcc d _ _ _ _ _ => vecDst d
  | .execute, .vsqrtAcc d _ _ _ _ => vecDst d
  | .execute, .vabsAcc d _ _ _ _ => vecDst d
  | .execute, .vnegAcc d _ _ _ _ => vecDst d
  | .execute, .vsgnjAcc d _ _ _ _ _ => vecDst d
  | .execute, .vsgnjnAcc d _ _ _ _ _ => vecDst d
  | .execute, .vsgnjxAcc d _ _ _ _ _ => vecDst d
  | .execute, .vclassAcc d _ _ _ _ => vecDst d
  | .execute, .vmvAcc d _ _ _ _ => vecDst d
  | .execute, .vfmaddAcc d _ _ _ _ _ => vecDst d
  | .execute, .vfmsubAcc d _ _ _ _ _ => vecDst d
  | .execute, .vfnmaddAcc d _ _ _ _ _ => vecDst d
  | .execute, .vfnmsubAcc d _ _ _ _ _ => vecDst d
  | .execute, .vcmpeq d _ _ _ _ => vecDst d
  | .execute, .vcmpne d _ _ _ _ => vecDst d
  | .execute, .vcmplt d _ _ _ _ => vecDst d
  | .execute, .vcmple d _ _ _ _ => vecDst d
  | .execute, .vcmpgt d _ _ _ _ => vecDst d
  | .execute, .vcmpge d _ _ _ _ => vecDst d
  | .execute, .vcmpunord d _ _ _ _ => vecDst d
  | .execute, .vmand d _ _ => vecDst d
  | .execute, .vmor d _ _ => vecDst d
  | .execute, .vmxor d _ _ => vecDst d
  | .execute, .vmandn d _ _ => vecDst d
  | .execute, .vmnot d _ => vecDst d
  | .execute, .vmpopc _ _ => true
  | .execute, .vmfirst _ _ => true
  | .execute, .vmset d => vecDst d
  | .execute, .vcvt d _ _ _ t => tagCode t && vecDst d
  | .execute, .vslideup d _ _ _ => vecDst d
  | .execute, .vslidedn d _ _ _ => vecDst d
  | .execute, .vgathr d _ _ _ => vecDst d
  | .execute, .vsend d _ _ _ => vecDst d
  | .execute, .vcmprs d _ _ => vecDst d
  | .execute, .vexpnd d _ _ => vecDst d
  | .execute, .vresh d _ _ _ => vecDst d
  | .execute, .vbcast d _ _ => vecDst d
  | .execute, .vslide1up d _ _ _ => vecDst d
  | .execute, .vslide1dn d _ _ _ => vecDst d
  | .execute, .vredsum _ _ _ _ _ => true
  | .execute, .vredmin _ _ _ _ _ => true
  | .execute, .vredmax _ _ _ _ _ => true
  | .execute, .vredand _ _ _ _ _ => true
  | .execute, .vredor _ _ _ _ _ => true
  | .execute, .vredxor _ _ _ _ _ => true
  | .execute, .vscansum d _ _ _ => vecDst d
  | .execute, .vscanmin d _ _ _ => vecDst d
  | .execute, .vscanmax d _ _ _ => vecDst d
  | .execute, .vfunc d _ _ _ => vecDst d
  | .execute, .vcfg d _ => vecDst d
  | .execute, .vsetvl _ _ _ => true
  | .execute, .vsetvlP _ _ _ => true
  | .execute, .vid d _ => vecDst d
  | .execute, .vsel d _ _ => vecDst d
  | .execute, .vgete _ _ _ => true
  | .execute, .vsete d _ _ => vecDst d
  | .execute, .vsalsel d _ _ _ g _ => decide (g ≠ 3) && vecDst d
  | .execute, .vld d _ _ _ _ _ _ => vecDst d
  | .execute, .vlds d _ _ _ _ _ _ _ => vecDst d
  | .execute, .vldx d _ _ _ _ _ _ _ => vecDst d
  | .execute, .vst _ _ _ _ _ => true
  | .execute, .vsts _ _ _ _ _ _ => true
  | .execute, .vstx _ _ _ _ _ _ => true
  | .execute, .vwin _ _ => true
  | .execute, .vwacc _ _ _ => true
  | .execute, .vwmerge => true
  | .execute, .vlsync => true
  | .execute, .vfence sc k => fenceCodes sc k
  | .execute, .qdrain _ => true
  | .execute, .spalloc _ _ _ => true
  | .execute, .spfree _ => true
  | .execute, .sprenew _ _ => true
  | .execute, .spage _ _ => true
  | .execute, .vfar d a _ => vecDst d && decide (a ≠ 63)
  | .execute, .mma _ a b _ _ _ _ _ => vecReg a && vecReg b
  | .execute, .mld _ _ _ => true
  | .execute, .mst _ _ _ => true
  | .execute, .mzero _ => true
  | .execute, .mwrow _ b => vecReg b
  | .execute, .maddrow _ b => vecReg b
  | .execute, .mwait => true
  | .execute, .mopen _ _ => true
  | .execute, .mclose _ => true
  | .execute, .mstream _ _ _ => true
  | .execute, .msheaf _ _ _ => true
  | .execute, .mgenrel _ _ => true
  | .execute, .mrecut _ _ => true
  | .execute, .mquery _ _ => true
  | .execute, .vsowF32 d _ _ _ => vecDst d && vecDst d
  | .execute, .vsowF64 d _ _ _ => vecDst d && vecDst d
  | .execute, .vsowN32 d _ _ _ => vecDst d && vecDst d
  | .execute, .sowload _ => true
  | .execute, .onew _ _ => true
  | .execute, .odesc _ _ => true
  | .execute, .oexpand _ _ b => vecReg b
  | .execute, .obackup _ _ _ => true
  | .execute, .oreuse _ _ => true
  | .execute, .ofree _ _ => true
  | .execute, .oread _ _ _ => true
  | .execute, .cmdbCopy d _ _ => vecDst d
  | .execute, .cmdbCat d _ _ => vecDst d
  | .execute, .cmdbOrch d _ _ => vecDst d
  | .execute, .tret => true
  | .execute, .ctxsave _ => true
  | .execute, .ctxload _ => true
  | .execute, .xlinv _ _ => true
  | .execute, .wfi => true
  | .execute, .fwcall => true
  | .execute, .haltc _ => true
  | .execute, .haltcRelease _ => false
  | .execute, .ald _ _ _ _ _ _ => false
  | .execute, .aldCl _ => false
  | .execute, .agather _ _ _ _ _ => false
  | .execute, .atrans _ _ _ _ _ => false
  | .execute, .ast _ _ _ _ _ => false
  | .execute, .astCl _ => false
  | .execute, .ascat _ _ _ _ => false
  | .execute, .afar _ _ _ _ => false
  | .execute, .copyCommand _ _ => false
  | .execute, .copyCompletion _ _ => false
  | .execute, .adapt _ _ => false
  | .execute, .adaptStatus _ _ => false
  | .execute, .desc _ _ => false
  | .execute, .expand _ _ => false
  | .execute, .backup _ _ => false
  | .execute, .orchardRequestPerformed _ _ => false
  | .execute, .mopenBuildEnd _ _ => false
  | .execute, .sheafSetBuilt _ _ _ => false
  | .execute, .mrecutStatus _ _ => false
  | .execute, .streamEntry _ _ => false
  | .execute, .chunkResult _ _ _ => false
  | .execute, .sq3Contribution _ => false
  | .execute, .lq7Receive _ => false
  | .execute, .accessContextStop _ => false
  | .execute, .gangRetirement _ => false
  | .execute, .trapEntry _ => false
  | .execute, .suspend _ => false
  | .execute, .killgang _ => false
  | .execute, .killlaunch _ => false
  | .execute, .dhalt _ => false
  | .execute, .resume _ => false
  | .execute, .dresume _ => false
  | .execute, .gangHalt _ => false
  | .execute, .contextCommandStatus _ => false
  | .execute, .version _ => false
  | .execute, .groupset _ => false
  | .execute, .routeset _ => false
  | .execute, .attest _ => false
  | .execute, .linkstat _ => false
  | .execute, .dispatchSample _ => false
  | .execute, .placementStep _ => false
  | .execute, .gleanerBoundary _ => false
  | .execute, .gleanerArrival _ => false
  | .execute, .shelfUnitTick _ => false
  | .execute, .turnerRenewal _ => false
  | .execute, .turnerMiss _ => false
  | .execute, .registerRefresh _ => false
  | .execute, .wcEntryTimeout _ _ => false
  | .execute, .granaryTick => false
  | .execute, .granaryDebit _ => false
  | .execute, .arbiterPeriod _ => false
  | .execute, .clockLower => false
  | .execute, .clockRaise => false
  | .execute, .thermtrip => false
  | .execute, .moduleReset => false
  | .execute, .selfTest => false
  | .execute, .dclTraining => false
  | .execute, .bgo _ _ => false
  | .execute, .imageCopied => false
  | .execute, .fboot _ => false
  | .execute, .dclFailure => false
  | .execute, .portDown _ => false
  | .execute, .cxlPortLost _ => false
  | .execute, .doorbellOrdinary _ _ => false
  | .execute, .doorbellSupervisor _ _ => false
  | .execute, .doorbellDbell _ => false
  | .execute, .eventW1c _ => false
  | .execute, .seventW1c _ => false
  | .execute, .sdstatRead => false
  | .execute, .fpartWrite _ => false
  | .execute, .fgrateWrite _ => false
  | .execute, .fbtabWrite _ _ => false
  | .execute, .fctest _ => false
  | .execute, .frcommit => false
  | .execute, .fsvnWrite _ => false
  | .execute, .fhtest _ => false
  | .execute, .lgmodeWrite _ => false
  | .execute, .qenWrite _ => false
  | .execute, .cgroupWrite _ => false
  | .execute, .csrWrite _ _ => false
  | .execute, .elementGroupCompletion _ _ => false
  | .execute, .matrixUnitCompletion _ _ => false
  | .execute, .accessPerformed _ _ => false
  | .execute, .catalogueAnswer _ => false
  | .execute, .portRetrained _ => false
  | .access, .add d a b => accessReg d && accessReg a && accessReg b
  | .access, .sub d a b => accessReg d && accessReg a && accessReg b
  | .access, .and d a b => accessReg d && accessReg a && accessReg b
  | .access, .or d a b => accessReg d && accessReg a && accessReg b
  | .access, .xor d a b => accessReg d && accessReg a && accessReg b
  | .access, .andn d a b => accessReg d && accessReg a && accessReg b
  | .access, .sll d a b => accessReg d && accessReg a && accessReg b
  | .access, .srl d a b => accessReg d && accessReg a && accessReg b
  | .access, .sra d a b => accessReg d && accessReg a && accessReg b
  | .access, .slt d a b => accessReg d && accessReg a && accessReg b
  | .access, .sltu d a b => accessReg d && accessReg a && accessReg b
  | .access, .seq d a b => accessReg d && accessReg a && accessReg b
  | .access, .min d a b => accessReg d && accessReg a && accessReg b
  | .access, .max d a b => accessReg d && accessReg a && accessReg b
  | .access, .minu d a b => accessReg d && accessReg a && accessReg b
  | .access, .maxu d a b => accessReg d && accessReg a && accessReg b
  | .access, .mul d a b => accessReg d && accessReg a && accessReg b
  | .access, .mulh d a b => accessReg d && accessReg a && accessReg b
  | .access, .mulhu d a b => accessReg d && accessReg a && accessReg b
  | .access, .div d a b => accessReg d && accessReg a && accessReg b
  | .access, .divu d a b => accessReg d && accessReg a && accessReg b
  | .access, .rem d a b => accessReg d && accessReg a && accessReg b
  | .access, .remu d a b => accessReg d && accessReg a && accessReg b
  | .access, .clz d a => accessReg d && accessReg a
  | .access, .ctz d a => accessReg d && accessReg a
  | .access, .popc d a => accessReg d && accessReg a
  | .access, .addi d a _ => accessReg d && accessReg a
  | .access, .andi d a _ => accessReg d && accessReg a
  | .access, .ori d a _ => accessReg d && accessReg a
  | .access, .xori d a _ => accessReg d && accessReg a
  | .access, .slti d a _ => accessReg d && accessReg a
  | .access, .sltiu d a _ => accessReg d && accessReg a
  | .access, .slli d a _ => accessReg d && accessReg a
  | .access, .srli d a _ => accessReg d && accessReg a
  | .access, .srai d a _ => accessReg d && accessReg a
  | .access, .lui d _ => accessReg d
  | .access, .addpc d _ => accessReg d
  | .access, .faddD _ _ _ => false
  | .access, .fsubD _ _ _ => false
  | .access, .fmulD _ _ _ => false
  | .access, .fdivD _ _ _ => false
  | .access, .fsqrtD _ _ => false
  | .access, .fminD _ _ _ => false
  | .access, .fmaxD _ _ _ => false
  | .access, .fsgnjD _ _ _ => false
  | .access, .fsgnjnD _ _ _ => false
  | .access, .fsgnjxD _ _ _ => false
  | .access, .feqD _ _ _ => false
  | .access, .fltD _ _ _ => false
  | .access, .fleD _ _ _ => false
  | .access, .fclassD _ _ => false
  | .access, .fcvtLD _ _ => false
  | .access, .fcvtLuD _ _ => false
  | .access, .fcvtFlD _ _ => false
  | .access, .fcvtFluD _ _ => false
  | .access, .fcvtWD _ _ => false
  | .access, .faddS _ _ _ => false
  | .access, .fsubS _ _ _ => false
  | .access, .fmulS _ _ _ => false
  | .access, .fdivS _ _ _ => false
  | .access, .fsqrtS _ _ => false
  | .access, .fminS _ _ _ => false
  | .access, .fmaxS _ _ _ => false
  | .access, .fsgnjS _ _ _ => false
  | .access, .fsgnjnS _ _ _ => false
  | .access, .fsgnjxS _ _ _ => false
  | .access, .feqS _ _ _ => false
  | .access, .fltS _ _ _ => false
  | .access, .fleS _ _ _ => false
  | .access, .fclassS _ _ => false
  | .access, .fcvtLS _ _ => false
  | .access, .fcvtLuS _ _ => false
  | .access, .fcvtFlS _ _ => false
  | .access, .fcvtFluS _ _ => false
  | .access, .fcvtWS _ _ => false
  | .access, .fmaddD _ _ _ _ => false
  | .access, .fmsubD _ _ _ _ => false
  | .access, .fnmaddD _ _ _ _ => false
  | .access, .fnmsubD _ _ _ _ => false
  | .access, .fmaddS _ _ _ _ => false
  | .access, .fmsubS _ _ _ _ => false
  | .access, .fnmaddS _ _ _ _ => false
  | .access, .fnmsubS _ _ _ _ => false
  | .access, .lb d a _ => accessReg d && accessReg a
  | .access, .lh d a _ => accessReg d && accessReg a
  | .access, .lw d a _ => accessReg d && accessReg a
  | .access, .ld d a _ => accessReg d && accessReg a
  | .access, .lbu d a _ => accessReg d && accessReg a
  | .access, .lhu d a _ => accessReg d && accessReg a
  | .access, .lwu d a _ => accessReg d && accessReg a
  | .access, .sb d a _ _ => accessReg d && accessReg a
  | .access, .sh d a _ _ => accessReg d && accessReg a
  | .access, .sw d a _ _ => accessReg d && accessReg a
  | .access, .sd d a _ _ => accessReg d && accessReg a
  | .access, .lbAq d a sc => scopeCode sc && accessReg d && accessReg a
  | .access, .lhAq d a sc => scopeCode sc && accessReg d && accessReg a
  | .access, .lwAq d a sc => scopeCode sc && accessReg d && accessReg a
  | .access, .ldAq d a sc => scopeCode sc && accessReg d && accessReg a
  | .access, .lbuAq d a sc => scopeCode sc && accessReg d && accessReg a
  | .access, .lhuAq d a sc => scopeCode sc && accessReg d && accessReg a
  | .access, .lwuAq d a sc => scopeCode sc && accessReg d && accessReg a
  | .access, .sbRl d a sc => scopeCode sc && accessReg d && accessReg a
  | .access, .shRl d a sc => scopeCode sc && accessReg d && accessReg a
  | .access, .swRl d a sc => scopeCode sc && accessReg d && accessReg a
  | .access, .sdRl d a sc => scopeCode sc && accessReg d && accessReg a
  | .access, .amoadd d a b _ _ _ => accessReg d && accessReg a && accessReg b
  | .access, .amoswap d a b _ _ _ => accessReg d && accessReg a && accessReg b
  | .access, .amoand d a b _ _ _ => accessReg d && accessReg a && accessReg b
  | .access, .amoor d a b _ _ _ => accessReg d && accessReg a && accessReg b
  | .access, .amoxor d a b _ _ _ => accessReg d && accessReg a && accessReg b
  | .access, .amomin d a b _ _ _ => accessReg d && accessReg a && accessReg b
  | .access, .amomax d a b _ _ _ => accessReg d && accessReg a && accessReg b
  | .access, .amominu d a b _ _ _ => accessReg d && accessReg a && accessReg b
  | .access, .amomaxu d a b _ _ _ => accessReg d && accessReg a && accessReg b
  | .access, .amocas d a b _ _ _ => accessReg d && accessReg a && accessReg b
  | .access, .amoaddTw d a b _ _ _ => accessReg d && accessReg a && accessReg b
  | .access, .amofadd d a b _ _ _ => accessReg d && accessReg a && accessReg b
  | .access, .beq d a _ => accessReg d && accessReg a
  | .access, .bne d a _ => accessReg d && accessReg a
  | .access, .blt d a _ => accessReg d && accessReg a
  | .access, .bge d a _ => accessReg d && accessReg a
  | .access, .bltu d a _ => accessReg d && accessReg a
  | .access, .bgeu d a _ => accessReg d && accessReg a
  | .access, .jal d _ => accessReg d
  | .access, .jalr d a _ => accessReg d && accessReg a
  | .access, .fence sc k => fenceCodes sc k
  | .access, .fenceSv => false
  | .access, .ifence => false
  | .access, .waitw d a b => accessReg d && accessReg a && accessReg b
  | .access, .barsync => false
  | .access, .barrive => false
  | .access, .bardrop => false
  | .access, .barwait => false
  | .access, .csrrw d a _ => accessReg d && accessReg a
  | .access, .csrrs d a _ => accessReg d && accessReg a
  | .access, .csrrc d a _ => accessReg d && accessReg a
  | .access, .taskget _ => false
  | .access, .taskput _ => false
  | .access, .launch _ _ => false
  | .access, .kend => false
  | .access, .accessKend => true
  | .access, .brk => false
  | .access, .bqpop _ _ => false
  | .access, .bqpush _ a => accessReg a
  | .access, .vadd _ a b _ _ _ g l => !l && accessVecSrc a && (if g then accessReg b else accessVecSrc b)
  | .access, .vsub _ a b _ _ _ g l => !l && accessVecSrc a && (if g then accessReg b else accessVecSrc b)
  | .access, .vmul _ a b _ _ _ g l => !l && accessVecSrc a && (if g then accessReg b else accessVecSrc b)
  | .access, .vdiv _ a b _ _ _ g l => !l && accessVecSrc a && (if g then accessReg b else accessVecSrc b)
  | .access, .vmin _ a b _ _ _ g l => !l && accessVecSrc a && (if g then accessReg b else accessVecSrc b)
  | .access, .vmax _ a b _ _ _ g l => !l && accessVecSrc a && (if g then accessReg b else accessVecSrc b)
  | .access, .vsadd _ a b _ _ _ g l => !l && accessVecSrc a && (if g then accessReg b else accessVecSrc b)
  | .access, .vssub _ a b _ _ _ g l => !l && accessVecSrc a && (if g then accessReg b else accessVecSrc b)
  | .access, .vmulh _ a b _ _ _ g l => !l && accessVecSrc a && (if g then accessReg b else accessVecSrc b)
  | .access, .vrem _ a b _ _ _ g l => !l && accessVecSrc a && (if g then accessReg b else accessVecSrc b)
  | .access, .vand _ a b _ _ _ g l => !l && accessVecSrc a && (if g then accessReg b else accessVecSrc b)
  | .access, .vor _ a b _ _ _ g l => !l && accessVecSrc a && (if g then accessReg b else accessVecSrc b)
  | .access, .vxor _ a b _ _ _ g l => !l && accessVecSrc a && (if g then accessReg b else accessVecSrc b)
  | .access, .vsll _ a b _ _ _ g l => !l && accessVecSrc a && (if g then accessReg b else accessVecSrc b)
  | .access, .vshr _ a b _ _ _ g l => !l && accessVecSrc a && (if g then accessReg b else accessVecSrc b)
  | .access, .vsqrt _ a _ _ _ _ l => !l && accessVecSrc a
  | .access, .vabs _ a _ _ _ _ l => !l && accessVecSrc a
  | .access, .vneg _ a _ _ _ _ l => !l && accessVecSrc a
  | .access, .vsgnj _ a b _ _ _ g l => !l && accessVecSrc a && (if g then accessReg b else accessVecSrc b)
  | .access, .vsgnjn _ a b _ _ _ g l => !l && accessVecSrc a && (if g then accessReg b else accessVecSrc b)
  | .access, .vsgnjx _ a b _ _ _ g l => !l && accessVecSrc a && (if g then accessReg b else accessVecSrc b)
  | .access, .vclass _ a _ _ _ _ l => !l && accessVecSrc a
  | .access, .vmv _ a _ _ _ _ l => !l && accessVecSrc a
  | .access, .vfmadd _ _ _ _ _ _ _ => false
  | .access, .vfmsub _ _ _ _ _ _ _ => false
  | .access, .vfnmadd _ _ _ _ _ _ _ => false
  | .access, .vfnmsub _ _ _ _ _ _ _ => false
  | .access, .vaddAcc _ _ _ _ _ _ => false
  | .access, .vsubAcc _ _ _ _ _ _ => false
  | .access, .vmulAcc _ _ _ _ _ _ => false
  | .access, .vdivAcc _ _ _ _ _ _ => false
  | .access, .vminAcc _ _ _ _ _ _ => false
  | .access, .vmaxAcc _ _ _ _ _ _ => false
  | .access, .vsaddAcc _ _ _ _ _ _ => false
  | .access, .vssubAcc _ _ _ _ _ _ => false
  | .access, .vmulhAcc _ _ _ _ _ _ => false
  | .access, .vremAcc _ _ _ _ _ _ => false
  | .access, .vandAcc _ _ _ _ _ _ => false
  | .access, .vorAcc _ _ _ _ _ _ => false
  | .access, .vxorAcc _ _ _ _ _ _ => false
  | .access, .vsllAcc _ _ _ _ _ _ => false
  | .access, .vshrAcc _ _ _ _ _ _ => false
  | .access, .vsqrtAcc _ _ _ _ _ => false
  | .access, .vabsAcc _ _ _ _ _ => false
  | .access, .vnegAcc _ _ _ _ _ => false
  | .access, .vsgnjAcc _ _ _ _ _ _ => false
  | .access, .vsgnjnAcc _ _ _ _ _ _ => false
  | .access, .vsgnjxAcc _ _ _ _ _ _ => false
  | .access, .vclassAcc _ _ _ _ _ => false
  | .access, .vmvAcc _ _ _ _ _ => false
  | .access, .vfmaddAcc _ _ _ _ _ _ => false
  | .access, .vfmsubAcc _ _ _ _ _ _ => false
  | .access, .vfnmaddAcc _ _ _ _ _ _ => false
  | .access, .vfnmsubAcc _ _ _ _ _ _ => false
  | .access, .vcmpeq _ a b _ g => accessVecSrc a && (if g then accessReg b else accessVecSrc b)
  | .access, .vcmpne _ a b _ g => accessVecSrc a && (if g then accessReg b else accessVecSrc b)
  | .access, .vcmplt _ a b _ g => accessVecSrc a && (if g then accessReg b else accessVecSrc b)
  | .access, .vcmple _ a b _ g => accessVecSrc a && (if g then accessReg b else accessVecSrc b)
  | .access, .vcmpgt _ a b _ g => accessVecSrc a && (if g then accessReg b else accessVecSrc b)
  | .access, .vcmpge _ a b _ g => accessVecSrc a && (if g then accessReg b else accessVecSrc b)
  | .access, .vcmpunord _ a b _ g => accessVecSrc a && (if g then accessReg b else accessVecSrc b)
  | .access, .vmand _ a b => accessVecSrc a && accessVecSrc b
  | .access, .vmor _ a b => accessVecSrc a && accessVecSrc b
  | .access, .vmxor _ a b => accessVecSrc a && accessVecSrc b
  | .access, .vmandn _ a b => accessVecSrc a && accessVecSrc b
  | .access, .vmnot _ a => accessVecSrc a
  | .access, .vmpopc d a => accessReg d && accessVecSrc a
  | .access, .vmfirst d a => accessReg d && accessVecSrc a
  | .access, .vmset _ => true
  | .access, .vcvt _ _ _ _ _ => false
  | .access, .vslideup _ a b _ => accessReg b && accessVecSrc a
  | .access, .vslidedn _ a b _ => accessReg b && accessVecSrc a
  | .access, .vgathr _ a b _ => accessVecSrc a && accessVecSrc b
  | .access, .vsend _ a b _ => accessVecSrc a && accessVecSrc b
  | .access, .vcmprs _ a _ => accessVecSrc a
  | .access, .vexpnd _ a _ => accessVecSrc a
  | .access, .vresh _ a _ _ => accessVecSrc a
  | .access, .vbcast _ a _ => accessReg a
  | .access, .vslide1up _ a b _ => accessReg a && accessVecSrc b
  | .access, .vslide1dn _ a b _ => accessReg a && accessVecSrc b
  | .access, .vredsum _ _ _ _ _ => false
  | .access, .vredmin _ _ _ _ _ => false
  | .access, .vredmax _ _ _ _ _ => false
  | .access, .vredand _ _ _ _ _ => false
  | .access, .vredor _ _ _ _ _ => false
  | .access, .vredxor _ _ _ _ _ => false
  | .access, .vscansum _ _ _ _ => false
  | .access, .vscanmin _ _ _ _ => false
  | .access, .vscanmax _ _ _ _ => false
  | .access, .vfunc _ _ _ _ => false
  | .access, .vcfg _ _ => false
  | .access, .vsetvl _ _ _ => false
  | .access, .vsetvlP _ _ _ => false
  | .access, .vid _ _ => true
  | .access, .vsel _ a b => accessVecSrc a && accessVecSrc b
  | .access, .vgete _ _ _ => false
  | .access, .vsete _ _ _ => false
  | .access, .vsalsel _ _ _ _ _ _ => false
  | .access, .vld _ _ _ _ _ _ _ => false
  | .access, .vlds _ _ _ _ _ _ _ _ => false
  | .access, .vldx _ _ _ _ _ _ _ _ => false
  | .access, .vst _ _ _ _ _ => false
  | .access, .vsts _ _ _ _ _ _ => false
  | .access, .vstx _ _ _ _ _ _ => false
  | .access, .vwin _ _ => false
  | .access, .vwacc _ _ _ => false
  | .access, .vwmerge => false
  | .access, .vlsync => false
  | .access, .vfence sc k => fenceCodes sc k
  | .access, .qdrain a => accessReg a
  | .access, .spalloc _ _ _ => false
  | .access, .spfree _ => false
  | .access, .sprenew _ _ => false
  | .access, .spage _ _ => false
  | .access, .vfar _ _ _ => false
  | .access, .mma _ _ _ _ _ _ _ _ => false
  | .access, .mld _ _ _ => false
  | .access, .mst _ _ _ => false
  | .access, .mzero _ => false
  | .access, .mwrow _ _ => false
  | .access, .maddrow _ _ => false
  | .access, .mwait => false
  | .access, .mopen _ _ => false
  | .access, .mclose _ => false
  | .access, .mstream _ a b => accessReg a && accessReg b
  | .access, .msheaf _ _ _ => false
  | .access, .mgenrel _ _ => false
  | .access, .mrecut _ _ => false
  | .access, .mquery _ _ => false
  | .access, .vsowF32 _ _ _ _ => false
  | .access, .vsowF64 _ _ _ _ => false
  | .access, .vsowN32 _ _ _ _ => false
  | .access, .sowload _ => false
  | .access, .onew _ _ => false
  | .access, .odesc _ _ => false
  | .access, .oexpand _ _ _ => false
  | .access, .obackup _ _ _ => false
  | .access, .oreuse _ _ => false
  | .access, .ofree _ _ => false
  | .access, .oread _ _ _ => false
  | .access, .cmdbCopy _ _ _ => false
  | .access, .cmdbCat _ _ _ => false
  | .access, .cmdbOrch _ _ _ => false
  | .access, .tret => false
  | .access, .ctxsave _ => false
  | .access, .ctxload _ => false
  | .access, .xlinv _ _ => false
  | .access, .wfi => false
  | .access, .fwcall => false
  | .access, .haltc _ => false
  | .access, .haltcRelease _ => false
  | .access, .ald _ a b p _ t => accessReg a && accessReg b && tagCode t && (p || decide (b = 0))
  | .access, .aldCl _ => true
  | .access, .agather _ a b _ t => accessReg a && tagCode t && accessVecSrc b
  | .access, .atrans _ a b r t => accessReg a && accessReg b && tagCode t && decide (r ≠ 7)
  | .access, .ast d a b p _ => accessReg a && accessReg b && (p || decide (b = 0)) && accessData d
  | .access, .astCl _ => true
  | .access, .ascat d a b _ => accessReg a && accessData d && accessVecSrc b
  | .access, .afar _ a b _ => accessReg a && decide (a ≠ 31) && accessVecSrc b
  | .access, .copyCommand _ _ => false
  | .access, .copyCompletion _ _ => false
  | .access, .adapt _ _ => false
  | .access, .adaptStatus _ _ => false
  | .access, .desc _ _ => false
  | .access, .expand _ _ => false
  | .access, .backup _ _ => false
  | .access, .orchardRequestPerformed _ _ => false
  | .access, .mopenBuildEnd _ _ => false
  | .access, .sheafSetBuilt _ _ _ => false
  | .access, .mrecutStatus _ _ => false
  | .access, .streamEntry _ _ => false
  | .access, .chunkResult _ _ _ => false
  | .access, .sq3Contribution _ => false
  | .access, .lq7Receive _ => false
  | .access, .accessContextStop _ => false
  | .access, .gangRetirement _ => false
  | .access, .trapEntry _ => false
  | .access, .suspend _ => false
  | .access, .killgang _ => false
  | .access, .killlaunch _ => false
  | .access, .dhalt _ => false
  | .access, .resume _ => false
  | .access, .dresume _ => false
  | .access, .gangHalt _ => false
  | .access, .contextCommandStatus _ => false
  | .access, .version _ => false
  | .access, .groupset _ => false
  | .access, .routeset _ => false
  | .access, .attest _ => false
  | .access, .linkstat _ => false
  | .access, .dispatchSample _ => false
  | .access, .placementStep _ => false
  | .access, .gleanerBoundary _ => false
  | .access, .gleanerArrival _ => false
  | .access, .shelfUnitTick _ => false
  | .access, .turnerRenewal _ => false
  | .access, .turnerMiss _ => false
  | .access, .registerRefresh _ => false
  | .access, .wcEntryTimeout _ _ => false
  | .access, .granaryTick => false
  | .access, .granaryDebit _ => false
  | .access, .arbiterPeriod _ => false
  | .access, .clockLower => false
  | .access, .clockRaise => false
  | .access, .thermtrip => false
  | .access, .moduleReset => false
  | .access, .selfTest => false
  | .access, .dclTraining => false
  | .access, .bgo _ _ => false
  | .access, .imageCopied => false
  | .access, .fboot _ => false
  | .access, .dclFailure => false
  | .access, .portDown _ => false
  | .access, .cxlPortLost _ => false
  | .access, .doorbellOrdinary _ _ => false
  | .access, .doorbellSupervisor _ _ => false
  | .access, .doorbellDbell _ => false
  | .access, .eventW1c _ => false
  | .access, .seventW1c _ => false
  | .access, .sdstatRead => false
  | .access, .fpartWrite _ => false
  | .access, .fgrateWrite _ => false
  | .access, .fbtabWrite _ _ => false
  | .access, .fctest _ => false
  | .access, .frcommit => false
  | .access, .fsvnWrite _ => false
  | .access, .fhtest _ => false
  | .access, .lgmodeWrite _ => false
  | .access, .qenWrite _ => false
  | .access, .cgroupWrite _ => false
  | .access, .csrWrite _ _ => false
  | .access, .elementGroupCompletion _ _ => false
  | .access, .matrixUnitCompletion _ _ => false
  | .access, .accessPerformed _ _ => false
  | .access, .catalogueAnswer _ => false
  | .access, .portRetrained _ => false

end Sys2Proof
end

