-- ==== Sys2Proof/Decode.lean ====
section
/-! DEFINITION. The decoder and the encoder, written from R140 to R153 and R256: the word is split into OP, D, A and
the low 14 bits; each major has a reader of its own. -/

namespace Sys2Proof

/-- Why a word is not an instruction of a context (R143, checks 1 to 4). -/
inductive DecodeError where
  /-- The word 0x0000_0000 (R143, check 1). -/
  | zeroWord
  /-- A major, function, code, must-be-zero field or specifier that the context does not accept. -/
  | illegal
  deriving DecidableEq, Repr

/-- The fields of R140, with B and F kept together as the low 14 bits (R141). -/
structure Fields where
  op : BitVec 6
  d : BitVec 6
  a : BitVec 6
  low : BitVec 14
  deriving DecidableEq, Repr

/-- The fields of a word. -/
def Fields.ofWord (w : Word32) : Fields :=
  { op := w.extractLsb' 26 6, d := w.extractLsb' 20 6, a := w.extractLsb' 14 6, low := w.extractLsb' 0 14 }

/-- The word of the fields. -/
def Fields.word (x : Fields) : Word32 := (x.op ++ x.d ++ x.a ++ x.low : BitVec 32)

/-- Reads majors 0x00: R168, R169. -/
def readMajor00 (x : Fields) : Option Instr :=
  if x.low.extractLsb' 0 8 = 1 then some (.add x.d x.a (x.low.extractLsb' 8 6)) else
  if x.low.extractLsb' 0 8 = 2 then some (.sub x.d x.a (x.low.extractLsb' 8 6)) else
  if x.low.extractLsb' 0 8 = 3 then some (.and x.d x.a (x.low.extractLsb' 8 6)) else
  if x.low.extractLsb' 0 8 = 4 then some (.or x.d x.a (x.low.extractLsb' 8 6)) else
  if x.low.extractLsb' 0 8 = 5 then some (.xor x.d x.a (x.low.extractLsb' 8 6)) else
  if x.low.extractLsb' 0 8 = 6 then some (.andn x.d x.a (x.low.extractLsb' 8 6)) else
  if x.low.extractLsb' 0 8 = 7 then some (.sll x.d x.a (x.low.extractLsb' 8 6)) else
  if x.low.extractLsb' 0 8 = 8 then some (.srl x.d x.a (x.low.extractLsb' 8 6)) else
  if x.low.extractLsb' 0 8 = 9 then some (.sra x.d x.a (x.low.extractLsb' 8 6)) else
  if x.low.extractLsb' 0 8 = 10 then some (.slt x.d x.a (x.low.extractLsb' 8 6)) else
  if x.low.extractLsb' 0 8 = 11 then some (.sltu x.d x.a (x.low.extractLsb' 8 6)) else
  if x.low.extractLsb' 0 8 = 12 then some (.seq x.d x.a (x.low.extractLsb' 8 6)) else
  if x.low.extractLsb' 0 8 = 13 then some (.min x.d x.a (x.low.extractLsb' 8 6)) else
  if x.low.extractLsb' 0 8 = 14 then some (.max x.d x.a (x.low.extractLsb' 8 6)) else
  if x.low.extractLsb' 0 8 = 15 then some (.minu x.d x.a (x.low.extractLsb' 8 6)) else
  if x.low.extractLsb' 0 8 = 16 then some (.maxu x.d x.a (x.low.extractLsb' 8 6)) else
  if x.low.extractLsb' 0 8 = 17 then some (.mul x.d x.a (x.low.extractLsb' 8 6)) else
  if x.low.extractLsb' 0 8 = 18 then some (.mulh x.d x.a (x.low.extractLsb' 8 6)) else
  if x.low.extractLsb' 0 8 = 19 then some (.mulhu x.d x.a (x.low.extractLsb' 8 6)) else
  if x.low.extractLsb' 0 8 = 20 then some (.div x.d x.a (x.low.extractLsb' 8 6)) else
  if x.low.extractLsb' 0 8 = 21 then some (.divu x.d x.a (x.low.extractLsb' 8 6)) else
  if x.low.extractLsb' 0 8 = 22 then some (.rem x.d x.a (x.low.extractLsb' 8 6)) else
  if x.low.extractLsb' 0 8 = 23 then some (.remu x.d x.a (x.low.extractLsb' 8 6)) else
  if x.low = 24 then some (.clz x.d x.a) else
  if x.low = 25 then some (.ctz x.d x.a) else
  if x.low = 26 then some (.popc x.d x.a) else
  none

/-- Reads majors 0x01: R170. -/
def readMajor01 (x : Fields) : Option Instr :=
  some (.addi x.d x.a x.low)

/-- Reads majors 0x02: R170. -/
def readMajor02 (x : Fields) : Option Instr :=
  some (.andi x.d x.a x.low)

/-- Reads majors 0x03: R170. -/
def readMajor03 (x : Fields) : Option Instr :=
  some (.ori x.d x.a x.low)

/-- Reads majors 0x04: R170. -/
def readMajor04 (x : Fields) : Option Instr :=
  some (.xori x.d x.a x.low)

/-- Reads majors 0x05: R170. -/
def readMajor05 (x : Fields) : Option Instr :=
  some (.slti x.d x.a x.low)

/-- Reads majors 0x06: R170. -/
def readMajor06 (x : Fields) : Option Instr :=
  some (.sltiu x.d x.a x.low)

/-- Reads majors 0x07: R170. -/
def readMajor07 (x : Fields) : Option Instr :=
  if x.low.extractLsb' 6 8 = 0 then some (.slli x.d x.a (x.low.extractLsb' 0 6)) else
  none

/-- Reads majors 0x08: R170. -/
def readMajor08 (x : Fields) : Option Instr :=
  if x.low.extractLsb' 6 8 = 0 then some (.srli x.d x.a (x.low.extractLsb' 0 6)) else
  none

/-- Reads majors 0x09: R170. -/
def readMajor09 (x : Fields) : Option Instr :=
  if x.low.extractLsb' 6 8 = 0 then some (.srai x.d x.a (x.low.extractLsb' 0 6)) else
  none

/-- Reads majors 0x0A: R170. -/
def readMajor0A (x : Fields) : Option Instr :=
  some (.lui x.d (x.a ++ x.low : BitVec 20))

/-- Reads majors 0x0B: R170. -/
def readMajor0B (x : Fields) : Option Instr :=
  some (.addpc x.d (x.a ++ x.low : BitVec 20))

/-- Reads majors 0x0C: R172. -/
def readMajor0C (x : Fields) : Option Instr :=
  if x.low.extractLsb' 0 8 = 1 then some (.faddD x.d x.a (x.low.extractLsb' 8 6)) else
  if x.low.extractLsb' 0 8 = 2 then some (.fsubD x.d x.a (x.low.extractLsb' 8 6)) else
  if x.low.extractLsb' 0 8 = 3 then some (.fmulD x.d x.a (x.low.extractLsb' 8 6)) else
  if x.low.extractLsb' 0 8 = 4 then some (.fdivD x.d x.a (x.low.extractLsb' 8 6)) else
  if x.low = 5 then some (.fsqrtD x.d x.a) else
  if x.low.extractLsb' 0 8 = 6 then some (.fminD x.d x.a (x.low.extractLsb' 8 6)) else
  if x.low.extractLsb' 0 8 = 7 then some (.fmaxD x.d x.a (x.low.extractLsb' 8 6)) else
  if x.low.extractLsb' 0 8 = 8 then some (.fsgnjD x.d x.a (x.low.extractLsb' 8 6)) else
  if x.low.extractLsb' 0 8 = 9 then some (.fsgnjnD x.d x.a (x.low.extractLsb' 8 6)) else
  if x.low.extractLsb' 0 8 = 10 then some (.fsgnjxD x.d x.a (x.low.extractLsb' 8 6)) else
  if x.low.extractLsb' 0 8 = 11 then some (.feqD x.d x.a (x.low.extractLsb' 8 6)) else
  if x.low.extractLsb' 0 8 = 12 then some (.fltD x.d x.a (x.low.extractLsb' 8 6)) else
  if x.low.extractLsb' 0 8 = 13 then some (.fleD x.d x.a (x.low.extractLsb' 8 6)) else
  if x.low = 14 then some (.fclassD x.d x.a) else
  if x.low = 16 then some (.fcvtLD x.d x.a) else
  if x.low = 17 then some (.fcvtLuD x.d x.a) else
  if x.low = 18 then some (.fcvtFlD x.d x.a) else
  if x.low = 19 then some (.fcvtFluD x.d x.a) else
  if x.low = 20 then some (.fcvtWD x.d x.a) else
  none

/-- Reads majors 0x0D: R172. -/
def readMajor0D (x : Fields) : Option Instr :=
  if x.low.extractLsb' 0 8 = 1 then some (.faddS x.d x.a (x.low.extractLsb' 8 6)) else
  if x.low.extractLsb' 0 8 = 2 then some (.fsubS x.d x.a (x.low.extractLsb' 8 6)) else
  if x.low.extractLsb' 0 8 = 3 then some (.fmulS x.d x.a (x.low.extractLsb' 8 6)) else
  if x.low.extractLsb' 0 8 = 4 then some (.fdivS x.d x.a (x.low.extractLsb' 8 6)) else
  if x.low = 5 then some (.fsqrtS x.d x.a) else
  if x.low.extractLsb' 0 8 = 6 then some (.fminS x.d x.a (x.low.extractLsb' 8 6)) else
  if x.low.extractLsb' 0 8 = 7 then some (.fmaxS x.d x.a (x.low.extractLsb' 8 6)) else
  if x.low.extractLsb' 0 8 = 8 then some (.fsgnjS x.d x.a (x.low.extractLsb' 8 6)) else
  if x.low.extractLsb' 0 8 = 9 then some (.fsgnjnS x.d x.a (x.low.extractLsb' 8 6)) else
  if x.low.extractLsb' 0 8 = 10 then some (.fsgnjxS x.d x.a (x.low.extractLsb' 8 6)) else
  if x.low.extractLsb' 0 8 = 11 then some (.feqS x.d x.a (x.low.extractLsb' 8 6)) else
  if x.low.extractLsb' 0 8 = 12 then some (.fltS x.d x.a (x.low.extractLsb' 8 6)) else
  if x.low.extractLsb' 0 8 = 13 then some (.fleS x.d x.a (x.low.extractLsb' 8 6)) else
  if x.low = 14 then some (.fclassS x.d x.a) else
  if x.low = 16 then some (.fcvtLS x.d x.a) else
  if x.low = 17 then some (.fcvtLuS x.d x.a) else
  if x.low = 18 then some (.fcvtFlS x.d x.a) else
  if x.low = 19 then some (.fcvtFluS x.d x.a) else
  if x.low = 20 then some (.fcvtWS x.d x.a) else
  none

/-- Reads majors 0x0E: R173. -/
def readMajor0E (x : Fields) : Option Instr :=
  if x.low.extractLsb' 0 2 = 0 then some (.fmaddD x.d x.a (x.low.extractLsb' 8 6) (x.low.extractLsb' 2 6)) else
  if x.low.extractLsb' 0 2 = 1 then some (.fmsubD x.d x.a (x.low.extractLsb' 8 6) (x.low.extractLsb' 2 6)) else
  if x.low.extractLsb' 0 2 = 2 then some (.fnmaddD x.d x.a (x.low.extractLsb' 8 6) (x.low.extractLsb' 2 6)) else
  if x.low.extractLsb' 0 2 = 3 then some (.fnmsubD x.d x.a (x.low.extractLsb' 8 6) (x.low.extractLsb' 2 6)) else
  none

/-- Reads majors 0x0F: R173. -/
def readMajor0F (x : Fields) : Option Instr :=
  if x.low.extractLsb' 0 2 = 0 then some (.fmaddS x.d x.a (x.low.extractLsb' 8 6) (x.low.extractLsb' 2 6)) else
  if x.low.extractLsb' 0 2 = 1 then some (.fmsubS x.d x.a (x.low.extractLsb' 8 6) (x.low.extractLsb' 2 6)) else
  if x.low.extractLsb' 0 2 = 2 then some (.fnmaddS x.d x.a (x.low.extractLsb' 8 6) (x.low.extractLsb' 2 6)) else
  if x.low.extractLsb' 0 2 = 3 then some (.fnmsubS x.d x.a (x.low.extractLsb' 8 6) (x.low.extractLsb' 2 6)) else
  none

/-- Reads majors 0x10: R175. -/
def readMajor10 (x : Fields) : Option Instr :=
  if x.low.extractLsb' 11 3 = 0 then some (.lb x.d x.a (x.low.extractLsb' 0 11)) else
  if x.low.extractLsb' 11 3 = 1 then some (.lh x.d x.a (x.low.extractLsb' 0 11)) else
  if x.low.extractLsb' 11 3 = 2 then some (.lw x.d x.a (x.low.extractLsb' 0 11)) else
  if x.low.extractLsb' 11 3 = 3 then some (.ld x.d x.a (x.low.extractLsb' 0 11)) else
  if x.low.extractLsb' 11 3 = 4 then some (.lbu x.d x.a (x.low.extractLsb' 0 11)) else
  if x.low.extractLsb' 11 3 = 5 then some (.lhu x.d x.a (x.low.extractLsb' 0 11)) else
  if x.low.extractLsb' 11 3 = 6 then some (.lwu x.d x.a (x.low.extractLsb' 0 11)) else
  none

/-- Reads majors 0x11: R175. -/
def readMajor11 (x : Fields) : Option Instr :=
  if x.low.extractLsb' 11 3 = 0 then some (.sb x.d x.a (x.low.getLsbD 10) (x.low.extractLsb' 0 10)) else
  if x.low.extractLsb' 11 3 = 1 then some (.sh x.d x.a (x.low.getLsbD 10) (x.low.extractLsb' 0 10)) else
  if x.low.extractLsb' 11 3 = 2 then some (.sw x.d x.a (x.low.getLsbD 10) (x.low.extractLsb' 0 10)) else
  if x.low.extractLsb' 11 3 = 3 then some (.sd x.d x.a (x.low.getLsbD 10) (x.low.extractLsb' 0 10)) else
  none

/-- Reads majors 0x12: R176. -/
def readMajor12 (x : Fields) : Option Instr :=
  if x.low.extractLsb' 8 6 = 0 ∧ x.low.extractLsb' 0 5 = 0 then some (.lbAq x.d x.a (x.low.extractLsb' 5 3)) else
  if x.low.extractLsb' 8 6 = 0 ∧ x.low.extractLsb' 0 5 = 2 then some (.lhAq x.d x.a (x.low.extractLsb' 5 3)) else
  if x.low.extractLsb' 8 6 = 0 ∧ x.low.extractLsb' 0 5 = 4 then some (.lwAq x.d x.a (x.low.extractLsb' 5 3)) else
  if x.low.extractLsb' 8 6 = 0 ∧ x.low.extractLsb' 0 5 = 6 then some (.ldAq x.d x.a (x.low.extractLsb' 5 3)) else
  if x.low.extractLsb' 8 6 = 0 ∧ x.low.extractLsb' 0 5 = 8 then some (.lbuAq x.d x.a (x.low.extractLsb' 5 3)) else
  if x.low.extractLsb' 8 6 = 0 ∧ x.low.extractLsb' 0 5 = 10 then some (.lhuAq x.d x.a (x.low.extractLsb' 5 3)) else
  if x.low.extractLsb' 8 6 = 0 ∧ x.low.extractLsb' 0 5 = 12 then some (.lwuAq x.d x.a (x.low.extractLsb' 5 3)) else
  if x.low.extractLsb' 8 6 = 0 ∧ x.low.extractLsb' 0 5 = 16 then some (.sbRl x.d x.a (x.low.extractLsb' 5 3)) else
  if x.low.extractLsb' 8 6 = 0 ∧ x.low.extractLsb' 0 5 = 18 then some (.shRl x.d x.a (x.low.extractLsb' 5 3)) else
  if x.low.extractLsb' 8 6 = 0 ∧ x.low.extractLsb' 0 5 = 20 then some (.swRl x.d x.a (x.low.extractLsb' 5 3)) else
  if x.low.extractLsb' 8 6 = 0 ∧ x.low.extractLsb' 0 5 = 22 then some (.sdRl x.d x.a (x.low.extractLsb' 5 3)) else
  none

/-- Reads majors 0x13: R177, R178. -/
def readMajor13 (x : Fields) : Option Instr :=
  if x.low.extractLsb' 4 4 = 0 then some (.amoadd x.d x.a (x.low.extractLsb' 8 6) (x.low.extractLsb' 2 2) (x.low.getLsbD 1) (x.low.getLsbD 0)) else
  if x.low.extractLsb' 4 4 = 1 then some (.amoswap x.d x.a (x.low.extractLsb' 8 6) (x.low.extractLsb' 2 2) (x.low.getLsbD 1) (x.low.getLsbD 0)) else
  if x.low.extractLsb' 4 4 = 2 then some (.amoand x.d x.a (x.low.extractLsb' 8 6) (x.low.extractLsb' 2 2) (x.low.getLsbD 1) (x.low.getLsbD 0)) else
  if x.low.extractLsb' 4 4 = 3 then some (.amoor x.d x.a (x.low.extractLsb' 8 6) (x.low.extractLsb' 2 2) (x.low.getLsbD 1) (x.low.getLsbD 0)) else
  if x.low.extractLsb' 4 4 = 4 then some (.amoxor x.d x.a (x.low.extractLsb' 8 6) (x.low.extractLsb' 2 2) (x.low.getLsbD 1) (x.low.getLsbD 0)) else
  if x.low.extractLsb' 4 4 = 5 then some (.amomin x.d x.a (x.low.extractLsb' 8 6) (x.low.extractLsb' 2 2) (x.low.getLsbD 1) (x.low.getLsbD 0)) else
  if x.low.extractLsb' 4 4 = 6 then some (.amomax x.d x.a (x.low.extractLsb' 8 6) (x.low.extractLsb' 2 2) (x.low.getLsbD 1) (x.low.getLsbD 0)) else
  if x.low.extractLsb' 4 4 = 7 then some (.amominu x.d x.a (x.low.extractLsb' 8 6) (x.low.extractLsb' 2 2) (x.low.getLsbD 1) (x.low.getLsbD 0)) else
  if x.low.extractLsb' 4 4 = 8 then some (.amomaxu x.d x.a (x.low.extractLsb' 8 6) (x.low.extractLsb' 2 2) (x.low.getLsbD 1) (x.low.getLsbD 0)) else
  if x.low.extractLsb' 4 4 = 9 then some (.amocas x.d x.a (x.low.extractLsb' 8 6) (x.low.extractLsb' 2 2) (x.low.getLsbD 1) (x.low.getLsbD 0)) else
  if x.low.extractLsb' 4 4 = 10 then some (.amoaddTw x.d x.a (x.low.extractLsb' 8 6) (x.low.extractLsb' 2 2) (x.low.getLsbD 1) (x.low.getLsbD 0)) else
  if x.low.extractLsb' 4 4 = 11 then some (.amofadd x.d x.a (x.low.extractLsb' 8 6) (x.low.extractLsb' 2 2) (x.low.getLsbD 1) (x.low.getLsbD 0)) else
  none

/-- Reads majors 0x14: R174. -/
def readMajor14 (x : Fields) : Option Instr :=
  some (.beq x.d x.a x.low)

/-- Reads majors 0x15: R174. -/
def readMajor15 (x : Fields) : Option Instr :=
  some (.bne x.d x.a x.low)

/-- Reads majors 0x16: R174. -/
def readMajor16 (x : Fields) : Option Instr :=
  some (.blt x.d x.a x.low)

/-- Reads majors 0x17: R174. -/
def readMajor17 (x : Fields) : Option Instr :=
  some (.bge x.d x.a x.low)

/-- Reads majors 0x18: R174. -/
def readMajor18 (x : Fields) : Option Instr :=
  some (.bltu x.d x.a x.low)

/-- Reads majors 0x19: R174. -/
def readMajor19 (x : Fields) : Option Instr :=
  some (.bgeu x.d x.a x.low)

/-- Reads majors 0x1A: R174. -/
def readMajor1A (x : Fields) : Option Instr :=
  some (.jal x.d (x.a ++ x.low : BitVec 20))

/-- Reads majors 0x1B: R174. -/
def readMajor1B (x : Fields) : Option Instr :=
  some (.jalr x.d x.a x.low)

/-- Reads majors 0x1C: R119, R179, R182, R183, R186. -/
def readMajor1C (x : Fields) : Option Instr :=
  if x.a = 0 ∧ x.low = 1 then some (.fence (x.d.extractLsb' 3 3) (x.d.extractLsb' 0 3)) else
  if x.d = 0 ∧ x.a = 0 ∧ x.low = 2 then some (.fenceSv) else
  if x.d = 0 ∧ x.a = 0 ∧ x.low = 3 then some (.ifence) else
  if x.low.extractLsb' 0 8 = 4 then some (.waitw x.d x.a (x.low.extractLsb' 8 6)) else
  if x.d = 0 ∧ x.a = 0 ∧ x.low = 5 then some (.barsync) else
  if x.d = 0 ∧ x.a = 0 ∧ x.low = 6 then some (.barrive) else
  if x.d = 0 ∧ x.a = 0 ∧ x.low = 7 then some (.bardrop) else
  if x.d = 0 ∧ x.a = 0 ∧ x.low = 8 then some (.barwait) else
  none

/-- Reads majors 0x1D: R184. -/
def readMajor1D (x : Fields) : Option Instr :=
  if x.low.extractLsb' 12 2 = 0 then some (.csrrw x.d x.a (x.low.extractLsb' 0 12)) else
  if x.low.extractLsb' 12 2 = 1 then some (.csrrs x.d x.a (x.low.extractLsb' 0 12)) else
  if x.low.extractLsb' 12 2 = 2 then some (.csrrc x.d x.a (x.low.extractLsb' 0 12)) else
  none

/-- Reads majors 0x1E: R187, R188, R189, R191, R251. -/
def readMajor1EAccess (x : Fields) : Option Instr :=
  if x.a = 0 ∧ x.low = 1 then some (.taskget x.d) else
  if x.d = 0 ∧ x.low = 2 then some (.taskput x.a) else
  if x.low = 3 then some (.launch x.d x.a) else
  if x.d = 0 ∧ x.a = 0 ∧ x.low = 4 then some (.accessKend) else
  if x.d = 0 ∧ x.a = 0 ∧ x.low = 5 then some (.brk) else
  none

/-- Reads majors 0x1F: R192. -/
def readMajor1F (x : Fields) : Option Instr :=
  if x.a.extractLsb' 2 4 = 0 ∧ x.low = 1 then some (.bqpop x.d (x.a.extractLsb' 0 2)) else
  if x.d.extractLsb' 2 4 = 0 ∧ x.low = 2 then some (.bqpush (x.d.extractLsb' 0 2) x.a) else
  none

/-- Reads majors 0x20, 0x21, 0x22, 0x23: R204, R205, R206, R207. -/
def readMajor20 (x : Fields) : Option Instr :=
  if x.low.extractLsb' 0 5 = 0 then some (.vadd x.d x.a (x.low.extractLsb' 8 6) (x.low.getLsbD 7) (x.low.getLsbD 6) (x.low.getLsbD 5) (x.op.getLsbD 1) (x.op.getLsbD 0)) else
  if x.low.extractLsb' 0 5 = 1 then some (.vsub x.d x.a (x.low.extractLsb' 8 6) (x.low.getLsbD 7) (x.low.getLsbD 6) (x.low.getLsbD 5) (x.op.getLsbD 1) (x.op.getLsbD 0)) else
  if x.low.extractLsb' 0 5 = 2 then some (.vmul x.d x.a (x.low.extractLsb' 8 6) (x.low.getLsbD 7) (x.low.getLsbD 6) (x.low.getLsbD 5) (x.op.getLsbD 1) (x.op.getLsbD 0)) else
  if x.low.extractLsb' 0 5 = 3 then some (.vdiv x.d x.a (x.low.extractLsb' 8 6) (x.low.getLsbD 7) (x.low.getLsbD 6) (x.low.getLsbD 5) (x.op.getLsbD 1) (x.op.getLsbD 0)) else
  if x.low.extractLsb' 0 5 = 4 then some (.vmin x.d x.a (x.low.extractLsb' 8 6) (x.low.getLsbD 7) (x.low.getLsbD 6) (x.low.getLsbD 5) (x.op.getLsbD 1) (x.op.getLsbD 0)) else
  if x.low.extractLsb' 0 5 = 5 then some (.vmax x.d x.a (x.low.extractLsb' 8 6) (x.low.getLsbD 7) (x.low.getLsbD 6) (x.low.getLsbD 5) (x.op.getLsbD 1) (x.op.getLsbD 0)) else
  if x.low.extractLsb' 0 5 = 6 then some (.vsadd x.d x.a (x.low.extractLsb' 8 6) (x.low.getLsbD 7) (x.low.getLsbD 6) (x.low.getLsbD 5) (x.op.getLsbD 1) (x.op.getLsbD 0)) else
  if x.low.extractLsb' 0 5 = 7 then some (.vssub x.d x.a (x.low.extractLsb' 8 6) (x.low.getLsbD 7) (x.low.getLsbD 6) (x.low.getLsbD 5) (x.op.getLsbD 1) (x.op.getLsbD 0)) else
  if x.low.extractLsb' 0 5 = 8 then some (.vmulh x.d x.a (x.low.extractLsb' 8 6) (x.low.getLsbD 7) (x.low.getLsbD 6) (x.low.getLsbD 5) (x.op.getLsbD 1) (x.op.getLsbD 0)) else
  if x.low.extractLsb' 0 5 = 9 then some (.vrem x.d x.a (x.low.extractLsb' 8 6) (x.low.getLsbD 7) (x.low.getLsbD 6) (x.low.getLsbD 5) (x.op.getLsbD 1) (x.op.getLsbD 0)) else
  if x.low.extractLsb' 0 5 = 10 then some (.vand x.d x.a (x.low.extractLsb' 8 6) (x.low.getLsbD 7) (x.low.getLsbD 6) (x.low.getLsbD 5) (x.op.getLsbD 1) (x.op.getLsbD 0)) else
  if x.low.extractLsb' 0 5 = 11 then some (.vor x.d x.a (x.low.extractLsb' 8 6) (x.low.getLsbD 7) (x.low.getLsbD 6) (x.low.getLsbD 5) (x.op.getLsbD 1) (x.op.getLsbD 0)) else
  if x.low.extractLsb' 0 5 = 12 then some (.vxor x.d x.a (x.low.extractLsb' 8 6) (x.low.getLsbD 7) (x.low.getLsbD 6) (x.low.getLsbD 5) (x.op.getLsbD 1) (x.op.getLsbD 0)) else
  if x.low.extractLsb' 0 5 = 13 then some (.vsll x.d x.a (x.low.extractLsb' 8 6) (x.low.getLsbD 7) (x.low.getLsbD 6) (x.low.getLsbD 5) (x.op.getLsbD 1) (x.op.getLsbD 0)) else
  if x.low.extractLsb' 0 5 = 14 then some (.vshr x.d x.a (x.low.extractLsb' 8 6) (x.low.getLsbD 7) (x.low.getLsbD 6) (x.low.getLsbD 5) (x.op.getLsbD 1) (x.op.getLsbD 0)) else
  if x.low.extractLsb' 8 6 = 0 ∧ x.low.extractLsb' 0 5 = 15 then some (.vsqrt x.d x.a (x.low.getLsbD 7) (x.low.getLsbD 6) (x.low.getLsbD 5) (x.op.getLsbD 1) (x.op.getLsbD 0)) else
  if x.low.extractLsb' 8 6 = 0 ∧ x.low.extractLsb' 0 5 = 16 then some (.vabs x.d x.a (x.low.getLsbD 7) (x.low.getLsbD 6) (x.low.getLsbD 5) (x.op.getLsbD 1) (x.op.getLsbD 0)) else
  if x.low.extractLsb' 8 6 = 0 ∧ x.low.extractLsb' 0 5 = 17 then some (.vneg x.d x.a (x.low.getLsbD 7) (x.low.getLsbD 6) (x.low.getLsbD 5) (x.op.getLsbD 1) (x.op.getLsbD 0)) else
  if x.low.extractLsb' 0 5 = 18 then some (.vsgnj x.d x.a (x.low.extractLsb' 8 6) (x.low.getLsbD 7) (x.low.getLsbD 6) (x.low.getLsbD 5) (x.op.getLsbD 1) (x.op.getLsbD 0)) else
  if x.low.extractLsb' 0 5 = 19 then some (.vsgnjn x.d x.a (x.low.extractLsb' 8 6) (x.low.getLsbD 7) (x.low.getLsbD 6) (x.low.getLsbD 5) (x.op.getLsbD 1) (x.op.getLsbD 0)) else
  if x.low.extractLsb' 0 5 = 20 then some (.vsgnjx x.d x.a (x.low.extractLsb' 8 6) (x.low.getLsbD 7) (x.low.getLsbD 6) (x.low.getLsbD 5) (x.op.getLsbD 1) (x.op.getLsbD 0)) else
  if x.low.extractLsb' 8 6 = 0 ∧ x.low.extractLsb' 0 5 = 21 then some (.vclass x.d x.a (x.low.getLsbD 7) (x.low.getLsbD 6) (x.low.getLsbD 5) (x.op.getLsbD 1) (x.op.getLsbD 0)) else
  if x.low.extractLsb' 8 6 = 0 ∧ x.low.extractLsb' 0 5 = 22 then some (.vmv x.d x.a (x.low.getLsbD 7) (x.low.getLsbD 6) (x.low.getLsbD 5) (x.op.getLsbD 1) (x.op.getLsbD 0)) else
  none

/-- Reads majors 0x24, 0x25: R208. -/
noncomputable def readMajor24 (x : Fields) : Option Instr :=
  if x.low.extractLsb' 0 5 = 0 then some (.vfmadd x.d x.a (x.low.extractLsb' 8 6) (x.low.getLsbD 7) (x.low.getLsbD 6) (x.low.getLsbD 5) (x.op.getLsbD 0)) else
  if x.low.extractLsb' 0 5 = 1 then some (.vfmsub x.d x.a (x.low.extractLsb' 8 6) (x.low.getLsbD 7) (x.low.getLsbD 6) (x.low.getLsbD 5) (x.op.getLsbD 0)) else
  if x.low.extractLsb' 0 5 = 2 then some (.vfnmadd x.d x.a (x.low.extractLsb' 8 6) (x.low.getLsbD 7) (x.low.getLsbD 6) (x.low.getLsbD 5) (x.op.getLsbD 0)) else
  if x.low.extractLsb' 0 5 = 3 then some (.vfnmsub x.d x.a (x.low.extractLsb' 8 6) (x.low.getLsbD 7) (x.low.getLsbD 6) (x.low.getLsbD 5) (x.op.getLsbD 0)) else
  none

/-- Reads majors 0x26: R210. -/
noncomputable def readMajor26 (x : Fields) : Option Instr :=
  if x.low.extractLsb' 6 2 = 0 ∧ x.low.extractLsb' 0 4 = 0 then some (.vcmpeq x.d x.a (x.low.extractLsb' 8 6) (x.low.getLsbD 5) (x.low.getLsbD 4)) else
  if x.low.extractLsb' 6 2 = 0 ∧ x.low.extractLsb' 0 4 = 1 then some (.vcmpne x.d x.a (x.low.extractLsb' 8 6) (x.low.getLsbD 5) (x.low.getLsbD 4)) else
  if x.low.extractLsb' 6 2 = 0 ∧ x.low.extractLsb' 0 4 = 2 then some (.vcmplt x.d x.a (x.low.extractLsb' 8 6) (x.low.getLsbD 5) (x.low.getLsbD 4)) else
  if x.low.extractLsb' 6 2 = 0 ∧ x.low.extractLsb' 0 4 = 3 then some (.vcmple x.d x.a (x.low.extractLsb' 8 6) (x.low.getLsbD 5) (x.low.getLsbD 4)) else
  if x.low.extractLsb' 6 2 = 0 ∧ x.low.extractLsb' 0 4 = 4 then some (.vcmpgt x.d x.a (x.low.extractLsb' 8 6) (x.low.getLsbD 5) (x.low.getLsbD 4)) else
  if x.low.extractLsb' 6 2 = 0 ∧ x.low.extractLsb' 0 4 = 5 then some (.vcmpge x.d x.a (x.low.extractLsb' 8 6) (x.low.getLsbD 5) (x.low.getLsbD 4)) else
  if x.low.extractLsb' 6 2 = 0 ∧ x.low.extractLsb' 0 4 = 6 then some (.vcmpunord x.d x.a (x.low.extractLsb' 8 6) (x.low.getLsbD 5) (x.low.getLsbD 4)) else
  none

/-- Reads majors 0x27: R211. -/
noncomputable def readMajor27 (x : Fields) : Option Instr :=
  if x.low.extractLsb' 0 8 = 0 then some (.vmand x.d x.a (x.low.extractLsb' 8 6)) else
  if x.low.extractLsb' 0 8 = 1 then some (.vmor x.d x.a (x.low.extractLsb' 8 6)) else
  if x.low.extractLsb' 0 8 = 2 then some (.vmxor x.d x.a (x.low.extractLsb' 8 6)) else
  if x.low.extractLsb' 0 8 = 3 then some (.vmandn x.d x.a (x.low.extractLsb' 8 6)) else
  if x.low = 4 then some (.vmnot x.d x.a) else
  if x.low = 5 then some (.vmpopc x.d x.a) else
  if x.low = 6 then some (.vmfirst x.d x.a) else
  if x.a = 0 ∧ x.low = 7 then some (.vmset x.d) else
  none

/-- Reads majors 0x28: R214. -/
noncomputable def readMajor28 (x : Fields) : Option Instr :=
  if x.low.extractLsb' 7 7 = 0 then some (.vcvt x.d x.a (x.low.getLsbD 6) (x.low.getLsbD 5) (x.low.extractLsb' 0 5)) else
  none

/-- Reads majors 0x29: R215, R216, R217, R218, R219. -/
noncomputable def readMajor29 (x : Fields) : Option Instr :=
  if x.low.extractLsb' 6 2 = 0 ∧ x.low.extractLsb' 0 5 = 0 then some (.vslideup x.d x.a (x.low.extractLsb' 8 6) (x.low.getLsbD 5)) else
  if x.low.extractLsb' 6 2 = 0 ∧ x.low.extractLsb' 0 5 = 1 then some (.vslidedn x.d x.a (x.low.extractLsb' 8 6) (x.low.getLsbD 5)) else
  if x.low.extractLsb' 6 2 = 0 ∧ x.low.extractLsb' 0 5 = 2 then some (.vgathr x.d x.a (x.low.extractLsb' 8 6) (x.low.getLsbD 5)) else
  if x.low.extractLsb' 6 2 = 0 ∧ x.low.extractLsb' 0 5 = 3 then some (.vsend x.d x.a (x.low.extractLsb' 8 6) (x.low.getLsbD 5)) else
  if x.low.extractLsb' 6 8 = 0 ∧ x.low.extractLsb' 0 5 = 4 then some (.vcmprs x.d x.a (x.low.getLsbD 5)) else
  if x.low.extractLsb' 6 8 = 0 ∧ x.low.extractLsb' 0 5 = 5 then some (.vexpnd x.d x.a (x.low.getLsbD 5)) else
  if x.low.extractLsb' 6 2 = 0 ∧ x.low.extractLsb' 0 5 = 6 then some (.vresh x.d x.a (x.low.extractLsb' 8 6) (x.low.getLsbD 5)) else
  if x.low.extractLsb' 6 8 = 0 ∧ x.low.extractLsb' 0 5 = 7 then some (.vbcast x.d x.a (x.low.getLsbD 5)) else
  if x.low.extractLsb' 6 2 = 0 ∧ x.low.extractLsb' 0 5 = 8 then some (.vslide1up x.d x.a (x.low.extractLsb' 8 6) (x.low.getLsbD 5)) else
  if x.low.extractLsb' 6 2 = 0 ∧ x.low.extractLsb' 0 5 = 9 then some (.vslide1dn x.d x.a (x.low.extractLsb' 8 6) (x.low.getLsbD 5)) else
  none

/-- Reads majors 0x2A: R220, R221. -/
noncomputable def readMajor2A (x : Fields) : Option Instr :=
  if x.low.extractLsb' 7 1 = 0 ∧ x.low.extractLsb' 0 5 = 0 then some (.vredsum x.d x.a (x.low.extractLsb' 8 6) (x.low.getLsbD 6) (x.low.getLsbD 5)) else
  if x.low.extractLsb' 7 1 = 0 ∧ x.low.extractLsb' 0 5 = 1 then some (.vredmin x.d x.a (x.low.extractLsb' 8 6) (x.low.getLsbD 6) (x.low.getLsbD 5)) else
  if x.low.extractLsb' 7 1 = 0 ∧ x.low.extractLsb' 0 5 = 2 then some (.vredmax x.d x.a (x.low.extractLsb' 8 6) (x.low.getLsbD 6) (x.low.getLsbD 5)) else
  if x.low.extractLsb' 7 1 = 0 ∧ x.low.extractLsb' 0 5 = 3 then some (.vredand x.d x.a (x.low.extractLsb' 8 6) (x.low.getLsbD 6) (x.low.getLsbD 5)) else
  if x.low.extractLsb' 7 1 = 0 ∧ x.low.extractLsb' 0 5 = 4 then some (.vredor x.d x.a (x.low.extractLsb' 8 6) (x.low.getLsbD 6) (x.low.getLsbD 5)) else
  if x.low.extractLsb' 7 1 = 0 ∧ x.low.extractLsb' 0 5 = 5 then some (.vredxor x.d x.a (x.low.extractLsb' 8 6) (x.low.getLsbD 6) (x.low.getLsbD 5)) else
  if x.low.extractLsb' 7 7 = 0 ∧ x.low.extractLsb' 0 5 = 8 then some (.vscansum x.d x.a (x.low.getLsbD 6) (x.low.getLsbD 5)) else
  if x.low.extractLsb' 7 7 = 0 ∧ x.low.extractLsb' 0 5 = 9 then some (.vscanmin x.d x.a (x.low.getLsbD 6) (x.low.getLsbD 5)) else
  if x.low.extractLsb' 7 7 = 0 ∧ x.low.extractLsb' 0 5 = 10 then some (.vscanmax x.d x.a (x.low.getLsbD 6) (x.low.getLsbD 5)) else
  none

/-- Reads majors 0x2B: R223. -/
noncomputable def readMajor2B (x : Fields) : Option Instr :=
  if x.low.extractLsb' 6 8 = 0 then some (.vfunc x.d x.a (x.low.getLsbD 5) (x.low.extractLsb' 0 5)) else
  none

/-- Reads majors 0x2C: R200, R201, R202. -/
noncomputable def readMajor2C (x : Fields) : Option Instr :=
  if x.low = 0 then some (.vcfg x.d x.a) else
  if x.low.extractLsb' 0 8 = 1 then some (.vsetvl x.d x.a (x.low.extractLsb' 8 6)) else
  if x.low.extractLsb' 0 8 = 2 then some (.vsetvlP x.d x.a (x.low.extractLsb' 8 6)) else
  none

/-- Reads majors 0x2D: R209. -/
noncomputable def readMajor2D (x : Fields) : Option Instr :=
  if x.low.extractLsb' 0 5 = 0 then some (.vaddAcc x.d x.a (x.low.extractLsb' 8 6) (x.low.getLsbD 7) (x.low.getLsbD 6) (x.low.getLsbD 5)) else
  if x.low.extractLsb' 0 5 = 1 then some (.vsubAcc x.d x.a (x.low.extractLsb' 8 6) (x.low.getLsbD 7) (x.low.getLsbD 6) (x.low.getLsbD 5)) else
  if x.low.extractLsb' 0 5 = 2 then some (.vmulAcc x.d x.a (x.low.extractLsb' 8 6) (x.low.getLsbD 7) (x.low.getLsbD 6) (x.low.getLsbD 5)) else
  if x.low.extractLsb' 0 5 = 3 then some (.vdivAcc x.d x.a (x.low.extractLsb' 8 6) (x.low.getLsbD 7) (x.low.getLsbD 6) (x.low.getLsbD 5)) else
  if x.low.extractLsb' 0 5 = 4 then some (.vminAcc x.d x.a (x.low.extractLsb' 8 6) (x.low.getLsbD 7) (x.low.getLsbD 6) (x.low.getLsbD 5)) else
  if x.low.extractLsb' 0 5 = 5 then some (.vmaxAcc x.d x.a (x.low.extractLsb' 8 6) (x.low.getLsbD 7) (x.low.getLsbD 6) (x.low.getLsbD 5)) else
  if x.low.extractLsb' 0 5 = 6 then some (.vsaddAcc x.d x.a (x.low.extractLsb' 8 6) (x.low.getLsbD 7) (x.low.getLsbD 6) (x.low.getLsbD 5)) else
  if x.low.extractLsb' 0 5 = 7 then some (.vssubAcc x.d x.a (x.low.extractLsb' 8 6) (x.low.getLsbD 7) (x.low.getLsbD 6) (x.low.getLsbD 5)) else
  if x.low.extractLsb' 0 5 = 8 then some (.vmulhAcc x.d x.a (x.low.extractLsb' 8 6) (x.low.getLsbD 7) (x.low.getLsbD 6) (x.low.getLsbD 5)) else
  if x.low.extractLsb' 0 5 = 9 then some (.vremAcc x.d x.a (x.low.extractLsb' 8 6) (x.low.getLsbD 7) (x.low.getLsbD 6) (x.low.getLsbD 5)) else
  if x.low.extractLsb' 0 5 = 10 then some (.vandAcc x.d x.a (x.low.extractLsb' 8 6) (x.low.getLsbD 7) (x.low.getLsbD 6) (x.low.getLsbD 5)) else
  if x.low.extractLsb' 0 5 = 11 then some (.vorAcc x.d x.a (x.low.extractLsb' 8 6) (x.low.getLsbD 7) (x.low.getLsbD 6) (x.low.getLsbD 5)) else
  if x.low.extractLsb' 0 5 = 12 then some (.vxorAcc x.d x.a (x.low.extractLsb' 8 6) (x.low.getLsbD 7) (x.low.getLsbD 6) (x.low.getLsbD 5)) else
  if x.low.extractLsb' 0 5 = 13 then some (.vsllAcc x.d x.a (x.low.extractLsb' 8 6) (x.low.getLsbD 7) (x.low.getLsbD 6) (x.low.getLsbD 5)) else
  if x.low.extractLsb' 0 5 = 14 then some (.vshrAcc x.d x.a (x.low.extractLsb' 8 6) (x.low.getLsbD 7) (x.low.getLsbD 6) (x.low.getLsbD 5)) else
  if x.low.extractLsb' 8 6 = 0 ∧ x.low.extractLsb' 0 5 = 15 then some (.vsqrtAcc x.d x.a (x.low.getLsbD 7) (x.low.getLsbD 6) (x.low.getLsbD 5)) else
  if x.low.extractLsb' 8 6 = 0 ∧ x.low.extractLsb' 0 5 = 16 then some (.vabsAcc x.d x.a (x.low.getLsbD 7) (x.low.getLsbD 6) (x.low.getLsbD 5)) else
  if x.low.extractLsb' 8 6 = 0 ∧ x.low.extractLsb' 0 5 = 17 then some (.vnegAcc x.d x.a (x.low.getLsbD 7) (x.low.getLsbD 6) (x.low.getLsbD 5)) else
  if x.low.extractLsb' 0 5 = 18 then some (.vsgnjAcc x.d x.a (x.low.extractLsb' 8 6) (x.low.getLsbD 7) (x.low.getLsbD 6) (x.low.getLsbD 5)) else
  if x.low.extractLsb' 0 5 = 19 then some (.vsgnjnAcc x.d x.a (x.low.extractLsb' 8 6) (x.low.getLsbD 7) (x.low.getLsbD 6) (x.low.getLsbD 5)) else
  if x.low.extractLsb' 0 5 = 20 then some (.vsgnjxAcc x.d x.a (x.low.extractLsb' 8 6) (x.low.getLsbD 7) (x.low.getLsbD 6) (x.low.getLsbD 5)) else
  if x.low.extractLsb' 8 6 = 0 ∧ x.low.extractLsb' 0 5 = 21 then some (.vclassAcc x.d x.a (x.low.getLsbD 7) (x.low.getLsbD 6) (x.low.getLsbD 5)) else
  if x.low.extractLsb' 8 6 = 0 ∧ x.low.extractLsb' 0 5 = 22 then some (.vmvAcc x.d x.a (x.low.getLsbD 7) (x.low.getLsbD 6) (x.low.getLsbD 5)) else
  none

/-- Reads majors 0x2E: R208. -/
noncomputable def readMajor2E (x : Fields) : Option Instr :=
  if x.low.extractLsb' 0 5 = 0 then some (.vfmaddAcc x.d x.a (x.low.extractLsb' 8 6) (x.low.getLsbD 7) (x.low.getLsbD 6) (x.low.getLsbD 5)) else
  if x.low.extractLsb' 0 5 = 1 then some (.vfmsubAcc x.d x.a (x.low.extractLsb' 8 6) (x.low.getLsbD 7) (x.low.getLsbD 6) (x.low.getLsbD 5)) else
  if x.low.extractLsb' 0 5 = 2 then some (.vfnmaddAcc x.d x.a (x.low.extractLsb' 8 6) (x.low.getLsbD 7) (x.low.getLsbD 6) (x.low.getLsbD 5)) else
  if x.low.extractLsb' 0 5 = 3 then some (.vfnmsubAcc x.d x.a (x.low.extractLsb' 8 6) (x.low.getLsbD 7) (x.low.getLsbD 6) (x.low.getLsbD 5)) else
  none

/-- Reads majors 0x2F: R212, R213. -/
noncomputable def readMajor2F (x : Fields) : Option Instr :=
  if x.a = 0 ∧ x.low.extractLsb' 6 8 = 0 ∧ x.low.extractLsb' 0 5 = 0 then some (.vid x.d (x.low.getLsbD 5)) else
  if x.low.extractLsb' 0 8 = 1 then some (.vsel x.d x.a (x.low.extractLsb' 8 6)) else
  if x.low.extractLsb' 0 8 = 5 then some (.vgete x.d x.a (x.low.extractLsb' 8 6)) else
  if x.low.extractLsb' 0 8 = 6 then some (.vsete x.d x.a (x.low.extractLsb' 8 6)) else
  if x.low.extractLsb' 6 2 = 0 ∧ x.low.extractLsb' 4 1 = 1 then some (.vsalsel x.d x.a (x.low.extractLsb' 8 6) (x.low.getLsbD 5) (x.low.extractLsb' 2 2) (x.low.extractLsb' 0 2)) else
  none

/-- Reads majors 0x30: R257, R265. -/
noncomputable def readMajor30Access (x : Fields) : Option Instr :=
  if x.low.extractLsb' 6 1 = 0 then some (.ald x.d x.a (x.low.extractLsb' 8 6) (x.low.getLsbD 7) (x.low.getLsbD 5) (x.low.extractLsb' 0 5)) else
  if x.d.extractLsb' 3 3 = 7 ∧ x.a = 0 ∧ x.low = 64 then some (.aldCl (x.d.extractLsb' 0 3)) else
  none

/-- Reads majors 0x31: R257. -/
noncomputable def readMajor31Access (x : Fields) : Option Instr :=
  if x.low.extractLsb' 6 2 = 0 then some (.agather x.d x.a (x.low.extractLsb' 8 6) (x.low.getLsbD 5) (x.low.extractLsb' 0 5)) else
  none

/-- Reads majors 0x32: R257. -/
noncomputable def readMajor32Access (x : Fields) : Option Instr :=
  some (.atrans x.d x.a (x.low.extractLsb' 8 6) (x.low.extractLsb' 5 3) (x.low.extractLsb' 0 5))

/-- Reads majors 0x33: R257, R265. -/
noncomputable def readMajor33Access (x : Fields) : Option Instr :=
  if x.low.extractLsb' 6 1 = 0 ∧ x.low.extractLsb' 0 5 = 0 then some (.ast x.d x.a (x.low.extractLsb' 8 6) (x.low.getLsbD 7) (x.low.getLsbD 5)) else
  if x.d.extractLsb' 2 4 = 14 ∧ x.a = 0 ∧ x.low = 64 then some (.astCl (x.d.extractLsb' 0 2)) else
  none

/-- Reads majors 0x34: R257. -/
noncomputable def readMajor34Access (x : Fields) : Option Instr :=
  if x.low.extractLsb' 6 2 = 0 ∧ x.low.extractLsb' 0 5 = 0 then some (.ascat x.d x.a (x.low.extractLsb' 8 6) (x.low.getLsbD 5)) else
  none

/-- Reads majors 0x35: R260. -/
noncomputable def readMajor35Access (x : Fields) : Option Instr :=
  if x.low.extractLsb' 6 2 = 0 ∧ x.low.extractLsb' 0 5 = 0 then some (.afar x.d x.a (x.low.extractLsb' 8 6) (x.low.getLsbD 5)) else
  none

/-- Reads majors 0x36: R235, R237, R238. -/
noncomputable def readMajor36 (x : Fields) : Option Instr :=
  if x.d = 0 ∧ x.low.extractLsb' 0 8 = 0 then some (.vwin x.a (x.low.extractLsb' 8 6)) else
  if x.d = 0 ∧ x.low.extractLsb' 6 2 = 0 ∧ x.low.extractLsb' 0 5 = 1 then some (.vwacc x.a (x.low.extractLsb' 8 6) (x.low.getLsbD 5)) else
  if x.d = 0 ∧ x.a = 0 ∧ x.low = 2 then some (.vwmerge) else
  none

/-- Reads majors 0x37: R232, R233, R234, R239, R240, R241, R260. -/
noncomputable def readMajor37 (x : Fields) : Option Instr :=
  if x.d = 0 ∧ x.a = 0 ∧ x.low = 0 then some (.vlsync) else
  if x.a = 0 ∧ x.low = 1 then some (.vfence (x.d.extractLsb' 3 3) (x.d.extractLsb' 0 3)) else
  if x.d = 0 ∧ x.low = 2 then some (.qdrain x.a) else
  if x.low.extractLsb' 0 8 = 3 then some (.spalloc x.d x.a (x.low.extractLsb' 8 6)) else
  if x.d = 0 ∧ x.low = 4 then some (.spfree x.a) else
  if x.low = 5 then some (.sprenew x.d x.a) else
  if x.low = 6 then some (.spage x.d x.a) else
  if x.low.extractLsb' 0 8 = 7 then some (.vfar x.d x.a (x.low.extractLsb' 8 6)) else
  none

/-- Reads majors 0x38: R281. -/
noncomputable def readMajor38 (x : Fields) : Option Instr :=
  if x.d.extractLsb' 4 2 = 0 ∧ x.low.extractLsb' 5 3 = 0 then some (.mma (x.d.extractLsb' 0 4) x.a (x.low.extractLsb' 8 6) (x.low.getLsbD 4) (x.low.getLsbD 3) (x.low.getLsbD 2) (x.low.getLsbD 1) (x.low.getLsbD 0)) else
  none

/-- Reads majors 0x39: R285, R286. -/
noncomputable def readMajor39 (x : Fields) : Option Instr :=
  if x.d.extractLsb' 4 2 = 0 ∧ x.low.extractLsb' 0 8 = 0 then some (.mld (x.d.extractLsb' 0 4) x.a (x.low.extractLsb' 8 6)) else
  if x.d.extractLsb' 4 2 = 0 ∧ x.low.extractLsb' 0 8 = 1 then some (.mst (x.d.extractLsb' 0 4) x.a (x.low.extractLsb' 8 6)) else
  if x.d.extractLsb' 4 2 = 0 ∧ x.a = 0 ∧ x.low = 2 then some (.mzero (x.d.extractLsb' 0 4)) else
  none

/-- Reads majors 0x3A: R289. -/
noncomputable def readMajor3A (x : Fields) : Option Instr :=
  if x.d = 0 ∧ x.low.extractLsb' 0 8 = 0 then some (.mwrow x.a (x.low.extractLsb' 8 6)) else
  if x.d = 0 ∧ x.low.extractLsb' 0 8 = 1 then some (.maddrow x.a (x.low.extractLsb' 8 6)) else
  none

/-- Reads majors 0x3B: R275. -/
noncomputable def readMajor3B (x : Fields) : Option Instr :=
  if x.d = 0 ∧ x.a = 0 ∧ x.low = 0 then some (.mwait) else
  none

/-- Reads majors 0x3C: R301, R305, R306, R307, R311, R312, R333. -/
noncomputable def readMajor3C (x : Fields) : Option Instr :=
  if x.low = 0 then some (.mopen x.d x.a) else
  if x.d = 0 ∧ x.low = 1 then some (.mclose x.a) else
  if x.d.extractLsb' 3 3 = 7 ∧ x.low.extractLsb' 0 8 = 2 then some (.mstream (x.d.extractLsb' 0 3) x.a (x.low.extractLsb' 8 6)) else
  if x.low.extractLsb' 0 8 = 3 then some (.msheaf x.d x.a (x.low.extractLsb' 8 6)) else
  if x.d = 0 ∧ x.low.extractLsb' 0 8 = 4 then some (.mgenrel x.a (x.low.extractLsb' 8 6)) else
  if x.low = 5 then some (.mrecut x.d x.a) else
  if x.low = 6 then some (.mquery x.d x.a) else
  none

/-- Reads majors 0x3D: R341, R342, R351, R352, R353, R354, R355, R356, R357. -/
noncomputable def readMajor3D (x : Fields) : Option Instr :=
  if x.low.extractLsb' 6 2 = 0 ∧ x.low.extractLsb' 0 5 = 0 then some (.vsowF32 x.d x.a (x.low.extractLsb' 8 6) (x.low.getLsbD 5)) else
  if x.low.extractLsb' 6 2 = 0 ∧ x.low.extractLsb' 0 5 = 1 then some (.vsowF64 x.d x.a (x.low.extractLsb' 8 6) (x.low.getLsbD 5)) else
  if x.low.extractLsb' 6 2 = 0 ∧ x.low.extractLsb' 0 5 = 2 then some (.vsowN32 x.d x.a (x.low.extractLsb' 8 6) (x.low.getLsbD 5)) else
  if x.d = 0 ∧ x.low = 4 then some (.sowload x.a) else
  if x.low = 8 then some (.onew x.d x.a) else
  if x.low = 9 then some (.odesc x.d x.a) else
  if x.low.extractLsb' 0 8 = 10 then some (.oexpand x.d x.a (x.low.extractLsb' 8 6)) else
  if x.low.extractLsb' 0 8 = 11 then some (.obackup x.d x.a (x.low.extractLsb' 8 6)) else
  if x.low = 12 then some (.oreuse x.d x.a) else
  if x.low = 13 then some (.ofree x.d x.a) else
  if x.low.extractLsb' 0 8 = 14 then some (.oread x.d x.a (x.low.extractLsb' 8 6)) else
  none

/-- Reads majors 0x3E: R242. -/
noncomputable def readMajor3E (x : Fields) : Option Instr :=
  if x.low.extractLsb' 6 8 = 0 ∧ x.low.extractLsb' 0 5 = 0 then some (.cmdbCopy x.d x.a (x.low.getLsbD 5)) else
  if x.low.extractLsb' 6 8 = 0 ∧ x.low.extractLsb' 0 5 = 1 then some (.cmdbCat x.d x.a (x.low.getLsbD 5)) else
  if x.low.extractLsb' 6 8 = 0 ∧ x.low.extractLsb' 0 5 = 2 then some (.cmdbOrch x.d x.a (x.low.getLsbD 5)) else
  none

/-- Reads majors 0x3F: R385, R397, R403, R404, R405, R417. -/
noncomputable def readMajor3F (x : Fields) : Option Instr :=
  if x.d = 0 ∧ x.a = 0 ∧ x.low = 0 then some (.tret) else
  if x.d = 0 ∧ x.low = 1 then some (.ctxsave x.a) else
  if x.d = 0 ∧ x.low = 2 then some (.ctxload x.a) else
  if x.d = 0 ∧ x.low.extractLsb' 0 8 = 3 then some (.xlinv x.a (x.low.extractLsb' 8 6)) else
  if x.d = 0 ∧ x.a = 0 ∧ x.low = 4 then some (.wfi) else
  if x.d = 0 ∧ x.a = 0 ∧ x.low = 5 then some (.fwcall) else
  if x.d = 0 ∧ x.low = 6 then some (.haltc x.a) else
  none

/-- Reads majors 0x1E: R187, R188, R189, R190, R191. -/
def readMajor1E (x : Fields) : Option Instr :=
  if x.a = 0 ∧ x.low = 1 then some (.taskget x.d) else
  if x.d = 0 ∧ x.low = 2 then some (.taskput x.a) else
  if x.low = 3 then some (.launch x.d x.a) else
  if x.d = 0 ∧ x.a = 0 ∧ x.low = 4 then some (.kend) else
  if x.d = 0 ∧ x.a = 0 ∧ x.low = 5 then some (.brk) else
  none

/-- Reads majors 0x30: R230. -/
noncomputable def readMajor30 (x : Fields) : Option Instr :=
  if x.low.extractLsb' 5 9 = 0 then some (.vld x.d x.a (x.low.getLsbD 4) (x.low.getLsbD 3) (x.low.getLsbD 2) (x.low.getLsbD 1) (x.low.getLsbD 0)) else
  none

/-- Reads majors 0x31: R230. -/
noncomputable def readMajor31 (x : Fields) : Option Instr :=
  if x.low.extractLsb' 5 3 = 0 then some (.vlds x.d x.a (x.low.extractLsb' 8 6) (x.low.getLsbD 4) (x.low.getLsbD 3) (x.low.getLsbD 2) (x.low.getLsbD 1) (x.low.getLsbD 0)) else
  none

/-- Reads majors 0x32: R230. -/
noncomputable def readMajor32 (x : Fields) : Option Instr :=
  if x.low.extractLsb' 5 3 = 0 then some (.vldx x.d x.a (x.low.extractLsb' 8 6) (x.low.getLsbD 4) (x.low.getLsbD 3) (x.low.getLsbD 2) (x.low.getLsbD 1) (x.low.getLsbD 0)) else
  none

/-- Reads majors 0x33: R230. -/
noncomputable def readMajor33 (x : Fields) : Option Instr :=
  if x.low.extractLsb' 4 10 = 0 ∧ x.low.extractLsb' 2 1 = 0 then some (.vst x.d x.a (x.low.getLsbD 3) (x.low.getLsbD 1) (x.low.getLsbD 0)) else
  none

/-- Reads majors 0x34: R230. -/
noncomputable def readMajor34 (x : Fields) : Option Instr :=
  if x.low.extractLsb' 4 4 = 0 ∧ x.low.extractLsb' 2 1 = 0 then some (.vsts x.d x.a (x.low.extractLsb' 8 6) (x.low.getLsbD 3) (x.low.getLsbD 1) (x.low.getLsbD 0)) else
  none

/-- Reads majors 0x35: R230. -/
noncomputable def readMajor35 (x : Fields) : Option Instr :=
  if x.low.extractLsb' 4 4 = 0 ∧ x.low.extractLsb' 2 1 = 0 then some (.vstx x.d x.a (x.low.extractLsb' 8 6) (x.low.getLsbD 3) (x.low.getLsbD 1) (x.low.getLsbD 0)) else
  none

/-- The term that a context's majors give the fields (R147, R155, R256), before the checks of `wellFormed`. -/
noncomputable def readFields (c : Ctx) (x : Fields) : Option Instr :=
  match c with
  | .execute =>
    match x.op.toNat with
    | 0 => readMajor00 x
    | 1 => readMajor01 x
    | 2 => readMajor02 x
    | 3 => readMajor03 x
    | 4 => readMajor04 x
    | 5 => readMajor05 x
    | 6 => readMajor06 x
    | 7 => readMajor07 x
    | 8 => readMajor08 x
    | 9 => readMajor09 x
    | 10 => readMajor0A x
    | 11 => readMajor0B x
    | 12 => readMajor0C x
    | 13 => readMajor0D x
    | 14 => readMajor0E x
    | 15 => readMajor0F x
    | 16 => readMajor10 x
    | 17 => readMajor11 x
    | 18 => readMajor12 x
    | 19 => readMajor13 x
    | 20 => readMajor14 x
    | 21 => readMajor15 x
    | 22 => readMajor16 x
    | 23 => readMajor17 x
    | 24 => readMajor18 x
    | 25 => readMajor19 x
    | 26 => readMajor1A x
    | 27 => readMajor1B x
    | 28 => readMajor1C x
    | 29 => readMajor1D x
    | 30 => readMajor1E x
    | 31 => readMajor1F x
    | 32 => readMajor20 x
    | 33 => readMajor20 x
    | 34 => readMajor20 x
    | 35 => readMajor20 x
    | 36 => readMajor24 x
    | 37 => readMajor24 x
    | 38 => readMajor26 x
    | 39 => readMajor27 x
    | 40 => readMajor28 x
    | 41 => readMajor29 x
    | 42 => readMajor2A x
    | 43 => readMajor2B x
    | 44 => readMajor2C x
    | 45 => readMajor2D x
    | 46 => readMajor2E x
    | 47 => readMajor2F x
    | 48 => readMajor30 x
    | 49 => readMajor31 x
    | 50 => readMajor32 x
    | 51 => readMajor33 x
    | 52 => readMajor34 x
    | 53 => readMajor35 x
    | 54 => readMajor36 x
    | 55 => readMajor37 x
    | 56 => readMajor38 x
    | 57 => readMajor39 x
    | 58 => readMajor3A x
    | 59 => readMajor3B x
    | 60 => readMajor3C x
    | 61 => readMajor3D x
    | 62 => readMajor3E x
    | 63 => readMajor3F x
    | _ => none
  | .access =>
    match x.op.toNat with
    | 0 => readMajor00 x
    | 1 => readMajor01 x
    | 2 => readMajor02 x
    | 3 => readMajor03 x
    | 4 => readMajor04 x
    | 5 => readMajor05 x
    | 6 => readMajor06 x
    | 7 => readMajor07 x
    | 8 => readMajor08 x
    | 9 => readMajor09 x
    | 10 => readMajor0A x
    | 11 => readMajor0B x
    | 12 => readMajor0C x
    | 13 => readMajor0D x
    | 14 => readMajor0E x
    | 15 => readMajor0F x
    | 16 => readMajor10 x
    | 17 => readMajor11 x
    | 18 => readMajor12 x
    | 19 => readMajor13 x
    | 20 => readMajor14 x
    | 21 => readMajor15 x
    | 22 => readMajor16 x
    | 23 => readMajor17 x
    | 24 => readMajor18 x
    | 25 => readMajor19 x
    | 26 => readMajor1A x
    | 27 => readMajor1B x
    | 28 => readMajor1C x
    | 29 => readMajor1D x
    | 30 => readMajor1EAccess x
    | 31 => readMajor1F x
    | 32 => readMajor20 x
    | 33 => readMajor20 x
    | 34 => readMajor20 x
    | 35 => readMajor20 x
    | 36 => readMajor24 x
    | 37 => readMajor24 x
    | 38 => readMajor26 x
    | 39 => readMajor27 x
    | 40 => readMajor28 x
    | 41 => readMajor29 x
    | 42 => readMajor2A x
    | 43 => readMajor2B x
    | 44 => readMajor2C x
    | 45 => readMajor2D x
    | 46 => readMajor2E x
    | 47 => readMajor2F x
    | 48 => readMajor30Access x
    | 49 => readMajor31Access x
    | 50 => readMajor32Access x
    | 51 => readMajor33Access x
    | 52 => readMajor34Access x
    | 53 => readMajor35Access x
    | 54 => readMajor36 x
    | 55 => readMajor37 x
    | 56 => readMajor38 x
    | 57 => readMajor39 x
    | 58 => readMajor3A x
    | 59 => readMajor3B x
    | 60 => readMajor3C x
    | 61 => readMajor3D x
    | 62 => readMajor3E x
    | 63 => readMajor3F x
    | _ => none

/-- Decoding of a word in a context: total, refusing by name. -/
noncomputable def decode (c : Ctx) (w : Word32) : Except DecodeError Instr :=
  if w = 0 then .error .zeroWord
  else
    match readFields c (Fields.ofWord w) with
    | some i => if wellFormed c i then .ok i else .error .illegal
    | none => .error .illegal

/-- The fields of a term that has an encoding; the steps without one have none. HALTC_RELEASE has HALTC's word. -/
def encodeFields : Instr → Option Fields
  | .add d a b => some ⟨0#6, d, a, (b ++ 1#8 : BitVec 14)⟩
  | .sub d a b => some ⟨0#6, d, a, (b ++ 2#8 : BitVec 14)⟩
  | .and d a b => some ⟨0#6, d, a, (b ++ 3#8 : BitVec 14)⟩
  | .or d a b => some ⟨0#6, d, a, (b ++ 4#8 : BitVec 14)⟩
  | .xor d a b => some ⟨0#6, d, a, (b ++ 5#8 : BitVec 14)⟩
  | .andn d a b => some ⟨0#6, d, a, (b ++ 6#8 : BitVec 14)⟩
  | .sll d a b => some ⟨0#6, d, a, (b ++ 7#8 : BitVec 14)⟩
  | .srl d a b => some ⟨0#6, d, a, (b ++ 8#8 : BitVec 14)⟩
  | .sra d a b => some ⟨0#6, d, a, (b ++ 9#8 : BitVec 14)⟩
  | .slt d a b => some ⟨0#6, d, a, (b ++ 10#8 : BitVec 14)⟩
  | .sltu d a b => some ⟨0#6, d, a, (b ++ 11#8 : BitVec 14)⟩
  | .seq d a b => some ⟨0#6, d, a, (b ++ 12#8 : BitVec 14)⟩
  | .min d a b => some ⟨0#6, d, a, (b ++ 13#8 : BitVec 14)⟩
  | .max d a b => some ⟨0#6, d, a, (b ++ 14#8 : BitVec 14)⟩
  | .minu d a b => some ⟨0#6, d, a, (b ++ 15#8 : BitVec 14)⟩
  | .maxu d a b => some ⟨0#6, d, a, (b ++ 16#8 : BitVec 14)⟩
  | .mul d a b => some ⟨0#6, d, a, (b ++ 17#8 : BitVec 14)⟩
  | .mulh d a b => some ⟨0#6, d, a, (b ++ 18#8 : BitVec 14)⟩
  | .mulhu d a b => some ⟨0#6, d, a, (b ++ 19#8 : BitVec 14)⟩
  | .div d a b => some ⟨0#6, d, a, (b ++ 20#8 : BitVec 14)⟩
  | .divu d a b => some ⟨0#6, d, a, (b ++ 21#8 : BitVec 14)⟩
  | .rem d a b => some ⟨0#6, d, a, (b ++ 22#8 : BitVec 14)⟩
  | .remu d a b => some ⟨0#6, d, a, (b ++ 23#8 : BitVec 14)⟩
  | .clz d a => some ⟨0#6, d, a, 24#14⟩
  | .ctz d a => some ⟨0#6, d, a, 25#14⟩
  | .popc d a => some ⟨0#6, d, a, 26#14⟩
  | .addi d a i => some ⟨1#6, d, a, i⟩
  | .andi d a i => some ⟨2#6, d, a, i⟩
  | .ori d a i => some ⟨3#6, d, a, i⟩
  | .xori d a i => some ⟨4#6, d, a, i⟩
  | .slti d a i => some ⟨5#6, d, a, i⟩
  | .sltiu d a i => some ⟨6#6, d, a, i⟩
  | .slli d a sc => some ⟨7#6, d, a, (0#8 ++ sc : BitVec 14)⟩
  | .srli d a sc => some ⟨8#6, d, a, (0#8 ++ sc : BitVec 14)⟩
  | .srai d a sc => some ⟨9#6, d, a, (0#8 ++ sc : BitVec 14)⟩
  | .lui d w => some ⟨10#6, d, w.extractLsb' 14 6, w.extractLsb' 0 14⟩
  | .addpc d w => some ⟨11#6, d, w.extractLsb' 14 6, w.extractLsb' 0 14⟩
  | .faddD d a b => some ⟨12#6, d, a, (b ++ 1#8 : BitVec 14)⟩
  | .fsubD d a b => some ⟨12#6, d, a, (b ++ 2#8 : BitVec 14)⟩
  | .fmulD d a b => some ⟨12#6, d, a, (b ++ 3#8 : BitVec 14)⟩
  | .fdivD d a b => some ⟨12#6, d, a, (b ++ 4#8 : BitVec 14)⟩
  | .fsqrtD d a => some ⟨12#6, d, a, 5#14⟩
  | .fminD d a b => some ⟨12#6, d, a, (b ++ 6#8 : BitVec 14)⟩
  | .fmaxD d a b => some ⟨12#6, d, a, (b ++ 7#8 : BitVec 14)⟩
  | .fsgnjD d a b => some ⟨12#6, d, a, (b ++ 8#8 : BitVec 14)⟩
  | .fsgnjnD d a b => some ⟨12#6, d, a, (b ++ 9#8 : BitVec 14)⟩
  | .fsgnjxD d a b => some ⟨12#6, d, a, (b ++ 10#8 : BitVec 14)⟩
  | .feqD d a b => some ⟨12#6, d, a, (b ++ 11#8 : BitVec 14)⟩
  | .fltD d a b => some ⟨12#6, d, a, (b ++ 12#8 : BitVec 14)⟩
  | .fleD d a b => some ⟨12#6, d, a, (b ++ 13#8 : BitVec 14)⟩
  | .fclassD d a => some ⟨12#6, d, a, 14#14⟩
  | .fcvtLD d a => some ⟨12#6, d, a, 16#14⟩
  | .fcvtLuD d a => some ⟨12#6, d, a, 17#14⟩
  | .fcvtFlD d a => some ⟨12#6, d, a, 18#14⟩
  | .fcvtFluD d a => some ⟨12#6, d, a, 19#14⟩
  | .fcvtWD d a => some ⟨12#6, d, a, 20#14⟩
  | .faddS d a b => some ⟨13#6, d, a, (b ++ 1#8 : BitVec 14)⟩
  | .fsubS d a b => some ⟨13#6, d, a, (b ++ 2#8 : BitVec 14)⟩
  | .fmulS d a b => some ⟨13#6, d, a, (b ++ 3#8 : BitVec 14)⟩
  | .fdivS d a b => some ⟨13#6, d, a, (b ++ 4#8 : BitVec 14)⟩
  | .fsqrtS d a => some ⟨13#6, d, a, 5#14⟩
  | .fminS d a b => some ⟨13#6, d, a, (b ++ 6#8 : BitVec 14)⟩
  | .fmaxS d a b => some ⟨13#6, d, a, (b ++ 7#8 : BitVec 14)⟩
  | .fsgnjS d a b => some ⟨13#6, d, a, (b ++ 8#8 : BitVec 14)⟩
  | .fsgnjnS d a b => some ⟨13#6, d, a, (b ++ 9#8 : BitVec 14)⟩
  | .fsgnjxS d a b => some ⟨13#6, d, a, (b ++ 10#8 : BitVec 14)⟩
  | .feqS d a b => some ⟨13#6, d, a, (b ++ 11#8 : BitVec 14)⟩
  | .fltS d a b => some ⟨13#6, d, a, (b ++ 12#8 : BitVec 14)⟩
  | .fleS d a b => some ⟨13#6, d, a, (b ++ 13#8 : BitVec 14)⟩
  | .fclassS d a => some ⟨13#6, d, a, 14#14⟩
  | .fcvtLS d a => some ⟨13#6, d, a, 16#14⟩
  | .fcvtLuS d a => some ⟨13#6, d, a, 17#14⟩
  | .fcvtFlS d a => some ⟨13#6, d, a, 18#14⟩
  | .fcvtFluS d a => some ⟨13#6, d, a, 19#14⟩
  | .fcvtWS d a => some ⟨13#6, d, a, 20#14⟩
  | .fmaddD d a b c => some ⟨14#6, d, a, (b ++ c ++ 0#2 : BitVec 14)⟩
  | .fmsubD d a b c => some ⟨14#6, d, a, (b ++ c ++ 1#2 : BitVec 14)⟩
  | .fnmaddD d a b c => some ⟨14#6, d, a, (b ++ c ++ 2#2 : BitVec 14)⟩
  | .fnmsubD d a b c => some ⟨14#6, d, a, (b ++ c ++ 3#2 : BitVec 14)⟩
  | .fmaddS d a b c => some ⟨15#6, d, a, (b ++ c ++ 0#2 : BitVec 14)⟩
  | .fmsubS d a b c => some ⟨15#6, d, a, (b ++ c ++ 1#2 : BitVec 14)⟩
  | .fnmaddS d a b c => some ⟨15#6, d, a, (b ++ c ++ 2#2 : BitVec 14)⟩
  | .fnmsubS d a b c => some ⟨15#6, d, a, (b ++ c ++ 3#2 : BitVec 14)⟩
  | .lb d a o => some ⟨16#6, d, a, (0#3 ++ o : BitVec 14)⟩
  | .lh d a o => some ⟨16#6, d, a, (1#3 ++ o : BitVec 14)⟩
  | .lw d a o => some ⟨16#6, d, a, (2#3 ++ o : BitVec 14)⟩
  | .ld d a o => some ⟨16#6, d, a, (3#3 ++ o : BitVec 14)⟩
  | .lbu d a o => some ⟨16#6, d, a, (4#3 ++ o : BitVec 14)⟩
  | .lhu d a o => some ⟨16#6, d, a, (5#3 ++ o : BitVec 14)⟩
  | .lwu d a o => some ⟨16#6, d, a, (6#3 ++ o : BitVec 14)⟩
  | .sb d a n o => some ⟨17#6, d, a, (0#3 ++ BitVec.ofBool n ++ o : BitVec 14)⟩
  | .sh d a n o => some ⟨17#6, d, a, (1#3 ++ BitVec.ofBool n ++ o : BitVec 14)⟩
  | .sw d a n o => some ⟨17#6, d, a, (2#3 ++ BitVec.ofBool n ++ o : BitVec 14)⟩
  | .sd d a n o => some ⟨17#6, d, a, (3#3 ++ BitVec.ofBool n ++ o : BitVec 14)⟩
  | .lbAq d a sc => some ⟨18#6, d, a, (0#6 ++ sc ++ 0#5 : BitVec 14)⟩
  | .lhAq d a sc => some ⟨18#6, d, a, (0#6 ++ sc ++ 2#5 : BitVec 14)⟩
  | .lwAq d a sc => some ⟨18#6, d, a, (0#6 ++ sc ++ 4#5 : BitVec 14)⟩
  | .ldAq d a sc => some ⟨18#6, d, a, (0#6 ++ sc ++ 6#5 : BitVec 14)⟩
  | .lbuAq d a sc => some ⟨18#6, d, a, (0#6 ++ sc ++ 8#5 : BitVec 14)⟩
  | .lhuAq d a sc => some ⟨18#6, d, a, (0#6 ++ sc ++ 10#5 : BitVec 14)⟩
  | .lwuAq d a sc => some ⟨18#6, d, a, (0#6 ++ sc ++ 12#5 : BitVec 14)⟩
  | .sbRl d a sc => some ⟨18#6, d, a, (0#6 ++ sc ++ 16#5 : BitVec 14)⟩
  | .shRl d a sc => some ⟨18#6, d, a, (0#6 ++ sc ++ 18#5 : BitVec 14)⟩
  | .swRl d a sc => some ⟨18#6, d, a, (0#6 ++ sc ++ 20#5 : BitVec 14)⟩
  | .sdRl d a sc => some ⟨18#6, d, a, (0#6 ++ sc ++ 22#5 : BitVec 14)⟩
  | .amoadd d a b q sc w => some ⟨19#6, d, a, (b ++ 0#4 ++ q ++ BitVec.ofBool sc ++ BitVec.ofBool w : BitVec 14)⟩
  | .amoswap d a b q sc w => some ⟨19#6, d, a, (b ++ 1#4 ++ q ++ BitVec.ofBool sc ++ BitVec.ofBool w : BitVec 14)⟩
  | .amoand d a b q sc w => some ⟨19#6, d, a, (b ++ 2#4 ++ q ++ BitVec.ofBool sc ++ BitVec.ofBool w : BitVec 14)⟩
  | .amoor d a b q sc w => some ⟨19#6, d, a, (b ++ 3#4 ++ q ++ BitVec.ofBool sc ++ BitVec.ofBool w : BitVec 14)⟩
  | .amoxor d a b q sc w => some ⟨19#6, d, a, (b ++ 4#4 ++ q ++ BitVec.ofBool sc ++ BitVec.ofBool w : BitVec 14)⟩
  | .amomin d a b q sc w => some ⟨19#6, d, a, (b ++ 5#4 ++ q ++ BitVec.ofBool sc ++ BitVec.ofBool w : BitVec 14)⟩
  | .amomax d a b q sc w => some ⟨19#6, d, a, (b ++ 6#4 ++ q ++ BitVec.ofBool sc ++ BitVec.ofBool w : BitVec 14)⟩
  | .amominu d a b q sc w => some ⟨19#6, d, a, (b ++ 7#4 ++ q ++ BitVec.ofBool sc ++ BitVec.ofBool w : BitVec 14)⟩
  | .amomaxu d a b q sc w => some ⟨19#6, d, a, (b ++ 8#4 ++ q ++ BitVec.ofBool sc ++ BitVec.ofBool w : BitVec 14)⟩
  | .amocas d a b q sc w => some ⟨19#6, d, a, (b ++ 9#4 ++ q ++ BitVec.ofBool sc ++ BitVec.ofBool w : BitVec 14)⟩
  | .amoaddTw d a b q sc w => some ⟨19#6, d, a, (b ++ 10#4 ++ q ++ BitVec.ofBool sc ++ BitVec.ofBool w : BitVec 14)⟩
  | .amofadd d a b q sc w => some ⟨19#6, d, a, (b ++ 11#4 ++ q ++ BitVec.ofBool sc ++ BitVec.ofBool w : BitVec 14)⟩
  | .beq d a i => some ⟨20#6, d, a, i⟩
  | .bne d a i => some ⟨21#6, d, a, i⟩
  | .blt d a i => some ⟨22#6, d, a, i⟩
  | .bge d a i => some ⟨23#6, d, a, i⟩
  | .bltu d a i => some ⟨24#6, d, a, i⟩
  | .bgeu d a i => some ⟨25#6, d, a, i⟩
  | .jal d w => some ⟨26#6, d, w.extractLsb' 14 6, w.extractLsb' 0 14⟩
  | .jalr d a i => some ⟨27#6, d, a, i⟩
  | .fence sc k => some ⟨28#6, (sc ++ k : BitVec 6), 0#6, 1#14⟩
  | .fenceSv => some ⟨28#6, 0#6, 0#6, 2#14⟩
  | .ifence => some ⟨28#6, 0#6, 0#6, 3#14⟩
  | .waitw d a b => some ⟨28#6, d, a, (b ++ 4#8 : BitVec 14)⟩
  | .barsync => some ⟨28#6, 0#6, 0#6, 5#14⟩
  | .barrive => some ⟨28#6, 0#6, 0#6, 6#14⟩
  | .bardrop => some ⟨28#6, 0#6, 0#6, 7#14⟩
  | .barwait => some ⟨28#6, 0#6, 0#6, 8#14⟩
  | .csrrw d a c => some ⟨29#6, d, a, (0#2 ++ c : BitVec 14)⟩
  | .csrrs d a c => some ⟨29#6, d, a, (1#2 ++ c : BitVec 14)⟩
  | .csrrc d a c => some ⟨29#6, d, a, (2#2 ++ c : BitVec 14)⟩
  | .taskget d => some ⟨30#6, d, 0#6, 1#14⟩
  | .taskput a => some ⟨30#6, 0#6, a, 2#14⟩
  | .launch d a => some ⟨30#6, d, a, 3#14⟩
  | .kend => some ⟨30#6, 0#6, 0#6, 4#14⟩
  | .accessKend => some ⟨30#6, 0#6, 0#6, 4#14⟩
  | .brk => some ⟨30#6, 0#6, 0#6, 5#14⟩
  | .bqpop d k => some ⟨31#6, d, (0#4 ++ k : BitVec 6), 1#14⟩
  | .bqpush k a => some ⟨31#6, (0#4 ++ k : BitVec 6), a, 2#14⟩
  | .vadd d a b n sc m g l => some ⟨(8#4 ++ BitVec.ofBool g ++ BitVec.ofBool l : BitVec 6), d, a, (b ++ BitVec.ofBool n ++ BitVec.ofBool sc ++ BitVec.ofBool m ++ 0#5 : BitVec 14)⟩
  | .vsub d a b n sc m g l => some ⟨(8#4 ++ BitVec.ofBool g ++ BitVec.ofBool l : BitVec 6), d, a, (b ++ BitVec.ofBool n ++ BitVec.ofBool sc ++ BitVec.ofBool m ++ 1#5 : BitVec 14)⟩
  | .vmul d a b n sc m g l => some ⟨(8#4 ++ BitVec.ofBool g ++ BitVec.ofBool l : BitVec 6), d, a, (b ++ BitVec.ofBool n ++ BitVec.ofBool sc ++ BitVec.ofBool m ++ 2#5 : BitVec 14)⟩
  | .vdiv d a b n sc m g l => some ⟨(8#4 ++ BitVec.ofBool g ++ BitVec.ofBool l : BitVec 6), d, a, (b ++ BitVec.ofBool n ++ BitVec.ofBool sc ++ BitVec.ofBool m ++ 3#5 : BitVec 14)⟩
  | .vmin d a b n sc m g l => some ⟨(8#4 ++ BitVec.ofBool g ++ BitVec.ofBool l : BitVec 6), d, a, (b ++ BitVec.ofBool n ++ BitVec.ofBool sc ++ BitVec.ofBool m ++ 4#5 : BitVec 14)⟩
  | .vmax d a b n sc m g l => some ⟨(8#4 ++ BitVec.ofBool g ++ BitVec.ofBool l : BitVec 6), d, a, (b ++ BitVec.ofBool n ++ BitVec.ofBool sc ++ BitVec.ofBool m ++ 5#5 : BitVec 14)⟩
  | .vsadd d a b n sc m g l => some ⟨(8#4 ++ BitVec.ofBool g ++ BitVec.ofBool l : BitVec 6), d, a, (b ++ BitVec.ofBool n ++ BitVec.ofBool sc ++ BitVec.ofBool m ++ 6#5 : BitVec 14)⟩
  | .vssub d a b n sc m g l => some ⟨(8#4 ++ BitVec.ofBool g ++ BitVec.ofBool l : BitVec 6), d, a, (b ++ BitVec.ofBool n ++ BitVec.ofBool sc ++ BitVec.ofBool m ++ 7#5 : BitVec 14)⟩
  | .vmulh d a b n sc m g l => some ⟨(8#4 ++ BitVec.ofBool g ++ BitVec.ofBool l : BitVec 6), d, a, (b ++ BitVec.ofBool n ++ BitVec.ofBool sc ++ BitVec.ofBool m ++ 8#5 : BitVec 14)⟩
  | .vrem d a b n sc m g l => some ⟨(8#4 ++ BitVec.ofBool g ++ BitVec.ofBool l : BitVec 6), d, a, (b ++ BitVec.ofBool n ++ BitVec.ofBool sc ++ BitVec.ofBool m ++ 9#5 : BitVec 14)⟩
  | .vand d a b n sc m g l => some ⟨(8#4 ++ BitVec.ofBool g ++ BitVec.ofBool l : BitVec 6), d, a, (b ++ BitVec.ofBool n ++ BitVec.ofBool sc ++ BitVec.ofBool m ++ 10#5 : BitVec 14)⟩
  | .vor d a b n sc m g l => some ⟨(8#4 ++ BitVec.ofBool g ++ BitVec.ofBool l : BitVec 6), d, a, (b ++ BitVec.ofBool n ++ BitVec.ofBool sc ++ BitVec.ofBool m ++ 11#5 : BitVec 14)⟩
  | .vxor d a b n sc m g l => some ⟨(8#4 ++ BitVec.ofBool g ++ BitVec.ofBool l : BitVec 6), d, a, (b ++ BitVec.ofBool n ++ BitVec.ofBool sc ++ BitVec.ofBool m ++ 12#5 : BitVec 14)⟩
  | .vsll d a b n sc m g l => some ⟨(8#4 ++ BitVec.ofBool g ++ BitVec.ofBool l : BitVec 6), d, a, (b ++ BitVec.ofBool n ++ BitVec.ofBool sc ++ BitVec.ofBool m ++ 13#5 : BitVec 14)⟩
  | .vshr d a b n sc m g l => some ⟨(8#4 ++ BitVec.ofBool g ++ BitVec.ofBool l : BitVec 6), d, a, (b ++ BitVec.ofBool n ++ BitVec.ofBool sc ++ BitVec.ofBool m ++ 14#5 : BitVec 14)⟩
  | .vsqrt d a n sc m g l => some ⟨(8#4 ++ BitVec.ofBool g ++ BitVec.ofBool l : BitVec 6), d, a, (0#6 ++ BitVec.ofBool n ++ BitVec.ofBool sc ++ BitVec.ofBool m ++ 15#5 : BitVec 14)⟩
  | .vabs d a n sc m g l => some ⟨(8#4 ++ BitVec.ofBool g ++ BitVec.ofBool l : BitVec 6), d, a, (0#6 ++ BitVec.ofBool n ++ BitVec.ofBool sc ++ BitVec.ofBool m ++ 16#5 : BitVec 14)⟩
  | .vneg d a n sc m g l => some ⟨(8#4 ++ BitVec.ofBool g ++ BitVec.ofBool l : BitVec 6), d, a, (0#6 ++ BitVec.ofBool n ++ BitVec.ofBool sc ++ BitVec.ofBool m ++ 17#5 : BitVec 14)⟩
  | .vsgnj d a b n sc m g l => some ⟨(8#4 ++ BitVec.ofBool g ++ BitVec.ofBool l : BitVec 6), d, a, (b ++ BitVec.ofBool n ++ BitVec.ofBool sc ++ BitVec.ofBool m ++ 18#5 : BitVec 14)⟩
  | .vsgnjn d a b n sc m g l => some ⟨(8#4 ++ BitVec.ofBool g ++ BitVec.ofBool l : BitVec 6), d, a, (b ++ BitVec.ofBool n ++ BitVec.ofBool sc ++ BitVec.ofBool m ++ 19#5 : BitVec 14)⟩
  | .vsgnjx d a b n sc m g l => some ⟨(8#4 ++ BitVec.ofBool g ++ BitVec.ofBool l : BitVec 6), d, a, (b ++ BitVec.ofBool n ++ BitVec.ofBool sc ++ BitVec.ofBool m ++ 20#5 : BitVec 14)⟩
  | .vclass d a n sc m g l => some ⟨(8#4 ++ BitVec.ofBool g ++ BitVec.ofBool l : BitVec 6), d, a, (0#6 ++ BitVec.ofBool n ++ BitVec.ofBool sc ++ BitVec.ofBool m ++ 21#5 : BitVec 14)⟩
  | .vmv d a n sc m g l => some ⟨(8#4 ++ BitVec.ofBool g ++ BitVec.ofBool l : BitVec 6), d, a, (0#6 ++ BitVec.ofBool n ++ BitVec.ofBool sc ++ BitVec.ofBool m ++ 22#5 : BitVec 14)⟩
  | .vfmadd d a b n sc m g => some ⟨(18#5 ++ BitVec.ofBool g : BitVec 6), d, a, (b ++ BitVec.ofBool n ++ BitVec.ofBool sc ++ BitVec.ofBool m ++ 0#5 : BitVec 14)⟩
  | .vfmsub d a b n sc m g => some ⟨(18#5 ++ BitVec.ofBool g : BitVec 6), d, a, (b ++ BitVec.ofBool n ++ BitVec.ofBool sc ++ BitVec.ofBool m ++ 1#5 : BitVec 14)⟩
  | .vfnmadd d a b n sc m g => some ⟨(18#5 ++ BitVec.ofBool g : BitVec 6), d, a, (b ++ BitVec.ofBool n ++ BitVec.ofBool sc ++ BitVec.ofBool m ++ 2#5 : BitVec 14)⟩
  | .vfnmsub d a b n sc m g => some ⟨(18#5 ++ BitVec.ofBool g : BitVec 6), d, a, (b ++ BitVec.ofBool n ++ BitVec.ofBool sc ++ BitVec.ofBool m ++ 3#5 : BitVec 14)⟩
  | .vaddAcc d a b n sc m => some ⟨45#6, d, a, (b ++ BitVec.ofBool n ++ BitVec.ofBool sc ++ BitVec.ofBool m ++ 0#5 : BitVec 14)⟩
  | .vsubAcc d a b n sc m => some ⟨45#6, d, a, (b ++ BitVec.ofBool n ++ BitVec.ofBool sc ++ BitVec.ofBool m ++ 1#5 : BitVec 14)⟩
  | .vmulAcc d a b n sc m => some ⟨45#6, d, a, (b ++ BitVec.ofBool n ++ BitVec.ofBool sc ++ BitVec.ofBool m ++ 2#5 : BitVec 14)⟩
  | .vdivAcc d a b n sc m => some ⟨45#6, d, a, (b ++ BitVec.ofBool n ++ BitVec.ofBool sc ++ BitVec.ofBool m ++ 3#5 : BitVec 14)⟩
  | .vminAcc d a b n sc m => some ⟨45#6, d, a, (b ++ BitVec.ofBool n ++ BitVec.ofBool sc ++ BitVec.ofBool m ++ 4#5 : BitVec 14)⟩
  | .vmaxAcc d a b n sc m => some ⟨45#6, d, a, (b ++ BitVec.ofBool n ++ BitVec.ofBool sc ++ BitVec.ofBool m ++ 5#5 : BitVec 14)⟩
  | .vsaddAcc d a b n sc m => some ⟨45#6, d, a, (b ++ BitVec.ofBool n ++ BitVec.ofBool sc ++ BitVec.ofBool m ++ 6#5 : BitVec 14)⟩
  | .vssubAcc d a b n sc m => some ⟨45#6, d, a, (b ++ BitVec.ofBool n ++ BitVec.ofBool sc ++ BitVec.ofBool m ++ 7#5 : BitVec 14)⟩
  | .vmulhAcc d a b n sc m => some ⟨45#6, d, a, (b ++ BitVec.ofBool n ++ BitVec.ofBool sc ++ BitVec.ofBool m ++ 8#5 : BitVec 14)⟩
  | .vremAcc d a b n sc m => some ⟨45#6, d, a, (b ++ BitVec.ofBool n ++ BitVec.ofBool sc ++ BitVec.ofBool m ++ 9#5 : BitVec 14)⟩
  | .vandAcc d a b n sc m => some ⟨45#6, d, a, (b ++ BitVec.ofBool n ++ BitVec.ofBool sc ++ BitVec.ofBool m ++ 10#5 : BitVec 14)⟩
  | .vorAcc d a b n sc m => some ⟨45#6, d, a, (b ++ BitVec.ofBool n ++ BitVec.ofBool sc ++ BitVec.ofBool m ++ 11#5 : BitVec 14)⟩
  | .vxorAcc d a b n sc m => some ⟨45#6, d, a, (b ++ BitVec.ofBool n ++ BitVec.ofBool sc ++ BitVec.ofBool m ++ 12#5 : BitVec 14)⟩
  | .vsllAcc d a b n sc m => some ⟨45#6, d, a, (b ++ BitVec.ofBool n ++ BitVec.ofBool sc ++ BitVec.ofBool m ++ 13#5 : BitVec 14)⟩
  | .vshrAcc d a b n sc m => some ⟨45#6, d, a, (b ++ BitVec.ofBool n ++ BitVec.ofBool sc ++ BitVec.ofBool m ++ 14#5 : BitVec 14)⟩
  | .vsqrtAcc d a n sc m => some ⟨45#6, d, a, (0#6 ++ BitVec.ofBool n ++ BitVec.ofBool sc ++ BitVec.ofBool m ++ 15#5 : BitVec 14)⟩
  | .vabsAcc d a n sc m => some ⟨45#6, d, a, (0#6 ++ BitVec.ofBool n ++ BitVec.ofBool sc ++ BitVec.ofBool m ++ 16#5 : BitVec 14)⟩
  | .vnegAcc d a n sc m => some ⟨45#6, d, a, (0#6 ++ BitVec.ofBool n ++ BitVec.ofBool sc ++ BitVec.ofBool m ++ 17#5 : BitVec 14)⟩
  | .vsgnjAcc d a b n sc m => some ⟨45#6, d, a, (b ++ BitVec.ofBool n ++ BitVec.ofBool sc ++ BitVec.ofBool m ++ 18#5 : BitVec 14)⟩
  | .vsgnjnAcc d a b n sc m => some ⟨45#6, d, a, (b ++ BitVec.ofBool n ++ BitVec.ofBool sc ++ BitVec.ofBool m ++ 19#5 : BitVec 14)⟩
  | .vsgnjxAcc d a b n sc m => some ⟨45#6, d, a, (b ++ BitVec.ofBool n ++ BitVec.ofBool sc ++ BitVec.ofBool m ++ 20#5 : BitVec 14)⟩
  | .vclassAcc d a n sc m => some ⟨45#6, d, a, (0#6 ++ BitVec.ofBool n ++ BitVec.ofBool sc ++ BitVec.ofBool m ++ 21#5 : BitVec 14)⟩
  | .vmvAcc d a n sc m => some ⟨45#6, d, a, (0#6 ++ BitVec.ofBool n ++ BitVec.ofBool sc ++ BitVec.ofBool m ++ 22#5 : BitVec 14)⟩
  | .vfmaddAcc d a b n sc m => some ⟨46#6, d, a, (b ++ BitVec.ofBool n ++ BitVec.ofBool sc ++ BitVec.ofBool m ++ 0#5 : BitVec 14)⟩
  | .vfmsubAcc d a b n sc m => some ⟨46#6, d, a, (b ++ BitVec.ofBool n ++ BitVec.ofBool sc ++ BitVec.ofBool m ++ 1#5 : BitVec 14)⟩
  | .vfnmaddAcc d a b n sc m => some ⟨46#6, d, a, (b ++ BitVec.ofBool n ++ BitVec.ofBool sc ++ BitVec.ofBool m ++ 2#5 : BitVec 14)⟩
  | .vfnmsubAcc d a b n sc m => some ⟨46#6, d, a, (b ++ BitVec.ofBool n ++ BitVec.ofBool sc ++ BitVec.ofBool m ++ 3#5 : BitVec 14)⟩
  | .vcmpeq d a b m g => some ⟨38#6, d, a, (b ++ 0#2 ++ BitVec.ofBool m ++ BitVec.ofBool g ++ 0#4 : BitVec 14)⟩
  | .vcmpne d a b m g => some ⟨38#6, d, a, (b ++ 0#2 ++ BitVec.ofBool m ++ BitVec.ofBool g ++ 1#4 : BitVec 14)⟩
  | .vcmplt d a b m g => some ⟨38#6, d, a, (b ++ 0#2 ++ BitVec.ofBool m ++ BitVec.ofBool g ++ 2#4 : BitVec 14)⟩
  | .vcmple d a b m g => some ⟨38#6, d, a, (b ++ 0#2 ++ BitVec.ofBool m ++ BitVec.ofBool g ++ 3#4 : BitVec 14)⟩
  | .vcmpgt d a b m g => some ⟨38#6, d, a, (b ++ 0#2 ++ BitVec.ofBool m ++ BitVec.ofBool g ++ 4#4 : BitVec 14)⟩
  | .vcmpge d a b m g => some ⟨38#6, d, a, (b ++ 0#2 ++ BitVec.ofBool m ++ BitVec.ofBool g ++ 5#4 : BitVec 14)⟩
  | .vcmpunord d a b m g => some ⟨38#6, d, a, (b ++ 0#2 ++ BitVec.ofBool m ++ BitVec.ofBool g ++ 6#4 : BitVec 14)⟩
  | .vmand d a b => some ⟨39#6, d, a, (b ++ 0#8 : BitVec 14)⟩
  | .vmor d a b => some ⟨39#6, d, a, (b ++ 1#8 : BitVec 14)⟩
  | .vmxor d a b => some ⟨39#6, d, a, (b ++ 2#8 : BitVec 14)⟩
  | .vmandn d a b => some ⟨39#6, d, a, (b ++ 3#8 : BitVec 14)⟩
  | .vmnot d a => some ⟨39#6, d, a, 4#14⟩
  | .vmpopc d a => some ⟨39#6, d, a, 5#14⟩
  | .vmfirst d a => some ⟨39#6, d, a, 6#14⟩
  | .vmset d => some ⟨39#6, d, 0#6, 7#14⟩
  | .vcvt d a sc m t => some ⟨40#6, d, a, (0#7 ++ BitVec.ofBool sc ++ BitVec.ofBool m ++ t : BitVec 14)⟩
  | .vslideup d a b m => some ⟨41#6, d, a, (b ++ 0#2 ++ BitVec.ofBool m ++ 0#5 : BitVec 14)⟩
  | .vslidedn d a b m => some ⟨41#6, d, a, (b ++ 0#2 ++ BitVec.ofBool m ++ 1#5 : BitVec 14)⟩
  | .vgathr d a b m => some ⟨41#6, d, a, (b ++ 0#2 ++ BitVec.ofBool m ++ 2#5 : BitVec 14)⟩
  | .vsend d a b m => some ⟨41#6, d, a, (b ++ 0#2 ++ BitVec.ofBool m ++ 3#5 : BitVec 14)⟩
  | .vcmprs d a m => some ⟨41#6, d, a, (0#8 ++ BitVec.ofBool m ++ 4#5 : BitVec 14)⟩
  | .vexpnd d a m => some ⟨41#6, d, a, (0#8 ++ BitVec.ofBool m ++ 5#5 : BitVec 14)⟩
  | .vresh d a t m => some ⟨41#6, d, a, (t ++ 0#2 ++ BitVec.ofBool m ++ 6#5 : BitVec 14)⟩
  | .vbcast d a m => some ⟨41#6, d, a, (0#8 ++ BitVec.ofBool m ++ 7#5 : BitVec 14)⟩
  | .vslide1up d a b m => some ⟨41#6, d, a, (b ++ 0#2 ++ BitVec.ofBool m ++ 8#5 : BitVec 14)⟩
  | .vslide1dn d a b m => some ⟨41#6, d, a, (b ++ 0#2 ++ BitVec.ofBool m ++ 9#5 : BitVec 14)⟩
  | .vredsum d a b sc m => some ⟨42#6, d, a, (b ++ 0#1 ++ BitVec.ofBool sc ++ BitVec.ofBool m ++ 0#5 : BitVec 14)⟩
  | .vredmin d a b sc m => some ⟨42#6, d, a, (b ++ 0#1 ++ BitVec.ofBool sc ++ BitVec.ofBool m ++ 1#5 : BitVec 14)⟩
  | .vredmax d a b sc m => some ⟨42#6, d, a, (b ++ 0#1 ++ BitVec.ofBool sc ++ BitVec.ofBool m ++ 2#5 : BitVec 14)⟩
  | .vredand d a b sc m => some ⟨42#6, d, a, (b ++ 0#1 ++ BitVec.ofBool sc ++ BitVec.ofBool m ++ 3#5 : BitVec 14)⟩
  | .vredor d a b sc m => some ⟨42#6, d, a, (b ++ 0#1 ++ BitVec.ofBool sc ++ BitVec.ofBool m ++ 4#5 : BitVec 14)⟩
  | .vredxor d a b sc m => some ⟨42#6, d, a, (b ++ 0#1 ++ BitVec.ofBool sc ++ BitVec.ofBool m ++ 5#5 : BitVec 14)⟩
  | .vscansum d a sc m => some ⟨42#6, d, a, (0#7 ++ BitVec.ofBool sc ++ BitVec.ofBool m ++ 8#5 : BitVec 14)⟩
  | .vscanmin d a sc m => some ⟨42#6, d, a, (0#7 ++ BitVec.ofBool sc ++ BitVec.ofBool m ++ 9#5 : BitVec 14)⟩
  | .vscanmax d a sc m => some ⟨42#6, d, a, (0#7 ++ BitVec.ofBool sc ++ BitVec.ofBool m ++ 10#5 : BitVec 14)⟩
  | .vfunc d a m c => some ⟨43#6, d, a, (0#8 ++ BitVec.ofBool m ++ c : BitVec 14)⟩
  | .vcfg d a => some ⟨44#6, d, a, 0#14⟩
  | .vsetvl d a b => some ⟨44#6, d, a, (b ++ 1#8 : BitVec 14)⟩
  | .vsetvlP d a b => some ⟨44#6, d, a, (b ++ 2#8 : BitVec 14)⟩
  | .vid d m => some ⟨47#6, d, 0#6, (0#8 ++ BitVec.ofBool m ++ 0#5 : BitVec 14)⟩
  | .vsel d a b => some ⟨47#6, d, a, (b ++ 1#8 : BitVec 14)⟩
  | .vgete d a b => some ⟨47#6, d, a, (b ++ 5#8 : BitVec 14)⟩
  | .vsete d a b => some ⟨47#6, d, a, (b ++ 6#8 : BitVec 14)⟩
  | .vsalsel d a b m g k => some ⟨47#6, d, a, (b ++ 0#2 ++ BitVec.ofBool m ++ 1#1 ++ g ++ k : BitVec 14)⟩
  | .vld d a f c r l m => some ⟨48#6, d, a, (0#9 ++ BitVec.ofBool f ++ BitVec.ofBool c ++ BitVec.ofBool r ++ BitVec.ofBool l ++ BitVec.ofBool m : BitVec 14)⟩
  | .vlds d a b f c r l m => some ⟨49#6, d, a, (b ++ 0#3 ++ BitVec.ofBool f ++ BitVec.ofBool c ++ BitVec.ofBool r ++ BitVec.ofBool l ++ BitVec.ofBool m : BitVec 14)⟩
  | .vldx d a b f c r l m => some ⟨50#6, d, a, (b ++ 0#3 ++ BitVec.ofBool f ++ BitVec.ofBool c ++ BitVec.ofBool r ++ BitVec.ofBool l ++ BitVec.ofBool m : BitVec 14)⟩
  | .vst d a c n m => some ⟨51#6, d, a, (0#10 ++ BitVec.ofBool c ++ 0#1 ++ BitVec.ofBool n ++ BitVec.ofBool m : BitVec 14)⟩
  | .vsts d a b c n m => some ⟨52#6, d, a, (b ++ 0#4 ++ BitVec.ofBool c ++ 0#1 ++ BitVec.ofBool n ++ BitVec.ofBool m : BitVec 14)⟩
  | .vstx d a b c n m => some ⟨53#6, d, a, (b ++ 0#4 ++ BitVec.ofBool c ++ 0#1 ++ BitVec.ofBool n ++ BitVec.ofBool m : BitVec 14)⟩
  | .vwin a b => some ⟨54#6, 0#6, a, (b ++ 0#8 : BitVec 14)⟩
  | .vwacc a b m => some ⟨54#6, 0#6, a, (b ++ 0#2 ++ BitVec.ofBool m ++ 1#5 : BitVec 14)⟩
  | .vwmerge => some ⟨54#6, 0#6, 0#6, 2#14⟩
  | .vlsync => some ⟨55#6, 0#6, 0#6, 0#14⟩
  | .vfence sc k => some ⟨55#6, (sc ++ k : BitVec 6), 0#6, 1#14⟩
  | .qdrain a => some ⟨55#6, 0#6, a, 2#14⟩
  | .spalloc d a b => some ⟨55#6, d, a, (b ++ 3#8 : BitVec 14)⟩
  | .spfree a => some ⟨55#6, 0#6, a, 4#14⟩
  | .sprenew d a => some ⟨55#6, d, a, 5#14⟩
  | .spage d a => some ⟨55#6, d, a, 6#14⟩
  | .vfar d a b => some ⟨55#6, d, a, (b ++ 7#8 : BitVec 14)⟩
  | .mma t a b sc w z y x => some ⟨56#6, (0#2 ++ t : BitVec 6), a, (b ++ 0#3 ++ BitVec.ofBool sc ++ BitVec.ofBool w ++ BitVec.ofBool z ++ BitVec.ofBool y ++ BitVec.ofBool x : BitVec 14)⟩
  | .mld t a b => some ⟨57#6, (0#2 ++ t : BitVec 6), a, (b ++ 0#8 : BitVec 14)⟩
  | .mst t a b => some ⟨57#6, (0#2 ++ t : BitVec 6), a, (b ++ 1#8 : BitVec 14)⟩
  | .mzero t => some ⟨57#6, (0#2 ++ t : BitVec 6), 0#6, 2#14⟩
  | .mwrow a b => some ⟨58#6, 0#6, a, (b ++ 0#8 : BitVec 14)⟩
  | .maddrow a b => some ⟨58#6, 0#6, a, (b ++ 1#8 : BitVec 14)⟩
  | .mwait => some ⟨59#6, 0#6, 0#6, 0#14⟩
  | .mopen d a => some ⟨60#6, d, a, 0#14⟩
  | .mclose a => some ⟨60#6, 0#6, a, 1#14⟩
  | .mstream q a b => some ⟨60#6, (7#3 ++ q : BitVec 6), a, (b ++ 2#8 : BitVec 14)⟩
  | .msheaf d a b => some ⟨60#6, d, a, (b ++ 3#8 : BitVec 14)⟩
  | .mgenrel a b => some ⟨60#6, 0#6, a, (b ++ 4#8 : BitVec 14)⟩
  | .mrecut d a => some ⟨60#6, d, a, 5#14⟩
  | .mquery d a => some ⟨60#6, d, a, 6#14⟩
  | .vsowF32 d a b m => some ⟨61#6, d, a, (b ++ 0#2 ++ BitVec.ofBool m ++ 0#5 : BitVec 14)⟩
  | .vsowF64 d a b m => some ⟨61#6, d, a, (b ++ 0#2 ++ BitVec.ofBool m ++ 1#5 : BitVec 14)⟩
  | .vsowN32 d a b m => some ⟨61#6, d, a, (b ++ 0#2 ++ BitVec.ofBool m ++ 2#5 : BitVec 14)⟩
  | .sowload a => some ⟨61#6, 0#6, a, 4#14⟩
  | .onew d a => some ⟨61#6, d, a, 8#14⟩
  | .odesc d a => some ⟨61#6, d, a, 9#14⟩
  | .oexpand d a b => some ⟨61#6, d, a, (b ++ 10#8 : BitVec 14)⟩
  | .obackup d a b => some ⟨61#6, d, a, (b ++ 11#8 : BitVec 14)⟩
  | .oreuse d a => some ⟨61#6, d, a, 12#14⟩
  | .ofree d a => some ⟨61#6, d, a, 13#14⟩
  | .oread d a b => some ⟨61#6, d, a, (b ++ 14#8 : BitVec 14)⟩
  | .cmdbCopy d a m => some ⟨62#6, d, a, (0#8 ++ BitVec.ofBool m ++ 0#5 : BitVec 14)⟩
  | .cmdbCat d a m => some ⟨62#6, d, a, (0#8 ++ BitVec.ofBool m ++ 1#5 : BitVec 14)⟩
  | .cmdbOrch d a m => some ⟨62#6, d, a, (0#8 ++ BitVec.ofBool m ++ 2#5 : BitVec 14)⟩
  | .tret => some ⟨63#6, 0#6, 0#6, 0#14⟩
  | .ctxsave a => some ⟨63#6, 0#6, a, 1#14⟩
  | .ctxload a => some ⟨63#6, 0#6, a, 2#14⟩
  | .xlinv a b => some ⟨63#6, 0#6, a, (b ++ 3#8 : BitVec 14)⟩
  | .wfi => some ⟨63#6, 0#6, 0#6, 4#14⟩
  | .fwcall => some ⟨63#6, 0#6, 0#6, 5#14⟩
  | .haltc a => some ⟨63#6, 0#6, a, 6#14⟩
  | .haltcRelease a => some ⟨63#6, 0#6, a, 6#14⟩
  | .ald d a b p m t => some ⟨48#6, d, a, (b ++ BitVec.ofBool p ++ 0#1 ++ BitVec.ofBool m ++ t : BitVec 14)⟩
  | .aldCl q => some ⟨48#6, (7#3 ++ q : BitVec 6), 0#6, 64#14⟩
  | .agather d a b m t => some ⟨49#6, d, a, (b ++ 0#2 ++ BitVec.ofBool m ++ t : BitVec 14)⟩
  | .atrans d a b r t => some ⟨50#6, d, a, (b ++ r ++ t : BitVec 14)⟩
  | .ast d a b p m => some ⟨51#6, d, a, (b ++ BitVec.ofBool p ++ 0#1 ++ BitVec.ofBool m ++ 0#5 : BitVec 14)⟩
  | .astCl q => some ⟨51#6, (14#4 ++ q : BitVec 6), 0#6, 64#14⟩
  | .ascat d a b m => some ⟨52#6, d, a, (b ++ 0#2 ++ BitVec.ofBool m ++ 0#5 : BitVec 14)⟩
  | .afar d a b m => some ⟨53#6, d, a, (b ++ 0#2 ++ BitVec.ofBool m ++ 0#5 : BitVec 14)⟩
  | .copyCommand _ _ => none
  | .copyCompletion _ _ => none
  | .adapt _ _ => none
  | .adaptStatus _ _ => none
  | .desc _ _ => none
  | .expand _ _ => none
  | .backup _ _ => none
  | .orchardRequestPerformed _ _ => none
  | .mopenBuildEnd _ _ => none
  | .sheafSetBuilt _ _ _ => none
  | .mrecutStatus _ _ => none
  | .streamEntry _ _ => none
  | .chunkResult _ _ _ => none
  | .sq3Contribution _ => none
  | .lq7Receive _ => none
  | .accessContextStop _ => none
  | .gangRetirement _ => none
  | .trapEntry _ => none
  | .suspend _ => none
  | .killgang _ => none
  | .killlaunch _ => none
  | .dhalt _ => none
  | .resume _ => none
  | .dresume _ => none
  | .gangHalt _ => none
  | .contextCommandStatus _ => none
  | .version _ => none
  | .groupset _ => none
  | .routeset _ => none
  | .attest _ => none
  | .linkstat _ => none
  | .dispatchSample _ => none
  | .placementStep _ => none
  | .gleanerBoundary _ => none
  | .gleanerArrival _ => none
  | .shelfUnitTick _ => none
  | .turnerRenewal _ => none
  | .turnerMiss _ => none
  | .registerRefresh _ => none
  | .wcEntryTimeout _ _ => none
  | .granaryTick => none
  | .granaryDebit _ => none
  | .arbiterPeriod _ => none
  | .clockLower => none
  | .clockRaise => none
  | .thermtrip => none
  | .moduleReset => none
  | .selfTest => none
  | .dclTraining => none
  | .bgo _ _ => none
  | .imageCopied => none
  | .fboot _ => none
  | .dclFailure => none
  | .portDown _ => none
  | .cxlPortLost _ => none
  | .doorbellOrdinary _ _ => none
  | .doorbellSupervisor _ _ => none
  | .doorbellDbell _ => none
  | .eventW1c _ => none
  | .seventW1c _ => none
  | .sdstatRead => none
  | .fpartWrite _ => none
  | .fgrateWrite _ => none
  | .fbtabWrite _ _ => none
  | .fctest _ => none
  | .frcommit => none
  | .fsvnWrite _ => none
  | .fhtest _ => none
  | .lgmodeWrite _ => none
  | .qenWrite _ => none
  | .cgroupWrite _ => none
  | .csrWrite _ _ => none
  | .elementGroupCompletion _ _ => none
  | .matrixUnitCompletion _ _ => none
  | .accessPerformed _ _ => none
  | .catalogueAnswer _ => none
  | .portRetrained _ => none

/-- The word of a term that has an encoding. -/
def encode (i : Instr) : Option Word32 := (encodeFields i).map Fields.word

/-- The instruction that the decoder reads from a word given as a number, first as a hart's, and where a hart refuses
it, as an access-unit context's; an instruction is one 32-bit word, so a shorter row is filled up with zeros. -/
noncomputable def decodeTableWord (nbits w : Nat) : Option Instr :=
  let word : Word32 := BitVec.ofNat 32 (w % 2 ^ nbits)
  match decode .execute word with
  | .ok i => some i
  | .error _ =>
    match decode .access word with
    | .ok i => some i
    | .error _ => none

end Sys2Proof
end

