-- ==== Sys2Proof/Machine/Crypto.lean ====
section
/-! DEFINITION. SHA-384, and ECDSA over the 384-bit random Brainpool curve, which R445 and R450 name. The algorithms and
their constants are those of the standards the manual refers to: FIPS 180-4, FIPS 186-4 and RFC 5639 (PRESUMED, log 111). -/

namespace Sys2Proof.Machine

/-- Round constants of SHA-384, the first half. -/
def shaConstsA : List (BitVec 64) := [
  0x428A2F98D728AE22, 0x7137449123EF65CD, 0xB5C0FBCFEC4D3B2F, 0xE9B5DBA58189DBBC,
  0x3956C25BF348B538, 0x59F111F1B605D019, 0x923F82A4AF194F9B, 0xAB1C5ED5DA6D8118,
  0xD807AA98A3030242, 0x12835B0145706FBE, 0x243185BE4EE4B28C, 0x550C7DC3D5FFB4E2,
  0x72BE5D74F27B896F, 0x80DEB1FE3B1696B1, 0x9BDC06A725C71235, 0xC19BF174CF692694,
  0xE49B69C19EF14AD2, 0xEFBE4786384F25E3, 0x0FC19DC68B8CD5B5, 0x240CA1CC77AC9C65,
  0x2DE92C6F592B0275, 0x4A7484AA6EA6E483, 0x5CB0A9DCBD41FBD4, 0x76F988DA831153B5,
  0x983E5152EE66DFAB, 0xA831C66D2DB43210, 0xB00327C898FB213F, 0xBF597FC7BEEF0EE4,
  0xC6E00BF33DA88FC2, 0xD5A79147930AA725, 0x06CA6351E003826F, 0x142929670A0E6E70,
  0x27B70A8546D22FFC, 0x2E1B21385C26C926, 0x4D2C6DFC5AC42AED, 0x53380D139D95B3DF,
  0x650A73548BAF63DE, 0x766A0ABB3C77B2A8, 0x81C2C92E47EDAEE6, 0x92722C851482353B]

/-- Round constants of SHA-384, the second half. -/
def shaConstsB : List (BitVec 64) := [
  0xA2BFE8A14CF10364, 0xA81A664BBC423001, 0xC24B8B70D0F89791, 0xC76C51A30654BE30,
  0xD192E819D6EF5218, 0xD69906245565A910, 0xF40E35855771202A, 0x106AA07032BBD1B8,
  0x19A4C116B8D2D0C8, 0x1E376C085141AB53, 0x2748774CDF8EEB99, 0x34B0BCB5E19B48A8,
  0x391C0CB3C5C95A63, 0x4ED8AA4AE3418ACB, 0x5B9CCA4F7763E373, 0x682E6FF3D6B2B8A3,
  0x748F82EE5DEFB2FC, 0x78A5636F43172F60, 0x84C87814A1F0AB72, 0x8CC702081A6439EC,
  0x90BEFFFA23631E28, 0xA4506CEBDE82BDE9, 0xBEF9A3F7B2C67915, 0xC67178F2E372532B,
  0xCA273ECEEA26619C, 0xD186B8C721C0C207, 0xEADA7DD6CDE0EB1E, 0xF57D4F7FEE6ED178,
  0x06F067AA72176FBA, 0x0A637DC5A2C898A6, 0x113F9804BEF90DAE, 0x1B710B35131C471B,
  0x28DB77F523047D84, 0x32CAAB7B40C72493, 0x3C9EBE0A15C9BEBC, 0x431D67C49C100D4C,
  0x4CC5D4BECB3E42B6, 0x597F299CFC657E2A, 0x5FCB6FAB3AD6FAEC, 0x6C44198C4A475817]

/-- The eight working words of SHA-384. -/
structure ShaState where
  a : BitVec 64
  b : BitVec 64
  c : BitVec 64
  d : BitVec 64
  e : BitVec 64
  f : BitVec 64
  g : BitVec 64
  h : BitVec 64
  deriving DecidableEq, Repr

/-- The words before the first block. -/
def shaStart : ShaState :=
  ⟨0xCBBB9D5DC1059ED8, 0x629A292A367CD507, 0x9159015A3070DD17, 0x152FECD8F70E5939,
    0x67332667FFC00B31, 0x8EB44A8768581511, 0xDB0C2E0D64F98FA7, 0x47B5481DBEFA4FA4⟩

/-- Rotation to the right. -/
def rotr64 (x : BitVec 64) (n : Nat) : BitVec 64 := (x >>> n) ||| (x <<< (64 - n))

/-- One round. -/
def shaRound (x : ShaState) (k w : BitVec 64) : ShaState :=
  let s1 := rotr64 x.e 14 ^^^ rotr64 x.e 18 ^^^ rotr64 x.e 41
  let ch := (x.e &&& x.f) ^^^ (~~~x.e &&& x.g)
  let t1 := x.h + s1 + ch + k + w
  let s0 := rotr64 x.a 28 ^^^ rotr64 x.a 34 ^^^ rotr64 x.a 39
  let maj := (x.a &&& x.b) ^^^ (x.a &&& x.c) ^^^ (x.b &&& x.c)
  ⟨t1 + (s0 + maj), x.a, x.b, x.c, x.d + t1, x.e, x.f, x.g⟩

/-- The word of the schedule that follows sixteen words, the earliest first. -/
def shaNext (w : List (BitVec 64)) : BitVec 64 :=
  let x (i : Nat) : BitVec 64 := (w[i]?).getD 0
  let s0 := rotr64 (x 1) 1 ^^^ rotr64 (x 1) 8 ^^^ (x 1 >>> 7)
  let s1 := rotr64 (x 14) 19 ^^^ rotr64 (x 14) 61 ^^^ (x 14 >>> 6)
  x 0 + s0 + x 9 + s1

/-- The rounds of a block, with a window of sixteen words of its schedule. -/
def shaRounds : List (BitVec 64) → List (BitVec 64) → ShaState → ShaState
  | [], _, x => x
  | k :: ks, w, x => shaRounds ks (w.drop 1 ++ [shaNext w]) (shaRound x k (w.headD 0))

/-- Big-endian value of bytes. -/
def bigEndian (l : List (BitVec 8)) : Nat := l.foldl (fun v b => 256 * v + b.toNat) 0

/-- The n bytes of a number, big-endian. -/
def bigBytes (v : Nat) : Nat → List (BitVec 8)
  | 0 => []
  | n + 1 => bigBytes (v / 256) n ++ [BitVec.ofNat 8 v]

/-- The eight words after a block of 128 bytes. -/
def shaBlock (x : ShaState) (block : List (BitVec 8)) : ShaState :=
  let w := (List.range 16).map fun i => BitVec.ofNat 64 (bigEndian ((block.drop (8 * i)).take 8))
  let y := shaRounds (shaConstsA ++ shaConstsB) w x
  ⟨x.a + y.a, x.b + y.b, x.c + y.c, x.d + y.d, x.e + y.e, x.f + y.f, x.g + y.g, x.h + y.h⟩

/-- The words after n blocks of a padded message. -/
def shaBlocks : Nat → List (BitVec 8) → ShaState → ShaState
  | 0, _, x => x
  | n + 1, l, x => shaBlocks n (l.drop 128) (shaBlock x (l.take 128))

/-- SHA-384: 48 bytes. -/
def sha384 (msg : List (BitVec 8)) : List (BitVec 8) :=
  let n := msg.length
  let blocks := (n + 17 + 127) / 128
  let padded := msg ++ [0x80#8] ++ List.replicate (128 * blocks - n - 17) 0 ++ bigBytes (8 * n) 16
  let y := shaBlocks blocks padded shaStart
  [y.a, y.b, y.c, y.d, y.e, y.f].flatMap fun w => bigBytes w.toNat 8

/-- The field of the curve. -/
def curveP : Nat := 0x8CB91E82A3386D280F5D6F7E50E641DF152F7109ED5456B412B1DA197FB71123ACD3A729901D1A71874700133107EC53

/-- Its coefficient of x. -/
def curveA : Nat := 0x7BC382C63D8C150C3C72080ACE05AFA0C2BEA28E4FB22787139165EFBA91F90F8AA5814A503AD4EB04A8C7DD22CE2826

/-- Its constant coefficient. -/
def curveB : Nat := 0x04A8C7DD22CE28268B39B55416F0447C2FB77DE107DCD2A62E880EA53EEB62D57CB4390295DBC9943AB78696FA504C11

/-- The order of its group. -/
def curveN : Nat := 0x8CB91E82A3386D280F5D6F7E50E641DF152F7109ED5456B31F166E6CAC0425A7CF3AB6AF6B7FC3103B883202E9046565

/-- Its base point. -/
def curveG : Nat × Nat :=
  (0x1D1C64F068CF45FFA2A63A81B7C13F6B8847A3E77EF14FE3DB7FCAFE0CBD10E8E826E03436D646AAEF87B2E247D4AF1E,
   0x8ABE1D7520F9C2A45CB1EB8E95CFD55262B70B29FEEC5864E19C054FF99129280E4646217791811142820341263C5315)

/-- Whether a point is on the curve. -/
def onCurve (q : Nat × Nat) : Bool :=
  decide (q.1 < curveP) && decide (q.2 < curveP) &&
    decide (q.2 * q.2 % curveP = ((q.1 * q.1 + curveA) * q.1 + curveB) % curveP)

/-- A power modulo m: of the exponent, the lowest n bits count. -/
def powMod (m b e : Nat) : Nat → Nat
  | 0 => 1
  | n + 1 =>
    let r := powMod m (b * b % m) (e / 2) n
    if e % 2 = 1 then b * r % m else r

/-- The inverse modulo a prime below 2^384. -/
def invMod (m v : Nat) : Nat := powMod m v (m - 2) 384

/-- A point of the group; none is its neutral element. -/
abbrev CurvePoint := Option (Nat × Nat)

/-- The sum of two points. -/
def curveAdd (x y : CurvePoint) : CurvePoint :=
  match x, y with
  | none, q => q
  | q, none => q
  | some (x1, y1), some (x2, y2) =>
    if x1 = x2 && (y1 + y2) % curveP = 0 then none
    else
      let l := (if x1 = x2 then (3 * x1 * x1 + curveA) * invMod curveP (2 * y1 % curveP)
        else (y2 + curveP - y1) * invMod curveP ((x2 + curveP - x1) % curveP)) % curveP
      let x3 := (l * l + 2 * curveP - x1 - x2) % curveP
      some (x3, (l * (x1 + curveP - x3) + curveP - y1) % curveP)

/-- k times a point: of k, the lowest n bits count. -/
def curveMul (q : CurvePoint) (k : Nat) : Nat → CurvePoint
  | 0 => none
  | n + 1 =>
    let r := curveMul (curveAdd q q) (k / 2) n
    if k % 2 = 1 then curveAdd q r else r

/-- A public key of 97 bytes: 0x04, X, Y (R444). -/
def keyPoint (l : List (BitVec 8)) : Option (Nat × Nat) :=
  let q := (bigEndian ((l.drop 1).take 48), bigEndian ((l.drop 49).take 48))
  if l.length = 97 && l.headD 0 = 4#8 && onCurve q then some q else none

/-- Whether r and s are a valid signature of a digest under a public key (R445). -/
def signatureValid (pub digest : List (BitVec 8)) (r s : Nat) : Bool :=
  match keyPoint pub with
  | none => false
  | some q =>
    if r = 0 || decide (curveN ≤ r) || s = 0 || decide (curveN ≤ s) then false
    else
      let w := invMod curveN s
      let u1 := bigEndian digest * w % curveN
      let u2 := r * w % curveN
      match curveAdd (curveMul (some curveG) u1 384) (curveMul (some q) u2 384) with
      | none => false
      | some (x, _) => x % curveN = r

/-- The public key of a private one, in the form of PUBKEY (R444, R450). -/
def publicKey (d : Nat) : List (BitVec 8) :=
  match curveMul (some curveG) d 384 with
  | some (x, y) => 4#8 :: bigBytes x 48 ++ bigBytes y 48
  | none => List.replicate 97 0

/-- The signature of a digest by a private key with a secret number k (R450): r and s, of 48 bytes each. -/
def sign (d k : Nat) (digest : List (BitVec 8)) : List (BitVec 8) :=
  match curveMul (some curveG) k 384 with
  | none => List.replicate 96 0
  | some (x, _) =>
    let r := x % curveN
    bigBytes r 48 ++ bigBytes (invMod curveN k * (bigEndian digest + r * d) % curveN) 48

end Sys2Proof.Machine
end

