-- ==== Sys2Proof/Machine/Tag.lean ====
section
/-! DEFINITION. Element tags (R50), the function names of the vector and matrix instructions, and what a queued
instruction carries. -/

namespace Sys2Proof.Machine

/-- The element tags of R50, in the order of their codes. -/
inductive Tag where
  | f64 | f32 | f16 | bf16 | f8a | f8b | f4 | l6 | i4 | i8 | i16 | i32 | i64 | n4 | n8 | n16 | n32 | n64
  deriving DecidableEq, Repr

/-- The code of a tag (R50). -/
def Tag.code : Tag → Nat
  | .f64 => 0 | .f32 => 1 | .f16 => 2 | .bf16 => 3 | .f8a => 4 | .f8b => 5 | .f4 => 6 | .l6 => 7 | .i4 => 8
  | .i8 => 9 | .i16 => 10 | .i32 => 11 | .i64 => 12 | .n4 => 13 | .n8 => 14 | .n16 => 15 | .n32 => 16 | .n64 => 17

/-- The tag of a code; codes 18 to 31 are never held (R50). -/
def Tag.ofCode : Nat → Option Tag
  | 0 => some .f64 | 1 => some .f32 | 2 => some .f16 | 3 => some .bf16 | 4 => some .f8a | 5 => some .f8b
  | 6 => some .f4 | 7 => some .l6 | 8 => some .i4 | 9 => some .i8 | 10 => some .i16 | 11 => some .i32
  | 12 => some .i64 | 13 => some .n4 | 14 => some .n8 | 15 => some .n16 | 16 => some .n32 | 17 => some .n64
  | _ => none

/-- The slot width in bytes (R50). -/
def Tag.width : Tag → Nat
  | .f64 | .i64 | .n64 => 8
  | .f32 | .i32 | .n32 => 4
  | .f16 | .bf16 | .i16 | .n16 => 2
  | .f8a | .f8b | .f4 | .l6 | .i4 | .i8 | .n4 | .n8 => 1

/-- The element width in bits (R67, R69, R70). -/
def Tag.bits : Tag → Nat
  | .f64 | .i64 | .n64 => 64
  | .f32 | .i32 | .n32 => 32
  | .f16 | .bf16 | .i16 | .n16 => 16
  | .f8a | .f8b | .i8 | .n8 => 8
  | .l6 => 6
  | .f4 | .i4 | .n4 => 4

/-- A floating tag, L6 among them (R66). -/
def Tag.floating : Tag → Bool
  | .f64 | .f32 | .f16 | .bf16 | .f8a | .f8b | .f4 | .l6 => true
  | _ => false

/-- A signed integer tag (R70). -/
def Tag.signed : Tag → Bool
  | .i4 | .i8 | .i16 | .i32 | .i64 => true
  | _ => false

/-- An integer tag (R70). -/
def Tag.integer (t : Tag) : Bool := !t.floating

/-- A tag that block scales apply to (R73). -/
def Tag.scaled : Tag → Bool
  | .f8a | .f8b | .f4 | .l6 => true
  | _ => false

/-- A tag packed in memory (R71, R72). -/
def Tag.subByte : Tag → Bool
  | .f4 | .l6 | .i4 | .n4 => true
  | _ => false

/-- The launch default tag of a declared width (R47). -/
def Tag.default : Nat → Tag
  | 8 => .f64 | 4 => .f32 | 2 => .f16 | _ => .n8

/-- The unsigned tag of a width, declared by the registers of an access-unit context (R252). -/
def Tag.unsigned : Nat → Tag
  | 8 => .n64 | 4 => .n32 | 2 => .n16 | _ => .n8

/-- Functions of VOP and VACC (R205, R206). -/
inductive AluFn where
  | add | sub | mul | div | min | max | sadd | ssub | mulh | rem | and | or | xor | sll | shr | sqrt | abs | neg
  | sgnj | sgnjn | sgnjx | cls | mv
  deriving DecidableEq, Repr

/-- Functions of the fused forms, scalar and vector (R173, R208). -/
inductive FmaFn where
  | madd | msub | nmadd | nmsub
  deriving DecidableEq, Repr

/-- Relations of VCMP (R210). -/
inductive CmpFn where
  | eq | ne | lt | le | gt | ge | unord
  deriving DecidableEq, Repr

/-- Two-source functions of VMASK (R211). -/
inductive MaskFn where
  | and | or | xor | andn | not
  deriving DecidableEq, Repr

/-- Operators of reductions, scans, windows and collectives (R220, R221, R235, R264). -/
inductive FoldFn where
  | add | min | max | and | or | xor
  deriving DecidableEq, Repr

/-- How the address of a vector memory element is formed (R225, R257). -/
inductive AddrForm where
  /-- ga + i x ws. -/
  | unit
  /-- ga + i x gb. -/
  | strided
  /-- COL: ga + (i mod 64) x gb + floor(i / 64) x ws. -/
  | column
  /-- ATRANS with the given row count: ga + (i mod r) x gb + floor(i / r) x ws. -/
  | rows (r : Nat)
  /-- ga + vb[i]. -/
  | indexed
  /-- A far gather over NELEM elements: ga + vb[i] x ws (R260). -/
  | far (nelem : Nat)
  deriving DecidableEq, Repr

/-- What a Sower instruction writes (R340, R341). -/
inductive SowFn where
  | f32 | f64 | n32
  deriving DecidableEq, Repr

/-- The engine a CMDB sends its commands to (R242). -/
inductive Engine where
  | copy | catalogue | orchard
  deriving DecidableEq, Repr

/-- What a queued vector or matrix instruction does. -/
inductive VOp where
  | alu (f : AluFn)
  | fma (f : FmaFn)
  | cmp (f : CmpFn)
  | mask (f : MaskFn)
  | mpopc
  | mfirst
  | mset
  | vid
  | sel
  | gete
  | sete
  | salsel (g k : Nat)
  | cvt
  | resh
  | slideUp
  | slideDn
  | slide1Up
  | slide1Dn
  | gather
  | send
  | cmprs
  | expnd
  | bcast
  | red (f : FoldFn)
  | scan (f : FoldFn)
  | func (slot : Nat)
  | cfg
  | load (form : AddrForm) (arr ff : Bool)
  | store (form : AddrForm) (nt : Bool)
  | win
  | wacc
  | wmerge
  | lsync
  | fence (scope kind : Nat)
  | cmdb (e : Engine)
  | stream
  | sow (f : SowFn)
  | oexpand
  | contribute
  | receive
  /-- QDRAIN of an access-unit context, its mask in `opa` (R250). -/
  | drain
  | mma (negA negB first narrow : Bool)
  | mld
  | mst
  | mzero
  | mwrow (add : Bool)
  deriving DecidableEq, Repr

/-- A source of a queued instruction. -/
inductive Src where
  | none
  /-- A vector register. -/
  | reg (n : Nat)
  /-- The popped queue entry of that identity (R197). -/
  | entry (id : Nat)
  /-- A scalar value read at push (R150). -/
  | scalar (v : Word)
  /-- Row m of tile t (R209). -/
  | row (t m : Nat)
  deriving DecidableEq, Repr

/-- A destination of a queued instruction. -/
inductive Dst where
  | none
  | reg (n : Nat)
  /-- Store queue n of the gang, pushed at completion (R197). -/
  | sq (n : Nat)
  /-- Load queue q, and the entry the form pushed when it began (R254). -/
  | lq (q : Nat) (id : Option Nat)
  /-- A scalar register, written at completion (R198). -/
  | scalar (r : Nat)
  /-- A tile, or row m of it (R289). -/
  | tile (t m : Nat)
  deriving DecidableEq, Repr

/-- One record of a vector, matrix or access queue (R55, R250, R273, R400): the instruction, and everything it reads
at push (R77, R387). -/
structure VRec where
  op : VOp
  seq : Nat
  /-- Place in the push order that the vector and matrix queues share (R273). -/
  ord : Nat
  pc : Word
  word : Word32
  vl : Nat
  /-- Lanes of the agent at push; an element group has as many elements. -/
  lanes : Nat
  mrows : Nat
  blk : Nat
  frm : Word
  masked : Bool
  scaled : Bool
  short : Bool
  dst : Dst
  srcA : Src
  srcB : Src
  tagA : Tag
  tagB : Tag
  /-- Tag of the destination before the push. -/
  tagD : Tag
  /-- Operating tag (R81). -/
  opTag : Tag
  /-- Tag written (R195). -/
  outTag : Tag
  /-- The tag written has another slot width than the destination had (R195). -/
  rezero : Bool
  opa : Word
  opb : Word
  /-- The scalar operands read at push by the A and B specifiers; zero where a specifier names none (R400). -/
  gA : Word
  gB : Word
  /-- mshape at push (R279). -/
  shape : BitVec 25
  /-- Progress index (R53, R274). -/
  pi : Nat
  flags : BitVec 6
  /-- Store-queue data under construction, and whole-vector results. -/
  out : List (Nat × BitVec 64)
  /-- Queue entries this record will pop, each taken off its queue at its first group. -/
  pops : List Nat
  /-- The scalar result is in `opb`, and every group is complete (R56). -/
  done : Bool
  /-- FPX is not raised at this group (R385). -/
  supp : Bool
  /-- Has written an element of its destination (R62). -/
  wrote : Bool
  /-- Raised a cause at its next group and waits for the trap to be taken. -/
  stuck : Bool
  /-- Members of group k and up are not to be written: set by FF (R229). -/
  cut : Option Nat
  /-- Deterministic epoch (R137). -/
  epoch : Nat
  /-- Elements of a load that were performed ahead of its step, in no order with other slices (R115, R117). -/
  early : List (Nat × BitVec 64)
  /-- The area of its accumulation window has been released since its push (R233). -/
  dead : Bool
  deriving DecidableEq, Repr

/-- Instructions whose effect on their destination's tag does not depend on vl (R196). -/
def VOp.always : VOp → Bool
  | .cfg | .vid | .mset | .gete | .sete | .bcast => true
  | _ => false

end Sys2Proof.Machine
end

