-- ==== Sys2Proof/Machine/Num.lean ====
section
/-! DEFINITION. Number formats, exact values, the one rounding, conversions, and the integer functions (03_numbers.md).
A value is decoded to an exact dyadic number, computed exactly, and narrowed once. -/

namespace Sys2Proof.Machine

/-- The value of a bit pattern (R66): NaN with its signalling mark, an infinity, or sign, magnitude and power of two. -/
inductive Val where
  | nan (sig : Bool)
  | inf (neg : Bool)
  | fin (neg : Bool) (m : Nat) (e : Int)
  deriving DecidableEq, Repr

/-- A rounded result: bits at a tag and the flags it sets (R76). -/
abbrev Rounded := BitVec 64 × BitVec 6

/-- fflags bits (R76). -/
def fNV : BitVec 6 := 1#6
/-- Division by zero. -/
def fDZ : BitVec 6 := 2#6
/-- Overflow. -/
def fOF : BitVec 6 := 4#6
/-- Underflow. -/
def fUF : BitVec 6 := 8#6
/-- Inexact. -/
def fNX : BitVec 6 := 16#6
/-- Clamped. -/
def fSAT : BitVec 6 := 32#6

/-- NV when the condition holds. -/
def nvIf (b : Bool) : BitVec 6 := if b then fNV else 0

/-- Fraction bits of a floating tag (R67). -/
def Tag.fracBits : Tag → Nat
  | .f64 => 52 | .f32 => 23 | .f16 => 10 | .bf16 => 7 | .f8a => 3 | .f8b => 2 | .f4 => 1 | _ => 0

/-- Exponent bias of a floating tag (R67). -/
def Tag.bias : Tag → Nat
  | .f64 => 1023 | .f32 => 127 | .f16 => 15 | .bf16 => 127 | .f8a => 7 | .f8b => 15 | .f4 => 1 | _ => 0

/-- The pattern of the greatest finite magnitude, sign clear (R67, R68). -/
def Tag.maxBits : Tag → Nat
  | .f64 => 0x7FEFFFFFFFFFFFFF | .f32 => 0x7F7FFFFF | .f16 => 0x7BFF | .bf16 => 0x7F7F | .f8a => 0x7E | .f8b => 0x7B
  | .f4 => 0x7 | .l6 => 0x0F | _ => 0

/-- The pattern of an infinity, sign clear, for the tags that hold one (R68). -/
def Tag.infBits : Tag → Nat
  | .f64 => 0x7FF0000000000000 | .f32 => 0x7F800000 | .f16 => 0x7C00 | .bf16 => 0x7F80 | .f8b => 0x7C | _ => 0

/-- canonical_nan (R68, R91). -/
def canonicalNan : Tag → BitVec 64
  | .f64 => 0x7FF8000000000000#64 | .f32 => 0x7FC00000#64 | .f16 => 0x7E00#64 | .bf16 => 0x7FC0#64
  | .f8a => 0x7F#64 | .f8b => 0x7E#64 | .l6 => 0x30#64 | _ => 0#64

/-- Flags of writing a canonical NaN to a tag that holds no NaN (R91). -/
def nanWriteFlags (t : Tag) : BitVec 6 :=
  match t with
  | .f64 | .f32 | .f16 | .bf16 | .f8a | .f8b | .l6 => 0
  | _ => fNV

/-- Significands of the L6 fraction table, in units of 2^-23 (R69). -/
def l6Frac : Nat → Nat
  | 0 => 0x800000 | 1 => 0x9837F0 | 2 => 0xB504F3 | _ => 0xD744FD

/-- e_of (R91): the exponent of an L6 code. -/
def l6Exp (b : BitVec 64) : Int :=
  let e := b.toNat % 32
  if e < 16 then (e : Int) else (e : Int) - 32

/-- The L6 magnitude with exponent e (R69). -/
def l6Mag (neg : Bool) (e : Int) : Val := .fin neg (l6Frac (e % 4).toNat) (e / 4 - 23)

/-- The integer a pattern of an integer tag stands for (R70). -/
def intOf (t : Tag) (b : BitVec 64) : Int :=
  let u := b.toNat % 2 ^ t.bits
  if t.signed && decide (2 ^ (t.bits - 1) ≤ u) then (u : Int) - 2 ^ t.bits else (u : Int)

/-- The pattern of an integer at an integer tag, wrapped; an I4 is held sign-extended in its byte (R70; log 101). -/
def ofInt (t : Tag) (x : Int) : BitVec 64 :=
  let u := (x % 2 ^ t.bits).toNat
  if t = .i4 && decide (8 ≤ u) then BitVec.ofNat 64 (u + 240) else BitVec.ofNat 64 u

/-- Least and greatest integer of a tag (R70). -/
def intMin (t : Tag) : Int := if t.signed then -(2 ^ (t.bits - 1) : Int) else 0
/-- Greatest integer of a tag. -/
def intMax (t : Tag) : Int := if t.signed then (2 ^ (t.bits - 1) : Int) - 1 else (2 ^ t.bits : Int) - 1

/-- The value of an integer. -/
def Val.ofInt (x : Int) : Val := .fin (decide (x < 0)) x.natAbs 0

/-- decode (R66 to R70). -/
def decode (t : Tag) (b : BitVec 64) : Val :=
  match t with
  | .l6 =>
    let neg := b.getLsbD 5
    let c := b.toNat % 64
    if c = 0x10 then .fin false 0 0 else if c = 0x30 then .nan false else l6Mag neg (l6Exp b)
  | .f64 | .f32 | .f16 | .bf16 | .f8a | .f8b | .f4 =>
    let p := t.fracBits
    let neg := b.getLsbD (t.bits - 1)
    let ee := b.toNat / 2 ^ p % 2 ^ (t.bits - 1 - p)
    let m := b.toNat % 2 ^ p
    let top := 2 ^ (t.bits - 1 - p) - 1
    let special :=
      match t with
      | .f4 => false
      | .f8a => decide (ee = top) && decide (m = 7)
      | _ => decide (ee = top)
    if special then
      if m = 0 then .inf neg
      else .nan (match t with | .f8a | .f8b => false | _ => decide (m < 2 ^ (p - 1)))
    else if ee = 0 then .fin neg m (1 - (t.bias : Int) - p)
    else .fin neg (2 ^ p + m) ((ee : Int) - t.bias - p)
  | _ => Val.ofInt (intOf t b)

/-- Signalling NaN. -/
def Val.signals : Val → Bool
  | .nan s => s
  | _ => false

/-- NaN of either kind. -/
def Val.isNan : Val → Bool
  | .nan _ => true
  | _ => false

/-- Sign, of a number. -/
def Val.neg? : Val → Bool
  | .nan _ => false
  | .inf n => n
  | .fin n _ _ => n

/-- Zero of either sign. -/
def Val.isZero : Val → Bool
  | .fin _ 0 _ => true
  | _ => false

/-- The opposite number. -/
def Val.flip : Val → Val
  | .nan s => .nan s
  | .inf n => .inf (!n)
  | .fin n m e => .fin (!n) m e

/-- Exact product (R171); 0 x infinity is a NaN with NV. -/
def Val.mul : Val → Val → Val × BitVec 6
  | .nan s, y => (.nan false, nvIf (s || y.signals))
  | .inf _, .nan s => (.nan false, nvIf s)
  | .fin _ _ _, .nan s => (.nan false, nvIf s)
  | .inf a, .inf b => (.inf (a != b), 0)
  | .inf a, .fin b m _ => if m = 0 then (.nan false, fNV) else (.inf (a != b), 0)
  | .fin a m _, .inf b => if m = 0 then (.nan false, fNV) else (.inf (a != b), 0)
  | .fin a m e, .fin b n f => (.fin (a != b) (m * n) (e + f), 0)

/-- Exact sum (R171, R78): a zero sum of opposite signs is +0, and -0 when rounding toward minus infinity. -/
def Val.add (rm : Nat) : Val → Val → Val × BitVec 6
  | .nan s, y => (.nan false, nvIf (s || y.signals))
  | .inf _, .nan s => (.nan false, nvIf s)
  | .fin _ _ _, .nan s => (.nan false, nvIf s)
  | .inf a, .inf b => if a = b then (.inf a, 0) else (.nan false, fNV)
  | .inf a, .fin _ _ _ => (.inf a, 0)
  | .fin _ _ _, .inf b => (.inf b, 0)
  | .fin a m e, .fin b n f =>
    let g := min e f
    let m' := m * 2 ^ (e - g).toNat
    let n' := n * 2 ^ (f - g).toNat
    if a = b then (.fin a (m' + n') g, 0)
    else if n' < m' then (.fin a (m' - n') g, 0)
    else if m' < n' then (.fin b (n' - m') g, 0)
    else (.fin (decide (rm = 3)) 0 g, 0)

/-- Exact difference. -/
def Val.sub (rm : Nat) (x y : Val) : Val × BitVec 6 := Val.add rm x y.flip

/-- Quotient (R171): 140 bits and more, with a last bit that says whether any are missing. -/
def Val.div : Val → Val → Val × BitVec 6
  | .nan s, y => (.nan false, nvIf (s || y.signals))
  | .inf _, .nan s => (.nan false, nvIf s)
  | .fin _ _ _, .nan s => (.nan false, nvIf s)
  | .inf _, .inf _ => (.nan false, fNV)
  | .inf a, .fin b _ _ => (.inf (a != b), 0)
  | .fin a _ _, .inf b => (.fin (a != b) 0 0, 0)
  | .fin a m e, .fin b n f =>
    if n = 0 then if m = 0 then (.nan false, fNV) else (.inf (a != b), fDZ)
    else
      let s := 140 + Nat.log2 n
      let x := m * 2 ^ s
      (.fin (a != b) (2 * (x / n) + (if x % n = 0 then 0 else 1)) (e - f - s - 1), 0)

/-- The integer square root, one bit at a time from bit `i`. -/
def isqrt (n : Nat) : Nat → Nat → Nat
  | 0, r => r
  | i + 1, r =>
    let t := r + 2 ^ i
    isqrt n i (if t * t ≤ n then t else r)

/-- Square root (R171, R206), with a last bit that says whether any bits are missing. -/
def Val.sqrt : Val → Val × BitVec 6
  | .nan s => (.nan false, nvIf s)
  | .inf n => if n then (.nan false, fNV) else (.inf false, 0)
  | .fin n m e =>
    if m = 0 then (.fin n 0 e, 0)
    else if n then (.nan false, fNV)
    else
      let s0 := 282 - min 282 (Nat.log2 m)
      let s := if (e - s0) % 2 = 0 then s0 else s0 + 1
      let x := m * 2 ^ s
      let r := isqrt x 200 0
      (.fin false (2 * r + (if r * r = x then 0 else 1)) ((e - s) / 2 - 1), 0)

/-- Order of two numbers, none with a NaN; -0 equals +0. -/
def Val.compare : Val → Val → Option Ordering
  | .nan _, _ => none
  | _, .nan _ => none
  | .inf a, .inf b => some (if a = b then .eq else if a then .lt else .gt)
  | .inf a, .fin _ _ _ => some (if a then .lt else .gt)
  | .fin _ _ _, .inf b => some (if b then .gt else .lt)
  | .fin a m e, .fin b n f =>
    let g := min e f
    let x : Int := (if a then -1 else 1) * (m * 2 ^ (e - g).toNat : Nat)
    let y : Int := (if b then -1 else 1) * (n * 2 ^ (f - g).toNat : Nat)
    some (if x < y then .lt else if x = y then .eq else .gt)

/-- Minimum and maximum by R172: -0 below +0, a single NaN gives the other operand. -/
def Val.minMax (isMax : Bool) (x y : Val) : Val × BitVec 6 :=
  let nv := nvIf (x.signals || y.signals)
  match Val.compare x y with
  | none => (if x.isNan then (if y.isNan then .nan false else y) else x, nv)
  | some .lt => (if isMax then y else x, nv)
  | some .gt => (if isMax then x else y, nv)
  | some .eq => (if x.neg? = isMax then y else x, nv)

/-- Round m / 2^sh to an integer (R78): the integer, and whether it is inexact. -/
def roundNat (rm : Nat) (u : Option Nat) (neg : Bool) (m sh : Nat) : Nat × Bool :=
  let k := m / 2 ^ sh
  let r := m % 2 ^ sh
  if r = 0 then (k, false)
  else
    let nearest := decide (2 ^ sh < 2 * r) || (decide (2 * r = 2 ^ sh) && decide (k % 2 = 1))
    let up :=
      match rm with
      | 1 => false
      | 2 => !neg
      | 3 => neg
      | 4 =>
        match u with
        | none => nearest
        | some u =>
          if neg then !decide (u < 2 ^ 32 * (2 ^ sh - r) / 2 ^ sh) else decide (u < 2 ^ 32 * r / 2 ^ sh)
      | _ => nearest
    (if up then k + 1 else k, true)

/-- A signed pattern of a floating tag. -/
def signed (t : Tag) (neg : Bool) (mag : Nat) : BitVec 64 :=
  BitVec.ofNat 64 (mag + if neg then 2 ^ (t.bits - 1) else 0)

/-- Overflow (R79). -/
def overflow (t : Tag) (rm : Nat) (nosat neg : Bool) : Rounded :=
  match t with
  | .f4 => (signed t neg t.maxBits, fSAT ||| fOF ||| fNX)
  | .f8a => if nosat then (canonicalNan t, fOF ||| fNX ||| fNV) else (signed t neg t.maxBits, fSAT ||| fOF ||| fNX)
  | _ =>
    if t = .f8b && !nosat then (signed t neg t.maxBits, fSAT ||| fOF ||| fNX)
    else
      let big := match rm with
        | 1 => false
        | 2 => !neg
        | 3 => neg
        | _ => true
      (signed t neg (if big then t.infBits else t.maxBits), fOF ||| fNX)

/-- A nonzero finite value rounded to a floating tag other than L6 (R78, R79). Tiny is decided after rounding (R76), with
unbounded exponent (DEDUCED, log 18). -/
def roundFloat (t : Tag) (rm : Nat) (nosat : Bool) (u : Option Nat) (neg : Bool) (m : Nat) (e : Int) : Rounded :=
  let p := t.fracBits
  let top : Int := e + Nat.log2 m
  let least : Int := 1 - (t.bias : Int)
  let q : Int := max top least - p
  let (k, inexact) := if q ≤ e then (m * 2 ^ (e - q).toNat, false) else roundNat rm u neg m (q - e).toNat
  let mag := ((q + p + t.bias - 1).toNat) * 2 ^ p + k
  if t.maxBits < mag then overflow t rm nosat neg
  else
    let q2 : Int := top - p
    let k2 := if q2 ≤ e then 0 else (roundNat rm u neg m (q2 - e).toNat).1
    let tiny := decide (top < least) && !(decide (k2 = 2 ^ (p + 1)) && decide (top + 1 = least))
    (signed t neg mag, (if inexact then fNX else 0) ||| (if inexact && tiny then fUF else 0))

/-- Candidates of L6 rounding: exponents -15 to 15 in turn, keeping the nearest, an even one at a tie (R84). -/
def l6Nearest (m : Nat) (e : Int) : Nat → Int × Nat
  | 0 => (-16, m * 2 ^ (e + 4096).toNat)
  | n + 1 =>
    let best := l6Nearest m e n
    let c : Int := (n : Int) - 15
    let mag := l6Frac (c % 4).toNat * 2 ^ (c / 4 - 23 + 4096).toNat
    let x := m * 2 ^ (e + 4096).toNat
    let d := if mag ≤ x then x - mag else mag - x
    if d < best.2 || (d = best.2 && c % 2 = 0) then (c, d) else best

/-- A value rounded to L6 (R83, R84). -/
def roundL6 : Val → Rounded
  | .nan _ => (0x30#64, 0)
  | .inf n => (if n then 0x2F#64 else 0x0F#64, fSAT ||| fNX)
  | .fin n m e =>
    if m = 0 then (0x10#64, 0)
    else
      let e' := max e (-4096)
      let m' := if e' = e then m else 1
      match Val.compare (.fin false m' e') (l6Mag false 15) with
      | some .gt => (if n then 0x2F#64 else 0x0F#64, fSAT ||| fNX)
      | _ =>
        let (c, d) := l6Nearest m' e' 31
        if c = -16 then (0x10#64, fUF ||| fNX)
        else (BitVec.ofNat 64 ((if n then 32 else 0) + (c % 32).toNat), if d = 0 then 0 else fNX)

/-- A value rounded to an integer tag (R83). -/
def roundInt (t : Tag) (rm : Nat) (u : Option Nat) : Val → Rounded
  | .nan _ => (0, fNV)
  | .inf n => (ofInt t (if n then intMin t else intMax t), fNV)
  | .fin n m e =>
    let (k, inexact) := if 0 ≤ e then (m * 2 ^ e.toNat, false) else roundNat rm u n m (-e).toNat
    let x : Int := if n then -(k : Int) else k
    if x < intMin t then (ofInt t (intMin t), fNV)
    else if intMax t < x then (ofInt t (intMax t), fNV)
    else (ofInt t x, if inexact then fNX else 0)

/-- round_to_tag with the mode given apart (R83, R91). -/
def roundTo (t : Tag) (rm : Nat) (nosat : Bool) (u : Option Nat) (v : Val) : Rounded :=
  match t with
  | .l6 => roundL6 v
  | .f64 | .f32 | .f16 | .bf16 | .f8a | .f8b | .f4 =>
    match v with
    | .nan s => if t = .f4 then (0, fNV) else (canonicalNan t, nvIf s)
    | .inf n =>
      match t with
      | .f8a => if nosat then (canonicalNan t, fNV) else (signed t n t.maxBits, fSAT ||| fNX)
      | .f8b => if nosat then (signed t n t.infBits, 0) else (signed t n t.maxBits, fSAT ||| fNX)
      | .f4 => (signed t n t.maxBits, fSAT ||| fNX)
      | _ => (signed t n t.infBits, 0)
    | .fin n m e => if m = 0 then (signed t n 0, 0) else roundFloat t rm nosat u n m e
  | _ => roundInt t rm u v

/-- frm.RM (R75). -/
def frmRm (f : Word) : Nat := f.toNat % 8

/-- frm.NOSAT (R75). -/
def frmNosat (f : Word) : Bool := f.getLsbD 3

/-- round_to_tag under a frm value, with the Sower word when RM = 4 (R91). -/
def roundTag (t : Tag) (f : Word) (u : Option Nat) (v : Val) : Rounded := roundTo t (frmRm f) (frmNosat f) u v

/-- round_to_tag with ties to even and frm value 0. -/
def roundEven (t : Tag) (v : Val) : Rounded := roundTo t 0 false none v

/-- Conversion between tags (R83 to R85); the same tag moves bits. -/
def convert (src dst : Tag) (f : Word) (u : Option Nat) (b : BitVec 64) : Rounded :=
  if src = dst then (b, 0)
  else if src.integer && dst.integer then
    let x := intOf src b
    if x < intMin dst then (ofInt dst (intMin dst), fSAT)
    else if intMax dst < x then (ofInt dst (intMax dst), fSAT)
    else (ofInt dst x, 0)
  else roundTag dst f u (decode src b)

/-- Rank of a floating tag (R81). -/
def Tag.rank : Tag → Nat
  | .f64 => 4 | .f32 => 3 | .f16 => 2 | .bf16 => 2 | .f8a => 1 | .f8b => 1 | _ => 0

/-- The signed tag of a width in bits. -/
def Tag.signedOf (n : Nat) : Tag := if n ≤ 4 then .i4 else if n ≤ 8 then .i8 else if n ≤ 16 then .i16 else if n ≤ 32 then .i32 else .i64

/-- The operating tag of a floating tag with an integer of w bits (R81). -/
def promoteInt (t : Tag) (w : Nat) : Tag :=
  if w ≤ 8 then (match t with | .f64 | .f32 | .f16 | .bf16 => t | _ => .f16)
  else if w = 16 then (if t = .f64 then .f64 else .f32)
  else .f64

/-- promote (R81); none is ILLOP at push. -/
def promote (s t : Tag) : Option Tag :=
  if s = t then some s
  else if s = .l6 || t = .l6 then none
  else if s.floating then
    if t.floating then
      if t.rank < s.rank then some s else if s.rank < t.rank then some t
      else if s.rank = 2 then some .f32 else some .f16
    else some (promoteInt s t.bits)
  else if t.floating then some (promoteInt t s.bits)
  else if s.signed = t.signed then some (if s.bits < t.bits then t else s)
  else
    let ws := if s.signed then s.bits else t.bits
    let wu := if s.signed then t.bits else s.bits
    some (Tag.signedOf (min 64 (max ws (2 * wu))))

/-- The conversions that R85 lists as exact, and the exact integer pairs. -/
def exactPair (s t : Tag) : Bool :=
  if s = t then true
  else if s.integer && t.integer then decide (intMin t ≤ intMin s) && decide (intMax s ≤ intMax t)
  else
    match s with
    | .f32 => t = .f64
    | .f16 | .bf16 | .l6 | .i16 | .n16 => t = .f64 || t = .f32
    | .f8a | .f8b | .i8 | .n8 => t = .f64 || t = .f32 || t = .f16 || t = .bf16
    | .f4 | .i4 => t = .f64 || t = .f32 || t = .f16 || t = .bf16 || t = .f8a || t = .f8b
    | .n4 => t = .f64 || t = .f32 || t = .f16 || t = .bf16 || t = .f8a
    | .i32 | .n32 => t = .f64
    | _ => false

/-- The number of the FCLASS bit (R172, R207). -/
def classOf (t : Tag) (b : BitVec 64) : Nat :=
  match decode t b with
  | .nan s => if s then 8 else 9
  | .inf n => if n then 0 else 7
  | .fin n m _ =>
    let normal := decide (2 ^ t.fracBits ≤ m)
    if m = 0 then (if n then 3 else 4) else if normal then (if n then 1 else 6) else if n then 2 else 5

/-- The product of two L6 codes as an L6 code (R86). -/
def l6Mul (a b : BitVec 64) : Rounded :=
  let x := a.toNat % 64
  let y := b.toNat % 64
  if x = 0x30 || y = 0x30 then (0x30#64, 0)
  else if x = 0x10 || y = 0x10 then (0x10#64, 0)
  else
    let e := l6Exp a + l6Exp b
    let s := if a.getLsbD 5 != b.getLsbD 5 then 32 else 0
    if e < -15 then (0x10#64, fUF ||| fNX)
    else if 15 < e then (BitVec.ofNat 64 (s + 15), fOF ||| fSAT ||| fNX)
    else (BitVec.ofNat 64 (s + (e % 32).toNat), 0)

/-- l6_mul_f32 (R87). -/
def l6MulF32 (a b : BitVec 64) : Val :=
  let x := a.toNat % 64
  let y := b.toNat % 64
  if x = 0x30 || y = 0x30 then .nan false
  else if x = 0x10 || y = 0x10 then .fin false 0 0
  else l6Mag (a.getLsbD 5 != b.getLsbD 5) (l6Exp a + l6Exp b)

/-- scale_factor applied to a value: multiplied in or divided out; code 255 is invalid, its factor a quiet NaN (R73), and a
signalling NaN stays one, so that it sets NV (R78). -/
def scaleBy (s : Nat) (divide : Bool) (v : Val) : Val :=
  if s = 255 then .nan (match v with
    | .nan b => b
    | _ => false)
  else
    match v with
    | .fin n m e => .fin n m (if divide then e - ((s : Int) - 127) else e + ((s : Int) - 127))
    | v => v

/-- A division rounded toward zero. -/
def quotZero (x y : Int) : Int := x.tdiv y

/-- An integer function of VOP at tag t (R205): bits and SAT. -/
def aluInt (f : AluFn) (t : Tag) (a b : BitVec 64) : Rounded :=
  let x := intOf t a
  let y := intOf t b
  let w := t.bits
  let clamp (v : Int) : Rounded :=
    if v < intMin t then (ofInt t (intMin t), fSAT) else if intMax t < v then (ofInt t (intMax t), fSAT) else (ofInt t v, 0)
  match f with
  | .add => (ofInt t (x + y), 0)
  | .sub => (ofInt t (x - y), 0)
  | .mul => (ofInt t (x * y), 0)
  | .div => (ofInt t (if y = 0 then -1 else quotZero x y), 0)
  | .min => (ofInt t (min x y), 0)
  | .max => (ofInt t (max x y), 0)
  | .sadd => clamp (x + y)
  | .ssub => clamp (x - y)
  | .mulh => (ofInt t (x * y / 2 ^ w), 0)
  | .rem => (ofInt t (if y = 0 then x else x - quotZero x y * y), 0)
  | .and => (ofInt t ((a &&& b).toNat : Int), 0)
  | .or => (ofInt t ((a ||| b).toNat : Int), 0)
  | .xor => (ofInt t ((a ^^^ b).toNat : Int), 0)
  | .sll => (ofInt t (x * 2 ^ (y % w).toNat), 0)
  | .shr => (ofInt t (x / 2 ^ (y % w).toNat), 0)
  | .abs => (ofInt t (if x < 0 then -x else x), 0)
  | .neg => (ofInt t (-x), 0)
  | _ => (ofInt t x, 0)

/-- The sign bit of a pattern of a floating tag. -/
def signBit (t : Tag) (b : BitVec 64) : Bool := b.getLsbD (t.bits - 1)

/-- A pattern with its sign replaced. -/
def withSign (t : Tag) (neg : Bool) (b : BitVec 64) : BitVec 64 :=
  let m := b.toNat % 2 ^ (t.bits - 1)
  BitVec.ofNat 64 (m + if neg then 2 ^ (t.bits - 1) else 0)

/-- The exact result of an arithmetic function on two floating values (R206). -/
def aluVal (f : AluFn) (rm : Nat) (x y : Val) : Val × BitVec 6 :=
  match f with
  | .add => Val.add rm x y
  | .sub => Val.sub rm x y
  | .mul => Val.mul x y
  | .div => Val.div x y
  | .min => Val.minMax false x y
  | .max => Val.minMax true x y
  | .sqrt => Val.sqrt x
  | _ => (x, 0)

/-- Functions that act on bits under a floating tag (R206). -/
def AluFn.bitwise : AluFn → Bool
  | .abs | .neg | .sgnj | .sgnjn | .sgnjx | .mv | .cls => true
  | _ => false

/-- A bit-level function under a floating tag (R206, R207). -/
def aluBits (f : AluFn) (t : Tag) (a b : BitVec 64) : BitVec 64 :=
  match f with
  | .abs => if t = .l6 && a = 0x30#64 then 0x10#64 else withSign t false a
  | .neg => withSign t (!signBit t a) a
  | .sgnj => withSign t (signBit t b) a
  | .sgnjn => withSign t (!signBit t b) a
  | .sgnjx => withSign t (signBit t a != signBit t b) a
  | .cls => BitVec.ofNat 64 (classOf t a)
  | _ => a

/-- A function of one source (R150). -/
def AluFn.unary : AluFn → Bool
  | .sqrt | .abs | .neg | .cls | .mv => true
  | _ => false

/-- Functions that never round stochastically (R77). -/
def AluFn.nearestOnly : AluFn → Bool
  | .div | .sqrt => true
  | f => f.bitwise || decide (f = .min) || decide (f = .max)

/-- The exact fused result (R173, R208). -/
def fmaVal (f : FmaFn) (rm : Nat) (x y z : Val) : Val × BitVec 6 :=
  let (p, f1) := Val.mul x y
  let p := match f with | .madd | .msub => p | _ => p.flip
  let z := match f with | .madd | .nmsub => z | _ => z.flip
  let (r, f2) := Val.add rm p z
  (r, f1 ||| f2)

/-- An integer fused result (R208). -/
def fmaInt (f : FmaFn) (t : Tag) (a b c : BitVec 64) : BitVec 64 :=
  let p := intOf t a * intOf t b
  let z := intOf t c
  ofInt t (match f with | .madd => p + z | .msub => p - z | .nmadd => -p - z | .nmsub => -p + z)

/-- Whether a relation of VCMP holds, and NV (R210). -/
def compareVals (f : CmpFn) (x y : Val) : Bool × BitVec 6 :=
  match Val.compare x y with
  | none =>
    let quiet := nvIf (x.signals || y.signals)
    match f with
    | .eq => (false, quiet)
    | .ne => (true, quiet)
    | .unord => (true, quiet)
    | _ => (false, fNV)
  | some o =>
    (match f with
      | .eq => decide (o = .eq)
      | .ne => decide (o ≠ .eq)
      | .lt => decide (o = .lt)
      | .le => decide (o ≠ .gt)
      | .gt => decide (o = .gt)
      | .ge => decide (o ≠ .lt)
      | .unord => false, 0)

/-- One step of a fold at a tag, rounded to nearest (R135, R220, R221, R267). -/
def foldStep (op : FoldFn) (t : Tag) (a b : BitVec 64) : Rounded :=
  if t.floating then
    match op with
    | .min | .max =>
      let (v, f1) := Val.minMax (decide (op = .max)) (decode t a) (decode t b)
      let (r, f2) := roundEven t v
      (r, f1 ||| f2)
    | _ =>
      let (v, f1) := Val.add 0 (decode t a) (decode t b)
      let (r, f2) := roundEven t v
      (r, f1 ||| f2)
  else
    (aluInt (match op with | .add => .add | .min => .min | .max => .max | .and => .and | .or => .or | .xor => .xor) t a b)

/-- The operator of a code: 0 add to 5 xor. -/
def FoldFn.ofCode : Nat → Option FoldFn
  | 0 => some .add | 1 => some .min | 2 => some .max | 3 => some .and | 4 => some .or | 5 => some .xor | _ => none

end Sys2Proof.Machine
end

