-- ==== Sys2Proof/Config.lean ====
section
/-! DEFINITION. What an implementation fixes and the manual leaves open. Each constant has no body: no proof can
depend on its value. -/

namespace Sys2Proof

/-- Cycles of a core since module reset, at the n-th read made by the machine (R64; log 4). -/
opaque Config.ccount : Nat → BitVec 64

/-- The fused security version number at module reset (R440; log 10). -/
opaque Config.fusedSvn : Nat

/-- Digest fused in the key slot of the given index, 0 to 3 (R445; log 10). -/
opaque Config.keyDigest : Nat → List (BitVec 8)

/-- Whether the root key of the given index is revoked by its fuse (R445; log 10). -/
opaque Config.keyRevoked : Nat → Bool

/-- The bytes of the device's serial number (R450; log 10). -/
opaque Config.serialByte : Nat → BitVec 8

/-- The device's private key, in its fuses (R449; log 10). -/
opaque Config.deviceKey : Nat

/-- Daxelaux's certificate for its public key, in the repair store outside the mirror (R449; log 10). -/
opaque Config.certificate : List (BitVec 8)

/-- The secret number of the signature of an attestation report, at the n-th taking (R450; log 10). -/
opaque Config.attestSecret : Nat → Nat

/-- A defect that a self-test can find (R435): a physical core of a tile, one of the 5 lanes of a lane group of it, a
row of a scratchpad bank of it, or a structure of a tile that has no repair. -/
inductive Defect where
  | core (tile core : Nat)
  | lane (tile core group lane : Nat)
  | row (tile core bank row : Nat)
  | other (tile : Nat)
  deriving DecidableEq, Repr

/-- What the n-th self-test finds (R435, R440; log 10). -/
opaque Config.selfTest : Nat → List Defect

/-- What an HBM channel answers to a training command, at the n-th command (R459; log 17). -/
opaque Config.channelAnswer : Nat → BitVec 8 → BitVec 64

/-- The bytes of the n-th context image written to which the manual gives no layout, by offset (R400; log 11). -/
opaque Config.imageByte : Nat → Nat → BitVec 8

/-- A free value of the n-th taking (log 5). -/
opaque Config.freeValue : Nat → BitVec 64

end Sys2Proof
end

