-- ==== Sys2Proof/Machine/Sparse.lean ====
section
/-! DEFINITION. Finite maps from numbers to bits as plain lists in one canonical form: keys strictly rising, and no
entry equal to zero, which is what an unlisted key reads as. Memory is the map with one byte a cell. -/

namespace Sys2Proof.Machine

/-- A finite map: keys rising, no zero entry; an unlisted key reads as zero. -/
abbrev Sparse (w : Nat) := List (Nat × BitVec w)

/-- The entry at a key. -/
def Sparse.get {w : Nat} : Sparse w → Nat → BitVec w
  | [], _ => 0
  | (k, v) :: m, i => if i = k then v else Sparse.get m i

/-- Put an entry in its place among rising keys, unless it is zero. -/
def Sparse.put {w : Nat} : Sparse w → Nat → BitVec w → Sparse w
  | [], i, v => if v = 0 then [] else [(i, v)]
  | (k, u) :: m, i, v =>
    if i < k then if v = 0 then (k, u) :: m else (i, v) :: (k, u) :: m
    else (k, u) :: Sparse.put m i v

/-- Write the entry at a key, keeping the canonical form. -/
def Sparse.set {w : Nat} (m : Sparse w) (i : Nat) (v : BitVec w) : Sparse w :=
  Sparse.put (m.filter fun e => decide (e.1 ≠ i)) i v

/-- Every key lies at or above a bound, keys rise strictly, and no entry is zero. -/
def Sparse.wfFrom {w : Nat} : Nat → Sparse w → Bool
  | _, [] => true
  | lo, (k, v) :: m => decide (lo ≤ k) && decide (v ≠ 0) && Sparse.wfFrom (k + 1) m

/-- The canonical form. -/
def Sparse.wf {w : Nat} (m : Sparse w) : Bool := Sparse.wfFrom 0 m

/-- Drop the entries of a range of keys: they then read as zero. -/
def Sparse.clear {w : Nat} (m : Sparse w) (lo n : Nat) : Sparse w :=
  m.filter fun e => !(decide (lo ≤ e.1) && decide (e.1 < lo + n))

/-- Memory by byte. An unlisted byte reads as zero (DESIGN CHOICE, log 2). -/
abbrev Memory := Sparse 8

/-- The canonical form of a memory. -/
def Memory.wf (m : Memory) : Bool := Sparse.wf m

/-- `n` bytes from address `a` up, the lowest byte least significant (R66). -/
def Memory.read (m : Memory) (a : Nat) : Nat → Nat
  | 0 => 0
  | n + 1 => (Sparse.get m a).toNat + 256 * Memory.read m (a + 1) n

/-- Write `n` bytes from address `a` up, the least significant first (R66). -/
def Memory.write (m : Memory) (a : Nat) : Nat → Nat → Memory
  | 0, _ => m
  | n + 1, v => Memory.write (Sparse.set m a (BitVec.ofNat 8 v)) (a + 1) n (v / 256)

/-- The same on a list, by place; a place past the end is left alone. -/
def modifyAt {α : Type} (l : List α) (i : Nat) (f : α → α) : List α :=
  match l, i with
  | [], _ => []
  | a :: l, 0 => f a :: l
  | a :: l, i + 1 => a :: modifyAt l i f

end Sys2Proof.Machine
end

