-- ==== Sys2Proof/Machine/MeshState.lean ====
section
/-! DEFINITION. What the mesh Catalogue and the Orchard hold (12_catalogue.md, 13_adapt.md, 14_sower_orchard.md), and
what a scalar thread asks of the Catalogue. -/

namespace Sys2Proof.Machine

/-- A root cell as MOPEN read it (R300). -/
structure RootCell where
  x : Nat
  y : Nat
  z : Nat
  kind : Nat
  nbs : List Nat
  links : List Nat
  deriving DecidableEq, Repr

/-- A leaf of a refinement tree (R295): its root and the child taken at each level. -/
structure Cell where
  root : Nat
  path : List Nat
  deriving DecidableEq, Repr

/-- A generation (R297, R302, R304): its leaves in the order of their cell numbers, and the first cell of each tile's
segment. -/
structure Gen where
  number : Nat
  built : Bool
  released : Bool
  leaves : List Cell
  segs : List Nat
  deriving DecidableEq, Repr

/-- A sheaf set (R312): generation and faces. -/
structure SheafSet where
  gen : Nat
  lo : Nat
  hi : Nat
  built : Bool
  deriving DecidableEq, Repr

/-- An MOPEN whose build has not ended (R299, R301): root array, physical address of the status word, and the hart that
asked, at whose level the records are read (R412). -/
structure Opening where
  roots : Word
  nroot : Nat
  bits : Nat
  status : Nat
  asker : Agent
  deriving DecidableEq, Repr

/-- A mesh slot (R292). -/
structure MeshSlot where
  serial : Nat
  opn : Bool
  opening : Option Opening
  roots : List RootCell
  gens : List Gen
  sets : List (Option SheafSet)
  deriving DecidableEq, Repr

/-- A mesh stream (R307 to R310): what it is bound to, the records that are left with the selected fields of each, and
the field of the present batch that is pushed next. -/
structure Stream where
  part : Nat
  slot : Nat
  serial : Nat
  gen : Nat
  set : Option Nat
  chunk : Nat
  recs : List (List Nat)
  pos : Nat
  deriving DecidableEq, Repr

/-- What a scalar Catalogue instruction asks. -/
inductive AskFn where
  | mopen | mclose | msheaf | mgenrel | mquery | mrecut
  deriving DecidableEq, Repr

/-- A question to the Catalogue, with its operands and the instruction word. -/
structure Ask where
  fn : AskFn
  a : Word
  b : Word
  word : Word32
  deriving DecidableEq, Repr

/-- A node of a tree (R346). -/
structure Node where
  slot : Nat
  tree : Nat
  value : BitVec 64
  visits : Nat
  vloss : Nat
  prior : BitVec 16
  nchild : Nat
  first : Nat
  parent : Nat
  root : Bool
  deriving DecidableEq, Repr

/-- A live tree (R344, R351). -/
structure Tree where
  slot : Nat
  cexp : BitVec 32
  alt : Bool
  ftrap : Bool
  deriving DecidableEq, Repr

/-- A tile's Orchard slice (R344): live trees, nodes in ascending slot, and the serial of every tree slot. -/
structure OrchSlice where
  serials : Sparse 16
  trees : List Tree
  nodes : List Node
  deriving DecidableEq, Repr

/-- A mesh slot at partition reset (R292). -/
def MeshSlot.reset : MeshSlot :=
  { serial := 0, opn := false, opening := none, roots := [], gens := [], sets := List.replicate 8 none }

/-- A slice at partition reset (R344). -/
def OrchSlice.reset : OrchSlice := { serials := [], trees := [], nodes := [] }

end Sys2Proof.Machine
end

