-- ==== Sys2Proof/Machine/State.lean ====
section
/-! DEFINITION. The state of the module as plain data, why a step can stop, and the state after reset. Each field's
docstring cites the rule that names it; INVENTORY.md lists them with their reset values. -/

namespace Sys2Proof.Machine

/-- The instruction that pushed an entry of a store queue: the queue, its hart, and what names it (R132, R269). -/
structure Pusher where
  q : Nat
  hart : Nat
  seq : Nat
  ord : Nat
  pc : Word
  word : Word32
  deriving DecidableEq, Repr

/-- A queue entry (R59, R254). -/
structure Entry where
  id : Nat
  tag : Tag
  count : Nat
  /-- Elements delivered so far (R254). -/
  prog : Nat
  data : Sparse 64
  /-- Claimed by an instruction already pushed (R51). -/
  claimed : Bool
  /-- A collective failure that the entry carries: a trap code (R269). -/
  cause : Option Nat
  /-- The chunk that fills it: group, rank, chunk (R265). -/
  chunk : Option (Nat × Nat × Nat)
  /-- Its pusher, for an entry of a store queue. -/
  sq : Option Pusher
  deriving DecidableEq, Repr

/-- A vector register with its hidden state (R48, R49); WIDTH is the slot width of `tag`. -/
structure VReg where
  tag : Tag
  /-- Declared tag (R47). -/
  decl : Tag
  data : Sparse 64
  short : Bool
  age : Nat
  deriving DecidableEq, Repr

/-- One entry of a write-combining buffer (R120). -/
structure WcEntry where
  slice : Nat
  /-- Physical address of the 32-byte sector. -/
  sector : Nat
  /-- Its virtual sector. -/
  vsec : Nat
  /-- Byte offsets written, with their bytes. -/
  bytes : List (Nat × BitVec 8)
  opn : Bool
  nt : Bool
  /-- Deterministic epoch (R137). -/
  epoch : Nat
  /-- Order in which entries of the gang opened. -/
  stamp : Nat
  /-- The store queues whose entries it was made from (R132). -/
  sq : List Nat
  /-- Performed with respect to the gang while it is held: its place among the gang's held writes (R137). -/
  gang : Option Nat
  deriving DecidableEq, Repr

/-- A fold of a window merge performed with respect to the gang while it is held (R137): element, physical address,
value, and its place among the gang's held writes. -/
structure Shown where
  elem : Nat
  pa : Nat
  value : BitVec 64
  gang : Nat
  deriving DecidableEq, Repr

/-- The value that memory has given for a plain scalar load of a hart ahead of the load's issue (R117): physical address,
size and value. -/
structure Ahead where
  pa : Nat
  n : Nat
  v : Nat
  deriving DecidableEq, Repr

/-- A plain scalar load whose value has not been taken yet (R116, R117): its destination, virtual and physical address,
size and sign. -/
structure Flight where
  d : Nat
  va : Nat
  pa : Nat
  n : Nat
  signed : Bool
  deriving DecidableEq, Repr

/-- Where an uncorrectable error stands (R167, R228, R290): a sector of memory by its physical address, a sector of a
gang's scratchpad or scalar data memory, a slot of a tile. -/
inductive ErrSite where
  | mem (sector : Nat)
  | spad (gang sector : Nat)
  | sdm (gang sector : Nat)
  | tile (gang tile slot : Nat)
  deriving DecidableEq, Repr

/-- The fields of a copy command (R243). -/
structure CopyCmd where
  src : Word
  dst : Word
  rowBytes : Nat
  rows : Nat
  sstride : Int
  dstride : Int
  nt : Bool
  fill : Bool
  sysDone : Bool
  done : Word
  doneVal : Word
  deriving DecidableEq, Repr

/-- A contribution to a collective chunk (R264 to R268). -/
structure Chunk where
  gidx : Nat
  rank : Nat
  /-- The chunk, and the number of the contribution among its rank's. -/
  k : Nat
  num : Nat
  kind : Nat
  op : Nat
  tag : Tag
  root : Nat
  clen : Nat
  data : List (BitVec 64)
  /-- Already delivered: kept for the comparison of R266. -/
  sent : Bool
  deriving DecidableEq, Repr

/-- A group of the partition's group table (R263, R456): its ranks as module, launch identifier and gang number. -/
structure GroupEntry where
  gidx : Nat
  ranks : List (Nat × Nat × Nat)
  broken : Bool
  deriving DecidableEq, Repr

/-- What an engine transfer does (R127, R242). -/
inductive XKind where
  | copy (c : CopyCmd)
  /-- Window fold: base, operator, tag, for each element left its copies in order (R135, R238), and the folds of the
  first of them that the gang alone has seen (R137). -/
  | merge (base : Word) (op : FoldFn) (tag : Tag) (left : List (Nat × List (Option (BitVec 64)))) (shown : List Shown)
  /-- Far gather, with its range entry: the physical address of each 64 KiB page of its range, in order (R259, R416). -/
  | far (pages : List Nat)
  /-- Mesh stream into load queue `q` (R307). -/
  | stream (q : Nat) (p : Stream)
  /-- A collective receive, until its entry is filled (R265, R270). -/
  | receive
  /-- Catalogue command: the eight dwords (R321), its stage (0 accepted, 1 built, 2 current, else
  the failure code), and its remap records. -/
  | catalogue (w : List Word) (stage : Nat) (recs : List (Nat × Nat))
  /-- MRECUT: the eight dwords of its descriptor, and the physical address of the status word (R332). -/
  | recut (w : List Word) (status : Nat)
  /-- Orchard command: the eight dwords (R358), its stage (0 accepted, 1 sent, 2 performed, 3 result written), and the
  priors read or the answer (R359). -/
  | orchard (w : List Word) (stage : Nat) (vals : List Word)
  deriving DecidableEq, Repr

/-- An entry of an interlock table, with its transfer (R128). -/
structure Xfer where
  kind : XKind
  /-- Sequence number, pc and word of the issuing instruction; element j of a CMDB. -/
  seq : Nat
  pc : Word
  word : Word32
  elem : Nat
  /-- Read and write ranges in virtual bytes: first byte and length. -/
  rd : Option (Nat × Nat)
  wr : Option (Nat × Nat)
  /-- ROWDONE and SECTDONE (R243). -/
  row : Nat
  sect : Nat
  /-- Every sector is performed; the completion update is due (R245). -/
  moved : Bool
  /-- Stopped by a cause: code, faulting address, access kind (R244). -/
  fault : Option (Nat × Word × Nat)
  epoch : Nat
  /-- A second write range (R322, R332, R359). -/
  wr2 : Option (Nat × Nat)
  /-- Its cause has been raised: it goes on when the handler returns (R244). -/
  told : Bool
  /-- Place of a copy's first sector among all of its command's (R244). -/
  first : Nat
  /-- Sectors that a copy into the scratchpad has made in other banks, past ROWDONE and SECTDONE (R104). -/
  ahead : List Nat
  deriving DecidableEq, Repr

/-- A transfer at its issue. -/
def Xfer.new (kind : XKind) (seq : Nat) (pc : Word) (word : Word32) (elem : Nat) (rd wr wr2 : Option (Nat × Nat))
    (epoch : Nat) : Xfer :=
  { kind := kind, seq := seq, pc := pc, word := word, elem := elem, rd := rd, wr := wr, row := 0, sect := 0,
    moved := false, fault := none, epoch := epoch, wr2 := wr2, told := false, first := 0, ahead := [] }

/-- A cause waiting to be taken as a trap, with the fields of its fault record (R382, R386). -/
structure Cause where
  code : Nat
  sub : Nat
  src : Nat
  elem : Nat
  qdist : Nat
  group : Nat
  seq : Nat
  addr : Word
  pc : Word
  info : Word
  word : Word32
  acc : Nat
  /-- Place in push order, for the choice among several (R382). -/
  ord : Nat
  deriving DecidableEq, Repr

/-- What a scalar thread waits for with its instruction begun (R179, R186, R198, R229, R201, R311). -/
inductive Wait where
  | none
  /-- The pushed instruction of that sequence number; pc names it until it completes. -/
  | gd (seq : Nat)
  /-- Joined a collective settlement: 0 VSETVL, 1 VSETVL.P, 2 TASKGET; destination; ga; gb; the word. -/
  | settle (kind : Nat) (d : Nat) (ga gb : Word) (word : Word32)
  /-- The grant is settled and waits for the queues of changed harts to empty (R201): the fair share, and the lane
  groups granted with whether each is on loan. -/
  | granted (kind : Nat) (d : Nat) (ga gb : Word) (fair : Nat) (groups : List (Nat × Bool))
  | barrier
  /-- Registered by WAITW: destination, physical or window key of the dword, lock bit, bits [63:40]. -/
  | word (d : Nat) (key : Nat) (lock : Bool) (owner : Nat)
  /-- Waits for an engine's answer; what was asked is kept. -/
  | answer (d : Nat) (query : Ask)
  | wfi
  /-- Waits until the images of the halted core are settled (R405). -/
  | haltc (core : Nat)
  deriving DecidableEq, Repr

/-- Why the last attempt to issue did not retire (R35). -/
inductive Stall where
  | none
  /-- A read of an empty queue: load queue 0 to 7, or store queue 0 to 3 as 8 to 11. -/
  | entry (queue : Nat)
  /-- A read of an empty branch queue. -/
  | branch (queue : Nat)
  /-- A write to a full branch queue. -/
  | full (queue : Nat)
  /-- QDRAIN with its mask. -/
  | drain (mask : Nat)
  /-- The vector side is to drain: waiting when that side is held only by a queue. -/
  | vside
  /-- A full vector queue: the same. -/
  | vfull
  /-- A full matrix queue: waiting when its oldest instruction is held only by a queue. -/
  | mside
  /-- Anything else. -/
  | busy
  deriving DecidableEq, Repr

/-- The window declared by VWIN (R235). -/
structure Window where
  base : Word
  desc : Word
  /-- Its area has been released (R233). -/
  dead : Bool
  deriving DecidableEq, Repr

/-- A leaf translation held by a translation cache (R414). -/
structure Leaf where
  part : Nat
  va : Nat
  size : Nat
  pa : Nat
  r : Bool
  w : Bool
  x : Bool
  u : Bool
  deriving DecidableEq, Repr

/-- A hart, or an access-unit context (R39, R248); fields that one of them does not have keep their reset values. -/
structure Thread where
  pc : Word
  /-- g0 to g63 or a0 to a31; register 0 is never listed (R40, R154). -/
  regs : Sparse 64
  vl : Nat
  mrows : Nat
  blk : Nat
  fair : Nat
  chg : Bool
  rcl : Bool
  vregs : List VReg
  /-- Vector queue, or access queue (R55, R250). -/
  vq : List VRec
  vqtail : Nat
  mq : List VRec
  /-- Next place in the push order shared by both queues (R273). -/
  ordNext : Nat
  mshape : BitVec 25
  frm : Word
  fflags : BitVec 6
  window : Option Window
  wc : List WcEntry
  /-- The held writes of the gang whose bytes its loads have returned, by their places among them (R125, R137). -/
  seen : List Nat
  xfers : List Xfer
  /-- PEND of the gang barrier (R186). -/
  pend : Bool
  /-- Ended hart, or stopped context (R190, R251). -/
  ended : Bool
  wait : Wait
  /-- What the thread waited for when its last trap was taken, resumed by the return (R385, R390). -/
  kept : Wait
  /-- What the role waited for when a debugger halted it (R402). -/
  halted : Wait
  stall : Stall
  /-- Deterministic epoch by program order (R137). -/
  epoch : Nat
  sowDims : Nat
  sowAddr : Word
  lvl : Nat
  plvl : Nat
  dlvl : Nat
  frz : Bool
  supp : Bool
  /-- The scalar instruction that a return has gone back to raises no FPX (R385). -/
  suppNow : Bool
  /-- Levels at which a trap has come before such an instruction could run (R385). -/
  suppKept : List Nat
  /-- Instructions retired whose energy the core has not debited yet (R428). -/
  retired : Nat
  wq : Bool
  aflt : Bool
  bskip : Bool
  sepc : Word
  sscratch : Word
  sevent : BitVec 3
  seventen : BitVec 3
  sfrec : List Word
  sbkpt : List Word
  fplvl : Nat
  fepc : Word
  fscratch : Word
  ffrec : List Word
  fhsel : BitVec 17
  fhres : Word
  causes : List Cause
  /-- Halted at its boundary by a fault of its own (R384). -/
  faulted : Bool
  /-- Debug-halted (R402). -/
  debug : Bool
  /-- avl.AVL (R262). -/
  avl : Nat
  /-- Translation cache of an access-unit context (R414). -/
  tcache : List Leaf
  /-- A plain load that has been issued and not performed (R117). -/
  flight : Option Flight
  /-- What plain loads still to be issued have been given, in their order (R116, R117). -/
  taken : List Ahead
  deriving DecidableEq, Repr

/-- A scratchpad allocation (R97). -/
structure Alloc where
  off : Nat
  tag : Nat
  ages : List Nat
  kept : Bool
  deriving DecidableEq, Repr

/-- An accumulator tile (R57, R276, R277): slot (m, n) under key 2,048 m + n. -/
structure Tile where
  data : Sparse 64
  tag : Tag
  tpi : Nat
  deriving DecidableEq, Repr

/-- The record a panel cursor holds (R22, R24). -/
structure Panel where
  nrows : Nat
  ncols : Nat
  bases : List Word
  lds : List Int
  nbase : Nat
  user : Word
  row0 : Nat
  col0 : Nat
  band : Nat
  deriving DecidableEq, Repr

/-- The states of a gang (R26). -/
inductive GState where
  | undispatched | resident | suspended | retired
  deriving DecidableEq, Repr

/-- Gang-scope collective registers (R262 to R264). -/
structure CollRegs where
  gidx : Nat
  rank : Nat
  notMem : Bool
  broken : Bool
  nrm1 : Nat
  kind : Nat
  op : Nat
  tag : Nat
  root : Nat
  clen : Nat
  sent : Nat
  recv : Nat
  deriving DecidableEq, Repr

/-- A gang (R13 to R16, R26, R39). RESIDENT and WAITING are one constructor: WAITING is read from its harts (R35). -/
structure Gang where
  launch : Nat
  number : Nat
  st : GState
  core : Nat
  slot : Nat
  harts : List Thread
  access : Thread
  /-- Declared NV, W and accumulator tiles (R41, R57), and the reservation in 4 KiB blocks (R96). -/
  nv : Nat
  w : Nat
  blocks : Nat
  tiles : List Tile
  /-- Tiles still on the core of a suspended gang (R391). -/
  tilesOn : Option Nat
  ents : List Entry
  entNext : Nat
  lq : List (List Nat)
  sq : List (List Nat)
  bq : List (List Word)
  /-- Load queues bound to a mesh stream (R261). -/
  bound : List Nat
  panel : Option Panel
  members : BitVec 8
  arrived : BitVec 8
  drops : BitVec 8
  phase : BitVec 16
  allocs : List Alloc
  spad : Memory
  sdm : Memory
  /-- qen as written, as the last settlement found it, and as in effect (R64, R185). -/
  qenW : BitVec 12
  qenNext : BitVec 12
  qen : BitVec 12
  coll : CollRegs
  /-- Entry capacity E (R249). -/
  ecap : Nat
  /-- Next deterministic strip of the slot (R31), relative to its first. -/
  strip : Nat
  /-- Lane groups each hart held at suspension (R27). -/
  heldGroups : List Nat
  /-- Image address and suspension reason, or a pool slot (R397, R425). -/
  image : Word
  imageLen : Nat
  /-- Bytes that its image may take at its address (R396, R425). -/
  imageRoom : Nat
  /-- Level at which the image is reached. -/
  imageLvl : Nat
  poolSlot : Option Nat
  reason : Nat
  /-- Order of suspension, and of placement (R37, R421). -/
  suspOrd : Nat
  placeOrd : Nat
  /-- Asked for by RESUME or a directed yield: order of the request, and whether a directed yield has asked (R397, R180). -/
  resume : Option Nat
  yielded : Bool
  /-- A halt request with its reason (R389). -/
  haltReq : Option Nat
  /-- A trap of the dispatcher's own for every hart (R163): raised at the first instruction. -/
  bad : Bool
  /-- Turner record for the image header, and blocks missed that are not reported yet, by gang offset (R395). -/
  missRec : List Word
  missed : List Nat
  deriving DecidableEq, Repr

/-- A local task queue: the core, the records not begun with whether they were appended (R23, R188). -/
structure TaskQueue where
  core : Nat
  recs : List (Word × Bool)
  /-- Occupancy last received from each neighbour: lower, upper (R28). -/
  heard : List (Nat × Nat)
  deriving DecidableEq, Repr

/-- The header fields of a code object (R162). -/
structure Header where
  ok : Bool
  nv : Nat
  w : Nat
  gang : Nat
  acc : Nat
  shelf : Nat
  life : Nat
  access : Bool
  entry : Word
  aentry : Word
  dirAddr : Word
  dirLen : Nat
  deriving DecidableEq, Repr

/-- A launch (R17 to R21, R163, R419, R424, R429). -/
structure Launch where
  part : Nat
  lid : Nat
  desc : List Word
  /-- Dispatch level: 1 from the supervisor queue. -/
  level : Nat
  super : Bool
  head : Header
  coef : Sparse 64
  dirDims : Nat
  queues : List TaskQueue
  /-- Panel records never begun. -/
  left : Nat
  outcome : Nat
  eacct : Int
  effPrio : Nat
  /-- Samples waited, and consecutive all-waiting samples. -/
  waited : Nat
  samples : Nat
  /-- Order of acceptance. -/
  acceptOrd : Nat
  /-- Gangs `next` and up are UNDISPATCHED, but for those killed before placement (R26). -/
  next : Nat
  killed : List Nat
  /-- Gangs that have retired. -/
  retired : Nat
  complete : Bool
  /-- Epochs of each slot performed for deterministic launches (R137): slot, number performed. -/
  epochs : List Nat
  /-- A directed yield or placement put a gang of it on a core since the last sample (R424). -/
  progressed : Bool
  deriving DecidableEq, Repr

/-- A core (R3, R43, R64). -/
structure CoreSt where
  /-- Lane groups 0 to 7: holder gang and hart, and whether on loan. -/
  lanes : List (Option (Nat × Nat × Bool))
  /-- Lane groups of grants that are settled and not yet in effect: group, gang (R44, R201). -/
  claims : List (Nat × Nat)
  /-- Changes of lgmode that a settlement has made of groups its gang's own harts hold, until its grant takes effect: gang,
  group, access mode, gang slot (R43, R65). -/
  giving : List (Nat × Nat × Bool × Nat)
  /-- lgmode.ACC, OWN as written; and in effect. -/
  acc : BitVec 8
  own : BitVec 16
  accNow : BitVec 8
  ownNow : BitVec 16
  /-- Lines of the instruction cache: partition, virtual sector, bytes (R111). -/
  icache : List (Nat × Nat × List (BitVec 8))
  tcache : List Leaf
  /-- Sower dimension cache: table address, dimension, the direction numbers and the seed (R338). -/
  dimCache : List (Nat × Nat × List (BitVec 32))
  held : Bool
  /-- Held since the boot gang started, and not yet given free (R447). -/
  parked : Bool
  stopped : Bool
  /-- The hart whose matrix unit the engine has performed last, by eight times its gang slot and its number (R274). -/
  rotor : Nat
  /-- Debits not yet applied, in units of 2^-20 uJ, by launch (R428). -/
  debits : List (Nat × Nat)
  deriving DecidableEq, Repr

/-- A partition (R406, R409). -/
structure PartSt where
  sxroot : Word
  stvec : Word
  glean : Bool
  keepsw : Bool
  age : BitVec 8
  scpool : Word
  scslot : Word
  sring : Word
  ssring : Word
  headO : BitVec 16
  headS : BitVec 16
  /-- TAIL of the last doorbell accepted for each ring: entries up to it are served (R420). -/
  tailO : BitVec 16
  tailS : BitVec 16
  swaps : Nat
  yields : Nat
  poolmiss : Nat
  ringerr : Bool
  doneerr : Bool
  energy : Int
  fpmem : BitVec 21
  fgrate : BitVec 32
  fgcap : BitVec 63
  fclmap : BitVec 40
  /-- Context-pool slots in use (R425). -/
  pool : List Nat
  /-- Mesh slots 0 to 15 (R292). -/
  meshes : List MeshSlot
  /-- The collective group table (R263, R456). -/
  groups : List GroupEntry
  /-- Contributions accepted and not yet done with (R266). -/
  chunks : List Chunk
  /-- Results not yet delivered: group, rank, chunk, elements (R266, R390). -/
  results : List (Nat × Nat × Nat × List (BitVec 64))
  deriving DecidableEq, Repr

/-- A registration of WAITW at an owner (R179): owner number, dword key, gang, hart (255 for the access-unit
context). -/
structure Sleeper where
  owner : Nat
  key : Nat
  gang : Nat
  hart : Nat
  deriving DecidableEq, Repr

/-- A context command under way (R396, R397). -/
structure CtxCmd where
  op : Nat
  load : Bool
  gang : Nat
  role : Nat
  image : Word
  imageLen : Nat
  keep : Word
  status : Word
  issuer : Agent
  part : Nat
  /-- The launch that LID names, by its place in the list; past its end for none. -/
  launch : Nat
  /-- GANG. -/
  number : Nat
  /-- Taken up by the dispatcher. -/
  begun : Bool
  /-- The status to be written, once known. -/
  result : Option (Nat × Nat)
  deriving DecidableEq, Repr

/-- A Gleaner move under way (R29): launch, destination core, records. -/
structure Move where
  launch : Nat
  core : Nat
  recs : List (Word × Bool)
  deriving DecidableEq, Repr

/-- A move that an agent makes: issue one instruction, or make one step of an engine. -/
inductive Turn where
  | issue (a : Agent)
  /-- Issue, leaving the value of a plain load to be taken later (R117). -/
  | late (a : Agent)
  /-- Take the value of a plain load of a hart that is still to be issued (R117): its address and size. -/
  | look (a : Agent) (va : Word) (n : Nat)
  /-- Issue, giving a plain load the value that was taken for it (R117). -/
  | early (a : Agent)
  | event (i : Instr)
  deriving DecidableEq, Repr

/-- An HBM4E channel (R458): its training state, its delay codes (RDLY in [6:0], WDLY in [14:8]) and its lane
replacement. -/
structure Chan where
  train : Bool
  dly : BitVec 15
  rep : BitVec 12
  deriving DecidableEq, Repr

/-- Module-wide registers of boot, links and memory training (R409, R435 to R463). -/
structure ModSt where
  bstat : Word
  bimg : Word
  blen : Word
  /-- EVENT bits. -/
  event : BitVec 5
  evCore : BitVec 8
  evPort : BitVec 5
  evCxl : BitVec 4
  evUnit : BitVec 3
  frec : List Word
  /-- Security version number burned by writes to fsvn; the register reads the larger of it and the fused one. -/
  fsvn : Nat
  /-- Result of the last FCTEST: CHANGED, NOWOUT. -/
  fctest : BitVec 2
  /-- The self-test of this boot has been made. -/
  tested : Bool
  /-- The 64 KiB repair store, by offset (R436); its mirror lies in the firmware store. -/
  store : Memory
  /-- Physical core that carries each logical core, by index in its tile (R437). -/
  binding : List (Option Nat)
  /-- VERSION, SVN and digest of the authenticated image (R444, R450). -/
  imgVersion : Nat
  imgSvn : Nat
  imgDigest : List (BitVec 8)
  fmodid : BitVec 16
  /-- The route table, by module (R455). -/
  routes : Sparse 8
  fabricUp : BitVec 24
  cxlUp : BitVec 12
  /-- Bytes of the expander on each CXL port (R453). -/
  cxlCap : List Nat
  dclUp : Bool
  /-- Channel c of stack s is number 32 s + c. -/
  chans : List Chan
  /-- Core clock in MHz (R463). -/
  clock : Nat
  plog : Nat
  fpsel : Nat
  fbsel : Nat
  /-- S(1) to S(15) of each arbiter as written and in effect, by 16 x arbiter + class (R409, R434). -/
  fbtab : Sparse 12
  fbtabNow : Sparse 12
  fetab : Sparse 32
  fvec : Word
  /-- Every clock has stopped (R463). -/
  off : Bool
  /-- The boot gang's place in the list of gangs, while it runs. -/
  bootGang : Option Nat
  /-- What stands for a launch of the boot gang: the firmware's code object (R447). -/
  boot : Option Launch
  deriving DecidableEq, Repr

/-- The machine. -/
structure State where
  mem : Memory
  gangs : List Gang
  launches : List Launch
  cores : List CoreSt
  parts : List PartSt
  orch : List OrchSlice
  sleepers : List Sleeper
  moves : List Move
  ctx : List CtxCmd
  /-- Where uncorrectable errors stand: they come from outside (log 58). -/
  errors : List ErrSite
  mod : ModSt
  /-- The MODEL's own: the agent whose instruction is being executed, and its word. -/
  cur : Option Agent
  word : Word32
  /-- The MODEL's own: what moves next, and the place in the cyclic order used when this is empty (log 1). -/
  agenda : List Turn
  turn : Nat
  /-- The MODEL's own: numbers the free values taken (log 5), and the orders of requests. -/
  free : Nat
  stamp : Nat
  deriving DecidableEq, Repr

/-- Why a step stops with a fault. -/
inductive Fault where
  /-- Raised by every meaning whose agent does not exist in the state: no instruction can be issued (safe). -/
  | noAgent
  deriving DecidableEq, Repr

/-- Why an instruction has no meaning. -/
inductive Refusal where
  /-- Raised by the dispatcher for an instruction that is not modelled yet (safe). -/
  | notModelled (mnemonic : String)
  deriving DecidableEq, Repr

/-- What a step answers. -/
abbrev Out := Host.Outcome State Fault Refusal

/-- A thread that has not begun: every field zero, empty or off. -/
def Thread.empty : Thread :=
  { pc := 0, regs := [], vl := 0, mrows := 0, blk := 0, fair := 0, chg := false, rcl := false, vregs := [], vq := [],
    vqtail := 0, mq := [], ordNext := 0, mshape := 0, frm := 0, fflags := 0, window := none, wc := [], seen := [],
    xfers := [], pend := false, ended := false, wait := .none, kept := .none, halted := .none, stall := .none, epoch := 0, sowDims := 0, sowAddr := 0, lvl := 0,
    plvl := 0, dlvl := 0, frz := false, supp := false, suppNow := false, suppKept := [], wq := false, aflt := false, bskip := false, retired := 0, sepc := 0,
    sscratch := 0, sevent := 0, seventen := 0, sfrec := List.replicate 8 0, sbkpt := List.replicate 4 0, fplvl := 0,
    fepc := 0, fscratch := 0, ffrec := List.replicate 8 0, fhsel := 0, fhres := 0, causes := [], faulted := false,
    debug := false, avl := 0, tcache := [], flight := none, taken := [] }

/-- Collective registers at dispatch (R263, R264). -/
def CollRegs.empty : CollRegs :=
  { gidx := 0, rank := 0, notMem := true, broken := false, nrm1 := 0, kind := 0, op := 0, tag := 0, root := 0,
    clen := 0, sent := 0, recv := 0 }

/-- A core at module reset. -/
def CoreSt.reset : CoreSt :=
  { lanes := List.replicate 8 none, claims := [], giving := [], acc := 0, own := 0, accNow := 0, ownNow := 0, icache := [], tcache := [],
    dimCache := [], held := false, parked := false, stopped := false, rotor := 0, debits := [] }

/-- A partition at module reset (R407, R409). -/
def PartSt.reset : PartSt :=
  { sxroot := 0, stvec := 0, glean := true, keepsw := false, age := 0, scpool := 0, scslot := 0, sring := 0,
    ssring := 0, headO := 0, headS := 0, tailO := 0, tailS := 0, swaps := 0, yields := 0, poolmiss := 0, ringerr := false, doneerr := false,
    energy := 0, fpmem := 0x1FFFFF#21, fgrate := 0, fgcap := 0, fclmap := 0, pool := [],
    meshes := List.replicate 16 MeshSlot.reset, groups := [], chunks := [], results := [] }

/-- A channel at module reset: in training, both delays at 64, no repair (R458). -/
def Chan.reset : Chan := { train := true, dly := 0x4040, rep := 0 }

/-- Module registers at module reset. -/
def ModSt.reset : ModSt :=
  { bstat := 0, bimg := 0, blen := 0, event := 0, evCore := 0, evPort := 0, evCxl := 0, evUnit := 0,
    frec := List.replicate 8 0, fsvn := 0, fctest := 0, tested := false, store := [],
    binding := List.replicate 256 none, imgVersion := 0, imgSvn := 0, imgDigest := [], fmodid := 0, routes := [],
    fabricUp := 0xFFFFFF#24, cxlUp := 0xFFF#12, cxlCap := List.replicate 12 (2 ^ 37), dclUp := true,
    chans := List.replicate 256 Chan.reset, clock := 4000, plog := 0, fpsel := 0, fbsel := 0, fbtab := [],
    fbtabNow := [], fetab := [], fvec := 0, off := false, bootGang := none,
    boot := none }

/-- The machine right after module reset (R407, R443): nothing runs until the boot sequence starts the boot gang. -/
def State.reset : State :=
  { mem := [], gangs := [], launches := [], cores := List.replicate 256 CoreSt.reset,
    parts := List.replicate 8 PartSt.reset, orch := List.replicate 8 OrchSlice.reset, sleepers := [], moves := [],
    ctx := [], errors := [], mod := ModSt.reset, cur := none, word := 0, agenda := [], turn := 0, free := 0, stamp := 0 }

end Sys2Proof.Machine
end

