-- ==== Sys2Proof/Machine/Thread.lean ====
section
/-! DEFINITION. Agents and their threads: reading and changing the thread of the agent in execution, scalar registers,
retiring and stalling. -/

namespace Sys2Proof.Machine

/-- The thread of a role (R13, R15). -/
def Gang.thread? (g : Gang) : Role → Option Thread
  | .hart n => g.harts[n]?
  | .access => some g.access

/-- Change the thread of a role. -/
def Gang.modThread (g : Gang) (r : Role) (f : Thread → Thread) : Gang :=
  match r with
  | .hart n => { g with harts := modifyAt g.harts n f }
  | .access => { g with access := f g.access }

/-- The thread of an agent. -/
def State.thread? (s : State) (a : Agent) : Option Thread :=
  match s.gangs[a.gang]? with
  | some g => g.thread? a.role
  | none => none

/-- Change a gang. -/
def State.modGang (s : State) (i : Nat) (f : Gang → Gang) : State := { s with gangs := modifyAt s.gangs i f }

/-- Change the thread of an agent. -/
def State.modThread (s : State) (a : Agent) (f : Thread → Thread) : State := s.modGang a.gang (·.modThread a.role f)

/-- Change a core. -/
def State.modCore (s : State) (i : Nat) (f : CoreSt → CoreSt) : State := { s with cores := modifyAt s.cores i f }

/-- Change a partition. -/
def State.modPart (s : State) (i : Nat) (f : PartSt → PartSt) : State := { s with parts := modifyAt s.parts i f }

/-- Change a launch. -/
def State.modLaunch (s : State) (i : Nat) (f : Launch → Launch) : State :=
  { s with launches := modifyAt s.launches i f }

/-- Whether the agent in execution exists. -/
def State.live (s : State) : Bool :=
  match s.cur with
  | some a => (s.thread? a).isSome
  | none => false

/-- The agent in execution. -/
def State.who (s : State) : Agent := s.cur.getD ⟨0, .access⟩

/-- Its thread. -/
def State.me (s : State) : Thread :=
  match s.cur with
  | some a => (s.thread? a).getD .empty
  | none => .empty

/-- Change its thread. -/
def State.setMe (s : State) (f : Thread → Thread) : State :=
  match s.cur with
  | some a => s.modThread a f
  | none => s

/-- The agent in execution is a hart. -/
def State.onHart (s : State) : Bool :=
  match s.cur with
  | some ⟨_, .hart _⟩ => true
  | _ => false

/-- Its hart number; an access-unit context has none. -/
def State.hartNo (s : State) : Nat :=
  match s.who.role with
  | .hart n => n
  | .access => 255

/-- A gang with nothing in it, read where none exists. -/
def Gang.empty : Gang :=
  { launch := 0, number := 0, st := .retired, core := 0, slot := 0, harts := [], access := .empty, nv := 8, w := 8,
    blocks := 0, tiles := [], tilesOn := none, ents := [], entNext := 0, lq := List.replicate 8 [],
    sq := List.replicate 4 [], bq := List.replicate 4 [], bound := [], panel := none, members := 0, arrived := 0,
    drops := 0, phase := 0, allocs := [], spad := [], sdm := [], qenW := 0, qenNext := 0, qen := 0, coll := .empty, ecap := 0,
    strip := 0, heldGroups := [], image := 0, imageLen := 0, imageRoom := 0, imageLvl := 1, poolSlot := none, reason := 0, suspOrd := 0, placeOrd := 0,
    resume := none, yielded := false, haltReq := none, bad := false, missRec := [], missed := [] }

/-- The gang of an agent. -/
def State.gangOf (s : State) (i : Nat) : Gang := (s.gangs[i]?).getD .empty

/-- The gang of the agent in execution. -/
def State.myGang (s : State) : Gang := s.gangOf s.who.gang

/-- A core; reset where none exists. -/
def State.core (s : State) (i : Nat) : CoreSt := (s.cores[i]?).getD .reset

/-- The core of the agent in execution. -/
def State.myCore (s : State) : Nat := s.myGang.core

/-- A partition; reset where none exists. -/
def State.part (s : State) (i : Nat) : PartSt := (s.parts[i]?).getD .reset

/-- The partition of a core (R406). -/
def State.partOfCore (s : State) (c : Nat) : Nat := c * 2 ^ s.mod.plog / 256

/-- The partition of the agent in execution. -/
def State.myPart (s : State) : Nat := s.partOfCore s.myCore

/-- A launch record. -/
def State.launch? (s : State) (i : Nat) : Option Launch := s.launches[i]?

/-- Dword k of a launch descriptor (R17). -/
def Launch.dw (l : Launch) (k : Nat) : Nat := ((l.desc[k]?).getD 0).toNat
/-- GANGS. -/
def Launch.gangs (l : Launch) : Nat := l.dw 3 % 2 ^ 32
/-- NPANEL. -/
def Launch.npanel (l : Launch) : Nat := l.dw 3 / 2 ^ 32
/-- HARTS. -/
def Launch.harts (l : Launch) : Nat := l.dw 4 % 16
/-- PRIO. -/
def Launch.prio (l : Launch) : Nat := l.dw 4 / 16 % 8
/-- CORES: co-resident. -/
def Launch.coresident (l : Launch) : Bool := l.dw 4 / 256 % 2 = 1
/-- DETERM. -/
def Launch.determ (l : Launch) : Bool := l.dw 4 / 512 % 2 = 1
/-- Its gangs are placed, suspended and resumed together (R20, R38). -/
def Launch.whole (l : Launch) : Bool := l.coresident || l.determ
/-- PANEL. -/
def Launch.panels (l : Launch) : Bool := l.dw 4 / 1024 % 2 = 1
/-- FIRST. -/
def Launch.first (l : Launch) : Nat := l.dw 4 / 2 ^ 16 % 256
/-- CSLOTS. -/
def Launch.cslots (l : Launch) : Nat := l.dw 4 / 2 ^ 32 % 512
/-- NSTRIP. -/
def Launch.nstrip (l : Launch) : Nat := l.dw 5 % 2 ^ 32
/-- STRIPLEN. -/
def Launch.striplen (l : Launch) : Nat := l.dw 5 / 2 ^ 32

/-- The number that stands for a launch in the boot gang, which belongs to none (R447). -/
def bootLaunch : Nat := 2 ^ 64

/-- The launch of a gang; of the boot gang, its code object. -/
def State.launchOf (s : State) (g : Gang) : Option Launch :=
  if g.launch = bootLaunch then s.mod.boot else s.launches[g.launch]?

/-- Whether a gang belongs to a deterministic launch. -/
def State.gangDeterm (s : State) (g : Gang) : Bool :=
  match s.launchOf g with
  | some l => l.determ
  | none => false

/-- Whether a gang belongs to a panel launch. -/
def State.gangPanels (s : State) (g : Gang) : Bool :=
  match s.launchOf g with
  | some l => l.panels
  | none => false

/-- A scalar register; register 0 reads as zero (R40, R154). -/
def Thread.reg (t : Thread) (r : Nat) : Word := if r = 0 then 0 else t.regs.get r

/-- Write a scalar register; a write to register 0 is discarded (R40, R154, R166). -/
def Thread.setReg (t : Thread) (r : Nat) (v : Word) : Thread := if r = 0 then t else { t with regs := t.regs.set r v }

/-- A scalar register of the agent in execution. -/
def State.x (s : State) (r : BitVec 6) : Word := s.me.reg r.toNat

/-- The pc of the agent in execution. -/
def State.pc (s : State) : Word := s.me.pc

/-- An address that pc can hold: its bits [1:0] are zero (R40; DEDUCED, log 22). -/
def wordAligned (v : Word) : Word := v &&& ~~~3#64

/-- Retiring: the pc moves to a new address, the instruction no longer stalls, a SUPP that the return has given to this
instruction clears (R385), and the core has one more instruction to debit (R428). -/
def Thread.retireTo (t : Thread) (pc : Word) : Thread :=
  { t with pc := pc, stall := .none, supp := t.supp && !t.suppNow, suppNow := false, retired := t.retired + 1 }

/-- Retiring to the next word. -/
def Thread.retire (t : Thread) : Thread := t.retireTo (t.pc + 4)

/-- The next state after the agent's thread is changed and its instruction retires. -/
def State.done (s : State) (f : Thread → Thread) : Out := .next (s.setMe fun t => (f t).retire)

/-- Retire, writing a scalar register. -/
def State.retWith (s : State) (d : BitVec 6) (v : Word) : Out := s.done fun t => t.setReg d.toNat v

/-- Retire with no register written. -/
def State.ret (s : State) : Out := s.done id

/-- Retire at another address. -/
def State.jump (s : State) (pc : Word) : Out := .next (s.setMe fun t => t.retireTo pc)

/-- The instruction does not retire; it is tried again (R35 says whether the agent waits). -/
def State.stallFor (s : State) (w : Stall) : Out := .next (s.setMe fun t => { t with stall := w })

/-- Every meaning of an issued instruction needs the agent that issues it. -/
def State.agent (s : State) (k : Out) : Out := if s.live then k else .fault .noAgent

/-- Lane groups a hart holds, in ascending order (R43). -/
def State.lanesOf (s : State) (gi h : Nat) : List Nat :=
  let c := s.core (s.gangOf gi).core
  (List.range 8).filter fun k =>
    match (c.lanes[k]?).getD none with
    | some (g, n, _) => g = gi && n = h
    | none => false

/-- Lane groups of a hart held on loan. -/
def State.lentOf (s : State) (gi h : Nat) : Nat :=
  let c := s.core (s.gangOf gi).core
  ((List.range 8).filter fun k =>
    match (c.lanes[k]?).getD none with
    | some (g, n, l) => g = gi && n = h && l
    | none => false).length

/-- Lane groups that lgmode has placed in access mode for a gang slot (R43). -/
def State.accessLanes (s : State) (gi : Nat) : List Nat :=
  let g := s.gangOf gi
  let c := s.core g.core
  (List.range 8).filter fun k => c.accNow.getLsbD k && decide (c.ownNow.toNat / 4 ^ k % 4 = g.slot)

/-- L of an agent: four lanes for each group (R41, R252). -/
def State.lanes (s : State) (a : Agent) : Nat :=
  match a.role with
  | .hart n => 4 * (s.lanesOf a.gang n).length
  | .access => 4 * (s.accessLanes a.gang).length

/-- VLMAX (R41), or VLMAX_a (R252). -/
def State.vlmax (s : State) (a : Agent) : Nat :=
  let g := s.gangOf a.gang
  s.lanes a * (16384 / (g.nv * g.w))

/-- Number of set bits. -/
def popcount {w : Nat} (b : BitVec w) : Nat := ((List.range w).filter fun i => b.getLsbD i).length

/-- vlmax(h) (R42) for L lanes. -/
def Gang.lengthLimit (g : Gang) (lanes : Nat) : Nat :=
  let vm := lanes * (16384 / (g.nv * g.w))
  let nq := popcount g.qen
  if nq = 0 then vm else min vm (lanes * (4096 * g.harts.length / (nq * g.w)))

/-- vcp (R55): the oldest incomplete instruction, or vqtail. -/
def Thread.vcp (t : Thread) : Nat :=
  match t.vq with
  | [] => t.vqtail
  | r :: _ => r.seq

/-- A record is to be replayed (R387): its remaining groups read memory afresh, and elements that a load has taken ahead of
their groups count as not performed (R228). -/
def VRec.afresh (r : VRec) : VRec := { r with early := [] }

/-- Energy of one event of class k, in units of 2^-20 uJ (R409, R428); classes 20 to 31 are never debited. -/
def State.eventEnergy (s : State) (k : Nat) : Nat := if k < 20 then (s.mod.fetab.get k).toNat else 0

/-- A signed 64-bit value: an account that would pass its range stays at the end of it (R427; DESIGN CHOICE, log 113). -/
def signed64 (v : Int) : Int := max (-(2 ^ 63 : Nat)) (min v (2 ^ 63 - 1 : Nat))

/-- A core notes that a gang has caused n events of class k (R428); the debit is applied by GRANARY_DEBIT. -/
def State.charge (s : State) (gi k n : Nat) : State :=
  let e := n * s.eventEnergy k
  if e = 0 then s
  else
    let g := s.gangOf gi
    s.modCore g.core fun c => { c with debits := c.debits ++ [(g.launch, e)] }

end Sys2Proof.Machine
end

