-- ==== Sys2Proof/Machine/MemOps.lean ====
section
/-! DEFINITION. Addresses: regions, translation, the core-local window, write combining, and the interlock table
(04_storage.md, 05_ordering.md, 18_placement.md R410 to R415). -/

namespace Sys2Proof.Machine

/-- The kind of an access (R386, R412). -/
inductive Acc where
  | read | write | fetch | rmw
  deriving DecidableEq, Repr

/-- ACC of a fault record (R386). -/
def Acc.code : Acc → Nat
  | .read => 0 | .write => 1 | .fetch => 2 | .rmw => 3

/-- A failing access: trap code (R388) and virtual address. -/
structure MemErr where
  code : Nat
  addr : Word
  deriving DecidableEq, Repr

/-- Trap codes (R388). -/
def cILLOP : Nat := 1
/-- Fetch of a zero word. -/
def cZEROWORD : Nat := 2
/-- Misaligned. -/
def cALIGN : Nat := 3
/-- Translation. -/
def cXLAT : Nat := 4
/-- Protection. -/
def cPROT : Nat := 5
/-- Expired scratchpad block. -/
def cSTALE : Nat := 6
/-- Expired register. -/
def cSREG : Nat := 7
/-- Out of allocation. -/
def cSPRANGE : Nat := 8
/-- Queue error. -/
def cQERR : Nat := 9
/-- Orchard full. -/
def cORCHFULL : Nat := 10
/-- Mesh generation. -/
def cMESHGEN : Nat := 11
/-- Collective group broken. -/
def cCGBROKEN : Nat := 12
/-- Floating exception. -/
def cFPX : Nat := 13
/-- Breakpoint. -/
def cDEBUG : Nat := 14
/-- Suspension. -/
def cPREEMPT : Nat := 15
/-- Machine check. -/
def cMCHK : Nat := 16

/-- The regions of R93, and the firmware store (R447). -/
inductive Region where
  | hbm (s : Nat)
  | cxl (p : Nat)
  | host
  | firmware
  deriving DecidableEq, Repr

/-- The region of a physical address (R93, R447). -/
def regionOf (pa : Nat) : Option Region :=
  if pa < 8 * 2 ^ 36 then some (.hbm (pa / 2 ^ 36))
  else if 2 ^ 40 ≤ pa && decide (pa < 2 ^ 40 + 12 * 2 ^ 37) then some (.cxl ((pa - 2 ^ 40) / 2 ^ 37))
  else if 2 ^ 50 ≤ pa && decide (pa < 2 ^ 51) then some .host
  else if 0x3000000000000 ≤ pa && decide (pa < 0x3000000000000 + 2 ^ 23) then some .firmware
  else none

/-- The region of a physical address on this module: an expander may be smaller than its window, and a port that is down
reaches none (R453). -/
def State.regionAt (s : State) (pa : Nat) : Option Region :=
  match regionOf pa with
  | some (.cxl p) =>
    if s.mod.cxlUp.getLsbD p && decide ((pa - 2 ^ 40) % 2 ^ 37 < (s.mod.cxlCap[p]?).getD 0) then some (.cxl p) else none
  | r => r

/-- Whether accesses to an address stall: its HBM4E channel is in training (R107, R459). -/
def State.training (s : State) (pa : Nat) : Bool :=
  match regionOf pa with
  | some (.hbm st) => match s.mod.chans[32 * st + pa / 256 % 32]? with
    | some c => c.train
    | none => false
  | _ => false

/-- Whether a partition's fpmem reaches a region (R408, R409); the firmware store is reached at level 2 only. -/
def PartSt.reaches (p : PartSt) : Region → Bool
  | .hbm s => p.fpmem.getLsbD s
  | .cxl q => p.fpmem.getLsbD (8 + q)
  | .host => p.fpmem.getLsbD 20
  | .firmware => false

/-- First byte of the core-local window (R92). -/
def windowBase : Nat := 0xFF00000000000

/-- Whether a virtual address lies in the core-local window (R92). -/
def inWindow (va : Nat) : Bool := decide (windowBase ≤ va) && decide (va < 2 ^ 52)

/-- Bits of an address above bit 51 (R92). -/
def tooWide (va : Word) : Bool := decide (2 ^ 52 ≤ va.toNat)

/-- Fields of a page-table entry (R411). -/
def pteAddr (e : Nat) : Nat := e / 2 ^ 16 % 2 ^ 36 * 2 ^ 16

/-- malformed(e) (R412) at a level. -/
def malformed (p : PartSt) (e level : Nat) : Bool :=
  let leaf := decide (e / 2 % 2 = 1)
  let big := decide (e / 4 % 2 = 1)
  let a := pteAddr e
  decide (e / 2 ^ 7 % 2 ^ 9 ≠ 0) || decide (2 ^ 52 ≤ e) || (big && !(decide (level = 2) && leaf)) ||
  (leaf && level = 1 && decide (a % 2 ^ 34 ≠ 0)) || (leaf && level = 2 && big && decide (a % 2 ^ 25 ≠ 0)) ||
  (!leaf && decide (level < 2) && !(decide (a < 8 * 2 ^ 36) && p.fpmem.getLsbD (a / 2 ^ 36)))

/-- The leaf that entry `e` names. -/
def leafOf (part va e size : Nat) : Leaf :=
  { part := part, va := va - va % size, size := size, pa := pteAddr e, r := e / 8 % 2 = 1, w := e / 16 % 2 = 1,
    x := e / 32 % 2 = 1, u := e / 64 % 2 = 1 }

/-- Table entries that the walk to a leaf reads (R412). -/
def Leaf.depth (l : Leaf) : Nat := if l.size = 2 ^ 34 then 2 else 3

/-- The walk of R412; none is XLAT. -/
def State.walk (s : State) (part va : Nat) : Option Leaf :=
  let p := s.part part
  let root := p.sxroot.toNat
  if !(decide (root < 8 * 2 ^ 36) && p.fpmem.getLsbD (root / 2 ^ 36)) then none
  else
    let e0 := s.mem.read (root + 8 * (va / 2 ^ 40)) 8
    if e0 % 2 = 0 || e0 / 2 % 2 = 1 || malformed p e0 0 then none
    else
      let e1 := s.mem.read (pteAddr e0 + 8 * (va / 2 ^ 28 % 4096)) 8
      if e1 % 2 = 0 || malformed p e1 1 then none
      else if e1 / 2 % 2 = 1 then some (leafOf part va e1 (2 ^ 34))
      else
        let e2 := s.mem.read (pteAddr e1 + 8 * (va / 2 ^ 16 % 4096)) 8
        if e2 % 2 = 0 || e2 / 2 % 2 = 0 || malformed p e2 2 then none
        else some (leafOf part va e2 (if e2 / 4 % 2 = 1 then 2 ^ 25 else 2 ^ 16))

/-- permitted(e) (R412). -/
def Leaf.permits (l : Leaf) (lvl : Nat) : Acc → Bool
  | .read => l.r && (l.u || lvl ≠ 0)
  | .write => l.w && (l.u || lvl ≠ 0)
  | .fetch => l.x && (l.u || lvl ≠ 0)
  | .rmw => l.r && l.w && (l.u || lvl ≠ 0)

/-- The entry of a translation cache that covers an address (R414). -/
def findLeaf (c : List Leaf) (part va : Nat) : Option Leaf :=
  c.find? fun l => l.part = part && decide (l.va ≤ va) && decide (va < l.va + l.size)

/-- Install a leaf, the oldest going first when the cache is full (replacement: log 12). -/
def addLeaf (c : List Leaf) (cap : Nat) (l : Leaf) : List Leaf :=
  (if c.length < cap then c else c.drop 1) ++ [l]

/-- The translation cache of an agent (R414). -/
def State.tcache (s : State) (a : Agent) : List Leaf :=
  match a.role with
  | .access => (s.gangOf a.gang).access.tcache
  | .hart _ => (s.core (s.gangOf a.gang).core).tcache

/-- Install a leaf in the translation cache of an agent. -/
def State.cacheLeaf (s : State) (a : Agent) (l : Leaf) : State :=
  match a.role with
  | .access => s.modThread a fun t => { t with tcache := addLeaf t.tcache 1024 l }
  | .hart _ => s.modCore (s.gangOf a.gang).core fun c => { c with tcache := addLeaf c.tcache 4096 l }

/-- Translate for an agent at a level, through its cache (R412, R414, R447): physical address, or XLAT or PROT. The entries
that a walk reads lie in HBM4E and are charged (R412, R428). -/
def State.translate (s : State) (a : Agent) (lvl : Nat) (acc : Acc) (va : Nat) : Except Nat (Nat × State) :=
  let part := s.partOfCore (s.gangOf a.gang).core
  if lvl = 2 then
    match s.regionAt va with
    | some _ => .ok (va, s)
    | none => .error cPROT
  else
    let found :=
      match findLeaf (s.tcache a) part va with
      | some l => some (l, s)
      | none =>
        match s.walk part va with
        | some l => some (l, (s.cacheLeaf a l).charge a.gang 10 l.depth)
        | none => none
    match found with
    | none => .error cXLAT
    | some (l, s) =>
      if !l.permits lvl acc then .error cPROT
      else
        let pa := l.pa + (va - l.va)
        match s.regionAt pa with
        | none => .error cPROT
        | some r => if (s.part part).reaches r then .ok (pa, s) else .error cPROT

/-- Translate for a launch or the dispatcher, with no cache (R412). -/
def State.translateFor (s : State) (part lvl : Nat) (acc : Acc) (va : Nat) : Except Nat Nat :=
  if 2 ^ 52 ≤ va then .error cXLAT
  else if inWindow va then .error cPROT
  else
    match s.walk part va with
    | none => .error cXLAT
    | some l =>
      if !l.permits lvl acc then .error cPROT
      else
        let pa := l.pa + (va - l.va)
        match s.regionAt pa with
        | none => .error cPROT
        | some r => if (s.part part).reaches r then .ok pa else .error cPROT

/-- Where an access lands (R92, R93). -/
inductive Place where
  | mem (pa : Nat)
  | spad (off : Nat)
  | sdm (off : Nat)
  deriving DecidableEq, Repr

/-- The allocation that holds a gang offset (R98). -/
def Gang.allocAt (g : Gang) (off : Nat) : Option Alloc :=
  g.allocs.find? fun a => decide (a.off ≤ off) && decide (off < a.off + 4096 * a.ages.length)

/-- Whether a run of bytes lies within one allocation. -/
def Gang.inAlloc (g : Gang) (off n : Nat) : Bool :=
  match g.allocAt off with
  | some a => decide (off + n ≤ a.off + 4096 * a.ages.length)
  | none => false

/-- Whether a read of n bytes at a gang offset meets an expired block (R101). -/
def Gang.stale (g : Gang) (off n : Nat) : Bool :=
  match g.allocAt off with
  | some a =>
    decide (a.tag < (a.ages[(off - a.off) / 4096]?).getD 0) ||
    decide (a.tag < (a.ages[(off + n - 1 - a.off) / 4096]?).getD 0)
  | none => false

/-- Where an uncorrectable error may stand at a byte of a place. -/
def Place.site (gi : Nat) : Place → ErrSite
  | .mem pa => .mem (pa / 32)
  | .spad off => .spad gi (off / 32)
  | .sdm off => .sdm gi (off / 32)

/-- A place moved up. -/
def Place.add : Place → Nat → Place
  | .mem pa, n => .mem (pa + n)
  | .spad off, n => .spad (off + n)
  | .sdm off, n => .sdm (off + n)

/-- Checks 1 to 4 of R167 and R228 on one access of n bytes aligned to `al`, and where it lands. `first` is whether
element 0 of the instruction lies in the window (R94). -/
def State.place (s : State) (a : Agent) (lvl : Nat) (acc : Acc) (first : Bool) (va : Word) (n al : Nat) :
    Except MemErr (Place × State) :=
  let v := va.toNat
  if tooWide va then .error ⟨cXLAT, va⟩
  else if v % al ≠ 0 then .error ⟨cALIGN, va⟩
  else if first then
    if !inWindow v then .error ⟨cSPRANGE, va⟩
    else
      let off := v - windowBase
      if 0x3040000 ≤ off then .error ⟨cPROT, va⟩
      else if 0x3010000 ≤ off then .error ⟨cSPRANGE, va⟩
      else if 0x3000000 ≤ off then
        if off + n ≤ 0x3010000 then .ok (.sdm (off - 0x3000000), s) else .error ⟨cSPRANGE, va⟩
      else if (s.gangOf a.gang).inAlloc off n then .ok (.spad off, s) else .error ⟨cSPRANGE, va⟩
  else if inWindow v then .error ⟨cPROT, va⟩
  else
    match s.translate a lvl acc v with
    | .ok (pa, s) => .ok (.mem pa, s)
    | .error c => .error ⟨c, va⟩

/-- An uncorrectable error in the first or the last of n bytes at a place. -/
def State.spoiled (s : State) (gi : Nat) (p : Place) (n : Nat) : Bool :=
  s.errors.contains (p.site gi) || s.errors.contains ((p.add (n - 1)).site gi)

/-- Checks 5 and 6 of R167 and R228, made as the bytes are read: an expired block (R101), an uncorrectable error. -/
def State.unreadable (s : State) (gi : Nat) (p : Place) (n : Nat) : Option Nat :=
  let old := match p with
    | .spad off => (s.gangOf gi).stale off n
    | _ => false
  if old then some cSTALE
  else if s.spoiled gi p n then some cMCHK
  else none

/-- Checks 5 and 6 on an access of a kind: the fifth is made of reads alone (R101, R167). -/
def State.barred (s : State) (gi : Nat) (acc : Acc) (p : Place) (n : Nat) : Option Nat :=
  match acc with
  | .write => if s.spoiled gi p n then some cMCHK else none
  | _ => s.unreadable gi p n

/-- Every check of R167 and R228 on one access, for those that meet no interlock between the fourth and the fifth. -/
def State.locate (s : State) (a : Agent) (lvl : Nat) (acc : Acc) (first : Bool) (va : Word) (n al : Nat) :
    Except MemErr (Place × State) :=
  match s.place a lvl acc first va n al with
  | .error e => .error e
  | .ok (p, s') =>
    match s.barred a.gang acc p n with
    | some c => .error ⟨c, va⟩
    | none => .ok (p, s')

/-- INFO of a fault record for an access that met a cause at an address: of MCHK, the physical address of the sector
(R386); of a window address, the address itself (log 58). -/
def State.causeInfo (s : State) (a : Agent) (lvl code : Nat) (va : Word) : Word :=
  if code ≠ cMCHK then 0
  else
    match s.place a lvl .read (inWindow va.toNat) va 1 1 with
    | .ok (.mem pa, _) => BitVec.ofNat 64 (pa / 32 * 32)
    | _ => BitVec.ofNat 64 (va.toNat / 32 * 32)

/-- Bytes held back over a sector, by its number. -/
abbrev HeldBytes := Nat × List (Nat × BitVec 8)

/-- The byte that the youngest of the held writes over it gives (R116). -/
def heldByte (es : List HeldBytes) (pa : Nat) : Option (BitVec 8) :=
  es.foldl (fun acc e =>
    if e.1 = pa / 32 then
      match e.2.find? fun b => b.1 = pa % 32 with
      | some b => some b.2
      | none => acc
    else acc) none

/-- Put an element into a list that rises by a key, after those of the same key. -/
def insertBy {α : Type} (key : α → Nat) (x : α) : List α → List α
  | [] => [x]
  | y :: l => if key x < key y then x :: y :: l else y :: insertBy key x l

/-- Sort a list by a key, keeping the order of equal keys. -/
def sortBy {α : Type} (key : α → Nat) (l : List α) : List α := l.foldl (fun acc x => insertBy key x acc) []

/-- The low n bytes of a number, with their offsets. -/
def bytesOf (off v : Nat) : Nat → List (Nat × BitVec 8)
  | 0 => []
  | n + 1 => (off, BitVec.ofNat 8 v) :: bytesOf (off + 1) (v / 256) n

/-- The order of the held writes of a gang: by epoch, then as they were performed with respect to the gang (R137). -/
def holdKey (epoch place : Nat) : Nat := epoch * 2 ^ 64 + place

/-- The held writes of a thread that are performed with respect to the gang (R137). -/
def Thread.shown (t : Thread) : List (Nat × HeldBytes) :=
  (t.wc.filterMap fun e => e.gang.map fun k => (holdKey e.epoch k, e.sector, e.bytes)) ++
  t.xfers.flatMap fun x => match x.kind with
    | .merge _ _ tag _ fs =>
      fs.map fun f => (holdKey x.epoch f.gang, f.pa / 32, bytesOf (f.pa % 32) f.value.toNat tag.width)
    | _ => []

/-- The held writes that a gang sees in place of memory, oldest first (R137). -/
def Gang.shown (g : Gang) : List (Nat × HeldBytes) := sortBy (·.1) (g.harts.flatMap (·.shown) ++ g.access.shown)

/-- Whether a queued record makes global stores or merges, or ends an epoch (R137). -/
def VRec.drains (r : VRec) : Bool :=
  match r.op with
  | .store _ _ | .wacc | .wmerge => true
  | .fence scope _ => decide (4 ≤ scope)
  | _ => false

/-- Whether a thread has made every store and merge of epochs up to n, and passed the epoch (R137). -/
def Thread.pastEpoch (t : Thread) (n : Nat) : Bool :=
  (t.ended || decide (n < t.epoch)) && !(t.wc.any fun e => decide (e.epoch ≤ n)) &&
  !(t.vq.any fun r => r.drains && decide (r.epoch ≤ n) && !r.done) &&
  !(t.xfers.any fun x => decide (x.epoch ≤ n) && match x.kind with
    | .merge _ _ _ _ _ => true
    | _ => false)

/-- The same for the access-unit context, whose accesses count in the epochs of its own package-scope vector fences: it
holds up an epoch only by stores it has still to make. -/
def Thread.accessPast (t : Thread) (n : Nat) : Bool :=
  !(t.wc.any fun e => decide (e.epoch ≤ n)) && !(t.vq.any fun r => r.drains && decide (r.epoch ≤ n) && !r.done)

/-- Epoch n of a gang is performed (R137). -/
def Gang.pastEpoch (g : Gang) (n : Nat) : Bool := g.harts.all (·.pastEpoch n) && g.access.accessPast n

/-- Whether the stores of epoch n of a gang are held: some earlier slot of its deterministic launch has not performed
its epoch n (R137). -/
def State.held (s : State) (gi n : Nat) : Bool :=
  let g := s.gangOf gi
  s.gangDeterm g &&
    s.gangs.any fun o => o.launch = g.launch && decide (o.number < g.number) && !o.pastEpoch n

/-- A held store is performed with respect to its gang once the gang sees it, for as long as it is held; released, it is
performed when memory has it (R137). -/
def State.shownHeld (s : State) (gi : Nat) (e : WcEntry) : Bool := e.gang.isSome && s.held gi e.epoch

/-- The held writes that a thread's loads have returned and that memory does not have yet (R125). -/
def Gang.unreleased (g : Gang) (t : Thread) : Bool := g.shown.any fun x => t.seen.contains x.1

/-- The stores of a slice that no other slice sees yet, oldest first (R116). -/
def Thread.unseen (t : Thread) (slice : Nat) : List HeldBytes :=
  (t.wc.filter fun e => e.slice = slice && e.gang.isNone).map fun e => (e.sector, e.bytes)

/-- Bytes of memory from an address up with held writes laid over them. -/
def readOver (m : Memory) (es : List HeldBytes) (pa n : Nat) : Nat :=
  (List.range n).foldr (fun i v =>
    (match heldByte es (pa + i) with
      | some b => b.toNat
      | none => (m.get (pa + i)).toNat) + 256 * v) 0

/-- Bytes of memory as a load of a slice sees them, from an address up: forwarded from the stores of its slice, else as
the gang sees them; none where its slice has written some of them but not all (R113, R116 rule 4, R137). -/
def State.loadMem (s : State) (a : Agent) (slice pa n : Nat) : Option Nat :=
  let own := ((s.thread? a).getD .empty).unseen slice
  let all_ := ((s.gangOf a.gang).shown.map (·.2)) ++ own
  let hs := (List.range n).map fun i => heldByte all_ (pa + i)
  let os := (List.range n).map fun i => heldByte own (pa + i)
  if hs.all (·.isNone) then some (s.mem.read pa n)
  else if os.all (·.isNone) || os.all (·.isSome) then some (readOver s.mem all_ pa n)
  else none

/-- Close the open entries of a slice (R120). -/
def Thread.closeSlice (t : Thread) (slice : Nat) : Thread :=
  { t with wc := t.wc.map fun e => if e.slice = slice then { e with opn := false } else e }

/-- Close every entry (R120). -/
def Thread.closeAll (t : Thread) : Thread := { t with wc := t.wc.map fun e => { e with opn := false } }

/-- Add bytes to an entry, replacing those at the same offsets. -/
def mergeBytes (old new : List (Nat × BitVec 8)) : List (Nat × BitVec 8) :=
  old.filter (fun b => !new.any fun c => c.1 = b.1) ++ new

/-- A global store of bytes within one sector through the write-combining buffer (R120), made from an entry of a store
queue if `sq` names one; none when all 16 entries are in use. -/
def State.storeMem (s : State) (a : Agent) (slice va pa : Nat) (bytes : List (Nat × BitVec 8)) (nt : Bool)
    (epoch : Nat) (sq : Option Nat) : Option State :=
  let t := (s.thread? a).getD .empty
  let mine := t.wc.filter fun e => e.slice = slice
  let merges :=
    match mine.getLast? with
    | some e => e.opn && e.gang.isNone && !nt && !e.nt && e.sector = pa / 32 && e.epoch = epoch
    | none => false
  if merges then
    let st := (mine.getLast?.map (·.stamp)).getD 0
    some (s.modThread a fun t => { t with wc := t.wc.map fun e =>
      if e.stamp = st then
        { e with
          bytes := mergeBytes e.bytes bytes
          sq := e.sq ++ sq.toList.filter fun q => !e.sq.contains q }
      else e })
  else if 16 ≤ t.wc.length then none
  else
    let e : WcEntry := ⟨slice, pa / 32, va / 32, bytes, !nt, nt, epoch, s.stamp, sq.toList, none⟩
    some ({ s with stamp := s.stamp + 1 }.modThread a fun t =>
      let t := t.closeSlice slice
      { t with wc := t.wc ++ [e] })

/-- Read n bytes at a place (R113, R116); none stalls. -/
def State.loadAt (s : State) (a : Agent) (slice : Nat) (p : Place) (n : Nat) : Option Nat :=
  match p with
  | .mem pa => if s.training pa then none else s.loadMem a slice pa n
  | .spad off => some ((s.gangOf a.gang).spad.read off n)
  | .sdm off => some ((s.gangOf a.gang).sdm.read off n)

/-- A store of the scalar slice: no later load of the slice keeps a value that was taken of its bytes before it (R116). -/
def State.dropTaken (s : State) (a : Agent) (slice pa n : Nat) : State :=
  let meets (x : Ahead) : Bool := decide (pa < x.pa + x.n) && decide (x.pa < pa + n)
  if slice = 0 && ((s.thread? a).getD .empty).taken.any meets then
    s.modThread a fun t => { t with taken := t.taken.filter fun x => !meets x }
  else s

/-- Write n bytes at a place; none stalls. A window store takes effect at once, and so comes after the earlier stores of
its slice (R116, rule 1; R120). -/
def State.storeAt (s : State) (a : Agent) (slice va : Nat) (p : Place) (n v : Nat) (nt : Bool) (epoch : Nat)
    (sq : Option Nat) : Option State :=
  let put (f : Gang → Gang) : Option State :=
    if (((s.thread? a).getD .empty).unseen slice).isEmpty then some (s.modGang a.gang f) else none
  match p with
  | .mem pa => (s.dropTaken a slice pa n).storeMem a slice va pa (bytesOf (pa % 32) v n) nt epoch sq
  | .spad off => put fun g => { g with spad := g.spad.write off n v }
  | .sdm off => put fun g => { g with sdm := g.sdm.write off n v }

/-- The same for some bytes from a place up, by their offsets from it (R136). -/
def State.storeSome (s : State) (a : Agent) (slice va : Nat) (p : Place) (bytes : List (Nat × BitVec 8)) (nt : Bool)
    (epoch : Nat) (sq : Option Nat) : Option State :=
  let put (m : Memory) (off : Nat) : Memory := bytes.foldl (fun m b => m.set (off + b.1) b.2) m
  let one (f : Gang → Gang) : Option State :=
    if (((s.thread? a).getD .empty).unseen slice).isEmpty then some (s.modGang a.gang f) else none
  match p with
  | .mem pa => s.storeMem a slice va pa (bytes.map fun b => (pa % 32 + b.1, b.2)) nt epoch sq
  | .spad off => one fun g => { g with spad := put g.spad off }
  | .sdm off => one fun g => { g with sdm := put g.sdm off }

/-- A load has read n bytes at a place: the held writes among those it has returned are noted, and those that memory has
since received forgotten (R125, R137). -/
def State.noteRead (s : State) (a : Agent) (p : Place) (n : Nat) : State :=
  match p with
  | .mem pa =>
    let sh := (s.gangOf a.gang).shown
    if sh.isEmpty then s
    else
      let mine := (sh.filter fun x => x.2.2.any fun b =>
        decide (pa ≤ 32 * x.2.1 + b.1) && decide (32 * x.2.1 + b.1 < pa + n)).map (·.1)
      s.modThread a fun t => { t with seen :=
        (t.seen.filter fun k => sh.any fun x => x.1 = k) ++ mine.filter fun k => !t.seen.contains k }
  | _ => s

/-- Sectors of two runs of bytes overlap (R128, R129). -/
def overlaps (a n b m : Nat) : Bool :=
  decide (0 < n) && decide (0 < m) && decide (a / 32 ≤ (b + m - 1) / 32) && decide (b / 32 ≤ (a + n - 1) / 32)

/-- An entry of the interlock table conflicts with an access (R129). -/
def Xfer.conflicts (x : Xfer) (va n : Nat) (writes : Bool) : Bool :=
  (match x.wr with
    | some (b, m) => overlaps va n b m
    | none => false) ||
  (match x.wr2 with
    | some (b, m) => overlaps va n b m
    | none => false) ||
  (writes &&
    match x.rd with
    | some (b, m) => overlaps va n b m
    | none => false)

/-- A far gather that is queued, as the entry its range will take (R260). -/
def VRec.farRange (r : VRec) : Option Xfer :=
  match r.op with
  | .load (.far n) _ _ =>
    if r.done then none
    else some (Xfer.new (.far []) r.seq r.pc r.word 0 (some (r.opa.toNat, n * r.opTag.width)) none none r.epoch)
  | _ => none

/-- The transfer that an access of n bytes has to wait for (R129); a store also waits for the far gathers pushed before
it that read its bytes (R260). -/
def Thread.blocker (t : Thread) (va n : Nat) (writes : Bool) : Option Xfer :=
  (t.xfers ++ t.vq.filterMap (·.farRange)).find? fun x => x.conflicts va n writes

/-- A transfer stopped by a cause that no instruction has raised yet (R244). -/
def Xfer.tells (x : Xfer) : Bool := x.fault.isSome && !x.told

/-- Whether an access at a place stalls for the training of its channel. -/
def State.stalled (s : State) (p : Place) : Bool :=
  match p with
  | .mem pa => s.training pa
  | _ => false

/-- The wait table an address belongs to (R179): base dies 0 to 7, CXL controller 8, DCL controller 9, core c at
10 + c. -/
def ownerOf (core : Nat) : Place → Nat
  | .mem pa =>
    match regionOf pa with
    | some (.hbm st) => st
    | some (.cxl _) => 8
    | some .host => 9
    | _ => 9
  | _ => 10 + core

/-- The key of a dword at its owner; window dwords are told apart by gang. -/
def keyOf (gang : Nat) : Place → Nat
  | .mem pa => 4 * (pa / 8)
  | .spad off => 4 * (off / 8 + 2 ^ 60 * (gang + 1)) + 1
  | .sdm off => 4 * (off / 8 + 2 ^ 60 * (gang + 1)) + 2

/-- Read n bytes at a place as memory holds them. -/
def State.peekAt (s : State) (a : Agent) (p : Place) (n : Nat) : Nat :=
  match p with
  | .mem pa => s.mem.read pa n
  | .spad off => (s.gangOf a.gang).spad.read off n
  | .sdm off => (s.gangOf a.gang).sdm.read off n

/-- Whether a held write that the gang of an agent sees lies in the sectors of n bytes at a place (R137). -/
def State.heldOver (s : State) (a : Agent) (p : Place) (n : Nat) : Bool :=
  match p with
  | .mem pa => (s.gangOf a.gang).shown.any fun x => decide (pa / 32 ≤ x.2.1) && decide (x.2.1 ≤ (pa + n - 1) / 32)
  | _ => false

/-- Read n bytes at a place as the gang of an agent sees them (R113, R137). -/
def State.seenAt (s : State) (a : Agent) (p : Place) (n : Nat) : Nat :=
  match p with
  | .mem pa => if s.heldOver a p n then readOver s.mem ((s.gangOf a.gang).shown.map (·.2)) pa n else s.mem.read pa n
  | p => s.peekAt a p n

/-- Energy event class of a sector of a place (R428). -/
def Place.energy : Place → Nat
  | .spad _ | .sdm _ => 9
  | .mem pa =>
    match regionOf pa with
    | some (.hbm _) => 10
    | some (.cxl _) => 11
    | some .host => 12
    | _ => 20

/-- Sectors that n bytes of a place lie in. -/
def Place.sectors (p : Place) (n : Nat) : Nat :=
  let o := match p with
    | .mem a | .spad a | .sdm a => a
  (o + n - 1) / 32 + 1 - o / 32

/-- Charge an access of n bytes by its sectors (R428). -/
def State.chargeAt (s : State) (gi : Nat) (p : Place) (n : Nat) : State := s.charge gi p.energy (p.sectors n)

/-- Charge one of the accesses of an engine to a run of bytes upwards (R428): a sector counts with the last access in it,
which is that of n bytes at `va` if none follows or the next starts a sector. -/
def State.chargeRun (s : State) (gi : Nat) (p : Place) (n va : Nat) (more : Bool) : State :=
  if !more || decide ((va + n) % 32 = 0) then s.chargeAt gi p n else s

/-- Write n bytes at a place, performed at once. -/
def State.pokeAt (s : State) (a : Agent) (p : Place) (n v : Nat) : State :=
  match p with
  | .mem pa => { s with mem := s.mem.write pa n v }
  | .spad off => s.modGang a.gang fun g => { g with spad := g.spad.write off n v }
  | .sdm off => s.modGang a.gang fun g => { g with sdm := g.sdm.write off n v }

/-- The trap code that stands for no cause: an access that only has to wait for its channel's training (R459). -/
def cWAIT : Nat := 0

/-- Read `n` dwords for an engine working for an agent, with the permissions of its level (R412); the first failing
dword decides. -/
def State.readDwords (s : State) (a : Agent) (lvl : Nat) (va : Nat) : Nat → Except MemErr (List Word × State)
  | 0 => .ok ([], s)
  | n + 1 =>
    let w : Word := BitVec.ofNat 64 va
    match s.locate a lvl .read (inWindow va) w 8 8 with
    | .error e => .error e
    | .ok (p, s) =>
      if s.stalled p then .error ⟨cWAIT, w⟩
      else
        match ((s.noteRead a p 8).chargeRun a.gang p 8 va (n ≠ 0)).readDwords a lvl (va + 8) n with
        | .error e => .error e
        | .ok (vs, s') => .ok (BitVec.ofNat 64 (s.seenAt a p 8) :: vs, s')

/-- The level at which an access that an engine or the Catalogue makes for a thread is checked: its present one (R412). -/
def State.nowLevel (s : State) (a : Agent) : Nat := ((s.thread? a).getD .empty).lvl

/-- What an engine reads for an agent: n numbers of `len` bytes each (R323, R334, R359), noted as reads of it (R125). The
error is a cause, or `cWAIT` while a channel is in training (R459). -/
def State.readNumbers (s : State) (a : Agent) (len : Nat) (va : Word) : Nat → Except Nat (List Nat × State)
  | 0 => .ok ([], s)
  | n + 1 =>
    match s.locate a (s.nowLevel a) .read false va len len with
    | .error e => .error e.code
    | .ok (p, s) =>
      if s.stalled p then .error cWAIT
      else
        match ((s.noteRead a p len).chargeRun a.gang p len va.toNat (n ≠ 0)).readNumbers a len
            (va + BitVec.ofNat 64 len) n with
        | .error c => .error c
        | .ok (vs, s') => .ok (s.seenAt a p len :: vs, s')

/-- Whether one of n numbers of `len` bytes each cannot be written yet: its channel is in training (R459), or the
gang sees a held write to it (R113). -/
def State.writesStall (s : State) (a : Agent) (len : Nat) (va : Word) (n : Nat) : Bool :=
  (List.range n).any fun k =>
    match s.locate a (s.nowLevel a) .write false (va + BitVec.ofNat 64 (len * k)) len len with
    | .error _ => false
    | .ok (p, _) => s.stalled p || s.heldOver a p len

/-- Write one dword for an engine working for an agent, straight to memory: the write is a release (R245). -/
def State.writeDword (s : State) (a : Agent) (lvl : Nat) (va v : Word) : Except MemErr State :=
  match s.locate a lvl .write (inWindow va.toNat) va 8 8 with
  | .error e => .error e
  | .ok (p, s) => .ok ((s.pokeAt a p 8 v.toNat).chargeAt a.gang p 8)

/-- Read `n` dwords for a launch (R412): an uncorrectable error is a cause too (R163, R228). -/
def State.readFor (s : State) (part lvl : Nat) (va : Nat) : Nat → Except Nat (List Word)
  | 0 => .ok []
  | n + 1 =>
    match s.translateFor part lvl .read va with
    | .error e => .error e
    | .ok pa =>
      if s.training pa then .error cWAIT
      else if s.errors.contains (.mem (pa / 32)) then .error cMCHK
      else
      match s.readFor part lvl (va + 8) n with
      | .error e => .error e
      | .ok vs => .ok (BitVec.ofNat 64 (s.mem.read pa 8) :: vs)

end Sys2Proof.Machine
end

