-- ==== Sys2Proof/Machine/Life.lean ====
section
/-! DEFINITION. The life of harts, gangs and launches: barrier phases, waking, the release of lane groups, retirement,
completion, and the breaking of collective groups (R21, R26, R34, R179, R271). -/

namespace Sys2Proof.Machine

/-- End a wait and retire the instruction that waited. -/
def Thread.wake (t : Thread) : Thread := { t with wait := .none }.retire

/-- The phase completion of R34, when every member has arrived. -/
def Gang.completePhase (g : Gang) : Gang :=
  if g.arrived &&& g.members = g.members && g.members ≠ 0 then
    { g with
      members := g.members &&& ~~~g.drops, arrived := 0, drops := 0, phase := g.phase + 1,
      harts := g.harts.map fun t =>
        let t := { t with pend := false }
        if t.wait = .barrier then t.wake else t }
  else g

/-- An arrival, or an arrive-and-drop, by hart h (R34, R186). -/
def Gang.arrive (g : Gang) (h : Nat) (drop : Bool) : Gang :=
  if !g.members.getLsbD h || g.arrived.getLsbD h then g
  else
    let b : BitVec 8 := BitVec.ofNat 8 (2 ^ h)
    { g with
      arrived := g.arrived ||| b, drops := if drop then g.drops ||| b else g.drops,
      harts := modifyAt g.harts h fun t => { t with pend := true } }.completePhase

/-- Free the lane groups that satisfy a test on gang and hart (R43). -/
def State.freeLanes (s : State) (core : Nat) (p : Nat → Nat → Bool) : State :=
  s.modCore core fun c => { c with lanes := c.lanes.map fun l =>
    match l with
    | some (g, h, _) => if p g h then none else l
    | none => none }

/-- Drop the settled claims of a gang that are not yet in effect, and the changes of lgmode settled with them. -/
def State.dropClaims (s : State) (core gi : Nat) : State :=
  s.modCore core fun c => { c with
    claims := c.claims.filter fun x => x.2 ≠ gi
    giving := c.giving.filter fun x => x.1 ≠ gi }

/-- The agent that a registration names. -/
def Sleeper.agent (r : Sleeper) : Agent := ⟨r.gang, if r.hart = 255 then .access else .hart r.hart⟩

/-- Wake the harts registered on a dword with the value it now holds (R178, R179). -/
def State.wakeWord (s : State) (owner key : Nat) (v : Word) : State :=
  let hit := s.sleepers.filter fun r => r.owner = owner && r.key = key
  let s := { s with sleepers := s.sleepers.filter fun r => !(r.owner = owner && r.key = key) }
  hit.foldl (fun s r => s.modThread r.agent fun t =>
    match t.wait with
    | .word d k _ _ => if k = key then (t.setReg d v).wake else t
    | _ => t) s

/-- Cancel the registrations of a gang (R179). -/
def State.dropSleepers (s : State) (gi : Nat) : State :=
  { s with sleepers := s.sleepers.filter fun r => r.gang ≠ gi }

/-- The completion word of a launch (R21). -/
def Launch.completionWord (l : Launch) : Word := BitVec.ofNat 64 (l.left % 2 ^ 32 + l.outcome * 2 ^ 32)

/-- Complete a launch whose gangs have all retired: write the completion word and wake its waiters, and free the
identifier (R21, R179, R419). -/
def State.completeLaunch (s : State) (li : Nat) : State :=
  match s.launches[li]? with
  | none => s
  | some l =>
    let s := s.modLaunch li fun l => { l with complete := true }
    let done := l.dw 7
    if done = 0 then s
    else
      match s.translateFor l.part l.level .write done with
      | .error _ => s.modPart l.part fun p => { p with doneerr := true }
      | .ok pa =>
        let s := { s with mem := s.mem.write pa 8 l.completionWord.toNat }
        s.wakeWord (ownerOf 0 (.mem pa)) (keyOf 0 (.mem pa)) l.completionWord

/-- Every store that a gang has issued is performed. -/
def Gang.drained (g : Gang) : Bool := g.harts.all (·.wc.isEmpty) && g.access.wc.isEmpty

/-- The completion word of a launch lies in a channel in training: its write has to wait (R459). -/
def State.doneStalls (s : State) (l : Launch) : Bool :=
  l.dw 7 ≠ 0 && match s.translateFor l.part l.level .write (l.dw 7) with
    | .ok pa => s.training pa
    | .error _ => false

/-- Complete a launch once its last gang has retired, every store of its gangs is performed (R21, R390) and its completion
word can be written (R459). -/
def State.finishLaunch (s : State) (li : Nat) : State :=
  match s.launches[li]? with
  | some l =>
    if l.gangs ≤ l.retired && !l.complete && !s.doneStalls l &&
        s.gangs.all fun g => decide (g.launch ≠ li) || g.drained then
      s.completeLaunch li
    else s
  | none => s

/-- Count `n` retirements of a launch's gangs, with an outcome, and complete it after the last (R21). -/
def State.countRetired (s : State) (li n outcome : Nat) : State :=
  (s.modLaunch li fun l =>
    { l with retired := l.retired + n, outcome := if l.outcome = 0 then outcome else l.outcome }).finishLaunch li

/-- Give up a context-pool slot (R425). -/
def State.freePool (s : State) (gi : Nat) : State :=
  let g := s.gangOf gi
  match g.poolSlot with
  | some k =>
    (s.modPart (s.partOfCore g.core) fun p => { p with pool := p.pool.filter (· ≠ k) }).modGang gi
      fun g => { g with poolSlot := none }
  | none => s

/-- A change of lgmode: the lane group, its access mode and its gang slot. -/
abbrev ModeChange := Nat × Bool × Nat

/-- The changes of lgmode that are written and not in effect, of the groups that satisfy a test (R65). -/
def CoreSt.modeChanges (c : CoreSt) (p : Nat → Bool) : List ModeChange :=
  ((List.range 8).filter fun k =>
    (c.accNow.getLsbD k != c.acc.getLsbD k || decide (c.ownNow.toNat / 4 ^ k % 4 ≠ c.own.toNat / 4 ^ k % 4)) && p k).map
    fun k => (k, c.acc.getLsbD k, c.own.toNat / 4 ^ k % 4)

/-- A change of lgmode in effect. -/
def CoreSt.setMode (c : CoreSt) (x : ModeChange) : CoreSt :=
  { c with
    accNow := if x.2.1 then c.accNow ||| BitVec.ofNat 8 (2 ^ x.1) else c.accNow &&& ~~~BitVec.ofNat 8 (2 ^ x.1)
    ownNow := (c.ownNow &&& ~~~BitVec.ofNat 16 (3 * 4 ^ x.1)) ||| BitVec.ofNat 16 (x.2.2 * 4 ^ x.1) }

/-- Access vector registers at their declared tag (R252). -/
def resetAccess (g : Gang) : Thread :=
  let t := Tag.unsigned g.w
  { g.access with vregs := List.replicate g.nv ⟨t, t, [], false, 0⟩ }

/-- Changes of lgmode take effect on a core; the contexts of resident gangs whose access-mode groups change have their
vector registers reset (R65, R252). -/
def State.setModes (s : State) (core : Nat) (l : List ModeChange) : State :=
  let before := s.gangs.mapIdx fun i _ => s.accessLanes i
  let s := s.modCore core fun c => l.foldl CoreSt.setMode c
  { s with gangs := s.gangs.mapIdx fun i g =>
      if g.core = core && decide (g.st = .resident) && decide ((before[i]?).getD [] ≠ s.accessLanes i) then
        { g with access := resetAccess g }
      else g }

/-- The changes of lgmode that are written take effect on the groups that satisfy a test (R65). -/
def State.changeModes (s : State) (core : Nat) (p : Nat → Bool) : State :=
  s.setModes core ((s.core core).modeChanges p)

/-- Whether lane group k is held by a hart, or by the access context of a resident gang (R43, R65). -/
def State.laneHeld (s : State) (core k : Nat) : Bool :=
  let c := s.core core
  if c.accNow.getLsbD k then
    s.gangs.any fun g => g.st = .resident && g.core = core && decide (g.slot = c.ownNow.toNat / 4 ^ k % 4)
  else ((c.lanes[k]?).getD none).isSome

/-- The end of a hart (R26, R190): an arrive-and-drop; its lane groups are free, and changes of lgmode that waited for it are
made (R65). -/
def State.endHart (s : State) (gi h : Nat) : State :=
  let s := s.modGang gi fun g =>
    let g := g.arrive h true
    { g with harts := modifyAt g.harts h fun t =>
      { t with ended := true, pend := false, wait := .none, stall := .none, vregs := [], vl := 0 } }
  let core := (s.gangOf gi).core
  let mine := s.lanesOf gi h
  (s.freeLanes core fun g n => g = gi && n = h).changeModes core fun k => mine.contains k

/-- Take a gang off its core's tables: lane groups, registrations, and changes of lgmode that waited for it. -/
def State.leaveCore (s : State) (gi : Nat) : State :=
  let g := s.gangOf gi
  let mine := (List.range 8).filter fun k =>
    let c := s.core g.core
    (match (c.lanes[k]?).getD none with
      | some (x, _, _) => x = gi
      | none => false) || (c.accNow.getLsbD k && decide (g.slot = c.ownNow.toNat / 4 ^ k % 4))
  let s := (s.freeLanes g.core fun x _ => x = gi).dropClaims g.core gi
  let s := s.changeModes g.core fun k => mine.contains k
  s.dropSleepers gi

/-- Work that an engine has accepted and makes whole whatever becomes of the gang: adaptations, re-cuttings and Orchard
commands (R326, R333, R350). -/
def Xfer.outlives (x : Xfer) : Bool :=
  match x.kind with
  | .catalogue _ _ _ | .recut _ _ | .orchard _ _ _ => true
  | _ => false

/-- The slots of a tile whose contents are lost: free values from the n-th taking on (R448; log 5). -/
def lostSlots (n : Nat) : Sparse 64 :=
  (List.range 32768).foldl (fun m i => m.set i (Config.freeValue (n + i))) []

/-- What a gang had on a core that stops is lost (R448, R452): its tiles and its allocations there, and its harts' lanes.
Tiles that a suspended gang had left there hold free values from then on. -/
def Gang.lose (g : Gang) (core n : Nat) : Gang :=
  let g := if g.tilesOn = some core then
      { g with tiles := g.tiles.mapIdx fun k x => { x with data := lostSlots (n + 32768 * k) } }
    else g
  if g.core ≠ core then g
  else
    match g.st with
    | .resident => { g with
        tiles := [], allocs := [], spad := [], sdm := []
        harts := g.harts.map fun t => { t with vregs := [] }, access := { g.access with vregs := [] } }
    | .suspended => { g with allocs := g.allocs.filter fun x => !x.kept }
    | _ => g

/-- Every hart and context of a core stops, without any state being saved; its lanes, tiles and allocations are lost
(R448). -/
def State.loseCore (s : State) (core : Nat) : State :=
  { s.modCore core fun c => { c with stopped := true, lanes := List.replicate 8 none, claims := [], giving := [] } with
    gangs := s.gangs.mapIdx fun i g => g.lose core (s.free + 2 ^ 19 * i)
    free := s.free + 2 ^ 19 * s.gangs.length }

/-- Retirement of a gang (R26): its resources are released; the last gang of a launch completes it (R21). The stores
that a killed gang has issued are closed and stay to be performed (R390). -/
def State.retireGang (s : State) (gi outcome : Nat) : State :=
  let g := s.gangOf gi
  let s := (s.leaveCore gi).freePool gi
  let s := s.modGang gi fun g =>
    { g with
      st := .retired, tiles := [], tilesOn := none, ents := [], lq := List.replicate 8 [], sq := List.replicate 4 [],
      bq := List.replicate 4 [], allocs := [], spad := [], haltReq := none, resume := none, yielded := false,
      harts := g.harts.map fun t => { t.closeAll with
        ended := true, wait := .none, vq := [], mq := [], flight := none, taken := [], xfers := t.xfers.filter (·.outlives) },
      access := { g.access.closeAll with ended := true, wait := .none, vq := [], flight := none, xfers := [] } }
  if s.mod.bootGang = some gi then
    { s with
      mod := { s.mod with event := s.mod.event ||| 16#5, bootGang := none },
      cores := s.cores.mapIdx fun i c => if i = g.core then c else { c with parked := true } }
  else s.countRetired g.launch 1 outcome

/-- End a gang that software or an unrecovered trap kills (R26, R397): it issues no further store. -/
def State.killGang (s : State) (gi outcome : Nat) : State :=
  match (s.gangOf gi).st with
  | .retired => s
  | _ => s.retireGang gi outcome

/-- Whether a gang's code object has an access program of its own (R162, R269). -/
def State.hasAccess (s : State) (g : Gang) : Bool :=
  match s.launchOf g with
  | some l => l.head.access
  | none => true

/-- Break a collective group (R271): its entry and what is under way for it, BROKEN of every member, and the entries not yet filled that the context
of a gang with ACCESS = 0 has pushed; a form that waits for its entry raises the cause itself. -/
def State.breakGroup (s : State) (part gidx : Nat) : State :=
  let s := s.modPart part fun p => { p with
    groups := p.groups.map fun e => if e.gidx = gidx then { e with broken := true } else e
    chunks := p.chunks.filter fun c => c.gidx ≠ gidx
    results := p.results.filter fun r => r.1 ≠ gidx }
  let fail (e : Entry) : Entry :=
    match e.chunk with
    | some (i, _, _) => if i = gidx && decide (e.prog < e.count) then { e with cause := some cCGBROKEN } else e
    | none => e
  { s with gangs := s.gangs.map fun g =>
      if g.st ≠ .retired && g.coll.gidx = gidx && !g.coll.notMem && s.partOfCore g.core = part then
        { g with
          coll := { g.coll with broken := true }
          ents := if s.hasAccess g then g.ents else g.ents.map fail }
      else g }

end Sys2Proof.Machine
end

