-- ==== Sys2Proof/Machine/Ops.lean ====
section
/-! DEFINITION. Taking a trap and returning from one (R382 to R387), and the operations every meaning uses: traps of
scalar instructions, privilege, and scalar loads and stores. -/

namespace Sys2Proof.Machine

/-- A fault record (R386). -/
def faultRecord (c : Cause) (lvl hart slot core : Nat) : List Word :=
  [BitVec.ofNat 64 (c.code + c.sub * 2 ^ 8 + c.src * 2 ^ 16 + lvl * 2 ^ 20 + c.elem % 2 ^ 32 * 2 ^ 32),
   BitVec.ofNat 64 (c.qdist + c.group * 2 ^ 16), BitVec.ofNat 64 c.seq, c.addr, c.pc, c.info,
   BitVec.ofNat 64 (c.word.toNat + hart * 2 ^ 32 + slot * 2 ^ 40 + core * 2 ^ 48), BitVec.ofNat 64 c.acc]

/-- A cause of the scalar instruction in execution. -/
def State.scalarCause (s : State) (code : Nat) (addr : Word) (acc : Nat) : Cause :=
  { code := code, sub := 0, src := if s.onHart then 0 else 3, elem := 0, qdist := 0, group := 0, seq := 0, addr := addr,
    pc := s.pc, info := s.causeInfo s.who s.me.lvl code addr, word := s.word, acc := acc, ord := s.me.ordNext }

/-- The core stops on a trap taken at level 2 (R448). -/
def State.stopCore (s : State) (core : Nat) (rec : List Word) : State :=
  { s.loseCore core with
    mod := { s.mod with event := s.mod.event ||| 1#5, evCore := BitVec.ofNat 8 core, frec := rec } }

/-- Taking a trap (R383): the one operation by which a hart enters a handler, or ends for want of one, or stops its
core. A word that has been fetched at level 0 and only stalled has cleared BSKIP (R380). -/
def State.enterTrap (s : State) (gi h : Nat) (c : Cause) : State :=
  let a : Agent := ⟨gi, .hart h⟩
  match s.thread? a with
  | none => s
  | some t =>
    let g := s.gangOf gi
    let part := s.partOfCore g.core
    let rec0 := faultRecord c t.lvl (if c.src = 3 then 255 else h) g.slot g.core
    let target := if c.code = cMCHK then 2 else t.lvl + 1
    let stop (t : Thread) : Thread :=
      { t with
        frz := true, kept := if t.frz then t.kept else t.wait, wait := .none, suppNow := false
        suppKept := if t.suppNow then t.lvl :: t.suppKept else t.suppKept
        bskip := t.bskip && (decide (t.stall = .none) || decide (t.lvl ≠ 0)), stall := .none
        wq := t.wq || match t.wait with
          | .gd _ => true
          | _ => false
        aflt := decide (c.src = 3) }
    if t.lvl = 2 then s.stopCore g.core rec0
    else if target = 1 then
      let v := (s.part part).stvec
      if v = 0 then s.killGang gi 2
      else s.modThread a fun t =>
        { stop t with sfrec := rec0, sepc := t.pc, plvl := t.lvl, lvl := 1, pc := v }
    else s.modThread a fun t =>
      { stop t with ffrec := rec0, fepc := t.pc, fplvl := t.lvl, lvl := 2, pc := s.mod.fvec }

/-- The cause to be taken first: MCHK, then the earliest in push order (R382). -/
def firstCause (l : List Cause) : Option Cause :=
  l.foldl (fun acc c =>
    match acc with
    | none => some c
    | some b =>
      if b.code = cMCHK then some b
      else if c.code = cMCHK || decide (c.ord < b.ord) then some c
      else some b) none

/-- The hart that a fault of the access-unit context is delivered to (R384). -/
def Gang.faultHart (g : Gang) : Option Nat :=
  (List.range g.harts.length).find? fun h =>
    match g.harts[h]? with
    | some t => !t.ended && decide (t.lvl = t.dlvl)
    | none => false

/-- Causes a hart has pending: its own, while its queues are not frozen by a trap it has taken already, and those of the
access-unit context when it is the one to receive them (R382, R384). -/
def State.pendingCauses (s : State) (gi h : Nat) : List Cause :=
  let g := s.gangOf gi
  let t := (g.harts[h]?).getD .empty
  let own := if t.frz then [] else t.causes
  if g.faultHart = some h then own ++ g.access.causes else own

/-- Take the first pending cause of a hart as a trap; the others stay pending (R382). -/
def State.takePending (s : State) (gi h : Nat) : State :=
  match firstCause (s.pendingCauses gi h) with
  | none => s
  | some c =>
    let s := s.modGang gi fun g =>
      { g with
        harts := modifyAt g.harts h fun t => { t with causes := t.causes.filter (· ≠ c) }
        access := if g.faultHart = some h then { g.access with causes := g.access.causes.filter (· ≠ c) } else g.access }
    s.enterTrap gi h c

/-- A trap raised by the instruction in execution. On a hart, an earlier cause that is pending is taken instead and the
instruction runs again after the return (R382); in an access-unit context the context halts and the cause is delivered
to a hart (R384). -/
def State.trapWith (s : State) (c : Cause) : Out :=
  match s.cur with
  | none => .fault .noAgent
  | some ⟨gi, .hart h⟩ =>
    match firstCause (s.pendingCauses gi h) with
    | some _ => if c.code = cMCHK then .next (s.enterTrap gi h c) else .next (s.takePending gi h)
    | none => .next (s.enterTrap gi h c)
  | some ⟨gi, .access⟩ =>
    .next (s.modGang gi fun g => { g with access :=
      { g.access with faulted := true, causes := g.access.causes ++ [c], stall := .busy } })

/-- A trap with a code alone. -/
def State.trap (s : State) (code : Nat) : Out := s.trapWith (s.scalarCause code 0 0)

/-- ILLOP at the instruction. -/
def State.illop (s : State) : Out := s.trap cILLOP

/-- A trap for a failing access. -/
def State.trapMem (s : State) (e : MemErr) (acc : Acc) : Out := s.trapWith (s.scalarCause e.code e.addr acc.code)

/-- Meanings of instructions that a hart alone issues; in an access-unit context they are ILLOP (R155). -/
def State.hart (s : State) (k : Out) : Out := s.agent (if s.onHart then k else s.illop)

/-- Major-0x3F functions: PROT below their level (R143, R379). -/
def State.privileged (s : State) (lvl : Nat) (k : Out) : Out :=
  s.hart (if s.me.lvl < lvl then s.trap cPROT else k)

/-- A transfer whose cause was raised goes on when the handler returns, but for one whose cause still waits to be taken
(R244, R359, R382). -/
def Xfer.goesOn (pending : List Cause) (x : Xfer) : Xfer :=
  if x.told && !(pending.any fun c => c.src = 4 && c.seq = x.seq && c.elem = x.elem) then
    { x with fault := none, told := false }
  else x

/-- A record that raised a cause runs again when the handler returns, but for one whose cause still waits to be taken
(R382, R387). -/
def VRec.goesOn (pending : List Cause) (r : VRec) : VRec :=
  { r with stuck := r.stuck && pending.any fun c => decide (c.ord = r.ord) }

/-- The return from a trap (R385). With SUPP, the instruction whose FPX was taken runs once more without it: the vector
instruction that the fault record names (log 81), or the scalar instruction at the return address, also where another trap
has come before it could run. -/
def State.returnTrap (s : State) : State :=
  s.setMe fun t =>
    let t0 := t
    let t := if t.lvl = 2 then { t with pc := wordAligned t.fepc, lvl := t.fplvl }
      else { t with pc := wordAligned t.sepc, lvl := t.plvl }
    let rec0 := if t0.lvl = 2 then t0.ffrec else t0.sfrec
    let src := ((rec0[0]?).getD 0).toNat / 2 ^ 16 % 16
    let seq := ((rec0[2]?).getD 0).toNat
    let fpx := t.supp && decide (((rec0[0]?).getD 0).toNat % 256 = cFPX)
    let t := { t with
      stall := .none, retired := t.retired + 1
      suppNow := (fpx && decide (src = 0)) || (t.supp && t.suppKept.contains t.lvl)
      suppKept := t.suppKept.filter (· ≠ t.lvl) }
    if t.lvl = t.dlvl then
      let again (r : VRec) : VRec :=
        { (r.goesOn t.causes).afresh with supp := r.supp || (fpx && decide (src = 1) && decide (r.seq = seq)) }
      { t with
        frz := false, aflt := false, wq := false, kept := .none
        vq := t.vq.map again
        mq := t.mq.map (·.goesOn t.causes)
        xfers := t.xfers.map (·.goesOn t.causes)
        wait := match t.kept with
          | .gd n => if t0.wq then .gd n else .none
          | .barrier => .barrier
          | .granted k d ga gb fair gs => .granted k d ga gb fair gs
          | _ => .none }
    else t

/-- An access-unit context halted by a fault resumes when a hart that took it returns (R385). -/
def State.resumeAccess (s : State) : State :=
  let gi := s.who.gang
  if s.me.lvl = s.me.dlvl && (s.gangOf gi).access.causes.isEmpty then
    s.modGang gi fun g => { g with access :=
      { g.access with
        faulted := false, vq := g.access.vq.map fun r => { r.afresh with stuck := false }
        xfers := g.access.xfers.map (·.goesOn []) } }
  else s

/-- Whether the vector queue is empty and every store of its slices is performed: the wait of R119. While the queues
are frozen only the completed groups count (R384); a held store counts once it is performed with respect to the gang, for
as long as it is held (R137). -/
def State.vectorDrained (s : State) : Bool :=
  let t := s.me
  (t.frz || t.vq.isEmpty) && t.wc.all fun e => decide (e.slice = 0) || s.shownHeld s.who.gang e

/-- The same with matrix moves, which fences, releases, barrier arrivals and KEND also wait for (R288). -/
def Thread.matrixDrained (t : Thread) : Bool :=
  t.frz || t.mq.all fun r => match r.op with
    | .mld | .mst => false
    | _ => true

/-- Whether a transfer holds a release (R124): a far gather does not once it is collected, and a mesh stream never. -/
def Xfer.holdsRelease (x : Xfer) : Bool :=
  match x.kind with
  | .stream _ _ | .receive => false
  | _ => true

/-- The earliest transfer stopped by a cause that is still to be raised, by the instruction that waits (R244). -/
def Thread.faultedXfer (t : Thread) : Option Xfer := t.xfers.find? (·.tells)

/-- The cause of a stopped transfer of an agent (R244, R386). -/
def State.xferCause (s : State) (a : Agent) (x : Xfer) (ord : Nat) : Cause :=
  let (code, addr, acc) := x.fault.getD (0, 0, 0)
  { code := code, sub := 0, src := 4, elem := x.elem, qdist := 0, group := 0, seq := x.seq, addr := addr, pc := x.pc,
    info := match x.kind with
      | .copy _ | .merge _ _ _ _ _ => BitVec.ofNat 64 (x.row + x.sect * 2 ^ 32)
      | .orchard w _ _ =>
        if code = cORCHFULL then (w[0]?).getD 0 else s.causeInfo a ((s.thread? a).getD .empty).lvl code addr
      | _ => s.causeInfo a ((s.thread? a).getD .empty).lvl code addr
    word := x.word, acc := acc, ord := ord }

/-- The cause of a transfer has been raised: it stays stopped until the handler returns (R244). -/
def Thread.tellXfer (t : Thread) (x : Xfer) : Thread :=
  { t with xfers := t.xfers.map fun y => if y = x then { y with told := true } else y }

/-- Take the trap of a stopped transfer at the instruction that waits for it (R244). A cause that is pending already is
taken first, unless this one is MCHK, and the transfer's is raised when the instruction runs again (R382). -/
def State.trapXfer (s : State) (x : Xfer) : Out :=
  let c := s.xferCause s.who x s.me.ordNext
  let s := match s.cur with
    | some ⟨gi, .hart h⟩ =>
      if (firstCause (s.pendingCauses gi h)).isSome && decide (c.code ≠ cMCHK) then s else s.setMe (·.tellXfer x)
    | _ => s.setMe (·.tellXfer x)
  s.trapWith c

/-- Whether every write-combining entry is performed with respect to a scope. A held entry is, within the gang, once the
gang sees it (R137); a wider release also waits for the held writes that the thread's loads have returned (R125). -/
def State.storesDrained (s : State) (scope : Nat) : Bool :=
  if scope ≤ 1 then s.me.wc.all (s.shownHeld s.who.gang) else s.me.wc.isEmpty && !s.myGang.unreleased s.me

/-- Whether a transfer of a gang is performed with respect to a scope, for a release (R124): within the gang, a held merge
is once the gang sees all its folds (R137). -/
def State.releases (s : State) (gi scope : Nat) (x : Xfer) : Bool :=
  !x.holdsRelease || (decide (scope ≤ 1) && s.held gi x.epoch && match x.kind with
    | .merge _ _ _ left shown => decide (left.length ≤ shown.length)
    | _ => false)

/-- Close the entries and wait until everything a release at a scope names is performed (R119, R122 to R124), then go
on. -/
def State.afterRelease (s : State) (scope : Nat) (k : State → Out) : Out :=
  let s := s.setMe Thread.closeAll
  match s.me.faultedXfer with
  | some x => s.trapXfer x
  | none =>
    if !s.vectorDrained then s.stallFor .vside
    else if s.me.matrixDrained && s.storesDrained scope && s.me.xfers.all (s.releases s.who.gang scope) then k s
    else s.stallFor .busy

/-- The wait of FENCE.SV (R119), then go on. -/
def State.afterVector (s : State) (k : State → Out) : Out :=
  let s := s.setMe Thread.closeAll
  if s.vectorDrained then k s else s.stallFor .vside

/-- One access in the scalar slice (R167, R175), to the window if `first` says so: checks 1 to 4, the interlock (R129),
then the checks made as the bytes are read (R101), then the place. -/
def State.accessIn (s : State) (acc : Acc) (first : Bool) (va : Word) (n : Nat) (k : State → Place → Out) : Out :=
  match s.place s.who s.me.lvl acc first va n n with
  | .error e => s.trapMem e acc
  | .ok (p, s) =>
    match s.me.blocker va.toNat n (acc ≠ .read) with
    | some x => if x.tells then s.trapXfer x else s.stallFor .busy
    | none =>
      match s.barred s.who.gang acc p n with
      | some c => s.trapMem ⟨c, va⟩ acc
      | none => k s p

/-- One access in the scalar slice, by its address to the window or to global memory (R94). -/
def State.scalarAccess (s : State) (acc : Acc) (va : Word) (n : Nat) (k : State → Place → Out) : Out :=
  s.accessIn acc (inWindow va.toNat && !tooWide va) va n k

/-- A scalar load of n bytes (R175). -/
def State.scalarLoad (s : State) (va : Word) (n : Nat) (k : State → Nat → Out) : Out :=
  s.scalarAccess .read va n fun s p =>
    let s := s.setMe (·.closeSlice 0)
    match s.loadAt s.who 0 p n with
    | some v => k ((s.noteRead s.who p n).chargeAt s.who.gang p n) v
    | none => s.stallFor .busy

/-- A scalar store of the low n bytes of v (R175). -/
def State.scalarStore (s : State) (va : Word) (n v : Nat) (nt : Bool) (k : State → Out) : Out :=
  s.scalarAccess .write va n fun s p =>
    match s.storeAt s.who 0 va.toNat p n v nt s.me.epoch none with
    | some s => k (match p with
        | .mem _ => s
        | _ => s.chargeAt s.who.gang p n)
    | none => s.stallFor .busy

/-- A scalar atomic of n bytes: every earlier access of the slice first (R116, rule 6), a held store of it until that is
released, and held writes to its sector that the gang sees (R113; DEDUCED, log 103), then one indivisible
read-modify-write at the owner (R109, R110, R177). `f` gives the new value, or none to write nothing. -/
def State.scalarAtomic (s : State) (va : Word) (n : Nat) (f : Nat → Option Nat) (k : State → Place → Nat → Out) : Out :=
  s.scalarAccess .rmw va n fun s p =>
    let s := s.setMe (·.closeSlice 0)
    if s.me.wc.any (fun e => e.slice = 0) || s.heldOver s.who p n || s.stalled p then s.stallFor .busy
    else
      let m := s.peekAt s.who p n
      let s := s.chargeAt s.who.gang p n
      match f m with
      | some v => k (s.pokeAt s.who p n v) p m
      | none => k s p m

/-- Sign-extension of the low n bytes. -/
def sextBytes (n v : Nat) : Word := (BitVec.ofNat (8 * n) v).signExtend 64

/-- The load in flight of an agent takes its value now (R116) and has completed; none while it cannot. -/
def State.performFlight (s : State) (a : Agent) : Option State :=
  match ((s.thread? a).getD .empty).flight with
  | none => some s
  | some f =>
    (s.loadAt a 0 (.mem f.pa) f.n).map fun v =>
      ((s.noteRead a (.mem f.pa) f.n).chargeAt a.gang (.mem f.pa) f.n).modThread a fun t =>
        { t.setReg f.d (if f.signed then sextBytes f.n v else BitVec.ofNat 64 v) with flight := none }

/-- Whether a move has made an agent enter a handler, or halted an access-unit context (R383, R384). -/
def State.trapped (s u : State) (a : Agent) : Bool :=
  let t := (s.thread? a).getD .empty
  let v := (u.thread? a).getD .empty
  decide (t.lvl < v.lvl) || (v.faulted && !t.faulted)

/-- Go on once the load in flight of an agent has completed; a stall while it cannot (R166). -/
def State.landed (s : State) (a : Agent) (k : State → Out) : Out :=
  match s.performFlight a with
  | some s => k s
  | none => .next (s.modThread a fun t => { t with stall := .busy })

/-- What plain loads have been given ahead is given up. -/
def State.forgetTaken (s : State) (a : Agent) : State :=
  if ((s.thread? a).getD .empty).taken.isEmpty then s else s.modThread a fun t => { t with taken := [] }

/-- The first value taken ahead for n bytes at an address, and those taken after it. -/
def takenFor (pa n : Nat) : List Ahead → Option (Nat × List Ahead)
  | [] => none
  | x :: xs => if x.pa = pa && x.n = n then some (x.v, xs) else takenFor pa n xs

end Sys2Proof.Machine
end

