-- ==== Sys2Proof/Machine/Sower.lean ====
section
/-! DEFINITION. The Sower: direction numbers through the dimension cache, and one scrambled coordinate (R338 to R340). -/

namespace Sys2Proof.Machine

/-- reverse32 (R339). -/
def reverse32 (x : BitVec 32) : BitVec 32 := x.reverse

/-- sobol (R339): the direction numbers of the set bits of n, taken together. -/
def sobol (v : List (BitVec 32)) (n : BitVec 32) : BitVec 32 :=
  (List.range 32).foldl (fun x b => if n.getLsbD b then x ^^^ (v[b]?).getD 0 else x) 0

/-- scramble32 (R339). -/
def scramble32 (x s : BitVec 32) : BitVec 32 :=
  let y := reverse32 x
  let y := y + s
  let y := y ^^^ (2 * y * y)
  let y := y ^^^ (y * 2048)
  let y := y + s
  let y := y ^^^ (2 * y * y)
  reverse32 y

/-- The coordinate of a point from a dimension's 32 direction numbers and its seed (R339). -/
def sowerPoint (v : List (BitVec 32)) (n : Nat) : BitVec 32 :=
  scramble32 (sobol v (BitVec.ofNat 32 n)) ((v[32]?).getD 0)

/-- The tag of a dimension-cache entry: partition and table address (R338). -/
def dimKey (part : Nat) (taddr : Word) : Nat := part * 2 ^ 52 + taddr.toNat

/-- Why a dimension-cache miss does not give its words yet: a cause, a transfer to wait for (R129), or a wait. -/
inductive Miss where
  | cause (e : MemErr)
  | behind (x : Xfer)
  | wait
  deriving DecidableEq, Repr

/-- Read words of four bytes for a hart, each translated, as loads of its scalar slice (R116, R129, R338). -/
def State.readWords (s : State) (a : Agent) (lvl va : Nat) : Nat → Except Miss (List (BitVec 32) × State)
  | 0 => .ok ([], s)
  | n + 1 =>
    match ((s.thread? a).getD .empty).blocker va 4 false with
    | some x => .error (.behind x)
    | none =>
      match s.locate a lvl .read false (BitVec.ofNat 64 va) 4 4 with
      | .error e => .error (.cause e)
      | .ok (p, s) =>
        match (s.modThread a (·.closeSlice 0)).loadAt a 0 p 4 with
        | none => .error .wait
        | some v =>
          match (((s.modThread a (·.closeSlice 0)).noteRead a p 4).chargeRun a.gang p 4 va (n ≠ 0)).readWords a lvl
              (va + 4) n with
          | .error e => .error e
          | .ok (vs, s) => .ok (BitVec.ofNat 32 v :: vs, s)

/-- A dimension's numbers and seed through the core's dimension cache, the least recently used going first (R338,
R343). It holds direction numbers of every region, the second tier and host memory too (DESIGN CHOICE, log 115). -/
def State.dimension (s : State) (a : Agent) (lvl dims : Nat) (taddr : Word) (d : Nat) :
    Except Miss (List (BitVec 32) × State) :=
  let core := (s.gangOf a.gang).core
  let key := dimKey (s.partOfCore core) taddr
  match (s.core core).dimCache.find? fun e => e.1 = key && e.2.1 = d with
  | some e =>
    .ok (e.2.2, s.modCore core fun c => { c with
      dimCache := c.dimCache.filter (fun x => !(x.1 = key && x.2.1 = d)) ++ [e] })
  | none =>
    match s.readWords a lvl (taddr.toNat + 8 + 128 * d) 32 with
    | .error e => .error e
    | .ok (v, s) =>
      match s.readWords a lvl (taddr.toNat + 8 + 128 * dims + 4 * d) 1 with
      | .error e => .error e
      | .ok (w, s) =>
        let v := v ++ w
        .ok (v, s.modCore core fun c => { c with
          dimCache := (if c.dimCache.length < 256 then c.dimCache else c.dimCache.drop 1) ++ [(key, d, v)] })

/-- A core forgets what it has cached of a direction table, so that later uses take its words as they then stand (R338,
R342). -/
def CoreSt.forget (c : CoreSt) (key : Nat) : CoreSt := { c with dimCache := c.dimCache.filter fun e => e.1 ≠ key }

/-- sower_n32 for an agent's Sower context (R339). -/
def State.sowerN32 (s : State) (a : Agent) (d n : Nat) : Except Miss (BitVec 32 × State) :=
  let t := (s.thread? a).getD .empty
  match s.dimension a t.lvl t.sowDims t.sowAddr d with
  | .error e => .error e
  | .ok (v, s) => .ok (sowerPoint v n, s)

/-- A scalar instruction whose dimension-cache miss has not given its words. -/
def State.missOut (s : State) (m : Miss) : Out :=
  match m with
  | .cause e => s.trapMem e .read
  | .behind x => if x.tells then s.trapXfer x else s.stallFor .busy
  | .wait => (s.setMe (·.closeSlice 0)).stallFor .busy

/-- frm.SRDIM (R75). -/
def frmSrdim (f : Word) : Nat := f.toNat / 2 ^ 16 % 2 ^ 12

/-- frm.SRIDX (R75). -/
def frmSridx (f : Word) : Nat := f.toNat / 2 ^ 32

/-- frm with SRIDX advanced by n (R77). -/
def frmAdvance (f : Word) (n : Nat) : Word :=
  BitVec.ofNat 64 (f.toNat % 2 ^ 32 + (frmSridx f + n) % 2 ^ 32 * 2 ^ 32)

/-- The bits of frm that a write keeps; RM keeps its value on a write of 5 to 7 (R75). -/
def frmWrite (old new : Word) : Word :=
  let rm := if new.toNat % 8 ≤ 4 then new.toNat % 8 else old.toNat % 8
  (new &&& 0xFFFFFFFF0FFF1F08#64) ||| BitVec.ofNat 64 rm

end Sys2Proof.Machine
end

