-- ==== Sys2Proof/Machine/Operands.lean ====
section
/-! DEFINITION. Every operand form of the vector, matrix and access queues, resolved at push: registers, queues,
scalars under a tag, accumulator rows, masks, scales, lengths, and the push itself (R51, R58, R59, R77, R81, R145,
R146, R150, R195 to R198, R249). -/

namespace Sys2Proof.Machine

/-- Why a push does not happen: a trap, a failing access, or a stall. -/
inductive Stop where
  | trap (code : Nat)
  | mem (e : MemErr)
  | wait (w : Stall)
  deriving DecidableEq, Repr

/-- What a push answers: the state after it, or why it does not happen. -/
abbrev Push (α : Type) := Except Stop α

/-- The outcome of an instruction whose push has been tried (R144: a rejected push has no effect). -/
def State.pushOut (s : State) (r : Push State) : Out :=
  match r with
  | .ok s' => .next s'
  | .error (.trap c) => s.trap c
  | .error (.mem e) => s.trapMem e .read
  | .error (.wait w) => s.stallFor w

/-- ILLOP at push. -/
def illopP {α : Type} : Push α := .error (.trap cILLOP)

/-- A condition that must hold at push. -/
def need (b : Bool) : Push Unit := if b then .ok () else illopP

/-- A resolved vector operand: what it is, its tag, and for an entry its element count. -/
structure Operand where
  src : Src
  tag : Tag
  count : Nat
  pop : Option Nat
  deriving DecidableEq, Repr

/-- The zero of a tag (R69, R227). -/
def zeroOf (t : Tag) : BitVec 64 := if t = .l6 then 0x10#64 else 0

/-- Data of n elements all zero at a tag (R46, R195). -/
def zeroData (t : Tag) (n : Nat) : Sparse 64 :=
  if t = .l6 then (List.range n).map fun i => (i, 0x10#64) else []

/-- A vector register of a thread. -/
def Thread.vreg (t : Thread) (n : Nat) : VReg := (t.vregs[n]?).getD ⟨.n8, .n8, [], false, 0⟩

/-- Change a vector register of a thread. -/
def Thread.modVreg (t : Thread) (n : Nat) (f : VReg → VReg) : Thread := { t with vregs := modifyAt t.vregs n f }

/-- An entry of the gang's pool. -/
def Gang.entry? (g : Gang) (id : Nat) : Option Entry := g.ents.find? fun e => e.id = id

/-- Change an entry of the pool. -/
def Gang.modEntry (g : Gang) (id : Nat) (f : Entry → Entry) : Gang :=
  { g with ents := g.ents.map fun e => if e.id = id then f e else e }

/-- The oldest entry of a queue that no instruction has claimed (R51). -/
def Gang.unclaimed (g : Gang) (q : List Nat) : Option Entry :=
  q.findSome? fun id =>
    match g.entry? id with
    | some e => if e.claimed then none else some e
    | none => none

/-- A branch queue of the gang. -/
def Gang.branch (g : Gang) (k : Nat) : List Word := (g.bq[k]?).getD []

/-- A load queue, or store queue 0 to 3 as 8 to 11. -/
def Gang.queue (g : Gang) (k : Nat) : List Nat := if k < 8 then (g.lq[k]?).getD [] else (g.sq[k - 8]?).getD []

/-- A source that pops queue `k` (R51, R59): a stall until the entry it will pop exists. -/
def State.popSource (s : State) (k : Nat) : Push (Operand × State) :=
  match s.myGang.unclaimed (s.myGang.queue k) with
  | none => .error (.wait (.entry k))
  | some e =>
    .ok (⟨.entry e.id, e.tag, e.count, some e.id⟩,
      s.modGang s.who.gang fun g => g.modEntry e.id fun e => { e with claimed := true })

/-- Whether the context may name a vector register: on a hart always, in an access-unit context only while the gang
holds an access-mode group (R252). -/
def State.hasVregs (s : State) : Bool := s.onHart || !(s.accessLanes s.who.gang).isEmpty

/-- A field names a queue. -/
def isQueue (f : BitVec 6) : Bool := decide (56 ≤ f.toNat)

/-- The vector fields that a form names: its sources, its destination, whether a queue may be the destination, and
whether v0 is read as a mask. -/
structure Fields where
  srcs : List (BitVec 6)
  dst : Option (BitVec 6)
  mayQueue : Bool
  mask : Bool
  deriving DecidableEq, Repr

/-- A form names a register, or reads v0 as a mask. -/
def Fields.namesReg (f : Fields) : Bool := f.mask || (f.srcs ++ f.dst.toList).any fun x => !isQueue x

/-- A source field that a context may not name (R58, R154). -/
def State.badSource (s : State) (x : BitVec 6) : Bool :=
  (decide (s.myGang.nv ≤ x.toNat) && !isQueue x) || (!s.onHart && decide (60 ≤ x.toNat))

/-- A destination field that a form may not name (R58, R154, R197). -/
def State.badDest (s : State) (x : BitVec 6) (mayQueue : Bool) : Bool :=
  (decide (s.myGang.nv ≤ x.toNat) && !isQueue x) || (isQueue x && !mayQueue) || (s.onHart && decide (60 ≤ x.toNat))

/-- A source queue that qen disables (R59). -/
def State.sourceOff (s : State) (x : BitVec 6) : Bool :=
  isQueue x && !s.myGang.qen.getLsbD (x.toNat - 56 + if s.onHart then 0 else 8)

/-- A load queue is bound to a mesh stream: one in flight, or one that has been pushed (R261). -/
def Gang.boundTo (g : Gang) (q : Nat) : Bool :=
  g.bound.contains q || (g.access :: g.harts).any fun t => t.vq.any fun r =>
    !r.done && match r.op, r.dst with
      | .stream, .lq k _ => k = q
      | _, _ => false

/-- A destination queue that qen disables, or a load queue that a mesh stream is bound to (R59, R261). -/
def State.destOff (s : State) (x : BitVec 6) : Bool :=
  isQueue x && (!s.myGang.qen.getLsbD (x.toNat - 56 + if s.onHart then 8 else 0) ||
    (!s.onHart && s.myGang.boundTo (x.toNat - 56)))

/-- The checks on the fields of a form that need no tag, made before any other and whatever vl is: its specifiers
(R58, R143, R154, R197), the lane groups of an access-unit context (R252), then the queues it names (R59, R261). Where a
disabled queue and a tag that the form refuses meet, the queue decides (log 87). -/
def State.named (s : State) (f : Fields) : Push Unit := do
  need (!f.srcs.any s.badSource && !f.dst.any (s.badDest · f.mayQueue) && (s.hasVregs || !f.namesReg))
  if f.srcs.any s.sourceOff || f.dst.any s.destOff then .error (.trap cQERR) else return ()

/-- A vector source field whose form has passed `State.named`. `u` is none where a queue is popped, and otherwise a tag
that stands for that of an entry which is not popped (R196). -/
def State.vsource (s : State) (u : Option Tag) (f : BitVec 6) : Push (Operand × State) :=
  let n := f.toNat
  if !isQueue f then .ok (⟨.reg n, (s.me.vreg n).tag, 2 ^ 32, none⟩, s)
  else
    match u with
    | some t => .ok (⟨.none, t, 0, none⟩, s)
    | none => s.popSource (if s.onHart then n - 56 else n - 48)

/-- The value of a g register read under a tag (R150). -/
def scalarUnder (t : Tag) (frm v : Word) : BitVec 64 :=
  match t with
  | .f64 => v
  | .f32 => v &&& 0xFFFFFFFF#64
  | .f16 | .bf16 | .f8a | .f8b | .f4 | .l6 => (roundTo t 0 (frmNosat frm) none (decode .f32 v)).1
  | _ => ofInt t (intOf t v)

/-- An accumulator-row selector (R150, R209): row and tile; ILLOP with a high bit set or a tile not declared. -/
def State.rowSource (s : State) (v : Word) : Push (Nat × Nat × Tag) :=
  let m := v.toNat % 16
  let t := v.toNat / 16 % 16
  if 256 ≤ v.toNat then illopP
  else
    match s.myGang.tiles[t]? with
    | some tile => .ok (t, m, tile.tag)
    | none => illopP

/-- Where a vector result goes (R58, R154): a register, a store queue, or in an access-unit context a load queue. -/
def State.vdest (s : State) (f : Fields) : Dst :=
  match f.dst with
  | none => .none
  | some d =>
    if !isQueue d then .reg d.toNat else if s.onHart then .sq (d.toNat - 56) else .lq (d.toNat - 56) none

/-- The tag a destination register holds before the push. -/
def State.destTag (s : State) : Dst → Tag
  | .reg n => (s.me.vreg n).tag
  | _ => Tag.default s.myGang.w

/-- The element count of a form: vl on a hart; in an access-unit context AVL, or min(AVL, E) into a load queue, or the
count of the store-queue entry that is its data; VMPOPC and VMFIRST of a store queue take AVL (DEDUCED, log 100). A form
of that context which names a register, or reads v0, is refused above VLMAX_a (R249). -/
def State.length (s : State) (f : Fields) (data : Option Nat) : Push Nat :=
  if s.onHart then .ok s.me.vl
  else do
    let n ← match data with
      | some c => Except.ok c
      | none =>
        if f.dst.any isQueue then
          if s.myGang.ecap = 0 then .error (.wait .busy) else .ok (min s.me.avl s.myGang.ecap)
        else .ok s.me.avl
    need (!f.namesReg || decide (n ≤ s.vlmax s.who))
    return n

/-- Fields A, B and F of a word (R140). -/
def wordA (w : Word32) : BitVec 6 := w.extractLsb' 14 6
/-- Field B. -/
def wordB (w : Word32) : BitVec 6 := w.extractLsb' 8 6
/-- Field F. -/
def wordF (w : Word32) : BitVec 8 := w.extractLsb' 0 8

/-- Whether the A specifier of a word bound for a queue names a scalar register, read at push (R147, R150 to R155). -/
def scalarA (hart : Bool) (w : Word32) : Bool :=
  let f := (wordF w).toNat % 32
  match (w.extractLsb' 26 6).toNat with
  | 0x29 => f = 7
  | 0x2C => f = 0
  | 0x2D | 0x2E | 0x31 | 0x32 | 0x34 | 0x35 | 0x3A => true
  | 0x30 | 0x33 => hart || (wordF w).getLsbD 7 || !(wordF w).getLsbD 6
  | 0x2F => f = 6
  | 0x36 => f = 0
  | 0x37 => f = 7
  | 0x39 => decide (f % 4 < 2)
  | 0x3C => f = 2
  | _ => false

/-- The same of its B specifier. -/
def scalarB (hart : Bool) (w : Word32) : Bool :=
  let f := (wordF w).toNat % 32
  match (w.extractLsb' 26 6).toNat with
  | 0x22 | 0x23 | 0x25 => true
  | 0x26 => (wordF w).getLsbD 4
  | 0x29 => f = 0 || f = 1 || f = 8 || f = 9
  | 0x2A => decide (f < 8)
  | 0x2F => f = 5 || f = 6
  | 0x30 | 0x33 => !hart && (wordF w).getLsbD 7
  | 0x31 | 0x34 => hart
  | 0x32 => !hart
  | 0x36 => f = 0
  | 0x39 => decide (f % 4 < 2)
  | 0x3C => f = 2
  | 0x3D => decide (f < 4)
  | _ => false

/-- A far gather, whose second scalar operand is the descriptor in the register after A (R259). -/
def describesFar (hart : Bool) (w : Word32) : Bool :=
  let op := (w.extractLsb' 26 6).toNat
  (hart && decide (op = 0x37) && decide ((wordF w).toNat % 32 = 7)) || (!hart && decide (op = 0x35))

/-- A record with what every push reads (R55, R77). -/
def State.blank (s : State) (op : VOp) (vl : Nat) : VRec :=
  let t := s.me
  { op := op, seq := t.vqtail, ord := t.ordNext, pc := t.pc, word := s.word, vl := vl,
    lanes := if s.lanes s.who = 0 then 32 else s.lanes s.who, mrows := t.mrows, blk := t.blk,
    frm := t.frm, masked := false, scaled := false, short := false, dst := .none, srcA := .none, srcB := .none,
    tagA := .n8, tagB := .n8, tagD := .n8, opTag := .n8, outTag := .n8, rezero := false, opa := 0, opb := 0,
    gA := if scalarA s.onHart s.word then s.x (wordA s.word) else 0
    gB := if scalarB s.onHart s.word then s.x (wordB s.word)
      else if describesFar s.onHart s.word then s.x (wordA s.word + 1) else 0
    shape := t.mshape, pi := 0, flags := 0, out := [], pops := [], done := false, supp := false, wrote := false,
    stuck := false,
    cut := none, epoch := t.epoch, early := [], dead := false }

/-- Room and leave to push (R55, R273, R384): a frozen queue raises ILLOP, a full one stalls. -/
def State.canPush (s : State) (matrix : Bool) : Push Unit :=
  let t := s.me
  if t.frz then illopP
  else if matrix then if 16 ≤ t.mq.length then .error (.wait .mside) else .ok ()
  else if (if s.onHart then 64 else 16) ≤ t.vq.length then .error (.wait .vfull)
  else .ok ()

/-- A record waits for its completion before its hart goes on: it writes a scalar register, or it is a first-fault load
(R198, R229). -/
def VRec.waits (r : VRec) : Bool :=
  match r.dst with
  | .scalar _ => true
  | _ => match r.op with
    | .load _ _ true => true
    | _ => false

/-- The vector registers after a push: the destination register carries the tag that will be written, unless nothing
will be (R51, R196). -/
def VRec.noteTag (r : VRec) (l : List VReg) : List VReg :=
  match r.dst with
  | .reg n => if r.vl = 0 ∧ r.op.always = false then l else modifyAt l n fun v => { v with tag := r.outTag }
  | _ => l

/-- Push a record on the vector or access queue, record the tag it will write (R51), and retire; on a hart an instruction
that writes a scalar register, and a first-fault load, waits instead (R198, R229). An access-unit context goes on: a later
form waits only if it reads that register (R250). A new entry of a load queue is made when the form begins (R254). -/
def State.pushVec (s : State) (r : VRec) : Push State := do
  s.canPush false
  return s.setMe fun t =>
    let t := { t with
      vq := t.vq ++ [r], vqtail := t.vqtail + 1, ordNext := t.ordNext + 1, vregs := r.noteTag t.vregs }
    if s.onHart && r.waits then { t with wait := .gd r.seq, stall := .none } else t.retire

/-- The slot width fits the declared width (R51, R82). -/
def State.fits (s : State) (t : Tag) : Bool := decide (t.width ≤ s.myGang.w)

/-- The scale rules at push (R73): v1 carries N8 and an operand is of a scaled tag. -/
def State.scaleOk (s : State) (scaled : Bool) (tags : List Tag) : Bool :=
  !scaled || (decide ((s.me.vreg 1).tag = .n8) && tags.any (·.scaled))

/-- The narrow partner of an operating tag (R146). -/
def narrowOf : Tag → Option Tag
  | .f64 => some .f32 | .f32 => some .f16 | .f16 => some .f8a | .bf16 => some .f8b | .f8a => some .f4 | .f8b => some .f4
  | .i64 => some .i32 | .i32 => some .i16 | .i16 => some .i8 | .i8 => some .i4 | .n64 => some .n32 | .n32 => some .n16
  | .n16 => some .n8 | .n8 => some .n4 | _ => none

/-- Reserve Sower indices for an instruction that rounds under RM = 4 (R77). -/
def State.reserveSower (s : State) (rounds : Bool) (vl : Nat) : Push State :=
  if rounds && frmRm s.me.frm = 4 then
    if s.me.sowDims ≤ frmSrdim s.me.frm then illopP
    else .ok (s.setMe fun t => { t with frm := frmAdvance t.frm vl })
  else .ok s

/-- Which functions of VOP an operating tag defines (R150, R205, R206). -/
def AluFn.defined (f : AluFn) (t : Tag) : Bool :=
  if t = .l6 then
    match f with
    | .mul | .abs | .neg | .mv => true
    | _ => false
  else if t.floating then
    match f with
    | .sadd | .ssub | .mulh | .rem | .and | .or | .xor | .sll | .shr => false
    | _ => true
  else
    match f with
    | .sqrt | .sgnj | .sgnjn | .sgnjx | .cls => false
    | .abs | .neg => t.signed
    | _ => true

/-- A push that is refused with ILLOP. -/
def illegalPush {α : Type} (p : Push α) : Bool :=
  match p with
  | .error (.trap c) => c = cILLOP
  | _ => false

/-- The form has length 0 and a queue among its sources, so that it pops nothing (R196). -/
def State.popsNothing (s : State) (f : Fields) : Bool :=
  (if s.onHart then s.me.vl = 0 else s.me.avl = 0) && f.srcs.any isQueue

/-- Push a form whose fields are named by `f`. Where it pops nothing, no entry gives its queue sources a tag: it is
refused if no tag whatever lets it pass, and otherwise the record `e` is pushed, of length 0 (R51, R196; log 88). -/
def State.form (s : State) (f : Fields) (e : VRec) (k : Option Tag → Push State) : Push State := do
  s.named f
  if s.popsNothing f then
    match ((List.range 18).filterMap Tag.ofCode).find? fun t => !illegalPush (k (some t)) with
    | none => illopP
    | some t => do
      let _ ← k (some t)
      s.pushVec e
  else k none

/-- Two vector sources in field order (R197). -/
def State.vsources (s : State) (u : Option Tag) (a b : BitVec 6) : Push (Operand × Operand × State) := do
  let (x, s) ← s.vsource u a
  let (y, s) ← s.vsource u b
  return (x, y, s)

/-- Entries that operands will pop. -/
def popsOf (l : List Operand) : List Nat := l.filterMap (·.pop)

/-- Whether the tag written has another slot width than the destination register had (R195). -/
def rezeroOf (d : Dst) (old new : Tag) : Bool :=
  match d with
  | .reg _ => decide (old.width ≠ new.width)
  | _ => false

/-- What the record of a form holds of its fields: mask, destination and the tags before and after (R51, R195). -/
def State.record (s : State) (op : VOp) (f : Fields) (n : Nat) (out : Tag) : VRec :=
  let dst := s.vdest f
  let old := s.destTag dst
  { s.blank op n with
    masked := f.mask, dst := dst, tagD := old, opTag := out, outTag := out, rezero := rezeroOf dst old out }

/-- A record with one vector source. -/
def VRec.reading (r : VRec) (x : Operand) : VRec := { r with srcA := x.src, tagA := x.tag, pops := popsOf [x] }

/-- A record with two vector sources. -/
def VRec.reading2 (r : VRec) (x y : Operand) : VRec :=
  { r with srcA := x.src, srcB := y.src, tagA := x.tag, tagB := y.tag, pops := popsOf [x, y] }

end Sys2Proof.Machine
end

