-- ==== Sys2Proof/Machine/Grant.lean ====
section
/-! DEFINITION. Collective settlements: the lane grant of VSETVL and its panel form with the changes of lgmode and qen
that take effect there, the panel procedure, and TASKGET (R24, R25, R42 to R46, R64, R65, R187, R201 to R203). -/

namespace Sys2Proof.Machine

/-- Numbers of the harts of a gang that have not ended. -/
def Gang.alive (g : Gang) : List Nat :=
  (List.range g.harts.length).filter fun h =>
    match g.harts[h]? with
    | some t => !t.ended
    | none => false

/-- A hart of a gang; empty where none exists. -/
def Gang.hart (g : Gang) (h : Nat) : Thread := (g.harts[h]?).getD .empty

/-- Raise a cause at a hart that waits in a collective; a cause already pending is taken first (R382). -/
def State.raiseAt (s : State) (gi h : Nat) (code : Nat) (addr : Word) (acc : Nat) : State :=
  let t := (s.gangOf gi).hart h
  let word := match t.wait with
    | .settle _ _ _ _ w => w
    | _ => 0
  let c : Cause :=
    { code := code, sub := 0, src := 0, elem := 0, qdist := 0, group := 0, seq := 0, addr := addr, pc := t.pc, info := 0,
      word := word, acc := acc, ord := t.ordNext }
  match firstCause (s.pendingCauses gi h) with
  | some _ => s.takePending gi h
  | none => s.enterTrap gi h c

/-- Resident gangs of a core, with their places, in ascending gang slot. -/
def State.residents (s : State) (core : Nat) : List (Nat × Gang) :=
  sortBy (fun x => x.2.slot)
    ((s.gangs.mapIdx fun i g => (i, g)).filter fun x => decide (x.2.st = .resident) && decide (x.2.core = core))

/-- The fair share of a gang on its core with X groups to share (R44, steps 1 and 2). -/
def State.fairShare (s : State) (gi x : Nat) : Nat :=
  let rs := s.residents (s.gangOf gi).core
  let h := (rs.map fun r => r.2.alive.length).sum
  if h = 0 then 0
  else
    let f := x / h
    let step (acc : Nat × Nat) (r : Nat × Gang) : Nat × Nat :=
      let n := r.2.alive.length
      if n ≤ acc.1 then (acc.1 - n, if r.1 = gi then f + 1 else acc.2) else acc
    (rs.foldl step (x - f * h, f)).2

/-- Whether a hart of a gang holds lane group k of its core (R43). -/
def State.holdsLane (s : State) (gi k : Nat) : Bool :=
  match (((s.core (s.gangOf gi).core).lanes[k]?).getD none) with
  | some (x, _, _) => x = gi
  | none => false

/-- The changes of lgmode that a settlement of a gang makes at once (R65): groups that nobody holds, and those its own
access-unit context holds with no form in flight. -/
def State.settleLgmode (s : State) (gi : Nat) : State :=
  let g := s.gangOf gi
  let c := s.core g.core
  s.changeModes g.core fun k =>
    if c.accNow.getLsbD k then
      if c.ownNow.toNat / 4 ^ k % 4 = g.slot then g.access.vq.isEmpty else !s.laneHeld g.core k
    else ((c.lanes[k]?).getD none).isNone && !(c.claims.any fun x => x.1 = k && decide (x.2 ≠ gi))

/-- The changes that a settlement makes of groups its gang's own harts hold: they are given up with the grant's effect
(R43, R65). -/
def State.ownChanges (s : State) (gi : Nat) : List ModeChange :=
  (s.core (s.gangOf gi).core).modeChanges (s.holdsLane gi)

/-- Those changes, as its settlement left them, take effect; one that was written later waits for the next (R43, R65). -/
def State.giveUpModes (s : State) (gi : Nat) : State :=
  let core := (s.gangOf gi).core
  s.setModes core (((s.core core).giving.filter fun x => x.1 = gi).map (·.2))

/-- Lane groups in execute mode that no hart holds and no other gang has claimed, once a gang's own are released. -/
def State.freeGroups (s : State) (core gi : Nat) : List Nat :=
  let c := s.core core
  (List.range 8).filter fun k =>
    !c.accNow.getLsbD k && !(c.claims.any fun x => x.1 = k && decide (x.2 ≠ gi)) &&
    match (c.lanes[k]?).getD none with
    | some (x, _, _) => x = gi
    | none => true

/-- The grant of R44, steps 3 and 4: for each hart that has not ended, its groups, each with whether it is on loan. -/
def dealGroups (g fair : Nat) : List Nat → List Nat → List (Nat × List (Nat × Bool))
  | [], _ => []
  | h :: hs, free => (h, (free.take g).mapIdx fun i k => (k, decide (fair ≤ i))) :: dealGroups g fair hs (free.drop g)

/-- The groups that a settlement has given a hart and that have not taken effect, also while it has a trap to handle or is
halted by a debugger (R43, R390). -/
def Thread.settled (t : Thread) : Option (List (Nat × Bool)) :=
  [t.wait, t.kept, t.halted].findSome? fun w => match w with
    | .granted _ _ _ _ _ groups => some groups
    | _ => none

/-- Whether a hart holds a lane group on loan, by the lane table or by a settlement still to take effect (R43, R44). -/
def State.onLoan (s : State) (gi h : Nat) : Bool :=
  match ((s.gangOf gi).hart h).settled with
  | some groups => groups.any (·.2)
  | none => decide (s.lentOf gi h ≠ 0)

/-- Settle the request of a gang all of whose harts have executed VSETVL or the panel form (R44, R201): X and the free
groups are those after its changes of lgmode, the lane table stays as it is until the grant takes effect (R43), and a later
write to qen waits for the next settlement (R185). -/
def State.settleGrant (s : State) (gi kind : Nat) : State :=
  let s := s.settleLgmode gi
  let give := s.ownChanges gi
  let after := s.setModes (s.gangOf gi).core give
  let g := s.gangOf gi
  let alive := g.alive
  let h := alive.length
  let x := ((List.range 8).filter fun k => !(after.core g.core).accNow.getLsbD k).length
  let fair := s.fairShare gi x
  let gr := (alive.map fun n => match (g.hart n).wait with
    | .settle _ _ _ gb _ => gb.toNat % 16
    | _ => 8).foldl min 8
  let free := after.freeGroups g.core gi
  let n := min gr (free.length / h)
  let deal := dealGroups n fair alive free
  let noteLoans (i : Nat) (o : Gang) : Gang :=
    if i = gi then { o with harts := o.harts.map fun t => { t with rcl := false } }
    else if n < min gr fair && o.core = g.core && decide (o.st = .resident) then
      { o with harts := o.harts.mapIdx fun j t => if s.onLoan i j then { t with rcl := true } else t }
    else o
  let s := { s with gangs := s.gangs.mapIdx noteLoans }.modGang gi fun g => { g with qenNext := g.qenW }
  let s := deal.foldl (fun s d => s.modThread ⟨gi, .hart d.1⟩ fun t =>
    match t.wait with
    | .settle _ r ga gb _ => { t with wait := .granted kind r ga gb fair d.2 }
    | _ => t) s
  s.modCore g.core fun c => { c with
    claims := c.claims ++ (deal.flatMap fun d => d.2.map fun k => (k.1, gi))
    giving := c.giving ++ give.map fun x => (gi, x) }

/-- One strip of the panel procedure (R25): the cursor after it, and vl, rows, row0, col0 and the bases. -/
def Panel.deal (p : Panel) (q w vlmax : Nat) : Panel × Option (Nat × Nat × Nat × Nat × List Word) :=
  let p := if p.col0 = p.ncols || p.band = 0 then
      let row0 := p.row0 + p.band
      { p with row0 := row0, col0 := 0, band := min q (p.nrows - row0) }
    else p
  if p.nrows = 0 || p.ncols = 0 || p.nrows ≤ p.row0 then (p, none)
  else
    let n := min vlmax (p.ncols - p.col0)
    if n = 0 then (p, none) else
    let base (k : Nat) : Word :=
      if k < p.nbase then
        (p.bases[k]?).getD 0 + BitVec.ofInt 64 (p.row0 * (p.lds[k]?).getD 0) + BitVec.ofNat 64 (p.col0 * w)
      else 0
    ({ p with col0 := p.col0 + n }, some (n, p.band, p.row0, p.col0, [base 0, base 1, base 2]))

/-- gd of VSETVL (R201). -/
def vsetvlWord (vl : Nat) (chg : Bool) : Word := BitVec.ofNat 64 (vl + if chg then 2 ^ 63 else 0)

/-- A hart's registers after its lane groups have changed (R46). -/
def Thread.resetVregs (t : Thread) (nv vlmax : Nat) (base : Tag) : Thread :=
  { t with vregs := (List.range nv).map fun n =>
      let d := match t.vregs[n]? with
        | some r => r.decl
        | none => base
      ⟨d, d, zeroData d vlmax, false, 0⟩ }

/-- Whether a hart's set of groups differs from the one a grant gives it. -/
def State.setChanges (s : State) (gi h : Nat) (groups : List (Nat × Bool)) : Bool :=
  decide (s.lanesOf gi h ≠ groups.map (·.1))

/-- Record the groups of a hart in the lane table (R43). -/
def State.giveGroups (s : State) (core gi h : Nat) (groups : List (Nat × Bool)) : State :=
  let deal (k : Nat) (l : Option (Nat × Nat × Bool)) : Option (Nat × Nat × Bool) :=
    match groups.find? fun x => x.1 = k with
    | some x => some (gi, h, x.2)
    | none => l
  s.modCore core fun c => { c with lanes := c.lanes.mapIdx deal }

/-- The grant takes effect (R46, R64, R65, R201, R202): lgmode's changes of the gang's own groups, the lane table,
registers, qen as the settlement found it, lengths, strips and results. A queue that qen disables holds nothing more; what
an instruction has claimed of it goes on to that instruction. Of VSETVL.P gd is written last, where it is one of g56 to g61
(DESIGN CHOICE, log 120). -/
def State.applyGrant (s : State) (gi : Nat) : State :=
  let g := s.gangOf gi
  let alive := g.alive
  let grants := alive.filterMap fun h => match (g.hart h).wait with
    | .granted kind d ga gb fair groups => some (h, kind, d, ga, gb, fair, groups, s.setChanges gi h groups)
    | _ => none
  let s := ((s.giveUpModes gi).freeLanes g.core fun x _ => x = gi).dropClaims g.core gi
  let s := grants.foldl (fun s x => s.giveGroups g.core gi x.1 x.2.2.2.2.2.2.1) s
  let s := s.modGang gi fun g =>
    let on (base : Nat) (qs : List (List Nat)) : List (List Nat) :=
      qs.mapIdx fun k q => if g.qenNext.getLsbD (base + k) then q else []
    let lq := on 0 g.lq
    let sq := on 8 g.sq
    { g with
      qen := g.qenNext, lq := lq, sq := sq
      ents := g.ents.filter fun e => e.claimed || !(g.lq ++ g.sq).flatten.contains e.id ||
        (lq ++ sq).flatten.contains e.id }
  let step (acc : State × Option Panel) (x : Nat × Nat × Nat × Word × Word × Nat × List (Nat × Bool) × Bool) :
      State × Option Panel :=
    let (s, panel) := acc
    let (h, kind, d, ga, gb, fair, _, chg) := x
    let g := s.gangOf gi
    let lanes := s.lanes ⟨gi, .hart h⟩
    let limit := g.lengthLimit lanes
    let base (t : Thread) : Thread :=
      let t := if chg then t.resetVregs g.nv (s.vlmax ⟨gi, .hart h⟩) (Tag.default g.w) else t
      { t with chg := chg, fair := fair, blk := gb.toNat / 2 ^ 8 % 8 }
    if kind = 0 then
      let vl := min ga.toNat limit
      (s.modThread ⟨gi, .hart h⟩ fun t =>
        ({ base t with vl := vl, mrows := gb.toNat / 16 % 16 }.setReg d (vsetvlWord vl chg)).wake, panel)
    else
      let dealt := match panel with
        | some p => let (p', o) := p.deal (ga.toNat % 32) g.w limit
          (some p', o.map fun x => (x, p.user))
        | none => (none, none)
      match dealt with
      | (p', some ((vl, rows, row0, col0, bases), user)) =>
        (s.modThread ⟨gi, .hart h⟩ fun t =>
          let t := { base t with vl := vl, mrows := if rows = 0 then t.mrows else rows - 1 }
          let t := t.setReg 56 (BitVec.ofNat 64 row0)
          let t := t.setReg 57 (BitVec.ofNat 64 col0)
          let t := t.setReg 58 ((bases[0]?).getD 0)
          let t := t.setReg 59 ((bases[1]?).getD 0)
          let t := t.setReg 60 ((bases[2]?).getD 0)
          let t := t.setReg 61 user
          (t.setReg d (vsetvlWord vl chg)).wake, p')
      | (p', none) =>
        (s.modThread ⟨gi, .hart h⟩ fun t =>
          let t := { base t with vl := 0 }
          let t := (((((t.setReg 56 0).setReg 57 0).setReg 58 0).setReg 59 0).setReg 60 0).setReg 61 0
          (t.setReg d (vsetvlWord 0 chg)).wake, p')
  let (s, panel) := grants.foldl step (s, g.panel)
  s.modGang gi fun g =>
    { g with
      panel := panel
      ecap := (g.alive.map fun h => g.lengthLimit (s.lanes ⟨gi, .hart h⟩)).foldl max 0 }

/-- Whether a settled grant may take effect: no set changes, or the queues of every changed hart are empty (R201). -/
def State.grantReady (s : State) (gi : Nat) : Bool :=
  let g := s.gangOf gi
  !g.alive.isEmpty && g.alive.all fun h =>
    match (g.hart h).wait with
    | .granted _ _ _ _ _ groups => !s.setChanges gi h groups || ((g.hart h).vq.isEmpty && (g.hart h).mq.isEmpty)
    | _ => false

/-- A panel record from its eight dwords (R22), as the cursor holds it (R24). -/
def Panel.ofRecord (w : List Word) : Panel :=
  let d (k : Nat) : Nat := ((w[k]?).getD 0).toNat
  let ld (x : Nat) : Int := (BitVec.ofNat 32 x).toInt
  { nrows := d 0 % 2 ^ 32, ncols := d 0 / 2 ^ 32, bases := [(w[1]?).getD 0, (w[2]?).getD 0, (w[3]?).getD 0],
    lds := [ld (d 4), ld (d 4 / 2 ^ 32), ld (d 5)], nbase := d 5 / 2 ^ 32 % 4, user := (w[6]?).getD 0, row0 := 0,
    col0 := 0, band := 0 }

/-- Every hart of a gang receives the answer of its settlement and goes on. -/
def State.answerAll (s : State) (gi : Nat) (v : Word) : State :=
  s.modGang gi fun g => { g with harts := g.harts.map fun t =>
    match t.wait with
    | .settle _ d _ _ _ => (t.setReg d v).wake
    | _ => t }

/-- Every hart of a gang raises a cause at the collective it waits in (R187, R203), once the earlier loads of all have
completed (R166). -/
def State.raiseAll (s : State) (gi code : Nat) (addr : Word) : State :=
  let hs := (s.gangOf gi).alive
  match hs.foldl (fun (s : Option State) h => s.bind (·.performFlight ⟨gi, .hart h⟩)) (some s) with
  | some s => hs.foldl (fun s h => s.raiseAt gi h code addr 0) s
  | none => s

/-- The settlement of TASKGET (R187). -/
def State.settleTask (s : State) (gi : Nat) : State :=
  let g := s.gangOf gi
  let ones : Word := BitVec.allOnes 64
  match s.launchOf g with
  | none => s.answerAll gi ones
  | some l =>
    let begin_ (s : State) (va : Word) (take : State → State) : State :=
      let a : Agent := ⟨gi, .hart (g.alive.headD 0)⟩
      match s.readDwords a ((s.thread? a).getD .empty).lvl va.toNat 8 with
      | .error e => if e.code = cWAIT then s else s.raiseAll gi e.code e.addr
      | .ok (w, s) =>
        let s := (take s).modGang gi fun g => { g with panel := some (Panel.ofRecord w) }
        (s.modLaunch g.launch fun l => { l with left := l.left - 1 }).answerAll gi va
    let none_ (s : State) : State :=
      (if l.panels then s.modGang gi fun g => { g with panel := none } else s).answerAll gi ones
    if l.determ then
      let first := g.number * l.nstrip / l.cslots
      let last := (g.number + 1) * l.nstrip / l.cslots
      let j := first + g.strip
      if last ≤ j then none_ s
      else
        let next (s : State) : State := s.modGang gi fun g => { g with strip := g.strip + 1 }
        if l.panels then begin_ s (BitVec.ofNat 64 (l.dw 2 + 64 * j)) next
        else (next s).answerAll gi (BitVec.ofNat 64 j)
    else if l.panels then
      match (l.queues.find? fun q => q.core = g.core).bind fun q => q.recs.head? with
      | none => none_ s
      | some (va, _) =>
        begin_ s va fun s => s.modLaunch g.launch fun l => { l with queues := l.queues.map fun q =>
          if q.core = g.core then { q with recs := q.recs.drop 1 } else q }
    else s.answerAll gi ones

/-- Try the settlement that the harts of a gang wait for (R44, R187, R203): nothing happens until every hart that has
not ended has joined. -/
def State.trySettle (s : State) (gi : Nat) : State :=
  let g := s.gangOf gi
  let joined := g.alive.filterMap fun h => match (g.hart h).wait with
    | .settle kind _ ga _ _ => some (kind, ga.toNat % 32)
    | _ => none
  match joined with
  | [] => if s.grantReady gi then s.applyGrant gi else s
  | (kind, q) :: rest =>
    if joined.length ≠ g.alive.length then s
    else if joined.all fun x => x.1 = 2 then s.settleTask gi
    else if joined.any fun x => x.1 = 2 then s
    else if rest.any fun x => x.1 ≠ kind || (kind = 1 && decide (x.2 ≠ q)) then s.raiseAll gi cILLOP 0
    else
      let s := s.settleGrant gi kind
      if s.grantReady gi then s.applyGrant gi else s

/-- The checks of R201 on a configuration word. -/
def configOk (gb : Word) : Bool :=
  decide (1 ≤ gb.toNat % 16) && decide (gb.toNat % 16 ≤ 8) && decide (gb.toNat / 2 ^ 8 % 8 ≤ 4) && decide (gb.toNat < 2 ^ 11)

/-- Join a collective settlement and try it (R44). A frozen queue raises ILLOP (R384). -/
def State.join (s : State) (kind : Nat) (d : BitVec 6) (ga gb : Word) : Out :=
  if s.me.frz then s.illop
  else
    match s.cur with
    | some ⟨gi, .hart _⟩ =>
      .next ((s.setMe fun t => { t with wait := .settle kind d.toNat ga gb s.word, stall := .none }).trySettle gi)
    | _ => s.illop

/-- VSETVL (R201). -/
def execVsetvl (d a b : BitVec 6) (s : State) : Out :=
  s.hart (if configOk (s.x b) then s.join 0 d (s.x a) (s.x b) else s.illop)

/-- VSETVL.P (R202). -/
def execVsetvlP (d a b : BitVec 6) (s : State) : Out :=
  s.hart (
    let ga := s.x a
    if configOk (s.x b) && decide (1 ≤ ga.toNat) && decide (ga.toNat ≤ 16) && s.gangPanels s.myGang then
      s.join 1 d ga (s.x b)
    else s.illop)

end Sys2Proof.Machine
end

