-- ==== Sys2Proof/Machine/Flags.lean ====
section
/-! DEFINITION. One element of every vector function: operands brought to the operating tag, the exact result, the one
rounding, and every flag it sets (R74, R80, R82, R204 to R208, R214, R215, R221, R223). -/

namespace Sys2Proof.Machine

/-- frm with RM = 0 in place of 4, for operands and for functions that round to nearest (R77, R82). -/
def nearestFrm (f : Word) : Word := if frmRm f = 4 then f &&& ~~~7#64 else f

/-- The scale code to apply to a tag: none when the instruction is not scaled or the tag is not (R74). -/
def scaleFor (sc : Option Nat) (t : Tag) : Option Nat := if t.scaled then sc else none

/-- A source element of VOP or VACC, scaled and converted to the operating tag (R74, R82), rounded as R204 writes it
(DEDUCED, log 102). -/
def operandAt (src t : Tag) (sc : Option Nat) (frm : Word) (b : BitVec 64) : Rounded :=
  match scaleFor sc src with
  | some c => roundTag t (nearestFrm frm) none (scaleBy c false (decode src b))
  | none => convert src t (nearestFrm frm) none b

/-- The exact value of a source element of a fused form (R74, R82, R208): a scaled one is its product with the factor,
not rounded; any other is brought to the operating tag. -/
def operandVal (src t : Tag) (sc : Option Nat) (frm : Word) (b : BitVec 64) : Val × BitVec 6 :=
  match scaleFor sc src with
  | some c => (scaleBy c false (decode src b), 0)
  | none =>
    let r := convert src t (nearestFrm frm) none b
    (decode t r.1, r.2)

/-- An exact result rounded once to the destination, divided by the scale where that applies (R74, R204). -/
def resultAt (dt : Tag) (sc : Option Nat) (frm : Word) (u : Option Nat) (v : Val) : Rounded :=
  match scaleFor sc dt with
  | some c => roundTag dt frm u (scaleBy c true v)
  | none => roundTag dt frm u v

/-- Bits of a bit-level function brought to the destination; a NaN keeps its bits (R204, R206). -/
def bitsAt (t dt : Tag) (sc : Option Nat) (frm : Word) (u : Option Nat) (b : BitVec 64) : Rounded :=
  match scaleFor sc dt with
  | some c =>
    if (decode t b).isNan then convert t dt frm u b else roundTag dt frm u (scaleBy c true (decode t b))
  | none => convert t dt frm u b

/-- One element of VOP or VACC (R204 to R207): `t` the operating tag, `dt` the tag written, `u` the Sower word. A
minimum or maximum is exact: an infinity of F8B stays one whatever NOSAT holds (R206). -/
def elemAlu (f : AluFn) (ta tb t dt : Tag) (sc : Option Nat) (frm : Word) (u : Option Nat) (a b : BitVec 64) : Rounded :=
  let (x, fx) := operandAt ta t sc frm a
  let (y, fy) := if f.unary then (x, 0) else operandAt tb t sc frm b
  let fin := fx ||| fy
  if t.floating then
    match f with
    | .cls => (BitVec.ofNat 64 (classOf t x), fin)
    | _ =>
      if f.bitwise then
        let r := bitsAt t dt sc frm u (aluBits f t x y)
        (r.1, fin ||| r.2)
      else if t = .l6 then
        let r := l6Mul x y
        (r.1, fin ||| r.2)
      else
        let frm' := match f with
          | .div | .sqrt => nearestFrm frm
          | .min | .max => if t = dt && (scaleFor sc dt).isNone then frm ||| 8#64 else frm
          | _ => frm
        let v := aluVal f (frmRm frm') (decode t x) (decode t y)
        let r := resultAt dt sc frm' u v.1
        (r.1, fin ||| v.2 ||| r.2)
  else
    let r := aluInt f t x y
    let r' := convert t dt frm none r.1
    (r'.1, fin ||| r.2 ||| r'.2)

/-- One element of VFMA or VACCF (R208). -/
def elemFma (f : FmaFn) (ta tb td t dt : Tag) (sc : Option Nat) (frm : Word) (u : Option Nat) (a b c : BitVec 64) :
    Rounded :=
  if t.floating then
    let x := operandVal ta t sc frm a
    let y := operandVal tb t sc frm b
    let z := operandVal td t sc frm c
    let v := fmaVal f (frmRm frm) x.1 y.1 z.1
    let r := resultAt dt sc frm u v.1
    (r.1, x.2 ||| y.2 ||| z.2 ||| v.2 ||| r.2)
  else
    let x := convert ta t (nearestFrm frm) none a
    let y := convert tb t (nearestFrm frm) none b
    let z := convert td t (nearestFrm frm) none c
    let r := convert t dt frm none (fmaInt f t x.1 y.1 z.1)
    (r.1, x.2 ||| y.2 ||| z.2 ||| r.2)

/-- One element of VCVT (R214). -/
def elemCvt (src dst : Tag) (sc : Option Nat) (frm : Word) (u : Option Nat) (a : BitVec 64) : Rounded :=
  match scaleFor sc src, scaleFor sc dst with
  | none, none => convert src dst frm u a
  | some c, none => roundTag dst frm u (scaleBy c false (decode src a))
  | none, some c => roundTag dst frm u (scaleBy c true (decode src a))
  | some c, some _ => roundTag dst frm u (scaleBy c true (scaleBy c false (decode src a)))

/-- One element of VRESH (R215): bits, or the same value at the target tag. -/
def elemResh (src dst : Tag) (a : BitVec 64) : BitVec 64 :=
  if src.width = dst.width then
    match dst with
    | .f4 | .n4 => a &&& 0xF#64
    | .l6 => a &&& 0x3F#64
    | .i4 => ofInt .i4 (intOf .i4 a)
    | _ => a
  else (convert src dst 0 none a).1

/-- The working tag of a reduction (R220). -/
def reduceTag (t : Tag) : Tag :=
  if t = .f64 then .f64 else if t.floating then .f32 else if t.signed then .i64 else .n64

/-- A partial result of a reduction: its value under a floating working tag, its bits, and the flags so far. -/
structure Partial where
  val : Val
  bits : BitVec 64
  fl : BitVec 6
  deriving DecidableEq, Repr

/-- A partial result from bits of the working tag. -/
def Partial.ofBits (t : Tag) (b : BitVec 64) (fl : BitVec 6) : Partial := ⟨decode t b, b, fl⟩

/-- An element entering a reduction (R74, R220): converted exactly, or under S its exact product with the factor. -/
def reduceElem (t : Tag) (sc : Option Nat) (a : BitVec 64) : Partial :=
  let w := reduceTag t
  match scaleFor sc t with
  | some c => ⟨scaleBy c false (decode t a), 0, 0⟩
  | none =>
    if t.floating then
      let r := convert t w 0 none a
      .ofBits w r.1 r.2
    else .ofBits w (ofInt w (intOf t a)) 0

/-- One step of a reduction, whose rounding is the only one (R220). -/
def foldPartial (op : FoldFn) (t : Tag) (x y : Partial) : Partial :=
  if t.floating then
    let v := match op with
      | .min => Val.minMax false x.val y.val
      | .max => Val.minMax true x.val y.val
      | _ => Val.add 0 x.val y.val
    let r := roundEven t v.1
    .ofBits t r.1 (x.fl ||| y.fl ||| v.2 ||| r.2)
  else
    let r := foldStep op t x.bits y.bits
    .ofBits t r.1 (x.fl ||| y.fl ||| r.2)

/-- Join two partial results, either of which may be empty (R88). -/
def joinPartial (op : FoldFn) (t : Tag) : Option Partial → Option Partial → Option Partial
  | none, y => y
  | x, none => x
  | some x, some y => some (foldPartial op t x y)

/-- Neighbours joined pairwise in lane order (R88). -/
def joinPairs (op : FoldFn) (t : Tag) : List (Option Partial) → List (Option Partial)
  | x :: y :: l => joinPartial op t x y :: joinPairs op t l
  | l => l

/-- sum_fixed (R88) over the active elements, given with their indexes: 32 summation lanes, then a pairwise tree, then
the seed. -/
def sumFixed (op : FoldFn) (t : Tag) (xs : List (Nat × Partial)) (seed : BitVec 64) : Rounded :=
  let lane (j : Nat) : Option Partial :=
    xs.foldl (fun acc x => if x.1 % 32 = j then joinPartial op t acc (some x.2) else acc) none
  let p := (List.range 32).map lane
  let j := joinPairs op t
  match (j (j (j (j (j p))))).head?.join with
  | some v =>
    let r := foldPartial op t (.ofBits t seed 0) v
    (r.bits, r.fl)
  | none => (seed, 0)

/-- A coefficient slot of VFUNC (R222): working tag, degree, segments, and the words. -/
structure CoefSlot where
  p : Tag
  d : Nat
  n : Nat
  lo : BitVec 64
  inv : BitVec 64
  off : Nat
  deriving DecidableEq, Repr

/-- Half-word k counted from a word of the section, low half first. -/
def coefHalf (m : Nat → BitVec 64) (base k : Nat) : BitVec 64 :=
  let w := m (base + k / 2)
  if k % 2 = 0 then w &&& 0xFFFFFFFF#64 else w >>> 32

/-- The slot's directory entry and parameters, with the checks of R222; none is ILLOP at push. The entry's other bits are
ignored, and a word past the section reads as zero (DESIGN CHOICE, log 98). -/
def coefSlot (m : Nat → BitVec 64) (slot : Nat) : Option CoefSlot :=
  let d0 := (m (2 * slot)).toNat
  let off := d0 % 2 ^ 16
  let len := d0 / 2 ^ 16 % 2 ^ 16
  let kind := d0 / 2 ^ 32 % 256
  let w0 := (m off).toNat
  let d := w0 % 16
  let sb := w0 / 16 % 16
  let n := 2 ^ sb
  if len = 0 then none
  else if 7 < d || 10 < sb || decide (256 ≤ w0) then none
  else if kind = 1 then
    if len < 2 + (n * (d + 1) + 1) / 2 then none
    else some ⟨.f32, d, n, coefHalf m (off + 1) 0, coefHalf m (off + 1) 1, off⟩
  else if kind = 2 then
    if len < 3 + n * (d + 1) then none else some ⟨.f64, d, n, m (off + 1), m (off + 2), off⟩
  else none

/-- c(j, k) (R222). -/
def CoefSlot.coef (c : CoefSlot) (m : Nat → BitVec 64) (j k : Nat) : BitVec 64 :=
  if c.p = .f32 then coefHalf m (c.off + 2) (j * (c.d + 1) + k) else m (c.off + 3 + j * (c.d + 1) + k)

/-- Horner steps from coefficient k - 1 down to 0, each fused and rounded once (R223). -/
def horner (c : CoefSlot) (m : Nat → BitVec 64) (j : Nat) (f : Val) : Nat → Rounded → Rounded
  | 0, y => y
  | k + 1, y =>
    let p := Val.mul (decode c.p y.1) f
    let q := Val.add 0 p.1 (decode c.p (c.coef m j k))
    let r := roundEven c.p q.1
    horner c m j f k (r.1, y.2 ||| p.2 ||| q.2 ||| r.2)

/-- The integer part of a nonnegative number. -/
def Val.floorNat : Val → Nat
  | .fin false m e => if 0 ≤ e then m * 2 ^ e.toNat else m / 2 ^ (-e).toNat
  | _ => 0

/-- One element of VFUNC (R223). -/
def elemFunc (c : CoefSlot) (m : Nat → BitVec 64) (src : Tag) (a : BitVec 64) : Rounded :=
  let x := if src = c.p then (a, 0) else roundEven c.p (decode src a)
  let xv := decode c.p x.1
  if xv.isNan then (canonicalNan c.p, x.2 ||| nvIf xv.signals)
  else
    let df := Val.sub 0 xv (decode c.p c.lo)
    let pr := Val.mul df.1 (decode c.p c.inv)
    let tr := roundEven c.p pr.1
    let t := decode c.p tr.1
    let fl := x.2 ||| df.2 ||| pr.2 ||| tr.2
    if t.isNan then (canonicalNan c.p, x.2 ||| fNV)
    else
      let n : Val := .fin false c.n 0
      let low := decide (Val.compare t (.fin false 0 0) = some .lt)
      let high := decide (Val.compare t n ≠ some .lt)
      let j := if low then 0 else if high then c.n - 1 else t.floorNat
      let f : Val := if low then .fin false 0 0 else if high then .fin false 1 0 else (Val.sub 0 t (.fin false j 0)).1
      let y := horner c m j f c.d (c.coef m j c.d, fl)
      let r := roundEven c.p (decode c.p y.1)
      (r.1, y.2 ||| r.2)

end Sys2Proof.Machine
end

