-- ==== Sys2Proof/Machine/VecPush.lean ====
section
/-! DEFINITION. Pushing the vector arithmetic instructions: every check made at push, what the record keeps, and the
tag recorded for later pushes (08_vector.md, R204 to R223). -/

namespace Sys2Proof.Machine

/-- The tag written by a function of VOP or VACC, with the rules of N and of mask writers (R146, R207). -/
def aluOutTag (f : AluFn) (t : Tag) (n sc : Bool) : Push Tag :=
  match f with
  | .cls => if n || sc then illopP else .ok .n8
  | _ =>
    if n then
      match narrowOf t with
      | some d => .ok d
      | none => illopP
    else .ok t

/-- Whether a function rounds under RM = 4 (R77, R204). Under S with a destination of a scaled tag the quotient of R204
is rounded whatever the function, so that an exact function reserves Sower indices too (DEDUCED, log 86). -/
def aluRounds (f : AluFn) (t : Tag) (n sc : Bool) : Bool :=
  t.floating && t ≠ .l6 &&
    match f with
    | .div | .sqrt | .cls => false
    | _ => n || !f.nearestOnly || (sc && t.scaled)

/-- The second source of a form: a queue or register, or under the scalar bit the value of a g register, read under the
tag of the first (R150), and so also scaled where S is set (DEDUCED, log 116). -/
def State.vsecond (s : State) (u : Option Tag) (scalar : Bool) (t : Tag) (b : BitVec 6) (gb : Word) :
    Push (Operand × State) :=
  if scalar then .ok (⟨.scalar (scalarUnder t s.me.frm gb), t, 2 ^ 32, none⟩, s) else s.vsource u b

/-- The vector source fields of a form with two operands. -/
def pairFields (one : Bool) (a b : BitVec 6) : List (BitVec 6) := if one then [a] else [a, b]

/-- What VOP and VACC share once their sources are known: the tag checks, the length and the record (R204 to R209). -/
def State.pushAlu (s : State) (f : AluFn) (fs : Fields) (x y : Operand) (n sc l : Bool) : Push State :=
  match promote x.tag y.tag with
  | none => illopP
  | some t => do
    need (f.defined t && (s.onHart || t.integer))
    let dt ← aluOutTag f t n sc
    need (s.fits t && s.fits dt && s.scaleOk sc [x.tag, y.tag, dt] && !(sc && t = .l6 && f = .mul))
    let vl ← s.length fs none
    let r := if f.unary then { (s.record (.alu f) fs vl dt).reading x with tagB := x.tag }
      else (s.record (.alu f) fs vl dt).reading2 x y
    (← s.reserveSower (aluRounds f t n sc) vl).pushVec { r with scaled := sc, short := l, opTag := t }

/-- VOP (R204). -/
def State.pushVop (s : State) (f : AluFn) (d a b : BitVec 6) (n sc m g l : Bool) : Push State :=
  let fs : Fields := ⟨pairFields (f.unary || g) a b, some d, true, m⟩
  s.form fs (s.blank (.alu f) 0) fun u => do
    let (x, s1) ← s.vsource u a
    let (y, s2) ← if f.unary then Except.ok (x, s1) else s1.vsecond u g x.tag b (s.x b)
    s2.pushAlu f fs x y n sc l

/-- The accumulator row that a selector names as a first source (R209). -/
def State.rowOperand (s : State) (a : BitVec 6) : Push Operand := do
  let (tile, row, tag) ← s.rowSource (s.x a)
  need (decide (s.me.vl ≤ 2048))
  return ⟨.row tile row, tag, 2048, none⟩

/-- VACC (R209): the first source is an accumulator row. -/
def State.pushVacc (s : State) (f : AluFn) (d a b : BitVec 6) (n sc m : Bool) : Push State :=
  let fs : Fields := ⟨if f.unary then [] else [b], some d, true, m⟩
  s.form fs (s.blank (.alu f) 0) fun u => do
    let x ← s.rowOperand a
    let (y, s1) ← if f.unary then Except.ok (x, s) else s.vsource u b
    s1.pushAlu f fs x y n sc false

/-- What VFMA and VACCF share once their sources are known (R208): the destination is the third. -/
def State.pushFmaWith (s : State) (f : FmaFn) (fs : Fields) (x y : Operand) (n sc : Bool) : Push State :=
  let old := s.destTag (s.vdest fs)
  match (promote x.tag y.tag).bind fun t => promote t old with
  | none => illopP
  | some t => do
    need (t ≠ .l6)
    let dt ← aluOutTag .add t n sc
    need (s.fits t && s.fits dt && s.scaleOk sc [x.tag, y.tag, old, dt])
    let vl ← s.length fs none
    (← s.reserveSower t.floating vl).pushVec
      { (s.record (.fma f) fs vl dt).reading2 x y with scaled := sc, opTag := t }

/-- VFMA (R208). -/
def State.pushFma (s : State) (f : FmaFn) (d a b : BitVec 6) (n sc m g : Bool) : Push State :=
  let fs : Fields := ⟨pairFields g a b, some d, false, m⟩
  s.form fs (s.blank (.fma f) 0) fun u => do
    let (x, s1) ← s.vsource u a
    let (y, s2) ← s1.vsecond u g x.tag b (s.x b)
    s2.pushFmaWith f fs x y n sc

/-- VACCF (R208, R209). -/
def State.pushFmaAcc (s : State) (f : FmaFn) (d a b : BitVec 6) (n sc m : Bool) : Push State :=
  let fs : Fields := ⟨[b], some d, false, m⟩
  s.form fs (s.blank (.fma f) 0) fun u => do
    let x ← s.rowOperand a
    let (y, s1) ← s.vsource u b
    s1.pushFmaWith f fs x y n sc

/-- VCMP (R210). -/
def State.pushCmp (s : State) (f : CmpFn) (d a b : BitVec 6) (m g : Bool) : Push State :=
  let fs : Fields := ⟨pairFields g a b, some d, true, m⟩
  s.form fs (s.blank (.cmp f) 0) fun u => do
    let (x, s1) ← s.vsource u a
    let (y, s2) ← s1.vsecond u g x.tag b (s.x b)
    match promote x.tag y.tag with
    | none => illopP
    | some t =>
      need (s.fits t && (s.onHart || t.integer) && !(f = .unord && t.integer))
      let vl ← s2.length fs none
      s2.pushVec { (s2.record (.cmp f) fs vl .n8).reading2 x y with opTag := t }

/-- The two-source functions of VMASK, and VMNOT (R211); in an access-unit context on integer tags (R155). -/
def State.pushMask (s : State) (f : MaskFn) (d a b : BitVec 6) : Push State :=
  let one : Bool := f = .not
  let fs : Fields := ⟨pairFields one a b, some d, true, false⟩
  s.form fs (s.blank (.mask f) 0) fun u => do
    let (x, s1) ← s.vsource u a
    let (y, s2) ← if one then Except.ok (x, s1) else s1.vsource u b
    need (s.onHart || (x.tag.integer && y.tag.integer))
    let vl ← s2.length fs none
    let r := s2.record (.mask f) fs vl .n8
    s2.pushVec (if one then { r.reading x with tagB := x.tag } else r.reading2 x y)

/-- VMPOPC and VMFIRST (R211); in an access-unit context on integer tags (R155). -/
def State.pushCount (s : State) (op : VOp) (d a : BitVec 6) : Push State :=
  let fs : Fields := ⟨[a], none, false, false⟩
  s.form fs { s.blank op 0 with dst := .scalar d.toNat } fun u => do
    let (x, s1) ← s.vsource u a
    need (s.onHart || x.tag.integer)
    let vl ← s1.length fs none
    s1.pushVec { (s1.blank op vl).reading x with dst := .scalar d.toNat }

/-- A form with no vector source and a tag of its own: VID and VMSET (R211, R212). -/
def State.pushFill (s : State) (op : VOp) (t : Tag) (d : BitVec 6) (m : Bool) : Push State :=
  let fs : Fields := ⟨[], some d, true, m⟩
  s.form fs (s.blank op 0) fun _ => do
    let vl ← s.length fs none
    s.pushVec (s.record op fs vl t)

/-- The tag of VID (R212). -/
def vidTag (w : Nat) : Tag := if 4 ≤ w then .n32 else if w = 2 then .n16 else .n8

/-- VSEL (R212): v0 selects. -/
def State.pushSel (s : State) (d a b : BitVec 6) : Push State :=
  let fs : Fields := ⟨[a, b], some d, true, true⟩
  s.form fs (s.blank .sel 0) fun u => do
    let (x, y, s1) ← s.vsources u a b
    match promote x.tag y.tag with
    | none => illopP
    | some t =>
      need (s.fits t && (s.onHart || t.integer))
      let vl ← s1.length fs none
      s1.pushVec { (s1.record .sel fs vl t).reading2 x y with masked := false }

/-- An element number below VLMAX; all ones stands for one that is not (R212). -/
def State.element (s : State) (n : Word) : Word := if n.toNat < s.vlmax s.who then n else BitVec.allOnes 64

/-- VGETE (R212): the index is read at push. It does not depend on vl, and pops a queue whatever vl is. -/
def State.pushGete (s : State) (d a b : BitVec 6) : Push State := do
  s.named ⟨[a], none, false, false⟩
  let (x, s1) ← s.vsource none a
  s1.pushVec { (s1.blank .gete s.me.vl).reading x with dst := .scalar d.toNat, opa := s.element (s.x b) }

/-- VSETE (R212): the index and the value are read at push, the value under tag(vd). -/
def State.pushSete (s : State) (d a b : BitVec 6) : Push State :=
  let fs : Fields := ⟨[], some d, false, false⟩
  s.form fs (s.blank .sete 0) fun _ =>
    let t := s.destTag (s.vdest fs)
    s.pushVec { s.record .sete fs s.me.vl t with
      opa := s.element (s.x a), opb := scalarUnder t s.me.frm (s.x b) }

/-- VSALSEL (R213). -/
def State.pushSalsel (s : State) (d a b : BitVec 6) (m : Bool) (g k : Nat) : Push State :=
  let fs : Fields := ⟨[a, b], some d, true, m⟩
  s.form fs (s.blank (.salsel g k) 0) fun u => do
    let (x, y, s1) ← s.vsources u a b
    need (x.tag.floating && y.tag.floating && x.tag ≠ .l6 && y.tag ≠ .l6)
    let vl ← s1.length fs none
    s1.pushVec { (s1.record (.salsel g k) fs vl .n8).reading2 x y with opTag := .f32 }

/-- VCVT (R214). -/
def State.pushCvt (s : State) (d a : BitVec 6) (sc m : Bool) (code : BitVec 5) : Push State :=
  let fs : Fields := ⟨[a], some d, true, m⟩
  s.form fs (s.blank .cvt 0) fun u => do
    let (x, s1) ← s.vsource u a
    match Tag.ofCode code.toNat with
    | none => illopP
    | some t =>
      need (s.fits t && s.scaleOk sc [x.tag, t])
      let vl ← s1.length fs none
      (← s1.reserveSower (t ≠ .l6) vl).pushVec { (s1.record .cvt fs vl t).reading x with scaled := sc }

/-- VRESH (R215). -/
def State.pushResh (s : State) (d a code : BitVec 6) (m : Bool) : Push State :=
  let fs : Fields := ⟨[a], some d, true, m⟩
  s.form fs (s.blank .resh 0) fun u => do
    let (x, s1) ← s.vsource u a
    match Tag.ofCode code.toNat with
    | none => illopP
    | some t =>
      need (s.fits t && (decide (x.tag.width = t.width) || exactPair x.tag t))
      need (s.onHart || (t.integer && x.tag.integer))
      let vl ← s1.length fs none
      s1.pushVec ((s1.record .resh fs vl t).reading x)

/-- A register names itself as source and destination. -/
def sameReg (d : Dst) (x : Src) : Bool :=
  match d, x with
  | .reg n, .reg k => n = k
  | _, _ => false

/-- The forms that move elements of one source, with a scalar read at push (R216, R218). -/
def State.pushSlide (s : State) (op : VOp) (d v r : BitVec 6) (m : Bool) (mayQueue mayAlias under : Bool) :
    Push State :=
  let fs : Fields := ⟨[v], some d, mayQueue, m⟩
  s.form fs (s.blank op 0) fun u => do
    let (x, s1) ← s.vsource u v
    need ((s.onHart || x.tag.integer) && (mayAlias || !sameReg (s.vdest fs) x.src))
    let vl ← s1.length fs none
    s1.pushVec { (s1.record op fs vl x.tag).reading x with
      opa := if under then scalarUnder x.tag s.me.frm (s.x r) else s.x r }

/-- VGATHR and VSEND (R217). -/
def State.pushIndexed (s : State) (op : VOp) (d a b : BitVec 6) (m mayQueue : Bool) : Push State :=
  let fs : Fields := ⟨[a, b], some d, mayQueue, m⟩
  s.form fs (s.blank op 0) fun u => do
    let (x, y, s1) ← s.vsources u a b
    need (y.tag.integer && (s.onHart || x.tag.integer) && !sameReg (s.vdest fs) x.src && !sameReg (s.vdest fs) y.src)
    let vl ← s1.length fs none
    s1.pushVec ((s1.record op fs vl x.tag).reading2 x y)

/-- The tag that VBCAST writes (R219): the declared tag of vd; for a queue the launch default tag (DEDUCED, log 20). -/
def State.bcastTag (s : State) (d : Dst) : Tag :=
  match d with
  | .reg n => (s.me.vreg n).decl
  | _ => Tag.default s.myGang.w

/-- VBCAST (R219). -/
def State.pushBcast (s : State) (d a : BitVec 6) (m : Bool) : Push State :=
  let fs : Fields := ⟨[], some d, true, m⟩
  let t := s.bcastTag (s.vdest fs)
  s.form fs (s.blank .bcast 0) fun _ => do
    need (s.onHart || t.integer)
    let vl ← s.length fs none
    s.pushVec { s.record .bcast fs vl t with opa := scalarUnder t s.me.frm (s.x a) }

/-- The bitwise reductions. -/
def FoldFn.bitwise : FoldFn → Bool
  | .and | .or | .xor => true
  | _ => false

/-- The VRED reductions (R220). Where vl = 0 leaves a queue source unpopped, no tag says how much of gb the seed is: gd
receives all of it (DESIGN CHOICE, log 88). -/
def State.pushRed (s : State) (f : FoldFn) (d a b : BitVec 6) (sc m : Bool) : Push State :=
  let fs : Fields := ⟨[a], none, false, m⟩
  s.form fs { s.blank (.red f) 0 with dst := .scalar d.toNat, opb := s.x b, opTag := .n64 } fun u => do
    let (x, s1) ← s.vsource u a
    need (!(f.bitwise && x.tag.floating) && s.scaleOk sc [x.tag])
    let seed := if reduceTag x.tag = .f32 then s.x b &&& 0xFFFFFFFF#64 else s.x b
    s1.pushVec { (s1.blank (.red f) s.me.vl).reading x with
      masked := m, scaled := sc, dst := .scalar d.toNat, opTag := reduceTag x.tag, opb := seed }

/-- The scans (R221). -/
def State.pushScan (s : State) (f : FoldFn) (d a : BitVec 6) (sc m : Bool) : Push State :=
  let fs : Fields := ⟨[a], some d, true, m⟩
  s.form fs (s.blank (.scan f) 0) fun u => do
    let (x, s1) ← s.vsource u a
    need (!sc && x.tag ≠ .l6)
    let vl ← s1.length fs none
    s1.pushVec ((s1.record (.scan f) fs vl x.tag).reading x)

/-- The coefficient memory of an agent: word k of the section its launch keeps (R163, R164). -/
def State.coefWord (s : State) (gi : Nat) (k : Nat) : BitVec 64 :=
  match s.launchOf (s.gangOf gi) with
  | some l => l.coef.get k
  | none => 0

/-- VFUNC (R222, R223). -/
def State.pushFunc (s : State) (d a : BitVec 6) (m : Bool) (slot : BitVec 5) : Push State :=
  let fs : Fields := ⟨[a], some d, true, m⟩
  s.form fs (s.blank (.func slot.toNat) 0) fun u => do
    match coefSlot (s.coefWord s.who.gang) slot.toNat with
    | none => illopP
    | some c =>
      let (x, s1) ← s.vsource u a
      need (s.fits c.p && x.tag.floating)
      let vl ← s1.length fs none
      s1.pushVec ((s1.record (.func slot.toNat) fs vl c.p).reading x)

/-- VCFG (R200): the declared tag is recorded at push; without lane groups nothing else is. -/
def State.pushCfg (s : State) (d a : BitVec 6) : Push State := do
  let v := s.x a
  match if 32 ≤ v.toNat then none else Tag.ofCode v.toNat with
  | none => illopP
  | some t =>
    need (s.fits t && decide (d.toNat < s.myGang.nv))
    let n := d.toNat
    let old := (s.me.vreg n).tag
    if s.lanes s.who = 0 then
      (s.setMe fun t' => t'.modVreg n fun r => { r with decl := t }).pushVec { s.blank .cfg 0 with dst := .none }
    else
      (s.setMe fun t' => t'.modVreg n fun r => { r with decl := t }).pushVec { s.blank .cfg s.me.vl with
        dst := .reg n, tagD := old, opTag := t, outTag := t, rezero := decide (old.width ≠ t.width) }

end Sys2Proof.Machine
end

