-- ==== Sys2Proof/Machine/Vector.lean ====
section
/-! DEFINITION. The vector arithmetic instructions: each is checked and pushed; its elements are computed when its
element groups complete (08_vector.md, R200 to R223). -/

namespace Sys2Proof.Machine

/-- A vector instruction that harts and access-unit contexts both issue (R155); a frozen queue raises ILLOP (R384). -/
def State.both (s : State) (r : Push State) : Out := s.agent (if s.me.frz then s.illop else s.pushOut r)

/-- A vector instruction that only harts issue. -/
def State.execute (s : State) (r : Push State) : Out := s.hart (if s.me.frz then s.illop else s.pushOut r)

/-- VADD (R205, R206). -/
def execVadd (d a b : BitVec 6) (n sc m g l : Bool) (s : State) : Out := s.both (s.pushVop .add d a b n sc m g l)

/-- VSUB (R205, R206). -/
def execVsub (d a b : BitVec 6) (n sc m g l : Bool) (s : State) : Out := s.both (s.pushVop .sub d a b n sc m g l)

/-- VMUL (R205, R206). -/
def execVmul (d a b : BitVec 6) (n sc m g l : Bool) (s : State) : Out := s.both (s.pushVop .mul d a b n sc m g l)

/-- VDIV (R205, R206). -/
def execVdiv (d a b : BitVec 6) (n sc m g l : Bool) (s : State) : Out := s.both (s.pushVop .div d a b n sc m g l)

/-- VMIN (R205, R206). -/
def execVmin (d a b : BitVec 6) (n sc m g l : Bool) (s : State) : Out := s.both (s.pushVop .min d a b n sc m g l)

/-- VMAX (R205, R206). -/
def execVmax (d a b : BitVec 6) (n sc m g l : Bool) (s : State) : Out := s.both (s.pushVop .max d a b n sc m g l)

/-- VSADD (R205, R206). -/
def execVsadd (d a b : BitVec 6) (n sc m g l : Bool) (s : State) : Out := s.both (s.pushVop .sadd d a b n sc m g l)

/-- VSSUB (R205, R206). -/
def execVssub (d a b : BitVec 6) (n sc m g l : Bool) (s : State) : Out := s.both (s.pushVop .ssub d a b n sc m g l)

/-- VMULH (R205, R206). -/
def execVmulh (d a b : BitVec 6) (n sc m g l : Bool) (s : State) : Out := s.both (s.pushVop .mulh d a b n sc m g l)

/-- VREM (R205, R206). -/
def execVrem (d a b : BitVec 6) (n sc m g l : Bool) (s : State) : Out := s.both (s.pushVop .rem d a b n sc m g l)

/-- VAND (R205, R206). -/
def execVand (d a b : BitVec 6) (n sc m g l : Bool) (s : State) : Out := s.both (s.pushVop .and d a b n sc m g l)

/-- VOR (R205, R206). -/
def execVor (d a b : BitVec 6) (n sc m g l : Bool) (s : State) : Out := s.both (s.pushVop .or d a b n sc m g l)

/-- VXOR (R205, R206). -/
def execVxor (d a b : BitVec 6) (n sc m g l : Bool) (s : State) : Out := s.both (s.pushVop .xor d a b n sc m g l)

/-- VSLL (R205, R206). -/
def execVsll (d a b : BitVec 6) (n sc m g l : Bool) (s : State) : Out := s.both (s.pushVop .sll d a b n sc m g l)

/-- VSHR (R205, R206). -/
def execVshr (d a b : BitVec 6) (n sc m g l : Bool) (s : State) : Out := s.both (s.pushVop .shr d a b n sc m g l)

/-- VSGNJ (R205, R206). -/
def execVsgnj (d a b : BitVec 6) (n sc m g l : Bool) (s : State) : Out := s.both (s.pushVop .sgnj d a b n sc m g l)

/-- VSGNJN (R205, R206). -/
def execVsgnjn (d a b : BitVec 6) (n sc m g l : Bool) (s : State) : Out := s.both (s.pushVop .sgnjn d a b n sc m g l)

/-- VSGNJX (R205, R206). -/
def execVsgnjx (d a b : BitVec 6) (n sc m g l : Bool) (s : State) : Out := s.both (s.pushVop .sgnjx d a b n sc m g l)

/-- VSQRT (R205 to R207). -/
def execVsqrt (d a : BitVec 6) (n sc m g l : Bool) (s : State) : Out := s.both (s.pushVop .sqrt d a 0 n sc m g l)

/-- VABS (R205 to R207). -/
def execVabs (d a : BitVec 6) (n sc m g l : Bool) (s : State) : Out := s.both (s.pushVop .abs d a 0 n sc m g l)

/-- VNEG (R205 to R207). -/
def execVneg (d a : BitVec 6) (n sc m g l : Bool) (s : State) : Out := s.both (s.pushVop .neg d a 0 n sc m g l)

/-- VCLASS (R205 to R207). -/
def execVclass (d a : BitVec 6) (n sc m g l : Bool) (s : State) : Out := s.both (s.pushVop .cls d a 0 n sc m g l)

/-- VMV (R205 to R207). -/
def execVmv (d a : BitVec 6) (n sc m g l : Bool) (s : State) : Out := s.both (s.pushVop .mv d a 0 n sc m g l)

/-- VADD.ACC (R209). -/
def execVaddAcc (d a b : BitVec 6) (n sc m : Bool) (s : State) : Out := s.execute (s.pushVacc .add d a b n sc m)

/-- VSUB.ACC (R209). -/
def execVsubAcc (d a b : BitVec 6) (n sc m : Bool) (s : State) : Out := s.execute (s.pushVacc .sub d a b n sc m)

/-- VMUL.ACC (R209). -/
def execVmulAcc (d a b : BitVec 6) (n sc m : Bool) (s : State) : Out := s.execute (s.pushVacc .mul d a b n sc m)

/-- VDIV.ACC (R209). -/
def execVdivAcc (d a b : BitVec 6) (n sc m : Bool) (s : State) : Out := s.execute (s.pushVacc .div d a b n sc m)

/-- VMIN.ACC (R209). -/
def execVminAcc (d a b : BitVec 6) (n sc m : Bool) (s : State) : Out := s.execute (s.pushVacc .min d a b n sc m)

/-- VMAX.ACC (R209). -/
def execVmaxAcc (d a b : BitVec 6) (n sc m : Bool) (s : State) : Out := s.execute (s.pushVacc .max d a b n sc m)

/-- VSADD.ACC (R209). -/
def execVsaddAcc (d a b : BitVec 6) (n sc m : Bool) (s : State) : Out := s.execute (s.pushVacc .sadd d a b n sc m)

/-- VSSUB.ACC (R209). -/
def execVssubAcc (d a b : BitVec 6) (n sc m : Bool) (s : State) : Out := s.execute (s.pushVacc .ssub d a b n sc m)

/-- VMULH.ACC (R209). -/
def execVmulhAcc (d a b : BitVec 6) (n sc m : Bool) (s : State) : Out := s.execute (s.pushVacc .mulh d a b n sc m)

/-- VREM.ACC (R209). -/
def execVremAcc (d a b : BitVec 6) (n sc m : Bool) (s : State) : Out := s.execute (s.pushVacc .rem d a b n sc m)

/-- VAND.ACC (R209). -/
def execVandAcc (d a b : BitVec 6) (n sc m : Bool) (s : State) : Out := s.execute (s.pushVacc .and d a b n sc m)

/-- VOR.ACC (R209). -/
def execVorAcc (d a b : BitVec 6) (n sc m : Bool) (s : State) : Out := s.execute (s.pushVacc .or d a b n sc m)

/-- VXOR.ACC (R209). -/
def execVxorAcc (d a b : BitVec 6) (n sc m : Bool) (s : State) : Out := s.execute (s.pushVacc .xor d a b n sc m)

/-- VSLL.ACC (R209). -/
def execVsllAcc (d a b : BitVec 6) (n sc m : Bool) (s : State) : Out := s.execute (s.pushVacc .sll d a b n sc m)

/-- VSHR.ACC (R209). -/
def execVshrAcc (d a b : BitVec 6) (n sc m : Bool) (s : State) : Out := s.execute (s.pushVacc .shr d a b n sc m)

/-- VSGNJ.ACC (R209). -/
def execVsgnjAcc (d a b : BitVec 6) (n sc m : Bool) (s : State) : Out := s.execute (s.pushVacc .sgnj d a b n sc m)

/-- VSGNJN.ACC (R209). -/
def execVsgnjnAcc (d a b : BitVec 6) (n sc m : Bool) (s : State) : Out := s.execute (s.pushVacc .sgnjn d a b n sc m)

/-- VSGNJX.ACC (R209). -/
def execVsgnjxAcc (d a b : BitVec 6) (n sc m : Bool) (s : State) : Out := s.execute (s.pushVacc .sgnjx d a b n sc m)

/-- VSQRT.ACC (R209). -/
def execVsqrtAcc (d a : BitVec 6) (n sc m : Bool) (s : State) : Out := s.execute (s.pushVacc .sqrt d a 0 n sc m)

/-- VABS.ACC (R209). -/
def execVabsAcc (d a : BitVec 6) (n sc m : Bool) (s : State) : Out := s.execute (s.pushVacc .abs d a 0 n sc m)

/-- VNEG.ACC (R209). -/
def execVnegAcc (d a : BitVec 6) (n sc m : Bool) (s : State) : Out := s.execute (s.pushVacc .neg d a 0 n sc m)

/-- VCLASS.ACC (R209). -/
def execVclassAcc (d a : BitVec 6) (n sc m : Bool) (s : State) : Out := s.execute (s.pushVacc .cls d a 0 n sc m)

/-- VMV.ACC (R209). -/
def execVmvAcc (d a : BitVec 6) (n sc m : Bool) (s : State) : Out := s.execute (s.pushVacc .mv d a 0 n sc m)

/-- VFMADD (R208). -/
def execVfmadd (d a b : BitVec 6) (n sc m g : Bool) (s : State) : Out := s.execute (s.pushFma .madd d a b n sc m g)

/-- VFMADD.ACC (R208, R209). -/
def execVfmaddAcc (d a b : BitVec 6) (n sc m : Bool) (s : State) : Out := s.execute (s.pushFmaAcc .madd d a b n sc m)

/-- VFMSUB (R208). -/
def execVfmsub (d a b : BitVec 6) (n sc m g : Bool) (s : State) : Out := s.execute (s.pushFma .msub d a b n sc m g)

/-- VFMSUB.ACC (R208, R209). -/
def execVfmsubAcc (d a b : BitVec 6) (n sc m : Bool) (s : State) : Out := s.execute (s.pushFmaAcc .msub d a b n sc m)

/-- VFNMADD (R208). -/
def execVfnmadd (d a b : BitVec 6) (n sc m g : Bool) (s : State) : Out := s.execute (s.pushFma .nmadd d a b n sc m g)

/-- VFNMADD.ACC (R208, R209). -/
def execVfnmaddAcc (d a b : BitVec 6) (n sc m : Bool) (s : State) : Out := s.execute (s.pushFmaAcc .nmadd d a b n sc m)

/-- VFNMSUB (R208). -/
def execVfnmsub (d a b : BitVec 6) (n sc m g : Bool) (s : State) : Out := s.execute (s.pushFma .nmsub d a b n sc m g)

/-- VFNMSUB.ACC (R208, R209). -/
def execVfnmsubAcc (d a b : BitVec 6) (n sc m : Bool) (s : State) : Out := s.execute (s.pushFmaAcc .nmsub d a b n sc m)

/-- VCMPEQ (R210). -/
def execVcmpeq (d a b : BitVec 6) (m g : Bool) (s : State) : Out := s.both (s.pushCmp .eq d a b m g)

/-- VCMPNE (R210). -/
def execVcmpne (d a b : BitVec 6) (m g : Bool) (s : State) : Out := s.both (s.pushCmp .ne d a b m g)

/-- VCMPLT (R210). -/
def execVcmplt (d a b : BitVec 6) (m g : Bool) (s : State) : Out := s.both (s.pushCmp .lt d a b m g)

/-- VCMPLE (R210). -/
def execVcmple (d a b : BitVec 6) (m g : Bool) (s : State) : Out := s.both (s.pushCmp .le d a b m g)

/-- VCMPGT (R210). -/
def execVcmpgt (d a b : BitVec 6) (m g : Bool) (s : State) : Out := s.both (s.pushCmp .gt d a b m g)

/-- VCMPGE (R210). -/
def execVcmpge (d a b : BitVec 6) (m g : Bool) (s : State) : Out := s.both (s.pushCmp .ge d a b m g)

/-- VCMPUNORD (R210). -/
def execVcmpunord (d a b : BitVec 6) (m g : Bool) (s : State) : Out := s.both (s.pushCmp .unord d a b m g)

/-- VMAND (R211). -/
def execVmand (d a b : BitVec 6) (s : State) : Out := s.both (s.pushMask .and d a b)

/-- VMOR (R211). -/
def execVmor (d a b : BitVec 6) (s : State) : Out := s.both (s.pushMask .or d a b)

/-- VMXOR (R211). -/
def execVmxor (d a b : BitVec 6) (s : State) : Out := s.both (s.pushMask .xor d a b)

/-- VMANDN (R211). -/
def execVmandn (d a b : BitVec 6) (s : State) : Out := s.both (s.pushMask .andn d a b)

/-- VMNOT (R211). -/
def execVmnot (d a : BitVec 6) (s : State) : Out := s.both (s.pushMask .not d a 0)

/-- VMPOPC (R211). -/
def execVmpopc (d a : BitVec 6) (s : State) : Out := s.both (s.pushCount .mpopc d a)

/-- VMFIRST (R211). -/
def execVmfirst (d a : BitVec 6) (s : State) : Out := s.both (s.pushCount .mfirst d a)

/-- VMSET (R211). -/
def execVmset (d : BitVec 6) (s : State) : Out := s.both (s.pushFill .mset .n8 d false)

/-- VCVT (R214). -/
def execVcvt (d a : BitVec 6) (sc m : Bool) (t : BitVec 5) (s : State) : Out := s.execute (s.pushCvt d a sc m t)

/-- VSLIDEUP (R216). -/
def execVslideup (d a b : BitVec 6) (m : Bool) (s : State) : Out := s.both (s.pushSlide .slideUp d a b m false true false)

/-- VSLIDEDN (R216). -/
def execVslidedn (d a b : BitVec 6) (m : Bool) (s : State) : Out := s.both (s.pushSlide .slideDn d a b m true false false)

/-- VGATHR (R217). -/
def execVgathr (d a b : BitVec 6) (m : Bool) (s : State) : Out := s.both (s.pushIndexed .gather d a b m true)

/-- VSEND (R217). -/
def execVsend (d a b : BitVec 6) (m : Bool) (s : State) : Out := s.both (s.pushIndexed .send d a b m false)

/-- VCMPRS (R218). -/
def execVcmprs (d a : BitVec 6) (m : Bool) (s : State) : Out := s.both (s.pushSlide .cmprs d a 0 m true false false)

/-- VEXPND (R218). -/
def execVexpnd (d a : BitVec 6) (m : Bool) (s : State) : Out := s.both (s.pushSlide .expnd d a 0 m true false false)

/-- VRESH (R215). -/
def execVresh (d a t : BitVec 6) (m : Bool) (s : State) : Out := s.both (s.pushResh d a t m)

/-- VBCAST (R219). -/
def execVbcast (d a : BitVec 6) (m : Bool) (s : State) : Out := s.both (s.pushBcast d a m)

/-- VSLIDE1UP (R216). -/
def execVslide1up (d a b : BitVec 6) (m : Bool) (s : State) : Out := s.both (s.pushSlide .slide1Up d b a m true false true)

/-- VSLIDE1DN (R216). -/
def execVslide1dn (d a b : BitVec 6) (m : Bool) (s : State) : Out := s.both (s.pushSlide .slide1Dn d b a m true false true)

/-- VREDSUM (R220). -/
def execVredsum (d a b : BitVec 6) (sc m : Bool) (s : State) : Out := s.execute (s.pushRed .add d a b sc m)

/-- VREDMIN (R220). -/
def execVredmin (d a b : BitVec 6) (sc m : Bool) (s : State) : Out := s.execute (s.pushRed .min d a b sc m)

/-- VREDMAX (R220). -/
def execVredmax (d a b : BitVec 6) (sc m : Bool) (s : State) : Out := s.execute (s.pushRed .max d a b sc m)

/-- VREDAND (R220). -/
def execVredand (d a b : BitVec 6) (sc m : Bool) (s : State) : Out := s.execute (s.pushRed .and d a b sc m)

/-- VREDOR (R220). -/
def execVredor (d a b : BitVec 6) (sc m : Bool) (s : State) : Out := s.execute (s.pushRed .or d a b sc m)

/-- VREDXOR (R220). -/
def execVredxor (d a b : BitVec 6) (sc m : Bool) (s : State) : Out := s.execute (s.pushRed .xor d a b sc m)

/-- VSCANSUM (R221). -/
def execVscansum (d a : BitVec 6) (sc m : Bool) (s : State) : Out := s.execute (s.pushScan .add d a sc m)

/-- VSCANMIN (R221). -/
def execVscanmin (d a : BitVec 6) (sc m : Bool) (s : State) : Out := s.execute (s.pushScan .min d a sc m)

/-- VSCANMAX (R221). -/
def execVscanmax (d a : BitVec 6) (sc m : Bool) (s : State) : Out := s.execute (s.pushScan .max d a sc m)

/-- VFUNC (R222, R223). -/
def execVfunc (d a : BitVec 6) (m : Bool) (c : BitVec 5) (s : State) : Out := s.execute (s.pushFunc d a m c)

/-- VCFG (R200). -/
def execVcfg (d a : BitVec 6) (s : State) : Out := s.execute (s.pushCfg d a)

/-- VID (R212). -/
def execVid (d : BitVec 6) (m : Bool) (s : State) : Out := s.both (s.pushFill .vid (vidTag s.myGang.w) d m)

/-- VSEL (R212). -/
def execVsel (d a b : BitVec 6) (s : State) : Out := s.both (s.pushSel d a b)

/-- VGETE (R212). -/
def execVgete (d a b : BitVec 6) (s : State) : Out := s.execute (s.pushGete d a b)

/-- VSETE (R212). -/
def execVsete (d a b : BitVec 6) (s : State) : Out := s.execute (s.pushSete d a b)

/-- VSALSEL (R213). -/
def execVsalsel (d a b : BitVec 6) (m : Bool) (g k : BitVec 2) (s : State) : Out := s.execute (s.pushSalsel d a b m g.toNat k.toNat)

end Sys2Proof.Machine
end

