-- ==== Sys2Proof/Machine/MemPush.lean ====
section
/-! DEFINITION. Pushing the vector memory forms of harts and access-unit contexts, windows, fences of the vector side
and engine commands: every check made at push and the trims (R98, R225 to R230, R235 to R242, R249, R256 to R260,
R341). -/

namespace Sys2Proof.Machine

/-- Address of element i of a form (R225, R257, R260): `x` is the offset or index of an indexed form. -/
def elemAddr (form : AddrForm) (base opb : Word) (ws i : Nat) (x : Int) : Word :=
  match form with
  | .unit => base + BitVec.ofNat 64 (i * ws)
  | .strided => base + BitVec.ofNat 64 i * opb
  | .column => base + BitVec.ofNat 64 (i % 64) * opb + BitVec.ofNat 64 (i / 64 * ws)
  | .rows r => base + BitVec.ofNat 64 (i % r) * opb + BitVec.ofNat 64 (i / r * ws)
  | .indexed => base + BitVec.ofInt 64 x
  | .far _ => base + BitVec.ofInt 64 (x * ws)

/-- Bit position of element i of a packed tag from its base (R71, R72). -/
def packedBit (t : Tag) (i : Nat) : Nat :=
  if t = .l6 then 768 * (i / 128) + 24 * (i % 128 % 32) + 6 * (i % 128 / 32)
  else 256 * (i / 64) + 8 * (i % 64 % 32) + 4 * (i % 64 / 32)

/-- First byte, from the base, and number of bytes that hold element i. -/
def elemBytes (t : Tag) (i : Nat) : Nat × Nat :=
  let b := packedBit t i
  (b / 8, (b + t.bits - 1) / 8 - b / 8 + 1)

/-- Address and size of the bytes that element i of a form reads. -/
def elemSpan (form : AddrForm) (t : Tag) (base opb : Word) (i : Nat) (x : Int) : Word × Nat :=
  if t.subByte then
    let e := elemBytes t i
    (base + BitVec.ofNat 64 e.1, e.2)
  else (elemAddr form base opb t.width i x, t.width)

/-- First byte and length of the run of window offsets that bounds an access starting at an offset: its allocation, or
the gang's scalar data memory (R92, R98). -/
def Gang.bounds (g : Gang) (off : Nat) : Option (Nat × Nat) :=
  if 0x3000000 ≤ off && decide (off < 0x3010000) then some (0x3000000, 0x10000)
  else (g.allocAt off).map fun a => (a.off, 4096 * a.ages.length)

/-- The trim of R98: the lowest element not wholly in the allocation of element 0. -/
def State.trim (s : State) (form : AddrForm) (t : Tag) (base opb : Word) (n : Nat) : Nat :=
  match form with
  | .indexed | .far _ => n
  | _ =>
    let span (i : Nat) : Nat × Nat := let e := elemSpan form t base opb i 0; (e.1.toNat, e.2)
    let (a0, n0) := span 0
    if !inWindow a0 then n
    else
      match s.myGang.bounds (a0 - windowBase) with
      | none => n
      | some (lo, len) =>
        let inside (e : Nat × Nat) : Bool :=
          decide (windowBase + lo ≤ e.1) && decide (e.1 + e.2 ≤ windowBase + lo + len)
        if !inside (a0, n0) then n else ((List.range n).find? fun i => !inside (span i)).getD n

/-- A form that packs sub-byte tags (R227). -/
def AddrForm.packs : AddrForm → Bool
  | .unit => true
  | _ => false

/-- A form with an index or offset vector. -/
def AddrForm.hasIndex : AddrForm → Bool
  | .indexed | .far _ => true
  | _ => false

/-- The index vector of a form, with its integer tag (R225, R256, R260). -/
def State.indexSource (s : State) (u : Option Tag) (form : AddrForm) (b : BitVec 6) : Push (Operand × State) :=
  if form.hasIndex then do
    let (x, s) ← s.vsource u b
    need x.tag.integer
    return (x, s)
  else .ok (⟨.none, .n8, 0, none⟩, s)

/-- The tag of a load (R226, R256): its TAG in an access-unit context; else the declared tag of vd, or the launch default
tag for a queue. -/
def State.loadTag (s : State) (tag : Option Tag) (d : Dst) : Tag := tag.getD (s.bcastTag d)

/-- The length an access takes after the trim; on a hart the trim sets vl (R98), in an access-unit context it governs
the form alone (R257). -/
def State.trimmed (s : State) (form : AddrForm) (t : Tag) (base opb : Word) (n : Nat) : Nat × State :=
  let k := s.trim form t base opb n
  (k, if s.onHart && decide (k ≠ n) then s.setMe fun th => { th with vl := k } else s)

/-- A load (R225 to R230, R256, R257): `tag` is the TAG of an access form. A load of a hart may not name one register as
destination and as offsets (R230); an AGATHER may (R256). -/
def State.pushLoad (s : State) (form : AddrForm) (d b : BitVec 6) (base opb : Word) (tag : Option Tag)
    (arr ff sl m : Bool) : Push State :=
  let fs : Fields := ⟨if form.hasIndex then [b] else [], some d, true, m⟩
  let t := s.loadTag tag (s.vdest fs)
  s.form fs (s.blank (.load form arr ff) 0) fun u => do
    let (x, s1) ← s.indexSource u form b
    need (s.fits t && (!t.subByte || form.packs) && !(s.onHart && sameReg (s.vdest fs) x.src))
    need (!sl || !isQueue d)
    need (!arr || (inWindow base.toNat && !tooWide base && !form.hasIndex))
    let n ← s1.length fs none
    let (n, s2) := s1.trimmed form t base opb n
    s2.pushVec { (s2.record (.load form arr ff) fs n t).reading x with short := sl, opa := base, opb := opb }

/-- A store (R225 to R230, R256, R257): a queue named as data is popped before one named as offsets. In an access-unit
context the entry of a store queue named as data gives the length, so that a form with one is never of length 0. -/
def State.pushStore (s : State) (form : AddrForm) (d b : BitVec 6) (base opb : Word) (nt m : Bool) : Push State :=
  let index := if form.hasIndex then [b] else []
  let fs : Fields := ⟨d :: index, none, false, m⟩
  let k (u : Option Tag) : Push State := do
    let (y, s1) ← s.vsource u d
    let (x, s2) ← s1.indexSource u form b
    need (!y.tag.subByte || form.packs)
    let n ← s2.length fs (if isQueue d then some y.count else none)
    let (n, s3) := s2.trimmed form y.tag base opb n
    s3.pushVec { s3.blank (.store form nt) n with
      masked := m, srcA := x.src, srcB := y.src, tagA := x.tag, tagB := y.tag, opTag := y.tag, outTag := y.tag,
      opa := base, opb := opb, pops := popsOf [y, x] }
  if !s.onHart && isQueue d then do
    s.named fs
    k none
  else s.form fs (s.blank (.store form nt) 0) k

/-- A far gather (R259, R260): the descriptor's own checks are made here; the others when the form is issued. -/
def State.pushFar (s : State) (d b : BitVec 6) (base desc : Word) (m : Bool) : Push State :=
  let fs : Fields := ⟨[b], some d, true, m⟩
  let nelem := desc.toNat % 2 ^ 32
  let op : VOp := .load (.far nelem) false false
  s.form fs (s.blank op 0) fun u => do
    match Tag.ofCode (desc.toNat / 2 ^ 32 % 32) with
    | none => illopP
    | some t =>
      need (decide (desc.toNat < 2 ^ 37) && decide (nelem ≠ 0) && !t.subByte && s.fits t)
      let (x, s1) ← s.indexSource u (.far nelem) b
      let n ← s1.length fs none
      s1.pushVec { (s1.record op fs n t).reading x with opa := base, opb := desc }

/-- VLD (R225, R230). -/
def execVld (d a : BitVec 6) (f c r l m : Bool) (s : State) : Out :=
  s.execute (if c then illopP else s.pushLoad .unit d 0 (s.x a) 0 none r f l m)

/-- VLDS (R225, R230). -/
def execVlds (d a b : BitVec 6) (f c r l m : Bool) (s : State) : Out :=
  s.execute (s.pushLoad (if c then .column else .strided) d 0 (s.x a) (s.x b) none r f l m)

/-- VLDX (R225, R230). -/
def execVldx (d a b : BitVec 6) (f c r l m : Bool) (s : State) : Out :=
  s.execute (if c || r then illopP else s.pushLoad .indexed d b (s.x a) 0 none false f l m)

/-- VST (R225, R230). -/
def execVst (d a : BitVec 6) (c n m : Bool) (s : State) : Out :=
  s.execute (if c then illopP else s.pushStore .unit d 0 (s.x a) 0 n m)

/-- VSTS (R225, R230). -/
def execVsts (d a b : BitVec 6) (c n m : Bool) (s : State) : Out :=
  s.execute (s.pushStore (if c then .column else .strided) d 0 (s.x a) (s.x b) n m)

/-- VSTX (R225, R230). -/
def execVstx (d a b : BitVec 6) (c n m : Bool) (s : State) : Out :=
  s.execute (if c then illopP else s.pushStore .indexed d b (s.x a) 0 n m)

/-- VFAR (R259, R260). -/
def execVfar (d a b : BitVec 6) (s : State) : Out :=
  s.execute (s.pushFar d b (s.x a) (s.x (a + 1)) false)

/-- An instruction that only access-unit contexts issue. -/
def State.access (s : State) (k : Out) : Out := s.agent (if s.onHart then s.illop else k)

/-- ALD with CL = 0 (R256, R257). -/
def execAld (d a b : BitVec 6) (p m : Bool) (t : BitVec 5) (s : State) : Out :=
  s.access (s.pushOut (match Tag.ofCode t.toNat with
    | none => illopP
    | some t => s.pushLoad (if p then .strided else .unit) d 0 (s.x a) (s.x b) (some t) false false false m))

/-- AGATHER (R256, R257). -/
def execAgather (d a b : BitVec 6) (m : Bool) (t : BitVec 5) (s : State) : Out :=
  s.access (s.pushOut (match Tag.ofCode t.toNat with
    | none => illopP
    | some t => s.pushLoad .indexed d b (s.x a) 0 (some t) false false false m))

/-- ATRANS (R256, R257). -/
def execAtrans (d a b : BitVec 6) (r : BitVec 3) (t : BitVec 5) (s : State) : Out :=
  s.access (s.pushOut (match Tag.ofCode t.toNat with
    | none => illopP
    | some t => s.pushLoad (.rows (2 ^ r.toNat)) d 0 (s.x a) (s.x b) (some t) false false false false))

/-- AST with CL = 0 (R256, R257). -/
def execAst (d a b : BitVec 6) (p m : Bool) (s : State) : Out :=
  s.access (s.pushOut (s.pushStore (if p then .strided else .unit) d 0 (s.x a) (s.x b) false m))

/-- ASCAT (R256, R257). -/
def execAscat (d a b : BitVec 6) (m : Bool) (s : State) : Out :=
  s.access (s.pushOut (s.pushStore .indexed d b (s.x a) 0 false m))

/-- AFAR (R259, R260). -/
def execAfar (d a b : BitVec 6) (m : Bool) (s : State) : Out :=
  s.access (s.pushOut (s.pushFar d b (s.x a) (s.x (a + 1)) m))

/-- Fields of a window descriptor (R235). -/
def winLen (w : Word) : Nat := w.toNat % 2 ^ 24
/-- WTAG. -/
def winTag (w : Word) : Tag := (Tag.ofCode (w.toNat / 2 ^ 24 % 32)).getD .f64
/-- OP. -/
def winOp (w : Word) : FoldFn := (FoldFn.ofCode (w.toNat / 2 ^ 29 % 8)).getD .add
/-- AREA. -/
def winArea (w : Word) : Nat := w.toNat / 2 ^ 32 % 2 ^ 26
/-- CSZ (R236). -/
def winCsz (w : Word) : Nat := 32 * ((winLen w * (winTag w).width + 31) / 32)
/-- BSZ (R236). -/
def winBsz (w : Word) : Nat := 32 * ((winLen w + 255) / 256)
/-- Area size (R236). -/
def winSize (w : Word) : Nat := 8 * (winCsz w + winBsz w)

/-- The checks of R235 on a descriptor. -/
def winOk (w : Word) (width : Nat) : Bool :=
  let op := w.toNat / 2 ^ 29 % 8
  let tagOk := match Tag.ofCode (w.toNat / 2 ^ 24 % 32) with
    | some .f64 | some .f32 => decide (op ≤ 2)
    | some .i32 | some .i64 | some .n32 | some .n64 => decide (op ≤ 5)
    | _ => false
  decide (winLen w ≠ 0) && tagOk && decide (w.toNat < 2 ^ 58) && decide (winArea w % 4096 = 0) &&
    decide ((winTag w).width ≤ width)

/-- Whether every block an area touches lies in one allocation of the gang (R235). -/
def Gang.holdsArea (g : Gang) (w : Word) : Bool := g.inAlloc (winArea w) (4096 * ((winSize w + 4095) / 4096))

/-- VWIN (R235). -/
def State.pushWin (s : State) (ga gb : Word) : Push State := do
  need (winOk gb s.myGang.w)
  if ga.toNat % (winTag gb).width ≠ 0 then .error (.mem ⟨cALIGN, ga⟩)
  else if !s.myGang.holdsArea gb then .error (.mem ⟨cSPRANGE, BitVec.ofNat 64 (windowBase + winArea gb)⟩)
  else
    (s.setMe fun t => { t with window := some ⟨ga, gb, false⟩ }).pushVec { s.blank .win s.me.vl with opa := ga, opb := gb }

/-- The window a VWACC or VWMERGE uses (R233, R237, R238). -/
def State.windowNow (s : State) : Push Window :=
  match s.me.window with
  | none => illopP
  | some w => if w.dead then .error (.trap cSPRANGE) else .ok w

/-- VWACC (R237): its specifiers are checked before the window it uses (R143), and of what is checked at push the window
comes first: one whose area is freed raises SPRANGE before the tags raise ILLOP (DESIGN CHOICE, log 126). -/
def State.pushWacc (s : State) (a b : BitVec 6) (m : Bool) : Push State := do
  let fs : Fields := ⟨[a, b], none, false, m⟩
  s.named fs
  let w ← s.windowNow
  s.form fs (s.blank .wacc 0) fun u => do
    let (x, y, s1) ← s.vsources u a b
    need (x.tag.integer && y.tag ≠ .l6)
    s1.pushVec { (s1.blank .wacc s.me.vl).reading2 x y with masked := m, opa := w.base, opb := w.desc }

/-- VWIN (R235). -/
def execVwin (a b : BitVec 6) (s : State) : Out := s.execute (s.pushWin (s.x a) (s.x b))

/-- VWACC (R237). -/
def execVwacc (a b : BitVec 6) (m : Bool) (s : State) : Out := s.execute (s.pushWacc a b m)

/-- VWMERGE (R238). -/
def execVwmerge (s : State) : Out :=
  s.execute (do
    let w ← s.windowNow
    s.pushVec { s.blank .wmerge s.me.vl with opa := w.base, opb := w.desc })

/-- VLSYNC (R118, R239): the stores of the scalar slice that are its own to wait for opened before `opa`. -/
def execVlsync (s : State) : Out := s.execute (s.pushVec { s.blank .lsync s.me.vl with opa := BitVec.ofNat 64 s.stamp })

/-- VFENCE (R123, R240): a package or system scope starts the next epoch of the hart (R137). -/
def execVfence (sc k : BitVec 3) (s : State) : Out :=
  s.both (do
    let s ← s.pushVec { s.blank (.fence sc.toNat k.toNat) s.me.vl with opa := BitVec.ofNat 64 s.stamp }
    return if 4 ≤ sc.toNat then s.setMe fun t => { t with epoch := t.epoch + 1 } else s)

/-- CMDB (R242). -/
def State.pushCmdb (s : State) (e : Engine) (d a : BitVec 6) (m : Bool) : Push State := do
  let g := s.myGang
  let (va, vd) := (a.toNat, d.toNat)
  need (decide (va + 8 ≤ g.nv) && decide (vd < g.nv) && !(decide (va ≤ vd) && decide (vd < va + 8)))
  need ((List.range 8).all fun w => (s.me.vreg (va + w)).tag.width = 8)
  let dst := Dst.reg vd
  let old := s.destTag dst
  s.pushVec { s.blank (.cmdb e) s.me.vl with
    masked := m, dst := dst, srcA := .reg va, tagA := .n64, tagD := old, opTag := .n8, outTag := .n8,
    rezero := rezeroOf dst old .n8 }

/-- CMDB.COPY (R242). -/
def execCmdbCopy (d a : BitVec 6) (m : Bool) (s : State) : Out := s.execute (s.pushCmdb .copy d a m)

/-- CMDB.CAT (R242, R321). -/
def execCmdbCat (d a : BitVec 6) (m : Bool) (s : State) : Out := s.execute (s.pushCmdb .catalogue d a m)

/-- CMDB.ORCH (R242, R358). -/
def execCmdbOrch (d a : BitVec 6) (m : Bool) (s : State) : Out := s.execute (s.pushCmdb .orchard d a m)

/-- VSOW (R341). -/
def State.pushSow (s : State) (f : SowFn) (t : Tag) (d a b : BitVec 6) (m : Bool) : Push State :=
  let gb := s.x b
  let fs : Fields := ⟨[a], some d, true, m⟩
  s.form fs (s.blank (.sow f) 0) fun u => do
    need (decide (gb.toNat / 2 ^ 12 % 2 ^ 20 = 0) && decide (gb.toNat % 2 ^ 12 < s.me.sowDims) && s.fits t)
    let (x, s1) ← s.vsource u a
    need x.tag.integer
    s1.pushVec { (s1.record (.sow f) fs s.me.vl t).reading x with opb := gb }

/-- VSOW.F32 (R340, R341). -/
def execVsowF32 (d a b : BitVec 6) (m : Bool) (s : State) : Out := s.execute (s.pushSow .f32 .f32 d a b m)

/-- VSOW.F64 (R340, R341). -/
def execVsowF64 (d a b : BitVec 6) (m : Bool) (s : State) : Out := s.execute (s.pushSow .f64 .f64 d a b m)

/-- VSOW.N32 (R340, R341). -/
def execVsowN32 (d a b : BitVec 6) (m : Bool) (s : State) : Out := s.execute (s.pushSow .n32 .n32 d a b m)

/-- SOWLOAD (R342). -/
def execSowload (a : BitVec 6) (s : State) : Out :=
  s.hart (s.afterVector fun s =>
    let ga := s.x a
    s.accessIn .read false ga 8 fun s p =>
      let s := s.setMe (·.closeSlice 0)
      match s.loadAt s.who 0 p 8 with
      | none => s.stallFor .busy
      | some v =>
        let s := (s.noteRead s.who p 8).chargeAt s.who.gang p 8
        if 2 ^ 16 ≤ v || 4096 < v then s.illop
        else
          let part := s.myPart
          let discard (i : Nat) (c : CoreSt) : CoreSt :=
            if s.partOfCore i = part then c.forget (dimKey part ga) else c
          { s with cores := s.cores.mapIdx discard }.done fun t => { t with sowAddr := ga, sowDims := v })

/-- The allocation whose first byte is at an address; SPRANGE where there is none (R97, R102, R233). An address with bits
[63:52] set is no allocation's first byte: SPRANGE, and not the XLAT of R92 (DESIGN CHOICE, log 90). -/
def State.allocFrom (s : State) (va : Word) (k : Alloc → Out) : Out :=
  match s.myGang.allocs.find? fun x => va.toNat = windowBase + x.off with
  | some x => k x
  | none => s.trapWith (s.scalarCause cSPRANGE va 0)

/-- The lowest gang offset with a run of free blocks (R97). -/
def Gang.freeRun (g : Gang) (n : Nat) : Option Nat :=
  let used (b : Nat) : Bool :=
    g.allocs.any fun x => decide (x.off ≤ 4096 * b) && decide (4096 * b < x.off + 4096 * x.ages.length)
  if n = 0 || g.blocks < n then none
  else ((List.range (g.blocks - n + 1)).find? fun b => (List.range n).all fun i => !used (b + i)).map fun b => 4096 * b

/-- SPALLOC (R97, R232). -/
def execSpalloc (d a b : BitVec 6) (s : State) : Out :=
  s.hart (
    let (ga, gb) := ((s.x a).toNat, (s.x b).toNat)
    let g := s.myGang
    let n := (ga + 4095) / 4096
    let life := match s.launchOf g with
      | some l => l.head.life
      | none => 0
    if gb = 0 || 1024 < gb || life < gb || 64 ≤ g.allocs.length then s.retWith d 0
    else
      match g.freeRun n with
      | none => s.retWith d 0
      | some off =>
        let new : Alloc := ⟨off, gb, List.replicate n 0, false⟩
        (s.modGang s.who.gang fun g => { g with
          allocs := insertBy (·.off) new g.allocs, spad := Sparse.clear g.spad off (4096 * n) }).retWith d
            (BitVec.ofNat 64 (windowBase + off)))

/-- Whether a transfer's ranges meet a run of virtual bytes. -/
def Xfer.meets (x : Xfer) (va n : Nat) : Bool := x.conflicts va n true

/-- The area of a window descriptor lies partly in a run of the scratchpad. -/
def areaIn (d : Word) (off n : Nat) : Bool := decide (winArea d < off + n) && decide (off < winArea d + winSize d)

/-- The areas in a run of the scratchpad are gone: the window of a thread, and those of the updates and merges that it has
pushed and not made (R233). -/
def Thread.killAreas (t : Thread) (off n : Nat) : Thread :=
  let gone (r : VRec) : Bool := !r.done && areaIn r.opb off n && match r.op with
    | .wacc | .wmerge => true
    | _ => false
  { t with
    window := t.window.map fun w => { w with dead := w.dead || areaIn w.desc off n }
    vq := t.vq.map fun r => { r with dead := r.dead || gone r } }

/-- SPFREE (R97, R233). -/
def execSpfree (a : BitVec 6) (s : State) : Out :=
  s.hart (s.allocFrom (s.x a) fun x => s.afterVector fun s =>
    let va := windowBase + x.off
    let n := 4096 * x.ages.length
    let g := s.myGang
    match s.me.xfers.find? fun y => y.meets va n && y.tells with
    | some y => s.trapXfer y
    | none =>
      if (g.harts.flatMap (·.xfers)).any fun y => y.meets va n then s.stallFor .busy
      else
        (s.modGang s.who.gang fun g => { g with
          allocs := g.allocs.filter fun y => y.off ≠ x.off
          harts := g.harts.map (·.killAreas x.off n) }).ret)

/-- SPRENEW (R102, R234): a read and a write of the allocation, so that it waits for the hart's transfers that read it
or write it. -/
def execSprenew (d a : BitVec 6) (s : State) : Out :=
  s.hart (s.allocFrom (s.x a) fun x => s.afterVector fun s =>
    let va := windowBase + x.off
    let n := 4096 * x.ages.length
    match s.me.xfers.find? fun y => y.meets va n with
    | some y => if y.tells then s.trapXfer y else s.stallFor .busy
    | none =>
      let x := (s.myGang.allocs.find? fun y => y.off = x.off).getD x
      (s.modGang s.who.gang fun g => { g with allocs := g.allocs.map fun y =>
        if y.off = x.off then { y with ages := y.ages.map fun e => if y.tag < e then e else 0 } else y }).retWith d
          (BitVec.ofNat 64 (x.ages.filter fun e => decide (x.tag < e)).length))

/-- SPAGE (R102, R234). -/
def execSpage (d a : BitVec 6) (s : State) : Out :=
  s.hart (s.allocFrom (s.x a) fun x =>
    s.retWith d (BitVec.ofInt 64 ((x.tag : Int) - ((x.ages.foldl max 0 : Nat) : Int))))

/-- The enabled load queues and store queues among those that a mask names (R64, R241). -/
def Gang.namedQueues (g : Gang) (mask : Nat) : List (List Nat) :=
  (g.lq ++ g.sq).mapIdx fun k q => if mask / 2 ^ k % 2 = 1 && g.qen.getLsbD k then q else []

/-- Whether an instruction in flight in a context is producing an entry for a named queue (R241), of those that count. -/
def Thread.produces (t : Thread) (mask : Nat) (counts : VRec → Bool) : Bool :=
  (t.vq.any fun r => counts r && match r.dst with
    | .sq n => decide (mask / 2 ^ (8 + n) % 2 = 1) && decide (r.vl ≠ 0)
    | .lq q _ => decide (mask / 2 ^ q % 2 = 1) && decide (r.vl ≠ 0)
    | _ => false) ||
  t.xfers.any fun x => match x.kind with
    | .stream q _ => decide (mask / 2 ^ q % 2 = 1)
    | _ => false

/-- Stores made from entries of the named store queues that are not performed with respect to the gang (R132, R137). -/
def Thread.storesFrom (t : Thread) (mask : Nat) : Bool :=
  t.wc.any fun e => e.gang.isNone && e.sq.any fun n => decide (mask / 2 ^ (8 + n) % 2 = 1)

/-- What QDRAIN waits for (R132, R241): the queues hold nothing, nothing in flight produces for them, and every store made
from the entries of the named store queues is performed with respect to the gang. Of the forms of the access queue, those
that do not come after the instruction count. -/
def Gang.queuesDrained (g : Gang) (m : Nat) (counts : VRec → Bool) : Bool :=
  let storing (r : VRec) (id : Nat) : Bool := counts r && match r.op with
    | .store _ _ => r.pops.contains id
    | _ => false
  let taken := g.ents.any fun e => match e.sq with
    | some p => decide (m / 2 ^ (8 + p.q) % 2 = 1) && g.access.vq.any fun r => storing r e.id
    | none => false
  (g.namedQueues m).all (·.isEmpty) && !g.access.produces m counts && !(g.harts.any (·.produces m fun _ => true)) &&
    (m < 256 || (!taken && !g.access.storesFrom m))

/-- QDRAIN (R132, R241): a hart waits at it, an access-unit context queues it (R250). -/
def execQdrain (a : BitVec 6) (s : State) : Out :=
  s.agent (
    let m := (s.x a).toNat
    if 2 ^ 12 ≤ m then s.illop
    else if !s.onHart then s.pushOut (s.pushVec { s.blank .drain 1 with opa := s.x a })
    else if s.myGang.queuesDrained m fun _ => true then s.ret
    else s.stallFor (.drain m))

end Sys2Proof.Machine
end

