-- ==== Sys2Proof/Machine/Matrix.lean ====
section
/-! DEFINITION. Pushing the matrix instructions and waiting for them (11_matrix.md, R273 to R289). -/

namespace Sys2Proof.Machine

/-- Push a record on the matrix queue (R273). -/
def State.pushMatrix (s : State) (r : VRec) : Push State := do
  s.canPush true
  .ok (s.setMe fun t => { t with mq := t.mq ++ [r], ordNext := t.ordNext + 1 }.retire)

/-- Change a tile of the gang of the agent in execution. -/
def State.modTile (s : State) (t : Nat) (f : Tile → Tile) : State :=
  s.modGang s.who.gang fun g => { g with tiles := modifyAt g.tiles t f }

/-- A declared tile; ILLOP where there is none (R57). -/
def State.tile (s : State) (t : Nat) : Push Tile :=
  match s.myGang.tiles[t]? with
  | some x => .ok x
  | none => illopP

/-- Fields of mshape (R279). -/
def shapeSa (m : BitVec 25) : Nat := m.toNat % 16 + 1
/-- oa. -/
def shapeOa (m : BitVec 25) : Nat := m.toNat / 16 % 256
/-- sb. -/
def shapeSb (m : BitVec 25) : Nat := m.toNat / 2 ^ 12 % 16 + 1
/-- ob. -/
def shapeOb (m : BitVec 25) : Nat := m.toNat / 2 ^ 16 % 256
/-- KORD. -/
def shapeKord (m : BitVec 25) : Bool := m.getLsbD 24

/-- MMA (R280, R281): `first` is AD, `narrow` NACC. -/
def State.pushMma (s : State) (d a b : Nat) (scaled first narrow nb na : Bool) : Push State := do
  let tile ← s.tile d
  let t := s.me
  let g := s.myGang
  need (decide (a < g.nv) && decide (b + 8 ≤ g.nv) && decide (t.vl ≤ 2048))
  let tagB := (t.vreg b).tag
  need ((List.range 8).all fun k => (t.vreg (b + k)).tag = tagB)
  let tagA := (t.vreg a).tag
  let af : Tag := if narrow then .f32 else .f64
  match promote tagA tagB with
  | none => illopP
  | some op =>
    let vm := s.vlmax s.who
    need (op.floating && !(op = .l6 && !narrow) && !(!first && tile.tag ≠ af))
    need (t.vl = 0 || (decide (8 * t.mrows + 7 * shapeSa t.mshape + shapeOa t.mshape < vm) &&
      decide ((t.vl - 1) * shapeSb t.mshape + shapeOb t.mshape < vm)))
    need (s.scaleOk scaled [tagA, tagB])
    let r := { s.blank (.mma na nb first narrow) t.vl with
      scaled := scaled, dst := .tile d 0, srcA := .reg a, srcB := .reg b, tagA := tagA, tagB := tagB, tagD := tile.tag,
      opTag := op, outTag := af }
    (if t.vl = 0 then s else s.modTile d fun x => { x with tag := af }).pushMatrix r

/-- MMA (R280, R281). -/
def execMma (t : BitVec 4) (a b : BitVec 6) (sc w z y x : Bool) (s : State) : Out :=
  s.execute (s.pushMma t.toNat a.toNat b.toNat sc z w y x)

/-- Offset of slot (m, n) from the base of a tile move (R286). -/
def slotOff (dir : Bool) (pitch m n : Nat) : Nat := if dir then n * pitch + 8 * m else m * pitch + 8 * n

/-- Whether a slot of a tile move of m rows and n columns lies at a window offset of 0x304_0000 or above (R92, R286). -/
def reachesGates (off : Nat) (dir : Bool) (pitch m n : Nat) : Bool :=
  decide (0x3040000 < off + slotOff dir pitch (m - 1) (n - 1) + 8)

/-- MLD and MST, with the checks of R286 in order; the scalar data memory has no allocation (R106). The record keeps the
tag that the tile has at the push, and in `srcA` the order up to which scalar stores have been made (R288). -/
def State.pushMove (s : State) (op : VOp) (d : Nat) (ga gb : Word) : Push State := do
  let t := s.me
  let g := s.myGang
  let dir := gb.getLsbD 63
  let pitch := gb.toNat % 2 ^ 32
  let m := t.mrows + 1
  need (decide (gb.toNat / 2 ^ 32 % 2 ^ 31 = 0) && decide (1 ≤ t.vl) && decide (t.vl ≤ 2048) && decide (d < g.tiles.length))
  need (inWindow ga.toNat && !tooWide ga)
  if ga.toNat % 32 ≠ 0 || pitch % 32 ≠ 0 then .error (.mem ⟨cALIGN, ga⟩)
  else
    need (if dir then !(decide (1 < t.vl) && decide (pitch < 8 * m)) else !(decide (1 < m) && decide (pitch < 8 * t.vl)))
    let off := ga.toNat - windowBase
    let last := off + slotOff dir pitch (m - 1) (t.vl - 1) + 8
    if reachesGates off dir pitch m t.vl then .error (.mem ⟨cPROT, ga⟩)
    else
      match g.allocAt off with
      | some x =>
        if last ≤ x.off + 4096 * x.ages.length then do
          let tile ← s.tile d
          s.pushMatrix { s.blank op t.vl with
            dst := .tile d 0, tagD := tile.tag, outTag := tile.tag, opa := ga, opb := gb
            srcA := .scalar (BitVec.ofNat 64 s.stamp) }
        else .error (.mem ⟨cSPRANGE, ga⟩)
      | none => .error (.mem ⟨cSPRANGE, ga⟩)

/-- MLD (R285, R286). -/
def execMld (t : BitVec 4) (a b : BitVec 6) (s : State) : Out := s.execute (s.pushMove .mld t.toNat (s.x a) (s.x b))

/-- MST (R285, R286). -/
def execMst (t : BitVec 4) (a b : BitVec 6) (s : State) : Out := s.execute (s.pushMove .mst t.toNat (s.x a) (s.x b))

/-- MZERO (R276, R285). -/
def execMzero (t : BitVec 4) (s : State) : Out :=
  s.execute (do
    let _ ← s.tile t.toNat
    (s.modTile t.toNat fun x => { x with tag := .f64 }).pushMatrix { s.blank .mzero s.me.vl with dst := .tile t.toNat 0 })

/-- MWROW and MADDROW (R289). -/
def State.pushRow (s : State) (add : Bool) (a b : BitVec 6) : Push State := do
  let (tile, row, tag) ← s.rowSource (s.x a)
  need (decide (b.toNat < s.myGang.nv) && decide (s.me.vl ≤ 2048))
  s.pushMatrix { s.blank (.mwrow add) s.me.vl with
    dst := .tile tile row, srcB := .reg b.toNat, tagB := (s.me.vreg b.toNat).tag, tagD := tag, outTag := tag }

/-- MWROW (R289). -/
def execMwrow (a b : BitVec 6) (s : State) : Out := s.execute (s.pushRow false a b)

/-- MADDROW (R289). -/
def execMaddrow (a b : BitVec 6) (s : State) : Out := s.execute (s.pushRow true a b)

/-- MWAIT (R275, R384). -/
def execMwait (s : State) : Out :=
  s.hart (if s.me.frz then s.illop else if s.me.mq.isEmpty then s.ret else s.stallFor .busy)

end Sys2Proof.Machine
end

