-- ==== Sys2Proof/Machine/Drain.lean ====
section
/-! DEFINITION. Performing the entries of write-combining buffers, and the deterministic drain that holds them back
(R116, R120, R137). -/

namespace Sys2Proof.Machine

/-- A held write that the gang sees, and that comes before one of a given order, still has to reach a sector (R113,
R137). -/
def Gang.sectorBefore (g : Gang) (sector key : Nat) : Bool := g.shown.any fun x => decide (x.1 < key) && x.2.1 = sector

/-- Its place in the order of the gang's held writes: behind all that the gang sees of its epoch, until it is one. -/
def WcEntry.key (e : WcEntry) : Nat := holdKey e.epoch (e.gang.getD (2 ^ 64 - 1))

/-- The gang saw an entry before another was opened (R137). -/
def WcEntry.shownBefore (x e : WcEntry) : Bool :=
  match x.gang with
  | some k => decide (k < e.stamp)
  | none => false

/-- Whether the entry at place k of a buffer may be performed: closed, the oldest of its slice, not held, and not ahead
of a write that the gang sees already, nor of one of its own thread that the gang saw before this entry was opened: what has
counted as performed for an order (R118, R119) keeps its place (R116, R120, R137). -/
def State.mayPerform (s : State) (a : Agent) (k : Nat) : Bool :=
  let t := (s.thread? a).getD .empty
  match t.wc[k]? with
  | none => false
  | some e =>
    !e.opn && !((t.wc.take k).any fun x => x.slice = e.slice || x.shownBefore e) && !s.held a.gang e.epoch &&
      !s.training (32 * e.sector) && !(s.gangOf a.gang).sectorBefore e.sector e.key

/-- Whether the entry at place k may be performed with respect to the gang alone: closed, held, and behind no store of
its slice that the gang does not see (R137). -/
def State.mayShow (s : State) (a : Agent) (k : Nat) : Bool :=
  let t := (s.thread? a).getD .empty
  match t.wc[k]? with
  | none => false
  | some e =>
    !e.opn && e.gang.isNone && s.held a.gang e.epoch &&
      !((t.wc.take k).any fun x => x.slice = e.slice && x.gang.isNone)

/-- Write the bytes of an entry: one masked sector write (R120, R121). -/
def writeBytes (m : Memory) (base : Nat) : List (Nat × BitVec 8) → Memory
  | [] => m
  | b :: bs => writeBytes (Sparse.set m (base + b.1) b.2) base bs

/-- Perform the entry at place k of a buffer (R112, R120); while it is held, with respect to the gang (R137). The last
stores of a killed gang let its launch complete (R21). -/
def State.performEntry (s : State) (a : Agent) (k : Nat) : State :=
  match ((s.thread? a).getD .empty).wc[k]? with
  | none => s
  | some e =>
    if s.mayPerform a k then
      let s := ({ s with mem := writeBytes s.mem (32 * e.sector) e.bytes }.chargeAt a.gang (.mem (32 * e.sector)) 32).modThread a
        fun t => { t with wc := t.wc.eraseIdx k }
      if (s.gangOf a.gang).st = .retired then s.finishLaunch (s.gangOf a.gang).launch else s
    else if s.mayShow a k then
      { s with stamp := s.stamp + 1 }.modThread a fun t =>
        { t with wc := modifyAt t.wc k fun e => { e with gang := some s.stamp } }
    else s

/-- Perform the first entry that may be. -/
def State.performSome (s : State) (a : Agent) : Option State :=
  let n := ((s.thread? a).getD .empty).wc.length
  ((List.range n).find? fun k => s.mayPerform a k).map fun k => s.performEntry a k

/-- Perform what may be performed of some entries of a thread's buffer, oldest first, with respect to all or to the gang:
those of a halted gang (R139, R390), or the stores of the element groups that a fault keeps (R139, R228, R372). -/
def State.drainAll (s : State) (a : Agent) (which : WcEntry → Bool) : Nat → State
  | 0 => s
  | fuel + 1 =>
    let wc := ((s.thread? a).getD .empty).wc
    match (List.range wc.length).find? fun k => (wc[k]?).any which && (s.mayPerform a k || s.mayShow a k) with
    | some k => (s.performEntry a k).drainAll a which fuel
    | none => s

/-- An entry of an agent's vector slices, or any of the access-unit context. -/
def WcEntry.ofVector (e : WcEntry) (a : Agent) : Bool := decide (a.role = .access ∨ e.slice ≠ 0)

/-- Close the entries of an agent's vector slices, or every entry of the access-unit context. -/
def State.closeVector (s : State) (a : Agent) : State :=
  s.modThread a fun t => { t with wc := t.wc.map fun e => { e with opn := e.opn && !e.ofVector a } }

/-- A store of a vector element: a full buffer drains its closed entries, oldest first, until there is room (R120); none
where they are held. -/
def State.storeDraining (s : State) (a : Agent) (put : State → Option State) : Nat → Option State
  | 0 => put s
  | fuel + 1 =>
    match put s with
    | some s => some s
    | none =>
      match s.performSome a with
      | some s => s.storeDraining a put fuel
      | none => none

/-- ACCESS_PERFORMED on an entry of the write-combining buffer, and the closing that time brings (R120). -/
def State.timeoutEntry (s : State) (a : Agent) (k : Nat) : State :=
  s.modThread a fun t => { t with wc := modifyAt t.wc k fun e => { e with opn := false } }

/-- WC_ENTRY_TIMEOUT (R120): 64 cycles have passed since the entry opened. -/
def execWcEntryTimeout (ag : Agent) (x : Nat) (s : State) : Out := .next (s.timeoutEntry ag x)

end Sys2Proof.Machine
end

