-- ==== Sys2Proof/Machine/Group.lean ====
section
/-! DEFINITION. Element groups: which group of a queued record may be performed, the values its active elements get,
and how a group is committed (R53, R54, R58, R62, R80, R194 to R199, R204 to R223, R254). -/

namespace Sys2Proof.Machine

/-- Whole-vector instructions (R199). -/
def VOp.whole : VOp → Bool
  | .gather | .send | .cmprs | .expnd | .slideDn | .slide1Dn | .salsel _ _ | .red _ | .oexpand => true
  | _ => false

/-- Instructions done in one step whatever vl is. -/
def VOp.single : VOp → Bool
  | .cfg | .gete | .sete | .win | .wmerge | .lsync | .fence _ _ | .stream | .contribute | .receive | .drain => true
  | _ => false

/-- Number of steps of a record: element groups, or one. -/
def VRec.groups (r : VRec) : Nat :=
  if r.op.single then 1
  else if r.op.whole then if r.vl = 0 then 0 else 1
  else
    let n := (r.vl + r.lanes - 1) / r.lanes
    if r.op.always then max n 1 else n

/-- Registers a record reads (R54): sources, mask, scales, selector, and a destination that is a third source. -/
def VRec.reads (r : VRec) (n : Nat) : Bool :=
  let src (x : Src) : Bool := match x with
    | .reg k => match r.op with
      | .cmdb _ => decide (k ≤ n) && decide (n < k + 8)
      | .mma _ _ _ _ => k = n
      | _ => k = n
    | _ => false
  src r.srcA || src r.srcB || (r.masked && n = 0) || (r.scaled && n = 1) ||
  match r.op with
  | .sel => n = 0
  | .fma _ => match r.dst with
    | .reg k => k = n
    | _ => false
  | .mma _ _ _ _ => match r.srcB with
    | .reg k => decide (k ≤ n) && decide (n < k + 8)
    | _ => false
  | _ => false

/-- The register a record writes. -/
def VRec.writes (r : VRec) (n : Nat) : Bool :=
  match r.dst with
  | .reg k => k = n
  | _ => false

/-- A reader that may still read elements of groups it has passed, so that a later writer waits for its end. -/
def VRec.readsBack (r : VRec) (n : Nat) : Bool :=
  r.op.whole || (r.scaled && n = 1) ||
  match r.op with
  | .slideUp | .slide1Up => true
  | .store _ _ => r.opTag.subByte
  | _ => false

/-- A VSLIDEUP whose destination is its source reads the elements as they stood before it began (R216). -/
def VRec.aliased (r : VRec) : Bool :=
  match r.op with
  | .slideUp => sameReg r.dst r.srcA
  | _ => false

/-- The registers that two records may meet at. -/
def VRec.regs (r : VRec) (nv : Nat) : List Nat := (List.range nv).filter fun n => r.reads n || r.writes n

/-- A whole-vector record reads a register that an older record writes: it waits until that one has left the queue, since
no state shows a reduction made behind a trapped one (R199, R372; DEDUCED, log 104). -/
def VRec.awaits (w r : VRec) (nv : Nat) : Bool := r.op.whole && (List.range nv).any fun n => r.reads n && w.writes n

/-- The element group of its registers that step k of a record is about: of VGETE and VSETE the one of their element; none
where the step reads and writes no element (R54, R199, R212). -/
def VRec.groupAt (r : VRec) (k : Nat) : Option Nat :=
  match r.op with
  | .gete | .sete => if r.opa = BitVec.allOnes 64 then none else some (r.opa.toNat / r.lanes)
  | .cfg => if r.rezero then some k else none
  | _ => some k

/-- The scoreboard of R54 between an older record of the vector queue and step k of a younger one. -/
def VRec.clears (w r : VRec) (nv k : Nat) : Bool :=
  (w.done && !w.awaits r nv) || (r.groupAt k).isNone || (r.regs nv).all fun n =>
    let behind := !r.aliased && !r.op.whole && !w.op.whole && decide ((r.groupAt k).getD k < w.pi) &&
      !(r.rezero && decide (r.groups ≤ k + 1))
    (!(r.reads n && w.writes n) || behind) &&
    (!(r.writes n && w.reads n) || (behind && !w.readsBack n)) &&
    (!(r.writes n && w.writes n) || behind)

/-- Columns that a matrix record has completed in every row it writes (R277). -/
def VRec.columns (m : VRec) : Nat :=
  match m.op with
  | .mma _ _ _ _ | .mwrow _ => min (32 * m.pi) m.vl
  | _ => 0

/-- The tile a record names. -/
def VRec.tile? (r : VRec) : Option Nat :=
  match r.dst, r.srcA with
  | .tile t _, _ => some t
  | _, .row t _ => some t
  | _, _ => none

/-- The element of a B register, or of vb of MWROW and MADDROW, that column n of a matrix record reads (R281, R283). -/
def VRec.elemOfColumn (m : VRec) (n : Nat) : Nat :=
  match m.op with
  | .mma _ _ _ _ => n * shapeSb m.shape + shapeOb m.shape
  | _ => n

/-- A matrix record reads register n column block by column block: a B register, or vb (R283). -/
def VRec.readsAsB (m : VRec) (n : Nat) : Bool :=
  match m.op, m.srcB with
  | .mma _ _ _ _, .reg k => decide (k ≤ n) && decide (n < k + 8)
  | .mwrow _, .reg k => k = n
  | _, _ => false

/-- The run of elements of its destination that step k of a record writes: first, and the one past the last. -/
def VRec.writeRun (r : VRec) (k : Nat) : Nat × Nat :=
  if r.op.whole || (r.op.single && r.rezero) then (0, 2 ^ 64)
  else if r.op = .sete then (r.opa.toNat, r.opa.toNat + 1)
  else if (r.groupAt k).isNone then (0, 0)
  else (k * r.lanes, if r.rezero && decide (r.groups ≤ k + 1) then 2 ^ 64 else (k + 1) * r.lanes)

/-- Whether a matrix record has read what it needs of a register that step k of a later vector record writes: va once it
has begun, a B register once no column block is left that reads an element of the run, the scales once it has left
(R283, rule 3). -/
def VRec.readPast (m r : VRec) (n k : Nat) : Bool :=
  let run := r.writeRun k
  !(m.scaled && n = 1) && (m.vl = 0 || decide (0 < m.pi) || !(match m.op, m.srcA with
    | .mma _ _ _ _, .reg j => j = n
    | _, _ => false)) &&
  (!m.readsAsB n || !((List.range (m.vl - 32 * m.pi)).any fun j =>
    let e := m.elemOfColumn (32 * m.pi + j)
    decide (run.1 ≤ e) && decide (e < run.2)))

/-- The scoreboard between an older matrix record and step k of a vector record (R209, R283). -/
def VRec.clearsMatrix (m r : VRec) (nv k : Nat) : Bool :=
  (match r.srcA with
    | .row t _ =>
      !(m.tile? = some t && (match m.op with
        | .mst => false
        | _ => true)) || (match m.op with
        | .mma _ _ _ _ | .mwrow _ => decide (min ((k + 1) * r.lanes) r.vl ≤ m.columns)
        | _ => false)
    | _ => true) &&
  (List.range nv).all fun n => !(r.writes n) || m.readPast r n k

/-- Element i of a source (R58, R59, R150, R209). -/
def srcElem (g : Gang) (t : Thread) (x : Src) (tag : Tag) (i : Nat) : BitVec 64 :=
  match x with
  | .none => 0
  | .reg n => (t.vreg n).data.get i
  | .entry id => match g.entry? id with
    | some e => if i < e.count then e.data.get i else zeroOf tag
    | none => zeroOf tag
  | .scalar v => v
  | .row tile m => match g.tiles[tile]? with
    | some x => x.data.get (2048 * m + i)
    | none => 0

/-- mask_bit (R194) for elements below vl. -/
def VRec.active (r : VRec) (t : Thread) (i : Nat) : Bool :=
  decide (i < r.vl) && (!r.masked || ((t.vreg 0).data.get i).getLsbD 0)

/-- The scale code of element i (R73). -/
def VRec.scale (r : VRec) (t : Thread) (i : Nat) : Option Nat :=
  if r.scaled then some (((t.vreg 1).data.get (i / 2 ^ (r.blk + 3))).toNat % 256) else none

/-- Elements of step k. -/
def VRec.elems (r : VRec) (k : Nat) : List Nat :=
  if r.op.whole then List.range r.vl
  else (List.range r.lanes).filterMap fun j => if k * r.lanes + j < r.vl then some (k * r.lanes + j) else none

/-- Whether an entry has delivered what step k needs (R254); VGETE needs the one element it reads (R212). -/
def VRec.entryReady (r : VRec) (g : Gang) (k : Nat) (x : Src) : Bool :=
  match x with
  | .entry id => match g.entry? id with
    | some e =>
      let n := match r.op with
        | .gete => if r.opa = BitVec.allOnes 64 then 0 else r.opa.toNat + 1
        | _ => if r.op.whole then e.count else (k + 1) * r.lanes
      e.cause.isSome || decide (min n e.count ≤ e.prog)
    | none => false
  | _ => true

/-- Whether a record rounds by the Sower (R77). -/
def VRec.stochastic (r : VRec) : Bool :=
  decide (frmRm r.frm = 4) &&
  match r.op with
  | .alu f => aluRounds f r.opTag (r.outTag ≠ r.opTag) r.scaled
  | .fma _ => r.opTag.floating
  | .cvt => r.opTag ≠ .l6
  | _ => false

/-- The value and flags of an active element of an element-wise instruction; `u` is its Sower word, `acc` the running
value of a scan. -/
def State.elemValue (s : State) (gi : Nat) (g : Gang) (t : Thread) (r : VRec) (u : Option Nat)
    (acc : Option (BitVec 64)) (i : Nat) : Rounded :=
  let x := srcElem g t r.srcA r.tagA
  let y := srcElem g t r.srcB r.tagB
  let bit (b : Bool) : BitVec 64 := if b then 1 else 0
  let sc := r.scale t i
  match r.op with
  | .alu f => elemAlu f r.tagA r.tagB r.opTag r.outTag sc r.frm u (x i) (y i)
  | .fma f =>
    let z := match r.dst with
      | .reg n => (t.vreg n).data.get i
      | _ => 0
    elemFma f r.tagA r.tagB r.tagD r.opTag r.outTag sc r.frm u (x i) (y i) z
  | .cmp f =>
    let c := compareVals f (decode r.tagA (x i)) (decode r.tagB (y i))
    (bit c.1, c.2)
  | .mask f =>
    let a := (x i).getLsbD 0
    let b := (y i).getLsbD 0
    (bit (match f with
      | .and => a && b
      | .or => a || b
      | .xor => a != b
      | .andn => a && !b
      | .not => !a), 0)
  | .mset => (1, 0)
  | .vid => (BitVec.ofNat 64 (i % 2 ^ r.opTag.bits), 0)
  | .sel =>
    if ((t.vreg 0).data.get i).getLsbD 0 then operandAt r.tagB r.opTag none r.frm (y i)
    else operandAt r.tagA r.opTag none r.frm (x i)
  | .cvt => elemCvt r.tagA r.opTag sc r.frm u (x i)
  | .resh => (elemResh r.tagA r.opTag (x i), 0)
  | .slideUp =>
    let j := i - r.opa.toNat
    (if r.aliased then ((r.out.find? fun e => e.1 = j).map (·.2)).getD 0 else x j, 0)
  | .slide1Up => (if i = 0 then r.opa else x (i - 1), 0)
  | .slideDn => (if i + r.opa.toNat < r.vl then x (i + r.opa.toNat) else zeroOf r.outTag, 0)
  | .slide1Dn => (if i + 1 = r.vl then r.opa else x (i + 1), 0)
  | .gather =>
    let j := intOf r.tagB (y i)
    (if 0 ≤ j && decide (j < r.vl) then x j.toNat else zeroOf r.outTag, 0)
  | .bcast => (r.opa, 0)
  | .scan f => match acc with
    | none => (x i, 0)
    | some a => foldStep f r.opTag a (x i)
  | .func slot => match coefSlot (s.coefWord gi) slot with
    | some c => elemFunc c (s.coefWord gi) r.tagA (x i)
    | none => (0, 0)
  | _ => (0, 0)

/-- Whether an active element is written at all: VSLIDEUP leaves the elements below the offset (R216). -/
def VRec.writesElem (r : VRec) (i : Nat) : Bool :=
  match r.op with
  | .slideUp => decide (r.opa.toNat ≤ i)
  | _ => true

/-- An element that a step writes: index, value, flags. -/
abbrev Written := List (Nat × BitVec 64 × BitVec 6)

/-- The elements that an element-wise step writes, in ascending order, with the running value of a scan after it. -/
def State.elementWise (s : State) (gi : Nat) (g : Gang) (t : Thread) (r : VRec) (dims : List (BitVec 32)) :
    List Nat → Option (BitVec 64) → Written × Option (BitVec 64)
  | [], acc => ([], acc)
  | i :: is, acc =>
    if (match r.op with
        | .sel => true
        | _ => r.active t i) && r.writesElem i then
      let u := if dims.isEmpty then none else some (sowerPoint dims ((frmSridx r.frm + i) % 2 ^ 32)).toNat
      let v := s.elemValue gi g t r u acc i
      let rest := s.elementWise gi g t r dims is (some v.1)
      ((i, v) :: rest.1, rest.2)
    else s.elementWise gi g t r dims is acc

/-- VCMPRS and VEXPND (R218). -/
def packed (g : Gang) (t : Thread) (r : VRec) : Written :=
  let x := srcElem g t r.srcA r.tagA
  let on := (List.range r.vl).filter fun i => r.active t i
  let z := zeroOf r.outTag
  match r.op with
  | .cmprs => (List.range r.vl).map fun j => (j, (match on[j]? with
      | some i => x i
      | none => z), 0)
  | _ =>
    ((List.range r.vl).foldl (fun (acc : Written × Nat) i =>
      if r.active t i then (acc.1 ++ [(i, x acc.2, 0)], acc.2 + 1) else (acc.1 ++ [(i, z, 0)], acc.2)) ([], 0)).1

/-- VSEND (R217, R136): the higher source index wins. -/
def sent (g : Gang) (t : Thread) (r : VRec) : Written :=
  let x := srcElem g t r.srcA r.tagA
  let y := srcElem g t r.srcB r.tagB
  let moves := (List.range r.vl).filterMap fun i =>
    let j := intOf r.tagB (y i)
    if r.active t i && decide (0 ≤ j) && decide (j < r.vl) then some (j.toNat, x i) else none
  sortBy (·.1) (moves.foldl (fun acc m => acc.filter (fun w => w.1 ≠ m.1) ++ [(m.1, m.2, 0)]) [])

/-- The saliency of a pair of elements under F32 (R213). -/
def saliency (r : VRec) (t : Thread) (a b : BitVec 64) (i : Nat) : Val :=
  let scaled (tag : Tag) (v : Val) : Val := match scaleFor (r.scale t i) tag with
    | some c => scaleBy c false v
    | none => v
  let p := (Val.mul (scaled r.tagA (decode r.tagA a)) (scaled r.tagB (decode r.tagB b))).1
  let q : Val := if p.neg? then p.flip else p
  decode .f32 (roundEven .f32 q).1

/-- Whether a candidate ranks before another: larger saliency first, NaN last, then the lower index (R213). -/
def ranksBefore (x y : Nat × Val) : Bool :=
  match x.2.isNan, y.2.isNan with
  | false, true => true
  | true, false => false
  | true, true => decide (x.1 < y.1)
  | false, false =>
    match Val.compare x.2 y.2 with
    | some .gt => true
    | some .lt => false
    | _ => decide (x.1 < y.1)

/-- VSALSEL (R213). -/
def salient (g : Gang) (t : Thread) (r : VRec) (size k : Nat) : Written :=
  let x := srcElem g t r.srcA r.tagA
  let y := srcElem g t r.srcB r.tagB
  (List.range r.vl).map fun i =>
    let lo := i / size * size
    let cand := ((List.range size).map (lo + ·)).filterMap fun j =>
      if r.active t j then some (j, saliency r t (x j) (y j) j) else none
    let kept := match cand.find? fun c => c.1 = i with
      | some c => decide ((cand.filter fun d => ranksBefore d c).length < k)
      | none => false
    (i, if kept then 1 else 0, 0)

/-- A reduction (R220). -/
def reduced (g : Gang) (t : Thread) (r : VRec) (f : FoldFn) : Rounded :=
  let x := srcElem g t r.srcA r.tagA
  let xs := (List.range r.vl).filterMap fun i =>
    if r.active t i then some (i, reduceElem r.tagA (r.scale t i) (x i)) else none
  sumFixed f r.opTag xs r.opb

/-- The flags that EN enables (R75, R80). -/
def enabled (frm : Word) (fl : BitVec 6) : Bool := decide (frm.toNat / 2 ^ 8 % 32 &&& fl.toNat % 32 ≠ 0)

/-- A short-lived register past its life (R62). -/
def VReg.expired (v : VReg) : Bool := v.short && decide (16 < v.age)

/-- A register a record reads that has expired (R62). -/
def VRec.expired (r : VRec) (t : Thread) : Bool := (List.range t.vregs.length).any fun n => r.reads n && (t.vreg n).expired

/-- Whether the computation of active element i reads an element of its first source (R212, R216, R217). VSEL reads both
sources whatever v0 holds, and VSEND the source element of an index that it drops (DESIGN CHOICE, log 105). -/
def VRec.readsA (r : VRec) (g : Gang) (t : Thread) (i : Nat) : Bool :=
  match r.op with
  | .gete => r.opa ≠ BitVec.allOnes 64
  | .slideUp => decide (r.opa.toNat ≤ i)
  | .slide1Up => decide (0 < i)
  | .slideDn => decide (i + r.opa.toNat < r.vl)
  | .slide1Dn => decide (i + 1 < r.vl)
  | .gather =>
    let j := intOf r.tagB (srcElem g t r.srcB r.tagB i)
    decide (0 ≤ j) && decide (j < r.vl)
  | _ => true

/-- Whether active element i meets an expired register: its first source where the instruction reads one of its elements
for i, and any other register it reads (R62). -/
def VRec.meetsExpired (r : VRec) (g : Gang) (t : Thread) (i : Nat) : Bool :=
  let rest := { r with srcA := .none }
  rest.expired t || (r.readsA g t i && match r.srcA with
    | .reg n => r.expired t && ((t.vreg n).expired || match r.op with
      | .cmdb _ => true
      | _ => false)
    | _ => false)

/-- The lowest element of step k whose reading meets an expired register (R62, R194): the mask is read for every
element, the rest for the active ones. -/
def VRec.sregAt (r : VRec) (g : Gang) (t : Thread) (k : Nat) : Option Nat :=
  if !r.expired t then none
  else
    match r.op with
    | .cfg | .sete | .mset => none
    | .gete => if r.meetsExpired g t r.opa.toNat then some r.opa.toNat else none
    | _ =>
      let maskOut := r.masked && (t.vreg 0).expired
      (r.elems k).find? fun i => maskOut || ((r.active t i || (match r.op with
        | .sel => true
        | _ => false)) && r.meetsExpired g t i)

/-- Change a record of an agent's vector or access queue. -/
def State.modRec (s : State) (a : Agent) (seq : Nat) (f : VRec → VRec) : State :=
  s.modThread a fun t => { t with vq := t.vq.map fun r => if r.seq = seq then f r else r }

/-- Raise a cause at step k of a vector record (R53, R228, R384, R386): the step is left undone, with no element of it or of
a later one, and the stores of the steps before it are performed (R139). -/
def State.raiseVec (s : State) (a : Agent) (r : VRec) (k elem code : Nat) (addr : Word) (acc : Nat) : State :=
  let t := (s.thread? a).getD .empty
  let c : Cause :=
    { code := code, sub := 0, src := match a.role with
        | .hart _ => 1
        | .access => 3
      elem := elem, qdist := r.seq - t.vcp, group := k, seq := r.seq, addr := addr, pc := r.pc,
      info := s.causeInfo a t.dlvl code addr, word := r.word, acc := acc, ord := r.ord }
  let s := (s.modRec a r.seq fun r => { r.afresh with stuck := true }).closeVector a
  let s := s.drainAll a (·.ofVector a) ((s.thread? a).getD .empty).wc.length
  match a.role with
  | .hart _ => s.modThread a fun t => { t with causes := t.causes ++ [c] }
  | .access => s.modThread a fun t => { t with causes := t.causes ++ [c], faulted := true }

/-- Raise FPX at step k: the flags of the groups kept are ORed in (R80). -/
def State.raiseFpx (s : State) (a : Agent) (r : VRec) (k elem : Nat) : State :=
  let s := s.modThread a fun t => { t with fflags := t.fflags ||| r.flags }
  (s.modRec a r.seq fun r => { r with flags := 0 }).raiseVec a r k elem cFPX 0 0

/-- Take the entries a record pops off their queues: it has begun (R197). -/
def Gang.popEntries (g : Gang) (ids : List Nat) : Gang :=
  if ids.isEmpty then g
  else
    { g with
      lq := g.lq.map fun q => q.filter fun id => !ids.contains id
      sq := g.sq.map fun q => q.filter fun id => !ids.contains id }

/-- Zero a run of elements of a tag. -/
def zeroRun (d : Sparse 64) (t : Tag) (lo n : Nat) : Sparse 64 :=
  let d := d.clear lo n
  if t = .l6 then (List.range n).foldl (fun d j => d.set (lo + j) (zeroOf t)) d else d

/-- The data of a register after step k: written elements, and inactive ones where the slot width has changed (R195).
Where it has changed, the elements that an active lane of VSLIDEUP does not write (R216), and those that no active source
of VSEND names (R217), become zero with the inactive ones (DESIGN CHOICE, log 91), and so do the elements from the cut
of a first-fault load up (R229; DESIGN CHOICE, log 129). -/
def VRec.newData (r : VRec) (d : Sparse 64) (k vlmax : Nat) (w : Written) : Sparse 64 :=
  let d :=
    if r.rezero then
      if r.op.whole || r.op.single then zeroRun d r.outTag 0 vlmax
      else
        let d := zeroRun d r.outTag (k * r.lanes) r.lanes
        if r.groups ≤ k + 1 then zeroRun d r.outTag ((k + 1) * r.lanes) (vlmax - (k + 1) * r.lanes) else d
    else d
  w.foldl (fun d x => d.set x.1 x.2.1) d

/-- Commit step k of a record: destination, SHORT, progress index, flags, pops (R53, R62, R195, R197, R254). A step that
puts no element in its destination is no write of it, for SHORT and the age: one with no active element, and a VCFG that
keeps the slot width (DESIGN CHOICE, log 92). -/
def State.commit (s : State) (a : Agent) (r : VRec) (k : Nat) (w : Written) : State :=
  let g := s.gangOf a.gang
  let vlmax := r.lanes * (16384 / (g.nv * g.w))
  let fl := w.foldl (fun f x => f ||| x.2.2) 0
  let n := min ((k + 1) * r.lanes) r.vl
  let s := s.modGang a.gang fun g =>
    let g := if k = 0 then g.popEntries r.pops else g
    match r.dst with
    | .lq _ (some id) => g.modEntry id fun e => { e with
        data := w.foldl (fun d x => d.set x.1 x.2.1) (if r.outTag = .l6 then zeroRun e.data .l6 (k * r.lanes) (n - k * r.lanes) else e.data)
        prog := n }
    | _ => g
  let s := s.modThread a fun t =>
    let t := if r.supp then { t with supp := false } else t
    match r.dst with
    | .reg m => t.modVreg m fun v =>
        let wrote := !w.isEmpty || r.rezero
        { v with
          data := r.newData v.data k vlmax w
          short := if wrote then r.short else v.short
          age := if wrote && !r.wrote then 0 else v.age }
    | _ => t
  s.modRec a r.seq fun r =>
    { r with
      pi := k + 1, done := decide (r.groups ≤ k + 1), flags := r.flags ||| fl, supp := false, wrote := r.wrote || !w.isEmpty
      out := match r.dst with
        | .sq _ => r.out ++ w.map fun x => (x.1, x.2.1)
        | _ => r.out }

/-- The data of a store-queue entry from the elements written (R195). -/
def entryData (t : Tag) (n : Nat) (out : List (Nat × BitVec 64)) : Sparse 64 :=
  out.foldl (fun d x => d.set x.1 x.2) (zeroData t n)

/-- The value that a record writes to its scalar register (R211). -/
def VRec.scalarResult (r : VRec) : Word :=
  match r.op with
  | .mfirst => if r.opb = 0 then BitVec.allOnes 64 else r.opb - 1
  | _ => r.opb

/-- The thread after the scalar thread has been given what a record has to tell it: it need wait no longer. -/
def Thread.answered (t : Thread) (seq : Nat) : Thread := if t.wait = .gd seq then t.wake else t

/-- What a record that is done gives the scalar thread, in no order with the others of its queue (R198): its scalar
register, which no older record writes any more; and vl after a first-fault load (R229). -/
def State.deliver (s : State) (a : Agent) (seq : Nat) : State :=
  s.modThread a fun t =>
    match t.vq.find? fun r => r.seq = seq with
    | none => t
    | some r =>
      if !r.done || r.stuck then t
      else
        match r.dst, r.op with
        | .scalar d, _ =>
          let clear (w : VRec) : VRec :=
            match w.dst with
            | .scalar e => if decide (w.seq ≤ seq) && decide (d = e) then { w with dst := .none } else w
            | _ => w
          ({ t.setReg d r.scalarResult with vq := t.vq.map clear }).answered seq
        | _, .load form arr true =>
          let note (w : VRec) : VRec := if w.seq = seq then { w with op := .load form arr false } else w
          ({ t with vl := r.cut.getD t.vl, vq := t.vq.map note }).answered seq
        | _, _ => t

/-- Complete the oldest record when it is done (R56): its flags, its store-queue entry; none where it cannot complete
yet. A record of length 0 pushes no entry (R196), VID, VMSET and VBCAST among them (DESIGN CHOICE, log 127). -/
def State.completeOldest (s : State) (a : Agent) : Option State :=
  match ((s.thread? a).getD .empty).vq with
  | [] => none
  | r :: rest =>
    if !r.done || r.stuck then none
    else
      let room := match r.dst with
        | .sq n => r.vl = 0 || decide ((((s.gangOf a.gang).sq[n]?).getD []).length < 2)
        | _ => true
      if !room then none
      else
        let n := match r.cut with
          | some c => c
          | none => r.vl
        let s := s.modGang a.gang fun g =>
          let g := { g with ents := g.ents.filter fun e => !r.pops.contains e.id }
          match r.dst with
          | .sq q =>
            if n = 0 then g
            else
              let hart := match a.role with
                | .hart h => h
                | .access => 255
              let e : Entry := ⟨g.entNext, r.outTag, n, n, entryData r.outTag n (r.out.filter fun x => decide (x.1 < n)), false,
                none, none, some ⟨q, hart, r.seq, r.ord, r.pc, r.word⟩⟩
              { g with ents := g.ents ++ [e], entNext := g.entNext + 1, sq := modifyAt g.sq q (· ++ [g.entNext]) }
          | .lq _ (some id) => g.modEntry id fun e => { e with prog := e.count }
          | _ => g
        some (s.modThread a fun t => { t with vq := rest, fflags := t.fflags ||| r.flags })

/-- Complete every record that can. -/
def State.completeAll (s : State) (a : Agent) : Nat → State
  | 0 => s
  | n + 1 =>
    match s.completeOldest a with
    | some s => s.completeAll a n
    | none => s

end Sys2Proof.Machine
end

