-- ==== Sys2Proof/Machine/GroupMem.lean ====
section
/-! DEFINITION. Element groups of the memory forms: order among the memory instructions of a queue, checks and faults,
loads with FF and ARR, stores with their block ages, far gathers, accumulation windows, VLSYNC and VFENCE (R100, R105,
R114 to R118, R121, R123, R128 to R130, R134 to R136, R226 to R240, R259, R260). -/

namespace Sys2Proof.Machine

/-- Memory instructions of the vector side, for their order (R114 to R118). -/
def VOp.memory : VOp → Bool
  | .load _ _ _ | .store _ _ | .win | .wacc | .wmerge => true
  | _ => false

/-- Low and high halves of a dword. -/
def lo32 (w : Word) : Nat := w.toNat % 2 ^ 32
/-- Bits [63:32]. -/
def hi32 (w : Word) : Nat := w.toNat / 2 ^ 32
/-- A half as a signed number. -/
def i32 (n : Nat) : Int := (BitVec.ofNat 32 n).toInt

/-- The fields of a copy command (R243). -/
def copyFields (w : List Word) : CopyCmd :=
  let d (k : Nat) : Word := (w[k]?).getD 0
  { src := d 0, dst := d 1, rowBytes := lo32 (d 2), rows := hi32 (d 2), sstride := i32 (lo32 (d 3)),
    dstride := i32 (hi32 (d 3)), nt := (d 4).getLsbD 0, fill := (d 4).getLsbD 1, sysDone := (d 4).getLsbD 2,
    done := d 5, doneVal := d 6 }

/-- The bytes from the first row of a copy side to its last (R246). -/
def rowsRange (base : Word) (rowBytes rows : Nat) (stride : Int) : Nat × Nat :=
  let first : Int := base.toNat
  let last := first + (rows - 1 : Nat) * stride
  let lo := (min first last).toNat
  (lo, ((max first last) + rowBytes).toNat - lo)

/-- The eight dwords of command j (R242). -/
def commandWords (t : Thread) (r : VRec) (j : Nat) : List Word :=
  let base := match r.srcA with
    | .reg n => n
    | _ => 0
  (List.range 8).map fun w => (t.vreg (base + w)).data.get j

/-- A run of virtual bytes that something may touch, none where it is not known, and whether it writes there. -/
abbrev Span := Option (Nat × Nat) × Bool

/-- Older records of a queue. -/
def Thread.older (t : Thread) (r : VRec) : List VRec := t.vq.filter fun w => decide (w.seq < r.seq)

/-- Every older record that writes register n is done. -/
def Thread.settledReg (t : Thread) (r : VRec) (n : Nat) : Bool := (t.older r).all fun w => w.done || !w.writes n

/-- Whether the index vector of a record is there, for all its elements. -/
def Thread.indexKnown (t : Thread) (g : Gang) (r : VRec) : Bool :=
  match r.srcA with
  | .reg n => t.settledReg r n
  | .entry id => match g.entry? id with
    | some e => decide (e.count ≤ e.prog)
    | none => true
  | _ => true

/-- Elements of a record from one on that may still be accessed: active as far as is known, and for a load not performed
ahead of its step. -/
def Thread.left (t : Thread) (r : VRec) (lo : Nat) : List Nat :=
  let known := !r.masked || t.settledReg r 0
  ((List.range r.vl).drop lo).filter fun i => (!known || r.active t i) && !(r.early.any fun e => e.1 = i)

/-- The bytes that some elements of a memory form touch; none where they depend on an index that is not there. Of a far
gather it is the range of its array. -/
def Thread.elemRuns (t : Thread) (g : Gang) (r : VRec) (form : AddrForm) (is : List Nat) : List (Option (Nat × Nat)) :=
  let one (i : Nat) : Option (Nat × Nat) :=
    let x := intOf r.tagA (srcElem g t r.srcA r.tagA i)
    let (va, n) := match r.op with
      | .store _ _ => if r.opTag = Tag.l6 then
          (r.opa + BitVec.ofNat 64 (packedBit Tag.l6 (i / 128 * 128 + i % 32) / 8), 3)
        else elemSpan form r.opTag r.opa r.opb i x
      | _ => elemSpan form r.opTag r.opa r.opb i x
    some (va.toNat, n)
  match form with
  | .far n => [some (r.opa.toNat, n * r.opTag.width)]
  | .indexed => if is.isEmpty then [] else if t.indexKnown g r then is.map one else [none]
  | _ => is.map one

/-- The runs of bytes that some elements of a record touch, or what it does as a whole. -/
def Thread.spans (t : Thread) (g : Gang) (r : VRec) (is : List Nat) : List Span :=
  let area : Nat × Nat := (windowBase + winArea r.opb, 4096 * ((winSize r.opb + 4095) / 4096))
  match r.op with
  | .load form _ _ => (t.elemRuns g r form is).map fun x => (x, false)
  | .store form _ => (t.elemRuns g r form is).map fun x => (x, true)
  | .win | .wacc => [(some area, true)]
  | .wmerge => [(some area, true), (some (r.opa.toNat, winLen r.opb * (winTag r.opb).width), true)]
  | _ => []

/-- The runs of bytes that a record has still to touch. -/
def Thread.spansLeft (t : Thread) (g : Gang) (r : VRec) : List Span := t.spans g r (t.left r (r.pi * r.lanes))

/-- Two runs may have a byte in common. -/
def Span.meets (x y : Span) : Bool :=
  match x.1, y.1 with
  | some (a, n), some (b, m) => decide (a < b + m) && decide (b < a + n)
  | _, _ => true

/-- Two runs may conflict: they may share a sector, and one of them writes it (R129). -/
def Span.conflicts (x y : Span) : Bool :=
  (x.2 || y.2) && match x.1, y.1 with
    | some (a, n), some (b, m) => overlaps a n b m
    | _, _ => true

/-- Some of two sets of runs may conflict. -/
def spansConflict (xs ys : List Span) : Bool := xs.any fun x => ys.any x.conflicts

/-- The runs of a transfer with a read range and two write ranges (R128). -/
def xferSpans (rd wr wr2 : Option (Nat × Nat)) : List Span :=
  (rd.map fun x => (some x, false)).toList ++ (wr.toList ++ wr2.toList).map fun x => (some x, true)

/-- The runs that the copies a CMDB has still to issue will touch: unknown while its command registers or its mask have
still to be written, and for the commands of another engine until they are issued (log 3). -/
def Thread.cmdbSpans (t : Thread) (w : VRec) : List Span :=
  let known := (t.older w).all fun v => v.done ||
    !((List.range 64).any fun n => v.writes n && (decide (n = 0 ∧ w.masked) || match w.srcA with
      | .reg b => decide (b ≤ n) && decide (n < b + 8)
      | _ => false))
  match w.op with
  | .cmdb .copy =>
    if known then
      (((List.range w.vl).drop (w.pi * w.lanes + w.out.length)).filter fun j =>
        !w.masked || ((t.vreg 0).data.get j).getLsbD 0).flatMap fun j =>
        let c := copyFields (commandWords t w j)
        xferSpans (if c.fill then none else some (rowsRange c.src c.rowBytes c.rows c.sstride))
          (some (rowsRange c.dst c.rowBytes c.rows c.dstride)) none
    else [(none, true)]
  | _ => [(none, true)]

/-- Whether an older record that is not complete holds up accesses of a younger one to some runs of bytes, whatever their
slices: VLSYNC those of lane-group slices, and not the transfers, which R118 leaves out though R239 speaks of every later
vector-side access (DEDUCED, log 121), and VFENCE by its kind (R122); commands, far gathers and merges where they may
conflict, as transfers do (R129, R130); a window's records where their areas meet (R134, R235). -/
def Thread.holdsUp (t : Thread) (g : Gang) (w r : VRec) (mine : List Span) : Bool :=
  match w.op, r.op with
  | .lsync, .load (.far _) _ _ | .lsync, .wmerge => false
  | .lsync, _ => true
  | .fence _ kind, .load _ _ _ => decide (kind ≠ 2)
  | .fence _ _, _ => true
  | .cmdb _, _ => spansConflict (t.cmdbSpans w) mine
  | .load (.far _) _ _, _ | _, .load (.far _) _ _ | .win, _ | _, .win | .wmerge, _ | _, .wmerge | .wacc, .wacc =>
    spansConflict (t.spansLeft g w) mine
  | _, _ => false

/-- Older matrix records. -/
def Thread.olderMatrix (t : Thread) (r : VRec) : List VRec := t.mq.filter fun m => decide (m.ord < r.ord)

/-- A tile move. -/
def VRec.moves (m : VRec) : Bool :=
  match m.op with
  | .mld | .mst => true
  | _ => false

/-- First byte and length of the region of a tile move (R286). -/
def VRec.moveRange (m : VRec) : Nat × Nat :=
  (m.opa.toNat, slotOff (m.opb.getLsbD 63) (m.opb.toNat % 2 ^ 32) m.mrows (m.vl - 1) + 8)

/-- The runs of bytes of a tile move: MST writes its region, MLD reads it (R286). -/
def VRec.moveSpans (m : VRec) : List Span :=
  match m.op with
  | .mst => [(some m.moveRange, true)]
  | .mld => [(some m.moveRange, false)]
  | _ => []

/-- The slice of element i (R114, R253). -/
def State.sliceOf (s : State) (a : Agent) (r : VRec) (i : Nat) : Nat :=
  let ls := match a.role with
    | .hart h => s.lanesOf a.gang h
    | .access => s.accessLanes a.gang
  match ls[i % r.lanes / 4]? with
  | some k => 1 + k
  | none => 0

/-- The elements of an older load, store or update that may still make an access of a slice. -/
def State.pendingIn (s : State) (a : Agent) (w : VRec) (slice : Nat) : List Nat :=
  if w.done then []
  else (((s.thread? a).getD .empty).left w (w.pi * w.lanes)).filter fun i => s.sliceOf a w i = slice

/-- Whether the accesses of a younger load, store or update to some runs of bytes in a slice come after what an older record
has still to do in it: any access of a load or an update; of a store, unless the younger is a load that reads no byte of it
(R116). -/
def State.sliceBlocked (s : State) (a : Agent) (w r : VRec) (slice : Nat) (mine : List Span) : Bool :=
  let theirs := s.pendingIn a w slice
  !theirs.isEmpty && match w.op, r.op with
    | .load (.far _) _ _, _ | _, .load (.far _) _ _ | _, .win | _, .wmerge => false
    | .store _ _, .load _ _ _ =>
      (((s.thread? a).getD .empty).spans (s.gangOf a.gang) w theirs).any fun x => mine.any x.meets
    | .load _ _ _, _ | .store _ _, _ | .wacc, _ => true
    | _, _ => false

/-- Whether the accesses of some elements of a memory record have to wait for older records (R115 to R118, R288): loads and
stores are ordered slice by slice, and not between slices (R117). An element group is performed or kept as a whole (R53,
R228, R383), so that the group of a store waits while one of its elements does. -/
def State.memBlocked (s : State) (a : Agent) (r : VRec) (is : List Nat) : Bool :=
  let t := (s.thread? a).getD .empty
  let g := s.gangOf a.gang
  let mine := t.spans g r is
  let slices := is.foldl (fun acc i => if acc.contains (s.sliceOf a r i) then acc else acc ++ [s.sliceOf a r i]) []
  (t.older r).any (fun w => !w.done && (t.holdsUp g w r mine || slices.any fun x =>
    s.sliceBlocked a w r x (t.spans g r (is.filter fun i => s.sliceOf a r i = x)))) ||
    (t.olderMatrix r).any fun m => m.moves && spansConflict m.moveSpans mine

/-- The slices of the active elements of step k. -/
def State.stepSlices (s : State) (a : Agent) (r : VRec) (k : Nat) : List Nat :=
  let t := (s.thread? a).getD .empty
  ((r.elems k).filter fun i => r.active t i).foldl (fun acc i =>
    let x := s.sliceOf a r i
    if acc.contains x then acc else acc ++ [x]) []

/-- What a step of a memory record comes to. -/
inductive MemStep where
  | ok (s : State) (w : Written)
  /-- FF: elements from this one on are left alone (R229). -/
  | cut (s : State) (w : Written) (i : Nat)
  /-- A cause has been raised, or a stall: the step is not performed. -/
  | stop (s : State)
  deriving Repr

/-- Sectors in a row of a copy. -/
def CopyCmd.perRow (c : CopyCmd) : Nat := c.rowBytes / 32

/-- The place of the destination sector at a virtual address among those of a copy into the window; none where the copy
does not write it. -/
def CopyCmd.ordinal (c : CopyCmd) (va : Nat) : Option Nat :=
  let d := va - c.dst.toNat
  let ρ := if c.rows ≤ 1 then 0 else d / c.dstride.toNat
  let σ := (d - ρ * c.dstride.toNat) / 32
  if c.dst.toNat ≤ va && decide (ρ < c.rows) && decide (σ < c.perRow) then some (ρ * c.perRow + σ) else none

/-- Sectors of a copy that have landed: those before ROWDONE and SECTDONE, and those made ahead in other banks (R104). -/
def Xfer.landed (x : Xfer) (c : CopyCmd) (o : Nat) : Bool := decide (o < x.row * c.perRow + x.sect) || x.ahead.contains o

/-- Whether the bytes [va, va + n) of a copy's destination have arrived (R104, R105). -/
def Xfer.arrived (x : Xfer) (c : CopyCmd) (va n : Nat) : Bool :=
  (List.range ((va + n - 1) / 32 + 1 - va / 32)).all fun i =>
    match c.ordinal (32 * (va / 32 + i)) with
    | some o => x.landed c o
    | none => true

/-- The transfer that an element access has to wait for (R105, R129). -/
def Thread.holder (t : Thread) (va n : Nat) (writes arr : Bool) : Option Xfer :=
  t.xfers.find? fun x => x.conflicts va n writes &&
    !(arr && match x.kind with
      | .copy c => x.arrived c va n
      | _ => false)

/-- Raise the cause of a stopped transfer at the vector instruction that waits for it (R244). -/
def State.raiseHeld (s : State) (a : Agent) (r : VRec) (x : Xfer) : State :=
  let c := s.xferCause a x r.ord
  let s := s.modRec a r.seq fun r => { r with stuck := true }
  s.modThread a fun t =>
    { t.tellXfer x with
      causes := t.causes ++ [c]
      faulted := t.faulted || match a.role with
        | .access => true
        | .hart _ => false }

/-- Stall at a transfer, or raise the cause that has stopped it. -/
def State.waitFor (s : State) (a : Agent) (r : VRec) (x : Xfer) : State := if x.tells then s.raiseHeld a r x else s

/-- The address of element 0 of a form with an index vector (R94). -/
def State.indexedFirst (s : State) (a : Agent) (r : VRec) : Word :=
  let t := (s.thread? a).getD .empty
  r.opa + BitVec.ofInt 64 (intOf r.tagA (srcElem (s.gangOf a.gang) t r.srcA r.tagA 0))

/-- Whether the window decides the form: element 0 of it lies there (R94). An indexed form keeps the answer in `opb`
from its first step. -/
def State.windowed (s : State) (a : Agent) (r : VRec) (form : AddrForm) : Bool :=
  match form with
  | .indexed =>
    if r.pi = 0 then
      let va := s.indexedFirst a r
      inWindow va.toNat && !tooWide va
    else r.opb = 1
  | .far _ => false
  | _ => inWindow r.opa.toNat && !tooWide r.opa

/-- The level at which a vector record's accesses are checked: its thread's dispatch level, since no record runs while
the queues are frozen (R384, R412). -/
def State.vecLevel (s : State) (a : Agent) : Nat := ((s.thread? a).getD .empty).dlvl

/-- The causes that FF keeps from being raised (R229). -/
def ffCause (code : Nat) : Bool := code = cXLAT || code = cPROT || code = cSPRANGE || code = cSTALE

/-- A run of bytes within sectors (R121): offset, size, value. -/
def sectorPieces (va n v : Nat) : List (Nat × Nat × Nat) :=
  let head := 32 - va % 32
  if n ≤ head then [(0, n, v)] else [(0, head, v % 256 ^ head), (head, n - head, v / 256 ^ head)]

/-- What the load of one element comes to: its value, a cause, a transfer to wait for, or a wait. -/
inductive ElemLoad where
  | got (s : State) (v : Nat)
  | fails (e : MemErr)
  | behind (x : Xfer)
  | wait (s : State)
  deriving Repr

/-- Load runs of bytes, each within a sector, in ascending order (R105, R121, R129, R228). -/
def State.loadRuns (s : State) (a : Agent) (slice : Nat) (arr first : Bool) (va : Word) (al : Nat) :
    List (Nat × Nat × Nat) → Nat → Nat → ElemLoad
  | [], _, v => .got s v
  | (off, n, _) :: xs, shift, v =>
    match s.place a (s.vecLevel a) .read first (va + BitVec.ofNat 64 off) n al with
    | .error e => .fails e
    | .ok (p, s) =>
      match ((s.thread? a).getD .empty).holder (va.toNat + off) n false arr with
      | some x => .behind x
      | none =>
        match s.unreadable a.gang p n with
        | some c => .fails ⟨c, va + BitVec.ofNat 64 off⟩
        | none =>
          let s := s.modThread a (·.closeSlice slice)
          match s.loadAt a slice p n with
          | none => .wait s
          | some u => (s.noteRead a p n).loadRuns a slice arr first va al xs (shift + 8 * n) (v + u * 2 ^ shift)

/-- The bits of a packed element in the bytes that hold it, as a slot holds them (R69, R70). -/
def unpacked (t : Tag) (i v : Nat) : BitVec 64 :=
  let x := v / 2 ^ (packedBit t i % 8) % 2 ^ t.bits
  if t = .i4 then ofInt .i4 (intOf .i4 (BitVec.ofNat 64 x)) else BitVec.ofNat 64 x

/-- Load element i of a record; `first` is whether the form is one of the window. -/
def State.loadElem (s : State) (a : Agent) (r : VRec) (form : AddrForm) (arr first : Bool) (i : Nat) : ElemLoad :=
  let t := (s.thread? a).getD .empty
  let x := intOf r.tagA (srcElem (s.gangOf a.gang) t r.srcA r.tagA i)
  let (va, n) := elemSpan form r.opTag r.opa r.opb i x
  let al := if r.opTag.subByte then 1 else n
  let runs := if r.opTag.subByte then sectorPieces va.toNat n 0 else [(0, n, 0)]
  s.loadRuns a (s.sliceOf a r i) arr first va al runs 0 0

/-- The value of a loaded element from the bytes that hold it. -/
def VRec.elemOf (r : VRec) (i v : Nat) : BitVec 64 :=
  if r.opTag.subByte then unpacked r.opTag i v else BitVec.ofNat 64 v

/-- Loading the active elements of a step (R228, R230); those performed ahead of it keep the value they took (R117). -/
def State.loadElems (s : State) (a : Agent) (r : VRec) (form : AddrForm) (arr ff : Bool) (k : Nat) (first : Bool) :
    List Nat → Written → MemStep
  | [], w => .ok s w.reverse
  | i :: is, w =>
    if !r.active ((s.thread? a).getD .empty) i then s.loadElems a r form arr ff k first is w
    else
      match r.early.find? fun e => e.1 = i with
      | some e => s.loadElems a r form arr ff k first is ((i, e.2, 0) :: w)
      | none =>
        match s.loadElem a r form arr first i with
        | .fails e =>
          if ff && decide (0 < i) && ffCause e.code then .cut s w.reverse i
          else .stop (s.raiseVec a r k i e.code e.addr 0)
        | .behind x => .stop (s.waitFor a r x)
        | .wait s => .stop s
        | .got s v => s.loadElems a r form arr ff k first is ((i, r.elemOf i v, 0) :: w)

/-- Element 0 of a unit or strided window form lies wholly in an allocation, whether or not it is masked off (R98). Of an
indexed form a masked-off element is asked nothing (DEDUCED, log 106). -/
def State.firstInside (s : State) (a : Agent) (r : VRec) (form : AddrForm) : Bool :=
  let (va, n) := elemSpan form r.opTag r.opa r.opb 0 0
  let off := va.toNat - windowBase
  form.hasIndex || !(inWindow va.toNat && !tooWide va) ||
    match (s.gangOf a.gang).bounds off with
    | some (lo, len) => decide (off + n ≤ lo + len)
    | none => false

/-- The checks made once, at the first step of a memory form (R94, R98, R227). That a packed form starts at a multiple of
32 is asked of the instruction before anything of an element, also where element 0 is masked off (R227; DESIGN CHOICE,
log 128). Element 0 of a unit or strided window form that lies in no allocation meets the checks of R228 in their order
where it is active, and SPRANGE where it is masked off (DEDUCED, log 106). -/
def State.memFirst (s : State) (a : Agent) (r : VRec) (form : AddrForm) (acc : Nat) : MemStep :=
  if r.opTag.subByte && decide (r.opa.toNat % 32 ≠ 0) then .stop (s.raiseVec a r 0 0 cALIGN r.opa acc)
  else if !s.firstInside a r form then
    let on := r.active ((s.thread? a).getD .empty) 0
    let code :=
      if on && !r.opTag.subByte && decide (r.opa.toNat % r.opTag.width ≠ 0) then cALIGN
      else if on && decide (windowBase + 0x3040000 ≤ r.opa.toNat) then cPROT
      else cSPRANGE
    .stop (s.raiseVec a r 0 0 code r.opa acc)
  else
    match form with
    | .indexed =>
      let win : Word := if s.windowed a r form then 1 else 0
      .ok (s.modRec a r.seq fun r => { r with opb := win }) []
    | _ => .ok s []

/-- The record of an agent with a sequence number, after a change. -/
def State.recNow (s : State) (a : Agent) (r : VRec) : VRec :=
  (((s.thread? a).getD .empty).vq.find? fun w => w.seq = r.seq).getD r

/-- The entry of a load queue that an access form fills: pushed when the form begins, if there is room (R254); none
stalls. -/
def State.beginEntry (s : State) (a : Agent) (r : VRec) : Option State :=
  match r.dst with
  | .lq q none =>
    let g := s.gangOf a.gang
    if decide (2 ≤ ((g.lq[q]?).getD []).length) || g.bound.contains q then none
    else
      let e : Entry := ⟨g.entNext, r.outTag, r.vl, 0, zeroData r.outTag r.vl, false, none, none, none⟩
      let s := s.modGang a.gang fun g =>
        { g with ents := g.ents ++ [e], entNext := g.entNext + 1, lq := modifyAt g.lq q (· ++ [e.id]) }
      some (s.modRec a r.seq fun r => { r with dst := .lq q (some e.id) })
  | _ => some s

/-- A step of a load (R229, R230). -/
def State.loadStep (s : State) (a : Agent) (r : VRec) (form : AddrForm) (arr ff : Bool) (k : Nat) : State :=
  let first := if k = 0 then s.memFirst a r form 0 else .ok s []
  match first with
  | .stop s | .cut s _ _ => s
  | .ok s _ =>
    let r := s.recNow a r
    match s.loadElems a r form arr ff k (s.windowed a r form) (r.elems k) [] with
    | .stop s => s
    | .ok s w => s.commit a r k w
    | .cut s w i =>
      (s.commit a { r with vl := i } k w).modRec a r.seq fun r => { r with done := true, cut := some i }

/-- The elements that one access takes with element i of a plain load: those of its slice and group that follow it, as
long as they lie in its sector (R121). -/
def State.oneAccess (s : State) (a : Agent) (r : VRec) (form : AddrForm) (i : Nat) : List Nat :=
  let t := (s.thread? a).getD .empty
  let sector (j : Nat) : Option Nat :=
    let x := intOf r.tagA (srcElem (s.gangOf a.gang) t r.srcA r.tagA j)
    let (va, n) := elemSpan form r.opTag r.opa r.opb j x
    if (va.toNat + n - 1) / 32 = va.toNat / 32 then some (va.toNat / 32) else none
  let rest := (r.elems (i / r.lanes)).filter fun j => decide (i < j) && r.active t j && s.sliceOf a r j = s.sliceOf a r i
  i :: rest.takeWhile fun j => (sector i).isSome && sector j = sector i

/-- The values of elements loaded at one instant; none where one of them cannot be taken (R121). -/
def State.takeElems (s : State) (a : Agent) (r : VRec) (form : AddrForm) (arr : Bool) :
    List Nat → Option (List (Nat × BitVec 64) × State)
  | [] => some ([], s)
  | i :: is =>
    match s.loadElem a r form arr (s.windowed a r form) i with
    | .got s v => (s.takeElems a r form arr is).map fun x => ((i, r.elemOf i v) :: x.1, x.2)
    | _ => none

/-- A load element performed ahead of its step, with those of the same access (R115, R117, R121): its own slice allows it,
what it reads to form its address is there, and it meets no cause. -/
def State.loadEarly (s : State) (a : Agent) (seq i : Nat) : State :=
  let t := (s.thread? a).getD .empty
  let g := s.gangOf a.gang
  match t.vq.find? fun r => r.seq = seq with
  | none => s
  | some r =>
    match r.op with
    | .load form arr _ =>
      let k := i / r.lanes
      let reads := { r with dst := .none }
      let slice := s.sliceOf a r i
      let sources := [0, k].all fun j => (t.older r).all (fun w => w.clears reads g.nv j) && r.entryReady g j r.srcA
      let mine := (List.range i).drop (r.pi * r.lanes)
      let behind := mine.any fun j =>
        s.sliceOf a r j = slice && r.active t j && !(r.early.any fun e => e.1 = j)
      let again := match form with
        | .far _ => true
        | _ => false
      let young := r.masked && (t.vreg 0).expired
      if again || r.done || r.stuck || decide (k < r.pi) || decide (r.vl ≤ i) || !sources || !r.active t i || behind ||
          young || r.meetsExpired g t i || (r.early.any fun e => e.1 = i) || s.memBlocked a r [i] ||
          (r.opTag.subByte && decide (r.opa.toNat % 32 ≠ 0)) || !s.firstInside a r form then s
      else
        match s.takeElems a r form arr (s.oneAccess a r form i) with
        | some (vs, s) => s.modRec a r.seq fun r => { r with early := r.early ++ vs }
        | none => s
    | _ => s

/-- Whether every store of an agent that touches a run of virtual bytes is performed (R130): one that is held, once the
gang sees it (R137). -/
def State.storesClear (s : State) (a : Agent) (va n : Nat) : Bool :=
  !(((s.thread? a).getD .empty).wc.any fun e => overlaps va n (32 * e.vsec) 32 && !s.shownHeld a.gang e)

/-- The first byte of a run that no page maps, page by page (R259). -/
def State.unmapped (s : State) (a : Agent) (va : Nat) : Nat → Option Nat
  | 0 => none
  | n + 1 =>
    if inWindow va || decide (2 ^ 52 ≤ va) then (if 2 ^ 52 ≤ va then some va else s.unmapped a (va / 65536 * 65536 + 65536) n)
    else
      match s.translate a (s.vecLevel a) .read va with
      | .error c => if c = cXLAT then some va else s.unmapped a (va / 65536 * 65536 + 65536) n
      | .ok _ => s.unmapped a (va / 65536 * 65536 + 65536) n

/-- The stack that a run of bytes lies in wholly, page by page (R259). -/
def State.oneStack (s : State) (a : Agent) (va last : Nat) (stack : Option Nat) : Nat → Bool
  | 0 => true
  | n + 1 =>
    if last < va then true
    else if inWindow va then false
    else
      match s.translate a (s.vecLevel a) .read va with
      | .error _ => false
      | .ok (pa, _) =>
        match regionOf pa with
        | some (.hbm q) =>
          (match stack with
            | none => true
            | some p => p = q) && s.oneStack a (va / 65536 * 65536 + 65536) last (some q) n
        | _ => false

/-- A far gather's range has been translated before: it runs again after a halt (R416). Bit 63 of the kept descriptor, which
the descriptor itself leaves zero, notes it. -/
def VRec.translated (r : VRec) : Bool := r.opb.getLsbD 63

/-- The first byte of a run of pages that does not lie in one stack with those before it. -/
def State.firstOutside (s : State) (a : Agent) (base last pages : Nat) : Nat :=
  match (List.range pages).find? fun p => !s.oneStack a base (min last ((base / 65536 + p) * 65536 + 65535)) none pages with
  | some p => max base ((base / 65536 + p) * 65536)
  | none => base

/-- The checks of R259 after the push: code and address of the first that fails. PROT names the base (log 36), and at a later
translation the first failing byte (R416). -/
def State.farCheck (s : State) (a : Agent) (r : VRec) (nelem : Nat) : Option (Nat × Word) :=
  let base := r.opa.toNat
  let n := nelem * r.opTag.width
  let pages := (base + n - 1) / 65536 + 1 - base / 65536
  if base % r.opTag.width ≠ 0 then some (cALIGN, r.opa)
  else
    match s.unmapped a base pages with
    | some va => some (cXLAT, BitVec.ofNat 64 va)
    | none =>
      if s.oneStack a base (base + n - 1) none pages then none
      else some (cPROT, if r.translated then BitVec.ofNat 64 (s.firstOutside a base (base + n - 1) pages) else r.opa)

/-- The physical address of each page of a range, translated once (R416). -/
def State.farPages (s : State) (a : Agent) (page : Nat) : Nat → List Nat × State
  | 0 => ([], s)
  | n + 1 =>
    let (pa, s) := match s.translate a (s.vecLevel a) .read (65536 * page) with
      | .ok (pa, s) => (pa, s)
      | .error _ => (0, s)
    let (ps, s) := s.farPages a (page + 1) n
    (pa :: ps, s)

/-- The elements of a far gather's step, read through its range entry, as the gang sees them (R137, R260, R416). -/
def State.farElems (s : State) (a : Agent) (r : VRec) (nelem k : Nat) (pages : List Nat) : List Nat → Written → MemStep
  | [], w => .ok s w.reverse
  | i :: is, w =>
    let t := (s.thread? a).getD .empty
    if !r.active t i then s.farElems a r nelem k pages is w
    else
      let j := intOf r.tagA (srcElem (s.gangOf a.gang) t r.srcA r.tagA i)
      let va := elemAddr (.far nelem) r.opa 0 r.opTag.width 0 j
      if j < 0 || decide ((nelem : Int) ≤ j) then .stop (s.raiseVec a r k i cPROT va 0)
      else
        let pa := (pages[va.toNat / 65536 - r.opa.toNat / 65536]?).getD 0 + va.toNat % 65536
        match s.unreadable a.gang (.mem pa) r.opTag.width with
        | some c => .stop (s.raiseVec a r k i c va 0)
        | none =>
          if s.training pa then .stop s
          else
            (s.noteRead a (.mem pa) r.opTag.width).farElems a r nelem k pages is
              ((i, BitVec.ofNat 64 (s.seenAt a (.mem pa) r.opTag.width), 0) :: w)

/-- The range entry that a far gather holds. -/
def Thread.farEntry (t : Thread) (r : VRec) : Option (List Nat) :=
  t.xfers.findSome? fun x => match x.kind with
    | .far pages => if x.seq = r.seq then some pages else none
    | _ => none

/-- A step of a far gather (R259, R260, R416): its first takes an entry of the interlock table, with the translation of
its range, and its last frees it. -/
def State.farStep (s : State) (a : Agent) (r : VRec) (nelem k : Nat) : State :=
  let t := (s.thread? a).getD .empty
  let n := nelem * r.opTag.width
  let go (s : State) (pages : List Nat) : State :=
    match s.farElems a r nelem k pages (r.elems k) [] with
    | .stop s | .cut s _ _ => s
    | .ok s w =>
      let s := s.commit a r k w
      if r.groups ≤ k + 1 then
        s.modThread a fun t => { t with xfers := t.xfers.filter fun x => !(x.seq = r.seq && match x.kind with
          | .far _ => true
          | _ => false) }
      else s
  match t.farEntry r with
  | some pages => go s pages
  | none =>
    match s.farCheck a r nelem with
    | some (c, va) => s.raiseVec a r k (k * r.lanes) c va 0
    | none =>
      match t.holder r.opa.toNat n false false with
      | some x => s.waitFor a r x
      | none =>
        if 16 ≤ t.xfers.length then s
        else if !s.storesClear a r.opa.toNat n then s.modThread a Thread.closeAll
        else
          let lo := r.opa.toNat / 65536
          let (pages, s) := s.farPages a lo ((r.opa.toNat + n - 1) / 65536 + 1 - lo)
          let x := Xfer.new (.far pages) r.seq r.pc r.word 0 (some (r.opa.toNat, n)) none none r.epoch
          go ((s.modRec a r.seq fun r => { r with opb := r.opb ||| 0x8000000000000000#64 }).modThread a fun t =>
            { t with xfers := t.xfers ++ [x] }) pages

/-- One piece to be stored: element, address, size, value. -/
abbrev Piece := Nat × Word × Nat × Nat

/-- The first element of the byte, or of the L6 24-bit group, that holds a packed element (R71, R72), and how many it holds. -/
def VRec.container (r : VRec) (i : Nat) : Nat × Nat :=
  if r.opTag = .l6 then (i / 128 * 128 + i % 32, 4) else (i / 64 * 64 + i % 32, 2)

/-- The bytes of a packed store that step k writes (R227): containers of its active elements, with every element of
groups up to k that is active and the zero of the tag elsewhere. A piece stands under its lowest active element of the
step. -/
def packedPieces (g : Gang) (t : Thread) (r : VRec) (k : Nat) : List Piece :=
  let on := (r.elems k).filter fun i => r.active t i
  let (unit, size) := if r.opTag = .l6 then (4, 3) else (2, 1)
  let first (i : Nat) : Nat := (r.container i).1
  let firsts := on.foldl (fun acc i => if acc.contains (first i) then acc else acc ++ [first i]) []
  firsts.map fun f =>
    let lowest := (on.find? fun i => first i = f).getD f
    let value := (List.range unit).foldr (fun q v =>
      let e := f + 32 * q
      let x := if r.active t e && decide (e < (k + 1) * r.lanes) then srcElem g t r.srcB r.tagB e else zeroOf r.opTag
      x.toNat % 2 ^ r.opTag.bits + 2 ^ r.opTag.bits * v) 0
    (lowest, r.opa + BitVec.ofNat 64 (packedBit r.opTag f / 8), size, value)

/-- The pieces of an ordinary store's step. -/
def plainPieces (g : Gang) (t : Thread) (r : VRec) (form : AddrForm) (k : Nat) : List Piece :=
  ((r.elems k).filter fun i => r.active t i).map fun i =>
    let x := intOf r.tagA (srcElem g t r.srcA r.tagA i)
    (i, elemAddr form r.opa r.opb r.opTag.width i x, r.opTag.width, (srcElem g t r.srcB r.tagB i).toNat)

/-- A piece cut at sectors (R121). -/
def cutPiece (x : Piece) : List Piece :=
  (sectorPieces x.2.1.toNat x.2.2.1 x.2.2.2).map fun y => (x.1, x.2.1 + BitVec.ofNat 64 y.1, y.2.1, y.2.2)

/-- Address generation of a store's step: every piece is checked before any is stored (R228). The piece of an L6 element is
its whole 24-bit group (R227), so that one whose group runs past the end of the allocation that holds the element raises
SPRANGE, or writes the next allocation (DESIGN CHOICE, log 117). -/
def State.locatePieces (s : State) (a : Agent) (r : VRec) (k : Nat) (first : Bool) :
    List Piece → Except State (List (Piece × Place) × State)
  | [] => .ok ([], s)
  | x :: xs =>
    let (i, va, n, _) := x
    match s.place a (s.vecLevel a) .write first va n (if r.opTag.subByte then 1 else n) with
    | .error e => .error (s.raiseVec a r k i e.code e.addr 1)
    | .ok (p, s) =>
      match ((s.thread? a).getD .empty).holder va.toNat n true false with
      | some x => .error (s.waitFor a r x)
      | none =>
        match s.barred a.gang .write p n with
        | some c => .error (s.raiseVec a r k i c va 1)
        | none =>
          match s.locatePieces a r k first xs with
          | .error s => .error s
          | .ok (ps, s) => .ok ((x, p) :: ps, s)

/-- Whether two active elements of a store may name a common byte (R136). -/
def VRec.mayCollide (r : VRec) (form : AddrForm) : Bool :=
  match form with
  | .unit => false
  | .strided => (List.range r.vl).any fun d => decide (0 < d) &&
    decide ((BitVec.ofNat 64 d * r.opb).toInt.natAbs < r.opTag.width)
  | _ => true

/-- The runs of bytes that the active elements of a store write: element, address, size (R136). -/
def VRec.allRuns (r : VRec) (g : Gang) (t : Thread) (form : AddrForm) : List (Nat × Nat × Nat) :=
  ((List.range r.vl).filter fun i => r.active t i).map fun i =>
    let x := intOf r.tagA (srcElem g t r.srcA r.tagA i)
    (i, (elemAddr form r.opa r.opb r.opTag.width i x).toNat, r.opTag.width)

/-- The bytes of a piece that no higher active element of the same store writes, by their offsets (R136). -/
def keptBytes (runs : List (Nat × Nat × Nat)) (x : Piece) : List (Nat × BitVec 8) :=
  (bytesOf 0 x.2.2.2 x.2.2.1).filter fun b =>
    let at_ := x.2.1.toNat + b.1
    !(runs.any fun y => decide (x.1 < y.1) && decide (y.2.1 ≤ at_) && decide (at_ < y.2.1 + y.2.2))

/-- The write of a byte or 24-bit group at a later element group carries the contents that an earlier one of the same store
has written there (R227): where elements of lane groups other than this one's have written it, their bytes that no observer
sees yet are taken back, so that the latest write is the last. -/
def State.supersede (s : State) (a : Agent) (r : VRec) (i : Nat) (p : Place) (n : Nat) : State :=
  let t := (s.thread? a).getD .empty
  let (f, unit) := r.container i
  let slices := (((List.range unit).map fun q => f + 32 * q).filter fun e =>
    r.active t e && decide (e / r.lanes < i / r.lanes)).map (s.sliceOf a r)
  match p with
  | .mem pa =>
    let mine (e : WcEntry) : Bool :=
      e.sector = pa / 32 && e.gang.isNone && slices.contains e.slice && decide (e.slice ≠ s.sliceOf a r i)
    let rest (e : WcEntry) : WcEntry :=
      if mine e then { e with bytes := e.bytes.filter fun b => decide (b.1 < pa % 32) || decide (pa % 32 + n ≤ b.1) } else e
    s.modThread a fun t => { t with wc := (t.wc.map rest).filter fun e => !(mine e && e.bytes.isEmpty) }
  | _ => s

/-- Store located pieces in ascending element order; none stalls (R120). A byte that a higher element of the same store
names is dropped before it leaves the core (R136); `runs` is empty where no two elements can name one. -/
def State.storePieces (s : State) (a : Agent) (r : VRec) (nt : Bool) (sq : Option Nat) (runs : List (Nat × Nat × Nat)) :
    List (Piece × Place) → Option State
  | [] => some s
  | (x, p) :: xs =>
    let slice := s.sliceOf a r x.1
    let (n, v) := x.2.2
    let kept := keptBytes runs x
    let s := if r.opTag.subByte then s.supersede a r x.1 p n else s
    let put (s : State) : Option State :=
      if kept.isEmpty then some s
      else if kept.length = n then s.storeAt a slice x.2.1.toNat p n v nt r.epoch sq
      else s.storeSome a slice x.2.1.toNat p kept nt r.epoch sq
    match s.storeDraining a put 17 with
    | some s => s.storePieces a r nt sq runs xs
    | none => none

/-- Whether everything that forms the addresses of a store is there, for all its elements at once: the mask and the index
vector (DEDUCED, log 93). -/
def State.addressesKnown (s : State) (a : Agent) (r : VRec) : Bool :=
  let t := (s.thread? a).getD .empty
  (!r.masked || t.settledReg r 0) && t.indexKnown (s.gangOf a.gang) r

/-- Runs of scratchpad bytes cover a whole block. -/
def coversBlock (runs : List (Nat × Nat)) (block : Nat) : Bool :=
  let mine := runs.filter fun x => decide (x.1 / 4096 = block)
  decide (4096 ≤ (mine.map (·.2)).sum) &&
    (List.range 4096).all fun b => mine.any fun x => decide (x.1 ≤ 4096 * block + b) && decide (4096 * block + b < x.1 + x.2)

/-- Set the ages of blocks to 0: whole-block writes (R100). -/
def Gang.freshen (g : Gang) (blocks : List Nat) : Gang :=
  { g with allocs := g.allocs.map fun x =>
      { x with ages := x.ages.mapIdx fun i e => if blocks.contains (x.off / 4096 + i) then 0 else e } }

/-- Blocks that an instruction has written whole, once the runs of its latest step are added (R100). -/
def freshBlocks (before now : List (Nat × Nat)) : List Nat :=
  let touched := now.foldl (fun acc x => if acc.contains (x.1 / 4096) then acc else acc ++ [x.1 / 4096]) []
  touched.filter fun b => coversBlock (before ++ now) b

/-- A step of a store (R227, R228, R230). -/
def State.storeStep (s : State) (a : Agent) (r : VRec) (form : AddrForm) (nt : Bool) (k : Nat) : State :=
  let first := if k = 0 then s.memFirst a r form 1 else .ok s []
  match first with
  | .stop s | .cut s _ _ => s
  | .ok s _ =>
    let r := s.recNow a r
    let g := s.gangOf a.gang
    let t := (s.thread? a).getD .empty
    let pieces := if r.opTag.subByte then (packedPieces g t r k).flatMap cutPiece else plainPieces g t r form k
    let collides := r.mayCollide form
    let runs := if collides then r.allRuns g t form else []
    let sq := match r.srcB with
      | .entry id => (g.entry? id).bind fun e => e.sq.map (·.q)
      | _ => none
    if collides && !s.addressesKnown a r then s
    else
    match s.locatePieces a r k (s.windowed a r form) pieces with
    | .error s => s
    | .ok (ps, s) =>
      match s.storePieces a r nt sq runs ps with
      | none => s
      | some s =>
        let now := ps.filterMap fun x => match x.2 with
          | .spad off => some (off, x.1.2.2.1)
          | _ => none
        let before := r.out.map fun x => (x.1, x.2.toNat)
        let keep := decide (4096 ≤ r.vl * r.opTag.width) || r.opTag.subByte
        let s := if keep then s.modGang a.gang fun g => g.freshen (freshBlocks before now) else s
        let s := s.modRec a r.seq fun r =>
          if keep then { r with out := r.out ++ now.map fun x => (x.1, BitVec.ofNat 64 x.2) } else r
        s.commit a (s.recNow a r) k []

/-- The value of a copy element, and whether it is occupied (R236). -/
def copyElem (m : Memory) (d : Word) (k e : Nat) : Option Nat :=
  let bit := m.read (winArea d + 8 * winCsz d + k * winBsz d + e / 8) 1 / 2 ^ (e % 8) % 2
  if bit = 1 then some (m.read (winArea d + k * winCsz d + e * (winTag d).width) (winTag d).width) else none

/-- Fill a copy element (R236). -/
def setCopy (m : Memory) (d : Word) (k e v : Nat) : Memory :=
  let at_ := winArea d + 8 * winCsz d + k * winBsz d + e / 8
  let m := m.write at_ 1 (m.read at_ 1 ||| 2 ^ (e % 8))
  m.write (winArea d + k * winCsz d + e * (winTag d).width) (winTag d).width v

/-- Where reading a copy element meets an expired block or an uncorrectable error: cause and offset (R228, R236). -/
def State.badCopy (s : State) (gi : Nat) (m : Memory) (d : Word) (k e : Nat) : Option (Nat × Nat) :=
  let bit := winArea d + 8 * winCsz d + k * winBsz d + e / 8
  let off := winArea d + k * winCsz d + e * (winTag d).width
  match s.unreadable gi (.spad bit) 1 with
  | some c => some (c, bit)
  | none =>
    if (copyElem m d k e).isNone then none else (s.unreadable gi (.spad off) (winTag d).width).map fun c => (c, off)

/-- The updates of a step of VWACC on the scratchpad (R134, R237): the bytes after it, or the failing element with its
cause; and the flags of each element. -/
def State.waccElems (s : State) (gi : Nat) (t : Thread) (r : VRec) :
    List Nat → Memory → Written → Except (Nat × Nat × Nat) (Memory × Written)
  | [], m, w => .ok (m, w.reverse)
  | i :: is, m, w =>
    if !r.active t i then s.waccElems gi t r is m w
    else
      let g := s.gangOf gi
      let d := r.opb
      let e := intOf r.tagA (srcElem g t r.srcA r.tagA i)
      if e < 0 || decide ((winLen d : Int) ≤ e) then .error (i, cSPRANGE, windowBase + winArea d)
      else
        let k := i % 32 / 4
        let e := e.toNat
        match s.badCopy gi m d k e with
        | some (c, off) => .error (i, c, windowBase + off)
        | none =>
          let x := convert r.tagB (winTag d) 0 none (srcElem g t r.srcB r.tagB i)
          let y := match copyElem m d k e with
            | none => x
            | some v =>
              let z := foldStep (winOp d) (winTag d) (BitVec.ofNat 64 v) x.1
              (z.1, x.2 ||| z.2)
          s.waccElems gi t r is (setCopy m d k e y.1.toNat) ((i, y) :: w)

/-- The lowest element whose flags raise FPX (R80). -/
def fpxAt (frm : Word) (w : Written) : Option Nat := (w.find? fun x => enabled frm x.2.2).map (·.1)

/-- A step of VWACC (R237). An area that has been released since the push is no longer its window's (R233); the updates
come after the earlier stores of their slices (R116, rule 1). -/
def State.waccStep (s : State) (a : Agent) (r : VRec) (k : Nat) : State :=
  let g := s.gangOf a.gang
  let t := (s.thread? a).getD .empty
  let slices := s.stepSlices a r k
  if slices.any fun x => !(t.unseen x).isEmpty then
    s.modThread a fun t => slices.foldl (fun t x => t.closeSlice x) t
  else if r.dead || !g.holdsArea r.opb then s.raiseVec a r k (k * r.lanes) cSPRANGE (BitVec.ofNat 64 (windowBase + winArea r.opb)) 3
  else
    match s.waccElems a.gang t r (r.elems k) g.spad [] with
    | .error (i, c, va) => s.raiseVec a r k i c (BitVec.ofNat 64 va) 3
    | .ok (m, w) =>
      match if r.supp then none else fpxAt r.frm w with
      | some i => s.raiseFpx a r k i
      | none => (s.modGang a.gang fun g => { g with spad := m }).commit a r k w

/-- VWIN's own step (R235): every block of the area is zero-filled and young. -/
def State.winStep (s : State) (a : Agent) (r : VRec) : State :=
  let g := s.gangOf a.gang
  let d := r.opb
  let blocks := (winSize d + 4095) / 4096
  let va := windowBase + winArea d
  if !g.holdsArea d then s.raiseVec a r 0 0 cSPRANGE (BitVec.ofNat 64 va) 1
  else
    match ((s.thread? a).getD .empty).holder va (4096 * blocks) true false with
    | some x => s.waitFor a r x
    | none =>
      (s.modGang a.gang fun g =>
        { g with spad := Sparse.clear g.spad (winArea d) (4096 * blocks) }.freshen
          ((List.range blocks).map (winArea d / 4096 + ·))).commit a r 0 []

/-- Clear the occupancy bitmaps of an area (R238). -/
def clearBitmaps (m : Memory) (d : Word) : Memory := Sparse.clear m (winArea d + 8 * winCsz d) (8 * winBsz d)

/-- VWMERGE's own step (R238): it reads and clears the copies and issues the fold as a transfer. -/
def State.mergeStep (s : State) (a : Agent) (r : VRec) : State :=
  let g := s.gangOf a.gang
  let t := (s.thread? a).getD .empty
  let d := r.opb
  let n := winLen d * (winTag d).width
  let loading := match t.flight with
    | some f => overlaps r.opa.toNat n f.va f.n
    | none => false
  if r.dead || !g.holdsArea d then s.raiseVec a r 0 0 cSPRANGE (BitVec.ofNat 64 (windowBase + winArea d)) 0
  else
    match t.holder r.opa.toNat n true false with
    | some x => s.waitFor a r x
    | none =>
      if 16 ≤ t.xfers.length || loading then s
      else if !s.storesClear a r.opa.toNat n then s.modThread a Thread.closeAll
      else
        let bad := (List.range (winLen d)).findSome? fun e =>
          (List.range 8).findSome? fun k => (s.badCopy a.gang g.spad d k e).map fun x => (e, x)
        match bad with
        | some (e, c, off) => s.raiseVec a r 0 e c (BitVec.ofNat 64 (windowBase + off)) 0
        | none =>
          let left := (List.range (winLen d)).map fun e =>
            (e, (List.range 8).map fun k => (copyElem g.spad d k e).map (BitVec.ofNat 64))
          let rng := some (r.opa.toNat, n)
          let x := Xfer.new (.merge r.opa (winOp d) (winTag d) left []) r.seq r.pc r.word 0 rng rng none r.epoch
          let s := s.modThread a fun t => { t with xfers := t.xfers ++ [x] }
          (s.modGang a.gang fun g => { g with spad := clearBitmaps g.spad d }).commit a r 0 []

/-- An element's fold: the copies that are not empty, in order (R135). -/
def foldCopies (op : FoldFn) (tag : Tag) (copies : List (Option (BitVec 64))) (m : BitVec 64) : BitVec 64 :=
  copies.foldl (fun m c => match c with
    | some v => (foldStep op tag m v).1
    | none => m) m

/-- The next fold of a merge transfer (R135): an indivisible update at the owner; while it is held, one that the gang
alone sees (R137). -/
def State.foldOne (s : State) (a : Agent) (x : Xfer) : State :=
  let put (s : State) (f : Xfer → Xfer) : State :=
    s.modThread a fun t => { t with xfers := t.xfers.map fun y => if y = x then f y else y }
  match x.kind with
  | .merge base op tag left shown =>
    let first := inWindow base.toNat && !tooWide base
    let held := !first && s.held a.gang x.epoch
    if x.fault.isSome then s
    else
      match left[if held then shown.length else 0]? with
      | none => if left.isEmpty then s.modThread a fun t => { t with xfers := t.xfers.filter (· ≠ x) } else s
      | some (e, copies) =>
        let va := base + BitVec.ofNat 64 (e * tag.width)
        match s.locate a (s.nowLevel a) .rmw first va tag.width tag.width with
        | .error c => put s fun y => { y with fault := some (c.code, c.addr, 3), elem := e }
        | .ok (p, s) =>
          let key := holdKey x.epoch ((shown.head?.map (·.gang)).getD (2 ^ 64 - 1))
          let early := match p with
            | .mem pa => (s.gangOf a.gang).sectorBefore (pa / 32) key
            | _ => false
          if s.stalled p || (!held && early) then s
          else if held then
            match p with
            | .mem pa =>
              let m := BitVec.ofNat 64 ((s.loadMem a (2 ^ 8) pa tag.width).getD 0)
              { put s fun y => { y with
                  kind := .merge base op tag left (shown ++ [⟨e, pa, foldCopies op tag copies m, s.stamp⟩]) } with
                stamp := s.stamp + 1 }
            | _ => s
          else
            let m := foldCopies op tag copies (BitVec.ofNat 64 (s.peekAt a p tag.width))
            put ((s.pokeAt a p tag.width m.toNat).chargeAt a.gang p tag.width) fun y =>
              { y with kind := .merge base op tag (left.drop 1) (shown.drop 1) }
  | _ => s

/-- VLSYNC's own step (R118, R239). -/
def State.lsyncStep (s : State) (a : Agent) (r : VRec) : State :=
  let s := s.modThread a Thread.closeAll
  let t := (s.thread? a).getD .empty
  let older := (t.older r).all fun w => w.done || !w.op.memory || match w.op with
    | .load (.far _) _ _ | .wmerge => true
    | _ => false
  let stores := t.wc.all fun e => s.shownHeld a.gang e || (e.slice = 0 && decide (r.opa.toNat ≤ e.stamp))
  if older && stores then s.commit a r 0 [] else s

/-- VFENCE's own step (R122, R123, R240): an acquire waits for loads and for the transfers that read; a release or a
full fence for everything on the vector side. -/
def State.fenceStep (s : State) (a : Agent) (r : VRec) (scope kind : Nat) : State :=
  let s := s.modThread a Thread.closeAll
  let t := (s.thread? a).getD .empty
  match t.xfers.find? fun x => x.seq < r.seq && x.tells with
  | some x => s.raiseHeld a r x
  | none =>
    let older := (t.older r).all fun w => w.done || match w.op with
      | .store _ _ => kind = 1
      | .cmdb _ => false
      | .oexpand => decide (scope < 3)
      | _ => !w.op.memory
    let xfers := t.xfers.all fun x => decide (r.seq ≤ x.seq) || s.releases a.gang scope x
    let mine (e : WcEntry) : Bool := e.slice ≠ 0 || match a.role with
      | .access => true
      | .hart _ => false
    let stores := kind = 1 || t.wc.all fun e => !mine e || (decide (scope ≤ 1) && s.shownHeld a.gang e)
    let seen := kind = 1 || decide (scope ≤ 1) || !(s.gangOf a.gang).unreleased t
    let moves := (t.olderMatrix r).all fun m => !m.moves
    if older && xfers && stores && seen && moves then s.commit a r 0 [] else s

end Sys2Proof.Machine
end

