-- ==== Sys2Proof/Machine/GroupVec.lean ====
section
/-! DEFINITION. Steps of the records that compute: element-wise groups, whole-vector instructions, and those that write
a scalar register (R199 to R223, R341). -/

namespace Sys2Proof.Machine

/-- A cause that a popped entry carries (R269), raised at the first step. -/
def VRec.entryCause (r : VRec) (g : Gang) : Option Nat :=
  let one (x : Src) : Option Nat := match x with
    | .entry id => (g.entry? id).bind (·.cause)
    | _ => none
  match one r.srcA with
  | some c => some c
  | none => one r.srcB

/-- Commit computed elements, or raise FPX for the lowest one with an enabled flag (R80). -/
def State.commitOr (s : State) (a : Agent) (r : VRec) (k : Nat) (w : Written) : State :=
  match if r.supp then none else fpxAt r.frm w with
  | some i => s.raiseFpx a r k i
  | none => s.commit a r k w

/-- The direction numbers that step k needs: of frm.SRDIM for stochastic rounding, of DIM for VSOW (R338); none where it
has no active element. -/
def State.stepDims (s : State) (a : Agent) (r : VRec) (k : Nat) : Except Miss (List (BitVec 32) × State) :=
  let t := (s.thread? a).getD .empty
  if !(r.elems k).any (r.active t) then .ok ([], s)
  else
  let take (d : Nat) := s.dimension a t.dlvl t.sowDims t.sowAddr d
  match r.op with
  | .sow _ => take (r.opb.toNat % 2 ^ 12)
  | _ => if r.stochastic then take (frmSrdim r.frm) else .ok ([], s)

/-- A coordinate in a format (R340). -/
def sowBits (f : SowFn) (u : BitVec 32) : BitVec 64 :=
  match f with
  | .n32 => u.setWidth 64
  | .f32 => (roundEven .f32 (.fin false (u.toNat / 256) (-24))).1
  | .f64 => (roundEven .f64 (.fin false u.toNat (-32))).1

/-- Elements of a step of VSOW (R341). -/
def sowElems (g : Gang) (t : Thread) (r : VRec) (f : SowFn) (dims : List (BitVec 32)) (k : Nat) : Written :=
  ((r.elems k).filter fun i => r.active t i).map fun i =>
    let n := (intOf r.tagA (srcElem g t r.srcA r.tagA i) + (r.opb.toNat / 2 ^ 32 : Nat)) % 2 ^ 32
    (i, sowBits f (sowerPoint dims n.toNat), 0)

/-- The value VGETE writes for an element, and the flags of its conversion (R85, R212). -/
def geteWord (t : Tag) (x : BitVec 64) : Word × BitVec 6 :=
  match t with
  | .f64 => (x, 0)
  | .f32 => (x &&& 0xFFFFFFFF#64, 0)
  | _ => if t.floating then convert t .f32 0 none x else (BitVec.ofInt 64 (intOf t x), 0)

/-- Step k of a record that computes. -/
def State.computeStep (s : State) (a : Agent) (r : VRec) (k : Nat) : State :=
  let g := s.gangOf a.gang
  let t := (s.thread? a).getD .empty
  match s.stepDims a r k with
  | .error (.cause e) =>
    let i := ((r.elems k).find? fun i => r.active t i).getD (k * r.lanes)
    s.raiseVec a r k i e.code e.addr 0
  | .error (.behind x) => s.waitFor a r x
  | .error .wait => s.modThread a (·.closeSlice 0)
  | .ok (dims, s) =>
    match r.op with
    | .mpopc =>
      let n := ((r.elems k).filter fun i => (srcElem g t r.srcA r.tagA i).getLsbD 0).length
      (s.modRec a r.seq fun r => { r with opb := r.opb + BitVec.ofNat 64 n }).commit a r k []
    | .mfirst =>
      let i := (r.elems k).find? fun i => (srcElem g t r.srcA r.tagA i).getLsbD 0
      let v := match i with
        | some i => if r.opb = 0 then BitVec.ofNat 64 (i + 1) else r.opb
        | none => r.opb
      (s.modRec a r.seq fun r => { r with opb := v }).commit a r k []
    | .gete =>
      let v := if r.opa = BitVec.allOnes 64 then (0, 0) else geteWord r.tagA (srcElem g t r.srcA r.tagA r.opa.toNat)
      if !r.supp && enabled r.frm v.2 then s.raiseFpx a r 0 r.opa.toNat
      else (s.modRec a r.seq fun r => { r with opb := v.1, flags := r.flags ||| v.2 }).commit a r k []
    | .sete => s.commit a r k (if r.opa = BitVec.allOnes 64 then [] else [(r.opa.toNat, r.opb, 0)])
    | .cfg => s.commit a r k []
    | .red f =>
      let v := reduced g t r f
      if !r.supp && enabled r.frm v.2 then s.raiseFpx a r 0 0
      else
        (s.modRec a r.seq fun r => { r with opb := v.1, flags := r.flags ||| v.2 }).commit a
          { r with opb := v.1, flags := r.flags ||| v.2 } k []
    | .cmprs | .expnd => s.commit a r k (packed g t r)
    | .send => s.commit a r k (sent g t r)
    | .salsel size c => s.commit a r k (salient g t r (4 * 2 ^ size) (c + 1))
    | .sow f => s.commit a r k (sowElems g t r f dims k)
    | .scan _ =>
      let w := s.elementWise a.gang g t r dims (r.elems k) (if r.opb = 1 then some r.opa else none)
      match if r.supp then none else fpxAt r.frm w.1 with
      | some i => s.raiseFpx a r k i
      | none =>
        let s := match w.2 with
          | some v => s.modRec a r.seq fun r => { r with opa := v, opb := 1 }
          | none => s
        s.commit a r k w.1
    | _ =>
      let src := if r.aliased && k = 0 then
          (List.range r.vl).map fun i => (i, srcElem g t r.srcA r.tagA i)
        else r.out
      let r := if r.aliased then { r with out := src } else r
      let s := if r.aliased && k = 0 then s.modRec a r.seq fun r => { r with out := src } else s
      s.commitOr a r k (s.elementWise a.gang g t r dims (r.elems k) none).1

/-- A QDRAIN of the same queue comes before a record and is not complete: what follows it waits (R117, R132, R250). -/
def Thread.behindDrain (t : Thread) (r : VRec) : Bool := (t.older r).any fun w => !w.done && w.op = .drain

/-- Whether step k of a vector record may be performed: scoreboards, entries, the hart's own tile moves, a QDRAIN before it
(R54, R132, R209, R254, R283). -/
def State.stepReady (s : State) (a : Agent) (r : VRec) (k : Nat) : Bool :=
  let g := s.gangOf a.gang
  let t := (s.thread? a).getD .empty
  !t.behindDrain r && (t.older r).all (fun w => w.clears r g.nv k) && (t.olderMatrix r).all (fun m => m.clearsMatrix r g.nv k) &&
    r.entryReady g k r.srcA && r.entryReady g k r.srcB &&
    !(r.op.memory && s.memBlocked a r ((r.elems k).filter fun i => r.active t i && !(r.early.any fun e => e.1 = i)))

end Sys2Proof.Machine
end

