-- ==== Sys2Proof/Machine/MatrixStep.lean ====
section
/-! DEFINITION. Units of the matrix instructions: column blocks of MMA, MWROW and MADDROW, steps of MLD and MST, and
MZERO (R274 to R278, R281, R283, R286 to R290). -/

namespace Sys2Proof.Machine

/-- Number of units of a matrix record (R274, R287). -/
def VRec.units (m : VRec) : Nat :=
  let rows := m.mrows + 1
  match m.op with
  | .mzero => 1
  | .mld | .mst =>
    if m.opb.getLsbD 63 then ((m.vl + 63) / 64) * ((rows + 3) / 4) else rows * ((m.vl + 255) / 256)
  | _ => (m.vl + 31) / 32

/-- The slots of step u of a tile move, in order (R287). -/
def VRec.moveSlots (m : VRec) (u : Nat) : List (Nat × Nat) :=
  let rows := m.mrows + 1
  if m.opb.getLsbD 63 then
    let bands := (rows + 3) / 4
    let lo := 64 * (u / bands)
    let band := u % bands
    (List.range 64).flatMap fun j =>
      (List.range 4).filterMap fun i =>
        if lo + j < m.vl && 4 * band + i < rows then some (4 * band + i, lo + j) else none
  else
    let per := (m.vl + 255) / 256
    (List.range 256).filterMap fun j =>
      if 256 * (u % per) + j < m.vl then some (u / per, 256 * (u % per) + j) else none

/-- A product of MMA with its signs and scales (R281). -/
def mmaProduct (m : VRec) (t : Thread) (a b : BitVec 64) (ia ib : Nat) (na nb : Bool) : Val :=
  let p := if m.opTag = .l6 then l6MulF32 a b else (Val.mul (decode m.tagA a) (decode m.tagB b)).1
  let p := if na then p.flip else p
  let p := if nb then p.flip else p
  let scaled (tag : Tag) (i : Nat) (p : Val) : Val := match scaleFor (m.scale t i) tag with
    | some c => scaleBy c false p
    | none => p
  scaled m.tagB ib (scaled m.tagA ia p)

/-- The elements of va that an MMA has read (R283): those it reads in any unit. -/
def mmaSources (m : VRec) (t : Thread) (va : Nat) : List (Nat × BitVec 64) :=
  (List.range (m.mrows + 1)).flatMap fun row => (List.range 8).map fun k =>
    (8 * row + k, (t.vreg va).data.get (8 * row + k * shapeSa m.shape + shapeOa m.shape))

/-- One slot of MMA: the eight products in order, each rounded once (R281). The elements of va are those it has read when
it began, kept in `out` (R283). -/
def mmaSlot (m : VRec) (t : Thread) (vb : Nat) (na nb : Bool) (row col : Nat) (old : Option (BitVec 64)) : BitVec 64 :=
  let ib := col * shapeSb m.shape + shapeOb m.shape
  let ks := if shapeKord m.shape then (List.range 8).reverse else List.range 8
  let step (acc : Option (BitVec 64)) (k : Nat) : Option (BitVec 64) :=
    let ia := 8 * row + k * shapeSa m.shape + shapeOa m.shape
    let a := ((m.out.find? fun e => e.1 = 8 * row + k).map (·.2)).getD 0
    let p := mmaProduct m t a ((t.vreg (vb + k)).data.get ib) ia ib na nb
    let v := match acc with
      | none => p
      | some s => (Val.add 0 (decode m.outTag s) p).1
    some (roundEven m.outTag v).1
  (ks.foldl step old).getD 0

/-- Column block c of MMA (R276, R281). -/
def mmaBlock (m : VRec) (t : Thread) (x : Tile) (vb : Nat) (na nb first : Bool) (c : Nat) : Tile :=
  let hi := min (32 * (c + 1)) m.vl
  let cols := (List.range 32).filterMap fun j => if 32 * c + j < hi then some (32 * c + j) else none
  let rows := m.mrows + 1
  let changed := m.tagD ≠ m.outTag
  let cells := cols.flatMap fun n => (List.range rows).map fun r => (2048 * r + n, mmaSlot m t vb na nb r n
    (if first then none else some (x.data.get (2048 * r + n))))
  let d := if changed then
      let d := (List.range 16).foldl (fun d r => if r < rows then d else d.clear (2048 * r + 32 * c) cols.length) x.data
      if m.units ≤ c + 1 then (List.range 16).foldl (fun d r => d.clear (2048 * r + m.vl) (2048 - m.vl)) d else d
    else x.data
  { x with
    data := cells.foldl (fun d y => d.set y.1 y.2) d
    tpi := if changed && decide (m.units ≤ c + 1) then 2048 else hi }

/-- Column block c of MWROW and MADDROW (R289). -/
def rowBlock (m : VRec) (t : Thread) (x : Tile) (vb row : Nat) (add : Bool) (c : Nat) : Tile :=
  let hi := min (32 * (c + 1)) m.vl
  let cols := (List.range 32).filterMap fun j => if 32 * c + j < hi then some (32 * c + j) else none
  let cell (n : Nat) : BitVec 64 :=
    let b := (t.vreg vb).data.get n
    if add then
      (roundEven m.outTag (Val.add 0 (decode m.outTag (x.data.get (2048 * row + n))) (decode m.tagB b)).1).1
    else (roundEven m.outTag (decode m.tagB b)).1
  { x with data := cols.foldl (fun d n => d.set (2048 * row + n) (cell n)) x.data, tpi := hi }

/-- Change the oldest matrix record of a hart. -/
def State.modMatrix (s : State) (a : Agent) (ord : Nat) (f : VRec → VRec) : State :=
  s.modThread a fun t => { t with mq := t.mq.map fun m => if m.ord = ord then f m else m }

/-- A unit is complete: the progress index, and the record leaves its queue after the last (R274). -/
def State.unitDone (s : State) (a : Agent) (m : VRec) : State :=
  s.modThread a fun t =>
    let rest := t.mq.map fun x => if x.ord = m.ord then { x with pi := m.pi + 1 } else x
    { t with mq := if m.units ≤ m.pi + 1 then t.mq.drop 1 else rest }

/-- Raise a cause at the next unit of a matrix record (R290): for a tile move with the address of its sector. -/
def State.raiseMatrix (s : State) (a : Agent) (m : VRec) (elem code : Nat) (addr : Word) (acc : Nat) : State :=
  let c : Cause :=
    { code := code, sub := 0, src := 2, elem := elem, qdist := 0, group := m.pi, seq := m.seq,
      addr := addr &&& ~~~31#64, pc := m.pc, info := s.causeInfo a (s.vecLevel a) code addr, word := m.word, acc := acc,
      ord := m.ord }
  (s.modMatrix a m.ord fun m => { m with stuck := true }).modThread a fun t => { t with causes := t.causes ++ [c] }

/-- Whether unit u of a matrix record writes a slot of its tile (R276, R277, R287, R289). -/
def VRec.unitWrites (m : VRec) (u row n : Nat) : Bool :=
  let block := decide (32 * u ≤ n) && decide (n < min (32 * (u + 1)) m.vl)
  let changed := decide (m.tagD ≠ m.outTag)
  match m.op, m.dst with
  | .mma _ _ _ _, _ =>
    (block && (changed || decide (row ≤ m.mrows))) || (changed && decide (m.units ≤ u + 1) && decide (m.vl ≤ n))
  | .mwrow _, .tile _ r => block && r = row
  | .mld, _ => (m.moveSlots u).contains (row, n)
  | .mzero, _ => true
  | _, _ => false

/-- Whether unit u of a matrix record reads a slot of its tile (R281, R287, R289). -/
def VRec.unitReads (m : VRec) (u row n : Nat) : Bool :=
  let block := decide (32 * u ≤ n) && decide (n < min (32 * (u + 1)) m.vl)
  match m.op, m.dst with
  | .mma _ _ first _, _ => block && !first && decide (row ≤ m.mrows)
  | .mwrow true, .tile _ r => block && r = row
  | .mst, _ => (m.moveSlots u).contains (row, n)
  | _, _ => false

/-- Whether an older vector record that is not done stays out of the way of unit u of a matrix record, at the registers
it writes: va's producer has left it before the first unit, and a B register's has passed what the unit reads (R283, rules
1 and 2). -/
def VRec.producedFor (w m : VRec) (nv u : Nat) : Bool :=
  let e := min (32 * (u + 1)) m.vl
  let chained := !w.op.whole && !w.op.single && decide (m.elemOfColumn (e - 1) / w.lanes < w.pi)
  let one (n : Nat) : Bool :=
    !(w.writes n) || m.vl = 0 ||
    (!(m.scaled && n = 1) && (!m.readsAsB n || chained) && !(u = 0 && match m.op, m.srcA with
      | .mma _ _ _ _, .reg j => j = n
      | _, _ => false))
  (List.range nv).all one

/-- Whether an older vector record that reads an accumulator row has read what unit u of a matrix record writes of it
(R209; R283, rule 4). -/
def VRec.rowRead (w m : VRec) (u : Nat) : Bool :=
  match w.srcA with
  | .row tile row =>
    decide (m.tile? ≠ some tile) ||
      !(((List.range w.vl).drop (if w.op.whole then 0 else w.pi * w.lanes)).any fun n => m.unitWrites u row n)
  | _ => true

/-- The address of a slot of a tile move. -/
def VRec.slotAddr (m : VRec) (row n : Nat) : Word :=
  m.opa + BitVec.ofNat 64 (slotOff (m.opb.getLsbD 63) (m.opb.toNat % 2 ^ 32) row n)

/-- The transfer in the interlock table that a step of a tile move waits for (R129, R288). -/
def Thread.moveHolder (t : Thread) (m : VRec) : Option Xfer :=
  let writes := match m.op with
    | .mst => true
    | _ => false
  if m.moves then (m.moveSlots m.pi).findSome? fun x => t.holder (m.slotAddr x.1 x.2).toNat 8 writes false else none

/-- Whether an older record of the vector queue that is not done stays out of the way of the next unit of a matrix record:
at registers and accumulator rows (R283), and of a tile move where their bytes may meet, or at a fence or a command before
it (R122, R130, R288). -/
def Thread.leaves (t : Thread) (g : Gang) (w m : VRec) : Bool :=
  w.producedFor m g.nv m.pi && w.rowRead m m.pi && !(m.moves && (spansConflict m.moveSpans (t.spansLeft g w) || match w.op with
    | .fence _ _ => true
    | .cmdb _ => spansConflict (t.cmdbSpans w) m.moveSpans
    | _ => false))

/-- Whether every older record of the vector queue stays out of the way of the next unit of a matrix record (R283). -/
def Thread.queueClear (t : Thread) (g : Gang) (m : VRec) : Bool :=
  (t.vq.filter fun w => decide (w.ord < m.ord) && !w.done).all fun w => t.leaves g w m

/-- Whether the scalar stores before a tile move are made, for its first step (R288). -/
def State.movePrior (s : State) (a : Agent) (m : VRec) : Bool :=
  !m.moves || decide (0 < m.pi) || match m.srcA with
    | .scalar n => ((s.thread? a).getD .empty).wc.all fun e =>
      e.slice ≠ 0 || s.shownHeld a.gang e || decide (n.toNat ≤ e.stamp)
    | _ => true

/-- Whether the next unit of a matrix record may be performed, but for the transfers in the interlock table: what the older
records of the vector queue write and read, and for a tile move the scalar stores before it (R283, R288). -/
def State.unitClear (s : State) (a : Agent) (m : VRec) : Bool :=
  ((s.thread? a).getD .empty).queueClear (s.gangOf a.gang) m && s.movePrior a m

/-- Whether the next unit of a matrix record has something to do: it may be performed, or the transfer that it waits for has
stopped, so that its cause is raised here (R244, R288). -/
def State.unitReady (s : State) (a : Agent) (m : VRec) : Bool :=
  s.unitClear a m && match ((s.thread? a).getD .empty).moveHolder m with
    | some x => x.tells
    | none => true

/-- The lowest register a unit reads past its life (R62, R290): every read of va counts in the first unit. -/
def VRec.unitExpired (m : VRec) (t : Thread) : Bool :=
  m.vl ≠ 0 && match m.op with
    | .mma _ _ _ _ => (if m.pi = 0 then m else { m with srcA := .none }).expired t
    | .mwrow _ => m.expired t
    | _ => false

/-- The first slot that a unit reads with an uncorrectable error (R290). -/
def State.badSlot (s : State) (a : Agent) (m : VRec) : Option Nat :=
  match m.dst with
  | .tile d _ => s.errors.findSome? fun e => match e with
    | .tile g t k => if g = a.gang && decide (t = d) && m.unitReads m.pi (k / 2048) (k % 2048) then some k else none
    | _ => none
  | _ => none

/-- The place of a slot of a tile move, with its checks (R286, R288, R290). The record of a cause names slot (m, n) as element
2,048 m + n (DESIGN CHOICE, log 124). -/
def State.slotPlace (s : State) (a : Agent) (m : VRec) (acc : Acc) (x : Nat × Nat) : Except State Place :=
  let va := m.slotAddr x.1 x.2
  let elem := 2048 * x.1 + x.2
  match s.place a (s.vecLevel a) acc true va 8 8 with
  | .error e => .error (s.raiseMatrix a m elem e.code e.addr acc.code)
  | .ok (p, _) =>
    match s.barred a.gang acc p 8 with
    | some c => .error (s.raiseMatrix a m elem c va acc.code)
    | none => .ok p

/-- The slots of an MLD step, read under the tag that the tile had at the push (R286, R288). -/
def State.readSlots (s : State) (a : Agent) (m : VRec) : List (Nat × Nat) → Sparse 64 → Except State (Sparse 64)
  | [], d => .ok d
  | x :: xs, d =>
    match s.slotPlace a m .read x with
    | .error s => .error s
    | .ok p =>
      let v := BitVec.ofNat 64 (s.peekAt a p 8)
      s.readSlots a m xs (d.set (2048 * x.1 + x.2) (if m.outTag = .f32 then v &&& 0xFFFFFFFF#64 else v))

/-- The slots of an MST step, all checked before any is written (R286, R288): their places. -/
def State.checkSlots (s : State) (a : Agent) (m : VRec) : List (Nat × Nat) → Except State (List (Place × Nat))
  | [] => .ok []
  | x :: xs =>
    match s.slotPlace a m .write x with
    | .error s => .error s
    | .ok p =>
      match s.checkSlots a m xs with
      | .error s => .error s
      | .ok ps => .ok ((p, 2048 * x.1 + x.2) :: ps)

/-- The slots of an MST step written, in order. -/
def State.writeSlots (s : State) (a : Agent) (x : Tile) (ps : List (Place × Nat)) : State :=
  ps.foldl (fun s p => s.pokeAt a p.1 8 (x.data.get p.2).toNat) s

/-- Runs of scratchpad that an MST writes, for the ages of the blocks it writes whole (R286). -/
def VRec.moveRuns (m : VRec) (units : Nat) : List (Nat × Nat) :=
  ((List.range units).flatMap m.moveSlots).map fun x => ((m.slotAddr x.1 x.2).toNat - windowBase, 8)

/-- Raise the cause of a stopped transfer at the tile move that waits for it (R244, R288). -/
def State.raiseBehind (s : State) (a : Agent) (m : VRec) (x : Xfer) : State :=
  let c := s.xferCause a x m.ord
  (s.modMatrix a m.ord fun m => { m with stuck := true }).modThread a fun t =>
    { t.tellXfer x with causes := t.causes ++ [c] }

/-- The engine turns to a record that writes a tile and has completed no unit: no column is completed (R277). -/
def State.startTile (s : State) (a : Agent) (m : VRec) : State :=
  match m.op, m.dst with
  | .mst, _ => s
  | _, .tile d _ =>
    if m.pi = 0 && decide (m.units ≠ 0) then
      s.modGang a.gang fun g => { g with tiles := modifyAt g.tiles d fun x => { x with tpi := 0 } }
    else s
  | _, _ => s

/-- One unit of the oldest matrix record of a hart. -/
def State.matrixUnit (s : State) (a : Agent) : State :=
  let t := (s.thread? a).getD .empty
  match t.mq with
  | [] => s
  | m :: _ =>
    let s := if t.frz || m.stuck then s else s.startTile a m
    if t.frz || m.stuck || !s.unitReady a m then s
    else if m.units = 0 then s.modThread a fun t => { t with mq := t.mq.drop 1 }
    else
      match t.moveHolder m, m.dst with
      | some x, _ => s.raiseBehind a m x
      | none, dst =>
      match dst with
      | .tile d row =>
        let x := ((s.gangOf a.gang).tiles[d]?).getD ⟨[], .f64, 0⟩
        let put (s : State) (x : Tile) : State :=
          (s.modGang a.gang fun g =>
            { g with tiles := modifyAt g.tiles d fun y => { x with tag := y.tag } }).unitDone a m
        if m.unitExpired t then s.raiseMatrix a m 0 cSREG 0 0
        else
          match s.badSlot a m with
          | some k =>
            s.raiseMatrix a m k cMCHK (if m.moves then m.slotAddr (k / 2048) (k % 2048) else 0) (if m.moves then 1 else 0)
          | none =>
            match m.op, m.srcA, m.srcB with
            | .mma na nb first _, .reg va, .reg vb =>
              let m := if m.pi = 0 then { m with out := mmaSources m t va } else m
              put (s.modMatrix a m.ord fun _ => m) (mmaBlock m t x vb na nb first m.pi)
            | .mwrow add, _, .reg vb => put s (rowBlock m t x vb row add m.pi)
            | .mzero, _, _ => put s { x with data := [], tpi := 2048 }
            | .mld, _, _ =>
              match s.readSlots a m (m.moveSlots m.pi) x.data with
              | .error s => s
              | .ok data =>
                put s { x with data := data, tpi := if m.units ≤ m.pi + 1 then m.vl else x.tpi }
            | .mst, _, _ =>
              match s.checkSlots a m (m.moveSlots m.pi) with
              | .error s => s
              | .ok ps =>
                ((s.writeSlots a x ps).modGang a.gang fun g =>
                  g.freshen (freshBlocks (m.moveRuns m.pi)
                    ((m.moveSlots m.pi).map fun y => ((m.slotAddr y.1 y.2).toNat - windowBase, 8)))).unitDone a m
            | _, _, _ => s
      | _ => s

end Sys2Proof.Machine
end

