-- ==== Sys2Proof/Machine/Engine.lean ====
section
/-! DEFINITION. Engine transfers: commands of a CMDB, copies sector by sector, and window merges (R127 to R130, R135,
R242 to R245). -/

namespace Sys2Proof.Machine

/-- What an engine answers to a command. -/
inductive CmdAnswer where
  | refuse
  /-- Its own queue is full: the CMDB stalls. -/
  | full
  /-- Accepted, with its read range, its two write ranges and its progress. -/
  | accept (kind : XKind) (rd wr wr2 : Option (Nat × Nat)) (row sect : Nat)
  deriving Repr

/-- Address of a sector of a copy side. -/
def sectorAddr (base : Word) (stride : Int) (row sect : Nat) : Word :=
  base + BitVec.ofInt 64 (row * stride) + BitVec.ofNat 64 (32 * sect)

/-- One side of a copy lies in the window from its first byte while another address of it does not (R243). -/
def leavesWindow (base : Word) (r : Nat × Nat) : Bool :=
  inWindow base.toNat && !tooWide base && !(decide (windowBase ≤ r.1) && decide (r.1 + r.2 ≤ 2 ^ 52))

/-- Whether an address translates into host memory (R243). -/
def State.hostAt (s : State) (a : Agent) (acc : Acc) (va : Word) : Bool :=
  if inWindow va.toNat || tooWide va then false
  else
    match s.translate a (s.nowLevel a) acc va.toNat with
    | .ok (pa, _) => regionOf pa = some .host
    | .error _ => false

/-- Whether the copy engine refuses a command (R243). That both sides lie in host memory is asked of their first bytes. -/
def State.refusesCopy (s : State) (a : Agent) (w : List Word) : Bool :=
  let c := copyFields w
  let d4 := ((w[4]?).getD 0).toNat
  let row := lo32 ((w[7]?).getD 0)
  let sect := hi32 ((w[7]?).getD 0)
  let rs := rowsRange c.src c.rowBytes c.rows c.sstride
  let rd := rowsRange c.dst c.rowBytes c.rows c.dstride
  let inWin := inWindow c.dst.toNat && !tooWide c.dst
  decide (8 ≤ d4) || (!c.fill && decide (c.src.toNat % 32 ≠ 0)) || decide (c.dst.toNat % 32 ≠ 0) ||
  (!c.fill && decide (c.sstride % 32 ≠ 0)) || decide (c.dstride % 32 ≠ 0) || decide (c.rowBytes % 32 ≠ 0) ||
  decide (c.rowBytes < 32) || decide (2 ^ 31 < c.rowBytes) || c.rows = 0 ||
  (decide (1 < c.rows) && decide (c.dstride.natAbs < c.rowBytes)) ||
  (inWin && decide (1 < c.rows) && decide (c.dstride < c.rowBytes)) ||
  decide (c.rows < row) || (decide (row < c.rows) && decide (c.rowBytes / 32 ≤ sect)) ||
  (!c.fill && overlaps rs.1 rs.2 rd.1 rd.2) || decide (c.done.toNat % 8 ≠ 0) ||
  (!c.fill && leavesWindow c.src rs) || leavesWindow c.dst rd ||
  (!c.fill && s.hostAt a .read c.src && s.hostAt a .write c.dst)

/-- The copy engine's answer to a command (R243, R246). -/
def State.copyAnswer (s : State) (a : Agent) (w : List Word) : CmdAnswer :=
  if s.refusesCopy a w then .refuse
  else
    let c := copyFields w
    .accept (.copy c) (if c.fill then none else some (rowsRange c.src c.rowBytes c.rows c.sstride))
      (some (rowsRange c.dst c.rowBytes c.rows c.dstride)) none (lo32 ((w[7]?).getD 0)) (hi32 ((w[7]?).getD 0))

/-- Change a transfer of an agent, by its place in the table. -/
def State.modXfer (s : State) (a : Agent) (x : Nat) (f : Xfer → Xfer) : State :=
  s.modThread a fun t => { t with xfers := modifyAt t.xfers x f }

/-- Free an entry of the table: the transfer has completed (R128). -/
def State.freeXfer (s : State) (a : Agent) (x : Nat) : State :=
  s.modThread a fun t => { t with xfers := t.xfers.eraseIdx x }

/-- The transfer of a record of an agent, or of one before it, that a transfer with some runs of bytes conflicts with
(R129). -/
def Thread.transferHeld (t : Thread) (r : VRec) (runs : List Span) : Option Xfer :=
  (t.xfers ++ t.vq.filterMap (·.farRange)).find? fun x => decide (x.seq ≤ r.seq) && runs.any fun y => match y.1 with
    | some b => x.conflicts b.1 b.2 y.2
    | none => false

/-- Every store of an agent that touches some runs of bytes is performed (R130). -/
def State.runsClear (s : State) (a : Agent) (runs : List Span) : Bool :=
  runs.all fun y => match y.1 with
    | some b => s.storesClear a b.1 b.2
    | none => true

/-- Whether an older record of the vector queue has still to make an access that a transfer with some runs of bytes waits
for (R130), or to issue transfers of its own, which keep their order (R127). -/
def Thread.beforeTransfer (t : Thread) (g : Gang) (runs : List Span) (w : VRec) : Bool :=
  !w.done && match w.op with
    | .fence _ _ | .cmdb _ => true
    | _ => spansConflict (t.spansLeft g w) runs

/-- The load in flight of a thread reads a byte that a transfer with some runs of bytes will write (R130). -/
def Thread.loadBefore (t : Thread) (runs : List Span) : Bool :=
  match t.flight with
  | some f => spansConflict [(some (f.va, f.n), false)] runs
  | none => false

/-- Place of the first sector of a copy among all of its command's. -/
def XKind.firstSector (k : XKind) (row sect : Nat) : Nat :=
  match k with
  | .copy c => row * c.perRow + sect
  | _ => 0

/-- One command of a CMDB, in ascending j (R242): accepted, refused, or the CMDB stalls; after the last of a group the
group is committed. `answer` is the engine's. -/
def State.cmdbStep (s : State) (a : Agent) (r : VRec) (k : Nat) (answer : State → VRec → Nat → List Word → CmdAnswer × State) :
    State :=
  let t := (s.thread? a).getD .empty
  let finish (s : State) (out : List (Nat × BitVec 64)) : State :=
    if out.length = (r.elems k).length then
      (s.modRec a r.seq fun r => { r with out := [] }).commit a { r with out := [] } k (out.map fun x => (x.1, x.2, 0))
    else s.modRec a r.seq fun r => { r with out := out }
  match (r.elems k)[r.out.length]? with
  | none => finish s r.out
  | some j =>
    let record (s : State) (v : BitVec 64) : State := finish s (r.out ++ [(j, v)])
    if !r.active t j then record s 0
    else
      match answer s r j (commandWords t r j) with
      | (.refuse, s) => record s 0
      | (.full, s) => s
      | (.accept kind rd wr wr2 row sect, s') =>
        let runs := xferSpans rd wr wr2
        if (t.older r).any (t.beforeTransfer (s.gangOf a.gang) runs) || (t.olderMatrix r).any (fun m => spansConflict m.moveSpans runs) ||
            t.loadBefore runs then s
        else
          match t.transferHeld r runs with
          | some x => s.waitFor a r x
          | none =>
            if 16 ≤ t.xfers.length then s
            else if !s.runsClear a runs then s.modThread a Thread.closeAll
            else
              let x := { Xfer.new kind r.seq r.pc r.word j rd wr wr2 r.epoch with
                row := row, sect := sect, first := kind.firstSector row sect }
              record (s'.modThread a fun t => { t with xfers := t.xfers ++ [x] }) 1

/-- The bank of a scratchpad sector, by gang offset (R99), counted from the one that holds offset 0. -/
def bankOf (off : Nat) : Nat := (off / 2048 + off / 32 % 64) % 64

/-- The sector that a copy makes next in a bank: the lowest of that bank not made; outside the window there is one order
alone (R104, R244). `fuel` bounds the sectors left. -/
def Xfer.nextIn (x : Xfer) (c : CopyCmd) (bank : Nat) : Nat → Nat → Option Nat
  | 0, _ => none
  | fuel + 1, o =>
    let off := (sectorAddr c.dst c.dstride (o / c.perRow) (o % c.perRow)).toNat - windowBase
    if !inWindow c.dst.toNat || (bankOf off = bank && !x.ahead.contains o) then some o
    else x.nextIn c bank fuel (o + 1)

/-- ROWDONE and SECTDONE once a run of sectors from one on has landed (R104). -/
def pastAhead (ahead : List Nat) : Nat → Nat → Nat
  | 0, o => o
  | fuel + 1, o => if ahead.contains o then pastAhead ahead fuel (o + 1) else o

/-- A copy after one of its sectors has landed. -/
def Xfer.land (x : Xfer) (c : CopyCmd) (o : Nat) : Xfer :=
  let ahead := x.ahead ++ [o]
  let lo := pastAhead ahead ahead.length (x.row * c.perRow + x.sect)
  { x with row := lo / c.perRow, sect := lo % c.perRow, ahead := ahead.filter fun y => decide (lo ≤ y) }

/-- The block that a copy has now written whole with its own sectors (R100; DEDUCED, log 38). -/
def Xfer.wholeBlock (x : Xfer) (c : CopyCmd) (off : Nat) : Option Nat :=
  let b := off / 4096
  if (List.range 128).all fun i => match c.ordinal (windowBase + 4096 * b + 32 * i) with
      | some o => decide (x.first ≤ o) && x.landed c o
      | none => false
  then some b else none

/-- Sector o of a copy (R244): read, then written; a cause stops the copy before its next sector, and a channel in
training holds it up (R459), as does a held write that the gang sees (R113). What it reads is what the gang sees (R137;
DEDUCED, log 37), and a read of its thread (R125). A bank does not run ahead into a cause. -/
def State.copySector (s : State) (a : Agent) (i : Nat) (x : Xfer) (c : CopyCmd) (o : Nat) : State :=
  let lvl := s.nowLevel a
  let sa := sectorAddr c.src c.sstride (o / c.perRow) (o % c.perRow)
  let da := sectorAddr c.dst c.dstride (o / c.perRow) (o % c.perRow)
  let stop (s : State) (e : MemErr) (acc : Nat) : State :=
    if o = x.row * c.perRow + x.sect then s.modXfer a i fun x => { x with fault := some (e.code, e.addr, acc) } else s
  let src : Except MemErr (Nat × State) :=
    if c.fill then .ok (c.src.toNat * (1 + 2 ^ 64 + 2 ^ 128 + 2 ^ 192), s)
    else
      match s.locate a lvl .read (inWindow c.src.toNat && !tooWide c.src) sa 32 32 with
      | .error e => .error e
      | .ok (p, s) => if s.stalled p then .error ⟨0, 0⟩ else .ok (s.seenAt a p 32, (s.noteRead a p 32).chargeAt a.gang p 32)
  match src with
  | .error e => if e.code = 0 then s else stop s e 0
  | .ok (v, s) =>
    match s.locate a lvl .write (inWindow c.dst.toNat && !tooWide c.dst) da 32 32 with
    | .error e => stop s e 1
    | .ok (p, s) =>
      if s.stalled p || s.heldOver a p 32 then s
      else
        let s := ((s.pokeAt a p 32 v).chargeAt a.gang p 32).modXfer a i (·.land c o)
        match p with
        | .spad off => match (x.land c o).wholeBlock c off with
          | some b => s.modGang a.gang (·.freshen [b])
          | none => s
        | _ => s

/-- Whether the transfers of an agent make progress: its gang is on a core that has not stopped. -/
def State.engineRuns (s : State) (a : Agent) : Bool :=
  let g := s.gangOf a.gang
  decide (g.st = .resident) && !(s.core g.core).stopped

/-- One step of a copy: a sector, into the scratchpad one of a bank, or the note that the last is performed; without a
DONE word it then completes. -/
def State.copyStep (s : State) (a : Agent) (i bank : Nat) : State :=
  match ((s.thread? a).getD .empty).xfers[i]? with
  | some x =>
    match x.kind with
    | .copy c =>
      if !s.engineRuns a || x.fault.isSome || x.moved then s
      else
        let lo := x.row * c.perRow + x.sect
        let s := match x.nextIn c (bank % 64) (c.rows * c.perRow - lo) lo with
          | some o => s.copySector a i x c o
          | none => s
        match ((s.thread? a).getD .empty).xfers[i]? with
        | some x =>
          if x.fault.isNone && decide (c.rows ≤ x.row) then
            if c.done = 0 then s.freeXfer a i else s.modXfer a i fun x => { x with moved := true }
          else s
        | none => s
    | _ => s
  | none => s

/-- The completion update of a copy (R245): an atomic add, after which the command completes. No waiter is woken. -/
def State.copyDone (s : State) (a : Agent) (i : Nat) : State :=
  match ((s.thread? a).getD .empty).xfers[i]? with
  | some x =>
    match x.kind with
    | .copy c =>
      if !s.engineRuns a || x.fault.isSome || !x.moved then s
      else
        match s.locate a (s.nowLevel a) .rmw (inWindow c.done.toNat && !tooWide c.done) c.done 8 8 with
        | .error e => s.modXfer a i fun x => { x with fault := some (e.code, e.addr, 3) }
        | .ok (p, s) =>
          if s.stalled p || s.heldOver a p 8 then s
          else ((s.pokeAt a p 8 ((s.peekAt a p 8 + c.doneVal.toNat) % 2 ^ 64)).chargeAt a.gang p 8).freeXfer a i
    | _ => s
  | none => s

/-- A gang is paused: the account of its partition is empty (R430). The boot gang, which belongs to no launch, is
exempt (DEDUCED, log 6). -/
def State.paused (s : State) (gi : Nat) : Bool :=
  decide (s.mod.bootGang ≠ some gi) && decide ((s.part (s.partOfCore (s.gangOf gi).core)).energy ≤ 0)

/-- Accesses that a gang issued before its last suspension are still to be performed: its later ones wait (R139). Stores that
are held do not count (R390). -/
def State.settling (s : State) (gi : Nat) : Bool :=
  let g := s.gangOf gi
  (g.harts.flatMap (·.wc) ++ g.access.wc).any fun e =>
    decide (e.stamp < g.placeOrd) && !s.held gi e.epoch

/-- Whether the queued work of an agent runs: its gang is on a running core, and the agent is not stopped (R139, R384,
R389, R402, R430). -/
def State.mayRun (s : State) (a : Agent) : Bool :=
  let t := (s.thread? a).getD .empty
  s.engineRuns a && !s.paused a.gang && !t.debug && !t.frz && !t.faulted && !s.settling a.gang

/-- An access still to be performed is performed (R112, R116, R117, R120, R135). -/
def State.accessStep (s : State) (a : Agent) (x : Access) : State :=
  match x with
  | .entry k => s.performEntry a k
  | .fold k =>
    match ((s.thread? a).getD .empty).xfers[k]? with
    | some y => if s.engineRuns a then s.foldOne a y else s
    | none => s
  | .element seq i => if s.mayRun a then s.loadEarly a seq i else s
  | .load => if s.engineRuns a then (s.performFlight a).getD s else s

/-- COPY_COMMAND (R244): the next sector, of bank `x.bank` where the banks go on by themselves (R104). -/
def execCopyCommand (ag : Agent) (x : CopyPart) (s : State) : Out := .next (s.copyStep ag x.xfer x.bank)

/-- COPY_COMPLETION (R245). -/
def execCopyCompletion (ag : Agent) (x : Nat) (s : State) : Out := .next (s.copyDone ag x)

/-- ACCESS_PERFORMED (R112). -/
def execAccessPerformed (ag : Agent) (x : Access) (s : State) : Out := .next (s.accessStep ag x)

/-- The class of an MMA slot update by its operands' tag (R428). -/
def mmaClass : Tag → Nat
  | .f64 => 4
  | .f32 => 5
  | .f16 | .bf16 => 6
  | .f8a | .f8b => 7
  | _ => 8

/-- Charge a unit that has been completed, of MMA by its slots and of a tile move by its sectors of the scratchpad (R428);
`t` is the thread before it. -/
def State.chargeUnit (s : State) (a : Agent) (t : Thread) : State :=
  match t.mq with
  | [] => s
  | m :: _ =>
    let now := ((s.thread? a).getD .empty).mq.find? fun x => x.ord = m.ord
    let moved := match now with
      | some x => decide (m.pi < x.pi)
      | none => true
    match m.op with
    | .mma _ _ _ _ =>
      if moved then s.charge a.gang (mmaClass m.tagA) ((m.mrows + 1) * min 32 (m.vl - 32 * m.pi)) else s
    | .mld | .mst =>
      let sectors := (m.moveSlots m.pi).foldl (fun (l : List Nat) x =>
        let k := (m.slotAddr x.1 x.2).toNat / 32
        if l.contains k then l else l ++ [k]) []
      if moved then s.charge a.gang 9 sectors.length else s
    | _ => s

/-- Whether a hart has a matrix unit ready to be performed (R274). -/
def State.matrixReady (s : State) (a : Agent) : Bool :=
  let t := (s.thread? a).getD .empty
  match t.mq with
  | [] => false
  | m :: _ =>
    s.engineRuns a && !t.debug && !t.frz && !m.stuck && (s.gangOf a.gang).haltReq.isNone && s.unitReady a m

/-- The place of a hart in the engine's rotation: gang slot, then hart number (R274). -/
def State.matrixPlace (s : State) (a : Agent) : Nat :=
  8 * (s.gangOf a.gang).slot + match a.role with
    | .hart h => h
    | .access => 8

/-- The hart of a core that the engine takes its next unit from: among those with one ready, the next after the last in
rotation (R274). -/
def State.nextMatrix (s : State) (core : Nat) : Option Agent :=
  let ready := ((s.residents core).flatMap fun x =>
    (List.range x.2.harts.length).map fun h => (⟨x.1, .hart h⟩ : Agent)).filter s.matrixReady
  (ready.find? fun a => decide ((s.core core).rotor ≤ s.matrixPlace a)).or ready.head?

/-- MATRIX_UNIT_COMPLETION (R274): a unit of the matrix record of that place in the push order, which is the oldest of
its hart, when the rotation has come to it. -/
def execMatrixUnitCompletion (ag : Agent) (ord : Nat) (s : State) : Out :=
  let core := (s.gangOf ag.gang).core
  let t := (s.thread? ag).getD .empty
  let mine := match t.mq with
    | m :: _ => decide (m.ord = ord)
    | [] => false
  .next (
    if mine && s.nextMatrix core = some ag then
      ((s.matrixUnit ag).chargeUnit ag t).modCore core fun c => { c with rotor := s.matrixPlace ag + 1 }
    else s)

end Sys2Proof.Machine
end

