-- ==== Sys2Proof/Machine/Collect.lean ====
section
/-! DEFINITION. Collectives: the group registers of a gang, contributions and receives, the context that carries them
for a gang with no access program, and the forming and delivery of chunks (R263 to R271). -/

namespace Sys2Proof.Machine

/-- The group table's entry (R263). -/
def PartSt.group? (p : PartSt) (gidx : Nat) : Option GroupEntry := p.groups.find? fun e => e.gidx = gidx

/-- A gang's rank in a group (R263): its module, launch identifier and gang number. -/
def State.rankIn (s : State) (g : Gang) (e : GroupEntry) : Option Nat :=
  match s.launchOf g with
  | none => none
  | some l => e.ranks.findIdx? fun r => r = (s.mod.fmodid.toNat % 2 ^ 16, l.lid, g.number)

/-- What a member's write to cgroup ends of the group's chunks (R262, R263, R266): results that the gang has not received
under the numbers it gives up, contributions already formed into a chunk, and the unclaimed entries that its context
pushed ahead to lq7 (R269; DESIGN CHOICE, log 95). -/
def State.endSeries (s : State) (gi : Nat) : State :=
  let g := s.gangOf gi
  let c := g.coll
  if c.notMem then s
  else
    let ahead (e : Entry) : Bool :=
      !s.hasAccess g && e.chunk.isSome && !e.claimed && decide (e.prog < e.count) && e.cause.isNone
    let gone := (g.ents.filter ahead).map (·.id)
    (s.modPart (s.partOfCore g.core) fun p => { p with
      chunks := p.chunks.filter fun x => !(x.sent && x.gidx = c.gidx)
      results := p.results.filter fun r => !(r.1 = c.gidx && r.2.1 = c.rank && decide (c.recv ≤ r.2.2.1)) }).modGang gi
        fun g => { g with
          ents := g.ents.filter fun e => !gone.contains e.id
          lq := modifyAt g.lq 7 fun q => q.filter fun i => !gone.contains i }

/-- A write to cgroup (R263). -/
def State.writeCgroup (s : State) (gi gidx : Nat) : State :=
  let s := s.endSeries gi
  let g := s.gangOf gi
  let e := (s.part (s.partOfCore g.core)).group? gidx
  let rank := e.bind fun e => s.rankIn g e
  s.modGang gi fun g => { g with coll := { g.coll with
    gidx := gidx
    rank := rank.getD 0
    notMem := rank.isNone
    broken := match e with
      | some e => e.broken
      | none => false
    nrm1 := match e with
      | some e => e.ranks.length - 1
      | none => 0
    sent := 0
    recv := 0 } }

/-- A write to cop (R264). -/
def CollRegs.writeCop (c : CollRegs) (v : Word) : CollRegs :=
  let n := v.toNat
  { c with
    kind := if n % 8 ≤ 4 then n % 8 else c.kind
    op := if n / 8 % 8 ≤ 5 then n / 8 % 8 else c.op
    tag := n / 64 % 32
    root := n / 4096 % 4096 }

/-- The value of cop. -/
def CollRegs.cop (c : CollRegs) : Word := BitVec.ofNat 64 (c.kind + 8 * c.op + 64 * c.tag + 4096 * c.root)

/-- The value of cgroup. -/
def CollRegs.cgroup (c : CollRegs) : Word :=
  BitVec.ofNat 64 (c.gidx + c.rank * 2 ^ 16 + (if c.notMem then 2 ^ 30 else 0) + (if c.broken then 2 ^ 31 else 0) +
    c.nrm1 * 2 ^ 32)

/-- Tags of collectives (R265). -/
def collTag (code : Nat) : Option Tag :=
  match Tag.ofCode code with
  | some t => match t with
    | .f64 | .f32 | .f16 | .bf16 | .f8a | .f8b | .i32 | .i64 | .n32 | .n64 => some t
    | _ => none
  | none => none

/-- Strips of a slot of a deterministic launch (R31, R268). -/
def Launch.stripsOf (l : Launch) (c : Nat) : Nat := (c + 1) * l.nstrip / l.cslots - c * l.nstrip / l.cslots

/-- A reduction. -/
def CollRegs.reduces (c : CollRegs) : Bool := c.kind = 1 || c.kind = 2

/-- Whether a gang's group breaks the rule of a deterministic launch, or its slot contributes nothing (R268). -/
def State.determFails (s : State) (g : Gang) : Bool :=
  match s.launchOf g with
  | none => false
  | some l =>
    l.determ &&
      (decide (g.coll.nrm1 + 1 ≠ l.cslots) ||
        (match (s.part (s.partOfCore g.core)).group? g.coll.gidx with
          | some e => e.ranks.map (·.2.2) ≠ List.range l.cslots
          | none => true) ||
        (g.coll.reduces && l.stripsOf g.number = 0))

/-- The checks of R265 and R268 on a contribution, given the count and tag of its entry, or on a receive: the cause. -/
def State.collCause (s : State) (g : Gang) (entry : Option (Nat × Tag)) : Option Nat :=
  let c := g.coll
  if c.notMem || c.broken then some cCGBROKEN
  else
    match collTag c.tag with
    | none => some cQERR
    | some t =>
      if c.kind = 0 || c.clen = 0 || g.ecap < c.clen || c.nrm1 < c.root || g.w < t.width ||
          (c.reduces && t.floating && decide (3 ≤ c.op)) then some cQERR
      else
        match entry with
        | some (n, et) =>
          if n ≠ c.clen || et ≠ t || (c.kind = 3 && decide (c.rank ≠ c.root)) || s.determFails g then some cQERR
          else none
        | none => if c.kind = 2 && decide (c.rank ≠ c.root) then some cQERR else none

/-- The contribution that a gang's registers make of an entry's data (R266, R268). -/
def State.contributionOf (s : State) (g : Gang) (d : List (BitVec 64)) : Chunk :=
  let c := g.coll
  let per := match s.launchOf g with
    | some l => if l.determ && c.reduces then l.stripsOf g.number else 1
    | none => 1
  { gidx := c.gidx, rank := c.rank, k := c.sent / per, num := c.sent % per, kind := c.kind, op := c.op,
    tag := (collTag c.tag).getD .f64, root := c.root, clen := c.clen, data := d, sent := false }

/-- Two contributions to one chunk agree (R266). -/
def Chunk.agrees (a b : Chunk) : Bool :=
  a.kind = b.kind && a.op = b.op && a.tag = b.tag && a.clen = b.clen && a.root = b.root

/-- A contribution is accepted (R270); one that differs from another to its chunk breaks the group (R271). -/
def State.acceptChunk (s : State) (part : Nat) (c : Chunk) : State :=
  let p := s.part part
  if p.chunks.any fun b => b.gidx = c.gidx && b.k = c.k && !b.agrees c then s.breakGroup part c.gidx
  else s.modPart part fun p => { p with chunks := p.chunks ++ [c] }

/-- Elements of an entry. -/
def entryList (e : Entry) : List (BitVec 64) := (List.range e.count).map e.data.get

/-- Add to a gang's SENT or RECV. -/
def countColl (g : Gang) (send : Bool) : Gang :=
  { g with coll :=
      if send then { g.coll with sent := (g.coll.sent + 1) % 2 ^ 32 }
      else { g.coll with recv := (g.coll.recv + 1) % 2 ^ 32 } }

/-- AST.CL (R265): the form reads its registers and its entry at issue. The record keeps the contribution's numbers in
`opa` and its parameters in `opb`. -/
def State.pushAstCl (s : State) (d : BitVec 6) : Push State := do
  s.named ⟨[d], none, false, false⟩
  let (x, s) ← s.vsource none d
  let g := s.myGang
  match s.collCause g (some (x.count, x.tag)) with
  | some c => .error (.trap c)
  | none =>
    let r := { s.blank .contribute x.count with
      srcA := x.src, tagA := x.tag, opa := BitVec.ofNat 64 (g.coll.sent + g.coll.clen * 2 ^ 32),
      opb := BitVec.ofNat 64 (g.coll.gidx + g.coll.rank * 2 ^ 8 + g.coll.nrm1 * 2 ^ 20 + g.coll.cop.toNat * 2 ^ 32),
      pops := popsOf [x] }
    (s.modGang s.who.gang fun g => countColl g true).pushVec r

/-- The registers as a queued collective form read them at issue. -/
def VRec.collRegs (r : VRec) (c : CollRegs) : CollRegs :=
  let n := r.opb.toNat
  let cop := n / 2 ^ 32
  { c with
    gidx := n % 256, rank := n / 2 ^ 8 % 4096, nrm1 := n / 2 ^ 20 % 4096, kind := cop % 8, op := cop / 8 % 8,
    tag := cop / 64 % 32, root := cop / 4096 % 4096, sent := r.opa.toNat % 2 ^ 32, recv := r.opa.toNat % 2 ^ 32,
    clen := r.opa.toNat / 2 ^ 32 }

/-- A queued form raises CGBROKEN at its own step, and reads its registers again when it is replayed (R271, R388). -/
def State.collRaise (s : State) (a : Agent) (r : VRec) (code : Nat) : State :=
  (s.raiseVec a r 0 0 code 0 0).modRec a r.seq fun r => { r with opa := BitVec.allOnes 64 }

/-- The form has raised its cause and has to read its registers again. -/
def VRec.reread (r : VRec) : Bool := r.opa = BitVec.allOnes 64

/-- The step of AST.CL (R265, R270): it takes an entry of the interlock table while its chunk is accepted. -/
def State.contributeStep (s : State) (a : Agent) (r : VRec) : State :=
  let g := s.gangOf a.gang
  let entry := match r.srcA with
    | .entry id => g.entry? id
    | _ => none
  match entry with
  | none => s
  | some e =>
    if 16 ≤ ((s.thread? a).getD .empty).xfers.length then s
    else
      let part := s.partOfCore g.core
      let c := if r.reread then g.coll else r.collRegs g.coll
      let cause := if r.reread then s.collCause g (some (e.count, e.tag))
        else if g.coll.broken && decide (g.coll.gidx = c.gidx) then some cCGBROKEN else none
      match cause with
      | some code => s.collRaise a r code
      | none =>
        let s := if r.reread then s.modGang a.gang fun g => countColl g true else s
        (s.acceptChunk part (s.contributionOf { g with coll := c } (entryList e))).commit a r 0 []

/-- ALD.CL (R265). -/
def State.pushAldCl (s : State) (d : BitVec 6) : Push State := do
  let fs : Fields := ⟨[], some d, true, false⟩
  s.named fs
  let dst := s.vdest fs
  match dst with
  | .lq _ _ =>
    let g := s.myGang
    if g.ecap = 0 then .error (.wait .busy)
    else
      match s.collCause g none with
      | some c => .error (.trap c)
      | none =>
        let t := (collTag g.coll.tag).getD .f64
        let r := { s.blank .receive g.coll.clen with
          dst := dst, opTag := t, outTag := t, opa := BitVec.ofNat 64 (g.coll.recv + g.coll.clen * 2 ^ 32),
          opb := BitVec.ofNat 64 (g.coll.gidx + g.coll.rank * 2 ^ 8 + g.coll.nrm1 * 2 ^ 20 + g.coll.cop.toNat * 2 ^ 32) }
        (s.modGang s.who.gang fun g => countColl g false).pushVec r
  | _ => illopP

/-- The entry's transfer of a receive, by the sequence number of its form. -/
def Thread.hasReceive (t : Thread) (seq : Nat) : Bool :=
  t.xfers.any fun x => x.seq = seq && match x.kind with
    | .receive => true
    | _ => false

/-- The step of ALD.CL once its entry stands in its queue: it asks for its chunk, and completes when the entry is
filled (R254, R265, R270). -/
def State.receiveStep (s : State) (a : Agent) (r : VRec) : State :=
  let g := s.gangOf a.gang
  let t := (s.thread? a).getD .empty
  let entry := match r.dst with
    | .lq _ (some id) => g.entry? id
    | _ => none
  match entry with
  | none => s
  | some e =>
    let free (s : State) : State := s.modThread a fun t => { t with xfers := t.xfers.filter fun x => x.seq ≠ r.seq }
    if r.reread then
      match s.collCause g none with
      | some code => s.collRaise a r code
      | none =>
        let c := g.coll
        let tag := (collTag c.tag).getD .f64
        let s := s.modGang a.gang fun g => countColl (g.modEntry e.id fun e =>
          { e with
            tag := tag, count := c.clen, prog := 0, data := zeroData tag c.clen
            chunk := some (c.gidx, c.rank, c.recv) }) false
        s.modRec a r.seq fun r => { r with
          vl := c.clen, opTag := tag, outTag := tag, opa := BitVec.ofNat 64 (c.recv + c.clen * 2 ^ 32) }
    else if e.chunk.isSome && decide (e.count ≤ e.prog) then
      (free s).modRec a r.seq fun r => { r with pi := 1, done := true }
    else if g.coll.broken && decide (g.coll.gidx = (r.collRegs g.coll).gidx) then s.collRaise a r cCGBROKEN
    else if t.hasReceive r.seq then s
    else if 16 ≤ t.xfers.length then s
    else
      let c := r.collRegs g.coll
      let x := Xfer.new .receive r.seq r.pc r.word 0 none none none r.epoch
      (s.modThread a fun t => { t with xfers := t.xfers ++ [x] }).modGang a.gang fun g =>
        g.modEntry e.id fun e => { e with chunk := some (c.gidx, c.rank, c.recv) }

/-- An entry waits for a chunk (R254, R265). -/
def Entry.waitsFor (e : Entry) (gidx rank k : Nat) : Bool :=
  e.chunk = some (gidx, rank, k) && decide (e.prog < e.count) && e.cause.isNone

/-- Put a result into the entry that waits for it, in a gang that is on a core. -/
def deliverTo (g : Gang) (gidx rank k : Nat) (d : List (BitVec 64)) : Gang :=
  { g with ents := g.ents.map fun e =>
      if e.waitsFor gidx rank k then
        { e with data := (d.mapIdx fun i v => (i, v)).foldl (fun m x => m.set x.1 x.2) e.data, prog := e.count }
      else e }

/-- Whether a resident gang has an entry that waits for a result. -/
def State.awaits (s : State) (part : Nat) (g : Gang) (gidx rank k : Nat) : Bool :=
  decide (g.st = .resident) && s.partOfCore g.core = part &&
    g.ents.any (·.waitsFor gidx rank k)

/-- Deliver the results of a chunk number that some entry waits for; the others are held (R390). RECV counts a chunk that
the context of R269 receives when it is delivered (R262). -/
def State.deliverResults (s : State) (part gidx k : Nat) : State :=
  let p := s.part part
  let (now, later) := p.results.partition fun r =>
    r.1 = gidx && r.2.2.1 = k && s.gangs.any fun g => s.awaits part g r.1 r.2.1 r.2.2.1
  let s := s.modPart part fun p => { p with results := later }
  let one (s : State) (r : Nat × Nat × Nat × List (BitVec 64)) : State :=
    let put (g : Gang) : Gang :=
      if s.awaits part g r.1 r.2.1 r.2.2.1 then
        let g := deliverTo g r.1 r.2.1 r.2.2.1 r.2.2.2
        if !s.hasAccess g && g.coll.gidx = r.1 && g.coll.rank = r.2.1 then countColl g false else g
      else g
    { s with gangs := s.gangs.map put }
  now.foldl one s

/-- The NaN of R90 that names a rank. -/
def rankNan (t : Tag) (rank : Nat) : BitVec 64 :=
  match t with
  | .f64 => 0x7FF8000000000000#64 ||| BitVec.ofNat 64 (rank % 2 ^ 51)
  | .f32 => 0x7FC00000#64 ||| BitVec.ofNat 64 (rank % 2 ^ 22)
  | .f16 => 0x7E00#64 ||| BitVec.ofNat 64 (rank % 2 ^ 9)
  | .bf16 => 0x7FC0#64 ||| BitVec.ofNat 64 (rank % 2 ^ 6)
  | _ => canonicalNan t

/-- One level of the tree of R267. -/
def treeLevel (op : FoldFn) (t : Tag) : List (Option (BitVec 64)) → List (Option (BitVec 64))
  | x :: y :: l => (match x, y with
      | none, y => y
      | x, none => x
      | some a, some b => some (foldStep op t a b).1) :: treeLevel op t l
  | l => l

/-- The pairwise tree of R267. -/
def treeFold (op : FoldFn) (t : Tag) : Nat → List (Option (BitVec 64)) → Option (BitVec 64)
  | 0, l => l.headD none
  | n + 1, l => if l.length ≤ 1 then l.headD none else treeFold op t n (treeLevel op t l)

/-- One element of a reduced chunk from the contributions in rank and contribution order (R90, R267, R268). A group of one
rank gives the one contribution's bits. -/
def foldElem (op : FoldFn) (t : Tag) (determ : Bool) (ranks : Nat) (xs : List (Nat × BitVec 64)) : BitVec 64 :=
  match if t.floating && !(ranks = 1 && xs.length = 1) then xs.find? fun x => (decode t x.2).isNan else none with
  | some x => rankNan t x.1
  | none =>
    if determ then
      match xs with
      | [] => 0
      | x :: l => l.foldl (fun a y => (foldStep op t a y.2).1) x.2
    else (treeFold op t 13 (xs.map fun x => some x.2)).getD 0

/-- Elements of a reduced chunk. -/
def foldChunk (determ : Bool) (ranks : Nat) (cs : List Chunk) : List (BitVec 64) :=
  match cs with
  | [] => []
  | c :: _ =>
    (List.range c.clen).map fun e =>
      foldElem ((FoldFn.ofCode c.op).getD .add) c.tag determ ranks (cs.map fun x => (x.rank, (x.data[e]?).getD 0))

/-- Insert contributions in rank order, and within a rank in contribution order. -/
def orderChunks (cs : List Chunk) : List Chunk := sortBy (fun c => c.rank * 2 ^ 32 + c.num) cs

/-- The deterministic launch that the members of a group on this module belong to. -/
def State.groupLaunch (s : State) (part : Nat) (e : GroupEntry) : Option Launch :=
  match e.ranks with
  | (_, lid, _) :: _ => s.launches.find? fun l => l.part = part && l.lid = lid && !l.complete
  | [] => none

/-- How many contributions a rank makes to a reduced chunk (R268). -/
def contributionsOf (l : Option Launch) (rank : Nat) : Nat :=
  match l with
  | some l => if l.determ then l.stripsOf rank else 1
  | none => 1

/-- Form the results of chunk k of a group, when what they need has been accepted (R266 to R268). Results of ranks on
other modules leave over the fabric. A contribution of BCAST is kept, for another rank may still contribute to its chunk
under other parameters (R266). -/
def State.formChunk (s : State) (part : Nat) (e : GroupEntry) (k : Nat) : State :=
  let p := s.part part
  let cs := orderChunks (p.chunks.filter fun c => c.gidx = e.gidx && c.k = k)
  let ranks := e.ranks.length
  let here (r : Nat) : Bool := match e.ranks[r]? with
    | some x => x.1 = s.mod.fmodid.toNat % 2 ^ 16
    | none => false
  let put (rs : List (Nat × List (BitVec 64))) (keep : Chunk → Option Chunk) : State :=
    s.modPart part fun p => { p with
      chunks := p.chunks.filterMap fun c => if c.gidx = e.gidx && c.k = k then keep c else some c
      results := p.results ++ (rs.filter fun r => here r.1).map fun r => (e.gidx, r.1, k, r.2) }
  match cs with
  | [] => s
  | c :: _ =>
    match c.kind with
    | 3 =>
      match cs.find? fun c => !c.sent with
      | some c => put ((List.range ranks).map fun r => (r, c.data)) fun x => some { x with sent := true, data := [] }
      | none => s
    | 4 =>
      let fresh := cs.filter fun c => !c.sent
      let complete := decide (ranks ≤ cs.length)
      s.modPart part fun p => { p with
        chunks := p.chunks.filterMap fun c =>
          if c.gidx = e.gidx && c.k = k then if complete then none else some { c with sent := true, data := [] } else some c
        results := p.results ++ (fresh.filter fun _ => here (k % ranks)).map fun c => (e.gidx, k % ranks, ranks * (k / ranks) + c.rank, c.data) }
    | _ =>
      let l := s.groupLaunch part e
      let determ := match l with
        | some l => l.determ
        | none => false
      if (List.range ranks).all fun r => decide (contributionsOf l r ≤ (cs.filter fun c => c.rank = r).length) then
        let v := foldChunk determ ranks cs
        put (if c.kind = 2 then [(c.root, v)] else (List.range ranks).map fun r => (r, v)) fun _ => none
      else s

/-- CHUNK_RESULT (R267): form chunk k of a group, and deliver the results of that number that are waited for. -/
def execChunkResult (p gidx chunk : Nat) (s : State) : Out :=
  let s := match (s.part p).group? gidx with
    | some e => if e.broken then s else s.formChunk p e chunk
    | none => s
  .next (s.deliverResults p gidx chunk)

/-- Whether the access-unit context carries collectives for a gang (R269). -/
def State.carries (s : State) (gi : Nat) : Bool :=
  let g := s.gangOf gi
  decide (g.st = .resident) && !s.hasAccess g && decide (g.coll.kind ≠ 0)

/-- SQ3_CONTRIBUTION (R269): the oldest entry of sq3 is contributed, or discarded with its cause delivered to the hart
that pushed it. -/
def execSq3Contribution (gang : Nat) (s : State) : Out :=
  let g := s.gangOf gang
  .next (
    if !s.carries gang then s
    else
      match g.unclaimed ((g.sq[3]?).getD []) with
      | none => s
      | some e =>
        let take (s : State) : State := s.modGang gang fun g =>
          { g with sq := modifyAt g.sq 3 fun q => q.filter (· ≠ e.id), ents := g.ents.filter fun x => x.id ≠ e.id }
        match s.collCause g (some (e.count, e.tag)) with
        | none =>
          (take ((s.acceptChunk (s.partOfCore g.core) (s.contributionOf g (entryList e))))).modGang gang
            fun g => countColl g true
        | some code =>
          let p := e.sq.getD ⟨3, 0, 0, 0, 0, 0⟩
          let c : Cause :=
            { code := code, sub := 0, src := 3, elem := 0, qdist := 0, group := 0, seq := p.seq, addr := 0, pc := p.pc,
              info := 0, word := p.word, acc := 0, ord := p.ord }
          (take s).modThread ⟨gang, .hart p.hart⟩ fun t => { t with causes := t.causes ++ [c] })

/-- Whether a rank receives chunks under its registers (R266, R269). -/
def CollRegs.receives (c : CollRegs) : Bool := !(c.kind = 2 && decide (c.rank ≠ c.root))

/-- A hart of a gang is stalled at the read of an empty lq7 (R35). -/
def Gang.someWaiting (g : Gang) : Bool := g.harts.any fun t => !t.ended && decide (t.stall = .entry 7)

/-- The next chunk that the context of R269 is to receive: those received, and those that entries already wait for. -/
def Gang.nextChunk (g : Gang) : Nat :=
  let mine (e : Entry) : Bool := match e.chunk with
    | some (i, r, k) => i = g.coll.gidx && r = g.coll.rank && e.waitsFor i r k
    | none => false
  (g.coll.recv + (g.ents.filter mine).length) % 2 ^ 32

/-- LQ7_RECEIVE (R269): an entry for the next chunk is pushed to lq7, or one that carries a cause. Between the writes of
cop and cstride, while CLEN is 0, it pushes none unless a hart waits (DEDUCED, log 82). -/
def execLq7Receive (gang : Nat) (s : State) : Out :=
  let g := s.gangOf gang
  let q := (g.lq[7]?).getD []
  .next (
    if !s.carries gang || !g.qen.getLsbD 7 || g.bound.contains 7 || decide (2 ≤ q.length) || g.ecap = 0 ||
        (g.coll.clen = 0 && !g.someWaiting) || (!g.coll.notMem && !g.coll.receives) then s
    else
      let push (s : State) (e : Entry) : State := s.modGang gang fun g =>
        { g with ents := g.ents ++ [e], entNext := g.entNext + 1, lq := modifyAt g.lq 7 (· ++ [e.id]) }
      match s.collCause g none with
      | some code => push s ⟨g.entNext, Tag.default g.w, 0, 0, [], false, some code, none, none⟩
      | none =>
        let t := (collTag g.coll.tag).getD .f64
        push s ⟨g.entNext, t, g.coll.clen, 0, zeroData t g.coll.clen, false, none,
          some (g.coll.gidx, g.coll.rank, g.nextChunk), none⟩)

/-- ALD.CL (R256, R265). -/
def execAldCl (q : BitVec 3) (s : State) : Out := s.access (s.pushOut (s.pushAldCl (7#3 ++ q)))

/-- AST.CL (R256, R265). -/
def execAstCl (q : BitVec 2) (s : State) : Out := s.access (s.pushOut (s.pushAstCl (14#4 ++ q)))

end Sys2Proof.Machine
end

