-- ==== Sys2Proof/Machine/Launch.lean ====
section
/-! DEFINITION. Accepting a launch: the descriptor, the code object's header and the sections read at acceptance, the
dealing of panel records, and the rings (R17 to R19, R23, R162 to R165, R419, R420). -/

namespace Sys2Proof.Machine

/-- Offset and length of section k of a header: 0 code, 1 data, 2 coefficients, 3 direction numbers. -/
def sectionOf (w : List Word) (k : Nat) : Nat × Nat := (lo32 ((w[4 + k]?).getD 0), hi32 ((w[4 + k]?).getD 0))

/-- Sections follow in order, each at a 256-byte boundary, and a section of length 0 has offset 0 (R162). -/
def sectionsOk : Nat → List (Nat × Nat) → Bool
  | _, [] => true
  | lo, (off, len) :: rest =>
    if len = 0 then decide (off = 0) && sectionsOk lo rest
    else decide (off % 256 = 0) && decide (lo ≤ off) && sectionsOk (off + len) rest

/-- The header of a code object meets R162, and its coefficient section the limit of R163. -/
def headerOk (w : List Word) : Bool :=
  let d (k : Nat) : Nat := ((w[k]?).getD 0).toNat
  let nv := d 2 % 256
  let width := d 2 / 256 % 256
  let code := (sectionOf w 0).2
  let entry := d 1 % 2 ^ 32
  let aentry := d 1 / 2 ^ 32
  decide (d 0 % 2 ^ 48 = 0x1414B4E47) && decide (d 0 / 2 ^ 48 < 8) &&
  decide (entry % 4 = 0) && decide (entry < code) &&
  (decide (d 0 / 2 ^ 48 % 2 = 0) || (decide (aentry % 4 = 0) && decide (aentry < code))) &&
  decide (8 ≤ nv) && decide (nv ≤ 56) && decide (nv % 8 = 0) &&
  (width = 1 || width = 2 || width = 4 || width = 8) &&
  decide (d 2 / 2 ^ 20 % 16 = 0) && decide (d 2 / 2 ^ 24 % 16 ≤ 12) && decide (d 2 / 2 ^ 28 % 16 = 0) &&
  decide (d 3 ≤ 1024) &&
  sectionsOk 128 [sectionOf w 0, sectionOf w 1, sectionOf w 2, sectionOf w 3] &&
  decide ((sectionOf w 2).2 ≤ 16384) && ((List.range 7).all fun k => decide (d (9 + k) = 0))

/-- The fields of a header (R162). A header that breaks a rule declares nothing (log 21). -/
def Header.ofWords (kobj : Word) (w : List Word) : Header :=
  let d (k : Nat) : Nat := ((w[k]?).getD 0).toNat
  let entry := kobj + BitVec.ofNat 64 ((sectionOf w 0).1 + d 1 % 2 ^ 32)
  if headerOk w then
    { ok := true, nv := d 2 % 256, w := d 2 / 256 % 256, gang := d 2 / 2 ^ 16 % 16, acc := d 2 / 2 ^ 24 % 16,
      shelf := d 2 / 2 ^ 32, life := d 3 % 2 ^ 11, access := decide (d 0 / 2 ^ 48 % 2 = 1), entry := entry,
      aentry := kobj + BitVec.ofNat 64 ((sectionOf w 0).1 + d 1 / 2 ^ 32),
      dirAddr := kobj + BitVec.ofNat 64 (sectionOf w 3).1, dirLen := (sectionOf w 3).2 }
  else
    { ok := false, nv := 8, w := 8, gang := 0, acc := 0, shelf := 0, life := 0, access := false, entry := entry,
      aentry := 0, dirAddr := 0, dirLen := 0 }

/-- Scratchpad blocks of a shape (R19, R96). -/
def Header.blocks (h : Header) : Nat := (h.shelf + 4095) / 4096

/-- Gang capacity of a core (R19). -/
def Header.capacity (h : Header) (harts : Nat) : Nat :=
  let a := if h.acc = 0 then 4 else 12 / h.acc
  let b := if h.blocks = 0 then 4 else 12288 / h.blocks
  min (min 4 (8 / harts)) (min a b)

/-- Whether a launch still holds a place in its queue: some gang was never placed (R419). -/
def Launch.queued (l : Launch) : Bool :=
  !l.complete && decide ((l.killed.filter fun k => decide (l.next ≤ k)).length < l.gangs - l.next)

/-- Logical cores of a partition (R406). -/
def State.partCores (s : State) : Nat := 256 / 2 ^ s.mod.plog

/-- First logical core of a partition. -/
def State.firstCore (s : State) (part : Nat) : Nat := part * s.partCores

/-- The lowest launch identifier that no incomplete launch of the partition holds (R419). -/
def State.freeLid (s : State) (part : Nat) : Option Nat :=
  (List.range 65536).find? fun k => !(s.launches.any fun l => l.part = part && l.lid = k && !l.complete)

/-- The rules of R18 that the descriptor alone decides: code 1. -/
def badDesc (va : Word) (w : List Word) : Bool :=
  let d (k : Nat) : Nat := ((w[k]?).getD 0).toNat
  let panel := decide (d 4 / 1024 % 2 = 1)
  decide (va.toNat % 64 ≠ 0) || decide (d 0 % 256 ≠ 0) || (panel && decide (d 2 % 64 ≠ 0)) ||
  (decide (d 7 ≠ 0) && (decide (d 7 % 8 ≠ 0) || inWindow (d 7))) ||
  decide (d 4 / 2 ^ 7 % 2 ≠ 0) || decide (d 4 / 2 ^ 11 % 32 ≠ 0) || decide (d 4 / 2 ^ 24 % 256 ≠ 0) ||
  decide (2 ^ 41 ≤ d 4)

/-- Codes 2 and 3 of R18. -/
def shapeCode (w : List Word) (cores : Nat) : Option Nat :=
  let d (k : Nat) : Nat := ((w[k]?).getD 0).toNat
  let harts := d 4 % 16
  let gangs := d 3 % 2 ^ 32
  let c := d 4 / 2 ^ 32 % 512
  let first := d 4 / 2 ^ 16 % 256
  if harts = 0 || 8 < harts || gangs = 0 || 1048576 < gangs || c = 0 || 256 < c || cores < first + c then some 2
  else if d 4 / 512 % 2 = 1 &&
      (gangs ≠ c || decide (d 5 % 2 ^ 32 = 0) || (decide (d 4 / 1024 % 2 = 1) && decide (d 3 / 2 ^ 32 ≠ d 5 % 2 ^ 32))) then
    some 3
  else none

/-- Deal the panel records of a normal panel launch (R23). -/
def dealPanels (panelq first c p : Nat) : List TaskQueue :=
  (List.range c).map fun i =>
    { core := first + i
      recs := (List.range ((p + c - 1 - i) / c)).map fun m => (BitVec.ofNat 64 (panelq + 64 * (c * m + i)), false)
      heard := [] }

/-- What is read of a code object at acceptance (R163): the header, the coefficient words and DIMS; else the cause of the
read that faults, or a wait (R459). The last doubleword of a coefficient section is read whole, and of the directory's first doubleword bits [63:16]
are ignored and DIMS has no bound (DESIGN CHOICE, log 98). -/
def State.readObject (s : State) (part lvl : Nat) (kobj : Word) : Except Nat (Header × Sparse 64 × Nat) :=
  match s.readFor part lvl kobj.toNat 16 with
  | .error e => .error e
  | .ok w =>
    let h := Header.ofWords kobj w
    if !h.ok then .ok (h, [], 0)
    else
      let (off, len) := sectionOf w 2
      match s.readFor part lvl (kobj.toNat + off) ((len + 7) / 8) with
      | .error e => .error e
      | .ok cs =>
        let put (m : Sparse 64) (x : Nat × Word) : Sparse 64 := m.set x.1 x.2
        let coef := (cs.mapIdx fun i v => (i, v)).foldl put []
        if h.dirLen = 0 then .ok (h, coef, 0)
        else
          match s.readFor part lvl h.dirAddr.toNat 1 with
          | .error e => .error e
          | .ok d => .ok (h, coef, ((d[0]?).getD 0).toNat % 2 ^ 16)

/-- Submit a descriptor already read (R18, R19, R419): the status value, and the state with the launch queued when it
is accepted; none while what is read of the code object is in training (R459). -/
def State.submitWords (s : State) (part : Nat) (super : Bool) (va : Word) (w : List Word) : Option (Word × State) :=
  let level := if super then 1 else 0
  if badDesc va w then some (1, s)
  else
    match s.readObject part level ((w[0]?).getD 0) with
    | .error e => if e = cWAIT then none else some (1, s)
    | .ok (h, coef, dims) =>
      match shapeCode w s.partCores with
      | some c => some (BitVec.ofNat 64 c, s)
      | none =>
        let l : Launch :=
          { part := part, lid := 0, desc := w, level := level, super := super, head := h, coef := coef, dirDims := dims,
            queues := [], left := 0, outcome := 0, eacct := 0, effPrio := 0, waited := 0, samples := 0,
            acceptOrd := s.stamp, next := 0, killed := [], retired := 0, complete := false, epochs := [],
            progressed := false }
        if (l.coresident || l.determ) && decide (h.capacity l.harts * l.cslots < l.gangs) then some (4, s)
        else
          let full :=
            if super then decide (16 ≤ (s.launches.filter fun x => x.part = part && x.super && x.queued).length)
            else decide (256 ≤ (s.launches.filter fun x =>
              x.part = part && !x.super && x.queued && decide (x.prio = l.prio)).length)
          match if full then none else s.freeLid part with
          | none => some (5, s)
          | some lid =>
            let first := s.firstCore part + l.first
            let l := { l with
              lid := lid, effPrio := l.prio, left := if l.panels then l.npanel else 0
              eacct := (l.dw 6 : Int) * 2 ^ 20
              queues := if l.panels && !l.determ then dealPanels (l.dw 2) first l.cslots l.npanel else [] }
            some (BitVec.ofNat 64 (lid * 2 ^ 16), { s with launches := s.launches ++ [l], stamp := s.stamp + 1 })

/-- Submit the descriptor at an address of a ring entry, read for the launch (R412, R420); none while it waits (R459). -/
def State.submitRing (s : State) (part : Nat) (super : Bool) (va : Word) : Option (Word × State) :=
  if va.toNat % 64 ≠ 0 then some (1, s)
  else
    match s.readFor part (if super then 1 else 0) va.toNat 8 with
    | .error e => if e = cWAIT then none else some (1, s)
    | .ok w => s.submitWords part super va w

/-- LAUNCH (R189): a package-scope release first; a descriptor that cannot be read is BADDESC. -/
def execLaunch (d a : BitVec 6) (s : State) : Out :=
  s.hart (
    if s.gangDeterm s.myGang then s.illop
    else s.afterRelease 4 fun s =>
      let va := s.x a
      if va.toNat % 64 ≠ 0 || inWindow va.toNat then s.retWith d 1
      else
        match s.readDwords s.who s.me.lvl va.toNat 8 with
        | .error e => if e.code = cWAIT then s.stallFor .busy else s.retWith d 1
        | .ok (w, s) =>
          match s.submitWords s.myPart false va w with
          | some (v, s) => s.retWith d v
          | none => s.stallFor .busy)

/-- The ring of a partition from its address up: the supervisor's or the ordinary one (R409, R420). -/
def PartSt.ring (p : PartSt) (super : Bool) : Nat := (if super then p.ssring else p.sring).toNat / 2 ^ 12 % 2 ^ 40 * 2 ^ 12

/-- HEAD of a ring. -/
def PartSt.head (p : PartSt) (super : Bool) : BitVec 16 := if super then p.headS else p.headO

/-- TAIL of the last doorbell accepted for a ring. -/
def PartSt.tail (p : PartSt) (super : Bool) : BitVec 16 := if super then p.tailS else p.tailO

/-- One entry of a ring is done with (R420). -/
def PartSt.bumpHead (p : PartSt) (super : Bool) : PartSt :=
  if super then { p with headS := p.headS + 1 } else { p with headO := p.headO + 1 }

/-- The entry at HEAD of a ring (R420): its descriptor is submitted and its status written, or it is skipped; none while
what that reads or writes is in training (R459). -/
def State.serveEntry (s : State) (part : Nat) (super : Bool) : Option State :=
  let p := s.part part
  let lvl := if super then 1 else 0
  let bump (s : State) : State := s.modPart part (·.bumpHead super)
  let skip : State := (bump s).modPart part fun p => { p with ringerr := true }
  match s.readFor part lvl (p.ring super + 32 * ((p.head super).toNat % 128)) 2 with
  | .error e => if e = cWAIT then none else some skip
  | .ok w =>
    let status : Word := (w[1]?).getD 0
    if status.toNat % 8 ≠ 0 then some skip
    else
      match s.translateFor part lvl .write status.toNat with
      | .error _ => some skip
      | .ok pa =>
        if s.training pa then none
        else (s.submitRing part super ((w[0]?).getD 0)).map fun x =>
          bump { x.2 with mem := x.2.mem.write pa 8 x.1.toNat }

/-- Serve at most n entries of a ring (R420). -/
def State.serveRing (s : State) (part : Nat) (super : Bool) : Nat → State
  | 0 => s
  | n + 1 =>
    if (s.part part).head super = (s.part part).tail super then s
    else
      match s.serveEntry part super with
      | some s => s.serveRing part super n
      | none => s

/-- Go on serving the rings of a partition, the supervisor's first (R420): what a channel in training has held up. -/
def State.serveRings (s : State) (part : Nat) : State := (s.serveRing part true 128).serveRing part false 128

/-- A doorbell of kind 0 or 1 (R420). -/
def State.doorbell (s : State) (part : Nat) (super : Bool) (tail : BitVec 16) : State :=
  let p := s.part part
  let ring := if super then p.ssring else p.sring
  let n := (tail - p.head super).toNat
  if part < 2 ^ s.mod.plog then
    if ring.getLsbD 0 && decide (n ≤ 128) then
      (s.modPart part fun p => if super then { p with tailS := tail } else { p with tailO := tail }).serveRing part super n
    else s.modPart part fun p => { p with ringerr := true }
  else s

/-- DOORBELL_ORDINARY (R420). -/
def execDoorbellOrdinary (p : Nat) (tail : BitVec 16) (s : State) : Out := .next (s.doorbell p false tail)

/-- DOORBELL_SUPERVISOR (R420). -/
def execDoorbellSupervisor (p : Nat) (tail : BitVec 16) (s : State) : Out := .next (s.doorbell p true tail)

/-- Every hart of a partition at level 1 or 2 receives an event (R380). -/
def State.raiseEvent (s : State) (part : Nat) (bit : BitVec 3) : State :=
  { s with gangs := s.gangs.map fun g =>
      if g.st ≠ .retired && s.partOfCore g.core = part then
        { g with harts := g.harts.map fun t => if 1 ≤ t.lvl then { t with sevent := t.sevent ||| bit } else t }
      else g }

/-- DOORBELL_DBELL (R380, R420). -/
def execDoorbellDbell (p : Nat) (s : State) : Out := .next (if p < 2 ^ s.mod.plog then s.raiseEvent p 1 else s)

end Sys2Proof.Machine
end

