-- ==== Sys2Proof/Machine/Image.lean ====
section
/-! DEFINITION. Context images: their length, their bytes, the check, and what a resumption reads (R391, R392, R395,
R399 to R401). -/

namespace Sys2Proof.Machine

/-- Where an image's block lies for an access at a level (R412, R447). -/
def State.imagePlace (s : State) (part lvl : Nat) (acc : Acc) (va : Nat) : Except Nat Nat :=
  if lvl = 2 then
    match s.regionAt va with
    | some _ => .ok va
    | none => .error cPROT
  else s.translateFor part lvl acc va

/-- One step of CRC-32C on a bit. -/
def crcBit (c : BitVec 32) : BitVec 32 := if c.getLsbD 0 then (c >>> 1) ^^^ 0x82F63B78#32 else c >>> 1

/-- CRC-32C on a byte. -/
def crcByte (c : BitVec 32) (b : BitVec 8) : BitVec 32 :=
  (List.range 8).foldl (fun c _ => crcBit c) (c ^^^ b.setWidth 32)

/-- The blocks of an allocation: gang offsets with their ages. -/
def Alloc.blocks (x : Alloc) : List (Nat × Nat) := x.ages.mapIdx fun i e => (x.off + 4096 * i, e)

/-- The saved blocks of a gang, allocation by allocation. -/
def Gang.savedBlocks (g : Gang) : List (Nat × Nat) := (g.allocs.filter fun x => !x.kept).flatMap Alloc.blocks

/-- Length of region 7 for so many blocks (R399). -/
def savedLen (n : Nat) : Nat := 256 * ((4098 * n + 255) / 256)

/-- An entry has been popped: no queue of its gang holds it (R197). -/
def Gang.hasPopped (g : Gang) (id : Nat) : Bool := !(g.lq ++ g.sq).flatten.contains id

/-- Elements of a popped entry that a record has consumed: those of the groups below its progress index, where a slide
upwards has read as many fewer as it moves them (R216); a whole-vector record starts again from the first (R387). -/
def VRec.consumed (r : VRec) : Nat :=
  match r.op with
  | .gather | .send | .cmprs | .expnd | .slideDn | .slide1Dn | .salsel _ _ | .red _ | .oexpand => 0
  | .slideUp => r.pi * r.lanes - r.opa.toNat
  | .slide1Up => r.pi * r.lanes - 1
  | _ => r.pi * r.lanes

/-- Bytes of the parts of popped queue entries that are not consumed (R387, R399). -/
def Gang.poppedBytes (g : Gang) : Nat :=
  let left (r : VRec) : Nat := ((g.ents.filter fun e => r.pops.contains e.id && g.hasPopped e.id).map fun e =>
    (e.count - r.consumed) * e.tag.width).sum
  (((g.access :: g.harts).flatMap (·.vq)).map left).sum

/-- Lengths of the regions of an image (R399), for a gang whose harts and access-unit context hold so many lanes. -/
def Gang.regionLens (g : Gang) (lanes : Nat) : List Nat :=
  let up (n : Nat) : Nat := 256 * ((n + 255) / 256)
  [4096, 8192 * (g.harts.length + 1), 24576 * lanes, up g.poppedBytes, 65536, 262144 * g.tiles.length, 256,
    savedLen g.savedBlocks.length]

/-- Offset of region k. -/
def regionOff (lens : List Nat) (k : Nat) : Nat := (lens.take k).sum

/-- vtype of a hart as a push records it (R64, R400). -/
def vtypeOf (g : Gang) (mrows blk : Nat) : Nat :=
  mrows + blk * 2 ^ 4 + g.nv / 8 * 2 ^ 8 + (if g.w = 8 then 3 else if g.w = 4 then 2 else if g.w = 2 then 1 else 0) * 2 ^ 11

/-- A source that has popped an entry. -/
def Src.popped (x : Src) (g : Gang) : Nat :=
  match x with
  | .entry id => (g.hasPopped id).toNat
  | _ => 0

/-- The eight dwords of a queue record (R400). -/
def VRec.image (r : VRec) (g : Gang) (matrix : Bool) : List Nat :=
  [r.word.toNat + r.pi % 2 ^ 12 * 2 ^ 32 + r.srcA.popped g * 2 ^ 44 + r.srcB.popped g * 2 ^ 45, r.seq, r.pc.toNat, r.vl,
    vtypeOf g r.mrows r.blk + r.tagA.code * 2 ^ 13 + r.tagB.code * 2 ^ 18 + r.tagD.code * 2 ^ 23, r.frm.toNat,
    if matrix then r.shape.toNat else r.gA.toNat, r.gB.toNat]

/-- The command record of a transfer (R400): a copy's command with its progress, or the command of another engine. -/
def Xfer.image (x : Xfer) : List Nat :=
  match x.kind with
  | .copy c =>
    [c.src.toNat, c.dst.toNat, c.rowBytes + c.rows * 2 ^ 32,
      (BitVec.ofInt 32 c.sstride).toNat + (BitVec.ofInt 32 c.dstride).toNat * 2 ^ 32,
      c.nt.toNat + 2 * c.fill.toNat + 4 * c.sysDone.toNat, c.done.toNat, c.doneVal.toNat, x.row + x.sect * 2 ^ 32]
  | .catalogue w _ _ | .recut w _ | .orchard w _ _ => w.map (·.toNat)
  | _ => []

/-- Write dwords into image bytes. -/
def putDwords (m : Memory) (off : Nat) : List Nat → Memory
  | [] => m
  | v :: vs => putDwords (m.write off 8 v) (off + 8) vs

/-- Write the records of a queue, 64 bytes each. -/
def putRecords (m : Memory) (off : Nat) : List (List Nat) → Memory
  | [] => m
  | r :: rs => putRecords (putDwords m off r) (off + 64) rs

/-- A hart's record, or the access-unit context's (R400). -/
def Thread.image (t : Thread) (g : Gang) (m : Memory) (off : Nat) : Memory :=
  let m := putDwords m off (t.pc.toNat :: (List.range 63).map fun i => (t.reg (i + 1)).toNat)
  let m := putRecords m (off + 1024) (t.vq.map (·.image g false))
  let m := putRecords m (off + 5120) (t.mq.map (·.image g true))
  putRecords m (off + 6144) (t.xfers.map Xfer.image)

/-- The registers of a lane: slot by slot, register by register (R48, R399). Where NV does not divide 16,384, register n
starts at n times the whole part of 16,384 / NV (DESIGN CHOICE, log 107). -/
def Thread.laneImage (t : Thread) (nv lanes lane : Nat) (m : Memory) (off : Nat) : Memory :=
  (List.range nv).foldl (fun m n =>
    let v := t.vreg n
    let w := v.tag.width
    (List.range (16384 / nv / w)).foldl (fun m k =>
      m.write (off + 16384 / nv * n + w * k) w (v.data.get (k * lanes + lane)).toNat) m) m

/-- The data of blocks of the scratchpad, one after the other, and then their ages (R399). -/
def Gang.putBlocks (g : Gang) (m : Memory) (off ages : Nat) (bs : List (Nat × Nat)) : Memory :=
  let m := (bs.mapIdx fun k x => (k, x)).foldl (fun m x =>
    (List.range 4096).foldl (fun m i => Sparse.set m (off + 4096 * x.1 + i) (g.spad.get (x.2.1 + i))) m) m
  (bs.mapIdx fun k x => (k, x)).foldl (fun m x => m.write (ages + 2 * x.1) 2 x.2.2) m

/-- Bytes of an image that the manual lays out (R399, R400), the header's CHECK apart. `holders` are the threads that
hold lanes, with how many. -/
def State.imageBytes (s : State) (gi : Nat) (holders : List (Thread × Nat)) (lens : List Nat) (rec0 : List Word) : Memory :=
  let g := s.gangOf gi
  let lid := match s.launchOf g with
    | some l => l.lid
    | none => 0
  let det := s.gangDeterm g
  let resident := g.tilesOn.isSome && !g.tiles.isEmpty
  let off (k : Nat) : Nat := regionOff lens k
  let m := putDwords [] 0
    ([0x143475831 + (if resident then 2 ^ 48 else 0) + (if det then 2 ^ 49 else 0),
      lid + g.number * 2 ^ 16 + g.harts.length * 2 ^ 40 + g.core * 2 ^ 44, lens.sum, 0] ++
     (lens.mapIdx fun k n => off k + n * 2 ^ 32) ++ rec0.map (·.toNat))
  let table := g.allocs.foldl (fun (acc : Memory × Nat × Nat) x =>
    let (m, k, saved) := acc
    let m := putDwords m (512 + 16 * k)
      [x.off + x.ages.length * 2 ^ 32 + x.tag * 2 ^ 48 + (if x.kept then 2 ^ 63 else 0), if x.kept then 0 else 4096 * saved]
    (m, k + 1, if x.kept then saved else saved + x.ages.length)) (m, 0, 0)
  let m := table.1
  let threads := g.harts ++ [g.access]
  let m := (threads.mapIdx fun k t => (k, t)).foldl (fun m x => x.2.image g m (off 1 + 8192 * x.1)) m
  let lanes := holders.flatMap fun h => (List.range h.2).map fun j => (h.1, h.2, j)
  let m := (lanes.mapIdx fun k x => (k, x)).foldl (fun m x =>
    x.2.1.laneImage g.nv x.2.2.1 x.2.2.2 m (off 2 + 24576 * x.1)) m
  let m := (List.range 65536).foldl (fun m i => Sparse.set m (off 4 + i) (g.sdm.get i)) m
  let m := (g.harts.mapIdx fun k t => (k, t)).foldl (fun m x =>
    putDwords m (off 6 + 16 * x.1) [x.2.sowDims, x.2.sowAddr.toNat]) m
  let saved := g.savedBlocks
  g.putBlocks m (off 7) (off 7 + 4096 * saved.length) saved

/-- Bytes to which no layout is given: free values (log 11). -/
def freeBytes (m : Memory) (n off len : Nat) : Memory :=
  (List.range len).foldl (fun m i => Sparse.set m (off + i) (Config.imageByte n (off + i))) m

/-- The whole image but for its tiles, which are written when they leave the core (R391). -/
def State.imageOf (s : State) (gi : Nat) (holders : List (Thread × Nat)) (lens : List Nat) (rec0 : List Word) : Memory :=
  let g := s.gangOf gi
  let m := s.imageBytes gi holders lens rec0
  let m := (List.range (g.harts.length + 1)).foldl (fun m k =>
    let base := regionOff lens 1 + 8192 * k
    freeBytes (freeBytes m s.free (base + 512) 512) s.free (base + 7168) 1024) m
  let m := (List.range ((lens[2]?).getD 0 / 24576)).foldl (fun m k =>
    freeBytes m s.free (regionOff lens 2 + 24576 * k + 16384) 8192) m
  freeBytes m s.free (regionOff lens 3) ((lens[3]?).getD 0)

/-- Physical addresses of the 256-byte blocks of a run; none where one cannot be reached. -/
def State.blocksAt (s : State) (part lvl : Nat) (acc : Acc) (va : Nat) : Nat → Option (List Nat)
  | 0 => some []
  | n + 1 =>
    match s.imagePlace part lvl acc va with
    | .error _ => none
    | .ok pa =>
      if acc = .read && (List.range 8).any fun k => s.errors.contains (.mem (pa / 32 + k)) then none
      else (s.blocksAt part lvl acc (va + 256) n).map (pa :: ·)

/-- Charge the sectors of blocks of an image to its gang (R428). -/
def State.chargeBlocks (s : State) (gi : Nat) (blocks : List Nat) : State :=
  blocks.foldl (fun s pa => s.chargeAt gi (.mem pa) 256) s

/-- Write blocks of 256 bytes. -/
def writeBlocks (m : Memory) (img : Memory) (off : Nat) : List Nat → Memory
  | [] => m
  | pa :: rest => writeBlocks (m.write pa 256 (img.read off 256)) img (off + 256) rest

/-- CRC of blocks of memory, leaving out the pc and g fields of so many hart records (R399): block k of region 1 on. -/
def crcBlocks (m : Memory) (records : Nat) : Nat → List Nat → BitVec 32 → BitVec 32
  | _, [], c => c
  | k, pa :: rest, c =>
    let skip := decide (k < records) && decide (k % 32 < 2)
    crcBlocks m records (k + 1) rest
      (if skip then c else (List.range 256).foldl (fun c i => crcByte c (m.get (pa + i))) c)

/-- CHECK over the blocks of an image (R399). -/
def checkOf (m : Memory) (harts : Nat) (blocks : List Nat) : Nat :=
  (crcBlocks m (32 * harts) 0 (blocks.drop 16) 0xFFFFFFFF#32 ^^^ 0xFFFFFFFF#32).toNat

/-- Place CHECK in the header of an image in memory. -/
def State.sealImage (s : State) (harts : Nat) (blocks : List Nat) : State :=
  match blocks with
  | [] => s
  | pa :: _ => { s with mem := s.mem.write (pa + 24) 8 (checkOf s.mem harts blocks) }

/-- Lanes held by the threads of a gang, in holder order (R399). -/
def State.holders (s : State) (gi : Nat) : List (Thread × Nat) :=
  let g := s.gangOf gi
  (g.harts.mapIdx fun h t => (t, s.lanes ⟨gi, .hart h⟩)) ++ [(g.access, s.lanes ⟨gi, .access⟩)]

/-- The reason kept in an image's header (R399): a miss of the Turner, a trap under way, or PREEMPT with its SUB, also where a
debugger has halted a role. -/
def State.imageRecord (s : State) (gi sub : Nat) : List Word :=
  let g := s.gangOf gi
  if !g.missRec.isEmpty then g.missRec
  else
    match g.harts.find? fun t => t.frz && decide (t.lvl ≠ t.dlvl) && !t.ended with
    | some t => if t.lvl = 2 then t.ffrec else t.sfrec
    | none =>
      [BitVec.ofNat 64 (15 + sub * 2 ^ 8), 0, 0, 0, 0, 0, BitVec.ofNat 64 (g.slot * 2 ^ 40 + g.core * 2 ^ 48), 0]

/-- What writing an image comes to. -/
inductive ImageResult where
  | small (need : Nat)
  | fault
  /-- A channel that it lies in is in training (R459). -/
  | wait
  | written (s : State) (len : Nat)
  deriving Repr

/-- Write the image of a gang that has been settled and still holds its lanes (R399). -/
def State.writeImage (s : State) (gi : Nat) (va lvl room sub : Nat) : ImageResult :=
  let g := s.gangOf gi
  let part := s.partOfCore g.core
  let hs := s.holders gi
  let lens := g.regionLens (hs.map (·.2)).sum
  let len := lens.sum
  if room < len then .small len
  else
    match s.blocksAt part lvl .write va (len / 256) with
    | none => .fault
    | some blocks =>
      if blocks.any s.training then .wait
      else
      let img := s.imageOf gi hs lens (s.imageRecord gi sub)
      let lo := regionOff lens 5 / 256
      let hi := regionOff lens 6 / 256
      let keep := g.tilesOn.isSome
      let m := if keep then
          writeBlocks (writeBlocks s.mem img 0 (blocks.take lo)) img (256 * hi) (blocks.drop hi)
        else writeBlocks s.mem img 0 blocks
      let written := if keep then blocks.take lo ++ blocks.drop hi else blocks
      .written ((({ s with mem := m, free := s.free + 1 }).sealImage g.harts.length blocks).chargeBlocks gi written) len

/-- The blocks of an image already written, for an access at a level. -/
def State.imageAt (s : State) (gi lvl : Nat) (acc : Acc) : Option (List Nat) :=
  let g := s.gangOf gi
  s.blocksAt (s.partOfCore g.core) lvl acc g.image.toNat (g.imageLen / 256)

/-- The same at the level of the suspension. -/
def State.imageBlocks (s : State) (gi : Nat) (acc : Acc) : Option (List Nat) := s.imageAt gi (s.gangOf gi).imageLvl acc

/-- The level at which a resumption reads an image: that of the hart whose RESUME is under way, as it now is, or else that of
the suspension (R397, R412). -/
def State.resumeLevel (s : State) (gi : Nat) : Nat :=
  match s.ctx.find? fun x => x.load && decide (x.op = 0) && x.begun && decide (x.gang = gi) with
  | some x => s.nowLevel x.issuer
  | none => (s.gangOf gi).imageLvl

/-- The image of a gang, as read at a level, lies partly in a channel in training, so that it can be neither read nor written
yet (R459). -/
def State.imageWaits (s : State) (gi lvl : Nat) : Bool :=
  match s.imageAt gi lvl .read with
  | some blocks => blocks.any s.training
  | none => false

/-- The same for the resumption of a gang. -/
def State.imageStalls (s : State) (gi : Nat) : Bool := s.imageWaits gi (s.resumeLevel gi)

/-- Offset of a region in an image in memory. -/
def imageRegion (m : Memory) (blocks : List Nat) (k : Nat) : Nat := m.read ((blocks.headD 0) + 32 + 8 * k) 4

/-- Write a gang's tiles to its image, so that the core's accumulator store is free (R391). -/
def State.evictTiles (s : State) (gi : Nat) : State :=
  let g := s.gangOf gi
  let s := match s.imageBlocks gi .write with
    | none => s
    | some blocks =>
      let off := imageRegion s.mem blocks 5
      let img := (g.tiles.mapIdx fun k x => (k, x)).foldl (fun (m : Memory) (x : Nat × Tile) =>
        x.2.data.foldl (fun (m : Memory) (e : Nat × BitVec 64) => m.write (262144 * x.1 + 8 * e.1) 8 e.2.toNat) m) []
      let mine := (blocks.drop (off / 256)).take (1024 * g.tiles.length)
      let head := blocks.headD 0
      let m := writeBlocks s.mem img 0 mine
      let m := m.write head 8 (m.read head 8 % 2 ^ 48 + (if s.gangDeterm g then 2 ^ 49 else 0))
      (({ s with mem := m }).sealImage g.harts.length blocks).chargeBlocks gi mine
  s.modGang gi fun g => { g with tilesOn := none }

/-- The byte of an image at an offset, in memory. -/
def imageAddr (blocks : List Nat) (o : Nat) : Nat := (blocks[o / 256]?).getD 0 + o % 256

/-- The entries of the allocation table (R399) for allocations that are now saved, their first blocks at place `k` and
on among the saved ones: the entry, and its number. -/
def evictedTable : List (Nat × Alloc) → Nat → List (Nat × List Nat)
  | [], _ => []
  | x :: l, k =>
    (x.1, [x.2.off + x.2.ages.length * 2 ^ 32 + x.2.tag * 2 ^ 48, 4096 * k]) :: evictedTable l (k + x.2.ages.length)

/-- Write dwords of an image in memory. -/
def putImageDwords (m : Memory) (blocks : List Nat) (o : Nat) : List Nat → Memory
  | [] => m
  | v :: vs => putImageDwords (m.write (imageAddr blocks o) 8 v) blocks (o + 8) vs

/-- The memory with the kept blocks of a gang added to region 7 of its image: behind the blocks saved before, whose ages
move up behind them, with the table, the lengths of the region and of the image as they then are (R103, R392, R399). -/
def State.appendKept (s : State) (g : Gang) (blocks : List Nat) : Memory :=
  let m := s.mem
  let off := imageRegion m blocks 7
  let old := g.savedBlocks.length
  let kept := (g.allocs.mapIdx fun i x => (i, x)).filter (·.2.kept)
  let new := kept.flatMap (·.2.blocks)
  let n := old + new.length
  let ages := (List.range old).map fun i => m.read (imageAddr blocks (off + 4096 * old + 2 * i)) 2
  let img := g.putBlocks [] 0 (4096 * new.length + 2 * old) new
  let img := (ages.mapIdx fun i e => (i, e)).foldl (fun img x => Memory.write img (4096 * new.length + 2 * x.1) 2 x.2) img
  let m := writeBlocks m img 0 (blocks.drop ((off + 4096 * old) / 256))
  let m := (evictedTable kept old).foldl (fun m x => putImageDwords m blocks (512 + 16 * x.1) x.2) m
  putImageDwords (putImageDwords m blocks 16 [off + savedLen n]) blocks 88 [off + savedLen n * 2 ^ 32]

/-- Save a gang's kept allocations, so that their blocks are free: their bytes and ages go to its image, as far as the
room it has reaches (R103, R392; DESIGN CHOICE, log 51). -/
def State.evictKept (s : State) (gi : Nat) : State :=
  let g := s.gangOf gi
  let n := (g.savedBlocks ++ (g.allocs.filter (·.kept)).flatMap Alloc.blocks).length
  let s :=
    if !g.allocs.any (·.kept) then s
    else
      match s.imageBlocks gi .write with
      | none => s
      | some blocks =>
        let len := min (imageRegion s.mem blocks 7 + savedLen n) (g.imageRoom / 256 * 256)
        let s := s.modGang gi fun g => { g with imageLen := max g.imageLen len }
        match s.imageBlocks gi .write with
        | none => s.modGang gi fun x => { x with imageLen := g.imageLen }
        | some blocks => { s with mem := s.appendKept g blocks }.sealImage g.harts.length blocks
  s.modGang gi fun g => { g with allocs := g.allocs.map fun x => { x with kept := false } }

/-- What a resumption reads of an image, at a level: none where it cannot be read, or not yet (R459), false where MAGIC or
CHECK is wrong (R398, R401), else the pc and registers of each hart's record. -/
def State.readImage (s : State) (gi lvl : Nat) : Option (Option (List (List Word))) :=
  let g := s.gangOf gi
  match s.imageAt gi lvl .read with
  | none => none
  | some blocks =>
    let head := blocks.headD 0
    if blocks.any s.training then none
    else if s.mem.read head 4 ≠ 0x43475831 || s.mem.read (head + 24) 4 ≠ checkOf s.mem g.harts.length blocks then some none
    else
      some (some ((List.range g.harts.length).map fun k =>
        (List.range 64).map fun i =>
          let o := 4096 + 8192 * k + 8 * i
          BitVec.ofNat 64 (s.mem.read ((blocks[o / 256]?).getD 0 + o % 256) 8)))

/-- Take pc and registers from a record (R401, R402). -/
def Thread.loadRecord (t : Thread) (n : Nat) (w : List Word) : Thread :=
  (List.range n).foldl (fun t i => t.setReg (i + 1) ((w[i + 1]?).getD 0)) { t with pc := wordAligned ((w[0]?).getD 0) }

end Sys2Proof.Machine
end

