-- ==== Sys2Proof/Machine/Place.lean ====
section
/-! DEFINITION. Placement, suspension and resumption of gangs, the samples of the dispatcher, and retirement (R20, R26,
R27, R37, R38, R96, R180, R251, R389 to R392, R421 to R425, R430). -/

namespace Sys2Proof.Machine

/-- The shape of a gang to be placed (R19, R422): harts, tiles, blocks, and lane groups held at suspension. -/
structure Shape where
  harts : Nat
  tiles : Nat
  blocks : Nat
  groups : Nat
  /-- Its own place among the gangs, if it has been placed before. -/
  own : Option Nat
  deriving DecidableEq, Repr

/-- The shape of a gang of a launch never placed. -/
def Launch.shape (l : Launch) : Shape := ⟨l.harts, l.head.acc, l.head.blocks, 0, none⟩

/-- The shape of a suspended gang. -/
def State.shapeOf (s : State) (gi : Nat) : Shape :=
  let g := s.gangOf gi
  ⟨g.harts.length, g.tiles.length, g.blocks, g.heldGroups.sum, some gi⟩

/-- Suspended gangs that have left something on a core, oldest suspension first. -/
def State.leftOn (s : State) (core : Nat) : List (Nat × Gang) :=
  sortBy (fun x => x.2.suspOrd)
    ((s.gangs.mapIdx fun i g => (i, g)).filter fun x => decide (x.2.st = .suspended) &&
      (x.2.tilesOn = some core || (decide (x.2.core = core) && x.2.allocs.any (·.kept))))

/-- Kept blocks of a gang (R392). -/
def Gang.keptBlocks (g : Gang) : Nat := ((g.allocs.filter (·.kept)).map (·.ages.length)).sum

/-- The lowest free gang slot of a core (R44). -/
def State.freeSlot (s : State) (core : Nat) : Option Nat :=
  (List.range 4).find? fun k => !((s.residents core).any fun x => x.2.slot = k)

/-- Lane groups of a core that are free and not in access mode (R27, R422). -/
def State.idleGroups (s : State) (core : Nat) : List Nat :=
  let c := s.core core
  (List.range 8).filter fun k =>
    !c.accNow.getLsbD k && !(c.claims.any fun x => x.1 = k) && ((c.lanes[k]?).getD none).isNone

/-- What other suspended gangs than that of a shape have left on a core. -/
def State.othersLeft (s : State) (x : Shape) (core : Nat) : List (Nat × Gang) :=
  (s.leftOn core).filter fun y => some y.1 ≠ x.own

/-- A shape's tiles fit a core beside those of resident gangs and of `left` (R422). -/
def State.tilesFit (s : State) (x : Shape) (core : Nat) (left : List (Nat × Gang)) : Bool :=
  decide (((s.residents core).map fun r => r.2.tiles.length).sum +
    ((left.filter fun y => y.2.tilesOn = some core).map fun y => y.2.tiles.length).sum + x.tiles ≤ 12)

/-- Its blocks fit beside theirs. -/
def State.blocksFit (s : State) (x : Shape) (core : Nat) (left : List (Nat × Gang)) : Bool :=
  decide (((s.residents core).map fun r => r.2.blocks).sum + (left.map fun y => y.2.keptBlocks).sum + x.blocks ≤ 12288)

/-- Whether a shape fits a core (R422); the second pass counts what suspended gangs have left there as free, unless what
they have left cannot be saved yet (R459). -/
def State.fitsCore (s : State) (x : Shape) (core : Nat) (second : Bool) : Bool :=
  let c := s.core core
  let others := s.othersLeft x core
  let left := if second then others.filter fun y => s.imageStalls y.1 else others
  (s.freeSlot core).isSome && decide (((s.residents core).map fun r => r.2.harts.length).sum + x.harts ≤ 8) &&
    s.tilesFit x core left && s.blocksFit x core left &&
    decide (x.groups ≤ (s.idleGroups core).length) && !c.held && !c.parked && !c.stopped

/-- Make room on a core for a shape: what suspended gangs have left there goes to their images, oldest first: their tiles
while it lacks accumulator store, their kept allocations while it lacks blocks (R391, R392). -/
def State.makeRoom (s : State) (x : Shape) (core : Nat) : List Nat → State
  | [] => s
  | gi :: rest =>
    let s :=
      if !s.tilesFit x core (s.othersLeft x core) && decide ((s.gangOf gi).tilesOn = some core) then s.evictTiles gi else s
    let s := if !s.blocksFit x core (s.othersLeft x core) then s.evictKept gi else s
    s.makeRoom x core rest

/-- The core that a shape is placed on, among cores in the order tried, and the state with room made (R422). -/
def State.chooseCore (s : State) (x : Shape) (cores : List Nat) : Option (Nat × State) :=
  match cores.find? fun c => s.fitsCore x c false with
  | some c => some (c, s)
  | none =>
    match cores.find? fun c => s.fitsCore x c true with
    | some c => some (c, s.makeRoom x c (((s.othersLeft x c).map (·.1)).filter fun gi => !s.imageStalls gi))
    | none => none

/-- Logical cores that gang `k` of a launch may be placed on (R31, R422). -/
def State.allowedCores (s : State) (l : Launch) (k : Nat) : List Nat :=
  let first := s.firstCore l.part + l.first
  if l.determ then [first + k] else (List.range l.cslots).map (first + ·)

/-- A hart at its first instruction (R16, R163, R338, R379). -/
def Launch.newHart (l : Launch) (gang h : Nat) : Thread :=
  { Thread.empty with
    pc := wordAligned l.head.entry
    regs := (((Sparse.set [] 1 (BitVec.ofNat 64 gang)).set 2 (BitVec.ofNat 64 h)).set 3 ((l.desc[1]?).getD 0)).set 4
      (if l.determ then BitVec.ofNat 64 gang else BitVec.allOnes 64)
    vregs := List.replicate l.head.nv ⟨Tag.default l.head.w, Tag.default l.head.w, [], false, 0⟩
    sowDims := l.dirDims, sowAddr := l.head.dirAddr, lvl := l.level, dlvl := l.level }

/-- The access-unit context at dispatch (R15, R16, R248, R252); without an access program it counts as stopped. -/
def Launch.newAccess (l : Launch) (gang : Nat) : Thread :=
  let t := Tag.unsigned l.head.w
  { Thread.empty with
    pc := wordAligned l.head.aentry
    regs := (Sparse.set [] 1 (BitVec.ofNat 64 gang)).set 3 ((l.desc[1]?).getD 0)
    vregs := List.replicate l.head.nv ⟨t, t, [], false, 0⟩
    ended := !l.head.access, lvl := l.level, dlvl := l.level }

/-- A gang of a launch at its first placement (R16, R26, R33, R57, R64, R96, R106, R276). The progress index of a tile is
2,048, as where no instruction is in flight that has not completed its columns (R277; DESIGN CHOICE, log 122). -/
def Launch.newGang (l : Launch) (li gang core slot ord : Nat) : Gang :=
  let q : BitVec 12 := if l.head.access then 0xFFF#12 else 0
  { Gang.empty with
    launch := li, number := gang, st := .resident, core := core, slot := slot
    harts := (List.range l.harts).map (l.newHart gang), access := l.newAccess gang
    nv := l.head.nv, w := l.head.w, blocks := l.head.blocks
    tiles := List.replicate l.head.acc ⟨[], .f64, 2048⟩
    members := BitVec.ofNat 8 (2 ^ l.harts - 1), qenW := q, qenNext := q, qen := q, placeOrd := ord, bad := !l.head.ok }

/-- A gang of a launch has been placed: its priority returns to PRIO (R424), and DHALT and RESUME commands that wait for
it have taken effect (R397). -/
def State.notePlaced (s : State) (li : Nat) : State :=
  s.modLaunch li fun l => { l with progressed := true, effPrio := l.prio, waited := 0 }

/-- The Sower of a core drops what it holds of the tables that a gang's contexts name, since they may have been written
while no context named them (R338). -/
def State.freshTables (s : State) (core : Nat) (g : Gang) : State :=
  s.modCore core fun c => g.harts.foldl (fun c t => c.forget (dimKey (s.partOfCore core) t.sowAddr)) c

/-- Place gang `k` of a launch for the first time (R421, R422). `ord` is the place of its dispatch step among the others:
gangs placed in one step are equally young (R37). -/
def State.placeNew (s : State) (li k core ord : Nat) : State :=
  match s.launch? li, s.freeSlot core with
  | some l, some slot =>
    let g := l.newGang li k core slot ord
    let s := { s with gangs := s.gangs ++ [g] }.freshTables core g
    (s.modLaunch li fun l => { l with
      next := k + 1
      killed := l.killed }).notePlaced li
  | _, _ => s

/-- A new dispatch step: its place among the others. -/
def State.nextOrd (s : State) : State := { s with stamp := s.stamp + 1 }

/-- Give each hart the lowest free groups, as many as it held (R27). -/
def State.restoreGroups (s : State) (gi core : Nat) : List (Nat × Nat) → State
  | [] => s
  | (h, n) :: rest =>
    let ks := (s.idleGroups core).take n
    let deal (k : Nat) (l : Option (Nat × Nat × Bool)) : Option (Nat × Nat × Bool) :=
      if ks.contains k then some (gi, h, false) else l
    (s.modCore core fun c => { c with lanes := c.lanes.mapIdx deal }).restoreGroups gi core rest

/-- Answer the context commands of an operation on a gang. -/
def State.answerCtx (s : State) (gi op : Nat) (load : Bool) (v extra : Nat) : State :=
  { s with ctx := s.ctx.map fun c =>
      if c.gang = gi && c.op = op && c.load = load && c.result.isNone then { c with result := some (v, extra) } else c }

/-- A gang comes to another core than its last: its tiles leave that one for its image first (R391), and the new core's
instruction cache holds no line of the partition that may be older than the code its harts have seen (R138). -/
def State.changeCore (s : State) (gi core : Nat) : State :=
  let g := s.gangOf gi
  let s := if g.tilesOn.isSome && decide (g.tilesOn ≠ some core) then s.evictTiles gi else s
  if g.core = core then s
  else s.modCore core fun c => { c with icache := c.icache.filter fun l => l.1 ≠ s.partOfCore core }

/-- Resume a suspended gang on a core, from the records of its image (R27, R387, R390, R401). -/
def State.resumeOn (s : State) (gi core ord : Nat) (recs : List (List Word)) : State :=
  match s.freeSlot core with
  | none => s
  | some slot =>
    let g := s.gangOf gi
    let s := ((s.changeCore gi core).freePool gi).modGang gi fun g =>
      let load (k n : Nat) (t : Thread) : Thread :=
        let t := match recs[k]? with
          | some w => t.loadRecord n w
          | none => t
        { t with rcl := false, tcache := [] }
      { g with
        st := .resident, core := core, slot := slot, placeOrd := ord, resume := none, yielded := false, tilesOn := none
        harts := g.harts.mapIdx fun k t => load k 63 t
        access := { g.access with rcl := false, tcache := [] }
        allocs := g.allocs.map fun x => { x with kept := false }, image := 0, imageLen := 0, imageRoom := 0 }
    let s := (s.freshTables core g).restoreGroups gi core (g.heldGroups.mapIdx fun h n => (h, n))
    (s.answerCtx gi 0 true 1 0).notePlaced g.launch

/-- Resume a suspended gang by the dispatcher's own path (R398, R401): a failing check terminates it. An image that
cannot be read leaves it suspended. With the state, whether it has been placed. -/
def State.resumeGang (s : State) (gi core ord : Nat) : Option (State × Bool) :=
  match s.readImage gi (s.resumeLevel gi) with
  | none => none
  | some none => some ((s.answerCtx gi 0 true (2 ^ 63 + 5) 0).killGang gi 2, false)
  | some (some recs) =>
    let blocks := ((s.imageAt gi (s.resumeLevel gi) .read).getD [])
    some (((s.resumeOn gi core ord recs).chargeBlocks gi blocks), true)

/-- A placement that waits: a launch's next gang, or a suspended gang. -/
inductive Pending where
  | fresh (li k : Nat)
  | again (gi : Nat)
  deriving DecidableEq, Repr

/-- The launch of a pending placement. -/
def State.pendingLaunch (s : State) : Pending → Nat
  | .fresh li _ => li
  | .again gi => (s.gangOf gi).launch

/-- Suspended gangs of a launch, in order of suspension. -/
def State.suspendedOf (s : State) (li : Nat) : List Nat :=
  (sortBy (fun x => x.2.suspOrd)
    ((s.gangs.mapIdx fun i g => (i, g)).filter fun x => x.2.launch = li && decide (x.2.st = .suspended))).map (·.1)

/-- Gangs of a launch never placed, in ascending number, at most `n` of them. -/
def Launch.freshGangs (l : Launch) (n : Nat) : List Nat :=
  if l.complete then []
  else ((List.range (min (l.gangs - l.next) (n + l.killed.length))).map (l.next + ·)).filter fun k => !l.killed.contains k

/-- Pending placements of a launch, in the order they are visited (R421). -/
def State.pendingOf (s : State) (li : Nat) (l : Launch) : List Pending :=
  (s.suspendedOf li).map Pending.again ++
    (l.freshGangs (if l.whole then l.gangs else 32)).map (Pending.fresh li)

/-- Cores tried for a pending placement, in order (R422). -/
def State.coresFor (s : State) : Pending → List Nat
  | .fresh li k => match s.launch? li with
    | some l => s.allowedCores l k
    | none => []
  | .again gi =>
    let g := s.gangOf gi
    match s.launchOf g with
    | some l => g.core :: (s.allowedCores l g.number).filter (· ≠ g.core)
    | none => [g.core]

/-- Shape of a pending placement. -/
def State.pendingShape (s : State) : Pending → Shape
  | .fresh li _ => match s.launch? li with
    | some l => l.shape
    | none => ⟨9, 0, 0, 0, none⟩
  | .again gi => s.shapeOf gi

/-- The energy account allows a placement (R430). -/
def State.energyFor (s : State) (l : Launch) : Bool :=
  let a := (s.part l.part).energy
  if l.dw 6 = 0 then decide (0 < a) else decide (((l.dw 6 + l.gangs - 1) / l.gangs * 2 ^ 20 : Nat) ≤ a)

/-- Make one placement if it fits one of some cores, in the order tried. With the state, whether a gang has been placed. -/
def State.placeAmong (s : State) (ord : Nat) (cores : List Nat) (p : Pending) : Option (State × Bool) :=
  match s.launch? (s.pendingLaunch p) with
  | none => none
  | some _ =>
    match s.chooseCore (s.pendingShape p) cores with
    | none => none
    | some (core, s) =>
      match p with
      | .fresh li k => some (s.placeNew li k core ord, true)
      | .again gi => s.resumeGang gi core ord

/-- Make one placement of a placement step: it fits a core that it may be placed on (R422), and the energy account allows it
(R430). -/
def State.placeOne (s : State) (ord : Nat) (p : Pending) : Option (State × Bool) :=
  match s.launch? (s.pendingLaunch p) with
  | some l => if s.energyFor l then s.placeAmong ord (s.coresFor p) p else none
  | none => none

/-- Make every placement of a list, or none (R20, R38); with the state, how many gangs have been placed. -/
def State.placeWhole (s : State) (ord : Nat) : List Pending → Option (State × Nat)
  | [] => some (s, 0)
  | p :: ps =>
    match s.placeOne ord p with
    | some (s, placed) => (s.placeWhole ord ps).map fun x => (x.1, x.2 + placed.toNat)
    | none => none

/-- What a placement step carries along: the state, its place among the dispatch steps, how many gangs it has placed,
and the core ranges held (R423). -/
structure StepAcc where
  s : State
  ord : Nat
  count : Nat
  held : List (Nat × Nat)
  deriving Repr

/-- A pending placement is held back by a waiting co-resident launch (R423). -/
def StepAcc.holds (x : StepAcc) (cores : List Nat) : Bool :=
  x.held.any fun r => cores.any fun c => decide (r.1 ≤ c) && decide (c < r.1 + r.2)

/-- Visit pending placements one by one. -/
def StepAcc.visit (x : StepAcc) : List Pending → StepAcc
  | [] => x
  | p :: ps =>
    if 32 ≤ x.count then x
    else
      let x := if x.holds (x.s.coresFor p) then x
        else match x.s.placeOne x.ord p with
          | some (s, placed) => { x with s := s, count := x.count + placed.toNat }
          | none => x
      x.visit ps

/-- Visit a launch (R421, R423): a co-resident or deterministic one is placed whole. `mayHold` is whether a launch that
cannot be placed whole, for want of room or because an earlier one holds its cores, holds later ones. -/
def StepAcc.launch (x : StepAcc) (li : Nat) (mayHold : Bool) : StepAcc :=
  match x.s.launch? li with
  | none => x
  | some l =>
    let ps := x.s.pendingOf li l
    if ps.isEmpty || 32 ≤ x.count then x
    else if l.whole then
      let range := (x.s.firstCore l.part + l.first, l.cslots)
      let waits := if mayHold then { x with held := x.held ++ [range] } else x
      if x.holds ((List.range range.2).map (range.1 + ·)) then waits
      else
        match x.s.placeWhole x.ord ps with
        | some (s, n) => { x with s := s, count := x.count + n }
        | none => waits
    else x.visit ps

/-- Launches of a kind in acceptance order. -/
def State.launchesBy (s : State) (p : Launch → Bool) : List Nat :=
  sortBy (fun i => match s.launch? i with
    | some l => l.acceptOrd
    | none => 0) ((List.range s.launches.length).filter fun i => match s.launch? i with
      | some l => !l.complete && p l
      | none => false)

/-- The suspended gangs that a RESUME or a directed yield has asked for, of the kind `p`, in the order of the requests. -/
def State.asked (s : State) (p : Gang → Launch → Bool) : List Nat :=
  sortBy (fun i => ((s.gangOf i).resume).getD 0)
    ((List.range s.gangs.length).filter fun i =>
      let g := s.gangOf i
      g.resume.isSome && decide (g.st = .suspended) && match s.launchOf g with
        | some l => !l.complete && p g l
        | none => false)

/-- Visit a gang that has been asked for; one whose launch is resumed whole brings the others with it (R20, R421). -/
def StepAcc.ask (x : StepAcc) (i : Nat) : StepAcc :=
  let g := x.s.gangOf i
  if g.st ≠ .suspended then x
  else if (match x.s.launchOf g with
    | some l => l.whole
    | none => false) then x.launch g.launch false
  else x.visit [.again i]

/-- Visit the owners of locks that go ahead of every placement of a PRIO: those whose launch's own PRIO is not below it
(R180, R424). -/
def StepAcc.owners (x : StepAcc) (part prio : Nat) : StepAcc :=
  (x.s.asked fun g l => g.yielded && l.part = part && !l.super && decide (prio ≤ l.prio)).foldl StepAcc.ask x

/-- PRIO of a launch. -/
def State.prioOf (s : State) (li : Nat) : Nat :=
  match s.launch? li with
  | some l => l.prio
  | none => 8

/-- Visit one effective priority (R421): requested gangs first, then launches in acceptance order, the owners of locks ahead
of each (R180); the first co-resident launch that cannot be placed holds its range (R423). -/
def StepAcc.priority (x : StepAcc) (part prio : Nat) : StepAcc :=
  let mine (l : Launch) : Bool := l.part = part && !l.super && decide (l.effPrio = prio)
  let x := (x.s.asked fun _ l => mine l).foldl (fun x i =>
    (x.owners part (x.s.prioOf (x.s.gangOf i).launch)).ask i) x
  ((x.s.launchesBy mine).foldl (fun (y : StepAcc × Bool) li =>
    let x := y.1.owners part (y.1.s.prioOf li)
    let z := x.launch li y.2
    (z, y.2 && z.held.length = x.held.length)) (x, true)).1

/-- The boot gang, which belongs to no launch, goes back to its core first (R447; DEDUCED, log 65). -/
def State.resumeBoot (s : State) (part : Nat) : State :=
  match s.mod.bootGang with
  | none => s
  | some gi =>
    let core := (s.gangOf gi).core
    let x := s.shapeOf gi
    if (s.gangOf gi).st = .suspended && s.partOfCore core = part && s.fitsCore x core true then
      (((s.makeRoom x core (((s.leftOn core).map (·.1)).filter fun gi => !s.imageStalls gi)).resumeGang gi core
        s.stamp).map (·.1)).getD s
    else s

/-- The launches of a partition whose completion word had to wait for its channel complete now (R21, R459). -/
def State.finishWaiting (s : State) (part : Nat) : State :=
  (List.range s.launches.length).foldl (fun s li => match s.launch? li with
    | some l => if l.part = part then s.finishLaunch li else s
    | none => s) s

/-- A placement step of the dispatcher (R421); what channels in training have held up of its other work goes on (R459). -/
def State.placementStep (s : State) (part : Nat) : State :=
  let s := (s.serveRings part).finishWaiting part
  let super (l : Launch) : Bool := l.part = part && l.super
  let x : StepAcc := ⟨(s.resumeBoot part).nextOrd, s.stamp, 0, []⟩
  let x := (x.s.asked fun _ l => super l).foldl StepAcc.ask x
  let x := (x.s.launchesBy super).foldl (fun x li => x.launch li false) x
  ([7, 6, 5, 4, 3, 2, 1, 0].foldl (fun x q => x.priority part q) x).s

/-- PLACEMENT_STEP (R421). -/
def execPlacementStep (p : Nat) (s : State) : Out :=
  .next (if p < 2 ^ s.mod.plog then s.placementStep p else s)

/-- What a wait becomes at a halt (R390): one for a pushed instruction and a counted barrier arrival stand, and the scalar
instruction of any other is given up, to be executed again. -/
def Wait.atHalt : Wait → Wait
  | .gd n => .gd n
  | .barrier => .barrier
  | _ => .none

/-- A thread at a halt (R390): its waits, also those that a trap or a debugger has put off; a far gather gives up its range;
a copy goes on after the sectors that ROWDONE and SECTDONE name. -/
def Thread.settle (t : Thread) : Thread :=
  { t.closeAll with
    wait := t.wait.atHalt, kept := t.kept.atHalt, halted := t.halted.atHalt, stall := .none, taken := [], vq := t.vq.map (·.afresh)
    xfers := (t.xfers.filter fun x => match x.kind with
      | .far _ => false
      | _ => true).map fun x => { x with ahead := [] } }

/-- The agents of a gang. -/
def Gang.agents (g : Gang) (gi : Nat) : List Agent := (List.range g.harts.length).map (⟨gi, .hart ·⟩) ++ [⟨gi, .access⟩]

/-- The loads in flight of a gang take their values before it halts, since they have retired (R390); none while one of
them cannot. -/
def State.landFlights (s : State) (gi : Nat) : Option State :=
  ((s.gangOf gi).agents gi).foldl (fun (s : Option State) a => s.bind (·.performFlight a)) (some s)

/-- Settle the work in flight of a gang at its halt (R390). -/
def State.settleGang (s : State) (gi : Nat) : State :=
  let g := s.gangOf gi
  let s := (s.dropSleepers gi).dropClaims g.core gi
  let s := s.modGang gi fun g => { g with harts := g.harts.map Thread.settle, access := g.access.settle }
  let s := (g.agents gi).foldl (fun s a => s.drainAll a (fun _ => true) 16) s
  s.modGang gi fun g => { g with heldGroups := (List.range g.harts.length).map fun h => (s.lanesOf gi h).length }

/-- A settled gang leaves its core, its image written, with what the Turner has missed in the header (R391, R392, R395). -/
def State.suspendGang (s : State) (gi reason : Nat) : State :=
  let s := s.leaveCore gi
  { s with stamp := s.stamp + 1 }.modGang gi fun g =>
    { g with st := .suspended, reason := reason, suspOrd := s.stamp, haltReq := none, resume := none, yielded := false
             missRec := [] }

/-- What a suspension comes to: done, a failure with its status and the length needed, or a wait for a channel in training
(R459). -/
inductive Suspended where
  | done (s : State)
  | fails (status extra : Nat)
  | waits

/-- Which allocations are kept (R392, R393): bit k for the k-th lowest gang offset; all while a role is debug-halted. -/
def Gang.markKept (g : Gang) (mask : Nat) : Gang :=
  let all_ := g.access.debug || g.harts.any (·.debug)
  { g with allocs := g.allocs.mapIdx fun k x => { x with kept := all_ || decide (mask / 2 ^ k % 2 = 1) } }

/-- Slot bytes and slots of a context pool (R409). -/
def PartSt.slotBytes (p : PartSt) : Nat := p.scslot.toNat / 2 ^ 8 % 2 ^ 24 * 256
/-- NSLOT. -/
def PartSt.nslot (p : PartSt) : Nat := p.scslot.toNat / 2 ^ 32 % 2 ^ 16
/-- The lowest free slot (R425). -/
def PartSt.freeSlot (p : PartSt) : Option Nat := (List.range p.nslot).find? fun k => !p.pool.contains k
/-- Address of a slot. -/
def PartSt.slotAddr (p : PartSt) (k : Nat) : Nat := p.scpool.toNat / 2 ^ 8 % 2 ^ 44 * 256 + k * p.slotBytes

/-- Add one to a counter that stops at 0xFFFF. -/
def bump16 (n : Nat) : Nat := min (n + 1) 0xFFFF

/-- Suspend a settled gang into the context pool (R425); a failure where there is no slot for it. -/
def State.suspendToPool (s : State) (gi reason : Nat) (keep : Bool) : Suspended :=
  let part := s.partOfCore (s.gangOf gi).core
  let p := s.part part
  match p.freeSlot with
  | none => .fails (2 ^ 63 + 7) 0
  | some k =>
    let s := s.modGang gi fun g =>
      { g.markKept (if keep then 2 ^ 64 - 1 else 0) with tilesOn := if g.tiles.isEmpty then none else some g.core }
    match s.writeImage gi (p.slotAddr k) 1 p.slotBytes reason with
    | .small _ | .fault => .fails (2 ^ 63 + 7) 0
    | .wait => .waits
    | .written s len =>
      let s := s.modGang gi fun g => { g with
        image := BitVec.ofNat 64 (p.slotAddr k), imageLen := len, imageRoom := p.slotBytes, imageLvl := 1, poolSlot := some k }
      .done ((s.modPart part fun p => { p with pool := p.pool ++ [k] }).suspendGang gi reason)

/-- A swap, a yield or a HALTC finds no place in the pool (R425). -/
def State.poolMiss (s : State) (part : Nat) : State := s.modPart part fun p => { p with poolmiss := bump16 p.poolmiss }

/-- The command that asked for a suspension. -/
def State.suspendCmd (s : State) (gi : Nat) : Option CtxCmd :=
  s.ctx.find? fun c => c.gang = gi && c.op = 0 && !c.load && c.result.isNone

/-- Suspend a settled gang: to the IMAGE of its own SUSPEND command, or into the context pool; else the status of the
failure (R397, R398, R425). -/
def State.suspendTo (s : State) (gi reason : Nat) (keep : Bool) : Suspended :=
  match if reason = 1 then s.suspendCmd gi else none with
  | none => s.suspendToPool gi reason keep
  | some c =>
    let s := s.modGang gi fun g =>
      { g.markKept c.keep.toNat with tilesOn := if g.tiles.isEmpty then none else some g.core }
    let lvl := s.nowLevel c.issuer
    match s.writeImage gi c.image.toNat lvl c.imageLen 1 with
    | .small n => .fails (2 ^ 63 + 4) n
    | .fault => .fails (2 ^ 63 + 7) 0
    | .wait => .waits
    | .written s len =>
      let s := s.modGang gi fun g =>
        { g with image := c.image, imageLen := len, imageRoom := c.imageLen, imageLvl := lvl }
      .done ((s.suspendGang gi 1).answerCtx gi 0 false (1 + len * 2 ^ 32) 0)

/-- What the suspension of several gangs comes to: done, the gang that cannot be suspended and why, or a wait. -/
inductive AllSuspended where
  | done (s : State)
  | fails (gi status extra : Nat)
  | waits

/-- Suspend every gang of a list, or tell which one cannot be, and why. -/
def State.suspendAll (s : State) (reason : Nat) (keep : Bool) : List Nat → AllSuspended
  | [] => .done s
  | gi :: l =>
    match s.suspendTo gi reason keep with
    | .fails v n => .fails gi v n
    | .waits => .waits
    | .done s => s.suspendAll reason keep l

/-- Suspend every gang of a list for HALTC (R405, R425): one that the pool has no room for is killed; none while one waits. -/
def State.haltAll (s : State) (part : Nat) : List Nat → Option State
  | [] => some s
  | gi :: l =>
    match s.suspendToPool gi 4 false with
    | .done s => s.haltAll part l
    | .fails _ _ => ((s.poolMiss part).killGang gi 2).haltAll part l
    | .waits => none

/-- A gang that is not suspended after all goes on where it stood, unless its core is to be halted (R405). -/
def State.stay (s : State) (gi : Nat) : State :=
  s.modGang gi fun g =>
    { g with
      haltReq := if (s.core g.core).held then some 4 else none, tilesOn := none
      allocs := g.allocs.map fun x => { x with kept := false } }

/-- The gangs that are suspended together with one (R20, R38): every resident gang of a launch placed whole but those
that are to be killed and those whose core has stopped, or the gang alone. -/
def State.together (s : State) (gi : Nat) : List Nat :=
  let g := s.gangOf gi
  match s.launchOf g with
  | some l =>
    if l.whole then
      (List.range s.gangs.length).filter fun i =>
        let o := s.gangOf i
        o.launch = g.launch && decide (o.st = .resident) && decide (o.haltReq ≠ some 5) && !(s.core o.core).stopped
    else [gi]
  | none => [gi]

/-- Ask for the halt of a gang, and of those that are suspended with it (R20, R389). -/
def State.askHalt (s : State) (gi reason : Nat) : State :=
  (s.together gi).foldl (fun s i => s.modGang i fun g =>
    { g with haltReq := if i = gi || g.haltReq.isNone then some reason else g.haltReq }) s

/-- Owners of the locks that a gang's harts and context wait for, suspended and asked for by a directed yield (R180). -/
def State.lockOwners (s : State) (g : Gang) : List Nat :=
  (g.harts ++ [g.access]).filterMap fun t => match t.wait with
    | .word _ _ true owner => s.gangs.findIdx? fun o =>
        o.launch = g.launch && o.number + 1 = owner && decide (o.st = .suspended) && o.resume.isSome
    | _ => none

/-- What a suspension of the dispatcher's own makes room for on a core: the launch's next gang in the place of the one
swapped out (R37), the owner in the place of the gang that yields to it (R180). -/
def State.placeFreed (s : State) (core : Nat) (p : Pending) : State :=
  ((s.nextOrd.placeAmong s.stamp [core] p).map (·.1)).getD s

/-- The halt of a gang (R389, R390): what was asked follows. Reasons 1 to 4 are those of PREEMPT, 5 is the end of the
gang. Gangs that are suspended together are so in one step; those of them that no command names go into the context pool
(log 43). On a core that has stopped nothing is left to be saved (R448): a SUSPEND there finds no gang (log 108). -/
def State.haltGang (s : State) (gi : Nat) : State :=
  let g := s.gangOf gi
  match g.haltReq with
  | none => s
  | some reason =>
    if g.st ≠ .resident then s.modGang gi fun g => { g with haltReq := none }
    else if reason = 5 then (s.answerCtx gi 1 false 1 0).killGang gi 2
    else if (s.core g.core).stopped then
      (s.answerCtx gi 0 false (2 ^ 63 + 2) 0).modGang gi fun g => { g with haltReq := none }
    else
      let part := s.partOfCore g.core
      let gis := s.together gi
      let keep := (s.part part).keepsw
      match gis.foldl (fun (s : Option State) i => s.bind (·.landFlights i)) (some s) with
      | none => s
      | some s0 =>
        let s := gis.foldl (fun s i => s.settleGang i) s0
        if reason = 4 then (s.haltAll part gis).getD s0
        else if reason = 1 then
          if gis.all fun i => (s.suspendCmd i).isNone then gis.foldl (fun s i => s.stay i) s
          else
            match s.suspendAll 1 keep gis with
            | .done s => s
            | .waits => s0
            | .fails bad v n =>
              let s := if (s.suspendCmd bad).isNone then s.poolMiss part else s
              gis.foldl (fun s i => (s.stay i).answerCtx i 0 false (if i = bad then v else 2 ^ 63 + 7) (if i = bad then n else 0)) s
        else
          match s.suspendToPool gi reason keep with
          | .fails _ _ => (s.poolMiss part).stay gi
          | .waits => s0
          | .done s =>
            if reason = 2 then
              let s := s.modPart part fun p => { p with swaps := bump16 p.swaps }
              match s.launchOf g with
              | some l => match l.freshGangs 1 with
                | k :: _ => s.placeFreed g.core (.fresh g.launch k)
                | [] => s
              | none => s
            else
              let s := s.modPart part fun p => { p with yields := bump16 p.yields }
              match s.lockOwners g with
              | oi :: _ => s.placeFreed g.core (.again oi)
              | [] => s

/-- GANG_HALT (R389). -/
def execGangHalt (gang : Nat) (s : State) : Out := .next (s.haltGang gang)

/-- Whether the oldest instruction of the vector side is held only by a queue (R35). An entry that exists and whose data
is still on the way counts as one that is not there (DESIGN CHOICE, log 109). -/
def State.heldByQueue (s : State) (a : Agent) : Bool :=
  let g := s.gangOf a.gang
  match ((s.thread? a).getD .empty).vq with
  | [] => false
  | r :: _ =>
    if r.done then
      match r.dst with
      | .sq n => decide (2 ≤ ((g.sq[n]?).getD []).length)
      | _ => false
    else !(r.entryReady g r.pi r.srcA && r.entryReady g r.pi r.srcB)

/-- Whether the oldest incomplete matrix instruction is held only by a queue (R35): the instruction at vcp is, and what the
matrix instruction waits for is that one or one behind it (R283), and no store or transfer. Its own operands are no
queues (R280, R285, R289). A full matrix queue counts where R35 has it so, though R273 says that its stall is not waiting
(DEDUCED, log 118). -/
def State.matrixHeld (s : State) (a : Agent) : Bool :=
  let t := (s.thread? a).getD .empty
  match t.mq with
  | [] => false
  | m :: _ =>
    s.heldByQueue a && !m.stuck && (t.moveHolder m).isNone && s.movePrior a m && !t.queueClear (s.gangOf a.gang) m

/-- Whether what has kept an instruction from retiring still does, and is a queue (R35). -/
def State.stillBlocked (s : State) (a : Agent) (w : Stall) : Bool :=
  let g := s.gangOf a.gang
  let t := (s.thread? a).getD .empty
  match w with
  | .entry q => (g.unclaimed (g.queue q)).isNone
  | .branch k => (g.branch k).isEmpty
  | .full k => decide (16 ≤ (g.branch k).length)
  | .drain m => !g.queuesDrained m fun _ => true
  | .vside => !{ s with cur := some a }.vectorDrained && s.heldByQueue a
  | .vfull => decide (64 ≤ t.vq.length) && s.heldByQueue a
  | .mside => decide (16 ≤ t.mq.length) && s.matrixHeld a
  | .none | .busy => false

/-- Whether a hart is waiting (R35, R403). In an energy pause none is (R430), one that sleeps in a wait among them
(DEDUCED, log 119). -/
def State.waits (s : State) (a : Agent) : Bool :=
  let t := (s.thread? a).getD .empty
  !t.ended && !t.debug && !t.frz && !s.paused a.gang && match t.wait with
    | .barrier | .word _ _ _ _ | .wfi => true
    | .gd _ => s.heldByQueue a
    | .none => s.stillBlocked a t.stall
    | _ => false

/-- Whether a resident gang is WAITING (R26, R35). -/
def State.gangWaits (s : State) (gi : Nat) : Bool :=
  let g := s.gangOf gi
  !(s.core g.core).stopped && !g.alive.isEmpty && g.alive.all fun h => s.waits ⟨gi, .hart h⟩

/-- The directed yield of a waiter (R180): the owner, if it is suspended, is placed ahead; if no core has room the
waiter's gang is halted. -/
def State.directedYield (s : State) (a : Agent) : State :=
  let g := s.gangOf a.gang
  match ((s.thread? a).getD .empty).wait, s.launchOf g with
  | .word _ _ true owner, some l =>
    if owner = 0 || l.whole then s
    else
      match s.gangs.findIdx? fun o => o.launch = g.launch && o.number + 1 = owner && decide (o.st = .suspended) with
      | none => s
      | some oi =>
        let s := { s with stamp := s.stamp + 1 }.modGang oi fun o =>
          { o with resume := o.resume.or (some s.stamp), yielded := true }
        let cores := s.coresFor (.again oi)
        if cores.any fun c => s.fitsCore (s.shapeOf oi) c true then s
        else if (s.gangOf a.gang).haltReq.isSome then s
        else s.modGang a.gang fun g => { g with haltReq := some 3 }
  | _, _ => s

/-- One launch at a sample: the forward-progress swap (R37). -/
def State.sampleSwap (s : State) (li : Nat) : State :=
  match s.launch? li with
  | none => s
  | some l =>
    if l.whole || l.complete then s
    else
      let mine := (List.range s.gangs.length).filter fun i =>
        let g := s.gangOf i
        g.launch = li && decide (g.st = .resident) && !(s.mod.bootGang = some i)
      let all_ := !mine.isEmpty && mine.all (s.gangWaits ·) && !(l.freshGangs 1).isEmpty
      let s := s.modLaunch li fun l => { l with samples := if all_ then l.samples + 1 else 0 }
      if all_ && decide (1 ≤ l.samples) then
        let youngest := mine.foldl (fun (best : Option Nat) i =>
          match best with
          | none => some i
          | some b =>
            let x := s.gangOf i
            let y := s.gangOf b
            if y.placeOrd < x.placeOrd || (x.placeOrd = y.placeOrd && decide (y.number < x.number)) then some i
            else some b) none
        match youngest with
        | some i => s.modGang i fun g => if g.haltReq.isSome then g else { g with haltReq := some 2 }
        | none => s
      else s

/-- One launch at a sample: aging (R424). -/
def State.sampleAge (s : State) (li : Nat) : State :=
  match s.launch? li with
  | none => s
  | some l =>
    let age := (s.part l.part).age.toNat
    let pending := !l.complete && !(s.pendingOf li l).isEmpty
    s.modLaunch li fun l =>
      if age = 0 || !pending || l.progressed then { l with waited := 0, progressed := false }
      else if age ≤ l.waited + 1 then { l with waited := 0, effPrio := min 7 (l.effPrio + 1) }
      else { l with waited := l.waited + 1 }

/-- DISPATCH_SAMPLE (R37, R180, R424). -/
def execDispatchSample (p : Nat) (s : State) : Out :=
  let ls := (List.range s.launches.length).filter fun i => match s.launch? i with
    | some l => l.part = p && !l.complete
    | none => false
  let s := ls.foldl (fun s li => (s.sampleSwap li).sampleAge li) s
  .next (s.sleepers.foldl (fun s r =>
    if s.partOfCore (s.gangOf r.gang).core = p then s.directedYield r.agent else s) s)

/-- ACCESS_CONTEXT_STOP (R251): when the gang's last hart has ended, a context still running stops. -/
def execAccessContextStop (gang : Nat) (s : State) : Out :=
  let g := s.gangOf gang
  .next (
    if g.st = .resident && g.alive.isEmpty && !g.access.ended then
      s.modGang gang fun g => { g with
        access := { g.access.closeAll with
          ended := true, wait := .none, stall := .none, vq := [], xfers := [], causes := [], faulted := false }
        lq := List.replicate 8 [], sq := List.replicate 4 [], bq := List.replicate 4 [], ents := [], bound := [] }
    else s)

/-- GANG_RETIREMENT (R26): the harts have ended, the context has stopped, and its stores are performed. -/
def execGangRetirement (gang : Nat) (s : State) : Out :=
  let g := s.gangOf gang
  .next (
    if g.st = .resident && g.alive.isEmpty && g.access.ended && g.access.wc.isEmpty then s.retireGang gang 0 else s)

end Sys2Proof.Machine
end

