-- ==== Sys2Proof/Machine/Timers.lean ====
section
/-! DEFINITION. What time brings: shelf units and the Turner, the Gleaner, the Granary, the arbiters' periods and the
clock (R28 to R30, R61, R62, R100, R394, R395, R426 to R434, R463). -/

namespace Sys2Proof.Machine

/-- Tile of a logical core (R3). -/
def tileOf (core : Nat) : Nat := core / 32

/-- Whether an allocation of a gang is in the Turner's care (R392 to R394). -/
def Gang.turned (g : Gang) (x : Alloc) : Bool :=
  (decide (g.st = .suspended) && x.kept) ||
  (decide (g.st = .resident) && (g.access.debug || g.harts.any (·.debug)))

/-- One tick of the age of a vector register (R62). -/
def VReg.tick (v : VReg) : VReg := if v.short then { v with age := min 31 (v.age + 1) } else v

/-- Gang offsets of the blocks of an allocation whose age is about to pass its tag (R395). -/
def Alloc.expiring (x : Alloc) : List Nat :=
  ((x.ages.mapIdx fun i e => (x.off + 4096 * i, e)).filter fun b => b.2 = x.tag).map (·.1)

/-- One shelf unit of a gang on the tile (R62, R63, R100, R103). -/
def Gang.tick (g : Gang) : Gang :=
  let missed := (g.allocs.filter g.turned).flatMap Alloc.expiring
  let age (t : Thread) : Thread := { t with vregs := t.vregs.map VReg.tick }
  let g := { g with
    allocs := g.allocs.map fun x => { x with ages := x.ages.map fun e => min 1025 (e + 1) }
    missed := g.missed ++ missed }
  if g.st = .resident then { g with harts := g.harts.map age, access := age g.access } else g

/-- SHELF_UNIT_TICK (R62, R100): the retention oscillator of a tile. -/
def execShelfUnitTick (tile : Nat) (s : State) : Out :=
  let tick (g : Gang) : Gang :=
    if tileOf g.core = tile && (g.st = .resident || g.st = .suspended) then g.tick else g
  .next { s with gangs := s.gangs.map tick }

/-- A block that the Turner may renew: its urgency, core, gang offset, gang. -/
structure Due where
  left : Nat
  core : Nat
  off : Nat
  gang : Nat
  deriving DecidableEq, Repr

/-- Due blocks of an allocation (R394). -/
def Alloc.due (x : Alloc) (gi core : Nat) : List Due :=
  (x.ages.mapIdx fun i e => (i, e)).filterMap fun b =>
    if x.tag - (x.tag + 3) / 4 ≤ b.2 && decide (b.2 ≤ x.tag) then some ⟨x.tag - b.2, core, x.off + 4096 * b.1, gi⟩
    else none

/-- Due blocks of a tile, the first to be renewed first (R394). -/
def State.dueBlocks (s : State) (tile : Nat) : List Due :=
  sortBy (fun d => (d.left * 256 + d.core) * 2 ^ 26 + d.off)
    ((s.gangs.mapIdx fun i g => (i, g)).flatMap fun x =>
      if tileOf x.2.core = tile then (x.2.allocs.filter x.2.turned).flatMap fun a => a.due x.1 x.2.core else [])

/-- The age of the block at a gang offset becomes 0. -/
def Gang.renewBlock (g : Gang) (off : Nat) : Gang :=
  { g with allocs := g.allocs.map fun x =>
      if x.off ≤ off && decide (off < x.off + 4096 * x.ages.length) then
        { x with ages := modifyAt x.ages ((off - x.off) / 4096) fun _ => 0 }
      else x }

/-- TURNER_RENEWAL (R394): the Turner of a tile renews the first due block, and its owner is charged (R428). -/
def execTurnerRenewal (tile : Nat) (s : State) : Out :=
  .next (match s.dueBlocks tile with
    | d :: _ => (s.modGang d.gang fun g => g.renewBlock d.off).charge d.gang 18 1
    | [] => s)

/-- The record of a miss (R395). -/
def missRecord (g : Gang) (off count : Nat) : List Word :=
  [BitVec.ofNat 64 (cSTALE + 5 * 2 ^ 16 + count % 2 ^ 32 * 2 ^ 32), 0, 0, BitVec.ofNat 64 (windowBase + off), 0, 0,
    BitVec.ofNat 64 (g.slot * 2 ^ 40 + g.core * 2 ^ 48), 0]

/-- Write a record where a gang's later image or its entry in the context pool holds it (R395, R399): the gang keeps it
for the next image's header unless the pool has one now. -/
def State.writeMissRecord (s : State) (gi : Nat) (rec0 : List Word) : State :=
  let keep := s.modGang gi fun g => { g with missRec := rec0 }
  if (s.gangOf gi).poolSlot.isNone then keep
  else
    match s.imageBlocks gi .write with
    | some (pa :: _) => { s with mem := putDwords s.mem (pa + 96) (rec0.map (·.toNat)) }
    | _ => keep

/-- The record of a miss lies in a channel in training (R459). -/
def State.missWaits (s : State) (gi : Nat) : Bool :=
  (s.gangOf gi).poolSlot.isSome && match s.imageBlocks gi .write with
    | some (pa :: _) => s.training pa
    | _ => false

/-- TURNER_MISS (R395): the blocks of the first gang of a tile that passed their tags are reported. The record waits for the
channel it is written to (R459). -/
def execTurnerMiss (tile : Nat) (s : State) : Out :=
  .next (match (s.gangs.mapIdx fun i g => (i, g)).find? fun x => tileOf x.2.core = tile && !x.2.missed.isEmpty with
    | some (gi, g) =>
      if s.missWaits gi then s else
      let rec0 := missRecord g (g.missed.headD 0) g.missed.length
      let s := s.modGang gi fun g => { g with missed := [] }
      (s.writeMissRecord gi rec0).raiseEvent (s.partOfCore g.core) 4
    | none => s)

/-- REGISTER_REFRESH (R61): the refresh of a bank changes no register. -/
def execRegisterRefresh (_core : Nat) (s : State) : Out := .next s

/-- A core's two neighbours, the lower-numbered first (R28). -/
def neighbours (core : Nat) : List Nat :=
  let t := core / 32 * 32
  let a := t + (core + 31) % 32
  let b := t + (core + 1) % 32
  if a < b then [a, b] else [b, a]

/-- Whether a core hosts a resident gang of a launch. -/
def State.hosts (s : State) (li core : Nat) : Bool :=
  s.gangs.any fun g => g.launch = li && decide (g.st = .resident) && g.core = core

/-- The queue of a launch on a core. -/
def Launch.queueOn (l : Launch) (core : Nat) : Option TaskQueue := l.queues.find? fun q => q.core = core

/-- Change the queue of a launch on a core. -/
def Launch.modQueue (l : Launch) (core : Nat) (f : TaskQueue → TaskQueue) : Launch :=
  { l with queues := l.queues.map fun q => if q.core = core then f q else q }

/-- The donor's decision on one link (R29): the records leave its tail. Its occupancy is that of the moment, after what an
earlier link of the same boundary has taken (DESIGN CHOICE, log 97). -/
def State.donate (s : State) (li core b : Nat) : State :=
  match (s.launch? li).bind fun l => l.queueOn core with
  | none => s
  | some q =>
    match q.heard.find? fun h => h.1 = b with
    | none => s
    | some h =>
      let d := q.recs.length - h.2
      if d < 4 || !s.hosts li b then s
      else
        let n := min 4 (d / 4)
        let keep := q.recs.length - n
        let s := s.modLaunch li fun l => l.modQueue core fun q => { q with recs := q.recs.take keep }
        { s with moves := s.moves ++ [⟨li, b, q.recs.drop keep⟩] }

/-- A core's occupancy reaches its neighbours (R28). -/
def Launch.report (l : Launch) (core : Nat) : Launch :=
  match l.queueOn core with
  | none => l
  | some q => (neighbours core).foldl (fun (l : Launch) b => l.modQueue b fun r =>
      { r with heard := (r.heard.filter fun h => h.1 ≠ core) ++ [(core, q.recs.length)] }) l

/-- GLEANER_BOUNDARY (R28 to R30, R426): a core decides on each link, the lower first, and then reports its occupancies,
as they are after those decisions (DESIGN CHOICE, log 96). -/
def execGleanerBoundary (core : Nat) (s : State) : Out :=
  let part := s.partOfCore core
  let ls := (List.range s.launches.length).filter fun i => match s.launch? i with
    | some l => l.part = part && !l.determ && !l.complete
    | none => false
  let s := if (s.part part).glean then
      ls.foldl (fun s li => (neighbours core).foldl (fun s b => s.donate li core b) s) s
    else s
  .next (ls.foldl (fun s li => s.modLaunch li fun l => l.report core) s)

/-- GLEANER_ARRIVAL (R29): move x reaches the tail of its new queue. -/
def execGleanerArrival (x : Nat) (s : State) : Out :=
  .next (match s.moves[x]? with
    | some m =>
      { s with moves := s.moves.eraseIdx x }.modLaunch m.launch fun l =>
        l.modQueue m.core fun q => { q with recs := q.recs ++ m.recs }
    | none => s)

/-- GRANARY_TICK (R427): each partition's account is credited. -/
def execGranaryTick (s : State) : Out :=
  let credit (p : PartSt) : PartSt :=
    { p with energy :=
        signed64 (min (p.energy + (p.fgrate.toNat * 2 ^ 20 : Nat)) (p.fgcap.toNat * 2 ^ 20 : Nat)) }
  .next { s with parts := s.parts.mapIdx fun i p => if i < 2 ^ s.mod.plog then credit p else p }

/-- Cycles that a core debits at once (R428): at most 1,024, else free. -/
def State.debitCycles (s : State) : Nat := (Config.freeValue s.free).toNat % 1024 + 1

/-- Instructions of a gang that have retired and are not debited (R428). -/
def Gang.retiredCount (g : Gang) : Nat := (g.harts.map (·.retired)).sum + g.access.retired

/-- They are debited. -/
def Gang.clearRetired (g : Gang) : Gang :=
  { g with harts := g.harts.map fun t => { t with retired := 0 }, access := { g.access with retired := 0 } }

/-- What a core has to debit, each with its launch (R428): the events noted, and the instructions its gangs have retired. -/
def State.owedDebits (s : State) (core : Nat) : List (Nat × Nat) :=
  (s.core core).debits ++
    (s.gangs.filter fun g => g.core = core).map fun g => (g.launch, g.retiredCount * s.eventEnergy 0)

/-- GRANARY_DEBIT (R428, R429): a core applies its debits to its partition and to the launches that caused them, and the
static energy of its cycles since the last time to its partition (log 48). -/
def execGranaryDebit (core : Nat) (s : State) : Out :=
  let ds := s.owedDebits core
  let total : Nat := (ds.map (·.2)).sum + s.debitCycles * s.eventEnergy 19
  let s : State := { s with
    free := s.free + 1
    gangs := s.gangs.map fun g => if g.core = core then g.clearRetired else g }
  let s := s.modCore core fun c => { c with debits := [] }
  let s := s.modPart (s.partOfCore core) fun p => { p with energy := signed64 (p.energy - total) }
  .next (ds.foldl (fun s d => s.modLaunch d.1 fun l => { l with eacct := l.eacct - d.2 }) s)

/-- ARBITER_PERIOD (R431, R434): the slot counts written for an arbiter take effect. -/
def execArbiterPeriod (n : Nat) (s : State) : Out :=
  .next { s with mod := { s.mod with fbtabNow := (List.range 16).foldl (fun (m : Sparse 12) k =>
    m.set (16 * n + k) (s.mod.fbtab.get (16 * n + k))) s.mod.fbtabNow } }

/-- The owner of slot i of an arbiter's period (R433). -/
def slotOwner (tab : Sparse 12) (n i : Nat) : Nat :=
  let r := (List.range 12).foldl (fun v b => 2 * v + i / 2 ^ b % 2) 0
  ((List.range 16).find? fun k => decide (1 ≤ k) &&
    decide (r < ((List.range k).map fun j => (tab.get (16 * n + j + 1)).toNat).sum)).getD 0

/-- CLOCK_LOWER (R463). -/
def execClockLower (s : State) : Out := .next { s with mod := { s.mod with clock := max 2000 (s.mod.clock - 250) } }

/-- CLOCK_RAISE (R463). -/
def execClockRaise (s : State) : Out := .next { s with mod := { s.mod with clock := min 4000 (s.mod.clock + 250) } }

end Sys2Proof.Machine
end

