-- ==== Sys2Proof/Machine/Repair.lean ====
section
/-! DEFINITION. The repair map: its entries in the mirror, merging what a self-test finds, binding, and the check of a
commit (R435 to R440). -/

namespace Sys2Proof.Machine

/-- First byte of the firmware store (R447). -/
def fwBase : Nat := 0x3000000000000

/-- First byte of the repair mirror (R436). -/
def mirrorBase : Nat := fwBase + 0x7F0000

/-- A core entry (R436). -/
structure CoreEntry where
  lcore : Nat
  out : Bool
  aged : Bool
  lx : List Nat
  deriving DecidableEq, Repr

/-- The fields of a core entry. -/
def CoreEntry.ofNat (v : Nat) : CoreEntry :=
  { lcore := v % 256, out := v / 2 ^ 8 % 2 = 1, aged := v / 2 ^ 9 % 2 = 1
    lx := (List.range 8).map fun k => v / 2 ^ (16 + 3 * k) % 8 }

/-- The dword of a core entry. -/
def CoreEntry.toNat (e : CoreEntry) : Nat :=
  e.lcore + (if e.out then 2 ^ 8 else 0) + (if e.aged then 2 ^ 9 else 0) +
    (e.lx.mapIdx fun k l => l * 2 ^ (16 + 3 * k)).sum

/-- A row entry in use (R436): its place, bank, row, physical core and spare. -/
structure RowEntry where
  n : Nat
  bank : Nat
  row : Nat
  pcore : Nat
  spare : Nat
  deriving DecidableEq, Repr

/-- The fields of a row entry, if it is in use. -/
def RowEntry.ofNat (n v : Nat) : Option RowEntry :=
  if v / 2 ^ 31 % 2 = 1 then some ⟨n, v % 64, v / 2 ^ 6 % 512, v / 2 ^ 15 % 64, v / 2 ^ 21 % 8⟩ else none

/-- The word of a row entry. -/
def RowEntry.toNat (r : RowEntry) : Nat :=
  r.bank + r.row * 2 ^ 6 + r.pcore * 2 ^ 15 + r.spare * 2 ^ 21 + 2 ^ 31

/-- The map of one tile. -/
structure TileMap where
  cores : List CoreEntry
  rows : List RowEntry
  deriving DecidableEq, Repr

/-- The map of a tile as the mirror holds it. -/
def readMap (m : Memory) (tile : Nat) : TileMap :=
  { cores := (List.range 36).map fun i => CoreEntry.ofNat (m.read (mirrorBase + 0x200 * tile + 8 * i) 8)
    rows := (List.range 1024).filterMap fun n =>
      RowEntry.ofNat n (m.read (mirrorBase + 0x1000 + 0x1000 * tile + 4 * n) 4) }

/-- Put the map of a tile into the mirror. -/
def writeMap (m : Memory) (tile : Nat) (x : TileMap) : Memory :=
  let m := (x.cores.mapIdx fun i e => (i, e)).foldl (fun (m : Memory) (p : Nat × CoreEntry) =>
    m.write (mirrorBase + 0x200 * tile + 8 * p.1) 8 p.2.toNat) m
  x.rows.foldl (fun (m : Memory) (r : RowEntry) =>
    m.write (mirrorBase + 0x1000 + 0x1000 * tile + 4 * r.n) 4 r.toNat) m

/-- An unwritten store: no core bound, and lane 4 left out everywhere (R436). -/
def TileMap.unwritten : TileMap :=
  { cores := List.replicate 36 ⟨0xFF, false, false, List.replicate 8 4⟩, rows := [] }

/-- Map a core out (R437); `aged` tells an ageing check. -/
def TileMap.mapOut (x : TileMap) (p : Nat) (aged : Bool) : TileMap :=
  { x with cores := modifyAt x.cores p fun e => if e.out then e else { e with out := true, aged := aged } }

/-- The lanes of a group that a test found failing (R438). -/
def failedLanes (ds : List Defect) (tile p g : Nat) : List Nat :=
  (List.range 5).filter fun l => ds.contains (.lane tile p g l)

/-- Merge the lane failures of one group (R438). -/
def TileMap.mergeLanes (x : TileMap) (ds : List Defect) (tile p g : Nat) (aged : Bool) : TileMap :=
  match failedLanes ds tile p g with
  | [] => x
  | [l] => { x with cores := modifyAt x.cores p fun e => { e with lx := modifyAt e.lx g fun _ => l } }
  | _ => x.mapOut p aged

/-- Merge one failed row (R439). -/
def TileMap.mergeRow (x : TileMap) (p bank row : Nat) (aged : Bool) : TileMap :=
  let mine := x.rows.filter fun r => r.pcore = p && r.bank = bank
  if mine.any fun r => r.row = row then x
  else
    match (List.range 8).find? fun k => !(mine.any fun r => r.spare = k),
        (List.range 1024).find? fun n => !(x.rows.any fun r => r.n = n) with
    | some k, some n => { x with rows := x.rows ++ [⟨n, bank, row, p, k⟩] }
    | _, _ => x.mapOut p aged

/-- Logical indices of a tile get their cores (R437): a core that is OUT is unbound, and each index without a binding
takes the lowest core that is neither OUT nor bound. -/
def TileMap.bind (x : TileMap) : TileMap :=
  let x := { x with cores := x.cores.map fun e => if e.out then { e with lcore := 0xFF } else e }
  (List.range 32).foldl (fun (x : TileMap) i =>
    if x.cores.any fun e => e.lcore = i then x
    else
      match x.cores.findIdx? fun e => !e.out && decide (e.lcore = 0xFF) with
      | some p => { x with cores := modifyAt x.cores p fun e => { e with lcore := i } }
      | none => x) x

/-- Merge what a self-test found on a tile (R437 to R439). -/
def TileMap.merge (x : TileMap) (ds : List Defect) (tile : Nat) (aged : Bool) : TileMap :=
  let x := (List.range 36).foldl (fun (x : TileMap) p =>
    let x := if ds.contains (.core tile p) then x.mapOut p aged else x
    (List.range 8).foldl (fun (x : TileMap) g => x.mergeLanes ds tile p g aged) x) x
  let row (x : TileMap) (d : Defect) : TileMap := match d with
    | .row t p bank row => if t = tile && decide (p < 36) && decide (bank < 64) && decide (row < 384) then
        x.mergeRow p bank row aged else x
    | _ => x
  (ds.foldl row x).bind

/-- Cores of a tile that are OUT. -/
def TileMap.outs (x : TileMap) : Nat := (x.cores.filter (·.out)).length

/-- The physical core that carries a logical index. -/
def TileMap.carrier (x : TileMap) (i : Nat) : Option Nat := x.cores.findIdx? fun e => e.lcore = i

/-- The rules that a commit checks (R440). -/
def TileMap.commits (x : TileMap) : Bool :=
  let bound := (x.cores.map (·.lcore)).filter (· ≠ 0xFF)
  decide bound.Nodup && decide (x.outs ≤ 4) && x.cores.all (fun e => (!e.out || decide (e.lcore = 0xFF)) &&
    e.lx.all fun l => decide (l ≤ 4)) &&
  decide ((x.rows.map fun r => (r.pcore, r.bank, r.spare)).Nodup) &&
  x.rows.all fun r => decide ((x.rows.filter fun q => q.pcore = r.pcore && q.bank = r.bank).length ≤ 8)

/-- Copy a run of bytes between memories: what is listed of `src` in the run, and zero elsewhere. -/
def copyRun (dst src : Memory) (dst0 src0 n : Nat) : Memory :=
  (src.filter fun e => decide (src0 ≤ e.1) && decide (e.1 < src0 + n)).foldl
    (fun (m : Memory) (e : Nat × BitVec 8) => Sparse.set m (dst0 + (e.1 - src0)) e.2) (Sparse.clear dst dst0 n)

/-- The self-test of the boot (R435 to R439, R443): the repair store is copied to the mirror, what is found is merged,
and cores are bound; a tile that cannot present 32 cores, or a structure without repair, is BISTFAIL (R446). -/
def State.selfTest (s : State) : State :=
  if s.mod.bstat ≠ 0 || s.mod.tested then s
  else
    let ds := Config.selfTest s.free
    let mem := copyRun s.mem s.mod.store mirrorBase 0 65536
    let maps := (List.range 8).map fun t =>
      (if s.mod.store.isEmpty then TileMap.unwritten else readMap mem t).merge ds t false
    let mem := (maps.mapIdx fun t x => (t, x)).foldl (fun (m : Memory) (p : Nat × TileMap) => writeMap m p.1 p.2) mem
    let bad := (List.range 8).find? fun t => ds.contains (.other t) || match maps[t]? with
      | some x => decide (4 < x.outs)
      | none => false
    let mod := { s.mod with
      tested := true
      binding := maps.flatMap fun x => (List.range 32).map x.carrier }
    let mod := match bad with
      | some t => { mod with bstat := 0x8000000000000001#64, evUnit := BitVec.ofNat 3 t }
      | none => mod
    { s with mem := mem, mod := mod, free := s.free + 1 }

/-- SELF_TEST (R435). -/
def execSelfTest (s : State) : Out := .next s.selfTest

/-- The test of the physical core bound to a held logical core (R440). -/
def State.coreTest (s : State) (core : Nat) : State :=
  let t := core / 32
  match (s.mod.binding[core]?).getD none with
  | none => { s with mod := { s.mod with fctest := 0 } }
  | some p =>
    let ds := (Config.selfTest s.free).filter fun d => match d with
      | .core a b => a = t && b = p
      | .lane a b _ _ => a = t && b = p
      | .row a b _ _ => a = t && b = p
      | .other _ => false
    let x := readMap s.mem t
    let y := x.merge ds t true
    let out (x : TileMap) : Bool := match x.cores[p]? with
      | some e => e.out
      | none => false
    let r : BitVec 2 := BitVec.ofNat 2 ((if x = y then 0 else 1) + (if out y && !out x then 2 else 0))
    { s with mem := writeMap s.mem t y, mod := { s.mod with fctest := r }, free := s.free + 1 }

/-- Whether the mirror may be committed (R440). -/
def State.mirrorOk (s : State) : Bool := (List.range 8).all fun t => (readMap s.mem t).commits

/-- Commit the mirror to the repair store, and apply it to every held core (R440). -/
def State.commitMirror (s : State) : State :=
  let bind (c : Nat) (b : Option Nat) : Option Nat :=
    if (s.core c).held then (readMap s.mem (c / 32)).carrier (c % 32) else b
  { s with mod := { s.mod with
      store := copyRun [] s.mem 0 mirrorBase 65536
      binding := s.mod.binding.mapIdx bind } }

end Sys2Proof.Machine
end

