-- ==== Sys2Proof/Machine/Boot.lean ====
section
/-! DEFINITION. Resets, boot, links and the functions of firmware calls (R407, R443 to R457, R463). -/

namespace Sys2Proof.Machine

/-- BSTAT values (R446). -/
def bistFail : Word := 0x8000000000000001
/-- A read of the image failed. -/
def imgFault : Word := 0x8000000000000002
/-- The image's format. -/
def badImg : Word := 0x8000000000000003
/-- Its signature or key. -/
def badSig : Word := 0x8000000000000004
/-- Its key slot. -/
def revoked : Word := 0x8000000000000005
/-- Its version. -/
def rollback : Word := 0x8000000000000006
/-- Overtemperature. -/
def thermTrip : Word := 0x8000000000000008

/-- The minimum security version number: the fused value, or a higher one burned since (R440). -/
def ModSt.svn (m : ModSt) : Nat := max (Config.fusedSvn % 64) m.fsvn

/-- A partition reset of a partition (R407, R409): what a write to fpart leaves. Firmware's registers and groups and the
counts of sdstat are not among what it resets. -/
def PartSt.partitionReset (p : PartSt) : PartSt :=
  { PartSt.reset with
    fpmem := p.fpmem, fgrate := p.fgrate, fgcap := p.fgcap, fclmap := p.fclmap
    energy := signed64 (p.fgcap.toNat * 2 ^ 20 : Nat)
    groups := p.groups, chunks := p.chunks, results := p.results
    swaps := p.swaps, yields := p.yields, poolmiss := p.poolmiss, ringerr := p.ringerr, doneerr := p.doneerr }

/-- Partition reset of every partition (R407): queues, serials, caches and accounts. -/
def State.partitionResets (s : State) : State :=
  { s with
    parts := s.parts.map PartSt.partitionReset
    launches := s.launches.map fun l => { l with complete := true }
    orch := s.orch.map fun _ => OrchSlice.reset
    cores := s.cores.map fun c => { c with icache := [], tcache := [], dimCache := [] }
    gangs := s.gangs.map fun g => { g with access := { g.access with tcache := [] } } }

/-- What module reset leaves (R443, R458): memory outside the firmware store, the repair store, the burned version and
the expanders. -/
def State.moduleReset (s : State) : State :=
  { State.reset with
    mem := Sparse.clear s.mem fwBase (2 ^ 23)
    mod := { ModSt.reset with fsvn := s.mod.fsvn, store := s.mod.store, cxlCap := s.mod.cxlCap }
    agenda := s.agenda, turn := s.turn, free := s.free, stamp := s.stamp }

/-- MODULE_RESET (R407, R443). -/
def execModuleReset (s : State) : Out := .next s.moduleReset

/-- THERMTRIP (R463): every clock stops and what the package holds is lost. -/
def execThermtrip (s : State) : Out :=
  let r := s.moduleReset
  .next { r with
    mem := r.mem.filter fun e => match regionOf e.1 with
      | some (.cxl _) | some .host => true
      | _ => false
    mod := { r.mod with bstat := thermTrip, off := true } }

/-- DCL_TRAINING (R443, R446): after the self-test BSTAT becomes WAITIMG, and so it does after a failed boot. -/
def execDclTraining (s : State) : Out :=
  let failed := [bistFail, imgFault, badImg, badSig, revoked, rollback].contains s.mod.bstat
  .next (if (s.mod.tested && decide (s.mod.bstat = 0) && s.mod.dclUp) || failed then
      { s with mod := { s.mod with bstat := 1 } }
    else s)

/-- BGO (R442, R443): the companion processor gives the image's place and starts the load. -/
def execBgo (img len : BitVec 64) (s : State) : Out :=
  .next { s with mod := { s.mod with
    bimg := img, blen := len
    bstat := if s.mod.bstat = 1 then 2 else s.mod.bstat } }

/-- Bytes of memory as a list. -/
def memBytes (m : Memory) (a n : Nat) : List (BitVec 8) := (List.range n).map fun i => Sparse.get m (a + i)

/-- Whether a run of bytes of memory is zero. -/
def zeroBytes (m : Memory) (a n : Nat) : Bool := m.all fun e => !(decide (a ≤ e.1) && decide (e.1 < a + n))

/-- The checks of R445, in order, on the image in the firmware store: BSTAT of the first that fails. -/
def State.imageFailure (s : State) : Option Word :=
  let m := s.mem
  let len := m.read (fwBase + 8) 4
  let key := m.read (fwBase + 7) 1
  let pub := memBytes m (fwBase + 16) 97
  let format := decide (m.read fwBase 4 = 0x4E494C50) && decide (m.read (fwBase + 4) 2 = 1) && decide (len % 256 = 0) &&
    decide (256 ≤ len) && decide (len ≤ 7339776) && decide (s.mod.blen.toNat = 256 + len) &&
    zeroBytes m (fwBase + 12) 4 && zeroBytes m (fwBase + 113) 39 && zeroBytes m (fwBase + 248) 8
  if !format then some badImg
  else if 4 ≤ key || sha384 pub ≠ Config.keyDigest key then some badSig
  else if Config.keyRevoked key then some revoked
  else if m.read (fwBase + 6) 1 < s.mod.svn then some rollback
  else
    let digest := sha384 (memBytes m fwBase 152 ++ memBytes m (fwBase + 256) len)
    if signatureValid pub digest (bigEndian (memBytes m (fwBase + 152) 48)) (bigEndian (memBytes m (fwBase + 200) 48)) then none
    else some badSig

/-- Dwords of memory at a physical address. -/
def memDwords (m : Memory) (a n : Nat) : List Word := (List.range n).map fun i => BitVec.ofNat 64 (m.read (a + 8 * i) 8)

/-- The firmware's code object as a launch of one gang of one hart at level 2 (R162, R163, R447). -/
def bootObject (m : Memory) : Launch :=
  let kobj := fwBase + 256
  let w := memDwords m kobj 16
  let h := Header.ofWords (BitVec.ofNat 64 kobj) w
  let (off, len) := sectionOf w 2
  let put (m : Sparse 64) (x : Nat × Word) : Sparse 64 := m.set x.1 x.2
  { part := 0, lid := 2 ^ 16, desc := [BitVec.ofNat 64 kobj, BitVec.ofNat 64 fwBase, 0, 1, 1 + 2 ^ 32, 0, 0, 0], level := 2,
    super := false, head := h
    coef := if h.ok then ((memDwords m (kobj + off) ((len + 7) / 8)).mapIdx fun i v => (i, v)).foldl put [] else []
    dirDims := if h.dirLen = 0 then 0 else m.read h.dirAddr.toNat 2
    queues := [], left := 0, outcome := 0, eacct := 0, effPrio := 0, waited := 0, samples := 0, acceptOrd := 0, next := 1,
    killed := [], retired := 0, complete := true, epochs := [], progressed := false }

/-- The boot gang starts (R447): one hart, on logical core 0, with g3 alone set. Every other core is held until the firmware
reports READY (DEDUCED, log 112). -/
def State.startBoot (s : State) : State :=
  let l := bootObject s.mem
  let g := l.newGang bootLaunch 0 0 0 s.stamp
  let g := { g with harts := g.harts.map fun t => t.setReg 4 0 }
  { s with
    gangs := s.gangs ++ [g], stamp := s.stamp + 1
    cores := s.cores.mapIdx fun i c => if i = 0 then c else { c with parked := true }
    mod := { s.mod with bstat := 3, bootGang := some s.gangs.length, boot := some l } }

/-- IMAGE_COPIED (R443 to R447): the image has been read into the firmware store; it is checked, and the boot gang
starts. -/
def execImageCopied (s : State) : Out :=
  .next (
    if s.mod.bstat ≠ 2 then s
    else
      let img := s.mod.bimg.toNat
      let len := min s.mod.blen.toNat 0x700000
      let fail (s : State) (v : Word) : State := { s with mod := { s.mod with bstat := v } }
      if !s.mod.dclUp || decide (img < 2 ^ 50) || decide (2 ^ 51 < img + len) then fail s imgFault
      else
        let s := { s with mem := copyRun (Sparse.clear s.mem fwBase 0x700000) s.mem fwBase img len }
        match s.imageFailure with
        | some v => fail s v
        | none =>
          let n := s.mem.read (fwBase + 8) 4
          { s with mod := { s.mod with
            imgVersion := s.mem.read (fwBase + 4) 2, imgSvn := s.mem.read (fwBase + 6) 1
            imgDigest := sha384 (memBytes s.mem fwBase 152 ++ memBytes s.mem (fwBase + 256) n) } }.startBoot)

/-- DCL_FAILURE (R452): every core stops, as at a trap at level 2 (R448). -/
def execDclFailure (s : State) : Out :=
  .next ((List.range s.cores.length).foldl State.loseCore { s with mod := { s.mod with dclUp := false } })

/-- The route toward a module: its port, if it is valid (R455). -/
def ModSt.route (m : ModSt) (module : Nat) : Option Nat :=
  let b := (m.routes.get module).toNat
  if b / 2 ^ 7 = 1 then some (b % 32) else none

/-- Whether an entry names another module whose route is of some kind (R456, R457). -/
def GroupEntry.anyRoute (e : GroupEntry) (m : ModSt) (p : Option Nat → Bool) : Bool :=
  e.ranks.any fun r => r.1 ≠ m.fmodid.toNat && p (m.route r.1)

/-- PORT_DOWN (R454, R457): every group that needs the port breaks. -/
def execPortDown (q : Nat) (s : State) : Out :=
  .next (
    if 24 ≤ q then s
    else
      let s := { s with mod := { s.mod with
        fabricUp := s.mod.fabricUp &&& ~~~BitVec.ofNat 24 (2 ^ q), event := s.mod.event ||| 2#5
        evPort := BitVec.ofNat 5 q } }
      (List.range 8).foldl (fun (s : State) p =>
        ((s.part p).groups.filter fun e => e.anyRoute s.mod fun r => r = some q).foldl
          (fun (s : State) e => s.breakGroup p e.gidx) s) s)

/-- PORT_RETRAINED (R454, R457): the port is up again; no group is repaired. -/
def execPortRetrained (q : Nat) (s : State) : Out :=
  .next (if 24 ≤ q then s
    else { s with mod := { s.mod with fabricUp := s.mod.fabricUp ||| BitVec.ofNat 24 (2 ^ q) } })

/-- CXL_PORT_LOST (R453): firmware clears the port's bit of every fpmem. -/
def execCxlPortLost (p : Nat) (s : State) : Out :=
  .next (if 12 ≤ p then s
    else { s with
      parts := s.parts.map fun x => { x with fpmem := x.fpmem &&& ~~~BitVec.ofNat 21 (2 ^ (8 + p)) }
      mod := { s.mod with
        cxlUp := s.mod.cxlUp &&& ~~~BitVec.ofNat 12 (2 ^ p), event := s.mod.event ||| 4#5, evCxl := BitVec.ofNat 4 p } })

/-- EVENT_W1C (R442). -/
def execEventW1c (v : BitVec 64) (s : State) : Out :=
  .next { s with mod := { s.mod with event := s.mod.event &&& ~~~v.setWidth 5 } }

/-- Whether a hart has entered firmware by FWCALL, with a function number of some kind, on a core that runs (R404, R451). -/
def State.called (s : State) (a : Agent) (fn : Nat → Bool) : Bool :=
  let g := s.gangOf a.gang
  match s.thread? a with
  | some t =>
    decide (a.role ≠ .access) && decide (g.st = .resident) && !(s.core g.core).stopped && !t.ended &&
    decide (t.lvl = 2) && decide (((t.ffrec[0]?).getD 0).toNat % 2 ^ 16 = 0x100) && fn (t.reg 10).toNat
  | none => false

/-- Statuses of firmware calls (R451). -/
def fwBadFn : Word := 0x8000000000000001
/-- A bad argument. -/
def fwBadArg : Word := 0x8000000000000002
/-- An address cannot be reached. -/
def fwFault : Word := 0x8000000000000003
/-- Not allowed to the caller. -/
def fwDenied : Word := 0x8000000000000004
/-- No route. -/
def fwNoRoute : Word := 0x8000000000000005

/-- The firmware answers a call (R451): status in g10, value in g11 where the call succeeds, and the return. -/
def State.fwReturn (s : State) (a : Agent) (status value : Word) : State :=
  let s := { s with cur := some a }
  (s.setMe fun t => if status = 0 then (t.setReg 10 0).setReg 11 value else t.setReg 10 status).returnTrap

/-- A firmware function: what it does to a caller that waits in it. The firmware answers a caller that names no function at
any of them (R451; DEDUCED, log 114). -/
def State.fwCall (s : State) (a : Agent) (fn : Nat) (k : State) : Out :=
  .next (if s.called a (fun n => n = fn) then k
    else if s.called a (fun n => decide (5 ≤ n)) then s.fwReturn a fwBadFn 0
    else s)

/-- A run of at most 2^36 physical bytes lies in the module's address map, in one region or in two that adjoin. -/
def State.physical (s : State) (a n : Nat) : Bool :=
  let last := a + n - 1
  let b := last / 2 ^ 36 * 2 ^ 36
  let has (x : Nat) : Bool := (s.regionAt x).isSome
  has a && has last && (b ≤ a || (has (b - 1) && has b))

/-- A run of physical bytes touches a channel in training (R459). -/
def State.trains (s : State) (a n : Nat) : Bool :=
  (List.range ((a % 256 + n + 255) / 256)).any fun k => s.training (a / 256 * 256 + 256 * k)

/-- Argument registers of a firmware call. -/
def State.arg (s : State) (a : Agent) (n : Nat) : Nat := (((s.thread? a).getD .empty).reg n).toNat

/-- VERSION (R451). -/
def execVersion (ag : Agent) (s : State) : Out :=
  s.fwCall ag 0 (s.fwReturn ag 0 (BitVec.ofNat 64 (s.mod.imgVersion % 2 ^ 16 + s.mod.imgSvn % 256 * 2 ^ 16)))

/-- The group entry at a physical address, or the status of R456; none while it lies in a channel in training (R459). -/
def State.readGroup (s : State) (gidx addr : Nat) : Option (Except Word GroupEntry) :=
  if !s.physical addr 8 then some (.error fwFault)
  else if s.trains addr 8 then none
  else
    let d0 := s.mem.read addr 8
    let ranks := d0 % 4096 + 1
    if 4096 ≤ d0 then some (.error fwBadArg)
    else if !s.physical addr (8 * (ranks + 1)) then some (.error fwFault)
    else if s.trains addr (8 * (ranks + 1)) then none
    else
      let ws := (List.range ranks).map fun r => s.mem.read (addr + 8 * (r + 1)) 8
      let e : GroupEntry :=
        { gidx := gidx, broken := false
          ranks := ws.map fun w => (w / 2 ^ 48, w / 2 ^ 32 % 2 ^ 16, w % 2 ^ 20) }
      if (ws.any fun w => decide (w / 2 ^ 20 % 2 ^ 12 ≠ 0)) || !decide ws.Nodup then some (.error fwBadArg)
      else if e.anyRoute s.mod fun r => match r with
          | some q => !s.mod.fabricUp.getLsbD q
          | none => true then some (.error fwNoRoute)
      else some (.ok e)

/-- Replace a group's entry (R456): members of the old one see BROKEN. -/
def State.replaceGroup (s : State) (part gidx : Nat) (e : Option GroupEntry) : State :=
  (s.breakGroup part gidx).modPart part fun p => { p with
    groups := (p.groups.filter fun x => x.gidx ≠ gidx) ++ e.toList
    chunks := p.chunks.filter fun c => c.gidx ≠ gidx
    results := p.results.filter fun r => r.1 ≠ gidx }

/-- GROUPSET (R451, R456). -/
def execGroupset (ag : Agent) (s : State) : Out :=
  let gidx := s.arg ag 11
  let addr := s.arg ag 12
  let part := s.partOfCore (s.gangOf ag.gang).core
  s.fwCall ag 1 (
    if 256 ≤ gidx || addr % 8 ≠ 0 then s.fwReturn ag fwBadArg 0
    else if addr = 0 then (s.replaceGroup part gidx none).fwReturn ag 0 0
    else
      match s.readGroup gidx addr with
      | none => s
      | some (.error v) => s.fwReturn ag v 0
      | some (.ok e) => (s.replaceGroup part gidx (some e)).fwReturn ag 0 0)

/-- ROUTESET (R451, R455): the entry of the module itself is ignored. Like GROUPSET and ATTEST it stalls while what it reads
or writes lies in a channel in training (R459). -/
def execRouteset (ag : Agent) (s : State) : Out :=
  let addr := s.arg ag 11
  let own := s.mod.fmodid.toNat
  s.fwCall ag 2 (
    if s.partOfCore (s.gangOf ag.gang).core ≠ 0 then s.fwReturn ag fwDenied 0
    else if !s.physical addr 65536 then s.fwReturn ag fwFault 0
    else if s.trains addr 65536 then s
    else
      let t := copyRun [] s.mem 0 addr 65536
      if t.any fun e => decide (e.1 ≠ own) && (decide (e.2.toNat / 32 % 4 ≠ 0) ||
          (e.2.getLsbD 7 && decide (24 ≤ e.2.toNat % 32))) then
        s.fwReturn ag fwBadArg 0
      else { s with mod := { s.mod with routes := t } }.fwReturn ag 0 0)

/-- The device's private key: a number from 1 to n - 1 (R449). -/
def devicePrivate : Nat := Config.deviceKey % (curveN - 1) + 1

/-- The bytes of an attestation report that its signature covers (R450). -/
def State.reportBytes (s : State) (nonce : List (BitVec 8)) : List (BitVec 8) :=
  let serial := (List.range 16).map Config.serialByte
  let store := sha384 (memBytes s.mod.store 0 65536)
  [0x50#8, 0x41#8, 0x54#8, 0x54#8, 1#8, 0#8, 0#8, 0#8] ++ serial ++ (s.mod.imgDigest ++ List.replicate 48 0).take 48 ++
    [BitVec.ofNat 8 s.mod.imgSvn, BitVec.ofNat 8 s.mod.svn] ++ store ++
    [BitVec.ofNat 8 s.mod.plog] ++ List.replicate 5 0 ++ nonce ++ publicKey devicePrivate ++ List.replicate 7 0 ++ sha384 Config.certificate ++
    List.replicate 56 0

/-- The 1,024 bytes of a report (R450). -/
def State.report (s : State) (nonce : List (BitVec 8)) : List (BitVec 8) :=
  let r := s.reportBytes nonce
  r ++ sign devicePrivate (Config.attestSecret s.free % (curveN - 1) + 1) (sha384 r) ++ List.replicate 544 0

/-- Write a list of bytes. -/
def putBytes (m : Memory) (a : Nat) : List (BitVec 8) → Memory
  | [] => m
  | b :: bs => putBytes (Sparse.set m a b) (a + 1) bs

/-- ATTEST (R450, R451). -/
def execAttest (ag : Agent) (s : State) : Out :=
  let nonce := s.arg ag 11
  let addr := s.arg ag 12
  s.fwCall ag 3 (
    if addr % 256 ≠ 0 then s.fwReturn ag fwBadArg 0
    else if !s.physical nonce 48 || !s.physical addr 1024 then s.fwReturn ag fwFault 0
    else if s.trains nonce 48 || s.trains addr 1024 then s
    else { s with
      free := s.free + 1, mem := putBytes s.mem addr (s.report (memBytes s.mem nonce 48)) }.fwReturn ag 0 0)

/-- LINKSTAT (R451). -/
def execLinkstat (ag : Agent) (s : State) : Out :=
  s.fwCall ag 4 ((s.modThread ag fun t => t.setReg 12 (s.mod.cxlUp.setWidth 64)).fwReturn ag 0 (s.mod.fabricUp.setWidth 64))

end Sys2Proof.Machine
end

