-- ==== Sys2Proof/Machine/Mesh.lean ====
section
/-! DEFINITION. The topology of meshes: reference cells and their refinement, the curve, faces and their numbers, the
charge of a generation, and adaptation (R294 to R298, R303, R313, R317 to R325, R334). -/

namespace Sys2Proof.Machine

/-- A point of a reference cell, in units of 2^-17 of its edge. -/
abbrev Pt := Int × Int × Int

/-- Sum of two points. -/
def Pt.plus (p q : Pt) : Pt := (p.1 + q.1, p.2.1 + q.2.1, p.2.2 + q.2.2)
/-- Difference of two points. -/
def Pt.minus (p q : Pt) : Pt := (p.1 - q.1, p.2.1 - q.2.1, p.2.2 - q.2.2)
/-- A multiple of a point. -/
def Pt.times (k : Int) (p : Pt) : Pt := (k * p.1, k * p.2.1, k * p.2.2)
/-- The midpoint of two points. -/
def Pt.mid (p q : Pt) : Pt := ((p.1 + q.1) / 2, (p.2.1 + q.2.1) / 2, (p.2.2 + q.2.2) / 2)
/-- Inner product. -/
def Pt.dot (p q : Pt) : Int := p.1 * q.1 + p.2.1 * q.2.1 + p.2.2 * q.2.2
/-- Cross product. -/
def Pt.cross (p q : Pt) : Pt :=
  (p.2.1 * q.2.2 - p.2.2 * q.2.1, p.2.2 * q.1 - p.1 * q.2.2, p.1 * q.2.1 - p.2.1 * q.1)

/-- Vertices of the reference cells (R317), with edges of length 1. -/
def unitVertices : Nat → List Pt
  | 0 => [(0, 0, 0), (1, 0, 0), (0, 1, 0), (1, 1, 0), (0, 0, 1), (1, 0, 1), (0, 1, 1), (1, 1, 1)]
  | 1 => [(0, 0, 0), (1, 0, 0), (0, 1, 0), (0, 0, 1)]
  | 2 => [(0, 0, 0), (1, 0, 0), (0, 1, 0), (0, 0, 1), (1, 0, 1), (0, 1, 1)]
  | _ => [(0, 0, 0), (1, 0, 0), (1, 1, 0), (0, 1, 0), (0, 0, 1)]

/-- Vertex lists of the local faces (R317). -/
def faceLists : Nat → List (List Nat)
  | 0 => [[0, 2, 6, 4], [1, 3, 7, 5], [0, 1, 5, 4], [2, 6, 7, 3], [0, 2, 3, 1], [4, 5, 7, 6]]
  | 1 => [[1, 2, 3], [0, 2, 3], [0, 1, 3], [0, 1, 2]]
  | 2 => [[0, 1, 2], [3, 4, 5], [0, 1, 4, 3], [1, 2, 5, 4], [2, 0, 3, 5]]
  | _ => [[0, 1, 2, 3], [0, 1, 4], [1, 2, 4], [2, 3, 4], [3, 0, 4]]

/-- The point of a list. -/
def ptAt (v : List Pt) (i : Nat) : Pt := (v[i]?).getD (0, 0, 0)

/-- A corner child: the half of the cell at vertex c, its vertices in the order of the cell's (log 13). -/
def cornerChild (v : List Pt) (c : Nat) : List Pt := v.map fun p => Pt.mid (ptAt v c) p

/-- The children of a cell with their kinds and vertices, in child order (R318; the order of a child's own vertices is
log 13). -/
def childrenOf (kind : Nat) (v : List Pt) : List (Nat × List Pt) :=
  let m (i j : Nat) : Pt := Pt.mid (ptAt v i) (ptAt v j)
  match kind with
  | 0 => (List.range 8).map fun c => (0, cornerChild v c)
  | 1 => (List.range 4).map (fun c => (1, cornerChild v c)) ++
      [(m 0 1, m 0 3), (m 0 3, m 2 3), (m 2 3, m 1 2), (m 1 2, m 0 1)].map fun p => (1, [m 0 2, m 1 3, p.1, p.2])
  | 2 => (List.range 8).map fun c =>
      let l := c / 4
      let t := c % 4
      let tri (a b d : Nat) : List Pt := [m a b, m b d, m d a]
      if t < 3 then (2, cornerChild v (3 * l + t))
      else
        let lower := tri 1 2 0
        let upper := tri 4 5 3
        let between := (List.range 3).map fun i => Pt.mid (ptAt lower i) (ptAt upper i)
        (2, if l = 0 then lower ++ between else between ++ upper)
  | _ =>
    let base := Pt.mid (ptAt v 0) (ptAt v 2)
    (List.range 4).map (fun c => (3, cornerChild v c)) ++
      [(3, cornerChild v 4), (3, [m 0 4, m 1 4, m 2 4, m 3 4, base])] ++
      (List.range 4).map fun k => (1, [m k ((k + 1) % 4), m k 4, m ((k + 1) % 4) 4, base])

/-- Kind and vertices of the cell that a path of children leads to. -/
def descend : Nat × List Pt → List Nat → Nat × List Pt
  | c, [] => c
  | c, i :: is => descend ((childrenOf c.1 c.2)[i]?.getD c) is

/-- The reference cell of a kind, with edges of length 2^17. -/
def reference (kind : Nat) : Nat × List Pt := (kind, (unitVertices kind).map (Pt.times (2 ^ 17)))

/-- A root. -/
def rootAt (roots : List RootCell) (i : Nat) : RootCell := (roots[i]?).getD ⟨0, 0, 0, 0, [], []⟩

/-- Kind and vertices of a leaf. -/
def Cell.shape (c : Cell) (roots : List RootCell) : Nat × List Pt := descend (reference (rootAt roots c.root).kind) c.path

/-- Level of a leaf (R295). -/
def Cell.level (c : Cell) : Nat := c.path.length

/-- The vertices of each local face, in list order (R317). -/
def facesOf (x : Nat × List Pt) : List (List Pt) := (faceLists x.1).map fun l => l.map (ptAt x.2)

/-- Bits of a coordinate from the top, for the curve. -/
def bitsDown (b : Nat) : List Nat := (List.range b).map fun i => b - 1 - i

/-- The key of a reference point on the Hilbert curve of order b (R296). -/
def hilbertKey (b x y z : Nat) : Nat :=
  let undo (p : Nat × Nat × Nat) (j : Nat) : Nat × Nat × Nat :=
    let q := 2 ^ j
    let m := q - 1
    let one (p : Nat × Nat × Nat) (i : Nat) : Nat × Nat × Nat :=
      let v := if i = 0 then p.1 else if i = 1 then p.2.1 else p.2.2
      if v / q % 2 = 1 then (p.1 ^^^ m, p.2)
      else
        let t := (p.1 ^^^ v) &&& m
        match i with
        | 0 => ((p.1 ^^^ t) ^^^ t, p.2)
        | 1 => (p.1 ^^^ t, p.2.1 ^^^ t, p.2.2)
        | _ => (p.1 ^^^ t, p.2.1, p.2.2 ^^^ t)
    [0, 1, 2].foldl one p
  let p := ((bitsDown b).filter (1 ≤ ·)).foldl undo (x, y, z)
  let y := p.2.1 ^^^ p.1
  let z := p.2.2 ^^^ y
  let t := ((bitsDown b).filter (1 ≤ ·)).foldl (fun t j => if z / 2 ^ j % 2 = 1 then t ^^^ (2 ^ j - 1) else t) 0
  let x := p.1 ^^^ t
  let y := y ^^^ t
  let z := z ^^^ t
  (bitsDown b).foldl (fun k j => k * 8 + 4 * (x / 2 ^ j % 2) + 2 * (y / 2 ^ j % 2) + z / 2 ^ j % 2) 0

/-- Position j of one face's list coincides with position `linkPos o n j` of the other's (R319). -/
def linkPos (o n j : Nat) : Nat := if o / 4 = 0 then (o % 4 + n - j % n) % n else (o % 4 + j) % n

/-- Orientation codes that occur (R319). -/
def linkOk (o n : Nat) : Bool :=
  if o / 4 = 0 then decide (o % 4 < n) else o % 4 = 0 || (o % 4 = 2 && n = 4)

/-- A point on face f of a root, in the frame of that face: the multiples of its first two edges, or none off the face's
plane. -/
def onFace (kind f : Nat) (p : Pt) : Option (Int × Int) :=
  match (faceLists kind)[f]? with
  | none => none
  | some l =>
    let at_ (j : Nat) : Pt := ptAt (unitVertices kind) ((l[j]?).getD 0)
    let u := Pt.minus (at_ 1) (at_ 0)
    let v := Pt.minus (at_ (l.length - 1)) (at_ 0)
    let w := Pt.minus p (Pt.times (2 ^ 17) (at_ 0))
    let n := Pt.cross u v
    if Pt.dot w n = 0 then some (Pt.dot (Pt.cross w v) n / Pt.dot n n, Pt.dot (Pt.cross u w) n / Pt.dot n n) else none

/-- The point of a neighbour's face g that coincides with a point of a face, across orientation o (R319). -/
def acrossFace (kind g o : Nat) (c : Int × Int) : Pt :=
  match (faceLists kind)[g]? with
  | none => (0, 0, 0)
  | some l =>
    let n := l.length
    let at_ (j : Nat) : Pt := ptAt (unitVertices kind) ((l[linkPos o n j]?).getD 0)
    let u := Pt.minus (at_ 1) (at_ 0)
    let v := Pt.minus (at_ (n - 1)) (at_ 0)
    Pt.plus (Pt.times (2 ^ 17) (at_ 0)) (Pt.plus (Pt.times c.1 u) (Pt.times c.2 v))

/-- Two faces have the same points. -/
def sameFace (a b : List Pt) : Bool := a.length = b.length && a.all b.contains

/-- The child faces of a face (R320). -/
def childFaces (l : List Pt) : List (List Pt) :=
  let n := l.length
  let m (i j : Nat) : Pt := Pt.mid (ptAt l (i % n)) (ptAt l (j % n))
  let corner (q : Nat) : List Pt :=
    if n = 4 then [ptAt l q, m q (q + 1), m 0 2, m q (q + 3)] else [ptAt l q, m q (q + 1), m q (q + 2)]
  if n = 4 then (List.range 4).map corner else (List.range 3).map corner ++ [[m 0 1, m 1 2, m 2 0]]

/-- What lies across one part of a cell's face: the other cell or a boundary code, its local face, and which child of
that face this one is (R298, R303). -/
structure Side where
  other : Nat
  lf : Nat
  q : Nat
  deriving DecidableEq, Repr

/-- What lies across a whole face. -/
inductive Across where
  | boundary (code : Nat)
  | whole (s : Side)
  | split (l : List Side)
  deriving DecidableEq, Repr

/-- Number of the first boundary code (R298). -/
def boundaryCode : Nat := 0x80000000

/-- The root face that a face lies on, with its points in that frame. -/
def rootFaceOf (kind : Nat) (pts : List Pt) : Option (Nat × List (Int × Int)) :=
  (List.range (faceLists kind).length).findSome? fun f =>
    let cs := pts.filterMap (onFace kind f)
    if cs.length = pts.length then some (f, cs) else none

/-- A cell with its number, its root and the vertices of its local faces. -/
structure Body where
  n : Nat
  root : Nat
  level : Nat
  kind : Nat
  faces : List (List Pt)
  deriving DecidableEq, Repr

/-- The bodies of a generation's leaves. -/
def bodies (roots : List RootCell) (leaves : List Cell) : List Body :=
  leaves.mapIdx fun n c =>
    let x := c.shape roots
    ⟨n, c.root, c.level, x.1, facesOf x⟩

/-- What lies across a face with points `pts` in the frame of `root`, among the cells of that root but one. -/
def findAcross (bs : List Body) (root self : Nat) (pts : List Pt) : Option Across :=
  let cand := bs.filter fun b => b.root = root && b.n ≠ self
  let faces := cand.flatMap fun b => b.faces.mapIdx fun g l => (b.n, g, l)
  match faces.find? fun x => sameFace x.2.2 pts with
  | some x => some (.whole ⟨x.1, x.2.1, 0⟩)
  | none =>
    match faces.findSome? fun x => ((childFaces x.2.2).findIdx? fun l => sameFace l pts).map fun q => Side.mk x.1 x.2.1 q with
    | some s => some (.whole s)
    | none =>
      let parts := (childFaces pts).filterMap fun l => (faces.find? fun x => sameFace x.2.2 l).map fun x => Side.mk x.1 x.2.1 0
      if parts.length = 4 then some (.split parts) else none

/-- What lies across local face f of a cell (R298). -/
def acrossOf (roots : List RootCell) (bs : List Body) (b : Body) (f : Nat) : Across :=
  let pts := (b.faces[f]?).getD []
  let r := rootAt roots b.root
  match rootFaceOf r.kind pts with
  | some (rf, cs) =>
    let nb := (r.nbs[rf]?).getD 0
    if boundaryCode ≤ nb then .boundary nb
    else
      let link := (r.links[rf]?).getD 0
      let pts' := cs.map (acrossFace (rootAt roots nb).kind (link % 8) (link / 8 % 8))
      (findAcross bs nb (bs.length + 1) pts').getD (.boundary boundaryCode)
  | none => (findAcross bs b.root b.n pts).getD (.boundary boundaryCode)

/-- A cell's faces with what lies across them. -/
abbrev Topology := List (List Across)

/-- The topology of a generation. -/
def topology (roots : List RootCell) (leaves : List Cell) : Topology :=
  let bs := bodies roots leaves
  bs.map fun b => (List.range b.faces.length).map (acrossOf roots bs b)

/-- The parts of a face. -/
def Across.sides : Across → List Side
  | .boundary c => [⟨c, 0, 0⟩]
  | .whole s => [s]
  | .split l => l

/-- A face of a generation (R298, R308): owner, neighbour or boundary code, local faces of both, and the child of the
owner's face. -/
structure Face where
  owner : Nat
  neigh : Nat
  olf : Nat
  nlf : Nat
  child : Nat
  deriving DecidableEq, Repr

/-- The faces in the order of their numbers (R298). -/
def facesIn (t : Topology) : List Face :=
  (t.mapIdx fun c fs => (c, fs)).flatMap fun x =>
    (x.2.mapIdx fun f a => (f, a)).flatMap fun y =>
      ((y.2.sides.mapIdx fun k s => (k, s)).filter fun z => decide (x.1 < z.2.other)).map fun z =>
        ⟨x.1, z.2.other, y.1, if boundaryCode ≤ z.2.other then 0 else z.2.lf, z.1⟩

/-- A record of CELLFACE (R308): face, cell across, cell, side. -/
def cellFaces (t : Topology) (fs : List Face) (c : Nat) : List (List Nat) :=
  (((t[c]?).getD []).mapIdx fun f a => (f, a)).flatMap fun y =>
    (y.2.sides.mapIdx fun k s => (k, s)).map fun z =>
      let s := z.2
      let mine := decide (c < s.other)
      let n := fs.findIdx fun x =>
        if mine then x.owner = c && x.olf = y.1 && x.child = z.1 else x.owner = s.other && x.olf = s.lf && x.child = s.q
      [n, s.other, c, if mine then 0 else 1]

/-- Cells outside a range that share a face with a cell in it, ascending (R308). -/
def ghosts (t : Topology) (lo hi : Nat) : List Nat :=
  (List.range t.length).filter fun c =>
    !(decide (lo ≤ c) && decide (c < hi)) &&
      ((t[c]?).getD []).any fun a => a.sides.any fun s => decide (lo ≤ s.other) && decide (s.other < hi)

/-- Cells of a face. -/
def Face.cells (f : Face) : List Nat := if boundaryCode ≤ f.neigh then [f.owner] else [f.owner, f.neigh]

/-- The colours of faces in ascending number (R313), with the faces coloured so far. -/
def colourFaces : List (Nat × Face) → List (Nat × Face × Nat) → List (Nat × Face × Nat)
  | [], done => done
  | (n, f) :: rest, done =>
    let used := (done.filter fun d => d.2.1.cells.any f.cells.contains).map (·.2.2)
    let s := ((List.range (used.length + 1)).find? fun k => !used.contains k).getD 0
    colourFaces rest (done ++ [(n, f, s)])

/-- The coloured faces of a range. -/
def colouring (fs : List Face) (lo hi : Nat) : List (Nat × Face × Nat) :=
  colourFaces (((fs.mapIdx fun n f => (n, f)).take hi).drop lo) []

/-- NSHEAF (R313). -/
def nsheaf (cs : List (Nat × Face × Nat)) : Nat := cs.foldl (fun m c => max m (c.2.2 + 1)) 0

/-- Bytes of an interior code with its link byte (R303). -/
def codeBytes (c other : Nat) : Nat :=
  let d : Int := (other : Int) - c
  (if -64 ≤ d && decide (d ≤ 63) then 1 else if -8192 ≤ d && decide (d ≤ 8191) then 2 else 5) + 1

/-- Stored bytes of a cell (R303). -/
def cellBytes (c : Nat) (fs : List Across) : Nat :=
  1 + (fs.map fun a => match a with
    | .boundary _ => 3
    | .whole s => codeBytes c s.other
    | .split l => 1 + (l.map fun s => codeBytes c s.other).sum).sum

/-- Non-leaf nodes of the tree of a root (R303). -/
def treeNodes (leaves : List Cell) (root : Nat) : Nat :=
  let mine := leaves.filter fun c => c.root = root
  ((mine.flatMap fun c => (List.range c.path.length).map c.path.take).dedup).length

/-- Places where a root's leaves begin. -/
def rootStarts (leaves : List Cell) : List (Nat × Nat) :=
  ((leaves.mapIdx fun n c => (n, c.root)).foldl (fun (acc : List (Nat × Nat)) x =>
    if acc.any fun y => y.2 = x.2 then acc else acc ++ [x]) [])

/-- The charge of a generation on one of its segments (R303). -/
def segCharge (leaves : List Cell) (t : Topology) (lo hi : Nat) : Nat :=
  let cells := ((List.range (hi - lo)).map (lo + ·)).map fun c => cellBytes c ((t[c]?).getD [])
  let roots := ((rootStarts leaves).filter fun x => decide (lo ≤ x.1) && decide (x.1 < hi)).map fun x =>
    16 + 4 * treeNodes leaves x.2
  cells.sum + roots.sum + 4096

/-- Leaves of generation 0: the roots along the curve (R297). -/
def firstLeaves (roots : List RootCell) (bits : Nat) : List Cell :=
  let keyed := roots.mapIdx fun i r => (hilbertKey bits r.x r.y r.z, i)
  let rec put (x : Nat × Nat) : List (Nat × Nat) → List (Nat × Nat)
    | [] => [x]
    | y :: l => if x.1 < y.1 then x :: y :: l else y :: put x l
  (keyed.foldl (fun l x => put x l) []).map fun x => ⟨x.2, []⟩

/-- First cells of the segments of T tiles over n cells (R302), and the end. -/
def evenSegs (tiles n : Nat) : List Nat := (List.range (tiles + 1)).map fun j => j * n / tiles

/-- Cells across a cell's faces. -/
def meets (t : Topology) (c : Nat) : List Nat :=
  (((t[c]?).getD []).flatMap Across.sides).filterMap fun s => if s.other < boundaryCode then some s.other else none

/-- Repeat until nothing changes, at most n times. -/
def untilStable {α : Type} [DecidableEq α] (f : α → α) : Nat → α → α
  | 0, x => x
  | n + 1, x =>
    let y := f x
    if y = x then x else untilStable f n y

/-- Cells to be refined, closed under 2:1 balance (R324): one flag for each cell. -/
def refineClosure (t : Topology) (level : Nat → Nat) (ref : List Bool) : List Bool :=
  let step (r : List Bool) : List Bool :=
    r.mapIdx fun n b => b || (meets t n).any fun c => (r[c]?).getD false && decide (level n < level c)
  untilStable step (ref.length + 1) ref

/-- A family: its first cell and how many members it has (R318). -/
abbrev Family := Nat × Nat

/-- Families all of whose members are leaves (R318): the members of a node are consecutive cells. -/
def families (roots : List RootCell) (leaves : List Cell) : List Family :=
  (leaves.mapIdx fun n c => (n, c)).filterMap fun x =>
    match x.2.path.getLast? with
    | some 0 =>
      let up := x.2.path.dropLast
      let kind := (descend (reference (rootAt roots x.2.root).kind) up).1
      let size := if kind = 3 then 10 else 8
      let run := (leaves.drop x.1).take size
      if run = (List.range size).map fun k => ⟨x.2.root, up ++ [k]⟩ then some (x.1, size) else none
    | _ => none

/-- The level of a cell in the next generation, given what is refined and merged (R324). -/
def finalLevel (level : Nat → Nat) (ref : List Bool) (fam : List Family) (c : Nat) : Int :=
  if (ref[c]?).getD false then level c + 1
  else if fam.any fun p => decide (p.1 ≤ c) && decide (c < p.1 + p.2) then (level c : Int) - 1
  else level c

/-- Families to be merged, closed under 2:1 balance (R324). -/
def coarsenClosure (t : Topology) (level : Nat → Nat) (ref : List Bool) (fam : List Family) : List Family :=
  let step (f : List Family) : List Family := f.filter fun p =>
    !((List.range p.2).any fun k => (meets t (p.1 + k)).any fun x =>
      decide ((level (p.1 + k) : Int) < finalLevel level ref f x))
  untilStable step (fam.length + 1) fam

/-- What becomes of the cells, in order (R324, R325): a run kept, a cell split, a family merged. -/
inductive Change where
  | copy (old count : Nat)
  | split (old count : Nat)
  | merge (old count : Nat)
  deriving DecidableEq, Repr

/-- The changes of a generation, cell by cell. -/
def changesFrom (kinds : List Nat) (ref : List Bool) (fam : List Family) : Nat → Nat → List Change
  | 0, _ => []
  | n + 1, c =>
    if (ref[c]?).getD false then .split c (if kinds[c]? = some 3 then 10 else 8) :: changesFrom kinds ref fam n (c + 1)
    else
      match fam.find? fun p => decide (p.1 ≤ c) && decide (c < p.1 + p.2) with
      | some p => if p.1 = c then .merge c p.2 :: changesFrom kinds ref fam n (c + 1)
          else changesFrom kinds ref fam n (c + 1)
      | none => .copy c 1 :: changesFrom kinds ref fam n (c + 1)

/-- Join runs that are kept (R325). -/
def joinCopies : List Change → List Change
  | .copy o n :: l =>
    match joinCopies l with
    | .copy p m :: l' => if o + n = p then .copy o (n + m) :: l' else .copy o n :: .copy p m :: l'
    | l' => .copy o n :: l'
  | x :: l => x :: joinCopies l
  | [] => []

/-- The changes that flags bring about (R324). -/
def adaptChanges (roots : List RootCell) (leaves : List Cell) (flags : List Nat) : List Change :=
  let t := topology roots leaves
  let level (c : Nat) : Nat := match leaves[c]? with
    | some x => x.level
    | none => 0
  let flag (c : Nat) : Nat := (flags[c]?).getD 0
  let n := leaves.length
  let ref := refineClosure t level ((List.range n).map fun c => flag c = 1 && decide (level c < 15))
  let fam := coarsenClosure t level ref ((families roots leaves).filter fun p =>
    (List.range p.2).all fun k => flag (p.1 + k) = 2 && !((ref[p.1 + k]?).getD false))
  joinCopies (changesFrom (leaves.map fun c => (c.shape roots).1) ref fam n 0)

/-- New cells of a change. -/
def Change.size : Change → Nat
  | .copy _ n | .split _ n => n
  | .merge _ _ => 1

/-- The leaves that a change makes. -/
def Change.leaves (old : List Cell) : Change → List Cell
  | .copy o n => (old.drop o).take n
  | .split o n => match old[o]? with
    | some c => (List.range n).map fun k => ⟨c.root, c.path ++ [k]⟩
    | none => []
  | .merge o _ => match old[o]? with
    | some c => [⟨c.root, c.path.dropLast⟩]
    | none => []

/-- The remap records (R325): dwords 0 and 1 of each. -/
def remapRecords : Nat → List Change → List (Nat × Nat)
  | _, [] => []
  | new, c :: l =>
    (match c with
      | .copy o n => (o + new * 2 ^ 32, n)
      | .split o n => (o + new * 2 ^ 32, n + 2 ^ 32)
      | .merge o n => (o + new * 2 ^ 32, n + 2 ^ 33)) :: remapRecords (new + c.size) l

/-- The new start of a segment that began at an old cell (R326). -/
def newStart : Nat → List Change → Nat → Nat
  | new, [], _ => new
  | new, c :: l, start =>
    let (o, n) := match c with
      | .copy o n => (o, n)
      | .split o _ => (o, 1)
      | .merge o n => (o, n)
    if start < o + n then
      match c with
      | .copy _ _ => new + (start - o)
      | .split _ _ => new
      | .merge _ _ => if start = o then new else new + 1
    else newStart (new + c.size) l start

/-- Prefix sums of weights, from 0 to the total. -/
def prefixSums (ws : List Nat) : List Nat := (ws.foldl (fun (acc : List Nat × Nat) w => (acc.1 ++ [acc.2 + w], acc.2 + w)) ([0], 0)).1

/-- The cut table (R334). -/
def cutTable (ws : List Nat) (parts : Nat) : List Nat :=
  let sums := prefixSums ws
  let n := ws.length
  let total := ws.sum
  (List.range (parts + 1)).map fun j =>
    if j = 0 then 0
    else if j = parts then n
    else if total = 0 then j * n / parts
    else (sums.findIdx? fun w => decide (j * total ≤ parts * w)).getD n

end Sys2Proof.Machine
end

