-- ==== Sys2Proof/Machine/Catalogue.lean ====
section
/-! DEFINITION. The Catalogue's instructions and steps: opening, closing and releasing, streams, queries, sheaf sets,
adaptation and re-cutting (R292 to R316, R321 to R337). -/

namespace Sys2Proof.Machine

/-- SLOT of a mesh word (R293). -/
def mwSlot (w : Word) : Nat := w.toNat % 16
/-- QKIND. -/
def mwKind (w : Word) : Nat := w.toNat / 2 ^ 4 % 16
/-- FMASK. -/
def mwFmask (w : Word) : Nat := w.toNat / 2 ^ 8 % 16
/-- SET. -/
def mwSet (w : Word) : Nat := w.toNat / 2 ^ 12 % 8
/-- SERIAL. -/
def mwSerial (w : Word) : Nat := w.toNat / 2 ^ 16 % 2 ^ 16
/-- GEN. -/
def mwGen (w : Word) : Nat := w.toNat / 2 ^ 32 % 2 ^ 16
/-- CHUNK. -/
def mwChunk (w : Word) : Nat := w.toNat / 2 ^ 49
/-- The reserved bits are zero. -/
def mwReservedOk (w : Word) : Bool := !w.getLsbD 15 && !w.getLsbD 48
/-- Only SLOT, SERIAL and GEN are used (R321, R332). -/
def mwNameOnly (w : Word) : Bool :=
  decide (mwKind w = 0) && decide (mwFmask w = 0) && decide (mwSet w = 0) && decide (mwChunk w = 0) && mwReservedOk w

/-- A mesh is open in a slot (R292). -/
def MeshSlot.isOpen (m : MeshSlot) : Bool := m.opn

/-- A mesh slot of a partition. -/
def State.mesh (s : State) (part k : Nat) : MeshSlot := ((s.part part).meshes[k]?).getD .reset

/-- Change a mesh slot. -/
def State.modMesh (s : State) (part k : Nat) (f : MeshSlot → MeshSlot) : State :=
  s.modPart part fun p => { p with meshes := modifyAt p.meshes k f }

/-- Tiles of a partition (R406). -/
def State.partTiles (s : State) : Nat := 8 / 2 ^ s.mod.plog

/-- Transfers of every agent. -/
def State.allXfers (s : State) : List Xfer := s.gangs.flatMap fun g => (g.harts.flatMap (·.xfers)) ++ g.access.xfers

/-- Streams in flight that are bound to a mesh (R304, R306). -/
def State.streamsOn (s : State) (part slot serial : Nat) : List Stream :=
  s.allXfers.filterMap fun x => match x.kind with
    | .stream _ p => if p.part = part && p.slot = slot && p.serial = serial then some p else none
    | _ => none

/-- Whether a slot is in use: open, or with streams that have not completed (R306). -/
def State.slotUsed (s : State) (part k : Nat) : Bool :=
  let m := s.mesh part k
  m.opn || !(s.streamsOn part k m.serial).isEmpty

/-- A generation keeps its storage (R304, R306): not released, or with a stream bound to it. -/
def State.genLive (s : State) (part k : Nat) (g : Gen) : Bool :=
  !g.released || (s.streamsOn part k (s.mesh part k).serial).any fun p => p.gen = g.number

/-- Faces of a generation. -/
def Gen.faces (g : Gen) (roots : List RootCell) : List Face := facesIn (topology roots g.leaves)

/-- The segment that holds a cell. -/
def segOf (segs : List Nat) (c : Nat) : Nat :=
  ((List.range (segs.length - 1)).find? fun j => decide ((segs[j]?).getD 0 ≤ c) && decide (c < (segs[j + 1]?).getD 0)).getD 0

/-- The charge of a generation, tile by tile (R303). -/
def Gen.charges (g : Gen) (roots : List RootCell) (tiles : Nat) : List Nat :=
  let t := topology roots g.leaves
  (List.range tiles).map fun j => segCharge g.leaves t ((g.segs[j]?).getD 0) ((g.segs[j + 1]?).getD 0)

/-- The charge of a sheaf set on faces [lo, hi), tile by tile (R312). -/
def setCharges (fs : List Face) (segs : List Nat) (lo hi tiles : Nat) : List Nat :=
  let owner (f : Nat) : Nat := match fs[f]? with
    | some x => segOf segs x.owner
    | none => 0
  (List.range tiles).map fun j =>
    4 * (((List.range (hi - lo)).map (lo + ·)).filter fun f => owner f = j).length + if owner lo = j then 4096 else 0

/-- What every mesh of a partition has on each of its tiles (R303). -/
def State.tileLoads (s : State) (part : Nat) : List Nat :=
  let tiles := s.partTiles
  let add (a b : List Nat) : List Nat := List.zipWith (· + ·) a b
  (List.range 16).foldl (fun acc k =>
    if !s.slotUsed part k then acc
    else
      let m := s.mesh part k
      let gens := m.gens.filter fun g => s.genLive part k g && !g.leaves.isEmpty
      let acc := gens.foldl (fun acc g => add acc (g.charges m.roots tiles)) acc
      m.sets.foldl (fun acc x => match x with
        | some st => match m.gens.find? fun g => g.number = st.gen with
          | some g => add acc (setCharges (g.faces m.roots) g.segs st.lo st.hi tiles)
          | none => acc
        | none => acc) acc) (List.replicate tiles 0)

/-- A tile's slice holds 256 MiB (R303). -/
def sliceLimit : Nat := 2 ^ 28

/-- More charges fit beside what is there. -/
def fitsSlices (loads more : List Nat) : Bool := (List.zipWith (· + ·) loads more).all fun n => decide (n ≤ sliceLimit)

/-- The current generation (R304): the latest built. -/
def MeshSlot.current (m : MeshSlot) : Option Gen := (m.gens.filter fun g => g.built && !g.released).getLast?

/-- The generation that GEN selects (R304). -/
def MeshSlot.genOf (m : MeshSlot) (gen : Nat) : Option Gen :=
  m.gens.find? fun g => !g.released && decide (g.number % 2 ^ 16 = gen)

/-- A handle names an open slot with its serial (R293). -/
def State.handleOk (s : State) (part : Nat) (w : Word) : Bool :=
  let m := s.mesh part (mwSlot w)
  m.opn && decide (m.serial = mwSerial w)

/-- The first three checks of R311: the generation, or the code. -/
def State.checkGen (s : State) (part : Nat) (w : Word) : Except Nat Gen :=
  if !s.handleOk part w then .error 1
  else
    match (s.mesh part (mwSlot w)).genOf (mwGen w) with
    | none => .error 3
    | some g => if g.built then .ok g else .error 2

/-- Count that a range of a query kind is checked against (R308). -/
def rangeCount (m : MeshSlot) (g : Gen) (kind : Nat) : Nat :=
  if kind = 0 then (g.faces m.roots).length else g.leaves.length

/-- What the Catalogue makes of a query (R308, R311): a stall while the set is building, a code, or its records with
all their fields. -/
inductive Query where
  | wait
  | bad (code : Nat)
  | records (g : Gen) (l : List (List Nat))
  deriving Repr

/-- A FACEPAIR record (R308). -/
def faceRecord (n : Nat) (f : Face) : List Nat := [f.owner, f.neigh, n, f.olf + 8 * f.nlf]

/-- The records of a query kind 0 to 4 (R308). -/
def State.query (s : State) (part : Nat) (w range : Word) : Query :=
  match s.checkGen part w with
  | .error c => .bad c
  | .ok g =>
    let m := s.mesh part (mwSlot w)
    let lo := lo32 range
    let hi := hi32 range
    let kind := mwKind w
    if kind = 3 then
      match (m.sets[mwSet w]?).getD none with
      | none => .bad 5
      | some st =>
        if st.gen ≠ g.number then .bad 5
        else if !st.built then .wait
        else
          let cs := colouring (g.faces m.roots) st.lo st.hi
          if hi ≠ 0 || nsheaf cs ≤ lo then .bad 4
          else .records g ((cs.filter fun c => c.2.2 = lo).map fun c => faceRecord c.1 c.2.1)
    else if hi < lo || rangeCount m g kind < hi then .bad 4
    else
      let t := topology m.roots g.leaves
      let fs := facesIn t
      let cut {α : Type} (l : List α) : List α := (l.take hi).drop lo
      match kind with
      | 0 => .records g (cut (fs.mapIdx faceRecord))
      | 1 => .records g (((List.range (hi - lo)).map (lo + ·)).flatMap (cellFaces t fs))
      | 2 => .records g ((ghosts t lo hi).map fun c => [c])
      | _ => .records g (cut (g.leaves.map fun c => [(c.shape m.roots).1 + 4 * c.level, c.root]))

/-- Fields that a query kind defines (R308). -/
def kindFields (kind : Nat) : Nat := if kind = 2 then 1 else if kind = 4 then 2 else 4

/-- MSTREAM (R261, R307): the field checks are made at push, and then those of R261 on its queue (R59); the agent that
issues it stalls while the queue is bound, and the queue is bound from then on. The high half of the range word of SHEAF
must be zero (R308); where it is not, the push raises ILLOP with the other field checks, and so does MQUERY (DEDUCED,
log 125). -/
def State.pushStream (s : State) (q : BitVec 3) (a b : BitVec 6) : Push State := do
  let w := s.x a
  need (decide (mwKind w < 5) && mwReservedOk w && decide (mwFmask w ≠ 0) && decide (mwFmask w < 2 ^ kindFields (mwKind w)) &&
    !(mwKind w = 3 && decide (hi32 (s.x b) ≠ 0)))
  if !s.myGang.qen.getLsbD q.toNat then Except.error (.trap cQERR)
  if s.myGang.boundTo q.toNat then Except.error (.wait .busy)
  s.pushVec { s.blank .stream 1 with dst := .lq q.toNat none, opa := w, opb := s.x b }

/-- MSTREAM (R261, R307). -/
def execMstream (q : BitVec 3) (a b : BitVec 6) (s : State) : Out := s.both (s.pushStream q a b)

/-- Give a cause its SUB: the code of a mesh fault (R311, R386). -/
def State.subLast (s : State) (a : Agent) (sub : Nat) : State :=
  s.modThread a fun t => { t with causes := match t.causes.getLast? with
    | some c => t.causes.dropLast ++ [{ c with sub := sub }]
    | none => [] }

/-- Fields of a record that FMASK selects. -/
def selectFields (mask : Nat) (r : List Nat) : List Nat :=
  ((r.mapIdx fun k v => (k, v)).filter fun x => decide (mask / 2 ^ x.1 % 2 = 1)).map (·.2)

/-- The step of MSTREAM (R261, R307, R309): it takes an entry of the interlock table and binds its queue. -/
def State.streamStep (s : State) (a : Agent) (r : VRec) : State :=
  let g := s.gangOf a.gang
  let t := (s.thread? a).getD .empty
  let part := s.partOfCore g.core
  match r.dst with
  | .lq q _ =>
    let w := r.opa
    if (t.older r).any fun x => match x.op with
        | .stream => !x.done
        | _ => false then s
    else if !g.qen.getLsbD q then s.raiseVec a r 0 0 cQERR 0 0
    else if g.bound.contains q then s
    else if g.w < 4 || g.ecap < mwChunk w || (mwChunk w = 0 && g.ecap = 0) then s.raiseVec a r 0 0 cQERR 0 0
    else
      match s.query part w r.opb with
      | .wait => s
      | .bad c => (s.raiseVec a r 0 0 cMESHGEN 0 0).subLast a c
      | .records gen l =>
        if l.isEmpty then s.commit a r 0 []
        else if 16 ≤ t.xfers.length then s
        else
          let p : Stream :=
            { part := part, slot := mwSlot w, serial := mwSerial w, gen := gen.number
              set := if mwKind w = 3 then some (mwSet w) else none
              chunk := if mwChunk w = 0 then g.ecap else mwChunk w
              recs := l.map (selectFields (mwFmask w)), pos := 0 }
          let x := Xfer.new (.stream q p) r.seq r.pc r.word 0 none none none r.epoch
          let s := (s.modThread a fun t => { t with xfers := t.xfers ++ [x] }).modGang a.gang fun g =>
            { g with bound := g.bound ++ [q] }
          s.commit a r 0 []
  | _ => s

/-- The stream after its next entry is pushed. -/
def Stream.next (p : Stream) : Stream :=
  if p.pos + 1 < (p.recs.headD []).length then { p with pos := p.pos + 1 }
  else { p with pos := 0, recs := p.recs.drop p.chunk }

/-- STREAM_ENTRY (R309): the next field of the present batch, when its queue has room; after the last entry the stream
completes. The records of a batch are charged with its first field (R428). -/
def execStreamEntry (ag : Agent) (x : Nat) (s : State) : Out :=
  .next (match ((s.thread? ag).getD .empty).xfers[x]? with
    | some y =>
      match y.kind with
      | .stream q p =>
        let g := s.gangOf ag.gang
        if !s.engineRuns ag || decide (2 ≤ ((g.lq[q]?).getD []).length) then s
        else
          let vals := (p.recs.take p.chunk).map fun r => (r[p.pos]?).getD 0
          let data := (vals.mapIdx fun i v => (i, v)).foldl (fun (m : Sparse 64) z => m.set z.1 (BitVec.ofNat 64 z.2)) []
          let e : Entry := ⟨g.entNext, .n32, vals.length, vals.length, data, false, none, none, none⟩
          let s := s.modGang ag.gang fun g =>
            { g with ents := g.ents ++ [e], entNext := g.entNext + 1, lq := modifyAt g.lq q (· ++ [e.id]) }
          let s := if p.pos = 0 then s.charge ag.gang 15 vals.length else s
          let p := p.next
          if p.recs.isEmpty then
            (s.freeXfer ag x).modGang ag.gang fun g => { g with bound := g.bound.filter (· ≠ q) }
          else s.modXfer ag x fun y => { y with kind := .stream q p }
      | _ => s
    | none => s)

/-- A scalar Catalogue instruction that has been sent: the thread waits for the answer. -/
def State.ask (s : State) (d : BitVec 6) (fn : AskFn) (a b : Word) : Out :=
  .next (s.setMe fun t => { t with wait := .answer d.toNat ⟨fn, a, b, s.word⟩, stall := .busy })

/-- MOPEN (R301). -/
def execMopen (d a : BitVec 6) (s : State) : Out := s.hart (s.afterRelease 4 fun s => s.ask d .mopen (s.x a) 0)

/-- MCLOSE (R306). -/
def execMclose (a : BitVec 6) (s : State) : Out := s.hart (s.ask 0 .mclose (s.x a) 0)

/-- MGENREL (R305). -/
def execMgenrel (a b : BitVec 6) (s : State) : Out :=
  s.hart (if 2 ^ 32 ≤ (s.x b).toNat then s.illop else s.ask 0 .mgenrel (s.x a) (s.x b))

/-- MSHEAF (R312). -/
def execMsheaf (d a b : BitVec 6) (s : State) : Out :=
  s.hart (
    let w := s.x a
    if mwKind w ≠ 0 || mwFmask w ≠ 0 || mwChunk w ≠ 0 || !mwReservedOk w then s.illop
    else s.ask d .msheaf w (s.x b))

/-- MQUERY (R311): the range word is read from gd. -/
def execMquery (d a : BitVec 6) (s : State) : Out :=
  s.hart (
    let w := s.x a
    let k := mwKind w
    if k = 5 || k = 6 || k = 7 || k = 15 || (8 ≤ k && (mwFmask w ≠ 0 || mwChunk w ≠ 0)) ||
        (k < 5 && (!mwReservedOk w || (k = 3 && decide (hi32 (s.x d) ≠ 0)))) then s.illop
    else s.ask d .mquery w (s.x d))

/-- MRECUT (R332, R333). -/
def execMrecut (d a : BitVec 6) (s : State) : Out :=
  s.hart (s.afterRelease 4 fun s =>
    if 16 ≤ s.me.xfers.length then s.stallFor .busy else s.ask d .mrecut (s.x a) 0)

/-- Raise a cause at a hart that waits for the Catalogue, once its earlier loads have completed (R166); a cause already
pending is taken first (R382). -/
def State.raiseAsk (s : State) (a : Agent) (q : Ask) (code sub : Nat) : State :=
  match a.role with
  | .access => s
  | .hart h =>
    let t := (s.thread? a).getD .empty
    let c : Cause :=
      { code := code, sub := sub, src := 0, elem := 0, qdist := 0, group := 0, seq := 0, addr := 0, pc := t.pc, info := 0,
        word := q.word, acc := 0, ord := t.ordNext }
    match s.performFlight a with
    | none => s
    | some s =>
      match firstCause (s.pendingCauses a.gang h) with
      | some _ => s.takePending a.gang h
      | none => s.enterTrap a.gang h c

/-- The answer reaches gd, and the thread goes on. -/
def State.giveAnswer (s : State) (a : Agent) (d : Nat) (v : Word) : State := s.modThread a fun t => (t.setReg d v).wake

/-- The dwords of a descriptor in global memory (R299, R332): the error is a cause, or `cWAIT` while a channel is in
training (R459). A misaligned descriptor has no dwords, and each sector of it is looked at all the same. -/
def State.readDesc (s : State) (a : Agent) (va : Word) : Except Nat (List Word × State) :=
  let lvl := ((s.thread? a).getD .empty).lvl
  if va.toNat % 64 = 0 then
    match s.locate a lvl .read false va 8 8 with
    | .error e => .error e.code
    | .ok _ => match s.readDwords a lvl va.toNat 8 with
      | .error e => .error e.code
      | .ok r => .ok r
  else
    match ([0, 32, 63] : List Word).mapM fun d => s.locate a lvl .read false (va + d) 1 1 with
    | .ok _ => .ok ([], s)
    | .error e => .error e.code

/-- A bad open descriptor (R301). -/
def badOpen (w : List Word) : Bool :=
  let d (k : Nat) : Nat := ((w[k]?).getD 0).toNat
  w.length ≠ 8 || decide (d 0 % 64 ≠ 0) || decide (d 3 % 8 ≠ 0) || decide (2 ^ 37 ≤ d 1) || decide (d 2 ≠ 0) ||
  decide (d 4 ≠ 0) || decide (d 5 ≠ 0) || decide (d 6 ≠ 0) || decide (d 7 ≠ 0) ||
  decide (d 1 % 2 ^ 32 = 0) || decide (2 ^ 26 < d 1 % 2 ^ 32) || decide (d 1 / 2 ^ 32 = 0) || decide (21 < d 1 / 2 ^ 32)

/-- Status of MOPEN and MRECUT: no slot. -/
def mNOSLOT : Word := 0x8000000000000001
/-- A bad descriptor. -/
def mBADDESC : Word := 0x8000000000000002
/-- The descriptor or the status word cannot be reached. -/
def mFAULT : Word := 0x8000000000000003

/-- The Catalogue's answer to MOPEN (R301): none while the descriptor cannot be read yet (R459). -/
def State.answerOpen (s : State) (a : Agent) (va : Word) : Option (Word × State) :=
  let part := s.partOfCore (s.gangOf a.gang).core
  let lvl := ((s.thread? a).getD .empty).lvl
  match s.readDesc a va with
  | .error c => if c = cWAIT then none else some (mFAULT, s)
  | .ok (w, s) =>
    let d (k : Nat) : Word := (w[k]?).getD 0
    if badOpen w then some (mBADDESC, s)
    else
      match s.locate a lvl .write false (d 3) 8 8 with
      | .error _ => some (mFAULT, s)
      | .ok (p, s) =>
        match (List.range 16).find? fun k => !s.slotUsed part k with
        | none => some (mNOSLOT, s)
        | some k =>
          let serial := ((s.mesh part k).serial + 1) % 2 ^ 16
          let pa := match p with
            | .mem pa => pa
            | _ => 0
          let o : Opening := ⟨d 0, lo32 (d 1), hi32 (d 1), pa, a⟩
          some (BitVec.ofNat 64 (k + serial * 2 ^ 16),
            s.modMesh part k fun m => { m with
              serial := serial, opn := true, opening := some o, roots := [], gens := [⟨0, false, false, [], []⟩]
              sets := List.replicate 8 none })

/-- A status value of the Catalogue: the code with bit 63. -/
def failStatus (code : Nat) : Nat := 2 ^ 63 + code

/-- A build whose status word cannot be written yet (R459). -/
def State.statusStalls (s : State) (part k : Nat) : Bool := match (s.mesh part k).opening with
  | some o => s.training o.status
  | none => false

/-- MCLOSE of a slot (R306): a build is abandoned, its status word receives CLOSED; an adaptation finds the slot closed
when it comes to its end. What is stored stays until the slot is free. -/
def State.closeMesh (s : State) (part k : Nat) : State :=
  let m := s.mesh part k
  let s := match m.opening with
    | some o => { s with mem := s.mem.write o.status 8 (failStatus 0x14) }
    | none => s
  s.modMesh part k fun m => { m with
    opn := false, opening := none, gens := m.gens.filter (·.built) }

/-- Release of a generation (R305): none where it is the current one. One that is building is released too: its
adaptation goes on, and the generation never becomes current (DEDUCED, log 73). -/
def State.releaseGen (s : State) (part k number : Nat) : Option State :=
  let m := s.mesh part k
  let cur : Bool := match m.current with
    | some g => decide (g.number = number)
    | none => decide (number = 0)
  if cur then none
  else
    some (s.modMesh part k fun m => { m with
      gens := m.gens.map fun g => if g.number = number then { g with released := true } else g
      sets := m.sets.map fun x => x.filter fun st => decide (st.gen ≠ number) })

/-- The Catalogue's answer to MSHEAF: 0, 1 or 2, or a mesh fault (R312). -/
def State.answerSheaf (s : State) (part : Nat) (w range : Word) : Except Nat (Word × State) :=
  match s.checkGen part w with
  | .error c => .error c
  | .ok g =>
    let k := mwSlot w
    let m := s.mesh part k
    let fs := g.faces m.roots
    let lo := lo32 range
    let hi := hi32 range
    if hi < lo || fs.length < hi then .error 4
    else
      let busy := match (m.sets[mwSet w]?).getD none with
        | some st => !st.built || (s.streamsOn part k m.serial).any fun p => p.set = some (mwSet w) && p.gen = st.gen
        | none => false
      if busy then .ok (1, s)
      else
        let s' := s.modMesh part k fun m => { m with sets := modifyAt m.sets (mwSet w) fun _ => none }
        if !fitsSlices (s'.tileLoads part) (setCharges fs g.segs lo hi s.partTiles) then .ok (2, s)
        else .ok (0, s.modMesh part k fun m => { m with
          sets := modifyAt m.sets (mwSet w) fun _ => some ⟨g.number, lo, hi, false⟩ })

/-- The Catalogue's answer to MQUERY (R311): none while a set is building. -/
def State.answerQuery (s : State) (part : Nat) (w range : Word) : Except Nat (Option Nat) :=
  let k := mwKind w
  let m := s.mesh part (mwSlot w)
  if k < 5 then
    match s.query part w range with
    | .wait => .ok none
    | .bad c => .error c
    | .records _ l => .ok (some l.length)
  else if !s.handleOk part w then .error 1
  else if k = 10 then
    match m.genOf (mwGen w) with
    | some g => .ok (some (if g.built then 1 else 0))
    | none =>
      if m.gens.any fun g => decide (g.number % 2 ^ 16 = mwGen w) && s.genLive part (mwSlot w) g then .ok (some 2)
      else .ok (some 3)
  else if k = 13 then .ok (some (match m.current with
    | some g => g.number
    | none => 0))
  else
    match s.checkGen part w with
    | .error c => .error c
    | .ok g =>
      match k with
      | 8 => .ok (some g.leaves.length)
      | 9 => .ok (some (g.faces m.roots).length)
      | 11 => .ok (some (g.charges m.roots s.partTiles).sum)
      | 12 =>
        match (m.sets[mwSet w]?).getD none with
        | some st =>
          if st.gen ≠ g.number then .ok (some 0)
          else if st.built then .ok (some (nsheaf (colouring (g.faces m.roots) st.lo st.hi)))
          else .ok none
        | none => .ok (some 0)
      | _ =>
        match g.segs[lo32 range]? with
        | some c => .ok (some c)
        | none => .error 4

/-- Whether an adaptation or a re-cutting of a mesh is in flight (R322, R333). -/
def State.meshBusy (s : State) (part slot serial : Nat) : Bool :=
  s.gangs.any fun g =>
    s.partOfCore g.core = part && ((g.harts.flatMap (·.xfers)) ++ g.access.xfers).any fun x =>
      let mine (w : List Word) : Bool :=
        let n := (w[0]?).getD 0
        mwSlot n = slot && mwSerial n = serial
      match x.kind with
      | .catalogue w _ _ => mine w
      | .recut w _ => mine w
      | _ => false

/-- An address in global memory, aligned (R322, R333). -/
def badAddress (va : Word) (al : Nat) : Bool := va.toNat % al ≠ 0 || tooWide va || inWindow va.toNat

/-- A bad recut descriptor (R332, R333). -/
def badRecut (w : List Word) : Bool :=
  let d (k : Nat) : Word := (w[k]?).getD 0
  let n := (d 3).toNat
  w.length ≠ 8 || !mwNameOnly (d 0) || badAddress (d 1) 32 || badAddress (d 2) 32 || badAddress (d 4) 8 ||
  decide (n / 2 ^ 17 % 2 ^ 15 ≠ 0) || decide (2 ^ 33 ≤ n) || decide (n % 2 ^ 17 = 0) || decide (65536 < n % 2 ^ 17) ||
  decide (d 5 ≠ 0) || decide (d 6 ≠ 0) || decide (d 7 ≠ 0)

/-- The Catalogue's answer to MRECUT (R333): an accepted one is a transfer of the hart (R336). The error is a mesh fault,
or `cWAIT` while the descriptor cannot be read yet (R459). -/
def State.answerRecut (s : State) (a : Agent) (q : Ask) : Except Nat (Word × State) :=
  let part := s.partOfCore (s.gangOf a.gang).core
  let t := (s.thread? a).getD .empty
  match s.readDesc a q.a with
  | .error c => if c = cWAIT then .error cWAIT else .ok (mFAULT, s)
  | .ok (w, s) =>
    let d (k : Nat) : Word := (w[k]?).getD 0
    if badRecut w then .ok (mBADDESC, s)
    else
      match s.locate a t.lvl .write false (d 4) 8 8 with
      | .error _ => .ok (mFAULT, s)
      | .ok (p, s) =>
        match s.checkGen part (d 0) with
        | .error c => .error c
        | .ok g =>
          let m := s.mesh part (mwSlot (d 0))
          if (m.current.map (·.number)) ≠ some g.number then .error 7
          else if s.meshBusy part (mwSlot (d 0)) (mwSerial (d 0)) then .ok (1, s)
          else
            let pa := match p with
              | .mem pa => pa
              | _ => 0
            let parts := (d 3).toNat % 2 ^ 17
            let x := Xfer.new (.recut w pa) t.vqtail t.pc q.word 0
              (if d 1 = 0 then none else some ((d 1).toNat, 4 * g.leaves.length))
              (some ((d 2).toNat, 4 * (parts + 1))) (some ((d 4).toNat, 8)) t.epoch
            .ok (0, s.modThread a fun t => { t with xfers := t.xfers ++ [x] })

/-- CATALOGUE_ANSWER (R311, R316): what a waiting thread has asked reaches the Catalogue, and its answer comes back. Each is
a request (R428). -/
def execCatalogueAnswer (ag : Agent) (s : State) : Out :=
  let g := s.gangOf ag.gang
  let part := s.partOfCore g.core
  .next (match ((s.thread? ag).getD .empty).wait with
    | .answer d q =>
      if !s.engineRuns ag || g.haltReq.isSome then s
      else
        let give (s : State) (v : Word) : State := (s.charge ag.gang 15 1).giveAnswer ag d v
        let fail (c : Nat) : State := (s.charge ag.gang 15 1).raiseAsk ag q cMESHGEN c
        match q.fn with
        | .mopen => match s.answerOpen ag q.a with
          | some (v, s) => give s v
          | none => s
        | .mclose =>
          if !s.handleOk part q.a then fail 1
          else if s.statusStalls part (mwSlot q.a) then s
          else give (s.closeMesh part (mwSlot q.a)) 0
        | .mgenrel =>
          if !s.handleOk part q.a then fail 1
          else match s.releaseGen part (mwSlot q.a) q.b.toNat with
            | some s => give s 0
            | none => fail 6
        | .msheaf => match s.answerSheaf part q.a q.b with
          | .ok (v, s) => give s v
          | .error c => fail c
        | .mquery => match s.answerQuery part q.a q.b with
          | .ok (some n) => give s (BitVec.ofNat 64 n)
          | .ok none => s
          | .error c => fail c
        | .mrecut => match s.answerRecut ag q with
          | .ok (v, s) => give s v
          | .error c => if c = cWAIT then s else fail c
    | _ => s)

/-- Read dwords for the Catalogue by the translation of a level (R412, R447): the error is a cause, or `cWAIT` while the
channel is in training (R459). -/
def State.readPlaced (s : State) (part lvl va : Nat) : Nat → Except Nat (List Word)
  | 0 => .ok []
  | n + 1 =>
    match s.imagePlace part lvl .read va with
    | .error c => .error c
    | .ok pa =>
      if s.training pa then .error cWAIT
      else if s.errors.contains (.mem (pa / 32)) then .error cMCHK
      else (s.readPlaced part lvl (va + 8) n).map (BitVec.ofNat 64 (s.mem.read pa 8) :: ·)

/-- Faces of a cell kind (R294). -/
def kindFaces (kind : Nat) : Nat := (faceLists kind).length

/-- A root record, if it passes the BADROOT checks (R300, R301). -/
def parseRoot (bits : Nat) (w : List Word) : Option RootCell :=
  let d (k : Nat) : Nat := ((w[k]?).getD 0).toNat
  let kind := d 1 % 4
  let nb (f : Nat) : Nat := d (2 + f / 2) / 2 ^ (32 * (f % 2)) % 2 ^ 32
  let link (f : Nat) : Nat := d 5 / 2 ^ (8 * f) % 2 ^ 8
  let x := d 0 % 2 ^ 21
  let y := d 0 / 2 ^ 21 % 2 ^ 21
  let z := d 0 / 2 ^ 42 % 2 ^ 21
  let faceOk (f : Nat) : Bool :=
    if kindFaces kind ≤ f then nb f = 0 && link f = 0
    else if boundaryCode ≤ nb f then link f = 0 else decide (link f < 64)
  if d 0 < 2 ^ 63 && decide (d 1 < 4) && decide (d 5 < 2 ^ 48) && decide (d 6 = 0) && decide (d 7 = 0) &&
      decide (x < 2 ^ bits) && decide (y < 2 ^ bits) && decide (z < 2 ^ bits) && (List.range 6).all faceOk then
    some { x := x, y := y, z := z, kind := kind, nbs := (List.range 6).map nb, links := (List.range 6).map link }
  else none

/-- Local faces with as many sides. -/
def faceSides (kind f : Nat) : Nat := match (faceLists kind)[f]? with
  | some l => l.length
  | none => 0

/-- The links of a root array are well formed (R300, R319). -/
def linksOk (roots : List RootCell) : Bool :=
  (roots.mapIdx fun i r => (i, r)).all fun x =>
    (List.range (kindFaces x.2.kind)).all fun f =>
      let nb := (x.2.nbs[f]?).getD 0
      let link := (x.2.links[f]?).getD 0
      if boundaryCode ≤ nb then decide (nb < boundaryCode + 65536)
      else
        match roots[nb]? with
        | none => false
        | some r =>
          let g := link % 8
          let o := link / 8
          decide (nb ≠ x.1) && decide (g < kindFaces r.kind) && linkOk o (faceSides x.2.kind f) &&
            decide (faceSides x.2.kind f = faceSides r.kind g) && decide ((r.nbs[g]?).getD 0 = x.1) &&
            decide ((r.links[g]?).getD 0 = f + 8 * o)

/-- The roots of an open descriptor, in ascending k, read at the level of the hart that asked (R412): the error is BADROOT,
or `cWAIT`. -/
def State.readRoots (s : State) (part : Nat) (o : Opening) : Nat → Nat → Except Nat (List RootCell)
  | _, 0 => .ok []
  | k, n + 1 =>
    match s.readPlaced part (s.nowLevel o.asker) (o.roots.toNat + 64 * k) 8 with
    | .error c => .error (if c = cWAIT then cWAIT else 0x11)
    | .ok w => match parseRoot o.bits w with
      | none => .error 0x11
      | some r => (s.readRoots part o (k + 1) n).map (r :: ·)

/-- The end of a build: generation 0, or the failure code (R301), or `cWAIT`. -/
def State.buildMesh (s : State) (part : Nat) (o : Opening) : Except Nat (List RootCell × Gen) :=
  match s.readRoots part o 0 o.nroot with
  | .error c => .error c
  | .ok roots =>
    if !linksOk roots then .error 0x12
    else
      let leaves := firstLeaves roots o.bits
      let g : Gen := ⟨0, true, false, leaves, evenSegs s.partTiles leaves.length⟩
      if fitsSlices (s.tileLoads part) (g.charges roots s.partTiles) then .ok (roots, g) else .error 0x10

/-- Charge sectors from an address up that the Catalogue has read for a gang by the translation of a level (R428). -/
def State.chargePlaced (s : State) (gi part lvl va n : Nat) : State :=
  (List.range n).foldl (fun s k => match s.imagePlace part lvl .read (va + 32 * k) with
    | .ok pa => s.chargeAt gi (.mem pa) 32
    | .error _ => s) s

/-- MOPEN_BUILD_END (R301). -/
def execMopenBuildEnd (p slot : Nat) (s : State) : Out :=
  .next (match (s.mesh p slot).opening with
    | none => s
    | some o =>
      let status (s : State) (v : Nat) : State :=
        ({ s with mem := s.mem.write o.status 8 v }.chargeAt o.asker.gang (.mem o.status) 8).chargePlaced o.asker.gang p
          (s.nowLevel o.asker) o.roots.toNat (2 * o.nroot)
      if s.training o.status then s
      else match s.buildMesh p o with
      | .ok (roots, g) =>
        status (s.modMesh p slot fun m => { m with opening := none, roots := roots, gens := [g] }) 1
      | .error c =>
        if c = cWAIT then s
        else status (s.modMesh p slot fun m => { m with opn := false, opening := none, gens := [] }) (failStatus c))

/-- SHEAF_SET_BUILT (R312, R313). -/
def execSheafSetBuilt (p slot set : Nat) (s : State) : Out :=
  .next (s.modMesh p slot fun m => { m with
    sets := modifyAt m.sets set fun x => x.map fun st => { st with built := true } })

/-- The Catalogue's answer to a command (R322): an accepted one makes G + 1 building (R326). -/
def State.catAnswer (s : State) (a : Agent) (w : List Word) : CmdAnswer × State :=
  let part := s.partOfCore (s.gangOf a.gang).core
  let d (k : Nat) : Word := (w[k]?).getD 0
  let k := mwSlot (d 0)
  let m := s.mesh part k
  let cap := lo32 (d 3)
  if !mwNameOnly (d 0) || hi32 (d 3) ≠ 1 || cap = 0 || decide (d 5 ≠ 0) || decide (d 6 ≠ 0) || decide (d 7 ≠ 0) ||
      badAddress (d 1) 32 || badAddress (d 2) 32 || badAddress (d 4) 8 || !s.handleOk part (d 0) then (.refuse, s)
  else
    match m.current with
    | none => (.refuse, s)
    | some g =>
      if g.number % 2 ^ 16 ≠ mwGen (d 0) || decide (2 ≤ (m.gens.filter fun g => !g.released).length) ||
          s.meshBusy part k (mwSerial (d 0)) then (.refuse, s)
      else
        (.accept (.catalogue w 0 []) (some ((d 1).toNat, g.leaves.length)) (some ((d 2).toNat, 16 * cap))
            (some ((d 4).toNat, 8)) 0 0,
          s.modMesh part k fun m => { m with gens := m.gens ++ [⟨(g.number + 1) % 2 ^ 32, false, false, [], []⟩] })

/-- The build of an adaptation (R323 to R327), and the state after it has read its flags: records, leaves and segments, or
the failure code, or `cWAIT`. -/
def State.buildAdapt (s : State) (a : Agent) (m : MeshSlot) (g : Gen) (w : List Word) (part : Nat) :
    Except Nat (List (Nat × Nat) × List Cell × List Nat) × State :=
  match s.readNumbers a 1 ((w[1]?).getD 0) g.leaves.length with
  | .error c => (.error (if c = cWAIT then cWAIT else 0x16), s)
  | .ok (flags, s) =>
    if flags.any (2 < ·) then (.error 0x13, s)
    else
      let cs := adaptChanges m.roots g.leaves flags
      let leaves := cs.flatMap (Change.leaves g.leaves)
      let segs := g.segs.map fun c => if g.leaves.length ≤ c then leaves.length else newStart 0 cs c
      let new : Gen := ⟨0, false, false, leaves, segs⟩
      let recs := remapRecords 0 cs
      if 2 ^ 30 ≤ leaves.length then (.error 0x18, s)
      else if !fitsSlices (s.tileLoads part) (new.charges m.roots s.partTiles) then (.error 0x10, s)
      else if lo32 ((w[3]?).getD 0) < recs.length then (.error 0x15, s)
      else (.ok (recs, leaves, segs), s)

/-- ADAPT (R326, step 1). -/
def execAdapt (ag : Agent) (x : Nat) (s : State) : Out :=
  .next (match ((s.thread? ag).getD .empty).xfers[x]? with
    | some y =>
      match y.kind with
      | .catalogue w 0 _ =>
        let part := s.partOfCore (s.gangOf ag.gang).core
        let n := (w[0]?).getD 0
        let k := mwSlot n
        let m := s.mesh part k
        let stage (s : State) (n : Nat) (recs : List (Nat × Nat)) : State :=
          s.modXfer ag x fun y => { y with kind := .catalogue w n recs }
        let drop (s : State) : State := s.modMesh part k fun m => { m with gens := m.gens.filter (·.built) }
        if !s.handleOk part n then stage s 0x14 []
        else
          match m.current with
          | none => stage s 0x14 []
          | some g =>
            match s.buildAdapt ag m g w part with
            | (.error c, s) => if c = cWAIT then s else stage (drop s) c []
            | (.ok (recs, leaves, segs), s) =>
              stage (s.modMesh part k fun m => { m with
                gens := m.gens.map fun g => if g.built then g else { g with leaves := leaves, segs := segs } }) 1 recs
      | _ => s
    | none => s)

/-- Write remap records in ascending order (R325, R326); false where one meets a cause. -/
def State.writeRecords (s : State) (a : Agent) (va : Word) : List (Nat × Nat) → Bool × State
  | [] => (true, s)
  | r :: rs =>
    match s.locate a (s.nowLevel a) .write false va 16 16 with
    | .error _ => (false, s)
    | .ok (p, s) =>
      ((s.pokeAt a p 16 (r.1 + r.2 * 2 ^ 64)).chargeRun a.gang p 16 va.toNat (!rs.isEmpty)).writeRecords a (va + 16) rs

/-- The status word of an adaptation (R326, R327), after which the command completes; a cause of its own is kept for the
instruction that waits. The write stalls while its channel is in training (R459). -/
def State.adaptStatus (s : State) (a : Agent) (x : Nat) (w : List Word) (v : Nat) : State :=
  let va := (w[4]?).getD 0
  match s.locate a (s.nowLevel a) .write false va 8 8 with
  | .error e => s.modXfer a x fun y => { y with fault := some (e.code, e.addr, 1) }
  | .ok (p, s) =>
    if s.stalled p || s.heldOver a p 8 then s else ((s.pokeAt a p 8 v).chargeAt a.gang p 8).freeXfer a x

/-- ADAPT_STATUS (R326, steps 2 to 4). -/
def execAdaptStatus (ag : Agent) (x : Nat) (s : State) : Out :=
  .next (match ((s.thread? ag).getD .empty).xfers[x]? with
    | some y =>
      match y.kind with
      | .catalogue w stage recs =>
        let part := s.partOfCore (s.gangOf ag.gang).core
        let n := (w[0]?).getD 0
        let k := mwSlot n
        let set (s : State) (c : Nat) : State := s.modXfer ag x fun y => { y with kind := .catalogue w c recs }
        let number := ((s.mesh part k).gens.getLast?.map (·.number)).getD 0
        if y.fault.isSome || stage = 0 then s
        else if stage = 2 then s.adaptStatus ag x w (y.row + recs.length * 2 ^ 32)
        else if stage ≠ 1 then s.adaptStatus ag x w (failStatus stage)
        else if !s.handleOk part n then (set s 0x14).adaptStatus ag x w (failStatus 0x14)
        else if s.writesStall ag 16 ((w[2]?).getD 0) recs.length then s
        else
          match s.writeRecords ag ((w[2]?).getD 0) recs with
          | (false, s) =>
            (set (s.modMesh part k fun m => { m with gens := m.gens.filter (·.built) }) 0x16).adaptStatus ag x w
              (failStatus 0x16)
          | (true, s) =>
            let s := s.modMesh part k fun m => { m with
              gens := (m.gens.filter fun g => g.built || !g.released).map fun g => { g with built := true } }
            ((set s 2).modXfer ag x fun y => { y with row := number }).adaptStatus ag x w (number + recs.length * 2 ^ 32)
      | _ => s
    | none => s)

/-- Write the cut table in ascending order (R334); false where an entry meets a cause. -/
def State.writeCuts (s : State) (a : Agent) (va : Word) : List Nat → Bool × State
  | [] => (true, s)
  | c :: cs =>
    match s.locate a (s.nowLevel a) .write false va 4 4 with
    | .error _ => (false, s)
    | .ok (p, s) => ((s.pokeAt a p 4 c).chargeRun a.gang p 4 va.toNat (!cs.isEmpty)).writeCuts a (va + 4) cs

/-- Move a mesh's segments (R334, R335): none is NOSPACE. -/
def State.moveSegs (s : State) (part k : Nat) (g : Gen) (ws : List Nat) : Option State :=
  let segs := cutTable ws s.partTiles
  let s' := s.modMesh part k fun m => { m with
    gens := m.gens.map fun h => if h.number = g.number then { h with segs := segs } else h }
  if (s'.tileLoads part).all fun n => decide (n ≤ sliceLimit) then some s' else none

/-- The outcome of a re-cutting: its status value (R335), or `cWAIT` while a channel is in training (R459). -/
def State.recut (s : State) (a : Agent) (w : List Word) : Nat × State :=
  let part := s.partOfCore (s.gangOf a.gang).core
  let d (k : Nat) : Word := (w[k]?).getD 0
  let k := mwSlot (d 0)
  if !s.handleOk part (d 0) then (failStatus 0x14, s)
  else
    match (s.mesh part k).genOf (mwGen (d 0)) with
    | none => (failStatus 0x14, s)
    | some g =>
      let n := g.leaves.length
      match if d 1 = 0 then .ok (List.replicate n 1, s) else s.readNumbers a 4 (d 1) n with
      | .error c => (if c = cWAIT then cWAIT else failStatus 0x16, s)
      | .ok (ws, s) =>
        let cuts := cutTable ws ((d 3).toNat % 2 ^ 17)
        if s.writesStall a 4 (d 2) cuts.length then (cWAIT, s)
        else match s.writeCuts a (d 2) cuts with
        | (false, s) => (failStatus 0x16, s)
        | (true, s) =>
          if !(d 3).getLsbD 32 then (1, s)
          else
            match s.moveSegs part k g ws with
            | some s => (1, s)
            | none => (failStatus 0x10, s)

/-- MRECUT_STATUS (R334 to R336). -/
def execMrecutStatus (ag : Agent) (x : Nat) (s : State) : Out :=
  .next (match ((s.thread? ag).getD .empty).xfers[x]? with
    | some y =>
      match y.kind with
      | .recut w pa =>
        if s.training pa then s
        else match s.recut ag w with
          | (v, t) =>
            if v = cWAIT then s
            else ({ t with mem := t.mem.write pa 8 v }.chargeAt ag.gang (.mem pa) 8).freeXfer ag x
      | _ => s
    | none => s)

end Sys2Proof.Machine
end

