-- ==== Sys2Proof/Machine/Orchard.lean ====
section
/-! DEFINITION. The Orchard: trees and nodes of a tile's slice, the requests on them, the scalar and queue forms, and the
batched commands (R344 to R361). -/

namespace Sys2Proof.Machine

/-- Node slots of a slice (R344). -/
def nodeSlots : Nat := 2097152

/-- Some tree is live. -/
def OrchSlice.anyTree (o : OrchSlice) : Bool := !o.trees.isEmpty

/-- The node in a slot. -/
def OrchSlice.node? (o : OrchSlice) (n : Nat) : Option Node := o.nodes.find? fun x => x.slot = n

/-- Change the node in a slot. -/
def OrchSlice.modNode (o : OrchSlice) (n : Nat) (f : Node → Node) : OrchSlice :=
  { o with nodes := o.nodes.map fun x => if x.slot = n then f x else x }

/-- The live tree in a tree slot. -/
def OrchSlice.tree? (o : OrchSlice) (t : Nat) : Option Tree := o.trees.find? fun x => x.slot = t

/-- A node handle (R345). -/
def OrchSlice.handle (o : OrchSlice) (tile tree node : Nat) : Word :=
  BitVec.ofNat 64 (node + tile * 2 ^ 21 + tree * 2 ^ 24 + (o.serials.get tree).toNat * 2 ^ 32)

/-- TILE of a handle. -/
def handleTile (w : Word) : Nat := w.toNat / 2 ^ 21 % 8

/-- The node that a handle names in its slice (R345); none is stale. -/
def OrchSlice.named (o : OrchSlice) (w : Word) : Option Node :=
  let tree := w.toNat / 2 ^ 24 % 256
  if 2 ^ 48 ≤ w.toNat then none
  else if (o.tree? tree).isSome && decide ((o.serials.get tree).toNat = w.toNat / 2 ^ 32 % 2 ^ 16) then
    (o.node? (w.toNat % 2 ^ 21)).filter fun x => x.tree = tree
  else none

/-- The lowest run of n free node slots from a slot up (R351, R353). -/
def freeRun (n : Nat) : Nat → List Node → Option Nat
  | lo, [] => if lo + n ≤ nodeSlots then some lo else none
  | lo, x :: xs => if lo + n ≤ x.slot then some lo else freeRun n (x.slot + 1) xs

/-- Put nodes that fill a run of free slots into a slice. -/
def OrchSlice.place (o : OrchSlice) (lo : Nat) (new : List Node) : OrchSlice :=
  { o with nodes := o.nodes.filter (fun x => decide (x.slot < lo)) ++ new ++ o.nodes.filter fun x => decide (lo ≤ x.slot) }

/-- A newly allocated node (R346). -/
def newNode (slot tree parent : Nat) (root : Bool) (prior : BitVec 16) : Node :=
  { slot := slot, tree := tree, value := 0, visits := 0, vloss := 0, prior := prior, nchild := 0, first := 0,
    parent := parent, root := root }

/-- Counts saturate (R346). -/
def countMax : Nat := 2 ^ 32 - 1

/-- f32 of R352. -/
def f32 (v : Val) : Val := decode .f32 (roundEven .f32 v).1

/-- score (R352) of a child of x under the tree's constant. -/
def score (c : BitVec 32) (x y : Node) : Val :=
  let nat (n : Nat) : Val := f32 (Val.ofInt n)
  let n := nat (y.visits + y.vloss)
  let q : Val :=
    if y.visits + y.vloss = 0 then Val.ofInt 0
    else f32 (Val.div (f32 (Val.sub 0 (f32 (decode .f64 y.value)) (nat y.vloss)).1) n).1
  let s := f32 (Val.sqrt (nat (x.visits + x.vloss))).1
  let cp := f32 (Val.mul (decode .f32 (c.setWidth 64)) (decode .bf16 (y.prior.setWidth 64))).1
  let u := f32 (Val.div (f32 (Val.mul cp s).1) (f32 (Val.add 0 (Val.ofInt 1) n).1)).1
  f32 (Val.add 0 q u).1

/-- Whether a score ranks above the best so far (R352). -/
def scoreBeats (v best : Val) : Bool :=
  decide (Val.compare v best = some .gt) || (best.isNan && !v.isNan)

/-- The child that a descent takes: the first of the best scores (R352). -/
def OrchSlice.bestChild (o : OrchSlice) (c : BitVec 32) (x : Node) : Nat :=
  let scoreOf (k : Nat) : Val := match o.node? (x.first + k) with
    | some y => score c x y
    | none => .nan false
  ((List.range x.nchild).foldl (fun (best : Nat × Val) k =>
    let v := scoreOf k
    if 0 < k && scoreBeats v best.2 then (k, v) else best) (0, scoreOf 0)).1

/-- The descent of R352 from a node slot; it ends within as many levels as there are nodes. -/
def OrchSlice.descend (o : OrchSlice) (c : BitVec 32) (n : Nat) : Nat → OrchSlice × Nat
  | 0 => (o, n)
  | f + 1 =>
    let o := o.modNode n fun x => { x with vloss := min (x.vloss + 1) countMax }
    match o.node? n with
    | none => (o, n)
    | some x => if x.nchild = 0 then (o, n) else o.descend c (x.first + o.bestChild c x) f

/-- One node's update by a backup of v (R354); VLONLY takes off a virtual loss and no more (R358). -/
def Node.backup (x : Node) (v : Val) (vlonly : Bool) : Node :=
  let x := { x with vloss := x.vloss - 1 }
  if vlonly then x
  else
    { x with
      visits := min (x.visits + 1) countMax
      value := (roundEven .f64 (Val.add 0 (decode .f64 x.value) v).1).1 }

/-- The backup of R354 from a node slot, and the number of nodes updated. -/
def OrchSlice.backup (o : OrchSlice) (alt vlonly : Bool) (n : Nat) (v : Val) : Nat → OrchSlice × Nat
  | 0 => (o, 0)
  | f + 1 =>
    match o.node? n with
    | none => (o, 0)
    | some x =>
      let o := o.modNode n fun x => x.backup v vlonly
      if x.root then (o, 1)
      else
        let r := o.backup alt vlonly x.parent (if alt then v.flip else v) f
        (r.1, r.2 + 1)

/-- Whether a node is a given one or lies below it. -/
def OrchSlice.below (o : OrchSlice) (n : Nat) (x : Node) : Nat → Bool
  | 0 => false
  | f + 1 =>
    x.slot = n || (!x.root && match o.node? x.parent with
      | some y => o.below n y f
      | none => false)

/-- Free the nodes of a tree that a test picks, and count them. -/
def OrchSlice.free (o : OrchSlice) (tree : Nat) (p : Node → Bool) : OrchSlice × Nat :=
  let gone (x : Node) : Bool := x.tree = tree && p x
  ({ o with nodes := o.nodes.filter fun x => !gone x }, (o.nodes.filter gone).length)

/-- Status NOTREE (R347). -/
def oNOTREE : Word := 0x8000000000000001
/-- Status FULL. -/
def oFULL : Word := 0x8000000000000002
/-- Status BADTILE. -/
def oBADTILE : Word := 0x8000000000000003
/-- Status EXPANDED. -/
def oEXPANDED : Word := 0x8000000000000004
/-- Status STALEH. -/
def oSTALEH : Word := 0x8000000000000005
/-- Status NOTCHILD. -/
def oNOTCHILD : Word := 0x8000000000000006
/-- Status FAULT. -/
def oFAULT : Word := 0x8000000000000007

/-- What a request comes to: the value for gd with the slice after it; none is ORCHFULL. -/
abbrev OrchReply := Option (Word × OrchSlice)

/-- ONEW in a slice (R351). -/
def OrchSlice.newTree (o : OrchSlice) (tile : Nat) (w : Word) : OrchReply :=
  match (List.range 256).find? fun t => (o.tree? t).isNone with
  | none => some (oNOTREE, o)
  | some t =>
    match freeRun 1 0 o.nodes with
    | none => if w.getLsbD 36 then none else some (oFULL, o)
    | some n =>
      let o := { o with
        serials := o.serials.set t (o.serials.get t + 1)
        trees := o.trees ++ [Tree.mk t (w.setWidth 32) (w.getLsbD 35) (w.getLsbD 36)] }
      let o := o.place n [newNode n t 0 true 0]
      some (o.handle tile t n, o)

/-- A request on the node that a handle names. -/
def OrchSlice.onNode (o : OrchSlice) (w : Word) (f : Tree → Node → OrchReply) : OrchReply :=
  match o.named w with
  | none => some (oSTALEH, o)
  | some x => match o.tree? x.tree with
    | none => some (oSTALEH, o)
    | some t => f t x

/-- ODESC (R352). -/
def OrchSlice.desc (o : OrchSlice) (w : Word) : OrchReply :=
  o.onNode w fun t x =>
    let r := o.descend t.cexp x.slot (o.nodes.length + 1)
    some (r.1.handle (handleTile w) x.tree r.2, r.1)

/-- OEXPAND with the children's priors (R353). -/
def OrchSlice.expand (o : OrchSlice) (w : Word) (priors : List (BitVec 16)) : OrchReply :=
  o.onNode w fun t x =>
    if x.nchild ≠ 0 then some (oEXPANDED, o)
    else
      match freeRun priors.length 0 o.nodes with
      | none => if t.ftrap then none else some (oFULL, o)
      | some lo =>
        let o := (o.place lo (priors.mapIdx fun i p => newNode (lo + i) x.tree x.slot false p)).modNode x.slot fun x =>
          { x with first := lo, nchild := priors.length }
        some (o.handle (handleTile w) x.tree lo, o)

/-- OBACKUP (R354, R358). -/
def OrchSlice.backupFrom (o : OrchSlice) (w v : Word) (vlonly : Bool) : OrchReply :=
  o.onNode w fun t x =>
    let r := o.backup t.alt vlonly x.slot (decode .f64 v) (o.nodes.length + 1)
    some (BitVec.ofNat 64 r.2, r.1)

/-- OREUSE (R355). -/
def OrchSlice.reuse (o : OrchSlice) (w : Word) : OrchReply :=
  o.onNode w fun _ x =>
    let child := !x.root && match o.node? x.parent with
      | some p => p.root
      | none => false
    if !child then some (oNOTCHILD, o)
    else
      let r := o.free x.tree fun y => !o.below x.slot y (o.nodes.length + 1)
      some (BitVec.ofNat 64 r.2, r.1.modNode x.slot fun x => { x with root := true, parent := 0 })

/-- OFREE (R356). -/
def OrchSlice.release (o : OrchSlice) (w : Word) : OrchReply :=
  o.onNode w fun _ x =>
    if x.root then
      let r := o.free x.tree fun _ => true
      some (BitVec.ofNat 64 r.2, { r.1 with trees := r.1.trees.filter fun t => t.slot ≠ x.tree })
    else
      let r := o.free x.tree fun y => y.slot ≠ x.slot && o.below x.slot y (o.nodes.length + 1)
      some (BitVec.ofNat 64 r.2, r.1.modNode x.slot fun x => { x with nchild := 0, first := 0 })

/-- A dword of a node record (R346). -/
def OrchSlice.nodeDword (o : OrchSlice) (x : Node) (k : Nat) : Word :=
  match k with
  | 0 => x.value
  | 1 => BitVec.ofNat 64 (x.visits + x.vloss * 2 ^ 32)
  | 2 => BitVec.ofNat 64 (x.first + x.nchild * 2 ^ 32 + x.prior.toNat * 2 ^ 48)
  | _ => BitVec.ofNat 64 (x.parent + (if x.root then 2 ^ 21 else 0) + x.tree * 2 ^ 32 + (o.serials.get x.tree).toNat * 2 ^ 40)

/-- OREAD (R357), for gb below 6. -/
def OrchSlice.readNode (o : OrchSlice) (w : Word) (k : Nat) : OrchReply :=
  o.onNode w fun t x =>
    let mine := o.nodes.filter fun y => y.tree = x.tree
    if k < 4 then some (o.nodeDword x k, o)
    else if k = 4 then
      some (BitVec.ofNat 64 (t.cexp.toNat + (if t.alt then 2 ^ 35 else 0) + (if t.ftrap then 2 ^ 36 else 0) +
        mine.length * 2 ^ 37), o)
    else
      some (match mine.find? (·.root) with
        | some r => o.handle (handleTile w) x.tree r.slot
        | none => 0, o)

/-- The slice of a module tile. -/
def State.slice (s : State) (tile : Nat) : OrchSlice := (s.orch[tile]?).getD .reset

/-- Perform a request that a handle names at its tile, for an agent (R345, R348). A tile of another partition is
stale. -/
def State.orchAt (s : State) (a : Agent) (w : Word) (f : OrchSlice → OrchReply) : Option (Word × State) :=
  let gi := a.gang
  let tile := handleTile w
  if s.partOfCore (32 * tile) ≠ s.partOfCore (s.gangOf gi).core then some (oSTALEH, s)
  else (f (s.slice tile)).map fun r => (r.1, { s with orch := modifyAt s.orch tile fun _ => r.2 }.charge gi 16 1)

/-- Whether a transfer is an Orchard command that the tile has not performed, so that a later request waits for it
(R349). -/
def Xfer.unperformed (x : Xfer) : Bool :=
  match x.kind with
  | .orchard _ stage _ => decide (stage ≤ 1)
  | _ => false

/-- A scalar Orchard form (R349): the wait of FENCE.SV, then for every earlier Orchard request; then the request is
performed whole and its answer reaches gd (R350). A request of the handler itself does not wait for a command whose cause
the handler has been entered for, which goes on when the handler returns (R359; DEDUCED, log 110). -/
def State.orchForm (s : State) (d : BitVec 6) (info : Word) (f : State → Option (Word × State)) : Out :=
  s.afterVector fun s =>
    match s.me.xfers.find? fun x => x.unperformed && !(s.me.frz && x.told) with
    | some x => if x.tells then s.trapXfer x else s.stallFor .busy
    | none =>
      match f s with
      | some (v, s) => s.retWith d v
      | none => s.trapWith { s.scalarCause cORCHFULL 0 0 with info := info }

/-- ONEW (R351). The record names the tile by the handle it would have had (DEDUCED, log 60). -/
def execOnew (d a : BitVec 6) (s : State) : Out :=
  s.hart (
    let w := s.x a
    let j := w.toNat / 2 ^ 32 % 8
    let tile := s.myPart * s.partTiles + j
    if 2 ^ 37 ≤ w.toNat then s.illop
    else
      s.orchForm d (BitVec.ofNat 64 (tile * 2 ^ 21)) fun s =>
        if s.partTiles ≤ j then some (oBADTILE, s)
        else
          ((s.slice tile).newTree tile w).map fun r =>
            (r.1, { s with orch := modifyAt s.orch tile fun _ => r.2 }.charge s.who.gang 16 1))

/-- ODESC (R352). -/
def execOdesc (d a : BitVec 6) (s : State) : Out :=
  s.hart (s.orchForm d (s.x a) fun s => s.orchAt s.who (s.x a) fun o => o.desc (s.x a))

/-- OBACKUP (R354). -/
def execObackup (d a b : BitVec 6) (s : State) : Out :=
  s.hart (s.orchForm d (s.x a) fun s => s.orchAt s.who (s.x a) fun o => o.backupFrom (s.x a) (s.x b) false)

/-- OREUSE (R355). -/
def execOreuse (d a : BitVec 6) (s : State) : Out :=
  s.hart (s.orchForm d (s.x a) fun s => s.orchAt s.who (s.x a) fun o => o.reuse (s.x a))

/-- OFREE (R356). -/
def execOfree (d a : BitVec 6) (s : State) : Out :=
  s.hart (s.orchForm d (s.x a) fun s => s.orchAt s.who (s.x a) fun o => o.release (s.x a))

/-- OREAD (R357). -/
def execOread (d a b : BitVec 6) (s : State) : Out :=
  s.hart (
    if 6 ≤ (s.x b).toNat then s.illop
    else s.orchForm d (s.x a) fun s => s.orchAt s.who (s.x a) fun o => o.readNode (s.x a) (s.x b).toNat)

/-- The prior that a child takes from an element of a tag (R353); EXPAND takes it as OEXPAND does (R358). -/
def priorOf (t : Tag) (v : BitVec 64) : BitVec 16 := ((roundEven .bf16 (decode t v)).1).setWidth 16

/-- OEXPAND at push (R353). -/
def State.pushOexpand (s : State) (d a b : BitVec 6) : Push State := do
  let h := s.x a
  need (!isQueue b)
  s.named ⟨[b], none, false, false⟩
  let (x, s) ← s.vsource none b
  need (decide (0 < s.me.vl) && decide (s.me.vl ≤ 4096) && x.tag.floating && x.tag ≠ .l6)
  s.pushVec { s.blank .oexpand s.me.vl with dst := .scalar d.toNat, srcA := x.src, tagA := x.tag, opa := h }

/-- OEXPAND (R353). -/
def execOexpand (d a b : BitVec 6) (s : State) : Out := s.execute (s.pushOexpand d a b)

/-- The step of OEXPAND (R349, R353). -/
def State.oexpandStep (s : State) (a : Agent) (r : VRec) : State :=
  let t := (s.thread? a).getD .empty
  let g := s.gangOf a.gang
  match t.xfers.find? fun x => x.unperformed && decide (x.seq < r.seq) with
  | some x => s.waitFor a r x
  | none =>
    let waits := (t.older r).any fun w => !w.done && match w.op with
      | .oexpand | .cmdb .orchard => true
      | _ => false
    if waits then s
    else
      let priors := (List.range r.vl).map fun i => priorOf r.tagA (srcElem g t r.srcA r.tagA i)
      match s.orchAt a r.opa fun o => o.expand r.opa priors with
      | some (v, s) => (s.modRec a r.seq fun r => { r with opb := v }).commit a { r with opb := v } 0 []
      | none =>
        let s := s.raiseVec a r 0 0 cORCHFULL 0 0
        s.modThread a fun t => { t with causes := match t.causes.getLast? with
          | some c => t.causes.dropLast ++ [{ c with info := r.opa }]
          | none => [] }

/-- OPC of a command (R358). -/
def orchOpc (w : List Word) : Nat := ((w[1]?).getD 0).toNat % 256

/-- Whether the Orchard refuses a command (R358). -/
def refusesOrch (w : List Word) : Bool :=
  let d (k : Nat) : Word := (w[k]?).getD 0
  let n := (d 1).toNat
  let opc := n % 256
  let count := n / 2 ^ 32
  decide (n / 2 ^ 8 % 256 ≠ 0) || decide (n / 2 ^ 17 % 2 ^ 15 ≠ 0) || decide (d 6 ≠ 0) || decide (d 7 ≠ 0) || opc = 0 ||
  decide (3 < opc) || ((d 1).getLsbD 16 && opc ≠ 3) || (opc = 1 && decide (d 2 ≠ 0)) ||
  (if opc = 2 then count = 0 || decide (4096 < count) || badAddress (d 2) 2 else decide (count ≠ 0)) ||
  badAddress (d 3) 8 || badAddress (d 4) 8

/-- The Orchard's answer to command j of a CMDB (R349, R358, R359): the first waits until every earlier request of the
hart is performed. -/
def State.orchAnswer (s : State) (a : Agent) (r : VRec) (w : List Word) : CmdAnswer × State :=
  let t := (s.thread? a).getD .empty
  let earlier := t.xfers.find? fun x => x.unperformed && decide (x.seq < r.seq)
  match earlier with
  | some x => (.full, s.waitFor a r x)
  | none =>
    if (t.older r).any fun w => !w.done && decide (w.op = .oexpand) then (.full, s)
    else if refusesOrch w then (.refuse, s)
    else
      let d (k : Nat) : Word := (w[k]?).getD 0
      let word8 (k : Nat) : Option (Nat × Nat) := if d k = 0 then none else some ((d k).toNat, 8)
      (.accept (.orchard w 0 []) (if orchOpc w = 2 then some ((d 2).toNat, 2 * ((d 1).toNat / 2 ^ 32)) else none)
        (word8 3) (word8 4) 0 0, s)

/-- Change the stage and the values of a command. -/
def State.orchStage (s : State) (a : Agent) (x : Nat) (w : List Word) (stage : Nat) (vals : List Word) : State :=
  s.modXfer a x fun y => { y with kind := .orchard w stage vals }

/-- The result word, the first of the two writes a command may have to make (R359). Like a copy's, it waits for held writes
to its sector that the gang sees (R113). -/
def State.orchResult (s : State) (a : Agent) (x : Nat) (w : List Word) (v : Word) : State :=
  let va := (w[3]?).getD 0
  if va = 0 then s.orchStage a x w 3 [v]
  else
    match s.locate a (s.nowLevel a) .write false va 8 8 with
    | .error e => s.modXfer a x fun y => { y with fault := some (e.code, e.addr, 1) }
    | .ok (p, s) =>
      if s.stalled p || s.heldOver a p 8 then s else ((s.pokeAt a p 8 v.toNat).chargeAt a.gang p 8).orchStage a x w 3 [v]

/-- The completion word, after which the command completes (R359); no waiter is woken. -/
def State.orchDone (s : State) (a : Agent) (x : Nat) (w : List Word) : State :=
  let va := (w[4]?).getD 0
  if va = 0 then s.freeXfer a x
  else
    match s.locate a (s.nowLevel a) .rmw false va 8 8 with
    | .error e => s.modXfer a x fun y => { y with fault := some (e.code, e.addr, 3) }
    | .ok (p, s) =>
      if s.stalled p || s.heldOver a p 8 then s
      else ((s.pokeAt a p 8 ((s.peekAt a p 8 + ((w[5]?).getD 0).toNat) % 2 ^ 64)).chargeAt a.gang p 8).freeXfer a x

/-- What the events of a command share: its result and completion words once the tile has performed it. -/
def State.orchWrites (s : State) (a : Agent) (x : Nat) (w : List Word) (stage : Nat) (vals : List Word) : State :=
  if stage = 2 then s.orchResult a x w ((vals[0]?).getD 0)
  else if stage = 3 then s.orchDone a x w
  else s

/-- A step of the command of an opcode: none where the transfer is not one. -/
def State.orchCmd (s : State) (a : Agent) (x opc : Nat) (start : List Word → State) : State :=
  match ((s.thread? a).getD .empty).xfers[x]? with
  | none => s
  | some y =>
    match y.kind with
    | .orchard w stage vals =>
      if y.fault.isSome || orchOpc w ≠ opc then s
      else if stage = 0 then start w
      else s.orchWrites a x w stage vals
    | _ => s

/-- DESC (R358, R359). -/
def execDesc (ag : Agent) (x : Nat) (s : State) : Out := .next (s.orchCmd ag x 1 fun w => s.orchStage ag x w 1 [])

/-- EXPAND (R358, R359): it first reads its priors. -/
def execExpand (ag : Agent) (x : Nat) (s : State) : Out :=
  .next (s.orchCmd ag x 2 fun w =>
    match s.readNumbers ag 2 ((w[2]?).getD 0) (((w[1]?).getD 0).toNat / 2 ^ 32) with
    | .ok (l, s) => s.orchStage ag x w 1 (l.map (BitVec.ofNat 64))
    | .error c => if c = cWAIT then s else s.orchStage ag x w 2 [oFAULT])

/-- BACKUP (R358, R359). -/
def execBackup (ag : Agent) (x : Nat) (s : State) : Out := .next (s.orchCmd ag x 3 fun w => s.orchStage ag x w 1 [])

/-- The request of a command (R358). -/
def orchRequest (w vals : List Word) (o : OrchSlice) : OrchReply :=
  let h := (w[0]?).getD 0
  match orchOpc w with
  | 1 => o.desc h
  | 2 => o.expand h (vals.map fun v => priorOf .bf16 v)
  | _ => o.backupFrom h ((w[2]?).getD 0) (((w[1]?).getD 0).getLsbD 16)

/-- ORCHARD_REQUEST_PERFORMED (R348, R359): requests of one hart arrive in order. A failed allocation in a tree with
FTRAP = 1 stops the command until the instruction that waits for it has trapped; then it is sent again. -/
def execOrchardRequestPerformed (ag : Agent) (x : Nat) (s : State) : Out :=
  let xs := ((s.thread? ag).getD .empty).xfers
  .next (match xs[x]? with
    | none => s
    | some y =>
      match y.kind with
      | .orchard w 1 vals =>
        if y.fault.isSome || (xs.take x).any fun z => z.unperformed && z.fault.isNone then s
        else
          match s.orchAt ag ((w[0]?).getD 0) (orchRequest w vals) with
          | none => s.modXfer ag x fun y => { y with fault := some (cORCHFULL, 0, 0) }
          | some (v, s) =>
            if (w[3]?).getD 0 = 0 && (w[4]?).getD 0 = 0 then s.freeXfer ag x else s.orchStage ag x w 2 [v]
      | _ => s)

end Sys2Proof.Machine
end

