-- ==== Sys2Proof/Machine/Complete.lean ====
section
/-! DEFINITION. ELEMENT_GROUP_COMPLETION: the next step of a record of a vector or access queue, with the energy it is
charged for (R53 to R56, R62, R197, R228, R254, R269, R428, R430). -/

namespace Sys2Proof.Machine

/-- An older record of the queue pushes to the same load queue and has not begun: entries enter in program order
(R254). -/
def Thread.entryHeld (t : Thread) (r : VRec) : Bool :=
  match r.dst with
  | .lq q none => (t.older r).any fun w => !w.done && match w.dst with
    | .lq p none => p = q
    | _ => false
  | _ => false

/-- The engine's answer to command j of a CMDB (R242). -/
def State.engineAnswer (s : State) (a : Agent) (e : Engine) (r : VRec) (w : List Word) : CmdAnswer × State :=
  match e with
  | .copy => (s.copyAnswer a w, s)
  | .catalogue => (s.charge a.gang 15 1).catAnswer a w
  | .orchard => s.orchAnswer a r w

/-- QDRAIN's own step in an access-unit context (R132, R241, R250). -/
def State.drainStep (s : State) (a : Agent) (r : VRec) : State :=
  if (s.gangOf a.gang).queuesDrained r.opa.toNat fun w => decide (w.seq < r.seq) then s.commit a r 0 [] else s

/-- Step k of a record by what it does. -/
def State.groupStep (s : State) (a : Agent) (r : VRec) (k : Nat) : State :=
  match r.op with
  | .load (.far n) _ _ => s.farStep a r n k
  | .load form arr ff => s.loadStep a r form arr ff k
  | .store form nt => s.storeStep a r form nt k
  | .win => s.winStep a r
  | .wacc => s.waccStep a r k
  | .wmerge => s.mergeStep a r
  | .lsync => s.lsyncStep a r
  | .fence scope kind => s.fenceStep a r scope kind
  | .cmdb e => s.cmdbStep a r k fun s r _ w => s.engineAnswer a e r w
  | .stream => s.streamStep a r
  | .oexpand => s.oexpandStep a r
  | .contribute => s.contributeStep a r
  | .receive => s.receiveStep a r
  | .drain => s.drainStep a r
  | .mma _ _ _ _ | .mld | .mst | .mzero | .mwrow _ => s
  | _ => s.computeStep a r k

/-- Energy class of an element group (R428). -/
def VOp.energy : VOp → Nat
  | .fma _ => 2
  | .alu .div | .alu .sqrt => 3
  | _ => 1

/-- The sectors that the active elements of a step read or write, each once, with their energy classes: of loads all,
of stores those of the window; other stores are charged when they are performed. -/
def State.stepSectors (s : State) (a : Agent) (r : VRec) (form : AddrForm) (k : Nat) (window : Bool) :
    List (Nat × Nat) :=
  let g := s.gangOf a.gang
  let t := (s.thread? a).getD .empty
  let one (acc : List (Nat × Nat)) (i : Nat) : List (Nat × Nat) :=
    let (va, n) := elemSpan form r.opTag r.opa r.opb i (intOf r.tagA (srcElem g t r.srcA r.tagA i))
    match s.locate a (s.vecLevel a) (if window then .write else .read) (s.windowed a r form) va n 1 with
    | .error _ => acc
    | .ok (p, _) =>
      let c := p.energy
      let lo := match p with
        | .mem x | .spad x | .sdm x => x / 32
      if window && decide (c ≠ 9) then acc
      else
        ((List.range (p.sectors n)).map (lo + ·)).foldl (fun (acc : List (Nat × Nat)) x =>
          if acc.contains (c, x) then acc else acc ++ [(c, x)]) acc
  ((r.elems k).filter fun i => r.active t i).foldl one []

/-- Charge sectors. -/
def State.chargeSectors (s : State) (gi : Nat) (l : List (Nat × Nat)) : State :=
  l.foldl (fun s x => s.charge gi x.1 1) s

/-- Charge step k of a record that has been performed (R428): of VWACC a scratchpad sector for each update, of VWIN and
VWMERGE those of the area that they fill or read. -/
def State.chargeStep (s : State) (a : Agent) (r : VRec) (k : Nat) : State :=
  let now := ((s.thread? a).getD .empty).vq.find? fun x => x.seq = r.seq
  match now with
  | none => s
  | some x =>
    if x.pi ≤ k then s
    else
      let n := ((r.elems k).filter fun i => r.active ((s.thread? a).getD .empty) i).length
      let s := s.charge a.gang r.op.energy 1
      match r.op with
      | .load (.far _) _ _ => s.charge a.gang 14 n
      | .load form _ _ => s.chargeSectors a.gang (s.stepSectors a x form k false)
      | .store form _ => s.chargeSectors a.gang (s.stepSectors a x form k true)
      | .sow _ => s.charge a.gang 17 n
      | .wacc => s.charge a.gang 9 n
      | .win => s.charge a.gang 9 ((winSize r.opb + 4095) / 4096 * 128)
      | .wmerge => s.charge a.gang 9 (winSize r.opb / 32)
      | .stream => s.charge a.gang 15 1
      | _ => if r.stochastic then s.charge a.gang 17 n else s

/-- The next step of a record that is not done: expired registers and causes of popped entries first, then the entry it
fills, then the step (R62, R254, R269). -/
def State.vectorStep (s : State) (a : Agent) (r : VRec) : State :=
  let k := r.pi
  let g := s.gangOf a.gang
  let t := (s.thread? a).getD .empty
  if r.groups = 0 then s.modRec a r.seq fun r => { r with done := true }
  else if !s.stepReady a r k || t.entryHeld r then s
  else
    match r.sregAt g t k with
    | some i => s.raiseVec a r k i cSREG 0 0
    | none =>
      match if k = 0 then r.entryCause g else none with
      | some c => s.raiseVec a r k 0 c 0 0
      | none =>
        match if r.op = .stream then some s else s.beginEntry a r with
        | none => s
        | some s => (s.groupStep a (s.recNow a r) k).chargeStep a r k

/-- ELEMENT_GROUP_COMPLETION (R53): the next step of the record with a sequence number. A record that is then done gives
the scalar thread what it waits for (R198), and records that are done complete, the oldest first (R56). -/
def execElementGroupCompletion (ag : Agent) (seq : Nat) (s : State) : Out :=
  let t := (s.thread? ag).getD .empty
  .next (match t.vq.find? fun r => r.seq = seq with
    | none => s
    | some r =>
      if !s.mayRun ag || r.stuck then s
      else ((if r.done then s else s.vectorStep ag r).deliver ag seq).completeAll ag t.vq.length)

end Sys2Proof.Machine
end

