-- ==== Sys2Proof/Machine/Csr.lean ====
section
/-! DEFINITION. The CSRs: what each reads, what a write does, and who may name it (R64, R65, R75, R80, R184, R185, R262
to R264, R279, R380, R409, R427, R434, R440, R443, R454, R458, R459). -/

namespace Sys2Proof.Machine

/-- What a read of a CSR answers, with the state after it; what a write leaves. None is ILLOP. -/
abbrev CsrRead := Option (Word × State)

/-- Changes of lgmode that wait for a holder (R64, R65), or for a hart that a settlement has given the group: PEND. -/
def State.lgPend (s : State) (core : Nat) : Nat :=
  let c := s.core core
  ((List.range 8).map fun k =>
    let own := c.own.toNat / 4 ^ k % 4
    let now := c.ownNow.toNat / 4 ^ k % 4
    let differs := c.acc.getLsbD k != c.accNow.getLsbD k || (c.acc.getLsbD k && decide (own ≠ now))
    if differs && (s.laneHeld core k || c.claims.any fun x => x.1 = k) then 2 ^ k else 0).sum

/-- lgmode (R64). -/
def State.lgmode (s : State) (core : Nat) : Word :=
  let c := s.core core
  BitVec.ofNat 64 (c.acc.toNat + c.own.toNat * 2 ^ 8 + s.lgPend core * 2 ^ 24)

/-- A write to lgmode (R65): RECALL is set for harts that hold a group that is to change, or have been given it at a
settlement whose effect is still to come. -/
def State.writeLgmode (s : State) (core : Nat) (v : Word) : State :=
  let s := s.modCore core fun c => { c with acc := v.setWidth 8, own := (v >>> 8).setWidth 16 }
  let pend := s.lgPend core
  let c := s.core core
  (List.range 8).foldl (fun (s : State) k =>
    match (c.lanes[k]?).getD none with
    | some (gi, h, _) =>
      if pend / 2 ^ k % 2 = 1 then s.modThread ⟨gi, .hart h⟩ fun t => { t with rcl := true } else s
    | none => s) { s with gangs := s.gangs.map fun g =>
      if g.st ≠ .resident || g.core ≠ core then g
      else { g with harts := g.harts.map fun t =>
        if (t.settled.getD []).any fun x => pend / 2 ^ x.1 % 2 = 1 then { t with rcl := true } else t } }

/-- vgrant (R64). -/
def State.vgrant (s : State) (gi h : Nat) (t : Thread) : Word :=
  let ls := s.lanesOf gi h
  BitVec.ofNat 64 (ls.length + t.fair * 2 ^ 4 + s.lentOf gi h * 2 ^ 8 + (if t.chg then 2 ^ 16 else 0) +
    (if t.rcl then 2 ^ 17 else 0) + (ls.map fun k => 2 ^ (24 + k)).sum)

/-- gbar (R33). -/
def Gang.gbar (g : Gang) : Word :=
  BitVec.ofNat 64 (g.members.toNat + g.arrived.toNat * 2 ^ 8 + g.phase.toNat * 2 ^ 16 + g.drops.toNat * 2 ^ 32)

/-- eacct (R64, R429), in whole uJ; the boot gang belongs to no launch and reads zero. -/
def State.eacctOf (s : State) (g : Gang) : Word :=
  match s.launch? g.launch with
  | some l => BitVec.ofInt 64 (l.eacct.fdiv (2 ^ 20))
  | none => 0

/-- CSRs that a hart and an access-unit context both name (R64, R262). -/
def State.readShared (s : State) (c : Nat) : CsrRead :=
  let g := s.myGang
  match c with
  | 0x018 => some (g.coll.cgroup, s)
  | 0x019 => some (g.coll.cop, s)
  | 0x01A => some (BitVec.ofNat 64 g.coll.clen, s)
  | 0x020 => some (g.qenW.setWidth 64, s)
  | 0x021 => some (g.gbar, s)
  | 0x028 => some (s.eacctOf g, s)
  | 0x029 => some (Config.ccount s.free, { s with free := s.free + 1 })
  | 0x02A => some (s.lgmode g.core, s)
  | _ => none

/-- CSRs of an access-unit context alone (R262). -/
def State.readAccess (s : State) (c : Nat) : CsrRead :=
  let g := s.myGang
  match c with
  | 0x030 => some (BitVec.ofNat 64 (g.access.avl + g.ecap * 2 ^ 32), s)
  | 0x031 => some (BitVec.ofNat 64 (g.coll.sent + g.coll.recv * 2 ^ 32), s)
  | _ => s.readShared c

/-- CSRs of a hart at every level (R64). -/
def State.readUser (s : State) (c : Nat) : CsrRead :=
  let t := s.me
  let g := s.myGang
  match c with
  | 0x000 => some (BitVec.ofNat 64 (vtypeOf g t.mrows t.blk), s)
  | 0x001 => some (BitVec.ofNat 64 t.vl, s)
  | 0x002 => some (s.vgrant s.who.gang s.hartNo t, s)
  | 0x003 => some (BitVec.ofNat 64 t.vcp, s)
  | 0x004 => some (BitVec.ofNat 64 t.vqtail, s)
  | 0x008 => some (t.mshape.setWidth 64, s)
  | 0x010 => some (t.frm, s)
  | 0x011 => some (t.fflags.setWidth 64, s)
  | _ => s.readShared c

/-- sstatus (R380). -/
def Thread.sstatus (t : Thread) : Word :=
  BitVec.ofNat 64 (t.lvl + t.plvl * 2 ^ 2 + t.dlvl * 2 ^ 4 + (if t.frz then 2 ^ 6 else 0) + (if t.supp then 2 ^ 7 else 0) +
    (if t.wq then 2 ^ 8 else 0) + (if t.aflt then 2 ^ 9 else 0) + (if t.bskip then 2 ^ 10 else 0))

/-- sdisp (R425). -/
def PartSt.sdisp (p : PartSt) : Word :=
  BitVec.ofNat 64 ((if p.glean then 1 else 0) + (if p.keepsw then 2 else 0) + p.age.toNat * 2 ^ 8)

/-- sdstat (R426). -/
def PartSt.sdstat (p : PartSt) : Word :=
  BitVec.ofNat 64 (p.swaps + p.yields * 2 ^ 16 + p.poolmiss * 2 ^ 32 + (if p.ringerr then 2 ^ 48 else 0) +
    (if p.doneerr then 2 ^ 49 else 0))

/-- sdstat is cleared by a read (R426). -/
def PartSt.clearSdstat (p : PartSt) : PartSt :=
  { p with swaps := 0, yields := 0, poolmiss := 0, ringerr := false, doneerr := false }

/-- CSRs of level 1 (R380, R409). -/
def State.readSuper (s : State) (c : Nat) : CsrRead :=
  let t := s.me
  let p := s.part s.myPart
  match c with
  | 0x100 => some (t.sstatus, s)
  | 0x101 => some (p.stvec, s)
  | 0x102 => some (t.sepc, s)
  | 0x103 => some (t.sscratch, s)
  | 0x104 => some (t.sevent.setWidth 64, s)
  | 0x105 => some (t.seventen.setWidth 64, s)
  | 0x120 => some (p.sxroot, s)
  | 0x121 => some (p.sdisp, s)
  | 0x122 => some (p.scpool, s)
  | 0x123 => some (p.scslot, s)
  | 0x124 => some (p.sring, s)
  | 0x125 => some (p.ssring, s)
  | 0x126 => some (BitVec.ofInt 64 (p.energy.fdiv (2 ^ 20)), s)
  | 0x127 => some (p.sdstat, s.modPart s.myPart PartSt.clearSdstat)
  | _ =>
    if 0x108 ≤ c && decide (c < 0x110) then some ((t.sfrec[c - 0x108]?).getD 0, s)
    else if 0x110 ≤ c && decide (c < 0x114) then some ((t.sbkpt[c - 0x110]?).getD 0, s)
    else none

/-- The channel that a hart selects (R458). -/
def Thread.channel (t : Thread) : Nat := 32 * (t.fhsel.toNat % 8) + t.fhsel.toNat / 16 % 32

/-- A channel's state. -/
def State.chan (s : State) (n : Nat) : Chan := (s.mod.chans[n]?).getD .reset

/-- Sum of S(1) to S(15) of an arbiter, but for the four of one register (R409, R434). -/
def slotSum (m : Sparse 12) (n but : Nat) : Nat :=
  (((List.range 16).filter fun k => decide (1 ≤ k) && decide (k / 4 ≠ but)).map fun k => (m.get (16 * n + k)).toNat).sum

/-- fbtab register i of the selected arbiter (R409): S(0) is what the others leave of 4,096. -/
def ModSt.readFbtab (m : ModSt) (i : Nat) : Word :=
  let s0 := 4096 - slotSum m.fbtab m.fbsel 4
  BitVec.ofNat 64 (((List.range 4).map fun j =>
    (if i = 0 && j = 0 then s0 % 4096 else (m.fbtab.get (16 * m.fbsel + 4 * i + j)).toNat) * 2 ^ (16 * j)).sum)

/-- CSRs of level 2 (R380, R409, R440, R443, R454, R458). -/
def State.readFirm (s : State) (c : Nat) : CsrRead :=
  let t := s.me
  let m := s.mod
  let p := s.part m.fpsel
  let ch := s.chan t.channel
  match c with
  | 0x200 => some (BitVec.ofNat 64 t.fplvl, s)
  | 0x201 => some (m.fvec, s)
  | 0x202 => some (t.fepc, s)
  | 0x203 => some (t.fscratch, s)
  | 0x210 => some (BitVec.ofNat 64 m.plog, s)
  | 0x211 => some (BitVec.ofNat 64 m.fpsel, s)
  | 0x212 => some (p.fpmem.setWidth 64, s)
  | 0x213 => some (p.fgrate.setWidth 64, s)
  | 0x214 => some (p.fgcap.setWidth 64, s)
  | 0x215 => some (p.fclmap.setWidth 64, s)
  | 0x218 => some (BitVec.ofNat 64 m.fbsel, s)
  | 0x240 => some (BitVec.ofNat 64 (t.fhsel.toNat % 2 ^ 16 + if ch.train then 2 ^ 16 else 0), s)
  | 0x241 => some (ch.dly.setWidth 64, s)
  | 0x242 => some (ch.rep.setWidth 64, s)
  | 0x243 => some (0, s)
  | 0x244 => some (t.fhres, s)
  | 0x250 => some (0, s)
  | 0x251 => some (BitVec.ofNat 64 m.svn, s)
  | 0x252 => some (m.fctest.setWidth 64, s)
  | 0x253 => some (0, s)
  | 0x260 => some (m.fmodid.setWidth 64, s)
  | _ =>
    if 0x208 ≤ c && decide (c < 0x210) then some ((t.ffrec[c - 0x208]?).getD 0, s)
    else if 0x219 ≤ c && decide (c < 0x21D) then some (m.readFbtab (c - 0x219), s)
    else if 0x220 ≤ c && decide (c < 0x240) then some ((m.fetab.get (c - 0x220)).setWidth 64, s)
    else none

/-- What the agent in execution reads from a CSR (R184, R262, R379): none where it may not name it. -/
def State.readCsr (s : State) (c : BitVec 12) : CsrRead :=
  let n := c.toNat
  if !s.onHart then s.readAccess n
  else if n < 0x100 then s.readUser n
  else if n < 0x200 then (if 1 ≤ s.me.lvl then s.readSuper n else none)
  else if 2 ≤ s.me.lvl then s.readFirm n
  else none

/-- A write to frm (R75): RM keeps its value where 5 to 7 is written. -/
def writeFrm (old v : Word) : Word :=
  let keep := v &&& 0xFFFFFFFF0FFF1F08#64
  keep ||| (if (v &&& 7#64).toNat ≤ 4 then v &&& 7#64 else old &&& 7#64)

/-- A write to a CSR that a hart and an access-unit context both name (R64, R262 to R264). -/
def State.writeShared (s : State) (c : Nat) (v : Word) : State :=
  let gi := s.who.gang
  match c with
  | 0x018 => s.writeCgroup gi (v.toNat % 256)
  | 0x019 => s.modGang gi fun g => { g with coll := g.coll.writeCop v }
  | 0x01A => s.modGang gi fun g => { g with coll := { g.coll with clen := v.toNat % 2 ^ 32 } }
  | 0x020 => s.modGang gi fun g => { g with qenW := v.setWidth 12 }
  | 0x02A => if 1 ≤ s.me.lvl then s.writeLgmode s.myCore v else s
  | _ => s

/-- A write to a CSR of an access-unit context (R262). -/
def State.writeAccess (s : State) (c : Nat) (v : Word) : State :=
  if c = 0x030 then s.setMe fun t => { t with avl := v.toNat % 2 ^ 32 } else s.writeShared c v

/-- A write to a CSR of a hart at every level (R64, R75, R80, R279). -/
def State.writeUser (s : State) (c : Nat) (v : Word) : State :=
  match c with
  | 0x008 => s.setMe fun t => { t with mshape := v.setWidth 25 }
  | 0x010 => s.setMe fun t => { t with frm := writeFrm t.frm v }
  | 0x011 => s.setMe fun t => { t with fflags := v.setWidth 6 }
  | _ => s.writeShared c v

/-- A write to sstatus (R380). -/
def Thread.writeSstatus (t : Thread) (v : Word) : Thread :=
  let n := v.toNat / 4 % 4
  { t with plvl := if n < 2 then n else t.plvl, supp := v.getLsbD 7, bskip := v.getLsbD 10 }

/-- A write to a CSR of level 1 (R380, R409). -/
def State.writeSuper (s : State) (c : Nat) (v : Word) : State :=
  let mine (f : PartSt → PartSt) : State := s.modPart s.myPart f
  let hi := 0x000FFFFFFFFFFFFF#64
  match c with
  | 0x100 => s.setMe fun t => t.writeSstatus v
  | 0x101 => mine fun p => { p with stvec := v &&& ~~~3#64 }
  | 0x102 => s.setMe fun t => { t with sepc := v }
  | 0x103 => s.setMe fun t => { t with sscratch := v }
  | 0x104 => s.setMe fun t => { t with sevent := t.sevent &&& ~~~v.setWidth 3 }
  | 0x105 => s.setMe fun t => { t with seventen := v.setWidth 3 }
  | 0x120 => mine fun p => { p with sxroot := v &&& hi &&& ~~~0xFFFF#64 }
  | 0x121 => mine fun p => { p with glean := v.getLsbD 0, keepsw := v.getLsbD 1, age := (v >>> 8).setWidth 8 }
  | 0x122 => mine fun p => { p with scpool := v &&& hi &&& ~~~0xFF#64 }
  | 0x123 => mine fun p => { p with scslot := v &&& 0x0000FFFFFFFFFF00#64 }
  | 0x124 => mine fun p => { p with sring := v &&& hi &&& ~~~0xFFE#64 }
  | 0x125 => mine fun p => { p with ssring := v &&& hi &&& ~~~0xFFE#64 }
  | _ =>
    if 0x110 ≤ c && decide (c < 0x114) then
      s.setMe fun t => { t with sbkpt := modifyAt t.sbkpt (c - 0x110) fun _ => v &&& ~~~2#64 }
    else s

/-- Whether a partition or a core holds something that forbids a new partition count (R407). The boot gang, which makes
the write, is not counted. -/
def State.busyPartition (s : State) : Bool :=
  (s.launches.any (·.queued)) ||
  (s.gangs.mapIdx (fun i g => (i, g))).any (fun x =>
    (x.2.st = .resident || x.2.st = .suspended) && decide (s.mod.bootGang ≠ some x.1)) ||
  (s.parts.any fun p => p.meshes.any MeshSlot.isOpen) || s.orch.any OrchSlice.anyTree

/-- A write to fpart (R407): none is ILLOP. -/
def State.writeFpart (s : State) (v : Word) : Option State :=
  if s.busyPartition then none
  else
    let s := { s with mod := { s.mod with plog := v.toNat % 4 } }
    some s.partitionResets

/-- A write to fgrate (R427, R463): ignored where the sum of all rates would pass 30,000, those of partitions that fpart
has taken away among them. -/
def State.writeFgrate (s : State) (v : Word) : State :=
  let others := ((List.range 8).filter (· ≠ s.mod.fpsel)).map fun p => (s.part p).fgrate.toNat
  if 30000 < others.sum + v.toNat % 2 ^ 32 then s
  else s.modPart s.mod.fpsel fun p => { p with fgrate := v.setWidth 32 }

/-- A write to fbtab i (R409, R434): the selected arbiter's table, from its next period; unchanged where the classes
would get more than 3,840 slots. -/
def State.writeFbtab (s : State) (i : Nat) (v : Word) : State :=
  let m := s.mod
  let f (j : Nat) : Nat := v.toNat / 2 ^ (16 * j) % 4096
  let js := if i = 0 then [1, 2, 3] else [0, 1, 2, 3]
  if 3840 < slotSum m.fbtab m.fbsel i + (js.map f).sum then s
  else { s with mod := { m with fbtab := js.foldl (fun (t : Sparse 12) j =>
      t.set (16 * m.fbsel + 4 * i + j) (BitVec.ofNat 12 (f j))) m.fbtab } }

/-- A write to fpmem (R408, R409). Firmware that has left a channel of a stack in training and takes the stack from
every partition reports it, at the write that takes the last (R442, R460; log 56). -/
def State.writeFpmem (s : State) (v : Word) : State :=
  let used (s : State) (st : Nat) : Bool := (List.range (2 ^ s.mod.plog)).any fun p => (s.part p).fpmem.getLsbD st
  let before := (List.range 8).filter (used s)
  let s := s.modPart s.mod.fpsel fun p => { p with fpmem := v.setWidth 21 }
  let down := before.filter fun st => !used s st && (List.range 32).any fun c => (s.chan (32 * st + c)).train
  match down.getLast? with
  | some st => { s with mod := { s.mod with event := s.mod.event ||| 8#5, evUnit := BitVec.ofNat 3 st } }
  | none => s

/-- A write to fhtest (R459): none is ILLOP. -/
def State.writeFhtest (s : State) (v : Word) : Option State :=
  if !(s.chan s.me.channel).train then none
  else
    some ({ s with free := s.free + 1 }.setMe fun t => { t with fhres := Config.channelAnswer s.free (v.setWidth 8) })

/-- A write to fctest (R440): none is ILLOP. -/
def State.writeFctest (s : State) (v : Word) : Option State :=
  if (s.core (v.toNat % 256)).held then some (s.coreTest (v.toNat % 256)) else none

/-- A write to frcommit (R440): none is ILLOP. -/
def State.writeFrcommit (s : State) : Option State := if s.mirrorOk then some s.commitMirror else none

/-- A write to fsvn (R440): a higher value is burned. -/
def State.writeFsvn (s : State) (v : Word) : State :=
  if s.mod.svn < v.toNat % 64 then { s with mod := { s.mod with fsvn := v.toNat % 64 } } else s

/-- A write to fboot (R443): READY lets gangs be placed on the cores that the boot has held (R447). -/
def State.writeFboot (s : State) (v : Word) : State :=
  { s with
    mod := { s.mod with bstat := v }
    cores := if v = 4 then s.cores.map fun c => { c with parked := false } else s.cores }

/-- A write to the selected channel (R458). -/
def State.modChan (s : State) (f : Chan → Chan) : State :=
  { s with mod := { s.mod with chans := modifyAt s.mod.chans s.me.channel f } }

/-- A write to a CSR of level 2 (R380, R409, R440, R443, R454, R458): none is ILLOP. -/
def State.writeFirm (s : State) (c : Nat) (v : Word) : Option State :=
  let mod (f : ModSt → ModSt) : Option State := some { s with mod := f s.mod }
  let sel (f : PartSt → PartSt) : Option State := some (s.modPart s.mod.fpsel f)
  match c with
  | 0x200 => some (s.setMe fun t => { t with fplvl := if v.toNat % 4 < 3 then v.toNat % 4 else t.fplvl })
  | 0x201 => mod fun m => { m with fvec := v &&& ~~~3#64 }
  | 0x202 => some (s.setMe fun t => { t with fepc := v })
  | 0x203 => some (s.setMe fun t => { t with fscratch := v })
  | 0x210 => s.writeFpart v
  | 0x211 => mod fun m => { m with fpsel := if v.toNat % 8 < 2 ^ m.plog then v.toNat % 8 else m.fpsel }
  | 0x212 => some (s.writeFpmem v)
  | 0x213 => some (s.writeFgrate v)
  | 0x214 => sel fun p => { p with fgcap := v.setWidth 63 }
  | 0x215 => sel fun p => { p with fclmap := v.setWidth 40 }
  | 0x218 => mod fun m => { m with fbsel := if v.toNat % 128 < 106 then v.toNat % 128 else m.fbsel }
  | 0x240 =>
    let s := s.setMe fun t => { t with fhsel := (v &&& 0x1F7#64).setWidth 17 }
    some (s.modChan fun c => { c with train := v.getLsbD 16 })
  | 0x241 => some (s.modChan fun c => { c with dly := (v &&& 0x7F7F#64).setWidth 15 })
  | 0x242 => some (s.modChan fun c => { c with rep := v.setWidth 12 })
  | 0x243 => s.writeFhtest v
  | 0x250 => some (s.writeFboot v)
  | 0x251 => some (s.writeFsvn v)
  | 0x252 => s.writeFctest v
  | 0x253 => s.writeFrcommit
  | 0x260 => mod fun m => { m with fmodid := v.setWidth 16 }
  | _ =>
    if 0x219 ≤ c && decide (c < 0x21D) then some (s.writeFbtab (c - 0x219) v)
    else if 0x220 ≤ c && decide (c < 0x240) then
      mod fun m => { m with fetab := m.fetab.set (c - 0x220) (v.setWidth 32) }
    else some s

/-- A write to a CSR that the agent in execution may name (R184): none is ILLOP. Fields that are read-only at its level
ignore it. -/
def State.writeCsr (s : State) (c : BitVec 12) (v : Word) : Option State :=
  let n := c.toNat
  if !s.onHart then some (s.writeAccess n v)
  else if n < 0x100 then some (s.writeUser n v)
  else if n < 0x200 then some (s.writeSuper n v)
  else s.writeFirm n v

/-- The three forms of CSR access (R184): read, write what `f` makes of the old value, if anything, then set gd. -/
def State.csr (s : State) (d : BitVec 6) (c : BitVec 12) (f : Word → Option Word) : Out :=
  s.agent (match s.readCsr c with
    | none => s.illop
    | some (t, s) =>
      match f t with
      | none => s.retWith d t
      | some v =>
        match s.writeCsr c v with
        | none => s.illop
        | some s => s.retWith d t)

/-- CSRRW (R184). -/
def execCsrrw (d a : BitVec 6) (c : BitVec 12) (s : State) : Out := s.csr d c fun _ => some (s.x a)

/-- CSRRS (R184). -/
def execCsrrs (d a : BitVec 6) (c : BitVec 12) (s : State) : Out :=
  s.csr d c fun t => if a = 0 then none else some (t ||| s.x a)

/-- CSRRC (R184). -/
def execCsrrc (d a : BitVec 6) (c : BitVec 12) (s : State) : Out :=
  s.csr d c fun t => if a = 0 then none else some (t &&& ~~~s.x a)

/-- The write of a CSR as a step of its own: what a CSR instruction of the agent in execution would write. -/
def State.csrStep (s : State) (c : BitVec 12) (v : Word) : Out :=
  if !s.live then .next s
  else
    match s.readCsr c with
    | none => s.illop
    | some _ =>
      match s.writeCsr c v with
      | none => s.illop
      | some s => .next s

/-- CSR_WRITE (R184). -/
def execCsrWrite (c : BitVec 12) (v : BitVec 64) (s : State) : Out := s.csrStep c v

/-- QEN_WRITE (R64): in effect at the next settlement. -/
def execQenWrite (v : BitVec 64) (s : State) : Out := s.csrStep 0x020 v

/-- CGROUP_WRITE (R263). -/
def execCgroupWrite (v : BitVec 64) (s : State) : Out := s.csrStep 0x018 v

/-- LGMODE_WRITE (R65): applied group by group at settlements. -/
def execLgmodeWrite (v : BitVec 64) (s : State) : Out := s.csrStep 0x02A v

/-- SEVENT_W1C (R380). -/
def execSeventW1c (v : BitVec 64) (s : State) : Out := s.csrStep 0x104 v

/-- SDSTAT_READ (R426): the read clears what it returns. -/
def execSdstatRead (s : State) : Out :=
  if !s.live then .next s
  else
    match s.readCsr 0x127 with
    | none => s.illop
    | some (_, s) => .next s

/-- FPART_WRITE (R407). -/
def execFpartWrite (v : BitVec 64) (s : State) : Out := s.csrStep 0x210 v

/-- FGRATE_WRITE (R427). -/
def execFgrateWrite (v : BitVec 64) (s : State) : Out := s.csrStep 0x213 v

/-- FBTAB_WRITE (R434). -/
def execFbtabWrite (k : Nat) (v : BitVec 64) (s : State) : Out :=
  if k < 4 then s.csrStep (0x219 + BitVec.ofNat 12 k) v else .next s

/-- FCTEST (R440). -/
def execFctest (v : BitVec 64) (s : State) : Out := s.csrStep 0x252 v

/-- FRCOMMIT (R440). -/
def execFrcommit (s : State) : Out := s.csrStep 0x253 0

/-- FSVN_WRITE (R440). -/
def execFsvnWrite (v : BitVec 64) (s : State) : Out := s.csrStep 0x251 v

/-- FHTEST (R459). -/
def execFhtest (v : BitVec 64) (s : State) : Out := s.csrStep 0x243 v

/-- FBOOT (R443). -/
def execFboot (v : BitVec 64) (s : State) : Out := s.csrStep 0x250 v

end Sys2Proof.Machine
end

