-- ==== Sys2Proof/Machine/Sync.lean ====
section
/-! DEFINITION. Fences, code visibility, sleeping on a word, gang barriers and WFI (R119, R122 to R126, R131 to R133,
R138, R179, R182, R183, R186, R403). -/

namespace Sys2Proof.Machine

/-- The wait of an acquire fence (R119, R122): the vector side, and the transfers of the hart; its scalar loads have
their values already. -/
def State.afterAcquire (s : State) (k : State → Out) : Out :=
  s.afterVector fun s =>
    match s.me.faultedXfer with
    | some x => s.trapXfer x
    | none => if s.me.matrixDrained && !s.me.xfers.any (·.holdsRelease) then k s else s.stallFor .busy

/-- FENCE (R182): kind 1 is acquire, 2 release and 3 full (R122). -/
def execFence (sc k : BitVec 3) (s : State) : Out :=
  s.agent (if k = 1 then s.afterAcquire fun s => s.ret else s.afterRelease sc.toNat fun s => s.ret)

/-- FENCE.SV (R119, R182). -/
def execFenceSv (s : State) : Out := s.hart (s.afterVector fun s => s.ret)

/-- Discard the instruction-cache lines of a partition on a core (R138, R183). -/
def State.dropLines (s : State) (core part : Nat) (p : Nat → Bool) : State :=
  s.modCore core fun c => { c with icache := c.icache.filter fun l => !(l.1 = part && p l.2.1) }

/-- IFENCE (R183): the earlier scalar instructions of the hart have retired, since they retire in order. -/
def execIfence (s : State) : Out := s.hart ((s.dropLines s.myCore s.myPart fun _ => true).ret)

/-- Registrations that an owner's wait table holds (R179). -/
def tableSize (owner : Nat) : Nat := if owner < 10 then 2048 else 64

/-- WAITW (R179, R180): the comparison and the registration are one step at the owner. The hart's own earlier stores to
the sector come first (R116). -/
def execWaitw (d a b : BitVec 6) (s : State) : Out :=
  s.agent (
    let ga := s.x a
    let addr := ga &&& ~~~7#64
    if (ga >>> 1) &&& 3#64 ≠ 0 then s.trapMem ⟨cALIGN, ga⟩ .read
    else
      s.scalarAccess .read addr 8 fun s p =>
        let s := s.setMe (·.closeSlice 0)
        let own := match p with
          | .mem pa => s.me.wc.any fun e => e.gang.isNone && e.sector = pa / 32
          | _ => false
        if own || s.stalled p then s.stallFor .busy
        else
          let m : Word := BitVec.ofNat 64 (s.seenAt s.who p 8)
          let s := (s.noteRead s.who p 8).chargeAt s.who.gang p 8
          let owner := ownerOf s.myCore p
          let full := decide (tableSize owner ≤ (s.sleepers.filter fun r => r.owner = owner).length)
          if m ≠ s.x b || full then s.retWith d m
          else
            let key := keyOf s.who.gang p
            let s := { s with sleepers := s.sleepers ++ [Sleeper.mk owner key s.who.gang s.hartNo] }
            let s := s.setMe fun t => { t with
              wait := .word d.toNat key (ga.getLsbD 0) (m.toNat / 2 ^ 40 % 2 ^ 24), stall := .none }
            .next (s.directedYield s.who))

/-- The arrival of the hart in execution at its gang's barrier (R34, R131, R186). -/
def State.arriveMe (s : State) (drop : Bool) : State := s.modGang s.who.gang fun g => g.arrive s.hartNo drop

/-- Wait while PEND = 1 (R186). A BARSYNC whose ARRIVED bit was set already waits on that earlier arrival, as R186 has
it, where R34 says that such an arrival does not wait (DEDUCED, log 94). -/
def State.awaitPhase (s : State) : Out :=
  if s.me.pend then .next (s.setMe fun t => { t with wait := .barrier, stall := .none }) else s.ret

/-- The wait of a barrier arrival: the gang-scope release (R131), and every earlier matrix instruction of the hart
(R284). A handler's arrival does not wait for those that FRZ holds, as its release does not (R384; DEDUCED, log 123). -/
def State.beforeArrival (s : State) (k : State → Out) : Out :=
  s.afterRelease 1 fun s => if s.me.frz || s.me.mq.isEmpty then k s else s.stallFor .busy

/-- BARSYNC (R186). -/
def execBarsync (s : State) : Out := s.hart (s.beforeArrival fun s => (s.arriveMe false).awaitPhase)

/-- BARRIVE (R186). -/
def execBarrive (s : State) : Out := s.hart (s.beforeArrival fun s => (s.arriveMe false).ret)

/-- BARDROP (R186). -/
def execBardrop (s : State) : Out := s.hart (s.beforeArrival fun s => (s.arriveMe true).ret)

/-- BARWAIT (R186). -/
def execBarwait (s : State) : Out := s.hart s.awaitPhase

/-- An enabled event is pending (R403). -/
def Thread.eventPending (t : Thread) : Bool := decide (t.sevent &&& t.seventen ≠ 0)

/-- WFI (R403). -/
def execWfi (s : State) : Out :=
  s.privileged 1 (
    if s.me.eventPending then s.ret else .next (s.setMe fun t => { t with wait := .wfi, stall := .none }))

end Sys2Proof.Machine
end

