-- ==== Sys2Proof/Machine/Priv.lean ====
section
/-! DEFINITION. Privileged instructions: TRET, the context commands and their steps, XLINV, FWCALL and HALTC (R382,
R384, R385, R395 to R398, R402, R404, R405, R417, R418). -/

namespace Sys2Proof.Machine

/-- TRAP_ENTRY (R382, R383): a hart takes a cause that is pending for it, at its next boundary, once its earlier loads
have completed (R166). -/
def execTrapEntry (ag : Agent) (s : State) : Out :=
  let g := s.gangOf ag.gang
  let t := (s.thread? ag).getD .empty
  .next (match ag.role with
    | .hart h =>
      if g.st = .resident && g.haltReq.isNone && !(s.core g.core).stopped && !t.ended && !t.debug &&
          !(s.pendingCauses ag.gang h).isEmpty then
        match s.performFlight ag with
        | some s => s.takePending ag.gang h
        | none => s
      else s
    | .access => s)

/-- TRET (R385): an access-unit context that the return's own trap came from goes on. -/
def execTret (s : State) : Out :=
  s.privileged 1 (
    let t := s.me
    let src := ((((if t.lvl = 2 then t.ffrec else t.sfrec)[0]?).getD 0).toNat / 2 ^ 16) % 16
    let s := s.returnTrap
    .next (if src = 3 then s.resumeAccess else s))

/-- The dwords of a context command, read as the hart's own loads (R167, R397). -/
def State.readCommand (s : State) (va : Word) : Nat → (State → List Word → Out) → Out
  | 0, k => k s []
  | n + 1, k => s.scalarLoad va 8 fun s v => s.readCommand (va + 8) n fun s vs => k s (BitVec.ofNat 64 v :: vs)

/-- OP of a context command (R396). -/
def cmdOp (w : List Word) : Nat := ((w[0]?).getD 0).toNat / 2 ^ 48 % 256
/-- ROLE. -/
def cmdRole (w : List Word) : Nat := ((w[0]?).getD 0).toNat / 2 ^ 40 % 256
/-- GANG. -/
def cmdGang (w : List Word) : Nat := ((w[0]?).getD 0).toNat / 2 ^ 16 % 2 ^ 24
/-- LID. -/
def cmdLid (w : List Word) : Nat := ((w[0]?).getD 0).toNat % 2 ^ 16

/-- BADCMD (R398). -/
def badCommand (load : Bool) (w : List Word) : Bool :=
  let d (k : Nat) : Word := (w[k]?).getD 0
  let op := cmdOp w
  let role := cmdRole w
  let debug := if load then op = 1 else op = 3
  decide (2 ^ 56 ≤ (d 0).toNat) || decide (d 5 ≠ 0) || decide (d 6 ≠ 0) || decide (d 7 ≠ 0) ||
  decide ((if load then 1 else 3) < op) || (if debug then decide (7 < role) && decide (role ≠ 255) else decide (role ≠ 0)) ||
  decide ((d 1).toNat % 256 ≠ 0) || decide ((d 4).toNat % 8 ≠ 0) || inWindow (d 4).toNat

/-- The place of a gang of a launch in the list of gangs, if it has been placed. -/
def State.gangIndex (s : State) (li number : Nat) : Option Nat :=
  s.gangs.findIdx? fun g => g.launch = li && g.number = number

/-- A status address that nothing is written to. -/
def noStatus : Word := BitVec.allOnes 64

/-- Ask for the end of a placed gang; one that is not on a running core ends at once (R397, R448). -/
def State.askKill (s : State) (gi outcome : Nat) : State :=
  let g := s.gangOf gi
  if g.st = .resident && !(s.core g.core).stopped then s.modGang gi fun g => { g with haltReq := some 5 }
  else s.killGang gi outcome

/-- A gang never placed is killed (R26, R397). -/
def State.killFresh (s : State) (li number : Nat) : State :=
  (s.modLaunch li fun l => { l with killed := l.killed ++ [number] }).countRetired li 1 2

/-- Break every group that lists a gang of a launch (R271, R397). -/
def State.breakGroups (s : State) (li : Nat) : State :=
  match s.launch? li with
  | none => s
  | some l =>
    let mine (e : GroupEntry) : Bool := e.ranks.any fun r => r.1 = s.mod.fmodid.toNat % 2 ^ 16 && r.2.1 = l.lid
    ((s.part l.part).groups.filter mine).foldl (fun s e => s.breakGroup l.part e.gidx) s

/-- The end of a launch (R397, R448): its groups break, OUTCOME is 1, and every gang of it is to end. -/
def State.killLaunch (s : State) (li : Nat) : State :=
  match s.launch? li with
  | none => s
  | some l =>
    let s := s.breakGroups li
    let fresh := ((List.range (l.gangs - l.next)).map (l.next + ·)).filter fun k => !l.killed.contains k
    let s := s.modLaunch li fun l => { l with outcome := 1, next := l.gangs }
    let mine := (List.range s.gangs.length).filter fun i =>
      (s.gangOf i).launch = li && decide ((s.gangOf i).st ≠ .retired)
    let s := mine.foldl (fun s gi => s.askKill gi 1) s
    s.countRetired li fresh.length 1

/-- Queue a context command (R397). A kill of the issuer's own gang takes hold at once and writes no status (R398). -/
def State.queueCommand (s : State) (load : Bool) (w : List Word) : State :=
  let d (k : Nat) : Word := (w[k]?).getD 0
  let part := s.myPart
  let li := (s.launches.findIdx? fun l => l.part = part && l.lid = cmdLid w && !l.complete).getD s.launches.length
  let bad := badCommand load w
  let own := !bad && !load && li = s.myGang.launch &&
    (cmdOp w = 2 || (cmdOp w = 1 && cmdGang w = s.myGang.number))
  let c : CtxCmd :=
    { op := cmdOp w, load := load, gang := 2 ^ 64, role := cmdRole w, image := d 1, imageLen := (d 2).toNat, keep := d 3
      status := if own then noStatus else d 4, issuer := s.who, part := part, launch := li
      number := cmdGang w, begun := own && cmdOp w = 2, result := if bad then some (2 ^ 63 + 1, 0) else none }
  let s := { s with ctx := s.ctx ++ [c] }
  if !own then s else if cmdOp w = 2 then s.killLaunch li else s.askKill s.who.gang 2

/-- CTXSAVE and CTXLOAD up to their retirement (R397): the wait, then the checks of R167 on the command, in their order, its
alignment being that of 64 bytes. -/
def State.context (s : State) (load : Bool) (va : Word) : Out :=
  s.privileged 1 (
    s.afterVector fun s =>
      if tooWide va then s.trapMem ⟨cXLAT, va⟩ .read
      else if va.toNat % 64 ≠ 0 then s.trapMem ⟨cALIGN, va⟩ .read
      else s.readCommand va 8 fun s w => (s.queueCommand load w).ret)

/-- CTXSAVE (R397). -/
def execCtxsave (a : BitVec 6) (s : State) : Out := s.context false (s.x a)

/-- CTXLOAD (R397). -/
def execCtxload (a : BitVec 6) (s : State) : Out := s.context true (s.x a)

/-- Change a context command. -/
def State.modCmd (s : State) (c : Nat) (f : CtxCmd → CtxCmd) : State := { s with ctx := modifyAt s.ctx c f }

/-- Give a command its status (R398). -/
def State.answerCmd (s : State) (c v extra : Nat) : State := s.modCmd c fun x => { x with result := some (v, extra) }

/-- A command takes hold of a gang. -/
def State.beginCmd (s : State) (c gi : Nat) : State := s.modCmd c fun x => { x with begun := true, gang := gi }

/-- Status NOTFOUND (R398). -/
def cNOTFOUND : Nat := 2 ^ 63 + 2
/-- Status SELF. -/
def cSELF : Nat := 2 ^ 63 + 3
/-- Status SMALL. -/
def cSMALL : Nat := 2 ^ 63 + 4
/-- Status BADIMAGE. -/
def cBADIMAGE : Nat := 2 ^ 63 + 5
/-- Status BUSY. -/
def cBUSY : Nat := 2 ^ 63 + 6
/-- Status FAULT. -/
def cFAULT : Nat := 2 ^ 63 + 7

/-- Another command on a gang is in flight (R398). -/
def State.cmdBusy (s : State) (c gi : Nat) : Bool :=
  (s.ctx.mapIdx fun i x => (i, x)).any fun y =>
    decide (y.1 ≠ c) && y.2.begun && y.2.result.isNone &&
      (y.2.gang = gi || (y.2.op = 2 && !y.2.load && y.2.launch = (s.gangOf gi).launch))

/-- A step of the command of an operation that has no status yet. -/
def State.onCmd (s : State) (c op : Nat) (load : Bool) (f : CtxCmd → State) : State :=
  match s.ctx[c]? with
  | some x => if x.op = op && x.load = load && x.result.isNone then f x else s
  | none => s

/-- The gang of a command in flight has retired before it could take effect (R398). -/
def State.lostCmd (s : State) (c : Nat) (x : CtxCmd) : State :=
  if (s.gangOf x.gang).st = .retired then s.answerCmd c cNOTFOUND 0 else s

/-- Whether a gang is resident on a core that runs (R398, R448; log 108). -/
def State.onCore (s : State) (gi : Nat) : Bool :=
  decide ((s.gangOf gi).st = .resident) && !(s.core (s.gangOf gi).core).stopped

/-- SUSPEND (R397): a halt request, unless the gang is already to leave its core; with it go those that are suspended
together with it (R20). -/
def execSuspend (c : Nat) (s : State) : Out :=
  .next (s.onCmd c 0 false fun x =>
    if x.begun then (if s.onCore x.gang then s else s.answerCmd c cNOTFOUND 0)
    else
      match s.gangIndex x.launch x.number with
      | none => s.answerCmd c cNOTFOUND 0
      | some gi =>
        let g := s.gangOf gi
        if !s.onCore gi then s.answerCmd c cNOTFOUND 0
        else if x.issuer.gang = gi then s.answerCmd c cSELF 0
        else if s.cmdBusy c gi then s.answerCmd c cBUSY 0
        else if g.haltReq = some 4 || g.haltReq = some 5 then s
        else (s.beginCmd c gi).askHalt gi 1)

/-- KILLGANG (R397). -/
def execKillgang (c : Nat) (s : State) : Out :=
  .next (s.onCmd c 1 false fun x =>
    if x.begun then s.lostCmd c x
    else
      match s.gangIndex x.launch x.number with
      | some gi =>
        if (s.gangOf gi).st = .retired then s.answerCmd c cNOTFOUND 0
        else if s.cmdBusy c gi then s.answerCmd c cBUSY 0
        else
          let s := (s.beginCmd c gi).askKill gi 2
          if (s.gangOf gi).st = .retired then s.answerCmd c 1 0 else s
      | none =>
        match s.launch? x.launch with
        | some l =>
          if l.complete || decide (l.gangs ≤ x.number) || l.killed.contains x.number then s.answerCmd c cNOTFOUND 0
          else (s.killFresh x.launch x.number).answerCmd c 1 0
        | none => s.answerCmd c cNOTFOUND 0)

/-- KILLLAUNCH (R397, R448): OUTCOME 1; its status follows the end of its last gang. -/
def execKilllaunch (c : Nat) (s : State) : Out :=
  .next (s.onCmd c 2 false fun x =>
    match s.launch? x.launch with
    | none => s.answerCmd c cNOTFOUND 0
    | some l =>
      if x.begun then (if l.complete then s.answerCmd c 1 0 else s)
      else if l.complete then s.answerCmd c cNOTFOUND 0
      else (s.modCmd c fun x => { x with begun := true }).killLaunch x.launch)

/-- The role of a DHALT or DRESUME. -/
def CtxCmd.agent (x : CtxCmd) (gi : Nat) : Agent := ⟨gi, if x.role = 255 then .access else .hart x.role⟩

/-- A role stops for a debugger as a trapping hart does (R383, R402): its queues freeze, and it keeps what it waited for,
but for a registration. One that is halted already stays as it is. -/
def State.stopRole (s : State) (a : Agent) : State :=
  let s := { s with sleepers := s.sleepers.filter fun r => r.agent ≠ a }
  s.modThread a fun t =>
    if t.debug then t else { t with debug := true, frz := true, halted := t.wait, wait := .none, stall := .none }

/-- A role goes on after a debugger (R387, R402); the queues of a handler stay frozen. -/
def Thread.goOn (t : Thread) : Thread :=
  { t with
    debug := false, frz := t.frz && decide (t.lvl ≠ t.dlvl), halted := .none, vq := t.vq.map (·.afresh)
    wait := match t.halted with
      | .gd n => .gd n
      | .barrier => .barrier
      | .granted k d ga gb fair gs => .granted k d ga gb fair gs
      | _ => .none }

/-- DHALT (R402): the record of the role is written to IMAGE. -/
def execDhalt (c : Nat) (s : State) : Out :=
  .next (s.onCmd c 3 false fun x =>
    match s.gangIndex x.launch x.number with
    | none => s.answerCmd c cNOTFOUND 0
    | some gi =>
      let g := s.gangOf gi
      let a := x.agent gi
      match s.thread? a with
      | none => s.answerCmd c cNOTFOUND 0
      | some _ =>
        if !s.onCore gi then s.answerCmd c cNOTFOUND 0
        else if x.issuer.gang = gi then s.answerCmd c cSELF 0
        else if s.cmdBusy c gi then s.answerCmd c cBUSY 0
        else if g.haltReq.isSome then s
        else if x.imageLen < 8192 then s.answerCmd c cSMALL 8192
        else
          match s.performFlight a, s.blocksAt x.part (s.nowLevel x.issuer) .write x.image.toNat 32 with
          | none, _ => s
          | some _, none => s.answerCmd c cFAULT 0
          | some s, some blocks =>
            if blocks.any s.training then s else
            let t := (s.thread? a).getD .empty
            let img := freeBytes (freeBytes (t.image g [] 0) s.free 512 512) s.free 7168 1024
            let s := { s with mem := writeBlocks s.mem img 0 blocks, free := s.free + 1 }.chargeBlocks gi blocks
            (s.stopRole a).answerCmd c 1 0)

/-- RESUME (R397, R398): the image is read at the issuer's present level (R412), and the gang is placed ahead of the others;
the status follows its placement. -/
def execResume (c : Nat) (s : State) : Out :=
  .next (s.onCmd c 0 true fun x =>
    if x.begun then s.lostCmd c x
    else
      match s.gangIndex x.launch x.number with
      | none => s.answerCmd c cNOTFOUND 0
      | some gi =>
        let g := s.gangOf gi
        if g.st ≠ .suspended || g.image ≠ x.image then s.answerCmd c cNOTFOUND 0
        else if s.cmdBusy c gi then s.answerCmd c cBUSY 0
        else if s.imageWaits gi (s.nowLevel x.issuer) then s
        else
          match s.readImage gi (s.nowLevel x.issuer) with
          | none => s.answerCmd c cFAULT 0
          | some none => s.answerCmd c cBADIMAGE 0
          | some (some _) =>
            { s.beginCmd c gi with stamp := s.stamp + 1 }.modGang gi fun g =>
              if g.resume.isSome then g else { g with resume := some s.stamp })

/-- DRESUME (R402): pc and the registers are read from IMAGE. -/
def execDresume (c : Nat) (s : State) : Out :=
  .next (s.onCmd c 1 true fun x =>
    match s.gangIndex x.launch x.number with
    | none => s.answerCmd c cNOTFOUND 0
    | some gi =>
      let a := x.agent gi
      let t := (s.thread? a).getD .empty
      if !s.onCore gi || !t.debug then s.answerCmd c cNOTFOUND 0
      else if s.cmdBusy c gi then s.answerCmd c cBUSY 0
      else
        match s.blocksAt x.part (s.nowLevel x.issuer) .read x.image.toNat 2 with
        | none => s.answerCmd c cFAULT 0
        | some blocks =>
          if blocks.any s.training then s else
          let rec_ := (List.range 64).map fun i =>
            BitVec.ofNat 64 (s.mem.read ((blocks[8 * i / 256]?).getD 0 + 8 * i % 256) 8)
          let n := if x.role = 255 then 31 else 63
          ((s.chargeBlocks gi blocks).modThread a fun t => (t.loadRecord n rec_).goOn).answerCmd c 1 0)

/-- CONTEXT_COMMAND_STATUS (R397, R398): the status word is written, with the length after it for SMALL, and CTXDONE is
set in the issuer's context. A word that cannot be reached is not written; one in training waits (R459). -/
def execContextCommandStatus (c : Nat) (s : State) : Out :=
  .next (match s.ctx[c]? with
    | none => s
    | some x =>
      match x.result with
      | none => s
      | some (v, extra) =>
        let place (k : Nat) : Option Nat :=
          if x.status.toNat % 8 ≠ 0 || tooWide x.status || inWindow x.status.toNat then none
          else (s.imagePlace x.part (s.nowLevel x.issuer) .write (x.status.toNat + 8 * k)).toOption
        let put (k v : Nat) (s : State) : State := match place k with
          | some pa => { s with mem := s.mem.write pa 8 v }.chargeAt x.issuer.gang (.mem pa) 8
          | none => s
        let long := decide (v = cSMALL)
        if ((place 0).any s.training) || (long && (place 1).any s.training) then s
        else
          let s' := { s with ctx := s.ctx.eraseIdx c }
          if (place 0).isNone then s'
          else (if long then put 1 (extra * 2 ^ 32) (put 0 v s') else put 0 v s').modThread x.issuer fun t =>
            { t with sevent := t.sevent ||| 2 })

/-- Bytes [lo, hi) that XLINV invalidates (R417). -/
def invalidRange (ga gb : Word) : Nat × Nat :=
  if gb.getLsbD 63 then (0, 2 ^ 52) else (ga.toNat, min (ga.toNat + 65536 * (gb.toNat % 2 ^ 32)) (2 ^ 52))

/-- Remove the entries of a partition whose page holds a byte of a range. -/
def dropLeaves (part lo hi : Nat) (c : List Leaf) : List Leaf :=
  c.filter fun l => !(l.part = part && decide (lo < hi) && decide (l.va < hi) && decide (lo < l.va + l.size))

/-- A core's caches without a range of a partition (R417). -/
def CoreSt.dropRange (c : CoreSt) (part lo hi : Nat) : CoreSt :=
  let inRange (l : Nat × Nat × List (BitVec 8)) : Bool :=
    l.1 = part && decide (lo < hi) && decide (32 * l.2.1 < hi) && decide (lo < 32 * l.2.1 + 32)
  { c with tcache := dropLeaves part lo hi c.tcache, icache := c.icache.filter fun l => !inRange l }

/-- An access-unit context's cache without a range of a partition. -/
def Gang.dropRange (g : Gang) (part lo hi : Nat) : Gang :=
  { g with access := { g.access with tcache := dropLeaves part lo hi g.access.tcache } }

/-- Step 2 of XLINV (R417): translation caches and instruction-cache lines of the partition. -/
def State.invalidate (s : State) (part lo hi : Nat) : State :=
  { s with
    cores := s.cores.map fun c => c.dropRange part lo hi
    gangs := s.gangs.map fun g => g.dropRange part lo hi }

/-- What XLINV waits for in step 3 (R417): far gathers of the partition over the range, and the stores and the loads in
flight in the pages of the largest size that the range touches, so that all which a removed entry has translated are among
them. -/
def State.stillUsed (s : State) (part lo hi : Nat) : Bool :=
  let first := lo / 2 ^ 34
  let last := (hi - 1) / 2 ^ 34
  let near (va : Nat) : Bool := decide (first ≤ va / 2 ^ 34) && decide (va / 2 ^ 34 ≤ last)
  decide (lo < hi) && s.gangs.any fun g =>
    g.st = .resident && s.partOfCore g.core = part &&
    (g.harts ++ [g.access]).any fun t =>
      (t.xfers.any fun x => (match x.kind with
        | .far _ => true
        | _ => false) && match x.rd with
        | some (b, n) => decide (b < hi) && decide (lo < b + n)
        | none => false) ||
      (t.wc.any fun e => near (32 * e.vsec)) || match t.flight with
        | some f => near f.va
        | none => false

/-- XLINV (R417, R418). -/
def execXlinv (a b : BitVec 6) (s : State) : Out :=
  s.privileged 1 (
    let ga := s.x a
    let gb := s.x b
    let all_ := gb.getLsbD 63
    if (gb >>> 32) &&& 0x7FFFFFFF#64 ≠ 0 || (!all_ && (ga.toNat % 65536 ≠ 0 || tooWide ga)) then s.illop
    else
      s.afterVector fun s =>
        if !s.storesDrained 4 then s.stallFor .busy
        else
          let (lo, hi) := invalidRange ga gb
          let s := s.invalidate s.myPart lo hi
          if s.stillUsed s.myPart lo hi then s.stallFor .busy else s.ret)

/-- FWCALL (R404): a trap to level 2 with CODE 0 and SUB 1 that returns to the next word; a cause already pending comes
first (R382). -/
def execFwcall (s : State) : Out :=
  s.privileged 1 (
    let gi := s.who.gang
    let c : Cause := { s.scalarCause 0 0 0 with sub := 1 }
    .next (match firstCause (s.pendingCauses gi s.hartNo) with
      | some _ => s.takePending gi s.hartNo
      | none => (s.setMe Thread.retire).enterTrap gi s.hartNo c))

/-- Resident gangs on a core are still to leave it. -/
def State.leaving (s : State) (core : Nat) : Bool :=
  s.gangs.any fun g => g.st = .resident && g.core = core && g.haltReq.isSome

/-- Release a core (R405, R447). -/
def State.releaseCore (s : State) (core : Nat) : State := s.modCore core fun c => { c with held := false, parked := false }

/-- HALTC (R405): the hart waits until every image is settled. A SUSPEND already begun stays one (R398). -/
def execHaltc (a : BitVec 6) (s : State) : Out :=
  s.privileged 2 (
    let ga := s.x a
    let core := ga.toNat % 256
    if 2 ^ 9 ≤ ga.toNat || (!ga.getLsbD 8 && core = s.myCore) then s.illop
    else if ga.getLsbD 8 then (s.releaseCore core).ret
    else
      let s := s.modCore core fun c => { c with held := true }
      let there := (List.range s.gangs.length).filter fun i =>
        let g := s.gangOf i
        decide (g.st = .resident) && decide (g.core = core) && decide (g.haltReq ≠ some 5)
      let s := (there.flatMap s.together).foldl (fun s i => s.modGang i fun g =>
        { g with haltReq := if g.haltReq = some 1 then some 1 else some 4 }) s
      if s.leaving core then .next (s.setMe fun t => { t with wait := .haltc core, stall := .none }) else s.ret)

/-- HALTC with ga[8] = 1 (R405). -/
def execHaltcRelease (a : BitVec 6) (s : State) : Out :=
  s.privileged 2 (
    let ga := s.x a
    if 2 ^ 9 ≤ ga.toNat || !ga.getLsbD 8 then s.illop else (s.releaseCore (ga.toNat % 256)).ret)

end Sys2Proof.Machine
end

