-- ==== Sys2Proof/Machine/Scalar.lean ====
section
/-! DEFINITION. Integer arithmetic, logic, shifts, immediates, branches and jumps (R168 to R170, R174). -/

namespace Sys2Proof.Machine

/-- 1 or 0 in a register. -/
def boolWord (b : Bool) : Word := if b then 1 else 0

/-- The bits from 127 to 64 of a product. -/
def highBits (x : Int) : Word := BitVec.ofInt 64 (x / 2 ^ 64)

/-- DIV (R169). -/
def divWord (a b : Word) : Word := if b = 0 then BitVec.allOnes 64 else BitVec.ofInt 64 (a.toInt.tdiv b.toInt)

/-- REM (R169). -/
def remWord (a b : Word) : Word := if b = 0 then a else BitVec.ofInt 64 (a.toInt.tmod b.toInt)

/-- DIVU (R169). -/
def divuWord (a b : Word) : Word := if b = 0 then BitVec.allOnes 64 else BitVec.ofNat 64 (a.toNat / b.toNat)

/-- REMU (R169). -/
def remuWord (a b : Word) : Word := if b = 0 then a else BitVec.ofNat 64 (a.toNat % b.toNat)

/-- Leading zeros (R168). -/
def clzWord (a : Word) : Word := BitVec.ofNat 64 (if a = 0 then 64 else 63 - Nat.log2 a.toNat)

/-- Trailing zeros (R168). -/
def ctzWord (a : Word) : Word :=
  BitVec.ofNat 64 (((List.range 64).find? fun i => a.getLsbD i).getD 64)

/-- The 14-bit immediate, sign-extended (R141). -/
def sextI (i : BitVec 14) : Word := i.signExtend 64

/-- The 14-bit immediate, zero-extended (R141). -/
def zextI (i : BitVec 14) : Word := i.setWidth 64

/-- The 20-bit immediate, sign-extended (R141). -/
def sextW (w : BitVec 20) : Word := w.signExtend 64

/-- A scalar instruction that writes a computed value and retires (R166). -/
def State.alu (s : State) (d : BitVec 6) (v : Word) : Out := s.agent (s.retWith d v)

/-- ADD (R168). -/
def execAdd (d a b : BitVec 6) (s : State) : Out := s.alu d (s.x a + s.x b)

/-- SUB (R168). -/
def execSub (d a b : BitVec 6) (s : State) : Out := s.alu d (s.x a - s.x b)

/-- AND (R168). -/
def execAnd (d a b : BitVec 6) (s : State) : Out := s.alu d (s.x a &&& s.x b)

/-- OR (R168). -/
def execOr (d a b : BitVec 6) (s : State) : Out := s.alu d (s.x a ||| s.x b)

/-- XOR (R168). -/
def execXor (d a b : BitVec 6) (s : State) : Out := s.alu d (s.x a ^^^ s.x b)

/-- ANDN (R168). -/
def execAndn (d a b : BitVec 6) (s : State) : Out := s.alu d (s.x a &&& ~~~s.x b)

/-- SLL (R168). -/
def execSll (d a b : BitVec 6) (s : State) : Out := s.alu d (s.x a <<< ((s.x b).toNat % 64))

/-- SRL (R168). -/
def execSrl (d a b : BitVec 6) (s : State) : Out := s.alu d (s.x a >>> ((s.x b).toNat % 64))

/-- SRA (R168). -/
def execSra (d a b : BitVec 6) (s : State) : Out := s.alu d ((s.x a).sshiftRight ((s.x b).toNat % 64))

/-- SLT (R168). -/
def execSlt (d a b : BitVec 6) (s : State) : Out := s.alu d (boolWord ((s.x a).slt (s.x b)))

/-- SLTU (R168). -/
def execSltu (d a b : BitVec 6) (s : State) : Out := s.alu d (boolWord ((s.x a).ult (s.x b)))

/-- SEQ (R168). -/
def execSeq (d a b : BitVec 6) (s : State) : Out := s.alu d (boolWord (s.x a = s.x b))

/-- MIN (R168). -/
def execMin (d a b : BitVec 6) (s : State) : Out := s.alu d (if (s.x a).slt (s.x b) then s.x a else s.x b)

/-- MAX (R168). -/
def execMax (d a b : BitVec 6) (s : State) : Out := s.alu d (if (s.x a).slt (s.x b) then s.x b else s.x a)

/-- MINU (R168). -/
def execMinu (d a b : BitVec 6) (s : State) : Out := s.alu d (if (s.x a).ult (s.x b) then s.x a else s.x b)

/-- MAXU (R168). -/
def execMaxu (d a b : BitVec 6) (s : State) : Out := s.alu d (if (s.x a).ult (s.x b) then s.x b else s.x a)

/-- MUL (R168). -/
def execMul (d a b : BitVec 6) (s : State) : Out := s.alu d (s.x a * s.x b)

/-- MULH (R168). -/
def execMulh (d a b : BitVec 6) (s : State) : Out := s.alu d (highBits ((s.x a).toInt * (s.x b).toInt))

/-- MULHU (R168). -/
def execMulhu (d a b : BitVec 6) (s : State) : Out := s.alu d (highBits ((s.x a).toNat * (s.x b).toNat : Nat))

/-- DIV (R169). -/
def execDiv (d a b : BitVec 6) (s : State) : Out := s.alu d (divWord (s.x a) (s.x b))

/-- DIVU (R169). -/
def execDivu (d a b : BitVec 6) (s : State) : Out := s.alu d (divuWord (s.x a) (s.x b))

/-- REM (R169). -/
def execRem (d a b : BitVec 6) (s : State) : Out := s.alu d (remWord (s.x a) (s.x b))

/-- REMU (R169). -/
def execRemu (d a b : BitVec 6) (s : State) : Out := s.alu d (remuWord (s.x a) (s.x b))

/-- CLZ (R168). -/
def execClz (d a : BitVec 6) (s : State) : Out := s.alu d (clzWord (s.x a))

/-- CTZ (R168). -/
def execCtz (d a : BitVec 6) (s : State) : Out := s.alu d (ctzWord (s.x a))

/-- POPC (R168). -/
def execPopc (d a : BitVec 6) (s : State) : Out := s.alu d (BitVec.ofNat 64 (popcount (s.x a)))

/-- ADDI (R170). -/
def execAddi (d a : BitVec 6) (i : BitVec 14) (s : State) : Out := s.alu d (s.x a + sextI i)

/-- ANDI (R170). -/
def execAndi (d a : BitVec 6) (i : BitVec 14) (s : State) : Out := s.alu d (s.x a &&& zextI i)

/-- ORI (R170). -/
def execOri (d a : BitVec 6) (i : BitVec 14) (s : State) : Out := s.alu d (s.x a ||| zextI i)

/-- XORI (R170). -/
def execXori (d a : BitVec 6) (i : BitVec 14) (s : State) : Out := s.alu d (s.x a ^^^ zextI i)

/-- SLTI (R170). -/
def execSlti (d a : BitVec 6) (i : BitVec 14) (s : State) : Out := s.alu d (boolWord ((s.x a).slt (sextI i)))

/-- SLTIU (R170). -/
def execSltiu (d a : BitVec 6) (i : BitVec 14) (s : State) : Out := s.alu d (boolWord ((s.x a).ult (sextI i)))

/-- SLLI (R170). -/
def execSlli (d a sc : BitVec 6) (s : State) : Out := s.alu d (s.x a <<< sc.toNat)

/-- SRLI (R170). -/
def execSrli (d a sc : BitVec 6) (s : State) : Out := s.alu d (s.x a >>> sc.toNat)

/-- SRAI (R170). -/
def execSrai (d a sc : BitVec 6) (s : State) : Out := s.alu d ((s.x a).sshiftRight sc.toNat)

/-- LUI (R170). -/
def execLui (d : BitVec 6) (w : BitVec 20) (s : State) : Out := s.alu d (sextW w <<< 14)

/-- ADDPC (R170). -/
def execAddpc (d : BitVec 6) (w : BitVec 20) (s : State) : Out := s.alu d (s.pc + (sextW w <<< 14))

/-- A conditional branch (R174): the immediate counts words from the branch's own address. -/
def State.branch (s : State) (c : Bool) (i : BitVec 14) : Out :=
  s.agent (if c then s.jump (s.pc + (sextI i <<< 2)) else s.ret)

/-- BEQ (R174). -/
def execBeq (d a : BitVec 6) (i : BitVec 14) (s : State) : Out := s.branch (s.x d = s.x a) i

/-- BNE (R174). -/
def execBne (d a : BitVec 6) (i : BitVec 14) (s : State) : Out := s.branch (s.x d ≠ s.x a) i

/-- BLT (R174). -/
def execBlt (d a : BitVec 6) (i : BitVec 14) (s : State) : Out := s.branch ((s.x d).slt (s.x a)) i

/-- BGE (R174). -/
def execBge (d a : BitVec 6) (i : BitVec 14) (s : State) : Out := s.branch (!(s.x d).slt (s.x a)) i

/-- BLTU (R174). -/
def execBltu (d a : BitVec 6) (i : BitVec 14) (s : State) : Out := s.branch ((s.x d).ult (s.x a)) i

/-- BGEU (R174). -/
def execBgeu (d a : BitVec 6) (i : BitVec 14) (s : State) : Out := s.branch (!(s.x d).ult (s.x a)) i

/-- JAL (R174). -/
def execJal (d : BitVec 6) (w : BitVec 20) (s : State) : Out :=
  s.agent (.next (s.setMe fun t => (t.setReg d.toNat (s.pc + 4)).retireTo (s.pc + (sextW w <<< 2))))

/-- JALR (R174): the immediate counts bytes; a misaligned target is ALIGN with no effect. -/
def execJalr (d a : BitVec 6) (i : BitVec 14) (s : State) : Out :=
  let target := s.x a + sextI i
  s.agent (if target.extractLsb' 0 2 ≠ 0 then s.trapWith (s.scalarCause cALIGN target 0)
    else .next (s.setMe fun t => (t.setReg d.toNat (s.pc + 4)).retireTo target))

end Sys2Proof.Machine
end

