-- ==== Sys2Proof/Machine/ScalarFloat.lean ====
section
/-! DEFINITION. Scalar floating point: one rounding, flags, FPX, and stochastic rounding from the Sower (R75 to R80,
R171 to R173). -/

namespace Sys2Proof.Machine

/-- Whether a flag that frm.EN enables is among those set (R75, R80). -/
def raisesFpx (frm : Word) (fl : BitVec 6) : Bool := (fl.toNat % 32) &&& (frm.toNat / 256 % 32) ≠ 0

/-- The scalar instruction at the return address runs once without raising FPX (R385). -/
def Thread.scalarSupp (t : Thread) : Bool := t.suppNow

/-- Write a result and its flags, or raise FPX and write nothing (R80, R171). -/
def State.fpWrite (s : State) (d : BitVec 6) (r : Rounded) (sridx : Nat) : Out :=
  if raisesFpx s.me.frm r.2 && !s.me.scalarSupp then s.trap cFPX
  else s.done fun t =>
    { t.setReg d.toNat r.1 with fflags := t.fflags ||| r.2, frm := if sridx = 0 then t.frm else frmAdvance t.frm sridx }

/-- An exact value rounded once under frm and written (R171). With `sto`, RM = 4 draws one Sower word, even for an
exact result; without it RM = 4 rounds to nearest (R77). -/
def State.fpRound (s : State) (d : BitVec 6) (t : Tag) (sto : Bool) (v : Val × BitVec 6) : Out :=
  s.hart (
    let frm := s.me.frm
    if frmRm frm = 4 && sto then
      if s.me.sowDims ≤ frmSrdim frm then s.illop
      else
        match s.sowerN32 s.who (frmSrdim frm) (frmSridx frm) with
        | .error e => s.missOut e
        | .ok (u, s) =>
          let r := roundTag t frm (some u.toNat) v.1
          s.fpWrite d (r.1, r.2 ||| v.2) 1
    else
      let r := roundTag t frm none v.1
      s.fpWrite d (r.1, r.2 ||| v.2) 0)

/-- A result that is never rounded. -/
def State.fpExact (s : State) (d : BitVec 6) (r : Rounded) : Out := s.hart (s.fpWrite d r 0)

/-- A g register read at a floating tag (R40). -/
def State.fx (s : State) (t : Tag) (r : BitVec 6) : Val := decode t (s.x r)

/-- The rounding mode in force. -/
def State.rm (s : State) : Nat := frmRm s.me.frm

/-- FADD.D (R172). -/
def execFaddD (d a b : BitVec 6) (s : State) : Out :=
  s.fpRound d .f64 true (Val.add s.rm (s.fx .f64 a) (s.fx .f64 b))

/-- FSUB.D (R172). -/
def execFsubD (d a b : BitVec 6) (s : State) : Out :=
  s.fpRound d .f64 true (Val.sub s.rm (s.fx .f64 a) (s.fx .f64 b))

/-- FMUL.D (R172). -/
def execFmulD (d a b : BitVec 6) (s : State) : Out :=
  s.fpRound d .f64 true (Val.mul (s.fx .f64 a) (s.fx .f64 b))

/-- FDIV.D (R172). -/
def execFdivD (d a b : BitVec 6) (s : State) : Out :=
  s.fpRound d .f64 false (Val.div (s.fx .f64 a) (s.fx .f64 b))

/-- FSQRT.D (R172). -/
def execFsqrtD (d a : BitVec 6) (s : State) : Out := s.fpRound d .f64 false (Val.sqrt (s.fx .f64 a))

/-- FMIN.D (R172). -/
def execFminD (d a b : BitVec 6) (s : State) : Out :=
  let v := Val.minMax false (s.fx .f64 a) (s.fx .f64 b)
  s.fpExact d ((roundEven .f64 v.1).1, v.2)

/-- FMAX.D (R172). -/
def execFmaxD (d a b : BitVec 6) (s : State) : Out :=
  let v := Val.minMax true (s.fx .f64 a) (s.fx .f64 b)
  s.fpExact d ((roundEven .f64 v.1).1, v.2)

/-- FSGNJ.D (R172). -/
def execFsgnjD (d a b : BitVec 6) (s : State) : Out :=
  s.fpExact d (withSign .f64 (signBit .f64 (s.x b)) (s.x a), 0)

/-- FSGNJN.D (R172). -/
def execFsgnjnD (d a b : BitVec 6) (s : State) : Out :=
  s.fpExact d (withSign .f64 (!signBit .f64 (s.x b)) (s.x a), 0)

/-- FSGNJX.D (R172). -/
def execFsgnjxD (d a b : BitVec 6) (s : State) : Out :=
  s.fpExact d (withSign .f64 (signBit .f64 (s.x a) != signBit .f64 (s.x b)) (s.x a), 0)

/-- FEQ.D (R172). -/
def execFeqD (d a b : BitVec 6) (s : State) : Out :=
  let c := compareVals .eq (s.fx .f64 a) (s.fx .f64 b)
  s.fpExact d (if c.1 then 1 else 0, c.2)

/-- FLT.D (R172). -/
def execFltD (d a b : BitVec 6) (s : State) : Out :=
  let c := compareVals .lt (s.fx .f64 a) (s.fx .f64 b)
  s.fpExact d (if c.1 then 1 else 0, c.2)

/-- FLE.D (R172). -/
def execFleD (d a b : BitVec 6) (s : State) : Out :=
  let c := compareVals .le (s.fx .f64 a) (s.fx .f64 b)
  s.fpExact d (if c.1 then 1 else 0, c.2)

/-- FCLASS.D (R172). -/
def execFclassD (d a : BitVec 6) (s : State) : Out :=
  s.fpExact d (BitVec.ofNat 64 (2 ^ classOf .f64 (s.x a)), 0)

/-- FCVT.L.D (R172, R83). -/
def execFcvtLD (d a : BitVec 6) (s : State) : Out := s.fpRound d .i64 true (s.fx .f64 a, 0)

/-- FCVT.LU.D (R172, R83). -/
def execFcvtLuD (d a : BitVec 6) (s : State) : Out := s.fpRound d .n64 true (s.fx .f64 a, 0)

/-- FCVT.FL.D (R172). -/
def execFcvtFlD (d a : BitVec 6) (s : State) : Out := s.fpRound d .f64 true (Val.ofInt (s.x a).toInt, 0)

/-- FCVT.FLU.D (R172). -/
def execFcvtFluD (d a : BitVec 6) (s : State) : Out := s.fpRound d .f64 true (Val.ofInt ((s.x a).toNat : Int), 0)

/-- FCVT.W.D (R172): F64 to F32. -/
def execFcvtWD (d a : BitVec 6) (s : State) : Out := s.fpRound d .f32 true (s.fx .f64 a, 0)

/-- FMADD.D (R173). -/
def execFmaddD (d a b c : BitVec 6) (s : State) : Out :=
  s.fpRound d .f64 true (fmaVal .madd s.rm (s.fx .f64 a) (s.fx .f64 b) (s.fx .f64 c))

/-- FMSUB.D (R173). -/
def execFmsubD (d a b c : BitVec 6) (s : State) : Out :=
  s.fpRound d .f64 true (fmaVal .msub s.rm (s.fx .f64 a) (s.fx .f64 b) (s.fx .f64 c))

/-- FNMADD.D (R173). -/
def execFnmaddD (d a b c : BitVec 6) (s : State) : Out :=
  s.fpRound d .f64 true (fmaVal .nmadd s.rm (s.fx .f64 a) (s.fx .f64 b) (s.fx .f64 c))

/-- FNMSUB.D (R173). -/
def execFnmsubD (d a b c : BitVec 6) (s : State) : Out :=
  s.fpRound d .f64 true (fmaVal .nmsub s.rm (s.fx .f64 a) (s.fx .f64 b) (s.fx .f64 c))

/-- FADD.S (R172). -/
def execFaddS (d a b : BitVec 6) (s : State) : Out :=
  s.fpRound d .f32 true (Val.add s.rm (s.fx .f32 a) (s.fx .f32 b))

/-- FSUB.S (R172). -/
def execFsubS (d a b : BitVec 6) (s : State) : Out :=
  s.fpRound d .f32 true (Val.sub s.rm (s.fx .f32 a) (s.fx .f32 b))

/-- FMUL.S (R172). -/
def execFmulS (d a b : BitVec 6) (s : State) : Out :=
  s.fpRound d .f32 true (Val.mul (s.fx .f32 a) (s.fx .f32 b))

/-- FDIV.S (R172). -/
def execFdivS (d a b : BitVec 6) (s : State) : Out :=
  s.fpRound d .f32 false (Val.div (s.fx .f32 a) (s.fx .f32 b))

/-- FSQRT.S (R172). -/
def execFsqrtS (d a : BitVec 6) (s : State) : Out := s.fpRound d .f32 false (Val.sqrt (s.fx .f32 a))

/-- FMIN.S (R172). -/
def execFminS (d a b : BitVec 6) (s : State) : Out :=
  let v := Val.minMax false (s.fx .f32 a) (s.fx .f32 b)
  s.fpExact d ((roundEven .f32 v.1).1, v.2)

/-- FMAX.S (R172). -/
def execFmaxS (d a b : BitVec 6) (s : State) : Out :=
  let v := Val.minMax true (s.fx .f32 a) (s.fx .f32 b)
  s.fpExact d ((roundEven .f32 v.1).1, v.2)

/-- FSGNJ.S (R172). -/
def execFsgnjS (d a b : BitVec 6) (s : State) : Out :=
  s.fpExact d (withSign .f32 (signBit .f32 (s.x b)) (s.x a), 0)

/-- FSGNJN.S (R172). -/
def execFsgnjnS (d a b : BitVec 6) (s : State) : Out :=
  s.fpExact d (withSign .f32 (!signBit .f32 (s.x b)) (s.x a), 0)

/-- FSGNJX.S (R172). -/
def execFsgnjxS (d a b : BitVec 6) (s : State) : Out :=
  s.fpExact d (withSign .f32 (signBit .f32 (s.x a) != signBit .f32 (s.x b)) (s.x a), 0)

/-- FEQ.S (R172). -/
def execFeqS (d a b : BitVec 6) (s : State) : Out :=
  let c := compareVals .eq (s.fx .f32 a) (s.fx .f32 b)
  s.fpExact d (if c.1 then 1 else 0, c.2)

/-- FLT.S (R172). -/
def execFltS (d a b : BitVec 6) (s : State) : Out :=
  let c := compareVals .lt (s.fx .f32 a) (s.fx .f32 b)
  s.fpExact d (if c.1 then 1 else 0, c.2)

/-- FLE.S (R172). -/
def execFleS (d a b : BitVec 6) (s : State) : Out :=
  let c := compareVals .le (s.fx .f32 a) (s.fx .f32 b)
  s.fpExact d (if c.1 then 1 else 0, c.2)

/-- FCLASS.S (R172). -/
def execFclassS (d a : BitVec 6) (s : State) : Out :=
  s.fpExact d (BitVec.ofNat 64 (2 ^ classOf .f32 (s.x a)), 0)

/-- FCVT.L.S (R172, R83). -/
def execFcvtLS (d a : BitVec 6) (s : State) : Out := s.fpRound d .i64 true (s.fx .f32 a, 0)

/-- FCVT.LU.S (R172, R83). -/
def execFcvtLuS (d a : BitVec 6) (s : State) : Out := s.fpRound d .n64 true (s.fx .f32 a, 0)

/-- FCVT.FL.S (R172). -/
def execFcvtFlS (d a : BitVec 6) (s : State) : Out := s.fpRound d .f32 true (Val.ofInt (s.x a).toInt, 0)

/-- FCVT.FLU.S (R172). -/
def execFcvtFluS (d a : BitVec 6) (s : State) : Out := s.fpRound d .f32 true (Val.ofInt ((s.x a).toNat : Int), 0)

/-- FCVT.W.S (R172): F32 to F64, exact; a signalling NaN sets NV. -/
def execFcvtWS (d a : BitVec 6) (s : State) : Out := s.fpExact d (roundEven .f64 (s.fx .f32 a))

/-- FMADD.S (R173). -/
def execFmaddS (d a b c : BitVec 6) (s : State) : Out :=
  s.fpRound d .f32 true (fmaVal .madd s.rm (s.fx .f32 a) (s.fx .f32 b) (s.fx .f32 c))

/-- FMSUB.S (R173). -/
def execFmsubS (d a b c : BitVec 6) (s : State) : Out :=
  s.fpRound d .f32 true (fmaVal .msub s.rm (s.fx .f32 a) (s.fx .f32 b) (s.fx .f32 c))

/-- FNMADD.S (R173). -/
def execFnmaddS (d a b c : BitVec 6) (s : State) : Out :=
  s.fpRound d .f32 true (fmaVal .nmadd s.rm (s.fx .f32 a) (s.fx .f32 b) (s.fx .f32 c))

/-- FNMSUB.S (R173). -/
def execFnmsubS (d a b c : BitVec 6) (s : State) : Out :=
  s.fpRound d .f32 true (fmaVal .nmsub s.rm (s.fx .f32 a) (s.fx .f32 b) (s.fx .f32 c))

end Sys2Proof.Machine
end

