-- ==== Sys2Proof/Machine/ScalarMem.lean ====
section
/-! DEFINITION. Scalar loads and stores, their acquire and release forms, and atomics (R175 to R178). -/

namespace Sys2Proof.Machine

/-- A scalar load (R175). -/
def State.load (s : State) (d a : BitVec 6) (o : BitVec 11) (n : Nat) (signed : Bool) : Out :=
  s.agent (s.scalarLoad (s.x a + o.signExtend 64 * BitVec.ofNat 64 n) n fun s v =>
    s.retWith d (if signed then sextBytes n v else BitVec.ofNat 64 v))

/-- A scalar load that is issued and performed later (R116, R117): its checks are made now, and its value is taken by a
step of its own. A load from the window is performed at once. -/
def State.startLoad (s : State) (d : BitVec 6) (va : Word) (n : Nat) (signed : Bool) : Out :=
  s.agent (s.scalarAccess .read va n fun s p =>
    let s := s.setMe (·.closeSlice 0)
    match p with
    | .mem pa => ((s.forgetTaken s.who).setMe fun t => { t with flight := some ⟨d.toNat, va.toNat, pa, n, signed⟩ }).ret
    | p => match s.loadAt s.who 0 p n with
      | some v => (s.chargeAt s.who.gang p n).retWith d (if signed then sextBytes n v else BitVec.ofNat 64 v)
      | none => s.stallFor .busy)

/-- A plain load that has been given its value ahead: its checks are made now, and what was taken before that value is given
up; a load for which nothing was taken takes its value now (R116, R117). -/
def State.earlyLoad (s : State) (d : BitVec 6) (va : Word) (n : Nat) (signed : Bool) : Out :=
  s.agent (s.scalarAccess .read va n fun s p =>
    let s := s.setMe (·.closeSlice 0)
    let taken := match p with
      | .mem pa => takenFor pa n s.me.taken
      | _ => none
    let give (s : State) (v : Nat) : Out :=
      (s.chargeAt s.who.gang p n).retWith d (if signed then sextBytes n v else BitVec.ofNat 64 v)
    match taken with
    | some (v, rest) => give (s.setMe fun t => { t with taken := rest }) v
    | none => match s.loadAt s.who 0 p n with
      | some v => give ((s.noteRead s.who p n).forgetTaken s.who) v
      | none => s.stallFor .busy)

/-- A scalar store (R175). -/
def State.store (s : State) (d a : BitVec 6) (nt : Bool) (o : BitVec 10) (n : Nat) : Out :=
  s.agent (s.scalarStore (s.x a + o.signExtend 64 * BitVec.ofNat 64 n) n (s.x d).toNat nt fun s => s.ret)

/-- A load-acquire (R124, R176): the value is taken before the instruction retires, so every later access follows it. -/
def State.loadAcquire (s : State) (d a : BitVec 6) (n : Nat) (signed : Bool) : Out :=
  s.agent (s.scalarLoad (s.x a) n fun s v => s.retWith d (if signed then sextBytes n v else BitVec.ofNat 64 v))

/-- A store-release (R124, R176): everything a release waits for comes first. The checks are made before the wait. -/
def State.storeRelease (s : State) (d a : BitVec 6) (scope n : Nat) : Out :=
  s.agent (s.scalarAccess .write (s.x a) n fun s _ => s.afterRelease scope fun s =>
    s.scalarStore (s.x a) n (s.x d).toNat false fun s => s.ret)

/-- LB (R175). -/
def execLb (d a : BitVec 6) (o : BitVec 11) (s : State) : Out := s.load d a o 1 true

/-- LH (R175). -/
def execLh (d a : BitVec 6) (o : BitVec 11) (s : State) : Out := s.load d a o 2 true

/-- LW (R175). -/
def execLw (d a : BitVec 6) (o : BitVec 11) (s : State) : Out := s.load d a o 4 true

/-- LD (R175). -/
def execLd (d a : BitVec 6) (o : BitVec 11) (s : State) : Out := s.load d a o 8 false

/-- LBU (R175). -/
def execLbu (d a : BitVec 6) (o : BitVec 11) (s : State) : Out := s.load d a o 1 false

/-- LHU (R175). -/
def execLhu (d a : BitVec 6) (o : BitVec 11) (s : State) : Out := s.load d a o 2 false

/-- LWU (R175). -/
def execLwu (d a : BitVec 6) (o : BitVec 11) (s : State) : Out := s.load d a o 4 false

/-- SB (R175). -/
def execSb (d a : BitVec 6) (n : Bool) (o : BitVec 10) (s : State) : Out := s.store d a n o 1

/-- SH (R175). -/
def execSh (d a : BitVec 6) (n : Bool) (o : BitVec 10) (s : State) : Out := s.store d a n o 2

/-- SW (R175). -/
def execSw (d a : BitVec 6) (n : Bool) (o : BitVec 10) (s : State) : Out := s.store d a n o 4

/-- SD (R175). -/
def execSd (d a : BitVec 6) (n : Bool) (o : BitVec 10) (s : State) : Out := s.store d a n o 8

/-- LB.AQ (R176); every scope is shown alike, since a load takes its value at once (log 3). -/
def execLbAq (d a : BitVec 6) (_sc : BitVec 3) (s : State) : Out := s.loadAcquire d a 1 true

/-- LH.AQ (R176); every scope is shown alike, since a load takes its value at once (log 3). -/
def execLhAq (d a : BitVec 6) (_sc : BitVec 3) (s : State) : Out := s.loadAcquire d a 2 true

/-- LW.AQ (R176); every scope is shown alike, since a load takes its value at once (log 3). -/
def execLwAq (d a : BitVec 6) (_sc : BitVec 3) (s : State) : Out := s.loadAcquire d a 4 true

/-- LD.AQ (R176); every scope is shown alike, since a load takes its value at once (log 3). -/
def execLdAq (d a : BitVec 6) (_sc : BitVec 3) (s : State) : Out := s.loadAcquire d a 8 false

/-- LBU.AQ (R176); every scope is shown alike, since a load takes its value at once (log 3). -/
def execLbuAq (d a : BitVec 6) (_sc : BitVec 3) (s : State) : Out := s.loadAcquire d a 1 false

/-- LHU.AQ (R176); every scope is shown alike, since a load takes its value at once (log 3). -/
def execLhuAq (d a : BitVec 6) (_sc : BitVec 3) (s : State) : Out := s.loadAcquire d a 2 false

/-- LWU.AQ (R176); every scope is shown alike, since a load takes its value at once (log 3). -/
def execLwuAq (d a : BitVec 6) (_sc : BitVec 3) (s : State) : Out := s.loadAcquire d a 4 false

/-- SB.RL (R176). -/
def execSbRl (d a : BitVec 6) (sc : BitVec 3) (s : State) : Out := s.storeRelease d a sc.toNat 1

/-- SH.RL (R176). -/
def execShRl (d a : BitVec 6) (sc : BitVec 3) (s : State) : Out := s.storeRelease d a sc.toNat 2

/-- SW.RL (R176). -/
def execSwRl (d a : BitVec 6) (sc : BitVec 3) (s : State) : Out := s.storeRelease d a sc.toNat 4

/-- SD.RL (R176). -/
def execSdRl (d a : BitVec 6) (sc : BitVec 3) (s : State) : Out := s.storeRelease d a sc.toNat 8

/-- Signed reading of an operand of n bytes. -/
def signedBytes (n v : Nat) : Int := (BitVec.ofNat (8 * n) v).toInt

/-- An atomic (R177): `f n m b e` is the new value from the old value, the operand and the comparand, of n bytes; none
writes nothing. `fp` returns a word by R40 and not sign-extended; `after` follows the update. -/
def State.amo (s : State) (d a b : BitVec 6) (q : BitVec 2) (sys w fp : Bool) (f : Nat → Nat → Nat → Nat → Option Nat)
    (after : State → Place → Nat → Nat → State) : Out :=
  let n := if w then 8 else 4
  let lim := 2 ^ (8 * n)
  let op := (s.x b).toNat % lim
  let cmp := (s.x d).toNat % lim
  let perform (s : State) : Out :=
    s.scalarAtomic (s.x a) n (fun m => (f n m op cmp).map (· % lim)) fun s p m =>
      let s := after s p n m
      s.retWith d (if w || fp then BitVec.ofNat 64 m else sextBytes n m)
  s.agent (
    if q.getLsbD 1 then
      s.scalarAccess .rmw (s.x a) n fun s _ => s.afterRelease (if sys then 5 else 4) perform
    else perform s)

/-- Nothing follows the update. -/
def noAfter (s : State) (_ : Place) (_ _ : Nat) : State := s

/-- The signed or unsigned choice of AMOMIN and AMOMAX (R177). -/
def amoPick (n : Nat) (isMax isSigned : Bool) (m b : Nat) : Nat :=
  let less := if isSigned then decide (signedBytes n m < signedBytes n b) else decide (m < b)
  if less = isMax then b else m

/-- AMOADD (R177). -/
def execAmoadd (d a b : BitVec 6) (q : BitVec 2) (sc w : Bool) (s : State) : Out :=
  s.amo d a b q sc w false (fun _ m b _ => some (m + b)) noAfter

/-- AMOSWAP (R177). -/
def execAmoswap (d a b : BitVec 6) (q : BitVec 2) (sc w : Bool) (s : State) : Out :=
  s.amo d a b q sc w false (fun _ _ b _ => some b) noAfter

/-- AMOAND (R177). -/
def execAmoand (d a b : BitVec 6) (q : BitVec 2) (sc w : Bool) (s : State) : Out :=
  s.amo d a b q sc w false (fun _ m b _ => some (m &&& b)) noAfter

/-- AMOOR (R177). -/
def execAmoor (d a b : BitVec 6) (q : BitVec 2) (sc w : Bool) (s : State) : Out :=
  s.amo d a b q sc w false (fun _ m b _ => some (m ||| b)) noAfter

/-- AMOXOR (R177). -/
def execAmoxor (d a b : BitVec 6) (q : BitVec 2) (sc w : Bool) (s : State) : Out :=
  s.amo d a b q sc w false (fun _ m b _ => some (m ^^^ b)) noAfter

/-- AMOMIN (R177). -/
def execAmomin (d a b : BitVec 6) (q : BitVec 2) (sc w : Bool) (s : State) : Out :=
  s.amo d a b q sc w false (fun n m b _ => some (amoPick n false true m b)) noAfter

/-- AMOMAX (R177). -/
def execAmomax (d a b : BitVec 6) (q : BitVec 2) (sc w : Bool) (s : State) : Out :=
  s.amo d a b q sc w false (fun n m b _ => some (amoPick n true true m b)) noAfter

/-- AMOMINU (R177). -/
def execAmominu (d a b : BitVec 6) (q : BitVec 2) (sc w : Bool) (s : State) : Out :=
  s.amo d a b q sc w false (fun n m b _ => some (amoPick n false false m b)) noAfter

/-- AMOMAXU (R177). -/
def execAmomaxu (d a b : BitVec 6) (q : BitVec 2) (sc w : Bool) (s : State) : Out :=
  s.amo d a b q sc w false (fun n m b _ => some (amoPick n true false m b)) noAfter

/-- AMOCAS (R177). -/
def execAmocas (d a b : BitVec 6) (q : BitVec 2) (sc w : Bool) (s : State) : Out :=
  s.amo d a b q sc w false (fun _ m b e => if m = e then some b else none) noAfter

/-- Whether an update reaches or crosses the threshold (R178). -/
def crosses (n m new t : Nat) : Bool :=
  let m' := signedBytes n m
  let v := signedBytes n new
  let t' := signedBytes n t
  decide (min m' v ≤ t') && decide (t' ≤ max m' v) && decide (t' ≠ m')

/-- AMOADD.TW (R178): the harts registered on the dword wake after an update that reaches or crosses the threshold. -/
def execAmoaddTw (d a b : BitVec 6) (q : BitVec 2) (sc w : Bool) (s : State) : Out :=
  s.amo d a b q sc w false (fun _ m b _ => some (m + b)) fun s' p n m =>
    let new := (m + (s.x b).toNat) % 2 ^ (8 * n)
    if crosses n m new ((s.x d).toNat % 2 ^ (8 * n)) then
      let base := match p with
        | .mem pa => Place.mem (pa / 8 * 8)
        | .spad o => Place.spad (o / 8 * 8)
        | .sdm o => Place.sdm (o / 8 * 8)
      s'.wakeWord (ownerOf s'.myCore base) (keyOf s'.who.gang base) (BitVec.ofNat 64 (s'.peekAt s'.who base 8))
    else s'

/-- AMOFADD (R177): a sum rounded to nearest, no flag. -/
def execAmofadd (d a b : BitVec 6) (q : BitVec 2) (sc w : Bool) (s : State) : Out :=
  s.amo d a b q sc w true (fun n m b _ =>
    let t := if n = 8 then Tag.f64 else .f32
    some (roundEven t (Val.add 0 (decode t (BitVec.ofNat 64 m)) (decode t (BitVec.ofNat 64 b))).1).1.toNat) noAfter

end Sys2Proof.Machine
end

