-- ==== Sys2Proof/Machine/Task.lean ====
section
/-! DEFINITION. Tasks, the end of a hart and of an access-unit context, BREAK, and the branch queues (R59, R187, R188,
R190 to R192, R251). -/

namespace Sys2Proof.Machine

/-- TASKGET (R187). -/
def execTaskget (d : BitVec 6) (s : State) : Out := s.hart (s.join 2 d 0 0)

/-- Append a record to the local queue of a launch on a core (R23, R188). -/
def Launch.append (l : Launch) (core : Nat) (va : Word) : Launch :=
  let put (q : TaskQueue) : TaskQueue := if q.core = core then { q with recs := q.recs ++ [(va, true)] } else q
  { l with
    left := l.left + 1
    queues := if l.queues.any fun q => q.core = core then l.queues.map put else l.queues ++ [⟨core, [(va, true)], []⟩] }

/-- Appended records on a core that have not been begun (R188). -/
def Launch.appended (l : Launch) (core : Nat) : Nat :=
  (((l.queues.filter fun q => q.core = core).flatMap (·.recs)).filter (·.2)).length

/-- TASKPUT (R188). Where several traps apply, ILLOP comes first, and then, after the release, XLAT, ALIGN and QERR in
that order (DESIGN CHOICE, log 99). -/
def execTaskput (a : BitVec 6) (s : State) : Out :=
  s.hart (
    let va := s.x a
    match s.launch? s.myGang.launch with
    | none => s.illop
    | some l =>
      if !l.panels || l.determ then s.illop
      else
        s.afterRelease 4 fun s =>
          if tooWide va then s.trapMem ⟨cXLAT, va⟩ .read
          else if va.toNat % 64 ≠ 0 then s.trapMem ⟨cALIGN, va⟩ .read
          else if 1024 ≤ l.appended s.myCore then s.trap cQERR
          else (s.modLaunch s.myGang.launch fun l => l.append s.myCore va).ret)

/-- KEND (R190): the hart's pc then names the word after it. -/
def execKend (s : State) : Out :=
  s.hart (s.afterVector fun s =>
    match s.me.faultedXfer with
    | some x => s.trapXfer x
    | none =>
      if !s.me.mq.isEmpty || !s.me.xfers.isEmpty || !s.me.wc.isEmpty then s.stallFor .busy
      else .next ((s.setMe Thread.retire).endHart s.who.gang s.hartNo))

/-- KEND of an access-unit context (R251). -/
def execAccessKend (s : State) : Out :=
  s.agent (
    if s.onHart then s.illop
    else
      match s.me.faultedXfer with
      | some x => s.trapXfer x
      | none =>
        if !s.me.vq.isEmpty || !s.me.xfers.isEmpty then s.stallFor .busy
        else
          let s := s.setMe Thread.closeAll
          if !s.me.wc.isEmpty then s.stallFor .busy else s.done fun t => { t with ended := true })

/-- BREAK (R191). -/
def execBrk (s : State) : Out := s.hart (s.trap cDEBUG)

/-- BQPOP (R192). -/
def execBqpop (d : BitVec 6) (k : BitVec 2) (s : State) : Out :=
  s.hart (
    match s.myGang.branch k.toNat with
    | [] => s.stallFor (.branch k.toNat)
    | v :: rest => (s.modGang s.who.gang fun g => { g with bq := modifyAt g.bq k.toNat fun _ => rest }).retWith d v)

/-- BQPUSH (R192), which only an access-unit context issues (R155). -/
def execBqpush (k : BitVec 2) (a : BitVec 6) (s : State) : Out :=
  s.agent (
    if s.onHart then s.illop
    else if 16 ≤ (s.myGang.branch k.toNat).length then s.stallFor (.full k.toNat)
    else
      let v := s.x a
      (s.modGang s.who.gang fun g => { g with bq := modifyAt g.bq k.toNat (· ++ [v]) }).ret)

end Sys2Proof.Machine
end

