-- ==== Sys2Proof/Machine/Dispatch.lean ====
section
/-! DEFINITION. One arm for each constructor of `Instr`, one direct call of its meaning. -/

namespace Sys2Proof.Machine

/-- What executing one instruction, or making one step of an engine, does to the machine. -/
def exec (i : Instr) (s : State) : Host.Outcome State Fault Refusal :=
  match i with
  | .add d a b => Sys2Proof.Machine.execAdd d a b s
  | .sub d a b => Sys2Proof.Machine.execSub d a b s
  | .and d a b => Sys2Proof.Machine.execAnd d a b s
  | .or d a b => Sys2Proof.Machine.execOr d a b s
  | .xor d a b => Sys2Proof.Machine.execXor d a b s
  | .andn d a b => Sys2Proof.Machine.execAndn d a b s
  | .sll d a b => Sys2Proof.Machine.execSll d a b s
  | .srl d a b => Sys2Proof.Machine.execSrl d a b s
  | .sra d a b => Sys2Proof.Machine.execSra d a b s
  | .slt d a b => Sys2Proof.Machine.execSlt d a b s
  | .sltu d a b => Sys2Proof.Machine.execSltu d a b s
  | .seq d a b => Sys2Proof.Machine.execSeq d a b s
  | .min d a b => Sys2Proof.Machine.execMin d a b s
  | .max d a b => Sys2Proof.Machine.execMax d a b s
  | .minu d a b => Sys2Proof.Machine.execMinu d a b s
  | .maxu d a b => Sys2Proof.Machine.execMaxu d a b s
  | .mul d a b => Sys2Proof.Machine.execMul d a b s
  | .mulh d a b => Sys2Proof.Machine.execMulh d a b s
  | .mulhu d a b => Sys2Proof.Machine.execMulhu d a b s
  | .div d a b => Sys2Proof.Machine.execDiv d a b s
  | .divu d a b => Sys2Proof.Machine.execDivu d a b s
  | .rem d a b => Sys2Proof.Machine.execRem d a b s
  | .remu d a b => Sys2Proof.Machine.execRemu d a b s
  | .clz d a => Sys2Proof.Machine.execClz d a s
  | .ctz d a => Sys2Proof.Machine.execCtz d a s
  | .popc d a => Sys2Proof.Machine.execPopc d a s
  | .addi d a imm => Sys2Proof.Machine.execAddi d a imm s
  | .andi d a imm => Sys2Proof.Machine.execAndi d a imm s
  | .ori d a imm => Sys2Proof.Machine.execOri d a imm s
  | .xori d a imm => Sys2Proof.Machine.execXori d a imm s
  | .slti d a imm => Sys2Proof.Machine.execSlti d a imm s
  | .sltiu d a imm => Sys2Proof.Machine.execSltiu d a imm s
  | .slli d a sc => Sys2Proof.Machine.execSlli d a sc s
  | .srli d a sc => Sys2Proof.Machine.execSrli d a sc s
  | .srai d a sc => Sys2Proof.Machine.execSrai d a sc s
  | .lui d w => Sys2Proof.Machine.execLui d w s
  | .addpc d w => Sys2Proof.Machine.execAddpc d w s
  | .faddD d a b => Sys2Proof.Machine.execFaddD d a b s
  | .fsubD d a b => Sys2Proof.Machine.execFsubD d a b s
  | .fmulD d a b => Sys2Proof.Machine.execFmulD d a b s
  | .fdivD d a b => Sys2Proof.Machine.execFdivD d a b s
  | .fsqrtD d a => Sys2Proof.Machine.execFsqrtD d a s
  | .fminD d a b => Sys2Proof.Machine.execFminD d a b s
  | .fmaxD d a b => Sys2Proof.Machine.execFmaxD d a b s
  | .fsgnjD d a b => Sys2Proof.Machine.execFsgnjD d a b s
  | .fsgnjnD d a b => Sys2Proof.Machine.execFsgnjnD d a b s
  | .fsgnjxD d a b => Sys2Proof.Machine.execFsgnjxD d a b s
  | .feqD d a b => Sys2Proof.Machine.execFeqD d a b s
  | .fltD d a b => Sys2Proof.Machine.execFltD d a b s
  | .fleD d a b => Sys2Proof.Machine.execFleD d a b s
  | .fclassD d a => Sys2Proof.Machine.execFclassD d a s
  | .fcvtLD d a => Sys2Proof.Machine.execFcvtLD d a s
  | .fcvtLuD d a => Sys2Proof.Machine.execFcvtLuD d a s
  | .fcvtFlD d a => Sys2Proof.Machine.execFcvtFlD d a s
  | .fcvtFluD d a => Sys2Proof.Machine.execFcvtFluD d a s
  | .fcvtWD d a => Sys2Proof.Machine.execFcvtWD d a s
  | .faddS d a b => Sys2Proof.Machine.execFaddS d a b s
  | .fsubS d a b => Sys2Proof.Machine.execFsubS d a b s
  | .fmulS d a b => Sys2Proof.Machine.execFmulS d a b s
  | .fdivS d a b => Sys2Proof.Machine.execFdivS d a b s
  | .fsqrtS d a => Sys2Proof.Machine.execFsqrtS d a s
  | .fminS d a b => Sys2Proof.Machine.execFminS d a b s
  | .fmaxS d a b => Sys2Proof.Machine.execFmaxS d a b s
  | .fsgnjS d a b => Sys2Proof.Machine.execFsgnjS d a b s
  | .fsgnjnS d a b => Sys2Proof.Machine.execFsgnjnS d a b s
  | .fsgnjxS d a b => Sys2Proof.Machine.execFsgnjxS d a b s
  | .feqS d a b => Sys2Proof.Machine.execFeqS d a b s
  | .fltS d a b => Sys2Proof.Machine.execFltS d a b s
  | .fleS d a b => Sys2Proof.Machine.execFleS d a b s
  | .fclassS d a => Sys2Proof.Machine.execFclassS d a s
  | .fcvtLS d a => Sys2Proof.Machine.execFcvtLS d a s
  | .fcvtLuS d a => Sys2Proof.Machine.execFcvtLuS d a s
  | .fcvtFlS d a => Sys2Proof.Machine.execFcvtFlS d a s
  | .fcvtFluS d a => Sys2Proof.Machine.execFcvtFluS d a s
  | .fcvtWS d a => Sys2Proof.Machine.execFcvtWS d a s
  | .fmaddD d a b c => Sys2Proof.Machine.execFmaddD d a b c s
  | .fmsubD d a b c => Sys2Proof.Machine.execFmsubD d a b c s
  | .fnmaddD d a b c => Sys2Proof.Machine.execFnmaddD d a b c s
  | .fnmsubD d a b c => Sys2Proof.Machine.execFnmsubD d a b c s
  | .fmaddS d a b c => Sys2Proof.Machine.execFmaddS d a b c s
  | .fmsubS d a b c => Sys2Proof.Machine.execFmsubS d a b c s
  | .fnmaddS d a b c => Sys2Proof.Machine.execFnmaddS d a b c s
  | .fnmsubS d a b c => Sys2Proof.Machine.execFnmsubS d a b c s
  | .lb d a o => Sys2Proof.Machine.execLb d a o s
  | .lh d a o => Sys2Proof.Machine.execLh d a o s
  | .lw d a o => Sys2Proof.Machine.execLw d a o s
  | .ld d a o => Sys2Proof.Machine.execLd d a o s
  | .lbu d a o => Sys2Proof.Machine.execLbu d a o s
  | .lhu d a o => Sys2Proof.Machine.execLhu d a o s
  | .lwu d a o => Sys2Proof.Machine.execLwu d a o s
  | .sb d a n o => Sys2Proof.Machine.execSb d a n o s
  | .sh d a n o => Sys2Proof.Machine.execSh d a n o s
  | .sw d a n o => Sys2Proof.Machine.execSw d a n o s
  | .sd d a n o => Sys2Proof.Machine.execSd d a n o s
  | .lbAq d a sc => Sys2Proof.Machine.execLbAq d a sc s
  | .lhAq d a sc => Sys2Proof.Machine.execLhAq d a sc s
  | .lwAq d a sc => Sys2Proof.Machine.execLwAq d a sc s
  | .ldAq d a sc => Sys2Proof.Machine.execLdAq d a sc s
  | .lbuAq d a sc => Sys2Proof.Machine.execLbuAq d a sc s
  | .lhuAq d a sc => Sys2Proof.Machine.execLhuAq d a sc s
  | .lwuAq d a sc => Sys2Proof.Machine.execLwuAq d a sc s
  | .sbRl d a sc => Sys2Proof.Machine.execSbRl d a sc s
  | .shRl d a sc => Sys2Proof.Machine.execShRl d a sc s
  | .swRl d a sc => Sys2Proof.Machine.execSwRl d a sc s
  | .sdRl d a sc => Sys2Proof.Machine.execSdRl d a sc s
  | .amoadd d a b q sc w => Sys2Proof.Machine.execAmoadd d a b q sc w s
  | .amoswap d a b q sc w => Sys2Proof.Machine.execAmoswap d a b q sc w s
  | .amoand d a b q sc w => Sys2Proof.Machine.execAmoand d a b q sc w s
  | .amoor d a b q sc w => Sys2Proof.Machine.execAmoor d a b q sc w s
  | .amoxor d a b q sc w => Sys2Proof.Machine.execAmoxor d a b q sc w s
  | .amomin d a b q sc w => Sys2Proof.Machine.execAmomin d a b q sc w s
  | .amomax d a b q sc w => Sys2Proof.Machine.execAmomax d a b q sc w s
  | .amominu d a b q sc w => Sys2Proof.Machine.execAmominu d a b q sc w s
  | .amomaxu d a b q sc w => Sys2Proof.Machine.execAmomaxu d a b q sc w s
  | .amocas d a b q sc w => Sys2Proof.Machine.execAmocas d a b q sc w s
  | .amoaddTw d a b q sc w => Sys2Proof.Machine.execAmoaddTw d a b q sc w s
  | .amofadd d a b q sc w => Sys2Proof.Machine.execAmofadd d a b q sc w s
  | .beq d a imm => Sys2Proof.Machine.execBeq d a imm s
  | .bne d a imm => Sys2Proof.Machine.execBne d a imm s
  | .blt d a imm => Sys2Proof.Machine.execBlt d a imm s
  | .bge d a imm => Sys2Proof.Machine.execBge d a imm s
  | .bltu d a imm => Sys2Proof.Machine.execBltu d a imm s
  | .bgeu d a imm => Sys2Proof.Machine.execBgeu d a imm s
  | .jal d w => Sys2Proof.Machine.execJal d w s
  | .jalr d a imm => Sys2Proof.Machine.execJalr d a imm s
  | .fence sc k => Sys2Proof.Machine.execFence sc k s
  | .fenceSv => Sys2Proof.Machine.execFenceSv s
  | .ifence => Sys2Proof.Machine.execIfence s
  | .waitw d a b => Sys2Proof.Machine.execWaitw d a b s
  | .barsync => Sys2Proof.Machine.execBarsync s
  | .barrive => Sys2Proof.Machine.execBarrive s
  | .bardrop => Sys2Proof.Machine.execBardrop s
  | .barwait => Sys2Proof.Machine.execBarwait s
  | .csrrw d a c => Sys2Proof.Machine.execCsrrw d a c s
  | .csrrs d a c => Sys2Proof.Machine.execCsrrs d a c s
  | .csrrc d a c => Sys2Proof.Machine.execCsrrc d a c s
  | .taskget d => Sys2Proof.Machine.execTaskget d s
  | .taskput a => Sys2Proof.Machine.execTaskput a s
  | .launch d a => Sys2Proof.Machine.execLaunch d a s
  | .kend => Sys2Proof.Machine.execKend s
  | .accessKend => Sys2Proof.Machine.execAccessKend s
  | .brk => Sys2Proof.Machine.execBrk s
  | .bqpop d k => Sys2Proof.Machine.execBqpop d k s
  | .bqpush k a => Sys2Proof.Machine.execBqpush k a s
  | .vadd d a b n sc m g l => Sys2Proof.Machine.execVadd d a b n sc m g l s
  | .vsub d a b n sc m g l => Sys2Proof.Machine.execVsub d a b n sc m g l s
  | .vmul d a b n sc m g l => Sys2Proof.Machine.execVmul d a b n sc m g l s
  | .vdiv d a b n sc m g l => Sys2Proof.Machine.execVdiv d a b n sc m g l s
  | .vmin d a b n sc m g l => Sys2Proof.Machine.execVmin d a b n sc m g l s
  | .vmax d a b n sc m g l => Sys2Proof.Machine.execVmax d a b n sc m g l s
  | .vsadd d a b n sc m g l => Sys2Proof.Machine.execVsadd d a b n sc m g l s
  | .vssub d a b n sc m g l => Sys2Proof.Machine.execVssub d a b n sc m g l s
  | .vmulh d a b n sc m g l => Sys2Proof.Machine.execVmulh d a b n sc m g l s
  | .vrem d a b n sc m g l => Sys2Proof.Machine.execVrem d a b n sc m g l s
  | .vand d a b n sc m g l => Sys2Proof.Machine.execVand d a b n sc m g l s
  | .vor d a b n sc m g l => Sys2Proof.Machine.execVor d a b n sc m g l s
  | .vxor d a b n sc m g l => Sys2Proof.Machine.execVxor d a b n sc m g l s
  | .vsll d a b n sc m g l => Sys2Proof.Machine.execVsll d a b n sc m g l s
  | .vshr d a b n sc m g l => Sys2Proof.Machine.execVshr d a b n sc m g l s
  | .vsqrt d a n sc m g l => Sys2Proof.Machine.execVsqrt d a n sc m g l s
  | .vabs d a n sc m g l => Sys2Proof.Machine.execVabs d a n sc m g l s
  | .vneg d a n sc m g l => Sys2Proof.Machine.execVneg d a n sc m g l s
  | .vsgnj d a b n sc m g l => Sys2Proof.Machine.execVsgnj d a b n sc m g l s
  | .vsgnjn d a b n sc m g l => Sys2Proof.Machine.execVsgnjn d a b n sc m g l s
  | .vsgnjx d a b n sc m g l => Sys2Proof.Machine.execVsgnjx d a b n sc m g l s
  | .vclass d a n sc m g l => Sys2Proof.Machine.execVclass d a n sc m g l s
  | .vmv d a n sc m g l => Sys2Proof.Machine.execVmv d a n sc m g l s
  | .vfmadd d a b n sc m g => Sys2Proof.Machine.execVfmadd d a b n sc m g s
  | .vfmsub d a b n sc m g => Sys2Proof.Machine.execVfmsub d a b n sc m g s
  | .vfnmadd d a b n sc m g => Sys2Proof.Machine.execVfnmadd d a b n sc m g s
  | .vfnmsub d a b n sc m g => Sys2Proof.Machine.execVfnmsub d a b n sc m g s
  | .vaddAcc d a b n sc m => Sys2Proof.Machine.execVaddAcc d a b n sc m s
  | .vsubAcc d a b n sc m => Sys2Proof.Machine.execVsubAcc d a b n sc m s
  | .vmulAcc d a b n sc m => Sys2Proof.Machine.execVmulAcc d a b n sc m s
  | .vdivAcc d a b n sc m => Sys2Proof.Machine.execVdivAcc d a b n sc m s
  | .vminAcc d a b n sc m => Sys2Proof.Machine.execVminAcc d a b n sc m s
  | .vmaxAcc d a b n sc m => Sys2Proof.Machine.execVmaxAcc d a b n sc m s
  | .vsaddAcc d a b n sc m => Sys2Proof.Machine.execVsaddAcc d a b n sc m s
  | .vssubAcc d a b n sc m => Sys2Proof.Machine.execVssubAcc d a b n sc m s
  | .vmulhAcc d a b n sc m => Sys2Proof.Machine.execVmulhAcc d a b n sc m s
  | .vremAcc d a b n sc m => Sys2Proof.Machine.execVremAcc d a b n sc m s
  | .vandAcc d a b n sc m => Sys2Proof.Machine.execVandAcc d a b n sc m s
  | .vorAcc d a b n sc m => Sys2Proof.Machine.execVorAcc d a b n sc m s
  | .vxorAcc d a b n sc m => Sys2Proof.Machine.execVxorAcc d a b n sc m s
  | .vsllAcc d a b n sc m => Sys2Proof.Machine.execVsllAcc d a b n sc m s
  | .vshrAcc d a b n sc m => Sys2Proof.Machine.execVshrAcc d a b n sc m s
  | .vsqrtAcc d a n sc m => Sys2Proof.Machine.execVsqrtAcc d a n sc m s
  | .vabsAcc d a n sc m => Sys2Proof.Machine.execVabsAcc d a n sc m s
  | .vnegAcc d a n sc m => Sys2Proof.Machine.execVnegAcc d a n sc m s
  | .vsgnjAcc d a b n sc m => Sys2Proof.Machine.execVsgnjAcc d a b n sc m s
  | .vsgnjnAcc d a b n sc m => Sys2Proof.Machine.execVsgnjnAcc d a b n sc m s
  | .vsgnjxAcc d a b n sc m => Sys2Proof.Machine.execVsgnjxAcc d a b n sc m s
  | .vclassAcc d a n sc m => Sys2Proof.Machine.execVclassAcc d a n sc m s
  | .vmvAcc d a n sc m => Sys2Proof.Machine.execVmvAcc d a n sc m s
  | .vfmaddAcc d a b n sc m => Sys2Proof.Machine.execVfmaddAcc d a b n sc m s
  | .vfmsubAcc d a b n sc m => Sys2Proof.Machine.execVfmsubAcc d a b n sc m s
  | .vfnmaddAcc d a b n sc m => Sys2Proof.Machine.execVfnmaddAcc d a b n sc m s
  | .vfnmsubAcc d a b n sc m => Sys2Proof.Machine.execVfnmsubAcc d a b n sc m s
  | .vcmpeq d a b m g => Sys2Proof.Machine.execVcmpeq d a b m g s
  | .vcmpne d a b m g => Sys2Proof.Machine.execVcmpne d a b m g s
  | .vcmplt d a b m g => Sys2Proof.Machine.execVcmplt d a b m g s
  | .vcmple d a b m g => Sys2Proof.Machine.execVcmple d a b m g s
  | .vcmpgt d a b m g => Sys2Proof.Machine.execVcmpgt d a b m g s
  | .vcmpge d a b m g => Sys2Proof.Machine.execVcmpge d a b m g s
  | .vcmpunord d a b m g => Sys2Proof.Machine.execVcmpunord d a b m g s
  | .vmand d a b => Sys2Proof.Machine.execVmand d a b s
  | .vmor d a b => Sys2Proof.Machine.execVmor d a b s
  | .vmxor d a b => Sys2Proof.Machine.execVmxor d a b s
  | .vmandn d a b => Sys2Proof.Machine.execVmandn d a b s
  | .vmnot d a => Sys2Proof.Machine.execVmnot d a s
  | .vmpopc d a => Sys2Proof.Machine.execVmpopc d a s
  | .vmfirst d a => Sys2Proof.Machine.execVmfirst d a s
  | .vmset d => Sys2Proof.Machine.execVmset d s
  | .vcvt d a sc m t => Sys2Proof.Machine.execVcvt d a sc m t s
  | .vslideup d a b m => Sys2Proof.Machine.execVslideup d a b m s
  | .vslidedn d a b m => Sys2Proof.Machine.execVslidedn d a b m s
  | .vgathr d a b m => Sys2Proof.Machine.execVgathr d a b m s
  | .vsend d a b m => Sys2Proof.Machine.execVsend d a b m s
  | .vcmprs d a m => Sys2Proof.Machine.execVcmprs d a m s
  | .vexpnd d a m => Sys2Proof.Machine.execVexpnd d a m s
  | .vresh d a t m => Sys2Proof.Machine.execVresh d a t m s
  | .vbcast d a m => Sys2Proof.Machine.execVbcast d a m s
  | .vslide1up d a b m => Sys2Proof.Machine.execVslide1up d a b m s
  | .vslide1dn d a b m => Sys2Proof.Machine.execVslide1dn d a b m s
  | .vredsum d a b sc m => Sys2Proof.Machine.execVredsum d a b sc m s
  | .vredmin d a b sc m => Sys2Proof.Machine.execVredmin d a b sc m s
  | .vredmax d a b sc m => Sys2Proof.Machine.execVredmax d a b sc m s
  | .vredand d a b sc m => Sys2Proof.Machine.execVredand d a b sc m s
  | .vredor d a b sc m => Sys2Proof.Machine.execVredor d a b sc m s
  | .vredxor d a b sc m => Sys2Proof.Machine.execVredxor d a b sc m s
  | .vscansum d a sc m => Sys2Proof.Machine.execVscansum d a sc m s
  | .vscanmin d a sc m => Sys2Proof.Machine.execVscanmin d a sc m s
  | .vscanmax d a sc m => Sys2Proof.Machine.execVscanmax d a sc m s
  | .vfunc d a m c => Sys2Proof.Machine.execVfunc d a m c s
  | .vcfg d a => Sys2Proof.Machine.execVcfg d a s
  | .vsetvl d a b => Sys2Proof.Machine.execVsetvl d a b s
  | .vsetvlP d a b => Sys2Proof.Machine.execVsetvlP d a b s
  | .vid d m => Sys2Proof.Machine.execVid d m s
  | .vsel d a b => Sys2Proof.Machine.execVsel d a b s
  | .vgete d a b => Sys2Proof.Machine.execVgete d a b s
  | .vsete d a b => Sys2Proof.Machine.execVsete d a b s
  | .vsalsel d a b m g k => Sys2Proof.Machine.execVsalsel d a b m g k s
  | .vld d a f c r l m => Sys2Proof.Machine.execVld d a f c r l m s
  | .vlds d a b f c r l m => Sys2Proof.Machine.execVlds d a b f c r l m s
  | .vldx d a b f c r l m => Sys2Proof.Machine.execVldx d a b f c r l m s
  | .vst d a c n m => Sys2Proof.Machine.execVst d a c n m s
  | .vsts d a b c n m => Sys2Proof.Machine.execVsts d a b c n m s
  | .vstx d a b c n m => Sys2Proof.Machine.execVstx d a b c n m s
  | .vwin a b => Sys2Proof.Machine.execVwin a b s
  | .vwacc a b m => Sys2Proof.Machine.execVwacc a b m s
  | .vwmerge => Sys2Proof.Machine.execVwmerge s
  | .vlsync => Sys2Proof.Machine.execVlsync s
  | .vfence sc k => Sys2Proof.Machine.execVfence sc k s
  | .qdrain a => Sys2Proof.Machine.execQdrain a s
  | .spalloc d a b => Sys2Proof.Machine.execSpalloc d a b s
  | .spfree a => Sys2Proof.Machine.execSpfree a s
  | .sprenew d a => Sys2Proof.Machine.execSprenew d a s
  | .spage d a => Sys2Proof.Machine.execSpage d a s
  | .vfar d a b => Sys2Proof.Machine.execVfar d a b s
  | .mma t a b sc w z y x => Sys2Proof.Machine.execMma t a b sc w z y x s
  | .mld t a b => Sys2Proof.Machine.execMld t a b s
  | .mst t a b => Sys2Proof.Machine.execMst t a b s
  | .mzero t => Sys2Proof.Machine.execMzero t s
  | .mwrow a b => Sys2Proof.Machine.execMwrow a b s
  | .maddrow a b => Sys2Proof.Machine.execMaddrow a b s
  | .mwait => Sys2Proof.Machine.execMwait s
  | .mopen d a => Sys2Proof.Machine.execMopen d a s
  | .mclose a => Sys2Proof.Machine.execMclose a s
  | .mstream q a b => Sys2Proof.Machine.execMstream q a b s
  | .msheaf d a b => Sys2Proof.Machine.execMsheaf d a b s
  | .mgenrel a b => Sys2Proof.Machine.execMgenrel a b s
  | .mrecut d a => Sys2Proof.Machine.execMrecut d a s
  | .mquery d a => Sys2Proof.Machine.execMquery d a s
  | .vsowF32 d a b m => Sys2Proof.Machine.execVsowF32 d a b m s
  | .vsowF64 d a b m => Sys2Proof.Machine.execVsowF64 d a b m s
  | .vsowN32 d a b m => Sys2Proof.Machine.execVsowN32 d a b m s
  | .sowload a => Sys2Proof.Machine.execSowload a s
  | .onew d a => Sys2Proof.Machine.execOnew d a s
  | .odesc d a => Sys2Proof.Machine.execOdesc d a s
  | .oexpand d a b => Sys2Proof.Machine.execOexpand d a b s
  | .obackup d a b => Sys2Proof.Machine.execObackup d a b s
  | .oreuse d a => Sys2Proof.Machine.execOreuse d a s
  | .ofree d a => Sys2Proof.Machine.execOfree d a s
  | .oread d a b => Sys2Proof.Machine.execOread d a b s
  | .cmdbCopy d a m => Sys2Proof.Machine.execCmdbCopy d a m s
  | .cmdbCat d a m => Sys2Proof.Machine.execCmdbCat d a m s
  | .cmdbOrch d a m => Sys2Proof.Machine.execCmdbOrch d a m s
  | .tret => Sys2Proof.Machine.execTret s
  | .ctxsave a => Sys2Proof.Machine.execCtxsave a s
  | .ctxload a => Sys2Proof.Machine.execCtxload a s
  | .xlinv a b => Sys2Proof.Machine.execXlinv a b s
  | .wfi => Sys2Proof.Machine.execWfi s
  | .fwcall => Sys2Proof.Machine.execFwcall s
  | .haltc a => Sys2Proof.Machine.execHaltc a s
  | .haltcRelease a => Sys2Proof.Machine.execHaltcRelease a s
  | .ald d a b p m t => Sys2Proof.Machine.execAld d a b p m t s
  | .aldCl q => Sys2Proof.Machine.execAldCl q s
  | .agather d a b m t => Sys2Proof.Machine.execAgather d a b m t s
  | .atrans d a b r t => Sys2Proof.Machine.execAtrans d a b r t s
  | .ast d a b p m => Sys2Proof.Machine.execAst d a b p m s
  | .astCl q => Sys2Proof.Machine.execAstCl q s
  | .ascat d a b m => Sys2Proof.Machine.execAscat d a b m s
  | .afar d a b m => Sys2Proof.Machine.execAfar d a b m s
  | .copyCommand ag x => Sys2Proof.Machine.execCopyCommand ag x s
  | .copyCompletion ag x => Sys2Proof.Machine.execCopyCompletion ag x s
  | .adapt ag x => Sys2Proof.Machine.execAdapt ag x s
  | .adaptStatus ag x => Sys2Proof.Machine.execAdaptStatus ag x s
  | .desc ag x => Sys2Proof.Machine.execDesc ag x s
  | .expand ag x => Sys2Proof.Machine.execExpand ag x s
  | .backup ag x => Sys2Proof.Machine.execBackup ag x s
  | .orchardRequestPerformed ag x => Sys2Proof.Machine.execOrchardRequestPerformed ag x s
  | .mopenBuildEnd p slot => Sys2Proof.Machine.execMopenBuildEnd p slot s
  | .sheafSetBuilt p slot set => Sys2Proof.Machine.execSheafSetBuilt p slot set s
  | .mrecutStatus ag x => Sys2Proof.Machine.execMrecutStatus ag x s
  | .streamEntry ag x => Sys2Proof.Machine.execStreamEntry ag x s
  | .chunkResult p gidx chunk => Sys2Proof.Machine.execChunkResult p gidx chunk s
  | .sq3Contribution gang => Sys2Proof.Machine.execSq3Contribution gang s
  | .lq7Receive gang => Sys2Proof.Machine.execLq7Receive gang s
  | .accessContextStop gang => Sys2Proof.Machine.execAccessContextStop gang s
  | .gangRetirement gang => Sys2Proof.Machine.execGangRetirement gang s
  | .trapEntry ag => Sys2Proof.Machine.execTrapEntry ag s
  | .suspend c => Sys2Proof.Machine.execSuspend c s
  | .killgang c => Sys2Proof.Machine.execKillgang c s
  | .killlaunch c => Sys2Proof.Machine.execKilllaunch c s
  | .dhalt c => Sys2Proof.Machine.execDhalt c s
  | .resume c => Sys2Proof.Machine.execResume c s
  | .dresume c => Sys2Proof.Machine.execDresume c s
  | .gangHalt gang => Sys2Proof.Machine.execGangHalt gang s
  | .contextCommandStatus c => Sys2Proof.Machine.execContextCommandStatus c s
  | .version ag => Sys2Proof.Machine.execVersion ag s
  | .groupset ag => Sys2Proof.Machine.execGroupset ag s
  | .routeset ag => Sys2Proof.Machine.execRouteset ag s
  | .attest ag => Sys2Proof.Machine.execAttest ag s
  | .linkstat ag => Sys2Proof.Machine.execLinkstat ag s
  | .dispatchSample p => Sys2Proof.Machine.execDispatchSample p s
  | .placementStep p => Sys2Proof.Machine.execPlacementStep p s
  | .gleanerBoundary core => Sys2Proof.Machine.execGleanerBoundary core s
  | .gleanerArrival x => Sys2Proof.Machine.execGleanerArrival x s
  | .shelfUnitTick tile => Sys2Proof.Machine.execShelfUnitTick tile s
  | .turnerRenewal tile => Sys2Proof.Machine.execTurnerRenewal tile s
  | .turnerMiss tile => Sys2Proof.Machine.execTurnerMiss tile s
  | .registerRefresh core => Sys2Proof.Machine.execRegisterRefresh core s
  | .wcEntryTimeout ag x => Sys2Proof.Machine.execWcEntryTimeout ag x s
  | .granaryTick => Sys2Proof.Machine.execGranaryTick s
  | .granaryDebit core => Sys2Proof.Machine.execGranaryDebit core s
  | .arbiterPeriod n => Sys2Proof.Machine.execArbiterPeriod n s
  | .clockLower => Sys2Proof.Machine.execClockLower s
  | .clockRaise => Sys2Proof.Machine.execClockRaise s
  | .thermtrip => Sys2Proof.Machine.execThermtrip s
  | .moduleReset => Sys2Proof.Machine.execModuleReset s
  | .selfTest => Sys2Proof.Machine.execSelfTest s
  | .dclTraining => Sys2Proof.Machine.execDclTraining s
  | .bgo img len => Sys2Proof.Machine.execBgo img len s
  | .imageCopied => Sys2Proof.Machine.execImageCopied s
  | .fboot v => Sys2Proof.Machine.execFboot v s
  | .dclFailure => Sys2Proof.Machine.execDclFailure s
  | .portDown q => Sys2Proof.Machine.execPortDown q s
  | .cxlPortLost p => Sys2Proof.Machine.execCxlPortLost p s
  | .doorbellOrdinary p tail => Sys2Proof.Machine.execDoorbellOrdinary p tail s
  | .doorbellSupervisor p tail => Sys2Proof.Machine.execDoorbellSupervisor p tail s
  | .doorbellDbell p => Sys2Proof.Machine.execDoorbellDbell p s
  | .eventW1c v => Sys2Proof.Machine.execEventW1c v s
  | .seventW1c v => Sys2Proof.Machine.execSeventW1c v s
  | .sdstatRead => Sys2Proof.Machine.execSdstatRead s
  | .fpartWrite v => Sys2Proof.Machine.execFpartWrite v s
  | .fgrateWrite v => Sys2Proof.Machine.execFgrateWrite v s
  | .fbtabWrite k v => Sys2Proof.Machine.execFbtabWrite k v s
  | .fctest v => Sys2Proof.Machine.execFctest v s
  | .frcommit => Sys2Proof.Machine.execFrcommit s
  | .fsvnWrite v => Sys2Proof.Machine.execFsvnWrite v s
  | .fhtest v => Sys2Proof.Machine.execFhtest v s
  | .lgmodeWrite v => Sys2Proof.Machine.execLgmodeWrite v s
  | .qenWrite v => Sys2Proof.Machine.execQenWrite v s
  | .cgroupWrite v => Sys2Proof.Machine.execCgroupWrite v s
  | .csrWrite c v => Sys2Proof.Machine.execCsrWrite c v s
  | .elementGroupCompletion ag seq => Sys2Proof.Machine.execElementGroupCompletion ag seq s
  | .matrixUnitCompletion ag ord => Sys2Proof.Machine.execMatrixUnitCompletion ag ord s
  | .accessPerformed ag x => Sys2Proof.Machine.execAccessPerformed ag x s
  | .catalogueAnswer ag => Sys2Proof.Machine.execCatalogueAnswer ag s
  | .portRetrained q => Sys2Proof.Machine.execPortRetrained q s

end Sys2Proof.Machine
end

