-- ==== Sys2Proof/Machine/Issue.lean ====
section
/-! DEFINITION. Issuing an instruction: who may issue, pending traps, waits, fetch with breakpoints, and the moves of
the cyclic order (R12, R111, R143, R381, R382, R384, R389, R402, R403, R430). -/

namespace Sys2Proof.Machine

/-- The context whose instructions a role reads (R154, R155). -/
def ctxOf (a : Agent) : Ctx :=
  match a.role with
  | .hart _ => .execute
  | .access => .access

/-- Go on from a next state. -/
def mapNext (o : Out) (f : State → State) : Out :=
  match o with
  | .next s => .next (f s)
  | .fault r => .fault r
  | .refused r => .refused r

/-- Whether an agent issues instructions: its gang is on a running core with no halt request, and not paused for
energy, and what it issued before its last suspension is performed; the agent has neither ended nor stopped (R26, R139,
R384, R389, R402, R430, R448). -/
def State.mayIssue (s : State) (a : Agent) : Bool :=
  match s.thread? a with
  | none => false
  | some t =>
    s.engineRuns a && !s.paused a.gang && !s.settling a.gang && (s.gangOf a.gang).haltReq.isNone && !t.ended &&
      !t.debug && !t.faulted

/-- Whether an address matches an enabled breakpoint (R381). -/
def Thread.breaksAt (t : Thread) (pc : Word) : Bool :=
  t.sbkpt.any fun b => b.getLsbD 0 && (b &&& ~~~3#64) = pc

/-- What a fetch gives: a word, a stall, or a trap code (R111, R412, R447). -/
inductive Fetched where
  | word (w : Word32) (s : State)
  | stall
  | fault (code : Nat)
  deriving DecidableEq, Repr

/-- The word at an offset of a 32-byte sector (R140). -/
def wordAt (bytes : List (BitVec 8)) (off : Nat) : Word32 :=
  let b (i : Nat) : BitVec 8 := (bytes[off + i]?).getD 0
  b 3 ++ b 2 ++ b 1 ++ b 0

/-- The 32 bytes of a sector of memory. -/
def State.sectorBytes (s : State) (pa : Nat) : List (BitVec 8) := (List.range 32).map fun i => s.mem.get (pa / 32 * 32 + i)

/-- Put a line into the instruction cache, the oldest going first when its 16,384 lines are full (log 12). -/
def State.fillLine (s : State) (core part sector : Nat) (bytes : List (BitVec 8)) : State :=
  s.modCore core fun c =>
    { c with icache := (if c.icache.length < 16384 then c.icache else c.icache.drop 1) ++ [(part, sector, bytes)] }

/-- A sector that may be fetched: not of the second tier (R111), and not in training (R107). -/
def State.fetchSector (s : State) (pa : Nat) : Except Fetched (List (BitVec 8)) :=
  match regionOf pa with
  | some (.cxl _) => .error (.fault cPROT)
  | _ => if s.training pa then .error .stall else .ok (s.sectorBytes pa)

/-- The tag of an instruction cache line: the sector of its virtual address, and at level 2, where addresses are not
translated, the sector of its physical address, told apart by bit 60 (R111, R447; log 70). -/
def lineTag (lvl pc : Nat) : Nat := pc / 32 + if lvl = 2 then 2 ^ 60 else 0

/-- Fetch the word at an agent's pc: from the instruction cache of its core, filled by the sectors fetched (R111, R138,
R447). No cache of the device holds host memory (R109). A sector that is fetched is charged (R428). -/
def State.fetch (s : State) (a : Agent) : Fetched :=
  let t := (s.thread? a).getD .empty
  let core := (s.gangOf a.gang).core
  let part := s.partOfCore core
  let pc := t.pc.toNat
  if tooWide t.pc then .fault cXLAT
  else if inWindow pc then .fault cPROT
  else
    match (s.core core).icache.find? fun l => l.1 = part && l.2.1 = lineTag t.lvl pc with
    | some l => .word (wordAt l.2.2 (pc % 32)) s
    | none =>
      match s.translate a t.lvl .fetch pc with
      | .error c => .fault c
      | .ok (pa, s) =>
        match s.fetchSector pa with
        | .error f => f
        | .ok bytes =>
          let s := s.chargeAt a.gang (.mem pa) 4
          .word (wordAt bytes (pc % 32)) (if regionOf pa = some .host then s
            else s.fillLine core part (lineTag t.lvl pc) bytes)

/-- An attempt that has only stalled leaves BSKIP as it was: the instruction has not executed (R381). -/
def State.keepSkip (s : State) (a : Agent) (skip : Bool) : State :=
  s.modThread a fun t => if t.stall = .none then t else { t with bskip := skip }

/-- Execute the word at an agent's pc; a fetch fault comes first, then a breakpoint (R143, R381). Either trap waits for the
load in flight (R166). -/
def State.runPc (s : State) (a : Agent) (k : State → Word32 → Out) : Out :=
  let t := (s.thread? a).getD .empty
  match s.fetch a with
  | .stall => .next (s.modThread a fun t => { t with stall := .busy })
  | .fault c => s.landed a fun s => { s with cur := some a, word := 0 }.trapMem ⟨c, t.pc⟩ .fetch
  | .word w s =>
    if t.lvl = 0 then
      if t.breaksAt t.pc && !t.bskip then s.landed a fun s => { s with cur := some a, word := w }.trap cDEBUG
      else mapNext (k (s.modThread a fun t => { t with bskip := false }) w) fun s => s.keepSkip a t.bskip
    else k s w

/-- Every hart of a gang whose code object the dispatcher found bad traps at its first instruction (R163). -/
def State.trapBad (s : State) (gi : Nat) : State :=
  let cause (t : Thread) : Cause :=
    { code := cILLOP, sub := 0, src := 5, elem := 0, qdist := 0, group := 0, seq := 0, addr := 0, pc := t.pc, info := 0,
      word := 0, acc := 0, ord := 0 }
  (List.range (s.gangOf gi).harts.length).foldl (fun s h =>
    match s.thread? ⟨gi, .hart h⟩ with
    | some t => s.enterTrap gi h (cause t)
    | none => s) (s.modGang gi fun g => { g with bad := false })

/-- A thread that waits, or whose instruction can issue. -/
def State.goOn (s : State) (a : Agent) (k : State → Word32 → Out) : Out :=
  let t := (s.thread? a).getD .empty
  let wakeIf (c : Bool) : Out := .next (if c then s.modThread a Thread.wake else s)
  match t.wait with
  | .none => s.runPc a k
  | .gd _ | .word _ _ _ _ | .answer _ _ => .next s
  | .settle _ _ _ _ _ | .granted _ _ _ _ _ _ => .next (s.trySettle a.gang)
  | .barrier => wakeIf (!t.pend)
  | .wfi => wakeIf t.eventPending
  | .haltc core => wakeIf (!s.leaving core)

/-- The scalar registers that a word reads in an access-unit context (R148, R149, R250, R256). -/
def accessReads (w : Word32) : List (BitVec 6) :=
  let x := Fields.ofWord w
  let b := x.low.extractLsb' 8 6
  let f := x.low.extractLsb' 0 8
  match x.op.toNat with
  | 0x00 => [x.a, b]
  | 0x0A | 0x0B | 0x1A => []
  | 0x11 | 0x14 | 0x15 | 0x16 | 0x17 | 0x18 | 0x19 => [x.d, x.a]
  | 0x12 => if f.getLsbD 4 then [x.d, x.a] else [x.a]
  | 0x13 => if f.toNat / 16 = 9 || f.toNat / 16 = 10 then [x.d, x.a, b] else [x.a, b]
  | 0x1C => if f = 4 then [x.a, b] else []
  | 0x1F => if f = 2 then [x.a] else []
  | 0x22 => [b]
  | 0x26 => if f.getLsbD 4 then [b] else []
  | 0x29 => match f.toNat % 32 with
    | 0 | 1 | 8 | 9 => [b]
    | 7 => [x.a]
    | _ => []
  | 0x30 | 0x33 => if f.getLsbD 7 then [x.a, b] else if f.getLsbD 6 then [] else [x.a]
  | 0x32 | 0x3C => [x.a, b]
  | 0x31 | 0x34 => [x.a]
  | 0x35 => [x.a, x.a + 1]
  | 0x37 => if f = 1 then [] else [x.a]
  | n => if n ≤ 0x10 || n = 0x1B || n = 0x1D then [x.a] else []

/-- The scalar register that a scalar word writes in an access-unit context (R148, R149). -/
def accessWrites (w : Word32) : Option (BitVec 6) :=
  let x := Fields.ofWord w
  match x.op.toNat with
  | 0x12 => if x.low.getLsbD 4 then none else some x.d
  | 0x1C => if x.low.extractLsb' 0 8 = 4#8 then some x.d else none
  | n => if n ≤ 0x10 || n = 0x13 || n = 0x1A || n = 0x1B || n = 0x1D then some x.d else none

/-- A queued form has still to write a scalar register. -/
def Thread.owes (t : Thread) (d : BitVec 6) : Bool := d ≠ 0 && t.vq.any fun r => r.dst = .scalar d.toNat


/-- After a scalar word of an access-unit context has retired, an older queued form no longer writes the register that it
has written. -/
def State.ownsScalar (s : State) (a : Agent) (w : Word32) : State :=
  let t := (s.thread? a).getD .empty
  match a.role, accessWrites w with
  | .access, some d =>
    if t.stall = .none && decide (t.wait = .none) then
      s.modThread a fun t => { t with vq := t.vq.map fun r => if r.dst = .scalar d.toNat then { r with dst := .none } else r }
    else s
  | _, _ => s

/-- A plain scalar load (R175): destination, base, offset in bytes, size and sign. -/
def plainLoad (i : Instr) : Option (BitVec 6 × BitVec 6 × Word × Nat × Bool) :=
  match i with
  | .lb d a o => some (d, a, o.signExtend 64, 1, true)
  | .lh d a o => some (d, a, o.signExtend 64 * 2, 2, true)
  | .lw d a o => some (d, a, o.signExtend 64 * 4, 4, true)
  | .ld d a o => some (d, a, o.signExtend 64 * 8, 8, false)
  | .lbu d a o => some (d, a, o.signExtend 64, 1, false)
  | .lhu d a o => some (d, a, o.signExtend 64 * 2, 2, false)
  | .lwu d a o => some (d, a, o.signExtend 64 * 4, 4, false)
  | _ => none

/-- Whether the scalar accesses of an access-unit context wait for its queue: for a VFENCE, by its kind (R182, R240, R253),
and while it holds no lane groups also for the elements of older forms, which are then of the same slice: a load takes its
value before an older store none of whose bytes it reads, and every other access comes after all of them (R116, R253). A
plain load is given by its address and size. -/
def State.behindQueue (s : State) (a : Agent) (plain : Option (Nat × Nat)) : Bool :=
  let t := (s.thread? a).getD .empty
  let mine : List Span := [(plain, false)]
  t.vq.any fun r => !r.done && match r.op with
    | .fence _ kind => kind ≠ 2 || plain.isNone
    | .store _ _ =>
      let left := s.pendingIn a r 0
      !left.isEmpty && (plain.isNone || (t.spans (s.gangOf a.gang) r left).any fun x => mine.any x.meets)
    | .load (.far _) _ _ => false
    | .load _ _ _ => !(s.pendingIn a r 0).isEmpty
    | _ => false

/-- A word of an access-unit context waits for a register that a queued form writes (R250), and a scalar access of it for
older forms of its queue (R253). -/
noncomputable def State.waitsScalar (s : State) (a : Agent) (w : Word32) : Bool :=
  let major := (w.extractLsb' 26 6).toNat
  decide (a.role = .access) && ((accessReads w).any ((s.thread? a).getD .empty).owes ||
    (decide (0x10 ≤ major) && decide (major ≤ 0x13) &&
      s.behindQueue a (match Sys2Proof.decode .access w with
        | .ok i => (plainLoad i).map fun x => ((((s.thread? a).getD .empty).reg x.2.1.toNat + x.2.2.1).toNat, x.2.2.2.1)
        | .error _ => none)))

/-- The scalar registers that a word of a hart reads, where it may pass a load in flight (R146 to R153). -/
def hartReads (w : Word32) : List (BitVec 6) :=
  let (d, a, b, f) := (w.extractLsb' 20 6, wordA w, wordB w, (wordF w).toNat)
  match (w.extractLsb' 26 6).toNat with
  | 0x00 | 0x0C | 0x0D => [a, b]
  | 0x0E | 0x0F => [a, b, w.extractLsb' 2 6]
  | 0x0A | 0x0B | 0x1A => []
  | 0x14 | 0x15 | 0x16 | 0x17 | 0x18 | 0x19 => [d, a]
  | 0x1E => [d]
  | 0x1F => if f = 2 then [a] else []
  | 0x2C => if f = 0 then [a] else [a, b]
  | 0x3C => if f = 2 then [a, b] else [d, a, b]
  | n =>
    if n = 0x3D && decide (8 ≤ f % 32) then [d, a, b] else
    if n ≤ 0x09 || n = 0x1B || n = 0x1D then [a]
    else (if scalarA true w then [a] else []) ++ (if scalarB true w then [b] else []) ++
      if describesFar true w then [a + 1] else []

/-- Whether such a word writes the scalar register that D names and that it does not count as read. -/
def hartWrites (w : Word32) : Bool :=
  let f := (wordF w).toNat
  match (w.extractLsb' 26 6).toNat with
  | 0x1F => f = 1
  | 0x27 => f = 5 || f = 6
  | 0x2A => decide (f % 32 < 6)
  | 0x2C => decide (f ≠ 0)
  | 0x2F => f = 5
  | n => n ≤ 0x0F || n = 0x1A || n = 0x1B || n = 0x1D

/-- Whether a word makes no access of the scalar slice and is none of the mechanisms that order it (R116, R117): scalar
arithmetic, branches, CSRs, branch queues, TASKGET, what is pushed on the vector or the matrix queue, but for VLSYNC, and
what the Catalogue and the Orchard are asked, but for MRECUT, which is a release (R332). -/
def leavesScalarSlice (w : Word32) : Bool :=
  let n := (w.extractLsb' 26 6).toNat
  let f := (wordF w).toNat
  n ≤ 0x0F || (decide (0x14 ≤ n) && decide (n ≤ 0x1B)) || n = 0x1D || (n = 0x1E && f = 1) || n = 0x1F || (decide (0x20 ≤ n) && decide (n ≤ 0x36)) ||
    (n = 0x37 && (f = 1 || f = 7)) || (decide (0x38 ≤ n) && decide (n ≤ 0x3B)) || (n = 0x3C && f ≠ 5) || (n = 0x3D && f ≠ 4) ||
    n = 0x3E

/-- Whether an agent's word may go past its scalar load in flight to register d: it neither reads nor writes that register,
and makes no access of the same slice. The elements of an access-unit context have slices of their own while it has lane
groups (R114, R117); its VFENCE comes after the load (R253). Every other word waits until the load is performed. -/
def State.passesLoad (s : State) (a : Agent) (d : Nat) (w : Word32) : Bool :=
  let clear (r : BitVec 6) : Bool := decide (d = 0) || decide (r.toNat ≠ d)
  leavesScalarSlice w && match a.role with
    | .hart _ => (hartReads w).all clear && (!hartWrites w || clear (w.extractLsb' 20 6))
    | .access =>
      (decide (w.toNat / 2 ^ 26 < 0x20) || decide (s.lanes a ≠ 0)) && decide (w.toNat / 2 ^ 26 ≠ 0x37) &&
        (accessReads w).all clear &&
        match accessWrites w with
        | some r => clear r
        | none => true

/-- Memory gives the value of n bytes for a plain load of a hart that is still to be issued: no mechanism orders it after
what comes before it, but loads in its slice keep their order (R116, R117), and no engine of the hart has work that could
order it (R129). Where an access of these bytes would not be performed, nothing happens. -/
def State.lookAhead (s : State) (a : Agent) (va : Word) (n : Nat) : State :=
  let t := (s.thread? a).getD .empty
  let engine := t.vq.any fun r => match r.op with
    | .cmdb _ | .win | .wmerge | .load (.far _) _ _ => true
    | _ => false
  if !s.engineRuns a || t.ended || t.flight.isSome || engine || !([1, 2, 4, 8].contains n) then s
  else
    match a.role, s.place a t.lvl .read (inWindow va.toNat && !tooWide va) va n n, t.blocker va.toNat n false with
    | .hart _, .ok (.mem pa, s), none =>
      match s.loadAt a 0 (.mem pa) n with
      | some v => (s.noteRead a (.mem pa) n).modThread a fun t => { t with taken := t.taken ++ [⟨pa, n, v⟩] }
      | none => s
    | _, _, _ => s

/-- Whether a word leaves what loads after it have been given ahead: scalar arithmetic, branches, CSRs, branch queues,
vector and matrix forms, and plain stores, which drop what they overlap (R116, R117). -/
def keepsTaken (w : Word32) : Bool :=
  let n := (w.extractLsb' 26 6).toNat
  n ≤ 0x0F || (decide (0x14 ≤ n) && decide (n ≤ 0x1B)) || n = 0x1D || n = 0x1F || (decide (0x20 ≤ n) && decide (n ≤ 0x34)) ||
    (decide (0x38 ≤ n) && decide (n ≤ 0x3B))

/-- The state in which an agent's word is executed, by `o`: a load in flight is performed first, but for a word that passes
it and does not trap, since a trap finds every earlier instruction completed (R166); none while it cannot be. What has been
taken for later loads is given up where the word may order them. -/
def State.landFor (s : State) (a : Agent) (w : Word32) (o : State → Out) : Option State :=
  let s := if keepsTaken w then s else s.forgetTaken a
  match ((s.thread? a).getD .empty).flight with
  | some f =>
    let traps := match o s with
      | .next u => s.trapped u a
      | _ => false
    if s.passesLoad a f.d w && !traps then some s else s.performFlight a
  | none => some s

/-- What a fetched word does (R143). -/
noncomputable def State.meaning (s : State) (a : Agent) (w : Word32) : Out :=
  match Sys2Proof.decode (ctxOf a) w with
  | .error .zeroWord => s.trap cZEROWORD
  | .error .illegal => s.illop
  | .ok i => exec i s

/-- The agent whose instruction a word is, fetched, decoded and executed (R143). -/
noncomputable def State.runWord (s : State) (a : Agent) (w : Word32) : Out :=
  let s := { s with cur := some a, word := w }
  if s.waitsScalar a w then s.stallFor .busy
  else
    match s.landFor a w fun s => s.meaning a w with
    | none => s.stallFor .busy
    | some s => mapNext (s.meaning a w) fun t => t.ownsScalar a w

/-- The same, with the value of a plain load left to be taken later (R117). -/
noncomputable def State.runLate (s : State) (a : Agent) (w : Word32) : Out :=
  match (match Sys2Proof.decode (ctxOf a) w with
    | .ok i => plainLoad i
    | .error _ => none), ((s.thread? a).getD .empty).flight with
  | some (d, b, o, n, sg), none =>
    let s := { s with cur := some a, word := w }
    if s.waitsScalar a w then s.stallFor .busy
    else mapNext (s.startLoad d (s.x b + o) n sg) fun t => t.ownsScalar a w
  | _, _ => s.runWord a w

/-- The same, with a plain load given the value that was taken for it ahead (R117). -/
noncomputable def State.runEarly (s : State) (a : Agent) (w : Word32) : Out :=
  match (match Sys2Proof.decode (ctxOf a) w with
    | .ok i => plainLoad i
    | .error _ => none), ((s.thread? a).getD .empty).flight with
  | some (d, b, o, n, sg), none =>
    let s := { s with cur := some a, word := w }
    if s.waitsScalar a w then s.stallFor .busy
    else mapNext (s.earlyLoad d (s.x b + o) n sg) fun t => t.ownsScalar a w
  | _, _ => s.runWord a w

/-- One attempt of an agent to issue: its pending traps come first (R382). -/
def State.issueWith (s : State) (a : Agent) (k : State → Word32 → Out) : Out :=
  if !s.mayIssue a then .next s
  else if (s.gangOf a.gang).bad then .next (s.trapBad a.gang)
  else
    match a.role with
    | .hart h =>
      match firstCause (s.pendingCauses a.gang h) with
      | some _ => s.landed a fun s => .next (s.takePending a.gang h)
      | none => s.goOn a k
    | .access => s.goOn a k

/-- The moves that a step makes of its own accord or from outside: those that no instruction makes. -/
def isMove (i : Instr) : Bool :=
  match i with
  | .seventW1c _ | .sdstatRead | .fpartWrite _ | .fgrateWrite _ | .fbtabWrite _ _ | .fctest _ | .frcommit
  | .fsvnWrite _ | .fhtest _ | .lgmodeWrite _ | .qenWrite _ | .cgroupWrite _ | .csrWrite _ _ | .fboot _ => false
  | i => (encode i).isNone

/-- Moves of the engine for transfer x of an agent. -/
def xferMoves (a : Agent) (x : Nat) (f : Xfer) : List Instr :=
  match f.kind with
  | .copy c => (if inWindow c.dst.toNat then (List.range 64).map fun b => .copyCommand a ⟨x, b⟩ else [.copyCommand a ⟨x, 0⟩]) ++
      [.copyCompletion a x]
  | .merge _ _ _ _ _ => [.accessPerformed a (.fold x)]
  | .far _ | .receive => []
  | .stream _ _ => [.streamEntry a x]
  | .catalogue _ _ _ => [.adapt a x, .adaptStatus a x]
  | .recut _ _ => [.mrecutStatus a x]
  | .orchard w _ _ =>
    (match orchOpc w with
      | 1 => [.desc a x]
      | 2 => [.expand a x]
      | _ => [.backup a x]) ++ [.orchardRequestPerformed a x]

/-- The elements of a queued load that may be performed before their step (R117). -/
def earlyMoves (a : Agent) (r : VRec) : List Instr :=
  match r.op with
  | .load _ _ _ => if r.done then [] else (List.range r.vl).map fun i => .accessPerformed a (.element r.seq i)
  | _ => []

/-- Moves of an agent: issue, its queues, its load in flight, its write-combining entries and its transfers. -/
def Thread.moves (t : Thread) (a : Agent) : List Turn :=
  let entries := List.range t.wc.length
  [Turn.issue a] ++ ((t.vq.map fun r => Instr.elementGroupCompletion a r.seq) ++
    (t.mq.map fun r => Instr.matrixUnitCompletion a r.ord) ++
    (t.vq.flatMap fun r => earlyMoves a r) ++
    (match t.flight with
      | some _ => [Instr.accessPerformed a .load]
      | none => []) ++
    (entries.map fun i => Instr.accessPerformed a (.entry i)) ++ (entries.map fun i => Instr.wcEntryTimeout a i) ++
    (t.xfers.mapIdx fun i x => xferMoves a i x).flatten ++
    (match t.wait with
      | .answer _ _ => [Instr.catalogueAnswer a]
      | _ => [])).map Turn.event

/-- Moves of a gang at place gi. -/
def Gang.moves (g : Gang) (gi : Nat) : List Turn :=
  (g.harts.mapIdx fun h t => t.moves ⟨gi, .hart h⟩).flatten ++ g.access.moves ⟨gi, .access⟩ ++
  if g.st = .resident then
    [Instr.gangHalt gi, .accessContextStop gi, .gangRetirement gi, .sq3Contribution gi, .lq7Receive gi].map Turn.event
  else []

/-- Moves of a partition p. -/
def PartSt.moves (q : PartSt) (p : Nat) : List Instr :=
  [Instr.placementStep p] ++ (q.chunks.map fun c => Instr.chunkResult p c.gidx c.k) ++
  (q.results.map fun r => Instr.chunkResult p r.1 r.2.2.1) ++
  (q.meshes.mapIdx fun k m =>
    (match m.opening with
      | some _ => [Instr.mopenBuildEnd p k]
      | none => []) ++
    (m.sets.mapIdx fun i x => match x with
      | some y => if y.built then [] else [Instr.sheafSetBuilt p k i]
      | none => []).flatten).flatten

/-- The move that carries out a context command (R396, R397). -/
def CtxCmd.move (x : CtxCmd) (c : Nat) : Instr :=
  if x.result.isSome then .contextCommandStatus c
  else if x.load then (if x.op = 1 then .dresume c else .resume c)
  else
    match x.op with
    | 0 => .suspend c
    | 1 => .killgang c
    | 2 => .killlaunch c
    | _ => .dhalt c

/-- Moves of the boot sequence (R443). -/
def ModSt.moves (m : ModSt) : List Instr :=
  if !m.tested then [.selfTest] else if m.bstat = 0 then [.dclTraining] else if m.bstat = 2 then [.imageCopied] else []

/-- Moves that only the passing of time brings. -/
def clockMoves : List Instr :=
  ((List.range 8).flatMap fun k => [Instr.shelfUnitTick k, .dispatchSample k]) ++
  ((List.range 256).flatMap fun c => [Instr.registerRefresh c, .granaryDebit c]) ++ [Instr.granaryTick] ++
  (List.range 106).map fun n => Instr.arbiterPeriod n

/-- Moves that something in the state waits for. -/
def State.workMoves (s : State) : List Turn :=
  (s.gangs.mapIdx fun gi g => g.moves gi).flatten ++
  (((s.parts.take (2 ^ s.mod.plog)).mapIdx fun p q => q.moves p).flatten ++
    ((s.launches.flatMap fun l => if l.complete then [] else l.queues.map fun q => Instr.gleanerBoundary q.core)) ++
    ((List.range s.moves.length).map fun x => Instr.gleanerArrival x) ++
    ((List.range 8).flatMap fun k => [Instr.turnerRenewal k, .turnerMiss k]) ++
    (s.ctx.mapIdx fun c x => x.move c) ++ s.mod.moves).map Turn.event

/-- The next move of the cyclic order (log 1): time moves on once in 65,536 turns for each of its moves. -/
def State.nextMove (s : State) : Option Turn :=
  match clockMoves[s.turn % 65536]? with
  | some i => some (.event i)
  | none =>
    let l := s.workMoves
    l[s.turn % l.length]?

/-- The state with the boot gang started, one hart of it at level 2 with a word at the pc of a role, and the issue of
that role next (log 7). -/
def State.placeWord (s : State) (r : Role) (w : Word32) : State :=
  let a : Agent := ⟨s.gangs.length, r⟩
  let s := ({ s with mod := { s.mod with off := false } }.startBoot).modCore 0 fun c =>
    { c with stopped := false, icache := c.icache.filter fun l => l.2.1 ≠ lineTag 2 (fwBase + 0x100) }
  let s := s.modGang a.gang fun g => { g with bad := false }
  let s := s.modThread a fun t => { t with pc := BitVec.ofNat 64 (fwBase + 0x100), ended := false }
  { s with mem := s.mem.write (fwBase + 0x100) 4 w.toNat, agenda := [Turn.issue a] }

end Sys2Proof.Machine
end

