-- ==== Sys2Proof/Machine/Step.lean ====
section
/-! DEFINITION. One step of the machine: the next move of the agenda, or else of the cyclic order (log 1), and the
placing of a word where the next step fetches it (log 7). -/

namespace Sys2Proof.Machine

/-- One attempt of an agent to issue an instruction. -/
noncomputable def State.issue (s : State) (a : Agent) : Out := s.issueWith a fun s w => s.runWord a w

/-- A move. An instruction that has a word is never moved by itself, and neither is the write of a CSR, which is part of
the CSR instruction that makes it (R184). -/
noncomputable def State.move (s : State) : Turn → Out
  | .issue a => s.issue a
  | .late a => s.issueWith a fun s w => s.runLate a w
  | .look a va n => .next (s.lookAhead a va n)
  | .early a => s.issueWith a fun s w => s.runEarly a w
  | .event i => if isMove i then exec i s else .next s

/-- One step (R12, R26; log 1): once every clock has stopped, module reset alone acts (R463). -/
noncomputable def step (s : State) : Out :=
  match s.agenda with
  | m :: rest =>
    let s := { s with agenda := rest }
    if s.mod.off && m ≠ .event .moduleReset then .next s else s.move m
  | [] =>
    let t := { s with turn := s.turn + 1 }
    if s.mod.off then .next t
    else
      match s.nextMove with
      | some m => t.move m
      | none => .next t

/-- The machine with an instruction where its next step fetches it (log 7). A module at reset has no gang: the boot gang
stands in, one hart at level 2 on core 0, as IMAGE_COPIED starts it (R447), with the word in its code section. A word
that a hart refuses and an access-unit context accepts is placed for the boot gang's context, at its entry. -/
noncomputable def State.withFetchWord (s : State) (nbits w : Nat) : State :=
  let word : Word32 := BitVec.ofNat 32 (w % 2 ^ nbits)
  match Sys2Proof.decode .execute word, Sys2Proof.decode .access word with
  | .error _, .ok _ => s.placeWord .access word
  | _, _ => s.placeWord (.hart 0) word

end Sys2Proof.Machine
end

