-- ==== Sys2Proof/Safety.lean ====
section
/-! DEFINITION. What statements about the machine are said in: an answer with a property, what may change and what stays,
and the tables that name the instructions of one shape with their results. -/

namespace Sys2Proof.Machine

/-- The outcome is a next state with a property. -/
def Answers (o : Out) (p : State → Prop) : Prop := ∃ t, o = .next t ∧ p t

/-- Every byte of global memory, and of the scratchpad and the scalar data memory of every gang, reads as before. -/
structure SameBytes (s t : State) : Prop where
  mem : ∀ a, Sparse.get t.mem a = Sparse.get s.mem a
  spad : ∀ k a, Sparse.get (t.gangOf k).spad a = Sparse.get (s.gangOf k).spad a
  sdm : ∀ k a, Sparse.get (t.gangOf k).sdm a = Sparse.get (s.gangOf k).sdm a

/-- Nothing has changed but the thread of the agent in execution. -/
def OnlyThread (s t : State) : Prop := t = s.setMe fun _ => t.me

/-- An instruction has retired to a new pc with one scalar register written: every other register keeps its value, a
write to register 0 is discarded, and nothing else of the machine has changed. Retiring ends a stall, uses up a SUPP that
a return has given to this instruction (R385), and counts one instruction to debit (R428). -/
structure Retires (s t : State) (d : Nat) (v pc : Word) : Prop where
  thread : OnlyThread s t
  bytes : SameBytes s t
  regs : ∀ r, t.me.reg r = if r = d ∧ r ≠ 0 then v else s.me.reg r
  rest : t.me = { s.me with
    regs := t.me.regs, pc := pc, stall := .none, supp := s.me.supp && !s.me.suppNow, suppNow := false
    retired := s.me.retired + 1 }

/-- An instruction retires to the next word with one register written; register 0 stands for none. `s` is the state with
its other effects. -/
def Finishes (o : Out) (s : State) (d : Nat) (v : Word) : Prop := Answers o fun t => Retires s t d v (s.pc + 4)

/-- A scalar instruction of three registers. -/
abbrev Form3 := BitVec 6 → BitVec 6 → BitVec 6 → Instr

/-- Major 0x00 and its results (R168, R169). -/
def integerForms : List (Form3 × (Word → Word → Word)) := [
  (.add, fun x y => x + y),
  (.sub, fun x y => x - y),
  (.and, fun x y => x &&& y),
  (.or, fun x y => x ||| y),
  (.xor, fun x y => x ^^^ y),
  (.andn, fun x y => x &&& ~~~y),
  (.sll, fun x y => x <<< (y.extractLsb' 0 6).toNat),
  (.srl, fun x y => x >>> (y.extractLsb' 0 6).toNat),
  (.sra, fun x y => x.sshiftRight (y.extractLsb' 0 6).toNat),
  (.slt, fun x y => if x.toInt < y.toInt then 1 else 0),
  (.sltu, fun x y => if x.toNat < y.toNat then 1 else 0),
  (.seq, fun x y => if x = y then 1 else 0),
  (.min, fun x y => if x.toInt ≤ y.toInt then x else y),
  (.max, fun x y => if x.toInt ≤ y.toInt then y else x),
  (.minu, fun x y => if x.toNat ≤ y.toNat then x else y),
  (.maxu, fun x y => if x.toNat ≤ y.toNat then y else x),
  (.mul, fun x y => BitVec.ofInt 64 (x.toInt * y.toInt)),
  (.mulh, fun x y => (x.signExtend 128 * y.signExtend 128).extractLsb' 64 64),
  (.mulhu, fun x y => (x.setWidth 128 * y.setWidth 128).extractLsb' 64 64),
  (.div, fun x y => if y = 0 then 0xFFFFFFFFFFFFFFFF else x.sdiv y),
  (.divu, fun x y => if y = 0 then 0xFFFFFFFFFFFFFFFF else x / y),
  (.rem, fun x y => if y = 0 then x else x.srem y),
  (.remu, fun x y => if y = 0 then x else x % y),
  (fun d a _ => .clz d a, fun x _ => BitVec.ofNat 64 ((List.range 64).takeWhile fun i => !x.getMsbD i).length),
  (fun d a _ => .ctz d a, fun x _ => BitVec.ofNat 64 ((List.range 64).takeWhile fun i => !x.getLsbD i).length),
  (fun d a _ => .popc d a, fun x _ => BitVec.ofNat 64 ((List.range 64).countP fun i => x.getLsbD i))]

/-- The immediate forms of one source, with their results (R170). -/
def immediateForms : List ((BitVec 6 → BitVec 6 → BitVec 14 → Instr) × (Word → BitVec 14 → Word)) := [
  (.addi, fun x i => x + i.signExtend 64),
  (.andi, fun x i => x &&& i.setWidth 64),
  (.ori, fun x i => x ||| i.setWidth 64),
  (.xori, fun x i => x ^^^ i.setWidth 64),
  (.slti, fun x i => if x.toInt < (i.signExtend 64).toInt then 1 else 0),
  (.sltiu, fun x i => if x.toNat < (i.signExtend 64).toNat then 1 else 0)]

/-- The shifts by an immediate amount (R170). -/
def shiftForms : List (Form3 × (Word → Nat → Word)) := [
  (.slli, fun x n => x <<< n), (.srli, fun x n => x >>> n), (.srai, fun x n => x.sshiftRight n)]

/-- The conditional branches and their conditions on gd and ga (R174). -/
def branchForms : List ((BitVec 6 → BitVec 6 → BitVec 14 → Instr) × (Word → Word → Bool)) := [
  (.beq, fun x y => decide (x = y)),
  (.bne, fun x y => decide (x ≠ y)),
  (.blt, fun x y => decide (x.toInt < y.toInt)),
  (.bge, fun x y => decide (y.toInt ≤ x.toInt)),
  (.bltu, fun x y => decide (x.toNat < y.toNat)),
  (.bgeu, fun x y => decide (y.toNat ≤ x.toNat))]

/-- Instructions of a hart alone: in an access-unit context they raise ILLOP (R155). FENCE, WAITW, the CSR forms, the
scalar majors 0x00 to 0x0B and 0x10 to 0x1B and the forms of the access unit are not among them. -/
def hartOnly (i : Instr) : Bool :=
  match i with
  | .faddD _ _ _ | .fsubD _ _ _ | .fmulD _ _ _ | .fdivD _ _ _ | .fsqrtD _ _ | .fminD _ _ _ | .fmaxD _ _ _
  | .fsgnjD _ _ _ | .fsgnjnD _ _ _ | .fsgnjxD _ _ _ | .feqD _ _ _ | .fltD _ _ _ | .fleD _ _ _ | .fclassD _ _
  | .fcvtLD _ _ | .fcvtLuD _ _ | .fcvtFlD _ _ | .fcvtFluD _ _ | .fcvtWD _ _
  | .faddS _ _ _ | .fsubS _ _ _ | .fmulS _ _ _ | .fdivS _ _ _ | .fsqrtS _ _ | .fminS _ _ _ | .fmaxS _ _ _
  | .fsgnjS _ _ _ | .fsgnjnS _ _ _ | .fsgnjxS _ _ _ | .feqS _ _ _ | .fltS _ _ _ | .fleS _ _ _ | .fclassS _ _
  | .fcvtLS _ _ | .fcvtLuS _ _ | .fcvtFlS _ _ | .fcvtFluS _ _ | .fcvtWS _ _
  | .fmaddD _ _ _ _ | .fmsubD _ _ _ _ | .fnmaddD _ _ _ _ | .fnmsubD _ _ _ _
  | .fmaddS _ _ _ _ | .fmsubS _ _ _ _ | .fnmaddS _ _ _ _ | .fnmsubS _ _ _ _
  | .fenceSv | .ifence | .barsync | .barrive | .bardrop | .barwait
  | .taskget _ | .taskput _ | .launch _ _ | .kend | .brk | .bqpop _ _
  | .vfmadd _ _ _ _ _ _ _ | .vfmsub _ _ _ _ _ _ _ | .vfnmadd _ _ _ _ _ _ _ | .vfnmsub _ _ _ _ _ _ _
  | .vaddAcc _ _ _ _ _ _ | .vsubAcc _ _ _ _ _ _ | .vmulAcc _ _ _ _ _ _ | .vdivAcc _ _ _ _ _ _ | .vminAcc _ _ _ _ _ _
  | .vmaxAcc _ _ _ _ _ _ | .vsaddAcc _ _ _ _ _ _ | .vssubAcc _ _ _ _ _ _ | .vmulhAcc _ _ _ _ _ _ | .vremAcc _ _ _ _ _ _
  | .vandAcc _ _ _ _ _ _ | .vorAcc _ _ _ _ _ _ | .vxorAcc _ _ _ _ _ _ | .vsllAcc _ _ _ _ _ _ | .vshrAcc _ _ _ _ _ _
  | .vsqrtAcc _ _ _ _ _ | .vabsAcc _ _ _ _ _ | .vnegAcc _ _ _ _ _ | .vsgnjAcc _ _ _ _ _ _ | .vsgnjnAcc _ _ _ _ _ _
  | .vsgnjxAcc _ _ _ _ _ _ | .vclassAcc _ _ _ _ _ | .vmvAcc _ _ _ _ _ | .vfmaddAcc _ _ _ _ _ _ | .vfmsubAcc _ _ _ _ _ _
  | .vfnmaddAcc _ _ _ _ _ _ | .vfnmsubAcc _ _ _ _ _ _ | .vcvt _ _ _ _ _
  | .vredsum _ _ _ _ _ | .vredmin _ _ _ _ _ | .vredmax _ _ _ _ _ | .vredand _ _ _ _ _ | .vredor _ _ _ _ _
  | .vredxor _ _ _ _ _ | .vscansum _ _ _ _ | .vscanmin _ _ _ _ | .vscanmax _ _ _ _ | .vfunc _ _ _ _ | .vcfg _ _
  | .vsetvl _ _ _ | .vsetvlP _ _ _ | .vgete _ _ _ | .vsete _ _ _ | .vsalsel _ _ _ _ _ _
  | .vld _ _ _ _ _ _ _ | .vlds _ _ _ _ _ _ _ _ | .vldx _ _ _ _ _ _ _ _ | .vst _ _ _ _ _ | .vsts _ _ _ _ _ _
  | .vstx _ _ _ _ _ _ | .vwin _ _ | .vwacc _ _ _ | .vwmerge | .vlsync | .spalloc _ _ _ | .spfree _ | .sprenew _ _
  | .spage _ _ | .vfar _ _ _ | .mma _ _ _ _ _ _ _ _ | .mld _ _ _ | .mst _ _ _ | .mzero _ | .mwrow _ _ | .maddrow _ _
  | .mwait | .mopen _ _ | .mclose _ | .msheaf _ _ _ | .mgenrel _ _ | .mrecut _ _ | .mquery _ _
  | .vsowF32 _ _ _ _ | .vsowF64 _ _ _ _ | .vsowN32 _ _ _ _ | .sowload _ | .onew _ _ | .odesc _ _ | .oexpand _ _ _
  | .obackup _ _ _ | .oreuse _ _ | .ofree _ _ | .oread _ _ _ | .cmdbCopy _ _ _ | .cmdbCat _ _ _ | .cmdbOrch _ _ _
  | .tret | .ctxsave _ | .ctxload _ | .xlinv _ _ | .wfi | .fwcall | .haltc _ | .haltcRelease _ => true
  | _ => false

/-- Instructions of an access-unit context alone (R155): on a hart they raise ILLOP. -/
def accessOnly (i : Instr) : Bool :=
  match i with
  | .accessKend | .bqpush _ _ | .ald _ _ _ _ _ _ | .aldCl _ | .agather _ _ _ _ _ | .atrans _ _ _ _ _ | .ast _ _ _ _ _
  | .astCl _ | .ascat _ _ _ _ | .afar _ _ _ _ => true
  | _ => false

/-- Instructions that push to the vector or the matrix queue of a hart, and those that R384 names beside them: ILLOP
while the queues are frozen. -/
def frozenIllop (i : Instr) : Bool :=
  match i with
  | .vadd _ _ _ _ _ _ _ _ | .vsub _ _ _ _ _ _ _ _ | .vmul _ _ _ _ _ _ _ _ | .vdiv _ _ _ _ _ _ _ _ | .vmin _ _ _ _ _ _ _ _
  | .vmax _ _ _ _ _ _ _ _ | .vsadd _ _ _ _ _ _ _ _ | .vssub _ _ _ _ _ _ _ _ | .vmulh _ _ _ _ _ _ _ _
  | .vrem _ _ _ _ _ _ _ _ | .vand _ _ _ _ _ _ _ _ | .vor _ _ _ _ _ _ _ _ | .vxor _ _ _ _ _ _ _ _ | .vsll _ _ _ _ _ _ _ _
  | .vshr _ _ _ _ _ _ _ _ | .vsqrt _ _ _ _ _ _ _ | .vabs _ _ _ _ _ _ _ | .vneg _ _ _ _ _ _ _ | .vsgnj _ _ _ _ _ _ _ _
  | .vsgnjn _ _ _ _ _ _ _ _ | .vsgnjx _ _ _ _ _ _ _ _ | .vclass _ _ _ _ _ _ _ | .vmv _ _ _ _ _ _ _
  | .vfmadd _ _ _ _ _ _ _ | .vfmsub _ _ _ _ _ _ _ | .vfnmadd _ _ _ _ _ _ _ | .vfnmsub _ _ _ _ _ _ _
  | .vaddAcc _ _ _ _ _ _ | .vsubAcc _ _ _ _ _ _ | .vmulAcc _ _ _ _ _ _ | .vdivAcc _ _ _ _ _ _ | .vminAcc _ _ _ _ _ _
  | .vmaxAcc _ _ _ _ _ _ | .vsaddAcc _ _ _ _ _ _ | .vssubAcc _ _ _ _ _ _ | .vmulhAcc _ _ _ _ _ _ | .vremAcc _ _ _ _ _ _
  | .vandAcc _ _ _ _ _ _ | .vorAcc _ _ _ _ _ _ | .vxorAcc _ _ _ _ _ _ | .vsllAcc _ _ _ _ _ _ | .vshrAcc _ _ _ _ _ _
  | .vsqrtAcc _ _ _ _ _ | .vabsAcc _ _ _ _ _ | .vnegAcc _ _ _ _ _ | .vsgnjAcc _ _ _ _ _ _ | .vsgnjnAcc _ _ _ _ _ _
  | .vsgnjxAcc _ _ _ _ _ _ | .vclassAcc _ _ _ _ _ | .vmvAcc _ _ _ _ _ | .vfmaddAcc _ _ _ _ _ _ | .vfmsubAcc _ _ _ _ _ _
  | .vfnmaddAcc _ _ _ _ _ _ | .vfnmsubAcc _ _ _ _ _ _ | .vcmpeq _ _ _ _ _ | .vcmpne _ _ _ _ _ | .vcmplt _ _ _ _ _
  | .vcmple _ _ _ _ _ | .vcmpgt _ _ _ _ _ | .vcmpge _ _ _ _ _ | .vcmpunord _ _ _ _ _ | .vmand _ _ _ | .vmor _ _ _
  | .vmxor _ _ _ | .vmandn _ _ _ | .vmnot _ _ | .vmpopc _ _ | .vmfirst _ _ | .vmset _ | .vcvt _ _ _ _ _
  | .vslideup _ _ _ _ | .vslidedn _ _ _ _ | .vgathr _ _ _ _ | .vsend _ _ _ _ | .vcmprs _ _ _ | .vexpnd _ _ _
  | .vresh _ _ _ _ | .vbcast _ _ _ | .vslide1up _ _ _ _ | .vslide1dn _ _ _ _ | .vredsum _ _ _ _ _ | .vredmin _ _ _ _ _
  | .vredmax _ _ _ _ _ | .vredand _ _ _ _ _ | .vredor _ _ _ _ _ | .vredxor _ _ _ _ _ | .vscansum _ _ _ _
  | .vscanmin _ _ _ _ | .vscanmax _ _ _ _ | .vfunc _ _ _ _ | .vcfg _ _ | .vsetvl _ _ _ | .vsetvlP _ _ _ | .vid _ _
  | .vsel _ _ _ | .vgete _ _ _ | .vsete _ _ _ | .vsalsel _ _ _ _ _ _ | .vld _ _ _ _ _ _ _ | .vlds _ _ _ _ _ _ _ _
  | .vldx _ _ _ _ _ _ _ _ | .vst _ _ _ _ _ | .vsts _ _ _ _ _ _ | .vstx _ _ _ _ _ _ | .vwin _ _ | .vwacc _ _ _ | .vwmerge
  | .vlsync | .vfence _ _ | .vfar _ _ _ | .mma _ _ _ _ _ _ _ _ | .mld _ _ _ | .mst _ _ _ | .mzero _ | .mwrow _ _
  | .maddrow _ _ | .mwait | .mstream _ _ _ | .vsowF32 _ _ _ _ | .vsowF64 _ _ _ _ | .vsowN32 _ _ _ _ | .oexpand _ _ _
  | .cmdbCopy _ _ _ | .cmdbCat _ _ _ | .cmdbOrch _ _ _ | .taskget _ => true
  | _ => false

/-- The privileged instructions (major 0x3F) and the level each requires (R379, R385, R397, R403 to R405, R417). -/
def requiredLevel (i : Instr) : Option Nat :=
  match i with
  | .tret | .ctxsave _ | .ctxload _ | .xlinv _ _ | .wfi | .fwcall => some 1
  | .haltc _ | .haltcRelease _ => some 2
  | _ => none

/-- A hart has entered a handler (R383): what is frozen, saved and changed in its thread, and what is not. `level` is the
level entered and `handler` its address. -/
structure Entered (t u : Thread) (c : Cause) (record : List Word) (level : Nat) (handler : Word) : Prop where
  lvl : u.lvl = level
  pc : u.pc = handler
  frz : u.frz = true
  wait : u.wait = .none
  stall : u.stall = .none
  kept : u.kept = if t.frz then t.kept else t.wait
  wq : u.wq = (t.wq || (match t.wait with | .gd _ => true | _ => false))
  aflt : u.aflt = decide (c.src = 3)
  bskip : u.bskip = (t.bskip && (decide (t.stall = .none) || decide (t.lvl ≠ 0)))
  suppNow : u.suppNow = false
  suppKept : u.suppKept = if t.suppNow then t.lvl :: t.suppKept else t.suppKept
  saved1 : level = 1 → u.sfrec = record ∧ u.sepc = t.pc ∧ u.plvl = t.lvl ∧
    u.ffrec = t.ffrec ∧ u.fepc = t.fepc ∧ u.fplvl = t.fplvl
  saved2 : level = 2 → u.ffrec = record ∧ u.fepc = t.pc ∧ u.fplvl = t.lvl ∧
    u.sfrec = t.sfrec ∧ u.sepc = t.sepc ∧ u.plvl = t.plvl
  rest : u = { t with
    lvl := u.lvl, pc := u.pc, frz := u.frz, wait := u.wait, stall := u.stall, kept := u.kept, wq := u.wq, aflt := u.aflt
    bskip := u.bskip, suppNow := u.suppNow, suppKept := u.suppKept
    sfrec := u.sfrec, sepc := u.sepc, plvl := u.plvl, ffrec := u.ffrec, fepc := u.fepc, fplvl := u.fplvl }

/-- A scalar floating-point instruction has retired: as Retires, with the flags ORed into fflags and frm as given. -/
structure RetiresFloat (s t : State) (d : Nat) (v : Word) (fl : BitVec 6) (frm : Word) : Prop where
  thread : OnlyThread s t
  bytes : SameBytes s t
  regs : ∀ r, t.me.reg r = if r = d ∧ r ≠ 0 then v else s.me.reg r
  rest : t.me = { s.me with
    regs := t.me.regs, fflags := s.me.fflags ||| fl, frm := frm, pc := s.pc + 4, stall := .none
    supp := s.me.supp && !s.me.suppNow, suppNow := false, retired := s.me.retired + 1 }

/-- A scalar instruction of four registers; forms of fewer ignore the others. -/
abbrev Form4 := BitVec 6 → BitVec 6 → BitVec 6 → BitVec 6 → Instr

/-- A scalar instruction that rounds once (R171 to R173): the tag of its result, whether it rounds by the Sower under
RM = 4 (R77), and its exact value from RM and the three source registers. -/
structure RoundingForm where
  instr : Form4
  tag : Tag
  sower : Bool
  value : Nat → Word → Word → Word → Val × BitVec 6

/-- The rounding forms (R172, R173). -/
def roundingForms : List RoundingForm := [
  ⟨fun d a b _ => .faddD d a b, .f64, true, fun rm x y _ => Val.add rm (decode .f64 x) (decode .f64 y)⟩,
  ⟨fun d a b _ => .fsubD d a b, .f64, true, fun rm x y _ => Val.sub rm (decode .f64 x) (decode .f64 y)⟩,
  ⟨fun d a b _ => .fmulD d a b, .f64, true, fun _ x y _ => Val.mul (decode .f64 x) (decode .f64 y)⟩,
  ⟨fun d a b _ => .fdivD d a b, .f64, false, fun _ x y _ => Val.div (decode .f64 x) (decode .f64 y)⟩,
  ⟨fun d a _ _ => .fsqrtD d a, .f64, false, fun _ x _ _ => Val.sqrt (decode .f64 x)⟩,
  ⟨fun d a _ _ => .fcvtLD d a, .i64, true, fun _ x _ _ => (decode .f64 x, 0)⟩,
  ⟨fun d a _ _ => .fcvtLuD d a, .n64, true, fun _ x _ _ => (decode .f64 x, 0)⟩,
  ⟨fun d a _ _ => .fcvtFlD d a, .f64, true, fun _ x _ _ => (Val.ofInt x.toInt, 0)⟩,
  ⟨fun d a _ _ => .fcvtFluD d a, .f64, true, fun _ x _ _ => (Val.ofInt (x.toNat : Int), 0)⟩,
  ⟨fun d a _ _ => .fcvtWD d a, .f32, true, fun _ x _ _ => (decode .f64 x, 0)⟩,
  ⟨.fmaddD, .f64, true, fun rm x y z => fmaVal .madd rm (decode .f64 x) (decode .f64 y) (decode .f64 z)⟩,
  ⟨.fmsubD, .f64, true, fun rm x y z => fmaVal .msub rm (decode .f64 x) (decode .f64 y) (decode .f64 z)⟩,
  ⟨.fnmaddD, .f64, true, fun rm x y z => fmaVal .nmadd rm (decode .f64 x) (decode .f64 y) (decode .f64 z)⟩,
  ⟨.fnmsubD, .f64, true, fun rm x y z => fmaVal .nmsub rm (decode .f64 x) (decode .f64 y) (decode .f64 z)⟩,
  ⟨fun d a b _ => .faddS d a b, .f32, true, fun rm x y _ => Val.add rm (decode .f32 x) (decode .f32 y)⟩,
  ⟨fun d a b _ => .fsubS d a b, .f32, true, fun rm x y _ => Val.sub rm (decode .f32 x) (decode .f32 y)⟩,
  ⟨fun d a b _ => .fmulS d a b, .f32, true, fun _ x y _ => Val.mul (decode .f32 x) (decode .f32 y)⟩,
  ⟨fun d a b _ => .fdivS d a b, .f32, false, fun _ x y _ => Val.div (decode .f32 x) (decode .f32 y)⟩,
  ⟨fun d a _ _ => .fsqrtS d a, .f32, false, fun _ x _ _ => Val.sqrt (decode .f32 x)⟩,
  ⟨fun d a _ _ => .fcvtLS d a, .i64, true, fun _ x _ _ => (decode .f32 x, 0)⟩,
  ⟨fun d a _ _ => .fcvtLuS d a, .n64, true, fun _ x _ _ => (decode .f32 x, 0)⟩,
  ⟨fun d a _ _ => .fcvtFlS d a, .f32, true, fun _ x _ _ => (Val.ofInt x.toInt, 0)⟩,
  ⟨fun d a _ _ => .fcvtFluS d a, .f32, true, fun _ x _ _ => (Val.ofInt (x.toNat : Int), 0)⟩,
  ⟨.fmaddS, .f32, true, fun rm x y z => fmaVal .madd rm (decode .f32 x) (decode .f32 y) (decode .f32 z)⟩,
  ⟨.fmsubS, .f32, true, fun rm x y z => fmaVal .msub rm (decode .f32 x) (decode .f32 y) (decode .f32 z)⟩,
  ⟨.fnmaddS, .f32, true, fun rm x y z => fmaVal .nmadd rm (decode .f32 x) (decode .f32 y) (decode .f32 z)⟩,
  ⟨.fnmsubS, .f32, true, fun rm x y z => fmaVal .nmsub rm (decode .f32 x) (decode .f32 y) (decode .f32 z)⟩]

/-- The scalar floating-point forms that never round, with result and flags (R172). -/
def exactForms : List (Form3 × (Word → Word → Word × BitVec 6)) :=
  let minMax (t : Tag) (isMax : Bool) (x y : Word) : Word × BitVec 6 :=
    let v := Val.minMax isMax (decode t x) (decode t y)
    ((roundEven t v.1).1, v.2)
  let cmp (t : Tag) (f : CmpFn) (x y : Word) : Word × BitVec 6 :=
    let c := compareVals f (decode t x) (decode t y)
    (if c.1 then 1 else 0, c.2)
  let cls (t : Tag) (x : Word) : Word × BitVec 6 := (BitVec.ofNat 64 (2 ^ classOf t x), 0)
  [(.fminD, minMax .f64 false), (.fmaxD, minMax .f64 true),
   (.fsgnjD, fun x y => (withSign .f64 (y.getLsbD 63) x, 0)),
   (.fsgnjnD, fun x y => (withSign .f64 (!y.getLsbD 63) x, 0)),
   (.fsgnjxD, fun x y => (withSign .f64 (x.getLsbD 63 != y.getLsbD 63) x, 0)),
   (.feqD, cmp .f64 .eq), (.fltD, cmp .f64 .lt), (.fleD, cmp .f64 .le),
   (fun d a _ => .fclassD d a, fun x _ => cls .f64 x),
   (.fminS, minMax .f32 false), (.fmaxS, minMax .f32 true),
   (.fsgnjS, fun x y => (withSign .f32 (y.getLsbD 31) x, 0)),
   (.fsgnjnS, fun x y => (withSign .f32 (!y.getLsbD 31) x, 0)),
   (.fsgnjxS, fun x y => (withSign .f32 (x.getLsbD 31 != y.getLsbD 31) x, 0)),
   (.feqS, cmp .f32 .eq), (.fltS, cmp .f32 .lt), (.fleS, cmp .f32 .le),
   (fun d a _ => .fclassS d a, fun x _ => cls .f32 x),
   (fun d a _ => .fcvtWS d a, fun x _ => roundEven .f64 (decode .f32 x))]

/-- Nothing of the agent in execution is in flight: its queues, its write-combining buffer and its interlock table are
empty, so that every fence, release and wait of R119 to R124 is over. -/
structure Quiet (s : State) : Prop where
  live : s.live = true
  vq : s.me.vq = []
  mq : s.me.mq = []
  wc : s.me.wc = []
  xfers : s.me.xfers = []
  flight : s.me.flight = none
  seen : s.myGang.unreleased s.me = false

/-- A scalar access of n bytes passes the first four checks of R167 and meets no transfer in flight, and lands at a place
(R92, R128, R129, R412); the state after it holds the translation. -/
def State.places (s : State) (acc : Acc) (va : Word) (n : Nat) (p : Place) (t : State) : Prop :=
  s.place s.who s.me.lvl acc (inWindow va.toNat && !tooWide va) va n n = .ok (p, t) ∧
    t.me.blocker va.toNat n (acc ≠ .read) = none

/-- A scalar access of n bytes passes every check, those made as the bytes are read among them (R101, R167). -/
def State.reaches (s : State) (acc : Acc) (va : Word) (n : Nat) (p : Place) (t : State) : Prop :=
  s.places acc va n p t ∧ t.barred t.who.gang acc p n = none

/-- What an instruction comes to whose scalar access fails: a trap with the first of checks 1 to 4 that fails, with the cause
of a transfer in flight that tells one, a stall for any other transfer in its way, and a trap with check 5 or 6 (R129,
R167). -/
structure State.Denies (s : State) (o : Out) (acc : Acc) (va : Word) (n : Nat) : Prop where
  placed : ∀ e, s.place s.who s.me.lvl acc (inWindow va.toNat && !tooWide va) va n n = .error e → o = s.trapMem e acc
  crossed : ∀ (s1 : State) (pl : Place) (x : Xfer),
    s.place s.who s.me.lvl acc (inWindow va.toNat && !tooWide va) va n n = .ok (pl, s1) →
    s1.me.blocker va.toNat n (acc ≠ .read) = some x → o = if x.tells then s1.trapXfer x else s1.stallFor .busy
  spoilt : ∀ (s1 : State) (pl : Place) (c : Nat), s.places acc va n pl s1 → s1.barred s1.who.gang acc pl n = some c →
    o = s1.trapMem ⟨c, va⟩ acc

/-- What a scalar load writes: n bytes, sign-extended or not (R175). -/
def loaded (n : Nat) (isSigned : Bool) (v : Nat) : Word :=
  if isSigned then (BitVec.ofNat (8 * n) v).signExtend 64 else BitVec.ofNat 64 v

/-- The scalar loads: size and sign (R175). -/
def loadForms : List ((BitVec 6 → BitVec 6 → BitVec 11 → Instr) × Nat × Bool) := [
  (.lb, 1, true), (.lh, 2, true), (.lw, 4, true), (.ld, 8, false), (.lbu, 1, false), (.lhu, 2, false), (.lwu, 4, false)]

/-- The load-acquires (R176). -/
def acquireForms : List ((BitVec 6 → BitVec 6 → BitVec 3 → Instr) × Nat × Bool) := [
  (.lbAq, 1, true), (.lhAq, 2, true), (.lwAq, 4, true), (.ldAq, 8, false), (.lbuAq, 1, false), (.lhuAq, 2, false),
  (.lwuAq, 4, false)]

/-- The scalar stores (R175). -/
def storeForms : List ((BitVec 6 → BitVec 6 → Bool → BitVec 10 → Instr) × Nat) := [
  (.sb, 1), (.sh, 2), (.sw, 4), (.sd, 8)]

/-- The store-releases (R176). -/
def releaseForms : List ((BitVec 6 → BitVec 6 → BitVec 3 → Instr) × Nat) := [
  (.sbRl, 1), (.shRl, 2), (.swRl, 4), (.sdRl, 8)]

/-- An atomic of R177: its new value from the number of bytes, the old value, the operand and the comparand, and
whether it returns its word without sign extension (R40). -/
structure AtomicForm where
  instr : BitVec 6 → BitVec 6 → BitVec 6 → BitVec 2 → Bool → Bool → Instr
  float : Bool
  new : Nat → Nat → Nat → Nat → Option Nat

/-- The atomics but for AMOADD.TW (R177). -/
def atomicForms : List AtomicForm := [
  ⟨.amoadd, false, fun _ m b _ => some (m + b)⟩,
  ⟨.amoswap, false, fun _ _ b _ => some b⟩,
  ⟨.amoand, false, fun _ m b _ => some (m &&& b)⟩,
  ⟨.amoor, false, fun _ m b _ => some (m ||| b)⟩,
  ⟨.amoxor, false, fun _ m b _ => some (m ^^^ b)⟩,
  ⟨.amomin, false, fun n m b _ => some (if signedBytes n m < signedBytes n b then m else b)⟩,
  ⟨.amomax, false, fun n m b _ => some (if signedBytes n m < signedBytes n b then b else m)⟩,
  ⟨.amominu, false, fun _ m b _ => some (min m b)⟩,
  ⟨.amomaxu, false, fun _ m b _ => some (max m b)⟩,
  ⟨.amocas, false, fun _ m b e => if m = e then some b else none⟩,
  ⟨.amofadd, true, fun n m b _ =>
    let t := if n = 8 then Tag.f64 else .f32
    some (roundEven t (Val.add 0 (decode t (BitVec.ofNat 64 m)) (decode t (BitVec.ofNat 64 b))).1).1.toNat⟩]

/-- CSRs that read as they were last written, with the mask of the bits they keep and the level that may name them (R75,
R80, R279, R380, R409, R443). -/
def keptCsrs : List (BitVec 12 × Word × Nat) := [
  (0x008, 0x1FFFFFF, 0), (0x011, 0x3F, 0), (0x101, 0xFFFFFFFFFFFFFFFC, 1), (0x102, 0xFFFFFFFFFFFFFFFF, 1),
  (0x103, 0xFFFFFFFFFFFFFFFF, 1), (0x105, 7, 1), (0x110, 0xFFFFFFFFFFFFFFFD, 1), (0x111, 0xFFFFFFFFFFFFFFFD, 1),
  (0x112, 0xFFFFFFFFFFFFFFFD, 1), (0x113, 0xFFFFFFFFFFFFFFFD, 1), (0x120, 0x000FFFFFFFFF0000, 1),
  (0x122, 0x000FFFFFFFFFFF00, 1), (0x123, 0x0000FFFFFFFFFF00, 1), (0x124, 0x000FFFFFFFFFF001, 1),
  (0x125, 0x000FFFFFFFFFF001, 1), (0x201, 0xFFFFFFFFFFFFFFFC, 2), (0x202, 0xFFFFFFFFFFFFFFFF, 2),
  (0x203, 0xFFFFFFFFFFFFFFFF, 2), (0x212, 0x1FFFFF, 2), (0x214, 0x7FFFFFFFFFFFFFFF, 2), (0x215, 0xFFFFFFFFFF, 2),
  (0x260, 0xFFFF, 2)]

/-- An instruction has been pushed on the vector queue, or the access queue, as record r: it is the youngest, and
nothing else of the machine has changed but its tag note and the pc, or the wait of a hart that needs its result (R198,
R250). -/
structure Queued (s t : State) (r : VRec) : Prop where
  thread : OnlyThread s t
  bytes : SameBytes s t
  me : t.me = { s.me with
    vq := s.me.vq ++ [r], vqtail := s.me.vqtail + 1, ordNext := s.me.ordNext + 1, vregs := r.noteTag s.me.vregs
    pc := if s.onHart && r.waits then s.pc else s.pc + 4
    wait := if s.onHart && r.waits then .gd r.seq else s.me.wait, stall := .none
    supp := s.me.supp && ((s.onHart && r.waits) || !s.me.suppNow)
    suppNow := s.onHart && r.waits && s.me.suppNow
    retired := if s.onHart && r.waits then s.me.retired else s.me.retired + 1 }

/-- A push on the matrix queue (R273). -/
structure QueuedMatrix (s t : State) (r : VRec) : Prop where
  thread : OnlyThread s t
  bytes : SameBytes s t
  me : t.me = { s.me with
    mq := s.me.mq ++ [r], ordNext := s.me.ordNext + 1, pc := s.pc + 4, stall := .none
    supp := s.me.supp && !s.me.suppNow, suppNow := false, retired := s.me.retired + 1 }

/-- An instruction is pushed as record r. -/
def Pushes (o : Out) (s : State) (r : VRec) : Prop := Answers o fun t => Queued s t r

/-- The vector queue takes a push: it is not frozen, and holds fewer than 64 records, or 16 of an access-unit context
(R55, R249, R384). -/
def State.room (s : State) : Prop :=
  s.live = true ∧ s.me.frz = false ∧ s.me.vq.length < if s.onHart then 64 else 16

/-- The second source of a form whose G bit puts a scalar register in its place (R150, R197). -/
def State.second (s : State) (u : Option Tag) (s1 s2 : State) (x y : Operand) (b : BitVec 6) (g : Bool) : Prop :=
  if g then y = ⟨.scalar (scalarUnder x.tag s.me.frm (s.x b)), x.tag, 2 ^ 32, none⟩ ∧ s2 = s1
  else s1.vsource u b = .ok (y, s2)

/-- What comes of a form whose sources have been resolved under `u` and whose other checks hold. `u` is none where its
queues are popped, and otherwise a tag that stands for that of every queue source: where the form has length 0 and a queue
among its sources it pops none, and is pushed as `e`, which does nothing, if some tag lets its checks hold (R196; log 88).
Otherwise it is pushed as `r` on the state `t`. -/
def State.Takes (s : State) (f : Fields) (u : Option Tag) (o : Out) (t : State) (r e : VRec) : Prop :=
  s.named f = .ok () → if s.popsNothing f then u.isSome = true → Pushes o s e else u = none → Pushes o t r

/-- What holds once the next n steps of a record of an agent's queue have been performed one after the other (R53). -/
def AfterGroups (a : Agent) (seq : Nat) (p : State → Prop) : Nat → State → Prop
  | 0, s => p s
  | n + 1, s => Answers (exec (.elementGroupCompletion a seq) s) (AfterGroups a seq p n)

/-- The agent in execution is a hart that has nothing queued and whose queues run, that meets no expired register and
enables no floating-point trap: what its next vector instruction needs to be performed at once (R54, R62, R80, R384). -/
structure RunsQueue (s : State) (a : Agent) : Prop where
  room : s.room
  cur : s.cur = some a
  onHart : s.onHart = true
  vq : s.me.vq = []
  mq : s.me.mq = []
  runs : s.mayRun a = true
  fresh : ∀ n, (s.me.vreg n).expired = false
  quiet : s.me.frm.toNat / 2 ^ 8 % 32 = 0

/-- The one record of an agent's queue has a next step that may be performed and raises nothing, there is room for an entry
that it begins, and no scalar thread waits for it (R53, R54, R62, R80, R254, R269). -/
structure StepsNext (s : State) (a : Agent) (g : Gang) (t : Thread) (r : VRec) : Prop where
  gang : s.gangs[a.gang]? = some g
  thread : g.thread? a.role = some t
  vq : t.vq = [r]
  runs : s.mayRun a = true
  stuck : r.stuck = false
  left : r.done = false
  groups : r.groups ≠ 0
  ready : s.stepReady a r r.pi = true
  fresh : r.sregAt g t r.pi = none
  popped : r.pi = 0 → r.entryCause g = none
  uncut : r.cut = none
  begins : s.beginEntry a r ≠ none
  target : ∀ n, r.dst = .reg n → n < t.vregs.length
  vector : ∀ d, r.dst ≠ .scalar d
  quiet : r.frm.toNat / 2 ^ 8 % 32 = 0
  apart : t.wait ≠ .gd r.seq

/-- A step of the one record of an agent's queue has been performed and has written some elements, with their flags: into
its register, its load-queue entry, or what its store-queue entry will hold; other registers are as they were. After the
last step the record has left the queue, its flags are in fflags and its store-queue entry stands in its queue; before it
the record is one step further (R53, R56, R80, R195, R197, R254). -/
structure GroupDone (s u : State) (a : Agent) (g : Gang) (t : Thread) (r : VRec) (w : Written) : Prop where
  mem : u.mem = s.mem
  spad : (u.gangOf a.gang).spad = g.spad
  thread : ∃ v, u.thread? a = some v ∧ v.regs = t.regs ∧ v.pc = t.pc ∧
    (∀ n, r.dst = .reg n → (∀ x ∈ w, (v.vreg n).data.get x.1 = x.2.1) ∧
      (r.rezero = false → ∀ i, (∀ x ∈ w, x.1 ≠ i) → (v.vreg n).data.get i = (t.vreg n).data.get i)) ∧
    (∀ n, r.dst ≠ .reg n → v.vreg n = t.vreg n) ∧
    (r.groups ≤ r.pi + 1 → (∀ q, r.dst ≠ .sq q) →
      v.vq = [] ∧ v.fflags = t.fflags ||| (r.flags ||| w.foldl (fun f x => f ||| x.2.2) 0)) ∧
    (r.pi + 1 < r.groups → v.fflags = t.fflags ∧ ∃ r', v.vq = [r'] ∧ r'.pi = r.pi + 1 ∧ r'.done = false ∧
      r'.flags = r.flags ||| w.foldl (fun f x => f ||| x.2.2) 0 ∧
      ∀ q, r.dst = .sq q → r'.out = r.out ++ w.map fun x => (x.1, x.2.1))
  entry : ∀ q id, r.dst = .lq q (some id) → id ∉ r.pops → (s.gangOf a.gang).entry? id ≠ none →
    ∃ e, (u.gangOf a.gang).entry? id = some e ∧ ∀ x ∈ w, e.data.get x.1 = x.2.1
  queue : ∀ q l, r.dst = .sq q → r.groups ≤ r.pi + 1 → 0 < r.vl → g.sq[q]? = some l → l.length < 2 →
    ∃ e ∈ (u.gangOf a.gang).ents, (((u.gangOf a.gang).sq[q]?).getD []).getLast? = some e.id ∧ e.tag = r.outTag ∧
      e.count = r.vl ∧
      e.data = entryData r.outTag r.vl ((r.out ++ w.map fun x => (x.1, x.2.1)).filter fun x => decide (x.1 < r.vl))

/-- A vector instruction that writes a scalar register is over (R198): the register holds its result, the hart waits no
longer and its queue is empty, the flags of the result are in fflags, and memory and the vector registers are as they
were. -/
structure WroteScalar (s u : State) (d : Nat) (v : Word) (fl : BitVec 6) : Prop where
  bytes : SameBytes s u
  regs : ∀ r, u.me.reg r = if r = d ∧ r ≠ 0 then v else s.me.reg r
  pc : u.me.pc = s.pc + 4
  wait : u.me.wait = .none
  vq : u.me.vq = []
  vregs : u.me.vregs = s.me.vregs
  fflags : u.me.fflags = s.me.fflags ||| fl
  frm : u.me.frm = s.me.frm
  vl : u.me.vl = s.me.vl

/-- The forms of VOP and their functions (R204 to R207). -/
noncomputable def vopForms :
    List ((BitVec 6 → BitVec 6 → BitVec 6 → Bool → Bool → Bool → Bool → Bool → Instr) × AluFn) := [
  (.vadd, .add), (.vsub, .sub), (.vmul, .mul), (.vdiv, .div), (.vmin, .min), (.vmax, .max), (.vsadd, .sadd),
  (.vssub, .ssub), (.vmulh, .mulh), (.vrem, .rem), (.vand, .and), (.vor, .or), (.vxor, .xor), (.vsll, .sll),
  (.vshr, .shr), (.vsgnj, .sgnj), (.vsgnjn, .sgnjn), (.vsgnjx, .sgnjx),
  (fun d a _ n sc m g l => .vsqrt d a n sc m g l, .sqrt), (fun d a _ n sc m g l => .vabs d a n sc m g l, .abs),
  (fun d a _ n sc m g l => .vneg d a n sc m g l, .neg), (fun d a _ n sc m g l => .vclass d a n sc m g l, .cls),
  (fun d a _ n sc m g l => .vmv d a n sc m g l, .mv)]

/-- The forms of VACC and their functions (R209). -/
noncomputable def vaccForms : List ((BitVec 6 → BitVec 6 → BitVec 6 → Bool → Bool → Bool → Instr) × AluFn) := [
  (.vaddAcc, .add), (.vsubAcc, .sub), (.vmulAcc, .mul), (.vdivAcc, .div), (.vminAcc, .min), (.vmaxAcc, .max),
  (.vsaddAcc, .sadd), (.vssubAcc, .ssub), (.vmulhAcc, .mulh), (.vremAcc, .rem), (.vandAcc, .and), (.vorAcc, .or),
  (.vxorAcc, .xor), (.vsllAcc, .sll), (.vshrAcc, .shr), (.vsgnjAcc, .sgnj), (.vsgnjnAcc, .sgnjn),
  (.vsgnjxAcc, .sgnjx), (fun d a _ n sc m => .vsqrtAcc d a n sc m, .sqrt),
  (fun d a _ n sc m => .vabsAcc d a n sc m, .abs), (fun d a _ n sc m => .vnegAcc d a n sc m, .neg),
  (fun d a _ n sc m => .vclassAcc d a n sc m, .cls), (fun d a _ n sc m => .vmvAcc d a n sc m, .mv)]

/-- The fused forms (R208): of two sources, and with an accumulator row. -/
noncomputable def fmaForms : List ((BitVec 6 → BitVec 6 → BitVec 6 → Bool → Bool → Bool → Bool → Instr) ×
    (BitVec 6 → BitVec 6 → BitVec 6 → Bool → Bool → Bool → Instr) × FmaFn) := [
  (.vfmadd, .vfmaddAcc, .madd), (.vfmsub, .vfmsubAcc, .msub), (.vfnmadd, .vfnmaddAcc, .nmadd),
  (.vfnmsub, .vfnmsubAcc, .nmsub)]

/-- The compares (R210). -/
noncomputable def cmpForms : List ((BitVec 6 → BitVec 6 → BitVec 6 → Bool → Bool → Instr) × CmpFn) := [
  (.vcmpeq, .eq), (.vcmpne, .ne), (.vcmplt, .lt), (.vcmple, .le), (.vcmpgt, .gt), (.vcmpge, .ge), (.vcmpunord, .unord)]

/-- The mask functions of two sources (R211). -/
noncomputable def maskForms : List (Form3 × MaskFn) := [(.vmand, .and), (.vmor, .or), (.vmxor, .xor), (.vmandn, .andn)]

/-- A form that moves the elements of one source (R216, R218): whether its vector source is the second register, whether
it may write a queue or its own source, and whether it reads a scalar, under the source's tag or whole. -/
structure MoveForm where
  instr : BitVec 6 → BitVec 6 → BitVec 6 → Bool → Instr
  op : VOp
  swapped : Bool
  toQueue : Bool
  mayAlias : Bool
  reads : Bool
  tagged : Bool

/-- The moving forms of one source (R216, R218); VCMPRS and VEXPND read no scalar. -/
noncomputable def moveForms : List MoveForm := [
  ⟨.vslideup, .slideUp, false, false, true, true, false⟩, ⟨.vslidedn, .slideDn, false, true, false, true, false⟩,
  ⟨.vslide1up, .slide1Up, true, true, false, true, true⟩, ⟨.vslide1dn, .slide1Dn, true, true, false, true, true⟩,
  ⟨fun d a _ m => .vcmprs d a m, .cmprs, false, true, false, false, false⟩,
  ⟨fun d a _ m => .vexpnd d a m, .expnd, false, true, false, false, false⟩]

/-- The moving forms with an index vector (R217). -/
noncomputable def indexForms : List ((BitVec 6 → BitVec 6 → BitVec 6 → Bool → Instr) × VOp × Bool) := [
  (.vgathr, .gather, true), (.vsend, .send, false)]

/-- The reductions (R220). -/
noncomputable def reduceForms : List ((BitVec 6 → BitVec 6 → BitVec 6 → Bool → Bool → Instr) × FoldFn) := [
  (.vredsum, .add), (.vredmin, .min), (.vredmax, .max), (.vredand, .and), (.vredor, .or), (.vredxor, .xor)]

/-- The scans (R221). -/
noncomputable def scanForms : List ((BitVec 6 → BitVec 6 → Bool → Bool → Instr) × FoldFn) := [
  (.vscansum, .add), (.vscanmin, .min), (.vscanmax, .max)]

/-- The Sower's vector forms and the tags they write (R341). -/
noncomputable def sowForms : List ((BitVec 6 → BitVec 6 → BitVec 6 → Bool → Instr) × SowFn × Tag) := [
  (.vsowF32, .f32, .f32), (.vsowF64, .f64, .f64), (.vsowN32, .n32, .n32)]

/-- The operands of a vector load or an access-unit load as the encoding gives them (R225, R230, R256). -/
structure LoadForm where
  form : AddrForm
  d : BitVec 6
  index : BitVec 6
  base : BitVec 6
  step : Option (BitVec 6)
  tag : Option Tag
  arr : Bool
  ff : Bool
  short : Bool
  masked : Bool
  onHart : Bool

/-- The loads. -/
def loadForm? (i : Instr) : Option LoadForm :=
  match i with
  | .vld d a f false r l m => some ⟨.unit, d, 0, a, none, none, r, f, l, m, true⟩
  | .vlds d a b f c r l m => some ⟨if c then .column else .strided, d, 0, a, some b, none, r, f, l, m, true⟩
  | .vldx d a b f false false l m => some ⟨.indexed, d, b, a, none, none, false, f, l, m, true⟩
  | .ald d a b p m t =>
    (Tag.ofCode t.toNat).map fun t =>
      ⟨if p then .strided else .unit, d, 0, a, some b, some t, false, false, false, m, false⟩
  | .agather d a b m t =>
    (Tag.ofCode t.toNat).map fun t => ⟨.indexed, d, b, a, none, some t, false, false, false, m, false⟩
  | .atrans d a b r t =>
    (Tag.ofCode t.toNat).map fun t =>
      ⟨.rows (2 ^ r.toNat), d, 0, a, some b, some t, false, false, false, false, false⟩
  | _ => none

/-- The operands of a vector store or an access-unit store (R225, R230, R256). -/
structure StoreForm where
  form : AddrForm
  d : BitVec 6
  index : BitVec 6
  base : BitVec 6
  step : Option (BitVec 6)
  nt : Bool
  masked : Bool
  onHart : Bool

/-- The stores. -/
def storeForm? (i : Instr) : Option StoreForm :=
  match i with
  | .vst d a false n m => some ⟨.unit, d, 0, a, none, n, m, true⟩
  | .vsts d a b c n m => some ⟨if c then .column else .strided, d, 0, a, some b, n, m, true⟩
  | .vstx d a b false n m => some ⟨.indexed, d, b, a, none, n, m, true⟩
  | .ast d a b p m => some ⟨if p then .strided else .unit, d, 0, a, some b, false, m, false⟩
  | .ascat d a b m => some ⟨.indexed, d, b, a, none, false, m, false⟩
  | _ => none

end Sys2Proof.Machine
end

