-- ==== Sys2Proof/Certificates/Slice0/Obligations.lean ====
section
/-! DEFINITION. The statements about the machine that are to be proved. -/

open Sys2Proof Sys2Proof.Machine

/-- Words written out from the encodings decode to their instructions (derived from 06_encoding.md, 07_scalar.md,
08_vector.md, 10_access.md, 11_matrix.md, 12_catalogue.md, 14_sower_orchard.md, R140, R155, R168, R170, R204, R256,
R281, R312, R351). -/
def Obligations.SampleWordsDecode : Prop :=
  Sys2Proof.decode .execute (0b000000_000101_000110_000111_00000001#32) = .ok (.add 5 6 7) ∧
  Sys2Proof.decode .execute (0b000001_000001_000010_11111111111111#32) = .ok (.addi 1 2 0x3FFF) ∧
  Sys2Proof.decode .execute (0b010100_000011_000100_00000000000010#32) = .ok (.beq 3 4 2) ∧
  Sys2Proof.decode .execute (0b010000_000001_000010_011_00000000101#32) = .ok (.ld 1 2 5) ∧
  Sys2Proof.decode .execute (0b010011_000001_000010_000011_0000_10_0_1#32) = .ok (.amoadd 1 2 3 2 false true) ∧
  Sys2Proof.decode .execute (0b100000_000001_000010_000011_0_0_1_00000#32) =
    .ok (.vadd 1 2 3 false false true false false) ∧
  Sys2Proof.decode .execute (0b110111_000001_000010_000011_00000011#32) = .ok (.spalloc 1 2 3) ∧
  Sys2Proof.decode .execute (0b111100_000001_000010_00000000000000#32) = .ok (.mopen 1 2) ∧
  Sys2Proof.decode .execute (0b111101_000001_000010_00000000001000#32) = .ok (.onew 1 2) ∧
  Sys2Proof.decode .access (0b110000_111000_000001_000010_1_0_1_00000#32) = .ok (.ald 56 1 2 true true 0) ∧
  Sys2Proof.decode .execute (0b111111_000000_000000_00000000000000#32) = .ok .tret ∧
  Sys2Proof.decode .execute 0 = .error .zeroWord ∧ Sys2Proof.decode .access 0 = .error .zeroWord ∧
  Sys2Proof.decode .execute (0b000000_000001_000010_000011_00011011#32) = .error .illegal

/-- Decoding the word of a well-formed instruction gives the instruction back (derived from 06_encoding.md, R140,
R155). -/
def Obligations.DecodeOfEncode : Prop :=
  ∀ (c : Ctx) (i : Instr) (w : Word32), wellFormed c i = true → encode i = some w → Sys2Proof.decode c w = .ok i

/-- A word that decodes is the word of the well-formed instruction it decodes to (derived from 06_encoding.md, R140,
R155). -/
def Obligations.EncodeOfDecode : Prop :=
  ∀ (c : Ctx) (w : Word32) (i : Instr), Sys2Proof.decode c w = .ok i → wellFormed c i = true ∧ encode i = some w

/-- A step issues the next agent's instruction: the word at its pc, decoded and executed (derived from 02_state.md,
06_encoding.md, 17_contexts.md, R53, R140, R382; the model's own choices in it: log 1, 26). -/
def Obligations.StepRunsDecodedWord : Prop :=
  ∀ (s s1 : State) (a : Agent) (rest : List Turn) (t : Thread) (w : Word32) (i : Instr),
    s.agenda = .issue a :: rest → s.mod.off = false → s.thread? a = some t → t.wait = .none → t.lvl ≠ 0 →
    ({ s with agenda := rest }).mayIssue a = true → (s.gangOf a.gang).bad = false →
    (∀ h, a.role = .hart h → s.pendingCauses a.gang h = []) →
    ({ s with agenda := rest }).fetch a = .word w s1 → Sys2Proof.decode (ctxOf a) w = .ok i →
    let s2 := { s1 with cur := some a, word := w }
    (s2.waitsScalar a w = true → step s = s2.stallFor .busy) ∧
    (s2.waitsScalar a w = false →
      (t.flight = none → t.taken = [] → step s = mapNext (exec i s2) fun u => u.ownsScalar a w) ∧
      (s2.landFor a w (exec i) = none → step s = s2.stallFor .busy) ∧
      (∀ s3, s2.landFor a w (exec i) = some s3 → step s = mapNext (exec i s3) fun u => u.ownsScalar a w)) ∧
    (t.flight = none → t.taken = [] → s2.landFor a w (exec i) = some s2) ∧
    (∀ f, t.flight = some f → t.taken = [] →
      (s2.passesLoad a f.d w = true → (∀ u, exec i s2 = .next u → s2.trapped u a = false) →
        s2.landFor a w (exec i) = some s2) ∧
      (s2.passesLoad a f.d w = false → s2.landFor a w (exec i) = s2.performFlight a) ∧
      (∀ u, exec i s2 = .next u → s2.trapped u a = true → s2.landFor a w (exec i) = s2.performFlight a))

/-- At level 0 a step runs the decoded word unless an enabled breakpoint names its address (derived from
17_contexts.md, R381, R380; the model's own choices in it: log 1, 80). -/
def Obligations.StepRunsUserWord : Prop :=
  ∀ (s s1 : State) (a : Agent) (rest : List Turn) (t : Thread) (w : Word32) (i : Instr),
    s.agenda = .issue a :: rest → s.mod.off = false → s.thread? a = some t → t.wait = .none → t.lvl = 0 →
    ({ s with agenda := rest }).mayIssue a = true → (s.gangOf a.gang).bad = false →
    (∀ h, a.role = .hart h → s.pendingCauses a.gang h = []) →
    ({ s with agenda := rest }).fetch a = .word w s1 → Sys2Proof.decode (ctxOf a) w = .ok i →
    (t.breaksAt t.pc = false ∨ t.bskip = true →
      let s2 := { (s1.modThread a fun t => { t with bskip := false }) with cur := some a, word := w }
      let runs (o : Out) : Prop := step s = mapNext o fun u => u.keepSkip a t.bskip
      (s2.waitsScalar a w = true → runs (s2.stallFor .busy)) ∧
      (s2.waitsScalar a w = false →
        (t.flight = none → t.taken = [] → runs (mapNext (exec i s2) fun u => u.ownsScalar a w)) ∧
        (s2.landFor a w (exec i) = none → runs (s2.stallFor .busy)) ∧
        (∀ s3, s2.landFor a w (exec i) = some s3 → runs (mapNext (exec i s3) fun u => u.ownsScalar a w)))) ∧
    (t.breaksAt t.pc = true → t.bskip = false →
      (t.flight = none → step s = ({ s1 with cur := some a, word := w }).trap cDEBUG) ∧
      (∀ s3, s1.performFlight a = some s3 → step s = ({ s3 with cur := some a, word := w }).trap cDEBUG) ∧
      (s1.performFlight a = none → step s = .next (s1.modThread a fun t => { t with stall := .busy })))

/-- A step carries out an event of the agenda by its meaning (derived from 95_what_each_step_holds.md; the model's own
choices in it: log 1, 9). -/
def Obligations.StepMovesEvent : Prop :=
  ∀ (s : State) (i : Instr) (rest : List Turn), s.agenda = .event i :: rest → s.mod.off = false → isMove i = true →
    step s = exec i { s with agenda := rest }

/-- Every step of the machine answers a next state (derived from 06_encoding.md, 17_contexts.md, 00_scope.md, R155,
R382, R383). -/
def Obligations.StepNeverStops : Prop :=
  ∀ s : State, ∃ t, step s = .next t

/-- Once every clock has stopped, no move but module reset changes the machine (derived from 19_bringup.md, R463). -/
def Obligations.OffUntilModuleReset : Prop :=
  ∀ (s : State), s.mod.off = true → (∀ rest, s.agenda ≠ .event .moduleReset :: rest) →
    Answers (step s) fun t => t.mod = s.mod ∧ t.mem = s.mem ∧ t.gangs = s.gangs ∧ t.launches = s.launches ∧
      t.cores = s.cores ∧ t.parts = s.parts ∧ t.orch = s.orch ∧ t.sleepers = s.sleepers ∧ t.moves = s.moves ∧
      t.ctx = s.ctx

/-- What module reset leaves (derived from 19_bringup.md, 18_placement.md, 12_catalogue.md, R443, R407, R409, R458,
R292; the model's own choices in it: log 2, 16). -/
def Obligations.ResetState : Prop :=
  State.reset.gangs = [] ∧ State.reset.launches = [] ∧ State.reset.moves = [] ∧ State.reset.ctx = [] ∧
  State.reset.mod.bstat = 0 ∧ State.reset.mod.event = 0 ∧ State.reset.mod.plog = 0 ∧ State.reset.mod.off = false ∧
  (∀ p, (State.reset.part p).energy = 0 ∧ (State.reset.part p).stvec = 0 ∧ (State.reset.part p).fpmem = 0x1FFFFF#21 ∧
    (State.reset.part p).glean = true) ∧
  (∀ n, (State.reset.chan n).train = true ∧ (State.reset.chan n).dly = 0x4040#15) ∧
  (∀ p k, (State.reset.mesh p k).isOpen = false) ∧ (∀ t, (State.reset.slice t).anyTree = false) ∧
  Memory.wf State.reset.mem = true

/-- Every step keeps global memory in its canonical form (derived from 04_storage.md; the model's own choices in it:
log 2). -/
def Obligations.StepKeepsMemoryForm : Prop :=
  ∀ s t : State, Memory.wf s.mem = true → Memory.wf s.mod.store = true → step s = .next t →
    Memory.wf t.mem = true ∧ Memory.wf t.mod.store = true

/-- Taking a trap: the level entered, what is saved and frozen, and where the pc goes (derived from 17_contexts.md,
19_bringup.md, R382, R383, R386, R448). -/
def Obligations.TrapEntry : Prop :=
  ∀ (s : State) (gi h : Nat) (c : Cause) (t : Thread), s.thread? ⟨gi, .hart h⟩ = some t →
    let g := s.gangOf gi
    let rec0 := faultRecord c t.lvl (if c.src = 3 then 255 else h) g.slot g.core
    let v := (s.part (s.partOfCore g.core)).stvec
    let entered (level : Nat) (handler : Word) : Prop :=
      ∃ u, Entered t u c rec0 level handler ∧ s.enterTrap gi h c = s.modThread ⟨gi, .hart h⟩ fun _ => u
    (t.lvl = 0 → c.code ≠ cMCHK → v = 0 → s.enterTrap gi h c = s.killGang gi 2) ∧
    (t.lvl = 0 → c.code ≠ cMCHK → v ≠ 0 → entered 1 v) ∧
    (t.lvl = 1 ∨ (t.lvl = 0 ∧ c.code = cMCHK) → entered 2 s.mod.fvec) ∧
    (t.lvl = 2 →
      let u := s.enterTrap gi h c
      u = { s with cores := u.cores, mod := u.mod, gangs := u.gangs, free := u.free } ∧
      (∀ k, k ≠ g.core → u.core k = s.core k) ∧
      (g.core < s.cores.length → (u.core g.core).stopped = true ∧ (u.core g.core).lanes = List.replicate 8 none ∧
        (u.core g.core).claims = []) ∧
      (∀ (j : Nat) (x : Gang), s.gangs[j]? = some x → ∃ y : Gang, u.gangs[j]? = some y ∧ y.st = x.st ∧
        (x.core ≠ g.core → x.tilesOn ≠ some g.core → y = x) ∧
        (x.core = g.core → x.st = .resident → y.tiles = [] ∧ y.allocs = [] ∧
          ∀ q w, x.thread? q = some w → y.thread? q = some { w with vregs := [] })) ∧
      u.mod = { s.mod with event := s.mod.event ||| 1#5, evCore := BitVec.ofNat 8 g.core, frec := rec0 })

/-- A trap of the instruction in execution: on a hart its entry or an earlier cause, in a context its delivery
(derived from 17_contexts.md, R382, R384). -/
def Obligations.TrapOfInstruction : Prop :=
  ∀ (s : State) (gi : Nat) (c : Cause),
    (∀ h, s.cur = some ⟨gi, .hart h⟩ → s.pendingCauses gi h = [] → s.trapWith c = .next (s.enterTrap gi h c)) ∧
    (∀ h, s.cur = some ⟨gi, .hart h⟩ → s.pendingCauses gi h ≠ [] → c.code ≠ cMCHK →
      s.trapWith c = .next (s.takePending gi h)) ∧
    (∀ h, s.cur = some ⟨gi, .hart h⟩ → c.code = cMCHK → s.trapWith c = .next (s.enterTrap gi h c)) ∧
    (s.cur = some ⟨gi, .access⟩ → s.live = true →
      Answers (s.trapWith c) fun t => OnlyThread s t ∧ SameBytes s t ∧
        t.me = { s.me with faulted := true, causes := s.me.causes ++ [c], stall := .busy })

/-- TRET at level 1 or 2 returns to the saved address and level, and to the dispatch level thaws the queues (derived
from 17_contexts.md, R385; the model's own choices in it: log 22, 67, 81, 110). -/
def Obligations.TrapReturn : Prop :=
  ∀ s : State, s.live = true → s.onHart = true → (s.me.lvl = 1 ∨ s.me.lvl = 2) →
    Answers (exec .tret s) fun t => SameBytes s t ∧
      t.me.pc = wordAligned (if s.me.lvl = 2 then s.me.fepc else s.me.sepc) ∧
      t.me.lvl = (if s.me.lvl = 2 then s.me.fplvl else s.me.plvl) ∧ t.me.dlvl = s.me.dlvl ∧
      (∀ r, t.me.reg r = s.me.reg r) ∧ t.me.vregs = s.me.vregs ∧ t.me.fflags = s.me.fflags ∧ t.me.frm = s.me.frm ∧
      t.me.plvl = s.me.plvl ∧ t.me.fplvl = s.me.fplvl ∧ t.me.sepc = s.me.sepc ∧ t.me.fepc = s.me.fepc ∧
      t.me.sfrec = s.me.sfrec ∧ t.me.ffrec = s.me.ffrec ∧ t.mod = s.mod ∧ t.launches = s.launches ∧
      (t.me.lvl = t.me.dlvl → t.me.frz = false ∧ t.me.aflt = false ∧ t.me.wq = false ∧
        t.me.vq.map (·.seq) = s.me.vq.map (·.seq) ∧ t.me.vq.map (·.pi) = s.me.vq.map (·.pi) ∧
        (∀ r, r ∈ t.me.vq ∨ r ∈ t.me.mq → r.stuck = true → ∃ c ∈ s.me.causes, c.ord = r.ord) ∧
        (∀ n, s.me.kept = .gd n → s.me.wq = true → t.me.wait = .gd n) ∧
        (∀ n, s.me.kept = .gd n → s.me.wq = false → t.me.wait = .none) ∧
        (s.me.kept = .barrier → t.me.wait = .barrier)) ∧
      (t.me.lvl ≠ t.me.dlvl → t.me.frz = s.me.frz ∧ t.me.vq = s.me.vq ∧ t.me.mq = s.me.mq)

/-- A major-0x3F instruction below its level raises PROT and has no other effect (derived from 17_contexts.md,
18_placement.md, R379, R385, R397, R403, R404, R405, R417). -/
def Obligations.PrivilegedBelowLevel : Prop :=
  ∀ (i : Instr) (n : Nat) (s : State), requiredLevel i = some n → s.live = true → s.onHart = true → s.me.lvl < n →
    exec i s = s.trap cPROT

/-- An access-unit context raises ILLOP on every instruction that R155 does not give it (derived from 06_encoding.md,
R155). -/
def Obligations.HartFormsInContext : Prop :=
  ∀ (i : Instr) (s : State), s.live = true →
    (hartOnly i = true → s.onHart = false → exec i s = s.illop) ∧
    (accessOnly i = true → s.onHart = true → exec i s = s.illop)

/-- While a hart's queues are frozen every push, VSETVL, VSETVL.P, TASKGET and MWAIT raise ILLOP (derived from
17_contexts.md, R384). -/
def Obligations.FrozenQueueIllop : Prop :=
  ∀ (i : Instr) (s : State), frozenIllop i = true → s.live = true → s.onHart = true → s.me.frz = true →
    exec i s = s.illop

/-- BREAK raises DEBUG at itself with no other effect (derived from 07_scalar.md, 17_contexts.md, R191, R383, R386).
-/
def Obligations.BreakRaisesDebug : Prop :=
  ∀ (s : State) (gi h : Nat), s.live = true → s.cur = some ⟨gi, .hart h⟩ → s.pendingCauses gi h = [] →
    (s.me.lvl = 0 ∧ (s.part s.myPart).stvec ≠ 0 ∨ s.me.lvl = 1) →
    Answers (exec .brk s) fun t => OnlyThread s t ∧ SameBytes s t ∧
      Entered s.me t.me (s.scalarCause cDEBUG 0 0)
        (faultRecord (s.scalarCause cDEBUG 0 0) s.me.lvl h s.myGang.slot s.myGang.core) (s.me.lvl + 1)
        (if s.me.lvl = 0 then (s.part s.myPart).stvec else s.mod.fvec)

/-- FWCALL at level 1 enters level 2 with code 0 and SUB 1, to return to the next word (derived from 17_contexts.md,
R404, R386; the model's own choices in it: log 61, 114). -/
def Obligations.FirmwareCall : Prop :=
  ∀ (s : State) (gi h : Nat), s.live = true → s.cur = some ⟨gi, .hart h⟩ → s.pendingCauses gi h = [] → s.me.lvl = 1 →
    Answers (exec .fwcall s) fun t => OnlyThread s t ∧ SameBytes s t ∧ t.me.lvl = 2 ∧ t.me.fplvl = 1 ∧
      t.me.pc = s.mod.fvec ∧ t.me.fepc = s.pc + 4 ∧ t.me.frz = true ∧ (∀ r, t.me.reg r = s.me.reg r) ∧
      ((t.me.ffrec[0]?).getD 0).toNat % 2 ^ 16 = 0x100

/-- What each instruction of major 0x00 writes (R168). -/
def Obligations.IntegerResults : Prop :=
  ∀ p ∈ integerForms, ∀ (d a b : BitVec 6) (s : State), s.live = true →
    Answers (exec (p.1 d a b) s) fun t => Retires s t d.toNat (p.2 (s.x a) (s.x b)) (s.pc + 4)

/-- Division by zero and the division that overflows (R169). -/
def Obligations.DivisionCorners : Prop :=
  ∀ (d a b : BitVec 6) (s : State), s.live = true →
    let gives (f : Form3) (v : Word) : Prop :=
      Answers (exec (f d a b) s) fun t => Retires s t d.toNat v (s.pc + 4)
    (∀ f ∈ ([.div, .divu, .rem, .remu] : List Form3), ∃ v, gives f v) ∧
    (s.x b = 0 → gives .div 0xFFFFFFFFFFFFFFFF ∧ gives .rem (s.x a) ∧ gives .divu 0xFFFFFFFFFFFFFFFF ∧
      gives .remu (s.x a)) ∧
    (s.x a = 0x8000000000000000 → s.x b = 0xFFFFFFFFFFFFFFFF → gives .div 0x8000000000000000 ∧ gives .rem 0 ∧
      gives .divu (s.x a / s.x b) ∧ gives .remu (s.x a % s.x b))

/-- What each immediate form writes (R170). -/
def Obligations.ImmediateResults : Prop :=
  ∀ (d a : BitVec 6) (s : State), s.live = true →
    (∀ p ∈ immediateForms, ∀ i : BitVec 14,
      Answers (exec (p.1 d a i) s) fun t => Retires s t d.toNat (p.2 (s.x a) i) (s.pc + 4)) ∧
    (∀ p ∈ shiftForms, ∀ n : BitVec 6,
      Answers (exec (p.1 d a n) s) fun t => Retires s t d.toNat (p.2 (s.x a) n.toNat) (s.pc + 4)) ∧
    (∀ w : BitVec 20,
      (Answers (exec (.lui d w) s) fun t => Retires s t d.toNat (w.signExtend 64 <<< 14) (s.pc + 4)) ∧
      Answers (exec (.addpc d w) s) fun t => Retires s t d.toNat (s.pc + (w.signExtend 64 <<< 14)) (s.pc + 4))

/-- Where branches and jumps go, and what jumps write (derived from 07_scalar.md, R174; the model's own choices in it:
log 83). -/
def Obligations.BranchesAndJumps : Prop :=
  ∀ (d a : BitVec 6) (s : State), s.live = true →
    (∀ p ∈ branchForms, ∀ i : BitVec 14,
      Answers (exec (p.1 d a i) s) fun t =>
        Retires s t 0 0 (if p.2 (s.x d) (s.x a) then s.pc + (i.signExtend 64 <<< 2) else s.pc + 4)) ∧
    (∀ w : BitVec 20, Answers (exec (.jal d w) s) fun t =>
      Retires s t d.toNat (s.pc + 4) (s.pc + (w.signExtend 64 <<< 2))) ∧
    (∀ i : BitVec 14,
      let target := s.x a + i.signExtend 64
      (target.toNat % 4 = 0 → Answers (exec (.jalr d a i) s) fun t => Retires s t d.toNat (s.pc + 4) target) ∧
      (target.toNat % 4 ≠ 0 → exec (.jalr d a i) s = s.trapWith (s.scalarCause cALIGN target 0)))

/-- Scalar floating point that rounds: one rounding, its flags, FPX, and the Sower (derived from 03_numbers.md,
07_scalar.md, R77, R171, R172, R173). -/
def Obligations.FloatRounding : Prop :=
  ∀ p ∈ roundingForms, ∀ (d a b c : BitVec 6) (s : State), s.live = true → s.onHart = true →
    let frm := s.me.frm
    let v := p.value (frmRm frm) (s.x a) (s.x b) (s.x c)
    let gives (s1 : State) (u : Option Nat) (frm' : Word) : Prop :=
      let r := roundTag p.tag frm u v.1
      let fl := r.2 ||| v.2
      (raisesFpx frm fl = false ∨ s.me.scalarSupp = true →
        Answers (exec (p.instr d a b c) s) fun t => RetiresFloat s1 t d.toNat r.1 fl frm') ∧
      (raisesFpx frm fl = true → s.me.scalarSupp = false → exec (p.instr d a b c) s = s1.trap cFPX)
    (frmRm frm ≠ 4 ∨ p.sower = false → gives s none frm) ∧
    (frmRm frm = 4 → p.sower = true →
      (s.me.sowDims ≤ frmSrdim frm → exec (p.instr d a b c) s = s.illop) ∧
      (frmSrdim frm < s.me.sowDims → ∀ (u : BitVec 32) (s1 : State),
        s.sowerN32 s.who (frmSrdim frm) (frmSridx frm) = .ok (u, s1) → gives s1 (some u.toNat) (frmAdvance frm 1)))

/-- Scalar floating point that never rounds: results, flags and FPX (derived from 07_scalar.md, R171, R172). -/
def Obligations.FloatExact : Prop :=
  ∀ p ∈ exactForms, ∀ (d a b : BitVec 6) (s : State), s.live = true → s.onHart = true →
    let r := p.2 (s.x a) (s.x b)
    (raisesFpx s.me.frm r.2 = false ∨ s.me.scalarSupp = true →
      Answers (exec (p.1 d a b) s) fun t => RetiresFloat s t d.toNat r.1 r.2 s.me.frm) ∧
    (raisesFpx s.me.frm r.2 = true → s.me.scalarSupp = false → exec (p.1 d a b) s = s.trap cFPX)

/-- What scalar loads and load-acquires write (derived from 04_storage.md, 05_ordering.md, 07_scalar.md, R92, R128,
R129, R167, R175, R176; the model's own choices in it: log 3). -/
def Obligations.LoadResults : Prop :=
  ∀ (d a : BitVec 6) (s : State), s.live = true →
    let reads (i : Instr) (va : Word) (n : Nat) (isSigned : Bool) : Prop :=
      (∀ (s1 : State) (pl : Place) (v : Nat), s.reaches .read va n pl s1 →
        let s2 := s1.setMe (·.closeSlice 0)
        s2.loadAt s2.who 0 pl n = some v →
        Answers (exec i s) fun t =>
          Retires ((s2.noteRead s2.who pl n).chargeAt s2.who.gang pl n) t d.toNat (loaded n isSigned v) (s.pc + 4) ∧
            SameBytes s t) ∧
      s.Denies (exec i s) .read va n
    (∀ p ∈ loadForms, ∀ o : BitVec 11,
      reads (p.1 d a o) (s.x a + o.signExtend 64 * BitVec.ofNat 64 p.2.1) p.2.1 p.2.2) ∧
    (∀ p ∈ acquireForms, ∀ sc : BitVec 3, reads (p.1 d a sc) (s.x a) p.2.1 p.2.2)

/-- What scalar stores and store-releases write, and that they write nothing else (derived from 05_ordering.md,
07_scalar.md, R120, R121, R129, R167, R175, R176; the model's own choices in it: log 3). -/
def Obligations.StoreResults : Prop :=
  ∀ (d a : BitVec 6) (s : State), s.live = true →
    let writes (i : Instr) (s0 : State) (va : Word) (n : Nat) (nt : Bool) : Prop :=
      ∀ (s1 s2 : State) (pl : Place), s0.reaches .write va n pl s1 →
        s1.storeAt s1.who 0 va.toNat pl n (s.x d).toNat nt s1.me.epoch none = some s2 →
        let s3 := match pl with
          | .mem _ => s2
          | _ => s2.chargeAt s2.who.gang pl n
        Answers (exec i s) fun t => Retires s3 t 0 0 (s.pc + 4) ∧
          (∀ b, Sparse.get t.mem b = Sparse.get s.mem b) ∧
          (∀ k b, (k = s.who.gang → ∀ off, pl = .spad off → b < off ∨ off + n ≤ b) →
            Sparse.get (t.gangOf k).spad b = Sparse.get (s.gangOf k).spad b) ∧
          (∀ k b, (k = s.who.gang → ∀ off, pl = .sdm off → b < off ∨ off + n ≤ b) →
            Sparse.get (t.gangOf k).sdm b = Sparse.get (s.gangOf k).sdm b)
    (∀ p ∈ storeForms, ∀ (nt : Bool) (o : BitVec 10),
      let va := s.x a + o.signExtend 64 * BitVec.ofNat 64 p.2
      writes (p.1 d a nt o) s va p.2 nt ∧ s.Denies (exec (p.1 d a nt o) s) .write va p.2) ∧
    (∀ p ∈ releaseForms, ∀ sc : BitVec 3, s.Denies (exec (p.1 d a sc) s) .write (s.x a) p.2 ∧
      ∀ (s0 : State) (pl0 : Place),
        s.reaches .write (s.x a) p.2 pl0 s0 → Quiet s0 → writes (p.1 d a sc) s0 (s.x a) p.2 false)

/-- A load sees the bytes that the same slice has stored (derived from 05_ordering.md, R114, R116; the model's own
choices in it: log 3). -/
def Obligations.StoreIsSeen : Prop :=
  ∀ (s t : State) (va n v : Nat) (pl : Place) (nt : Bool), s.live = true → n ∈ [1, 2, 4, 8] →
    (∀ pa, pl = .mem pa → pa % n = 0 ∧ s.training pa = false) →
    s.storeAt s.who 0 va pl n v nt s.me.epoch none = some t →
    t.loadAt t.who 0 pl n = some (v % 2 ^ (8 * n))

/-- What atomics read, write and return (derived from 02_state.md, 04_storage.md, 05_ordering.md, 07_scalar.md, R40,
R110, R129, R167, R177; the model's own choices in it: log 103). -/
def Obligations.AtomicResults : Prop :=
  (∀ (d a b : BitVec 6) (q : BitVec 2) (sys w : Bool) (s : State), s.live = true →
    (∀ p ∈ atomicForms, s.Denies (exec (p.instr d a b q sys w) s) .rmw (s.x a) (if w then 8 else 4)) ∧
    s.Denies (exec (.amoaddTw d a b q sys w) s) .rmw (s.x a) (if w then 8 else 4)) ∧
  (∀ (d a b : BitVec 6) (q : BitVec 2) (sys w : Bool) (s s0 s1 : State) (pl pl0 : Place), s.live = true →
    let n := if w then 8 else 4
    let lim := 2 ^ (8 * n)
    let op := (s.x b).toNat % lim
    let cmp := (s.x d).toNat % lim
    (q.getLsbD 1 = false ∧ s0 = s ∨ q.getLsbD 1 = true ∧ s.reaches .rmw (s.x a) n pl0 s0 ∧ Quiet s0) →
    s0.reaches .rmw (s.x a) n pl s1 →
    let s2 := s1.setMe (·.closeSlice 0)
    (∀ e ∈ s2.me.wc, e.slice ≠ 0) → s2.heldOver s2.who pl n = false → s2.stalled pl = false →
    let m := s2.peekAt s2.who pl n
    let s3 := s2.chargeAt s2.who.gang pl n
    (∀ p ∈ atomicForms, Answers (exec (p.instr d a b q sys w) s) fun t =>
      Retires (match p.new n m op cmp with
        | some v => s3.pokeAt s3.who pl n (v % lim)
        | none => s3) t d.toNat
        (if w = true ∨ p.float = true then BitVec.ofNat 64 m else (BitVec.ofNat 32 m).signExtend 64) (s.pc + 4)) ∧
    (let s4 := s3.pokeAt s3.who pl n ((m + op) % lim)
     let old := (BitVec.ofNat (8 * n) m).toInt
     let new := (BitVec.ofNat (8 * n) (m + op)).toInt
     let thr := (BitVec.ofNat (8 * n) cmp).toInt
     let dword := match pl with
       | .mem x => Place.mem (x / 8 * 8)
       | .spad x => .spad (x / 8 * 8)
       | .sdm x => .sdm (x / 8 * 8)
     let s5 := if min old new ≤ thr ∧ thr ≤ max old new ∧ thr ≠ old then
         s4.wakeWord (ownerOf s4.myCore dword) (keyOf s4.who.gang dword) (BitVec.ofNat 64 (s4.peekAt s4.who dword 8))
       else s4
     Answers (exec (.amoaddTw d a b q sys w) s) fun t => SameBytes s4 t ∧
       Retires s5 t d.toNat (if w = true then BitVec.ofNat 64 m else (BitVec.ofNat 32 m).signExtend 64) (s5.pc + 4)))

/-- Fences: when they complete and what they wait for (derived from 05_ordering.md, 07_scalar.md, 11_matrix.md, R119,
R123, R124, R182, R183, R275; the model's own choices in it: log 89). -/
def Obligations.FencesComplete : Prop :=
  (∀ s : State, Quiet s →
    (∀ sc k : BitVec 3, Finishes (exec (.fence sc k) s) s 0 0) ∧
    (s.onHart = true → Finishes (exec .fenceSv s) s 0 0 ∧ (s.me.frz = false → Finishes (exec .mwait s) s 0 0))) ∧
  (∀ s : State, s.live = true → s.me.frz = false →
    (s.me.vq ≠ [] → s.me.xfers = [] →
      (∀ sc k : BitVec 3, exec (.fence sc k) s = (s.setMe Thread.closeAll).stallFor .vside) ∧
      (s.onHart = true → exec .fenceSv s = (s.setMe Thread.closeAll).stallFor .vside)) ∧
    (s.me.mq ≠ [] → s.onHart = true → exec .mwait s = s.stallFor .busy)) ∧
  (∀ s : State, s.live = true → s.onHart = true →
    let s1 := s.dropLines s.myCore s.myPart fun _ => true
    Finishes (exec .ifence s) s1 0 0 ∧ (∀ l ∈ (s1.core s.myCore).icache, l.1 ≠ s.myPart) ∧
      (∀ k, k ≠ s.myCore → s1.core k = s.core k))

/-- Barriers: arrival, the end of a phase, and waiting for it (derived from 01_work.md, 07_scalar.md, R34, R186; the
model's own choices in it: log 94, 123). -/
def Obligations.BarriersComplete : Prop :=
  (∀ s : State, Quiet s → s.onHart = true →
    let s1 := s.arriveMe false
    Finishes (exec .barrive s) s1 0 0 ∧ Finishes (exec .bardrop s) (s.arriveMe true) 0 0 ∧
    (s1.me.pend = false → Finishes (exec .barsync s) s1 0 0) ∧
    (s1.me.pend = true → exec .barsync s = .next (s1.setMe fun t => { t with wait := .barrier, stall := .none }))) ∧
  (∀ s : State, s.live = true → s.onHart = true → s.me.frz = false → s.me.vq = [] → s.me.wc = [] → s.me.xfers = [] →
    s.me.mq ≠ [] → ∀ i ∈ ([.barsync, .barrive, .bardrop] : List Instr),
      exec i s = (s.setMe Thread.closeAll).stallFor .busy) ∧
  (∀ s : State, s.live = true → s.onHart = true →
    (s.me.pend = false → Finishes (exec .barwait s) s 0 0) ∧
    (s.me.pend = true → exec .barwait s = .next (s.setMe fun t => { t with wait := .barrier, stall := .none }))) ∧
  (∀ (g : Gang) (h : Nat) (drop : Bool), h < 8 → g.members.getLsbD h = true → g.arrived.getLsbD h = false →
    let b : BitVec 8 := BitVec.ofNat 8 (2 ^ h)
    let drops := if drop then g.drops ||| b else g.drops
    let u := g.arrive h drop
    ((g.arrived ||| b) &&& g.members ≠ g.members →
      u.arrived = g.arrived ||| b ∧ u.drops = drops ∧ u.members = g.members ∧ u.phase = g.phase ∧
      (∀ (n : Nat) (t : Thread), g.harts[n]? = some t → u.harts[n]? = some (if n = h then { t with pend := true } else t))) ∧
    ((g.arrived ||| b) &&& g.members = g.members →
      u.arrived = 0 ∧ u.drops = 0 ∧ u.members = g.members &&& ~~~drops ∧ u.phase = g.phase + 1 ∧
      (∀ (n : Nat) (t : Thread), g.harts[n]? = some t → ∃ t' : Thread, u.harts[n]? = some t' ∧ t'.pend = false ∧
        (t.wait = .barrier → t'.wait = .none ∧ t'.pc = t.pc + 4) ∧
        (t.wait ≠ .barrier → t' = { t with pend := false }))))

/-- WAITW: the comparison, the registration and the wait (derived from 07_scalar.md, R178, R179; the model's own
choices in it: log 66). -/
def Obligations.SleepOnWord : Prop :=
  ∀ (d a b : BitVec 6) (s : State), s.live = true →
    ((s.x a).toNat / 2 % 4 ≠ 0 → exec (.waitw d a b) s = s.trapMem ⟨cALIGN, s.x a⟩ .read) ∧
    (∀ (s1 : State) (pl : Place), (s.x a).toNat / 2 % 4 = 0 → s.reaches .read (s.x a &&& ~~~7#64) 8 pl s1 →
      let s2 := s1.setMe (·.closeSlice 0)
      (∀ e ∈ s2.me.wc, e.gang = none → ∀ pa, pl = .mem pa → e.sector ≠ pa / 32) → s2.stalled pl = false →
      let m : Word := BitVec.ofNat 64 (s2.seenAt s2.who pl 8)
      let s2 := (s2.noteRead s2.who pl 8).chargeAt s2.who.gang pl 8
      let owner := ownerOf s2.myCore pl
      let key := keyOf s2.who.gang pl
      let room := (s2.sleepers.filter fun r => r.owner = owner).length < (if owner < 10 then 2048 else 64)
      (m ≠ s.x b ∨ ¬room → Finishes (exec (.waitw d a b) s) s2 d.toNat m) ∧
      (m = s.x b → room →
        let s3 := { s2 with sleepers := s2.sleepers ++ [Sleeper.mk owner key s2.who.gang s2.hartNo] }
        exec (.waitw d a b) s = .next ((s3.setMe fun t => { t with
          wait := .word d.toNat key ((s.x a).getLsbD 0) (m.toNat / 2 ^ 40 % 2 ^ 24), stall := .none }).directedYield s2.who)))

/-- CSRRW, CSRRS and CSRRC: what is read, written and returned, and when they are illegal (derived from 07_scalar.md,
17_contexts.md, R184, R185, R380). -/
def Obligations.CsrAccess : Prop :=
  (∀ (d a : BitVec 6) (c : BitVec 12) (s s1 : State) (v : Word), s.live = true → s.readCsr c = some (v, s1) →
    let writes (i : Instr) (w : Word) : Prop :=
      (∀ s2, s1.writeCsr c w = some s2 → Finishes (exec i s) s2 d.toNat v) ∧ (s1.writeCsr c w = none → exec i s = s1.illop)
    writes (.csrrw d a c) (s.x a) ∧
    (a ≠ 0 → writes (.csrrs d a c) (v ||| s.x a) ∧ writes (.csrrc d a c) (v &&& ~~~s.x a)) ∧
    (a = 0 → Finishes (exec (.csrrs d a c) s) s1 d.toNat v ∧ Finishes (exec (.csrrc d a c) s) s1 d.toNat v)) ∧
  (∀ (d a : BitVec 6) (c : BitVec 12) (s : State), s.live = true → s.readCsr c = none →
    exec (.csrrw d a c) s = s.illop ∧ exec (.csrrs d a c) s = s.illop ∧ exec (.csrrc d a c) s = s.illop) ∧
  (∀ (c : BitVec 12) (s : State), s.onHart = true →
    (256 ≤ c.toNat → s.me.lvl = 0 → s.readCsr c = none) ∧ (512 ≤ c.toNat → s.me.lvl ≤ 1 → s.readCsr c = none))

/-- CSRs read as they were last written (derived from 03_numbers.md, 11_matrix.md, 17_contexts.md, 18_placement.md,
19_bringup.md, R75, R80, R279, R380, R409, R443). -/
def Obligations.CsrWriteThenRead : Prop :=
  (∀ p ∈ keptCsrs, ∀ (v : Word) (s t : State), s.live = true → s.onHart = true → p.2.2 ≤ s.me.lvl →
    s.myPart < s.parts.length → s.mod.fpsel < s.parts.length → s.me.sbkpt.length = 4 →
    s.writeCsr p.1 v = some t → t.readCsr p.1 = some (v &&& p.2.1, t)) ∧
  (∀ (v : Word) (s t : State), s.live = true → s.onHart = true → s.writeCsr 0x010 v = some t →
    ∃ r, t.readCsr 0x010 = some (r, t) ∧ r &&& ~~~7#64 = v &&& 0xFFFFFFFF0FFF1F08 ∧
      r &&& 7#64 = if (v &&& 7#64).toNat ≤ 4 then v &&& 7#64 else s.me.frm &&& 7#64)

/-- Branch queues, tasks, launches from a hart, and the end of harts and contexts (derived from 01_work.md,
07_scalar.md, 10_access.md, R24, R26, R187, R188, R189, R190, R192, R251; the model's own choices in it: log 99). -/
def Obligations.TasksAndEnds : Prop :=
  ∀ s : State, s.live = true →
    (s.onHart = true → ∀ (d : BitVec 6) (k : BitVec 2),
      (∀ v rest, s.myGang.branch k.toNat = v :: rest → Finishes (exec (.bqpop d k) s)
        (s.modGang s.who.gang fun g => { g with bq := modifyAt g.bq k.toNat fun _ => rest }) d.toNat v) ∧
      (s.myGang.branch k.toNat = [] → exec (.bqpop d k) s = s.stallFor (.branch k.toNat))) ∧
    (s.onHart = false → ∀ (a : BitVec 6) (k : BitVec 2),
      ((s.myGang.branch k.toNat).length < 16 → Finishes (exec (.bqpush k a) s)
        (s.modGang s.who.gang fun g => { g with bq := modifyAt g.bq k.toNat (· ++ [s.x a]) }) 0 0) ∧
      (16 ≤ (s.myGang.branch k.toNat).length → exec (.bqpush k a) s = s.stallFor (.full k.toNat))) ∧
    (s.onHart = true → ∀ (a : BitVec 6) (l : Launch), s.launch? s.myGang.launch = some l →
      (l.panels = true → l.determ = false → Quiet s → (s.x a).toNat < 2 ^ 52 → (s.x a).toNat % 64 = 0 →
        l.appended s.myCore < 1024 →
        Finishes (exec (.taskput a) s) (s.modLaunch s.myGang.launch fun l => l.append s.myCore (s.x a)) 0 0) ∧
      (l.panels = false ∨ l.determ = true → exec (.taskput a) s = s.illop)) ∧
    (s.onHart = true → ∀ (d a : BitVec 6),
      (s.gangDeterm s.myGang = true → exec (.launch d a) s = s.illop) ∧
      (s.gangDeterm s.myGang = false → Quiet s →
        ((s.x a).toNat % 64 ≠ 0 ∨ inWindow (s.x a).toNat = true → Finishes (exec (.launch d a) s) s d.toNat 1) ∧
        ((s.x a).toNat % 64 = 0 → inWindow (s.x a).toNat = false → ∀ w s1,
          s.readDwords s.who s.me.lvl (s.x a).toNat 8 = .ok (w, s1) → ∀ s2 v,
          s1.submitWords s1.myPart false (s.x a) w = some (v, s2) → Finishes (exec (.launch d a) s) s2 d.toNat v))) ∧
    (∀ gi h : Nat, s.cur = some ⟨gi, .hart h⟩ → Quiet s →
      exec .kend s = .next ((s.setMe fun t => t.retireTo (s.pc + 4)).endHart gi h) ∧
      (s.me.wait = .none → Answers (exec .kend s) fun t =>
        t.me.ended = true ∧ t.me.pc = s.pc + 4 ∧ SameBytes s t ∧ t.lanesOf gi h = [])) ∧
    (s.onHart = false → s.me.vq = [] → s.me.xfers = [] → s.me.wc = [] →
      Answers (exec .accessKend s) fun t => OnlyThread s t ∧ SameBytes s t ∧ t.me.ended = true ∧ t.me.pc = s.pc + 4)

/-- VSETVL, VSETVL.P and TASKGET join their gang's settlement, which runs when every hart has joined (derived from
01_work.md, 02_state.md, 07_scalar.md, 08_vector.md, R25, R42, R43, R44, R45, R187, R201, R202; the model's own
choices in it: log 32, 68). -/
def Obligations.CollectiveJoin : Prop :=
  (∀ (s : State) (gi h : Nat) (d a b : BitVec 6), s.cur = some ⟨gi, .hart h⟩ → s.live = true → s.me.frz = false →
    let joins (kind : Nat) (ga gb : Word) : Out := .next
      ((s.setMe fun t => { t with wait := .settle kind d.toNat ga gb s.word, stall := .none }).trySettle gi)
    let ga := (s.x a).toNat
    let gb := (s.x b).toNat
    let legal := 1 ≤ gb % 16 ∧ gb % 16 ≤ 8 ∧ gb / 256 % 8 ≤ 4 ∧ gb < 2048
    let panel := 1 ≤ ga ∧ ga ≤ 16 ∧ s.gangPanels s.myGang = true
    exec (.taskget d) s = joins 2 0 0 ∧
    (legal → exec (.vsetvl d a b) s = joins 0 (s.x a) (s.x b)) ∧ (¬legal → exec (.vsetvl d a b) s = s.illop) ∧
    (legal → panel → exec (.vsetvlP d a b) s = joins 1 (s.x a) (s.x b)) ∧
    (¬legal ∨ ¬panel → exec (.vsetvlP d a b) s = s.illop)) ∧
  (∀ (s : State) (gi : Nat),
    let g := s.gangOf gi
    let joined (kind h : Nat) : Prop := ∃ d ga gb w, (g.hart h).wait = .settle kind d ga gb w
    (∃ h ∈ g.alive, ∃ k, joined k h) →
    ((∃ h ∈ g.alive, ∀ k, ¬joined k h) → s.trySettle gi = s) ∧
    ((∀ h ∈ g.alive, joined 2 h) → s.trySettle gi = s.settleTask gi) ∧
    ((∀ h ∈ g.alive, joined 0 h) → s.trySettle gi =
      if (s.settleGrant gi 0).grantReady gi then (s.settleGrant gi 0).applyGrant gi else s.settleGrant gi 0) ∧
    (∀ q, (∀ h ∈ g.alive, ∃ d ga gb w, (g.hart h).wait = .settle 1 d ga gb w ∧ ga.toNat % 32 = q) → s.trySettle gi =
      if (s.settleGrant gi 1).grantReady gi then (s.settleGrant gi 1).applyGrant gi else s.settleGrant gi 1) ∧
    ((∃ h ∈ g.alive, ∃ k ∈ g.alive, ∃ d ga gb w d' ga' gb' w', (g.hart h).wait = .settle 1 d ga gb w ∧
        (g.hart k).wait = .settle 1 d' ga' gb' w' ∧ ga.toNat % 32 ≠ ga'.toNat % 32) → (∀ h ∈ g.alive, joined 1 h) →
      s.trySettle gi = s.raiseAll gi cILLOP 0) ∧
    ((∃ h ∈ g.alive, joined 0 h) → (∃ h ∈ g.alive, joined 1 h) → (∀ h ∈ g.alive, joined 0 h ∨ joined 1 h) →
      s.trySettle gi = s.raiseAll gi cILLOP 0)) ∧
  (∀ (s : State) (gi kind gr fair : Nat) (g : Gang), s.gangs[gi]? = some g → g.alive ≠ [] → g.core < s.cores.length →
    let c := s.core g.core
    let rs := s.residents g.core
    let groupsOf (h n : Nat) : Prop := ∃ d ga gb w, (g.hart h).wait = .settle kind d ga gb w ∧ gb.toNat % 16 = n
    c.acc = c.accNow → c.own = c.ownNow → (∀ h ∈ g.alive, ∃ n, groupsOf h n ∧ gr ≤ n ∧ n ≤ 8) →
    (∃ h ∈ g.alive, groupsOf h gr) →
    let x := ((List.range 8).filter fun k => !c.accNow.getLsbD k).length
    let count := (rs.map fun r => r.2.alive.length).sum
    (∃ (spare : Nat → Nat) (i : Nat), spare 0 = x - x / count * count ∧
      (∀ j r, rs[j]? = some r → spare (j + 1) =
        if r.2.alive.length ≤ spare j then spare j - r.2.alive.length else spare j) ∧
      (rs[i]?).map (·.1) = some gi ∧
      fair = if g.alive.length ≤ spare i then x / count + 1 else x / count) →
    let free := (List.range 8).filter fun k => !c.accNow.getLsbD k && !(c.claims.any fun y => y.1 = k && y.2 ≠ gi) &&
      ((c.lanes[k]?).getD none).all fun y => y.1 = gi
    let n := min gr (free.length / g.alive.length)
    let u := s.settleGrant gi kind
    (∀ (i h : Nat), g.alive[i]? = some h → ∃ t', u.thread? ⟨gi, .hart h⟩ = some t' ∧ t'.rcl = false ∧
      ∀ d ga gb w, (g.hart h).wait = .settle kind d ga gb w → t'.wait =
        .granted kind d ga gb fair (((free.drop (n * i)).take n).mapIdx fun j k => (k, decide (fair ≤ j)))) ∧
    (n < min gr fair → ∀ (j k : Nat) (o : Gang) (t : Thread), j ≠ gi → s.gangs[j]? = some o → o.core = g.core →
      o.st = .resident → o.harts[k]? = some t → s.onLoan j k = true → ∃ t', u.thread? ⟨j, .hart k⟩ = some t' ∧
        t'.rcl = true) ∧
    (u.gangOf gi).qenNext = g.qenW ∧ u.mem = s.mem ∧ (u.core g.core).lanes = c.lanes) ∧
  (∀ (s : State) (gi : Nat) (g : Gang) (l : Launch), s.gangs[gi]? = some g → s.launchOf g = some l →
    s.launches[g.launch]? = some l → g.alive ≠ [] →
    let ones : Word := BitVec.allOnes 64
    let u := s.settleTask gi
    let given (v : Word) : Prop := ∀ (h : Nat) (t : Thread) (d : Nat) (ga gb : Word) (w : Word32), g.harts[h]? = some t →
      t.wait = .settle 2 d ga gb w → ∃ t', u.thread? ⟨gi, .hart h⟩ = some t' ∧ t'.wait = .none ∧ t'.pc = t.pc + 4 ∧
        ∀ r, t'.reg r = if r = d ∧ r ≠ 0 then v else t.reg r
    let cursor (p : Option Panel) (strip : Nat) : Prop := (u.gangOf gi).panel = p ∧ (u.gangOf gi).strip = strip ∧ u.mem = s.mem
    let first : Agent := ⟨gi, .hart (g.alive.headD 0)⟩
    let record (va : Word) : Except MemErr (List Word × State) := s.readDwords first (s.nowLevel first) va.toNat 8
    let begun (va : Word) (strip : Nat) : Prop :=
      (∀ w s1, record va = .ok (w, s1) → given va ∧ cursor (some (Panel.ofRecord w)) strip ∧
        ((u.launches[g.launch]?).map (·.left)) = some (l.left - 1)) ∧
      (∀ e, e.code ≠ cWAIT → record va = .error e → u = s.raiseAll gi e.code e.addr)
    let lo := g.number * l.nstrip / l.cslots
    let hi := (g.number + 1) * l.nstrip / l.cslots
    let j := lo + g.strip
    (l.panels = false → l.determ = false → given ones ∧ cursor g.panel g.strip) ∧
    (l.panels = false → l.determ = true → hi ≤ j → given ones ∧ cursor g.panel g.strip) ∧
    (l.panels = false → l.determ = true → j < hi → given (BitVec.ofNat 64 j) ∧ cursor g.panel (g.strip + 1)) ∧
    (l.panels = true → l.determ = true → hi ≤ j → given ones ∧ cursor none g.strip) ∧
    (l.panels = true → l.determ = true → j < hi → begun (BitVec.ofNat 64 (l.dw 2 + 64 * j)) (g.strip + 1)) ∧
    (l.panels = true → l.determ = false → (∀ q, l.queueOn g.core = some q → q.recs = []) → given ones ∧ cursor none g.strip) ∧
    (l.panels = true → l.determ = false → ∀ q va o rest, l.queueOn g.core = some q → q.recs = (va, o) :: rest →
      begun va g.strip ∧ ∀ w s1, record va = .ok (w, s1) → ∃ l' q', u.launches[g.launch]? = some l' ∧
        l'.queueOn g.core = some q' ∧ q'.recs = rest))

/-- What a lane grant gives each hart: its groups, length, result, strip and registers (derived from 01_work.md,
02_state.md, 08_vector.md, R25, R43, R44, R46, R65, R201, R202, R203; the model's own choices in it: log 32, 68, 120).
-/
def Obligations.GrantEffect : Prop :=
  (∀ (s : State) (gi h : Nat) (g : Gang) (t : Thread) (kind d : Nat) (ga gb : Word) (fair : Nat)
      (groups : List (Nat × Bool)), s.gangs[gi]? = some g → g.harts[h]? = some t → t.ended = false → kind ≤ 1 →
    t.wait = .granted kind d ga gb fair groups →
    let u := s.applyGrant gi
    let limit := (u.gangOf gi).lengthLimit (u.lanes ⟨gi, .hart h⟩)
    let chg := s.setChanges gi h groups
    ∃ t', u.thread? ⟨gi, .hart h⟩ = some t' ∧ t'.blk = gb.toNat / 256 % 8 ∧
      t'.chg = chg ∧ t'.fair = fair ∧ t'.rcl = t.rcl ∧ t'.wait = .none ∧ t'.pc = t.pc + 4 ∧
      (d ≠ 0 → t'.reg d = BitVec.ofNat 64 (t'.vl + if chg then 2 ^ 63 else 0)) ∧
      (∀ r, r ≠ d → kind = 0 ∨ r < 56 ∨ 61 < r → t'.reg r = t.reg r) ∧
      (kind = 0 → t'.vl = min ga.toNat limit ∧ t'.mrows = gb.toNat / 16 % 16) ∧
      (g.core < s.cores.length → (groups.map (·.1)).Nodup → (∀ x ∈ groups, x.1 < (s.core g.core).lanes.length) →
        (∀ k d' gb' ga' f gs, k ≠ h → (g.hart k).wait = .granted kind d' ga' gb' f gs → ∀ x ∈ groups, ∀ y ∈ gs, x.1 ≠ y.1) →
        (∀ k ∈ g.alive, ∃ d' ga' gb' f gs, (g.hart k).wait = .granted kind d' ga' gb' f gs) →
        let lane (k : Nat) : Option (Nat × Nat × Bool) := ((u.core g.core).lanes[k]?).getD none
        (∀ x ∈ groups, lane x.1 = some (gi, h, x.2)) ∧ ∀ k loan, lane k = some (gi, h, loan) → (k, loan) ∈ groups) ∧
      (let noStrip : Prop := t'.vl = 0 ∧ t'.mrows = t.mrows ∧ ∀ r, r ≠ d → 56 ≤ r → r ≤ 61 → t'.reg r = 0
       let dealtTo (c : Option Panel) (k : Nat) : Option Panel := c.map fun p =>
         (p.deal (ga.toNat % 32) g.w ((u.gangOf gi).lengthLimit (u.lanes ⟨gi, .hart k⟩))).1
       let cursor := (g.alive.takeWhile (· ≠ h)).foldl dealtTo g.panel
       kind = 1 → (∀ k ∈ g.alive, ∃ d' ga' gb' f gs, (g.hart k).wait = .granted 1 d' ga' gb' f gs ∧
          ga'.toNat % 32 = ga.toNat % 32) → (g.panel = none → noStrip) ∧ ∀ p q, cursor = some p →
        (p.deal (ga.toNat % 32) g.w limit = (q, none) → noStrip) ∧
        ∀ n rows row0 col0 bases, p.deal (ga.toNat % 32) g.w limit = (q, some (n, rows, row0, col0, bases)) →
          t'.vl = n ∧ t'.mrows = (if rows = 0 then t.mrows else rows - 1) ∧
          (d ≠ 56 → t'.reg 56 = BitVec.ofNat 64 row0) ∧ (d ≠ 57 → t'.reg 57 = BitVec.ofNat 64 col0) ∧
          (∀ k, k < 3 → d ≠ 58 + k → t'.reg (58 + k) = (bases[k]?).getD 0) ∧ (d ≠ 61 → t'.reg 61 = p.user)) ∧
      (chg = false → t'.vregs = t.vregs) ∧
      (chg = true → t'.vregs.length = g.nv ∧ ∀ r ∈ t'.vregs, r.tag = r.decl ∧
        ∀ e, r.data.get e = 0 ∨ r.tag = .l6 ∧ r.data.get e = 0x10) ∧
      t'.vq = t.vq ∧ t'.mq = t.mq ∧ t'.frm = t.frm ∧ t'.fflags = t.fflags ∧
      (u.gangOf gi).qen = g.qenNext ∧ (u.gangOf gi).tiles = g.tiles ∧ u.mem = s.mem ∧ u.launches = s.launches) ∧
  (∀ (p : Panel) (q w limit : Nat),
    let fresh := decide (p.col0 = p.ncols ∨ p.band = 0)
    let row0 := if fresh then p.row0 + p.band else p.row0
    let col0 := if fresh then 0 else p.col0
    let band := if fresh then min q (p.nrows - row0) else p.band
    let n := min limit (p.ncols - col0)
    let base (k : Nat) : Word := if k < p.nbase then (p.bases[k]?).getD 0 + BitVec.ofInt 64 (row0 * (p.lds[k]?).getD 0) +
      BitVec.ofNat 64 (col0 * w) else 0
    (p.nrows = 0 ∨ p.ncols = 0 ∨ p.nrows ≤ row0 ∨ n = 0 → (p.deal q w limit).2 = none) ∧
    (p.nrows ≠ 0 → p.ncols ≠ 0 → row0 < p.nrows → n ≠ 0 → p.deal q w limit =
      ({ p with row0 := row0, col0 := col0 + n, band := band }, some (n, band, row0, col0, [base 0, base 1, base 2]))))

/-- Scratchpad allocations and the Sower's directory (derived from 04_storage.md, 09_vmem.md, 14_sower_orchard.md,
R97, R102, R232, R233, R234, R342; the model's own choices in it: log 90, 115). -/
def Obligations.ScratchAndSower : Prop :=
  ∀ (s : State) (d a b : BitVec 6), s.live = true → s.onHart = true →
    (let n := ((s.x a).toNat + 4095) / 4096
     let tag := (s.x b).toNat
     let life := (s.launchOf s.myGang).elim 0 (·.head.life)
     (tag = 0 ∨ 1024 < tag ∨ life < tag ∨ 64 ≤ s.myGang.allocs.length ∨ s.myGang.freeRun n = none →
       Finishes (exec (.spalloc d a b) s) s d.toNat 0) ∧
     (∀ off, 1 ≤ tag → tag ≤ 1024 → tag ≤ life → s.myGang.allocs.length < 64 → s.myGang.freeRun n = some off →
       Finishes (exec (.spalloc d a b) s) (s.modGang s.who.gang fun g => { g with
           allocs := insertBy (·.off) ⟨off, tag, List.replicate n 0, false⟩ g.allocs
           spad := Sparse.clear g.spad off (4096 * n) }) d.toNat (BitVec.ofNat 64 (windowBase + off)) ∧
       off % 4096 = 0 ∧ off + 4096 * n ≤ 4096 * s.myGang.blocks ∧
       (∀ x ∈ s.myGang.allocs, x.off % 4096 = 0 → x.ages = [] ∨ x.off + 4096 * x.ages.length ≤ off ∨ off + 4096 * n ≤ x.off))) ∧
    ((∀ x ∈ s.myGang.allocs, (s.x a).toNat ≠ windowBase + x.off) →
      let raise := s.trapWith (s.scalarCause cSPRANGE (s.x a) 0)
      exec (.spfree a) s = raise ∧ exec (.sprenew d a) s = raise ∧ exec (.spage d a) s = raise) ∧
    (∀ x ∈ s.myGang.allocs, (s.x a).toNat = windowBase + x.off → (∀ y ∈ s.myGang.allocs, y.off = x.off → y = x) →
      Finishes (exec (.spage d a) s) s d.toNat (BitVec.ofInt 64 ((x.tag : Int) - ((x.ages.foldl max 0 : Nat) : Int))) ∧
      (Quiet s →
        Finishes (exec (.sprenew d a) s) (s.modGang s.who.gang fun g => { g with allocs := g.allocs.map fun y =>
            if y.off = x.off then { y with ages := y.ages.map fun e => if y.tag < e then e else 0 } else y }) d.toNat
          (BitVec.ofNat 64 (x.ages.filter fun e => decide (x.tag < e)).length) ∧
        ((∀ t ∈ s.myGang.harts, t.xfers = []) → Answers (exec (.spfree a) s) fun t => SameBytes s t ∧
          t.me.pc = s.pc + 4 ∧ (∀ r, t.me.reg r = s.me.reg r) ∧
          t.myGang.allocs = s.myGang.allocs.filter fun y => y.off ≠ x.off))) ∧
    (Quiet s → ∀ (p : Place) (s1 : State) (v : Nat), s.locate s.who s.me.lvl .read false (s.x a) 8 8 = .ok (p, s1) →
      s1.loadAt s1.who 0 p 8 = some v →
      (4096 < v → exec (.sowload a) s = s1.illop) ∧
      (v ≤ 4096 → Answers (exec (.sowload a) s) fun t => SameBytes s t ∧ t.me.sowAddr = s.x a ∧ t.me.sowDims = v ∧
        t.me.pc = s.pc + 4 ∧ (∀ r, t.me.reg r = s.me.reg r) ∧
        ∀ k, s.partOfCore k = s.myPart → ∀ e ∈ (t.core k).dimCache, e.1 ≠ dimKey s.myPart (s.x a)))

/-- QDRAIN: when a hart retires it, when it waits, when it is illegal, and its push in a context (derived from
09_vmem.md, R241). -/
def Obligations.QueueDrain : Prop :=
  ∀ (s : State) (a : BitVec 6), s.live = true →
    (4096 ≤ (s.x a).toNat → exec (.qdrain a) s = s.illop) ∧
    (s.room → s.onHart = false → (s.x a).toNat < 4096 →
      Pushes (exec (.qdrain a) s) s { s.blank .drain 1 with opa := s.x a }) ∧
    (s.onHart = true → (s.x a).toNat < 4096 →
      (∀ k q, (s.myGang.lq ++ s.myGang.sq)[k]? = some q → (s.x a).getLsbD k = true → s.myGang.qen.getLsbD k = true →
        q = []) →
      (∀ t ∈ s.myGang.access :: s.myGang.harts,
        (∀ r ∈ t.vq, r.vl = 0 ∨ ((∀ n, r.dst = .sq n → (s.x a).getLsbD (8 + n) = false) ∧
          ∀ q e, r.dst = .lq q e → (s.x a).getLsbD q = false)) ∧
        ∀ x ∈ t.xfers, ∀ q l, x.kind = .stream q l → (s.x a).getLsbD q = false) →
      ((s.x a).toNat < 256 ∨ s.myGang.access.wc = [] ∧ ∀ r ∈ s.myGang.access.vq, ∀ f n, r.op ≠ .store f n) →
      Finishes (exec (.qdrain a) s) s 0 0) ∧
    (s.onHart = true → (s.x a).toNat < 4096 → ∀ k q, (s.myGang.lq ++ s.myGang.sq)[k]? = some q → q ≠ [] → (s.x a).getLsbD k = true →
      s.myGang.qen.getLsbD k = true →
      exec (.qdrain a) s = s.stallFor (.drain (s.x a).toNat))

/-- Privileged instructions: context commands, XLINV, WFI and HALTC complete (derived from 17_contexts.md,
18_placement.md, R397, R398, R403, R405, R417, R418; the model's own choices in it: log 25, 43, 61). -/
def Obligations.PrivilegedComplete : Prop :=
  ∀ (s : State) (a b : BitVec 6), s.live = true → s.onHart = true →
    (1 ≤ s.me.lvl →
      (s.me.sevent &&& s.me.seventen ≠ 0 → Finishes (exec .wfi s) s 0 0) ∧
      (s.me.sevent &&& s.me.seventen = 0 →
        exec .wfi s = .next (s.setMe fun t => { t with wait := .wfi, stall := .none })) ∧
      (∀ i ∈ ([.ctxsave a, .ctxload a] : List Instr), Quiet s →
        (tooWide (s.x a) = true → exec i s = s.trapMem ⟨cXLAT, s.x a⟩ .read) ∧
        (tooWide (s.x a) = false → (s.x a).toNat % 64 ≠ 0 → exec i s = s.trapMem ⟨cALIGN, s.x a⟩ .read)) ∧
      (Quiet s → tooWide (s.x a) = false → (s.x a).toNat % 64 = 0 → ∀ (s1 : State) (w : List Word), s1.live = true →
        (∀ k, s.readCommand (s.x a) 8 k = k s1 w) →
        Finishes (exec (.ctxsave a) s) (s1.queueCommand false w) 0 0 ∧
        Finishes (exec (.ctxload a) s) (s1.queueCommand true w) 0 0 ∧
        (s1.queueCommand false w).ctx.length = s1.ctx.length + 1 ∧ (s1.queueCommand true w).ctx.length = s1.ctx.length + 1) ∧
      (let gb := (s.x b).toNat
       let lo := if 2 ^ 63 ≤ gb then 0 else (s.x a).toNat
       let hi := if 2 ^ 63 ≤ gb then 2 ^ 52 else min ((s.x a).toNat + 65536 * (gb % 2 ^ 32)) (2 ^ 52)
       let legal := gb / 2 ^ 32 % 2 ^ 31 = 0 ∧ (2 ^ 63 ≤ gb ∨ (s.x a).toNat % 65536 = 0 ∧ (s.x a).toNat < 2 ^ 52)
       (¬legal → exec (.xlinv a b) s = s.illop) ∧
       (legal → Quiet s →
         let s1 := s.invalidate s.myPart lo hi
         (lo < hi → ∀ c ∈ s1.cores, ∀ l ∈ c.tcache, l.part = s.myPart → l.va < hi → ¬lo < l.va + l.size) ∧
         (s1.stillUsed s.myPart lo hi = false → Finishes (exec (.xlinv a b) s) s1 0 0) ∧
         (s1.stillUsed s.myPart lo hi = true → exec (.xlinv a b) s = s1.stallFor .busy)))) ∧
    (s.me.lvl = 2 →
      let ga := (s.x a).toNat
      let core := ga % 256
      (256 ≤ ga → ga < 512 → Finishes (exec (.haltc a) s) (s.releaseCore core) 0 0 ∧
        Finishes (exec (.haltcRelease a) s) (s.releaseCore core) 0 0) ∧
      (512 ≤ ga → exec (.haltc a) s = s.illop ∧ exec (.haltcRelease a) s = s.illop) ∧
      (ga < 256 → exec (.haltcRelease a) s = s.illop ∧ (core = s.myCore → exec (.haltc a) s = s.illop) ∧
        (core ≠ s.myCore → (∀ g ∈ s.gangs, g.st = .resident → g.core ≠ core) →
          Finishes (exec (.haltc a) s) (s.modCore core fun c => { c with held := true }) 0 0) ∧
        (core ≠ s.myCore → (∃ g ∈ s.gangs, g.st = .resident ∧ g.core = core) →
          Answers (exec (.haltc a) s) fun t => t.me.wait = .haltc core ∧ t.me.pc = s.pc ∧ SameBytes s t ∧
            (core < s.cores.length → (t.core core).held = true) ∧
            ∀ g ∈ t.gangs, g.st = .resident → g.core = core → g.haltReq.isSome = true)))

/-- The element-wise arithmetic of VOP: it is pushed, and when it completes (derived from 02_state.md, 08_vector.md,
R51, R194, R195, R196, R197, R204, R205, R208; the model's own choices in it: log 29, 86, 87, 88). -/
def Obligations.QueuedElementwise : Prop :=
  ∀ p ∈ vopForms, ∀ (d a b : BitVec 6) (n sc m g l : Bool) (s : State), s.room →
    let fs : Machine.Fields := ⟨if p.2.unary || g then [a] else [a, b], some d, true, m⟩
    let o := exec (p.1 d a b n sc m g l) s
    (∀ (u : Option Tag) (s1 s2 s3 : State) (x y : Operand) (t dt : Tag) (vl : Nat), s.vsource u a = .ok (x, s1) →
      (if p.2.unary then y = x ∧ s2 = s1 else s.second u s1 s2 x y b g) → promote x.tag y.tag = some t →
      p.2.defined t = true → (s.onHart = true ∨ t.integer = true) → aluOutTag p.2 t n sc = .ok dt → s.fits t = true →
      s.fits dt = true → s.scaleOk sc [x.tag, y.tag, dt] = true → ¬(sc = true ∧ t = .l6 ∧ p.2 = .mul) →
      s.length fs none = .ok vl → s2.reserveSower (aluRounds p.2 t n sc) vl = .ok s3 →
      let dst := s.vdest fs
      s.Takes fs u o s3 { s2.blank (.alu p.2) vl with
        masked := m, scaled := sc, short := l, dst := dst, srcA := x.src, srcB := if p.2.unary then .none else y.src
        tagA := x.tag, tagB := y.tag, tagD := s.destTag dst, opTag := t, outTag := dt
        rezero := rezeroOf dst (s.destTag dst) dt, pops := if p.2.unary then popsOf [x] else popsOf [x, y] }
        (s.blank (.alu p.2) 0)) ∧
    (∀ (t dt : Tag), s.onHart = true → d.toNat < s.me.vregs.length → (∀ f ∈ d :: fs.srcs, f.toNat < s.myGang.nv ∧ isQueue f = false) →
      let ta := (s.me.vreg a.toNat).tag
      let tb := if p.2.unary || g then ta else (s.me.vreg b.toNat).tag
      promote ta tb = some t → p.2.defined t = true → aluOutTag p.2 t n sc = .ok dt → s.fits t = true →
      s.fits dt = true → s.scaleOk sc [ta, tb, dt] = true → ¬(sc = true ∧ t = .l6 ∧ p.2 = .mul) →
      (aluRounds p.2 t n sc = true → frmRm s.me.frm = 4 → frmSrdim s.me.frm < s.me.sowDims) →
      Answers o fun u => u.me.pc = s.pc + 4 ∧ ∃ r : VRec, u.me.vq = s.me.vq ++ [r] ∧ r.op = .alu p.2 ∧
        r.vl = s.me.vl ∧ r.dst = .reg d.toNat ∧ r.srcA = .reg a.toNat ∧ r.opTag = t ∧ r.outTag = dt ∧ r.frm = s.me.frm ∧
        (u.me.vreg d.toNat).tag = if s.me.vl = 0 then (s.me.vreg d.toNat).tag else dt)

/-- Pushing the forms that read an accumulator row, and the fused forms (derived from 08_vector.md, R208, R209; the
model's own choices in it: log 29, 86, 88). -/
def Obligations.QueuedAccumulator : Prop :=
  ∀ (d a b : BitVec 6) (n sc m : Bool) (s : State), s.room → s.onHart = true →
    (∀ p ∈ vaccForms, ∀ (u : Option Tag) (s2 s3 : State) (tile row : Nat) (ta : Tag) (y : Operand) (t dt : Tag),
      let fs : Machine.Fields := ⟨if p.2.unary then [] else [b], some d, true, m⟩
      let dst := s.vdest fs
      s.rowSource (s.x a) = .ok (tile, row, ta) → s.me.vl ≤ 2048 →
      (if p.2.unary then y = ⟨.row tile row, ta, 2048, none⟩ ∧ s2 = s else s.vsource u b = .ok (y, s2)) →
      promote ta y.tag = some t → p.2.defined t = true → aluOutTag p.2 t n sc = .ok dt → s.fits t = true →
      s.fits dt = true → s.scaleOk sc [ta, y.tag, dt] = true → ¬(sc = true ∧ t = .l6 ∧ p.2 = .mul) →
      s2.reserveSower (aluRounds p.2 t n sc) s.me.vl = .ok s3 →
      s.Takes fs u (exec (p.1 d a b n sc m) s) s3 { s2.blank (.alu p.2) s.me.vl with
        masked := m, scaled := sc, dst := dst, srcA := .row tile row, srcB := if p.2.unary then .none else y.src
        tagA := ta, tagB := y.tag, tagD := s.destTag dst, opTag := t, outTag := dt
        rezero := rezeroOf dst (s.destTag dst) dt, pops := if p.2.unary then [] else popsOf [y] }
        (s.blank (.alu p.2) 0)) ∧
    (∀ p ∈ fmaForms, ∀ (u : Option Tag) (s1 s2 s3 : State) (x y : Operand) (t0 t dt : Tag) (g : Bool),
      let old := (s.me.vreg d.toNat).tag
      let dst := Dst.reg d.toNat
      promote x.tag y.tag = some t0 → promote t0 old = some t → t ≠ .l6 → aluOutTag .add t n sc = .ok dt →
      s.fits t = true → s.fits dt = true → s.scaleOk sc [x.tag, y.tag, old, dt] = true →
      s2.reserveSower t.floating s.me.vl = .ok s3 →
      let r := { s2.blank (.fma p.2.2) s.me.vl with
        masked := m, scaled := sc, dst := dst, srcA := x.src, srcB := y.src, tagA := x.tag, tagB := y.tag
        tagD := old, opTag := t, outTag := dt, rezero := rezeroOf dst old dt, pops := popsOf [x, y] }
      let e := s.blank (.fma p.2.2) 0
      (s.vsource u a = .ok (x, s1) → s.second u s1 s2 x y b g →
        s.Takes ⟨if g then [a] else [a, b], some d, false, m⟩ u (exec (p.1 d a b n sc m g) s) s3 r e) ∧
      (∀ tile row ta, s.rowSource (s.x a) = .ok (tile, row, ta) → s.me.vl ≤ 2048 →
        x = ⟨.row tile row, ta, 2048, none⟩ → s.vsource u b = .ok (y, s2) →
        s.Takes ⟨[b], some d, false, m⟩ u (exec (p.2.1 d a b n sc m) s) s3 r e))

/-- Compares, mask functions, selection and mask counts (derived from 08_vector.md, R210, R211, R212; the model's own
choices in it: log 28, 85, 88). -/
def Obligations.QueuedMasks : Prop :=
  ∀ (d a b : BitVec 6) (m : Bool) (s : State), s.room →
    (∀ (u : Option Tag) (s1 s2 : State) (x y : Operand) (vl : Nat), s.vsource u a = .ok (x, s1) →
      let both (fs : Machine.Fields) (op : VOp) (t out : Tag) : VRec :=
        let dst := s.vdest fs
        { s2.blank op vl with
          dst := dst, srcA := x.src, srcB := y.src, tagA := x.tag, tagB := y.tag, tagD := s.destTag dst, opTag := t
          outTag := out, rezero := rezeroOf dst (s.destTag dst) out, pops := popsOf [x, y] }
      (∀ p ∈ cmpForms, ∀ (g : Bool) (t : Tag), s.second u s1 s2 x y b g → promote x.tag y.tag = some t → s.fits t = true →
        (s.onHart = true ∨ t.integer = true) → ¬(p.2 = .unord ∧ t.integer = true) →
        let fs : Machine.Fields := ⟨if g then [a] else [a, b], some d, true, m⟩
        s.length fs none = .ok vl → s.Takes fs u (exec (p.1 d a b m g) s) s2
          { both fs (.cmp p.2) t .n8 with masked := m } (s.blank (.cmp p.2) 0)) ∧
      (s1.vsource u b = .ok (y, s2) →
        (∀ p ∈ maskForms, (s.onHart = true ∨ x.tag.integer = true ∧ y.tag.integer = true) →
          let fs : Machine.Fields := ⟨[a, b], some d, true, false⟩
          s.length fs none = .ok vl → s.Takes fs u (exec (p.1 d a b) s) s2 (both fs (.mask p.2) .n8 .n8)
            (s.blank (.mask p.2) 0)) ∧
        (∀ t, promote x.tag y.tag = some t → s.fits t = true → (s.onHart = true ∨ t.integer = true) →
          let fs : Machine.Fields := ⟨[a, b], some d, true, true⟩
          s.length fs none = .ok vl → s.Takes fs u (exec (.vsel d a b) s) s2 (both fs .sel t t) (s.blank .sel 0))) ∧
      ((s.onHart = true ∨ x.tag.integer = true) →
        (let fs : Machine.Fields := ⟨[a], some d, true, false⟩
         let dst := s.vdest fs
         s.length fs none = .ok vl → s.Takes fs u (exec (.vmnot d a) s) s1 { s1.blank (.mask .not) vl with
            dst := dst, srcA := x.src, tagA := x.tag, tagB := x.tag, tagD := s.destTag dst, opTag := .n8, outTag := .n8
            rezero := rezeroOf dst (s.destTag dst) .n8, pops := popsOf [x] } (s.blank (.mask .not) 0)) ∧
        (let fs : Machine.Fields := ⟨[a], none, false, false⟩
         ∀ p ∈ ([(.vmpopc, .mpopc), (.vmfirst, .mfirst)] : List ((BitVec 6 → BitVec 6 → Instr) × VOp)),
          s.length fs none = .ok vl → s.Takes fs u (exec (p.1 d a) s) s1 { s1.blank p.2 vl with
            dst := .scalar d.toNat, srcA := x.src, tagA := x.tag, pops := popsOf [x] }
            { s.blank p.2 0 with dst := .scalar d.toNat }))) ∧
    (∀ (s1 : State) (x : Operand), s.onHart = true → s.named ⟨[a], none, false, false⟩ = .ok () →
      s.vsource none a = .ok (x, s1) → Pushes (exec (.vgete d a b) s) s1 { s1.blank .gete s.me.vl with
        dst := .scalar d.toNat, srcA := x.src, tagA := x.tag, pops := popsOf [x]
        opa := if (s.x b).toNat < s.vlmax s.who then s.x b else BitVec.allOnes 64 }) ∧
    (∀ (vl : Nat),
      let fill (fs : Machine.Fields) (op : VOp) (t : Tag) : VRec :=
        let dst := s.vdest fs
        { s.blank op vl with
          masked := fs.mask, dst := dst, tagD := s.destTag dst, opTag := t, outTag := t
          rezero := rezeroOf dst (s.destTag dst) t }
      let fs : Machine.Fields := ⟨[], some d, true, false⟩
      let fm : Machine.Fields := ⟨[], some d, true, m⟩
      let t : Tag := if 4 ≤ s.myGang.w then .n32 else if s.myGang.w = 2 then .n16 else .n8
      (s.named fs = .ok () → s.length fs none = .ok vl → Pushes (exec (.vmset d) s) s (fill fs .mset .n8)) ∧
      (s.named fm = .ok () → s.length fm none = .ok vl → Pushes (exec (.vid d m) s) s (fill fm .vid t))) ∧
    (∀ ag : Agent, RunsQueue s ag → isQueue a = false → a.toNat < s.myGang.nv → s.me.vl < 2 ^ 32 →
      let bit (i : Nat) : Bool := ((s.me.vreg a.toNat).data.get i).getLsbD 0
      let lanes := if s.lanes s.who = 0 then 32 else s.lanes s.who
      let steps := max 1 ((s.me.vl + lanes - 1) / lanes)
      let ends (i : Instr) (k : Nat) (v : Word) (fl : BitVec 6) : Prop :=
        Answers (exec i s) (AfterGroups ag s.me.vqtail (fun u => WroteScalar s u d.toNat v fl) k)
      ends (.vmpopc d a) steps (BitVec.ofNat 64 ((List.range s.me.vl).countP bit)) 0 ∧
      ends (.vmfirst d a) steps (((List.range s.me.vl).find? bit).elim (BitVec.allOnes 64) (BitVec.ofNat 64)) 0 ∧
      (let r := geteWord (s.me.vreg a.toNat).tag ((s.me.vreg a.toNat).data.get (s.x b).toNat)
       ends (.vgete d a b) 1 (if (s.x b).toNat < s.vlmax s.who then r.1 else 0)
         (if (s.x b).toNat < s.vlmax s.who then r.2 else 0)))

/-- Pushing moves, conversions, scans, functions and the Sower's vector forms (derived from 08_vector.md,
14_sower_orchard.md, R200, R215, R216, R217, R218, R219, R221, R222, R341; the model's own choices in it: log 20, 29,
84, 85, 88). -/
def Obligations.QueuedMoves : Prop :=
  ∀ (d a b : BitVec 6) (m sc : Bool) (s : State), s.room →
    (∀ p ∈ moveForms, ∀ (u : Option Tag) (s1 : State) (x : Operand) (vl : Nat),
      let v := if p.swapped then b else a
      let r := if p.swapped then a else b
      let w := if p.reads then s.x r else 0
      let fs : Machine.Fields := ⟨[v], some d, p.toQueue, m⟩
      let dst := s.vdest fs
      s.vsource u v = .ok (x, s1) → (s.onHart = true ∨ x.tag.integer = true) → s.length fs none = .ok vl →
      (p.mayAlias = true ∨ sameReg dst x.src = false) →
      s.Takes fs u (exec (p.instr d a b m) s) s1 { s1.blank p.op vl with
        masked := m, dst := dst, srcA := x.src, tagA := x.tag, tagD := s.destTag dst, opTag := x.tag, outTag := x.tag
        opa := if p.tagged then scalarUnder x.tag s.me.frm w else w, rezero := rezeroOf dst (s.destTag dst) x.tag
        pops := popsOf [x] } (s.blank p.op 0)) ∧
    (∀ (u : Option Tag) (s1 s2 : State) (x y : Operand) (vl : Nat), s.vsource u a = .ok (x, s1) →
      s1.vsource u b = .ok (y, s2) →
      let both (fs : Machine.Fields) (op : VOp) (t out : Tag) : VRec :=
        let dst := s.vdest fs
        { s2.blank op vl with
          masked := m, dst := dst, srcA := x.src, srcB := y.src, tagA := x.tag, tagB := y.tag, tagD := s.destTag dst
          opTag := t, outTag := out, rezero := rezeroOf dst (s.destTag dst) out, pops := popsOf [x, y] }
      (∀ p ∈ indexForms, y.tag.integer = true → (s.onHart = true ∨ x.tag.integer = true) →
        let fs : Machine.Fields := ⟨[a, b], some d, p.2.2, m⟩
        sameReg (s.vdest fs) x.src = false → sameReg (s.vdest fs) y.src = false → s.length fs none = .ok vl →
        s.Takes fs u (exec (p.1 d a b m) s) s2 (both fs p.2.1 x.tag x.tag) (s.blank p.2.1 0)) ∧
      (∀ g k : BitVec 2, s.onHart = true → x.tag.floating = true → y.tag.floating = true → x.tag ≠ .l6 → y.tag ≠ .l6 →
        let fs : Machine.Fields := ⟨[a, b], some d, true, m⟩
        vl = s.me.vl → s.Takes fs u (exec (.vsalsel d a b m g k) s) s2 (both fs (.salsel g.toNat k.toNat) .f32 .n8)
          (s.blank (.salsel g.toNat k.toNat) 0))) ∧
    (∀ (u : Option Tag) (s1 s2 : State) (x : Operand) (vl : Nat), s.vsource u a = .ok (x, s1) →
      let fs : Machine.Fields := ⟨[a], some d, true, m⟩
      let dst := s.vdest fs
      s.length fs none = .ok vl →
      let r (op : VOp) (t : Tag) : VRec := { s1.blank op vl with
        masked := m, dst := dst, srcA := x.src, tagA := x.tag, tagD := s.destTag dst, opTag := t, outTag := t
        rezero := rezeroOf dst (s.destTag dst) t, pops := popsOf [x] }
      (∀ (code : BitVec 6) (t : Tag), Tag.ofCode code.toNat = some t → s.fits t = true →
        (x.tag.width = t.width ∨ exactPair x.tag t = true) →
        (s.onHart = true ∨ t.integer = true ∧ x.tag.integer = true) →
        s.Takes fs u (exec (.vresh d a code m) s) s1 (r .resh t) (s.blank .resh 0)) ∧
      (s.onHart = true →
        (∀ (code : BitVec 5) (t : Tag), Tag.ofCode code.toNat = some t → s.fits t = true →
          s.scaleOk sc [x.tag, t] = true → s1.reserveSower (t ≠ .l6) vl = .ok s2 →
          s.Takes fs u (exec (.vcvt d a sc m code) s) s2 { r .cvt t with scaled := sc } (s.blank .cvt 0)) ∧
        (∀ p ∈ scanForms, x.tag ≠ .l6 →
          s.Takes fs u (exec (p.1 d a false m) s) s1 (r (.scan p.2) x.tag) (s.blank (.scan p.2) 0)) ∧
        (∀ (slot : BitVec 5) c, coefSlot (s.coefWord s.who.gang) slot.toNat = some c → s.fits c.p = true →
          x.tag.floating = true →
          s.Takes fs u (exec (.vfunc d a m slot) s) s1 (r (.func slot.toNat) c.p) (s.blank (.func slot.toNat) 0)) ∧
        (∀ p ∈ sowForms, (s.x b).toNat / 2 ^ 12 % 2 ^ 20 = 0 → (s.x b).toNat % 2 ^ 12 < s.me.sowDims →
          s.fits p.2.2 = true → x.tag.integer = true → s.Takes fs u (exec (p.1 d a b m) s) s1
            { r (.sow p.2.1) p.2.2 with opb := s.x b } (s.blank (.sow p.2.1) 0)))) ∧
    (∀ (vl : Nat),
      let fs : Machine.Fields := ⟨[], some d, true, m⟩
      let dst := s.vdest fs
      let t := if isQueue d then Tag.default s.myGang.w else (s.me.vreg d.toNat).decl
      s.named fs = .ok () → s.length fs none = .ok vl →
      (s.onHart = true ∨ t.integer = true) → Pushes (exec (.vbcast d a m) s) s { s.blank .bcast vl with
        masked := m, dst := dst, tagD := s.destTag dst, opTag := t, outTag := t, opa := scalarUnder t s.me.frm (s.x a)
        rezero := rezeroOf dst (s.destTag dst) t }) ∧
    (s.onHart = true → isQueue d = false → d.toNat < s.myGang.nv →
      let old := (s.me.vreg d.toNat).tag
      Pushes (exec (.vsete d a b) s) s { s.blank .sete s.me.vl with
        dst := .reg d.toNat, tagD := old, opTag := old, outTag := old, opb := scalarUnder old s.me.frm (s.x b)
        opa := if (s.x a).toNat < s.vlmax s.who then s.x a else BitVec.allOnes 64 } ∧
      (∀ t, (s.x a).toNat < 32 → Tag.ofCode (s.x a).toNat = some t → s.fits t = true →
        let s1 := s.setMe fun u => u.modVreg d.toNat fun r => { r with decl := t }
        (s.lanes s.who = 0 → Pushes (exec (.vcfg d a) s) s1 (s.blank .cfg 0)) ∧
        (s.lanes s.who ≠ 0 → Pushes (exec (.vcfg d a) s) s1 { s.blank .cfg s.me.vl with
          dst := .reg d.toNat, tagD := old, opTag := t, outTag := t, rezero := decide (old.width ≠ t.width) })))

/-- Reductions: what is pushed, and the scalar register they write when they complete (derived from 03_numbers.md,
08_vector.md, R88, R196, R198, R220; the model's own choices in it: log 88). -/
def Obligations.QueuedReductions : Prop :=
  ∀ p ∈ reduceForms, ∀ (d a b : BitVec 6) (sc m : Bool) (s : State), s.room → s.onHart = true →
    let fs : Machine.Fields := ⟨[a], none, false, m⟩
    let o := exec (p.1 d a b sc m) s
    let bitwise := p.2 ∈ ([.and, .or, .xor] : List FoldFn)
    (∀ (u : Option Tag) (s1 : State) (x : Operand), s.vsource u a = .ok (x, s1) →
      (bitwise → x.tag.floating = true → u = none → s.named fs = .ok () → s.popsNothing fs = false → o = s.illop) ∧
      ((bitwise → x.tag.floating = false) → s.scaleOk sc [x.tag] = true →
        s.Takes fs u o s1 { s1.blank (.red p.2) s.me.vl with
          masked := m, scaled := sc, dst := .scalar d.toNat, srcA := x.src, tagA := x.tag, opTag := reduceTag x.tag
          opb := if reduceTag x.tag = .f32 then s.x b &&& 0xFFFFFFFF#64 else s.x b, pops := popsOf [x] }
          { s.blank (.red p.2) 0 with dst := .scalar d.toNat, opb := s.x b, opTag := .n64 })) ∧
    (∀ ag : Agent, RunsQueue s ag → isQueue a = false → a.toNat < s.myGang.nv →
      let v := s.me.vreg a.toNat
      (bitwise → v.tag.floating = false) → s.scaleOk sc [v.tag] = true →
      let t := reduceTag v.tag
      let seed := if t = .f32 then s.x b &&& 0xFFFFFFFF#64 else s.x b
      let scale (i : Nat) : Option Nat :=
        if sc then some (((s.me.vreg 1).data.get (i / 2 ^ (s.me.blk + 3))).toNat % 256) else none
      let xs := (List.range s.me.vl).filterMap fun i =>
        if m && !((s.me.vreg 0).data.get i).getLsbD 0 then none else some (i, reduceElem v.tag (scale i) (v.data.get i))
      let r := if s.me.vl = 0 then (seed, 0) else sumFixed p.2 t xs seed
      Answers o (AfterGroups ag s.me.vqtail (fun u => WroteScalar s u d.toNat r.1 r.2) 1))

/-- Pushing vector loads, stores and far gathers of harts and access-unit contexts (derived from 04_storage.md,
09_vmem.md, 10_access.md, R98, R225, R226, R228, R229, R230, R231, R256, R260; the model's own choices in it: log 30,
33, 88). -/
def Obligations.QueuedVectorMemory : Prop :=
  (∀ (i : Instr) (f : LoadForm) (u : Option Tag) (s s1 : State) (x : Operand) (n : Nat), loadForm? i = some f → s.room →
    s.onHart = f.onHart →
    let fs : Machine.Fields := ⟨if f.form.hasIndex then [f.index] else [], some f.d, true, f.masked⟩
    let dst := s.vdest fs
    s.indexSource u f.form f.index = .ok (x, s1) → s.length fs none = .ok n →
    let t := f.tag.getD (if isQueue f.d then Tag.default s.myGang.w else (s.me.vreg f.d.toNat).decl)
    let base := s.x f.base
    let opb := f.step.elim 0 s.x
    s.fits t = true → (t.subByte = true → f.form.packs = true) → (s.onHart = true → sameReg dst x.src = false) →
    (f.short = true → isQueue f.d = false) →
    (f.arr = true → inWindow base.toNat = true ∧ tooWide base = false ∧ f.form.hasIndex = false) →
    let k := s1.trim f.form t base opb n
    let s2 := if s.onHart = true ∧ k ≠ n then s1.setMe fun th => { th with vl := k } else s1
    let op := VOp.load f.form f.arr f.ff
    s.Takes fs u (exec i s) s2 { s2.blank op k with
      masked := f.masked, short := f.short, dst := dst, srcA := x.src, tagA := x.tag, tagD := s.destTag dst, opTag := t
      outTag := t, rezero := rezeroOf dst (s.destTag dst) t, opa := base, opb := opb, pops := popsOf [x] }
      (s.blank op 0)) ∧
  (∀ (i : Instr) (f : StoreForm) (u : Option Tag) (s s1 s2 : State) (x y : Operand) (n : Nat), storeForm? i = some f →
    s.room → s.onHart = f.onHart →
    let fs : Machine.Fields := ⟨f.d :: if f.form.hasIndex then [f.index] else [], none, false, f.masked⟩
    s.vsource u f.d = .ok (y, s1) → s1.indexSource u f.form f.index = .ok (x, s2) →
    (y.tag.subByte = true → f.form.packs = true) → s2.length fs (if isQueue f.d then some y.count else none) = .ok n →
    let base := s.x f.base
    let opb := f.step.elim 0 s.x
    let k := s2.trim f.form y.tag base opb n
    let s3 := if s.onHart = true ∧ k ≠ n then s2.setMe fun th => { th with vl := k } else s2
    let op := VOp.store f.form f.nt
    let r := { s3.blank op k with
      masked := f.masked, srcA := x.src, srcB := y.src, tagA := x.tag, tagB := y.tag, opTag := y.tag, outTag := y.tag
      opa := base, opb := opb, pops := popsOf [y, x] }
    ((s.onHart = true ∨ isQueue f.d = false) → s.Takes fs u (exec i s) s3 r (s.blank op 0)) ∧
    (s.onHart = false → isQueue f.d = true → u = none → s.named fs = .ok () → Pushes (exec i s) s3 r)) ∧
  (∀ (d a b : BitVec 6) (m : Bool) (u : Option Tag) (s s1 : State) (x : Operand) (n : Nat) (t : Tag), s.room →
    let desc := s.x (a + 1)
    let far := AddrForm.far (desc.toNat % 2 ^ 32)
    let masked := m && !s.onHart
    let fs : Machine.Fields := ⟨[b], some d, true, masked⟩
    let dst := s.vdest fs
    Tag.ofCode (desc.toNat / 2 ^ 32 % 32) = some t → desc.toNat < 2 ^ 37 → desc.toNat % 2 ^ 32 ≠ 0 → t.subByte = false →
    s.fits t = true → s.vsource u b = .ok (x, s1) → x.tag.integer = true → s.length fs none = .ok n →
    s.Takes fs u (if s.onHart then exec (.vfar d a b) s else exec (.afar d a b m) s) s1
      { s1.blank (.load far false false) n with
        masked := masked, dst := dst, srcA := x.src, tagA := x.tag, tagD := s.destTag dst, opTag := t, outTag := t
        rezero := rezeroOf dst (s.destTag dst) t, opa := s.x a, opb := desc, pops := popsOf [x] }
      (s.blank (.load far false false) 0))

/-- Pushing windows, vector fences, and engine commands (derived from 05_ordering.md, 09_vmem.md, R118, R235, R237,
R238, R239, R240, R242; the model's own choices in it: log 77, 88, 109, 126). -/
def Obligations.QueuedWindows : Prop :=
  ∀ (s : State), s.room →
    (∀ sc k : BitVec 3, ∃ t, Queued s t { s.blank (.fence sc.toNat k.toNat) s.me.vl with opa := BitVec.ofNat 64 s.stamp } ∧
      exec (.vfence sc k) s =
        .next (if 4 ≤ sc.toNat then t.setMe fun u => { u with epoch := u.epoch + 1 } else t)) ∧
    (s.onHart = true →
      Pushes (exec .vlsync s) s { s.blank .lsync s.me.vl with opa := BitVec.ofNat 64 s.stamp } ∧
      (∀ a b : BitVec 6, winOk (s.x b) s.myGang.w = true →
        ((s.x a).toNat % (winTag (s.x b)).width ≠ 0 → exec (.vwin a b) s = s.trapMem ⟨cALIGN, s.x a⟩ .read) ∧
        ((s.x a).toNat % (winTag (s.x b)).width = 0 → s.myGang.holdsArea (s.x b) = true →
          Pushes (exec (.vwin a b) s) (s.setMe fun t => { t with window := some ⟨s.x a, s.x b, false⟩ })
            { s.blank .win s.me.vl with opa := s.x a, opb := s.x b })) ∧
      (s.me.window = none → exec .vwmerge s = s.illop ∧ ∀ a b m, exec (.vwacc a b m) s = s.illop) ∧
      (∀ w : Window, s.me.window = some w →
        (w.dead = true → exec .vwmerge s = s.trap cSPRANGE ∧ ∀ a b m, s.named ⟨[a, b], none, false, m⟩ = .ok () →
          exec (.vwacc a b m) s = s.trap cSPRANGE) ∧
        (w.dead = false →
          Pushes (exec .vwmerge s) s { s.blank .wmerge s.me.vl with opa := w.base, opb := w.desc } ∧
          ∀ (a b : BitVec 6) (m : Bool) (u : Option Tag) (s1 s2 : State) (x y : Operand),
            s.vsource u a = .ok (x, s1) → s1.vsource u b = .ok (y, s2) → x.tag.integer = true → y.tag ≠ .l6 →
            s.Takes ⟨[a, b], none, false, m⟩ u (exec (.vwacc a b m) s) s2 { s2.blank .wacc s.me.vl with
              masked := m, srcA := x.src, srcB := y.src, tagA := x.tag, tagB := y.tag, opa := w.base, opb := w.desc
              pops := popsOf [x, y] } (s.blank .wacc 0))) ∧
      (∀ p ∈ ([(.cmdbCopy, .copy), (.cmdbCat, .catalogue), (.cmdbOrch, .orchard)] :
          List ((BitVec 6 → BitVec 6 → Bool → Instr) × Engine)), ∀ (d a : BitVec 6) (m : Bool),
        a.toNat + 8 ≤ s.myGang.nv → d.toNat < s.myGang.nv → (d.toNat < a.toNat ∨ a.toNat + 8 ≤ d.toNat) →
        (∀ k < 8, (s.me.vreg (a.toNat + k)).tag.width = 8) →
        Pushes (exec (p.1 d a m) s) s { s.blank (.cmdb p.2) s.me.vl with
          masked := m, dst := .reg d.toNat, srcA := .reg a.toNat, tagA := .n64, tagD := (s.me.vreg d.toNat).tag
          opTag := .n8, outTag := .n8, rezero := rezeroOf (.reg d.toNat) (s.me.vreg d.toNat).tag .n8 }))

/-- Pushing the matrix instructions (derived from 11_matrix.md, R273, R276, R279, R281, R286, R289; the model's own
choices in it: log 88). -/
def Obligations.MatrixPushes : Prop :=
  ∀ (s : State), s.live = true → s.onHart = true → s.me.frz = false → s.me.mq.length < 16 →
    let pushes (i : Instr) (s1 : State) (r : VRec) : Prop := Answers (exec i s) fun t => QueuedMatrix s1 t r
    (∀ (t : BitVec 4) (a b : BitVec 6) (sc na nb first narrow : Bool) (tile : Tile) (op : Tag),
      let tagA := (s.me.vreg a.toNat).tag
      let tagB := (s.me.vreg b.toNat).tag
      let af : Tag := if narrow then .f32 else .f64
      s.myGang.tiles[t.toNat]? = some tile → a.toNat < s.myGang.nv → b.toNat + 8 ≤ s.myGang.nv → s.me.vl ≤ 2048 →
      (∀ k < 8, (s.me.vreg (b.toNat + k)).tag = tagB) → promote tagA tagB = some op → op.floating = true →
      (op = .l6 → narrow = true) → (first = false → tile.tag = af) →
      (s.me.vl = 0 ∨ 8 * s.me.mrows + 7 * shapeSa s.me.mshape + shapeOa s.me.mshape < s.vlmax s.who ∧
        (s.me.vl - 1) * shapeSb s.me.mshape + shapeOb s.me.mshape < s.vlmax s.who) →
      s.scaleOk sc [tagA, tagB] = true →
      pushes (.mma t a b sc narrow first nb na)
        (if s.me.vl = 0 then s else s.modTile t.toNat fun x => { x with tag := af })
        { s.blank (.mma na nb first narrow) s.me.vl with
          scaled := sc, dst := .tile t.toNat 0, srcA := .reg a.toNat, srcB := .reg b.toNat, tagA := tagA, tagB := tagB
          tagD := tile.tag, opTag := op, outTag := af }) ∧
    (∀ (t : BitVec 4) (a b : BitVec 6) (tile : Tile) (x : Alloc),
      let ga := s.x a
      let gb := s.x b
      let byColumn := gb.getLsbD 63
      let pitch := gb.toNat % 2 ^ 32
      let rows := s.me.mrows + 1
      let off := ga.toNat - windowBase
      gb.toNat / 2 ^ 32 % 2 ^ 31 = 0 → 1 ≤ s.me.vl → s.me.vl ≤ 2048 → s.myGang.tiles[t.toNat]? = some tile →
      inWindow ga.toNat = true → tooWide ga = false → ga.toNat % 32 = 0 → pitch % 32 = 0 →
      (byColumn = true → 1 < s.me.vl → 8 * rows ≤ pitch) → (byColumn = false → 1 < rows → 8 * s.me.vl ≤ pitch) →
      let last := off + slotOff byColumn pitch (rows - 1) (s.me.vl - 1) + 8
      last ≤ 0x3040000 → s.myGang.allocAt off = some x → last ≤ x.off + 4096 * x.ages.length →
      let r (op : VOp) : VRec := { s.blank op s.me.vl with
        dst := .tile t.toNat 0, tagD := tile.tag, outTag := tile.tag, opa := ga, opb := gb
        srcA := .scalar (BitVec.ofNat 64 s.stamp) }
      pushes (.mld t a b) s (r .mld) ∧ pushes (.mst t a b) s (r .mst)) ∧
    (∀ t : BitVec 4, (t.toNat < s.myGang.tiles.length → pushes (.mzero t) (s.modTile t.toNat fun x => { x with tag := .f64 })
        { s.blank .mzero s.me.vl with dst := .tile t.toNat 0 }) ∧
      (s.myGang.tiles.length ≤ t.toNat → exec (.mzero t) s = s.illop)) ∧
    (∀ (a b : BitVec 6) (tile row : Nat) (tag : Tag), s.rowSource (s.x a) = .ok (tile, row, tag) →
      b.toNat < s.myGang.nv → s.me.vl ≤ 2048 →
      let r (isAdd : Bool) : VRec := { s.blank (.mwrow isAdd) s.me.vl with
        dst := .tile tile row, srcB := .reg b.toNat, tagB := (s.me.vreg b.toNat).tag, tagD := tag, outTag := tag }
      pushes (.mwrow a b) s (r false) ∧ pushes (.maddrow a b) s (r true))

/-- The Catalogue's instructions: what each sends, and what is illegal (derived from 10_access.md, 12_catalogue.md,
13_adapt.md, R261, R301, R305, R306, R307, R311, R312, R333; the model's own choices in it: log 72, 76, 125). -/
def Obligations.CatalogueRequests : Prop :=
  ∀ (d a b : BitVec 6) (s : State), s.live = true →
    (s.onHart = true →
      let asks (i : Instr) (r : Nat) (fn : AskFn) (x y : Word) : Prop :=
        exec i s = .next (s.setMe fun t => { t with wait := .answer r ⟨fn, x, y, s.word⟩, stall := .busy })
      let w := s.x a
      let k := mwKind w
      (Quiet s → asks (.mopen d a) d.toNat .mopen w 0 ∧ asks (.mrecut d a) d.toNat .mrecut w 0) ∧
      asks (.mclose a) 0 .mclose w 0 ∧
      ((s.x b).toNat < 2 ^ 32 → asks (.mgenrel a b) 0 .mgenrel w (s.x b)) ∧
      (2 ^ 32 ≤ (s.x b).toNat → exec (.mgenrel a b) s = s.illop) ∧
      (let legal := k = 0 ∧ mwFmask w = 0 ∧ mwChunk w = 0 ∧ mwReservedOk w = true
       (legal → asks (.msheaf d a b) d.toNat .msheaf w (s.x b)) ∧ (¬legal → exec (.msheaf d a b) s = s.illop)) ∧
      (let legal := k ∉ [5, 6, 7, 15] ∧ (8 ≤ k → mwFmask w = 0 ∧ mwChunk w = 0) ∧ (k < 5 → mwReservedOk w = true) ∧
         (k = 3 → hi32 (s.x d) = 0)
       (legal → asks (.mquery d a) d.toNat .mquery w (s.x d)) ∧ (¬legal → exec (.mquery d a) s = s.illop))) ∧
    (s.room → ∀ q : BitVec 3,
      let w := s.x a
      let legal := mwKind w < 5 ∧ mwReservedOk w = true ∧ mwFmask w ≠ 0 ∧ mwFmask w < 2 ^ kindFields (mwKind w) ∧
        (mwKind w = 3 → hi32 (s.x b) = 0)
      let free := s.myGang.boundTo q.toNat = false
      let ready := s.myGang.qen.getLsbD q.toNat = true
      (legal → ready → free → Pushes (exec (.mstream q a b) s) s { s.blank .stream 1 with
        dst := .lq q.toNat none, opa := w, opb := s.x b }) ∧
      (legal → (¬ready → exec (.mstream q a b) s = s.trap cQERR) ∧
        (ready → ¬free → exec (.mstream q a b) s = s.stallFor .busy)) ∧
      (¬legal → exec (.mstream q a b) s = s.illop))

/-- The Orchard's scalar forms: what they answer and change, and what is illegal (derived from 14_sower_orchard.md,
R349, R350, R351, R352, R353, R354, R355, R356, R357; the model's own choices in it: log 60, 110). -/
def Obligations.OrchardForms : Prop :=
  ∀ (d a b : BitVec 6) (s : State), s.live = true → s.onHart = true →
    (Quiet s →
      let performs (i : Instr) (f : OrchSlice → OrchReply) : Prop :=
        (∃ v s1, s.orchAt s.who (s.x a) f = some (v, s1) ∧ s1 = { s with orch := s1.orch, cores := s1.cores } ∧
          Finishes (exec i s) s1 d.toNat v) ∧
        (s.partOfCore (32 * handleTile (s.x a)) ≠ s.myPart → Finishes (exec i s) s d.toNat oSTALEH)
      performs (.odesc d a) (·.desc (s.x a)) ∧ performs (.obackup d a b) (·.backupFrom (s.x a) (s.x b) false) ∧
      performs (.oreuse d a) (·.reuse (s.x a)) ∧ performs (.ofree d a) (·.release (s.x a)) ∧
      ((s.x b).toNat < 6 → performs (.oread d a b) (·.readNode (s.x a) (s.x b).toNat)) ∧
      (let j := (s.x a).toNat / 2 ^ 32 % 8
       let tile := s.myPart * s.partTiles + j
       (s.x a).toNat < 2 ^ 37 →
         (s.partTiles ≤ j → Finishes (exec (.onew d a) s) s d.toNat oBADTILE) ∧
         let o := s.slice tile
         let full := freeRun 1 0 o.nodes = none ∧ ∃ k < 256, o.tree? k = none
         (j < s.partTiles →
           (¬full ∨ (s.x a).getLsbD 36 = false → ∃ v o', o.newTree tile (s.x a) = some (v, o') ∧
             (full → v = oFULL ∧ o' = o) ∧ ((∀ k < 256, o.tree? k ≠ none) → v = oNOTREE ∧ o' = o) ∧
             Finishes (exec (.onew d a) s) ({ s with orch := modifyAt s.orch tile fun _ => o' }.charge s.who.gang 16 1)
               d.toNat v) ∧
           (full → (s.x a).getLsbD 36 = true → exec (.onew d a) s = s.trapWith
             { s.scalarCause cORCHFULL 0 0 with info := BitVec.ofNat 64 (tile * 2 ^ 21) })))) ∧
    (2 ^ 37 ≤ (s.x a).toNat → exec (.onew d a) s = s.illop) ∧ (6 ≤ (s.x b).toNat → exec (.oread d a b) s = s.illop) ∧
    (s.room → ∀ (s1 : State) (x : Operand), isQueue b = false →
      s.named ⟨[b], none, false, false⟩ = .ok () → s.vsource none b = .ok (x, s1) → 0 < s.me.vl → s.me.vl ≤ 4096 →
      x.tag.floating = true → x.tag ≠ .l6 → Pushes (exec (.oexpand d a b) s) s1 { s1.blank .oexpand s.me.vl with
        dst := .scalar d.toNat, srcA := x.src, tagA := x.tag, opa := s.x a }) ∧
    (∀ ag : Agent, RunsQueue s ag → s.me.xfers = [] → isQueue b = false → b.toNat < s.myGang.nv → 0 < s.me.vl →
      s.me.vl ≤ 4096 → (s.me.vreg b.toNat).tag.floating = true → (s.me.vreg b.toNat).tag ≠ .l6 →
      let src := s.me.vreg b.toNat
      let priors := (List.range s.me.vl).map fun i =>
        ((roundEven .bf16 (decode src.tag (src.data.get i))).1).setWidth 16
      let reply := s.orchAt s.who (s.x a) fun o => o.expand (s.x a) priors
      (∀ v s1, reply = some (v, s1) → Answers (exec (.oexpand d a b) s)
        (AfterGroups ag s.me.vqtail (fun u => WroteScalar s u d.toNat v 0 ∧ u.orch = s1.orch) 1)) ∧
      (reply = none → Answers (exec (.oexpand d a b) s) (AfterGroups ag s.me.vqtail (fun u =>
        u.orch = s.orch ∧ ∃ c ∈ u.me.causes, c.code = cORCHFULL ∧ c.info = s.x a) 1))) ∧
    (∀ (o : OrchSlice) (w v : Word) (x : Node) (t : Tree), o.named w = some x → o.tree? x.tree = some t →
      x.root = true → o.backupFrom w v false = some (1, o.modNode x.slot fun y => { y with
        visits := min (y.visits + 1) (2 ^ 32 - 1), vloss := y.vloss - 1
        value := (roundEven .f64 (Val.add 0 (decode .f64 y.value) (decode .f64 v)).1).1 }))

/-- What time does to registers, allocations, accounts, arbiters and the clock (derived from 17_contexts.md,
05_ordering.md, 18_placement.md, 19_bringup.md, 02_state.md, 04_storage.md, R394, R120, R428, R433, R463, R61, R395,
R427, R434, R430, R429, R100; the model's own choices in it: log 9, 48, 82, 113). -/
def Obligations.TimersAndClock : Prop :=
  ∀ (s : State) (tile core n x : Nat),
    (Answers (exec (.shelfUnitTick tile) s) fun t => t = { s with gangs := t.gangs } ∧ t.gangs.length = s.gangs.length ∧
      ∀ (gi : Nat) (g : Gang), s.gangs[gi]? = some g →
        ∃ u : Gang, t.gangs[gi]? = some u ∧
          (g.core / 32 = tile ∧ (g.st = .resident ∨ g.st = .suspended) →
            u.allocs = g.allocs.map (fun a => { a with ages := a.ages.map fun e => min 1025 (e + 1) }) ∧
            u.spad = g.spad ∧ u.sdm = g.sdm ∧
            ∀ (h : Nat) (th : Thread), g.harts[h]? = some th → u.harts[h]? = some { th with vregs :=
              if g.st = .resident then (th.vregs.map fun v => if v.short then { v with age := min 31 (v.age + 1) } else v)
              else th.vregs }) ∧
          (¬(g.core / 32 = tile ∧ (g.st = .resident ∨ g.st = .suspended)) → u = g)) ∧
    (s.dueBlocks tile = [] → exec (.turnerRenewal tile) s = .next s) ∧
    (∀ d rest, s.dueBlocks tile = d :: rest →
      exec (.turnerRenewal tile) s = .next ((s.modGang d.gang fun g => g.renewBlock d.off).charge d.gang 18 1)) ∧
    ((∀ g ∈ s.gangs, g.core / 32 = tile → g.missed = []) → exec (.turnerMiss tile) s = .next s) ∧
    (∀ (gi : Nat) (g : Gang), s.gangs[gi]? = some g → g.core / 32 = tile → g.missed ≠ [] →
      (∀ j u, j < gi → s.gangs[j]? = some u → u.core / 32 = tile → u.missed = []) →
      let rec0 := missRecord g (g.missed.headD 0) g.missed.length
      Answers (exec (.turnerMiss tile) s) fun t => (t.gangOf gi).missed = [] ∧
        (g.poolSlot = none → t.mem = s.mem ∧ (t.gangOf gi).missRec = rec0) ∧
        ∀ pa rest, g.poolSlot ≠ none →
          (s.modGang gi fun g => { g with missed := [] }).imageBlocks gi .write = some (pa :: rest) →
          t.mem = putDwords s.mem (pa + 96) (rec0.map (·.toNat))) ∧
    exec (.registerRefresh core) s = .next s ∧
    (Answers (exec .granaryTick s) fun t => t = { s with parts := t.parts } ∧ ∀ p, p < s.parts.length →
      (t.part p).energy = if p < 2 ^ s.mod.plog then
          signed64 (min ((s.part p).energy + (((s.part p).fgrate.toNat * 2 ^ 20 : Nat) : Int))
            (((s.part p).fgcap.toNat * 2 ^ 20 : Nat) : Int))
        else (s.part p).energy) ∧
    (let owed := (s.core core).debits ++ (s.gangs.filter fun g => g.core = core).map fun g =>
        (g.launch, ((g.harts.map (·.retired)).sum + g.access.retired) * s.eventEnergy 0)
     Answers (exec (.granaryDebit core) s) fun t => t.mem = s.mem ∧ (t.core core).debits = [] ∧
      (∀ (gi : Nat) (g : Gang), s.gangs[gi]? = some g →
        t.gangs[gi]? = some (if g.core = core then g.clearRetired else g)) ∧
      (s.partOfCore core < s.parts.length → ∃ n, 1 ≤ n ∧ n ≤ 1024 ∧ (t.part (s.partOfCore core)).energy =
        signed64 ((s.part (s.partOfCore core)).energy - (((owed.map (·.2)).sum + n * s.eventEnergy 19 : Nat) : Int))) ∧
      ∀ (i : Nat) (l : Launch), s.launches[i]? = some l → ∃ l' : Launch, t.launches[i]? = some l' ∧
        l'.eacct = l.eacct - ((((owed.filter fun d => d.1 = i).map (·.2)).sum : Nat) : Int)) ∧
    (Answers (exec (.arbiterPeriod n) s) fun t => t = { s with mod := { s.mod with fbtabNow := t.mod.fbtabNow } } ∧
      ∀ k, t.mod.fbtabNow.get k = if k / 16 = n then s.mod.fbtab.get k else s.mod.fbtabNow.get k) ∧
    exec .clockLower s = .next { s with mod := { s.mod with clock := max 2000 (s.mod.clock - 250) } } ∧
    exec .clockRaise s = .next { s with mod := { s.mod with clock := min 4000 (s.mod.clock + 250) } } ∧
    (∀ a : Agent, exec (.wcEntryTimeout a x) s =
      .next (s.modThread a fun t => { t with wc := modifyAt t.wc x fun e => { e with opn := false } }))

/-- The Gleaner: what a core gives its neighbours, and what arrives (derived from 01_work.md, R28, R29, R30, R31; the
model's own choices in it: log 9, 45, 96, 97). -/
def Obligations.GleanerMoves : Prop :=
  (∀ core : Nat, ∃ a b, neighbours core = [a, b] ∧ a < b ∧ ∀ c, (c = a ∨ c = b) ↔
    c / 32 = core / 32 ∧ (c % 32 = (core + 1) % 32 ∨ core % 32 = (c + 1) % 32)) ∧
  (∀ (s : State) (li core b : Nat) (l : Launch) (q : TaskQueue), s.launches[li]? = some l → l.queueOn core = some q →
    (q.heard.find? fun h => h.1 = b) = none → s.donate li core b = s) ∧
  (∀ (s : State) (li core b : Nat) (l : Launch) (q : TaskQueue) (h : Nat × Nat), s.launches[li]? = some l →
    l.queueOn core = some q → (q.heard.find? fun h => h.1 = b) = some h →
    let d := q.recs.length - h.2
    let n := min 4 (d / 4)
    (d < 4 ∨ s.hosts li b = false → s.donate li core b = s) ∧
    (4 ≤ d → s.hosts li b = true → ∃ u l', u = s.donate li core b ∧ u.launches[li]? = some l' ∧
      u.moves = s.moves ++ [⟨li, b, q.recs.drop (q.recs.length - n)⟩] ∧ 0 < n ∧ n ≤ 4 ∧
      (∃ q', l'.queueOn core = some q' ∧ q'.recs = q.recs.take (q.recs.length - n)) ∧
      u.mem = s.mem ∧ u.gangs = s.gangs)) ∧
  (∀ (s : State) (core a b : Nat), neighbours core = [a, b] →
    let part := s.partOfCore core
    let gives (l : Launch) : Bool := l.part = part && !l.determ && !l.complete
    let after (i : Nat) : State := if (s.part part).glean then (s.donate i core a).donate i core b else s
    Answers (exec (.gleanerBoundary core) s) fun t => t.mem = s.mem ∧ t.gangs = s.gangs ∧
      t.launches.length = s.launches.length ∧
      t.moves = s.moves ++ ((List.range s.launches.length).filter fun i => (s.launches[i]?).any gives).flatMap
        (fun i => (after i).moves.drop s.moves.length) ∧
      ∀ (i : Nat) (l : Launch), s.launches[i]? = some l → ∃ l' : Launch, t.launches[i]? = some l' ∧
        (gives l = false → l' = l) ∧
        (gives l = true →
          (∀ k, (l'.queueOn k).map (·.recs) = (((after i).launches[i]?).bind (·.queueOn k)).map (·.recs)) ∧
          ∀ (c : Nat) (q q' : TaskQueue), c = a ∨ c = b → l'.queueOn core = some q → l'.queueOn c = some q' →
            (q'.heard.find? fun h => h.1 = core) = some (core, q.recs.length))) ∧
  (∀ (s : State) (x : Nat), (s.moves[x]? = none → exec (.gleanerArrival x) s = .next s) ∧
    (∀ (m : Move) (l : Launch) (q : TaskQueue), s.moves[x]? = some m → s.launches[m.launch]? = some l →
      l.queueOn m.core = some q → Answers (exec (.gleanerArrival x) s) fun t => t.moves = s.moves.eraseIdx x ∧
        ∃ l' q', t.launches[m.launch]? = some l' ∧ l'.queueOn m.core = some q' ∧ q'.recs = q.recs ++ m.recs))

/-- Resets, the path to the boot gang, and links that go down and come up (derived from 19_bringup.md, 10_access.md,
R443, R444, R445, R447, R452, R453, R454, R457, R463, R271; the model's own choices in it: log 9, 46, 52, 54, 112). -/
def Obligations.ResetsAndLinks : Prop :=
  ∀ s : State,
    (Answers (exec .moduleReset s) fun t =>
      t = { State.reset with
        mem := t.mem, mod := t.mod, agenda := s.agenda, turn := s.turn, free := s.free, stamp := s.stamp } ∧
      t.mod = { ModSt.reset with fsvn := s.mod.fsvn, store := s.mod.store, cxlCap := s.mod.cxlCap } ∧
      ∀ a, Sparse.get t.mem a = if fwBase ≤ a ∧ a < fwBase + 2 ^ 23 then 0 else Sparse.get s.mem a) ∧
    (Answers (exec .thermtrip s) fun t => t.mod.off = true ∧ t.mod.bstat = 0x8000000000000008 ∧ t.gangs = [] ∧
      t.launches = [] ∧ t.mod.fsvn = s.mod.fsvn ∧ t.mod.store = s.mod.store ∧
      (Memory.wf s.mem = true → ∀ a, Sparse.get t.mem a = match regionOf a with
        | some (.cxl _) | some .host => Sparse.get s.mem a
        | _ => 0)) ∧
    (s.mod.bstat ≠ 0 ∨ s.mod.tested = true → exec .selfTest s = .next s) ∧
    (s.mod.bstat = 0 → s.mod.tested = false → Answers (exec .selfTest s) fun t => t.mod.tested = true ∧
      t.free = s.free + 1 ∧ (t.mod.bstat = 0 ∨ t.mod.bstat = 0x8000000000000001) ∧ t.gangs = s.gangs) ∧
    (s.mod.tested = true → s.mod.bstat = 0 → s.mod.dclUp = true →
      exec .dclTraining s = .next { s with mod := { s.mod with bstat := 1 } }) ∧
    (s.mod.bstat ∈ ([0x8000000000000001, 0x8000000000000002, 0x8000000000000003, 0x8000000000000004, 0x8000000000000005,
        0x8000000000000006] : List Word) → exec .dclTraining s = .next { s with mod := { s.mod with bstat := 1 } }) ∧
    (∀ img len, exec (.bgo img len) s = .next { s with mod := { s.mod with
      bimg := img, blen := len, bstat := if s.mod.bstat = 1 then 2 else s.mod.bstat } }) ∧
    (s.mod.bstat ≠ 2 → exec .imageCopied s = .next s) ∧
    (s.mod.bstat = 2 → (s.mod.dclUp = false ∨ s.mod.bimg.toNat < 2 ^ 50 ∨
        2 ^ 51 < s.mod.bimg.toNat + min s.mod.blen.toNat 0x700000) →
      exec .imageCopied s = .next { s with mod := { s.mod with bstat := 0x8000000000000002 } }) ∧
    (s.mod.bstat = 2 → s.mod.dclUp = true → 2 ^ 50 ≤ s.mod.bimg.toNat →
      s.mod.bimg.toNat + min s.mod.blen.toNat 0x700000 ≤ 2 ^ 51 →
      let m := copyRun (Sparse.clear s.mem fwBase 0x700000) s.mem fwBase s.mod.bimg.toNat (min s.mod.blen.toNat 0x700000)
      (∀ v, ({ s with mem := m }).imageFailure = some v →
        exec .imageCopied s = .next { s with mem := m, mod := { s.mod with bstat := v } }) ∧
      (({ s with mem := m }).imageFailure = none → Answers (exec .imageCopied s) fun t => t.mem = m ∧ t.mod.bstat = 3 ∧
        t.mod.bootGang = some s.gangs.length ∧ ∃ g : Gang, t.gangs = s.gangs ++ [g] ∧ g.core = 0 ∧ g.harts.length = 1 ∧
          (∀ th ∈ g.harts, th.lvl = 2 ∧ th.dlvl = 2 ∧ ∀ r, r ≠ 3 → th.reg r = 0) ∧
          ∀ k, 0 < k → k < s.cores.length → (t.core k).parked = true)) ∧
    (Answers (exec .dclFailure s) fun t => t.mod = { s.mod with dclUp := false } ∧ t.mem = s.mem ∧
      t.cores.length = s.cores.length ∧ (∀ c ∈ t.cores, c.stopped = true ∧ c.lanes = List.replicate 8 none) ∧
      ∀ (j : Nat) (x : Gang), s.gangs[j]? = some x → ∃ y : Gang, t.gangs[j]? = some y ∧ y.st = x.st ∧
        (x.st = .resident → x.core < s.cores.length → y.tiles = [] ∧ y.allocs = [])) ∧
    (∀ q, (24 ≤ q → exec (.portDown q) s = .next s ∧ exec (.portRetrained q) s = .next s) ∧
      (q < 24 → (Answers (exec (.portDown q) s) fun t => t.mem = s.mem ∧ t.mod.fabricUp.getLsbD q = false ∧
          t.mod.event = s.mod.event ||| 2#5 ∧ t.mod.evPort.toNat = q ∧ ∀ p < 8,
          let needed (gidx : Nat) : Prop := ∃ e ∈ (s.part p).groups, e.gidx = gidx ∧
            ∃ r ∈ e.ranks, r.1 ≠ s.mod.fmodid.toNat ∧ s.mod.route r.1 = some q
          (∀ (k : Nat) (e : GroupEntry), (s.part p).groups[k]? = some e → ∃ e', (t.part p).groups[k]? = some e' ∧
            (needed e.gidx → e' = { e with broken := true }) ∧ (¬needed e.gidx → e' = e)) ∧
          ∀ (k : Nat) (g : Gang), s.gangs[k]? = some g → s.partOfCore g.core = p → ∃ g' : Gang, t.gangs[k]? = some g' ∧
            (needed g.coll.gidx → g.st ≠ .retired → g.coll.notMem = false → g'.coll.broken = true) ∧
            (¬needed g.coll.gidx → g' = g)) ∧
        exec (.portRetrained q) s =
          .next { s with mod := { s.mod with fabricUp := s.mod.fabricUp ||| BitVec.ofNat 24 (2 ^ q) } })) ∧
    (∀ p, (12 ≤ p → exec (.cxlPortLost p) s = .next s) ∧
      (p < 12 → Answers (exec (.cxlPortLost p) s) fun t => t.mem = s.mem ∧ t.gangs = s.gangs ∧
        t.mod.cxlUp.getLsbD p = false ∧ t.mod.event = s.mod.event ||| 4#5 ∧ t.mod.evCxl.toNat = p ∧
        ∀ x ∈ t.parts, x.fpmem.getLsbD (8 + p) = false)) ∧
    (∀ v, Answers (exec (.eventW1c v) s) fun t => t = { s with mod := { s.mod with event := t.mod.event } } ∧
      ∀ k < 5, t.mod.event.getLsbD k = (s.mod.event.getLsbD k && !v.getLsbD k))

/-- The CSR steps of the table: the write that a CSR instruction of the agent would make (derived from 02_state.md,
10_access.md, 17_contexts.md, 18_placement.md, 19_bringup.md, R65, R263, R380, R406, R407, R409, R427, R433, R434,
R440, R443, R459; the model's own choices in it: log 57, 78, 95). -/
def Obligations.CsrSteps : Prop :=
  (∀ (s : State) (c : BitVec 12) (v : Word), s.live = true → s.readCsr c = none → exec (.csrWrite c v) s = s.illop) ∧
  (∀ (s : State) (c : BitVec 12) (v : Word), s.live = true → s.readCsr c ≠ none →
    let writes (i : Instr) (w : Word) : Prop :=
      (∀ t, s.writeCsr c w = some t → exec i s = .next t) ∧ (s.writeCsr c w = none → exec i s = s.illop)
    writes (.csrWrite c v) v ∧ (c = 0x020 → writes (.qenWrite v) v) ∧ (c = 0x018 → writes (.cgroupWrite v) v) ∧
    (c = 0x02A → writes (.lgmodeWrite v) v) ∧ (c = 0x104 → writes (.seventW1c v) v) ∧
    (c = 0x210 → writes (.fpartWrite v) v) ∧ (c = 0x213 → writes (.fgrateWrite v) v) ∧
    (∀ k < 4, c.toNat = 0x219 + k → writes (.fbtabWrite k v) v) ∧ (c = 0x252 → writes (.fctest v) v) ∧
    (c = 0x253 → writes .frcommit 0) ∧ (c = 0x251 → writes (.fsvnWrite v) v) ∧ (c = 0x243 → writes (.fhtest v) v) ∧
    (c = 0x250 → writes (.fboot v) v)) ∧
  (∀ s : State, s.live = true → s.onHart = true →
    (s.me.lvl = 0 → exec .sdstatRead s = s.illop) ∧
    (1 ≤ s.me.lvl → exec .sdstatRead s = .next (s.modPart s.myPart fun p =>
      { p with swaps := 0, yields := 0, poolmiss := 0, ringerr := false, doneerr := false }))) ∧
  (∀ (s t : State) (v : Word), s.live = true → s.onHart = true →
    (s.writeCsr 0x020 v = some t → (t.myGang).qenW = v.setWidth 12 ∧ (t.myGang).qen = (s.myGang).qen) ∧
    (s.writeCsr 0x104 v = some t → t.me.sevent = s.me.sevent &&& ~~~v.setWidth 3) ∧
    (s.writeCsr 0x251 v = some t → t.mod.fsvn = if s.mod.svn < v.toNat % 64 then v.toNat % 64 else s.mod.fsvn) ∧
    (s.writeCsr 0x250 v = some t → t = { s with
      mod := { s.mod with bstat := v }
      cores := if v = 4 then s.cores.map fun c => { c with parked := false } else s.cores }) ∧
    (s.writeCsr 0x210 v = some t → t.mod.plog = v.toNat % 4 ∧ t.mem = s.mem ∧ t.gangs.length = s.gangs.length) ∧
    (s.mod.fpsel < s.parts.length → s.writeCsr 0x213 v = some t → (t.part s.mod.fpsel).fgrate =
      if 30000 < (((List.range 8).filter (· ≠ s.mod.fpsel)).map fun p => (s.part p).fgrate.toNat).sum +
        v.toNat % 2 ^ 32 then (s.part s.mod.fpsel).fgrate else v.setWidth 32) ∧
    (∀ k < 4, s.writeCsr (0x219 + BitVec.ofNat 12 k) v = some t →
      let slot (j : Nat) : Nat := v.toNat / 2 ^ (16 * j) % 4096
      let mine := (List.range 4).filter fun j => !(k == 0 && j == 0)
      let others := ((List.range 16).filter fun i => decide (1 ≤ i) && decide (i / 4 ≠ k)).map fun i =>
        (s.mod.fbtab.get (16 * s.mod.fbsel + i)).toNat
      t = { s with mod := { s.mod with fbtab := t.mod.fbtab } } ∧
      (3840 < others.sum + (mine.map slot).sum → t.mod.fbtab = s.mod.fbtab) ∧
      (others.sum + (mine.map slot).sum ≤ 3840 → ∀ i, t.mod.fbtab.get i =
        if i / 16 = s.mod.fbsel ∧ i % 16 / 4 = k ∧ i % 16 ≠ 0 then BitVec.ofNat 12 (slot (i % 4)) else s.mod.fbtab.get i)))

/-- The functions of a firmware call: what each answers, what it changes, and the return to the caller (derived from
17_contexts.md, 19_bringup.md, R404, R450, R451, R455, R456, R459; the model's own choices in it: log 9, 47, 53, 114).
-/
def Obligations.FirmwareCalls : Prop :=
  ∀ (s : State) (ag : Agent) (u : Thread), s.thread? ag = some u →
    let answered (i : Instr) (status value : Word) (p : State → Prop) : Prop := Answers (exec i s) fun t => p t ∧
      ∃ v : Thread, t.thread? ag = some v ∧ v.pc = wordAligned u.fepc ∧ v.lvl = u.fplvl ∧ v.reg 10 = status ∧
        v.reg 11 = (if status = 0 then value else u.reg 11) ∧
        (∀ r, r ≠ 10 → r ≠ 11 → v.reg r = if r = 12 ∧ i = .linkstat ag ∧ status = 0 then s.mod.cxlUp.setWidth 64 else u.reg r)
    let same (t : State) : Prop := t.mem = s.mem ∧ t.mod = s.mod ∧ t.parts = s.parts ∧ t.launches = s.launches
    let x := u.reg 11
    let y := u.reg 12
    let part := s.partOfCore (s.gangOf ag.gang).core
    (∀ c ∈ ([(0, .version ag), (1, .groupset ag), (2, .routeset ag), (3, .attest ag), (4, .linkstat ag)] : List (Nat × Instr)),
      (s.called ag (fun n => n = c.1) = false → s.called ag (fun n => decide (5 ≤ n)) = false → exec c.2 s = .next s) ∧
      (s.called ag (fun n => decide (5 ≤ n)) = true → answered c.2 0x8000000000000001 0 same)) ∧
    (s.called ag (fun n => n = 0) = true →
      answered (.version ag) 0 (BitVec.ofNat 64 (s.mod.imgVersion % 2 ^ 16 + s.mod.imgSvn % 256 * 2 ^ 16)) same) ∧
    (s.called ag (fun n => n = 1) = true →
      (256 ≤ x.toNat ∨ y.toNat % 8 ≠ 0 → answered (.groupset ag) 0x8000000000000002 0 same) ∧
      (x.toNat < 256 → y = 0 → answered (.groupset ag) 0 0 fun t => t.mem = s.mem ∧ (t.part part).group? x.toNat = none) ∧
      (x.toNat < 256 → y.toNat % 8 = 0 → y ≠ 0 →
        (s.readGroup x.toNat y.toNat = none → exec (.groupset ag) s = .next s) ∧
        (∀ v, s.readGroup x.toNat y.toNat = some (.error v) → answered (.groupset ag) v 0 same) ∧
        (∀ e, part < s.parts.length → s.readGroup x.toNat y.toNat = some (.ok e) → answered (.groupset ag) 0 0 fun t =>
          t.mem = s.mem ∧ (t.part part).group? x.toNat = some e ∧ e.broken = false))) ∧
    (s.called ag (fun n => n = 2) = true → Memory.wf s.mem = true →
      let bad (b : Nat) : Prop := b / 32 % 4 ≠ 0 ∨ 128 ≤ b ∧ 24 ≤ b % 32
      let entry (k : Nat) : Nat := (Sparse.get s.mem (x.toNat + k)).toNat
      (part ≠ 0 → answered (.routeset ag) 0x8000000000000004 0 same) ∧
      (part = 0 → s.physical x.toNat 65536 = false → answered (.routeset ag) 0x8000000000000003 0 same) ∧
      (part = 0 → s.physical x.toNat 65536 = true → s.trains x.toNat 65536 = true → exec (.routeset ag) s = .next s) ∧
      (part = 0 → s.physical x.toNat 65536 = true → s.trains x.toNat 65536 = false →
        ((∃ k < 65536, k ≠ s.mod.fmodid.toNat ∧ bad (entry k)) → answered (.routeset ag) 0x8000000000000002 0 same) ∧
        ((∀ k < 65536, k = s.mod.fmodid.toNat ∨ ¬bad (entry k)) → answered (.routeset ag) 0 0 fun t => t.mem = s.mem ∧
          t.mod = { s.mod with routes := t.mod.routes } ∧
          ∀ k < 65536, t.mod.routes.get k = Sparse.get s.mem (x.toNat + k)))) ∧
    (s.called ag (fun n => n = 3) = true →
      (y.toNat % 256 ≠ 0 → answered (.attest ag) 0x8000000000000002 0 same) ∧
      (y.toNat % 256 = 0 → (s.physical x.toNat 48 = false ∨ s.physical y.toNat 1024 = false) →
        answered (.attest ag) 0x8000000000000003 0 same) ∧
      (y.toNat % 256 = 0 → s.physical x.toNat 48 = true → s.physical y.toNat 1024 = true →
        (s.trains x.toNat 48 = true ∨ s.trains y.toNat 1024 = true) → exec (.attest ag) s = .next s) ∧
      (y.toNat % 256 = 0 → s.physical x.toNat 48 = true → s.physical y.toNat 1024 = true → s.trains x.toNat 48 = false →
        s.trains y.toNat 1024 = false → answered (.attest ag) 0 0 fun t => t.mod = s.mod ∧
          ∀ a, Sparse.get t.mem a = (if y.toNat ≤ a ∧ a < y.toNat + 1024 then
            ((s.report (memBytes s.mem x.toNat 48))[a - y.toNat]?).getD 0 else Sparse.get s.mem a))) ∧
    (s.called ag (fun n => n = 4) = true → answered (.linkstat ag) 0 (s.mod.fabricUp.setWidth 64) same)

/-- The steps of context commands: whom they take, what they answer, and the halt of a gang (derived from
17_contexts.md, 18_placement.md, R389, R390, R391, R392, R397, R398, R402, R425; the model's own choices in it: log 9,
43, 47, 62, 63, 64, 108). -/
def Obligations.ContextCommands : Prop :=
  ∀ (s : State) (c : Nat),
    (s.ctx[c]? = none → ∀ i ∈ ([.suspend c, .killgang c, .killlaunch c, .dhalt c, .resume c, .dresume c,
      .contextCommandStatus c] : List Instr), exec i s = .next s) ∧
    (∀ x : CtxCmd, s.ctx[c]? = some x →
      (x.result.isSome = true → ∀ i ∈ ([.suspend c, .killgang c, .killlaunch c, .dhalt c, .resume c, .dresume c] : List Instr),
        exec i s = .next s) ∧
      (x.result = none → exec (.contextCommandStatus c) s = .next s) ∧
      (∀ (v e pa : Nat), x.result = some (v, e) → v ≠ 2 ^ 63 + 4 → x.status.toNat % 8 = 0 → tooWide x.status = false →
        inWindow x.status.toNat = false →
        s.imagePlace x.part (s.nowLevel x.issuer) .write x.status.toNat = .ok pa →
        (s.training pa = true → exec (.contextCommandStatus c) s = .next s) ∧ (s.training pa = false →
        exec (.contextCommandStatus c) s =
          .next ((({ s with ctx := s.ctx.eraseIdx c, mem := s.mem.write pa 8 v } : State).chargeAt x.issuer.gang (.mem pa) 8).modThread
            x.issuer fun t => { t with sevent := t.sevent ||| 2 }))) ∧
      (∀ (e pa pb : Nat), x.result = some (2 ^ 63 + 4, e) → x.status.toNat % 8 = 0 → tooWide x.status = false →
        inWindow x.status.toNat = false → s.imagePlace x.part (s.nowLevel x.issuer) .write x.status.toNat = .ok pa →
        s.imagePlace x.part (s.nowLevel x.issuer) .write (x.status.toNat + 8) = .ok pb → s.training pa = false →
        s.training pb = false → Answers (exec (.contextCommandStatus c) s) fun t => t.ctx = s.ctx.eraseIdx c ∧
          t.mem = (s.mem.write pa 8 (2 ^ 63 + 4)).write pb 8 (e * 2 ^ 32)) ∧
      (x.result = none →
        let answer (i : Instr) (v e : Nat) : Prop := exec i s = .next { s with ctx := modifyAt s.ctx c fun x => { x with
          result := some (v, e) } }
        let took (t : State) (gi : Nat) : Prop := ∃ y : CtxCmd, t.ctx[c]? = some y ∧ y.begun = true ∧ y.gang = gi
        let nowhere : Prop := s.gangIndex x.launch x.number = none
        let runs (gi : Nat) : Prop := (s.gangOf gi).st = .resident ∧ (s.core (s.gangOf gi).core).stopped = false
        (x.op = 0 → x.load = false → x.begun = false →
          (nowhere → answer (.suspend c) (2 ^ 63 + 2) 0) ∧
          (∀ gi, s.gangIndex x.launch x.number = some gi →
            (¬runs gi → answer (.suspend c) (2 ^ 63 + 2) 0) ∧
            (runs gi → x.issuer.gang = gi → answer (.suspend c) (2 ^ 63 + 3) 0) ∧
            (runs gi → x.issuer.gang ≠ gi → s.cmdBusy c gi = true →
              answer (.suspend c) (2 ^ 63 + 6) 0) ∧
            (runs gi → x.issuer.gang ≠ gi → s.cmdBusy c gi = false → (s.gangOf gi).haltReq = none →
              Answers (exec (.suspend c) s) fun t => took t gi ∧ t.mem = s.mem ∧
                t.gangOf gi = { s.gangOf gi with haltReq := some 1 }))) ∧
        (x.op = 1 → x.load = false → x.begun = false →
          (∀ gi, s.gangIndex x.launch x.number = some gi →
            ((s.gangOf gi).st = .retired → answer (.killgang c) (2 ^ 63 + 2) 0) ∧
            ((s.gangOf gi).st ≠ .retired → s.cmdBusy c gi = true → answer (.killgang c) (2 ^ 63 + 6) 0) ∧
            ((s.gangOf gi).st ≠ .retired → s.cmdBusy c gi = false → Answers (exec (.killgang c) s) fun t => took t gi ∧
              ((runs gi →
                t.gangOf gi = { s.gangOf gi with haltReq := some 5 }) ∧
              (¬runs gi → (t.gangOf gi).st = .retired ∧
                ∃ y : CtxCmd, t.ctx[c]? = some y ∧ y.result = some (1, 0))))) ∧
          (nowhere → ∀ l, s.launches[x.launch]? = some l → l.complete = false → x.number < l.gangs →
            l.killed.contains x.number = false → Answers (exec (.killgang c) s) fun t =>
              (∃ y : CtxCmd, t.ctx[c]? = some y ∧ y.result = some (1, 0)) ∧ ∃ l' : Launch, t.launches[x.launch]? = some l' ∧
                l'.killed = l.killed ++ [x.number] ∧ l'.retired = l.retired + 1)) ∧
        (x.op = 2 → x.load = false →
          (s.launches[x.launch]? = none → answer (.killlaunch c) (2 ^ 63 + 2) 0) ∧
          (∀ l, s.launches[x.launch]? = some l →
            (l.complete = true → x.begun = false → answer (.killlaunch c) (2 ^ 63 + 2) 0) ∧
            (l.complete = true → x.begun = true → answer (.killlaunch c) 1 0) ∧
            (l.complete = false → x.begun = true → exec (.killlaunch c) s = .next s) ∧
            (l.complete = false → x.begun = false → Answers (exec (.killlaunch c) s) fun t =>
              (∃ l' : Launch, t.launches[x.launch]? = some l' ∧ l'.outcome = 1 ∧ l'.next = l.gangs) ∧
              ∀ (gi : Nat) (g : Gang), s.gangs[gi]? = some g → g.launch = x.launch →
                ∃ g' : Gang, t.gangs[gi]? = some g' ∧ (g'.st = .retired ∨ g'.haltReq = some 5)))) ∧
        (∀ gi, s.gangIndex x.launch x.number = some gi → ∀ u, s.thread? (x.agent gi) = some u → runs gi →
          s.cmdBusy c gi = false →
          (x.op = 3 → x.load = false → x.issuer.gang ≠ gi → (s.gangOf gi).haltReq = none → u.flight = none →
            (x.imageLen < 8192 → answer (.dhalt c) (2 ^ 63 + 4) 8192) ∧
            (8192 ≤ x.imageLen → s.blocksAt x.part (s.nowLevel x.issuer) .write x.image.toNat 32 = none →
              answer (.dhalt c) (2 ^ 63 + 7) 0) ∧
            (∀ b, 8192 ≤ x.imageLen → s.blocksAt x.part (s.nowLevel x.issuer) .write x.image.toNat 32 = some b →
              b.any s.training = false →
              Answers (exec (.dhalt c) s) fun t => (∃ y : CtxCmd, t.ctx[c]? = some y ∧ y.result = some (1, 0)) ∧
                t.mem = writeBlocks s.mem
                  (freeBytes (freeBytes (u.image (s.gangOf gi) [] 0) s.free 512 512) s.free 7168 1024) 0 b ∧
                (∃ v : Thread, t.thread? (x.agent gi) = some v ∧ v.debug = true ∧ v.pc = u.pc ∧
                  (∀ r, v.reg r = u.reg r) ∧ (u.debug = true → v = u) ∧
                  (u.debug = false → v.wait = .none ∧ v.halted = u.wait ∧ v.frz = true)) ∧ ∀ r ∈ t.sleepers, r.agent ≠ x.agent gi)) ∧
          (x.op = 1 → x.load = true →
            (u.debug = false → answer (.dresume c) (2 ^ 63 + 2) 0) ∧
            (∀ b, u.debug = true → s.blocksAt x.part (s.nowLevel x.issuer) .read x.image.toNat 2 = some b →
              b.any s.training = false →
              Answers (exec (.dresume c) s) fun t => (∃ y : CtxCmd, t.ctx[c]? = some y ∧ y.result = some (1, 0)) ∧
                t.mem = s.mem ∧ ∃ v : Thread, t.thread? (x.agent gi) = some v ∧ v.debug = false ∧
                  v.pc = wordAligned (BitVec.ofNat 64 (s.mem.read ((b[0]?).getD 0) 8)) ∧
                  ∀ r, r < 64 → v.reg r = if r = 0 then 0 else if x.role = 255 ∧ 31 < r then u.reg r
                    else BitVec.ofNat 64 (s.mem.read ((b[r / 32]?).getD 0 + 8 * r % 256) 8)))) ∧
        (x.op = 0 → x.load = true → x.begun = false → ∀ gi, s.gangIndex x.launch x.number = some gi →
          ((s.gangOf gi).st ≠ .suspended ∨ (s.gangOf gi).image ≠ x.image → answer (.resume c) (2 ^ 63 + 2) 0) ∧
          ((s.gangOf gi).st = .suspended → (s.gangOf gi).image = x.image → s.cmdBusy c gi = false →
            s.imageWaits gi (s.nowLevel x.issuer) = false →
            let image := s.readImage gi (s.nowLevel x.issuer)
            (image = none → answer (.resume c) (2 ^ 63 + 7) 0) ∧
            (image = some none → answer (.resume c) (2 ^ 63 + 5) 0) ∧
            (∀ r, image = some (some r) → (s.gangOf gi).resume = none →
              Answers (exec (.resume c) s) fun t => took t gi ∧ t.mem = s.mem ∧
                t.gangOf gi = { s.gangOf gi with resume := some s.stamp } ∧ t.stamp = s.stamp + 1))))) ∧
    (∀ (gi : Nat) (g : Gang), s.gangs[gi]? = some g →
      (g.haltReq = none → exec (.gangHalt gi) s = .next s) ∧
      (∀ n, g.haltReq = some n →
        (g.st ≠ .resident → Answers (exec (.gangHalt gi) s) fun t => t.gangOf gi = { g with haltReq := none }) ∧
        (g.st = .resident → n = 5 → Answers (exec (.gangHalt gi) s) fun t => (t.gangOf gi).st = .retired) ∧
        (g.st = .resident → n ≠ 5 → (s.core g.core).stopped = true → Answers (exec (.gangHalt gi) s) fun t =>
          t.mem = s.mem ∧ t.gangOf gi = { g with haltReq := none }) ∧
        (g.st = .resident → (s.core g.core).stopped = false → s.together gi = [gi] →
          (∀ u ∈ g.access :: g.harts, u.flight = none) → (s.part (s.partOfCore g.core)).freeSlot = none →
          (n = 2 ∨ n = 3 → Answers (exec (.gangHalt gi) s) fun t => (t.gangOf gi).st = .resident ∧
            (t.gangOf gi).haltReq = if (s.core g.core).held then some 4 else none) ∧
          (n = 4 → Answers (exec (.gangHalt gi) s) fun t => (t.gangOf gi).st = .retired)) ∧
        (g.st = .resident → (s.core g.core).stopped = false → s.together gi = [gi] →
          (∀ u ∈ g.access :: g.harts, u.flight = none) →
          let s0 := s.settleGang gi
          let part := s.partOfCore g.core
          let marked (mask : Nat) : State := s0.modGang gi fun g =>
            { g.markKept mask with tilesOn := if g.tiles.isEmpty then none else some g.core }
          let lens (u : State) : List Nat := (u.gangOf gi).regionLens ((u.holders gi).map (·.2)).sum
          let written (u : State) (bs : List Nat) (sub : Nat) : Memory :=
            let img := u.imageOf gi (u.holders gi) (lens u) (u.imageRecord gi sub)
            let lo := regionOff (lens u) 5 / 256
            let hi := regionOff (lens u) 6 / 256
            let m := if (u.gangOf gi).tiles = [] then writeBlocks u.mem img 0 bs
              else writeBlocks (writeBlocks u.mem img 0 (bs.take lo)) img (256 * hi) (bs.drop hi)
            m.write (bs.headD 0 + 24) 8 (checkOf m g.harts.length bs)
          let offCore (t : State) : Prop := ∀ x ∈ (t.core g.core).lanes, ∀ y, x = some y → y.1 ≠ gi
          (n = 1 → ∀ (c : Nat) (x : CtxCmd), s0.ctx[c]? = some x → s0.suspendCmd gi = some x →
            let u := marked x.keep.toNat
            let len := (lens u).sum
            let blocks := u.blocksAt part (u.nowLevel x.issuer) .write x.image.toNat (len / 256)
            let status (t : State) (v e : Nat) : Prop := ∃ y : CtxCmd, t.ctx[c]? = some y ∧ y.result = some (v, e)
            (x.imageLen < len → Answers (exec (.gangHalt gi) s) fun t => (t.gangOf gi).st = .resident ∧ t.mem = s0.mem ∧
              status t (2 ^ 63 + 4) len) ∧
            (len ≤ x.imageLen → blocks = none → Answers (exec (.gangHalt gi) s) fun t => (t.gangOf gi).st = .resident ∧
              t.mem = s0.mem ∧ status t (2 ^ 63 + 7) 0) ∧
            (∀ bs, len ≤ x.imageLen → blocks = some bs → bs.any u.training = false →
              Answers (exec (.gangHalt gi) s) fun t => (t.gangOf gi).st = .suspended ∧ (t.gangOf gi).reason = 1 ∧
                (t.gangOf gi).haltReq = none ∧ (t.gangOf gi).image = x.image ∧ (t.gangOf gi).imageLen = len ∧
                t.mem = written u bs 1 ∧ offCore t ∧ status t (1 + len * 2 ^ 32) 0)) ∧
          (n = 4 → ∀ (k : Nat) (bs : List Nat), (s0.part part).freeSlot = some k →
            let u := marked 0
            let p := s0.part part
            (lens u).sum ≤ p.slotBytes → u.blocksAt part 1 .write (p.slotAddr k) ((lens u).sum / 256) = some bs →
            bs.any u.training = false → Answers (exec (.gangHalt gi) s) fun t => (t.gangOf gi).st = .suspended ∧
              (t.gangOf gi).reason = 4 ∧ (t.gangOf gi).poolSlot = some k ∧
              (t.gangOf gi).image = BitVec.ofNat 64 (p.slotAddr k) ∧ t.mem = written u bs 4 ∧ offCore t))))

/-- Doorbells, placement, samples, swaps and yields, pending traps, and the end of contexts and gangs (derived from
01_work.md, 07_scalar.md, 18_placement.md, 17_contexts.md, 10_access.md, R26, R37, R180, R420, R421, R422, R424, R382,
R383, R251; the model's own choices in it: log 9, 21, 31, 44, 65, 98, 118, 119). -/
def Obligations.DispatchAndRetirement : Prop :=
  (∀ (s : State) (p : Nat) (tail : BitVec 16),
    let served (i : Instr) (super : Bool) : Prop :=
      let ring := if super then (s.part p).ssring else (s.part p).sring
      let head := (s.part p).head super
      (2 ^ s.mod.plog ≤ p → exec i s = .next s) ∧
      (p < 2 ^ s.mod.plog → ring.getLsbD 0 = false ∨ 128 < (tail - head).toNat →
        exec i s = .next (s.modPart p fun q => { q with ringerr := true })) ∧
      (p < 2 ^ s.mod.plog → p < s.parts.length → ring.getLsbD 0 = true → (tail - head).toNat ≤ 128 →
        Answers (exec i s) fun t => ((t.part p).head super = tail ∨ t.serveEntry p super = none) ∧
          (t.part p).tail super = tail ∧ t.gangs = s.gangs ∧ s.launches <+: t.launches)
    served (.doorbellOrdinary p tail) false ∧
    served (.doorbellSupervisor p tail) true ∧
    (2 ^ s.mod.plog ≤ p → exec (.doorbellDbell p) s = .next s) ∧
    (p < 2 ^ s.mod.plog → Answers (exec (.doorbellDbell p) s) fun t => t = { s with gangs := t.gangs } ∧
      t.gangs.length = s.gangs.length ∧
      ∀ (gi h : Nat) (g : Gang) (u : Thread), s.gangs[gi]? = some g → g.harts[h]? = some u → ∃ g' : Gang, t.gangs[gi]? = some g' ∧
        g' = { g with harts := g'.harts } ∧ g'.harts[h]? = some { u with sevent :=
          (if 1 ≤ u.lvl ∧ ¬(g.st = .retired) ∧ s.partOfCore g.core = p then u.sevent ||| 1 else u.sevent) })) ∧
  (∀ (s : State) (p : Nat),
    (2 ^ s.mod.plog ≤ p → exec (.placementStep p) s = .next s) ∧
    let idle : Prop := ∀ super, (s.part p).head super = (s.part p).tail super
    (p < 2 ^ s.mod.plog → idle → s.mod.bootGang = none → (∀ l, s.mod.boot = some l → l.complete = true) →
      (∀ l ∈ s.launches, l.part = p → l.complete = true) →
      exec (.placementStep p) s = .next { s with stamp := s.stamp + 1 }) ∧
    (∀ (li core slot : Nat) (l : Launch) (rest : List Nat), p < 2 ^ s.mod.plog → idle → s.mod.bootGang = none →
      s.launches[li]? = some l → l.part = p → l.complete = false → l.super = false → l.effPrio ≤ 7 → l.coresident = false →
      l.determ = false → l.killed = [] → l.next + 1 = l.gangs → l.retired < l.gangs →
      (∀ j m, s.launches[j]? = some m → m.part = p → m.complete = false → j = li) →
      (∀ m, s.mod.boot = some m → m.complete = true) →
      (∀ g ∈ s.gangs, g.launch = li → g.st ≠ .suspended) → s.energyFor l = true →
      s.allowedCores l l.next = core :: rest → s.fitsCore l.shape core false = true → s.freeSlot core = some slot →
      Answers (exec (.placementStep p) s) fun t => t.mem = s.mem ∧ ∃ g : Gang, t.gangs = s.gangs ++ [g] ∧ g.launch = li ∧
        g.number = l.next ∧ g.core = core ∧ g.slot = slot ∧ g.st = .resident ∧ g.harts.length = l.harts ∧
        ∀ (h : Nat) (u : Thread), g.harts[h]? = some u → u.pc = wordAligned l.head.entry ∧ u.lvl = l.level ∧
          u.reg 1 = BitVec.ofNat 64 l.next ∧ u.reg 2 = BitVec.ofNat 64 h ∧ u.reg 3 = (l.desc[1]?).getD 0)) ∧
  (∀ (s : State) (p : Nat), Answers (exec (.dispatchSample p) s) fun t => t.mem = s.mem ∧ t.sleepers = s.sleepers ∧
    ∀ (i : Nat) (l : Launch), s.launches[i]? = some l → ∃ l' : Launch, t.launches[i]? = some l' ∧
      (l.part ≠ p ∨ l.complete = true → l' = l) ∧
      (l.part = p → l.complete = false →
        let age := (s.part p).age.toNat
        (age = 0 ∨ s.pendingOf i l = [] ∨ l.progressed = true → l'.waited = 0 ∧ l'.effPrio = l.effPrio) ∧
        (age ≠ 0 → s.pendingOf i l ≠ [] → l.progressed = false →
          (age ≤ l.waited + 1 → l'.waited = 0 ∧ l'.effPrio = min 7 (l.effPrio + 1)) ∧
          (l.waited + 1 < age → l'.waited = l.waited + 1 ∧ l'.effPrio = l.effPrio)))) ∧
  (∀ (s : State) (gi h : Nat) (g : Gang) (u : Thread), s.gangs[gi]? = some g → g.harts[h]? = some u →
    exec (.trapEntry ⟨gi, .access⟩) s = .next s ∧
    (s.pendingCauses gi h = [] ∨ g.st ≠ .resident ∨ u.ended = true ∨ u.debug = true →
      exec (.trapEntry ⟨gi, .hart h⟩) s = .next s) ∧
    (∀ (c : Cause) (level : Nat) (v : Word), g.st = .resident → g.haltReq = none → (s.core g.core).stopped = false →
      u.ended = false → u.debug = false → u.flight = none → firstCause (s.pendingCauses gi h) = some c → c.code ≠ cMCHK →
      (u.lvl = 0 ∧ level = 1 ∧ v = (s.part (s.partOfCore g.core)).stvec ∧ v ≠ 0 ∨ u.lvl = 1 ∧ level = 2 ∧ v = s.mod.fvec) →
      Answers (exec (.trapEntry ⟨gi, .hart h⟩) s) fun t => t.mem = s.mem ∧ ∃ w : Thread,
        t.thread? ⟨gi, .hart h⟩ = some w ∧ Entered { u with causes := u.causes.filter fun x => decide (x ≠ c) } w c
          (faultRecord c u.lvl (if c.src = 3 then 255 else h) g.slot g.core) level v)) ∧
  (∀ (s : State) (gi : Nat) (g : Gang), s.gangs[gi]? = some g →
    let spent : Prop := g.st = .resident ∧ ∀ u ∈ g.harts, u.ended = true
    (¬spent ∨ g.access.ended = true → exec (.accessContextStop gi) s = .next s) ∧
    (spent → g.access.ended = false → Answers (exec (.accessContextStop gi) s) fun t => t.mem = s.mem ∧
      (t.gangOf gi).access.ended = true ∧ (t.gangOf gi).access.vq = [] ∧ (t.gangOf gi).harts = g.harts ∧
      (t.gangOf gi).ents = [] ∧ ∀ q ∈ (t.gangOf gi).lq ++ (t.gangOf gi).sq, q = []) ∧
    (¬spent ∨ g.access.ended = false ∨ g.access.wc ≠ [] → exec (.gangRetirement gi) s = .next s) ∧
    (spent → g.access.ended = true → g.access.wc = [] → Answers (exec (.gangRetirement gi) s) fun t =>
      (t.gangOf gi).st = .retired ∧ (t.gangOf gi).tiles = [] ∧ (t.gangOf gi).allocs = [] ∧
      (∀ (k h : Nat) (b : Bool), ((t.core g.core).lanes[k]?).getD none ≠ some (gi, h, b)) ∧
      ∀ l, s.mod.bootGang ≠ some gi → s.launches[g.launch]? = some l →
        ∃ l' : Launch, t.launches[g.launch]? = some l' ∧ l'.retired = l.retired + 1 ∧ l'.outcome = l.outcome)) ∧
  (∀ (s : State) (p li : Nat) (l : Launch), s.launches[li]? = some l → l.part = p → l.complete = false → l.whole = false →
    s.sleepers = [] → (∀ j m, j ≠ li → s.launches[j]? = some m → m.part = p → m.complete = true) →
    let mine (gi : Nat) (g : Gang) : Prop := s.gangs[gi]? = some g ∧ g.launch = li ∧ g.st = .resident ∧ s.mod.bootGang ≠ some gi
    let held : Prop := (∃ gi g, mine gi g) ∧ (∀ gi g, mine gi g → s.gangWaits gi = true) ∧ l.freshGangs 1 ≠ []
    Answers (exec (.dispatchSample p) s) fun t =>
      (∃ l' : Launch, t.launches[li]? = some l' ∧ (held → l'.samples = l.samples + 1) ∧ (¬held → l'.samples = 0)) ∧
      (¬held ∨ l.samples = 0 → t.gangs = s.gangs) ∧
      (held → 1 ≤ l.samples → ∀ gi g, mine gi g → (∀ j y, mine j y → j ≠ gi →
          y.placeOrd < g.placeOrd ∨ y.placeOrd = g.placeOrd ∧ y.number < g.number) →
        (∀ j, j ≠ gi → t.gangs[j]? = s.gangs[j]?) ∧ t.gangs[gi]? = some { g with haltReq := g.haltReq.or (some 2) })) ∧
  (∀ (s : State) (ag : Agent) (g : Gang) (t : Thread) (l : Launch) (d key owner : Nat), s.gangs[ag.gang]? = some g →
    g.thread? ag.role = some t → t.wait = .word d key true owner → s.launchOf g = some l →
    let names (i : Nat) : Prop := ∃ o : Gang, s.gangs[i]? = some o ∧ o.launch = g.launch ∧ o.number + 1 = owner ∧ o.st = .suspended
    (owner = 0 ∨ l.whole = true ∨ (∀ i, ¬names i) → s.directedYield ag = s) ∧
    (∀ i, owner ≠ 0 → l.whole = false → names i → (∀ j < i, ¬names j) →
      let s1 := ({ s with stamp := s.stamp + 1 } : State).modGang i fun o =>
        { o with resume := o.resume.or (some s.stamp), yielded := true }
      let room : Prop := ∃ c ∈ s1.coresFor (.again i), s1.fitsCore (s1.shapeOf i) c true = true
      (room → s.directedYield ag = s1) ∧
      (¬room → s.directedYield ag = s1.modGang ag.gang fun g => { g with haltReq := g.haltReq.or (some 3) }))) ∧
  (∀ (s v : State) (gi n : Nat) (g : Gang), s.gangs[gi]? = some g → g.haltReq = some n → n = 2 ∨ n = 3 → g.st = .resident →
    (s.core g.core).stopped = false → s.together gi = [gi] → (∀ u ∈ g.access :: g.harts, u.flight = none) →
    let part := s.partOfCore g.core
    (s.settleGang gi).suspendToPool gi n (s.part part).keepsw = .done v →
    (v.gangOf gi).st = .suspended ∧ (v.gangOf gi).reason = n ∧ (v.gangOf gi).poolSlot.isSome = true ∧
    (let w := v.modPart part fun p => { p with swaps := bump16 p.swaps }
     n = 2 → ∀ l, w.launchOf g = some l → (l.freshGangs 1 = [] → exec (.gangHalt gi) s = .next w) ∧
      ∀ k rest, l.freshGangs 1 = k :: rest → exec (.gangHalt gi) s = .next (w.placeFreed g.core (.fresh g.launch k))) ∧
    (let w := v.modPart part fun p => { p with yields := bump16 p.yields }
     n = 3 → (w.lockOwners g = [] → exec (.gangHalt gi) s = .next w) ∧
      ∀ k rest, w.lockOwners g = k :: rest → exec (.gangHalt gi) s = .next (w.placeFreed g.core (.again k)))) ∧
  (∀ (s : State) (core slot : Nat), s.freeSlot core = some slot →
    (∀ li k l, s.launches[li]? = some l → s.fitsCore l.shape core false = true → ∃ m : Gang,
      (s.placeFreed core (.fresh li k)).gangs = s.gangs ++ [m] ∧ m.launch = li ∧ m.number = k ∧ m.core = core ∧
        m.slot = slot ∧ m.st = .resident) ∧
    (∀ gi g l recs, s.gangs[gi]? = some g → s.launches[g.launch]? = some l → s.fitsCore (s.shapeOf gi) core false = true →
      s.readImage gi (s.resumeLevel gi) = some (some recs) →
      let m := (s.placeFreed core (.again gi)).gangOf gi
      m.st = .resident ∧ m.core = core ∧ m.slot = slot ∧ m.resume = none ∧ m.yielded = false) ∧
    (∀ p, s.fitsCore (s.pendingShape p) core false = false → s.fitsCore (s.pendingShape p) core true = false →
      s.placeFreed core p = s))

/-- Collectives: the forms of a context, what it does for a gang without a program, and how a chunk forms (derived
from 10_access.md, R265, R266, R267, R268, R269, R270, R271; the model's own choices in it: log 9, 49, 82). -/
def Obligations.CollectiveSteps : Prop :=
  (∀ s : State, s.room → s.onHart = false → s.myGang.ecap ≠ 0 →
    let c := s.myGang.coll
    let words (n : Nat) : Word := BitVec.ofNat 64 (n + c.clen * 2 ^ 32)
    let regs : Word := BitVec.ofNat 64 (c.gidx + c.rank * 2 ^ 8 + c.nrm1 * 2 ^ 20 + c.cop.toNat * 2 ^ 32)
    (∀ (q : BitVec 3), s.named ⟨[], some (7#3 ++ q), true, false⟩ = .ok () →
      (∀ k, s.collCause s.myGang none = some k → exec (.aldCl q) s = s.trap k) ∧
      (s.collCause s.myGang none = none → Pushes (exec (.aldCl q) s)
        (s.modGang s.who.gang fun g => { g with coll := { g.coll with recv := (g.coll.recv + 1) % 2 ^ 32 } })
        { s.blank .receive c.clen with
          dst := .lq q.toNat none, opTag := (collTag c.tag).getD .f64, outTag := (collTag c.tag).getD .f64, opa := words c.recv
          opb := regs })) ∧
    (∀ (q : BitVec 2) (x : Operand) (s1 : State), s.named ⟨[14#4 ++ q], none, false, false⟩ = .ok () →
      s.vsource none (14#4 ++ q) = .ok (x, s1) → s1.myGang.coll = c → s1.room →
      (∀ k, s1.collCause s1.myGang (some (x.count, x.tag)) = some k → exec (.astCl q) s = s.trap k) ∧
      (s1.collCause s1.myGang (some (x.count, x.tag)) = none → Pushes (exec (.astCl q) s)
        (s1.modGang s1.who.gang fun g => { g with coll := { g.coll with sent := (g.coll.sent + 1) % 2 ^ 32 } })
        { s1.blank .contribute x.count with
          srcA := x.src, tagA := x.tag, opa := words c.sent, opb := regs, pops := popsOf [x] }))) ∧
  (∀ (s : State) (gi : Nat) (g : Gang), s.gangs[gi]? = some g →
    let part := s.partOfCore g.core
    (s.carries gi = false → exec (.sq3Contribution gi) s = .next s ∧ exec (.lq7Receive gi) s = .next s) ∧
    (g.unclaimed ((g.sq[3]?).getD []) = none → exec (.sq3Contribution gi) s = .next s) ∧
    (2 ≤ ((g.lq[7]?).getD []).length → exec (.lq7Receive gi) s = .next s) ∧
    (∀ e, s.carries gi = true → g.unclaimed ((g.sq[3]?).getD []) = some e →
      (s.collCause g (some (e.count, e.tag)) = none →
        (∀ b ∈ (s.part part).chunks, b.gidx = g.coll.gidx → b.k = (s.contributionOf g (entryList e)).k →
          b.agrees (s.contributionOf g (entryList e)) = true) → part < s.parts.length →
        Answers (exec (.sq3Contribution gi) s) fun t => t.mem = s.mem ∧
          (t.part part).chunks = (s.part part).chunks ++ [s.contributionOf g (entryList e)] ∧
          (t.gangOf gi).coll = { g.coll with sent := (g.coll.sent + 1) % 2 ^ 32 } ∧
          (t.gangOf gi).ents = (g.ents.filter fun x => decide (x.id ≠ e.id)) ∧ (t.gangOf gi).harts = g.harts) ∧
      (∀ (k : Nat) (w : Pusher) (u : Thread), s.collCause g (some (e.count, e.tag)) = some k → e.sq = some w →
        g.harts[w.hart]? = some u → Answers (exec (.sq3Contribution gi) s) fun t => t.mem = s.mem ∧ t.parts = s.parts ∧
          (t.gangOf gi).coll = g.coll ∧ (t.gangOf gi).ents = (g.ents.filter fun x => decide (x.id ≠ e.id)) ∧
          ∃ c : Cause, t.thread? ⟨gi, .hart w.hart⟩ = some { u with causes := u.causes ++ [c] } ∧ c.code = k ∧ c.src = 3 ∧
            c.seq = w.seq ∧ c.pc = w.pc)) ∧
    (∀ q, s.carries gi = true → g.qen.getLsbD 7 = true → g.bound.contains 7 = false → g.lq[7]? = some q → q.length < 2 →
      g.ecap ≠ 0 → g.coll.clen ≠ 0 → s.collCause g none = none → g.coll.receives = true →
      Answers (exec (.lq7Receive gi) s) fun t => t.mem = s.mem ∧ (t.gangOf gi).lq[7]? = some (q ++ [g.entNext]) ∧
        (t.gangOf gi).coll = g.coll ∧ ∃ e : Entry, (t.gangOf gi).ents = g.ents ++ [e] ∧ e.id = g.entNext ∧ e.count = g.coll.clen ∧ e.prog = 0 ∧
          e.cause = none ∧ e.chunk = some (g.coll.gidx, g.coll.rank, g.nextChunk))) ∧
  (∀ (s : State) (p k : Nat) (e : GroupEntry), (s.part p).group? e.gidx = some e → e.broken = false → p < s.parts.length →
    (∀ x ∈ (s.part p).results, ¬(x.1 = e.gidx ∧ x.2.2.1 = k)) →
    let cs := orderChunks ((s.part p).chunks.filter fun c => decide (c.gidx = e.gidx) && decide (c.k = k))
    let l := s.groupLaunch p e
    let determ := l.any (·.determ)
    let whole : Prop := ∀ r < e.ranks.length, contributionsOf l r ≤ (cs.filter fun c => decide (c.rank = r)).length
    ∀ c rest, cs = c :: rest → c.kind = 1 ∨ c.kind = 2 →
      (¬whole → Answers (exec (.chunkResult p e.gidx k) s) fun t => t.mem = s.mem ∧
        (t.part p).chunks = (s.part p).chunks) ∧
      (whole → Answers (exec (.chunkResult p e.gidx k) s) fun t => t.mem = s.mem ∧
        (t.part p).chunks = ((s.part p).chunks.filter fun c => !(decide (c.gidx = e.gidx) && decide (c.k = k))) ∧
        ∀ (gi r : Nat) (g : Gang) (x : Entry) (m : Nat × Nat × Nat), s.gangs[gi]? = some g → g.st = .resident →
          s.partOfCore g.core = p → x ∈ g.ents → x.chunk = some (e.gidx, r, k) → x.prog < x.count → x.cause = none →
          e.ranks[r]? = some m → m.1 = s.mod.fmodid.toNat % 2 ^ 16 → (c.kind = 2 → r = c.root) →
          ∃ y ∈ (t.gangOf gi).ents, y.id = x.id ∧ y.prog = x.count ∧
            ∀ (j : Nat) (v : BitVec 64), (foldChunk determ e.ranks.length cs)[j]? = some v → y.data.get j = v))

/-- The steps of engine transfers, Orchard commands and store entries (derived from 05_ordering.md, 09_vmem.md,
14_sower_orchard.md, R112, R120, R135, R243, R244, R245, R348, R350, R359; the model's own choices in it: log 3, 9,
37, 38, 40, 59). -/
def Obligations.EngineSteps : Prop :=
  (∀ (s : State) (ag : Agent) (x : Nat) (t : Thread), s.thread? ag = some t →
    (t.xfers[x]? = none → ∀ bank, ∀ i ∈ ([.copyCommand ag ⟨x, bank⟩, .copyCompletion ag x, .desc ag x, .expand ag x, .backup ag x,
      .orchardRequestPerformed ag x] : List Instr), exec i s = .next s) ∧
    (∀ (y : Xfer) (c : CopyCmd), t.xfers[x]? = some y → y.kind = .copy c → y.fault = none → s.engineRuns ag = true →
      let lvl := s.nowLevel ag
      let win (v : Word) : Bool := inWindow v.toNat && !tooWide v
      let sa := sectorAddr c.src c.sstride y.row y.sect
      let da := sectorAddr c.dst c.dstride y.row y.sect
      let after (u : State) (z : Option Xfer) : Prop := ∃ v : Thread, u.thread? ag = some v ∧
        v.xfers = match z with
          | some z => modifyAt t.xfers x fun _ => z
          | none => t.xfers.eraseIdx x
      let moves (u : State) : Prop :=
        (y.sect + 1 < c.rowBytes / 32 → after u (some { y with sect := y.sect + 1 })) ∧
        (c.rowBytes / 32 ≤ y.sect + 1 → y.row + 1 < c.rows → after u (some { y with row := y.row + 1, sect := 0 })) ∧
        (c.rowBytes / 32 ≤ y.sect + 1 → c.rows = y.row + 1 →
          after u (if c.done = 0 then none else some { y with row := y.row + 1, sect := 0, moved := true }))
      let wrote (u : State) (p : Place) (n v : Nat) : Prop :=
        u.mem = (s.pokeAt ag p n v).mem ∧ (u.gangOf ag.gang).spad = ((s.pokeAt ag p n v).gangOf ag.gang).spad ∧
          (u.gangOf ag.gang).sdm = ((s.pokeAt ag p n v).gangOf ag.gang).sdm
      (∀ bank, y.moved = true → exec (.copyCommand ag ⟨x, bank⟩) s = .next s) ∧
      (y.moved = false → exec (.copyCompletion ag x) s = .next s) ∧
      (∀ bank, y.moved = false → y.row < c.rows → y.sect < c.rowBytes / 32 → y.ahead = [] →
        (inWindow c.dst.toNat = true → bankOf (da.toNat - windowBase) = bank % 64) →
        (∀ (p : Place) (s1 : State), c.fill = true → s.locate ag lvl .write (win c.dst) da 32 32 = .ok (p, s1) →
          s1.stalled p = false → s1.heldOver ag p 32 = false → Answers (exec (.copyCommand ag ⟨x, bank⟩) s) fun u => moves u ∧
            wrote u p 32 (c.src.toNat * (1 + 2 ^ 64 + 2 ^ 128 + 2 ^ 192))) ∧
        (∀ (p q : Place) (s1 s2 : State), c.fill = false → s.locate ag lvl .read (win c.src) sa 32 32 = .ok (p, s1) →
          s1.stalled p = false → ((s1.noteRead ag p 32).chargeAt ag.gang p 32).locate ag lvl .write (win c.dst) da 32 32 = .ok (q, s2) →
          s2.stalled q = false → s2.heldOver ag q 32 = false → Answers (exec (.copyCommand ag ⟨x, bank⟩) s) fun u => moves u ∧
            wrote u q 32 (s.seenAt ag p 32)) ∧
        (∀ e, c.fill = false → e.code ≠ 0 → s.locate ag lvl .read (win c.src) sa 32 32 = .error e →
          Answers (exec (.copyCommand ag ⟨x, bank⟩) s) fun u => u.mem = s.mem ∧
            after u (some { y with fault := some (e.code, e.addr, 0) }))) ∧
      (y.moved = true → (∀ (p : Place) (s1 : State), s.locate ag lvl .rmw (win c.done) c.done 8 8 = .ok (p, s1) →
        s1.stalled p = false → s1.heldOver ag p 8 = false → Answers (exec (.copyCompletion ag x) s) fun u => after u none ∧
          wrote u p 8 ((s.peekAt ag p 8 + c.doneVal.toNat) % 2 ^ 64)))) ∧
    (∀ (e : WcEntry), t.wc[x]? = some e →
      (s.mayPerform ag x = false → s.mayShow ag x = false → exec (.accessPerformed ag (.entry x)) s = .next s) ∧
      (s.mayPerform ag x = true → (s.gangOf ag.gang).st ≠ .retired →
        Answers (exec (.accessPerformed ag (.entry x)) s) fun u =>
          u.mem = writeBytes s.mem (32 * e.sector) e.bytes ∧ u.thread? ag = some { t with wc := t.wc.eraseIdx x }) ∧
      (s.mayPerform ag x = false → s.mayShow ag x = true → Answers (exec (.accessPerformed ag (.entry x)) s) fun u =>
        u.mem = s.mem ∧ u.stamp = s.stamp + 1 ∧
          u.thread? ag = some { t with wc := modifyAt t.wc x fun e => { e with gang := some s.stamp } })) ∧
    (∀ (y : Xfer) (base : Word) (op : FoldFn) (tag : Tag) (e : Nat) (copies : List (Option (BitVec 64)))
        (rest : List (Nat × List (Option (BitVec 64)))), t.xfers[x]? = some y → y.kind = .merge base op tag ((e, copies) :: rest) [] →
      y.fault = none → s.engineRuns ag = true →
      let win := inWindow base.toNat && !tooWide base
      (win = true ∨ s.held ag.gang y.epoch = false) → ∀ (p : Place) (s1 : State),
        s.locate ag (s.nowLevel ag) .rmw win (base + BitVec.ofNat 64 (e * tag.width)) tag.width tag.width = .ok (p, s1) →
        s1.stalled p = false →
        (∀ pa, p = .mem pa → (s1.gangOf ag.gang).sectorBefore (pa / 32) (holdKey y.epoch (2 ^ 64 - 1)) = false) →
        let w := s.pokeAt ag p tag.width (foldCopies op tag copies (BitVec.ofNat 64 (s.peekAt ag p tag.width))).toNat
        Answers (exec (.accessPerformed ag (.fold x)) s) fun u => u.mem = w.mem ∧
          (u.gangOf ag.gang).spad = (w.gangOf ag.gang).spad ∧ (u.gangOf ag.gang).sdm = (w.gangOf ag.gang).sdm ∧
          ∃ v : Thread, u.thread? ag = some v ∧
            v.xfers = t.xfers.map fun z => if z = y then { y with kind := .merge base op tag rest [] } else z) ∧
    (∀ f : Flight, t.flight = some f → s.engineRuns ag = true →
      (s.loadAt ag 0 (.mem f.pa) f.n = none → exec (.accessPerformed ag .load) s = .next s) ∧
      (∀ v, s.loadAt ag 0 (.mem f.pa) f.n = some v → Answers (exec (.accessPerformed ag .load) s) fun u => u.mem = s.mem ∧
        ∃ z : Thread, u.thread? ag = some z ∧ z.flight = none ∧ z.pc = t.pc ∧ z.vq = t.vq ∧
          ∀ r, z.reg r = if r = f.d ∧ r ≠ 0 then
            loaded f.n f.signed v else t.reg r)) ∧
    (∀ (y : Xfer) (w vals : List Word) (stage : Nat), t.xfers[x]? = some y → y.kind = .orchard w stage vals → y.fault = none →
      let word (k : Nat) : Word := (w[k]?).getD 0
      let staged (u : State) (n : Nat) (l : List Word) : Prop := ∃ v : Thread, u.thread? ag = some v ∧
        v.xfers = modifyAt t.xfers x fun _ => { y with kind := .orchard w n l }
      let freed (u : State) : Prop := ∃ v : Thread, u.thread? ag = some v ∧ v.xfers = t.xfers.eraseIdx x
      (∀ (opc : Nat) (i : Instr), (opc, i) ∈ ([(1, .desc ag x), (2, .expand ag x), (3, .backup ag x)] : List (Nat × Instr)) →
        (orchOpc w ≠ opc → exec i s = .next s) ∧
        (orchOpc w = opc →
          (stage = 0 → opc ≠ 2 → Answers (exec i s) fun u => u.mem = s.mem ∧ staged u 1 []) ∧
          (stage = 0 → opc = 2 → (∀ l s1, s.readNumbers ag 2 (word 2) ((word 1).toNat / 2 ^ 32) = .ok (l, s1) →
              Answers (exec i s) fun u => u.mem = s.mem ∧ staged u 1 (l.map (BitVec.ofNat 64))) ∧
            (∀ c, s.readNumbers ag 2 (word 2) ((word 1).toNat / 2 ^ 32) = .error c →
              if c = cWAIT then exec i s = .next s else Answers (exec i s) fun u => u.mem = s.mem ∧ staged u 2 [oFAULT])) ∧
          (stage = 1 → exec i s = .next s) ∧
          (stage = 2 → word 3 = 0 → Answers (exec i s) fun u => u.mem = s.mem ∧ staged u 3 [(vals[0]?).getD 0]) ∧
          (∀ (pa : Nat) (s1 : State), stage = 2 → word 3 ≠ 0 → s1.training pa = false →
            s.locate ag (s.nowLevel ag) .write false (word 3) 8 8 = .ok (.mem pa, s1) →
            s1.heldOver ag (.mem pa) 8 = false →
            Answers (exec i s) fun u => u.mem = s.mem.write pa 8 ((vals[0]?).getD 0).toNat ∧
              staged u 3 [(vals[0]?).getD 0]) ∧
          (stage = 3 → word 4 = 0 → Answers (exec i s) fun u => u.mem = s.mem ∧ freed u) ∧
          (∀ (pa : Nat) (s1 : State), stage = 3 → word 4 ≠ 0 → s1.training pa = false →
            s.locate ag (s.nowLevel ag) .rmw false (word 4) 8 8 = .ok (.mem pa, s1) →
            s1.heldOver ag (.mem pa) 8 = false →
            Answers (exec i s) fun u => u.mem = s.mem.write pa 8 ((s.mem.read pa 8 + (word 5).toNat) % 2 ^ 64) ∧ freed u))) ∧
      (stage ≠ 1 → exec (.orchardRequestPerformed ag x) s = .next s) ∧
      (stage = 1 → (∃ z ∈ t.xfers.take x, z.unperformed = true ∧ z.fault = none) →
        exec (.orchardRequestPerformed ag x) s = .next s) ∧
      (stage = 1 → (∀ z ∈ t.xfers.take x, z.unperformed = true → z.fault ≠ none) →
        (s.orchAt ag (word 0) (orchRequest w vals) = none → Answers (exec (.orchardRequestPerformed ag x) s) fun u =>
          u.mem = s.mem ∧ u.orch = s.orch ∧ ∃ v : Thread, u.thread? ag = some v ∧
            v.xfers = modifyAt t.xfers x fun _ => { y with fault := some (cORCHFULL, 0, 0) }) ∧
        (∀ (v : Word) (s1 : State), s.orchAt ag (word 0) (orchRequest w vals) = some (v, s1) →
          Answers (exec (.orchardRequestPerformed ag x) s) fun u => u.mem = s.mem ∧ u.orch = s1.orch ∧
            (word 3 = 0 ∧ word 4 = 0 → freed u) ∧ (¬(word 3 = 0 ∧ word 4 = 0) → staged u 2 [v])))))

/-- The Catalogue's steps: builds, sheaf sets, adaptations, re-cuttings, streams and answers (derived from
12_catalogue.md, 13_adapt.md, R301, R309, R311, R312, R326, R327, R334, R335; the model's own choices in it: log 9,
72, 73, 74, 75, 76). -/
def Obligations.CatalogueSteps : Prop :=
  (∀ (s : State) (p slot : Nat),
    ((s.mesh p slot).opening = none → exec (.mopenBuildEnd p slot) s = .next s) ∧
    (∀ o, (s.mesh p slot).opening = some o →
      (s.training o.status = true ∨ s.buildMesh p o = .error cWAIT → exec (.mopenBuildEnd p slot) s = .next s) ∧
      (∀ roots g, s.training o.status = false → s.buildMesh p o = .ok (roots, g) → g.number = 0 ∧ g.built = true ∧
        Answers (exec (.mopenBuildEnd p slot) s) fun t => t.mem = s.mem.write o.status 8 1 ∧
          t.mesh p slot = { s.mesh p slot with opening := none, roots := roots, gens := [g] }) ∧
      (∀ c, s.training o.status = false → c ≠ cWAIT → s.buildMesh p o = .error c → c ∈ [0x10, 0x11, 0x12] ∧
        Answers (exec (.mopenBuildEnd p slot) s) fun t => t.mem = s.mem.write o.status 8 (2 ^ 63 + c) ∧
          t.mesh p slot = { s.mesh p slot with opn := false, opening := none, gens := [] })) ∧
    (∀ (n : Nat) (st : SheafSet), (s.mesh p slot).sets[n]? = some (some st) →
      Answers (exec (.sheafSetBuilt p slot n) s) fun t => t.mem = s.mem ∧ t.gangs = s.gangs ∧
        t.mesh p slot = { s.mesh p slot with sets := (s.mesh p slot).sets.set n (some { st with built := true }) })) ∧
  (∀ (s : State) (ag : Agent) (x : Nat) (t : Thread), s.thread? ag = some t →
    let part := s.partOfCore (s.gangOf ag.gang).core
    let now (u : State) (y : Xfer) : Prop := ∃ v : Thread, u.thread? ag = some v ∧ v.xfers = modifyAt t.xfers x fun _ => y
    let freed (u : State) : Prop := ∃ v : Thread, u.thread? ag = some v ∧ v.xfers = t.xfers.eraseIdx x
    (t.xfers[x]? = none → ∀ i ∈ ([.adapt ag x, .adaptStatus ag x, .mrecutStatus ag x, .streamEntry ag x] : List Instr),
      exec i s = .next s) ∧
    (∀ (y : Xfer) (w : List Word) (stage : Nat) (recs : List (Nat × Nat)), t.xfers[x]? = some y →
      y.kind = .catalogue w stage recs →
      let n := (w[0]?).getD 0
      let m := s.mesh part (mwSlot n)
      (stage ≠ 0 → exec (.adapt ag x) s = .next s) ∧
      (stage = 0 ∨ y.fault.isSome = true → exec (.adaptStatus ag x) s = .next s) ∧
      (stage = 0 → (s.handleOk part n = false ∨ m.current = none) →
        Answers (exec (.adapt ag x) s) fun u => u.mem = s.mem ∧ now u { y with kind := .catalogue w 0x14 [] }) ∧
      (∀ g, stage = 0 → s.handleOk part n = true → m.current = some g →
        ((s.buildAdapt ag m g w part).1 = .error cWAIT → exec (.adapt ag x) s = .next s) ∧
        (∀ c, c ≠ cWAIT → (s.buildAdapt ag m g w part).1 = .error c → Answers (exec (.adapt ag x) s) fun u => u.mem = s.mem ∧
          now u { y with kind := .catalogue w c [] } ∧
          u.mesh part (mwSlot n) = { m with gens := m.gens.filter (·.built) }) ∧
        (∀ l cs sg, (s.buildAdapt ag m g w part).1 = .ok (l, cs, sg) → Answers (exec (.adapt ag x) s) fun u => u.mem = s.mem ∧
          now u { y with kind := .catalogue w 1 l } ∧
          u.mesh part (mwSlot n) = { m with gens := m.gens.map fun g =>
            if g.built then g else { g with leaves := cs, segs := sg } })) ∧
      (y.fault = none →
        let ends (st : State) (v : Nat) : Prop := ∀ (pa : Nat) (s1 : State), s1.training pa = false →
          st.locate ag (st.nowLevel ag) .write false ((w[4]?).getD 0) 8 8 = .ok (.mem pa, s1) →
          s1.heldOver ag (.mem pa) 8 = false → Answers (exec (.adaptStatus ag x) s) fun u => freed u ∧
            u.mem = st.mem.write pa 8 v ∧ ∀ p k, u.mesh p k = st.mesh p k
        let coded (st : State) (c row : Nat) : State :=
          st.modXfer ag x fun z => { z with kind := .catalogue w c recs, row := row }
        let number := (m.gens.getLast?.map (·.number)).getD 0
        (stage = 2 → ends s (y.row + recs.length * 2 ^ 32)) ∧ (2 < stage → ends s (2 ^ 63 + stage)) ∧
        (stage = 1 → s.handleOk part n = false → ends (coded s 0x14 y.row) (2 ^ 63 + 0x14)) ∧
        (stage = 1 → s.handleOk part n = true →
          (s.writesStall ag 16 ((w[2]?).getD 0) recs.length = true → exec (.adaptStatus ag x) s = .next s) ∧
          (s.writesStall ag 16 ((w[2]?).getD 0) recs.length = false →
            (∀ s2, s.writeRecords ag ((w[2]?).getD 0) recs = (true, s2) →
              ends (coded (s2.modMesh part (mwSlot n) fun m => { m with
                gens := (m.gens.filter fun g => g.built || !g.released).map fun g => { g with built := true } }) 2 number)
                (number + recs.length * 2 ^ 32)) ∧
            (∀ s2, s.writeRecords ag ((w[2]?).getD 0) recs = (false, s2) →
              ends (coded (s2.modMesh part (mwSlot n) fun m => { m with gens := m.gens.filter (·.built) }) 0x16 y.row)
                (2 ^ 63 + 0x16)))))) ∧
    (∀ (y : Xfer) (w : List Word) (pa v : Nat) (s1 : State), t.xfers[x]? = some y → y.kind = .recut w pa →
      s.recut ag w = (v, s1) → exec (.mrecutStatus ag x) s = .next (if v = cWAIT ∨ s.training pa = true then s else
        (({ s1 with mem := s1.mem.write pa 8 v } : State).chargeAt ag.gang (.mem pa) 8).modThread ag fun u =>
          { u with xfers := u.xfers.eraseIdx x })) ∧
    (∀ (y : Xfer) (q : Nat) (p : Stream) (l : List Nat), t.xfers[x]? = some y → y.kind = .stream q p →
      s.engineRuns ag = true → (s.gangOf ag.gang).lq[q]? = some l →
      (2 ≤ l.length → exec (.streamEntry ag x) s = .next s) ∧
      (l.length < 2 → Answers (exec (.streamEntry ag x) s) fun u => u.mem = s.mem ∧
        (u.gangOf ag.gang).lq[q]? = some (l ++ [(s.gangOf ag.gang).entNext]) ∧
        (∃ e : Entry, (u.gangOf ag.gang).ents = (s.gangOf ag.gang).ents ++ [e] ∧ e.id = (s.gangOf ag.gang).entNext ∧
          e.tag = .n32 ∧ e.count = min p.chunk p.recs.length ∧ e.prog = e.count ∧
          ∀ (k : Nat) (r : List Nat), k < p.chunk → p.recs[k]? = some r →
            e.data.get k = BitVec.ofNat 64 ((r[p.pos]?).getD 0)) ∧
        (p.next.recs = [] → freed u) ∧ (p.next.recs ≠ [] → now u { y with kind := .stream q p.next }))) ∧
    ((∀ d q, t.wait ≠ .answer d q) ∨ s.engineRuns ag = false → exec (.catalogueAnswer ag) s = .next s) ∧
    (∀ (d : Nat) (q : Ask), t.wait = .answer d q → s.engineRuns ag = true → (s.gangOf ag.gang).haltReq = none →
      let given (u : State) (v : Word) : Prop := ∃ z : Thread, u.thread? ag = some z ∧ z.wait = .none ∧ z.pc = t.pc + 4 ∧
        ∀ r, z.reg r = if r = d ∧ r ≠ 0 then v else t.reg r
      let fails (c : Nat) : Prop := exec (.catalogueAnswer ag) s = .next ((s.charge ag.gang 15 1).raiseAsk ag q cMESHGEN c)
      (q.fn = .mclose → s.handleOk part q.a = false → fails 1) ∧
      (q.fn = .mclose → s.handleOk part q.a = true → s.statusStalls part (mwSlot q.a) = true →
        exec (.catalogueAnswer ag) s = .next s) ∧
      (q.fn = .mclose → s.handleOk part q.a = true → s.statusStalls part (mwSlot q.a) = false → Answers (exec (.catalogueAnswer ag) s) fun u => given u 0 ∧
        (u.mesh part (mwSlot q.a)).opn = false ∧ (u.mesh part (mwSlot q.a)).serial = (s.mesh part (mwSlot q.a)).serial) ∧
      (q.fn = .mgenrel → s.handleOk part q.a = false → fails 1) ∧
      (q.fn = .mgenrel → s.handleOk part q.a = true → s.releaseGen part (mwSlot q.a) q.b.toNat = none → fails 6) ∧
      (∀ s1, q.fn = .mgenrel → s.handleOk part q.a = true → s.releaseGen part (mwSlot q.a) q.b.toNat = some s1 →
        Answers (exec (.catalogueAnswer ag) s) fun u => given u 0 ∧ u.parts = s1.parts ∧ u.mem = s.mem) ∧
      (q.fn = .mopen → s.answerOpen ag q.a = none → exec (.catalogueAnswer ag) s = .next s) ∧
      (∀ v s1, q.fn = .mopen → s.answerOpen ag q.a = some (v, s1) → Answers (exec (.catalogueAnswer ag) s) fun u =>
        given u v ∧ u.mem = s.mem ∧ u.parts = s1.parts) ∧
      (∀ c, q.fn = .msheaf → s.answerSheaf part q.a q.b = .error c → fails c) ∧
      (∀ v s1, q.fn = .msheaf → s.answerSheaf part q.a q.b = .ok (v, s1) → Answers (exec (.catalogueAnswer ag) s) fun u =>
        given u v ∧ u.mem = s.mem ∧ u.parts = s1.parts) ∧
      (∀ c, q.fn = .mquery → s.answerQuery part q.a q.b = .error c → fails c) ∧
      (q.fn = .mquery → s.answerQuery part q.a q.b = .ok none → exec (.catalogueAnswer ag) s = .next s) ∧
      (∀ n, q.fn = .mquery → s.answerQuery part q.a q.b = .ok (some n) → Answers (exec (.catalogueAnswer ag) s) fun u =>
        given u (BitVec.ofNat 64 n) ∧ u.mem = s.mem ∧ u.parts = s.parts) ∧
      (q.fn = .mrecut → s.answerRecut ag q = .error cWAIT → exec (.catalogueAnswer ag) s = .next s) ∧
      (∀ c, q.fn = .mrecut → c ≠ cWAIT → s.answerRecut ag q = .error c → fails c) ∧
      (∀ v s1, q.fn = .mrecut → s.answerRecut ag q = .ok (v, s1) → Answers (exec (.catalogueAnswer ag) s) fun u =>
        given u v ∧ u.mem = s.mem ∧ u.parts = s.parts)))

/-- What a step of a queued instruction writes: vector elements, entries, scratchpad and matrix units (derived from
02_state.md, 08_vector.md, 09_vmem.md, 11_matrix.md, R53, R195, R205, R206, R208, R223, R230, R235, R237, R239, R240,
R287; the model's own choices in it: log 3, 9, 74, 91, 92, 93, 105, 106, 117, 121, 124, 129). -/
def Obligations.ElementResults : Prop :=
  (∀ (s : State) (ag : Agent) (g : Gang) (t : Thread) (seq ord : Nat), s.gangs[ag.gang]? = some g →
    g.thread? ag.role = some t →
    ((∀ r ∈ t.vq, r.seq ≠ seq) ∨ s.mayRun ag = false → exec (.elementGroupCompletion ag seq) s = .next s) ∧
    ((∀ m ∈ t.mq.head?, m.ord ≠ ord) ∨ s.nextMatrix g.core ≠ some ag → exec (.matrixUnitCompletion ag ord) s = .next s) ∧
    (∀ (r : VRec) (d : Nat), t.vq = [r] → r.seq = seq → r.stuck = false → s.mayRun ag = true →
      r.done = true → r.dst = .scalar d → r.cut = none → t.wait = .gd seq →
        Answers (exec (.elementGroupCompletion ag seq) s) fun u => u.mem = s.mem ∧ ∃ v : Thread, u.thread? ag = some v ∧
          v.vq = [] ∧ v.fflags = t.fflags ||| r.flags ∧ v.wait = .none ∧ v.pc = t.pc + 4 ∧
          ∀ k, v.reg k = if k = d ∧ k ≠ 0 then r.scalarResult else t.reg k) ∧
    (∀ (m : VRec) (rest : List VRec) (d row : Nat) (z : Tile), t.mq = m :: rest → m.ord = ord → s.nextMatrix g.core = some ag →
      m.units ≠ 0 → m.dst = .tile d row → g.tiles[d]? = some z → t.moveHolder m = none → m.unitExpired t = false →
      s.badSlot ag m = none → m.vl ≤ 2048 → (∀ x ∈ rest, x.ord ≠ ord) →
      let rows := m.mrows + 1
      let hi := min (32 * (m.pi + 1)) m.vl
      let at_ (u : State) (k n : Nat) : BitVec 64 := (((u.gangOf ag.gang).tiles[d]?).getD z).data.get (2048 * k + n)
      let stays (u : State) (out : List (Nat × BitVec 64)) : Prop := ∃ v : Thread,
        u.thread? ag = some v ∧ v.regs = t.regs ∧ v.vregs = t.vregs ∧
        v.mq = if m.units ≤ m.pi + 1 then rest else { m with pi := m.pi + 1, out := out } :: rest
      let done (u : State) (out : List (Nat × BitVec 64)) : Prop := u.mem = s.mem ∧ stays u out
      (∀ na nb first free va vb, m.op = .mma na nb first free → m.srcA = .reg va → m.srcB = .reg vb →
        let out := if m.pi = 0 then (List.range rows).flatMap fun i => (List.range 8).map fun k =>
            (8 * i + k, (t.vreg va).data.get (8 * i + k * shapeSa m.shape + shapeOa m.shape))
          else m.out
        Answers (exec (.matrixUnitCompletion ag ord) s) fun u => done u out ∧ ∀ k n, k < rows → k < 16 → 32 * m.pi ≤ n →
          n < hi → n < 2048 → at_ u k n = mmaSlot { m with out := out } t vb na nb k n
            (if first then none else some (z.data.get (2048 * k + n)))) ∧
      (∀ add vb, m.op = .mwrow add → m.srcB = .reg vb →
        Answers (exec (.matrixUnitCompletion ag ord) s) fun u => done u m.out ∧ ∀ n, 32 * m.pi ≤ n → n < hi →
          at_ u row n = if add then
              (roundEven m.outTag (Val.add 0 (decode m.outTag (z.data.get (2048 * row + n)))
                (decode m.tagB ((t.vreg vb).data.get n))).1).1
            else (roundEven m.outTag (decode m.tagB ((t.vreg vb).data.get n))).1) ∧
      (m.op = .mzero → Answers (exec (.matrixUnitCompletion ag ord) s) fun u => done u m.out ∧ ∀ k n, at_ u k n = 0) ∧
      (∀ data, m.op = .mld → s.readSlots ag m (m.moveSlots m.pi) z.data = .ok data →
        Answers (exec (.matrixUnitCompletion ag ord) s) fun u => done u m.out ∧ ∀ x ∈ m.moveSlots m.pi, ∀ p s1,
          s.place ag (s.vecLevel ag) .read true (m.slotAddr x.1 x.2) 8 8 = .ok (p, s1) →
          let v := BitVec.ofNat 64 (s.peekAt ag p 8)
          at_ u x.1 x.2 = if m.outTag = .f32 then v &&& 0xFFFFFFFF#64 else v) ∧
      (∀ ps, m.op = .mst → s.checkSlots ag m (m.moveSlots m.pi) = .ok ps →
        Answers (exec (.matrixUnitCompletion ag ord) s) fun u => stays u m.out ∧ u.mem = (s.writeSlots ag z ps).mem ∧
          (u.gangOf ag.gang).spad = ((s.writeSlots ag z ps).gangOf ag.gang).spad ∧
          (u.gangOf ag.gang).sdm = ((s.writeSlots ag z ps).gangOf ag.gang).sdm ∧ (u.gangOf ag.gang).tiles = g.tiles))) ∧
  (∀ (s : State) (ag : Agent) (g : Gang) (t : Thread) (r : VRec), StepsNext s ag g t r →
    let i0 : Instr := .elementGroupCompletion ag r.seq
    let x (i : Nat) : BitVec 64 := srcElem g t r.srcA r.tagA i
    let y (i : Nat) : BitVec 64 := srcElem g t r.srcB r.tagB i
    let on (i : Nat) : Bool := r.active t i
    let toReg : Prop := ∃ n, r.dst = .reg n
    let writes (w : Written) : Prop := Answers (exec i0 s) fun u => GroupDone s u ag g t r w
    (∀ dims s1, s.stepDims ag r r.pi = .ok (dims, s1) →
      let point (i : Nat) : Option Nat :=
        if dims.isEmpty then none else some (sowerPoint dims ((frmSridx r.frm + i) % 2 ^ 32)).toNat
      let bit (b : Bool) : BitVec 64 × BitVec 6 := (if b then 1 else 0, 0)
      let value (i : Nat) : Option (BitVec 64 × BitVec 6) := match r.op with
        | .alu f => some (elemAlu f r.tagA r.tagB r.opTag r.outTag (r.scale t i) r.frm (point i) (x i) (y i))
        | .fma f => some (elemFma f r.tagA r.tagB r.tagD r.opTag r.outTag (r.scale t i) r.frm (point i) (x i) (y i) (match r.dst with
            | .reg n => (t.vreg n).data.get i
            | _ => 0))
        | .cmp f => some (if (compareVals f (decode r.tagA (x i)) (decode r.tagB (y i))).1 then 1 else 0,
            (compareVals f (decode r.tagA (x i)) (decode r.tagB (y i))).2)
        | .mask f => some (bit (match f with
            | .and => (x i).getLsbD 0 && (y i).getLsbD 0
            | .or => (x i).getLsbD 0 || (y i).getLsbD 0
            | .xor => (x i).getLsbD 0 != (y i).getLsbD 0
            | .andn => (x i).getLsbD 0 && !(y i).getLsbD 0
            | .not => !(x i).getLsbD 0))
        | .mset => some (1, 0)
        | .vid => some (BitVec.ofNat 64 (i % 2 ^ r.opTag.bits), 0)
        | .sel => some (if ((t.vreg 0).data.get i).getLsbD 0 then operandAt r.tagB r.opTag none r.frm (y i)
            else operandAt r.tagA r.opTag none r.frm (x i))
        | .cvt => some (elemCvt r.tagA r.opTag (r.scale t i) r.frm (point i) (x i))
        | .resh => some (elemResh r.tagA r.opTag (x i), 0)
        | .slideUp => some (if r.aliased && decide (0 < r.pi) then
            ((r.out.find? fun e => e.1 = i - r.opa.toNat).map (·.2)).getD 0 else x (i - r.opa.toNat), 0)
        | .slide1Up => some (if i = 0 then r.opa else x (i - 1), 0)
        | .slideDn => some (if i + r.opa.toNat < r.vl then x (i + r.opa.toNat) else zeroOf r.outTag, 0)
        | .slide1Dn => some (if i + 1 = r.vl then r.opa else x (i + 1), 0)
        | .gather => some (if 0 ≤ intOf r.tagB (y i) ∧ intOf r.tagB (y i) < r.vl then x (intOf r.tagB (y i)).toNat
            else zeroOf r.outTag, 0)
        | .bcast => some (r.opa, 0)
        | .func slot => (coefSlot (s.coefWord ag.gang) slot).map fun c => elemFunc c (s.coefWord ag.gang) r.tagA (x i)
        | .sow f => some (sowBits f (sowerPoint dims
            ((intOf r.tagA (x i) + (r.opb.toNat / 2 ^ 32 : Nat)) % 2 ^ 32).toNat), 0)
        | _ => none
      (∀ i, (value i).isSome = true) → writes (((r.elems r.pi).filter fun i =>
        (r.op = .sel ∨ on i = true) ∧ (r.op = .slideUp → r.opa.toNat ≤ i)).filterMap fun i =>
          (value i).map fun v => (i, v))) ∧
    (∀ f, r.op = .scan f →
      let group := (r.elems r.pi).filter on
      let next (acc : Option (BitVec 64) × BitVec 6) (j : Nat) : Option (BitVec 64) × BitVec 6 := match acc.1 with
        | none => (some (x j), 0)
        | some v => (some (foldStep f r.opTag v (x j)).1, (foldStep f r.opTag v (x j)).2)
      let upTo (i : Nat) : Option (BitVec 64) × BitVec 6 :=
        (group.takeWhile (· ≤ i)).foldl next (if r.opb = 1 then some r.opa else none, 0)
      writes (group.map fun i => (i, (upTo i).1.getD 0, (upTo i).2)) ∧
        (r.pi + 1 < r.groups → ∀ l, group.getLast? = some l → Answers (exec i0 s) fun u => ∃ v r', u.thread? ag = some v ∧
          v.vq = [r'] ∧ r'.opb = 1 ∧ some r'.opa = (upTo l).1)) ∧
    (r.op = .send → toReg → writes ((List.range r.vl).filterMap fun (j : Nat) =>
      (((List.range r.vl).filter on).reverse.find? fun i => intOf r.tagB (y i) = (j : Int)).map fun i => (j, x i, 0))) ∧
    (r.op = .cmprs → writes ((List.range r.vl).map fun j => (j, (match ((List.range r.vl).filter on)[j]? with
      | some i => x i
      | none => zeroOf r.outTag), 0))) ∧
    (r.op = .expnd → writes ((List.range r.vl).map fun i =>
      (i, if on i then x (((List.range i).filter on).length) else zeroOf r.outTag, 0))) ∧
    (∀ size c, r.op = .salsel size c → writes (salient g t r (4 * 2 ^ size) (c + 1))) ∧
    (r.op = .sete → writes (if r.opa = BitVec.allOnes 64 then [] else [(r.opa.toNat, r.opb, 0)])) ∧
    (r.op = .cfg → writes [] ∧ ∀ n, r.dst = .reg n → r.rezero = true → Answers (exec i0 s) fun u =>
      ∃ v, u.thread? ag = some v ∧ ∀ i < r.lanes * (16384 / (g.nv * g.w)), (v.vreg n).data.get i = zeroOf r.outTag) ∧
    (r.op = .win → r.dst = .none → r.pi = 0 → r.groups = 1 →
      let n := 4096 * ((winSize r.opb + 4095) / 4096)
      (g.holdsArea r.opb = false → exec i0 s =
        .next (s.raiseVec ag r 0 0 cSPRANGE (BitVec.ofNat 64 (windowBase + winArea r.opb)) 1)) ∧
      (g.holdsArea r.opb = true → t.holder (windowBase + winArea r.opb) n true false = none →
        Answers (exec i0 s) fun u => u.mem = s.mem ∧
          (∀ b, (u.gangOf ag.gang).spad.get b =
            if winArea r.opb ≤ b ∧ b < winArea r.opb + n then 0 else g.spad.get b) ∧
          (u.gangOf ag.gang).allocs = (g.freshen ((List.range (n / 4096)).map (winArea r.opb / 4096 + ·))).allocs ∧
          ∃ v, u.thread? ag = some v ∧ v.vq = [] ∧ v.regs = t.regs ∧ v.vregs = t.vregs)) ∧
    (r.op = .lsync → r.dst = .none → r.pi = 0 → r.groups = 1 →
      (t.wc = [] → writes []) ∧
      ((∃ e ∈ t.wc, e.slice ≠ 0 ∧ e.gang = none) → exec i0 s = .next (s.modThread ag Thread.closeAll))) ∧
    (∀ scope kind, r.op = .fence scope kind → r.dst = .none → r.pi = 0 → r.groups = 1 → t.xfers = [] →
      (t.wc = [] → t.mq = [] → g.unreleased t = false → writes []) ∧
      (kind ≠ 1 → (∃ e ∈ t.wc, e.slice ≠ 0 ∧ e.gang = none) → exec i0 s = .next (s.modThread ag Thread.closeAll))) ∧
    (r.op = .drain → r.dst = .none → r.pi = 0 → r.groups = 1 →
      (g.queuesDrained r.opa.toNat (fun w => decide (w.seq < r.seq)) = true → writes []) ∧
      (g.queuesDrained r.opa.toNat (fun w => decide (w.seq < r.seq)) = false → exec i0 s = .next s)) ∧
    (∀ (form : AddrForm) (arr ff : Bool) (sb s0 s1 : State) (w : Written), r.op = .load form arr ff →
      s.beginEntry ag r = some sb →
      let rb := sb.recNow ag r
      (match form with
        | .far n => ∃ pages, t.farEntry r = some pages ∧ s0 = sb ∧ sb.farElems ag rb n r.pi pages (r.elems r.pi) [] = .ok s1 w
        | _ => (if r.pi = 0 then sb.memFirst ag rb form 0 else .ok sb []) = .ok s0 [] ∧
            s0.loadElems ag (s0.recNow ag rb) form arr ff r.pi (s0.windowed ag (s0.recNow ag rb) form) (r.elems r.pi) [] =
              .ok s1 w) →
      w.map (·.1) = (r.elems r.pi).filter on ∧ Answers (exec i0 s) fun u => GroupDone sb u ag g t rb w) ∧
    (∀ (form : AddrForm) (nt : Bool) (s0 s1 s2 : State) (ps : List (Piece × Place)), r.op = .store form nt → r.dst = .none →
      (if r.pi = 0 then s.memFirst ag r form 1 else .ok s []) = .ok s0 [] →
      let r0 := s0.recNow ag r
      let pieces : List Piece := if r.opTag.subByte then packedPieces g t r r.pi else
        ((r.elems r.pi).filter on).map fun i =>
          (i, elemAddr form r.opa r0.opb r.opTag.width i (intOf r.tagA (x i)), r.opTag.width, (y i).toNat)
      let sq := match r.srcB with
        | .entry id => (g.entry? id).bind fun e => e.sq.map (·.q)
        | _ => none
      (r0.mayCollide form = true → s0.addressesKnown ag r0 = true) →
      s0.locatePieces ag r0 r.pi (s0.windowed ag r0 form) (pieces.flatMap cutPiece) = .ok (ps, s1) →
      s1.storePieces ag r0 nt sq (if r0.mayCollide form then r0.allRuns g t form else []) ps = some s2 →
      Answers (exec i0 s) fun u => u.mem = s2.mem ∧ (u.gangOf ag.gang).spad = (s2.gangOf ag.gang).spad ∧
        (u.gangOf ag.gang).sdm = (s2.gangOf ag.gang).sdm ∧ ∃ v v2, u.thread? ag = some v ∧ s2.thread? ag = some v2 ∧
          v.wc = v2.wc ∧ v.regs = t.regs ∧ v.vregs = t.vregs ∧ (r.groups ≤ r.pi + 1 → v.vq = []) ∧
          (r.pi + 1 < r.groups → ∃ r', v.vq = [r'] ∧ r'.pi = r.pi + 1 ∧ r'.done = false)) ∧
    (r.op = .wacc → r.dst = .none → (∀ k ∈ s.stepSlices ag r r.pi, t.unseen k = []) →
      ((r.dead = true ∨ g.holdsArea r.opb = false) → exec i0 s = .next ((s.raiseVec ag r r.pi (r.pi * r.lanes) cSPRANGE
        (BitVec.ofNat 64 (windowBase + winArea r.opb)) 3))) ∧
      (∀ m w, r.dead = false → g.holdsArea r.opb = true → s.waccElems ag.gang t r (r.elems r.pi) g.spad [] = .ok (m, w) →
        (∀ i, (r.elems r.pi).filter on = [i] →
          let e := (intOf r.tagA (x i)).toNat
          let z := (convert r.tagB (winTag r.opb) 0 none (y i)).1
          m = setCopy g.spad r.opb (i % 32 / 4) e (match copyElem g.spad r.opb (i % 32 / 4) e with
            | none => z
            | some v => (foldStep (winOp r.opb) (winTag r.opb) (BitVec.ofNat 64 v) z).1).toNat) ∧
        Answers (exec i0 s) fun u => u.mem = s.mem ∧ (u.gangOf ag.gang).spad = m ∧ ∃ v, u.thread? ag = some v ∧
          v.regs = t.regs ∧ v.vregs = t.vregs ∧ (r.groups ≤ r.pi + 1 → v.vq = []))) ∧
    (r.op = .wmerge → r.dst = .none → r.dead = false → g.holdsArea r.opb = true →
      let n := winLen r.opb * (winTag r.opb).width
      t.holder r.opa.toNat n true false = none → t.xfers.length < 16 → t.flight = none → s.storesClear ag r.opa.toNat n = true →
      (∀ e < winLen r.opb, ∀ k < 8, s.badCopy ag.gang g.spad r.opb k e = none) →
      Answers (exec i0 s) fun u => u.mem = s.mem ∧ (u.gangOf ag.gang).spad = clearBitmaps g.spad r.opb ∧
        ∃ v z, u.thread? ag = some v ∧ v.vq = [] ∧ v.xfers = t.xfers ++ [z] ∧ z.rd = some (r.opa.toNat, n) ∧ z.wr = z.rd ∧
          z.fault = none ∧ z.kind = .merge r.opa (winOp r.opb) (winTag r.opb) ((List.range (winLen r.opb)).map fun e =>
            (e, (List.range 8).map fun k => (copyElem g.spad r.opb k e).map (BitVec.ofNat 64))) []) ∧
    (∀ (e : Engine) (j : Nat), r.op = .cmdb e → (r.elems r.pi)[r.out.length]? = some j → toReg →
      let ans := s.engineAnswer ag e r (commandWords t r j)
      let notes (b : BitVec 64) (xs : List Xfer) : Prop := Answers (exec i0 s) fun u => u.mem = s.mem ∧
        ∃ v, u.thread? ag = some v ∧ v.xfers = xs ∧
          (r.out.length + 1 < (r.elems r.pi).length → v.vregs = t.vregs ∧ ∃ r', v.vq = [r'] ∧ r'.pi = r.pi ∧
            r'.out = r.out ++ [(j, b)]) ∧
          (r.out.length + 1 = (r.elems r.pi).length →
            GroupDone s u ag g t r ((r.out ++ [(j, b)]).map fun z => (z.1, z.2, 0)))
      (r.out.map (·.1) ++ [j]).Nodup → (on j = false → notes 0 t.xfers) ∧ (on j = true → ans.1 = .refuse → notes 0 t.xfers) ∧
      (∀ kind rd wr wr2 row sect s1, on j = true → ans = (.accept kind rd wr wr2 row sect, s1) →
        let runs := xferSpans rd wr wr2
        (∀ m ∈ t.olderMatrix r, spansConflict m.moveSpans runs = false) → t.loadBefore runs = false →
        t.transferHeld r runs = none → t.xfers.length < 16 → s.runsClear ag runs = true →
        notes 1 (t.xfers ++ [{ Xfer.new kind r.seq r.pc r.word j rd wr wr2 r.epoch with
          row := row, sect := sect, first := kind.firstSector row sect }])))) ∧
  (∀ (t : Tag) (frm : Word) (p : Option Nat) (a b c : BitVec 64), t.integer = true →
    let w := t.bits
    let x := intOf t a
    let y := intOf t b
    let z := intOf t c
    let lo : Int := if t.signed then -(2 ^ (w - 1)) else 0
    let hi : Int := if t.signed then 2 ^ (w - 1) - 1 else 2 ^ w - 1
    let gives (f : AluFn) (v : BitVec 64 × BitVec 6) : Prop := elemAlu f t t t t none frm p a b = v
    let wraps (f : AluFn) (v : Int) : Prop := gives f (ofInt t v, 0)
    let fused (f : FmaFn) (v : Int) : Prop := elemFma f t t t t t none frm p a b c = (ofInt t v, 0)
    let clamp (v : Int) : BitVec 64 × BitVec 6 :=
      if v < lo then (ofInt t lo, fSAT) else if hi < v then (ofInt t hi, fSAT) else (ofInt t v, 0)
    (∀ v : Int, (2 ^ w : Int) ∣ intOf t (ofInt t v) - v ∧ lo ≤ intOf t (ofInt t v) ∧ intOf t (ofInt t v) ≤ hi) ∧
    wraps .add (x + y) ∧ wraps .sub (x - y) ∧ wraps .mul (x * y) ∧ wraps .div (if y = 0 then -1 else x.tdiv y) ∧
    wraps .rem (if y = 0 then x else x - x.tdiv y * y) ∧ wraps .mulh (x * y / 2 ^ w) ∧
    wraps .min (if x ≤ y then x else y) ∧ wraps .max (if x ≤ y then y else x) ∧
    gives .sadd (clamp (x + y)) ∧ gives .ssub (clamp (x - y)) ∧
    wraps .and (a &&& b).toNat ∧ wraps .or (a ||| b).toNat ∧ wraps .xor (a ^^^ b).toNat ∧
    wraps .sll (x * 2 ^ (y % w).toNat) ∧ wraps .shr (x / 2 ^ (y % w).toNat) ∧
    wraps .abs (if x < 0 then -x else x) ∧ wraps .neg (-x) ∧ wraps .mv x ∧
    fused .madd (x * y + z) ∧ fused .msub (x * y - z) ∧ fused .nmadd (-(x * y) - z) ∧ fused .nmsub (-(x * y) + z)) ∧
  (∀ (t : Tag) (frm : Word) (p : Option Nat) (a b c : BitVec 64), t.floating = true → t ≠ .l6 →
    let x := decode t a
    let y := decode t b
    let gives (f : AluFn) (v : BitVec 64 × BitVec 6) : Prop := elemAlu f t t t t none frm p a b = v
    let rounds (frm : Word) (v : Val × BitVec 6) : BitVec 64 × BitVec 6 :=
      ((roundTag t frm p v.1).1, v.2 ||| (roundTag t frm p v.1).2)
    let sign (v : BitVec 64) : Bool := v.getLsbD (t.bits - 1)
    gives .add (rounds frm (Val.add (frmRm frm) x y)) ∧ gives .sub (rounds frm (Val.sub (frmRm frm) x y)) ∧
    gives .mul (rounds frm (Val.mul x y)) ∧ gives .div (rounds (nearestFrm frm) (Val.div x y)) ∧
    gives .sqrt (rounds (nearestFrm frm) (Val.sqrt x)) ∧ gives .min (rounds (frm ||| 8#64) (Val.minMax false x y)) ∧
    gives .max (rounds (frm ||| 8#64) (Val.minMax true x y)) ∧ gives .abs (withSign t false a, 0) ∧
    gives .neg (withSign t (!sign a) a, 0) ∧ gives .sgnj (withSign t (sign b) a, 0) ∧
    gives .sgnjn (withSign t (!sign b) a, 0) ∧ gives .sgnjx (withSign t (sign a != sign b) a, 0) ∧
    gives .cls (BitVec.ofNat 64 (classOf t a), 0) ∧ gives .mv (a, 0) ∧
    (∀ f : FmaFn, elemFma f t t t t t none frm p a b c =
      let m := Val.mul x y
      let prod := if f = .madd ∨ f = .msub then m.1 else m.1.flip
      let z := if f = .madd ∨ f = .nmsub then decode t c else (decode t c).flip
      rounds frm ((Val.add (frmRm frm) prod z).1, m.2 ||| (Val.add (frmRm frm) prod z).2))) ∧
  (∀ (src dst : Tag) (frm : Word) (p : Option Nat) (a : BitVec 64),
    (src = dst → elemCvt src dst none frm p a = (a, 0)) ∧
    (src ≠ dst → src.integer = true → dst.integer = true → elemCvt src dst none frm p a =
      let v := intOf src a
      if v < intMin dst then (ofInt dst (intMin dst), fSAT)
      else if intMax dst < v then (ofInt dst (intMax dst), fSAT) else (ofInt dst v, 0)) ∧
    (src ≠ dst → src.floating = true ∨ dst.floating = true →
      elemCvt src dst none frm p a = roundTag dst frm p (decode src a))) ∧
  (∀ (c : CoefSlot) (m : Nat → BitVec 64) (src : Tag) (a : BitVec 64),
    let x := if src = c.p then (a, 0) else roundEven c.p (decode src a)
    let xv := decode c.p x.1
    let df := Val.sub 0 xv (decode c.p c.lo)
    let pr := Val.mul df.1 (decode c.p c.inv)
    let tr := roundEven c.p pr.1
    let v := decode c.p tr.1
    let vs (n : Nat) : Option Ordering := Val.compare v (.fin false n 0)
    let at_ (j : Nat) (f : Val) : BitVec 64 × BitVec 6 :=
      let step (y : BitVec 64 × BitVec 6) (k : Nat) : BitVec 64 × BitVec 6 :=
        let q := Val.mul (decode c.p y.1) f
        let z := Val.add 0 q.1 (decode c.p (c.coef m j k))
        ((roundEven c.p z.1).1, y.2 ||| q.2 ||| z.2 ||| (roundEven c.p z.1).2)
      let y := (List.range c.d).reverse.foldl step (c.coef m j c.d, x.2 ||| df.2 ||| pr.2 ||| tr.2)
      ((roundEven c.p (decode c.p y.1)).1, y.2 ||| (roundEven c.p (decode c.p y.1)).2)
    (xv.isNan = true → elemFunc c m src a = (canonicalNan c.p, x.2 ||| nvIf xv.signals)) ∧
    (xv.isNan = false → v.isNan = true → elemFunc c m src a = (canonicalNan c.p, x.2 ||| fNV)) ∧
    (xv.isNan = false → v.isNan = false → elemFunc c m src a =
      if vs 0 = some .lt then at_ 0 (.fin false 0 0)
      else if vs c.n = some .lt then at_ v.floorNat (Val.sub 0 v (.fin false v.floorNat 0)).1
      else at_ (c.n - 1) (.fin false 1 0))) ∧
  ∀ (g : Gang) (t : Thread) (r : VRec) (size k i : Nat), 0 < size → i < r.vl →
    let sal (j : Nat) : Nat × Val :=
      (j, saliency r t (srcElem g t r.srcA r.tagA j) (srcElem g t r.srcB r.tagB j) j)
    let first := ((List.range size).map (i / size * size + ·)).filter fun j => r.active t j && ranksBefore (sal j) (sal i)
    (i, (if r.active t i = true ∧ first.length < k then 1 else 0), 0) ∈ salient g t r size k
end

