-- ==== Sys2Proof/Laws/Sparse.lean ====
section
/-! SUPPORT. The laws of finite maps in canonical form: reading after writing, that every operation keeps the form, and
that equal reading is equality; the same for memory. -/

namespace Sys2Proof.Machine

variable {w : Nat}

theorem Sparse.wfFrom_mono {m : Sparse w} {lo hi : Nat} (h : lo ≤ hi) (hm : m.wfFrom hi = true) :
    m.wfFrom lo = true := by
  cases m with
  | nil => rfl
  | cons e m =>
    simp only [Sparse.wfFrom, Bool.and_eq_true, decide_eq_true_eq] at hm ⊢
    exact ⟨⟨by omega, hm.1.2⟩, hm.2⟩

theorem Sparse.wfFrom_filter {m : Sparse w} {lo : Nat} (p : Nat × BitVec w → Bool) (hm : m.wfFrom lo = true) :
    Sparse.wfFrom lo (m.filter p) = true := by
  induction m generalizing lo with
  | nil => rfl
  | cons e m ih =>
    simp only [Sparse.wfFrom, Bool.and_eq_true, decide_eq_true_eq] at hm
    by_cases h : p e
    · simpa [h, Sparse.wfFrom, hm.1.1, ih hm.2] using hm.1.2
    · simp only [h, List.filter_cons_of_neg, Bool.false_eq_true, not_false_eq_true]
      exact Sparse.wfFrom_mono (by omega) (ih hm.2)

/-- Dropping entries keeps the canonical form. -/
theorem Sparse.wf_filter {m : Sparse w} (p : Nat × BitVec w → Bool) (hm : m.wf = true) :
    Sparse.wf (m.filter p) = true := Sparse.wfFrom_filter p hm

theorem Sparse.wf_clear {m : Sparse w} {lo n : Nat} (hm : m.wf = true) : (Sparse.clear m lo n).wf = true :=
  Sparse.wf_filter _ hm

theorem Sparse.wfFrom_put {m : Sparse w} {lo i : Nat} {v : BitVec w} (h : lo ≤ i) (hm : m.wfFrom lo = true)
    (hi : ∀ e ∈ m, e.1 ≠ i) : (Sparse.put m i v).wfFrom lo = true := by
  induction m generalizing lo with
  | nil =>
    unfold Sparse.put
    split
    · rfl
    · simp_all [Sparse.wfFrom]
  | cons e m ih =>
    obtain ⟨k, u⟩ := e
    have hk : k ≠ i := hi (k, u) (by simp)
    simp only [Sparse.wfFrom, Bool.and_eq_true, decide_eq_true_eq] at hm
    unfold Sparse.put
    split
    · split
      · simp only [Sparse.wfFrom, Bool.and_eq_true, decide_eq_true_eq]
        exact hm
      · rename_i h1 h2
        simp only [Sparse.wfFrom, Bool.and_eq_true, decide_eq_true_eq]
        exact ⟨⟨h, h2⟩, ⟨by omega, hm.1.2⟩, hm.2⟩
    · simp only [Sparse.wfFrom, Bool.and_eq_true, decide_eq_true_eq]
      exact ⟨hm.1, ih (by omega) hm.2 fun e he => hi e (by simp [he])⟩

/-- Writing keeps the canonical form. -/
theorem Sparse.wf_set {m : Sparse w} {i : Nat} {v : BitVec w} (hm : m.wf = true) : (Sparse.set m i v).wf = true :=
  Sparse.wfFrom_put (Nat.zero_le i) (Sparse.wf_filter _ hm) fun e he => by simpa using (List.mem_filter.1 he).2

theorem Sparse.get_of_forall {m : Sparse w} {i : Nat} (h : ∀ e ∈ m, e.1 ≠ i) : Sparse.get m i = 0 := by
  induction m with
  | nil => rfl
  | cons e m ih =>
    unfold Sparse.get
    rw [if_neg fun hi => h e (by simp) hi.symm, ih fun e he => h e (by simp [he])]

theorem Sparse.get_of_lt {m : Sparse w} {lo i : Nat} (hm : m.wfFrom lo = true) (h : i < lo) : Sparse.get m i = 0 := by
  induction m generalizing lo with
  | nil => rfl
  | cons e m ih =>
    simp only [Sparse.wfFrom, Bool.and_eq_true, decide_eq_true_eq] at hm
    unfold Sparse.get
    rw [if_neg (by omega), ih hm.2 (by omega)]

theorem Sparse.get_filter {m : Sparse w} {p : Nat → Bool} {j : Nat} :
    Sparse.get (m.filter fun e => p e.1) j = if p j then Sparse.get m j else 0 := by
  induction m with
  | nil => simp [Sparse.get]
  | cons e m ih =>
    obtain ⟨k, u⟩ := e
    by_cases h : p k
    · simp only [h, List.filter_cons_of_pos, Sparse.get, ih]
      by_cases hj : j = k
      · subst hj; simp [h]
      · simp [hj]
    · simp only [h, List.filter_cons_of_neg, Bool.false_eq_true, not_false_eq_true, ih, Sparse.get]
      by_cases hj : j = k
      · subst hj; simp [h]
      · simp [hj]

theorem Sparse.get_put {m : Sparse w} {i j : Nat} {v : BitVec w} (hi : ∀ e ∈ m, e.1 ≠ i) :
    Sparse.get (Sparse.put m i v) j = if j = i then v else Sparse.get m j := by
  induction m with
  | nil =>
    unfold Sparse.put
    split
    · rename_i h; simp [Sparse.get, h]
    · simp [Sparse.get]
  | cons e m ih =>
    obtain ⟨k, u⟩ := e
    have hk : k ≠ i := hi (k, u) (by simp)
    have hm : ∀ e ∈ m, e.1 ≠ i := fun e he => hi e (by simp [he])
    unfold Sparse.put
    split
    · split
      · rename_i h
        by_cases hj : j = i
        · subst hj; rw [if_pos rfl, h, Sparse.get_of_forall hi]
        · rw [if_neg hj]
      · simp [Sparse.get]
    · simp only [Sparse.get, ih hm]
      by_cases hj : j = k
      · subst hj; simp [hk]
      · simp [hj]

/-- Reading after writing. -/
@[simp] theorem Sparse.get_set {m : Sparse w} {i j : Nat} {v : BitVec w} :
    Sparse.get (Sparse.set m i v) j = if j = i then v else Sparse.get m j := by
  unfold Sparse.set
  rw [Sparse.get_put fun e he => by simpa using (List.mem_filter.1 he).2,
    Sparse.get_filter (p := fun k => decide (k ≠ i))]
  by_cases h : j = i <;> simp [h]

/-- A range that is dropped reads as zero, and nothing else changes. -/
theorem Sparse.get_clear {m : Sparse w} {lo n j : Nat} :
    Sparse.get (Sparse.clear m lo n) j = if lo ≤ j ∧ j < lo + n then 0 else Sparse.get m j := by
  unfold Sparse.clear
  rw [Sparse.get_filter (p := fun k => !(decide (lo ≤ k) && decide (k < lo + n)))]
  by_cases h : lo ≤ j ∧ j < lo + n
  · simp [h.1, h.2]
  · simp only [h, if_false]
    rw [if_pos]
    simp only [Bool.not_eq_true', Bool.and_eq_false_iff, decide_eq_false_iff_not]
    omega

/-- Maps in canonical form that read alike are equal. -/
theorem Sparse.eqFrom {m n : Sparse w} {lo : Nat} (hm : m.wfFrom lo = true) (hn : n.wfFrom lo = true)
    (h : ∀ i, Sparse.get m i = Sparse.get n i) : m = n := by
  induction m generalizing n lo with
  | nil =>
    cases n with
    | nil => rfl
    | cons e n =>
      simp only [Sparse.wfFrom, Bool.and_eq_true, decide_eq_true_eq] at hn
      have := h e.1
      simp [Sparse.get] at this
      exact absurd this.symm hn.1.2
  | cons e m ih =>
    obtain ⟨k, u⟩ := e
    have hm' := hm
    simp only [Sparse.wfFrom, Bool.and_eq_true, decide_eq_true_eq] at hm
    cases n with
    | nil =>
      have := h k
      simp [Sparse.get] at this
      exact absurd this hm.1.2
    | cons f n =>
      obtain ⟨l, v⟩ := f
      have hn' := hn
      simp only [Sparse.wfFrom, Bool.and_eq_true, decide_eq_true_eq] at hn
      have hkl : k = l := by
        rcases Nat.lt_trichotomy k l with hlt | heq | hgt
        · have := h k
          simp only [Sparse.get, if_true, if_neg (Nat.ne_of_lt hlt)] at this
          exact absurd (this.trans (Sparse.get_of_lt hn.2 (by omega))) hm.1.2
        · exact heq
        · have := h l
          simp only [Sparse.get, if_true, if_neg (Nat.ne_of_lt hgt)] at this
          exact absurd (this.symm.trans (Sparse.get_of_lt hm.2 (by omega))) hn.1.2
      subst hkl
      have huv : u = v := by simpa [Sparse.get] using h k
      subst huv
      rw [ih hm.2 hn.2]
      intro i
      rcases Nat.lt_trichotomy i k with hlt | heq | hgt
      · rw [Sparse.get_of_lt hm.2 (by omega), Sparse.get_of_lt hn.2 (by omega)]
      · subst heq
        rw [Sparse.get_of_lt hm.2 (by omega), Sparse.get_of_lt hn.2 (by omega)]
      · have := h i
        simpa [Sparse.get, Nat.ne_of_gt hgt] using this

/-- Writing bytes keeps the canonical form of memory. -/
theorem Memory.wf_write {m : Memory} {a n v : Nat} (hm : m.wf = true) : (m.write a n v).wf = true := by
  induction n generalizing m a v with
  | zero => exact hm
  | succ n ih => exact ih (m := Sparse.set m a (BitVec.ofNat 8 v)) (Sparse.wf_set (m := m) hm)

/-- A byte outside the run that is written reads as before. -/
theorem Memory.get_write_other {m : Memory} {a n v i : Nat} (h : i < a ∨ a + n ≤ i) :
    Sparse.get (m.write a n v) i = Sparse.get m i := by
  induction n generalizing m a v with
  | zero => rfl
  | succ n ih =>
    show Sparse.get (Memory.write (Sparse.set m a (BitVec.ofNat 8 v)) (a + 1) n (v / 256)) i = _
    rw [ih (m := Sparse.set m a (BitVec.ofNat 8 v)) (by omega), Sparse.get_set, if_neg (by omega)]

theorem Memory.read_congr {m k : Memory} {a n : Nat} (h : ∀ i, a ≤ i → i < a + n → Sparse.get m i = Sparse.get k i) :
    m.read a n = k.read a n := by
  induction n generalizing a with
  | zero => rfl
  | succ n ih =>
    show (Sparse.get m a).toNat + 256 * m.read (a + 1) n = (Sparse.get k a).toNat + 256 * k.read (a + 1) n
    rw [h a (by omega) (by omega), ih (a := a + 1) fun i h1 h2 => h i (by omega) (by omega)]

/-- Reading back the bytes just written. -/
@[simp] theorem Memory.read_write {m : Memory} {a n v : Nat} : (m.write a n v).read a n = v % 256 ^ n := by
  induction n generalizing m a v with
  | zero => simp [Memory.read, Nat.mod_one]
  | succ n ih =>
    have h2 := ih (m := Sparse.set m a (BitVec.ofNat 8 v)) (a := a + 1) (v := v / 256)
    have h3 : Sparse.get (Memory.write (Sparse.set m a (BitVec.ofNat 8 v)) (a + 1) n (v / 256)) a = BitVec.ofNat 8 v := by
      rw [Memory.get_write_other (by omega), Sparse.get_set, if_pos rfl]
    show (Sparse.get (Memory.write (Sparse.set m a (BitVec.ofNat 8 v)) (a + 1) n (v / 256)) a).toNat +
      256 * Memory.read (Memory.write (Sparse.set m a (BitVec.ofNat 8 v)) (a + 1) n (v / 256)) (a + 1) n = _
    rw [h2, h3, BitVec.toNat_ofNat, show (256 : Nat) ^ (n + 1) = 2 ^ 8 * 256 ^ n from Nat.pow_succ', Nat.mod_mul]
    rfl

end Sys2Proof.Machine
end

