-- ==== Sys2Proof/Laws/State.lean ====
section
/-! SUPPORT. What each update of the state and of a thread leaves and changes: one lemma a field, so that no proof
unfolds a record update. -/

namespace Sys2Proof.Machine

/-! Updates by place. -/

@[simp] theorem length_modifyAt {α : Type} (l : List α) (i : Nat) (f : α → α) : (modifyAt l i f).length = l.length := by
  induction l generalizing i with
  | nil => rfl
  | cons a l ih => cases i <;> simp [modifyAt, ih]

@[simp] theorem getElem?_modifyAt {α : Type} (l : List α) (i j : Nat) (f : α → α) :
    (modifyAt l i f)[j]? = if j = i then (l[j]?).map f else l[j]? := by
  induction l generalizing i j with
  | nil => simp [modifyAt]
  | cons a l ih =>
    cases i with
    | zero => cases j <;> simp [modifyAt]
    | succ i =>
      cases j with
      | zero => simp [modifyAt]
      | succ j => simp [modifyAt, ih]

/-- Two changes at one place are one. -/
theorem modifyAt_modifyAt {α : Type} (l : List α) (i : Nat) (f g : α → α) :
    modifyAt (modifyAt l i f) i g = modifyAt l i fun x => g (f x) := by
  induction l generalizing i with
  | nil => rfl
  | cons a l ih => cases i <;> simp [modifyAt, ih]

theorem modifyAt_id {α : Type} (l : List α) (i : Nat) (f : α → α) (h : ∀ x, l[i]? = some x → f x = x) :
    modifyAt l i f = l := by
  induction l generalizing i with
  | nil => rfl
  | cons a l ih =>
    cases i with
    | zero => simp [modifyAt, h a (by simp)]
    | succ i => simp only [modifyAt]; rw [ih i fun x hx => h x (by simpa using hx)]

/-! The state. -/

@[simp] theorem State.modGang_mem (s : State) (i : Nat) (f : Gang → Gang) : (s.modGang i f).mem = s.mem := rfl
@[simp] theorem State.modGang_launches (s : State) (i : Nat) (f : Gang → Gang) : (s.modGang i f).launches = s.launches := rfl
@[simp] theorem State.modGang_cores (s : State) (i : Nat) (f : Gang → Gang) : (s.modGang i f).cores = s.cores := rfl
@[simp] theorem State.modGang_parts (s : State) (i : Nat) (f : Gang → Gang) : (s.modGang i f).parts = s.parts := rfl
@[simp] theorem State.modGang_orch (s : State) (i : Nat) (f : Gang → Gang) : (s.modGang i f).orch = s.orch := rfl
@[simp] theorem State.modGang_sleepers (s : State) (i : Nat) (f : Gang → Gang) : (s.modGang i f).sleepers = s.sleepers := rfl
@[simp] theorem State.modGang_moves (s : State) (i : Nat) (f : Gang → Gang) : (s.modGang i f).moves = s.moves := rfl
@[simp] theorem State.modGang_ctx (s : State) (i : Nat) (f : Gang → Gang) : (s.modGang i f).ctx = s.ctx := rfl
@[simp] theorem State.modGang_errors (s : State) (i : Nat) (f : Gang → Gang) : (s.modGang i f).errors = s.errors := rfl
@[simp] theorem State.modGang_mod (s : State) (i : Nat) (f : Gang → Gang) : (s.modGang i f).mod = s.mod := rfl
@[simp] theorem State.modGang_cur (s : State) (i : Nat) (f : Gang → Gang) : (s.modGang i f).cur = s.cur := rfl
@[simp] theorem State.modGang_word (s : State) (i : Nat) (f : Gang → Gang) : (s.modGang i f).word = s.word := rfl
@[simp] theorem State.modGang_agenda (s : State) (i : Nat) (f : Gang → Gang) : (s.modGang i f).agenda = s.agenda := rfl
@[simp] theorem State.modGang_turn (s : State) (i : Nat) (f : Gang → Gang) : (s.modGang i f).turn = s.turn := rfl
@[simp] theorem State.modGang_free (s : State) (i : Nat) (f : Gang → Gang) : (s.modGang i f).free = s.free := rfl
@[simp] theorem State.modGang_stamp (s : State) (i : Nat) (f : Gang → Gang) : (s.modGang i f).stamp = s.stamp := rfl
@[simp] theorem State.modCore_mem (s : State) (i : Nat) (f : CoreSt → CoreSt) : (s.modCore i f).mem = s.mem := rfl
@[simp] theorem State.modCore_gangs (s : State) (i : Nat) (f : CoreSt → CoreSt) : (s.modCore i f).gangs = s.gangs := rfl
@[simp] theorem State.modCore_launches (s : State) (i : Nat) (f : CoreSt → CoreSt) : (s.modCore i f).launches = s.launches := rfl
@[simp] theorem State.modCore_parts (s : State) (i : Nat) (f : CoreSt → CoreSt) : (s.modCore i f).parts = s.parts := rfl
@[simp] theorem State.modCore_orch (s : State) (i : Nat) (f : CoreSt → CoreSt) : (s.modCore i f).orch = s.orch := rfl
@[simp] theorem State.modCore_sleepers (s : State) (i : Nat) (f : CoreSt → CoreSt) : (s.modCore i f).sleepers = s.sleepers := rfl
@[simp] theorem State.modCore_moves (s : State) (i : Nat) (f : CoreSt → CoreSt) : (s.modCore i f).moves = s.moves := rfl
@[simp] theorem State.modCore_ctx (s : State) (i : Nat) (f : CoreSt → CoreSt) : (s.modCore i f).ctx = s.ctx := rfl
@[simp] theorem State.modCore_errors (s : State) (i : Nat) (f : CoreSt → CoreSt) : (s.modCore i f).errors = s.errors := rfl
@[simp] theorem State.modCore_mod (s : State) (i : Nat) (f : CoreSt → CoreSt) : (s.modCore i f).mod = s.mod := rfl
@[simp] theorem State.modCore_cur (s : State) (i : Nat) (f : CoreSt → CoreSt) : (s.modCore i f).cur = s.cur := rfl
@[simp] theorem State.modCore_word (s : State) (i : Nat) (f : CoreSt → CoreSt) : (s.modCore i f).word = s.word := rfl
@[simp] theorem State.modCore_agenda (s : State) (i : Nat) (f : CoreSt → CoreSt) : (s.modCore i f).agenda = s.agenda := rfl
@[simp] theorem State.modCore_turn (s : State) (i : Nat) (f : CoreSt → CoreSt) : (s.modCore i f).turn = s.turn := rfl
@[simp] theorem State.modCore_free (s : State) (i : Nat) (f : CoreSt → CoreSt) : (s.modCore i f).free = s.free := rfl
@[simp] theorem State.modCore_stamp (s : State) (i : Nat) (f : CoreSt → CoreSt) : (s.modCore i f).stamp = s.stamp := rfl
@[simp] theorem State.modPart_mem (s : State) (i : Nat) (f : PartSt → PartSt) : (s.modPart i f).mem = s.mem := rfl
@[simp] theorem State.modPart_gangs (s : State) (i : Nat) (f : PartSt → PartSt) : (s.modPart i f).gangs = s.gangs := rfl
@[simp] theorem State.modPart_launches (s : State) (i : Nat) (f : PartSt → PartSt) : (s.modPart i f).launches = s.launches := rfl
@[simp] theorem State.modPart_cores (s : State) (i : Nat) (f : PartSt → PartSt) : (s.modPart i f).cores = s.cores := rfl
@[simp] theorem State.modPart_orch (s : State) (i : Nat) (f : PartSt → PartSt) : (s.modPart i f).orch = s.orch := rfl
@[simp] theorem State.modPart_sleepers (s : State) (i : Nat) (f : PartSt → PartSt) : (s.modPart i f).sleepers = s.sleepers := rfl
@[simp] theorem State.modPart_moves (s : State) (i : Nat) (f : PartSt → PartSt) : (s.modPart i f).moves = s.moves := rfl
@[simp] theorem State.modPart_ctx (s : State) (i : Nat) (f : PartSt → PartSt) : (s.modPart i f).ctx = s.ctx := rfl
@[simp] theorem State.modPart_errors (s : State) (i : Nat) (f : PartSt → PartSt) : (s.modPart i f).errors = s.errors := rfl
@[simp] theorem State.modPart_mod (s : State) (i : Nat) (f : PartSt → PartSt) : (s.modPart i f).mod = s.mod := rfl
@[simp] theorem State.modPart_cur (s : State) (i : Nat) (f : PartSt → PartSt) : (s.modPart i f).cur = s.cur := rfl
@[simp] theorem State.modPart_word (s : State) (i : Nat) (f : PartSt → PartSt) : (s.modPart i f).word = s.word := rfl
@[simp] theorem State.modPart_agenda (s : State) (i : Nat) (f : PartSt → PartSt) : (s.modPart i f).agenda = s.agenda := rfl
@[simp] theorem State.modPart_turn (s : State) (i : Nat) (f : PartSt → PartSt) : (s.modPart i f).turn = s.turn := rfl
@[simp] theorem State.modPart_free (s : State) (i : Nat) (f : PartSt → PartSt) : (s.modPart i f).free = s.free := rfl
@[simp] theorem State.modPart_stamp (s : State) (i : Nat) (f : PartSt → PartSt) : (s.modPart i f).stamp = s.stamp := rfl
@[simp] theorem State.modLaunch_mem (s : State) (i : Nat) (f : Launch → Launch) : (s.modLaunch i f).mem = s.mem := rfl
@[simp] theorem State.modLaunch_gangs (s : State) (i : Nat) (f : Launch → Launch) : (s.modLaunch i f).gangs = s.gangs := rfl
@[simp] theorem State.modLaunch_cores (s : State) (i : Nat) (f : Launch → Launch) : (s.modLaunch i f).cores = s.cores := rfl
@[simp] theorem State.modLaunch_parts (s : State) (i : Nat) (f : Launch → Launch) : (s.modLaunch i f).parts = s.parts := rfl
@[simp] theorem State.modLaunch_orch (s : State) (i : Nat) (f : Launch → Launch) : (s.modLaunch i f).orch = s.orch := rfl
@[simp] theorem State.modLaunch_sleepers (s : State) (i : Nat) (f : Launch → Launch) : (s.modLaunch i f).sleepers = s.sleepers := rfl
@[simp] theorem State.modLaunch_moves (s : State) (i : Nat) (f : Launch → Launch) : (s.modLaunch i f).moves = s.moves := rfl
@[simp] theorem State.modLaunch_ctx (s : State) (i : Nat) (f : Launch → Launch) : (s.modLaunch i f).ctx = s.ctx := rfl
@[simp] theorem State.modLaunch_errors (s : State) (i : Nat) (f : Launch → Launch) : (s.modLaunch i f).errors = s.errors := rfl
@[simp] theorem State.modLaunch_mod (s : State) (i : Nat) (f : Launch → Launch) : (s.modLaunch i f).mod = s.mod := rfl
@[simp] theorem State.modLaunch_cur (s : State) (i : Nat) (f : Launch → Launch) : (s.modLaunch i f).cur = s.cur := rfl
@[simp] theorem State.modLaunch_word (s : State) (i : Nat) (f : Launch → Launch) : (s.modLaunch i f).word = s.word := rfl
@[simp] theorem State.modLaunch_agenda (s : State) (i : Nat) (f : Launch → Launch) : (s.modLaunch i f).agenda = s.agenda := rfl
@[simp] theorem State.modLaunch_turn (s : State) (i : Nat) (f : Launch → Launch) : (s.modLaunch i f).turn = s.turn := rfl
@[simp] theorem State.modLaunch_free (s : State) (i : Nat) (f : Launch → Launch) : (s.modLaunch i f).free = s.free := rfl
@[simp] theorem State.modLaunch_stamp (s : State) (i : Nat) (f : Launch → Launch) : (s.modLaunch i f).stamp = s.stamp := rfl
@[simp] theorem State.modThread_mem (s : State) (a : Agent) (f : Thread → Thread) : (s.modThread a f).mem = s.mem := rfl
@[simp] theorem State.modThread_launches (s : State) (a : Agent) (f : Thread → Thread) : (s.modThread a f).launches = s.launches := rfl
@[simp] theorem State.modThread_cores (s : State) (a : Agent) (f : Thread → Thread) : (s.modThread a f).cores = s.cores := rfl
@[simp] theorem State.modThread_parts (s : State) (a : Agent) (f : Thread → Thread) : (s.modThread a f).parts = s.parts := rfl
@[simp] theorem State.modThread_orch (s : State) (a : Agent) (f : Thread → Thread) : (s.modThread a f).orch = s.orch := rfl
@[simp] theorem State.modThread_sleepers (s : State) (a : Agent) (f : Thread → Thread) : (s.modThread a f).sleepers = s.sleepers := rfl
@[simp] theorem State.modThread_moves (s : State) (a : Agent) (f : Thread → Thread) : (s.modThread a f).moves = s.moves := rfl
@[simp] theorem State.modThread_ctx (s : State) (a : Agent) (f : Thread → Thread) : (s.modThread a f).ctx = s.ctx := rfl
@[simp] theorem State.modThread_errors (s : State) (a : Agent) (f : Thread → Thread) : (s.modThread a f).errors = s.errors := rfl
@[simp] theorem State.modThread_mod (s : State) (a : Agent) (f : Thread → Thread) : (s.modThread a f).mod = s.mod := rfl
@[simp] theorem State.modThread_cur (s : State) (a : Agent) (f : Thread → Thread) : (s.modThread a f).cur = s.cur := rfl
@[simp] theorem State.modThread_word (s : State) (a : Agent) (f : Thread → Thread) : (s.modThread a f).word = s.word := rfl
@[simp] theorem State.modThread_agenda (s : State) (a : Agent) (f : Thread → Thread) : (s.modThread a f).agenda = s.agenda := rfl
@[simp] theorem State.modThread_turn (s : State) (a : Agent) (f : Thread → Thread) : (s.modThread a f).turn = s.turn := rfl
@[simp] theorem State.modThread_free (s : State) (a : Agent) (f : Thread → Thread) : (s.modThread a f).free = s.free := rfl
@[simp] theorem State.modThread_stamp (s : State) (a : Agent) (f : Thread → Thread) : (s.modThread a f).stamp = s.stamp := rfl

@[simp] theorem State.setMe_mem (s : State) (f : Thread → Thread) : (s.setMe f).mem = s.mem := by
  unfold State.setMe; split <;> rfl
@[simp] theorem State.setMe_launches (s : State) (f : Thread → Thread) : (s.setMe f).launches = s.launches := by
  unfold State.setMe; split <;> rfl
@[simp] theorem State.setMe_cores (s : State) (f : Thread → Thread) : (s.setMe f).cores = s.cores := by
  unfold State.setMe; split <;> rfl
@[simp] theorem State.setMe_parts (s : State) (f : Thread → Thread) : (s.setMe f).parts = s.parts := by
  unfold State.setMe; split <;> rfl
@[simp] theorem State.setMe_orch (s : State) (f : Thread → Thread) : (s.setMe f).orch = s.orch := by
  unfold State.setMe; split <;> rfl
@[simp] theorem State.setMe_sleepers (s : State) (f : Thread → Thread) : (s.setMe f).sleepers = s.sleepers := by
  unfold State.setMe; split <;> rfl
@[simp] theorem State.setMe_moves (s : State) (f : Thread → Thread) : (s.setMe f).moves = s.moves := by
  unfold State.setMe; split <;> rfl
@[simp] theorem State.setMe_ctx (s : State) (f : Thread → Thread) : (s.setMe f).ctx = s.ctx := by
  unfold State.setMe; split <;> rfl
@[simp] theorem State.setMe_errors (s : State) (f : Thread → Thread) : (s.setMe f).errors = s.errors := by
  unfold State.setMe; split <;> rfl
@[simp] theorem State.setMe_mod (s : State) (f : Thread → Thread) : (s.setMe f).mod = s.mod := by
  unfold State.setMe; split <;> rfl
@[simp] theorem State.setMe_cur (s : State) (f : Thread → Thread) : (s.setMe f).cur = s.cur := by
  unfold State.setMe; split <;> rfl
@[simp] theorem State.setMe_word (s : State) (f : Thread → Thread) : (s.setMe f).word = s.word := by
  unfold State.setMe; split <;> rfl
@[simp] theorem State.setMe_agenda (s : State) (f : Thread → Thread) : (s.setMe f).agenda = s.agenda := by
  unfold State.setMe; split <;> rfl
@[simp] theorem State.setMe_turn (s : State) (f : Thread → Thread) : (s.setMe f).turn = s.turn := by
  unfold State.setMe; split <;> rfl
@[simp] theorem State.setMe_free (s : State) (f : Thread → Thread) : (s.setMe f).free = s.free := by
  unfold State.setMe; split <;> rfl
@[simp] theorem State.setMe_stamp (s : State) (f : Thread → Thread) : (s.setMe f).stamp = s.stamp := by
  unfold State.setMe; split <;> rfl

/-! A thread. -/

@[simp] theorem Thread.retireTo_regs (t : Thread) (p : Word) : (t.retireTo p).regs = t.regs := rfl
@[simp] theorem Thread.retireTo_vl (t : Thread) (p : Word) : (t.retireTo p).vl = t.vl := rfl
@[simp] theorem Thread.retireTo_mrows (t : Thread) (p : Word) : (t.retireTo p).mrows = t.mrows := rfl
@[simp] theorem Thread.retireTo_blk (t : Thread) (p : Word) : (t.retireTo p).blk = t.blk := rfl
@[simp] theorem Thread.retireTo_fair (t : Thread) (p : Word) : (t.retireTo p).fair = t.fair := rfl
@[simp] theorem Thread.retireTo_chg (t : Thread) (p : Word) : (t.retireTo p).chg = t.chg := rfl
@[simp] theorem Thread.retireTo_rcl (t : Thread) (p : Word) : (t.retireTo p).rcl = t.rcl := rfl
@[simp] theorem Thread.retireTo_vregs (t : Thread) (p : Word) : (t.retireTo p).vregs = t.vregs := rfl
@[simp] theorem Thread.retireTo_vq (t : Thread) (p : Word) : (t.retireTo p).vq = t.vq := rfl
@[simp] theorem Thread.retireTo_vqtail (t : Thread) (p : Word) : (t.retireTo p).vqtail = t.vqtail := rfl
@[simp] theorem Thread.retireTo_mq (t : Thread) (p : Word) : (t.retireTo p).mq = t.mq := rfl
@[simp] theorem Thread.retireTo_ordNext (t : Thread) (p : Word) : (t.retireTo p).ordNext = t.ordNext := rfl
@[simp] theorem Thread.retireTo_mshape (t : Thread) (p : Word) : (t.retireTo p).mshape = t.mshape := rfl
@[simp] theorem Thread.retireTo_frm (t : Thread) (p : Word) : (t.retireTo p).frm = t.frm := rfl
@[simp] theorem Thread.retireTo_fflags (t : Thread) (p : Word) : (t.retireTo p).fflags = t.fflags := rfl
@[simp] theorem Thread.retireTo_window (t : Thread) (p : Word) : (t.retireTo p).window = t.window := rfl
@[simp] theorem Thread.retireTo_wc (t : Thread) (p : Word) : (t.retireTo p).wc = t.wc := rfl
@[simp] theorem Thread.retireTo_seen (t : Thread) (p : Word) : (t.retireTo p).seen = t.seen := rfl
@[simp] theorem Thread.retireTo_xfers (t : Thread) (p : Word) : (t.retireTo p).xfers = t.xfers := rfl
@[simp] theorem Thread.retireTo_pend (t : Thread) (p : Word) : (t.retireTo p).pend = t.pend := rfl
@[simp] theorem Thread.retireTo_ended (t : Thread) (p : Word) : (t.retireTo p).ended = t.ended := rfl
@[simp] theorem Thread.retireTo_wait (t : Thread) (p : Word) : (t.retireTo p).wait = t.wait := rfl
@[simp] theorem Thread.retireTo_kept (t : Thread) (p : Word) : (t.retireTo p).kept = t.kept := rfl
@[simp] theorem Thread.retireTo_halted (t : Thread) (p : Word) : (t.retireTo p).halted = t.halted := rfl
@[simp] theorem Thread.retireTo_epoch (t : Thread) (p : Word) : (t.retireTo p).epoch = t.epoch := rfl
@[simp] theorem Thread.retireTo_sowDims (t : Thread) (p : Word) : (t.retireTo p).sowDims = t.sowDims := rfl
@[simp] theorem Thread.retireTo_sowAddr (t : Thread) (p : Word) : (t.retireTo p).sowAddr = t.sowAddr := rfl
@[simp] theorem Thread.retireTo_lvl (t : Thread) (p : Word) : (t.retireTo p).lvl = t.lvl := rfl
@[simp] theorem Thread.retireTo_plvl (t : Thread) (p : Word) : (t.retireTo p).plvl = t.plvl := rfl
@[simp] theorem Thread.retireTo_dlvl (t : Thread) (p : Word) : (t.retireTo p).dlvl = t.dlvl := rfl
@[simp] theorem Thread.retireTo_frz (t : Thread) (p : Word) : (t.retireTo p).frz = t.frz := rfl
@[simp] theorem Thread.retireTo_wq (t : Thread) (p : Word) : (t.retireTo p).wq = t.wq := rfl
@[simp] theorem Thread.retireTo_aflt (t : Thread) (p : Word) : (t.retireTo p).aflt = t.aflt := rfl
@[simp] theorem Thread.retireTo_bskip (t : Thread) (p : Word) : (t.retireTo p).bskip = t.bskip := rfl
@[simp] theorem Thread.retireTo_sepc (t : Thread) (p : Word) : (t.retireTo p).sepc = t.sepc := rfl
@[simp] theorem Thread.retireTo_sscratch (t : Thread) (p : Word) : (t.retireTo p).sscratch = t.sscratch := rfl
@[simp] theorem Thread.retireTo_sevent (t : Thread) (p : Word) : (t.retireTo p).sevent = t.sevent := rfl
@[simp] theorem Thread.retireTo_seventen (t : Thread) (p : Word) : (t.retireTo p).seventen = t.seventen := rfl
@[simp] theorem Thread.retireTo_sfrec (t : Thread) (p : Word) : (t.retireTo p).sfrec = t.sfrec := rfl
@[simp] theorem Thread.retireTo_sbkpt (t : Thread) (p : Word) : (t.retireTo p).sbkpt = t.sbkpt := rfl
@[simp] theorem Thread.retireTo_fplvl (t : Thread) (p : Word) : (t.retireTo p).fplvl = t.fplvl := rfl
@[simp] theorem Thread.retireTo_fepc (t : Thread) (p : Word) : (t.retireTo p).fepc = t.fepc := rfl
@[simp] theorem Thread.retireTo_fscratch (t : Thread) (p : Word) : (t.retireTo p).fscratch = t.fscratch := rfl
@[simp] theorem Thread.retireTo_ffrec (t : Thread) (p : Word) : (t.retireTo p).ffrec = t.ffrec := rfl
@[simp] theorem Thread.retireTo_fhsel (t : Thread) (p : Word) : (t.retireTo p).fhsel = t.fhsel := rfl
@[simp] theorem Thread.retireTo_fhres (t : Thread) (p : Word) : (t.retireTo p).fhres = t.fhres := rfl
@[simp] theorem Thread.retireTo_causes (t : Thread) (p : Word) : (t.retireTo p).causes = t.causes := rfl
@[simp] theorem Thread.retireTo_faulted (t : Thread) (p : Word) : (t.retireTo p).faulted = t.faulted := rfl
@[simp] theorem Thread.retireTo_debug (t : Thread) (p : Word) : (t.retireTo p).debug = t.debug := rfl
@[simp] theorem Thread.retireTo_avl (t : Thread) (p : Word) : (t.retireTo p).avl = t.avl := rfl
@[simp] theorem Thread.retireTo_tcache (t : Thread) (p : Word) : (t.retireTo p).tcache = t.tcache := rfl
@[simp] theorem Thread.retireTo_flight (t : Thread) (p : Word) : (t.retireTo p).flight = t.flight := rfl
@[simp] theorem Thread.retireTo_taken (t : Thread) (p : Word) : (t.retireTo p).taken = t.taken := rfl
@[simp] theorem Thread.retireTo_suppKept (t : Thread) (p : Word) : (t.retireTo p).suppKept = t.suppKept := rfl
@[simp] theorem Thread.retireTo_pc (t : Thread) (p : Word) : (t.retireTo p).pc = p := rfl
@[simp] theorem Thread.retireTo_stall (t : Thread) (p : Word) : (t.retireTo p).stall = .none := rfl
@[simp] theorem Thread.retireTo_supp (t : Thread) (p : Word) :
    (t.retireTo p).supp = (t.supp && !t.suppNow) := rfl
@[simp] theorem Thread.retireTo_suppNow (t : Thread) (p : Word) : (t.retireTo p).suppNow = false := rfl
@[simp] theorem Thread.retireTo_retired (t : Thread) (p : Word) : (t.retireTo p).retired = t.retired + 1 := rfl
@[simp] theorem Thread.setReg_pc (t : Thread) (r : Nat) (v : Word) : (t.setReg r v).pc = t.pc := by
  unfold Thread.setReg; split <;> rfl
@[simp] theorem Thread.setReg_vl (t : Thread) (r : Nat) (v : Word) : (t.setReg r v).vl = t.vl := by
  unfold Thread.setReg; split <;> rfl
@[simp] theorem Thread.setReg_mrows (t : Thread) (r : Nat) (v : Word) : (t.setReg r v).mrows = t.mrows := by
  unfold Thread.setReg; split <;> rfl
@[simp] theorem Thread.setReg_blk (t : Thread) (r : Nat) (v : Word) : (t.setReg r v).blk = t.blk := by
  unfold Thread.setReg; split <;> rfl
@[simp] theorem Thread.setReg_fair (t : Thread) (r : Nat) (v : Word) : (t.setReg r v).fair = t.fair := by
  unfold Thread.setReg; split <;> rfl
@[simp] theorem Thread.setReg_chg (t : Thread) (r : Nat) (v : Word) : (t.setReg r v).chg = t.chg := by
  unfold Thread.setReg; split <;> rfl
@[simp] theorem Thread.setReg_rcl (t : Thread) (r : Nat) (v : Word) : (t.setReg r v).rcl = t.rcl := by
  unfold Thread.setReg; split <;> rfl
@[simp] theorem Thread.setReg_vregs (t : Thread) (r : Nat) (v : Word) : (t.setReg r v).vregs = t.vregs := by
  unfold Thread.setReg; split <;> rfl
@[simp] theorem Thread.setReg_vq (t : Thread) (r : Nat) (v : Word) : (t.setReg r v).vq = t.vq := by
  unfold Thread.setReg; split <;> rfl
@[simp] theorem Thread.setReg_vqtail (t : Thread) (r : Nat) (v : Word) : (t.setReg r v).vqtail = t.vqtail := by
  unfold Thread.setReg; split <;> rfl
@[simp] theorem Thread.setReg_mq (t : Thread) (r : Nat) (v : Word) : (t.setReg r v).mq = t.mq := by
  unfold Thread.setReg; split <;> rfl
@[simp] theorem Thread.setReg_ordNext (t : Thread) (r : Nat) (v : Word) : (t.setReg r v).ordNext = t.ordNext := by
  unfold Thread.setReg; split <;> rfl
@[simp] theorem Thread.setReg_mshape (t : Thread) (r : Nat) (v : Word) : (t.setReg r v).mshape = t.mshape := by
  unfold Thread.setReg; split <;> rfl
@[simp] theorem Thread.setReg_frm (t : Thread) (r : Nat) (v : Word) : (t.setReg r v).frm = t.frm := by
  unfold Thread.setReg; split <;> rfl
@[simp] theorem Thread.setReg_fflags (t : Thread) (r : Nat) (v : Word) : (t.setReg r v).fflags = t.fflags := by
  unfold Thread.setReg; split <;> rfl
@[simp] theorem Thread.setReg_window (t : Thread) (r : Nat) (v : Word) : (t.setReg r v).window = t.window := by
  unfold Thread.setReg; split <;> rfl
@[simp] theorem Thread.setReg_wc (t : Thread) (r : Nat) (v : Word) : (t.setReg r v).wc = t.wc := by
  unfold Thread.setReg; split <;> rfl
@[simp] theorem Thread.setReg_seen (t : Thread) (r : Nat) (v : Word) : (t.setReg r v).seen = t.seen := by
  unfold Thread.setReg; split <;> rfl
@[simp] theorem Thread.setReg_xfers (t : Thread) (r : Nat) (v : Word) : (t.setReg r v).xfers = t.xfers := by
  unfold Thread.setReg; split <;> rfl
@[simp] theorem Thread.setReg_pend (t : Thread) (r : Nat) (v : Word) : (t.setReg r v).pend = t.pend := by
  unfold Thread.setReg; split <;> rfl
@[simp] theorem Thread.setReg_ended (t : Thread) (r : Nat) (v : Word) : (t.setReg r v).ended = t.ended := by
  unfold Thread.setReg; split <;> rfl
@[simp] theorem Thread.setReg_wait (t : Thread) (r : Nat) (v : Word) : (t.setReg r v).wait = t.wait := by
  unfold Thread.setReg; split <;> rfl
@[simp] theorem Thread.setReg_kept (t : Thread) (r : Nat) (v : Word) : (t.setReg r v).kept = t.kept := by
  unfold Thread.setReg; split <;> rfl
@[simp] theorem Thread.setReg_halted (t : Thread) (r : Nat) (v : Word) : (t.setReg r v).halted = t.halted := by
  unfold Thread.setReg; split <;> rfl
@[simp] theorem Thread.setReg_stall (t : Thread) (r : Nat) (v : Word) : (t.setReg r v).stall = t.stall := by
  unfold Thread.setReg; split <;> rfl
@[simp] theorem Thread.setReg_epoch (t : Thread) (r : Nat) (v : Word) : (t.setReg r v).epoch = t.epoch := by
  unfold Thread.setReg; split <;> rfl
@[simp] theorem Thread.setReg_sowDims (t : Thread) (r : Nat) (v : Word) : (t.setReg r v).sowDims = t.sowDims := by
  unfold Thread.setReg; split <;> rfl
@[simp] theorem Thread.setReg_sowAddr (t : Thread) (r : Nat) (v : Word) : (t.setReg r v).sowAddr = t.sowAddr := by
  unfold Thread.setReg; split <;> rfl
@[simp] theorem Thread.setReg_lvl (t : Thread) (r : Nat) (v : Word) : (t.setReg r v).lvl = t.lvl := by
  unfold Thread.setReg; split <;> rfl
@[simp] theorem Thread.setReg_plvl (t : Thread) (r : Nat) (v : Word) : (t.setReg r v).plvl = t.plvl := by
  unfold Thread.setReg; split <;> rfl
@[simp] theorem Thread.setReg_dlvl (t : Thread) (r : Nat) (v : Word) : (t.setReg r v).dlvl = t.dlvl := by
  unfold Thread.setReg; split <;> rfl
@[simp] theorem Thread.setReg_frz (t : Thread) (r : Nat) (v : Word) : (t.setReg r v).frz = t.frz := by
  unfold Thread.setReg; split <;> rfl
@[simp] theorem Thread.setReg_supp (t : Thread) (r : Nat) (v : Word) : (t.setReg r v).supp = t.supp := by
  unfold Thread.setReg; split <;> rfl
@[simp] theorem Thread.setReg_suppNow (t : Thread) (r : Nat) (v : Word) : (t.setReg r v).suppNow = t.suppNow := by
  unfold Thread.setReg; split <;> rfl
@[simp] theorem Thread.setReg_retired (t : Thread) (r : Nat) (v : Word) : (t.setReg r v).retired = t.retired := by
  unfold Thread.setReg; split <;> rfl
@[simp] theorem Thread.setReg_wq (t : Thread) (r : Nat) (v : Word) : (t.setReg r v).wq = t.wq := by
  unfold Thread.setReg; split <;> rfl
@[simp] theorem Thread.setReg_aflt (t : Thread) (r : Nat) (v : Word) : (t.setReg r v).aflt = t.aflt := by
  unfold Thread.setReg; split <;> rfl
@[simp] theorem Thread.setReg_bskip (t : Thread) (r : Nat) (v : Word) : (t.setReg r v).bskip = t.bskip := by
  unfold Thread.setReg; split <;> rfl
@[simp] theorem Thread.setReg_sepc (t : Thread) (r : Nat) (v : Word) : (t.setReg r v).sepc = t.sepc := by
  unfold Thread.setReg; split <;> rfl
@[simp] theorem Thread.setReg_sscratch (t : Thread) (r : Nat) (v : Word) : (t.setReg r v).sscratch = t.sscratch := by
  unfold Thread.setReg; split <;> rfl
@[simp] theorem Thread.setReg_sevent (t : Thread) (r : Nat) (v : Word) : (t.setReg r v).sevent = t.sevent := by
  unfold Thread.setReg; split <;> rfl
@[simp] theorem Thread.setReg_seventen (t : Thread) (r : Nat) (v : Word) : (t.setReg r v).seventen = t.seventen := by
  unfold Thread.setReg; split <;> rfl
@[simp] theorem Thread.setReg_sfrec (t : Thread) (r : Nat) (v : Word) : (t.setReg r v).sfrec = t.sfrec := by
  unfold Thread.setReg; split <;> rfl
@[simp] theorem Thread.setReg_sbkpt (t : Thread) (r : Nat) (v : Word) : (t.setReg r v).sbkpt = t.sbkpt := by
  unfold Thread.setReg; split <;> rfl
@[simp] theorem Thread.setReg_fplvl (t : Thread) (r : Nat) (v : Word) : (t.setReg r v).fplvl = t.fplvl := by
  unfold Thread.setReg; split <;> rfl
@[simp] theorem Thread.setReg_fepc (t : Thread) (r : Nat) (v : Word) : (t.setReg r v).fepc = t.fepc := by
  unfold Thread.setReg; split <;> rfl
@[simp] theorem Thread.setReg_fscratch (t : Thread) (r : Nat) (v : Word) : (t.setReg r v).fscratch = t.fscratch := by
  unfold Thread.setReg; split <;> rfl
@[simp] theorem Thread.setReg_ffrec (t : Thread) (r : Nat) (v : Word) : (t.setReg r v).ffrec = t.ffrec := by
  unfold Thread.setReg; split <;> rfl
@[simp] theorem Thread.setReg_fhsel (t : Thread) (r : Nat) (v : Word) : (t.setReg r v).fhsel = t.fhsel := by
  unfold Thread.setReg; split <;> rfl
@[simp] theorem Thread.setReg_fhres (t : Thread) (r : Nat) (v : Word) : (t.setReg r v).fhres = t.fhres := by
  unfold Thread.setReg; split <;> rfl
@[simp] theorem Thread.setReg_causes (t : Thread) (r : Nat) (v : Word) : (t.setReg r v).causes = t.causes := by
  unfold Thread.setReg; split <;> rfl
@[simp] theorem Thread.setReg_faulted (t : Thread) (r : Nat) (v : Word) : (t.setReg r v).faulted = t.faulted := by
  unfold Thread.setReg; split <;> rfl
@[simp] theorem Thread.setReg_debug (t : Thread) (r : Nat) (v : Word) : (t.setReg r v).debug = t.debug := by
  unfold Thread.setReg; split <;> rfl
@[simp] theorem Thread.setReg_avl (t : Thread) (r : Nat) (v : Word) : (t.setReg r v).avl = t.avl := by
  unfold Thread.setReg; split <;> rfl
@[simp] theorem Thread.setReg_tcache (t : Thread) (r : Nat) (v : Word) : (t.setReg r v).tcache = t.tcache := by
  unfold Thread.setReg; split <;> rfl
@[simp] theorem Thread.setReg_flight (t : Thread) (r : Nat) (v : Word) : (t.setReg r v).flight = t.flight := by
  unfold Thread.setReg; split <;> rfl
@[simp] theorem Thread.setReg_taken (t : Thread) (r : Nat) (v : Word) : (t.setReg r v).taken = t.taken := by
  unfold Thread.setReg; split <;> rfl
@[simp] theorem Thread.setReg_suppKept (t : Thread) (r : Nat) (v : Word) : (t.setReg r v).suppKept = t.suppKept := by
  unfold Thread.setReg; split <;> rfl
@[simp] theorem Thread.modVreg_pc (t : Thread) (n : Nat) (f : VReg → VReg) : (t.modVreg n f).pc = t.pc := rfl
@[simp] theorem Thread.modVreg_regs (t : Thread) (n : Nat) (f : VReg → VReg) : (t.modVreg n f).regs = t.regs := rfl
@[simp] theorem Thread.modVreg_vl (t : Thread) (n : Nat) (f : VReg → VReg) : (t.modVreg n f).vl = t.vl := rfl
@[simp] theorem Thread.modVreg_mrows (t : Thread) (n : Nat) (f : VReg → VReg) : (t.modVreg n f).mrows = t.mrows := rfl
@[simp] theorem Thread.modVreg_blk (t : Thread) (n : Nat) (f : VReg → VReg) : (t.modVreg n f).blk = t.blk := rfl
@[simp] theorem Thread.modVreg_fair (t : Thread) (n : Nat) (f : VReg → VReg) : (t.modVreg n f).fair = t.fair := rfl
@[simp] theorem Thread.modVreg_chg (t : Thread) (n : Nat) (f : VReg → VReg) : (t.modVreg n f).chg = t.chg := rfl
@[simp] theorem Thread.modVreg_rcl (t : Thread) (n : Nat) (f : VReg → VReg) : (t.modVreg n f).rcl = t.rcl := rfl
@[simp] theorem Thread.modVreg_vq (t : Thread) (n : Nat) (f : VReg → VReg) : (t.modVreg n f).vq = t.vq := rfl
@[simp] theorem Thread.modVreg_vqtail (t : Thread) (n : Nat) (f : VReg → VReg) : (t.modVreg n f).vqtail = t.vqtail := rfl
@[simp] theorem Thread.modVreg_mq (t : Thread) (n : Nat) (f : VReg → VReg) : (t.modVreg n f).mq = t.mq := rfl
@[simp] theorem Thread.modVreg_ordNext (t : Thread) (n : Nat) (f : VReg → VReg) : (t.modVreg n f).ordNext = t.ordNext := rfl
@[simp] theorem Thread.modVreg_mshape (t : Thread) (n : Nat) (f : VReg → VReg) : (t.modVreg n f).mshape = t.mshape := rfl
@[simp] theorem Thread.modVreg_frm (t : Thread) (n : Nat) (f : VReg → VReg) : (t.modVreg n f).frm = t.frm := rfl
@[simp] theorem Thread.modVreg_fflags (t : Thread) (n : Nat) (f : VReg → VReg) : (t.modVreg n f).fflags = t.fflags := rfl
@[simp] theorem Thread.modVreg_window (t : Thread) (n : Nat) (f : VReg → VReg) : (t.modVreg n f).window = t.window := rfl
@[simp] theorem Thread.modVreg_wc (t : Thread) (n : Nat) (f : VReg → VReg) : (t.modVreg n f).wc = t.wc := rfl
@[simp] theorem Thread.modVreg_seen (t : Thread) (n : Nat) (f : VReg → VReg) : (t.modVreg n f).seen = t.seen := rfl
@[simp] theorem Thread.modVreg_xfers (t : Thread) (n : Nat) (f : VReg → VReg) : (t.modVreg n f).xfers = t.xfers := rfl
@[simp] theorem Thread.modVreg_pend (t : Thread) (n : Nat) (f : VReg → VReg) : (t.modVreg n f).pend = t.pend := rfl
@[simp] theorem Thread.modVreg_ended (t : Thread) (n : Nat) (f : VReg → VReg) : (t.modVreg n f).ended = t.ended := rfl
@[simp] theorem Thread.modVreg_wait (t : Thread) (n : Nat) (f : VReg → VReg) : (t.modVreg n f).wait = t.wait := rfl
@[simp] theorem Thread.modVreg_kept (t : Thread) (n : Nat) (f : VReg → VReg) : (t.modVreg n f).kept = t.kept := rfl
@[simp] theorem Thread.modVreg_halted (t : Thread) (n : Nat) (f : VReg → VReg) : (t.modVreg n f).halted = t.halted := rfl
@[simp] theorem Thread.modVreg_stall (t : Thread) (n : Nat) (f : VReg → VReg) : (t.modVreg n f).stall = t.stall := rfl
@[simp] theorem Thread.modVreg_epoch (t : Thread) (n : Nat) (f : VReg → VReg) : (t.modVreg n f).epoch = t.epoch := rfl
@[simp] theorem Thread.modVreg_sowDims (t : Thread) (n : Nat) (f : VReg → VReg) : (t.modVreg n f).sowDims = t.sowDims := rfl
@[simp] theorem Thread.modVreg_sowAddr (t : Thread) (n : Nat) (f : VReg → VReg) : (t.modVreg n f).sowAddr = t.sowAddr := rfl
@[simp] theorem Thread.modVreg_lvl (t : Thread) (n : Nat) (f : VReg → VReg) : (t.modVreg n f).lvl = t.lvl := rfl
@[simp] theorem Thread.modVreg_plvl (t : Thread) (n : Nat) (f : VReg → VReg) : (t.modVreg n f).plvl = t.plvl := rfl
@[simp] theorem Thread.modVreg_dlvl (t : Thread) (n : Nat) (f : VReg → VReg) : (t.modVreg n f).dlvl = t.dlvl := rfl
@[simp] theorem Thread.modVreg_frz (t : Thread) (n : Nat) (f : VReg → VReg) : (t.modVreg n f).frz = t.frz := rfl
@[simp] theorem Thread.modVreg_supp (t : Thread) (n : Nat) (f : VReg → VReg) : (t.modVreg n f).supp = t.supp := rfl
@[simp] theorem Thread.modVreg_suppNow (t : Thread) (n : Nat) (f : VReg → VReg) : (t.modVreg n f).suppNow = t.suppNow := rfl
@[simp] theorem Thread.modVreg_retired (t : Thread) (n : Nat) (f : VReg → VReg) : (t.modVreg n f).retired = t.retired := rfl
@[simp] theorem Thread.modVreg_wq (t : Thread) (n : Nat) (f : VReg → VReg) : (t.modVreg n f).wq = t.wq := rfl
@[simp] theorem Thread.modVreg_aflt (t : Thread) (n : Nat) (f : VReg → VReg) : (t.modVreg n f).aflt = t.aflt := rfl
@[simp] theorem Thread.modVreg_bskip (t : Thread) (n : Nat) (f : VReg → VReg) : (t.modVreg n f).bskip = t.bskip := rfl
@[simp] theorem Thread.modVreg_sepc (t : Thread) (n : Nat) (f : VReg → VReg) : (t.modVreg n f).sepc = t.sepc := rfl
@[simp] theorem Thread.modVreg_sscratch (t : Thread) (n : Nat) (f : VReg → VReg) : (t.modVreg n f).sscratch = t.sscratch := rfl
@[simp] theorem Thread.modVreg_sevent (t : Thread) (n : Nat) (f : VReg → VReg) : (t.modVreg n f).sevent = t.sevent := rfl
@[simp] theorem Thread.modVreg_seventen (t : Thread) (n : Nat) (f : VReg → VReg) : (t.modVreg n f).seventen = t.seventen := rfl
@[simp] theorem Thread.modVreg_sfrec (t : Thread) (n : Nat) (f : VReg → VReg) : (t.modVreg n f).sfrec = t.sfrec := rfl
@[simp] theorem Thread.modVreg_sbkpt (t : Thread) (n : Nat) (f : VReg → VReg) : (t.modVreg n f).sbkpt = t.sbkpt := rfl
@[simp] theorem Thread.modVreg_fplvl (t : Thread) (n : Nat) (f : VReg → VReg) : (t.modVreg n f).fplvl = t.fplvl := rfl
@[simp] theorem Thread.modVreg_fepc (t : Thread) (n : Nat) (f : VReg → VReg) : (t.modVreg n f).fepc = t.fepc := rfl
@[simp] theorem Thread.modVreg_fscratch (t : Thread) (n : Nat) (f : VReg → VReg) : (t.modVreg n f).fscratch = t.fscratch := rfl
@[simp] theorem Thread.modVreg_ffrec (t : Thread) (n : Nat) (f : VReg → VReg) : (t.modVreg n f).ffrec = t.ffrec := rfl
@[simp] theorem Thread.modVreg_fhsel (t : Thread) (n : Nat) (f : VReg → VReg) : (t.modVreg n f).fhsel = t.fhsel := rfl
@[simp] theorem Thread.modVreg_fhres (t : Thread) (n : Nat) (f : VReg → VReg) : (t.modVreg n f).fhres = t.fhres := rfl
@[simp] theorem Thread.modVreg_causes (t : Thread) (n : Nat) (f : VReg → VReg) : (t.modVreg n f).causes = t.causes := rfl
@[simp] theorem Thread.modVreg_faulted (t : Thread) (n : Nat) (f : VReg → VReg) : (t.modVreg n f).faulted = t.faulted := rfl
@[simp] theorem Thread.modVreg_debug (t : Thread) (n : Nat) (f : VReg → VReg) : (t.modVreg n f).debug = t.debug := rfl
@[simp] theorem Thread.modVreg_avl (t : Thread) (n : Nat) (f : VReg → VReg) : (t.modVreg n f).avl = t.avl := rfl
@[simp] theorem Thread.modVreg_tcache (t : Thread) (n : Nat) (f : VReg → VReg) : (t.modVreg n f).tcache = t.tcache := rfl
@[simp] theorem Thread.modVreg_flight (t : Thread) (n : Nat) (f : VReg → VReg) : (t.modVreg n f).flight = t.flight := rfl
@[simp] theorem Thread.modVreg_taken (t : Thread) (n : Nat) (f : VReg → VReg) : (t.modVreg n f).taken = t.taken := rfl
@[simp] theorem Thread.modVreg_suppKept (t : Thread) (n : Nat) (f : VReg → VReg) : (t.modVreg n f).suppKept = t.suppKept := rfl

@[simp] theorem Thread.reg_zero (t : Thread) : t.reg 0 = 0 := rfl

/-- A register reads as what was last written; register 0 reads as zero (R40, R154). -/
@[simp] theorem Thread.reg_setReg (t : Thread) (d r : Nat) (v : Word) :
    (t.setReg d v).reg r = if r = d ∧ r ≠ 0 then v else t.reg r := by
  unfold Thread.setReg Thread.reg
  by_cases hr : r = 0
  · simp [hr]
  · by_cases hd : d = 0
    · subst hd; simp [hr]
    · by_cases h : r = d <;> simp [hr, hd, h]

@[simp] theorem Thread.reg_retireTo (t : Thread) (p : Word) (r : Nat) : (t.retireTo p).reg r = t.reg r := rfl

theorem Thread.retire_eq (t : Thread) : t.retire = t.retireTo (t.pc + 4) := rfl

/-! Threads of agents. -/

theorem Gang.thread?_modThread (g : Gang) (r q : Role) (f : Thread → Thread) :
    (g.modThread r f).thread? q = if q = r then (g.thread? q).map f else g.thread? q := by
  cases r <;> cases q <;> simp [Gang.modThread, Gang.thread?]

/-- Changing one thread leaves every other. -/
theorem State.thread?_modThread (s : State) (a b : Agent) (f : Thread → Thread) :
    (s.modThread a f).thread? b = if b = a then (s.thread? b).map f else s.thread? b := by
  obtain ⟨i, r⟩ := a
  obtain ⟨j, q⟩ := b
  unfold State.modThread State.modGang State.thread?
  simp only [getElem?_modifyAt, Agent.mk.injEq]
  by_cases hj : j = i
  · subst hj
    simp only [true_and, if_true]
    cases s.gangs[j]? with
    | none => simp
    | some g => simp [Gang.thread?_modThread]
  · simp [hj]

theorem State.live_iff {s : State} : s.live = true ↔ ∃ a t, s.cur = some a ∧ s.thread? a = some t := by
  unfold State.live
  cases s.cur with
  | none => simp
  | some a => simp [Option.isSome_iff_exists]

/-- The thread in execution after it is changed. -/
@[simp] theorem State.me_setMe {s : State} (h : s.live = true) (f : Thread → Thread) : (s.setMe f).me = f s.me := by
  obtain ⟨a, t, hc, ht⟩ := State.live_iff.1 h
  simp [State.me, State.setMe, hc, State.thread?_modThread, ht]

@[simp] theorem State.live_setMe {s : State} (f : Thread → Thread) : (s.setMe f).live = s.live := by
  unfold State.live
  simp only [State.setMe_cur]
  cases h : s.cur with
  | none => rfl
  | some a =>
    simp only [State.setMe, h, State.thread?_modThread, if_true]
    cases s.thread? a <;> rfl

@[simp] theorem State.who_setMe (s : State) (f : Thread → Thread) : (s.setMe f).who = s.who := by
  simp [State.who]

@[simp] theorem State.onHart_setMe (s : State) (f : Thread → Thread) : (s.setMe f).onHart = s.onHart := by
  simp [State.onHart]

theorem Gang.modThread_modThread (g : Gang) (r : Role) (f k : Thread → Thread) :
    (g.modThread r f).modThread r k = g.modThread r fun t => k (f t) := by
  cases r <;> simp [Gang.modThread, modifyAt_modifyAt]

/-- Two changes of the thread in execution are one. -/
theorem State.setMe_setMe (s : State) (f k : Thread → Thread) : (s.setMe f).setMe k = s.setMe fun t => k (f t) := by
  unfold State.setMe
  cases h : s.cur with
  | none => simp [h]
  | some a =>
    simp [h, State.modThread, State.modGang, modifyAt_modifyAt, Gang.modThread_modThread]

/-- What a gang holds beside its threads does not change with a thread. -/
theorem State.gangOf_setMe (s : State) (f : Thread → Thread) (i : Nat) :
    (s.setMe f).gangOf i = s.gangOf i ∨ (s.setMe f).gangOf i = (s.gangOf i).modThread s.who.role f := by
  unfold State.setMe State.gangOf State.who
  cases h : s.cur with
  | none => exact .inl rfl
  | some a =>
    simp only [State.modThread, State.modGang, getElem?_modifyAt, Option.getD_some]
    by_cases hi : i = a.gang
    · subst hi
      cases s.gangs[a.gang]? with
      | none => exact .inl (by simp)
      | some g => exact .inr (by simp)
    · exact .inl (by simp [hi])

@[simp] theorem State.gangOf_setMe_launch (s : State) (f : Thread → Thread) (i : Nat) :
    ((s.setMe f).gangOf i).launch = (s.gangOf i).launch := by
  rcases s.gangOf_setMe f i with h | h <;> rw [h]
  cases s.who.role <;> rfl
@[simp] theorem State.gangOf_setMe_number (s : State) (f : Thread → Thread) (i : Nat) :
    ((s.setMe f).gangOf i).number = (s.gangOf i).number := by
  rcases s.gangOf_setMe f i with h | h <;> rw [h]
  cases s.who.role <;> rfl
@[simp] theorem State.gangOf_setMe_st (s : State) (f : Thread → Thread) (i : Nat) :
    ((s.setMe f).gangOf i).st = (s.gangOf i).st := by
  rcases s.gangOf_setMe f i with h | h <;> rw [h]
  cases s.who.role <;> rfl
@[simp] theorem State.gangOf_setMe_core (s : State) (f : Thread → Thread) (i : Nat) :
    ((s.setMe f).gangOf i).core = (s.gangOf i).core := by
  rcases s.gangOf_setMe f i with h | h <;> rw [h]
  cases s.who.role <;> rfl
@[simp] theorem State.gangOf_setMe_slot (s : State) (f : Thread → Thread) (i : Nat) :
    ((s.setMe f).gangOf i).slot = (s.gangOf i).slot := by
  rcases s.gangOf_setMe f i with h | h <;> rw [h]
  cases s.who.role <;> rfl
@[simp] theorem State.gangOf_setMe_nv (s : State) (f : Thread → Thread) (i : Nat) :
    ((s.setMe f).gangOf i).nv = (s.gangOf i).nv := by
  rcases s.gangOf_setMe f i with h | h <;> rw [h]
  cases s.who.role <;> rfl
@[simp] theorem State.gangOf_setMe_w (s : State) (f : Thread → Thread) (i : Nat) :
    ((s.setMe f).gangOf i).w = (s.gangOf i).w := by
  rcases s.gangOf_setMe f i with h | h <;> rw [h]
  cases s.who.role <;> rfl
@[simp] theorem State.gangOf_setMe_blocks (s : State) (f : Thread → Thread) (i : Nat) :
    ((s.setMe f).gangOf i).blocks = (s.gangOf i).blocks := by
  rcases s.gangOf_setMe f i with h | h <;> rw [h]
  cases s.who.role <;> rfl
@[simp] theorem State.gangOf_setMe_tiles (s : State) (f : Thread → Thread) (i : Nat) :
    ((s.setMe f).gangOf i).tiles = (s.gangOf i).tiles := by
  rcases s.gangOf_setMe f i with h | h <;> rw [h]
  cases s.who.role <;> rfl
@[simp] theorem State.gangOf_setMe_tilesOn (s : State) (f : Thread → Thread) (i : Nat) :
    ((s.setMe f).gangOf i).tilesOn = (s.gangOf i).tilesOn := by
  rcases s.gangOf_setMe f i with h | h <;> rw [h]
  cases s.who.role <;> rfl
@[simp] theorem State.gangOf_setMe_ents (s : State) (f : Thread → Thread) (i : Nat) :
    ((s.setMe f).gangOf i).ents = (s.gangOf i).ents := by
  rcases s.gangOf_setMe f i with h | h <;> rw [h]
  cases s.who.role <;> rfl
@[simp] theorem State.gangOf_setMe_entNext (s : State) (f : Thread → Thread) (i : Nat) :
    ((s.setMe f).gangOf i).entNext = (s.gangOf i).entNext := by
  rcases s.gangOf_setMe f i with h | h <;> rw [h]
  cases s.who.role <;> rfl
@[simp] theorem State.gangOf_setMe_lq (s : State) (f : Thread → Thread) (i : Nat) :
    ((s.setMe f).gangOf i).lq = (s.gangOf i).lq := by
  rcases s.gangOf_setMe f i with h | h <;> rw [h]
  cases s.who.role <;> rfl
@[simp] theorem State.gangOf_setMe_sq (s : State) (f : Thread → Thread) (i : Nat) :
    ((s.setMe f).gangOf i).sq = (s.gangOf i).sq := by
  rcases s.gangOf_setMe f i with h | h <;> rw [h]
  cases s.who.role <;> rfl
@[simp] theorem State.gangOf_setMe_bq (s : State) (f : Thread → Thread) (i : Nat) :
    ((s.setMe f).gangOf i).bq = (s.gangOf i).bq := by
  rcases s.gangOf_setMe f i with h | h <;> rw [h]
  cases s.who.role <;> rfl
@[simp] theorem State.gangOf_setMe_bound (s : State) (f : Thread → Thread) (i : Nat) :
    ((s.setMe f).gangOf i).bound = (s.gangOf i).bound := by
  rcases s.gangOf_setMe f i with h | h <;> rw [h]
  cases s.who.role <;> rfl
@[simp] theorem State.gangOf_setMe_panel (s : State) (f : Thread → Thread) (i : Nat) :
    ((s.setMe f).gangOf i).panel = (s.gangOf i).panel := by
  rcases s.gangOf_setMe f i with h | h <;> rw [h]
  cases s.who.role <;> rfl
@[simp] theorem State.gangOf_setMe_members (s : State) (f : Thread → Thread) (i : Nat) :
    ((s.setMe f).gangOf i).members = (s.gangOf i).members := by
  rcases s.gangOf_setMe f i with h | h <;> rw [h]
  cases s.who.role <;> rfl
@[simp] theorem State.gangOf_setMe_arrived (s : State) (f : Thread → Thread) (i : Nat) :
    ((s.setMe f).gangOf i).arrived = (s.gangOf i).arrived := by
  rcases s.gangOf_setMe f i with h | h <;> rw [h]
  cases s.who.role <;> rfl
@[simp] theorem State.gangOf_setMe_drops (s : State) (f : Thread → Thread) (i : Nat) :
    ((s.setMe f).gangOf i).drops = (s.gangOf i).drops := by
  rcases s.gangOf_setMe f i with h | h <;> rw [h]
  cases s.who.role <;> rfl
@[simp] theorem State.gangOf_setMe_phase (s : State) (f : Thread → Thread) (i : Nat) :
    ((s.setMe f).gangOf i).phase = (s.gangOf i).phase := by
  rcases s.gangOf_setMe f i with h | h <;> rw [h]
  cases s.who.role <;> rfl
@[simp] theorem State.gangOf_setMe_allocs (s : State) (f : Thread → Thread) (i : Nat) :
    ((s.setMe f).gangOf i).allocs = (s.gangOf i).allocs := by
  rcases s.gangOf_setMe f i with h | h <;> rw [h]
  cases s.who.role <;> rfl
@[simp] theorem State.gangOf_setMe_spad (s : State) (f : Thread → Thread) (i : Nat) :
    ((s.setMe f).gangOf i).spad = (s.gangOf i).spad := by
  rcases s.gangOf_setMe f i with h | h <;> rw [h]
  cases s.who.role <;> rfl
@[simp] theorem State.gangOf_setMe_sdm (s : State) (f : Thread → Thread) (i : Nat) :
    ((s.setMe f).gangOf i).sdm = (s.gangOf i).sdm := by
  rcases s.gangOf_setMe f i with h | h <;> rw [h]
  cases s.who.role <;> rfl
@[simp] theorem State.gangOf_setMe_qenW (s : State) (f : Thread → Thread) (i : Nat) :
    ((s.setMe f).gangOf i).qenW = (s.gangOf i).qenW := by
  rcases s.gangOf_setMe f i with h | h <;> rw [h]
  cases s.who.role <;> rfl
@[simp] theorem State.gangOf_setMe_qenNext (s : State) (f : Thread → Thread) (i : Nat) :
    ((s.setMe f).gangOf i).qenNext = (s.gangOf i).qenNext := by
  rcases s.gangOf_setMe f i with h | h <;> rw [h]
  cases s.who.role <;> rfl
@[simp] theorem State.gangOf_setMe_qen (s : State) (f : Thread → Thread) (i : Nat) :
    ((s.setMe f).gangOf i).qen = (s.gangOf i).qen := by
  rcases s.gangOf_setMe f i with h | h <;> rw [h]
  cases s.who.role <;> rfl
@[simp] theorem State.gangOf_setMe_coll (s : State) (f : Thread → Thread) (i : Nat) :
    ((s.setMe f).gangOf i).coll = (s.gangOf i).coll := by
  rcases s.gangOf_setMe f i with h | h <;> rw [h]
  cases s.who.role <;> rfl
@[simp] theorem State.gangOf_setMe_ecap (s : State) (f : Thread → Thread) (i : Nat) :
    ((s.setMe f).gangOf i).ecap = (s.gangOf i).ecap := by
  rcases s.gangOf_setMe f i with h | h <;> rw [h]
  cases s.who.role <;> rfl
@[simp] theorem State.gangOf_setMe_strip (s : State) (f : Thread → Thread) (i : Nat) :
    ((s.setMe f).gangOf i).strip = (s.gangOf i).strip := by
  rcases s.gangOf_setMe f i with h | h <;> rw [h]
  cases s.who.role <;> rfl
@[simp] theorem State.gangOf_setMe_heldGroups (s : State) (f : Thread → Thread) (i : Nat) :
    ((s.setMe f).gangOf i).heldGroups = (s.gangOf i).heldGroups := by
  rcases s.gangOf_setMe f i with h | h <;> rw [h]
  cases s.who.role <;> rfl
@[simp] theorem State.gangOf_setMe_image (s : State) (f : Thread → Thread) (i : Nat) :
    ((s.setMe f).gangOf i).image = (s.gangOf i).image := by
  rcases s.gangOf_setMe f i with h | h <;> rw [h]
  cases s.who.role <;> rfl
@[simp] theorem State.gangOf_setMe_imageLen (s : State) (f : Thread → Thread) (i : Nat) :
    ((s.setMe f).gangOf i).imageLen = (s.gangOf i).imageLen := by
  rcases s.gangOf_setMe f i with h | h <;> rw [h]
  cases s.who.role <;> rfl
@[simp] theorem State.gangOf_setMe_imageRoom (s : State) (f : Thread → Thread) (i : Nat) :
    ((s.setMe f).gangOf i).imageRoom = (s.gangOf i).imageRoom := by
  rcases s.gangOf_setMe f i with h | h <;> rw [h]
  cases s.who.role <;> rfl
@[simp] theorem State.gangOf_setMe_imageLvl (s : State) (f : Thread → Thread) (i : Nat) :
    ((s.setMe f).gangOf i).imageLvl = (s.gangOf i).imageLvl := by
  rcases s.gangOf_setMe f i with h | h <;> rw [h]
  cases s.who.role <;> rfl
@[simp] theorem State.gangOf_setMe_poolSlot (s : State) (f : Thread → Thread) (i : Nat) :
    ((s.setMe f).gangOf i).poolSlot = (s.gangOf i).poolSlot := by
  rcases s.gangOf_setMe f i with h | h <;> rw [h]
  cases s.who.role <;> rfl
@[simp] theorem State.gangOf_setMe_reason (s : State) (f : Thread → Thread) (i : Nat) :
    ((s.setMe f).gangOf i).reason = (s.gangOf i).reason := by
  rcases s.gangOf_setMe f i with h | h <;> rw [h]
  cases s.who.role <;> rfl
@[simp] theorem State.gangOf_setMe_suspOrd (s : State) (f : Thread → Thread) (i : Nat) :
    ((s.setMe f).gangOf i).suspOrd = (s.gangOf i).suspOrd := by
  rcases s.gangOf_setMe f i with h | h <;> rw [h]
  cases s.who.role <;> rfl
@[simp] theorem State.gangOf_setMe_placeOrd (s : State) (f : Thread → Thread) (i : Nat) :
    ((s.setMe f).gangOf i).placeOrd = (s.gangOf i).placeOrd := by
  rcases s.gangOf_setMe f i with h | h <;> rw [h]
  cases s.who.role <;> rfl
@[simp] theorem State.gangOf_setMe_resume (s : State) (f : Thread → Thread) (i : Nat) :
    ((s.setMe f).gangOf i).resume = (s.gangOf i).resume := by
  rcases s.gangOf_setMe f i with h | h <;> rw [h]
  cases s.who.role <;> rfl
@[simp] theorem State.gangOf_setMe_yielded (s : State) (f : Thread → Thread) (i : Nat) :
    ((s.setMe f).gangOf i).yielded = (s.gangOf i).yielded := by
  rcases s.gangOf_setMe f i with h | h <;> rw [h]
  cases s.who.role <;> rfl
@[simp] theorem State.gangOf_setMe_haltReq (s : State) (f : Thread → Thread) (i : Nat) :
    ((s.setMe f).gangOf i).haltReq = (s.gangOf i).haltReq := by
  rcases s.gangOf_setMe f i with h | h <;> rw [h]
  cases s.who.role <;> rfl
@[simp] theorem State.gangOf_setMe_bad (s : State) (f : Thread → Thread) (i : Nat) :
    ((s.setMe f).gangOf i).bad = (s.gangOf i).bad := by
  rcases s.gangOf_setMe f i with h | h <;> rw [h]
  cases s.who.role <;> rfl
@[simp] theorem State.gangOf_setMe_missRec (s : State) (f : Thread → Thread) (i : Nat) :
    ((s.setMe f).gangOf i).missRec = (s.gangOf i).missRec := by
  rcases s.gangOf_setMe f i with h | h <;> rw [h]
  cases s.who.role <;> rfl
@[simp] theorem State.gangOf_setMe_missed (s : State) (f : Thread → Thread) (i : Nat) :
    ((s.setMe f).gangOf i).missed = (s.gangOf i).missed := by
  rcases s.gangOf_setMe f i with h | h <;> rw [h]
  cases s.who.role <;> rfl

/-! Moves of an instruction whose agent exists. -/

theorem State.agent_of_live {s : State} (h : s.live = true) (k : Out) : s.agent k = k := by simp [State.agent, h]

theorem State.hart_of_onHart {s : State} (h : s.live = true) (hh : s.onHart = true) (k : Out) : s.hart k = k := by
  simp [State.hart, State.agent, h, hh]

end Sys2Proof.Machine
end

