-- ==== Sys2Proof/Laws/Retire.lean ====
section
/-! SUPPORT. What retiring, stalling and trapping do: the lemmas that statements about single instructions rest on. -/

namespace Sys2Proof.Machine

theorem Answers.intro {o : Out} {t : State} {p : State → Prop} (h : o = .next t) (hp : p t) : Answers o p := ⟨t, h, hp⟩

theorem SameBytes.refl (s : State) : SameBytes s s := ⟨fun _ => rfl, fun _ _ => rfl, fun _ _ => rfl⟩

theorem SameBytes.trans {s t u : State} (h : SameBytes s t) (k : SameBytes t u) : SameBytes s u :=
  ⟨fun a => (k.mem a).trans (h.mem a), fun i a => (k.spad i a).trans (h.spad i a), fun i a => (k.sdm i a).trans (h.sdm i a)⟩

/-- A change of the thread in execution stores nothing. -/
theorem SameBytes.setMe (s : State) (f : Thread → Thread) : SameBytes s (s.setMe f) :=
  ⟨fun _ => by simp, fun _ _ => by simp, fun _ _ => by simp⟩

theorem OnlyThread.setMe {s : State} (h : s.live = true) (f : Thread → Thread) : OnlyThread s (s.setMe f) := by
  unfold OnlyThread
  rw [State.me_setMe h]
  obtain ⟨a, t, hc, ht⟩ := State.live_iff.1 h
  obtain ⟨gi, r⟩ := a
  simp only [State.setMe, hc, State.modThread, State.modGang, State.me, ht, Option.getD_some]
  congr 1
  unfold State.thread? at ht
  cases hg : s.gangs[gi]? with
  | none => simp [hg] at ht
  | some g =>
    simp only [hg] at ht
    refine List.ext_getElem? fun j => ?_
    simp only [getElem?_modifyAt]
    split
    · rename_i hj
      subst hj
      simp only [hg, Option.map_some, Option.some.injEq]
      cases r with
      | access =>
        simp only [Gang.thread?, Option.some.injEq] at ht
        simp [Gang.modThread, ht]
      | hart n =>
        simp only [Gang.thread?] at ht
        simp only [Gang.modThread, Gang.mk.injEq, true_and, and_true]
        refine List.ext_getElem? fun k => ?_
        simp only [getElem?_modifyAt]
        split
        · rename_i hk; subst hk; simp [ht]
        · rfl
    · rfl

/-- What a change makes of the thread in execution is all that matters. -/
theorem State.setMe_congr {s : State} (h : s.live = true) {f g : Thread → Thread} (e : f s.me = g s.me) :
    s.setMe f = s.setMe g := by
  have e1 := OnlyThread.setMe h f
  have e2 := OnlyThread.setMe h g
  unfold OnlyThread at e1 e2
  rw [State.me_setMe h] at e1 e2
  rw [e1, e2, e]

/-- Retiring with one register written. -/
theorem Retires.setMe {s : State} (h : s.live = true) (d : Nat) (v pc : Word) :
    Retires s (s.setMe fun t => (t.setReg d v).retireTo pc) d v pc where
  thread := OnlyThread.setMe h _
  bytes := SameBytes.setMe _ _
  regs r := by
    rw [State.me_setMe h]
    show (Thread.setReg s.me d v).reg r = _
    rw [Thread.reg_setReg]
  rest := by
    rw [State.me_setMe h]
    unfold Thread.setReg Thread.retireTo
    split <;> rfl

theorem Retires.retWith {s : State} (h : s.live = true) (d : BitVec 6) (v : Word) :
    Answers (s.retWith d v) fun t => Retires s t d.toNat v (s.pc + 4) := by
  refine ⟨_, rfl, ?_⟩
  have := Retires.setMe h d.toNat v (s.pc + 4)
  rwa [State.setMe_congr h (g := fun t => (t.setReg d.toNat v).retire) (by
    unfold Thread.retire State.pc Thread.setReg
    split <;> rfl)] at this

/-- Retiring with no register written. -/
theorem Retires.ret {s : State} (h : s.live = true) : Finishes s.ret s 0 0 := by
  have e := Retires.setMe h 0 0 (s.pc + 4)
  rw [State.setMe_congr h (f := fun t => (t.setReg 0 0).retireTo (s.pc + 4)) (g := fun t => (id t).retire) rfl] at e
  exact ⟨_, rfl, e⟩

end Sys2Proof.Machine
end

