-- ==== Sys2Proof/Laws/Locate.lean ====
section
/-! SUPPORT. Finding the place of an access: it changes nothing but a translation cache, and what the walk
is charged. -/

namespace Sys2Proof.Machine

/-- A translation changes nothing but the cache of its agent and what a walk is charged. -/
theorem State.translate_frame {s t : State} {a : Agent} {lvl va pa : Nat} {acc : Acc}
    (h : s.translate a lvl acc va = .ok (pa, t)) : t = s ∨ ∃ l n, t = (s.cacheLeaf a l).charge a.gang 10 n := by
  have hw : ∀ {x : Leaf × State}, (match findLeaf (s.tcache a) (s.partOfCore (s.gangOf a.gang).core) va with
      | some l => some (l, s)
      | none => match s.walk (s.partOfCore (s.gangOf a.gang).core) va with
        | some l => some (l, (s.cacheLeaf a l).charge a.gang 10 l.depth)
        | none => none) = some x → x.2 = s ∨ ∃ l n, x.2 = (s.cacheLeaf a l).charge a.gang 10 n := by
    intro x hx
    split at hx
    · cases hx; exact .inl rfl
    · split at hx
      · cases hx; exact .inr ⟨_, _, rfl⟩
      · cases hx
  unfold State.translate at h
  dsimp only at h
  split at h
  · split at h
    · cases h; exact .inl rfl
    · cases h
  · split at h
    · cases h
    · rename_i l u hx
      split at h
      · cases h
      · split at h
        · cases h
        · split at h
          · cases h; exact hw hx
          · cases h

/-- An access that is placed changes nothing but the translation cache of its agent. -/
theorem State.place_frame {s t : State} {a : Agent} {lvl n al : Nat} {acc : Acc} {first : Bool} {va : Word} {p : Place}
    (h : s.place a lvl acc first va n al = .ok (p, t)) : t = s ∨ ∃ l n, t = (s.cacheLeaf a l).charge a.gang 10 n := by
  unfold State.place at h
  dsimp only at h
  split at h
  · cases h
  split at h
  · cases h
  split at h
  · repeat' split at h
    all_goals first
      | (cases h; exact .inl rfl)
      | cases h
  split at h
  · cases h
  split at h
  · cases h
    exact State.translate_frame ‹_›
  · cases h

/-- An access that passes every check changes nothing but the translation cache of its agent. -/
theorem State.locate_frame {s t : State} {a : Agent} {lvl n al : Nat} {acc : Acc} {first : Bool} {va : Word} {p : Place}
    (h : s.locate a lvl acc first va n al = .ok (p, t)) : t = s ∨ ∃ l n, t = (s.cacheLeaf a l).charge a.gang 10 n := by
  unfold State.locate at h
  split at h
  · cases h
  · rename_i hp
    split at h
    · cases h
    · cases h; exact State.place_frame hp

@[simp] theorem State.cacheLeaf_mem (s : State) (a : Agent) (l : Leaf) : (s.cacheLeaf a l).mem = s.mem := by
  unfold State.cacheLeaf; split <;> rfl
@[simp] theorem State.cacheLeaf_launches (s : State) (a : Agent) (l : Leaf) : (s.cacheLeaf a l).launches = s.launches := by
  unfold State.cacheLeaf; split <;> rfl
@[simp] theorem State.cacheLeaf_parts (s : State) (a : Agent) (l : Leaf) : (s.cacheLeaf a l).parts = s.parts := by
  unfold State.cacheLeaf; split <;> rfl
@[simp] theorem State.cacheLeaf_mod (s : State) (a : Agent) (l : Leaf) : (s.cacheLeaf a l).mod = s.mod := by
  unfold State.cacheLeaf; split <;> rfl
@[simp] theorem State.cacheLeaf_orch (s : State) (a : Agent) (l : Leaf) : (s.cacheLeaf a l).orch = s.orch := by
  unfold State.cacheLeaf; split <;> rfl
@[simp] theorem State.cacheLeaf_cur (s : State) (a : Agent) (l : Leaf) : (s.cacheLeaf a l).cur = s.cur := by
  unfold State.cacheLeaf; split <;> rfl
@[simp] theorem State.cacheLeaf_word (s : State) (a : Agent) (l : Leaf) : (s.cacheLeaf a l).word = s.word := by
  unfold State.cacheLeaf; split <;> rfl

/-- A change of any thread stores nothing. -/
theorem SameBytes.modThread (s : State) (a : Agent) (f : Thread → Thread) : SameBytes s (s.modThread a f) :=
  have h := SameBytes.setMe { s with cur := some a } f
  ⟨h.mem, h.spad, h.sdm⟩

/-- A charge stores nothing. -/
theorem SameBytes.charge (s : State) (gi k n : Nat) : SameBytes s (s.charge gi k n) := by
  unfold State.charge
  dsimp only
  split
  · exact .refl _
  · exact ⟨fun _ => rfl, fun _ _ => rfl, fun _ _ => rfl⟩

/-- A charge leaves every gang as it is. -/
theorem State.charge_gangs (s : State) (gi k n : Nat) : (s.charge gi k n).gangs = s.gangs := by
  unfold State.charge
  dsimp only
  split <;> rfl

/-- Reaching a place leaves every byte as it is. -/
theorem State.locate_sameBytes {s t : State} {a : Agent} {lvl n al : Nat} {acc : Acc} {first : Bool} {va : Word} {p : Place}
    (h : s.locate a lvl acc first va n al = .ok (p, t)) : SameBytes s t := by
  rcases State.locate_frame h with rfl | ⟨l, m, rfl⟩
  · exact SameBytes.refl _
  · refine .trans ?_ (SameBytes.charge _ _ _ _)
    unfold State.cacheLeaf
    split
    · exact SameBytes.modThread _ _ _
    · exact ⟨fun _ => rfl, fun _ _ => rfl, fun _ _ => rfl⟩

/-- An access of a hart that reaches its place leaves every gang as it is. -/
theorem State.locate_gangs {s t : State} {a : Agent} {lvl n al : Nat} {acc : Acc} {first : Bool} {va : Word} {p : Place}
    {k : Nat} (ha : a.role = .hart k) (h : s.locate a lvl acc first va n al = .ok (p, t)) : t.gangs = s.gangs := by
  rcases State.locate_frame h with rfl | ⟨l, m, rfl⟩
  · rfl
  · rw [State.charge_gangs]; unfold State.cacheLeaf; rw [ha]; rfl

end Sys2Proof.Machine
end

