-- ==== Sys2Proof/Laws/Memory.lean ====
section
/-! SUPPORT. Every operation that writes memory keeps its canonical form: runs of bytes, doublewords, blocks, copies of a
window, the repair map, and copies of a run. -/

namespace Sys2Proof.Machine

/-- A fold of steps that keep the canonical form keeps it. -/
theorem Memory.wf_foldl {α : Type} {f : Memory → α → Memory} (hf : ∀ m a, Memory.wf m = true → Memory.wf (f m a) = true) (l : List α) :
    ∀ m, Memory.wf m = true → Memory.wf (l.foldl f m) = true := by
  induction l with
  | nil => exact fun _ h => h
  | cons a l ih => exact fun m h => ih _ (hf m a h)

theorem Memory.wf_putBytes (l : List (BitVec 8)) : ∀ (m : Memory) (a : Nat), m.wf = true → (putBytes m a l).wf = true := by
  induction l with
  | nil => exact fun _ _ h => h
  | cons b l ih => exact fun m a h => ih _ _ (Sparse.wf_set (m := m) h)

theorem Memory.wf_writeBytes (l : List (Nat × BitVec 8)) :
    ∀ (m : Memory) (base : Nat), m.wf = true → (writeBytes m base l).wf = true := by
  induction l with
  | nil => exact fun _ _ h => h
  | cons b l ih => exact fun m a h => ih _ _ (Sparse.wf_set (m := m) h)

theorem Memory.wf_putDwords (l : List Nat) : ∀ (m : Memory) (off : Nat), m.wf = true → (putDwords m off l).wf = true := by
  induction l with
  | nil => exact fun _ _ h => h
  | cons b l ih => exact fun m a h => ih _ _ (Memory.wf_write h)

theorem Memory.wf_putRecords (l : List (List Nat)) :
    ∀ (m : Memory) (off : Nat), m.wf = true → (putRecords m off l).wf = true := by
  induction l with
  | nil => exact fun _ _ h => h
  | cons b l ih => exact fun m a h => ih _ _ (Memory.wf_putDwords b _ _ h)

/-- Writing blocks, one at a time. -/
theorem writeBlocks_cons (m img : Memory) (off pa : Nat) (l : List Nat) :
    writeBlocks m img off (pa :: l) = writeBlocks (m.write pa 256 (img.read off 256)) img (off + 256) l := by
  delta writeBlocks
  rfl

theorem Memory.wf_writeBlocks (img : Memory) (l : List Nat) :
    ∀ (m : Memory) (off : Nat), m.wf = true → (writeBlocks m img off l).wf = true := by
  induction l with
  | nil => exact fun _ _ h => h
  | cons b l ih =>
    intro m a h
    have h2 := ih _ (a + 256) (Memory.wf_write (a := b) (n := 256) (v := img.read a 256) h)
    exact (congrArg Memory.wf (writeBlocks_cons m img a b l)).trans h2

theorem Memory.wf_setCopy {m : Memory} (d : Word) (k e v : Nat) (h : m.wf = true) : (setCopy m d k e v).wf = true := by
  unfold setCopy
  exact Memory.wf_write (Memory.wf_write h)

theorem Memory.wf_clearBitmaps {m : Memory} (d : Word) (h : m.wf = true) : (clearBitmaps m d).wf = true := by
  unfold clearBitmaps
  exact Sparse.wf_clear h

theorem Memory.wf_freeBytes {m : Memory} (n off len : Nat) (h : m.wf = true) : (freeBytes m n off len).wf = true :=
  Memory.wf_foldl (fun m _ h => Sparse.wf_set (m := m) h) _ _ h

theorem Memory.wf_writeMap {m : Memory} (tile : Nat) (x : TileMap) (h : m.wf = true) : (writeMap m tile x).wf = true :=
  Memory.wf_foldl (fun _ _ h => Memory.wf_write h) _ _ (Memory.wf_foldl (fun _ _ h => Memory.wf_write h) _ _ h)

theorem Memory.wf_copyRun {dst : Memory} (src : Memory) (dst0 src0 n : Nat) (h : dst.wf = true) :
    (copyRun dst src dst0 src0 n).wf = true :=
  Memory.wf_foldl (fun m _ h => Sparse.wf_set (m := m) h) _ _ (Sparse.wf_clear (m := dst) h)

/-- A byte that no entry of a run names reads as before. -/
theorem Memory.get_writeBytes_other (l : List (Nat × BitVec 8)) :
    ∀ (m : Memory) (base a : Nat), (∀ b ∈ l, base + b.1 ≠ a) → Sparse.get (writeBytes m base l) a = Sparse.get m a := by
  induction l with
  | nil => exact fun _ _ _ _ => rfl
  | cons b l ih =>
    intro m base a h
    rw [writeBytes, ih _ _ _ fun x hx => h x (List.mem_cons_of_mem _ hx), Sparse.get_set,
      if_neg (Ne.symm (h b (List.mem_cons_self ..)))]

/-- Reading what putting a run of bytes leaves. -/
theorem Memory.get_putBytes (l : List (BitVec 8)) : ∀ (m : Memory) (a i : Nat),
    Sparse.get (putBytes m a l) i = if a ≤ i ∧ i < a + l.length then (l[i - a]?).getD 0 else Sparse.get m i := by
  induction l with
  | nil => intro m a i; simp [putBytes]
  | cons b l ih =>
    intro m a i
    rw [putBytes, ih, Sparse.get_set]
    by_cases h : i = a
    · subst h; simp
    · by_cases h2 : a + 1 ≤ i ∧ i < a + 1 + l.length
      · rw [if_pos h2, if_pos (by simp; omega), show i - a = (i - (a + 1)) + 1 by omega]; simp
      · rw [if_neg h2, if_neg h, if_neg (by simp; omega)]

end Sys2Proof.Machine
end

