-- ==== Sys2Proof/Laws/PerInstr.lean ====
section
/-! SUPPORT. Decoding undoes encoding, one lemma per constructor of Instr; and the laws of bit fields put together and
taken apart that they rest on. -/

namespace Sys2Proof.Laws

theorem ext_lo {k m i n : Nat} (x : BitVec k) (y : BitVec m) (h : i + n ≤ m) :
    (x ++ y).extractLsb' i n = y.extractLsb' i n := by
  ext j hj
  simp [BitVec.getLsbD_append]
  omega

theorem ext_hi {k m i n : Nat} (x : BitVec k) (y : BitVec m) (h : m ≤ i) :
    (x ++ y).extractLsb' i n = x.extractLsb' (i - m) n := by
  ext j hj
  simp only [BitVec.getElem_extractLsb', BitVec.getLsbD_append]
  rw [if_neg (by omega)]
  congr 1
  omega

theorem ext_mid {k m i p q : Nat} (x : BitVec k) (y : BitVec m) (h : i + q = m) :
    (x ++ y).extractLsb' i (p + q) = x.extractLsb' 0 p ++ y.extractLsb' i q := by
  ext j hj
  simp only [BitVec.getElem_extractLsb', BitVec.getLsbD_append, BitVec.getElem_append]
  by_cases hq : j < q
  · rw [if_pos (by omega), dif_pos hq]
  · rw [if_neg (by omega), dif_neg hq]
    congr 1
    omega

theorem app_congr {p q : Nat} {x x' : BitVec p} {y y' : BitVec q} (hx : x = x') (hy : y = y') : x ++ y = x' ++ y' := by
  rw [hx, hy]

theorem get_lo {k m i : Nat} (x : BitVec k) (y : BitVec m) (h : i < m) : (x ++ y).getLsbD i = y.getLsbD i := by
  rw [BitVec.getLsbD_append, if_pos h]

theorem get_hi {k m i : Nat} (x : BitVec k) (y : BitVec m) (h : m ≤ i) :
    (x ++ y).getLsbD i = x.getLsbD (i - m) := by
  rw [BitVec.getLsbD_append, if_neg (by omega)]

theorem ofBool_get (b : Bool) : (BitVec.ofBool b).getLsbD 0 = b := by cases b <;> rfl

theorem app_eq {k m : Nat} (x : BitVec k) (y : BitVec m) {z : BitVec (k + m)} :
    x ++ y = z ↔ x = z.extractLsb' m k ∧ y = z.extractLsb' 0 m := by
  constructor
  · rintro rfl
    exact ⟨by rw [ext_hi _ _ (Nat.le_refl m), Nat.sub_self, BitVec.extractLsb'_eq_self],
      by rw [ext_lo _ _ (by omega), BitVec.extractLsb'_eq_self]⟩
  · rintro ⟨rfl, rfl⟩
    ext j hj
    rw [BitVec.getElem_append]
    by_cases h : j < m
    · simp [h, BitVec.getLsbD_eq_getElem hj]
    · simp [h, Nat.add_sub_cancel' (Nat.le_of_not_lt h), hj]

@[simp] theorem shape_V6_L8_ext_0_2 (x0 : BitVec 6) (x1 : BitVec 8) :
    (x0 ++ x1 : BitVec 14).extractLsb' 0 2 = (x1).extractLsb' 0 2 :=
  (ext_lo (x0 : BitVec 6) (x1 : BitVec 8) (by decide)).trans (rfl)

@[simp] theorem shape_V6_L8_ext_0_5 (x0 : BitVec 6) (x1 : BitVec 8) :
    (x0 ++ x1 : BitVec 14).extractLsb' 0 5 = (x1).extractLsb' 0 5 :=
  (ext_lo (x0 : BitVec 6) (x1 : BitVec 8) (by decide)).trans (rfl)

@[simp] theorem shape_V6_L8_ext_0_8 (x0 : BitVec 6) (x1 : BitVec 8) :
    (x0 ++ x1 : BitVec 14).extractLsb' 0 8 = x1 :=
  (ext_lo (x0 : BitVec 6) (x1 : BitVec 8) (by decide)).trans (BitVec.extractLsb'_eq_self)

@[simp] theorem shape_V6_L8_ext_2_2 (x0 : BitVec 6) (x1 : BitVec 8) :
    (x0 ++ x1 : BitVec 14).extractLsb' 2 2 = (x1).extractLsb' 2 2 :=
  (ext_lo (x0 : BitVec 6) (x1 : BitVec 8) (by decide)).trans (rfl)

@[simp] theorem shape_V6_L8_ext_4_1 (x0 : BitVec 6) (x1 : BitVec 8) :
    (x0 ++ x1 : BitVec 14).extractLsb' 4 1 = (x1).extractLsb' 4 1 :=
  (ext_lo (x0 : BitVec 6) (x1 : BitVec 8) (by decide)).trans (rfl)

@[simp] theorem shape_V6_L8_ext_6_2 (x0 : BitVec 6) (x1 : BitVec 8) :
    (x0 ++ x1 : BitVec 14).extractLsb' 6 2 = (x1).extractLsb' 6 2 :=
  (ext_lo (x0 : BitVec 6) (x1 : BitVec 8) (by decide)).trans (rfl)

@[simp] theorem shape_V6_L8_ext_6_8 (x0 : BitVec 6) (x1 : BitVec 8) :
    (x0 ++ x1 : BitVec 14).extractLsb' 6 8 = (x0 ++ (x1).extractLsb' 6 2 : BitVec 8) :=
  (ext_mid (p := 6) (q := 2) (x0 : BitVec 6) (x1 : BitVec 8) (by decide)).trans (app_congr (BitVec.extractLsb'_eq_self) (rfl))

@[simp] theorem shape_V6_L8_ext_8_6 (x0 : BitVec 6) (x1 : BitVec 8) :
    (x0 ++ x1 : BitVec 14).extractLsb' 8 6 = x0 :=
  (ext_hi (x0 : BitVec 6) (x1 : BitVec 8) (by decide)).trans (BitVec.extractLsb'_eq_self)

@[simp] theorem shape_V6_L8_get_5 (x0 : BitVec 6) (x1 : BitVec 8) :
    (x0 ++ x1 : BitVec 14)[5] = x1.getLsbD 5 :=
  (get_lo (x0 : BitVec 6) (x1 : BitVec 8) (by decide)).trans (rfl)

@[simp] theorem shape_V6_L8_eq (x0 : BitVec 6) (x1 : BitVec 8) (z : BitVec 14) :
    (x0 ++ x1 : BitVec 14) = z ↔ (x0 = (z).extractLsb' 8 6 ∧ x1 = (z).extractLsb' 0 8) :=
  (app_eq (x0 : BitVec 6) (x1 : BitVec 8)).trans (and_congr (Iff.rfl) Iff.rfl)

@[simp] theorem shape_L8_V6_ext_0_6 (x0 : BitVec 8) (x1 : BitVec 6) :
    (x0 ++ x1 : BitVec 14).extractLsb' 0 6 = x1 :=
  (ext_lo (x0 : BitVec 8) (x1 : BitVec 6) (by decide)).trans (BitVec.extractLsb'_eq_self)

@[simp] theorem shape_L8_V6_ext_6_8 (x0 : BitVec 8) (x1 : BitVec 6) :
    (x0 ++ x1 : BitVec 14).extractLsb' 6 8 = x0 :=
  (ext_hi (x0 : BitVec 8) (x1 : BitVec 6) (by decide)).trans (BitVec.extractLsb'_eq_self)

@[simp] theorem shape_L8_V6_eq (x0 : BitVec 8) (x1 : BitVec 6) (z : BitVec 14) :
    (x0 ++ x1 : BitVec 14) = z ↔ (x0 = (z).extractLsb' 6 8 ∧ x1 = (z).extractLsb' 0 6) :=
  (app_eq (x0 : BitVec 8) (x1 : BitVec 6)).trans (and_congr (Iff.rfl) Iff.rfl)

@[simp] theorem shape_V6_V6_L2_ext_0_2 (x0 : BitVec 6) (x1 : BitVec 6) (x2 : BitVec 2) :
    (x0 ++ x1 ++ x2 : BitVec 14).extractLsb' 0 2 = x2 :=
  (ext_lo (x0 ++ x1 : BitVec 12) (x2 : BitVec 2) (by decide)).trans (BitVec.extractLsb'_eq_self)

@[simp] theorem shape_V6_V6_L2_ext_2_6 (x0 : BitVec 6) (x1 : BitVec 6) (x2 : BitVec 2) :
    (x0 ++ x1 ++ x2 : BitVec 14).extractLsb' 2 6 = x1 :=
  (ext_hi (x0 ++ x1 : BitVec 12) (x2 : BitVec 2) (by decide)).trans ((ext_lo (x0 : BitVec 6) (x1 : BitVec 6) (by decide)).trans (BitVec.extractLsb'_eq_self))

@[simp] theorem shape_V6_V6_L2_ext_8_6 (x0 : BitVec 6) (x1 : BitVec 6) (x2 : BitVec 2) :
    (x0 ++ x1 ++ x2 : BitVec 14).extractLsb' 8 6 = x0 :=
  (ext_hi (x0 ++ x1 : BitVec 12) (x2 : BitVec 2) (by decide)).trans ((ext_hi (x0 : BitVec 6) (x1 : BitVec 6) (by decide)).trans (BitVec.extractLsb'_eq_self))

@[simp] theorem shape_V6_V6_L2_eq (x0 : BitVec 6) (x1 : BitVec 6) (x2 : BitVec 2) (z : BitVec 14) :
    (x0 ++ x1 ++ x2 : BitVec 14) = z ↔ ((x0 = ((z).extractLsb' 2 12).extractLsb' 6 6 ∧ x1 = ((z).extractLsb' 2 12).extractLsb' 0 6) ∧ x2 = (z).extractLsb' 0 2) :=
  (app_eq (x0 ++ x1 : BitVec 12) (x2 : BitVec 2)).trans (and_congr ((app_eq (x0 : BitVec 6) (x1 : BitVec 6)).trans (and_congr (Iff.rfl) Iff.rfl)) Iff.rfl)

@[simp] theorem shape_L3_V11_ext_0_11 (x0 : BitVec 3) (x1 : BitVec 11) :
    (x0 ++ x1 : BitVec 14).extractLsb' 0 11 = x1 :=
  (ext_lo (x0 : BitVec 3) (x1 : BitVec 11) (by decide)).trans (BitVec.extractLsb'_eq_self)

@[simp] theorem shape_L3_V11_ext_11_3 (x0 : BitVec 3) (x1 : BitVec 11) :
    (x0 ++ x1 : BitVec 14).extractLsb' 11 3 = x0 :=
  (ext_hi (x0 : BitVec 3) (x1 : BitVec 11) (by decide)).trans (BitVec.extractLsb'_eq_self)

@[simp] theorem shape_L3_V11_eq (x0 : BitVec 3) (x1 : BitVec 11) (z : BitVec 14) :
    (x0 ++ x1 : BitVec 14) = z ↔ (x0 = (z).extractLsb' 11 3 ∧ x1 = (z).extractLsb' 0 11) :=
  (app_eq (x0 : BitVec 3) (x1 : BitVec 11)).trans (and_congr (Iff.rfl) Iff.rfl)

@[simp] theorem shape_L3_O1_V10_ext_0_10 (x0 : BitVec 3) (x1 : Bool) (x2 : BitVec 10) :
    (x0 ++ BitVec.ofBool x1 ++ x2 : BitVec 14).extractLsb' 0 10 = x2 :=
  (ext_lo (x0 ++ BitVec.ofBool x1 : BitVec 4) (x2 : BitVec 10) (by decide)).trans (BitVec.extractLsb'_eq_self)

@[simp] theorem shape_L3_O1_V10_ext_11_3 (x0 : BitVec 3) (x1 : Bool) (x2 : BitVec 10) :
    (x0 ++ BitVec.ofBool x1 ++ x2 : BitVec 14).extractLsb' 11 3 = x0 :=
  (ext_hi (x0 ++ BitVec.ofBool x1 : BitVec 4) (x2 : BitVec 10) (by decide)).trans ((ext_hi (x0 : BitVec 3) (BitVec.ofBool x1 : BitVec 1) (by decide)).trans (BitVec.extractLsb'_eq_self))

@[simp] theorem shape_L3_O1_V10_get_10 (x0 : BitVec 3) (x1 : Bool) (x2 : BitVec 10) :
    (x0 ++ BitVec.ofBool x1 ++ x2 : BitVec 14)[10] = x1 :=
  (get_hi (x0 ++ BitVec.ofBool x1 : BitVec 4) (x2 : BitVec 10) (by decide)).trans ((get_lo (x0 : BitVec 3) (BitVec.ofBool x1 : BitVec 1) (by decide)).trans (ofBool_get _))

@[simp] theorem shape_L3_O1_V10_eq (x0 : BitVec 3) (x1 : Bool) (x2 : BitVec 10) (z : BitVec 14) :
    (x0 ++ BitVec.ofBool x1 ++ x2 : BitVec 14) = z ↔ ((x0 = ((z).extractLsb' 10 4).extractLsb' 1 3 ∧ BitVec.ofBool x1 = ((z).extractLsb' 10 4).extractLsb' 0 1) ∧ x2 = (z).extractLsb' 0 10) :=
  (app_eq (x0 ++ BitVec.ofBool x1 : BitVec 4) (x2 : BitVec 10)).trans (and_congr ((app_eq (x0 : BitVec 3) (BitVec.ofBool x1 : BitVec 1)).trans (and_congr (Iff.rfl) Iff.rfl)) Iff.rfl)

@[simp] theorem shape_L6_V3_L5_ext_0_5 (x0 : BitVec 6) (x1 : BitVec 3) (x2 : BitVec 5) :
    (x0 ++ x1 ++ x2 : BitVec 14).extractLsb' 0 5 = x2 :=
  (ext_lo (x0 ++ x1 : BitVec 9) (x2 : BitVec 5) (by decide)).trans (BitVec.extractLsb'_eq_self)

@[simp] theorem shape_L6_V3_L5_ext_5_3 (x0 : BitVec 6) (x1 : BitVec 3) (x2 : BitVec 5) :
    (x0 ++ x1 ++ x2 : BitVec 14).extractLsb' 5 3 = x1 :=
  (ext_hi (x0 ++ x1 : BitVec 9) (x2 : BitVec 5) (by decide)).trans ((ext_lo (x0 : BitVec 6) (x1 : BitVec 3) (by decide)).trans (BitVec.extractLsb'_eq_self))

@[simp] theorem shape_L6_V3_L5_ext_8_6 (x0 : BitVec 6) (x1 : BitVec 3) (x2 : BitVec 5) :
    (x0 ++ x1 ++ x2 : BitVec 14).extractLsb' 8 6 = x0 :=
  (ext_hi (x0 ++ x1 : BitVec 9) (x2 : BitVec 5) (by decide)).trans ((ext_hi (x0 : BitVec 6) (x1 : BitVec 3) (by decide)).trans (BitVec.extractLsb'_eq_self))

@[simp] theorem shape_L6_V3_L5_eq (x0 : BitVec 6) (x1 : BitVec 3) (x2 : BitVec 5) (z : BitVec 14) :
    (x0 ++ x1 ++ x2 : BitVec 14) = z ↔ ((x0 = ((z).extractLsb' 5 9).extractLsb' 3 6 ∧ x1 = ((z).extractLsb' 5 9).extractLsb' 0 3) ∧ x2 = (z).extractLsb' 0 5) :=
  (app_eq (x0 ++ x1 : BitVec 9) (x2 : BitVec 5)).trans (and_congr ((app_eq (x0 : BitVec 6) (x1 : BitVec 3)).trans (and_congr (Iff.rfl) Iff.rfl)) Iff.rfl)

@[simp] theorem shape_V6_L4_V2_O1_O1_ext_2_2 (x0 : BitVec 6) (x1 : BitVec 4) (x2 : BitVec 2) (x3 : Bool) (x4 : Bool) :
    (x0 ++ x1 ++ x2 ++ BitVec.ofBool x3 ++ BitVec.ofBool x4 : BitVec 14).extractLsb' 2 2 = x2 :=
  (ext_hi (x0 ++ x1 ++ x2 ++ BitVec.ofBool x3 : BitVec 13) (BitVec.ofBool x4 : BitVec 1) (by decide)).trans ((ext_hi (x0 ++ x1 ++ x2 : BitVec 12) (BitVec.ofBool x3 : BitVec 1) (by decide)).trans ((ext_lo (x0 ++ x1 : BitVec 10) (x2 : BitVec 2) (by decide)).trans (BitVec.extractLsb'_eq_self)))

@[simp] theorem shape_V6_L4_V2_O1_O1_ext_4_4 (x0 : BitVec 6) (x1 : BitVec 4) (x2 : BitVec 2) (x3 : Bool) (x4 : Bool) :
    (x0 ++ x1 ++ x2 ++ BitVec.ofBool x3 ++ BitVec.ofBool x4 : BitVec 14).extractLsb' 4 4 = x1 :=
  (ext_hi (x0 ++ x1 ++ x2 ++ BitVec.ofBool x3 : BitVec 13) (BitVec.ofBool x4 : BitVec 1) (by decide)).trans ((ext_hi (x0 ++ x1 ++ x2 : BitVec 12) (BitVec.ofBool x3 : BitVec 1) (by decide)).trans ((ext_hi (x0 ++ x1 : BitVec 10) (x2 : BitVec 2) (by decide)).trans ((ext_lo (x0 : BitVec 6) (x1 : BitVec 4) (by decide)).trans (BitVec.extractLsb'_eq_self))))

@[simp] theorem shape_V6_L4_V2_O1_O1_ext_8_6 (x0 : BitVec 6) (x1 : BitVec 4) (x2 : BitVec 2) (x3 : Bool) (x4 : Bool) :
    (x0 ++ x1 ++ x2 ++ BitVec.ofBool x3 ++ BitVec.ofBool x4 : BitVec 14).extractLsb' 8 6 = x0 :=
  (ext_hi (x0 ++ x1 ++ x2 ++ BitVec.ofBool x3 : BitVec 13) (BitVec.ofBool x4 : BitVec 1) (by decide)).trans ((ext_hi (x0 ++ x1 ++ x2 : BitVec 12) (BitVec.ofBool x3 : BitVec 1) (by decide)).trans ((ext_hi (x0 ++ x1 : BitVec 10) (x2 : BitVec 2) (by decide)).trans ((ext_hi (x0 : BitVec 6) (x1 : BitVec 4) (by decide)).trans (BitVec.extractLsb'_eq_self))))

@[simp] theorem shape_V6_L4_V2_O1_O1_get_0 (x0 : BitVec 6) (x1 : BitVec 4) (x2 : BitVec 2) (x3 : Bool) (x4 : Bool) :
    (x0 ++ x1 ++ x2 ++ BitVec.ofBool x3 ++ BitVec.ofBool x4 : BitVec 14)[0] = x4 :=
  (get_lo (x0 ++ x1 ++ x2 ++ BitVec.ofBool x3 : BitVec 13) (BitVec.ofBool x4 : BitVec 1) (by decide)).trans (ofBool_get _)

@[simp] theorem shape_V6_L4_V2_O1_O1_get_1 (x0 : BitVec 6) (x1 : BitVec 4) (x2 : BitVec 2) (x3 : Bool) (x4 : Bool) :
    (x0 ++ x1 ++ x2 ++ BitVec.ofBool x3 ++ BitVec.ofBool x4 : BitVec 14)[1] = x3 :=
  (get_hi (x0 ++ x1 ++ x2 ++ BitVec.ofBool x3 : BitVec 13) (BitVec.ofBool x4 : BitVec 1) (by decide)).trans ((get_lo (x0 ++ x1 ++ x2 : BitVec 12) (BitVec.ofBool x3 : BitVec 1) (by decide)).trans (ofBool_get _))

@[simp] theorem shape_V6_L4_V2_O1_O1_eq (x0 : BitVec 6) (x1 : BitVec 4) (x2 : BitVec 2) (x3 : Bool) (x4 : Bool) (z : BitVec 14) :
    (x0 ++ x1 ++ x2 ++ BitVec.ofBool x3 ++ BitVec.ofBool x4 : BitVec 14) = z ↔ ((((x0 = ((((z).extractLsb' 1 13).extractLsb' 1 12).extractLsb' 2 10).extractLsb' 4 6 ∧ x1 = ((((z).extractLsb' 1 13).extractLsb' 1 12).extractLsb' 2 10).extractLsb' 0 4) ∧ x2 = (((z).extractLsb' 1 13).extractLsb' 1 12).extractLsb' 0 2) ∧ BitVec.ofBool x3 = ((z).extractLsb' 1 13).extractLsb' 0 1) ∧ BitVec.ofBool x4 = (z).extractLsb' 0 1) :=
  (app_eq (x0 ++ x1 ++ x2 ++ BitVec.ofBool x3 : BitVec 13) (BitVec.ofBool x4 : BitVec 1)).trans (and_congr ((app_eq (x0 ++ x1 ++ x2 : BitVec 12) (BitVec.ofBool x3 : BitVec 1)).trans (and_congr ((app_eq (x0 ++ x1 : BitVec 10) (x2 : BitVec 2)).trans (and_congr ((app_eq (x0 : BitVec 6) (x1 : BitVec 4)).trans (and_congr (Iff.rfl) Iff.rfl)) Iff.rfl)) Iff.rfl)) Iff.rfl)

@[simp] theorem shape_V3_V3_ext_0_3 (x0 : BitVec 3) (x1 : BitVec 3) :
    (x0 ++ x1 : BitVec 6).extractLsb' 0 3 = x1 :=
  (ext_lo (x0 : BitVec 3) (x1 : BitVec 3) (by decide)).trans (BitVec.extractLsb'_eq_self)

@[simp] theorem shape_V3_V3_ext_3_3 (x0 : BitVec 3) (x1 : BitVec 3) :
    (x0 ++ x1 : BitVec 6).extractLsb' 3 3 = x0 :=
  (ext_hi (x0 : BitVec 3) (x1 : BitVec 3) (by decide)).trans (BitVec.extractLsb'_eq_self)

@[simp] theorem shape_V3_V3_eq (x0 : BitVec 3) (x1 : BitVec 3) (z : BitVec 6) :
    (x0 ++ x1 : BitVec 6) = z ↔ (x0 = (z).extractLsb' 3 3 ∧ x1 = (z).extractLsb' 0 3) :=
  (app_eq (x0 : BitVec 3) (x1 : BitVec 3)).trans (and_congr (Iff.rfl) Iff.rfl)

@[simp] theorem shape_L2_V12_ext_0_12 (x0 : BitVec 2) (x1 : BitVec 12) :
    (x0 ++ x1 : BitVec 14).extractLsb' 0 12 = x1 :=
  (ext_lo (x0 : BitVec 2) (x1 : BitVec 12) (by decide)).trans (BitVec.extractLsb'_eq_self)

@[simp] theorem shape_L2_V12_ext_12_2 (x0 : BitVec 2) (x1 : BitVec 12) :
    (x0 ++ x1 : BitVec 14).extractLsb' 12 2 = x0 :=
  (ext_hi (x0 : BitVec 2) (x1 : BitVec 12) (by decide)).trans (BitVec.extractLsb'_eq_self)

@[simp] theorem shape_L2_V12_eq (x0 : BitVec 2) (x1 : BitVec 12) (z : BitVec 14) :
    (x0 ++ x1 : BitVec 14) = z ↔ (x0 = (z).extractLsb' 12 2 ∧ x1 = (z).extractLsb' 0 12) :=
  (app_eq (x0 : BitVec 2) (x1 : BitVec 12)).trans (and_congr (Iff.rfl) Iff.rfl)

@[simp] theorem shape_L4_V2_ext_0_2 (x0 : BitVec 4) (x1 : BitVec 2) :
    (x0 ++ x1 : BitVec 6).extractLsb' 0 2 = x1 :=
  (ext_lo (x0 : BitVec 4) (x1 : BitVec 2) (by decide)).trans (BitVec.extractLsb'_eq_self)

@[simp] theorem shape_L4_V2_ext_2_4 (x0 : BitVec 4) (x1 : BitVec 2) :
    (x0 ++ x1 : BitVec 6).extractLsb' 2 4 = x0 :=
  (ext_hi (x0 : BitVec 4) (x1 : BitVec 2) (by decide)).trans (BitVec.extractLsb'_eq_self)

@[simp] theorem shape_L4_V2_eq (x0 : BitVec 4) (x1 : BitVec 2) (z : BitVec 6) :
    (x0 ++ x1 : BitVec 6) = z ↔ (x0 = (z).extractLsb' 2 4 ∧ x1 = (z).extractLsb' 0 2) :=
  (app_eq (x0 : BitVec 4) (x1 : BitVec 2)).trans (and_congr (Iff.rfl) Iff.rfl)

@[simp] theorem shape_L4_O1_O1_get_0 (x0 : BitVec 4) (x1 : Bool) (x2 : Bool) :
    (x0 ++ BitVec.ofBool x1 ++ BitVec.ofBool x2 : BitVec 6)[0] = x2 :=
  (get_lo (x0 ++ BitVec.ofBool x1 : BitVec 5) (BitVec.ofBool x2 : BitVec 1) (by decide)).trans (ofBool_get _)

@[simp] theorem shape_L4_O1_O1_get_1 (x0 : BitVec 4) (x1 : Bool) (x2 : Bool) :
    (x0 ++ BitVec.ofBool x1 ++ BitVec.ofBool x2 : BitVec 6)[1] = x1 :=
  (get_hi (x0 ++ BitVec.ofBool x1 : BitVec 5) (BitVec.ofBool x2 : BitVec 1) (by decide)).trans ((get_lo (x0 : BitVec 4) (BitVec.ofBool x1 : BitVec 1) (by decide)).trans (ofBool_get _))

@[simp] theorem shape_L4_O1_O1_eq (x0 : BitVec 4) (x1 : Bool) (x2 : Bool) (z : BitVec 6) :
    (x0 ++ BitVec.ofBool x1 ++ BitVec.ofBool x2 : BitVec 6) = z ↔ ((x0 = ((z).extractLsb' 1 5).extractLsb' 1 4 ∧ BitVec.ofBool x1 = ((z).extractLsb' 1 5).extractLsb' 0 1) ∧ BitVec.ofBool x2 = (z).extractLsb' 0 1) :=
  (app_eq (x0 ++ BitVec.ofBool x1 : BitVec 5) (BitVec.ofBool x2 : BitVec 1)).trans (and_congr ((app_eq (x0 : BitVec 4) (BitVec.ofBool x1 : BitVec 1)).trans (and_congr (Iff.rfl) Iff.rfl)) Iff.rfl)

@[simp] theorem shape_V6_O1_O1_O1_L5_ext_0_5 (x0 : BitVec 6) (x1 : Bool) (x2 : Bool) (x3 : Bool) (x4 : BitVec 5) :
    (x0 ++ BitVec.ofBool x1 ++ BitVec.ofBool x2 ++ BitVec.ofBool x3 ++ x4 : BitVec 14).extractLsb' 0 5 = x4 :=
  (ext_lo (x0 ++ BitVec.ofBool x1 ++ BitVec.ofBool x2 ++ BitVec.ofBool x3 : BitVec 9) (x4 : BitVec 5) (by decide)).trans (BitVec.extractLsb'_eq_self)

@[simp] theorem shape_V6_O1_O1_O1_L5_ext_8_6 (x0 : BitVec 6) (x1 : Bool) (x2 : Bool) (x3 : Bool) (x4 : BitVec 5) :
    (x0 ++ BitVec.ofBool x1 ++ BitVec.ofBool x2 ++ BitVec.ofBool x3 ++ x4 : BitVec 14).extractLsb' 8 6 = x0 :=
  (ext_hi (x0 ++ BitVec.ofBool x1 ++ BitVec.ofBool x2 ++ BitVec.ofBool x3 : BitVec 9) (x4 : BitVec 5) (by decide)).trans ((ext_hi (x0 ++ BitVec.ofBool x1 ++ BitVec.ofBool x2 : BitVec 8) (BitVec.ofBool x3 : BitVec 1) (by decide)).trans ((ext_hi (x0 ++ BitVec.ofBool x1 : BitVec 7) (BitVec.ofBool x2 : BitVec 1) (by decide)).trans ((ext_hi (x0 : BitVec 6) (BitVec.ofBool x1 : BitVec 1) (by decide)).trans (BitVec.extractLsb'_eq_self))))

@[simp] theorem shape_V6_O1_O1_O1_L5_get_5 (x0 : BitVec 6) (x1 : Bool) (x2 : Bool) (x3 : Bool) (x4 : BitVec 5) :
    (x0 ++ BitVec.ofBool x1 ++ BitVec.ofBool x2 ++ BitVec.ofBool x3 ++ x4 : BitVec 14)[5] = x3 :=
  (get_hi (x0 ++ BitVec.ofBool x1 ++ BitVec.ofBool x2 ++ BitVec.ofBool x3 : BitVec 9) (x4 : BitVec 5) (by decide)).trans ((get_lo (x0 ++ BitVec.ofBool x1 ++ BitVec.ofBool x2 : BitVec 8) (BitVec.ofBool x3 : BitVec 1) (by decide)).trans (ofBool_get _))

@[simp] theorem shape_V6_O1_O1_O1_L5_get_6 (x0 : BitVec 6) (x1 : Bool) (x2 : Bool) (x3 : Bool) (x4 : BitVec 5) :
    (x0 ++ BitVec.ofBool x1 ++ BitVec.ofBool x2 ++ BitVec.ofBool x3 ++ x4 : BitVec 14)[6] = x2 :=
  (get_hi (x0 ++ BitVec.ofBool x1 ++ BitVec.ofBool x2 ++ BitVec.ofBool x3 : BitVec 9) (x4 : BitVec 5) (by decide)).trans ((get_hi (x0 ++ BitVec.ofBool x1 ++ BitVec.ofBool x2 : BitVec 8) (BitVec.ofBool x3 : BitVec 1) (by decide)).trans ((get_lo (x0 ++ BitVec.ofBool x1 : BitVec 7) (BitVec.ofBool x2 : BitVec 1) (by decide)).trans (ofBool_get _)))

@[simp] theorem shape_V6_O1_O1_O1_L5_get_7 (x0 : BitVec 6) (x1 : Bool) (x2 : Bool) (x3 : Bool) (x4 : BitVec 5) :
    (x0 ++ BitVec.ofBool x1 ++ BitVec.ofBool x2 ++ BitVec.ofBool x3 ++ x4 : BitVec 14)[7] = x1 :=
  (get_hi (x0 ++ BitVec.ofBool x1 ++ BitVec.ofBool x2 ++ BitVec.ofBool x3 : BitVec 9) (x4 : BitVec 5) (by decide)).trans ((get_hi (x0 ++ BitVec.ofBool x1 ++ BitVec.ofBool x2 : BitVec 8) (BitVec.ofBool x3 : BitVec 1) (by decide)).trans ((get_hi (x0 ++ BitVec.ofBool x1 : BitVec 7) (BitVec.ofBool x2 : BitVec 1) (by decide)).trans ((get_lo (x0 : BitVec 6) (BitVec.ofBool x1 : BitVec 1) (by decide)).trans (ofBool_get _))))

@[simp] theorem shape_V6_O1_O1_O1_L5_eq (x0 : BitVec 6) (x1 : Bool) (x2 : Bool) (x3 : Bool) (x4 : BitVec 5) (z : BitVec 14) :
    (x0 ++ BitVec.ofBool x1 ++ BitVec.ofBool x2 ++ BitVec.ofBool x3 ++ x4 : BitVec 14) = z ↔ ((((x0 = ((((z).extractLsb' 5 9).extractLsb' 1 8).extractLsb' 1 7).extractLsb' 1 6 ∧ BitVec.ofBool x1 = ((((z).extractLsb' 5 9).extractLsb' 1 8).extractLsb' 1 7).extractLsb' 0 1) ∧ BitVec.ofBool x2 = (((z).extractLsb' 5 9).extractLsb' 1 8).extractLsb' 0 1) ∧ BitVec.ofBool x3 = ((z).extractLsb' 5 9).extractLsb' 0 1) ∧ x4 = (z).extractLsb' 0 5) :=
  (app_eq (x0 ++ BitVec.ofBool x1 ++ BitVec.ofBool x2 ++ BitVec.ofBool x3 : BitVec 9) (x4 : BitVec 5)).trans (and_congr ((app_eq (x0 ++ BitVec.ofBool x1 ++ BitVec.ofBool x2 : BitVec 8) (BitVec.ofBool x3 : BitVec 1)).trans (and_congr ((app_eq (x0 ++ BitVec.ofBool x1 : BitVec 7) (BitVec.ofBool x2 : BitVec 1)).trans (and_congr ((app_eq (x0 : BitVec 6) (BitVec.ofBool x1 : BitVec 1)).trans (and_congr (Iff.rfl) Iff.rfl)) Iff.rfl)) Iff.rfl)) Iff.rfl)

@[simp] theorem shape_L6_O1_O1_O1_L5_ext_0_5 (x0 : BitVec 6) (x1 : Bool) (x2 : Bool) (x3 : Bool) (x4 : BitVec 5) :
    (x0 ++ BitVec.ofBool x1 ++ BitVec.ofBool x2 ++ BitVec.ofBool x3 ++ x4 : BitVec 14).extractLsb' 0 5 = x4 :=
  (ext_lo (x0 ++ BitVec.ofBool x1 ++ BitVec.ofBool x2 ++ BitVec.ofBool x3 : BitVec 9) (x4 : BitVec 5) (by decide)).trans (BitVec.extractLsb'_eq_self)

@[simp] theorem shape_L6_O1_O1_O1_L5_ext_8_6 (x0 : BitVec 6) (x1 : Bool) (x2 : Bool) (x3 : Bool) (x4 : BitVec 5) :
    (x0 ++ BitVec.ofBool x1 ++ BitVec.ofBool x2 ++ BitVec.ofBool x3 ++ x4 : BitVec 14).extractLsb' 8 6 = x0 :=
  (ext_hi (x0 ++ BitVec.ofBool x1 ++ BitVec.ofBool x2 ++ BitVec.ofBool x3 : BitVec 9) (x4 : BitVec 5) (by decide)).trans ((ext_hi (x0 ++ BitVec.ofBool x1 ++ BitVec.ofBool x2 : BitVec 8) (BitVec.ofBool x3 : BitVec 1) (by decide)).trans ((ext_hi (x0 ++ BitVec.ofBool x1 : BitVec 7) (BitVec.ofBool x2 : BitVec 1) (by decide)).trans ((ext_hi (x0 : BitVec 6) (BitVec.ofBool x1 : BitVec 1) (by decide)).trans (BitVec.extractLsb'_eq_self))))

@[simp] theorem shape_L6_O1_O1_O1_L5_get_5 (x0 : BitVec 6) (x1 : Bool) (x2 : Bool) (x3 : Bool) (x4 : BitVec 5) :
    (x0 ++ BitVec.ofBool x1 ++ BitVec.ofBool x2 ++ BitVec.ofBool x3 ++ x4 : BitVec 14)[5] = x3 :=
  (get_hi (x0 ++ BitVec.ofBool x1 ++ BitVec.ofBool x2 ++ BitVec.ofBool x3 : BitVec 9) (x4 : BitVec 5) (by decide)).trans ((get_lo (x0 ++ BitVec.ofBool x1 ++ BitVec.ofBool x2 : BitVec 8) (BitVec.ofBool x3 : BitVec 1) (by decide)).trans (ofBool_get _))

@[simp] theorem shape_L6_O1_O1_O1_L5_get_6 (x0 : BitVec 6) (x1 : Bool) (x2 : Bool) (x3 : Bool) (x4 : BitVec 5) :
    (x0 ++ BitVec.ofBool x1 ++ BitVec.ofBool x2 ++ BitVec.ofBool x3 ++ x4 : BitVec 14)[6] = x2 :=
  (get_hi (x0 ++ BitVec.ofBool x1 ++ BitVec.ofBool x2 ++ BitVec.ofBool x3 : BitVec 9) (x4 : BitVec 5) (by decide)).trans ((get_hi (x0 ++ BitVec.ofBool x1 ++ BitVec.ofBool x2 : BitVec 8) (BitVec.ofBool x3 : BitVec 1) (by decide)).trans ((get_lo (x0 ++ BitVec.ofBool x1 : BitVec 7) (BitVec.ofBool x2 : BitVec 1) (by decide)).trans (ofBool_get _)))

@[simp] theorem shape_L6_O1_O1_O1_L5_get_7 (x0 : BitVec 6) (x1 : Bool) (x2 : Bool) (x3 : Bool) (x4 : BitVec 5) :
    (x0 ++ BitVec.ofBool x1 ++ BitVec.ofBool x2 ++ BitVec.ofBool x3 ++ x4 : BitVec 14)[7] = x1 :=
  (get_hi (x0 ++ BitVec.ofBool x1 ++ BitVec.ofBool x2 ++ BitVec.ofBool x3 : BitVec 9) (x4 : BitVec 5) (by decide)).trans ((get_hi (x0 ++ BitVec.ofBool x1 ++ BitVec.ofBool x2 : BitVec 8) (BitVec.ofBool x3 : BitVec 1) (by decide)).trans ((get_hi (x0 ++ BitVec.ofBool x1 : BitVec 7) (BitVec.ofBool x2 : BitVec 1) (by decide)).trans ((get_lo (x0 : BitVec 6) (BitVec.ofBool x1 : BitVec 1) (by decide)).trans (ofBool_get _))))

@[simp] theorem shape_L6_O1_O1_O1_L5_eq (x0 : BitVec 6) (x1 : Bool) (x2 : Bool) (x3 : Bool) (x4 : BitVec 5) (z : BitVec 14) :
    (x0 ++ BitVec.ofBool x1 ++ BitVec.ofBool x2 ++ BitVec.ofBool x3 ++ x4 : BitVec 14) = z ↔ ((((x0 = ((((z).extractLsb' 5 9).extractLsb' 1 8).extractLsb' 1 7).extractLsb' 1 6 ∧ BitVec.ofBool x1 = ((((z).extractLsb' 5 9).extractLsb' 1 8).extractLsb' 1 7).extractLsb' 0 1) ∧ BitVec.ofBool x2 = (((z).extractLsb' 5 9).extractLsb' 1 8).extractLsb' 0 1) ∧ BitVec.ofBool x3 = ((z).extractLsb' 5 9).extractLsb' 0 1) ∧ x4 = (z).extractLsb' 0 5) :=
  (app_eq (x0 ++ BitVec.ofBool x1 ++ BitVec.ofBool x2 ++ BitVec.ofBool x3 : BitVec 9) (x4 : BitVec 5)).trans (and_congr ((app_eq (x0 ++ BitVec.ofBool x1 ++ BitVec.ofBool x2 : BitVec 8) (BitVec.ofBool x3 : BitVec 1)).trans (and_congr ((app_eq (x0 ++ BitVec.ofBool x1 : BitVec 7) (BitVec.ofBool x2 : BitVec 1)).trans (and_congr ((app_eq (x0 : BitVec 6) (BitVec.ofBool x1 : BitVec 1)).trans (and_congr (Iff.rfl) Iff.rfl)) Iff.rfl)) Iff.rfl)) Iff.rfl)

@[simp] theorem shape_L5_O1_get_0 (x0 : BitVec 5) (x1 : Bool) :
    (x0 ++ BitVec.ofBool x1 : BitVec 6)[0] = x1 :=
  (get_lo (x0 : BitVec 5) (BitVec.ofBool x1 : BitVec 1) (by decide)).trans (ofBool_get _)

@[simp] theorem shape_L5_O1_eq (x0 : BitVec 5) (x1 : Bool) (z : BitVec 6) :
    (x0 ++ BitVec.ofBool x1 : BitVec 6) = z ↔ (x0 = (z).extractLsb' 1 5 ∧ BitVec.ofBool x1 = (z).extractLsb' 0 1) :=
  (app_eq (x0 : BitVec 5) (BitVec.ofBool x1 : BitVec 1)).trans (and_congr (Iff.rfl) Iff.rfl)

@[simp] theorem shape_V6_L2_O1_O1_L4_ext_0_4 (x0 : BitVec 6) (x1 : BitVec 2) (x2 : Bool) (x3 : Bool) (x4 : BitVec 4) :
    (x0 ++ x1 ++ BitVec.ofBool x2 ++ BitVec.ofBool x3 ++ x4 : BitVec 14).extractLsb' 0 4 = x4 :=
  (ext_lo (x0 ++ x1 ++ BitVec.ofBool x2 ++ BitVec.ofBool x3 : BitVec 10) (x4 : BitVec 4) (by decide)).trans (BitVec.extractLsb'_eq_self)

@[simp] theorem shape_V6_L2_O1_O1_L4_ext_6_2 (x0 : BitVec 6) (x1 : BitVec 2) (x2 : Bool) (x3 : Bool) (x4 : BitVec 4) :
    (x0 ++ x1 ++ BitVec.ofBool x2 ++ BitVec.ofBool x3 ++ x4 : BitVec 14).extractLsb' 6 2 = x1 :=
  (ext_hi (x0 ++ x1 ++ BitVec.ofBool x2 ++ BitVec.ofBool x3 : BitVec 10) (x4 : BitVec 4) (by decide)).trans ((ext_hi (x0 ++ x1 ++ BitVec.ofBool x2 : BitVec 9) (BitVec.ofBool x3 : BitVec 1) (by decide)).trans ((ext_hi (x0 ++ x1 : BitVec 8) (BitVec.ofBool x2 : BitVec 1) (by decide)).trans ((ext_lo (x0 : BitVec 6) (x1 : BitVec 2) (by decide)).trans (BitVec.extractLsb'_eq_self))))

@[simp] theorem shape_V6_L2_O1_O1_L4_ext_8_6 (x0 : BitVec 6) (x1 : BitVec 2) (x2 : Bool) (x3 : Bool) (x4 : BitVec 4) :
    (x0 ++ x1 ++ BitVec.ofBool x2 ++ BitVec.ofBool x3 ++ x4 : BitVec 14).extractLsb' 8 6 = x0 :=
  (ext_hi (x0 ++ x1 ++ BitVec.ofBool x2 ++ BitVec.ofBool x3 : BitVec 10) (x4 : BitVec 4) (by decide)).trans ((ext_hi (x0 ++ x1 ++ BitVec.ofBool x2 : BitVec 9) (BitVec.ofBool x3 : BitVec 1) (by decide)).trans ((ext_hi (x0 ++ x1 : BitVec 8) (BitVec.ofBool x2 : BitVec 1) (by decide)).trans ((ext_hi (x0 : BitVec 6) (x1 : BitVec 2) (by decide)).trans (BitVec.extractLsb'_eq_self))))

@[simp] theorem shape_V6_L2_O1_O1_L4_get_4 (x0 : BitVec 6) (x1 : BitVec 2) (x2 : Bool) (x3 : Bool) (x4 : BitVec 4) :
    (x0 ++ x1 ++ BitVec.ofBool x2 ++ BitVec.ofBool x3 ++ x4 : BitVec 14)[4] = x3 :=
  (get_hi (x0 ++ x1 ++ BitVec.ofBool x2 ++ BitVec.ofBool x3 : BitVec 10) (x4 : BitVec 4) (by decide)).trans ((get_lo (x0 ++ x1 ++ BitVec.ofBool x2 : BitVec 9) (BitVec.ofBool x3 : BitVec 1) (by decide)).trans (ofBool_get _))

@[simp] theorem shape_V6_L2_O1_O1_L4_get_5 (x0 : BitVec 6) (x1 : BitVec 2) (x2 : Bool) (x3 : Bool) (x4 : BitVec 4) :
    (x0 ++ x1 ++ BitVec.ofBool x2 ++ BitVec.ofBool x3 ++ x4 : BitVec 14)[5] = x2 :=
  (get_hi (x0 ++ x1 ++ BitVec.ofBool x2 ++ BitVec.ofBool x3 : BitVec 10) (x4 : BitVec 4) (by decide)).trans ((get_hi (x0 ++ x1 ++ BitVec.ofBool x2 : BitVec 9) (BitVec.ofBool x3 : BitVec 1) (by decide)).trans ((get_lo (x0 ++ x1 : BitVec 8) (BitVec.ofBool x2 : BitVec 1) (by decide)).trans (ofBool_get _)))

@[simp] theorem shape_V6_L2_O1_O1_L4_eq (x0 : BitVec 6) (x1 : BitVec 2) (x2 : Bool) (x3 : Bool) (x4 : BitVec 4) (z : BitVec 14) :
    (x0 ++ x1 ++ BitVec.ofBool x2 ++ BitVec.ofBool x3 ++ x4 : BitVec 14) = z ↔ ((((x0 = ((((z).extractLsb' 4 10).extractLsb' 1 9).extractLsb' 1 8).extractLsb' 2 6 ∧ x1 = ((((z).extractLsb' 4 10).extractLsb' 1 9).extractLsb' 1 8).extractLsb' 0 2) ∧ BitVec.ofBool x2 = (((z).extractLsb' 4 10).extractLsb' 1 9).extractLsb' 0 1) ∧ BitVec.ofBool x3 = ((z).extractLsb' 4 10).extractLsb' 0 1) ∧ x4 = (z).extractLsb' 0 4) :=
  (app_eq (x0 ++ x1 ++ BitVec.ofBool x2 ++ BitVec.ofBool x3 : BitVec 10) (x4 : BitVec 4)).trans (and_congr ((app_eq (x0 ++ x1 ++ BitVec.ofBool x2 : BitVec 9) (BitVec.ofBool x3 : BitVec 1)).trans (and_congr ((app_eq (x0 ++ x1 : BitVec 8) (BitVec.ofBool x2 : BitVec 1)).trans (and_congr ((app_eq (x0 : BitVec 6) (x1 : BitVec 2)).trans (and_congr (Iff.rfl) Iff.rfl)) Iff.rfl)) Iff.rfl)) Iff.rfl)

@[simp] theorem shape_L7_O1_O1_V5_ext_0_5 (x0 : BitVec 7) (x1 : Bool) (x2 : Bool) (x3 : BitVec 5) :
    (x0 ++ BitVec.ofBool x1 ++ BitVec.ofBool x2 ++ x3 : BitVec 14).extractLsb' 0 5 = x3 :=
  (ext_lo (x0 ++ BitVec.ofBool x1 ++ BitVec.ofBool x2 : BitVec 9) (x3 : BitVec 5) (by decide)).trans (BitVec.extractLsb'_eq_self)

@[simp] theorem shape_L7_O1_O1_V5_ext_7_7 (x0 : BitVec 7) (x1 : Bool) (x2 : Bool) (x3 : BitVec 5) :
    (x0 ++ BitVec.ofBool x1 ++ BitVec.ofBool x2 ++ x3 : BitVec 14).extractLsb' 7 7 = x0 :=
  (ext_hi (x0 ++ BitVec.ofBool x1 ++ BitVec.ofBool x2 : BitVec 9) (x3 : BitVec 5) (by decide)).trans ((ext_hi (x0 ++ BitVec.ofBool x1 : BitVec 8) (BitVec.ofBool x2 : BitVec 1) (by decide)).trans ((ext_hi (x0 : BitVec 7) (BitVec.ofBool x1 : BitVec 1) (by decide)).trans (BitVec.extractLsb'_eq_self)))

@[simp] theorem shape_L7_O1_O1_V5_get_5 (x0 : BitVec 7) (x1 : Bool) (x2 : Bool) (x3 : BitVec 5) :
    (x0 ++ BitVec.ofBool x1 ++ BitVec.ofBool x2 ++ x3 : BitVec 14)[5] = x2 :=
  (get_hi (x0 ++ BitVec.ofBool x1 ++ BitVec.ofBool x2 : BitVec 9) (x3 : BitVec 5) (by decide)).trans ((get_lo (x0 ++ BitVec.ofBool x1 : BitVec 8) (BitVec.ofBool x2 : BitVec 1) (by decide)).trans (ofBool_get _))

@[simp] theorem shape_L7_O1_O1_V5_get_6 (x0 : BitVec 7) (x1 : Bool) (x2 : Bool) (x3 : BitVec 5) :
    (x0 ++ BitVec.ofBool x1 ++ BitVec.ofBool x2 ++ x3 : BitVec 14)[6] = x1 :=
  (get_hi (x0 ++ BitVec.ofBool x1 ++ BitVec.ofBool x2 : BitVec 9) (x3 : BitVec 5) (by decide)).trans ((get_hi (x0 ++ BitVec.ofBool x1 : BitVec 8) (BitVec.ofBool x2 : BitVec 1) (by decide)).trans ((get_lo (x0 : BitVec 7) (BitVec.ofBool x1 : BitVec 1) (by decide)).trans (ofBool_get _)))

@[simp] theorem shape_L7_O1_O1_V5_eq (x0 : BitVec 7) (x1 : Bool) (x2 : Bool) (x3 : BitVec 5) (z : BitVec 14) :
    (x0 ++ BitVec.ofBool x1 ++ BitVec.ofBool x2 ++ x3 : BitVec 14) = z ↔ (((x0 = (((z).extractLsb' 5 9).extractLsb' 1 8).extractLsb' 1 7 ∧ BitVec.ofBool x1 = (((z).extractLsb' 5 9).extractLsb' 1 8).extractLsb' 0 1) ∧ BitVec.ofBool x2 = ((z).extractLsb' 5 9).extractLsb' 0 1) ∧ x3 = (z).extractLsb' 0 5) :=
  (app_eq (x0 ++ BitVec.ofBool x1 ++ BitVec.ofBool x2 : BitVec 9) (x3 : BitVec 5)).trans (and_congr ((app_eq (x0 ++ BitVec.ofBool x1 : BitVec 8) (BitVec.ofBool x2 : BitVec 1)).trans (and_congr ((app_eq (x0 : BitVec 7) (BitVec.ofBool x1 : BitVec 1)).trans (and_congr (Iff.rfl) Iff.rfl)) Iff.rfl)) Iff.rfl)

@[simp] theorem shape_V6_L2_O1_L5_ext_0_5 (x0 : BitVec 6) (x1 : BitVec 2) (x2 : Bool) (x3 : BitVec 5) :
    (x0 ++ x1 ++ BitVec.ofBool x2 ++ x3 : BitVec 14).extractLsb' 0 5 = x3 :=
  (ext_lo (x0 ++ x1 ++ BitVec.ofBool x2 : BitVec 9) (x3 : BitVec 5) (by decide)).trans (BitVec.extractLsb'_eq_self)

@[simp] theorem shape_V6_L2_O1_L5_ext_0_8 (x0 : BitVec 6) (x1 : BitVec 2) (x2 : Bool) (x3 : BitVec 5) :
    (x0 ++ x1 ++ BitVec.ofBool x2 ++ x3 : BitVec 14).extractLsb' 0 8 = ((x1 ++ BitVec.ofBool x2 : BitVec 3) ++ x3 : BitVec 8) :=
  (ext_mid (p := 3) (q := 5) (x0 ++ x1 ++ BitVec.ofBool x2 : BitVec 9) (x3 : BitVec 5) (by decide)).trans (app_congr ((ext_mid (p := 2) (q := 1) (x0 ++ x1 : BitVec 8) (BitVec.ofBool x2 : BitVec 1) (by decide)).trans (app_congr ((ext_lo (x0 : BitVec 6) (x1 : BitVec 2) (by decide)).trans (BitVec.extractLsb'_eq_self)) (BitVec.extractLsb'_eq_self))) (BitVec.extractLsb'_eq_self))

@[simp] theorem shape_V6_L2_O1_L5_ext_6_2 (x0 : BitVec 6) (x1 : BitVec 2) (x2 : Bool) (x3 : BitVec 5) :
    (x0 ++ x1 ++ BitVec.ofBool x2 ++ x3 : BitVec 14).extractLsb' 6 2 = x1 :=
  (ext_hi (x0 ++ x1 ++ BitVec.ofBool x2 : BitVec 9) (x3 : BitVec 5) (by decide)).trans ((ext_hi (x0 ++ x1 : BitVec 8) (BitVec.ofBool x2 : BitVec 1) (by decide)).trans ((ext_lo (x0 : BitVec 6) (x1 : BitVec 2) (by decide)).trans (BitVec.extractLsb'_eq_self)))

@[simp] theorem shape_V6_L2_O1_L5_ext_6_8 (x0 : BitVec 6) (x1 : BitVec 2) (x2 : Bool) (x3 : BitVec 5) :
    (x0 ++ x1 ++ BitVec.ofBool x2 ++ x3 : BitVec 14).extractLsb' 6 8 = (x0 ++ x1 : BitVec 8) :=
  (ext_hi (x0 ++ x1 ++ BitVec.ofBool x2 : BitVec 9) (x3 : BitVec 5) (by decide)).trans ((ext_hi (x0 ++ x1 : BitVec 8) (BitVec.ofBool x2 : BitVec 1) (by decide)).trans ((ext_mid (p := 6) (q := 2) (x0 : BitVec 6) (x1 : BitVec 2) (by decide)).trans (app_congr (BitVec.extractLsb'_eq_self) (BitVec.extractLsb'_eq_self))))

@[simp] theorem shape_V6_L2_O1_L5_ext_8_6 (x0 : BitVec 6) (x1 : BitVec 2) (x2 : Bool) (x3 : BitVec 5) :
    (x0 ++ x1 ++ BitVec.ofBool x2 ++ x3 : BitVec 14).extractLsb' 8 6 = x0 :=
  (ext_hi (x0 ++ x1 ++ BitVec.ofBool x2 : BitVec 9) (x3 : BitVec 5) (by decide)).trans ((ext_hi (x0 ++ x1 : BitVec 8) (BitVec.ofBool x2 : BitVec 1) (by decide)).trans ((ext_hi (x0 : BitVec 6) (x1 : BitVec 2) (by decide)).trans (BitVec.extractLsb'_eq_self)))

@[simp] theorem shape_V6_L2_O1_L5_get_5 (x0 : BitVec 6) (x1 : BitVec 2) (x2 : Bool) (x3 : BitVec 5) :
    (x0 ++ x1 ++ BitVec.ofBool x2 ++ x3 : BitVec 14)[5] = x2 :=
  (get_hi (x0 ++ x1 ++ BitVec.ofBool x2 : BitVec 9) (x3 : BitVec 5) (by decide)).trans ((get_lo (x0 ++ x1 : BitVec 8) (BitVec.ofBool x2 : BitVec 1) (by decide)).trans (ofBool_get _))

@[simp] theorem shape_V6_L2_O1_L5_eq (x0 : BitVec 6) (x1 : BitVec 2) (x2 : Bool) (x3 : BitVec 5) (z : BitVec 14) :
    (x0 ++ x1 ++ BitVec.ofBool x2 ++ x3 : BitVec 14) = z ↔ (((x0 = (((z).extractLsb' 5 9).extractLsb' 1 8).extractLsb' 2 6 ∧ x1 = (((z).extractLsb' 5 9).extractLsb' 1 8).extractLsb' 0 2) ∧ BitVec.ofBool x2 = ((z).extractLsb' 5 9).extractLsb' 0 1) ∧ x3 = (z).extractLsb' 0 5) :=
  (app_eq (x0 ++ x1 ++ BitVec.ofBool x2 : BitVec 9) (x3 : BitVec 5)).trans (and_congr ((app_eq (x0 ++ x1 : BitVec 8) (BitVec.ofBool x2 : BitVec 1)).trans (and_congr ((app_eq (x0 : BitVec 6) (x1 : BitVec 2)).trans (and_congr (Iff.rfl) Iff.rfl)) Iff.rfl)) Iff.rfl)

@[simp] theorem shape_L8_O1_L5_ext_0_2 (x0 : BitVec 8) (x1 : Bool) (x2 : BitVec 5) :
    (x0 ++ BitVec.ofBool x1 ++ x2 : BitVec 14).extractLsb' 0 2 = (x2).extractLsb' 0 2 :=
  (ext_lo (x0 ++ BitVec.ofBool x1 : BitVec 9) (x2 : BitVec 5) (by decide)).trans (rfl)

@[simp] theorem shape_L8_O1_L5_ext_0_5 (x0 : BitVec 8) (x1 : Bool) (x2 : BitVec 5) :
    (x0 ++ BitVec.ofBool x1 ++ x2 : BitVec 14).extractLsb' 0 5 = x2 :=
  (ext_lo (x0 ++ BitVec.ofBool x1 : BitVec 9) (x2 : BitVec 5) (by decide)).trans (BitVec.extractLsb'_eq_self)

@[simp] theorem shape_L8_O1_L5_ext_0_8 (x0 : BitVec 8) (x1 : Bool) (x2 : BitVec 5) :
    (x0 ++ BitVec.ofBool x1 ++ x2 : BitVec 14).extractLsb' 0 8 = (((x0).extractLsb' 0 2 ++ BitVec.ofBool x1 : BitVec 3) ++ x2 : BitVec 8) :=
  (ext_mid (p := 3) (q := 5) (x0 ++ BitVec.ofBool x1 : BitVec 9) (x2 : BitVec 5) (by decide)).trans (app_congr ((ext_mid (p := 2) (q := 1) (x0 : BitVec 8) (BitVec.ofBool x1 : BitVec 1) (by decide)).trans (app_congr (rfl) (BitVec.extractLsb'_eq_self))) (BitVec.extractLsb'_eq_self))

@[simp] theorem shape_L8_O1_L5_ext_2_2 (x0 : BitVec 8) (x1 : Bool) (x2 : BitVec 5) :
    (x0 ++ BitVec.ofBool x1 ++ x2 : BitVec 14).extractLsb' 2 2 = (x2).extractLsb' 2 2 :=
  (ext_lo (x0 ++ BitVec.ofBool x1 : BitVec 9) (x2 : BitVec 5) (by decide)).trans (rfl)

@[simp] theorem shape_L8_O1_L5_ext_4_1 (x0 : BitVec 8) (x1 : Bool) (x2 : BitVec 5) :
    (x0 ++ BitVec.ofBool x1 ++ x2 : BitVec 14).extractLsb' 4 1 = (x2).extractLsb' 4 1 :=
  (ext_lo (x0 ++ BitVec.ofBool x1 : BitVec 9) (x2 : BitVec 5) (by decide)).trans (rfl)

@[simp] theorem shape_L8_O1_L5_ext_6_2 (x0 : BitVec 8) (x1 : Bool) (x2 : BitVec 5) :
    (x0 ++ BitVec.ofBool x1 ++ x2 : BitVec 14).extractLsb' 6 2 = (x0).extractLsb' 0 2 :=
  (ext_hi (x0 ++ BitVec.ofBool x1 : BitVec 9) (x2 : BitVec 5) (by decide)).trans ((ext_hi (x0 : BitVec 8) (BitVec.ofBool x1 : BitVec 1) (by decide)).trans (rfl))

@[simp] theorem shape_L8_O1_L5_ext_6_8 (x0 : BitVec 8) (x1 : Bool) (x2 : BitVec 5) :
    (x0 ++ BitVec.ofBool x1 ++ x2 : BitVec 14).extractLsb' 6 8 = x0 :=
  (ext_hi (x0 ++ BitVec.ofBool x1 : BitVec 9) (x2 : BitVec 5) (by decide)).trans ((ext_hi (x0 : BitVec 8) (BitVec.ofBool x1 : BitVec 1) (by decide)).trans (BitVec.extractLsb'_eq_self))

@[simp] theorem shape_L8_O1_L5_ext_8_6 (x0 : BitVec 8) (x1 : Bool) (x2 : BitVec 5) :
    (x0 ++ BitVec.ofBool x1 ++ x2 : BitVec 14).extractLsb' 8 6 = (x0).extractLsb' 2 6 :=
  (ext_hi (x0 ++ BitVec.ofBool x1 : BitVec 9) (x2 : BitVec 5) (by decide)).trans ((ext_hi (x0 : BitVec 8) (BitVec.ofBool x1 : BitVec 1) (by decide)).trans (rfl))

@[simp] theorem shape_L8_O1_L5_get_5 (x0 : BitVec 8) (x1 : Bool) (x2 : BitVec 5) :
    (x0 ++ BitVec.ofBool x1 ++ x2 : BitVec 14)[5] = x1 :=
  (get_hi (x0 ++ BitVec.ofBool x1 : BitVec 9) (x2 : BitVec 5) (by decide)).trans ((get_lo (x0 : BitVec 8) (BitVec.ofBool x1 : BitVec 1) (by decide)).trans (ofBool_get _))

@[simp] theorem shape_L8_O1_L5_eq (x0 : BitVec 8) (x1 : Bool) (x2 : BitVec 5) (z : BitVec 14) :
    (x0 ++ BitVec.ofBool x1 ++ x2 : BitVec 14) = z ↔ ((x0 = ((z).extractLsb' 5 9).extractLsb' 1 8 ∧ BitVec.ofBool x1 = ((z).extractLsb' 5 9).extractLsb' 0 1) ∧ x2 = (z).extractLsb' 0 5) :=
  (app_eq (x0 ++ BitVec.ofBool x1 : BitVec 9) (x2 : BitVec 5)).trans (and_congr ((app_eq (x0 : BitVec 8) (BitVec.ofBool x1 : BitVec 1)).trans (and_congr (Iff.rfl) Iff.rfl)) Iff.rfl)

@[simp] theorem shape_V6_L1_O1_O1_L5_ext_0_5 (x0 : BitVec 6) (x1 : BitVec 1) (x2 : Bool) (x3 : Bool) (x4 : BitVec 5) :
    (x0 ++ x1 ++ BitVec.ofBool x2 ++ BitVec.ofBool x3 ++ x4 : BitVec 14).extractLsb' 0 5 = x4 :=
  (ext_lo (x0 ++ x1 ++ BitVec.ofBool x2 ++ BitVec.ofBool x3 : BitVec 9) (x4 : BitVec 5) (by decide)).trans (BitVec.extractLsb'_eq_self)

@[simp] theorem shape_V6_L1_O1_O1_L5_ext_7_1 (x0 : BitVec 6) (x1 : BitVec 1) (x2 : Bool) (x3 : Bool) (x4 : BitVec 5) :
    (x0 ++ x1 ++ BitVec.ofBool x2 ++ BitVec.ofBool x3 ++ x4 : BitVec 14).extractLsb' 7 1 = x1 :=
  (ext_hi (x0 ++ x1 ++ BitVec.ofBool x2 ++ BitVec.ofBool x3 : BitVec 9) (x4 : BitVec 5) (by decide)).trans ((ext_hi (x0 ++ x1 ++ BitVec.ofBool x2 : BitVec 8) (BitVec.ofBool x3 : BitVec 1) (by decide)).trans ((ext_hi (x0 ++ x1 : BitVec 7) (BitVec.ofBool x2 : BitVec 1) (by decide)).trans ((ext_lo (x0 : BitVec 6) (x1 : BitVec 1) (by decide)).trans (BitVec.extractLsb'_eq_self))))

@[simp] theorem shape_V6_L1_O1_O1_L5_ext_7_7 (x0 : BitVec 6) (x1 : BitVec 1) (x2 : Bool) (x3 : Bool) (x4 : BitVec 5) :
    (x0 ++ x1 ++ BitVec.ofBool x2 ++ BitVec.ofBool x3 ++ x4 : BitVec 14).extractLsb' 7 7 = (x0 ++ x1 : BitVec 7) :=
  (ext_hi (x0 ++ x1 ++ BitVec.ofBool x2 ++ BitVec.ofBool x3 : BitVec 9) (x4 : BitVec 5) (by decide)).trans ((ext_hi (x0 ++ x1 ++ BitVec.ofBool x2 : BitVec 8) (BitVec.ofBool x3 : BitVec 1) (by decide)).trans ((ext_hi (x0 ++ x1 : BitVec 7) (BitVec.ofBool x2 : BitVec 1) (by decide)).trans ((ext_mid (p := 6) (q := 1) (x0 : BitVec 6) (x1 : BitVec 1) (by decide)).trans (app_congr (BitVec.extractLsb'_eq_self) (BitVec.extractLsb'_eq_self)))))

@[simp] theorem shape_V6_L1_O1_O1_L5_ext_8_6 (x0 : BitVec 6) (x1 : BitVec 1) (x2 : Bool) (x3 : Bool) (x4 : BitVec 5) :
    (x0 ++ x1 ++ BitVec.ofBool x2 ++ BitVec.ofBool x3 ++ x4 : BitVec 14).extractLsb' 8 6 = x0 :=
  (ext_hi (x0 ++ x1 ++ BitVec.ofBool x2 ++ BitVec.ofBool x3 : BitVec 9) (x4 : BitVec 5) (by decide)).trans ((ext_hi (x0 ++ x1 ++ BitVec.ofBool x2 : BitVec 8) (BitVec.ofBool x3 : BitVec 1) (by decide)).trans ((ext_hi (x0 ++ x1 : BitVec 7) (BitVec.ofBool x2 : BitVec 1) (by decide)).trans ((ext_hi (x0 : BitVec 6) (x1 : BitVec 1) (by decide)).trans (BitVec.extractLsb'_eq_self))))

@[simp] theorem shape_V6_L1_O1_O1_L5_get_5 (x0 : BitVec 6) (x1 : BitVec 1) (x2 : Bool) (x3 : Bool) (x4 : BitVec 5) :
    (x0 ++ x1 ++ BitVec.ofBool x2 ++ BitVec.ofBool x3 ++ x4 : BitVec 14)[5] = x3 :=
  (get_hi (x0 ++ x1 ++ BitVec.ofBool x2 ++ BitVec.ofBool x3 : BitVec 9) (x4 : BitVec 5) (by decide)).trans ((get_lo (x0 ++ x1 ++ BitVec.ofBool x2 : BitVec 8) (BitVec.ofBool x3 : BitVec 1) (by decide)).trans (ofBool_get _))

@[simp] theorem shape_V6_L1_O1_O1_L5_get_6 (x0 : BitVec 6) (x1 : BitVec 1) (x2 : Bool) (x3 : Bool) (x4 : BitVec 5) :
    (x0 ++ x1 ++ BitVec.ofBool x2 ++ BitVec.ofBool x3 ++ x4 : BitVec 14)[6] = x2 :=
  (get_hi (x0 ++ x1 ++ BitVec.ofBool x2 ++ BitVec.ofBool x3 : BitVec 9) (x4 : BitVec 5) (by decide)).trans ((get_hi (x0 ++ x1 ++ BitVec.ofBool x2 : BitVec 8) (BitVec.ofBool x3 : BitVec 1) (by decide)).trans ((get_lo (x0 ++ x1 : BitVec 7) (BitVec.ofBool x2 : BitVec 1) (by decide)).trans (ofBool_get _)))

@[simp] theorem shape_V6_L1_O1_O1_L5_eq (x0 : BitVec 6) (x1 : BitVec 1) (x2 : Bool) (x3 : Bool) (x4 : BitVec 5) (z : BitVec 14) :
    (x0 ++ x1 ++ BitVec.ofBool x2 ++ BitVec.ofBool x3 ++ x4 : BitVec 14) = z ↔ ((((x0 = ((((z).extractLsb' 5 9).extractLsb' 1 8).extractLsb' 1 7).extractLsb' 1 6 ∧ x1 = ((((z).extractLsb' 5 9).extractLsb' 1 8).extractLsb' 1 7).extractLsb' 0 1) ∧ BitVec.ofBool x2 = (((z).extractLsb' 5 9).extractLsb' 1 8).extractLsb' 0 1) ∧ BitVec.ofBool x3 = ((z).extractLsb' 5 9).extractLsb' 0 1) ∧ x4 = (z).extractLsb' 0 5) :=
  (app_eq (x0 ++ x1 ++ BitVec.ofBool x2 ++ BitVec.ofBool x3 : BitVec 9) (x4 : BitVec 5)).trans (and_congr ((app_eq (x0 ++ x1 ++ BitVec.ofBool x2 : BitVec 8) (BitVec.ofBool x3 : BitVec 1)).trans (and_congr ((app_eq (x0 ++ x1 : BitVec 7) (BitVec.ofBool x2 : BitVec 1)).trans (and_congr ((app_eq (x0 : BitVec 6) (x1 : BitVec 1)).trans (and_congr (Iff.rfl) Iff.rfl)) Iff.rfl)) Iff.rfl)) Iff.rfl)

@[simp] theorem shape_L7_O1_O1_L5_ext_0_5 (x0 : BitVec 7) (x1 : Bool) (x2 : Bool) (x3 : BitVec 5) :
    (x0 ++ BitVec.ofBool x1 ++ BitVec.ofBool x2 ++ x3 : BitVec 14).extractLsb' 0 5 = x3 :=
  (ext_lo (x0 ++ BitVec.ofBool x1 ++ BitVec.ofBool x2 : BitVec 9) (x3 : BitVec 5) (by decide)).trans (BitVec.extractLsb'_eq_self)

@[simp] theorem shape_L7_O1_O1_L5_ext_7_1 (x0 : BitVec 7) (x1 : Bool) (x2 : Bool) (x3 : BitVec 5) :
    (x0 ++ BitVec.ofBool x1 ++ BitVec.ofBool x2 ++ x3 : BitVec 14).extractLsb' 7 1 = (x0).extractLsb' 0 1 :=
  (ext_hi (x0 ++ BitVec.ofBool x1 ++ BitVec.ofBool x2 : BitVec 9) (x3 : BitVec 5) (by decide)).trans ((ext_hi (x0 ++ BitVec.ofBool x1 : BitVec 8) (BitVec.ofBool x2 : BitVec 1) (by decide)).trans ((ext_hi (x0 : BitVec 7) (BitVec.ofBool x1 : BitVec 1) (by decide)).trans (rfl)))

@[simp] theorem shape_L7_O1_O1_L5_ext_7_7 (x0 : BitVec 7) (x1 : Bool) (x2 : Bool) (x3 : BitVec 5) :
    (x0 ++ BitVec.ofBool x1 ++ BitVec.ofBool x2 ++ x3 : BitVec 14).extractLsb' 7 7 = x0 :=
  (ext_hi (x0 ++ BitVec.ofBool x1 ++ BitVec.ofBool x2 : BitVec 9) (x3 : BitVec 5) (by decide)).trans ((ext_hi (x0 ++ BitVec.ofBool x1 : BitVec 8) (BitVec.ofBool x2 : BitVec 1) (by decide)).trans ((ext_hi (x0 : BitVec 7) (BitVec.ofBool x1 : BitVec 1) (by decide)).trans (BitVec.extractLsb'_eq_self)))

@[simp] theorem shape_L7_O1_O1_L5_ext_8_6 (x0 : BitVec 7) (x1 : Bool) (x2 : Bool) (x3 : BitVec 5) :
    (x0 ++ BitVec.ofBool x1 ++ BitVec.ofBool x2 ++ x3 : BitVec 14).extractLsb' 8 6 = (x0).extractLsb' 1 6 :=
  (ext_hi (x0 ++ BitVec.ofBool x1 ++ BitVec.ofBool x2 : BitVec 9) (x3 : BitVec 5) (by decide)).trans ((ext_hi (x0 ++ BitVec.ofBool x1 : BitVec 8) (BitVec.ofBool x2 : BitVec 1) (by decide)).trans ((ext_hi (x0 : BitVec 7) (BitVec.ofBool x1 : BitVec 1) (by decide)).trans (rfl)))

@[simp] theorem shape_L7_O1_O1_L5_get_5 (x0 : BitVec 7) (x1 : Bool) (x2 : Bool) (x3 : BitVec 5) :
    (x0 ++ BitVec.ofBool x1 ++ BitVec.ofBool x2 ++ x3 : BitVec 14)[5] = x2 :=
  (get_hi (x0 ++ BitVec.ofBool x1 ++ BitVec.ofBool x2 : BitVec 9) (x3 : BitVec 5) (by decide)).trans ((get_lo (x0 ++ BitVec.ofBool x1 : BitVec 8) (BitVec.ofBool x2 : BitVec 1) (by decide)).trans (ofBool_get _))

@[simp] theorem shape_L7_O1_O1_L5_get_6 (x0 : BitVec 7) (x1 : Bool) (x2 : Bool) (x3 : BitVec 5) :
    (x0 ++ BitVec.ofBool x1 ++ BitVec.ofBool x2 ++ x3 : BitVec 14)[6] = x1 :=
  (get_hi (x0 ++ BitVec.ofBool x1 ++ BitVec.ofBool x2 : BitVec 9) (x3 : BitVec 5) (by decide)).trans ((get_hi (x0 ++ BitVec.ofBool x1 : BitVec 8) (BitVec.ofBool x2 : BitVec 1) (by decide)).trans ((get_lo (x0 : BitVec 7) (BitVec.ofBool x1 : BitVec 1) (by decide)).trans (ofBool_get _)))

@[simp] theorem shape_L7_O1_O1_L5_eq (x0 : BitVec 7) (x1 : Bool) (x2 : Bool) (x3 : BitVec 5) (z : BitVec 14) :
    (x0 ++ BitVec.ofBool x1 ++ BitVec.ofBool x2 ++ x3 : BitVec 14) = z ↔ (((x0 = (((z).extractLsb' 5 9).extractLsb' 1 8).extractLsb' 1 7 ∧ BitVec.ofBool x1 = (((z).extractLsb' 5 9).extractLsb' 1 8).extractLsb' 0 1) ∧ BitVec.ofBool x2 = ((z).extractLsb' 5 9).extractLsb' 0 1) ∧ x3 = (z).extractLsb' 0 5) :=
  (app_eq (x0 ++ BitVec.ofBool x1 ++ BitVec.ofBool x2 : BitVec 9) (x3 : BitVec 5)).trans (and_congr ((app_eq (x0 ++ BitVec.ofBool x1 : BitVec 8) (BitVec.ofBool x2 : BitVec 1)).trans (and_congr ((app_eq (x0 : BitVec 7) (BitVec.ofBool x1 : BitVec 1)).trans (and_congr (Iff.rfl) Iff.rfl)) Iff.rfl)) Iff.rfl)

@[simp] theorem shape_L8_O1_V5_ext_0_5 (x0 : BitVec 8) (x1 : Bool) (x2 : BitVec 5) :
    (x0 ++ BitVec.ofBool x1 ++ x2 : BitVec 14).extractLsb' 0 5 = x2 :=
  (ext_lo (x0 ++ BitVec.ofBool x1 : BitVec 9) (x2 : BitVec 5) (by decide)).trans (BitVec.extractLsb'_eq_self)

@[simp] theorem shape_L8_O1_V5_ext_6_8 (x0 : BitVec 8) (x1 : Bool) (x2 : BitVec 5) :
    (x0 ++ BitVec.ofBool x1 ++ x2 : BitVec 14).extractLsb' 6 8 = x0 :=
  (ext_hi (x0 ++ BitVec.ofBool x1 : BitVec 9) (x2 : BitVec 5) (by decide)).trans ((ext_hi (x0 : BitVec 8) (BitVec.ofBool x1 : BitVec 1) (by decide)).trans (BitVec.extractLsb'_eq_self))

@[simp] theorem shape_L8_O1_V5_get_5 (x0 : BitVec 8) (x1 : Bool) (x2 : BitVec 5) :
    (x0 ++ BitVec.ofBool x1 ++ x2 : BitVec 14)[5] = x1 :=
  (get_hi (x0 ++ BitVec.ofBool x1 : BitVec 9) (x2 : BitVec 5) (by decide)).trans ((get_lo (x0 : BitVec 8) (BitVec.ofBool x1 : BitVec 1) (by decide)).trans (ofBool_get _))

@[simp] theorem shape_L8_O1_V5_eq (x0 : BitVec 8) (x1 : Bool) (x2 : BitVec 5) (z : BitVec 14) :
    (x0 ++ BitVec.ofBool x1 ++ x2 : BitVec 14) = z ↔ ((x0 = ((z).extractLsb' 5 9).extractLsb' 1 8 ∧ BitVec.ofBool x1 = ((z).extractLsb' 5 9).extractLsb' 0 1) ∧ x2 = (z).extractLsb' 0 5) :=
  (app_eq (x0 ++ BitVec.ofBool x1 : BitVec 9) (x2 : BitVec 5)).trans (and_congr ((app_eq (x0 : BitVec 8) (BitVec.ofBool x1 : BitVec 1)).trans (and_congr (Iff.rfl) Iff.rfl)) Iff.rfl)

@[simp] theorem shape_V6_L2_O1_L1_V2_V2_ext_0_2 (x0 : BitVec 6) (x1 : BitVec 2) (x2 : Bool) (x3 : BitVec 1) (x4 : BitVec 2) (x5 : BitVec 2) :
    (x0 ++ x1 ++ BitVec.ofBool x2 ++ x3 ++ x4 ++ x5 : BitVec 14).extractLsb' 0 2 = x5 :=
  (ext_lo (x0 ++ x1 ++ BitVec.ofBool x2 ++ x3 ++ x4 : BitVec 12) (x5 : BitVec 2) (by decide)).trans (BitVec.extractLsb'_eq_self)

@[simp] theorem shape_V6_L2_O1_L1_V2_V2_ext_0_5 (x0 : BitVec 6) (x1 : BitVec 2) (x2 : Bool) (x3 : BitVec 1) (x4 : BitVec 2) (x5 : BitVec 2) :
    (x0 ++ x1 ++ BitVec.ofBool x2 ++ x3 ++ x4 ++ x5 : BitVec 14).extractLsb' 0 5 = ((x3 ++ x4 : BitVec 3) ++ x5 : BitVec 5) :=
  (ext_mid (p := 3) (q := 2) (x0 ++ x1 ++ BitVec.ofBool x2 ++ x3 ++ x4 : BitVec 12) (x5 : BitVec 2) (by decide)).trans (app_congr ((ext_mid (p := 1) (q := 2) (x0 ++ x1 ++ BitVec.ofBool x2 ++ x3 : BitVec 10) (x4 : BitVec 2) (by decide)).trans (app_congr ((ext_lo (x0 ++ x1 ++ BitVec.ofBool x2 : BitVec 9) (x3 : BitVec 1) (by decide)).trans (BitVec.extractLsb'_eq_self)) (BitVec.extractLsb'_eq_self))) (BitVec.extractLsb'_eq_self))

@[simp] theorem shape_V6_L2_O1_L1_V2_V2_ext_0_8 (x0 : BitVec 6) (x1 : BitVec 2) (x2 : Bool) (x3 : BitVec 1) (x4 : BitVec 2) (x5 : BitVec 2) :
    (x0 ++ x1 ++ BitVec.ofBool x2 ++ x3 ++ x4 ++ x5 : BitVec 14).extractLsb' 0 8 = ((((x1 ++ BitVec.ofBool x2 : BitVec 3) ++ x3 : BitVec 4) ++ x4 : BitVec 6) ++ x5 : BitVec 8) :=
  (ext_mid (p := 6) (q := 2) (x0 ++ x1 ++ BitVec.ofBool x2 ++ x3 ++ x4 : BitVec 12) (x5 : BitVec 2) (by decide)).trans (app_congr ((ext_mid (p := 4) (q := 2) (x0 ++ x1 ++ BitVec.ofBool x2 ++ x3 : BitVec 10) (x4 : BitVec 2) (by decide)).trans (app_congr ((ext_mid (p := 3) (q := 1) (x0 ++ x1 ++ BitVec.ofBool x2 : BitVec 9) (x3 : BitVec 1) (by decide)).trans (app_congr ((ext_mid (p := 2) (q := 1) (x0 ++ x1 : BitVec 8) (BitVec.ofBool x2 : BitVec 1) (by decide)).trans (app_congr ((ext_lo (x0 : BitVec 6) (x1 : BitVec 2) (by decide)).trans (BitVec.extractLsb'_eq_self)) (BitVec.extractLsb'_eq_self))) (BitVec.extractLsb'_eq_self))) (BitVec.extractLsb'_eq_self))) (BitVec.extractLsb'_eq_self))

@[simp] theorem shape_V6_L2_O1_L1_V2_V2_ext_2_2 (x0 : BitVec 6) (x1 : BitVec 2) (x2 : Bool) (x3 : BitVec 1) (x4 : BitVec 2) (x5 : BitVec 2) :
    (x0 ++ x1 ++ BitVec.ofBool x2 ++ x3 ++ x4 ++ x5 : BitVec 14).extractLsb' 2 2 = x4 :=
  (ext_hi (x0 ++ x1 ++ BitVec.ofBool x2 ++ x3 ++ x4 : BitVec 12) (x5 : BitVec 2) (by decide)).trans ((ext_lo (x0 ++ x1 ++ BitVec.ofBool x2 ++ x3 : BitVec 10) (x4 : BitVec 2) (by decide)).trans (BitVec.extractLsb'_eq_self))

@[simp] theorem shape_V6_L2_O1_L1_V2_V2_ext_4_1 (x0 : BitVec 6) (x1 : BitVec 2) (x2 : Bool) (x3 : BitVec 1) (x4 : BitVec 2) (x5 : BitVec 2) :
    (x0 ++ x1 ++ BitVec.ofBool x2 ++ x3 ++ x4 ++ x5 : BitVec 14).extractLsb' 4 1 = x3 :=
  (ext_hi (x0 ++ x1 ++ BitVec.ofBool x2 ++ x3 ++ x4 : BitVec 12) (x5 : BitVec 2) (by decide)).trans ((ext_hi (x0 ++ x1 ++ BitVec.ofBool x2 ++ x3 : BitVec 10) (x4 : BitVec 2) (by decide)).trans ((ext_lo (x0 ++ x1 ++ BitVec.ofBool x2 : BitVec 9) (x3 : BitVec 1) (by decide)).trans (BitVec.extractLsb'_eq_self)))

@[simp] theorem shape_V6_L2_O1_L1_V2_V2_ext_6_2 (x0 : BitVec 6) (x1 : BitVec 2) (x2 : Bool) (x3 : BitVec 1) (x4 : BitVec 2) (x5 : BitVec 2) :
    (x0 ++ x1 ++ BitVec.ofBool x2 ++ x3 ++ x4 ++ x5 : BitVec 14).extractLsb' 6 2 = x1 :=
  (ext_hi (x0 ++ x1 ++ BitVec.ofBool x2 ++ x3 ++ x4 : BitVec 12) (x5 : BitVec 2) (by decide)).trans ((ext_hi (x0 ++ x1 ++ BitVec.ofBool x2 ++ x3 : BitVec 10) (x4 : BitVec 2) (by decide)).trans ((ext_hi (x0 ++ x1 ++ BitVec.ofBool x2 : BitVec 9) (x3 : BitVec 1) (by decide)).trans ((ext_hi (x0 ++ x1 : BitVec 8) (BitVec.ofBool x2 : BitVec 1) (by decide)).trans ((ext_lo (x0 : BitVec 6) (x1 : BitVec 2) (by decide)).trans (BitVec.extractLsb'_eq_self)))))

@[simp] theorem shape_V6_L2_O1_L1_V2_V2_ext_6_8 (x0 : BitVec 6) (x1 : BitVec 2) (x2 : Bool) (x3 : BitVec 1) (x4 : BitVec 2) (x5 : BitVec 2) :
    (x0 ++ x1 ++ BitVec.ofBool x2 ++ x3 ++ x4 ++ x5 : BitVec 14).extractLsb' 6 8 = (x0 ++ x1 : BitVec 8) :=
  (ext_hi (x0 ++ x1 ++ BitVec.ofBool x2 ++ x3 ++ x4 : BitVec 12) (x5 : BitVec 2) (by decide)).trans ((ext_hi (x0 ++ x1 ++ BitVec.ofBool x2 ++ x3 : BitVec 10) (x4 : BitVec 2) (by decide)).trans ((ext_hi (x0 ++ x1 ++ BitVec.ofBool x2 : BitVec 9) (x3 : BitVec 1) (by decide)).trans ((ext_hi (x0 ++ x1 : BitVec 8) (BitVec.ofBool x2 : BitVec 1) (by decide)).trans ((ext_mid (p := 6) (q := 2) (x0 : BitVec 6) (x1 : BitVec 2) (by decide)).trans (app_congr (BitVec.extractLsb'_eq_self) (BitVec.extractLsb'_eq_self))))))

@[simp] theorem shape_V6_L2_O1_L1_V2_V2_ext_8_6 (x0 : BitVec 6) (x1 : BitVec 2) (x2 : Bool) (x3 : BitVec 1) (x4 : BitVec 2) (x5 : BitVec 2) :
    (x0 ++ x1 ++ BitVec.ofBool x2 ++ x3 ++ x4 ++ x5 : BitVec 14).extractLsb' 8 6 = x0 :=
  (ext_hi (x0 ++ x1 ++ BitVec.ofBool x2 ++ x3 ++ x4 : BitVec 12) (x5 : BitVec 2) (by decide)).trans ((ext_hi (x0 ++ x1 ++ BitVec.ofBool x2 ++ x3 : BitVec 10) (x4 : BitVec 2) (by decide)).trans ((ext_hi (x0 ++ x1 ++ BitVec.ofBool x2 : BitVec 9) (x3 : BitVec 1) (by decide)).trans ((ext_hi (x0 ++ x1 : BitVec 8) (BitVec.ofBool x2 : BitVec 1) (by decide)).trans ((ext_hi (x0 : BitVec 6) (x1 : BitVec 2) (by decide)).trans (BitVec.extractLsb'_eq_self)))))

@[simp] theorem shape_V6_L2_O1_L1_V2_V2_get_5 (x0 : BitVec 6) (x1 : BitVec 2) (x2 : Bool) (x3 : BitVec 1) (x4 : BitVec 2) (x5 : BitVec 2) :
    (x0 ++ x1 ++ BitVec.ofBool x2 ++ x3 ++ x4 ++ x5 : BitVec 14)[5] = x2 :=
  (get_hi (x0 ++ x1 ++ BitVec.ofBool x2 ++ x3 ++ x4 : BitVec 12) (x5 : BitVec 2) (by decide)).trans ((get_hi (x0 ++ x1 ++ BitVec.ofBool x2 ++ x3 : BitVec 10) (x4 : BitVec 2) (by decide)).trans ((get_hi (x0 ++ x1 ++ BitVec.ofBool x2 : BitVec 9) (x3 : BitVec 1) (by decide)).trans ((get_lo (x0 ++ x1 : BitVec 8) (BitVec.ofBool x2 : BitVec 1) (by decide)).trans (ofBool_get _))))

@[simp] theorem shape_V6_L2_O1_L1_V2_V2_eq (x0 : BitVec 6) (x1 : BitVec 2) (x2 : Bool) (x3 : BitVec 1) (x4 : BitVec 2) (x5 : BitVec 2) (z : BitVec 14) :
    (x0 ++ x1 ++ BitVec.ofBool x2 ++ x3 ++ x4 ++ x5 : BitVec 14) = z ↔ (((((x0 = (((((z).extractLsb' 2 12).extractLsb' 2 10).extractLsb' 1 9).extractLsb' 1 8).extractLsb' 2 6 ∧ x1 = (((((z).extractLsb' 2 12).extractLsb' 2 10).extractLsb' 1 9).extractLsb' 1 8).extractLsb' 0 2) ∧ BitVec.ofBool x2 = ((((z).extractLsb' 2 12).extractLsb' 2 10).extractLsb' 1 9).extractLsb' 0 1) ∧ x3 = (((z).extractLsb' 2 12).extractLsb' 2 10).extractLsb' 0 1) ∧ x4 = ((z).extractLsb' 2 12).extractLsb' 0 2) ∧ x5 = (z).extractLsb' 0 2) :=
  (app_eq (x0 ++ x1 ++ BitVec.ofBool x2 ++ x3 ++ x4 : BitVec 12) (x5 : BitVec 2)).trans (and_congr ((app_eq (x0 ++ x1 ++ BitVec.ofBool x2 ++ x3 : BitVec 10) (x4 : BitVec 2)).trans (and_congr ((app_eq (x0 ++ x1 ++ BitVec.ofBool x2 : BitVec 9) (x3 : BitVec 1)).trans (and_congr ((app_eq (x0 ++ x1 : BitVec 8) (BitVec.ofBool x2 : BitVec 1)).trans (and_congr ((app_eq (x0 : BitVec 6) (x1 : BitVec 2)).trans (and_congr (Iff.rfl) Iff.rfl)) Iff.rfl)) Iff.rfl)) Iff.rfl)) Iff.rfl)

@[simp] theorem shape_L9_O1_O1_O1_O1_O1_ext_5_9 (x0 : BitVec 9) (x1 : Bool) (x2 : Bool) (x3 : Bool) (x4 : Bool) (x5 : Bool) :
    (x0 ++ BitVec.ofBool x1 ++ BitVec.ofBool x2 ++ BitVec.ofBool x3 ++ BitVec.ofBool x4 ++ BitVec.ofBool x5 : BitVec 14).extractLsb' 5 9 = x0 :=
  (ext_hi (x0 ++ BitVec.ofBool x1 ++ BitVec.ofBool x2 ++ BitVec.ofBool x3 ++ BitVec.ofBool x4 : BitVec 13) (BitVec.ofBool x5 : BitVec 1) (by decide)).trans ((ext_hi (x0 ++ BitVec.ofBool x1 ++ BitVec.ofBool x2 ++ BitVec.ofBool x3 : BitVec 12) (BitVec.ofBool x4 : BitVec 1) (by decide)).trans ((ext_hi (x0 ++ BitVec.ofBool x1 ++ BitVec.ofBool x2 : BitVec 11) (BitVec.ofBool x3 : BitVec 1) (by decide)).trans ((ext_hi (x0 ++ BitVec.ofBool x1 : BitVec 10) (BitVec.ofBool x2 : BitVec 1) (by decide)).trans ((ext_hi (x0 : BitVec 9) (BitVec.ofBool x1 : BitVec 1) (by decide)).trans (BitVec.extractLsb'_eq_self)))))

@[simp] theorem shape_L9_O1_O1_O1_O1_O1_get_0 (x0 : BitVec 9) (x1 : Bool) (x2 : Bool) (x3 : Bool) (x4 : Bool) (x5 : Bool) :
    (x0 ++ BitVec.ofBool x1 ++ BitVec.ofBool x2 ++ BitVec.ofBool x3 ++ BitVec.ofBool x4 ++ BitVec.ofBool x5 : BitVec 14)[0] = x5 :=
  (get_lo (x0 ++ BitVec.ofBool x1 ++ BitVec.ofBool x2 ++ BitVec.ofBool x3 ++ BitVec.ofBool x4 : BitVec 13) (BitVec.ofBool x5 : BitVec 1) (by decide)).trans (ofBool_get _)

@[simp] theorem shape_L9_O1_O1_O1_O1_O1_get_1 (x0 : BitVec 9) (x1 : Bool) (x2 : Bool) (x3 : Bool) (x4 : Bool) (x5 : Bool) :
    (x0 ++ BitVec.ofBool x1 ++ BitVec.ofBool x2 ++ BitVec.ofBool x3 ++ BitVec.ofBool x4 ++ BitVec.ofBool x5 : BitVec 14)[1] = x4 :=
  (get_hi (x0 ++ BitVec.ofBool x1 ++ BitVec.ofBool x2 ++ BitVec.ofBool x3 ++ BitVec.ofBool x4 : BitVec 13) (BitVec.ofBool x5 : BitVec 1) (by decide)).trans ((get_lo (x0 ++ BitVec.ofBool x1 ++ BitVec.ofBool x2 ++ BitVec.ofBool x3 : BitVec 12) (BitVec.ofBool x4 : BitVec 1) (by decide)).trans (ofBool_get _))

@[simp] theorem shape_L9_O1_O1_O1_O1_O1_get_2 (x0 : BitVec 9) (x1 : Bool) (x2 : Bool) (x3 : Bool) (x4 : Bool) (x5 : Bool) :
    (x0 ++ BitVec.ofBool x1 ++ BitVec.ofBool x2 ++ BitVec.ofBool x3 ++ BitVec.ofBool x4 ++ BitVec.ofBool x5 : BitVec 14)[2] = x3 :=
  (get_hi (x0 ++ BitVec.ofBool x1 ++ BitVec.ofBool x2 ++ BitVec.ofBool x3 ++ BitVec.ofBool x4 : BitVec 13) (BitVec.ofBool x5 : BitVec 1) (by decide)).trans ((get_hi (x0 ++ BitVec.ofBool x1 ++ BitVec.ofBool x2 ++ BitVec.ofBool x3 : BitVec 12) (BitVec.ofBool x4 : BitVec 1) (by decide)).trans ((get_lo (x0 ++ BitVec.ofBool x1 ++ BitVec.ofBool x2 : BitVec 11) (BitVec.ofBool x3 : BitVec 1) (by decide)).trans (ofBool_get _)))

@[simp] theorem shape_L9_O1_O1_O1_O1_O1_get_3 (x0 : BitVec 9) (x1 : Bool) (x2 : Bool) (x3 : Bool) (x4 : Bool) (x5 : Bool) :
    (x0 ++ BitVec.ofBool x1 ++ BitVec.ofBool x2 ++ BitVec.ofBool x3 ++ BitVec.ofBool x4 ++ BitVec.ofBool x5 : BitVec 14)[3] = x2 :=
  (get_hi (x0 ++ BitVec.ofBool x1 ++ BitVec.ofBool x2 ++ BitVec.ofBool x3 ++ BitVec.ofBool x4 : BitVec 13) (BitVec.ofBool x5 : BitVec 1) (by decide)).trans ((get_hi (x0 ++ BitVec.ofBool x1 ++ BitVec.ofBool x2 ++ BitVec.ofBool x3 : BitVec 12) (BitVec.ofBool x4 : BitVec 1) (by decide)).trans ((get_hi (x0 ++ BitVec.ofBool x1 ++ BitVec.ofBool x2 : BitVec 11) (BitVec.ofBool x3 : BitVec 1) (by decide)).trans ((get_lo (x0 ++ BitVec.ofBool x1 : BitVec 10) (BitVec.ofBool x2 : BitVec 1) (by decide)).trans (ofBool_get _))))

@[simp] theorem shape_L9_O1_O1_O1_O1_O1_get_4 (x0 : BitVec 9) (x1 : Bool) (x2 : Bool) (x3 : Bool) (x4 : Bool) (x5 : Bool) :
    (x0 ++ BitVec.ofBool x1 ++ BitVec.ofBool x2 ++ BitVec.ofBool x3 ++ BitVec.ofBool x4 ++ BitVec.ofBool x5 : BitVec 14)[4] = x1 :=
  (get_hi (x0 ++ BitVec.ofBool x1 ++ BitVec.ofBool x2 ++ BitVec.ofBool x3 ++ BitVec.ofBool x4 : BitVec 13) (BitVec.ofBool x5 : BitVec 1) (by decide)).trans ((get_hi (x0 ++ BitVec.ofBool x1 ++ BitVec.ofBool x2 ++ BitVec.ofBool x3 : BitVec 12) (BitVec.ofBool x4 : BitVec 1) (by decide)).trans ((get_hi (x0 ++ BitVec.ofBool x1 ++ BitVec.ofBool x2 : BitVec 11) (BitVec.ofBool x3 : BitVec 1) (by decide)).trans ((get_hi (x0 ++ BitVec.ofBool x1 : BitVec 10) (BitVec.ofBool x2 : BitVec 1) (by decide)).trans ((get_lo (x0 : BitVec 9) (BitVec.ofBool x1 : BitVec 1) (by decide)).trans (ofBool_get _)))))

@[simp] theorem shape_L9_O1_O1_O1_O1_O1_eq (x0 : BitVec 9) (x1 : Bool) (x2 : Bool) (x3 : Bool) (x4 : Bool) (x5 : Bool) (z : BitVec 14) :
    (x0 ++ BitVec.ofBool x1 ++ BitVec.ofBool x2 ++ BitVec.ofBool x3 ++ BitVec.ofBool x4 ++ BitVec.ofBool x5 : BitVec 14) = z ↔ (((((x0 = (((((z).extractLsb' 1 13).extractLsb' 1 12).extractLsb' 1 11).extractLsb' 1 10).extractLsb' 1 9 ∧ BitVec.ofBool x1 = (((((z).extractLsb' 1 13).extractLsb' 1 12).extractLsb' 1 11).extractLsb' 1 10).extractLsb' 0 1) ∧ BitVec.ofBool x2 = ((((z).extractLsb' 1 13).extractLsb' 1 12).extractLsb' 1 11).extractLsb' 0 1) ∧ BitVec.ofBool x3 = (((z).extractLsb' 1 13).extractLsb' 1 12).extractLsb' 0 1) ∧ BitVec.ofBool x4 = ((z).extractLsb' 1 13).extractLsb' 0 1) ∧ BitVec.ofBool x5 = (z).extractLsb' 0 1) :=
  (app_eq (x0 ++ BitVec.ofBool x1 ++ BitVec.ofBool x2 ++ BitVec.ofBool x3 ++ BitVec.ofBool x4 : BitVec 13) (BitVec.ofBool x5 : BitVec 1)).trans (and_congr ((app_eq (x0 ++ BitVec.ofBool x1 ++ BitVec.ofBool x2 ++ BitVec.ofBool x3 : BitVec 12) (BitVec.ofBool x4 : BitVec 1)).trans (and_congr ((app_eq (x0 ++ BitVec.ofBool x1 ++ BitVec.ofBool x2 : BitVec 11) (BitVec.ofBool x3 : BitVec 1)).trans (and_congr ((app_eq (x0 ++ BitVec.ofBool x1 : BitVec 10) (BitVec.ofBool x2 : BitVec 1)).trans (and_congr ((app_eq (x0 : BitVec 9) (BitVec.ofBool x1 : BitVec 1)).trans (and_congr (Iff.rfl) Iff.rfl)) Iff.rfl)) Iff.rfl)) Iff.rfl)) Iff.rfl)

@[simp] theorem shape_V6_L3_O1_O1_O1_O1_O1_ext_5_3 (x0 : BitVec 6) (x1 : BitVec 3) (x2 : Bool) (x3 : Bool) (x4 : Bool) (x5 : Bool) (x6 : Bool) :
    (x0 ++ x1 ++ BitVec.ofBool x2 ++ BitVec.ofBool x3 ++ BitVec.ofBool x4 ++ BitVec.ofBool x5 ++ BitVec.ofBool x6 : BitVec 14).extractLsb' 5 3 = x1 :=
  (ext_hi (x0 ++ x1 ++ BitVec.ofBool x2 ++ BitVec.ofBool x3 ++ BitVec.ofBool x4 ++ BitVec.ofBool x5 : BitVec 13) (BitVec.ofBool x6 : BitVec 1) (by decide)).trans ((ext_hi (x0 ++ x1 ++ BitVec.ofBool x2 ++ BitVec.ofBool x3 ++ BitVec.ofBool x4 : BitVec 12) (BitVec.ofBool x5 : BitVec 1) (by decide)).trans ((ext_hi (x0 ++ x1 ++ BitVec.ofBool x2 ++ BitVec.ofBool x3 : BitVec 11) (BitVec.ofBool x4 : BitVec 1) (by decide)).trans ((ext_hi (x0 ++ x1 ++ BitVec.ofBool x2 : BitVec 10) (BitVec.ofBool x3 : BitVec 1) (by decide)).trans ((ext_hi (x0 ++ x1 : BitVec 9) (BitVec.ofBool x2 : BitVec 1) (by decide)).trans ((ext_lo (x0 : BitVec 6) (x1 : BitVec 3) (by decide)).trans (BitVec.extractLsb'_eq_self))))))

@[simp] theorem shape_V6_L3_O1_O1_O1_O1_O1_ext_8_6 (x0 : BitVec 6) (x1 : BitVec 3) (x2 : Bool) (x3 : Bool) (x4 : Bool) (x5 : Bool) (x6 : Bool) :
    (x0 ++ x1 ++ BitVec.ofBool x2 ++ BitVec.ofBool x3 ++ BitVec.ofBool x4 ++ BitVec.ofBool x5 ++ BitVec.ofBool x6 : BitVec 14).extractLsb' 8 6 = x0 :=
  (ext_hi (x0 ++ x1 ++ BitVec.ofBool x2 ++ BitVec.ofBool x3 ++ BitVec.ofBool x4 ++ BitVec.ofBool x5 : BitVec 13) (BitVec.ofBool x6 : BitVec 1) (by decide)).trans ((ext_hi (x0 ++ x1 ++ BitVec.ofBool x2 ++ BitVec.ofBool x3 ++ BitVec.ofBool x4 : BitVec 12) (BitVec.ofBool x5 : BitVec 1) (by decide)).trans ((ext_hi (x0 ++ x1 ++ BitVec.ofBool x2 ++ BitVec.ofBool x3 : BitVec 11) (BitVec.ofBool x4 : BitVec 1) (by decide)).trans ((ext_hi (x0 ++ x1 ++ BitVec.ofBool x2 : BitVec 10) (BitVec.ofBool x3 : BitVec 1) (by decide)).trans ((ext_hi (x0 ++ x1 : BitVec 9) (BitVec.ofBool x2 : BitVec 1) (by decide)).trans ((ext_hi (x0 : BitVec 6) (x1 : BitVec 3) (by decide)).trans (BitVec.extractLsb'_eq_self))))))

@[simp] theorem shape_V6_L3_O1_O1_O1_O1_O1_get_0 (x0 : BitVec 6) (x1 : BitVec 3) (x2 : Bool) (x3 : Bool) (x4 : Bool) (x5 : Bool) (x6 : Bool) :
    (x0 ++ x1 ++ BitVec.ofBool x2 ++ BitVec.ofBool x3 ++ BitVec.ofBool x4 ++ BitVec.ofBool x5 ++ BitVec.ofBool x6 : BitVec 14)[0] = x6 :=
  (get_lo (x0 ++ x1 ++ BitVec.ofBool x2 ++ BitVec.ofBool x3 ++ BitVec.ofBool x4 ++ BitVec.ofBool x5 : BitVec 13) (BitVec.ofBool x6 : BitVec 1) (by decide)).trans (ofBool_get _)

@[simp] theorem shape_V6_L3_O1_O1_O1_O1_O1_get_1 (x0 : BitVec 6) (x1 : BitVec 3) (x2 : Bool) (x3 : Bool) (x4 : Bool) (x5 : Bool) (x6 : Bool) :
    (x0 ++ x1 ++ BitVec.ofBool x2 ++ BitVec.ofBool x3 ++ BitVec.ofBool x4 ++ BitVec.ofBool x5 ++ BitVec.ofBool x6 : BitVec 14)[1] = x5 :=
  (get_hi (x0 ++ x1 ++ BitVec.ofBool x2 ++ BitVec.ofBool x3 ++ BitVec.ofBool x4 ++ BitVec.ofBool x5 : BitVec 13) (BitVec.ofBool x6 : BitVec 1) (by decide)).trans ((get_lo (x0 ++ x1 ++ BitVec.ofBool x2 ++ BitVec.ofBool x3 ++ BitVec.ofBool x4 : BitVec 12) (BitVec.ofBool x5 : BitVec 1) (by decide)).trans (ofBool_get _))

@[simp] theorem shape_V6_L3_O1_O1_O1_O1_O1_get_2 (x0 : BitVec 6) (x1 : BitVec 3) (x2 : Bool) (x3 : Bool) (x4 : Bool) (x5 : Bool) (x6 : Bool) :
    (x0 ++ x1 ++ BitVec.ofBool x2 ++ BitVec.ofBool x3 ++ BitVec.ofBool x4 ++ BitVec.ofBool x5 ++ BitVec.ofBool x6 : BitVec 14)[2] = x4 :=
  (get_hi (x0 ++ x1 ++ BitVec.ofBool x2 ++ BitVec.ofBool x3 ++ BitVec.ofBool x4 ++ BitVec.ofBool x5 : BitVec 13) (BitVec.ofBool x6 : BitVec 1) (by decide)).trans ((get_hi (x0 ++ x1 ++ BitVec.ofBool x2 ++ BitVec.ofBool x3 ++ BitVec.ofBool x4 : BitVec 12) (BitVec.ofBool x5 : BitVec 1) (by decide)).trans ((get_lo (x0 ++ x1 ++ BitVec.ofBool x2 ++ BitVec.ofBool x3 : BitVec 11) (BitVec.ofBool x4 : BitVec 1) (by decide)).trans (ofBool_get _)))

@[simp] theorem shape_V6_L3_O1_O1_O1_O1_O1_get_3 (x0 : BitVec 6) (x1 : BitVec 3) (x2 : Bool) (x3 : Bool) (x4 : Bool) (x5 : Bool) (x6 : Bool) :
    (x0 ++ x1 ++ BitVec.ofBool x2 ++ BitVec.ofBool x3 ++ BitVec.ofBool x4 ++ BitVec.ofBool x5 ++ BitVec.ofBool x6 : BitVec 14)[3] = x3 :=
  (get_hi (x0 ++ x1 ++ BitVec.ofBool x2 ++ BitVec.ofBool x3 ++ BitVec.ofBool x4 ++ BitVec.ofBool x5 : BitVec 13) (BitVec.ofBool x6 : BitVec 1) (by decide)).trans ((get_hi (x0 ++ x1 ++ BitVec.ofBool x2 ++ BitVec.ofBool x3 ++ BitVec.ofBool x4 : BitVec 12) (BitVec.ofBool x5 : BitVec 1) (by decide)).trans ((get_hi (x0 ++ x1 ++ BitVec.ofBool x2 ++ BitVec.ofBool x3 : BitVec 11) (BitVec.ofBool x4 : BitVec 1) (by decide)).trans ((get_lo (x0 ++ x1 ++ BitVec.ofBool x2 : BitVec 10) (BitVec.ofBool x3 : BitVec 1) (by decide)).trans (ofBool_get _))))

@[simp] theorem shape_V6_L3_O1_O1_O1_O1_O1_get_4 (x0 : BitVec 6) (x1 : BitVec 3) (x2 : Bool) (x3 : Bool) (x4 : Bool) (x5 : Bool) (x6 : Bool) :
    (x0 ++ x1 ++ BitVec.ofBool x2 ++ BitVec.ofBool x3 ++ BitVec.ofBool x4 ++ BitVec.ofBool x5 ++ BitVec.ofBool x6 : BitVec 14)[4] = x2 :=
  (get_hi (x0 ++ x1 ++ BitVec.ofBool x2 ++ BitVec.ofBool x3 ++ BitVec.ofBool x4 ++ BitVec.ofBool x5 : BitVec 13) (BitVec.ofBool x6 : BitVec 1) (by decide)).trans ((get_hi (x0 ++ x1 ++ BitVec.ofBool x2 ++ BitVec.ofBool x3 ++ BitVec.ofBool x4 : BitVec 12) (BitVec.ofBool x5 : BitVec 1) (by decide)).trans ((get_hi (x0 ++ x1 ++ BitVec.ofBool x2 ++ BitVec.ofBool x3 : BitVec 11) (BitVec.ofBool x4 : BitVec 1) (by decide)).trans ((get_hi (x0 ++ x1 ++ BitVec.ofBool x2 : BitVec 10) (BitVec.ofBool x3 : BitVec 1) (by decide)).trans ((get_lo (x0 ++ x1 : BitVec 9) (BitVec.ofBool x2 : BitVec 1) (by decide)).trans (ofBool_get _)))))

@[simp] theorem shape_V6_L3_O1_O1_O1_O1_O1_eq (x0 : BitVec 6) (x1 : BitVec 3) (x2 : Bool) (x3 : Bool) (x4 : Bool) (x5 : Bool) (x6 : Bool) (z : BitVec 14) :
    (x0 ++ x1 ++ BitVec.ofBool x2 ++ BitVec.ofBool x3 ++ BitVec.ofBool x4 ++ BitVec.ofBool x5 ++ BitVec.ofBool x6 : BitVec 14) = z ↔ ((((((x0 = ((((((z).extractLsb' 1 13).extractLsb' 1 12).extractLsb' 1 11).extractLsb' 1 10).extractLsb' 1 9).extractLsb' 3 6 ∧ x1 = ((((((z).extractLsb' 1 13).extractLsb' 1 12).extractLsb' 1 11).extractLsb' 1 10).extractLsb' 1 9).extractLsb' 0 3) ∧ BitVec.ofBool x2 = (((((z).extractLsb' 1 13).extractLsb' 1 12).extractLsb' 1 11).extractLsb' 1 10).extractLsb' 0 1) ∧ BitVec.ofBool x3 = ((((z).extractLsb' 1 13).extractLsb' 1 12).extractLsb' 1 11).extractLsb' 0 1) ∧ BitVec.ofBool x4 = (((z).extractLsb' 1 13).extractLsb' 1 12).extractLsb' 0 1) ∧ BitVec.ofBool x5 = ((z).extractLsb' 1 13).extractLsb' 0 1) ∧ BitVec.ofBool x6 = (z).extractLsb' 0 1) :=
  (app_eq (x0 ++ x1 ++ BitVec.ofBool x2 ++ BitVec.ofBool x3 ++ BitVec.ofBool x4 ++ BitVec.ofBool x5 : BitVec 13) (BitVec.ofBool x6 : BitVec 1)).trans (and_congr ((app_eq (x0 ++ x1 ++ BitVec.ofBool x2 ++ BitVec.ofBool x3 ++ BitVec.ofBool x4 : BitVec 12) (BitVec.ofBool x5 : BitVec 1)).trans (and_congr ((app_eq (x0 ++ x1 ++ BitVec.ofBool x2 ++ BitVec.ofBool x3 : BitVec 11) (BitVec.ofBool x4 : BitVec 1)).trans (and_congr ((app_eq (x0 ++ x1 ++ BitVec.ofBool x2 : BitVec 10) (BitVec.ofBool x3 : BitVec 1)).trans (and_congr ((app_eq (x0 ++ x1 : BitVec 9) (BitVec.ofBool x2 : BitVec 1)).trans (and_congr ((app_eq (x0 : BitVec 6) (x1 : BitVec 3)).trans (and_congr (Iff.rfl) Iff.rfl)) Iff.rfl)) Iff.rfl)) Iff.rfl)) Iff.rfl)) Iff.rfl)

@[simp] theorem shape_L10_O1_L1_O1_O1_ext_2_1 (x0 : BitVec 10) (x1 : Bool) (x2 : BitVec 1) (x3 : Bool) (x4 : Bool) :
    (x0 ++ BitVec.ofBool x1 ++ x2 ++ BitVec.ofBool x3 ++ BitVec.ofBool x4 : BitVec 14).extractLsb' 2 1 = x2 :=
  (ext_hi (x0 ++ BitVec.ofBool x1 ++ x2 ++ BitVec.ofBool x3 : BitVec 13) (BitVec.ofBool x4 : BitVec 1) (by decide)).trans ((ext_hi (x0 ++ BitVec.ofBool x1 ++ x2 : BitVec 12) (BitVec.ofBool x3 : BitVec 1) (by decide)).trans ((ext_lo (x0 ++ BitVec.ofBool x1 : BitVec 11) (x2 : BitVec 1) (by decide)).trans (BitVec.extractLsb'_eq_self)))

@[simp] theorem shape_L10_O1_L1_O1_O1_ext_4_10 (x0 : BitVec 10) (x1 : Bool) (x2 : BitVec 1) (x3 : Bool) (x4 : Bool) :
    (x0 ++ BitVec.ofBool x1 ++ x2 ++ BitVec.ofBool x3 ++ BitVec.ofBool x4 : BitVec 14).extractLsb' 4 10 = x0 :=
  (ext_hi (x0 ++ BitVec.ofBool x1 ++ x2 ++ BitVec.ofBool x3 : BitVec 13) (BitVec.ofBool x4 : BitVec 1) (by decide)).trans ((ext_hi (x0 ++ BitVec.ofBool x1 ++ x2 : BitVec 12) (BitVec.ofBool x3 : BitVec 1) (by decide)).trans ((ext_hi (x0 ++ BitVec.ofBool x1 : BitVec 11) (x2 : BitVec 1) (by decide)).trans ((ext_hi (x0 : BitVec 10) (BitVec.ofBool x1 : BitVec 1) (by decide)).trans (BitVec.extractLsb'_eq_self))))

@[simp] theorem shape_L10_O1_L1_O1_O1_get_0 (x0 : BitVec 10) (x1 : Bool) (x2 : BitVec 1) (x3 : Bool) (x4 : Bool) :
    (x0 ++ BitVec.ofBool x1 ++ x2 ++ BitVec.ofBool x3 ++ BitVec.ofBool x4 : BitVec 14)[0] = x4 :=
  (get_lo (x0 ++ BitVec.ofBool x1 ++ x2 ++ BitVec.ofBool x3 : BitVec 13) (BitVec.ofBool x4 : BitVec 1) (by decide)).trans (ofBool_get _)

@[simp] theorem shape_L10_O1_L1_O1_O1_get_1 (x0 : BitVec 10) (x1 : Bool) (x2 : BitVec 1) (x3 : Bool) (x4 : Bool) :
    (x0 ++ BitVec.ofBool x1 ++ x2 ++ BitVec.ofBool x3 ++ BitVec.ofBool x4 : BitVec 14)[1] = x3 :=
  (get_hi (x0 ++ BitVec.ofBool x1 ++ x2 ++ BitVec.ofBool x3 : BitVec 13) (BitVec.ofBool x4 : BitVec 1) (by decide)).trans ((get_lo (x0 ++ BitVec.ofBool x1 ++ x2 : BitVec 12) (BitVec.ofBool x3 : BitVec 1) (by decide)).trans (ofBool_get _))

@[simp] theorem shape_L10_O1_L1_O1_O1_get_3 (x0 : BitVec 10) (x1 : Bool) (x2 : BitVec 1) (x3 : Bool) (x4 : Bool) :
    (x0 ++ BitVec.ofBool x1 ++ x2 ++ BitVec.ofBool x3 ++ BitVec.ofBool x4 : BitVec 14)[3] = x1 :=
  (get_hi (x0 ++ BitVec.ofBool x1 ++ x2 ++ BitVec.ofBool x3 : BitVec 13) (BitVec.ofBool x4 : BitVec 1) (by decide)).trans ((get_hi (x0 ++ BitVec.ofBool x1 ++ x2 : BitVec 12) (BitVec.ofBool x3 : BitVec 1) (by decide)).trans ((get_hi (x0 ++ BitVec.ofBool x1 : BitVec 11) (x2 : BitVec 1) (by decide)).trans ((get_lo (x0 : BitVec 10) (BitVec.ofBool x1 : BitVec 1) (by decide)).trans (ofBool_get _))))

@[simp] theorem shape_L10_O1_L1_O1_O1_eq (x0 : BitVec 10) (x1 : Bool) (x2 : BitVec 1) (x3 : Bool) (x4 : Bool) (z : BitVec 14) :
    (x0 ++ BitVec.ofBool x1 ++ x2 ++ BitVec.ofBool x3 ++ BitVec.ofBool x4 : BitVec 14) = z ↔ ((((x0 = ((((z).extractLsb' 1 13).extractLsb' 1 12).extractLsb' 1 11).extractLsb' 1 10 ∧ BitVec.ofBool x1 = ((((z).extractLsb' 1 13).extractLsb' 1 12).extractLsb' 1 11).extractLsb' 0 1) ∧ x2 = (((z).extractLsb' 1 13).extractLsb' 1 12).extractLsb' 0 1) ∧ BitVec.ofBool x3 = ((z).extractLsb' 1 13).extractLsb' 0 1) ∧ BitVec.ofBool x4 = (z).extractLsb' 0 1) :=
  (app_eq (x0 ++ BitVec.ofBool x1 ++ x2 ++ BitVec.ofBool x3 : BitVec 13) (BitVec.ofBool x4 : BitVec 1)).trans (and_congr ((app_eq (x0 ++ BitVec.ofBool x1 ++ x2 : BitVec 12) (BitVec.ofBool x3 : BitVec 1)).trans (and_congr ((app_eq (x0 ++ BitVec.ofBool x1 : BitVec 11) (x2 : BitVec 1)).trans (and_congr ((app_eq (x0 : BitVec 10) (BitVec.ofBool x1 : BitVec 1)).trans (and_congr (Iff.rfl) Iff.rfl)) Iff.rfl)) Iff.rfl)) Iff.rfl)

@[simp] theorem shape_V6_L4_O1_L1_O1_O1_ext_2_1 (x0 : BitVec 6) (x1 : BitVec 4) (x2 : Bool) (x3 : BitVec 1) (x4 : Bool) (x5 : Bool) :
    (x0 ++ x1 ++ BitVec.ofBool x2 ++ x3 ++ BitVec.ofBool x4 ++ BitVec.ofBool x5 : BitVec 14).extractLsb' 2 1 = x3 :=
  (ext_hi (x0 ++ x1 ++ BitVec.ofBool x2 ++ x3 ++ BitVec.ofBool x4 : BitVec 13) (BitVec.ofBool x5 : BitVec 1) (by decide)).trans ((ext_hi (x0 ++ x1 ++ BitVec.ofBool x2 ++ x3 : BitVec 12) (BitVec.ofBool x4 : BitVec 1) (by decide)).trans ((ext_lo (x0 ++ x1 ++ BitVec.ofBool x2 : BitVec 11) (x3 : BitVec 1) (by decide)).trans (BitVec.extractLsb'_eq_self)))

@[simp] theorem shape_V6_L4_O1_L1_O1_O1_ext_4_4 (x0 : BitVec 6) (x1 : BitVec 4) (x2 : Bool) (x3 : BitVec 1) (x4 : Bool) (x5 : Bool) :
    (x0 ++ x1 ++ BitVec.ofBool x2 ++ x3 ++ BitVec.ofBool x4 ++ BitVec.ofBool x5 : BitVec 14).extractLsb' 4 4 = x1 :=
  (ext_hi (x0 ++ x1 ++ BitVec.ofBool x2 ++ x3 ++ BitVec.ofBool x4 : BitVec 13) (BitVec.ofBool x5 : BitVec 1) (by decide)).trans ((ext_hi (x0 ++ x1 ++ BitVec.ofBool x2 ++ x3 : BitVec 12) (BitVec.ofBool x4 : BitVec 1) (by decide)).trans ((ext_hi (x0 ++ x1 ++ BitVec.ofBool x2 : BitVec 11) (x3 : BitVec 1) (by decide)).trans ((ext_hi (x0 ++ x1 : BitVec 10) (BitVec.ofBool x2 : BitVec 1) (by decide)).trans ((ext_lo (x0 : BitVec 6) (x1 : BitVec 4) (by decide)).trans (BitVec.extractLsb'_eq_self)))))

@[simp] theorem shape_V6_L4_O1_L1_O1_O1_ext_8_6 (x0 : BitVec 6) (x1 : BitVec 4) (x2 : Bool) (x3 : BitVec 1) (x4 : Bool) (x5 : Bool) :
    (x0 ++ x1 ++ BitVec.ofBool x2 ++ x3 ++ BitVec.ofBool x4 ++ BitVec.ofBool x5 : BitVec 14).extractLsb' 8 6 = x0 :=
  (ext_hi (x0 ++ x1 ++ BitVec.ofBool x2 ++ x3 ++ BitVec.ofBool x4 : BitVec 13) (BitVec.ofBool x5 : BitVec 1) (by decide)).trans ((ext_hi (x0 ++ x1 ++ BitVec.ofBool x2 ++ x3 : BitVec 12) (BitVec.ofBool x4 : BitVec 1) (by decide)).trans ((ext_hi (x0 ++ x1 ++ BitVec.ofBool x2 : BitVec 11) (x3 : BitVec 1) (by decide)).trans ((ext_hi (x0 ++ x1 : BitVec 10) (BitVec.ofBool x2 : BitVec 1) (by decide)).trans ((ext_hi (x0 : BitVec 6) (x1 : BitVec 4) (by decide)).trans (BitVec.extractLsb'_eq_self)))))

@[simp] theorem shape_V6_L4_O1_L1_O1_O1_get_0 (x0 : BitVec 6) (x1 : BitVec 4) (x2 : Bool) (x3 : BitVec 1) (x4 : Bool) (x5 : Bool) :
    (x0 ++ x1 ++ BitVec.ofBool x2 ++ x3 ++ BitVec.ofBool x4 ++ BitVec.ofBool x5 : BitVec 14)[0] = x5 :=
  (get_lo (x0 ++ x1 ++ BitVec.ofBool x2 ++ x3 ++ BitVec.ofBool x4 : BitVec 13) (BitVec.ofBool x5 : BitVec 1) (by decide)).trans (ofBool_get _)

@[simp] theorem shape_V6_L4_O1_L1_O1_O1_get_1 (x0 : BitVec 6) (x1 : BitVec 4) (x2 : Bool) (x3 : BitVec 1) (x4 : Bool) (x5 : Bool) :
    (x0 ++ x1 ++ BitVec.ofBool x2 ++ x3 ++ BitVec.ofBool x4 ++ BitVec.ofBool x5 : BitVec 14)[1] = x4 :=
  (get_hi (x0 ++ x1 ++ BitVec.ofBool x2 ++ x3 ++ BitVec.ofBool x4 : BitVec 13) (BitVec.ofBool x5 : BitVec 1) (by decide)).trans ((get_lo (x0 ++ x1 ++ BitVec.ofBool x2 ++ x3 : BitVec 12) (BitVec.ofBool x4 : BitVec 1) (by decide)).trans (ofBool_get _))

@[simp] theorem shape_V6_L4_O1_L1_O1_O1_get_3 (x0 : BitVec 6) (x1 : BitVec 4) (x2 : Bool) (x3 : BitVec 1) (x4 : Bool) (x5 : Bool) :
    (x0 ++ x1 ++ BitVec.ofBool x2 ++ x3 ++ BitVec.ofBool x4 ++ BitVec.ofBool x5 : BitVec 14)[3] = x2 :=
  (get_hi (x0 ++ x1 ++ BitVec.ofBool x2 ++ x3 ++ BitVec.ofBool x4 : BitVec 13) (BitVec.ofBool x5 : BitVec 1) (by decide)).trans ((get_hi (x0 ++ x1 ++ BitVec.ofBool x2 ++ x3 : BitVec 12) (BitVec.ofBool x4 : BitVec 1) (by decide)).trans ((get_hi (x0 ++ x1 ++ BitVec.ofBool x2 : BitVec 11) (x3 : BitVec 1) (by decide)).trans ((get_lo (x0 ++ x1 : BitVec 10) (BitVec.ofBool x2 : BitVec 1) (by decide)).trans (ofBool_get _))))

@[simp] theorem shape_V6_L4_O1_L1_O1_O1_eq (x0 : BitVec 6) (x1 : BitVec 4) (x2 : Bool) (x3 : BitVec 1) (x4 : Bool) (x5 : Bool) (z : BitVec 14) :
    (x0 ++ x1 ++ BitVec.ofBool x2 ++ x3 ++ BitVec.ofBool x4 ++ BitVec.ofBool x5 : BitVec 14) = z ↔ (((((x0 = (((((z).extractLsb' 1 13).extractLsb' 1 12).extractLsb' 1 11).extractLsb' 1 10).extractLsb' 4 6 ∧ x1 = (((((z).extractLsb' 1 13).extractLsb' 1 12).extractLsb' 1 11).extractLsb' 1 10).extractLsb' 0 4) ∧ BitVec.ofBool x2 = ((((z).extractLsb' 1 13).extractLsb' 1 12).extractLsb' 1 11).extractLsb' 0 1) ∧ x3 = (((z).extractLsb' 1 13).extractLsb' 1 12).extractLsb' 0 1) ∧ BitVec.ofBool x4 = ((z).extractLsb' 1 13).extractLsb' 0 1) ∧ BitVec.ofBool x5 = (z).extractLsb' 0 1) :=
  (app_eq (x0 ++ x1 ++ BitVec.ofBool x2 ++ x3 ++ BitVec.ofBool x4 : BitVec 13) (BitVec.ofBool x5 : BitVec 1)).trans (and_congr ((app_eq (x0 ++ x1 ++ BitVec.ofBool x2 ++ x3 : BitVec 12) (BitVec.ofBool x4 : BitVec 1)).trans (and_congr ((app_eq (x0 ++ x1 ++ BitVec.ofBool x2 : BitVec 11) (x3 : BitVec 1)).trans (and_congr ((app_eq (x0 ++ x1 : BitVec 10) (BitVec.ofBool x2 : BitVec 1)).trans (and_congr ((app_eq (x0 : BitVec 6) (x1 : BitVec 4)).trans (and_congr (Iff.rfl) Iff.rfl)) Iff.rfl)) Iff.rfl)) Iff.rfl)) Iff.rfl)

@[simp] theorem shape_L2_V4_ext_0_4 (x0 : BitVec 2) (x1 : BitVec 4) :
    (x0 ++ x1 : BitVec 6).extractLsb' 0 4 = x1 :=
  (ext_lo (x0 : BitVec 2) (x1 : BitVec 4) (by decide)).trans (BitVec.extractLsb'_eq_self)

@[simp] theorem shape_L2_V4_ext_4_2 (x0 : BitVec 2) (x1 : BitVec 4) :
    (x0 ++ x1 : BitVec 6).extractLsb' 4 2 = x0 :=
  (ext_hi (x0 : BitVec 2) (x1 : BitVec 4) (by decide)).trans (BitVec.extractLsb'_eq_self)

@[simp] theorem shape_L2_V4_eq (x0 : BitVec 2) (x1 : BitVec 4) (z : BitVec 6) :
    (x0 ++ x1 : BitVec 6) = z ↔ (x0 = (z).extractLsb' 4 2 ∧ x1 = (z).extractLsb' 0 4) :=
  (app_eq (x0 : BitVec 2) (x1 : BitVec 4)).trans (and_congr (Iff.rfl) Iff.rfl)

@[simp] theorem shape_L3_V3_ext_0_3 (x0 : BitVec 3) (x1 : BitVec 3) :
    (x0 ++ x1 : BitVec 6).extractLsb' 0 3 = x1 :=
  (ext_lo (x0 : BitVec 3) (x1 : BitVec 3) (by decide)).trans (BitVec.extractLsb'_eq_self)

@[simp] theorem shape_L3_V3_ext_3_3 (x0 : BitVec 3) (x1 : BitVec 3) :
    (x0 ++ x1 : BitVec 6).extractLsb' 3 3 = x0 :=
  (ext_hi (x0 : BitVec 3) (x1 : BitVec 3) (by decide)).trans (BitVec.extractLsb'_eq_self)

@[simp] theorem shape_L3_V3_eq (x0 : BitVec 3) (x1 : BitVec 3) (z : BitVec 6) :
    (x0 ++ x1 : BitVec 6) = z ↔ (x0 = (z).extractLsb' 3 3 ∧ x1 = (z).extractLsb' 0 3) :=
  (app_eq (x0 : BitVec 3) (x1 : BitVec 3)).trans (and_congr (Iff.rfl) Iff.rfl)

@[simp] theorem shape_V6_O1_L1_O1_V5_ext_0_5 (x0 : BitVec 6) (x1 : Bool) (x2 : BitVec 1) (x3 : Bool) (x4 : BitVec 5) :
    (x0 ++ BitVec.ofBool x1 ++ x2 ++ BitVec.ofBool x3 ++ x4 : BitVec 14).extractLsb' 0 5 = x4 :=
  (ext_lo (x0 ++ BitVec.ofBool x1 ++ x2 ++ BitVec.ofBool x3 : BitVec 9) (x4 : BitVec 5) (by decide)).trans (BitVec.extractLsb'_eq_self)

@[simp] theorem shape_V6_O1_L1_O1_V5_ext_6_1 (x0 : BitVec 6) (x1 : Bool) (x2 : BitVec 1) (x3 : Bool) (x4 : BitVec 5) :
    (x0 ++ BitVec.ofBool x1 ++ x2 ++ BitVec.ofBool x3 ++ x4 : BitVec 14).extractLsb' 6 1 = x2 :=
  (ext_hi (x0 ++ BitVec.ofBool x1 ++ x2 ++ BitVec.ofBool x3 : BitVec 9) (x4 : BitVec 5) (by decide)).trans ((ext_hi (x0 ++ BitVec.ofBool x1 ++ x2 : BitVec 8) (BitVec.ofBool x3 : BitVec 1) (by decide)).trans ((ext_lo (x0 ++ BitVec.ofBool x1 : BitVec 7) (x2 : BitVec 1) (by decide)).trans (BitVec.extractLsb'_eq_self)))

@[simp] theorem shape_V6_O1_L1_O1_V5_ext_8_6 (x0 : BitVec 6) (x1 : Bool) (x2 : BitVec 1) (x3 : Bool) (x4 : BitVec 5) :
    (x0 ++ BitVec.ofBool x1 ++ x2 ++ BitVec.ofBool x3 ++ x4 : BitVec 14).extractLsb' 8 6 = x0 :=
  (ext_hi (x0 ++ BitVec.ofBool x1 ++ x2 ++ BitVec.ofBool x3 : BitVec 9) (x4 : BitVec 5) (by decide)).trans ((ext_hi (x0 ++ BitVec.ofBool x1 ++ x2 : BitVec 8) (BitVec.ofBool x3 : BitVec 1) (by decide)).trans ((ext_hi (x0 ++ BitVec.ofBool x1 : BitVec 7) (x2 : BitVec 1) (by decide)).trans ((ext_hi (x0 : BitVec 6) (BitVec.ofBool x1 : BitVec 1) (by decide)).trans (BitVec.extractLsb'_eq_self))))

@[simp] theorem shape_V6_O1_L1_O1_V5_get_5 (x0 : BitVec 6) (x1 : Bool) (x2 : BitVec 1) (x3 : Bool) (x4 : BitVec 5) :
    (x0 ++ BitVec.ofBool x1 ++ x2 ++ BitVec.ofBool x3 ++ x4 : BitVec 14)[5] = x3 :=
  (get_hi (x0 ++ BitVec.ofBool x1 ++ x2 ++ BitVec.ofBool x3 : BitVec 9) (x4 : BitVec 5) (by decide)).trans ((get_lo (x0 ++ BitVec.ofBool x1 ++ x2 : BitVec 8) (BitVec.ofBool x3 : BitVec 1) (by decide)).trans (ofBool_get _))

@[simp] theorem shape_V6_O1_L1_O1_V5_get_7 (x0 : BitVec 6) (x1 : Bool) (x2 : BitVec 1) (x3 : Bool) (x4 : BitVec 5) :
    (x0 ++ BitVec.ofBool x1 ++ x2 ++ BitVec.ofBool x3 ++ x4 : BitVec 14)[7] = x1 :=
  (get_hi (x0 ++ BitVec.ofBool x1 ++ x2 ++ BitVec.ofBool x3 : BitVec 9) (x4 : BitVec 5) (by decide)).trans ((get_hi (x0 ++ BitVec.ofBool x1 ++ x2 : BitVec 8) (BitVec.ofBool x3 : BitVec 1) (by decide)).trans ((get_hi (x0 ++ BitVec.ofBool x1 : BitVec 7) (x2 : BitVec 1) (by decide)).trans ((get_lo (x0 : BitVec 6) (BitVec.ofBool x1 : BitVec 1) (by decide)).trans (ofBool_get _))))

@[simp] theorem shape_V6_O1_L1_O1_V5_eq (x0 : BitVec 6) (x1 : Bool) (x2 : BitVec 1) (x3 : Bool) (x4 : BitVec 5) (z : BitVec 14) :
    (x0 ++ BitVec.ofBool x1 ++ x2 ++ BitVec.ofBool x3 ++ x4 : BitVec 14) = z ↔ ((((x0 = ((((z).extractLsb' 5 9).extractLsb' 1 8).extractLsb' 1 7).extractLsb' 1 6 ∧ BitVec.ofBool x1 = ((((z).extractLsb' 5 9).extractLsb' 1 8).extractLsb' 1 7).extractLsb' 0 1) ∧ x2 = (((z).extractLsb' 5 9).extractLsb' 1 8).extractLsb' 0 1) ∧ BitVec.ofBool x3 = ((z).extractLsb' 5 9).extractLsb' 0 1) ∧ x4 = (z).extractLsb' 0 5) :=
  (app_eq (x0 ++ BitVec.ofBool x1 ++ x2 ++ BitVec.ofBool x3 : BitVec 9) (x4 : BitVec 5)).trans (and_congr ((app_eq (x0 ++ BitVec.ofBool x1 ++ x2 : BitVec 8) (BitVec.ofBool x3 : BitVec 1)).trans (and_congr ((app_eq (x0 ++ BitVec.ofBool x1 : BitVec 7) (x2 : BitVec 1)).trans (and_congr ((app_eq (x0 : BitVec 6) (BitVec.ofBool x1 : BitVec 1)).trans (and_congr (Iff.rfl) Iff.rfl)) Iff.rfl)) Iff.rfl)) Iff.rfl)

@[simp] theorem shape_V6_L2_O1_V5_ext_0_5 (x0 : BitVec 6) (x1 : BitVec 2) (x2 : Bool) (x3 : BitVec 5) :
    (x0 ++ x1 ++ BitVec.ofBool x2 ++ x3 : BitVec 14).extractLsb' 0 5 = x3 :=
  (ext_lo (x0 ++ x1 ++ BitVec.ofBool x2 : BitVec 9) (x3 : BitVec 5) (by decide)).trans (BitVec.extractLsb'_eq_self)

@[simp] theorem shape_V6_L2_O1_V5_ext_6_2 (x0 : BitVec 6) (x1 : BitVec 2) (x2 : Bool) (x3 : BitVec 5) :
    (x0 ++ x1 ++ BitVec.ofBool x2 ++ x3 : BitVec 14).extractLsb' 6 2 = x1 :=
  (ext_hi (x0 ++ x1 ++ BitVec.ofBool x2 : BitVec 9) (x3 : BitVec 5) (by decide)).trans ((ext_hi (x0 ++ x1 : BitVec 8) (BitVec.ofBool x2 : BitVec 1) (by decide)).trans ((ext_lo (x0 : BitVec 6) (x1 : BitVec 2) (by decide)).trans (BitVec.extractLsb'_eq_self)))

@[simp] theorem shape_V6_L2_O1_V5_ext_8_6 (x0 : BitVec 6) (x1 : BitVec 2) (x2 : Bool) (x3 : BitVec 5) :
    (x0 ++ x1 ++ BitVec.ofBool x2 ++ x3 : BitVec 14).extractLsb' 8 6 = x0 :=
  (ext_hi (x0 ++ x1 ++ BitVec.ofBool x2 : BitVec 9) (x3 : BitVec 5) (by decide)).trans ((ext_hi (x0 ++ x1 : BitVec 8) (BitVec.ofBool x2 : BitVec 1) (by decide)).trans ((ext_hi (x0 : BitVec 6) (x1 : BitVec 2) (by decide)).trans (BitVec.extractLsb'_eq_self)))

@[simp] theorem shape_V6_L2_O1_V5_get_5 (x0 : BitVec 6) (x1 : BitVec 2) (x2 : Bool) (x3 : BitVec 5) :
    (x0 ++ x1 ++ BitVec.ofBool x2 ++ x3 : BitVec 14)[5] = x2 :=
  (get_hi (x0 ++ x1 ++ BitVec.ofBool x2 : BitVec 9) (x3 : BitVec 5) (by decide)).trans ((get_lo (x0 ++ x1 : BitVec 8) (BitVec.ofBool x2 : BitVec 1) (by decide)).trans (ofBool_get _))

@[simp] theorem shape_V6_L2_O1_V5_eq (x0 : BitVec 6) (x1 : BitVec 2) (x2 : Bool) (x3 : BitVec 5) (z : BitVec 14) :
    (x0 ++ x1 ++ BitVec.ofBool x2 ++ x3 : BitVec 14) = z ↔ (((x0 = (((z).extractLsb' 5 9).extractLsb' 1 8).extractLsb' 2 6 ∧ x1 = (((z).extractLsb' 5 9).extractLsb' 1 8).extractLsb' 0 2) ∧ BitVec.ofBool x2 = ((z).extractLsb' 5 9).extractLsb' 0 1) ∧ x3 = (z).extractLsb' 0 5) :=
  (app_eq (x0 ++ x1 ++ BitVec.ofBool x2 : BitVec 9) (x3 : BitVec 5)).trans (and_congr ((app_eq (x0 ++ x1 : BitVec 8) (BitVec.ofBool x2 : BitVec 1)).trans (and_congr ((app_eq (x0 : BitVec 6) (x1 : BitVec 2)).trans (and_congr (Iff.rfl) Iff.rfl)) Iff.rfl)) Iff.rfl)

@[simp] theorem shape_V6_V3_V5_ext_0_5 (x0 : BitVec 6) (x1 : BitVec 3) (x2 : BitVec 5) :
    (x0 ++ x1 ++ x2 : BitVec 14).extractLsb' 0 5 = x2 :=
  (ext_lo (x0 ++ x1 : BitVec 9) (x2 : BitVec 5) (by decide)).trans (BitVec.extractLsb'_eq_self)

@[simp] theorem shape_V6_V3_V5_ext_5_3 (x0 : BitVec 6) (x1 : BitVec 3) (x2 : BitVec 5) :
    (x0 ++ x1 ++ x2 : BitVec 14).extractLsb' 5 3 = x1 :=
  (ext_hi (x0 ++ x1 : BitVec 9) (x2 : BitVec 5) (by decide)).trans ((ext_lo (x0 : BitVec 6) (x1 : BitVec 3) (by decide)).trans (BitVec.extractLsb'_eq_self))

@[simp] theorem shape_V6_V3_V5_ext_8_6 (x0 : BitVec 6) (x1 : BitVec 3) (x2 : BitVec 5) :
    (x0 ++ x1 ++ x2 : BitVec 14).extractLsb' 8 6 = x0 :=
  (ext_hi (x0 ++ x1 : BitVec 9) (x2 : BitVec 5) (by decide)).trans ((ext_hi (x0 : BitVec 6) (x1 : BitVec 3) (by decide)).trans (BitVec.extractLsb'_eq_self))

@[simp] theorem shape_V6_V3_V5_eq (x0 : BitVec 6) (x1 : BitVec 3) (x2 : BitVec 5) (z : BitVec 14) :
    (x0 ++ x1 ++ x2 : BitVec 14) = z ↔ ((x0 = ((z).extractLsb' 5 9).extractLsb' 3 6 ∧ x1 = ((z).extractLsb' 5 9).extractLsb' 0 3) ∧ x2 = (z).extractLsb' 0 5) :=
  (app_eq (x0 ++ x1 : BitVec 9) (x2 : BitVec 5)).trans (and_congr ((app_eq (x0 : BitVec 6) (x1 : BitVec 3)).trans (and_congr (Iff.rfl) Iff.rfl)) Iff.rfl)

@[simp] theorem shape_V6_O1_L1_O1_L5_ext_0_5 (x0 : BitVec 6) (x1 : Bool) (x2 : BitVec 1) (x3 : Bool) (x4 : BitVec 5) :
    (x0 ++ BitVec.ofBool x1 ++ x2 ++ BitVec.ofBool x3 ++ x4 : BitVec 14).extractLsb' 0 5 = x4 :=
  (ext_lo (x0 ++ BitVec.ofBool x1 ++ x2 ++ BitVec.ofBool x3 : BitVec 9) (x4 : BitVec 5) (by decide)).trans (BitVec.extractLsb'_eq_self)

@[simp] theorem shape_V6_O1_L1_O1_L5_ext_6_1 (x0 : BitVec 6) (x1 : Bool) (x2 : BitVec 1) (x3 : Bool) (x4 : BitVec 5) :
    (x0 ++ BitVec.ofBool x1 ++ x2 ++ BitVec.ofBool x3 ++ x4 : BitVec 14).extractLsb' 6 1 = x2 :=
  (ext_hi (x0 ++ BitVec.ofBool x1 ++ x2 ++ BitVec.ofBool x3 : BitVec 9) (x4 : BitVec 5) (by decide)).trans ((ext_hi (x0 ++ BitVec.ofBool x1 ++ x2 : BitVec 8) (BitVec.ofBool x3 : BitVec 1) (by decide)).trans ((ext_lo (x0 ++ BitVec.ofBool x1 : BitVec 7) (x2 : BitVec 1) (by decide)).trans (BitVec.extractLsb'_eq_self)))

@[simp] theorem shape_V6_O1_L1_O1_L5_ext_8_6 (x0 : BitVec 6) (x1 : Bool) (x2 : BitVec 1) (x3 : Bool) (x4 : BitVec 5) :
    (x0 ++ BitVec.ofBool x1 ++ x2 ++ BitVec.ofBool x3 ++ x4 : BitVec 14).extractLsb' 8 6 = x0 :=
  (ext_hi (x0 ++ BitVec.ofBool x1 ++ x2 ++ BitVec.ofBool x3 : BitVec 9) (x4 : BitVec 5) (by decide)).trans ((ext_hi (x0 ++ BitVec.ofBool x1 ++ x2 : BitVec 8) (BitVec.ofBool x3 : BitVec 1) (by decide)).trans ((ext_hi (x0 ++ BitVec.ofBool x1 : BitVec 7) (x2 : BitVec 1) (by decide)).trans ((ext_hi (x0 : BitVec 6) (BitVec.ofBool x1 : BitVec 1) (by decide)).trans (BitVec.extractLsb'_eq_self))))

@[simp] theorem shape_V6_O1_L1_O1_L5_get_5 (x0 : BitVec 6) (x1 : Bool) (x2 : BitVec 1) (x3 : Bool) (x4 : BitVec 5) :
    (x0 ++ BitVec.ofBool x1 ++ x2 ++ BitVec.ofBool x3 ++ x4 : BitVec 14)[5] = x3 :=
  (get_hi (x0 ++ BitVec.ofBool x1 ++ x2 ++ BitVec.ofBool x3 : BitVec 9) (x4 : BitVec 5) (by decide)).trans ((get_lo (x0 ++ BitVec.ofBool x1 ++ x2 : BitVec 8) (BitVec.ofBool x3 : BitVec 1) (by decide)).trans (ofBool_get _))

@[simp] theorem shape_V6_O1_L1_O1_L5_get_7 (x0 : BitVec 6) (x1 : Bool) (x2 : BitVec 1) (x3 : Bool) (x4 : BitVec 5) :
    (x0 ++ BitVec.ofBool x1 ++ x2 ++ BitVec.ofBool x3 ++ x4 : BitVec 14)[7] = x1 :=
  (get_hi (x0 ++ BitVec.ofBool x1 ++ x2 ++ BitVec.ofBool x3 : BitVec 9) (x4 : BitVec 5) (by decide)).trans ((get_hi (x0 ++ BitVec.ofBool x1 ++ x2 : BitVec 8) (BitVec.ofBool x3 : BitVec 1) (by decide)).trans ((get_hi (x0 ++ BitVec.ofBool x1 : BitVec 7) (x2 : BitVec 1) (by decide)).trans ((get_lo (x0 : BitVec 6) (BitVec.ofBool x1 : BitVec 1) (by decide)).trans (ofBool_get _))))

@[simp] theorem shape_V6_O1_L1_O1_L5_eq (x0 : BitVec 6) (x1 : Bool) (x2 : BitVec 1) (x3 : Bool) (x4 : BitVec 5) (z : BitVec 14) :
    (x0 ++ BitVec.ofBool x1 ++ x2 ++ BitVec.ofBool x3 ++ x4 : BitVec 14) = z ↔ ((((x0 = ((((z).extractLsb' 5 9).extractLsb' 1 8).extractLsb' 1 7).extractLsb' 1 6 ∧ BitVec.ofBool x1 = ((((z).extractLsb' 5 9).extractLsb' 1 8).extractLsb' 1 7).extractLsb' 0 1) ∧ x2 = (((z).extractLsb' 5 9).extractLsb' 1 8).extractLsb' 0 1) ∧ BitVec.ofBool x3 = ((z).extractLsb' 5 9).extractLsb' 0 1) ∧ x4 = (z).extractLsb' 0 5) :=
  (app_eq (x0 ++ BitVec.ofBool x1 ++ x2 ++ BitVec.ofBool x3 : BitVec 9) (x4 : BitVec 5)).trans (and_congr ((app_eq (x0 ++ BitVec.ofBool x1 ++ x2 : BitVec 8) (BitVec.ofBool x3 : BitVec 1)).trans (and_congr ((app_eq (x0 ++ BitVec.ofBool x1 : BitVec 7) (x2 : BitVec 1)).trans (and_congr ((app_eq (x0 : BitVec 6) (BitVec.ofBool x1 : BitVec 1)).trans (and_congr (Iff.rfl) Iff.rfl)) Iff.rfl)) Iff.rfl)) Iff.rfl)

@[simp] theorem shape_L1_V2_V2_eq (x0 : BitVec 1) (x1 : BitVec 2) (x2 : BitVec 2) (z : BitVec 5) :
    (x0 ++ x1 ++ x2 : BitVec 5) = z ↔ ((x0 = ((z).extractLsb' 2 3).extractLsb' 2 1 ∧ x1 = ((z).extractLsb' 2 3).extractLsb' 0 2) ∧ x2 = (z).extractLsb' 0 2) :=
  (app_eq (x0 ++ x1 : BitVec 3) (x2 : BitVec 2)).trans (and_congr ((app_eq (x0 : BitVec 1) (x1 : BitVec 2)).trans (and_congr (Iff.rfl) Iff.rfl)) Iff.rfl)

@[simp] theorem shape_L2_O1_L1_V2_V2_eq (x0 : BitVec 2) (x1 : Bool) (x2 : BitVec 1) (x3 : BitVec 2) (x4 : BitVec 2) (z : BitVec 8) :
    (x0 ++ BitVec.ofBool x1 ++ x2 ++ x3 ++ x4 : BitVec 8) = z ↔ ((((x0 = ((((z).extractLsb' 2 6).extractLsb' 2 4).extractLsb' 1 3).extractLsb' 1 2 ∧ BitVec.ofBool x1 = ((((z).extractLsb' 2 6).extractLsb' 2 4).extractLsb' 1 3).extractLsb' 0 1) ∧ x2 = (((z).extractLsb' 2 6).extractLsb' 2 4).extractLsb' 0 1) ∧ x3 = ((z).extractLsb' 2 6).extractLsb' 0 2) ∧ x4 = (z).extractLsb' 0 2) :=
  (app_eq (x0 ++ BitVec.ofBool x1 ++ x2 ++ x3 : BitVec 6) (x4 : BitVec 2)).trans (and_congr ((app_eq (x0 ++ BitVec.ofBool x1 ++ x2 : BitVec 4) (x3 : BitVec 2)).trans (and_congr ((app_eq (x0 ++ BitVec.ofBool x1 : BitVec 3) (x2 : BitVec 1)).trans (and_congr ((app_eq (x0 : BitVec 2) (BitVec.ofBool x1 : BitVec 1)).trans (and_congr (Iff.rfl) Iff.rfl)) Iff.rfl)) Iff.rfl)) Iff.rfl)

@[simp] theorem split_20 (w : BitVec 20) : (w.extractLsb' 14 6 ++ w.extractLsb' 0 14 : BitVec 20) = w :=
  (app_eq (k := 6) (m := 14) _ _).2 ⟨rfl, rfl⟩

theorem ofWord_word (x : Fields) : Fields.ofWord x.word = x := by
  obtain ⟨o, d, a, l⟩ := x
  simp only [Fields.ofWord, Fields.word, Fields.mk.injEq]
  refine ⟨?_, ?_, ?_, ?_⟩
  · exact (ext_hi (i := 26) (n := 6) (o ++ d ++ a) l (by decide)).trans
      ((ext_hi (i := 12) (n := 6) (o ++ d) a (by decide)).trans
        ((ext_hi (i := 6) (n := 6) o d (by decide)).trans (by simp)))
  · exact (ext_hi (i := 20) (n := 6) (o ++ d ++ a) l (by decide)).trans
      ((ext_hi (i := 6) (n := 6) (o ++ d) a (by decide)).trans
        ((ext_lo (i := 0) (n := 6) o d (by decide)).trans (by simp)))
  · exact (ext_hi (i := 14) (n := 6) (o ++ d ++ a) l (by decide)).trans
      ((ext_lo (i := 0) (n := 6) (o ++ d) a (by decide)).trans (by simp))
  · exact (ext_lo (i := 0) (n := 14) (o ++ d ++ a) l (by decide)).trans (by simp)

/-- Decoding the word of a well-formed instruction gives the instruction back. -/
def RoundTrip.Statement (i : Instr) : Prop :=
  ∀ (c : Ctx) (w : Word32), wellFormed c i = true → encode i = some w → Sys2Proof.decode c w = .ok i

/-- The statement from the fields: they are not all zero, and each context that accepts the instruction reads it. -/
theorem roundTrip_of_fields {i : Instr} {x : Fields} (hx : encodeFields i = some x) (hz : x ≠ ⟨0, 0, 0, 0⟩)
    (hr : ∀ c, wellFormed c i = true → readFields c x = some i) : RoundTrip.Statement i := by
  intro c w h e
  have hw : x.word = w := by simpa [encode, hx] using e
  have hne : w ≠ 0 := by
    rintro rfl
    refine hz ?_
    have := ofWord_word x
    rw [hw] at this
    rw [← this]
    rfl
  unfold Sys2Proof.decode
  rw [if_neg hne, ← hw, ofWord_word, hr c h]
  simp only [h, if_true]

/-- A step of the table has no word. -/
theorem roundTrip_of_no_word {i : Instr} (hx : encodeFields i = none) : RoundTrip.Statement i := by
  intro c w _ e
  simp [encode, hx] at e

theorem RoundTrip.copyCommand (x0 : Agent) (x1 : CopyPart) : RoundTrip.Statement (.copyCommand x0 x1) := roundTrip_of_no_word rfl

theorem RoundTrip.copyCompletion (x0 : Agent) (x1 : Nat) : RoundTrip.Statement (.copyCompletion x0 x1) := roundTrip_of_no_word rfl

theorem RoundTrip.adapt (x0 : Agent) (x1 : Nat) : RoundTrip.Statement (.adapt x0 x1) := roundTrip_of_no_word rfl

theorem RoundTrip.adaptStatus (x0 : Agent) (x1 : Nat) : RoundTrip.Statement (.adaptStatus x0 x1) := roundTrip_of_no_word rfl

theorem RoundTrip.desc (x0 : Agent) (x1 : Nat) : RoundTrip.Statement (.desc x0 x1) := roundTrip_of_no_word rfl

theorem RoundTrip.expand (x0 : Agent) (x1 : Nat) : RoundTrip.Statement (.expand x0 x1) := roundTrip_of_no_word rfl

theorem RoundTrip.backup (x0 : Agent) (x1 : Nat) : RoundTrip.Statement (.backup x0 x1) := roundTrip_of_no_word rfl

theorem RoundTrip.orchardRequestPerformed (x0 : Agent) (x1 : Nat) : RoundTrip.Statement (.orchardRequestPerformed x0 x1) := roundTrip_of_no_word rfl

theorem RoundTrip.mopenBuildEnd (x0 : Nat) (x1 : Nat) : RoundTrip.Statement (.mopenBuildEnd x0 x1) := roundTrip_of_no_word rfl

theorem RoundTrip.sheafSetBuilt (x0 : Nat) (x1 : Nat) (x2 : Nat) : RoundTrip.Statement (.sheafSetBuilt x0 x1 x2) := roundTrip_of_no_word rfl

theorem RoundTrip.mrecutStatus (x0 : Agent) (x1 : Nat) : RoundTrip.Statement (.mrecutStatus x0 x1) := roundTrip_of_no_word rfl

theorem RoundTrip.streamEntry (x0 : Agent) (x1 : Nat) : RoundTrip.Statement (.streamEntry x0 x1) := roundTrip_of_no_word rfl

theorem RoundTrip.chunkResult (x0 : Nat) (x1 : Nat) (x2 : Nat) : RoundTrip.Statement (.chunkResult x0 x1 x2) := roundTrip_of_no_word rfl

theorem RoundTrip.sq3Contribution (x0 : Nat) : RoundTrip.Statement (.sq3Contribution x0) := roundTrip_of_no_word rfl

theorem RoundTrip.lq7Receive (x0 : Nat) : RoundTrip.Statement (.lq7Receive x0) := roundTrip_of_no_word rfl

theorem RoundTrip.accessContextStop (x0 : Nat) : RoundTrip.Statement (.accessContextStop x0) := roundTrip_of_no_word rfl

theorem RoundTrip.gangRetirement (x0 : Nat) : RoundTrip.Statement (.gangRetirement x0) := roundTrip_of_no_word rfl

theorem RoundTrip.trapEntry (x0 : Agent) : RoundTrip.Statement (.trapEntry x0) := roundTrip_of_no_word rfl

theorem RoundTrip.suspend (x0 : Nat) : RoundTrip.Statement (.suspend x0) := roundTrip_of_no_word rfl

theorem RoundTrip.killgang (x0 : Nat) : RoundTrip.Statement (.killgang x0) := roundTrip_of_no_word rfl

theorem RoundTrip.killlaunch (x0 : Nat) : RoundTrip.Statement (.killlaunch x0) := roundTrip_of_no_word rfl

theorem RoundTrip.dhalt (x0 : Nat) : RoundTrip.Statement (.dhalt x0) := roundTrip_of_no_word rfl

theorem RoundTrip.resume (x0 : Nat) : RoundTrip.Statement (.resume x0) := roundTrip_of_no_word rfl

theorem RoundTrip.dresume (x0 : Nat) : RoundTrip.Statement (.dresume x0) := roundTrip_of_no_word rfl

theorem RoundTrip.gangHalt (x0 : Nat) : RoundTrip.Statement (.gangHalt x0) := roundTrip_of_no_word rfl

theorem RoundTrip.contextCommandStatus (x0 : Nat) : RoundTrip.Statement (.contextCommandStatus x0) := roundTrip_of_no_word rfl

theorem RoundTrip.version (x0 : Agent) : RoundTrip.Statement (.version x0) := roundTrip_of_no_word rfl

theorem RoundTrip.groupset (x0 : Agent) : RoundTrip.Statement (.groupset x0) := roundTrip_of_no_word rfl

theorem RoundTrip.routeset (x0 : Agent) : RoundTrip.Statement (.routeset x0) := roundTrip_of_no_word rfl

theorem RoundTrip.attest (x0 : Agent) : RoundTrip.Statement (.attest x0) := roundTrip_of_no_word rfl

theorem RoundTrip.linkstat (x0 : Agent) : RoundTrip.Statement (.linkstat x0) := roundTrip_of_no_word rfl

theorem RoundTrip.dispatchSample (x0 : Nat) : RoundTrip.Statement (.dispatchSample x0) := roundTrip_of_no_word rfl

theorem RoundTrip.placementStep (x0 : Nat) : RoundTrip.Statement (.placementStep x0) := roundTrip_of_no_word rfl

theorem RoundTrip.gleanerBoundary (x0 : Nat) : RoundTrip.Statement (.gleanerBoundary x0) := roundTrip_of_no_word rfl

theorem RoundTrip.gleanerArrival (x0 : Nat) : RoundTrip.Statement (.gleanerArrival x0) := roundTrip_of_no_word rfl

theorem RoundTrip.shelfUnitTick (x0 : Nat) : RoundTrip.Statement (.shelfUnitTick x0) := roundTrip_of_no_word rfl

theorem RoundTrip.turnerRenewal (x0 : Nat) : RoundTrip.Statement (.turnerRenewal x0) := roundTrip_of_no_word rfl

theorem RoundTrip.turnerMiss (x0 : Nat) : RoundTrip.Statement (.turnerMiss x0) := roundTrip_of_no_word rfl

theorem RoundTrip.registerRefresh (x0 : Nat) : RoundTrip.Statement (.registerRefresh x0) := roundTrip_of_no_word rfl

theorem RoundTrip.wcEntryTimeout (x0 : Agent) (x1 : Nat) : RoundTrip.Statement (.wcEntryTimeout x0 x1) := roundTrip_of_no_word rfl

theorem RoundTrip.granaryTick : RoundTrip.Statement .granaryTick := roundTrip_of_no_word rfl

theorem RoundTrip.granaryDebit (x0 : Nat) : RoundTrip.Statement (.granaryDebit x0) := roundTrip_of_no_word rfl

theorem RoundTrip.arbiterPeriod (x0 : Nat) : RoundTrip.Statement (.arbiterPeriod x0) := roundTrip_of_no_word rfl

theorem RoundTrip.clockLower : RoundTrip.Statement .clockLower := roundTrip_of_no_word rfl

theorem RoundTrip.clockRaise : RoundTrip.Statement .clockRaise := roundTrip_of_no_word rfl

theorem RoundTrip.thermtrip : RoundTrip.Statement .thermtrip := roundTrip_of_no_word rfl

theorem RoundTrip.moduleReset : RoundTrip.Statement .moduleReset := roundTrip_of_no_word rfl

theorem RoundTrip.selfTest : RoundTrip.Statement .selfTest := roundTrip_of_no_word rfl

theorem RoundTrip.dclTraining : RoundTrip.Statement .dclTraining := roundTrip_of_no_word rfl

theorem RoundTrip.bgo (x0 : BitVec 64) (x1 : BitVec 64) : RoundTrip.Statement (.bgo x0 x1) := roundTrip_of_no_word rfl

theorem RoundTrip.imageCopied : RoundTrip.Statement .imageCopied := roundTrip_of_no_word rfl

theorem RoundTrip.fboot (x0 : BitVec 64) : RoundTrip.Statement (.fboot x0) := roundTrip_of_no_word rfl

theorem RoundTrip.dclFailure : RoundTrip.Statement .dclFailure := roundTrip_of_no_word rfl

theorem RoundTrip.portDown (x0 : Nat) : RoundTrip.Statement (.portDown x0) := roundTrip_of_no_word rfl

theorem RoundTrip.cxlPortLost (x0 : Nat) : RoundTrip.Statement (.cxlPortLost x0) := roundTrip_of_no_word rfl

theorem RoundTrip.doorbellOrdinary (x0 : Nat) (x1 : BitVec 16) : RoundTrip.Statement (.doorbellOrdinary x0 x1) := roundTrip_of_no_word rfl

theorem RoundTrip.doorbellSupervisor (x0 : Nat) (x1 : BitVec 16) : RoundTrip.Statement (.doorbellSupervisor x0 x1) := roundTrip_of_no_word rfl

theorem RoundTrip.doorbellDbell (x0 : Nat) : RoundTrip.Statement (.doorbellDbell x0) := roundTrip_of_no_word rfl

theorem RoundTrip.eventW1c (x0 : BitVec 64) : RoundTrip.Statement (.eventW1c x0) := roundTrip_of_no_word rfl

theorem RoundTrip.seventW1c (x0 : BitVec 64) : RoundTrip.Statement (.seventW1c x0) := roundTrip_of_no_word rfl

theorem RoundTrip.sdstatRead : RoundTrip.Statement .sdstatRead := roundTrip_of_no_word rfl

theorem RoundTrip.fpartWrite (x0 : BitVec 64) : RoundTrip.Statement (.fpartWrite x0) := roundTrip_of_no_word rfl

theorem RoundTrip.fgrateWrite (x0 : BitVec 64) : RoundTrip.Statement (.fgrateWrite x0) := roundTrip_of_no_word rfl

theorem RoundTrip.fbtabWrite (x0 : Nat) (x1 : BitVec 64) : RoundTrip.Statement (.fbtabWrite x0 x1) := roundTrip_of_no_word rfl

theorem RoundTrip.fctest (x0 : BitVec 64) : RoundTrip.Statement (.fctest x0) := roundTrip_of_no_word rfl

theorem RoundTrip.frcommit : RoundTrip.Statement .frcommit := roundTrip_of_no_word rfl

theorem RoundTrip.fsvnWrite (x0 : BitVec 64) : RoundTrip.Statement (.fsvnWrite x0) := roundTrip_of_no_word rfl

theorem RoundTrip.fhtest (x0 : BitVec 64) : RoundTrip.Statement (.fhtest x0) := roundTrip_of_no_word rfl

theorem RoundTrip.lgmodeWrite (x0 : BitVec 64) : RoundTrip.Statement (.lgmodeWrite x0) := roundTrip_of_no_word rfl

theorem RoundTrip.qenWrite (x0 : BitVec 64) : RoundTrip.Statement (.qenWrite x0) := roundTrip_of_no_word rfl

theorem RoundTrip.cgroupWrite (x0 : BitVec 64) : RoundTrip.Statement (.cgroupWrite x0) := roundTrip_of_no_word rfl

theorem RoundTrip.csrWrite (x0 : BitVec 12) (x1 : BitVec 64) : RoundTrip.Statement (.csrWrite x0 x1) := roundTrip_of_no_word rfl

theorem RoundTrip.elementGroupCompletion (x0 : Agent) (x1 : Nat) : RoundTrip.Statement (.elementGroupCompletion x0 x1) := roundTrip_of_no_word rfl

theorem RoundTrip.matrixUnitCompletion (x0 : Agent) (x1 : Nat) : RoundTrip.Statement (.matrixUnitCompletion x0 x1) := roundTrip_of_no_word rfl

theorem RoundTrip.accessPerformed (x0 : Agent) (x1 : Access) : RoundTrip.Statement (.accessPerformed x0 x1) := roundTrip_of_no_word rfl

theorem RoundTrip.catalogueAnswer (x0 : Agent) : RoundTrip.Statement (.catalogueAnswer x0) := roundTrip_of_no_word rfl

theorem RoundTrip.portRetrained (x0 : Nat) : RoundTrip.Statement (.portRetrained x0) := roundTrip_of_no_word rfl

theorem RoundTrip.add (d : BitVec 6) (a : BitVec 6) (b : BitVec 6) : RoundTrip.Statement (.add d a b) := by
  refine roundTrip_of_fields (x := ⟨0#6, d, a, (b ++ 1#8 : BitVec 14)⟩) rfl (by simp) ?_
  rintro ⟨⟩ h
  · (change readMajor00 _ = _; simp [readMajor00])
  · (change readMajor00 _ = _; simp [readMajor00])

theorem RoundTrip.sub (d : BitVec 6) (a : BitVec 6) (b : BitVec 6) : RoundTrip.Statement (.sub d a b) := by
  refine roundTrip_of_fields (x := ⟨0#6, d, a, (b ++ 2#8 : BitVec 14)⟩) rfl (by simp) ?_
  rintro ⟨⟩ h
  · (change readMajor00 _ = _; simp [readMajor00])
  · (change readMajor00 _ = _; simp [readMajor00])

theorem RoundTrip.and (d : BitVec 6) (a : BitVec 6) (b : BitVec 6) : RoundTrip.Statement (.and d a b) := by
  refine roundTrip_of_fields (x := ⟨0#6, d, a, (b ++ 3#8 : BitVec 14)⟩) rfl (by simp) ?_
  rintro ⟨⟩ h
  · (change readMajor00 _ = _; simp [readMajor00])
  · (change readMajor00 _ = _; simp [readMajor00])

theorem RoundTrip.or (d : BitVec 6) (a : BitVec 6) (b : BitVec 6) : RoundTrip.Statement (.or d a b) := by
  refine roundTrip_of_fields (x := ⟨0#6, d, a, (b ++ 4#8 : BitVec 14)⟩) rfl (by simp) ?_
  rintro ⟨⟩ h
  · (change readMajor00 _ = _; simp [readMajor00])
  · (change readMajor00 _ = _; simp [readMajor00])

theorem RoundTrip.xor (d : BitVec 6) (a : BitVec 6) (b : BitVec 6) : RoundTrip.Statement (.xor d a b) := by
  refine roundTrip_of_fields (x := ⟨0#6, d, a, (b ++ 5#8 : BitVec 14)⟩) rfl (by simp) ?_
  rintro ⟨⟩ h
  · (change readMajor00 _ = _; simp [readMajor00])
  · (change readMajor00 _ = _; simp [readMajor00])

theorem RoundTrip.andn (d : BitVec 6) (a : BitVec 6) (b : BitVec 6) : RoundTrip.Statement (.andn d a b) := by
  refine roundTrip_of_fields (x := ⟨0#6, d, a, (b ++ 6#8 : BitVec 14)⟩) rfl (by simp) ?_
  rintro ⟨⟩ h
  · (change readMajor00 _ = _; simp [readMajor00])
  · (change readMajor00 _ = _; simp [readMajor00])

theorem RoundTrip.sll (d : BitVec 6) (a : BitVec 6) (b : BitVec 6) : RoundTrip.Statement (.sll d a b) := by
  refine roundTrip_of_fields (x := ⟨0#6, d, a, (b ++ 7#8 : BitVec 14)⟩) rfl (by simp) ?_
  rintro ⟨⟩ h
  · (change readMajor00 _ = _; simp [readMajor00])
  · (change readMajor00 _ = _; simp [readMajor00])

theorem RoundTrip.srl (d : BitVec 6) (a : BitVec 6) (b : BitVec 6) : RoundTrip.Statement (.srl d a b) := by
  refine roundTrip_of_fields (x := ⟨0#6, d, a, (b ++ 8#8 : BitVec 14)⟩) rfl (by simp) ?_
  rintro ⟨⟩ h
  · (change readMajor00 _ = _; simp [readMajor00])
  · (change readMajor00 _ = _; simp [readMajor00])

theorem RoundTrip.sra (d : BitVec 6) (a : BitVec 6) (b : BitVec 6) : RoundTrip.Statement (.sra d a b) := by
  refine roundTrip_of_fields (x := ⟨0#6, d, a, (b ++ 9#8 : BitVec 14)⟩) rfl (by simp) ?_
  rintro ⟨⟩ h
  · (change readMajor00 _ = _; simp [readMajor00])
  · (change readMajor00 _ = _; simp [readMajor00])

theorem RoundTrip.slt (d : BitVec 6) (a : BitVec 6) (b : BitVec 6) : RoundTrip.Statement (.slt d a b) := by
  refine roundTrip_of_fields (x := ⟨0#6, d, a, (b ++ 10#8 : BitVec 14)⟩) rfl (by simp) ?_
  rintro ⟨⟩ h
  · (change readMajor00 _ = _; simp [readMajor00])
  · (change readMajor00 _ = _; simp [readMajor00])

theorem RoundTrip.sltu (d : BitVec 6) (a : BitVec 6) (b : BitVec 6) : RoundTrip.Statement (.sltu d a b) := by
  refine roundTrip_of_fields (x := ⟨0#6, d, a, (b ++ 11#8 : BitVec 14)⟩) rfl (by simp) ?_
  rintro ⟨⟩ h
  · (change readMajor00 _ = _; simp [readMajor00])
  · (change readMajor00 _ = _; simp [readMajor00])

theorem RoundTrip.seq (d : BitVec 6) (a : BitVec 6) (b : BitVec 6) : RoundTrip.Statement (.seq d a b) := by
  refine roundTrip_of_fields (x := ⟨0#6, d, a, (b ++ 12#8 : BitVec 14)⟩) rfl (by simp) ?_
  rintro ⟨⟩ h
  · (change readMajor00 _ = _; simp [readMajor00])
  · (change readMajor00 _ = _; simp [readMajor00])

theorem RoundTrip.min (d : BitVec 6) (a : BitVec 6) (b : BitVec 6) : RoundTrip.Statement (.min d a b) := by
  refine roundTrip_of_fields (x := ⟨0#6, d, a, (b ++ 13#8 : BitVec 14)⟩) rfl (by simp) ?_
  rintro ⟨⟩ h
  · (change readMajor00 _ = _; simp [readMajor00])
  · (change readMajor00 _ = _; simp [readMajor00])

theorem RoundTrip.max (d : BitVec 6) (a : BitVec 6) (b : BitVec 6) : RoundTrip.Statement (.max d a b) := by
  refine roundTrip_of_fields (x := ⟨0#6, d, a, (b ++ 14#8 : BitVec 14)⟩) rfl (by simp) ?_
  rintro ⟨⟩ h
  · (change readMajor00 _ = _; simp [readMajor00])
  · (change readMajor00 _ = _; simp [readMajor00])

theorem RoundTrip.minu (d : BitVec 6) (a : BitVec 6) (b : BitVec 6) : RoundTrip.Statement (.minu d a b) := by
  refine roundTrip_of_fields (x := ⟨0#6, d, a, (b ++ 15#8 : BitVec 14)⟩) rfl (by simp) ?_
  rintro ⟨⟩ h
  · (change readMajor00 _ = _; simp [readMajor00])
  · (change readMajor00 _ = _; simp [readMajor00])

theorem RoundTrip.maxu (d : BitVec 6) (a : BitVec 6) (b : BitVec 6) : RoundTrip.Statement (.maxu d a b) := by
  refine roundTrip_of_fields (x := ⟨0#6, d, a, (b ++ 16#8 : BitVec 14)⟩) rfl (by simp) ?_
  rintro ⟨⟩ h
  · (change readMajor00 _ = _; simp [readMajor00])
  · (change readMajor00 _ = _; simp [readMajor00])

theorem RoundTrip.mul (d : BitVec 6) (a : BitVec 6) (b : BitVec 6) : RoundTrip.Statement (.mul d a b) := by
  refine roundTrip_of_fields (x := ⟨0#6, d, a, (b ++ 17#8 : BitVec 14)⟩) rfl (by simp) ?_
  rintro ⟨⟩ h
  · (change readMajor00 _ = _; simp [readMajor00])
  · (change readMajor00 _ = _; simp [readMajor00])

theorem RoundTrip.mulh (d : BitVec 6) (a : BitVec 6) (b : BitVec 6) : RoundTrip.Statement (.mulh d a b) := by
  refine roundTrip_of_fields (x := ⟨0#6, d, a, (b ++ 18#8 : BitVec 14)⟩) rfl (by simp) ?_
  rintro ⟨⟩ h
  · (change readMajor00 _ = _; simp [readMajor00])
  · (change readMajor00 _ = _; simp [readMajor00])

theorem RoundTrip.mulhu (d : BitVec 6) (a : BitVec 6) (b : BitVec 6) : RoundTrip.Statement (.mulhu d a b) := by
  refine roundTrip_of_fields (x := ⟨0#6, d, a, (b ++ 19#8 : BitVec 14)⟩) rfl (by simp) ?_
  rintro ⟨⟩ h
  · (change readMajor00 _ = _; simp [readMajor00])
  · (change readMajor00 _ = _; simp [readMajor00])

theorem RoundTrip.div (d : BitVec 6) (a : BitVec 6) (b : BitVec 6) : RoundTrip.Statement (.div d a b) := by
  refine roundTrip_of_fields (x := ⟨0#6, d, a, (b ++ 20#8 : BitVec 14)⟩) rfl (by simp) ?_
  rintro ⟨⟩ h
  · (change readMajor00 _ = _; simp [readMajor00])
  · (change readMajor00 _ = _; simp [readMajor00])

theorem RoundTrip.divu (d : BitVec 6) (a : BitVec 6) (b : BitVec 6) : RoundTrip.Statement (.divu d a b) := by
  refine roundTrip_of_fields (x := ⟨0#6, d, a, (b ++ 21#8 : BitVec 14)⟩) rfl (by simp) ?_
  rintro ⟨⟩ h
  · (change readMajor00 _ = _; simp [readMajor00])
  · (change readMajor00 _ = _; simp [readMajor00])

theorem RoundTrip.rem (d : BitVec 6) (a : BitVec 6) (b : BitVec 6) : RoundTrip.Statement (.rem d a b) := by
  refine roundTrip_of_fields (x := ⟨0#6, d, a, (b ++ 22#8 : BitVec 14)⟩) rfl (by simp) ?_
  rintro ⟨⟩ h
  · (change readMajor00 _ = _; simp [readMajor00])
  · (change readMajor00 _ = _; simp [readMajor00])

theorem RoundTrip.remu (d : BitVec 6) (a : BitVec 6) (b : BitVec 6) : RoundTrip.Statement (.remu d a b) := by
  refine roundTrip_of_fields (x := ⟨0#6, d, a, (b ++ 23#8 : BitVec 14)⟩) rfl (by simp) ?_
  rintro ⟨⟩ h
  · (change readMajor00 _ = _; simp [readMajor00])
  · (change readMajor00 _ = _; simp [readMajor00])

theorem RoundTrip.clz (d : BitVec 6) (a : BitVec 6) : RoundTrip.Statement (.clz d a) := by
  refine roundTrip_of_fields (x := ⟨0#6, d, a, 24#14⟩) rfl (by simp) ?_
  rintro ⟨⟩ h
  · (change readMajor00 _ = _; simp [readMajor00])
  · (change readMajor00 _ = _; simp [readMajor00])

theorem RoundTrip.ctz (d : BitVec 6) (a : BitVec 6) : RoundTrip.Statement (.ctz d a) := by
  refine roundTrip_of_fields (x := ⟨0#6, d, a, 25#14⟩) rfl (by simp) ?_
  rintro ⟨⟩ h
  · (change readMajor00 _ = _; simp [readMajor00])
  · (change readMajor00 _ = _; simp [readMajor00])

theorem RoundTrip.popc (d : BitVec 6) (a : BitVec 6) : RoundTrip.Statement (.popc d a) := by
  refine roundTrip_of_fields (x := ⟨0#6, d, a, 26#14⟩) rfl (by simp) ?_
  rintro ⟨⟩ h
  · (change readMajor00 _ = _; simp [readMajor00])
  · (change readMajor00 _ = _; simp [readMajor00])

theorem RoundTrip.addi (d : BitVec 6) (a : BitVec 6) (i : BitVec 14) : RoundTrip.Statement (.addi d a i) := by
  refine roundTrip_of_fields (x := ⟨1#6, d, a, i⟩) rfl (by simp) ?_
  rintro ⟨⟩ h
  · (change readMajor01 _ = _; simp [readMajor01])
  · (change readMajor01 _ = _; simp [readMajor01])

theorem RoundTrip.andi (d : BitVec 6) (a : BitVec 6) (i : BitVec 14) : RoundTrip.Statement (.andi d a i) := by
  refine roundTrip_of_fields (x := ⟨2#6, d, a, i⟩) rfl (by simp) ?_
  rintro ⟨⟩ h
  · (change readMajor02 _ = _; simp [readMajor02])
  · (change readMajor02 _ = _; simp [readMajor02])

theorem RoundTrip.ori (d : BitVec 6) (a : BitVec 6) (i : BitVec 14) : RoundTrip.Statement (.ori d a i) := by
  refine roundTrip_of_fields (x := ⟨3#6, d, a, i⟩) rfl (by simp) ?_
  rintro ⟨⟩ h
  · (change readMajor03 _ = _; simp [readMajor03])
  · (change readMajor03 _ = _; simp [readMajor03])

theorem RoundTrip.xori (d : BitVec 6) (a : BitVec 6) (i : BitVec 14) : RoundTrip.Statement (.xori d a i) := by
  refine roundTrip_of_fields (x := ⟨4#6, d, a, i⟩) rfl (by simp) ?_
  rintro ⟨⟩ h
  · (change readMajor04 _ = _; simp [readMajor04])
  · (change readMajor04 _ = _; simp [readMajor04])

theorem RoundTrip.slti (d : BitVec 6) (a : BitVec 6) (i : BitVec 14) : RoundTrip.Statement (.slti d a i) := by
  refine roundTrip_of_fields (x := ⟨5#6, d, a, i⟩) rfl (by simp) ?_
  rintro ⟨⟩ h
  · (change readMajor05 _ = _; simp [readMajor05])
  · (change readMajor05 _ = _; simp [readMajor05])

theorem RoundTrip.sltiu (d : BitVec 6) (a : BitVec 6) (i : BitVec 14) : RoundTrip.Statement (.sltiu d a i) := by
  refine roundTrip_of_fields (x := ⟨6#6, d, a, i⟩) rfl (by simp) ?_
  rintro ⟨⟩ h
  · (change readMajor06 _ = _; simp [readMajor06])
  · (change readMajor06 _ = _; simp [readMajor06])

theorem RoundTrip.slli (d : BitVec 6) (a : BitVec 6) (sc : BitVec 6) : RoundTrip.Statement (.slli d a sc) := by
  refine roundTrip_of_fields (x := ⟨7#6, d, a, (0#8 ++ sc : BitVec 14)⟩) rfl (by simp) ?_
  rintro ⟨⟩ h
  · (change readMajor07 _ = _; simp [readMajor07])
  · (change readMajor07 _ = _; simp [readMajor07])

theorem RoundTrip.srli (d : BitVec 6) (a : BitVec 6) (sc : BitVec 6) : RoundTrip.Statement (.srli d a sc) := by
  refine roundTrip_of_fields (x := ⟨8#6, d, a, (0#8 ++ sc : BitVec 14)⟩) rfl (by simp) ?_
  rintro ⟨⟩ h
  · (change readMajor08 _ = _; simp [readMajor08])
  · (change readMajor08 _ = _; simp [readMajor08])

theorem RoundTrip.srai (d : BitVec 6) (a : BitVec 6) (sc : BitVec 6) : RoundTrip.Statement (.srai d a sc) := by
  refine roundTrip_of_fields (x := ⟨9#6, d, a, (0#8 ++ sc : BitVec 14)⟩) rfl (by simp) ?_
  rintro ⟨⟩ h
  · (change readMajor09 _ = _; simp [readMajor09])
  · (change readMajor09 _ = _; simp [readMajor09])

theorem RoundTrip.lui (d : BitVec 6) (w : BitVec 20) : RoundTrip.Statement (.lui d w) := by
  refine roundTrip_of_fields (x := ⟨10#6, d, w.extractLsb' 14 6, w.extractLsb' 0 14⟩) rfl (by simp) ?_
  rintro ⟨⟩ h
  · (change readMajor0A _ = _; simp [readMajor0A])
  · (change readMajor0A _ = _; simp [readMajor0A])

theorem RoundTrip.addpc (d : BitVec 6) (w : BitVec 20) : RoundTrip.Statement (.addpc d w) := by
  refine roundTrip_of_fields (x := ⟨11#6, d, w.extractLsb' 14 6, w.extractLsb' 0 14⟩) rfl (by simp) ?_
  rintro ⟨⟩ h
  · (change readMajor0B _ = _; simp [readMajor0B])
  · (change readMajor0B _ = _; simp [readMajor0B])

theorem RoundTrip.faddD (d : BitVec 6) (a : BitVec 6) (b : BitVec 6) : RoundTrip.Statement (.faddD d a b) := by
  refine roundTrip_of_fields (x := ⟨12#6, d, a, (b ++ 1#8 : BitVec 14)⟩) rfl (by simp) ?_
  rintro ⟨⟩ h
  · (change readMajor0C _ = _; simp [readMajor0C])
  · cases h

theorem RoundTrip.fsubD (d : BitVec 6) (a : BitVec 6) (b : BitVec 6) : RoundTrip.Statement (.fsubD d a b) := by
  refine roundTrip_of_fields (x := ⟨12#6, d, a, (b ++ 2#8 : BitVec 14)⟩) rfl (by simp) ?_
  rintro ⟨⟩ h
  · (change readMajor0C _ = _; simp [readMajor0C])
  · cases h

theorem RoundTrip.fmulD (d : BitVec 6) (a : BitVec 6) (b : BitVec 6) : RoundTrip.Statement (.fmulD d a b) := by
  refine roundTrip_of_fields (x := ⟨12#6, d, a, (b ++ 3#8 : BitVec 14)⟩) rfl (by simp) ?_
  rintro ⟨⟩ h
  · (change readMajor0C _ = _; simp [readMajor0C])
  · cases h

theorem RoundTrip.fdivD (d : BitVec 6) (a : BitVec 6) (b : BitVec 6) : RoundTrip.Statement (.fdivD d a b) := by
  refine roundTrip_of_fields (x := ⟨12#6, d, a, (b ++ 4#8 : BitVec 14)⟩) rfl (by simp) ?_
  rintro ⟨⟩ h
  · (change readMajor0C _ = _; simp [readMajor0C])
  · cases h

theorem RoundTrip.fsqrtD (d : BitVec 6) (a : BitVec 6) : RoundTrip.Statement (.fsqrtD d a) := by
  refine roundTrip_of_fields (x := ⟨12#6, d, a, 5#14⟩) rfl (by simp) ?_
  rintro ⟨⟩ h
  · (change readMajor0C _ = _; simp [readMajor0C])
  · cases h

theorem RoundTrip.fminD (d : BitVec 6) (a : BitVec 6) (b : BitVec 6) : RoundTrip.Statement (.fminD d a b) := by
  refine roundTrip_of_fields (x := ⟨12#6, d, a, (b ++ 6#8 : BitVec 14)⟩) rfl (by simp) ?_
  rintro ⟨⟩ h
  · (change readMajor0C _ = _; simp [readMajor0C])
  · cases h

theorem RoundTrip.fmaxD (d : BitVec 6) (a : BitVec 6) (b : BitVec 6) : RoundTrip.Statement (.fmaxD d a b) := by
  refine roundTrip_of_fields (x := ⟨12#6, d, a, (b ++ 7#8 : BitVec 14)⟩) rfl (by simp) ?_
  rintro ⟨⟩ h
  · (change readMajor0C _ = _; simp [readMajor0C])
  · cases h

theorem RoundTrip.fsgnjD (d : BitVec 6) (a : BitVec 6) (b : BitVec 6) : RoundTrip.Statement (.fsgnjD d a b) := by
  refine roundTrip_of_fields (x := ⟨12#6, d, a, (b ++ 8#8 : BitVec 14)⟩) rfl (by simp) ?_
  rintro ⟨⟩ h
  · (change readMajor0C _ = _; simp [readMajor0C])
  · cases h

theorem RoundTrip.fsgnjnD (d : BitVec 6) (a : BitVec 6) (b : BitVec 6) : RoundTrip.Statement (.fsgnjnD d a b) := by
  refine roundTrip_of_fields (x := ⟨12#6, d, a, (b ++ 9#8 : BitVec 14)⟩) rfl (by simp) ?_
  rintro ⟨⟩ h
  · (change readMajor0C _ = _; simp [readMajor0C])
  · cases h

theorem RoundTrip.fsgnjxD (d : BitVec 6) (a : BitVec 6) (b : BitVec 6) : RoundTrip.Statement (.fsgnjxD d a b) := by
  refine roundTrip_of_fields (x := ⟨12#6, d, a, (b ++ 10#8 : BitVec 14)⟩) rfl (by simp) ?_
  rintro ⟨⟩ h
  · (change readMajor0C _ = _; simp [readMajor0C])
  · cases h

theorem RoundTrip.feqD (d : BitVec 6) (a : BitVec 6) (b : BitVec 6) : RoundTrip.Statement (.feqD d a b) := by
  refine roundTrip_of_fields (x := ⟨12#6, d, a, (b ++ 11#8 : BitVec 14)⟩) rfl (by simp) ?_
  rintro ⟨⟩ h
  · (change readMajor0C _ = _; simp [readMajor0C])
  · cases h

theorem RoundTrip.fltD (d : BitVec 6) (a : BitVec 6) (b : BitVec 6) : RoundTrip.Statement (.fltD d a b) := by
  refine roundTrip_of_fields (x := ⟨12#6, d, a, (b ++ 12#8 : BitVec 14)⟩) rfl (by simp) ?_
  rintro ⟨⟩ h
  · (change readMajor0C _ = _; simp [readMajor0C])
  · cases h

theorem RoundTrip.fleD (d : BitVec 6) (a : BitVec 6) (b : BitVec 6) : RoundTrip.Statement (.fleD d a b) := by
  refine roundTrip_of_fields (x := ⟨12#6, d, a, (b ++ 13#8 : BitVec 14)⟩) rfl (by simp) ?_
  rintro ⟨⟩ h
  · (change readMajor0C _ = _; simp [readMajor0C])
  · cases h

theorem RoundTrip.fclassD (d : BitVec 6) (a : BitVec 6) : RoundTrip.Statement (.fclassD d a) := by
  refine roundTrip_of_fields (x := ⟨12#6, d, a, 14#14⟩) rfl (by simp) ?_
  rintro ⟨⟩ h
  · (change readMajor0C _ = _; simp [readMajor0C])
  · cases h

theorem RoundTrip.fcvtLD (d : BitVec 6) (a : BitVec 6) : RoundTrip.Statement (.fcvtLD d a) := by
  refine roundTrip_of_fields (x := ⟨12#6, d, a, 16#14⟩) rfl (by simp) ?_
  rintro ⟨⟩ h
  · (change readMajor0C _ = _; simp [readMajor0C])
  · cases h

theorem RoundTrip.fcvtLuD (d : BitVec 6) (a : BitVec 6) : RoundTrip.Statement (.fcvtLuD d a) := by
  refine roundTrip_of_fields (x := ⟨12#6, d, a, 17#14⟩) rfl (by simp) ?_
  rintro ⟨⟩ h
  · (change readMajor0C _ = _; simp [readMajor0C])
  · cases h

theorem RoundTrip.fcvtFlD (d : BitVec 6) (a : BitVec 6) : RoundTrip.Statement (.fcvtFlD d a) := by
  refine roundTrip_of_fields (x := ⟨12#6, d, a, 18#14⟩) rfl (by simp) ?_
  rintro ⟨⟩ h
  · (change readMajor0C _ = _; simp [readMajor0C])
  · cases h

theorem RoundTrip.fcvtFluD (d : BitVec 6) (a : BitVec 6) : RoundTrip.Statement (.fcvtFluD d a) := by
  refine roundTrip_of_fields (x := ⟨12#6, d, a, 19#14⟩) rfl (by simp) ?_
  rintro ⟨⟩ h
  · (change readMajor0C _ = _; simp [readMajor0C])
  · cases h

theorem RoundTrip.fcvtWD (d : BitVec 6) (a : BitVec 6) : RoundTrip.Statement (.fcvtWD d a) := by
  refine roundTrip_of_fields (x := ⟨12#6, d, a, 20#14⟩) rfl (by simp) ?_
  rintro ⟨⟩ h
  · (change readMajor0C _ = _; simp [readMajor0C])
  · cases h

theorem RoundTrip.faddS (d : BitVec 6) (a : BitVec 6) (b : BitVec 6) : RoundTrip.Statement (.faddS d a b) := by
  refine roundTrip_of_fields (x := ⟨13#6, d, a, (b ++ 1#8 : BitVec 14)⟩) rfl (by simp) ?_
  rintro ⟨⟩ h
  · (change readMajor0D _ = _; simp [readMajor0D])
  · cases h

theorem RoundTrip.fsubS (d : BitVec 6) (a : BitVec 6) (b : BitVec 6) : RoundTrip.Statement (.fsubS d a b) := by
  refine roundTrip_of_fields (x := ⟨13#6, d, a, (b ++ 2#8 : BitVec 14)⟩) rfl (by simp) ?_
  rintro ⟨⟩ h
  · (change readMajor0D _ = _; simp [readMajor0D])
  · cases h

theorem RoundTrip.fmulS (d : BitVec 6) (a : BitVec 6) (b : BitVec 6) : RoundTrip.Statement (.fmulS d a b) := by
  refine roundTrip_of_fields (x := ⟨13#6, d, a, (b ++ 3#8 : BitVec 14)⟩) rfl (by simp) ?_
  rintro ⟨⟩ h
  · (change readMajor0D _ = _; simp [readMajor0D])
  · cases h

theorem RoundTrip.fdivS (d : BitVec 6) (a : BitVec 6) (b : BitVec 6) : RoundTrip.Statement (.fdivS d a b) := by
  refine roundTrip_of_fields (x := ⟨13#6, d, a, (b ++ 4#8 : BitVec 14)⟩) rfl (by simp) ?_
  rintro ⟨⟩ h
  · (change readMajor0D _ = _; simp [readMajor0D])
  · cases h

theorem RoundTrip.fsqrtS (d : BitVec 6) (a : BitVec 6) : RoundTrip.Statement (.fsqrtS d a) := by
  refine roundTrip_of_fields (x := ⟨13#6, d, a, 5#14⟩) rfl (by simp) ?_
  rintro ⟨⟩ h
  · (change readMajor0D _ = _; simp [readMajor0D])
  · cases h

theorem RoundTrip.fminS (d : BitVec 6) (a : BitVec 6) (b : BitVec 6) : RoundTrip.Statement (.fminS d a b) := by
  refine roundTrip_of_fields (x := ⟨13#6, d, a, (b ++ 6#8 : BitVec 14)⟩) rfl (by simp) ?_
  rintro ⟨⟩ h
  · (change readMajor0D _ = _; simp [readMajor0D])
  · cases h

theorem RoundTrip.fmaxS (d : BitVec 6) (a : BitVec 6) (b : BitVec 6) : RoundTrip.Statement (.fmaxS d a b) := by
  refine roundTrip_of_fields (x := ⟨13#6, d, a, (b ++ 7#8 : BitVec 14)⟩) rfl (by simp) ?_
  rintro ⟨⟩ h
  · (change readMajor0D _ = _; simp [readMajor0D])
  · cases h

theorem RoundTrip.fsgnjS (d : BitVec 6) (a : BitVec 6) (b : BitVec 6) : RoundTrip.Statement (.fsgnjS d a b) := by
  refine roundTrip_of_fields (x := ⟨13#6, d, a, (b ++ 8#8 : BitVec 14)⟩) rfl (by simp) ?_
  rintro ⟨⟩ h
  · (change readMajor0D _ = _; simp [readMajor0D])
  · cases h

theorem RoundTrip.fsgnjnS (d : BitVec 6) (a : BitVec 6) (b : BitVec 6) : RoundTrip.Statement (.fsgnjnS d a b) := by
  refine roundTrip_of_fields (x := ⟨13#6, d, a, (b ++ 9#8 : BitVec 14)⟩) rfl (by simp) ?_
  rintro ⟨⟩ h
  · (change readMajor0D _ = _; simp [readMajor0D])
  · cases h

theorem RoundTrip.fsgnjxS (d : BitVec 6) (a : BitVec 6) (b : BitVec 6) : RoundTrip.Statement (.fsgnjxS d a b) := by
  refine roundTrip_of_fields (x := ⟨13#6, d, a, (b ++ 10#8 : BitVec 14)⟩) rfl (by simp) ?_
  rintro ⟨⟩ h
  · (change readMajor0D _ = _; simp [readMajor0D])
  · cases h

theorem RoundTrip.feqS (d : BitVec 6) (a : BitVec 6) (b : BitVec 6) : RoundTrip.Statement (.feqS d a b) := by
  refine roundTrip_of_fields (x := ⟨13#6, d, a, (b ++ 11#8 : BitVec 14)⟩) rfl (by simp) ?_
  rintro ⟨⟩ h
  · (change readMajor0D _ = _; simp [readMajor0D])
  · cases h

theorem RoundTrip.fltS (d : BitVec 6) (a : BitVec 6) (b : BitVec 6) : RoundTrip.Statement (.fltS d a b) := by
  refine roundTrip_of_fields (x := ⟨13#6, d, a, (b ++ 12#8 : BitVec 14)⟩) rfl (by simp) ?_
  rintro ⟨⟩ h
  · (change readMajor0D _ = _; simp [readMajor0D])
  · cases h

theorem RoundTrip.fleS (d : BitVec 6) (a : BitVec 6) (b : BitVec 6) : RoundTrip.Statement (.fleS d a b) := by
  refine roundTrip_of_fields (x := ⟨13#6, d, a, (b ++ 13#8 : BitVec 14)⟩) rfl (by simp) ?_
  rintro ⟨⟩ h
  · (change readMajor0D _ = _; simp [readMajor0D])
  · cases h

theorem RoundTrip.fclassS (d : BitVec 6) (a : BitVec 6) : RoundTrip.Statement (.fclassS d a) := by
  refine roundTrip_of_fields (x := ⟨13#6, d, a, 14#14⟩) rfl (by simp) ?_
  rintro ⟨⟩ h
  · (change readMajor0D _ = _; simp [readMajor0D])
  · cases h

theorem RoundTrip.fcvtLS (d : BitVec 6) (a : BitVec 6) : RoundTrip.Statement (.fcvtLS d a) := by
  refine roundTrip_of_fields (x := ⟨13#6, d, a, 16#14⟩) rfl (by simp) ?_
  rintro ⟨⟩ h
  · (change readMajor0D _ = _; simp [readMajor0D])
  · cases h

theorem RoundTrip.fcvtLuS (d : BitVec 6) (a : BitVec 6) : RoundTrip.Statement (.fcvtLuS d a) := by
  refine roundTrip_of_fields (x := ⟨13#6, d, a, 17#14⟩) rfl (by simp) ?_
  rintro ⟨⟩ h
  · (change readMajor0D _ = _; simp [readMajor0D])
  · cases h

theorem RoundTrip.fcvtFlS (d : BitVec 6) (a : BitVec 6) : RoundTrip.Statement (.fcvtFlS d a) := by
  refine roundTrip_of_fields (x := ⟨13#6, d, a, 18#14⟩) rfl (by simp) ?_
  rintro ⟨⟩ h
  · (change readMajor0D _ = _; simp [readMajor0D])
  · cases h

theorem RoundTrip.fcvtFluS (d : BitVec 6) (a : BitVec 6) : RoundTrip.Statement (.fcvtFluS d a) := by
  refine roundTrip_of_fields (x := ⟨13#6, d, a, 19#14⟩) rfl (by simp) ?_
  rintro ⟨⟩ h
  · (change readMajor0D _ = _; simp [readMajor0D])
  · cases h

theorem RoundTrip.fcvtWS (d : BitVec 6) (a : BitVec 6) : RoundTrip.Statement (.fcvtWS d a) := by
  refine roundTrip_of_fields (x := ⟨13#6, d, a, 20#14⟩) rfl (by simp) ?_
  rintro ⟨⟩ h
  · (change readMajor0D _ = _; simp [readMajor0D])
  · cases h

theorem RoundTrip.fmaddD (d : BitVec 6) (a : BitVec 6) (b : BitVec 6) (c : BitVec 6) : RoundTrip.Statement (.fmaddD d a b c) := by
  refine roundTrip_of_fields (x := ⟨14#6, d, a, (b ++ c ++ 0#2 : BitVec 14)⟩) rfl (by simp) ?_
  rintro ⟨⟩ h
  · (change readMajor0E _ = _; simp [readMajor0E])
  · cases h

theorem RoundTrip.fmsubD (d : BitVec 6) (a : BitVec 6) (b : BitVec 6) (c : BitVec 6) : RoundTrip.Statement (.fmsubD d a b c) := by
  refine roundTrip_of_fields (x := ⟨14#6, d, a, (b ++ c ++ 1#2 : BitVec 14)⟩) rfl (by simp) ?_
  rintro ⟨⟩ h
  · (change readMajor0E _ = _; simp [readMajor0E])
  · cases h

theorem RoundTrip.fnmaddD (d : BitVec 6) (a : BitVec 6) (b : BitVec 6) (c : BitVec 6) : RoundTrip.Statement (.fnmaddD d a b c) := by
  refine roundTrip_of_fields (x := ⟨14#6, d, a, (b ++ c ++ 2#2 : BitVec 14)⟩) rfl (by simp) ?_
  rintro ⟨⟩ h
  · (change readMajor0E _ = _; simp [readMajor0E])
  · cases h

theorem RoundTrip.fnmsubD (d : BitVec 6) (a : BitVec 6) (b : BitVec 6) (c : BitVec 6) : RoundTrip.Statement (.fnmsubD d a b c) := by
  refine roundTrip_of_fields (x := ⟨14#6, d, a, (b ++ c ++ 3#2 : BitVec 14)⟩) rfl (by simp) ?_
  rintro ⟨⟩ h
  · (change readMajor0E _ = _; simp [readMajor0E])
  · cases h

theorem RoundTrip.fmaddS (d : BitVec 6) (a : BitVec 6) (b : BitVec 6) (c : BitVec 6) : RoundTrip.Statement (.fmaddS d a b c) := by
  refine roundTrip_of_fields (x := ⟨15#6, d, a, (b ++ c ++ 0#2 : BitVec 14)⟩) rfl (by simp) ?_
  rintro ⟨⟩ h
  · (change readMajor0F _ = _; simp [readMajor0F])
  · cases h

theorem RoundTrip.fmsubS (d : BitVec 6) (a : BitVec 6) (b : BitVec 6) (c : BitVec 6) : RoundTrip.Statement (.fmsubS d a b c) := by
  refine roundTrip_of_fields (x := ⟨15#6, d, a, (b ++ c ++ 1#2 : BitVec 14)⟩) rfl (by simp) ?_
  rintro ⟨⟩ h
  · (change readMajor0F _ = _; simp [readMajor0F])
  · cases h

theorem RoundTrip.fnmaddS (d : BitVec 6) (a : BitVec 6) (b : BitVec 6) (c : BitVec 6) : RoundTrip.Statement (.fnmaddS d a b c) := by
  refine roundTrip_of_fields (x := ⟨15#6, d, a, (b ++ c ++ 2#2 : BitVec 14)⟩) rfl (by simp) ?_
  rintro ⟨⟩ h
  · (change readMajor0F _ = _; simp [readMajor0F])
  · cases h

theorem RoundTrip.fnmsubS (d : BitVec 6) (a : BitVec 6) (b : BitVec 6) (c : BitVec 6) : RoundTrip.Statement (.fnmsubS d a b c) := by
  refine roundTrip_of_fields (x := ⟨15#6, d, a, (b ++ c ++ 3#2 : BitVec 14)⟩) rfl (by simp) ?_
  rintro ⟨⟩ h
  · (change readMajor0F _ = _; simp [readMajor0F])
  · cases h

theorem RoundTrip.lb (d : BitVec 6) (a : BitVec 6) (o : BitVec 11) : RoundTrip.Statement (.lb d a o) := by
  refine roundTrip_of_fields (x := ⟨16#6, d, a, (0#3 ++ o : BitVec 14)⟩) rfl (by simp) ?_
  rintro ⟨⟩ h
  · (change readMajor10 _ = _; simp [readMajor10])
  · (change readMajor10 _ = _; simp [readMajor10])

theorem RoundTrip.lh (d : BitVec 6) (a : BitVec 6) (o : BitVec 11) : RoundTrip.Statement (.lh d a o) := by
  refine roundTrip_of_fields (x := ⟨16#6, d, a, (1#3 ++ o : BitVec 14)⟩) rfl (by simp) ?_
  rintro ⟨⟩ h
  · (change readMajor10 _ = _; simp [readMajor10])
  · (change readMajor10 _ = _; simp [readMajor10])

theorem RoundTrip.lw (d : BitVec 6) (a : BitVec 6) (o : BitVec 11) : RoundTrip.Statement (.lw d a o) := by
  refine roundTrip_of_fields (x := ⟨16#6, d, a, (2#3 ++ o : BitVec 14)⟩) rfl (by simp) ?_
  rintro ⟨⟩ h
  · (change readMajor10 _ = _; simp [readMajor10])
  · (change readMajor10 _ = _; simp [readMajor10])

theorem RoundTrip.ld (d : BitVec 6) (a : BitVec 6) (o : BitVec 11) : RoundTrip.Statement (.ld d a o) := by
  refine roundTrip_of_fields (x := ⟨16#6, d, a, (3#3 ++ o : BitVec 14)⟩) rfl (by simp) ?_
  rintro ⟨⟩ h
  · (change readMajor10 _ = _; simp [readMajor10])
  · (change readMajor10 _ = _; simp [readMajor10])

theorem RoundTrip.lbu (d : BitVec 6) (a : BitVec 6) (o : BitVec 11) : RoundTrip.Statement (.lbu d a o) := by
  refine roundTrip_of_fields (x := ⟨16#6, d, a, (4#3 ++ o : BitVec 14)⟩) rfl (by simp) ?_
  rintro ⟨⟩ h
  · (change readMajor10 _ = _; simp [readMajor10])
  · (change readMajor10 _ = _; simp [readMajor10])

theorem RoundTrip.lhu (d : BitVec 6) (a : BitVec 6) (o : BitVec 11) : RoundTrip.Statement (.lhu d a o) := by
  refine roundTrip_of_fields (x := ⟨16#6, d, a, (5#3 ++ o : BitVec 14)⟩) rfl (by simp) ?_
  rintro ⟨⟩ h
  · (change readMajor10 _ = _; simp [readMajor10])
  · (change readMajor10 _ = _; simp [readMajor10])

theorem RoundTrip.lwu (d : BitVec 6) (a : BitVec 6) (o : BitVec 11) : RoundTrip.Statement (.lwu d a o) := by
  refine roundTrip_of_fields (x := ⟨16#6, d, a, (6#3 ++ o : BitVec 14)⟩) rfl (by simp) ?_
  rintro ⟨⟩ h
  · (change readMajor10 _ = _; simp [readMajor10])
  · (change readMajor10 _ = _; simp [readMajor10])

theorem RoundTrip.sb (d : BitVec 6) (a : BitVec 6) (n : Bool) (o : BitVec 10) : RoundTrip.Statement (.sb d a n o) := by
  refine roundTrip_of_fields (x := ⟨17#6, d, a, (0#3 ++ BitVec.ofBool n ++ o : BitVec 14)⟩) rfl (by simp) ?_
  rintro ⟨⟩ h
  · (change readMajor11 _ = _; simp [readMajor11])
  · (change readMajor11 _ = _; simp [readMajor11])

theorem RoundTrip.sh (d : BitVec 6) (a : BitVec 6) (n : Bool) (o : BitVec 10) : RoundTrip.Statement (.sh d a n o) := by
  refine roundTrip_of_fields (x := ⟨17#6, d, a, (1#3 ++ BitVec.ofBool n ++ o : BitVec 14)⟩) rfl (by simp) ?_
  rintro ⟨⟩ h
  · (change readMajor11 _ = _; simp [readMajor11])
  · (change readMajor11 _ = _; simp [readMajor11])

theorem RoundTrip.sw (d : BitVec 6) (a : BitVec 6) (n : Bool) (o : BitVec 10) : RoundTrip.Statement (.sw d a n o) := by
  refine roundTrip_of_fields (x := ⟨17#6, d, a, (2#3 ++ BitVec.ofBool n ++ o : BitVec 14)⟩) rfl (by simp) ?_
  rintro ⟨⟩ h
  · (change readMajor11 _ = _; simp [readMajor11])
  · (change readMajor11 _ = _; simp [readMajor11])

theorem RoundTrip.sd (d : BitVec 6) (a : BitVec 6) (n : Bool) (o : BitVec 10) : RoundTrip.Statement (.sd d a n o) := by
  refine roundTrip_of_fields (x := ⟨17#6, d, a, (3#3 ++ BitVec.ofBool n ++ o : BitVec 14)⟩) rfl (by simp) ?_
  rintro ⟨⟩ h
  · (change readMajor11 _ = _; simp [readMajor11])
  · (change readMajor11 _ = _; simp [readMajor11])

theorem RoundTrip.lbAq (d : BitVec 6) (a : BitVec 6) (sc : BitVec 3) : RoundTrip.Statement (.lbAq d a sc) := by
  refine roundTrip_of_fields (x := ⟨18#6, d, a, (0#6 ++ sc ++ 0#5 : BitVec 14)⟩) rfl (by simp) ?_
  rintro ⟨⟩ h
  · (change readMajor12 _ = _; simp [readMajor12])
  · (change readMajor12 _ = _; simp [readMajor12])

theorem RoundTrip.lhAq (d : BitVec 6) (a : BitVec 6) (sc : BitVec 3) : RoundTrip.Statement (.lhAq d a sc) := by
  refine roundTrip_of_fields (x := ⟨18#6, d, a, (0#6 ++ sc ++ 2#5 : BitVec 14)⟩) rfl (by simp) ?_
  rintro ⟨⟩ h
  · (change readMajor12 _ = _; simp [readMajor12])
  · (change readMajor12 _ = _; simp [readMajor12])

theorem RoundTrip.lwAq (d : BitVec 6) (a : BitVec 6) (sc : BitVec 3) : RoundTrip.Statement (.lwAq d a sc) := by
  refine roundTrip_of_fields (x := ⟨18#6, d, a, (0#6 ++ sc ++ 4#5 : BitVec 14)⟩) rfl (by simp) ?_
  rintro ⟨⟩ h
  · (change readMajor12 _ = _; simp [readMajor12])
  · (change readMajor12 _ = _; simp [readMajor12])

theorem RoundTrip.ldAq (d : BitVec 6) (a : BitVec 6) (sc : BitVec 3) : RoundTrip.Statement (.ldAq d a sc) := by
  refine roundTrip_of_fields (x := ⟨18#6, d, a, (0#6 ++ sc ++ 6#5 : BitVec 14)⟩) rfl (by simp) ?_
  rintro ⟨⟩ h
  · (change readMajor12 _ = _; simp [readMajor12])
  · (change readMajor12 _ = _; simp [readMajor12])

theorem RoundTrip.lbuAq (d : BitVec 6) (a : BitVec 6) (sc : BitVec 3) : RoundTrip.Statement (.lbuAq d a sc) := by
  refine roundTrip_of_fields (x := ⟨18#6, d, a, (0#6 ++ sc ++ 8#5 : BitVec 14)⟩) rfl (by simp) ?_
  rintro ⟨⟩ h
  · (change readMajor12 _ = _; simp [readMajor12])
  · (change readMajor12 _ = _; simp [readMajor12])

theorem RoundTrip.lhuAq (d : BitVec 6) (a : BitVec 6) (sc : BitVec 3) : RoundTrip.Statement (.lhuAq d a sc) := by
  refine roundTrip_of_fields (x := ⟨18#6, d, a, (0#6 ++ sc ++ 10#5 : BitVec 14)⟩) rfl (by simp) ?_
  rintro ⟨⟩ h
  · (change readMajor12 _ = _; simp [readMajor12])
  · (change readMajor12 _ = _; simp [readMajor12])

theorem RoundTrip.lwuAq (d : BitVec 6) (a : BitVec 6) (sc : BitVec 3) : RoundTrip.Statement (.lwuAq d a sc) := by
  refine roundTrip_of_fields (x := ⟨18#6, d, a, (0#6 ++ sc ++ 12#5 : BitVec 14)⟩) rfl (by simp) ?_
  rintro ⟨⟩ h
  · (change readMajor12 _ = _; simp [readMajor12])
  · (change readMajor12 _ = _; simp [readMajor12])

theorem RoundTrip.sbRl (d : BitVec 6) (a : BitVec 6) (sc : BitVec 3) : RoundTrip.Statement (.sbRl d a sc) := by
  refine roundTrip_of_fields (x := ⟨18#6, d, a, (0#6 ++ sc ++ 16#5 : BitVec 14)⟩) rfl (by simp) ?_
  rintro ⟨⟩ h
  · (change readMajor12 _ = _; simp [readMajor12])
  · (change readMajor12 _ = _; simp [readMajor12])

theorem RoundTrip.shRl (d : BitVec 6) (a : BitVec 6) (sc : BitVec 3) : RoundTrip.Statement (.shRl d a sc) := by
  refine roundTrip_of_fields (x := ⟨18#6, d, a, (0#6 ++ sc ++ 18#5 : BitVec 14)⟩) rfl (by simp) ?_
  rintro ⟨⟩ h
  · (change readMajor12 _ = _; simp [readMajor12])
  · (change readMajor12 _ = _; simp [readMajor12])

theorem RoundTrip.swRl (d : BitVec 6) (a : BitVec 6) (sc : BitVec 3) : RoundTrip.Statement (.swRl d a sc) := by
  refine roundTrip_of_fields (x := ⟨18#6, d, a, (0#6 ++ sc ++ 20#5 : BitVec 14)⟩) rfl (by simp) ?_
  rintro ⟨⟩ h
  · (change readMajor12 _ = _; simp [readMajor12])
  · (change readMajor12 _ = _; simp [readMajor12])

theorem RoundTrip.sdRl (d : BitVec 6) (a : BitVec 6) (sc : BitVec 3) : RoundTrip.Statement (.sdRl d a sc) := by
  refine roundTrip_of_fields (x := ⟨18#6, d, a, (0#6 ++ sc ++ 22#5 : BitVec 14)⟩) rfl (by simp) ?_
  rintro ⟨⟩ h
  · (change readMajor12 _ = _; simp [readMajor12])
  · (change readMajor12 _ = _; simp [readMajor12])

theorem RoundTrip.amoadd (d : BitVec 6) (a : BitVec 6) (b : BitVec 6) (q : BitVec 2) (sc : Bool) (w : Bool) : RoundTrip.Statement (.amoadd d a b q sc w) := by
  refine roundTrip_of_fields (x := ⟨19#6, d, a, (b ++ 0#4 ++ q ++ BitVec.ofBool sc ++ BitVec.ofBool w : BitVec 14)⟩) rfl (by simp) ?_
  rintro ⟨⟩ h
  · (change readMajor13 _ = _; simp [readMajor13])
  · (change readMajor13 _ = _; simp [readMajor13])

theorem RoundTrip.amoswap (d : BitVec 6) (a : BitVec 6) (b : BitVec 6) (q : BitVec 2) (sc : Bool) (w : Bool) : RoundTrip.Statement (.amoswap d a b q sc w) := by
  refine roundTrip_of_fields (x := ⟨19#6, d, a, (b ++ 1#4 ++ q ++ BitVec.ofBool sc ++ BitVec.ofBool w : BitVec 14)⟩) rfl (by simp) ?_
  rintro ⟨⟩ h
  · (change readMajor13 _ = _; simp [readMajor13])
  · (change readMajor13 _ = _; simp [readMajor13])

theorem RoundTrip.amoand (d : BitVec 6) (a : BitVec 6) (b : BitVec 6) (q : BitVec 2) (sc : Bool) (w : Bool) : RoundTrip.Statement (.amoand d a b q sc w) := by
  refine roundTrip_of_fields (x := ⟨19#6, d, a, (b ++ 2#4 ++ q ++ BitVec.ofBool sc ++ BitVec.ofBool w : BitVec 14)⟩) rfl (by simp) ?_
  rintro ⟨⟩ h
  · (change readMajor13 _ = _; simp [readMajor13])
  · (change readMajor13 _ = _; simp [readMajor13])

theorem RoundTrip.amoor (d : BitVec 6) (a : BitVec 6) (b : BitVec 6) (q : BitVec 2) (sc : Bool) (w : Bool) : RoundTrip.Statement (.amoor d a b q sc w) := by
  refine roundTrip_of_fields (x := ⟨19#6, d, a, (b ++ 3#4 ++ q ++ BitVec.ofBool sc ++ BitVec.ofBool w : BitVec 14)⟩) rfl (by simp) ?_
  rintro ⟨⟩ h
  · (change readMajor13 _ = _; simp [readMajor13])
  · (change readMajor13 _ = _; simp [readMajor13])

theorem RoundTrip.amoxor (d : BitVec 6) (a : BitVec 6) (b : BitVec 6) (q : BitVec 2) (sc : Bool) (w : Bool) : RoundTrip.Statement (.amoxor d a b q sc w) := by
  refine roundTrip_of_fields (x := ⟨19#6, d, a, (b ++ 4#4 ++ q ++ BitVec.ofBool sc ++ BitVec.ofBool w : BitVec 14)⟩) rfl (by simp) ?_
  rintro ⟨⟩ h
  · (change readMajor13 _ = _; simp [readMajor13])
  · (change readMajor13 _ = _; simp [readMajor13])

theorem RoundTrip.amomin (d : BitVec 6) (a : BitVec 6) (b : BitVec 6) (q : BitVec 2) (sc : Bool) (w : Bool) : RoundTrip.Statement (.amomin d a b q sc w) := by
  refine roundTrip_of_fields (x := ⟨19#6, d, a, (b ++ 5#4 ++ q ++ BitVec.ofBool sc ++ BitVec.ofBool w : BitVec 14)⟩) rfl (by simp) ?_
  rintro ⟨⟩ h
  · (change readMajor13 _ = _; simp [readMajor13])
  · (change readMajor13 _ = _; simp [readMajor13])

theorem RoundTrip.amomax (d : BitVec 6) (a : BitVec 6) (b : BitVec 6) (q : BitVec 2) (sc : Bool) (w : Bool) : RoundTrip.Statement (.amomax d a b q sc w) := by
  refine roundTrip_of_fields (x := ⟨19#6, d, a, (b ++ 6#4 ++ q ++ BitVec.ofBool sc ++ BitVec.ofBool w : BitVec 14)⟩) rfl (by simp) ?_
  rintro ⟨⟩ h
  · (change readMajor13 _ = _; simp [readMajor13])
  · (change readMajor13 _ = _; simp [readMajor13])

theorem RoundTrip.amominu (d : BitVec 6) (a : BitVec 6) (b : BitVec 6) (q : BitVec 2) (sc : Bool) (w : Bool) : RoundTrip.Statement (.amominu d a b q sc w) := by
  refine roundTrip_of_fields (x := ⟨19#6, d, a, (b ++ 7#4 ++ q ++ BitVec.ofBool sc ++ BitVec.ofBool w : BitVec 14)⟩) rfl (by simp) ?_
  rintro ⟨⟩ h
  · (change readMajor13 _ = _; simp [readMajor13])
  · (change readMajor13 _ = _; simp [readMajor13])

theorem RoundTrip.amomaxu (d : BitVec 6) (a : BitVec 6) (b : BitVec 6) (q : BitVec 2) (sc : Bool) (w : Bool) : RoundTrip.Statement (.amomaxu d a b q sc w) := by
  refine roundTrip_of_fields (x := ⟨19#6, d, a, (b ++ 8#4 ++ q ++ BitVec.ofBool sc ++ BitVec.ofBool w : BitVec 14)⟩) rfl (by simp) ?_
  rintro ⟨⟩ h
  · (change readMajor13 _ = _; simp [readMajor13])
  · (change readMajor13 _ = _; simp [readMajor13])

theorem RoundTrip.amocas (d : BitVec 6) (a : BitVec 6) (b : BitVec 6) (q : BitVec 2) (sc : Bool) (w : Bool) : RoundTrip.Statement (.amocas d a b q sc w) := by
  refine roundTrip_of_fields (x := ⟨19#6, d, a, (b ++ 9#4 ++ q ++ BitVec.ofBool sc ++ BitVec.ofBool w : BitVec 14)⟩) rfl (by simp) ?_
  rintro ⟨⟩ h
  · (change readMajor13 _ = _; simp [readMajor13])
  · (change readMajor13 _ = _; simp [readMajor13])

theorem RoundTrip.amoaddTw (d : BitVec 6) (a : BitVec 6) (b : BitVec 6) (q : BitVec 2) (sc : Bool) (w : Bool) : RoundTrip.Statement (.amoaddTw d a b q sc w) := by
  refine roundTrip_of_fields (x := ⟨19#6, d, a, (b ++ 10#4 ++ q ++ BitVec.ofBool sc ++ BitVec.ofBool w : BitVec 14)⟩) rfl (by simp) ?_
  rintro ⟨⟩ h
  · (change readMajor13 _ = _; simp [readMajor13])
  · (change readMajor13 _ = _; simp [readMajor13])

theorem RoundTrip.amofadd (d : BitVec 6) (a : BitVec 6) (b : BitVec 6) (q : BitVec 2) (sc : Bool) (w : Bool) : RoundTrip.Statement (.amofadd d a b q sc w) := by
  refine roundTrip_of_fields (x := ⟨19#6, d, a, (b ++ 11#4 ++ q ++ BitVec.ofBool sc ++ BitVec.ofBool w : BitVec 14)⟩) rfl (by simp) ?_
  rintro ⟨⟩ h
  · (change readMajor13 _ = _; simp [readMajor13])
  · (change readMajor13 _ = _; simp [readMajor13])

theorem RoundTrip.beq (d : BitVec 6) (a : BitVec 6) (i : BitVec 14) : RoundTrip.Statement (.beq d a i) := by
  refine roundTrip_of_fields (x := ⟨20#6, d, a, i⟩) rfl (by simp) ?_
  rintro ⟨⟩ h
  · (change readMajor14 _ = _; simp [readMajor14])
  · (change readMajor14 _ = _; simp [readMajor14])

theorem RoundTrip.bne (d : BitVec 6) (a : BitVec 6) (i : BitVec 14) : RoundTrip.Statement (.bne d a i) := by
  refine roundTrip_of_fields (x := ⟨21#6, d, a, i⟩) rfl (by simp) ?_
  rintro ⟨⟩ h
  · (change readMajor15 _ = _; simp [readMajor15])
  · (change readMajor15 _ = _; simp [readMajor15])

theorem RoundTrip.blt (d : BitVec 6) (a : BitVec 6) (i : BitVec 14) : RoundTrip.Statement (.blt d a i) := by
  refine roundTrip_of_fields (x := ⟨22#6, d, a, i⟩) rfl (by simp) ?_
  rintro ⟨⟩ h
  · (change readMajor16 _ = _; simp [readMajor16])
  · (change readMajor16 _ = _; simp [readMajor16])

theorem RoundTrip.bge (d : BitVec 6) (a : BitVec 6) (i : BitVec 14) : RoundTrip.Statement (.bge d a i) := by
  refine roundTrip_of_fields (x := ⟨23#6, d, a, i⟩) rfl (by simp) ?_
  rintro ⟨⟩ h
  · (change readMajor17 _ = _; simp [readMajor17])
  · (change readMajor17 _ = _; simp [readMajor17])

theorem RoundTrip.bltu (d : BitVec 6) (a : BitVec 6) (i : BitVec 14) : RoundTrip.Statement (.bltu d a i) := by
  refine roundTrip_of_fields (x := ⟨24#6, d, a, i⟩) rfl (by simp) ?_
  rintro ⟨⟩ h
  · (change readMajor18 _ = _; simp [readMajor18])
  · (change readMajor18 _ = _; simp [readMajor18])

theorem RoundTrip.bgeu (d : BitVec 6) (a : BitVec 6) (i : BitVec 14) : RoundTrip.Statement (.bgeu d a i) := by
  refine roundTrip_of_fields (x := ⟨25#6, d, a, i⟩) rfl (by simp) ?_
  rintro ⟨⟩ h
  · (change readMajor19 _ = _; simp [readMajor19])
  · (change readMajor19 _ = _; simp [readMajor19])

theorem RoundTrip.jal (d : BitVec 6) (w : BitVec 20) : RoundTrip.Statement (.jal d w) := by
  refine roundTrip_of_fields (x := ⟨26#6, d, w.extractLsb' 14 6, w.extractLsb' 0 14⟩) rfl (by simp) ?_
  rintro ⟨⟩ h
  · (change readMajor1A _ = _; simp [readMajor1A])
  · (change readMajor1A _ = _; simp [readMajor1A])

theorem RoundTrip.jalr (d : BitVec 6) (a : BitVec 6) (i : BitVec 14) : RoundTrip.Statement (.jalr d a i) := by
  refine roundTrip_of_fields (x := ⟨27#6, d, a, i⟩) rfl (by simp) ?_
  rintro ⟨⟩ h
  · (change readMajor1B _ = _; simp [readMajor1B])
  · (change readMajor1B _ = _; simp [readMajor1B])

theorem RoundTrip.fence (sc : BitVec 3) (k : BitVec 3) : RoundTrip.Statement (.fence sc k) := by
  refine roundTrip_of_fields (x := ⟨28#6, (sc ++ k : BitVec 6), 0#6, 1#14⟩) rfl (by simp) ?_
  rintro ⟨⟩ h
  · (change readMajor1C _ = _; simp [readMajor1C])
  · (change readMajor1C _ = _; simp [readMajor1C])

theorem RoundTrip.fenceSv : RoundTrip.Statement .fenceSv := by
  refine roundTrip_of_fields (x := ⟨28#6, 0#6, 0#6, 2#14⟩) rfl (by simp) ?_
  rintro ⟨⟩ h
  · (change readMajor1C _ = _; simp [readMajor1C])
  · cases h

theorem RoundTrip.ifence : RoundTrip.Statement .ifence := by
  refine roundTrip_of_fields (x := ⟨28#6, 0#6, 0#6, 3#14⟩) rfl (by simp) ?_
  rintro ⟨⟩ h
  · (change readMajor1C _ = _; simp [readMajor1C])
  · cases h

theorem RoundTrip.waitw (d : BitVec 6) (a : BitVec 6) (b : BitVec 6) : RoundTrip.Statement (.waitw d a b) := by
  refine roundTrip_of_fields (x := ⟨28#6, d, a, (b ++ 4#8 : BitVec 14)⟩) rfl (by simp) ?_
  rintro ⟨⟩ h
  · (change readMajor1C _ = _; simp [readMajor1C])
  · (change readMajor1C _ = _; simp [readMajor1C])

theorem RoundTrip.barsync : RoundTrip.Statement .barsync := by
  refine roundTrip_of_fields (x := ⟨28#6, 0#6, 0#6, 5#14⟩) rfl (by simp) ?_
  rintro ⟨⟩ h
  · (change readMajor1C _ = _; simp [readMajor1C])
  · cases h

theorem RoundTrip.barrive : RoundTrip.Statement .barrive := by
  refine roundTrip_of_fields (x := ⟨28#6, 0#6, 0#6, 6#14⟩) rfl (by simp) ?_
  rintro ⟨⟩ h
  · (change readMajor1C _ = _; simp [readMajor1C])
  · cases h

theorem RoundTrip.bardrop : RoundTrip.Statement .bardrop := by
  refine roundTrip_of_fields (x := ⟨28#6, 0#6, 0#6, 7#14⟩) rfl (by simp) ?_
  rintro ⟨⟩ h
  · (change readMajor1C _ = _; simp [readMajor1C])
  · cases h

theorem RoundTrip.barwait : RoundTrip.Statement .barwait := by
  refine roundTrip_of_fields (x := ⟨28#6, 0#6, 0#6, 8#14⟩) rfl (by simp) ?_
  rintro ⟨⟩ h
  · (change readMajor1C _ = _; simp [readMajor1C])
  · cases h

theorem RoundTrip.csrrw (d : BitVec 6) (a : BitVec 6) (c : BitVec 12) : RoundTrip.Statement (.csrrw d a c) := by
  refine roundTrip_of_fields (x := ⟨29#6, d, a, (0#2 ++ c : BitVec 14)⟩) rfl (by simp) ?_
  rintro ⟨⟩ h
  · (change readMajor1D _ = _; simp [readMajor1D])
  · (change readMajor1D _ = _; simp [readMajor1D])

theorem RoundTrip.csrrs (d : BitVec 6) (a : BitVec 6) (c : BitVec 12) : RoundTrip.Statement (.csrrs d a c) := by
  refine roundTrip_of_fields (x := ⟨29#6, d, a, (1#2 ++ c : BitVec 14)⟩) rfl (by simp) ?_
  rintro ⟨⟩ h
  · (change readMajor1D _ = _; simp [readMajor1D])
  · (change readMajor1D _ = _; simp [readMajor1D])

theorem RoundTrip.csrrc (d : BitVec 6) (a : BitVec 6) (c : BitVec 12) : RoundTrip.Statement (.csrrc d a c) := by
  refine roundTrip_of_fields (x := ⟨29#6, d, a, (2#2 ++ c : BitVec 14)⟩) rfl (by simp) ?_
  rintro ⟨⟩ h
  · (change readMajor1D _ = _; simp [readMajor1D])
  · (change readMajor1D _ = _; simp [readMajor1D])

theorem RoundTrip.taskget (d : BitVec 6) : RoundTrip.Statement (.taskget d) := by
  refine roundTrip_of_fields (x := ⟨30#6, d, 0#6, 1#14⟩) rfl (by simp) ?_
  rintro ⟨⟩ h
  · (change readMajor1E _ = _; simp [readMajor1E])
  · cases h

theorem RoundTrip.taskput (a : BitVec 6) : RoundTrip.Statement (.taskput a) := by
  refine roundTrip_of_fields (x := ⟨30#6, 0#6, a, 2#14⟩) rfl (by simp) ?_
  rintro ⟨⟩ h
  · (change readMajor1E _ = _; simp [readMajor1E])
  · cases h

theorem RoundTrip.launch (d : BitVec 6) (a : BitVec 6) : RoundTrip.Statement (.launch d a) := by
  refine roundTrip_of_fields (x := ⟨30#6, d, a, 3#14⟩) rfl (by simp) ?_
  rintro ⟨⟩ h
  · (change readMajor1E _ = _; simp [readMajor1E])
  · cases h

theorem RoundTrip.kend : RoundTrip.Statement .kend := by
  refine roundTrip_of_fields (x := ⟨30#6, 0#6, 0#6, 4#14⟩) rfl (by simp) ?_
  rintro ⟨⟩ h
  · (change readMajor1E _ = _; simp [readMajor1E])
  · cases h

theorem RoundTrip.accessKend : RoundTrip.Statement .accessKend := by
  refine roundTrip_of_fields (x := ⟨30#6, 0#6, 0#6, 4#14⟩) rfl (by simp) ?_
  rintro ⟨⟩ h
  · cases h
  · (change readMajor1EAccess _ = _; simp [readMajor1EAccess])

theorem RoundTrip.brk : RoundTrip.Statement .brk := by
  refine roundTrip_of_fields (x := ⟨30#6, 0#6, 0#6, 5#14⟩) rfl (by simp) ?_
  rintro ⟨⟩ h
  · (change readMajor1E _ = _; simp [readMajor1E])
  · cases h

theorem RoundTrip.bqpop (d : BitVec 6) (k : BitVec 2) : RoundTrip.Statement (.bqpop d k) := by
  refine roundTrip_of_fields (x := ⟨31#6, d, (0#4 ++ k : BitVec 6), 1#14⟩) rfl (by simp) ?_
  rintro ⟨⟩ h
  · (change readMajor1F _ = _; simp [readMajor1F])
  · cases h

theorem RoundTrip.bqpush (k : BitVec 2) (a : BitVec 6) : RoundTrip.Statement (.bqpush k a) := by
  refine roundTrip_of_fields (x := ⟨31#6, (0#4 ++ k : BitVec 6), a, 2#14⟩) rfl (by simp) ?_
  rintro ⟨⟩ h
  · cases h
  · (change readMajor1F _ = _; simp [readMajor1F])

theorem RoundTrip.vadd (d : BitVec 6) (a : BitVec 6) (b : BitVec 6) (n : Bool) (sc : Bool) (m : Bool) (g : Bool) (l : Bool) : RoundTrip.Statement (.vadd d a b n sc m g l) := by
  refine roundTrip_of_fields (x := ⟨(8#4 ++ BitVec.ofBool g ++ BitVec.ofBool l : BitVec 6), d, a, (b ++ BitVec.ofBool n ++ BitVec.ofBool sc ++ BitVec.ofBool m ++ 0#5 : BitVec 14)⟩) rfl (by simp) ?_
  rintro ⟨⟩ h
  · cases g <;> cases l <;> (change readMajor20 _ = _; simp [readMajor20])
  · cases g <;> cases l <;> (change readMajor20 _ = _; simp [readMajor20])

theorem RoundTrip.vsub (d : BitVec 6) (a : BitVec 6) (b : BitVec 6) (n : Bool) (sc : Bool) (m : Bool) (g : Bool) (l : Bool) : RoundTrip.Statement (.vsub d a b n sc m g l) := by
  refine roundTrip_of_fields (x := ⟨(8#4 ++ BitVec.ofBool g ++ BitVec.ofBool l : BitVec 6), d, a, (b ++ BitVec.ofBool n ++ BitVec.ofBool sc ++ BitVec.ofBool m ++ 1#5 : BitVec 14)⟩) rfl (by simp) ?_
  rintro ⟨⟩ h
  · cases g <;> cases l <;> (change readMajor20 _ = _; simp [readMajor20])
  · cases g <;> cases l <;> (change readMajor20 _ = _; simp [readMajor20])

theorem RoundTrip.vmul (d : BitVec 6) (a : BitVec 6) (b : BitVec 6) (n : Bool) (sc : Bool) (m : Bool) (g : Bool) (l : Bool) : RoundTrip.Statement (.vmul d a b n sc m g l) := by
  refine roundTrip_of_fields (x := ⟨(8#4 ++ BitVec.ofBool g ++ BitVec.ofBool l : BitVec 6), d, a, (b ++ BitVec.ofBool n ++ BitVec.ofBool sc ++ BitVec.ofBool m ++ 2#5 : BitVec 14)⟩) rfl (by simp) ?_
  rintro ⟨⟩ h
  · cases g <;> cases l <;> (change readMajor20 _ = _; simp [readMajor20])
  · cases g <;> cases l <;> (change readMajor20 _ = _; simp [readMajor20])

theorem RoundTrip.vdiv (d : BitVec 6) (a : BitVec 6) (b : BitVec 6) (n : Bool) (sc : Bool) (m : Bool) (g : Bool) (l : Bool) : RoundTrip.Statement (.vdiv d a b n sc m g l) := by
  refine roundTrip_of_fields (x := ⟨(8#4 ++ BitVec.ofBool g ++ BitVec.ofBool l : BitVec 6), d, a, (b ++ BitVec.ofBool n ++ BitVec.ofBool sc ++ BitVec.ofBool m ++ 3#5 : BitVec 14)⟩) rfl (by simp) ?_
  rintro ⟨⟩ h
  · cases g <;> cases l <;> (change readMajor20 _ = _; simp [readMajor20])
  · cases g <;> cases l <;> (change readMajor20 _ = _; simp [readMajor20])

theorem RoundTrip.vmin (d : BitVec 6) (a : BitVec 6) (b : BitVec 6) (n : Bool) (sc : Bool) (m : Bool) (g : Bool) (l : Bool) : RoundTrip.Statement (.vmin d a b n sc m g l) := by
  refine roundTrip_of_fields (x := ⟨(8#4 ++ BitVec.ofBool g ++ BitVec.ofBool l : BitVec 6), d, a, (b ++ BitVec.ofBool n ++ BitVec.ofBool sc ++ BitVec.ofBool m ++ 4#5 : BitVec 14)⟩) rfl (by simp) ?_
  rintro ⟨⟩ h
  · cases g <;> cases l <;> (change readMajor20 _ = _; simp [readMajor20])
  · cases g <;> cases l <;> (change readMajor20 _ = _; simp [readMajor20])

theorem RoundTrip.vmax (d : BitVec 6) (a : BitVec 6) (b : BitVec 6) (n : Bool) (sc : Bool) (m : Bool) (g : Bool) (l : Bool) : RoundTrip.Statement (.vmax d a b n sc m g l) := by
  refine roundTrip_of_fields (x := ⟨(8#4 ++ BitVec.ofBool g ++ BitVec.ofBool l : BitVec 6), d, a, (b ++ BitVec.ofBool n ++ BitVec.ofBool sc ++ BitVec.ofBool m ++ 5#5 : BitVec 14)⟩) rfl (by simp) ?_
  rintro ⟨⟩ h
  · cases g <;> cases l <;> (change readMajor20 _ = _; simp [readMajor20])
  · cases g <;> cases l <;> (change readMajor20 _ = _; simp [readMajor20])

theorem RoundTrip.vsadd (d : BitVec 6) (a : BitVec 6) (b : BitVec 6) (n : Bool) (sc : Bool) (m : Bool) (g : Bool) (l : Bool) : RoundTrip.Statement (.vsadd d a b n sc m g l) := by
  refine roundTrip_of_fields (x := ⟨(8#4 ++ BitVec.ofBool g ++ BitVec.ofBool l : BitVec 6), d, a, (b ++ BitVec.ofBool n ++ BitVec.ofBool sc ++ BitVec.ofBool m ++ 6#5 : BitVec 14)⟩) rfl (by simp) ?_
  rintro ⟨⟩ h
  · cases g <;> cases l <;> (change readMajor20 _ = _; simp [readMajor20])
  · cases g <;> cases l <;> (change readMajor20 _ = _; simp [readMajor20])

theorem RoundTrip.vssub (d : BitVec 6) (a : BitVec 6) (b : BitVec 6) (n : Bool) (sc : Bool) (m : Bool) (g : Bool) (l : Bool) : RoundTrip.Statement (.vssub d a b n sc m g l) := by
  refine roundTrip_of_fields (x := ⟨(8#4 ++ BitVec.ofBool g ++ BitVec.ofBool l : BitVec 6), d, a, (b ++ BitVec.ofBool n ++ BitVec.ofBool sc ++ BitVec.ofBool m ++ 7#5 : BitVec 14)⟩) rfl (by simp) ?_
  rintro ⟨⟩ h
  · cases g <;> cases l <;> (change readMajor20 _ = _; simp [readMajor20])
  · cases g <;> cases l <;> (change readMajor20 _ = _; simp [readMajor20])

theorem RoundTrip.vmulh (d : BitVec 6) (a : BitVec 6) (b : BitVec 6) (n : Bool) (sc : Bool) (m : Bool) (g : Bool) (l : Bool) : RoundTrip.Statement (.vmulh d a b n sc m g l) := by
  refine roundTrip_of_fields (x := ⟨(8#4 ++ BitVec.ofBool g ++ BitVec.ofBool l : BitVec 6), d, a, (b ++ BitVec.ofBool n ++ BitVec.ofBool sc ++ BitVec.ofBool m ++ 8#5 : BitVec 14)⟩) rfl (by simp) ?_
  rintro ⟨⟩ h
  · cases g <;> cases l <;> (change readMajor20 _ = _; simp [readMajor20])
  · cases g <;> cases l <;> (change readMajor20 _ = _; simp [readMajor20])

theorem RoundTrip.vrem (d : BitVec 6) (a : BitVec 6) (b : BitVec 6) (n : Bool) (sc : Bool) (m : Bool) (g : Bool) (l : Bool) : RoundTrip.Statement (.vrem d a b n sc m g l) := by
  refine roundTrip_of_fields (x := ⟨(8#4 ++ BitVec.ofBool g ++ BitVec.ofBool l : BitVec 6), d, a, (b ++ BitVec.ofBool n ++ BitVec.ofBool sc ++ BitVec.ofBool m ++ 9#5 : BitVec 14)⟩) rfl (by simp) ?_
  rintro ⟨⟩ h
  · cases g <;> cases l <;> (change readMajor20 _ = _; simp [readMajor20])
  · cases g <;> cases l <;> (change readMajor20 _ = _; simp [readMajor20])

theorem RoundTrip.vand (d : BitVec 6) (a : BitVec 6) (b : BitVec 6) (n : Bool) (sc : Bool) (m : Bool) (g : Bool) (l : Bool) : RoundTrip.Statement (.vand d a b n sc m g l) := by
  refine roundTrip_of_fields (x := ⟨(8#4 ++ BitVec.ofBool g ++ BitVec.ofBool l : BitVec 6), d, a, (b ++ BitVec.ofBool n ++ BitVec.ofBool sc ++ BitVec.ofBool m ++ 10#5 : BitVec 14)⟩) rfl (by simp) ?_
  rintro ⟨⟩ h
  · cases g <;> cases l <;> (change readMajor20 _ = _; simp [readMajor20])
  · cases g <;> cases l <;> (change readMajor20 _ = _; simp [readMajor20])

theorem RoundTrip.vor (d : BitVec 6) (a : BitVec 6) (b : BitVec 6) (n : Bool) (sc : Bool) (m : Bool) (g : Bool) (l : Bool) : RoundTrip.Statement (.vor d a b n sc m g l) := by
  refine roundTrip_of_fields (x := ⟨(8#4 ++ BitVec.ofBool g ++ BitVec.ofBool l : BitVec 6), d, a, (b ++ BitVec.ofBool n ++ BitVec.ofBool sc ++ BitVec.ofBool m ++ 11#5 : BitVec 14)⟩) rfl (by simp) ?_
  rintro ⟨⟩ h
  · cases g <;> cases l <;> (change readMajor20 _ = _; simp [readMajor20])
  · cases g <;> cases l <;> (change readMajor20 _ = _; simp [readMajor20])

theorem RoundTrip.vxor (d : BitVec 6) (a : BitVec 6) (b : BitVec 6) (n : Bool) (sc : Bool) (m : Bool) (g : Bool) (l : Bool) : RoundTrip.Statement (.vxor d a b n sc m g l) := by
  refine roundTrip_of_fields (x := ⟨(8#4 ++ BitVec.ofBool g ++ BitVec.ofBool l : BitVec 6), d, a, (b ++ BitVec.ofBool n ++ BitVec.ofBool sc ++ BitVec.ofBool m ++ 12#5 : BitVec 14)⟩) rfl (by simp) ?_
  rintro ⟨⟩ h
  · cases g <;> cases l <;> (change readMajor20 _ = _; simp [readMajor20])
  · cases g <;> cases l <;> (change readMajor20 _ = _; simp [readMajor20])

theorem RoundTrip.vsll (d : BitVec 6) (a : BitVec 6) (b : BitVec 6) (n : Bool) (sc : Bool) (m : Bool) (g : Bool) (l : Bool) : RoundTrip.Statement (.vsll d a b n sc m g l) := by
  refine roundTrip_of_fields (x := ⟨(8#4 ++ BitVec.ofBool g ++ BitVec.ofBool l : BitVec 6), d, a, (b ++ BitVec.ofBool n ++ BitVec.ofBool sc ++ BitVec.ofBool m ++ 13#5 : BitVec 14)⟩) rfl (by simp) ?_
  rintro ⟨⟩ h
  · cases g <;> cases l <;> (change readMajor20 _ = _; simp [readMajor20])
  · cases g <;> cases l <;> (change readMajor20 _ = _; simp [readMajor20])

theorem RoundTrip.vshr (d : BitVec 6) (a : BitVec 6) (b : BitVec 6) (n : Bool) (sc : Bool) (m : Bool) (g : Bool) (l : Bool) : RoundTrip.Statement (.vshr d a b n sc m g l) := by
  refine roundTrip_of_fields (x := ⟨(8#4 ++ BitVec.ofBool g ++ BitVec.ofBool l : BitVec 6), d, a, (b ++ BitVec.ofBool n ++ BitVec.ofBool sc ++ BitVec.ofBool m ++ 14#5 : BitVec 14)⟩) rfl (by simp) ?_
  rintro ⟨⟩ h
  · cases g <;> cases l <;> (change readMajor20 _ = _; simp [readMajor20])
  · cases g <;> cases l <;> (change readMajor20 _ = _; simp [readMajor20])

theorem RoundTrip.vsqrt (d : BitVec 6) (a : BitVec 6) (n : Bool) (sc : Bool) (m : Bool) (g : Bool) (l : Bool) : RoundTrip.Statement (.vsqrt d a n sc m g l) := by
  refine roundTrip_of_fields (x := ⟨(8#4 ++ BitVec.ofBool g ++ BitVec.ofBool l : BitVec 6), d, a, (0#6 ++ BitVec.ofBool n ++ BitVec.ofBool sc ++ BitVec.ofBool m ++ 15#5 : BitVec 14)⟩) rfl (by simp) ?_
  rintro ⟨⟩ h
  · cases g <;> cases l <;> (change readMajor20 _ = _; simp [readMajor20])
  · cases g <;> cases l <;> (change readMajor20 _ = _; simp [readMajor20])

theorem RoundTrip.vabs (d : BitVec 6) (a : BitVec 6) (n : Bool) (sc : Bool) (m : Bool) (g : Bool) (l : Bool) : RoundTrip.Statement (.vabs d a n sc m g l) := by
  refine roundTrip_of_fields (x := ⟨(8#4 ++ BitVec.ofBool g ++ BitVec.ofBool l : BitVec 6), d, a, (0#6 ++ BitVec.ofBool n ++ BitVec.ofBool sc ++ BitVec.ofBool m ++ 16#5 : BitVec 14)⟩) rfl (by simp) ?_
  rintro ⟨⟩ h
  · cases g <;> cases l <;> (change readMajor20 _ = _; simp [readMajor20])
  · cases g <;> cases l <;> (change readMajor20 _ = _; simp [readMajor20])

theorem RoundTrip.vneg (d : BitVec 6) (a : BitVec 6) (n : Bool) (sc : Bool) (m : Bool) (g : Bool) (l : Bool) : RoundTrip.Statement (.vneg d a n sc m g l) := by
  refine roundTrip_of_fields (x := ⟨(8#4 ++ BitVec.ofBool g ++ BitVec.ofBool l : BitVec 6), d, a, (0#6 ++ BitVec.ofBool n ++ BitVec.ofBool sc ++ BitVec.ofBool m ++ 17#5 : BitVec 14)⟩) rfl (by simp) ?_
  rintro ⟨⟩ h
  · cases g <;> cases l <;> (change readMajor20 _ = _; simp [readMajor20])
  · cases g <;> cases l <;> (change readMajor20 _ = _; simp [readMajor20])

theorem RoundTrip.vsgnj (d : BitVec 6) (a : BitVec 6) (b : BitVec 6) (n : Bool) (sc : Bool) (m : Bool) (g : Bool) (l : Bool) : RoundTrip.Statement (.vsgnj d a b n sc m g l) := by
  refine roundTrip_of_fields (x := ⟨(8#4 ++ BitVec.ofBool g ++ BitVec.ofBool l : BitVec 6), d, a, (b ++ BitVec.ofBool n ++ BitVec.ofBool sc ++ BitVec.ofBool m ++ 18#5 : BitVec 14)⟩) rfl (by simp) ?_
  rintro ⟨⟩ h
  · cases g <;> cases l <;> (change readMajor20 _ = _; simp [readMajor20])
  · cases g <;> cases l <;> (change readMajor20 _ = _; simp [readMajor20])

theorem RoundTrip.vsgnjn (d : BitVec 6) (a : BitVec 6) (b : BitVec 6) (n : Bool) (sc : Bool) (m : Bool) (g : Bool) (l : Bool) : RoundTrip.Statement (.vsgnjn d a b n sc m g l) := by
  refine roundTrip_of_fields (x := ⟨(8#4 ++ BitVec.ofBool g ++ BitVec.ofBool l : BitVec 6), d, a, (b ++ BitVec.ofBool n ++ BitVec.ofBool sc ++ BitVec.ofBool m ++ 19#5 : BitVec 14)⟩) rfl (by simp) ?_
  rintro ⟨⟩ h
  · cases g <;> cases l <;> (change readMajor20 _ = _; simp [readMajor20])
  · cases g <;> cases l <;> (change readMajor20 _ = _; simp [readMajor20])

theorem RoundTrip.vsgnjx (d : BitVec 6) (a : BitVec 6) (b : BitVec 6) (n : Bool) (sc : Bool) (m : Bool) (g : Bool) (l : Bool) : RoundTrip.Statement (.vsgnjx d a b n sc m g l) := by
  refine roundTrip_of_fields (x := ⟨(8#4 ++ BitVec.ofBool g ++ BitVec.ofBool l : BitVec 6), d, a, (b ++ BitVec.ofBool n ++ BitVec.ofBool sc ++ BitVec.ofBool m ++ 20#5 : BitVec 14)⟩) rfl (by simp) ?_
  rintro ⟨⟩ h
  · cases g <;> cases l <;> (change readMajor20 _ = _; simp [readMajor20])
  · cases g <;> cases l <;> (change readMajor20 _ = _; simp [readMajor20])

theorem RoundTrip.vclass (d : BitVec 6) (a : BitVec 6) (n : Bool) (sc : Bool) (m : Bool) (g : Bool) (l : Bool) : RoundTrip.Statement (.vclass d a n sc m g l) := by
  refine roundTrip_of_fields (x := ⟨(8#4 ++ BitVec.ofBool g ++ BitVec.ofBool l : BitVec 6), d, a, (0#6 ++ BitVec.ofBool n ++ BitVec.ofBool sc ++ BitVec.ofBool m ++ 21#5 : BitVec 14)⟩) rfl (by simp) ?_
  rintro ⟨⟩ h
  · cases g <;> cases l <;> (change readMajor20 _ = _; simp [readMajor20])
  · cases g <;> cases l <;> (change readMajor20 _ = _; simp [readMajor20])

theorem RoundTrip.vmv (d : BitVec 6) (a : BitVec 6) (n : Bool) (sc : Bool) (m : Bool) (g : Bool) (l : Bool) : RoundTrip.Statement (.vmv d a n sc m g l) := by
  refine roundTrip_of_fields (x := ⟨(8#4 ++ BitVec.ofBool g ++ BitVec.ofBool l : BitVec 6), d, a, (0#6 ++ BitVec.ofBool n ++ BitVec.ofBool sc ++ BitVec.ofBool m ++ 22#5 : BitVec 14)⟩) rfl (by simp) ?_
  rintro ⟨⟩ h
  · cases g <;> cases l <;> (change readMajor20 _ = _; simp [readMajor20])
  · cases g <;> cases l <;> (change readMajor20 _ = _; simp [readMajor20])

theorem RoundTrip.vfmadd (d : BitVec 6) (a : BitVec 6) (b : BitVec 6) (n : Bool) (sc : Bool) (m : Bool) (g : Bool) : RoundTrip.Statement (.vfmadd d a b n sc m g) := by
  refine roundTrip_of_fields (x := ⟨(18#5 ++ BitVec.ofBool g : BitVec 6), d, a, (b ++ BitVec.ofBool n ++ BitVec.ofBool sc ++ BitVec.ofBool m ++ 0#5 : BitVec 14)⟩) rfl (by simp) ?_
  rintro ⟨⟩ h
  · cases g <;> (change readMajor24 _ = _; simp [readMajor24])
  · cases h

theorem RoundTrip.vfmsub (d : BitVec 6) (a : BitVec 6) (b : BitVec 6) (n : Bool) (sc : Bool) (m : Bool) (g : Bool) : RoundTrip.Statement (.vfmsub d a b n sc m g) := by
  refine roundTrip_of_fields (x := ⟨(18#5 ++ BitVec.ofBool g : BitVec 6), d, a, (b ++ BitVec.ofBool n ++ BitVec.ofBool sc ++ BitVec.ofBool m ++ 1#5 : BitVec 14)⟩) rfl (by simp) ?_
  rintro ⟨⟩ h
  · cases g <;> (change readMajor24 _ = _; simp [readMajor24])
  · cases h

theorem RoundTrip.vfnmadd (d : BitVec 6) (a : BitVec 6) (b : BitVec 6) (n : Bool) (sc : Bool) (m : Bool) (g : Bool) : RoundTrip.Statement (.vfnmadd d a b n sc m g) := by
  refine roundTrip_of_fields (x := ⟨(18#5 ++ BitVec.ofBool g : BitVec 6), d, a, (b ++ BitVec.ofBool n ++ BitVec.ofBool sc ++ BitVec.ofBool m ++ 2#5 : BitVec 14)⟩) rfl (by simp) ?_
  rintro ⟨⟩ h
  · cases g <;> (change readMajor24 _ = _; simp [readMajor24])
  · cases h

theorem RoundTrip.vfnmsub (d : BitVec 6) (a : BitVec 6) (b : BitVec 6) (n : Bool) (sc : Bool) (m : Bool) (g : Bool) : RoundTrip.Statement (.vfnmsub d a b n sc m g) := by
  refine roundTrip_of_fields (x := ⟨(18#5 ++ BitVec.ofBool g : BitVec 6), d, a, (b ++ BitVec.ofBool n ++ BitVec.ofBool sc ++ BitVec.ofBool m ++ 3#5 : BitVec 14)⟩) rfl (by simp) ?_
  rintro ⟨⟩ h
  · cases g <;> (change readMajor24 _ = _; simp [readMajor24])
  · cases h

theorem RoundTrip.vaddAcc (d : BitVec 6) (a : BitVec 6) (b : BitVec 6) (n : Bool) (sc : Bool) (m : Bool) : RoundTrip.Statement (.vaddAcc d a b n sc m) := by
  refine roundTrip_of_fields (x := ⟨45#6, d, a, (b ++ BitVec.ofBool n ++ BitVec.ofBool sc ++ BitVec.ofBool m ++ 0#5 : BitVec 14)⟩) rfl (by simp) ?_
  rintro ⟨⟩ h
  · (change readMajor2D _ = _; simp [readMajor2D])
  · cases h

theorem RoundTrip.vsubAcc (d : BitVec 6) (a : BitVec 6) (b : BitVec 6) (n : Bool) (sc : Bool) (m : Bool) : RoundTrip.Statement (.vsubAcc d a b n sc m) := by
  refine roundTrip_of_fields (x := ⟨45#6, d, a, (b ++ BitVec.ofBool n ++ BitVec.ofBool sc ++ BitVec.ofBool m ++ 1#5 : BitVec 14)⟩) rfl (by simp) ?_
  rintro ⟨⟩ h
  · (change readMajor2D _ = _; simp [readMajor2D])
  · cases h

theorem RoundTrip.vmulAcc (d : BitVec 6) (a : BitVec 6) (b : BitVec 6) (n : Bool) (sc : Bool) (m : Bool) : RoundTrip.Statement (.vmulAcc d a b n sc m) := by
  refine roundTrip_of_fields (x := ⟨45#6, d, a, (b ++ BitVec.ofBool n ++ BitVec.ofBool sc ++ BitVec.ofBool m ++ 2#5 : BitVec 14)⟩) rfl (by simp) ?_
  rintro ⟨⟩ h
  · (change readMajor2D _ = _; simp [readMajor2D])
  · cases h

theorem RoundTrip.vdivAcc (d : BitVec 6) (a : BitVec 6) (b : BitVec 6) (n : Bool) (sc : Bool) (m : Bool) : RoundTrip.Statement (.vdivAcc d a b n sc m) := by
  refine roundTrip_of_fields (x := ⟨45#6, d, a, (b ++ BitVec.ofBool n ++ BitVec.ofBool sc ++ BitVec.ofBool m ++ 3#5 : BitVec 14)⟩) rfl (by simp) ?_
  rintro ⟨⟩ h
  · (change readMajor2D _ = _; simp [readMajor2D])
  · cases h

theorem RoundTrip.vminAcc (d : BitVec 6) (a : BitVec 6) (b : BitVec 6) (n : Bool) (sc : Bool) (m : Bool) : RoundTrip.Statement (.vminAcc d a b n sc m) := by
  refine roundTrip_of_fields (x := ⟨45#6, d, a, (b ++ BitVec.ofBool n ++ BitVec.ofBool sc ++ BitVec.ofBool m ++ 4#5 : BitVec 14)⟩) rfl (by simp) ?_
  rintro ⟨⟩ h
  · (change readMajor2D _ = _; simp [readMajor2D])
  · cases h

theorem RoundTrip.vmaxAcc (d : BitVec 6) (a : BitVec 6) (b : BitVec 6) (n : Bool) (sc : Bool) (m : Bool) : RoundTrip.Statement (.vmaxAcc d a b n sc m) := by
  refine roundTrip_of_fields (x := ⟨45#6, d, a, (b ++ BitVec.ofBool n ++ BitVec.ofBool sc ++ BitVec.ofBool m ++ 5#5 : BitVec 14)⟩) rfl (by simp) ?_
  rintro ⟨⟩ h
  · (change readMajor2D _ = _; simp [readMajor2D])
  · cases h

theorem RoundTrip.vsaddAcc (d : BitVec 6) (a : BitVec 6) (b : BitVec 6) (n : Bool) (sc : Bool) (m : Bool) : RoundTrip.Statement (.vsaddAcc d a b n sc m) := by
  refine roundTrip_of_fields (x := ⟨45#6, d, a, (b ++ BitVec.ofBool n ++ BitVec.ofBool sc ++ BitVec.ofBool m ++ 6#5 : BitVec 14)⟩) rfl (by simp) ?_
  rintro ⟨⟩ h
  · (change readMajor2D _ = _; simp [readMajor2D])
  · cases h

theorem RoundTrip.vssubAcc (d : BitVec 6) (a : BitVec 6) (b : BitVec 6) (n : Bool) (sc : Bool) (m : Bool) : RoundTrip.Statement (.vssubAcc d a b n sc m) := by
  refine roundTrip_of_fields (x := ⟨45#6, d, a, (b ++ BitVec.ofBool n ++ BitVec.ofBool sc ++ BitVec.ofBool m ++ 7#5 : BitVec 14)⟩) rfl (by simp) ?_
  rintro ⟨⟩ h
  · (change readMajor2D _ = _; simp [readMajor2D])
  · cases h

theorem RoundTrip.vmulhAcc (d : BitVec 6) (a : BitVec 6) (b : BitVec 6) (n : Bool) (sc : Bool) (m : Bool) : RoundTrip.Statement (.vmulhAcc d a b n sc m) := by
  refine roundTrip_of_fields (x := ⟨45#6, d, a, (b ++ BitVec.ofBool n ++ BitVec.ofBool sc ++ BitVec.ofBool m ++ 8#5 : BitVec 14)⟩) rfl (by simp) ?_
  rintro ⟨⟩ h
  · (change readMajor2D _ = _; simp [readMajor2D])
  · cases h

theorem RoundTrip.vremAcc (d : BitVec 6) (a : BitVec 6) (b : BitVec 6) (n : Bool) (sc : Bool) (m : Bool) : RoundTrip.Statement (.vremAcc d a b n sc m) := by
  refine roundTrip_of_fields (x := ⟨45#6, d, a, (b ++ BitVec.ofBool n ++ BitVec.ofBool sc ++ BitVec.ofBool m ++ 9#5 : BitVec 14)⟩) rfl (by simp) ?_
  rintro ⟨⟩ h
  · (change readMajor2D _ = _; simp [readMajor2D])
  · cases h

theorem RoundTrip.vandAcc (d : BitVec 6) (a : BitVec 6) (b : BitVec 6) (n : Bool) (sc : Bool) (m : Bool) : RoundTrip.Statement (.vandAcc d a b n sc m) := by
  refine roundTrip_of_fields (x := ⟨45#6, d, a, (b ++ BitVec.ofBool n ++ BitVec.ofBool sc ++ BitVec.ofBool m ++ 10#5 : BitVec 14)⟩) rfl (by simp) ?_
  rintro ⟨⟩ h
  · (change readMajor2D _ = _; simp [readMajor2D])
  · cases h

theorem RoundTrip.vorAcc (d : BitVec 6) (a : BitVec 6) (b : BitVec 6) (n : Bool) (sc : Bool) (m : Bool) : RoundTrip.Statement (.vorAcc d a b n sc m) := by
  refine roundTrip_of_fields (x := ⟨45#6, d, a, (b ++ BitVec.ofBool n ++ BitVec.ofBool sc ++ BitVec.ofBool m ++ 11#5 : BitVec 14)⟩) rfl (by simp) ?_
  rintro ⟨⟩ h
  · (change readMajor2D _ = _; simp [readMajor2D])
  · cases h

theorem RoundTrip.vxorAcc (d : BitVec 6) (a : BitVec 6) (b : BitVec 6) (n : Bool) (sc : Bool) (m : Bool) : RoundTrip.Statement (.vxorAcc d a b n sc m) := by
  refine roundTrip_of_fields (x := ⟨45#6, d, a, (b ++ BitVec.ofBool n ++ BitVec.ofBool sc ++ BitVec.ofBool m ++ 12#5 : BitVec 14)⟩) rfl (by simp) ?_
  rintro ⟨⟩ h
  · (change readMajor2D _ = _; simp [readMajor2D])
  · cases h

theorem RoundTrip.vsllAcc (d : BitVec 6) (a : BitVec 6) (b : BitVec 6) (n : Bool) (sc : Bool) (m : Bool) : RoundTrip.Statement (.vsllAcc d a b n sc m) := by
  refine roundTrip_of_fields (x := ⟨45#6, d, a, (b ++ BitVec.ofBool n ++ BitVec.ofBool sc ++ BitVec.ofBool m ++ 13#5 : BitVec 14)⟩) rfl (by simp) ?_
  rintro ⟨⟩ h
  · (change readMajor2D _ = _; simp [readMajor2D])
  · cases h

theorem RoundTrip.vshrAcc (d : BitVec 6) (a : BitVec 6) (b : BitVec 6) (n : Bool) (sc : Bool) (m : Bool) : RoundTrip.Statement (.vshrAcc d a b n sc m) := by
  refine roundTrip_of_fields (x := ⟨45#6, d, a, (b ++ BitVec.ofBool n ++ BitVec.ofBool sc ++ BitVec.ofBool m ++ 14#5 : BitVec 14)⟩) rfl (by simp) ?_
  rintro ⟨⟩ h
  · (change readMajor2D _ = _; simp [readMajor2D])
  · cases h

theorem RoundTrip.vsqrtAcc (d : BitVec 6) (a : BitVec 6) (n : Bool) (sc : Bool) (m : Bool) : RoundTrip.Statement (.vsqrtAcc d a n sc m) := by
  refine roundTrip_of_fields (x := ⟨45#6, d, a, (0#6 ++ BitVec.ofBool n ++ BitVec.ofBool sc ++ BitVec.ofBool m ++ 15#5 : BitVec 14)⟩) rfl (by simp) ?_
  rintro ⟨⟩ h
  · (change readMajor2D _ = _; simp [readMajor2D])
  · cases h

theorem RoundTrip.vabsAcc (d : BitVec 6) (a : BitVec 6) (n : Bool) (sc : Bool) (m : Bool) : RoundTrip.Statement (.vabsAcc d a n sc m) := by
  refine roundTrip_of_fields (x := ⟨45#6, d, a, (0#6 ++ BitVec.ofBool n ++ BitVec.ofBool sc ++ BitVec.ofBool m ++ 16#5 : BitVec 14)⟩) rfl (by simp) ?_
  rintro ⟨⟩ h
  · (change readMajor2D _ = _; simp [readMajor2D])
  · cases h

theorem RoundTrip.vnegAcc (d : BitVec 6) (a : BitVec 6) (n : Bool) (sc : Bool) (m : Bool) : RoundTrip.Statement (.vnegAcc d a n sc m) := by
  refine roundTrip_of_fields (x := ⟨45#6, d, a, (0#6 ++ BitVec.ofBool n ++ BitVec.ofBool sc ++ BitVec.ofBool m ++ 17#5 : BitVec 14)⟩) rfl (by simp) ?_
  rintro ⟨⟩ h
  · (change readMajor2D _ = _; simp [readMajor2D])
  · cases h

theorem RoundTrip.vsgnjAcc (d : BitVec 6) (a : BitVec 6) (b : BitVec 6) (n : Bool) (sc : Bool) (m : Bool) : RoundTrip.Statement (.vsgnjAcc d a b n sc m) := by
  refine roundTrip_of_fields (x := ⟨45#6, d, a, (b ++ BitVec.ofBool n ++ BitVec.ofBool sc ++ BitVec.ofBool m ++ 18#5 : BitVec 14)⟩) rfl (by simp) ?_
  rintro ⟨⟩ h
  · (change readMajor2D _ = _; simp [readMajor2D])
  · cases h

theorem RoundTrip.vsgnjnAcc (d : BitVec 6) (a : BitVec 6) (b : BitVec 6) (n : Bool) (sc : Bool) (m : Bool) : RoundTrip.Statement (.vsgnjnAcc d a b n sc m) := by
  refine roundTrip_of_fields (x := ⟨45#6, d, a, (b ++ BitVec.ofBool n ++ BitVec.ofBool sc ++ BitVec.ofBool m ++ 19#5 : BitVec 14)⟩) rfl (by simp) ?_
  rintro ⟨⟩ h
  · (change readMajor2D _ = _; simp [readMajor2D])
  · cases h

theorem RoundTrip.vsgnjxAcc (d : BitVec 6) (a : BitVec 6) (b : BitVec 6) (n : Bool) (sc : Bool) (m : Bool) : RoundTrip.Statement (.vsgnjxAcc d a b n sc m) := by
  refine roundTrip_of_fields (x := ⟨45#6, d, a, (b ++ BitVec.ofBool n ++ BitVec.ofBool sc ++ BitVec.ofBool m ++ 20#5 : BitVec 14)⟩) rfl (by simp) ?_
  rintro ⟨⟩ h
  · (change readMajor2D _ = _; simp [readMajor2D])
  · cases h

theorem RoundTrip.vclassAcc (d : BitVec 6) (a : BitVec 6) (n : Bool) (sc : Bool) (m : Bool) : RoundTrip.Statement (.vclassAcc d a n sc m) := by
  refine roundTrip_of_fields (x := ⟨45#6, d, a, (0#6 ++ BitVec.ofBool n ++ BitVec.ofBool sc ++ BitVec.ofBool m ++ 21#5 : BitVec 14)⟩) rfl (by simp) ?_
  rintro ⟨⟩ h
  · (change readMajor2D _ = _; simp [readMajor2D])
  · cases h

theorem RoundTrip.vmvAcc (d : BitVec 6) (a : BitVec 6) (n : Bool) (sc : Bool) (m : Bool) : RoundTrip.Statement (.vmvAcc d a n sc m) := by
  refine roundTrip_of_fields (x := ⟨45#6, d, a, (0#6 ++ BitVec.ofBool n ++ BitVec.ofBool sc ++ BitVec.ofBool m ++ 22#5 : BitVec 14)⟩) rfl (by simp) ?_
  rintro ⟨⟩ h
  · (change readMajor2D _ = _; simp [readMajor2D])
  · cases h

theorem RoundTrip.vfmaddAcc (d : BitVec 6) (a : BitVec 6) (b : BitVec 6) (n : Bool) (sc : Bool) (m : Bool) : RoundTrip.Statement (.vfmaddAcc d a b n sc m) := by
  refine roundTrip_of_fields (x := ⟨46#6, d, a, (b ++ BitVec.ofBool n ++ BitVec.ofBool sc ++ BitVec.ofBool m ++ 0#5 : BitVec 14)⟩) rfl (by simp) ?_
  rintro ⟨⟩ h
  · (change readMajor2E _ = _; simp [readMajor2E])
  · cases h

theorem RoundTrip.vfmsubAcc (d : BitVec 6) (a : BitVec 6) (b : BitVec 6) (n : Bool) (sc : Bool) (m : Bool) : RoundTrip.Statement (.vfmsubAcc d a b n sc m) := by
  refine roundTrip_of_fields (x := ⟨46#6, d, a, (b ++ BitVec.ofBool n ++ BitVec.ofBool sc ++ BitVec.ofBool m ++ 1#5 : BitVec 14)⟩) rfl (by simp) ?_
  rintro ⟨⟩ h
  · (change readMajor2E _ = _; simp [readMajor2E])
  · cases h

theorem RoundTrip.vfnmaddAcc (d : BitVec 6) (a : BitVec 6) (b : BitVec 6) (n : Bool) (sc : Bool) (m : Bool) : RoundTrip.Statement (.vfnmaddAcc d a b n sc m) := by
  refine roundTrip_of_fields (x := ⟨46#6, d, a, (b ++ BitVec.ofBool n ++ BitVec.ofBool sc ++ BitVec.ofBool m ++ 2#5 : BitVec 14)⟩) rfl (by simp) ?_
  rintro ⟨⟩ h
  · (change readMajor2E _ = _; simp [readMajor2E])
  · cases h

theorem RoundTrip.vfnmsubAcc (d : BitVec 6) (a : BitVec 6) (b : BitVec 6) (n : Bool) (sc : Bool) (m : Bool) : RoundTrip.Statement (.vfnmsubAcc d a b n sc m) := by
  refine roundTrip_of_fields (x := ⟨46#6, d, a, (b ++ BitVec.ofBool n ++ BitVec.ofBool sc ++ BitVec.ofBool m ++ 3#5 : BitVec 14)⟩) rfl (by simp) ?_
  rintro ⟨⟩ h
  · (change readMajor2E _ = _; simp [readMajor2E])
  · cases h

theorem RoundTrip.vcmpeq (d : BitVec 6) (a : BitVec 6) (b : BitVec 6) (m : Bool) (g : Bool) : RoundTrip.Statement (.vcmpeq d a b m g) := by
  refine roundTrip_of_fields (x := ⟨38#6, d, a, (b ++ 0#2 ++ BitVec.ofBool m ++ BitVec.ofBool g ++ 0#4 : BitVec 14)⟩) rfl (by simp) ?_
  rintro ⟨⟩ h
  · (change readMajor26 _ = _; simp [readMajor26])
  · (change readMajor26 _ = _; simp [readMajor26])

theorem RoundTrip.vcmpne (d : BitVec 6) (a : BitVec 6) (b : BitVec 6) (m : Bool) (g : Bool) : RoundTrip.Statement (.vcmpne d a b m g) := by
  refine roundTrip_of_fields (x := ⟨38#6, d, a, (b ++ 0#2 ++ BitVec.ofBool m ++ BitVec.ofBool g ++ 1#4 : BitVec 14)⟩) rfl (by simp) ?_
  rintro ⟨⟩ h
  · (change readMajor26 _ = _; simp [readMajor26])
  · (change readMajor26 _ = _; simp [readMajor26])

theorem RoundTrip.vcmplt (d : BitVec 6) (a : BitVec 6) (b : BitVec 6) (m : Bool) (g : Bool) : RoundTrip.Statement (.vcmplt d a b m g) := by
  refine roundTrip_of_fields (x := ⟨38#6, d, a, (b ++ 0#2 ++ BitVec.ofBool m ++ BitVec.ofBool g ++ 2#4 : BitVec 14)⟩) rfl (by simp) ?_
  rintro ⟨⟩ h
  · (change readMajor26 _ = _; simp [readMajor26])
  · (change readMajor26 _ = _; simp [readMajor26])

theorem RoundTrip.vcmple (d : BitVec 6) (a : BitVec 6) (b : BitVec 6) (m : Bool) (g : Bool) : RoundTrip.Statement (.vcmple d a b m g) := by
  refine roundTrip_of_fields (x := ⟨38#6, d, a, (b ++ 0#2 ++ BitVec.ofBool m ++ BitVec.ofBool g ++ 3#4 : BitVec 14)⟩) rfl (by simp) ?_
  rintro ⟨⟩ h
  · (change readMajor26 _ = _; simp [readMajor26])
  · (change readMajor26 _ = _; simp [readMajor26])

theorem RoundTrip.vcmpgt (d : BitVec 6) (a : BitVec 6) (b : BitVec 6) (m : Bool) (g : Bool) : RoundTrip.Statement (.vcmpgt d a b m g) := by
  refine roundTrip_of_fields (x := ⟨38#6, d, a, (b ++ 0#2 ++ BitVec.ofBool m ++ BitVec.ofBool g ++ 4#4 : BitVec 14)⟩) rfl (by simp) ?_
  rintro ⟨⟩ h
  · (change readMajor26 _ = _; simp [readMajor26])
  · (change readMajor26 _ = _; simp [readMajor26])

theorem RoundTrip.vcmpge (d : BitVec 6) (a : BitVec 6) (b : BitVec 6) (m : Bool) (g : Bool) : RoundTrip.Statement (.vcmpge d a b m g) := by
  refine roundTrip_of_fields (x := ⟨38#6, d, a, (b ++ 0#2 ++ BitVec.ofBool m ++ BitVec.ofBool g ++ 5#4 : BitVec 14)⟩) rfl (by simp) ?_
  rintro ⟨⟩ h
  · (change readMajor26 _ = _; simp [readMajor26])
  · (change readMajor26 _ = _; simp [readMajor26])

theorem RoundTrip.vcmpunord (d : BitVec 6) (a : BitVec 6) (b : BitVec 6) (m : Bool) (g : Bool) : RoundTrip.Statement (.vcmpunord d a b m g) := by
  refine roundTrip_of_fields (x := ⟨38#6, d, a, (b ++ 0#2 ++ BitVec.ofBool m ++ BitVec.ofBool g ++ 6#4 : BitVec 14)⟩) rfl (by simp) ?_
  rintro ⟨⟩ h
  · (change readMajor26 _ = _; simp [readMajor26])
  · (change readMajor26 _ = _; simp [readMajor26])

theorem RoundTrip.vmand (d : BitVec 6) (a : BitVec 6) (b : BitVec 6) : RoundTrip.Statement (.vmand d a b) := by
  refine roundTrip_of_fields (x := ⟨39#6, d, a, (b ++ 0#8 : BitVec 14)⟩) rfl (by simp) ?_
  rintro ⟨⟩ h
  · (change readMajor27 _ = _; simp [readMajor27])
  · (change readMajor27 _ = _; simp [readMajor27])

theorem RoundTrip.vmor (d : BitVec 6) (a : BitVec 6) (b : BitVec 6) : RoundTrip.Statement (.vmor d a b) := by
  refine roundTrip_of_fields (x := ⟨39#6, d, a, (b ++ 1#8 : BitVec 14)⟩) rfl (by simp) ?_
  rintro ⟨⟩ h
  · (change readMajor27 _ = _; simp [readMajor27])
  · (change readMajor27 _ = _; simp [readMajor27])

theorem RoundTrip.vmxor (d : BitVec 6) (a : BitVec 6) (b : BitVec 6) : RoundTrip.Statement (.vmxor d a b) := by
  refine roundTrip_of_fields (x := ⟨39#6, d, a, (b ++ 2#8 : BitVec 14)⟩) rfl (by simp) ?_
  rintro ⟨⟩ h
  · (change readMajor27 _ = _; simp [readMajor27])
  · (change readMajor27 _ = _; simp [readMajor27])

theorem RoundTrip.vmandn (d : BitVec 6) (a : BitVec 6) (b : BitVec 6) : RoundTrip.Statement (.vmandn d a b) := by
  refine roundTrip_of_fields (x := ⟨39#6, d, a, (b ++ 3#8 : BitVec 14)⟩) rfl (by simp) ?_
  rintro ⟨⟩ h
  · (change readMajor27 _ = _; simp [readMajor27])
  · (change readMajor27 _ = _; simp [readMajor27])

theorem RoundTrip.vmnot (d : BitVec 6) (a : BitVec 6) : RoundTrip.Statement (.vmnot d a) := by
  refine roundTrip_of_fields (x := ⟨39#6, d, a, 4#14⟩) rfl (by simp) ?_
  rintro ⟨⟩ h
  · (change readMajor27 _ = _; simp [readMajor27])
  · (change readMajor27 _ = _; simp [readMajor27])

theorem RoundTrip.vmpopc (d : BitVec 6) (a : BitVec 6) : RoundTrip.Statement (.vmpopc d a) := by
  refine roundTrip_of_fields (x := ⟨39#6, d, a, 5#14⟩) rfl (by simp) ?_
  rintro ⟨⟩ h
  · (change readMajor27 _ = _; simp [readMajor27])
  · (change readMajor27 _ = _; simp [readMajor27])

theorem RoundTrip.vmfirst (d : BitVec 6) (a : BitVec 6) : RoundTrip.Statement (.vmfirst d a) := by
  refine roundTrip_of_fields (x := ⟨39#6, d, a, 6#14⟩) rfl (by simp) ?_
  rintro ⟨⟩ h
  · (change readMajor27 _ = _; simp [readMajor27])
  · (change readMajor27 _ = _; simp [readMajor27])

theorem RoundTrip.vmset (d : BitVec 6) : RoundTrip.Statement (.vmset d) := by
  refine roundTrip_of_fields (x := ⟨39#6, d, 0#6, 7#14⟩) rfl (by simp) ?_
  rintro ⟨⟩ h
  · (change readMajor27 _ = _; simp [readMajor27])
  · (change readMajor27 _ = _; simp [readMajor27])

theorem RoundTrip.vcvt (d : BitVec 6) (a : BitVec 6) (sc : Bool) (m : Bool) (t : BitVec 5) : RoundTrip.Statement (.vcvt d a sc m t) := by
  refine roundTrip_of_fields (x := ⟨40#6, d, a, (0#7 ++ BitVec.ofBool sc ++ BitVec.ofBool m ++ t : BitVec 14)⟩) rfl (by simp) ?_
  rintro ⟨⟩ h
  · (change readMajor28 _ = _; simp [readMajor28])
  · cases h

theorem RoundTrip.vslideup (d : BitVec 6) (a : BitVec 6) (b : BitVec 6) (m : Bool) : RoundTrip.Statement (.vslideup d a b m) := by
  refine roundTrip_of_fields (x := ⟨41#6, d, a, (b ++ 0#2 ++ BitVec.ofBool m ++ 0#5 : BitVec 14)⟩) rfl (by simp) ?_
  rintro ⟨⟩ h
  · (change readMajor29 _ = _; simp [readMajor29])
  · (change readMajor29 _ = _; simp [readMajor29])

theorem RoundTrip.vslidedn (d : BitVec 6) (a : BitVec 6) (b : BitVec 6) (m : Bool) : RoundTrip.Statement (.vslidedn d a b m) := by
  refine roundTrip_of_fields (x := ⟨41#6, d, a, (b ++ 0#2 ++ BitVec.ofBool m ++ 1#5 : BitVec 14)⟩) rfl (by simp) ?_
  rintro ⟨⟩ h
  · (change readMajor29 _ = _; simp [readMajor29])
  · (change readMajor29 _ = _; simp [readMajor29])

theorem RoundTrip.vgathr (d : BitVec 6) (a : BitVec 6) (b : BitVec 6) (m : Bool) : RoundTrip.Statement (.vgathr d a b m) := by
  refine roundTrip_of_fields (x := ⟨41#6, d, a, (b ++ 0#2 ++ BitVec.ofBool m ++ 2#5 : BitVec 14)⟩) rfl (by simp) ?_
  rintro ⟨⟩ h
  · (change readMajor29 _ = _; simp [readMajor29])
  · (change readMajor29 _ = _; simp [readMajor29])

theorem RoundTrip.vsend (d : BitVec 6) (a : BitVec 6) (b : BitVec 6) (m : Bool) : RoundTrip.Statement (.vsend d a b m) := by
  refine roundTrip_of_fields (x := ⟨41#6, d, a, (b ++ 0#2 ++ BitVec.ofBool m ++ 3#5 : BitVec 14)⟩) rfl (by simp) ?_
  rintro ⟨⟩ h
  · (change readMajor29 _ = _; simp [readMajor29])
  · (change readMajor29 _ = _; simp [readMajor29])

theorem RoundTrip.vcmprs (d : BitVec 6) (a : BitVec 6) (m : Bool) : RoundTrip.Statement (.vcmprs d a m) := by
  refine roundTrip_of_fields (x := ⟨41#6, d, a, (0#8 ++ BitVec.ofBool m ++ 4#5 : BitVec 14)⟩) rfl (by simp) ?_
  rintro ⟨⟩ h
  · (change readMajor29 _ = _; simp [readMajor29])
  · (change readMajor29 _ = _; simp [readMajor29])

theorem RoundTrip.vexpnd (d : BitVec 6) (a : BitVec 6) (m : Bool) : RoundTrip.Statement (.vexpnd d a m) := by
  refine roundTrip_of_fields (x := ⟨41#6, d, a, (0#8 ++ BitVec.ofBool m ++ 5#5 : BitVec 14)⟩) rfl (by simp) ?_
  rintro ⟨⟩ h
  · (change readMajor29 _ = _; simp [readMajor29])
  · (change readMajor29 _ = _; simp [readMajor29])

theorem RoundTrip.vresh (d : BitVec 6) (a : BitVec 6) (t : BitVec 6) (m : Bool) : RoundTrip.Statement (.vresh d a t m) := by
  refine roundTrip_of_fields (x := ⟨41#6, d, a, (t ++ 0#2 ++ BitVec.ofBool m ++ 6#5 : BitVec 14)⟩) rfl (by simp) ?_
  rintro ⟨⟩ h
  · (change readMajor29 _ = _; simp [readMajor29])
  · (change readMajor29 _ = _; simp [readMajor29])

theorem RoundTrip.vbcast (d : BitVec 6) (a : BitVec 6) (m : Bool) : RoundTrip.Statement (.vbcast d a m) := by
  refine roundTrip_of_fields (x := ⟨41#6, d, a, (0#8 ++ BitVec.ofBool m ++ 7#5 : BitVec 14)⟩) rfl (by simp) ?_
  rintro ⟨⟩ h
  · (change readMajor29 _ = _; simp [readMajor29])
  · (change readMajor29 _ = _; simp [readMajor29])

theorem RoundTrip.vslide1up (d : BitVec 6) (a : BitVec 6) (b : BitVec 6) (m : Bool) : RoundTrip.Statement (.vslide1up d a b m) := by
  refine roundTrip_of_fields (x := ⟨41#6, d, a, (b ++ 0#2 ++ BitVec.ofBool m ++ 8#5 : BitVec 14)⟩) rfl (by simp) ?_
  rintro ⟨⟩ h
  · (change readMajor29 _ = _; simp [readMajor29])
  · (change readMajor29 _ = _; simp [readMajor29])

theorem RoundTrip.vslide1dn (d : BitVec 6) (a : BitVec 6) (b : BitVec 6) (m : Bool) : RoundTrip.Statement (.vslide1dn d a b m) := by
  refine roundTrip_of_fields (x := ⟨41#6, d, a, (b ++ 0#2 ++ BitVec.ofBool m ++ 9#5 : BitVec 14)⟩) rfl (by simp) ?_
  rintro ⟨⟩ h
  · (change readMajor29 _ = _; simp [readMajor29])
  · (change readMajor29 _ = _; simp [readMajor29])

theorem RoundTrip.vredsum (d : BitVec 6) (a : BitVec 6) (b : BitVec 6) (sc : Bool) (m : Bool) : RoundTrip.Statement (.vredsum d a b sc m) := by
  refine roundTrip_of_fields (x := ⟨42#6, d, a, (b ++ 0#1 ++ BitVec.ofBool sc ++ BitVec.ofBool m ++ 0#5 : BitVec 14)⟩) rfl (by simp) ?_
  rintro ⟨⟩ h
  · (change readMajor2A _ = _; simp [readMajor2A])
  · cases h

theorem RoundTrip.vredmin (d : BitVec 6) (a : BitVec 6) (b : BitVec 6) (sc : Bool) (m : Bool) : RoundTrip.Statement (.vredmin d a b sc m) := by
  refine roundTrip_of_fields (x := ⟨42#6, d, a, (b ++ 0#1 ++ BitVec.ofBool sc ++ BitVec.ofBool m ++ 1#5 : BitVec 14)⟩) rfl (by simp) ?_
  rintro ⟨⟩ h
  · (change readMajor2A _ = _; simp [readMajor2A])
  · cases h

theorem RoundTrip.vredmax (d : BitVec 6) (a : BitVec 6) (b : BitVec 6) (sc : Bool) (m : Bool) : RoundTrip.Statement (.vredmax d a b sc m) := by
  refine roundTrip_of_fields (x := ⟨42#6, d, a, (b ++ 0#1 ++ BitVec.ofBool sc ++ BitVec.ofBool m ++ 2#5 : BitVec 14)⟩) rfl (by simp) ?_
  rintro ⟨⟩ h
  · (change readMajor2A _ = _; simp [readMajor2A])
  · cases h

theorem RoundTrip.vredand (d : BitVec 6) (a : BitVec 6) (b : BitVec 6) (sc : Bool) (m : Bool) : RoundTrip.Statement (.vredand d a b sc m) := by
  refine roundTrip_of_fields (x := ⟨42#6, d, a, (b ++ 0#1 ++ BitVec.ofBool sc ++ BitVec.ofBool m ++ 3#5 : BitVec 14)⟩) rfl (by simp) ?_
  rintro ⟨⟩ h
  · (change readMajor2A _ = _; simp [readMajor2A])
  · cases h

theorem RoundTrip.vredor (d : BitVec 6) (a : BitVec 6) (b : BitVec 6) (sc : Bool) (m : Bool) : RoundTrip.Statement (.vredor d a b sc m) := by
  refine roundTrip_of_fields (x := ⟨42#6, d, a, (b ++ 0#1 ++ BitVec.ofBool sc ++ BitVec.ofBool m ++ 4#5 : BitVec 14)⟩) rfl (by simp) ?_
  rintro ⟨⟩ h
  · (change readMajor2A _ = _; simp [readMajor2A])
  · cases h

theorem RoundTrip.vredxor (d : BitVec 6) (a : BitVec 6) (b : BitVec 6) (sc : Bool) (m : Bool) : RoundTrip.Statement (.vredxor d a b sc m) := by
  refine roundTrip_of_fields (x := ⟨42#6, d, a, (b ++ 0#1 ++ BitVec.ofBool sc ++ BitVec.ofBool m ++ 5#5 : BitVec 14)⟩) rfl (by simp) ?_
  rintro ⟨⟩ h
  · (change readMajor2A _ = _; simp [readMajor2A])
  · cases h

theorem RoundTrip.vscansum (d : BitVec 6) (a : BitVec 6) (sc : Bool) (m : Bool) : RoundTrip.Statement (.vscansum d a sc m) := by
  refine roundTrip_of_fields (x := ⟨42#6, d, a, (0#7 ++ BitVec.ofBool sc ++ BitVec.ofBool m ++ 8#5 : BitVec 14)⟩) rfl (by simp) ?_
  rintro ⟨⟩ h
  · (change readMajor2A _ = _; simp [readMajor2A])
  · cases h

theorem RoundTrip.vscanmin (d : BitVec 6) (a : BitVec 6) (sc : Bool) (m : Bool) : RoundTrip.Statement (.vscanmin d a sc m) := by
  refine roundTrip_of_fields (x := ⟨42#6, d, a, (0#7 ++ BitVec.ofBool sc ++ BitVec.ofBool m ++ 9#5 : BitVec 14)⟩) rfl (by simp) ?_
  rintro ⟨⟩ h
  · (change readMajor2A _ = _; simp [readMajor2A])
  · cases h

theorem RoundTrip.vscanmax (d : BitVec 6) (a : BitVec 6) (sc : Bool) (m : Bool) : RoundTrip.Statement (.vscanmax d a sc m) := by
  refine roundTrip_of_fields (x := ⟨42#6, d, a, (0#7 ++ BitVec.ofBool sc ++ BitVec.ofBool m ++ 10#5 : BitVec 14)⟩) rfl (by simp) ?_
  rintro ⟨⟩ h
  · (change readMajor2A _ = _; simp [readMajor2A])
  · cases h

theorem RoundTrip.vfunc (d : BitVec 6) (a : BitVec 6) (m : Bool) (c : BitVec 5) : RoundTrip.Statement (.vfunc d a m c) := by
  refine roundTrip_of_fields (x := ⟨43#6, d, a, (0#8 ++ BitVec.ofBool m ++ c : BitVec 14)⟩) rfl (by simp) ?_
  rintro ⟨⟩ h
  · (change readMajor2B _ = _; simp [readMajor2B])
  · cases h

theorem RoundTrip.vcfg (d : BitVec 6) (a : BitVec 6) : RoundTrip.Statement (.vcfg d a) := by
  refine roundTrip_of_fields (x := ⟨44#6, d, a, 0#14⟩) rfl (by simp) ?_
  rintro ⟨⟩ h
  · (change readMajor2C _ = _; simp [readMajor2C])
  · cases h

theorem RoundTrip.vsetvl (d : BitVec 6) (a : BitVec 6) (b : BitVec 6) : RoundTrip.Statement (.vsetvl d a b) := by
  refine roundTrip_of_fields (x := ⟨44#6, d, a, (b ++ 1#8 : BitVec 14)⟩) rfl (by simp) ?_
  rintro ⟨⟩ h
  · (change readMajor2C _ = _; simp [readMajor2C])
  · cases h

theorem RoundTrip.vsetvlP (d : BitVec 6) (a : BitVec 6) (b : BitVec 6) : RoundTrip.Statement (.vsetvlP d a b) := by
  refine roundTrip_of_fields (x := ⟨44#6, d, a, (b ++ 2#8 : BitVec 14)⟩) rfl (by simp) ?_
  rintro ⟨⟩ h
  · (change readMajor2C _ = _; simp [readMajor2C])
  · cases h

theorem RoundTrip.vid (d : BitVec 6) (m : Bool) : RoundTrip.Statement (.vid d m) := by
  refine roundTrip_of_fields (x := ⟨47#6, d, 0#6, (0#8 ++ BitVec.ofBool m ++ 0#5 : BitVec 14)⟩) rfl (by simp) ?_
  rintro ⟨⟩ h
  · (change readMajor2F _ = _; simp [readMajor2F])
  · (change readMajor2F _ = _; simp [readMajor2F])

theorem RoundTrip.vsel (d : BitVec 6) (a : BitVec 6) (b : BitVec 6) : RoundTrip.Statement (.vsel d a b) := by
  refine roundTrip_of_fields (x := ⟨47#6, d, a, (b ++ 1#8 : BitVec 14)⟩) rfl (by simp) ?_
  rintro ⟨⟩ h
  · (change readMajor2F _ = _; simp [readMajor2F])
  · (change readMajor2F _ = _; simp [readMajor2F])

theorem RoundTrip.vgete (d : BitVec 6) (a : BitVec 6) (b : BitVec 6) : RoundTrip.Statement (.vgete d a b) := by
  refine roundTrip_of_fields (x := ⟨47#6, d, a, (b ++ 5#8 : BitVec 14)⟩) rfl (by simp) ?_
  rintro ⟨⟩ h
  · (change readMajor2F _ = _; simp [readMajor2F])
  · cases h

theorem RoundTrip.vsete (d : BitVec 6) (a : BitVec 6) (b : BitVec 6) : RoundTrip.Statement (.vsete d a b) := by
  refine roundTrip_of_fields (x := ⟨47#6, d, a, (b ++ 6#8 : BitVec 14)⟩) rfl (by simp) ?_
  rintro ⟨⟩ h
  · (change readMajor2F _ = _; simp [readMajor2F])
  · cases h

theorem RoundTrip.vsalsel (d : BitVec 6) (a : BitVec 6) (b : BitVec 6) (m : Bool) (g : BitVec 2) (k : BitVec 2) : RoundTrip.Statement (.vsalsel d a b m g k) := by
  refine roundTrip_of_fields (x := ⟨47#6, d, a, (b ++ 0#2 ++ BitVec.ofBool m ++ 1#1 ++ g ++ k : BitVec 14)⟩) rfl (by simp) ?_
  rintro ⟨⟩ h
  · (change readMajor2F _ = _; simp [readMajor2F])
  · cases h

theorem RoundTrip.vld (d : BitVec 6) (a : BitVec 6) (f : Bool) (c : Bool) (r : Bool) (l : Bool) (m : Bool) : RoundTrip.Statement (.vld d a f c r l m) := by
  refine roundTrip_of_fields (x := ⟨48#6, d, a, (0#9 ++ BitVec.ofBool f ++ BitVec.ofBool c ++ BitVec.ofBool r ++ BitVec.ofBool l ++ BitVec.ofBool m : BitVec 14)⟩) rfl (by simp) ?_
  rintro ⟨⟩ h
  · (change readMajor30 _ = _; simp [readMajor30])
  · cases h

theorem RoundTrip.vlds (d : BitVec 6) (a : BitVec 6) (b : BitVec 6) (f : Bool) (c : Bool) (r : Bool) (l : Bool) (m : Bool) : RoundTrip.Statement (.vlds d a b f c r l m) := by
  refine roundTrip_of_fields (x := ⟨49#6, d, a, (b ++ 0#3 ++ BitVec.ofBool f ++ BitVec.ofBool c ++ BitVec.ofBool r ++ BitVec.ofBool l ++ BitVec.ofBool m : BitVec 14)⟩) rfl (by simp) ?_
  rintro ⟨⟩ h
  · (change readMajor31 _ = _; simp [readMajor31])
  · cases h

theorem RoundTrip.vldx (d : BitVec 6) (a : BitVec 6) (b : BitVec 6) (f : Bool) (c : Bool) (r : Bool) (l : Bool) (m : Bool) : RoundTrip.Statement (.vldx d a b f c r l m) := by
  refine roundTrip_of_fields (x := ⟨50#6, d, a, (b ++ 0#3 ++ BitVec.ofBool f ++ BitVec.ofBool c ++ BitVec.ofBool r ++ BitVec.ofBool l ++ BitVec.ofBool m : BitVec 14)⟩) rfl (by simp) ?_
  rintro ⟨⟩ h
  · (change readMajor32 _ = _; simp [readMajor32])
  · cases h

theorem RoundTrip.vst (d : BitVec 6) (a : BitVec 6) (c : Bool) (n : Bool) (m : Bool) : RoundTrip.Statement (.vst d a c n m) := by
  refine roundTrip_of_fields (x := ⟨51#6, d, a, (0#10 ++ BitVec.ofBool c ++ 0#1 ++ BitVec.ofBool n ++ BitVec.ofBool m : BitVec 14)⟩) rfl (by simp) ?_
  rintro ⟨⟩ h
  · (change readMajor33 _ = _; simp [readMajor33])
  · cases h

theorem RoundTrip.vsts (d : BitVec 6) (a : BitVec 6) (b : BitVec 6) (c : Bool) (n : Bool) (m : Bool) : RoundTrip.Statement (.vsts d a b c n m) := by
  refine roundTrip_of_fields (x := ⟨52#6, d, a, (b ++ 0#4 ++ BitVec.ofBool c ++ 0#1 ++ BitVec.ofBool n ++ BitVec.ofBool m : BitVec 14)⟩) rfl (by simp) ?_
  rintro ⟨⟩ h
  · (change readMajor34 _ = _; simp [readMajor34])
  · cases h

theorem RoundTrip.vstx (d : BitVec 6) (a : BitVec 6) (b : BitVec 6) (c : Bool) (n : Bool) (m : Bool) : RoundTrip.Statement (.vstx d a b c n m) := by
  refine roundTrip_of_fields (x := ⟨53#6, d, a, (b ++ 0#4 ++ BitVec.ofBool c ++ 0#1 ++ BitVec.ofBool n ++ BitVec.ofBool m : BitVec 14)⟩) rfl (by simp) ?_
  rintro ⟨⟩ h
  · (change readMajor35 _ = _; simp [readMajor35])
  · cases h

theorem RoundTrip.vwin (a : BitVec 6) (b : BitVec 6) : RoundTrip.Statement (.vwin a b) := by
  refine roundTrip_of_fields (x := ⟨54#6, 0#6, a, (b ++ 0#8 : BitVec 14)⟩) rfl (by simp) ?_
  rintro ⟨⟩ h
  · (change readMajor36 _ = _; simp [readMajor36])
  · cases h

theorem RoundTrip.vwacc (a : BitVec 6) (b : BitVec 6) (m : Bool) : RoundTrip.Statement (.vwacc a b m) := by
  refine roundTrip_of_fields (x := ⟨54#6, 0#6, a, (b ++ 0#2 ++ BitVec.ofBool m ++ 1#5 : BitVec 14)⟩) rfl (by simp) ?_
  rintro ⟨⟩ h
  · (change readMajor36 _ = _; simp [readMajor36]; cases m <;> decide)
  · cases h

theorem RoundTrip.vwmerge : RoundTrip.Statement .vwmerge := by
  refine roundTrip_of_fields (x := ⟨54#6, 0#6, 0#6, 2#14⟩) rfl (by simp) ?_
  rintro ⟨⟩ h
  · (change readMajor36 _ = _; simp [readMajor36])
  · cases h

theorem RoundTrip.vlsync : RoundTrip.Statement .vlsync := by
  refine roundTrip_of_fields (x := ⟨55#6, 0#6, 0#6, 0#14⟩) rfl (by simp) ?_
  rintro ⟨⟩ h
  · (change readMajor37 _ = _; simp [readMajor37])
  · cases h

theorem RoundTrip.vfence (sc : BitVec 3) (k : BitVec 3) : RoundTrip.Statement (.vfence sc k) := by
  refine roundTrip_of_fields (x := ⟨55#6, (sc ++ k : BitVec 6), 0#6, 1#14⟩) rfl (by simp) ?_
  rintro ⟨⟩ h
  · (change readMajor37 _ = _; simp [readMajor37])
  · (change readMajor37 _ = _; simp [readMajor37])

theorem RoundTrip.qdrain (a : BitVec 6) : RoundTrip.Statement (.qdrain a) := by
  refine roundTrip_of_fields (x := ⟨55#6, 0#6, a, 2#14⟩) rfl (by simp) ?_
  rintro ⟨⟩ h
  · (change readMajor37 _ = _; simp [readMajor37])
  · (change readMajor37 _ = _; simp [readMajor37])

theorem RoundTrip.spalloc (d : BitVec 6) (a : BitVec 6) (b : BitVec 6) : RoundTrip.Statement (.spalloc d a b) := by
  refine roundTrip_of_fields (x := ⟨55#6, d, a, (b ++ 3#8 : BitVec 14)⟩) rfl (by simp) ?_
  rintro ⟨⟩ h
  · (change readMajor37 _ = _; simp [readMajor37])
  · cases h

theorem RoundTrip.spfree (a : BitVec 6) : RoundTrip.Statement (.spfree a) := by
  refine roundTrip_of_fields (x := ⟨55#6, 0#6, a, 4#14⟩) rfl (by simp) ?_
  rintro ⟨⟩ h
  · (change readMajor37 _ = _; simp [readMajor37])
  · cases h

theorem RoundTrip.sprenew (d : BitVec 6) (a : BitVec 6) : RoundTrip.Statement (.sprenew d a) := by
  refine roundTrip_of_fields (x := ⟨55#6, d, a, 5#14⟩) rfl (by simp) ?_
  rintro ⟨⟩ h
  · (change readMajor37 _ = _; simp [readMajor37])
  · cases h

theorem RoundTrip.spage (d : BitVec 6) (a : BitVec 6) : RoundTrip.Statement (.spage d a) := by
  refine roundTrip_of_fields (x := ⟨55#6, d, a, 6#14⟩) rfl (by simp) ?_
  rintro ⟨⟩ h
  · (change readMajor37 _ = _; simp [readMajor37])
  · cases h

theorem RoundTrip.vfar (d : BitVec 6) (a : BitVec 6) (b : BitVec 6) : RoundTrip.Statement (.vfar d a b) := by
  refine roundTrip_of_fields (x := ⟨55#6, d, a, (b ++ 7#8 : BitVec 14)⟩) rfl (by simp) ?_
  rintro ⟨⟩ h
  · (change readMajor37 _ = _; simp [readMajor37])
  · cases h

theorem RoundTrip.mma (t : BitVec 4) (a : BitVec 6) (b : BitVec 6) (sc : Bool) (w : Bool) (z : Bool) (y : Bool) (x : Bool) : RoundTrip.Statement (.mma t a b sc w z y x) := by
  refine roundTrip_of_fields (x := ⟨56#6, (0#2 ++ t : BitVec 6), a, (b ++ 0#3 ++ BitVec.ofBool sc ++ BitVec.ofBool w ++ BitVec.ofBool z ++ BitVec.ofBool y ++ BitVec.ofBool x : BitVec 14)⟩) rfl (by simp) ?_
  rintro ⟨⟩ h
  · (change readMajor38 _ = _; simp [readMajor38])
  · cases h

theorem RoundTrip.mld (t : BitVec 4) (a : BitVec 6) (b : BitVec 6) : RoundTrip.Statement (.mld t a b) := by
  refine roundTrip_of_fields (x := ⟨57#6, (0#2 ++ t : BitVec 6), a, (b ++ 0#8 : BitVec 14)⟩) rfl (by simp) ?_
  rintro ⟨⟩ h
  · (change readMajor39 _ = _; simp [readMajor39])
  · cases h

theorem RoundTrip.mst (t : BitVec 4) (a : BitVec 6) (b : BitVec 6) : RoundTrip.Statement (.mst t a b) := by
  refine roundTrip_of_fields (x := ⟨57#6, (0#2 ++ t : BitVec 6), a, (b ++ 1#8 : BitVec 14)⟩) rfl (by simp) ?_
  rintro ⟨⟩ h
  · (change readMajor39 _ = _; simp [readMajor39])
  · cases h

theorem RoundTrip.mzero (t : BitVec 4) : RoundTrip.Statement (.mzero t) := by
  refine roundTrip_of_fields (x := ⟨57#6, (0#2 ++ t : BitVec 6), 0#6, 2#14⟩) rfl (by simp) ?_
  rintro ⟨⟩ h
  · (change readMajor39 _ = _; simp [readMajor39])
  · cases h

theorem RoundTrip.mwrow (a : BitVec 6) (b : BitVec 6) : RoundTrip.Statement (.mwrow a b) := by
  refine roundTrip_of_fields (x := ⟨58#6, 0#6, a, (b ++ 0#8 : BitVec 14)⟩) rfl (by simp) ?_
  rintro ⟨⟩ h
  · (change readMajor3A _ = _; simp [readMajor3A])
  · cases h

theorem RoundTrip.maddrow (a : BitVec 6) (b : BitVec 6) : RoundTrip.Statement (.maddrow a b) := by
  refine roundTrip_of_fields (x := ⟨58#6, 0#6, a, (b ++ 1#8 : BitVec 14)⟩) rfl (by simp) ?_
  rintro ⟨⟩ h
  · (change readMajor3A _ = _; simp [readMajor3A])
  · cases h

theorem RoundTrip.mwait : RoundTrip.Statement .mwait := by
  refine roundTrip_of_fields (x := ⟨59#6, 0#6, 0#6, 0#14⟩) rfl (by simp) ?_
  rintro ⟨⟩ h
  · (change readMajor3B _ = _; simp [readMajor3B])
  · cases h

theorem RoundTrip.mopen (d : BitVec 6) (a : BitVec 6) : RoundTrip.Statement (.mopen d a) := by
  refine roundTrip_of_fields (x := ⟨60#6, d, a, 0#14⟩) rfl (by simp) ?_
  rintro ⟨⟩ h
  · (change readMajor3C _ = _; simp [readMajor3C])
  · cases h

theorem RoundTrip.mclose (a : BitVec 6) : RoundTrip.Statement (.mclose a) := by
  refine roundTrip_of_fields (x := ⟨60#6, 0#6, a, 1#14⟩) rfl (by simp) ?_
  rintro ⟨⟩ h
  · (change readMajor3C _ = _; simp [readMajor3C])
  · cases h

theorem RoundTrip.mstream (q : BitVec 3) (a : BitVec 6) (b : BitVec 6) : RoundTrip.Statement (.mstream q a b) := by
  refine roundTrip_of_fields (x := ⟨60#6, (7#3 ++ q : BitVec 6), a, (b ++ 2#8 : BitVec 14)⟩) rfl (by simp) ?_
  rintro ⟨⟩ h
  · (change readMajor3C _ = _; simp [readMajor3C])
  · (change readMajor3C _ = _; simp [readMajor3C])

theorem RoundTrip.msheaf (d : BitVec 6) (a : BitVec 6) (b : BitVec 6) : RoundTrip.Statement (.msheaf d a b) := by
  refine roundTrip_of_fields (x := ⟨60#6, d, a, (b ++ 3#8 : BitVec 14)⟩) rfl (by simp) ?_
  rintro ⟨⟩ h
  · (change readMajor3C _ = _; simp [readMajor3C])
  · cases h

theorem RoundTrip.mgenrel (a : BitVec 6) (b : BitVec 6) : RoundTrip.Statement (.mgenrel a b) := by
  refine roundTrip_of_fields (x := ⟨60#6, 0#6, a, (b ++ 4#8 : BitVec 14)⟩) rfl (by simp) ?_
  rintro ⟨⟩ h
  · (change readMajor3C _ = _; simp [readMajor3C])
  · cases h

theorem RoundTrip.mrecut (d : BitVec 6) (a : BitVec 6) : RoundTrip.Statement (.mrecut d a) := by
  refine roundTrip_of_fields (x := ⟨60#6, d, a, 5#14⟩) rfl (by simp) ?_
  rintro ⟨⟩ h
  · (change readMajor3C _ = _; simp [readMajor3C])
  · cases h

theorem RoundTrip.mquery (d : BitVec 6) (a : BitVec 6) : RoundTrip.Statement (.mquery d a) := by
  refine roundTrip_of_fields (x := ⟨60#6, d, a, 6#14⟩) rfl (by simp) ?_
  rintro ⟨⟩ h
  · (change readMajor3C _ = _; simp [readMajor3C])
  · cases h

theorem RoundTrip.vsowF32 (d : BitVec 6) (a : BitVec 6) (b : BitVec 6) (m : Bool) : RoundTrip.Statement (.vsowF32 d a b m) := by
  refine roundTrip_of_fields (x := ⟨61#6, d, a, (b ++ 0#2 ++ BitVec.ofBool m ++ 0#5 : BitVec 14)⟩) rfl (by simp) ?_
  rintro ⟨⟩ h
  · (change readMajor3D _ = _; simp [readMajor3D])
  · cases h

theorem RoundTrip.vsowF64 (d : BitVec 6) (a : BitVec 6) (b : BitVec 6) (m : Bool) : RoundTrip.Statement (.vsowF64 d a b m) := by
  refine roundTrip_of_fields (x := ⟨61#6, d, a, (b ++ 0#2 ++ BitVec.ofBool m ++ 1#5 : BitVec 14)⟩) rfl (by simp) ?_
  rintro ⟨⟩ h
  · (change readMajor3D _ = _; simp [readMajor3D])
  · cases h

theorem RoundTrip.vsowN32 (d : BitVec 6) (a : BitVec 6) (b : BitVec 6) (m : Bool) : RoundTrip.Statement (.vsowN32 d a b m) := by
  refine roundTrip_of_fields (x := ⟨61#6, d, a, (b ++ 0#2 ++ BitVec.ofBool m ++ 2#5 : BitVec 14)⟩) rfl (by simp) ?_
  rintro ⟨⟩ h
  · (change readMajor3D _ = _; simp [readMajor3D])
  · cases h

theorem RoundTrip.sowload (a : BitVec 6) : RoundTrip.Statement (.sowload a) := by
  refine roundTrip_of_fields (x := ⟨61#6, 0#6, a, 4#14⟩) rfl (by simp) ?_
  rintro ⟨⟩ h
  · (change readMajor3D _ = _; simp [readMajor3D])
  · cases h

theorem RoundTrip.onew (d : BitVec 6) (a : BitVec 6) : RoundTrip.Statement (.onew d a) := by
  refine roundTrip_of_fields (x := ⟨61#6, d, a, 8#14⟩) rfl (by simp) ?_
  rintro ⟨⟩ h
  · (change readMajor3D _ = _; simp [readMajor3D])
  · cases h

theorem RoundTrip.odesc (d : BitVec 6) (a : BitVec 6) : RoundTrip.Statement (.odesc d a) := by
  refine roundTrip_of_fields (x := ⟨61#6, d, a, 9#14⟩) rfl (by simp) ?_
  rintro ⟨⟩ h
  · (change readMajor3D _ = _; simp [readMajor3D])
  · cases h

theorem RoundTrip.oexpand (d : BitVec 6) (a : BitVec 6) (b : BitVec 6) : RoundTrip.Statement (.oexpand d a b) := by
  refine roundTrip_of_fields (x := ⟨61#6, d, a, (b ++ 10#8 : BitVec 14)⟩) rfl (by simp) ?_
  rintro ⟨⟩ h
  · (change readMajor3D _ = _; simp [readMajor3D])
  · cases h

theorem RoundTrip.obackup (d : BitVec 6) (a : BitVec 6) (b : BitVec 6) : RoundTrip.Statement (.obackup d a b) := by
  refine roundTrip_of_fields (x := ⟨61#6, d, a, (b ++ 11#8 : BitVec 14)⟩) rfl (by simp) ?_
  rintro ⟨⟩ h
  · (change readMajor3D _ = _; simp [readMajor3D])
  · cases h

theorem RoundTrip.oreuse (d : BitVec 6) (a : BitVec 6) : RoundTrip.Statement (.oreuse d a) := by
  refine roundTrip_of_fields (x := ⟨61#6, d, a, 12#14⟩) rfl (by simp) ?_
  rintro ⟨⟩ h
  · (change readMajor3D _ = _; simp [readMajor3D])
  · cases h

theorem RoundTrip.ofree (d : BitVec 6) (a : BitVec 6) : RoundTrip.Statement (.ofree d a) := by
  refine roundTrip_of_fields (x := ⟨61#6, d, a, 13#14⟩) rfl (by simp) ?_
  rintro ⟨⟩ h
  · (change readMajor3D _ = _; simp [readMajor3D])
  · cases h

theorem RoundTrip.oread (d : BitVec 6) (a : BitVec 6) (b : BitVec 6) : RoundTrip.Statement (.oread d a b) := by
  refine roundTrip_of_fields (x := ⟨61#6, d, a, (b ++ 14#8 : BitVec 14)⟩) rfl (by simp) ?_
  rintro ⟨⟩ h
  · (change readMajor3D _ = _; simp [readMajor3D])
  · cases h

theorem RoundTrip.cmdbCopy (d : BitVec 6) (a : BitVec 6) (m : Bool) : RoundTrip.Statement (.cmdbCopy d a m) := by
  refine roundTrip_of_fields (x := ⟨62#6, d, a, (0#8 ++ BitVec.ofBool m ++ 0#5 : BitVec 14)⟩) rfl (by simp) ?_
  rintro ⟨⟩ h
  · (change readMajor3E _ = _; simp [readMajor3E])
  · cases h

theorem RoundTrip.cmdbCat (d : BitVec 6) (a : BitVec 6) (m : Bool) : RoundTrip.Statement (.cmdbCat d a m) := by
  refine roundTrip_of_fields (x := ⟨62#6, d, a, (0#8 ++ BitVec.ofBool m ++ 1#5 : BitVec 14)⟩) rfl (by simp) ?_
  rintro ⟨⟩ h
  · (change readMajor3E _ = _; simp [readMajor3E])
  · cases h

theorem RoundTrip.cmdbOrch (d : BitVec 6) (a : BitVec 6) (m : Bool) : RoundTrip.Statement (.cmdbOrch d a m) := by
  refine roundTrip_of_fields (x := ⟨62#6, d, a, (0#8 ++ BitVec.ofBool m ++ 2#5 : BitVec 14)⟩) rfl (by simp) ?_
  rintro ⟨⟩ h
  · (change readMajor3E _ = _; simp [readMajor3E])
  · cases h

theorem RoundTrip.tret : RoundTrip.Statement .tret := by
  refine roundTrip_of_fields (x := ⟨63#6, 0#6, 0#6, 0#14⟩) rfl (by simp) ?_
  rintro ⟨⟩ h
  · (change readMajor3F _ = _; simp [readMajor3F])
  · cases h

theorem RoundTrip.ctxsave (a : BitVec 6) : RoundTrip.Statement (.ctxsave a) := by
  refine roundTrip_of_fields (x := ⟨63#6, 0#6, a, 1#14⟩) rfl (by simp) ?_
  rintro ⟨⟩ h
  · (change readMajor3F _ = _; simp [readMajor3F])
  · cases h

theorem RoundTrip.ctxload (a : BitVec 6) : RoundTrip.Statement (.ctxload a) := by
  refine roundTrip_of_fields (x := ⟨63#6, 0#6, a, 2#14⟩) rfl (by simp) ?_
  rintro ⟨⟩ h
  · (change readMajor3F _ = _; simp [readMajor3F])
  · cases h

theorem RoundTrip.xlinv (a : BitVec 6) (b : BitVec 6) : RoundTrip.Statement (.xlinv a b) := by
  refine roundTrip_of_fields (x := ⟨63#6, 0#6, a, (b ++ 3#8 : BitVec 14)⟩) rfl (by simp) ?_
  rintro ⟨⟩ h
  · (change readMajor3F _ = _; simp [readMajor3F])
  · cases h

theorem RoundTrip.wfi : RoundTrip.Statement .wfi := by
  refine roundTrip_of_fields (x := ⟨63#6, 0#6, 0#6, 4#14⟩) rfl (by simp) ?_
  rintro ⟨⟩ h
  · (change readMajor3F _ = _; simp [readMajor3F])
  · cases h

theorem RoundTrip.fwcall : RoundTrip.Statement .fwcall := by
  refine roundTrip_of_fields (x := ⟨63#6, 0#6, 0#6, 5#14⟩) rfl (by simp) ?_
  rintro ⟨⟩ h
  · (change readMajor3F _ = _; simp [readMajor3F])
  · cases h

theorem RoundTrip.haltc (a : BitVec 6) : RoundTrip.Statement (.haltc a) := by
  refine roundTrip_of_fields (x := ⟨63#6, 0#6, a, 6#14⟩) rfl (by simp) ?_
  rintro ⟨⟩ h
  · (change readMajor3F _ = _; simp [readMajor3F])
  · cases h

theorem RoundTrip.haltcRelease (a : BitVec 6) : RoundTrip.Statement (.haltcRelease a) := by
  refine roundTrip_of_fields (x := ⟨63#6, 0#6, a, 6#14⟩) rfl (by simp) ?_
  rintro ⟨⟩ h
  · cases h
  · cases h

theorem RoundTrip.ald (d : BitVec 6) (a : BitVec 6) (b : BitVec 6) (p : Bool) (m : Bool) (t : BitVec 5) : RoundTrip.Statement (.ald d a b p m t) := by
  refine roundTrip_of_fields (x := ⟨48#6, d, a, (b ++ BitVec.ofBool p ++ 0#1 ++ BitVec.ofBool m ++ t : BitVec 14)⟩) rfl (by simp) ?_
  rintro ⟨⟩ h
  · cases h
  · (change readMajor30Access _ = _; simp [readMajor30Access])

theorem RoundTrip.aldCl (q : BitVec 3) : RoundTrip.Statement (.aldCl q) := by
  refine roundTrip_of_fields (x := ⟨48#6, (7#3 ++ q : BitVec 6), 0#6, 64#14⟩) rfl (by simp) ?_
  rintro ⟨⟩ h
  · cases h
  · (change readMajor30Access _ = _; simp [readMajor30Access])

theorem RoundTrip.agather (d : BitVec 6) (a : BitVec 6) (b : BitVec 6) (m : Bool) (t : BitVec 5) : RoundTrip.Statement (.agather d a b m t) := by
  refine roundTrip_of_fields (x := ⟨49#6, d, a, (b ++ 0#2 ++ BitVec.ofBool m ++ t : BitVec 14)⟩) rfl (by simp) ?_
  rintro ⟨⟩ h
  · cases h
  · (change readMajor31Access _ = _; simp [readMajor31Access])

theorem RoundTrip.atrans (d : BitVec 6) (a : BitVec 6) (b : BitVec 6) (r : BitVec 3) (t : BitVec 5) : RoundTrip.Statement (.atrans d a b r t) := by
  refine roundTrip_of_fields (x := ⟨50#6, d, a, (b ++ r ++ t : BitVec 14)⟩) rfl (by simp) ?_
  rintro ⟨⟩ h
  · cases h
  · (change readMajor32Access _ = _; simp [readMajor32Access])

theorem RoundTrip.ast (d : BitVec 6) (a : BitVec 6) (b : BitVec 6) (p : Bool) (m : Bool) : RoundTrip.Statement (.ast d a b p m) := by
  refine roundTrip_of_fields (x := ⟨51#6, d, a, (b ++ BitVec.ofBool p ++ 0#1 ++ BitVec.ofBool m ++ 0#5 : BitVec 14)⟩) rfl (by simp) ?_
  rintro ⟨⟩ h
  · cases h
  · (change readMajor33Access _ = _; simp [readMajor33Access])

theorem RoundTrip.astCl (q : BitVec 2) : RoundTrip.Statement (.astCl q) := by
  refine roundTrip_of_fields (x := ⟨51#6, (14#4 ++ q : BitVec 6), 0#6, 64#14⟩) rfl (by simp) ?_
  rintro ⟨⟩ h
  · cases h
  · (change readMajor33Access _ = _; simp [readMajor33Access])

theorem RoundTrip.ascat (d : BitVec 6) (a : BitVec 6) (b : BitVec 6) (m : Bool) : RoundTrip.Statement (.ascat d a b m) := by
  refine roundTrip_of_fields (x := ⟨52#6, d, a, (b ++ 0#2 ++ BitVec.ofBool m ++ 0#5 : BitVec 14)⟩) rfl (by simp) ?_
  rintro ⟨⟩ h
  · cases h
  · (change readMajor34Access _ = _; simp [readMajor34Access])

theorem RoundTrip.afar (d : BitVec 6) (a : BitVec 6) (b : BitVec 6) (m : Bool) : RoundTrip.Statement (.afar d a b m) := by
  refine roundTrip_of_fields (x := ⟨53#6, d, a, (b ++ 0#2 ++ BitVec.ofBool m ++ 0#5 : BitVec 14)⟩) rfl (by simp) ?_
  rintro ⟨⟩ h
  · cases h
  · (change readMajor35Access _ = _; simp [readMajor35Access])

end Sys2Proof.Laws
end

