-- ==== Sys2Proof/Laws/Push.lean ====
section
/-! SUPPORT. Pushing a record: what a push on the vector, access or matrix queue leaves, once its queue has room. -/

namespace Sys2Proof.Machine

theorem State.room.canPush {s : State} (h : s.room) : s.canPush false = .ok () := by
  obtain ⟨_, h2, h3⟩ := h
  unfold State.canPush
  simp only [h2, Bool.false_eq_true, if_false]
  rw [if_neg (by omega)]

/-- A change of the thread in execution that is a push of a record. -/
theorem Queued.setMe {s : State} (h : s.live = true) {r : VRec} {f : Thread → Thread}
    (hf : f s.me = { s.me with
      vq := s.me.vq ++ [r], vqtail := s.me.vqtail + 1, ordNext := s.me.ordNext + 1, vregs := r.noteTag s.me.vregs
      pc := if s.onHart && r.waits then s.pc else s.pc + 4
      wait := if s.onHart && r.waits then .gd r.seq else s.me.wait, stall := .none
      supp := s.me.supp && ((s.onHart && r.waits) || !s.me.suppNow)
      suppNow := s.onHart && r.waits && s.me.suppNow
      retired := if s.onHart && r.waits then s.me.retired else s.me.retired + 1 }) : Queued s (s.setMe f) r where
  thread := OnlyThread.setMe h f
  bytes := SameBytes.setMe s f
  me := by rw [State.me_setMe h, hf]

/-- A push on a queue with room succeeds, and leaves what Queued says. -/
theorem State.room.pushVec {s : State} (h : s.room) (r : VRec) : ∃ t, s.pushVec r = .ok t ∧ Queued s t r := by
  have hc := h.canPush
  unfold State.pushVec
  rw [hc]
  refine ⟨_, rfl, Queued.setMe h.1 ?_⟩
  cases s.onHart && r.waits <;> simp [State.pc, Thread.retire, Thread.retireTo]

/-- A push on the matrix queue (R273). -/
theorem State.pushMatrix_ok {s : State} (h : s.live = true) (hf : s.me.frz = false) (hm : s.me.mq.length < 16) (r : VRec) :
    ∃ t, s.pushMatrix r = .ok t ∧ QueuedMatrix s t r := by
  have hc : s.canPush true = .ok () := by
    unfold State.canPush
    simp only [hf, Bool.false_eq_true, if_false, if_true]
    rw [if_neg (by omega)]
  refine ⟨_, by unfold State.pushMatrix; rw [hc]; rfl, ⟨OnlyThread.setMe h _, SameBytes.setMe _ _, ?_⟩⟩
  rw [State.me_setMe h]
  simp [Thread.retire, Thread.retireTo, State.pc]

/-- The outcome of a push that succeeds. -/
theorem Pushes.of_ok {s t : State} {p : Push State} {r : VRec} {u : State} (hp : p = .ok t) (h : Queued s t r) :
    Pushes (u.pushOut p) s r := ⟨t, by rw [hp]; rfl, h⟩

/-- A form of a hart whose queues are not frozen is what its push gives. -/
theorem State.execute_eq {s : State} (h : s.live = true) (hh : s.onHart = true) (hf : s.me.frz = false) (p : Push State) :
    s.execute p = s.pushOut p := by
  unfold State.execute
  rw [State.hart_of_onHart h hh, hf]
  rfl

end Sys2Proof.Machine
end

