-- ==== Sys2Proof/Laws/Trap.lean ====
section
/-! SUPPORT. Traps of the instruction in execution: what each agent does when one is raised. -/

namespace Sys2Proof.Machine

/-- A hart with nothing pending enters its handler, or stops its core, or is killed (R382, R383). -/
theorem State.trapWith_hart {s : State} {gi h : Nat} {c : Cause} (hc : s.cur = some ⟨gi, .hart h⟩)
    (hp : s.pendingCauses gi h = []) : s.trapWith c = .next (s.enterTrap gi h c) := by
  unfold State.trapWith
  rw [hc]
  simp [hp, firstCause]

/-- An access-unit context halts and delivers the cause to its gang (R384). -/
theorem State.trapWith_access {s : State} {gi : Nat} {c : Cause} (hc : s.cur = some ⟨gi, .access⟩) :
    s.trapWith c = .next (s.setMe fun t => { t with faulted := true, causes := t.causes ++ [c], stall := .busy }) := by
  unfold State.trapWith State.setMe
  rw [hc]
  rfl

/-- ILLOP of an agent is a trap of code ILLOP. -/
theorem State.illop_eq (s : State) : s.illop = s.trapWith (s.scalarCause cILLOP 0 0) := rfl

/-- A trap always answers a next state, unless nothing is in execution. -/
theorem State.trapWith_answers {s : State} (h : s.live = true) (c : Cause) : ∃ t, s.trapWith c = .next t := by
  obtain ⟨⟨gi, r⟩, t, hc, ht⟩ := State.live_iff.1 h
  unfold State.trapWith
  rw [hc]
  cases r with
  | access => exact ⟨_, rfl⟩
  | hart n =>
    dsimp only
    split
    · split <;> exact ⟨_, rfl⟩
    · exact ⟨_, rfl⟩

end Sys2Proof.Machine
end

