-- ==== Sys2Proof/Laws/Wait.lean ====
section
/-! SUPPORT. Waits that are over at once: what fences, releases and acquires do when nothing is in flight. -/

namespace Sys2Proof.Machine

/-- A change that leaves the thread in execution as it is leaves the state as it is. -/
theorem State.setMe_eq_self {s : State} (h : s.live = true) {f : Thread → Thread} (hf : f s.me = s.me) :
    s.setMe f = s := by
  have e1 := OnlyThread.setMe h f
  have e2 := OnlyThread.setMe h id
  unfold OnlyThread at e1 e2
  rw [State.me_setMe h] at e1 e2
  have e3 : s.setMe id = s := by
    obtain ⟨a, t, hc, ht⟩ := State.live_iff.1 h
    simp only [State.setMe, hc, State.modThread, State.modGang]
    rw [modifyAt_id _ _ _ fun g _ => ?_]
    · rw [← hc]
    · cases a.role with
      | access => rfl
      | hart n =>
        simp only [Gang.modThread]
        rw [modifyAt_id g.harts n id fun _ _ => rfl]
  rw [e1, hf]
  exact e2.symm.trans e3

/-- With nothing in flight, closing the open entries changes nothing. -/
theorem Quiet.closeAll {s : State} (q : Quiet s) : s.setMe Thread.closeAll = s :=
  State.setMe_eq_self q.live (by
    unfold Thread.closeAll
    rw [show s.me.wc.map (fun e => { e with opn := false }) = s.me.wc from by rw [q.wc]; rfl])

theorem Quiet.vectorDrained {s : State} (q : Quiet s) : s.vectorDrained = true := by
  simp [State.vectorDrained, q.vq, q.wc]

theorem Quiet.matrixDrained {s : State} (q : Quiet s) : s.me.matrixDrained = true := by
  simp [Thread.matrixDrained, q.mq]

/-- A release waits for nothing. -/
theorem Quiet.afterRelease {s : State} (q : Quiet s) (sc : Nat) (k : State → Out) : s.afterRelease sc k = k s := by
  simp [State.afterRelease, q.closeAll, Thread.faultedXfer, q.xfers, q.vectorDrained, q.matrixDrained,
    State.storesDrained, q.wc, q.seen]

/-- A vector fence waits for nothing. -/
theorem Quiet.afterVector {s : State} (q : Quiet s) (k : State → Out) : s.afterVector k = k s := by
  simp [State.afterVector, q.closeAll, q.vectorDrained]

/-- An acquire waits for nothing. -/
theorem Quiet.afterAcquire {s : State} (q : Quiet s) (k : State → Out) : s.afterAcquire k = k s := by
  simp [State.afterAcquire, q.afterVector, Thread.faultedXfer, q.xfers, q.matrixDrained]

end Sys2Proof.Machine
end

