-- ==== Sys2Proof/Tests/Slice0.lean ====
section
/-! SUPPORT. Tests of the model: what WellFormed refuses, words of the encoding chapter, states that meet the hypotheses
of each statement (witness_<Name> for the statement <Name>), and single steps (test_<what>), each with the rule that gives
its result. -/

set_option maxRecDepth 100000
set_option Elab.async false

open Sys2Proof Sys2Proof.Machine

namespace Sys2Proof.Tests

/-! What WellFormed refuses, and the words of the encoding chapter. -/

/-- R122: scope codes 6 and 7 are refused, 5 is not. -/
theorem test_scope_codes : wellFormed .execute (.ldAq 1 2 6) = false ∧ wellFormed .execute (.sdRl 1 2 7) = false ∧
    wellFormed .execute (.ldAq 1 2 5) = true := by decide +kernel

/-- R122: kind codes 0 and 4 are refused. -/
theorem test_fence_codes : wellFormed .execute (.fence 0 0) = false ∧ wellFormed .execute (.fence 0 4) = false ∧
    wellFormed .execute (.fence 6 1) = false ∧ wellFormed .execute (.vfence 5 0) = false ∧
    wellFormed .execute (.fence 5 3) = true := by decide +kernel

/-- R50: tag codes 18 to 31 are refused. -/
theorem test_tag_codes : wellFormed .execute (.vcvt 1 2 false false 18) = false ∧
    wellFormed .execute (.vcvt 1 2 false false 17) = true := by decide +kernel

/-- R58: 60 to 63 are no vector destination, and 56 is no vector register. -/
theorem test_vector_specifiers : wellFormed .execute (.vadd 60 1 2 false false false false false) = false ∧
    wellFormed .execute (.vadd 59 1 2 false false false false false) = true ∧
    wellFormed .execute (.mwrow 1 56) = false := by decide +kernel

/-- R154: an access-unit context names a0 to a31, and sq0 to sq3 as sources and data. -/
theorem test_access_specifiers : wellFormed .access (.add 32 1 2) = false ∧ wellFormed .access (.add 31 1 2) = true ∧
    wellFormed .access (.vadd 1 60 2 false false false false false) = false ∧
    wellFormed .access (.ast 60 1 2 false false) = false := by decide +kernel

/-- R155: what each context does not issue. -/
theorem test_contexts : wellFormed .access (.faddD 1 2 3) = false ∧ wellFormed .access (.bqpop 1 0) = false ∧
    wellFormed .execute (.bqpush 0 1) = false ∧ wellFormed .execute .accessKend = false ∧
    wellFormed .access (.vld 1 2 false false false false false) = false ∧ wellFormed .access .brk = false := by
  decide +kernel

/-- The worked encodings of the encoding chapter. -/
theorem test_worked_words :
    Sys2Proof.decode .execute 0x00518701 = .ok (.add 5 6 7) ∧
    Sys2Proof.decode .execute 0x0410BFFC = .ok (.addi 1 2 0x3FFC) ∧
    Sys2Proof.decode .execute 0x40709803 = .ok (.ld 7 2 3) ∧
    Sys2Proof.decode .execute 0x50313FFE = .ok (.beq 3 4 0x3FFE) ∧
    Sys2Proof.decode .execute 0x68100010 = .ok (.jal 1 16) ∧
    Sys2Proof.decode .execute 0x72300001 = .ok (.fence 4 3) ∧
    Sys2Proof.decode .execute 0x74A01003 = .ok (.csrrs 10 0 3) ∧
    Sys2Proof.decode .execute 0x80824A20 = .ok (.vadd 8 9 10 false false true false false) ∧
    Sys2Proof.decode .execute 0x90CE1400 = .ok (.vfmadd 12 56 20 false false false false) ∧
    Sys2Proof.decode .execute 0xE0309005 = .ok (.mma 3 2 16 false false true false true) := by
  refine ⟨?_, ?_, ?_, ?_, ?_, ?_, ?_, ?_, ?_, ?_⟩ <;> rfl

/-- Scalar words written out from R148 and R149. -/
theorem test_scalar_words :
    Sys2Proof.decode .execute (0b001010_000001_11111111111111111111#32) = .ok (.lui 1 0xFFFFF) ∧
    Sys2Proof.decode .execute (0b001100_000001_000010_000011_00000001#32) = .ok (.faddD 1 2 3) ∧
    Sys2Proof.decode .execute (0b001110_000001_000010_000011_000100_00#32) = .ok (.fmaddD 1 2 3 4) ∧
    Sys2Proof.decode .execute (0b010001_000001_000010_011_1_0000000101#32) = .ok (.sd 1 2 true 5) ∧
    Sys2Proof.decode .execute (0b010010_000001_000010_000000_100_0_011_0#32) = .ok (.ldAq 1 2 4) ∧
    Sys2Proof.decode .execute (0b010010_000001_000010_000000_101_1_011_0#32) = .ok (.sdRl 1 2 5) ∧
    Sys2Proof.decode .execute (0b011011_000001_000010_00000000000100#32) = .ok (.jalr 1 2 4) ∧
    Sys2Proof.decode .execute (0b011110_000000_000010_000000_00000010#32) = .ok (.taskput 2) ∧
    Sys2Proof.decode .execute (0b011111_000001_000011_000000_00000001#32) = .ok (.bqpop 1 3) ∧
    Sys2Proof.decode .access (0b011111_000011_000001_000000_00000010#32) = .ok (.bqpush 3 1) := by
  refine ⟨?_, ?_, ?_, ?_, ?_, ?_, ?_, ?_, ?_, ?_⟩ <;> rfl

/-- Vector words written out from R150 and R151. -/
theorem test_vector_words :
    Sys2Proof.decode .execute (0b100011_000001_000010_000011_1_0_0_00010#32) =
      .ok (.vmul 1 2 3 true false false true true) ∧
    Sys2Proof.decode .execute (0b101101_000001_000010_000011_0_1_0_00000#32) =
      .ok (.vaddAcc 1 2 3 false true false) ∧
    Sys2Proof.decode .execute (0b100110_000001_000010_000011_00110000#32) = .ok (.vcmpeq 1 2 3 true true) ∧
    Sys2Proof.decode .execute (0b100111_000001_000000_000000_00000111#32) = .ok (.vmset 1) ∧
    Sys2Proof.decode .execute (0b101000_000001_000010_000000_0_1_0_00101#32) = .ok (.vcvt 1 2 true false 5) ∧
    Sys2Proof.decode .execute (0b101001_000001_000010_010001_00_1_00110#32) = .ok (.vresh 1 2 17 true) ∧
    Sys2Proof.decode .execute (0b101010_000001_000010_000011_0_0_1_00000#32) = .ok (.vredsum 1 2 3 false true) ∧
    Sys2Proof.decode .execute (0b101011_000001_000010_000000_00_1_00111#32) = .ok (.vfunc 1 2 true 7) ∧
    Sys2Proof.decode .execute (0b101100_000001_000010_000011_00000001#32) = .ok (.vsetvl 1 2 3) ∧
    Sys2Proof.decode .execute (0b101111_000001_000010_000011_00_1_1_01_10#32) = .ok (.vsalsel 1 2 3 true 1 2) := by
  refine ⟨?_, ?_, ?_, ?_, ?_, ?_, ?_, ?_, ?_, ?_⟩ <;> rfl

/-- Memory, matrix, engine and access words written out from R152, R153, R256 and R257. -/
theorem test_engine_words :
    Sys2Proof.decode .execute (0b110000_000001_000010_000000_000_1_0_0_1_0#32) =
      .ok (.vld 1 2 true false false true false) ∧
    Sys2Proof.decode .execute (0b110110_000000_000001_000010_00_1_00001#32) = .ok (.vwacc 1 2 true) ∧
    Sys2Proof.decode .execute (0b111001_000001_000010_000011_00000000#32) = .ok (.mld 1 2 3) ∧
    Sys2Proof.decode .execute (0b111010_000000_000010_000011_00000000#32) = .ok (.mwrow 2 3) ∧
    Sys2Proof.decode .execute (0b111110_000001_000010_000000_00_1_00000#32) = .ok (.cmdbCopy 1 2 true) ∧
    Sys2Proof.decode .execute (0b111111_000000_000001_000010_00000011#32) = .ok (.xlinv 1 2) ∧
    Sys2Proof.decode .access (0b111100_111011_000001_000010_00000010#32) = .ok (.mstream 3 1 2) := by
  refine ⟨?_, ?_, ?_, ?_, ?_, ?_, ?_⟩ <;> rfl

theorem witness_DecodeOfEncode : wellFormed .execute (.ldAq 63 1 5) = true ∧
    encode (.ldAq 63 1 5) = some (0b010010_111111_000001_000000_101_0_011_0#32) ∧
    wellFormed .access (.ast 59 31 1 true false) = true ∧ (encode (.ast 59 31 1 true false)).isSome = true := by
  decide +kernel

theorem witness_EncodeOfDecode : Sys2Proof.decode .access 0x00518701 = .ok (.add 5 6 7) ∧
    Sys2Proof.decode .execute 0xFC000000 = .ok .tret := ⟨rfl, rfl⟩

theorem test_refused_words : Sys2Proof.decode .execute 0 = .error .zeroWord ∧
    Sys2Proof.decode .execute 0x0000001B = .error .illegal ∧ Sys2Proof.decode .access 0xFC000000 = .error .illegal :=
  ⟨rfl, rfl, rfl⟩

/-! States to test on: one resident gang of one hart on core 0, whose hart, or whose context, is in execution. -/

/-- A hart at level 2, with eight vector registers. -/
def hart : Thread := { Thread.empty with
  pc := 0x1000, lvl := 2, dlvl := 2, vl := 4, vregs := List.replicate 8 ⟨.f64, .f64, [], false, 0⟩ }

/-- A gang of that hart, with an allocation of its scratchpad and an accumulator tile. -/
def crew (t : Thread) : Gang := { Gang.empty with
  st := .resident, harts := [t], access := { hart with avl := 3, vregs := List.replicate 8 ⟨.n64, .n64, [], false, 0⟩ }
  nv := 8, w := 8, blocks := 16, members := 1, ecap := 128, qen := 0xFFF, qenW := 0xFFF
  allocs := [⟨0, 5, [0], false⟩], tiles := [⟨[], .f64, 2048⟩] }

/-- A machine whose channels are trained and whose lane group 0 of core 0 is held by hart 0 of gang 0, the boot gang,
with one agent in execution. Lane group 7 is
the context's. -/
def world (g : Gang) (r : Role) : State := { State.reset with
  gangs := [g], cur := some ⟨0, r⟩
  mod := { ModSt.reset with bootGang := some 0, chans := List.replicate 256 { Chan.reset with train := false } }
  cores := modifyAt State.reset.cores 0 fun c => { c with
    lanes := some (0, 0, false) :: List.replicate 7 none, accNow := 0x80 } }

/-- The machine with a hart in execution. -/
def box (t : Thread) : State := world (crew t) (.hart 0)

/-- The machine with the access-unit context in execution. -/
def ctxBox : State := world (crew hart) .access

/-- The first address of the scratchpad window. -/
def win : Word := BitVec.ofNat 64 windowBase

/-- The hart with values in g1 to g3. -/
def at3 (x y z : Word) : Thread := { hart with regs := [(1, x), (2, y), (3, z)] }

/-- What a step answered, a state of no use standing for a stop. -/
def after (o : Out) : State :=
  match o with
  | .next t => t
  | _ => State.reset

/-- Whether a state was answered. -/
def answered (o : Out) : Bool :=
  match o with
  | .next _ => true
  | _ => false

theorem witness_box : (box hart).live = true ∧ (box hart).onHart = true ∧ ctxBox.live = true ∧ ctxBox.onHart = false := by
  decide +kernel

/-- A hart of some level, with a breakpoint word, that is to issue next; the word at its pc is in its instruction cache. -/
def ready (lvl : Nat) (bk : Word) : State :=
  let s := box { hart with lvl := lvl, sbkpt := [bk, 0, 0, 0] }
  { s with
    agenda := [.issue ⟨0, .hart 0⟩]
    cores := modifyAt s.cores 0 fun c => { c with icache := [(0, 0x80, [0x01#8, 0x87#8, 0x51#8, 0x00#8])] } }

/-- The fetch of a hart answers a word. -/
def fetched (o : Fetched) : Option Word32 :=
  match o with
  | .word w _ => some w
  | _ => none

theorem witness_StepRunsDecodedWord : (ready 1 0).mod.off = false ∧
    ((ready 1 0).thread? ⟨0, .hart 0⟩).map (fun t => (t.wait, t.lvl)) = some (.none, 1) ∧
    ({ ready 1 0 with agenda := [] }).mayIssue ⟨0, .hart 0⟩ = true ∧ ((ready 1 0).gangOf 0).bad = false ∧
    (ready 1 0).pendingCauses 0 0 = [] ∧
    fetched (({ ready 1 0 with agenda := [] }).fetch ⟨0, .hart 0⟩) = some 0x00518701 ∧
    Sys2Proof.decode .execute 0x00518701 = .ok (.add 5 6 7) := by decide +kernel

theorem witness_StepRunsUserWord :
    ((ready 0 0x1001).thread? ⟨0, .hart 0⟩).map (fun t => (t.wait, t.lvl, t.breaksAt t.pc)) = some (.none, 0, true) ∧
    ((ready 0 0x1000).thread? ⟨0, .hart 0⟩).map (fun t => t.breaksAt t.pc) = some false ∧
    ({ ready 0 0x1001 with agenda := [] }).mayIssue ⟨0, .hart 0⟩ = true ∧
    fetched (({ ready 0 0x1001 with agenda := [] }).fetch ⟨0, .hart 0⟩) = some 0x00518701 := by decide +kernel

/-- The step of a decoded word: ADD writes its register and the pc moves on (R168). -/
theorem test_step_add : ((after (step (ready 1 0))).me.pc, (after (step (ready 1 0))).me.reg 5) = (0x1004, 0) := by
  decide +kernel

/-- A breakpoint of level 0 raises DEBUG; with no vector the gang is killed (R383, R402). -/
theorem test_step_breakpoint : ((after (step (ready 0 0x1001))).gangOf 0).st = .retired := by decide +kernel

theorem witness_StepMovesEvent : isMove (.shelfUnitTick 0) = true ∧
    ({ State.reset with agenda := [.event (.shelfUnitTick 0)] }).mod.off = false := by decide +kernel

theorem witness_OffUntilModuleReset :
    ({ State.reset with mod := { ModSt.reset with off := true } }).mod.off = true ∧
    ∀ rest, State.reset.agenda ≠ .event .moduleReset :: rest := ⟨by decide +kernel, fun _ h => by cases h⟩

theorem witness_StepKeepsMemoryForm : Memory.wf (ready 1 0).mem = true ∧ Memory.wf (ready 1 0).mod.store = true ∧
    answered (step (ready 1 0)) = true := by decide +kernel

/-- A cause for tests. -/
def cause (code : Nat) : Cause := ⟨code, 0, 0, 0, 0, 0, 0, 0, 0x1000, 0, 0, 0, 0⟩

/-- The box with a supervisor's vector. -/
def vectored (t : Thread) : State :=
  { box t with parts := modifyAt State.reset.parts 0 fun p => { p with stvec := 0x4000 } }

theorem witness_TrapEntry : ((box { hart with lvl := 0 }).thread? ⟨0, .hart 0⟩).map (·.lvl) = some 0 ∧
    ((box { hart with lvl := 0 }).part 0).stvec = 0 ∧ (cause cILLOP).code ≠ cMCHK ∧
    ((vectored { hart with lvl := 0 }).part 0).stvec ≠ 0 ∧
    ((box { hart with lvl := 1 }).thread? ⟨0, .hart 0⟩).map (·.lvl) = some 1 ∧
    ((box hart).thread? ⟨0, .hart 0⟩).map (·.lvl) = some 2 ∧ ((box hart).gangOf 0).core < (box hart).cores.length := by
  decide +kernel

/-- A trap at level 0 saves the pc and the level and enters the vector (R383). -/
theorem test_trap_entry : (let t := ((vectored { hart with lvl := 0 }).enterTrap 0 0 (cause cILLOP)).me
    (t.pc, t.sepc, t.lvl, t.plvl, t.frz)) = (0x4000, 0x1000, 1, 0, true) := by decide +kernel

theorem witness_TrapOfInstruction : (box hart).cur = some ⟨0, .hart 0⟩ ∧ (box hart).pendingCauses 0 0 = [] ∧
    (box { hart with causes := [cause cFPX] }).pendingCauses 0 0 ≠ [] ∧ (cause cMCHK).code = cMCHK ∧
    ctxBox.cur = some ⟨0, .access⟩ ∧ ctxBox.live = true := by decide +kernel

theorem witness_TrapReturn : (box { hart with lvl := 1 }).live = true ∧ (box { hart with lvl := 1 }).onHart = true ∧
    (box { hart with lvl := 1 }).me.lvl = 1 ∧ (box hart).me.lvl = 2 ∧
    (box { hart with plvl := 0, lvl := 1, dlvl := 0, kept := .gd 3, wq := true, frz := true }).me.kept = .gd 3 := by
  decide +kernel

/-- TRET to the dispatch level thaws the queues and resumes the wait (R385, R390). -/
theorem test_tret : (let t := (after (exec .tret
      (box { hart with plvl := 0, lvl := 1, dlvl := 0, kept := .gd 3, wq := true, frz := true, sepc := 0x2003 }))).me
    (t.pc, t.lvl, t.frz, t.wait)) = (0x2000, 0, false, .gd 3) := by decide +kernel

theorem witness_PrivilegedBelowLevel : requiredLevel .tret = some 1 ∧ requiredLevel (.haltc 1) = some 2 ∧
    (box { hart with lvl := 0 }).live = true ∧ (box { hart with lvl := 0 }).onHart = true ∧
    (box { hart with lvl := 0 }).me.lvl < 1 ∧ (box { hart with lvl := 1 }).me.lvl < 2 := by decide +kernel

theorem witness_HartFormsInContext : hartOnly (.faddD 1 2 3) = true ∧ ctxBox.onHart = false ∧
    accessOnly (.bqpush 0 1) = true ∧ (box hart).onHart = true ∧ ctxBox.live = true ∧ (box hart).live = true := by
  decide +kernel

theorem witness_FrozenQueueIllop : frozenIllop (.mzero 0) = true ∧ frozenIllop (.vmset 1) = true ∧
    (box { hart with frz := true }).live = true ∧ (box { hart with frz := true }).onHart = true ∧
    (box { hart with frz := true }).me.frz = true := by decide +kernel

/-- A push to a frozen queue raises ILLOP: at level 2 the core stops (R384, R383). -/
theorem test_frozen_push : ((after (exec (.mzero 0) (box { hart with frz := true }))).core 0).stopped = true := by
  decide +kernel

theorem witness_BreakRaisesDebug : (vectored { hart with lvl := 0 }).live = true ∧
    (vectored { hart with lvl := 0 }).cur = some ⟨0, .hart 0⟩ ∧ (vectored { hart with lvl := 0 }).pendingCauses 0 0 = [] ∧
    (vectored { hart with lvl := 0 }).me.lvl = 0 ∧ ((vectored { hart with lvl := 0 }).part 0).stvec ≠ 0 ∧
    (box { hart with lvl := 1 }).me.lvl = 1 ∧ (box { hart with lvl := 1 }).pendingCauses 0 0 = [] := by decide +kernel

theorem witness_FirmwareCall : (box { hart with lvl := 1 }).live = true ∧
    (box { hart with lvl := 1 }).cur = some ⟨0, .hart 0⟩ ∧ (box { hart with lvl := 1 }).pendingCauses 0 0 = [] ∧
    (box { hart with lvl := 1 }).me.lvl = 1 := by decide +kernel

/-- FWCALL saves the next word's address and enters level 2 (R404). -/
theorem test_fwcall : (let t := (after (exec .fwcall (box { hart with lvl := 1 }))).me
    (t.lvl, t.fplvl, t.fepc)) = (2, 1, 0x1004) := by decide +kernel

theorem witness_IntegerResults : (integerForms[0]?).isSome = true ∧ (box hart).live = true := by decide +kernel

theorem witness_ImmediateResults : (immediateForms[5]?).isSome = true ∧ (shiftForms[2]?).isSome = true ∧
    (box hart).live = true := by decide +kernel

theorem witness_DivisionCorners : (box (at3 0x8000000000000000 0 (BitVec.allOnes 64))).live = true ∧
    (box (at3 0x8000000000000000 0 (BitVec.allOnes 64))).x 2 = 0 ∧
    (box (at3 0x8000000000000000 0 (BitVec.allOnes 64))).x 1 = 0x8000000000000000 ∧
    (box (at3 0x8000000000000000 0 (BitVec.allOnes 64))).x 3 = 0xFFFFFFFFFFFFFFFF := by decide +kernel

/-- Division by zero and the quotient that overflows (R169). -/
theorem test_div : (let s := box (at3 0x8000000000000000 0 (BitVec.allOnes 64))
    ((after (exec (.div 4 1 2) s)).x 4, (after (exec (.div 4 1 3) s)).x 4, (after (exec (.rem 4 1 2) s)).x 4)) =
    (0xFFFFFFFFFFFFFFFF, 0x8000000000000000, 0x8000000000000000) := by decide +kernel

/-- A write to g0 is discarded (R40). -/
theorem test_g0 : (after (exec (.addi 0 1 5) (box (at3 7 0 0)))).x 0 = 0 := by decide +kernel

theorem witness_BranchesAndJumps : (box (at3 0x2002 0x2000 0)).live = true ∧
    ((box (at3 0x2002 0x2000 0)).x 2 + (0 : BitVec 14).signExtend 64).toNat % 4 = 0 ∧
    ((box (at3 0x2002 0x2000 0)).x 1 + (0 : BitVec 14).signExtend 64).toNat % 4 ≠ 0 := by decide +kernel

/-- A branch back by two words is taken from its own pc (R174). -/
theorem test_beq : (after (exec (.beq 1 1 0x3FFE) (box hart))).pc = 0xFF8 := by decide +kernel

/-- A hart whose exceptions trap on an inexact result (R80), and one that rounds by the Sower (R77). -/
def trapping : Thread := { at3 0x3FF0000000000000 0x3CA0000000000000 0 with frm := 0x1F00 }

theorem witness_FloatRounding : (box trapping).live = true ∧ (box trapping).onHart = true ∧
    raisesFpx trapping.frm 0x10 = true ∧ trapping.scalarSupp = false ∧ raisesFpx 0 0x1F = false ∧
    ({ trapping with supp := true, suppNow := true }).scalarSupp = true ∧ frmRm trapping.frm ≠ 4 ∧ frmRm 4 = 4 ∧
    hart.sowDims ≤ frmSrdim 4 ∧
    frmSrdim 4 < ({ hart with sowDims := 1, frm := 4 }).sowDims := by decide +kernel

theorem witness_FloatExact : (box trapping).live = true ∧ (box trapping).onHart = true ∧
    raisesFpx trapping.frm 1 = true ∧ raisesFpx 0 1 = false ∧ trapping.scalarSupp = false := by decide +kernel

/-- One and half the last place of one: the tie goes to even, inexact (R72, R80). -/
theorem test_fadd : (let t := (after (exec (.faddD 4 1 2) (box { trapping with frm := 0 }))).me
    (t.reg 4, decide (t.fflags.toNat % 32 ≠ 0))) = (0x3FF0000000000000, true) := by decide +kernel

/-- A check on the value of a computation that succeeds. -/
def okWith {ε α : Type} (o : Except ε α) (q : α → Bool) : Bool :=
  match o with
  | .ok x => q x
  | .error _ => false

theorem ok_of_okWith {ε α : Type} {o : Except ε α} {q : α → Bool} (h : okWith o q = true) : ∃ x, o = .ok x ∧ q x = true := by
  cases o with
  | ok x => exact ⟨x, rfl, h⟩
  | error e => cases h

/-- An access that passes every check and reaches a place, with a check on the place and the state after it. -/
def reachesWith (s : State) (acc : Acc) (va : Word) (n : Nat) (q : Place → State → Bool) : Bool :=
  okWith (s.place s.who s.me.lvl acc (inWindow va.toNat && !tooWide va) va n n) fun x =>
    decide (x.2.me.blocker va.toNat n (acc ≠ .read) = none) &&
      decide (x.2.barred x.2.who.gang acc x.1 n = none) && q x.1 x.2

theorem reaches_of_reachesWith {s : State} {acc : Acc} {va : Word} {n : Nat} {q : Place → State → Bool}
    (h : reachesWith s acc va n q = true) : ∃ p t, s.reaches acc va n p t ∧ q p t = true := by
  obtain ⟨⟨p, t⟩, h1, h2⟩ := ok_of_okWith h
  simp only [Bool.and_eq_true, decide_eq_true_eq] at h2
  exact ⟨p, t, ⟨⟨h1, h2.1.1⟩, h2.1.2⟩, h2.2⟩

/-- Nothing of the agent in execution is in flight. -/
def isQuiet (s : State) : Bool :=
  s.live && decide (s.me.vq = []) && decide (s.me.mq = []) && decide (s.me.wc = []) && decide (s.me.xfers = []) &&
    decide (s.me.flight = none) && !s.myGang.unreleased s.me

theorem quiet_of_isQuiet {s : State} (h : isQuiet s = true) : Quiet s := by
  simp only [isQuiet, Bool.and_eq_true, decide_eq_true_eq, Bool.not_eq_true'] at h
  exact ⟨h.1.1.1.1.1.1, h.1.1.1.1.1.2, h.1.1.1.1.2, h.1.1.1.2, h.1.1.2, h.1.2, h.2⟩

/-- A hart whose scratchpad block is past its life. -/
def staleBox : State := (box (at3 win 0 0)).modGang 0 fun g => { g with allocs := [⟨0, 5, [6], false⟩] }

/-- A far gather in flight over the first sector of the scratchpad, and its load. -/
def farXfer : Xfer := Xfer.new (.far []) 0 0x1000 0 0 (some (windowBase, 8)) none none 0

/-- A copy that writes that sector. -/
def copyXfer : Xfer :=
  Xfer.new (.copy ⟨0x2000, win, 32, 1, 32, 32, false, false, false, 0, 1⟩) 0 0x1000 0 0 none (some (windowBase, 32)) none 0

/-- Loads from the scratchpad and from memory; one that is misaligned, one of an expired block, and one over a copy. -/
theorem witness_LoadResults : (box (at3 win 0x2000 0x2001)).live = true ∧
    (∃ p t, (box (at3 win 0x2000 0x2001)).reaches .read win 8 p t ∧
      decide (p = .spad 0 ∧ (t.setMe (·.closeSlice 0)).loadAt t.who 0 p 8 = some 0) = true) ∧
    (∃ p t, (box (at3 win 0x2000 0x2001)).reaches .read 0x2000 4 p t ∧
      decide (p = .mem 0x2000 ∧ (t.setMe (·.closeSlice 0)).loadAt t.who 0 p 4 = some 0) = true) ∧
    okWith ((box hart).place ⟨0, .hart 0⟩ 2 .read false 0x2001 2 2) (fun _ => true) = false ∧
    okWith (staleBox.place ⟨0, .hart 0⟩ 2 .read true win 8 8) (fun x =>
      decide (x.2.me.blocker win.toNat 8 false = none ∧ x.2.unreadable 0 x.1 8 = some cSTALE)) = true ∧
    okWith ((box { hart with xfers := [copyXfer] }).place ⟨0, .hart 0⟩ 2 .read true win 8 8) (fun x =>
      decide (x.2.me.blocker win.toNat 8 false = some copyXfer)) = true ∧ copyXfer.tells = false :=
  ⟨by decide +kernel, reaches_of_reachesWith (by decide +kernel), reaches_of_reachesWith (by decide +kernel),
    by decide +kernel, by decide +kernel, by decide +kernel, by decide +kernel⟩

/-- A signed byte is extended (R175). -/
theorem test_lb : (let s := { box (at3 0 0x2000 0) with mem := [(0x2000, 0x80#8)] }
    ((after (exec (.lb 4 2 0) s)).x 4, (after (exec (.lbu 4 2 0) s)).x 4)) = (0xFFFFFFFFFFFFFF80, 0x80) := by decide +kernel

/-- A load of an expired block raises STALE (R101); one that a copy rewrites waits for it first (R129). -/
theorem test_stale : ((after (exec (.ld 4 1 0) staleBox)).mod.frec.head?.map (·.toNat % 256),
    (after (exec (.ld 4 1 0) (staleBox.setMe fun t => { t with xfers := [copyXfer] }))).me.stall) =
      (some cSTALE, .busy) := by decide +kernel

/-- Stores to the last doubleword of a block of the scratchpad, to the scalar data memory, and to memory. -/
theorem witness_StoreResults : isQuiet (box (at3 0 0 0)) = true ∧
    (∃ p t, (box (at3 0 0 0)).reaches .write (win + 4088) 8 p t ∧
      (decide (p = .spad 4088) && isQuiet t && (t.storeAt t.who 0 (win + 4088).toNat p 8 1 false 0 none).isSome) = true) ∧
    (∃ p t, (box (at3 0 0 0)).reaches .write (win + 0x3000000) 8 p t ∧
      (decide (p = .sdm 0) && isQuiet t && (t.storeAt t.who 0 (win + 0x3000000).toNat p 8 1 false 0 none).isSome) = true) ∧
    (∃ p t, (box (at3 0 0 0)).reaches .write 0x2000 1 p t ∧
      (decide (p = .mem 0x2000) && isQuiet t && (t.storeAt t.who 0 0x2000 p 1 0xFF false 0 none).isSome) = true) :=
  ⟨by decide +kernel, reaches_of_reachesWith (by decide +kernel), reaches_of_reachesWith (by decide +kernel),
    reaches_of_reachesWith (by decide +kernel)⟩

/-- A store to the scratchpad writes its bytes at once, lowest first (R175, R121). -/
theorem test_sh : (let g := (after (exec (.sh 4 1 false 0) (box { at3 win 0 0 with regs := [(1, win), (4, 0x1234)] }))).myGang
    (Sparse.get g.spad 0, Sparse.get g.spad 1, Sparse.get g.spad 2)) = (0x34, 0x12, 0) := by decide +kernel

theorem witness_StoreIsSeen : (box hart).live = true ∧ 8 ∈ [1, 2, 4, 8] ∧ 0x2000 % 8 = 0 ∧
    (box hart).training 0x2000 = false ∧
    ((box hart).storeAt (box hart).who 0 0x2000 (.mem 0x2000) 8 1 false (box hart).me.epoch none).isSome = true ∧
    ((box hart).storeAt (box hart).who 0 0 (.spad 0) 8 1 false (box hart).me.epoch none).isSome = true := by decide +kernel

theorem witness_AtomicResults : (box (at3 win 5 0)).live = true ∧ (0 : BitVec 2).getLsbD 1 = false ∧
    (3 : BitVec 2).getLsbD 1 = true ∧ isQuiet (box (at3 win 5 0)) = true ∧
    ∃ p t, (box (at3 win 5 0)).reaches .rmw win 8 p t ∧
      (isQuiet t && decide ((t.setMe (·.closeSlice 0)).me.wc = []) && !(t.setMe (·.closeSlice 0)).heldOver t.who p 8 &&
        !(t.setMe (·.closeSlice 0)).stalled p) = true :=
  ⟨by decide +kernel, by decide +kernel, by decide +kernel, by decide +kernel, reaches_of_reachesWith (by decide +kernel)⟩

/-- AMOCAS stores where the expected value is met, and returns the old value (R177). -/
theorem test_amocas : (let s := box { at3 win 5 0 with regs := [(1, win), (2, 5)] }
    let t := after (exec (.amocas 3 1 2 0 false true) s)
    (t.x 3, Sparse.get t.myGang.spad 0)) = (0, 5) := by decide +kernel

/-- AMOADD wraps at 32 bits and returns the old word sign-extended (R40, R177). -/
theorem test_amoadd : (let s := box { at3 win 1 0 with regs := [(1, win), (2, 1)] }
    let s := s.modGang 0 fun g => { g with spad := [(0, 0xFF), (1, 0xFF), (2, 0xFF), (3, 0xFF)] }
    let t := after (exec (.amoadd 3 1 2 0 false false) s)
    (t.x 3, t.myGang.spad)) = (0xFFFFFFFFFFFFFFFF, []) := by decide +kernel

/-- A record on a queue. -/
def rec0 : VRec := (box hart).blank .mset 4

theorem witness_FencesComplete : isQuiet (box hart) = true ∧ (box hart).me.frz = false ∧
    (box { hart with vq := [rec0] }).live = true ∧ (box { hart with vq := [rec0] }).me.vq ≠ [] ∧
    (box { hart with vq := [rec0] }).me.xfers = [] ∧ (box { hart with mq := [rec0] }).me.mq ≠ [] ∧
    (box { hart with mq := [rec0] }).onHart = true := by decide +kernel

/-- A context whose queue still owes g6, and a hart whose plain load is still to be performed. -/
theorem witness_StepRunsDecodedWord_waits : (ready 1 0).waitsScalar ⟨0, .hart 0⟩ 0x00518701 = false ∧
    (ctxBox.setMe fun t => { t with vq := [{ rec0 with dst := .scalar 6 }] }).waitsScalar ⟨0, .access⟩ 0x00518701 = true ∧
    (({ ready 1 0 with cur := some ⟨0, .hart 0⟩ }.setMe fun t => { t with flight := some ⟨4, 0x2000, 0x2000, 4, true⟩ }).landFor
      ⟨0, .hart 0⟩ 0x00518700 fun u => .next u).isSome = true := by decide +kernel

/-- A gang of two harts that are both members of the barrier. -/
def pair : State :=
  world { crew hart with harts := [hart, { hart with wait := .barrier, pend := true }], members := 3 } (.hart 0)

theorem witness_BarriersComplete : isQuiet (box hart) = true ∧ ((box hart).arriveMe false).me.pend = false ∧
    isQuiet pair = true ∧ (pair.arriveMe false).me.pend = true ∧ (box { hart with pend := true }).me.pend = true ∧
    pair.myGang.members.getLsbD 0 = true ∧ pair.myGang.arrived.getLsbD 0 = false ∧
    (pair.myGang.arrived ||| 1) &&& pair.myGang.members ≠ pair.myGang.members ∧
    ((2 : BitVec 8) ||| 1) &&& pair.myGang.members = pair.myGang.members := by decide +kernel

/-- The last arrival ends the phase and lets the waiting hart go on (R186). -/
theorem test_barrier : (let t := after (exec .barrive (pair.modGang 0 fun g => { g with arrived := 2 }))
    (t.myGang.phase, t.myGang.arrived, (t.myGang.hart 1).wait, (t.myGang.hart 1).pc)) = (1, 0, .none, 0x1004) := by
  decide +kernel

theorem witness_SleepOnWord : (box (at3 (win + 2) 0 0)).live = true ∧
    ((box (at3 (win + 2) 0 0)).x 1).toNat / 2 % 4 ≠ 0 ∧ ((box (at3 (win + 1) 0 0)).x 1).toNat / 2 % 4 = 0 ∧
    ∃ p t, (box (at3 (win + 1) 0 0)).reaches .read ((win + 1) &&& ~~~7#64) 8 p t ∧
      (decide ((t.setMe (·.closeSlice 0)).me.wc = []) && !(t.setMe (·.closeSlice 0)).stalled p &&
        decide (t.seenAt t.who p 8 = 0) && decide (t.sleepers = [])) = true :=
  ⟨by decide +kernel, by decide +kernel, by decide +kernel, reaches_of_reachesWith (by decide +kernel)⟩

/-- A word that differs is returned at once; an equal one is slept on (R178, R179). -/
theorem test_waitw : ((after (exec (.waitw 4 1 2) (box (at3 win 1 0)))).x 4,
    ((after (exec (.waitw 4 1 2) (box (at3 win 0 0)))).sleepers).length) = (0, 1) := by decide +kernel

/-- A CSR of some number can be read, and a value written to it. -/
def csrWorks (s : State) (c : BitVec 12) (v : Word) : Bool :=
  (s.readCsr c).isSome && (s.writeCsr c v).isSome

theorem witness_CsrAccess : (box hart).live = true ∧ csrWorks (box hart) 0x010 5 = true ∧
    ((box hart).readCsr 0x252).isSome = true ∧ ((box hart).writeCsr 0x252 0).isNone = true ∧
    ((box { hart with lvl := 0 }).readCsr 0x101).isNone = true ∧ ((box { hart with lvl := 1 }).readCsr 0x201).isNone = true ∧
    (box { hart with lvl := 1 }).me.lvl ≤ 1 := by decide +kernel

theorem witness_CsrWriteThenRead : (box hart).live = true ∧ (box hart).onHart = true ∧
    (box hart).myPart < (box hart).parts.length ∧ (box hart).mod.fpsel < (box hart).parts.length ∧
    (box hart).me.sbkpt.length = 4 ∧
    (keptCsrs.all fun p => ((box { hart with lvl := p.2.2 }).writeCsr p.1 p.2.1).isSome) = true ∧
    ((box hart).writeCsr 0x010 7).isSome = true := by decide +kernel

/-- A launch that is running, with its dword 4. -/
def running (d4 : Word) : Launch :=
  { part := 0, lid := 1, desc := [0, 0, 0, 1, d4, 0, 0, 0], level := 0, super := false
    head := ⟨true, 8, 8, 1, 1, 0, 1024, false, 0x1000, 0, 0, 0⟩
    coef := [], dirDims := 0, queues := [⟨0, [], []⟩], left := 0, outcome := 0, eacct := 0, effPrio := 0, waited := 0, samples := 0
    acceptOrd := 0, next := 1, killed := [], retired := 0, complete := false, epochs := [], progressed := false }

/-- The box in a launch. -/
def launched (t : Thread) (d4 : Word) : State := { box t with launches := [running d4] }

theorem witness_TasksAndEnds : (box hart).live = true ∧ (box hart).onHart = true ∧ isQuiet (box (at3 64 0 0)) = true ∧
    ((box hart).modGang 0 fun g => { g with bq := [[7], [], [], []] }).myGang.branch 0 = [7] ∧
    (box hart).myGang.branch 3 = [] ∧ (ctxBox.myGang.branch 3).length < 16 ∧
    16 ≤ ((ctxBox.modGang 0 fun g => { g with bq := [List.replicate 16 0] }).myGang.branch 0).length ∧
    ((launched (at3 64 0 0) 0x400).launch? 0).map (fun l => (l.panels, l.determ, l.appended 0)) = some (true, false, 0) ∧
    ((launched hart 0).launch? 0).map (fun l => (l.panels, l.determ)) = some (false, false) ∧
    ((launched hart 0x600).launch? 0).map (fun l => l.determ) = some true ∧
    (launched hart 0x600).gangDeterm (launched hart 0x600).myGang = true ∧
    (box hart).gangDeterm (box hart).myGang = false ∧
    ((box (at3 63 0 0)).x 1).toNat % 64 ≠ 0 ∧ inWindow ((box (at3 win 0 0)).x 1).toNat = true ∧
    okWith ((box (at3 64 0 0)).readDwords ⟨0, .hart 0⟩ 2 64 8) (fun _ => true) = true ∧
    (box hart).cur = some ⟨0, .hart 0⟩ ∧ (box hart).me.wait = .none ∧ ctxBox.live = true ∧ ctxBox.onHart = false ∧
    ctxBox.me.vq = [] ∧ ctxBox.me.xfers = [] ∧ ctxBox.me.wc = [] := by decide +kernel

/-- LAUNCH of a descriptor that is not aligned answers 1 (R190). -/
theorem test_launch : (after (exec (.launch 4 1) (box (at3 63 0 0)))).x 4 = 1 := by decide +kernel

/-- A successful computation as an option. -/
def val? {ε α : Type} (o : Except ε α) : Option α :=
  match o with
  | .ok x => some x
  | .error _ => none

/-- A condition as an option. -/
def must (b : Bool) : Option Unit := if b then some () else none

/-- Whether an answer is the push of a record on a state. -/
def pushed (o : Out) (s : State) (r : VRec) : Bool :=
  match o with
  | .next t => decide (t = s.setMe fun _ => t.me) && decide (t.me = { s.me with
      vq := s.me.vq ++ [r], vqtail := s.me.vqtail + 1, ordNext := s.me.ordNext + 1, vregs := r.noteTag s.me.vregs
      pc := if s.onHart && r.waits then s.pc else s.pc + 4
      wait := if s.onHart && r.waits then .gd r.seq else s.me.wait, stall := .none
      supp := s.me.supp && ((s.onHart && r.waits) || !s.me.suppNow), suppNow := s.onHart && r.waits && s.me.suppNow
      retired := if s.onHart && r.waits then s.me.retired else s.me.retired + 1 })
  | _ => false

/-- Room in the vector queue. -/
def hasRoom (s : State) : Bool :=
  s.live && !s.me.frz && decide (s.me.vq.length < if s.onHart then 64 else 16)

theorem room_of_hasRoom {s : State} (h : hasRoom s = true) : s.room := by
  simp only [hasRoom, Bool.and_eq_true, Bool.not_eq_true', decide_eq_true_eq] at h
  exact ⟨h.1.1, h.1.2, h.2⟩

/-- The second source (R150, R197). -/
def second? (s : State) (u : Option Tag) (s1 : State) (x : Operand) (b : BitVec 6) (g : Bool) : Option (Operand × State) :=
  if g then some (⟨.scalar (scalarUnder x.tag s.me.frm (s.x b)), x.tag, 2 ^ 32, none⟩, s1) else val? (s1.vsource u b)

/-- What State.Takes gives for a form: the state it is pushed on and its record. -/
def takes (s : State) (f : Machine.Fields) (u : Option Tag) (t : State) (r e : VRec) : Option (State × VRec) := do
  val? (s.named f)
  must (if s.popsNothing f then u.isSome else u.isNone)
  return if s.popsNothing f then (s, e) else (t, r)

/-- A hart whose v1 holds tag N8 and whose v2 to v7 hold a tag, under some control word. -/
def tagged (t : Tag) (frm : Word) : Thread := { hart with
  vregs := [⟨t, t, [], false, 0⟩, ⟨.n8, .n8, [], false, 0⟩] ++ List.replicate 6 ⟨t, t, [], false, 0⟩
  frm := frm, sowDims := 1 }

/-- What QueuedElementwise assumes of a form, with the state and the record it then gives. -/
def elementwise (f : AluFn) (d a b : BitVec 6) (n sc m g l : Bool) (u : Option Tag) (s : State) :
    Option (State × VRec) := do
  must (hasRoom s)
  let fs : Machine.Fields := ⟨if f.unary || g then [a] else [a, b], some d, true, m⟩
  let (x, s1) ← val? (s.vsource u a)
  let (y, s2) ← if f.unary then some (x, s1) else second? s u s1 x b g
  let t ← promote x.tag y.tag
  let dt ← val? (aluOutTag f t n sc)
  must (f.defined t && (s.onHart || t.integer) && s.fits t && s.fits dt && s.scaleOk sc [x.tag, y.tag, dt] &&
    !(sc && decide (t = .l6) && decide (f = .mul)))
  let vl ← val? (s.length fs none)
  let s3 ← val? (s2.reserveSower (aluRounds f t n sc) vl)
  let dst := s.vdest fs
  takes s fs u s3 { s2.blank (.alu f) vl with
    masked := m, scaled := sc, short := l, dst := dst, srcA := x.src, srcB := if f.unary then .none else y.src
    tagA := x.tag, tagB := y.tag, tagD := s.destTag dst, opTag := t, outTag := dt
    rezero := rezeroOf dst (s.destTag dst) dt, pops := if f.unary then popsOf [x] else popsOf [x, y] }
    (s.blank (.alu f) 0)

/-- A machine with an entry of three doublewords in lq0, and one in sq0 for the context. -/
def queues (s : State) : State := s.modGang 0 fun g => { g with
  ents := [⟨5, .f64, 3, 3, [], false, none, none, none⟩, ⟨6, .n64, 3, 3, [], false, none, none, none⟩]
  entNext := 7, lq := [5] :: List.replicate 7 [], sq := [6] :: List.replicate 3 [] }

/-- What QueuedAccumulator assumes of a form of VACC. -/
def accumulator (f : AluFn) (d a b : BitVec 6) (n sc m : Bool) (u : Option Tag) (s : State) : Option (State × VRec) := do
  must (hasRoom s && s.onHart && decide (s.me.vl ≤ 2048))
  let fs : Machine.Fields := ⟨if f.unary then [] else [b], some d, true, m⟩
  let (tile, row, ta) ← val? (s.rowSource (s.x a))
  let (y, s2) ← if f.unary then some (⟨.row tile row, ta, 2048, none⟩, s) else val? (s.vsource u b)
  let t ← promote ta y.tag
  let dt ← val? (aluOutTag f t n sc)
  must (f.defined t && s.fits t && s.fits dt && s.scaleOk sc [ta, y.tag, dt] && !(sc && decide (t = .l6) && decide (f = .mul)))
  let s3 ← val? (s2.reserveSower (aluRounds f t n sc) s.me.vl)
  let dst := s.vdest fs
  takes s fs u s3 { s2.blank (.alu f) s.me.vl with
    masked := m, scaled := sc, dst := dst, srcA := .row tile row, srcB := if f.unary then .none else y.src
    tagA := ta, tagB := y.tag, tagD := s.destTag dst, opTag := t, outTag := dt
    rezero := rezeroOf dst (s.destTag dst) dt, pops := if f.unary then [] else popsOf [y] } (s.blank (.alu f) 0)

/-- The sources of a fused form: an accumulator row, or a vector source, and the second source. -/
def fusedSources (a b : BitVec 6) (g row : Bool) (u : Option Tag) (s : State) : Option (Operand × Operand × State) :=
  if row then do
    must (decide (s.me.vl ≤ 2048))
    let (tile, r, ta) ← val? (s.rowSource (s.x a))
    let (y, s2) ← val? (s.vsource u b)
    return (⟨.row tile r, ta, 2048, none⟩, y, s2)
  else do
    let (x, s1) ← val? (s.vsource u a)
    let (y, s2) ← second? s u s1 x b g
    return (x, y, s2)

/-- What QueuedAccumulator assumes of a fused form. -/
def fused (f : FmaFn) (d a b : BitVec 6) (n sc m g row : Bool) (u : Option Tag) (s : State) : Option (State × VRec) := do
  must (hasRoom s && s.onHart)
  let (x, y, s2) ← fusedSources a b g row u s
  let old := (s.me.vreg d.toNat).tag
  let dst := Dst.reg d.toNat
  let t ← (promote x.tag y.tag).bind fun t => promote t old
  let dt ← val? (aluOutTag .add t n sc)
  must (decide (t ≠ .l6) && s.fits t && s.fits dt && s.scaleOk sc [x.tag, y.tag, old, dt])
  let s3 ← val? (s2.reserveSower t.floating s.me.vl)
  takes s ⟨if row then [b] else if g then [a] else [a, b], some d, false, m⟩ u s3 { s2.blank (.fma f) s.me.vl with
    masked := m, scaled := sc, dst := dst, srcA := x.src, srcB := y.src, tagA := x.tag, tagB := y.tag
    tagD := old, opTag := t, outTag := dt, rezero := rezeroOf dst old dt, pops := popsOf [x, y] } (s.blank (.fma f) 0)

/-- The record of a form of two vector sources. -/
def bothRec (s s2 : State) (fs : Machine.Fields) (x y : Operand) (op : VOp) (vl : Nat) (t out : Tag) : VRec :=
  let dst := s.vdest fs
  { s2.blank op vl with
    masked := fs.mask && (match op with | .sel => false | _ => true), dst := dst, srcA := x.src, srcB := y.src
    tagA := x.tag, tagB := y.tag, tagD := s.destTag dst, opTag := t, outTag := out
    rezero := rezeroOf dst (s.destTag dst) out, pops := popsOf [x, y] }

/-- What QueuedMasks assumes of a compare. -/
def compared (f : CmpFn) (d a b : BitVec 6) (m g : Bool) (u : Option Tag) (s : State) : Option (State × VRec) := do
  must (hasRoom s)
  let fs : Machine.Fields := ⟨if g then [a] else [a, b], some d, true, m⟩
  let (x, s1) ← val? (s.vsource u a)
  let (y, s2) ← second? s u s1 x b g
  let vl ← val? (s.length fs none)
  let t ← promote x.tag y.tag
  must (s.fits t && (s.onHart || t.integer) && !(decide (f = .unord) && t.integer))
  takes s fs u s2 (bothRec s s2 fs x y (.cmp f) vl t .n8) (s.blank (.cmp f) 0)

/-- What it assumes of a form of two vector sources, and its record under an operation and tags; `reads` is whether it
reads v0. -/
def two (op : VOp) (d a b : BitVec 6) (reads : Bool) (t : Tag → Tag → Option Tag) (u : Option Tag) (s : State) :
    Option (State × VRec) := do
  must (hasRoom s)
  let fs : Machine.Fields := ⟨[a, b], some d, true, reads⟩
  let (x, s1) ← val? (s.vsource u a)
  let (y, s2) ← val? (s1.vsource u b)
  let vl ← val? (s.length fs none)
  let t ← t x.tag y.tag
  must (s.fits t && (s.onHart || x.tag.integer && y.tag.integer))
  takes s fs u s2 (bothRec s s2 fs x y op vl t t) (s.blank op 0)

/-- What QueuedMoves assumes of a form of one vector source, and its record; `ok` is the form's own condition. -/
def one (op : VOp) (d v : BitVec 6) (m toQueue : Bool) (t : Tag → Tag) (ok : Operand → Dst → Bool)
    (f : Tag → VRec → VRec) (u : Option Tag) (s : State) : Option (State × VRec) := do
  must (hasRoom s)
  let fs : Machine.Fields := ⟨[v], some d, toQueue, m⟩
  let dst := s.vdest fs
  let (x, s1) ← val? (s.vsource u v)
  let vl ← val? (s.length fs none)
  must (ok x dst)
  takes s fs u s1 (f x.tag { s1.blank op vl with
    masked := m, dst := dst, srcA := x.src, tagA := x.tag, tagD := s.destTag dst, opTag := t x.tag, outTag := t x.tag
    rezero := rezeroOf dst (s.destTag dst) (t x.tag), pops := popsOf [x] }) (s.blank op 0)

/-- A moving form. -/
def moved (p : MoveForm) (d a b : BitVec 6) (m : Bool) (u : Option Tag) (s : State) : Option (State × VRec) :=
  let w := if p.reads then s.x (if p.swapped then a else b) else 0
  one p.op d (if p.swapped then b else a) m p.toQueue id
    (fun x dst => (s.onHart || x.tag.integer) && (p.mayAlias || !sameReg dst x.src))
    (fun t r => { r with opa := if p.tagged then scalarUnder t s.me.frm w else w }) u s

/-- An indexed move. -/
def indexed (op : VOp) (toQueue : Bool) (d a b : BitVec 6) (m : Bool) (u : Option Tag) (s : State) :
    Option (State × VRec) := do
  must (hasRoom s)
  let fs : Machine.Fields := ⟨[a, b], some d, toQueue, m⟩
  let dst := s.vdest fs
  let (x, s1) ← val? (s.vsource u a)
  let (y, s2) ← val? (s1.vsource u b)
  let vl ← val? (s.length fs none)
  must (y.tag.integer && (s.onHart || x.tag.integer) && !sameReg dst x.src && !sameReg dst y.src)
  takes s fs u s2 (bothRec s s2 fs x y op vl x.tag x.tag) (s.blank op 0)

/-- A reduction. -/
def reduced (f : FoldFn) (d a b : BitVec 6) (sc m : Bool) (u : Option Tag) (s : State) : Option (State × VRec) := do
  must (hasRoom s && s.onHart)
  let (x, s1) ← val? (s.vsource u a)
  must (s.scaleOk sc [x.tag] && !(decide (f ∈ ([.and, .or, .xor] : List FoldFn)) && x.tag.floating))
  takes s ⟨[a], none, false, m⟩ u s1 { s1.blank (.red f) s.me.vl with
    masked := m, scaled := sc, dst := .scalar d.toNat, srcA := x.src, tagA := x.tag, opTag := reduceTag x.tag
    opb := if reduceTag x.tag = .f32 then s.x b &&& 0xFFFFFFFF#64 else s.x b, pops := popsOf [x] }
    { s.blank (.red f) 0 with dst := .scalar d.toNat, opb := s.x b, opTag := .n64 }

/-- The loads' checks of QueuedVectorMemory. -/
def loaded? (f : LoadForm) (u : Option Tag) (s : State) : Option (State × VRec) := do
  must (hasRoom s && (s.onHart == f.onHart))
  let fs : Machine.Fields := ⟨if f.form.hasIndex then [f.index] else [], some f.d, true, f.masked⟩
  let dst := s.vdest fs
  let (x, s1) ← val? (s.indexSource u f.form f.index)
  let n ← val? (s.length fs none)
  let t := f.tag.getD (if isQueue f.d then Tag.default s.myGang.w else (s.me.vreg f.d.toNat).decl)
  let base := s.x f.base
  let opb := f.step.elim 0 s.x
  must (s.fits t && (!t.subByte || f.form.packs) && !(s.onHart && sameReg dst x.src) && (!f.short || !isQueue f.d) &&
    (!f.arr || (inWindow base.toNat && !tooWide base && !f.form.hasIndex)))
  let k := s1.trim f.form t base opb n
  let s2 := if s.onHart = true ∧ k ≠ n then s1.setMe fun th => { th with vl := k } else s1
  takes s fs u s2 { s2.blank (.load f.form f.arr f.ff) k with
    masked := f.masked, short := f.short, dst := dst, srcA := x.src, tagA := x.tag, tagD := s.destTag dst, opTag := t
    outTag := t, rezero := rezeroOf dst (s.destTag dst) t, opa := base, opb := opb, pops := popsOf [x] }
    (s.blank (.load f.form f.arr f.ff) 0)

/-- The stores' checks. -/
def stored? (f : StoreForm) (u : Option Tag) (s : State) : Option (State × VRec) := do
  must (hasRoom s && (s.onHart == f.onHart))
  let fs : Machine.Fields := ⟨f.d :: if f.form.hasIndex then [f.index] else [], none, false, f.masked⟩
  let (y, s1) ← val? (s.vsource u f.d)
  let (x, s2) ← val? (s1.indexSource u f.form f.index)
  must (!y.tag.subByte || f.form.packs)
  let n ← val? (s2.length fs (if isQueue f.d then some y.count else none))
  let base := s.x f.base
  let opb := f.step.elim 0 s.x
  let k := s2.trim f.form y.tag base opb n
  let s3 := if s.onHart = true ∧ k ≠ n then s2.setMe fun th => { th with vl := k } else s2
  let r := { s3.blank (.store f.form f.nt) k with
    masked := f.masked, srcA := x.src, srcB := y.src, tagA := x.tag, tagB := y.tag, opTag := y.tag, outTag := y.tag
    opa := base, opb := opb, pops := popsOf [y, x] }
  if s.onHart || !isQueue f.d then takes s fs u s3 r (s.blank (.store f.form f.nt) 0)
  else do
    val? (s.named fs)
    must u.isNone
    return (s3, r)

/-- The far gathers' checks. -/
def far? (d a b : BitVec 6) (m : Bool) (u : Option Tag) (s : State) : Option (State × VRec) := do
  let desc := s.x (a + 1)
  let form := AddrForm.far (desc.toNat % 2 ^ 32)
  must (hasRoom s && decide (desc.toNat < 2 ^ 37) && decide (desc.toNat % 2 ^ 32 ≠ 0))
  let fs : Machine.Fields := ⟨[b], some d, true, m && !s.onHart⟩
  let dst := s.vdest fs
  let t ← Tag.ofCode (desc.toNat / 2 ^ 32 % 32)
  let (x, s1) ← val? (s.vsource u b)
  let n ← val? (s.length fs none)
  must (!t.subByte && s.fits t && x.tag.integer)
  takes s fs u s1 { s1.blank (.load form false false) n with
    masked := m && !s.onHart, dst := dst, srcA := x.src, tagA := x.tag, tagD := s.destTag dst, opTag := t, outTag := t
    rezero := rezeroOf dst (s.destTag dst) t, opa := s.x a, opb := desc, pops := popsOf [x] }
    (s.blank (.load form false false) 0)

/-- A hart with sources of a tag in v0 and v2 to v7, an entry in lq0, and operands for the forms below. -/
def source (t : Tag) (frm : Word) : State := queues (box { tagged t frm with
  regs := [(1, 3), (2, 5), (3, 17), (4, win), (5, win + 4088), (6, win), (7, 0xC00000002), (8, 8), (9, 9)] })

/-- The same with vl = 0. -/
def source0 (t : Tag) : State := (source t 0).setMe fun u => { u with vl := 0 }

/-- The context with an entry in sq0 and the same operands. -/
def ctxSource : State := (queues ctxBox).setMe fun t => { t with
  regs := [(1, 3), (2, 5), (3, 17), (4, win), (5, win + 4088), (6, win), (7, 0xC00000002), (8, 8), (9, 9)] }

/-- Sources in registers, queues and scalars; with vl = 0 a queue source is not popped (R196). -/
theorem witness_QueuedElementwise :
    (elementwise .add 3 2 4 true false true false false none (source .f64 4)).isSome = true ∧
    (elementwise .sqrt 59 56 0 false false true false true none (source .f32 0)).isSome = true ∧
    (elementwise .sll 3 2 1 false false true true false none (source .i32 0)).isSome = true ∧
    (elementwise .add 58 56 4 false false true false false none ctxSource).isSome = true ∧
    (elementwise .mul 3 56 2 false false false false false (some .f64) (source0 .f64)).isSome = true ∧
    (source .f64 4).onHart = true ∧ (2 : BitVec 6).toNat < (source .f64 4).myGang.nv ∧ isQueue 2 = false ∧
    promote .f64 .f64 = some .f64 ∧ AluFn.defined .add .f64 = true ∧ val? (aluOutTag .add .f64 true false) = some .f32 ∧
    (source .f64 4).fits .f64 = true ∧ frmRm (source .f64 4).me.frm = 4 ∧
    frmSrdim (source .f64 4).me.frm < (source .f64 4).me.sowDims ∧
    (3 : BitVec 6).toNat < (source .f64 4).me.vregs.length := by decide +kernel

/-- VADD of two registers is pushed as its record. -/
theorem test_vadd : ((elementwise .add 3 2 4 true false true false true none (source .f64 4)).map fun x =>
    pushed (exec (.vadd 3 2 4 true false true false true) (source .f64 4)) x.1 x.2) = some true := by decide +kernel

/-- VSUB with a scalar in a context pops sq0 and pushes lq2. -/
theorem test_vsub_context : ((elementwise .sub 58 56 1 false false false true false none ctxSource).map fun x =>
    pushed (exec (.vsub 58 56 1 false false false true false) ctxSource) x.1 x.2) = some true := by decide +kernel

/-- With vl = 0 a queue source is not popped and the record does nothing (R196); a disabled store queue still raises
QERR (R59) and a specifier of no register ILLOP (R58): at level 2 the core stops. -/
theorem test_pops_nothing : ((elementwise .mul 3 56 2 false false false false false (some .f64) (source0 .f64)).map fun x =>
      pushed (exec (.vmul 3 56 2 false false false false false) (source0 .f64)) x.1 x.2) = some true ∧
    ((after (exec (.vmul 56 56 2 false false false false false)
      ((source0 .f64).modGang 0 fun g => { g with qen := 0xFF }))).core 0).stopped = true ∧
    ((after (exec (.vmul 20 56 2 false false false false false) (source0 .f64))).core 0).stopped = true := by decide +kernel

theorem witness_QueuedAccumulator : (accumulator .add 3 1 4 false false true none (source .f64 0)).isSome = true ∧
    (accumulator .sqrt 56 1 0 true false true none (source .f64 4)).isSome = true ∧
    (accumulator .add 3 1 56 false false false (some .f64) (source0 .f64)).isSome = true ∧
    (fused .madd 3 2 4 false false true false false none (source .f64 4)).isSome = true ∧
    (fused .nmsub 3 1 56 true true true false true none (source .f8a 0)).isSome = true ∧
    (fused .madd 3 56 4 false false false false false (some .f64) (source0 .f64)).isSome = true := by decide +kernel

/-- VFMADD with an accumulator row. -/
theorem test_vfmadd_row : ((fused .madd 3 1 4 false false true false true none (source .f64 4)).map fun x =>
    pushed (exec (.vfmaddAcc 3 1 4 false false true) (source .f64 4)) x.1 x.2) = some true := by decide +kernel

/-- A row selector of a tile that is not declared is ILLOP with vl = 0 too (R209). -/
theorem test_row_selector : ((after (exec (.vaddAcc 3 3 56 false false false) (source0 .f64))).core 0).stopped = true := by
  decide +kernel

theorem fresh_of_all {t : Thread} (h : t.vregs.all (fun r => !r.expired) = true) : ∀ n, (t.vreg n).expired = false := by
  intro n
  unfold Thread.vreg
  cases hn : t.vregs[n]? with
  | none => rfl
  | some r => simpa using List.all_eq_true.mp h r (List.mem_of_getElem? hn)

/-- What RunsQueue assumes. -/
def runsQueue (s : State) (a : Agent) : Bool :=
  hasRoom s && decide (s.cur = some a) && s.onHart && decide (s.me.vq = []) && decide (s.me.mq = []) && s.mayRun a &&
    s.me.vregs.all (fun r => !r.expired) && decide (s.me.frm.toNat / 2 ^ 8 % 32 = 0)

theorem runs_of_runsQueue {s : State} {a : Agent} (h : runsQueue s a = true) : RunsQueue s a := by
  simp only [runsQueue, Bool.and_eq_true, decide_eq_true_eq] at h
  obtain ⟨⟨⟨⟨⟨⟨⟨h1, h2⟩, h3⟩, h4⟩, h5⟩, h6⟩, h7⟩, h8⟩ := h
  exact ⟨room_of_hasRoom h1, h2, h3, h4, h5, h6, fresh_of_all h7, h8⟩

/-- A hart that runs, with elements in v2. -/
def counting : State := (source .i64 0).setMe fun t => t.modVreg 2 fun r => { r with data := [(1, 1), (2, 4), (3, 7)] }

/-- A reduction, a count and an element come at once where nothing else is queued. -/
theorem witness_runs : RunsQueue counting ⟨0, .hart 0⟩ ∧ isQueue 2 = false ∧ (2 : BitVec 6).toNat < counting.myGang.nv ∧
    counting.me.vl < 2 ^ 32 := ⟨runs_of_runsQueue (by decide +kernel), by decide +kernel, by decide +kernel, by decide +kernel⟩

/-- Elements 1 and 3 have bit 0 set (R211); the sum of 1, 4 and 7 and a seed of 5 is 17 (R220). -/
theorem test_counts : (let one (i : Instr) : Word × Wait :=
      let t := (after (exec (.elementGroupCompletion ⟨0, .hart 0⟩ 0) (after (exec i counting)))).me
      (t.reg 3, t.wait)
    (one (.vmpopc 3 2), one (.vmfirst 3 2), one (.vredsum 3 2 2 false false))) =
      ((2, .none), (1, .none), (17, .none)) := by decide +kernel

theorem witness_QueuedMasks : (compared .unord 3 2 4 true false none (source .f64 0)).isSome = true ∧
    (compared .lt 57 56 1 true true none ctxSource).isSome = true ∧
    (compared .eq 3 56 2 false false (some .i64) (source0 .i64)).isSome = true ∧
    (two (.mask .and) 3 2 4 false (fun _ _ => some .n8) none (source .f64 0)).isSome = true ∧
    (two .sel 57 56 2 true promote none ctxSource).isSome = true ∧
    (one (.mask .not) 3 56 false true (fun _ => .n8) (fun _ _ => true) (fun _ r => { r with tagB := r.tagA }) none
      (source .f64 0)).isSome = true ∧
    val? ((source .f64 0).length ⟨[2], none, false, false⟩ none) = some 4 ∧
    (val? ((source .f64 0).named ⟨[56], none, false, false⟩)).isSome = true ∧
    (val? ((source .f64 0).named ⟨[], some 59, true, true⟩)).isSome = true ∧
    (val? ((source .f64 0).vsource none 56)).isSome = true ∧ (source .f64 0).onHart = true ∧
    ((source .f64 0).x 2).toNat < (source .f64 0).vlmax (source .f64 0).who := by decide +kernel

theorem witness_QueuedMoves :
    (moved ⟨.vslideup, .slideUp, false, false, true, true, false⟩ 2 2 1 true none (source .f64 0)).isSome = true ∧
    (moved ⟨.vslide1up, .slide1Up, true, true, false, true, true⟩ 58 1 56 false none (source .f32 0)).isSome = true ∧
    (moved ⟨.vslidedn, .slideDn, false, true, false, true, false⟩ 3 56 1 false (some .i8) (source0 .i64)).isSome = true ∧
    (indexed .gather true 58 2 1 false none (source .f64 0)).isSome = true ∧
    (indexed .send false 3 2 4 true none ctxSource).isSome = true ∧
    (two (.salsel 1 2) 3 2 4 true (fun x y => if x.floating ∧ y.floating then some .f32 else none) none
      (source .f64 0)).isSome = true ∧
    (one .resh 3 2 true true (fun _ => .i32) (fun x _ => decide (x.tag.width = Tag.i32.width)) (fun _ r => r) none
      (source .f32 0)).isSome = true ∧
    (one .cvt 3 2 false true (fun _ => .f8a) (fun x _ => (source .f64 4).scaleOk true [x.tag, .f8a]) (fun _ r => r) none
      (source .f64 4)).isSome = true ∧
    ((source .f64 4).reserveSower true 4).isOk = true ∧
    (one (.scan .add) 3 2 true true id (fun x _ => decide (x.tag ≠ .l6)) (fun _ r => r) none (source .i64 0)).isSome = true ∧
    (one (.sow .n32) 3 2 true true (fun _ => .n32) (fun x _ => x.tag.integer) (fun _ r => r) none (source .i64 0)).isSome =
      true ∧
    ((source .f64 0).x 0).toNat % 2 ^ 12 < (source .f64 0).me.sowDims ∧
    (val? (ctxSource.named ⟨[], some 58, true, true⟩)).isSome = true ∧
    (val? (ctxSource.length ⟨[], some 58, true, true⟩ none)).isSome = true ∧
    (source .f64 0).lanes (source .f64 0).who ≠ 0 ∧ ((source .f64 0).x 9).toNat < 32 ∧ (source .f64 0).fits .i8 = true ∧
    ({ source .f64 0 with cores := State.reset.cores }).lanes (source .f64 0).who = 0 := by decide +kernel

/-- A code object's coefficients: slot 0 is of F32, degree 0, one segment (R218). -/
def coefs : Sparse 64 := [(0, 0x100030002), (2, 0)]

/-- VFUNC of a slot that is there. -/
theorem witness_QueuedMoves_function : ∃ c, coefSlot (({ launched hart 0 with
    launches := [{ running 0 with coef := coefs }] } : State).coefWord 0) 0 = some c ∧ c.p = .f32 := ⟨_, rfl, rfl⟩

/-- VCFG changes the declared tag at once, and is pushed where the hart has lanes (R202). -/
theorem test_vcfg : pushed (exec (.vcfg 3 9) (source .f64 0))
    ((source .f64 0).setMe fun u => u.modVreg 3 fun r => { r with decl := .i8 })
    { (source .f64 0).blank .cfg 4 with dst := .reg 3, tagD := .f64, opTag := .i8, outTag := .i8, rezero := true } = true := by
  decide +kernel

theorem witness_QueuedReductions : (reduced .and 3 2 1 false true none (source .i64 0)).isSome = true ∧
    (reduced .add 0 2 1 true true none (source .f8a 0)).isSome = true ∧
    (reduced .add 3 56 1 false false (some .f32) (source0 .f64)).isSome = true ∧
    (FoldFn.and ∈ ([.and, .or, .xor] : List FoldFn)) ∧ (val? ((source .f64 0).named ⟨[2], none, false, true⟩)).isSome = true ∧
    (source .f64 0).popsNothing ⟨[2], none, false, true⟩ = false ∧
    (val? ((source .f64 0).vsource none 2)).any (fun x => x.1.tag.floating) = true := by decide +kernel

/-- A reduction's hart waits for its record (R198, R220). -/
theorem test_vredsum : (after (exec (.vredsum 3 2 1 false false) (source .f64 0))).me.wait = .gd 0 := by decide +kernel

/-- The operands of a load, if it is one and passes its checks. -/
def loadOk (i : Instr) (s : State) : Bool := ((loadForm? i).bind fun f => loaded? f none s).isSome

/-- The operands of a store, if it is one and passes its checks. -/
def storeOk (i : Instr) (s : State) : Bool := ((storeForm? i).bind fun f => stored? f none s).isSome

theorem witness_QueuedVectorMemory : loadOk (.vld 3 5 true false true true true) (source .f64 0) = true ∧
    loadOk (.vlds 58 4 8 false true true false true) (source .f64 0) = true ∧
    loadOk (.vldx 3 4 1 true false false true true) (source .f64 0) = true ∧
    loadOk (.ald 58 5 8 true true 17) ctxSource = true ∧ loadOk (.agather 58 4 56 true 17) ctxSource = true ∧
    loadOk (.atrans 58 4 8 3 11) ctxSource = true ∧ storeOk (.vst 56 5 false true true) (source .f64 0) = true ∧
    storeOk (.vstx 3 4 1 false true true) (source .f64 0) = true ∧ storeOk (.ast 56 4 8 true true) ctxSource = true ∧
    storeOk (.ascat 56 4 2 false) ctxSource = true ∧ (far? 3 6 1 false none (source .f64 0)).isSome = true ∧
    (far? 58 6 56 true none ctxSource).isSome = true := by decide +kernel

/-- A load that leaves its allocation is cut to the elements inside (R101, R229). -/
theorem test_vld_trim : (after (exec (.vld 3 5 false false false false false) (source .f64 0))).me.vl = 1 := by
  decide +kernel

/-- A window word: operator add, tag F64, one element, its area at the first block. -/
def winWord : Word := 1

theorem witness_QueuedWindows : hasRoom (source .f64 0) = true ∧ (source .f64 0).onHart = true ∧
    winOk winWord 8 = true ∧ (0x2000 : Nat) % (winTag winWord).width = 0 ∧ (0x2001 : Nat) % (winTag winWord).width ≠ 0 ∧
    (box hart).myGang.holdsArea winWord = true ∧ (box hart).me.window = none ∧
    (two (.mask .and) 3 1 2 false (fun x y => if x.integer ∧ y ≠ .l6 then some .n8 else none) none (source .f64 0)).isSome =
      true ∧
    (16 : Nat) ≤ ((box hart).modGang 0 fun g => { g with nv := 16 }).myGang.nv ∧
    ((List.range 8).all fun k => ((box { hart with vregs := List.replicate 16 ⟨.f64, .f64, [], false, 0⟩ }).me.vreg
      (8 + k)).tag.width = 8) = true := by decide +kernel

/-- A hart with sixteen vector registers, for the matrix engine. -/
def wide : State :=
  (box { at3 win 0x8000000000000020 0 with vregs := List.replicate 16 ⟨.f64, .f64, [], false, 0⟩ }).modGang 0 fun g =>
    { g with nv := 16 }

theorem witness_MatrixPushes : wide.live = true ∧ wide.onHart = true ∧ wide.me.frz = false ∧ wide.me.mq.length < 16 ∧
    wide.myGang.tiles[0]?.map (·.tag) = some .f64 ∧ wide.myGang.tiles.length ≤ 1 ∧ 8 + 8 ≤ wide.myGang.nv ∧
    wide.me.vl ≤ 2048 ∧ promote .f64 .f64 = some .f64 ∧ 8 * wide.me.mrows + 7 * shapeSa wide.me.mshape +
      shapeOa wide.me.mshape < wide.vlmax wide.who ∧
    (wide.me.vl - 1) * shapeSb wide.me.mshape + shapeOb wide.me.mshape < wide.vlmax wide.who ∧
    wide.scaleOk false [.f64, .f64] = true ∧ (wide.x 2).getLsbD 63 = true ∧ (wide.x 2).toNat / 2 ^ 32 % 2 ^ 31 = 0 ∧
    inWindow (wide.x 1).toNat = true ∧ (wide.x 1).toNat % 32 = 0 ∧ 8 * (wide.me.mrows + 1) ≤ (wide.x 2).toNat % 2 ^ 32 ∧
    tooWide (wide.x 1) = false ∧ (wide.x 1).toNat - windowBase < 0x3040000 ∧
    (wide.myGang.allocAt 0).map (fun x => (x.off, x.ages.length)) = some (0, 1) ∧ slotOff true 32 0 3 + 8 ≤ 4096 ∧
    val? (wide.rowSource 0) = some (0, 0, .f64) := by decide +kernel

/-- MMA marks the tile's tag at push and waits in the matrix queue (R276, R279). -/
theorem test_mma : (let t := after (exec (.mma 0 0 8 false true true false false) wide)
    (t.myGang.tiles[0]?.map (·.tag), t.me.mq.length, t.me.vq.length)) = (some .f32, 1, 0) := by decide +kernel

/-- Mesh words: slot 1 with kind 0, and with a field mask and a chunk. -/
theorem witness_CatalogueRequests : (box (at3 1 5 0)).live = true ∧ (box (at3 1 5 0)).onHart = true ∧
    isQuiet (box (at3 1 5 0)) = true ∧ ((box (at3 1 5 0)).x 2).toNat < 2 ^ 32 ∧ 2 ^ 32 ≤ ((box (at3 1 0x100000000 0)).x 2).toNat ∧
    mwKind 1 = 0 ∧ mwFmask 1 = 0 ∧ mwChunk 1 = 0 ∧ mwReservedOk 1 = true ∧ mwKind 0x31 = 3 ∧ hi32 5 = 0 ∧ mwKind 0x51 = 5 ∧
    hasRoom (box (at3 0x20000000001F1 5 0)) = true ∧ mwFmask 0x20000000001F1 = 1 ∧
    mwFmask 0x2000000000101 < 2 ^ kindFields (mwKind 0x2000000000101) ∧ mwReservedOk 0x2000000000101 = true := by decide +kernel

/-- MSTREAM in a context: a queue that is enabled and free, one that is bound, and one that is off (R261). -/
theorem witness_CatalogueRequests_stream : (let s := ctxBox.setMe fun t => { t with regs := [(1, 0x20000000001F1), (2, 5)] }
    hasRoom s && !s.onHart && !s.myGang.boundTo 2 && s.myGang.qen.getLsbD 2 &&
      (s.modGang 0 fun g => { g with bound := [2] }).myGang.boundTo 2 &&
      !(s.modGang 0 fun g => { g with qen := 0xFFB }).myGang.qen.getLsbD 2) = true := by decide +kernel

/-- MGENREL of a wide generation number is illegal: at level 2 the core stops (R306, R383). -/
theorem test_mgenrel : ((after (exec (.mgenrel 1 2) (box (at3 1 0x100000000 0)))).core 0).stopped = true ∧
    (after (exec (.mgenrel 1 2) (box (at3 1 5 0)))).me.wait = .answer 0 ⟨.mgenrel, 1, 5, 0⟩ := by decide +kernel

/-- An Orchard slice with one tree, made by ONEW with DESC's constant in its low half. -/
def grove : Word × OrchSlice := (OrchSlice.reset.newTree 0 0x3F800000).getD (0, OrchSlice.reset)

theorem witness_OrchardForms : isQuiet (box (at3 grove.1 0 0)) = true ∧
    ({ box (at3 grove.1 0 0) with orch := [grove.2] }.orchAt ⟨0, .hart 0⟩ grove.1 (·.desc grove.1)).isSome = true ∧
    ({ (box hart) with mod := { (box hart).mod with plog := 1 } }).partOfCore (32 * handleTile 0x800000) ≠ 0 ∧
    ((box hart).x 0).toNat < 6 ∧ ((box hart).slice 0).newTree 0 0 ≠ none ∧ 0 < (box hart).partTiles ∧
    ({ (box hart) with mod := { (box hart).mod with plog := 3 } }).partTiles ≤ 1 ∧ 2 ^ 37 ≤ (0x2000000000 : Nat) ∧
    hasRoom (source .f64 0) = true ∧ (val? ((source .f64 0).named ⟨[2], none, false, false⟩)).isSome = true ∧
    (val? ((source .f64 0).vsource none 2)).any (fun x => x.1.tag = .f64) = true ∧
    (grove.2.named grove.1).map (fun x => x.root) = some true ∧
    ((grove.2.named grove.1).bind fun x => grove.2.tree? x.tree).isSome = true := by decide +kernel

/-- A hart that has joined a settlement. -/
def joined (kind : Nat) (q : Word) : Thread := { hart with wait := .settle kind 4 q 8 0 }

/-- A gang of two harts in states of a settlement. -/
def crewOf (t u : Thread) : State := world { crew t with harts := [t, u], members := 3 } (.hart 0)

theorem witness_CollectiveJoin : (box (at3 4 0x308 0)).live = true ∧ (box hart).me.frz = false ∧
    (1 ≤ 0x308 % 16 ∧ 0x308 % 16 ≤ 8 ∧ 0x308 / 256 % 8 ≤ 4) ∧ ¬(0x500 / 256 % 8 ≤ 4) ∧
    (launched hart 0x400).gangPanels (launched hart 0x400).myGang = true ∧
    (box hart).gangPanels (box hart).myGang = false ∧ (crewOf hart (joined 0 8)).myGang.alive = [0, 1] ∧
    ((crewOf hart (joined 0 8)).myGang.hart 1).wait = .settle 0 4 8 8 0 ∧
    ((crewOf hart (joined 0 8)).myGang.hart 0).wait = .none ∧
    ((crewOf (joined 1 8) (joined 1 9)).myGang.hart 1).wait = .settle 1 4 9 8 0 ∧
    ((crewOf (joined 2 0) (joined 2 0)).myGang.hart 0).wait = .settle 2 4 0 8 0 := by decide +kernel

/-- The last hart to join settles the grant: with all lane groups free each gets four (R44, R201, R202). -/
theorem test_settle : (let g := ((crewOf (joined 0 8) (joined 0 8)).trySettle 0).myGang
    g.harts.map fun t => (t.wait, t.vl, t.pc, t.reg 4 % 65536)) =
      [(.none, 8, 0x1004, 8), (.none, 8, 0x1004, 8)] := by decide +kernel

theorem witness_GrantEffect : (let t := { hart with wait := .granted 0 4 8 0x108 3 [(0, false)] }
    ((box t).gangs[0]?).map (·.harts) = some [t] ∧ t.ended = false ∧ (box t).setChanges 0 0 [(0, false)] = false ∧
    (box t).setChanges 0 0 [(1, false)] = true) := by decide +kernel

theorem witness_ScratchAndSower : (box (at3 4096 5 win)).live = true ∧ (box (at3 4096 5 win)).onHart = true ∧
    (launched (at3 4096 5 win) 0).myGang.freeRun 1 = some 4096 ∧ (launched hart 0).myGang.freeRun 16 = none ∧
    ((launched hart 0).launchOf (launched hart 0).myGang).map (·.head.life) = some 1024 ∧
    (∃ x ∈ (box hart).myGang.allocs, win.toNat = windowBase + x.off ∧
      ∀ y ∈ (box hart).myGang.allocs, y.off = x.off → y = x) ∧
    (∀ x ∈ (box hart).myGang.allocs, (0 : Nat) ≠ windowBase + x.off) ∧ isQuiet (box hart) = true ∧
    (∀ t ∈ (box hart).myGang.harts, t.xfers = []) ∧
    okWith ((box hart).locate ⟨0, .hart 0⟩ 2 .read false 0x2000 8 8) (fun x =>
      decide (x.2.loadAt ⟨0, .hart 0⟩ 0 x.1 8 = some 0)) = true ∧
    okWith ({ box hart with mem := [(0x2001, 0x11#8)] }.locate ⟨0, .hart 0⟩ 2 .read false 0x2000 8 8) (fun x =>
      decide (x.2.loadAt ⟨0, .hart 0⟩ 0 x.1 8 = some 0x1100)) = true ∧
    (box hart).partOfCore 0 = (box hart).myPart := by decide +kernel

/-- SPALLOC gives the lowest run of free blocks (R97, R232). -/
theorem test_spalloc : (let t := after (exec (.spalloc 4 1 2) (launched (at3 4097 5 0) 0))
    (t.x 4, t.myGang.allocs.map fun a => (a.off, a.ages.length))) = (win + 4096, [(0, 1), (4096, 2)]) := by decide +kernel

/-- SPAGE answers the tag less the oldest block's age (R102, R234). -/
theorem test_spage : (after (exec (.spage 4 1) (box (at3 win 0 0)))).x 4 = 5 := by decide +kernel

theorem witness_QueueDrain : (box (at3 1 4096 0)).live = true ∧ 4096 ≤ ((box (at3 1 4096 0)).x 2).toNat ∧
    (∀ q ∈ (box hart).myGang.lq ++ (box hart).myGang.sq, q = []) ∧
    (∀ t ∈ (box hart).myGang.access :: (box hart).myGang.harts, t.vq = [] ∧ t.xfers = [] ∧ t.wc = []) ∧
    ((queues (box (at3 1 0 0))).myGang.lq ++ (queues (box hart)).myGang.sq)[0]? = some [5] ∧
    (queues (box hart)).myGang.qen.getLsbD 0 = true ∧ ((queues (box (at3 1 0 0))).x 1).getLsbD 0 = true := by decide +kernel

theorem witness_PrivilegedComplete : (box { hart with sevent := 1, seventen := 1 }).live = true ∧
    (box { hart with sevent := 1, seventen := 1 }).me.sevent &&& 1 ≠ 0 ∧ (box hart).me.sevent &&& (box hart).me.seventen = 0 ∧
    isQuiet (box (at3 64 0 0)) = true ∧ ((box (at3 63 0 0)).x 1).toNat % 64 ≠ 0 ∧ (box hart).stillUsed 0 0 65536 = false ∧
    (box { hart with xfers := [Xfer.new (.far []) 0 0 0 0 (some (0, 8)) none none 0] }).stillUsed 0 0 65536 = true ∧
    (box hart).me.lvl = 2 ∧ (box hart).myCore = 0 ∧ (∀ g ∈ (box hart).gangs, g.st = .resident → g.core ≠ 1) ∧
    (∃ g ∈ (world { crew hart with core := 1 } (.hart 0)).gangs, g.st = .resident ∧ g.core = 1) ∧ 0 < (box hart).cores.length := by
  decide +kernel

/-- CTXLOAD and CTXSAVE read their eight words and queue a command. -/
theorem witness_PrivilegedComplete_command : ∃ s1 w, s1.live = true ∧
    ∀ k, (box (at3 64 0 0)).readCommand ((box (at3 64 0 0)).x 1) 8 k = k s1 w :=
  ⟨box (at3 64 0 0), List.replicate 8 0, by decide +kernel, fun _ => rfl⟩

theorem witness_TimersAndClock : (box hart).gangs[0]? = some (crew hart) ∧ (crew hart).core / 32 = 0 ∧
    (crew hart).st = .resident ∧ { crew hart with core := 40 }.core / 32 = 1 ∧ (box hart).dueBlocks 0 = [] ∧
    (world { crew { hart with debug := true } with allocs := [⟨0, 8, [7], false⟩] } (.hart 0)).dueBlocks 0 ≠ [] ∧
    (crew hart).missed = [] ∧ 0 < (box hart).parts.length ∧ 0 < 2 ^ (box hart).mod.plog ∧
    (box hart).partOfCore 0 < (box hart).parts.length ∧ (launched hart 0).launches[0]? = some (running 0) := by
  decide +kernel

/-- One tick of the shelf unit ages every block of the tile's gangs (R100). -/
theorem test_shelf_tick : ((after (exec (.shelfUnitTick 0) (box hart))).myGang.allocs.map (·.ages)) = [[1]] := by
  decide +kernel

/-- The clock moves by 250 and stops at its floor (R430). -/
theorem test_clock : (after (exec .clockLower (box hart))).mod.clock = 3750 ∧
    (after (exec .clockRaise (box hart))).mod.clock = 4000 := by decide +kernel

/-- A launch with eight panel records on core 0, whose neighbour core 1 was heard to have none. -/
def gleaned : Launch := { running 0x400 with queues :=
  [⟨0, (List.range 8).map fun k => (BitVec.ofNat 64 k, false), [(1, 0)]⟩, ⟨1, [], []⟩] }

/-- Its gangs on both cores, and a record on its way. -/
def gleaning : State := { box hart with
  launches := [gleaned], gangs := [crew hart, { crew hart with core := 1 }], moves := [⟨0, 1, [(7, false)]⟩] }

theorem witness_GleanerMoves : gleaning.launches[0]? = some gleaned ∧
    (gleaned.queueOn 0).any (fun q => decide (q.recs.length = 8 ∧ q.heard.find? (fun h => h.1 = 1) = some (1, 0))) = true ∧
    (gleaned.queueOn 1).isSome = true ∧ gleaning.hosts 0 1 = true ∧ gleaning.hosts 0 2 = false ∧ gleaning.moves[1]? = none ∧
    gleaning.moves[0]? = some ⟨0, 1, [(7, false)]⟩ ∧ (gleaning.part 0).glean = true ∧ ({ PartSt.reset with glean := false }).glean = false := by
  decide +kernel

/-- Eight records over none give two, the youngest (R29). -/
theorem test_gleaner : ((gleaning.donate 0 0 1).moves.map fun m => m.recs.map (·.1)) = [[7], [6, 7]] := by decide +kernel

/-- The package after its self-test, and one that has begun to load an image. -/
def tested (bstat : Word) : State := { State.reset with
  mod := { ModSt.reset with tested := true, bstat := bstat, bimg := 0x4000000000000, blen := 512 } }

theorem witness_ResetsAndLinks : State.reset.mod.tested = false ∧ State.reset.mod.bstat = 0 ∧ (tested 0).mod.tested = true ∧
    (tested 0).mod.dclUp = true ∧ Memory.wf State.reset.mem = true ∧
    (tested 0x8000000000000003).mod.bstat ∈ ([0x8000000000000001, 0x8000000000000002, 0x8000000000000003] : List Word) ∧
    (tested 2).mod.bstat = 2 ∧ 2 ^ 50 ≤ (tested 2).mod.bimg.toNat ∧
    (tested 2).mod.bimg.toNat + min (tested 2).mod.blen.toNat 0x700000 ≤ 2 ^ 51 ∧ (tested 2).imageFailure = some 0x8000000000000003 ∧
    ({ tested 2 with mod := { (tested 2).mod with bimg := 0 } }).mod.bimg.toNat < 2 ^ 50 ∧ (23 : Nat) < 24 ∧ (11 : Nat) < 12 := by
  decide +kernel

/-- A port that goes down is reported (R454). -/
theorem test_port_down : (let t := after (exec (.portDown 23) State.reset)
    (t.mod.fabricUp, t.mod.event, t.mod.evPort)) = (0x7FFFFF#24, 2, 23) := by decide +kernel

theorem witness_CsrSteps : (box hart).live = true ∧ ((box { hart with lvl := 0 }).readCsr 0x101).isNone = true ∧
    ((box hart).readCsr 0x020).isSome = true ∧ ((box hart).readCsr 0x21C).isSome = true ∧
    (box { hart with lvl := 0 }).me.lvl = 0 ∧ 1 ≤ (box hart).me.lvl ∧
    csrWorks (box hart) 0x020 0xFFF = true ∧ csrWorks (box hart) 0x104 7 = true ∧ csrWorks (box hart) 0x251 63 = true ∧
    csrWorks (box hart) 0x250 3 = true ∧ csrWorks (box hart) 0x210 1 = true ∧ csrWorks (box hart) 0x213 30001 = true ∧
    (box hart).mod.fpsel < (box hart).parts.length := by decide +kernel

/-- A rate that would take the sum past 30,000 is ignored; 30,000 is not (R427). -/
theorem test_fgrate : (((box hart).writeCsr 0x213 30001).map fun t => (t.part 0).fgrate) = some 0 ∧
    (((box hart).writeCsr 0x213 30000).map fun t => (t.part 0).fgrate) = some 30000 := by decide +kernel

/-- A caller that waits in firmware with a function number and two arguments. -/
def calling (fn x y : Word) : State := box { hart with
  regs := [(10, fn), (11, x), (12, y)], ffrec := 0x100 :: List.replicate 7 0, fplvl := 1, fepc := 0x2004 }

theorem witness_FirmwareCalls : (calling 0 0 0).called ⟨0, .hart 0⟩ (· == 0) = true ∧ (calling 1 255 8).called ⟨0, .hart 0⟩ (· == 1) = true ∧
    (calling 1 255 8).called ⟨0, .hart 0⟩ (· == 0) = false ∧ (calling 2 0 0).called ⟨0, .hart 0⟩ (· == 2) = true ∧
    (calling 3 0 0x100).called ⟨0, .hart 0⟩ (· == 3) = true ∧ (calling 4 0 0).called ⟨0, .hart 0⟩ (· == 4) = true ∧
    ({ calling 1 255 8 with mem := [(9, 0x10#8)] }.readGroup 255 8).bind val? = none ∧ (calling 2 0 0).physical 0 65536 = true ∧
    (calling 3 0 0x100).physical 0x100 1024 = true ∧ (calling 3 0 0x100).physical (2 ^ 51) 48 = false ∧
    Memory.wf (calling 2 0 0).mem = true ∧ (calling 2 0 0).partOfCore 0 = 0 ∧
    ({ calling 2 0 0 with mod := { (calling 2 0 0).mod with plog := 1 } }).partOfCore 128 ≠ 0 := by decide +kernel

/-- A group of the caller's own module is accepted (R456). -/
theorem witness_FirmwareCalls_group : (let s := { calling 1 255 8 with
      mod := { (calling 1 0 0).mod with routes := [(0, 0x80#8)] } }
    ((s.readGroup 255 8).bind val?).isSome) = true := by decide +kernel

/-- LINKSTAT answers the ports and returns to the caller (R451). -/
theorem test_linkstat : (let t := (after (exec (.linkstat ⟨0, .hart 0⟩) (calling 4 0 0))).me
    (t.reg 10, t.reg 11, t.reg 12, t.pc, t.lvl)) = (0, 0xFFFFFF, 0xFFF, 0x2004, 1) := by decide +kernel

/-- A command of hart 0 of gang 0, on gang 1 of the launch. -/
def command (op : Nat) (load : Bool) : CtxCmd :=
  { op := op, load := load, gang := 1, role := 0, image := 0x10000, imageLen := 8192, keep := 0, status := 0x8000
    issuer := ⟨0, .hart 0⟩, part := 0, launch := 0, number := 1, begun := false, result := none }

/-- A supervisor's gang and another gang of the launch, under a command. -/
def commanded (c : CtxCmd) (g : Gang) : State := { launched hart 0 with
  gangs := [crew hart, { g with number := 1, core := 1 }], ctx := [c] }

theorem witness_ContextCommands : (commanded (command 0 false) (crew hart)).ctx[1]? = none ∧
    (command 0 false).result = none ∧ (command 0 false).status.toNat % 8 = 0 ∧ tooWide (command 0 false).status = false ∧
    inWindow (command 0 false).status.toNat = false ∧
    val? ((commanded (command 0 false) (crew hart)).imagePlace 0 2 .write 0x8000) = some 0x8000 ∧
    (commanded (command 0 false) (crew hart)).gangIndex 0 1 = some 1 ∧ (box hart).gangIndex 0 1 = none ∧
    (commanded (command 0 false) (crew hart)).cmdBusy 0 1 = false ∧
    (((commanded (command 0 false) (crew hart)).together 1).all fun i =>
      ((commanded (command 0 false) (crew hart)).gangOf i).harts.all (·.flight.isNone)) = true ∧
    ({ commanded (command 0 false) (crew hart) with
      ctx := [command 0 false, { command 1 false with begun := true }] }).cmdBusy 0 2 = false ∧
    ({ commanded (command 0 false) (crew hart) with
      ctx := [command 0 false, { command 1 false with begun := true }] }).cmdBusy 0 1 = true ∧
    ((commanded (command 0 false) (crew hart)).gangOf 1).st = .resident ∧
    ((commanded (command 0 false) { crew hart with st := .suspended }).gangOf 1).st = .suspended ∧
    ((commanded (command 0 false) { crew hart with st := .retired }).gangOf 1).st = .retired ∧
    ((commanded (command 0 false) (crew hart)).gangOf 1).haltReq = none ∧
    ((commanded (command 2 false) (crew hart)).launches[0]?).map (·.complete) = some false ∧
    ((commanded (command 3 false) (crew hart)).blocksAt 0 2 .write 0x10000 32).isSome = true ∧
    ((commanded (command 3 false) (crew hart)).blocksAt 0 2 .write (2 ^ 51) 32).isNone = true ∧
    ((commanded (command 1 true) (crew { hart with debug := true })).thread? ⟨1, .hart 0⟩).map (·.debug) = some true ∧
    (commanded (command 0 true) { crew hart with st := .suspended, image := 0x10000, imageLvl := 2, imageLen := 65536 }).readImage 1 2 =
      some none := by decide +kernel

/-- SUSPEND of a resident gang asks it to halt (R397, R389). -/
theorem test_suspend : (let t := after (exec (.suspend 0) (commanded (command 0 false) (crew hart)))
    ((t.gangOf 1).haltReq, t.ctx.map (·.begun))) = (some 1, [true]) := by decide +kernel

/-- KILLGANG of a gang that has retired answers that there is none (R398). -/
theorem test_killgang : ((after (exec (.killgang 0) (commanded (command 1 false) { crew hart with st := .retired }))).ctx.map
    (·.result)) = [some (2 ^ 63 + 2, 0)] := by decide +kernel

/-- A launch of one gang of one hart that has not been placed. -/
def fresh : Launch := { running 0 with desc := [0, 9, 0, 1, 0x400000001, 0, 0, 0], next := 0 }

/-- A partition that may run it. -/
def waiting : State := { State.reset with
  launches := [fresh]
  parts := modifyAt State.reset.parts 0 fun p => { p with energy := 1, age := 4, sring := 1 } }

theorem witness_DispatchAndRetirement : waiting.mod.plog = 0 ∧ (waiting.part 0).sring.getLsbD 0 = true ∧
    ((128 : BitVec 16) - (waiting.part 0).headO).toNat ≤ 128 ∧ 128 < ((129 : BitVec 16) - (waiting.part 0).headO).toNat ∧
    (waiting.part 0).ssring.getLsbD 0 = false ∧ 0 < waiting.parts.length ∧ waiting.mod.bootGang = none ∧
    waiting.launches[0]? = some fresh ∧ fresh.part = 0 ∧ fresh.complete = false ∧ fresh.super = false ∧ fresh.effPrio ≤ 7 ∧
    fresh.coresident = false ∧ fresh.determ = false ∧ fresh.killed = [] ∧ fresh.next + 1 = fresh.gangs ∧
    waiting.energyFor fresh = true ∧ waiting.allowedCores fresh fresh.next = [0, 1, 2, 3] ∧
    waiting.fitsCore fresh.shape 0 false = true ∧ waiting.freeSlot 0 = some 0 ∧ waiting.pendingOf 0 fresh ≠ [] := by
  decide +kernel

theorem witness_DispatchAndRetirement_hart : (vectored { hart with lvl := 0, causes := [cause cFPX] }).pendingCauses 0 0 =
      [cause cFPX] ∧ firstCause [cause cFPX] = some (cause cFPX) ∧
    (box { hart with ended := true }).gangs[0]? = some (crew { hart with ended := true }) := by decide +kernel

/-- A doorbell with 129 entries is a ring error; a placement gives the gang its first registers (R16, R421). -/
theorem test_placement : (let g := (after (exec (.placementStep 0) waiting)).gangOf 0
    g.harts.map fun t => (t.pc, t.reg 1, t.reg 2, t.reg 3)) = [(0x1000, 0, 0, 9)] ∧
    ((after (exec (.doorbellOrdinary 0 129) waiting)).part 0).ringerr = true := by decide +kernel

/-- The collective registers of a member of group 1: all-reduce of three F64, rank 0 of one. -/
def coll : CollRegs := { CollRegs.empty with gidx := 1, notMem := false, kind := 1, clen := 3 }

/-- A contribution in sq3, pushed by hart 0. -/
def contribution : Entry := ⟨5, .f64, 3, 3, [(0, 0x3FF0000000000000)], false, none, none, some ⟨3, 0, 2, 2, 0x1000, 0⟩⟩

/-- A gang without an access program, with that contribution, and with a receive of chunk 0 in lq7. -/
def member : Gang := { crew hart with
  coll := coll, sq := [[], [], [], [5]], lq := [[], [], [], [], [], [], [], [9]], entNext := 10
  ents := [contribution, ⟨9, .f64, 3, 0, [], false, none, some (1, 0, 0), none⟩] }

/-- The group has one rank, in this module and this launch. -/
def group : GroupEntry := ⟨1, [(0, 1, 0)], false⟩

/-- Its package, with one chunk contributed. -/
def collecting : State := { launched hart 0 with
  gangs := [member]
  parts := modifyAt State.reset.parts 0 fun p => { p with
    groups := [group], chunks := [⟨1, 0, 0, 0, 1, 0, .f64, 0, 3, [0x3FF0000000000000, 0, 0], false⟩] } }

theorem witness_CollectiveSteps : collecting.carries 0 = true ∧ (box hart).carries 0 = false ∧
    collecting.gangs[0]? = some member ∧ member.unclaimed [5] = some contribution ∧ member.unclaimed [] = none ∧
    collecting.collCause member (some (3, .f64)) = none ∧ collecting.collCause member (some (2, .f64)) = some cQERR ∧
    contribution.sq.isSome = true ∧ member.qen.getLsbD 7 = true ∧ member.bound.contains 7 = false ∧
    member.lq[7]? = some [9] ∧ member.ecap ≠ 0 ∧ member.coll.clen ≠ 0 ∧ collecting.collCause member none = none ∧
    member.coll.receives = true ∧ (collecting.part 0).group? 1 = some group ∧ group.broken = false ∧
    (collecting.part 0).results = [] ∧ (∀ r < group.ranks.length, contributionsOf (collecting.groupLaunch 0 group) r ≤ 1) ∧
    ¬(1 ≤ (([] : List Chunk).filter fun c => decide (c.rank = 0)).length) ∧ group.ranks[0]? = some (0, 1, 0) := by
  decide +kernel

/-- The context of a collective, with a contribution in sq0. -/
def collContext : State := queues (world { crew hart with coll := coll } .access)

theorem witness_CollectiveSteps_context : hasRoom collContext = true ∧ collContext.onHart = false ∧
    collContext.myGang.ecap ≠ 0 ∧ (val? (collContext.named ⟨[], some 58, true, false⟩)).isSome = true ∧
    (val? (collContext.named ⟨[56], none, false, false⟩)).isSome = true ∧
    collContext.collCause collContext.myGang none = none ∧ ctxBox.collCause ctxBox.myGang none = some cCGBROKEN ∧
    (val? (collContext.vsource none 56)).any (fun x => hasRoom x.2 && decide (x.2.myGang.coll = coll)) = true := by decide +kernel

/-- A whole chunk fills the entry that waits for it (R266, R267). -/
theorem test_chunk : ((after (exec (.chunkResult 0 1 0) collecting)).myGang.ents.map fun e => (e.id, e.prog, e.data.get 0)) =
    [(5, 3, 0x3FF0000000000000), (9, 3, 0x3FF0000000000000)] := by decide +kernel

/-- A transfer of an instruction of the hart. -/
def transfer (k : XKind) : Xfer := Xfer.new k 0 0x1000 0 0 none none none 0

/-- A copy of two sectors, and a fill. -/
def copy (fill : Bool) (done : Word) : XKind := .copy ⟨0x2000, 0x4000, 64, 1, 64, 64, false, fill, false, done, 1⟩

/-- A store entry of a sector. -/
def entry (o : Bool) : WcEntry := ⟨0, 0x100, 0x100, [(3, 0x7F#8)], o, false, 0, 0, [], none⟩

/-- A deterministic launch whose gang 1 has that entry and waits for gang 0 (R137). -/
def holding : State := { launched hart 0x600 with
  gangs := [crew hart, { crew { hart with wc := [entry false] } with number := 1 }], cur := some ⟨1, .hart 0⟩ }

/-- A hart whose plain load is still to be performed (R117). -/
def flying : State := { box { hart with flight := some ⟨4, 0x2000, 0x2000, 4, true⟩ } with mem := [(0x2003, 0x80#8)] }

theorem witness_EngineSteps : (box hart).thread? ⟨0, .hart 0⟩ = some hart ∧ hart.xfers[0]? = none ∧
    (box hart).engineRuns ⟨0, .hart 0⟩ = true ∧ (transfer (copy false 0)).fault = none ∧
    (transfer (copy false 0)).ahead = [] ∧ inWindow 0x4000 = false ∧ bankOf (32 * 5) = 5 ∧
    okWith ((box hart).locate ⟨0, .hart 0⟩ ((box hart).nowLevel ⟨0, .hart 0⟩) .read false (sectorAddr 0x2000 64 0 1) 32 32)
      (fun x => decide (x.1 = .mem 0x2020)) = true ∧
    okWith ((box hart).locate ⟨0, .hart 0⟩ 2 .write false 0x4020 32 32) (fun x => decide (x.1 = .mem 0x4020) &&
      !x.2.stalled x.1 && !x.2.heldOver ⟨0, .hart 0⟩ x.1 32) = true ∧
    (box hart).training 0x2020 = false ∧ (box hart).training 0x4020 = false ∧
    okWith ((box hart).locate ⟨0, .hart 0⟩ 2 .read false (2 ^ 51) 32 32) (fun _ => true) = false ∧ cPROT ≠ 0 ∧
    okWith ((box hart).locate ⟨0, .hart 0⟩ 2 .rmw false 0x8000 8 8) (fun x => decide (x.1 = .mem 0x8000)) = true ∧
    (box { hart with wc := [entry false] }).mayPerform ⟨0, .hart 0⟩ 0 = true ∧
    (box { hart with wc := [entry true] }).mayPerform ⟨0, .hart 0⟩ 0 = false ∧
    (box { hart with wc := [entry true] }).mayShow ⟨0, .hart 0⟩ 0 = false ∧
    holding.mayPerform ⟨1, .hart 0⟩ 0 = false ∧ holding.mayShow ⟨1, .hart 0⟩ 0 = true ∧
    flying.loadAt ⟨0, .hart 0⟩ 0 (.mem 0x2000) 4 = some 0x80000000 ∧ flying.engineRuns ⟨0, .hart 0⟩ = true ∧
    orchOpc [0, 1] = 1 ∧ orchOpc [0, 2] = 2 ∧ (val? ((box hart).readNumbers ⟨0, .hart 0⟩ 2 0x2000 1)).map (·.1) = some [0] ∧
    val? ((box hart).readNumbers ⟨0, .hart 0⟩ 2 (2 ^ 51) 1) = none ∧
    (transfer (.orchard [0, 1] 1 [])).unperformed = true ∧
    ((box hart).orchAt ⟨0, .hart 0⟩ 0 (orchRequest [0, 1] [])).isSome = true := by decide +kernel

/-- The second sector of a copy ends it; a fill repeats its value (R243, R244). -/
theorem test_copy : (let y := { transfer (copy false 0) with sect := 1 }
    let t := after (exec (.copyCommand ⟨0, .hart 0⟩ ⟨0, 0⟩) { box { hart with xfers := [y] } with mem := [(0x2020, 7#8)] })
    (t.mem, t.me.xfers)) = ([(0x2020, 7#8), (0x4020, 7#8)], []) := by decide +kernel

/-- An entry that is performed writes its bytes (R120). -/
theorem test_performed : (after (exec (.accessPerformed ⟨0, .hart 0⟩ (.entry 0)) (box { hart with wc := [entry false] }))).mem =
    [(0x2003, 0x7F#8)] := by decide +kernel

/-- One that is held is seen by its gang alone (R113, R137). -/
theorem test_shown : (let t := after (exec (.accessPerformed ⟨1, .hart 0⟩ (.entry 0)) holding)
    (t.mem, t.loadAt ⟨1, .access⟩ 0 (.mem 0x2003) 1, t.loadAt ⟨0, .hart 0⟩ 0 (.mem 0x2003) 1)) =
      ([], some 0x7F, some 0) := by decide +kernel

/-- A plain load that is performed late writes its register (R117, R175). -/
theorem test_flight : (let t := (after (exec (.accessPerformed ⟨0, .hart 0⟩ .load) flying)).me
    (t.reg 4, t.flight)) = (0xFFFFFFFF80000000, none) := by decide +kernel

/-- Memory with one root of kind 0 at 0x2000, all of whose faces are at the boundary. -/
def rootMem : Memory := [19, 23, 27, 31, 35, 39].map fun k => (0x2000 + k, 0x80#8)

/-- A mesh that is being opened in slot 0, and one that is open with that root as its one leaf. -/
def opening : MeshSlot := { MeshSlot.reset with
  serial := 1, opn := true, opening := some ⟨0x2000, 1, 4, 0x8000, ⟨0, .hart 0⟩⟩, gens := [⟨0, false, false, [], []⟩]
  sets := List.replicate 8 none }

/-- The machine with a mesh in slot 0 of partition 0. -/
def meshed (t : Thread) (m : MeshSlot) : State := { box t with
  mem := rootMem, parts := modifyAt State.reset.parts 0 fun p => { p with meshes := m :: List.replicate 15 MeshSlot.reset } }

/-- The mesh after its build. -/
def built : MeshSlot := (after (exec (.mopenBuildEnd 0 0) (meshed hart opening))).mesh 0 0

/-- The build succeeds with status 1 and gives one leaf (R301). -/
theorem test_build : (let s := after (exec (.mopenBuildEnd 0 0) (meshed hart opening))
    (s.mem.read 0x8000 8, (s.mesh 0 0).gens.map fun g => (g.built, g.leaves.length))) = (1, [(true, 1)]) := by decide +kernel

theorem witness_CatalogueSteps : (meshed hart built).mesh 0 0 = built ∧ built.opening = none ∧
    (val? ((meshed hart opening).buildMesh 0 ⟨0x2000, 1, 4, 0x8000, ⟨0, .hart 0⟩⟩)).isSome = true ∧
    val? ((meshed hart opening).buildMesh 0 ⟨0x3000, 1, 4, 0x8000, ⟨0, .hart 0⟩⟩) = none ∧ built.current.isSome = true ∧
    (meshed hart built).handleOk 0 0x10000 = true ∧ (meshed hart built).handleOk 0 0x20000 = false ∧
    okWith ((meshed hart built).locate ⟨0, .hart 0⟩ 2 .write false 0x8000 8 8) (fun x => decide (x.1 = .mem 0x8000)) = true ∧
    ((val? ((meshed hart built).answerQuery 0 0x10080 0)) = some (some 1)) ∧
    val? ((meshed hart built).answerQuery 0 0x20080 0) = none ∧
    (meshed hart built).releaseGen 0 0 0 = none ∧ ((meshed hart built).releaseGen 0 0 7).isSome = true ∧
    val? ((meshed hart built).answerSheaf 0 0x10000 0x700000000) = none ∧
    (val? ((meshed hart built).answerSheaf 0 0x10000 0)).isSome = true ∧
    (val? ((meshed hart built).answerRecut ⟨0, .hart 0⟩ ⟨.mrecut, 0x2000, 0, 0⟩)).isSome = true ∧
    (box hart).myGang.lq[0]? = some [] ∧ (box hart).myGang.haltReq = none := by decide +kernel

/-- An adaptation of the one leaf under a flag of no change builds and is made current (R326, R327). -/
theorem witness_CatalogueSteps_adapt : (built.current).any (fun g =>
    (val? ((meshed hart built).buildAdapt ⟨0, .hart 0⟩ built g [0x10000, 0x3000, 0x3100, 1, 0x8000, 0, 0, 0] 0).1).isSome &&
    (val? ((meshed hart built).buildAdapt ⟨0, .hart 0⟩ built g [0x10000, 0x2013, 0x3100, 1, 0x8000, 0, 0, 0] 0).1).isNone) =
      true := by decide +kernel

/-- A record that is ready to run: v3 := v2 + v4 over four elements, one group. -/
def adding : VRec := ((elementwise .add 3 2 4 false false false false false none (source .f64 0)).map (·.2)).getD rec0

/-- A hart with it as its one record. -/
def addingBox : State := box { tagged .f64 0 with
  vq := [adding]
  vregs := (tagged .f64 0).vregs.mapIdx fun i v => if i = 2 ∨ i = 4 then { v with data := [(0, 0x3FF0000000000000)] } else v }

/-- A record of a reduction that is done, for whose result its hart waits. -/
def reducing : VRec := { rec0 with done := true, dst := .scalar 4 }

/-- MZERO at the head of the matrix queue. -/
def zeroing : VRec := { (wide.blank .mzero 4) with dst := .tile 0 0 }

theorem witness_ElementResults : (box hart).gangs[0]? = some (crew hart) ∧ (crew hart).thread? (.hart 0) = some hart ∧
    hart.vq = [] ∧ hart.mq = [] ∧ addingBox.me.vq = [adding] ∧ adding.seq = 0 ∧ adding.stuck = false ∧
    addingBox.mayRun ⟨0, .hart 0⟩ = true ∧ (box { hart with frz := true }).mayRun ⟨0, .hart 0⟩ = false ∧
    adding.done = false ∧ adding.dst = .reg 3 ∧ adding.srcA = .reg 2 ∧ adding.srcB = .reg 4 ∧
    3 < addingBox.me.vregs.length ∧ adding.op = .alu .add ∧ adding.groups ≠ 0 ∧ adding.stochastic = false ∧
    adding.frm.toNat / 2 ^ 8 % 32 = 0 ∧ adding.cut = none ∧ addingBox.stepReady ⟨0, .hart 0⟩ adding adding.pi = true ∧
    adding.sregAt addingBox.myGang addingBox.me adding.pi = none ∧ adding.rezero = false ∧ reducing.done = true ∧ reducing.cut = none ∧
    (box { hart with mq := [zeroing] }).nextMatrix 0 = some ⟨0, .hart 0⟩ ∧
    (box { hart with mq := [zeroing] }).badSlot ⟨0, .hart 0⟩ zeroing = none ∧ zeroing.units ≠ 0 ∧
    (box hart).nextMatrix 0 ≠ some ⟨0, .hart 0⟩ ∧
    (crew hart).tiles[0]? = some ⟨[], .f64, 2048⟩ ∧ zeroing.unitExpired hart = false := by decide +kernel

/-- One and one are two, exactly (R205). -/
theorem test_group : (let t := (after (exec (.elementGroupCompletion ⟨0, .hart 0⟩ 0) addingBox)).me
    ((t.vreg 3).data.get 0, (t.vreg 3).data.get 1, t.vq, t.fflags)) = (0x4000000000000000, 0, [], 0) := by decide +kernel

/-- The result goes to the waiting hart (R198). -/
theorem test_result : (let t := (after (exec (.elementGroupCompletion ⟨0, .hart 0⟩ 0)
      (box { hart with vq := [reducing], wait := .gd 0 }))).me
    (t.wait, t.pc, t.vq)) = (.none, 0x1004, []) := by decide +kernel

/-- A gang whose panel has 5 rows and 40 columns left, with a hart that takes a strip of it (R25). -/
theorem witness_GrantEffect_panel : (let t := { hart with wait := .granted 1 4 8 0x108 3 [(0, false)] }
    let p : Panel := ⟨5, 40, [win], [320], 1, 7, 0, 40, 0⟩
    let g := { crew t with panel := some p }
    g.alive.head? = some 0 ∧ (p.deal 8 8 32).2 = some (32, 5, 0, 0, [win, 0, 0]) ∧
    (Panel.deal ⟨0, 40, [], [], 0, 7, 0, 40, 0⟩ 8 8 32).2 = none) := by decide +kernel

/-- QDRAIN of lq1 while lq0 holds an entry (R241). -/
theorem witness_QueueDrain_other : (let s := queues (box (at3 2 0 0))
    s.live && decide (s.myGang.lq[0]? = some [5]) && !(s.x 1).getLsbD 0 && decide (s.myGang.lq[1]? = some [])) = true := by
  decide +kernel

/-- A launch that the dispatcher refuses with 1 (R189). -/
theorem witness_TasksAndEnds_launch : (((box (at3 64 0 0)).submitWords 0 false 64 (List.replicate 8 0)).map (·.1)) =
    some 1 := by decide +kernel

/-- The nodes of a slice from a slot up. -/
def nodesFrom (n lo : Nat) : List Node :=
  match n with
  | 0 => []
  | n + 1 => newNode lo 0 0 true 0 :: nodesFrom n (lo + 1)

theorem freeRun_nodesFrom (n lo : Nat) (h : nodeSlots ≤ lo + n) : freeRun 1 lo (nodesFrom n lo) = none := by
  induction n generalizing lo with
  | zero => simp [nodesFrom, freeRun]; omega
  | succ n ih => simp [nodesFrom, freeRun, newNode]; exact ih (lo + 1) (by omega)

/-- A slice without a free node, but with a free tree. -/
def fullSlice : OrchSlice := { OrchSlice.reset with nodes := nodesFrom nodeSlots 0 }

theorem witness_OrchardForms_full : freeRun 1 0 fullSlice.nodes = none ∧ fullSlice.tree? 0 = none ∧
    (0x1000000000 : Word).getLsbD 36 = true ∧ (0x1000000000 : Word).toNat < 2 ^ 37 :=
  ⟨freeRun_nodesFrom nodeSlots 0 (by omega), rfl, rfl, by decide⟩

/-- A hart that has all an OEXPAND needs at once: a handle of a tree of its partition, and priors in v2. -/
def expander : State := { (source .f64 0).setMe (fun t => { t with regs := [(1, grove.1)] }) with orch := [grove.2] }

theorem witness_OrchardForms_expand : RunsQueue expander ⟨0, .hart 0⟩ ∧ expander.me.xfers = [] ∧ isQueue 2 = false ∧
    (2 : BitVec 6).toNat < expander.myGang.nv ∧ 0 < expander.me.vl ∧ (expander.me.vreg 2).tag = .f64 ∧
    (expander.orchAt expander.who (expander.x 1) fun o => o.expand (expander.x 1) [0, 0, 0, 0]).isSome = true :=
  ⟨runs_of_runsQueue (by decide +kernel), by decide +kernel, by decide +kernel, by decide +kernel, by decide +kernel,
    by decide +kernel, by decide +kernel⟩

/-- OEXPAND of four priors gives the root four children (R353). -/
theorem test_oexpand : (let t := after (exec (.elementGroupCompletion ⟨0, .hart 0⟩ 0) (after (exec (.oexpand 4 1 2) expander)))
    (t.me.wait, t.me.vq, ((t.slice 0).nodes.map (·.slot)))) = (.none, [], [0, 1, 2, 3, 4]) := by decide +kernel

/-- A gang of no pool slot with a miss, and one with a slot. -/
theorem witness_TimersAndClock_missed : { crew hart with missed := [7] }.missed ≠ [] ∧ (crew hart).poolSlot = none ∧
    (({ box hart with gangs := [{ crew hart with missed := [7], poolSlot := some 0, image := 0x10000, imageLvl := 2, imageLen := 65536 }] }
      ).modGang 0 (fun g => { g with missed := [] })).imageBlocks 0 .write ≠ some [] ∧
    ((({ box hart with gangs := [{ crew hart with missed := [7], poolSlot := some 0, image := 0x10000, imageLvl := 2, imageLen := 65536 }] }
      ).modGang 0 fun g => { g with missed := [] }).imageBlocks 0 .write).isSome = true ∧
    0 < ((box { hart with retired := 3 }).gangs.map fun g => (g.harts.map (·.retired)).sum).sum := by decide +kernel

/-- A call of a number that firmware does not know (R451). -/
theorem witness_FirmwareCalls_badfn : (calling 5 0 0).called ⟨0, .hart 0⟩ (fun n => decide (5 ≤ n)) = true ∧
    (calling 5 0 0).called ⟨0, .hart 0⟩ (fun n => decide (n = 0)) = false := by decide +kernel

theorem test_badfn : (after (exec (.version ⟨0, .hart 0⟩) (calling 5 0 0))).me.reg 10 = 0x8000000000000001 := by
  decide +kernel

/-- The requests for a halt of a gang, on a core that runs, on one that has stopped, and of a suspended gang. -/
theorem witness_ContextCommands_halt :
    (let s (n : Nat) := world { crew hart with haltReq := some n } (.hart 0)
     (s 5).gangs[0]?.map (·.haltReq) = some (some 5) ∧ ((s 2).core 0).stopped = false ∧ (s 2).together 0 = [0] ∧
     ((s 2).part 0).freeSlot = none ∧ ((s 4).gangOf 0).harts.all (·.flight.isNone) = true ∧
     (((s 2).modCore 0 fun c => { c with stopped := true }).core 0).stopped = true ∧
     ((world { crew hart with st := .suspended, haltReq := some 1 } (.hart 0)).gangOf 0).st = .suspended) := by decide +kernel

/-- KILLLAUNCH's halt ends its gang at once (R397). -/
theorem test_halt_kill : ((after (exec (.gangHalt 0) (world { crew hart with haltReq := some 5 } (.hart 0)))).gangOf 0).st =
    .retired := by decide +kernel

/-- A channel in training under the status word, a command on a gang of a stopped core. -/
theorem witness_ContextCommands_stops : (commanded (command 0 false) (crew hart)).training 0x8000 = false ∧
    ({ commanded (command 0 false) (crew hart) with
      mod := { ModSt.reset with chans := List.replicate 256 { Chan.reset with train := true } } }).training 0x8000 = true ∧
    ((((commanded (command 0 false) (crew hart)).modCore 1 fun c => { c with stopped := true }).core 1).stopped) = true ∧
    (((commanded (command 3 false) (crew hart)).blocksAt 0 2 .write 0x10000 32).any fun b =>
      !b.any (commanded (command 3 false) (crew hart)).training) = true ∧
    (commanded (command 0 true) { crew hart with st := .suspended, image := 0x10000, imageLen := 65536 }).imageStalls 1 =
      false := by decide +kernel

/-- A machine with nothing to dispatch and nothing to place. -/
theorem witness_DispatchAndRetirement_idle : (let s := { State.reset with launches := [] }
    (∀ super : Bool, (s.part 0).head super = (s.part 0).tail super) ∧ s.mod.bootGang = none ∧
      (∀ l, s.mod.boot = some l → l.complete = true) ∧ 0 < 2 ^ s.mod.plog) :=
  ⟨by decide +kernel, rfl, fun _ h => by simp [State.reset, ModSt.reset] at h, by decide⟩

/-- A merge with two copies of its one element, of 1 and 2. -/
def merging : Xfer := transfer (.merge 0x2000 .add .n64 [(0, [none, some 1, some 2])] [])

theorem witness_EngineSteps_fold : (let s := box { hart with xfers := [merging] }
    s.engineRuns ⟨0, .hart 0⟩ = true ∧ merging.fault = none ∧ s.held 0 merging.epoch = false ∧
    okWith (s.locate ⟨0, .hart 0⟩ (s.nowLevel ⟨0, .hart 0⟩) .rmw false 0x2000 8 8) (fun x => decide (x.1 = .mem 0x2000) &&
      !x.2.stalled x.1 && !(x.2.gangOf 0).sectorBefore 0x100 (holdKey merging.epoch (2 ^ 64 - 1))) = true) := by
  decide +kernel

/-- The fold adds both to memory (R135). -/
theorem test_fold : (after (exec (.accessPerformed ⟨0, .hart 0⟩ (.fold 0)) (box { hart with xfers := [merging] }))).mem =
    [(0x2000, 3#8)] := by decide +kernel

/-- Remap records that can be written, and some that cannot (R325, R326). -/
theorem witness_CatalogueSteps_records : (meshed hart built).writesStall ⟨0, .hart 0⟩ 16 0x3100 1 = false ∧
    ((meshed hart built).writeRecords ⟨0, .hart 0⟩ 0x3100 [(0, 1)]).1 = true ∧
    ((meshed hart built).writeRecords ⟨0, .hart 0⟩ (2 ^ 51) [(0, 1)]).1 = false ∧
    (meshed hart built).training 0x8000 = false ∧ (meshed hart opening).statusStalls 0 0 = false ∧
    ((meshed hart built).answerOpen ⟨0, .hart 0⟩ 0x2000).isSome = true := by decide +kernel

/-- What StepsNext assumes of the hart of a box. -/
def stepsNext (s : State) (r : VRec) : Bool :=
  let g := s.gangOf 0
  let t := g.hart 0
  decide (s.gangs[0]? = some g) && decide (g.harts[0]? = some t) && decide (t.vq = [r]) && s.mayRun ⟨0, .hart 0⟩ && !r.stuck &&
    !r.done && decide (r.groups ≠ 0) && s.stepReady ⟨0, .hart 0⟩ r r.pi && decide (r.sregAt g t r.pi = none) &&
    decide (r.entryCause g = none) && decide (r.cut = none) && (s.beginEntry ⟨0, .hart 0⟩ r).isSome &&
    (match r.dst with
      | .reg n => decide (n < t.vregs.length)
      | .scalar _ => false
      | _ => true) && decide (r.frm.toNat / 2 ^ 8 % 32 = 0) && decide (t.wait ≠ .gd r.seq)

theorem steps_of_stepsNext {s : State} {r : VRec} (h : stepsNext s r = true) :
    StepsNext s ⟨0, .hart 0⟩ (s.gangOf 0) ((s.gangOf 0).hart 0) r := by
  simp only [stepsNext, Bool.and_eq_true, decide_eq_true_eq, Bool.not_eq_true'] at h
  obtain ⟨⟨⟨⟨⟨⟨⟨⟨⟨⟨⟨⟨⟨⟨h1, h2⟩, h3⟩, h4⟩, h5⟩, h6⟩, h7⟩, h8⟩, h9⟩, h10⟩, h11⟩, hb⟩, h12⟩, h13⟩, h14⟩ := h
  refine ⟨h1, h2, h3, h4, h5, h6, h7, h8, h9, fun _ => h10, h11, Option.isSome_iff_ne_none.1 hb, fun n hn => ?_, fun d hd => ?_, h13, h14⟩
  · simpa [hn] using h12
  · simp [hd] at h12

/-- The hart of addingBox with another record alone in its queue. -/
def queued (r : VRec) : State := addingBox.setMe fun t => { t with vq := [r] }

/-- Records on v2 and v4: a scan, a move by index, a load of the scratchpad, a store to it, a window's update and its merge,
and a copy command. -/
def scanning : VRec := { adding with op := .scan .add }
def sending : VRec := { adding with op := .send }
def loading : VRec := { adding with op := .load .unit false false, srcA := .none, srcB := .none, opa := win }
def storing : VRec := { adding with op := .store .unit false, srcA := .none, dst := .none, opa := win }
def updating : VRec := { adding with op := .wacc, dst := .none, opb := winWord, srcA := .reg 6, tagA := .n64, vl := 1 }
def folding : VRec := { adding with op := .wmerge, dst := .none, opb := winWord, opa := 0x2000 }
def commanding : VRec := { adding with op := .cmdb .copy, srcA := .reg 0, srcB := .none }

theorem witness_ElementResults_steps :
    (∀ r ∈ [adding, scanning, sending, loading, storing, updating, folding, commanding],
      StepsNext (queued r) ⟨0, .hart 0⟩ ((queued r).gangOf 0) (((queued r).gangOf 0).hart 0) r) := by
  intro r hr
  have h : ∀ r ∈ [adding, scanning, sending, loading, storing, updating, folding, commanding],
      stepsNext (queued r) r = true := by decide +kernel
  exact steps_of_stepsNext (h r hr)

/-- The same hart with a copy of one sector as its first command (R243). -/
def copying : State := (queued commanding).setMe fun t => { t with
  vregs := t.vregs.mapIdx fun i v => { v with data := [(0, ([0x2000, 0x4000, 0x100000020, 0x2000000020] : List Word).getD i 0)] } }

/-- It is accepted, and issued as a transfer with ROWDONE and SECTDONE zero (R242). -/
theorem test_cmdb : (let t := (after (exec (.elementGroupCompletion ⟨0, .hart 0⟩ 0) copying)).me
    (t.xfers.map fun x => (x.rd, x.wr, x.row, x.sect), t.vq.map (·.out))) =
      ([(some (0x2000, 32), some (0x4000, 32), 0, 0)], [[(0, 1)]]) := by decide +kernel

theorem witness_ElementResults_cmdb : StepsNext copying ⟨0, .hart 0⟩ (copying.gangOf 0) ((copying.gangOf 0).hart 0) commanding ∧
    copying.me.transferHeld commanding (xferSpans (some (0x2000, 32)) (some (0x4000, 32)) none) = none ∧
    copying.runsClear ⟨0, .hart 0⟩ (xferSpans (some (0x2000, 32)) (some (0x4000, 32)) none) = true :=
  ⟨steps_of_stepsNext (by decide +kernel), by decide +kernel, by decide +kernel⟩

/-- What the steps of those records go on. -/
theorem witness_ElementResults_memory :
    (match (queued loading).memFirst ⟨0, .hart 0⟩ loading .unit 0 with
      | .ok s _ => (match s.loadElems ⟨0, .hart 0⟩ loading .unit false false 0 true [0, 1, 2, 3] [] with
        | .ok _ w => decide (w.map (·.1) = [0, 1, 2, 3])
        | _ => false)
      | _ => false) = true ∧ storing.mayCollide .unit = false ∧
    (match (queued storing).locatePieces ⟨0, .hart 0⟩ storing 0 true [(0, win, 8, 5)] with
      | .ok (ps, s) => (s.storePieces ⟨0, .hart 0⟩ storing false none [] ps).isSome
      | _ => false) = true ∧
    (queued updating).me.wc = [] ∧ (queued updating).myGang.holdsArea updating.opb = true ∧
    (match (queued updating).waccElems 0 (queued updating).me updating [0] (queued updating).myGang.spad [] with
      | .ok x => decide (x.2.map (·.1) = [0])
      | _ => false) = true ∧
    (queued folding).me.holder 0x2000 8 true false = none ∧ (queued folding).storesClear ⟨0, .hart 0⟩ 0x2000 8 = true ∧
    ((List.range 8).all fun k => ((queued folding).badCopy 0 (queued folding).myGang.spad winWord k 0).isNone) = true ∧
    ((queued commanding).engineAnswer ⟨0, .hart 0⟩ .copy commanding (commandWords (queued commanding).me commanding 0)
      matches (.refuse, _)) = true := by decide +kernel

/-- The machine with a tile move of 4 slots of one row alone in its matrix queue. -/
def moving (op : VOp) : State × VRec :=
  let m : VRec := { rec0 with
    op := op, dst := .tile 0 0, vl := 4, mrows := 0, opa := win, opb := 0x8000000000000020, outTag := .f64 }
  (box { hart with mq := [m] }, m)

/-- Tile moves (R286, R287). -/
theorem witness_ElementResults_moves :
    (moving .mld).1.nextMatrix 0 = some ⟨0, .hart 0⟩ ∧ (moving .mst).1.nextMatrix 0 = some ⟨0, .hart 0⟩ ∧
    (moving .mld).1.me.moveHolder (moving .mld).2 = none ∧
    (match (moving .mld).1.readSlots ⟨0, .hart 0⟩ (moving .mld).2 ((moving .mld).2.moveSlots 0) [] with
      | .ok _ => true
      | _ => false) = true ∧
    (match (moving .mst).1.checkSlots ⟨0, .hart 0⟩ (moving .mst).2 ((moving .mst).2.moveSlots 0) with
      | .ok ps => decide (ps.length = 4)
      | _ => false) = true := by decide +kernel

/-- A running sum of the elements of v2 (R221). -/
theorem test_scan : (let t := (after (exec (.elementGroupCompletion ⟨0, .hart 0⟩ 0)
      (counting.setMe fun t => { t with vq := [{ scanning with tagA := .i64, opTag := .i64, outTag := .i64 }] }))).me
    (List.range 4).map fun i => (t.vreg 3).data.get i) = [0, 1, 5, 12] := by decide +kernel

/-- What AST stores in the scratchpad a load brings back (R230). -/
theorem test_vst_vld : (let s := after (exec (.elementGroupCompletion ⟨0, .hart 0⟩ 0) (queued storing))
    let u := (after (exec (.elementGroupCompletion ⟨0, .hart 0⟩ 0) (s.setMe fun t => { t with vq := [loading] }))).me
    ((u.vreg 3).data.get 0, (u.vreg 3).data.get 1)) = (0x3FF0000000000000, 0) := by decide +kernel

/-- Scalar accesses that fail: above the address space, over a transfer that does not tell, and over a spoilt sector. -/
theorem witness_ScalarDenied :
    (match (box hart).place ⟨0, .hart 0⟩ 2 .write false 0x10000000000000 8 8 with
      | .error e => decide (e.code = cXLAT)
      | .ok _ => false) = true ∧
    okWith ((box { hart with xfers := [copyXfer] }).place ⟨0, .hart 0⟩ 2 .write true win 8 8) (fun x =>
      decide (x.2.me.blocker win.toNat 8 true = some copyXfer)) = true ∧
    okWith ({ box hart with errors := [.mem 0x100] }.place ⟨0, .hart 0⟩ 2 .write false 0x2000 8 8) (fun x =>
      decide (x.2.me.blocker 0x2000 8 true = none ∧ x.2.barred 0 .write x.1 8 = some cMCHK)) = true ∧
    okWith (staleBox.place ⟨0, .hart 0⟩ 2 .rmw true win 8 8) (fun x => decide (x.2.barred 0 .rmw x.1 8 = some cSTALE)) = true := by
  decide +kernel

/-- A store to a spoilt sector traps and stores nothing (R167). -/
theorem test_store_spoilt : (let t := after (exec (.sd 4 2 false 0) { box (at3 0 0x2000 0) with errors := [.mem 0x100] })
    (t.mod.frec.head?.map (·.toNat % 256), t.mem)) = (some cMCHK, []) := by decide +kernel

/-- Two harts that settle a grant on a core whose masks are the ones in force, the one gang there. -/
theorem witness_CollectiveJoin_settle : (let s := (crewOf (joined 0 8) (joined 0 8)).modCore 0 fun c => { c with acc := c.accNow }
    let c := s.core 0
    s.myGang.alive = [0, 1] ∧ s.myGang.core < s.cores.length ∧ c.acc = c.accNow ∧ c.own = c.ownNow ∧
    ((s.residents 0).map fun r => (r.1, r.2.alive.length)) = [(0, 2)] ∧
    ((List.range 8).filter fun k => !c.accNow.getLsbD k).length = 7 ∧ (8 : Word).toNat % 16 = 8 ∧
    ((s.settleGrant 0 0).myGang.hart 0).wait = .granted 0 4 8 8 3 [(0, false), (1, false), (2, false)]) := by decide +kernel

/-- Launches of every row of the table of R187, and a panel record that can be read. -/
theorem witness_CollectiveJoin_task :
    ([0, 0x200, 0x400, 0x600].map fun d => ((launched (joined 2 0) d).launchOf (crew hart)).map fun l => (l.panels, l.determ)) =
      [some (false, false), some (false, true), some (true, false), some (true, true)] ∧
    ((launched (joined 2 0) 0x600).myGang.number + 1) * (running 0x600).nstrip / (running 0x600).cslots ≤ 0 ∧
    (let l : Launch := { running 0x100000600 with desc := [0, 0, 0x2000, 1, 0x100000600, 2, 0, 0] }
     0 < 1 * l.nstrip / l.cslots) ∧
    ((running 0x400).queueOn 0).map (·.recs) = some [] ∧ (gleaned.queueOn 0).any (fun q => !q.recs.isEmpty) = true ∧
    okWith ((launched (joined 2 0) 0x400).readDwords ⟨0, .hart 0⟩ 2 0x2000 8) (fun x => decide (x.1.length = 8)) = true ∧
    (match (launched (joined 2 0) 0x400).readDwords ⟨0, .hart 0⟩ 2 0x2001 8 with
      | .error e => decide (e.code = cALIGN)
      | .ok _ => false) = true := by decide +kernel

/-- TASKGET of the task queue gives a strip its number (R187). -/
theorem test_taskget : ((after (exec (.taskget 4) { launched hart 0x100000200 with
    launches := [{ running 0 with desc := [0, 0, 0, 1, 0x100000200, 2, 0, 0] }] })).x 4) = 0 := by decide +kernel

theorem witness_GrantEffect_lanes : (let t := { hart with wait := .granted 0 4 8 0x108 3 [(0, false)] }
    (box t).myGang.core < (box t).cores.length ∧ 0 < ((box t).core 0).lanes.length ∧ (box t).myGang.alive = [0] ∧
    ((((box t).applyGrant 0).core 0).lanes[0]?).getD none = some (0, 0, false)) ∧
    (Panel.deal ⟨0, 40, [], [], 0, 7, 0, 40, 0⟩ 8 8 32).2 = none ∧ (Panel.deal ⟨5, 0, [], [], 0, 7, 0, 0, 0⟩ 8 8 32).2 = none ∧
    (Panel.deal ⟨5, 40, [], [], 0, 7, 0, 40, 5⟩ 8 8 32).2 = none ∧ (Panel.deal ⟨5, 40, [], [], 0, 7, 0, 8, 5⟩ 8 8 0).2 = none := by
  decide +kernel

theorem witness_GleanerMoves_boundary : neighbours 0 = [1, 31] ∧ neighbours 31 = [0, 30] ∧ neighbours 40 = [39, 41] ∧
    (gleaned.queueOn 0).any (fun q => (q.heard.find? fun h => h.1 = 31).isNone) = true ∧
    (let l := gleaned
     l.part = gleaning.partOfCore 0 ∧ l.determ = false ∧ l.complete = false ∧ (running 0x600).determ = true) := by decide +kernel

/-- At its boundary a core gives to both neighbours what the rule gives (R28, R29). -/
theorem test_gleaner_boundary : ((after (exec (.gleanerBoundary 0) gleaning)).moves.map fun m => (m.core, m.recs.map (·.1))) =
    [(1, [7]), (1, [6, 7])] := by decide +kernel

/-- A package whose group 0 reaches module 5 through port 3. -/
def grouped : State := { world { crew hart with coll := { (crew hart).coll with notMem := false } } (.hart 0) with
  mod := { (box hart).mod with routes := [(5, 0x83#8)] }
  parts := modifyAt (box hart).parts 0 fun p => { p with groups := [⟨0, [(0, 0, 0), (5, 0, 0)], false⟩, ⟨1, [(6, 0, 0)], false⟩] } }

theorem witness_ResetsAndLinks_port : 5 ≠ grouped.mod.fmodid.toNat ∧ grouped.mod.route 5 = some 3 ∧ grouped.mod.route 6 = none ∧
    grouped.partOfCore 0 = 0 ∧ grouped.myGang.coll.gidx = 0 ∧ grouped.myGang.st ≠ .retired ∧
    grouped.myGang.coll.notMem = false := by decide +kernel

/-- The port that a group needs goes down (R457). -/
theorem test_port_breaks : (let t := after (exec (.portDown 3) grouped)
    ((t.part 0).groups.map (·.broken), t.myGang.coll.broken)) = ([true, false], true) := by decide +kernel

/-- A resident gang of launch 0 all of whose harts wait, with a gang of the launch still to be placed. -/
def resting : State := { waiting with
  gangs := [crew { hart with wait := .barrier }], launches := [{ fresh with samples := 1 }] }

theorem witness_DispatchAndRetirement_swap : resting.launches[0]? = some { fresh with samples := 1 } ∧ fresh.whole = false ∧
    resting.sleepers = [] ∧ resting.gangs[0]? = some (crew { hart with wait := .barrier }) ∧ (crew hart).launch = 0 ∧
    resting.mod.bootGang = none ∧ resting.gangWaits 0 = true ∧ fresh.freshGangs 1 = [0] ∧
    (waiting.launches[0]?).map (fun l => waiting.gangs.any fun g => g.launch = l.part) = some false := by decide +kernel

/-- The second sample in which every gang waits halts the youngest (R37). -/
theorem test_swap : (let t := after (exec (.dispatchSample 0) resting)
    ((t.gangOf 0).haltReq, t.launches.map (·.samples))) = (some 2, [2]) := by decide +kernel

/-- A waiter whose word gang 1 of the launch holds, which is suspended: its image is readable. -/
def yielding (wait : Wait) : State := { launched { hart with wait := wait } 0 with
  gangs := [crew { hart with wait := wait }, { crew hart with
    number := 1, st := .suspended, image := 0x10000, imageLen := 256, imageLvl := 2 }]
  mem := [(0x10000, 0x31#8), (0x10001, 0x58#8), (0x10002, 0x47#8), (0x10003, 0x43#8)] }

theorem witness_DispatchAndRetirement_yield : (yielding (.word 4 0x2000 true 2)).launchOf (crew hart) = some (running 0) ∧
    (running 0).whole = false ∧ ((yielding (.word 4 0x2000 true 2)).gangs[1]?).map (fun g => (g.number, g.st)) = some (1, .suspended) ∧
    (yielding .none).freeSlot 0 = some 1 ∧ (yielding .none).fitsCore ((yielding .none).shapeOf 1) 0 false = true ∧
    (match (yielding .none).readImage 1 ((yielding .none).resumeLevel 1) with
      | some (some l) => decide (l.length = 1)
      | _ => false) = true ∧
    (yielding .none).fitsCore ((yielding .none).pendingShape (.again 7)) 0 true = true ∧
    waiting.fitsCore (waiting.pendingShape (.fresh 3 0)) 0 false = false ∧
    waiting.fitsCore (waiting.pendingShape (.fresh 3 0)) 0 true = false := by decide +kernel

/-- The owner is placed ahead of others where a core has room for it (R180). -/
theorem test_yield : (((yielding (.word 4 0x2000 true 2)).directedYield ⟨0, .hart 0⟩).gangOf 1).yielded = true := by decide +kernel

theorem writeImage_written {s : State} {gi va lvl room sub : Nat} {bs : List Nat}
    (h : ((s.gangOf gi).regionLens ((s.holders gi).map (·.2)).sum).sum ≤ room)
    (hb : s.blocksAt (s.partOfCore (s.gangOf gi).core) lvl .write va
      (((s.gangOf gi).regionLens ((s.holders gi).map (·.2)).sum).sum / 256) = some bs)
    (ht : bs.any s.training = false) : ∃ u len, s.writeImage gi va lvl room sub = .written u len := by
  unfold State.writeImage
  simp only [if_neg (Nat.not_lt.mpr h), hb, ht]
  exact ⟨_, _, rfl⟩

/-- The machine with a context pool of one slot of a megabyte, and a table that maps the first 16 GB to itself. -/
def pooled (r : Nat) : State :=
  let s := world { crew hart with haltReq := some r, tiles := [] } (.hart 0)
  { s with
    mem := [(0, 1#8), (2, 1#8), (0x10000, 0x7B#8)]
    parts := modifyAt s.parts 0 fun p => { p with scpool := 0x100000, scslot := 0x100100000 } }

theorem pool_done (s : State) (gi n k : Nat) (keep : Bool)
    (hk : (s.part (s.partOfCore (s.gangOf gi).core)).freeSlot = some k)
    (h : let p := s.part (s.partOfCore (s.gangOf gi).core)
      let u := s.modGang gi fun g =>
        { g.markKept (if keep then 2 ^ 64 - 1 else 0) with tilesOn := if g.tiles.isEmpty then none else some g.core }
      ((u.gangOf gi).regionLens ((u.holders gi).map (·.2)).sum).sum ≤ p.slotBytes ∧
      (u.blocksAt (u.partOfCore (u.gangOf gi).core) 1 .write (p.slotAddr k)
        (((u.gangOf gi).regionLens ((u.holders gi).map (·.2)).sum).sum / 256)).any (fun b => !b.any u.training) = true) :
    ∃ v, s.suspendToPool gi n keep = .done v := by
  obtain ⟨h1, h⟩ := h
  obtain ⟨bs, h2, h3⟩ := (Option.any_eq_true _ _).1 h
  simp only [Bool.not_eq_true'] at h3
  obtain ⟨u, len, hw⟩ := writeImage_written (sub := n) h1 h2 h3
  unfold State.suspendToPool
  simp only [hk, hw]
  exact ⟨_, rfl⟩

theorem witness_DispatchAndRetirement_pool : ((pooled 2).myGang.haltReq = some 2 ∧ (pooled 2).myGang.st = .resident ∧
    ((pooled 2).core 0).stopped = false ∧ (pooled 2).together 0 = [0] ∧
    ((pooled 2).myGang.access :: (pooled 2).myGang.harts).all (·.flight.isNone) = true) ∧
    ∃ v, ((pooled 2).settleGang 0).suspendToPool 0 2 false = .done v := by
  refine ⟨by decide +kernel, pool_done _ 0 2 0 false (by decide +kernel) ⟨?_, ?_⟩⟩ <;> decide +kernel

/-- A supervisor's SUSPEND under way of gang 1, with an image of a size. -/
def suspending (len : Nat) : State := commanded { command 0 false with imageLen := len, begun := true }
  { crew hart with haltReq := some 1, tiles := [] }

theorem witness_ContextCommands_image : (let u := ((suspending 262144).settleGang 1).modGang 1 fun g =>
      { g.markKept 0 with tilesOn := if g.tiles.isEmpty then none else some g.core }
    let len := ((u.gangOf 1).regionLens ((u.holders 1).map (·.2)).sum).sum
    ((suspending 262144).settleGang 1).suspendCmd 1 = some { command 0 false with imageLen := 262144, begun := true } ∧
    len ≤ 262144 ∧ 8192 < len ∧ (u.blocksAt 0 2 .write 0x10000 (len / 256)).any (fun b => !b.any u.training) = true ∧
    (u.blocksAt 0 2 .write (2 ^ 51) (len / 256)).isNone = true ∧ (suspending 262144).together 1 = [1]) := by decide +kernel

/-- An image that RESUME accepts, one that it does not, and a record in memory for DRESUME. -/
theorem witness_ContextCommands_record :
    ((yielding .none).readImage 1 2).map Option.isSome = some true ∧
    ({ yielding .none with mem := [] }.readImage 1 2).map Option.isSome = some false ∧
    (yielding .none).imageWaits 1 2 = false ∧
    ((commanded (command 1 true) (crew { hart with debug := true })).blocksAt 0 2 .read 0x10000 2) = some [0x10000, 0x10100] := by
  decide +kernel

/-- DRESUME gives the hart every register of the record (R402). -/
theorem test_dresume : (let s := { commanded (command 1 true) (crew { hart with debug := true }) with
      mem := [(0x10001, 0x20#8), (0x10010, 7#8), (0x101F8, 9#8)] }
    let t := ((after (exec (.dresume 0) s)).gangOf 1).hart 0
    (t.pc, t.reg 2, t.reg 63, t.debug)) = (0x2000, 7, 9, false) := by decide +kernel

/-- Firmware's calls wait where what they name lies in a channel in training (R459). -/
theorem witness_FirmwareCalls_training : (let s := { calling 1 255 8 with
      mod := { ModSt.reset with chans := List.replicate 256 { Chan.reset with train := true } } }
    (s.readGroup 255 8).isNone = true ∧ s.trains 0 65536 = true ∧ s.trains 0x100 48 = true ∧
    (calling 1 255 8).trains 0 65536 = false) := by decide +kernel

/-- Records of VWIN, VLSYNC, VFENCE, QDRAIN and VCFG. -/
def opening1 : VRec := { adding with op := .win, dst := .none, srcA := .none, srcB := .none, opb := winWord }
def syncing : VRec := { adding with op := .lsync, dst := .none, srcA := .none, srcB := .none }
def fencing : VRec := { adding with op := .fence 0 0, dst := .none, srcA := .none, srcB := .none }
def draining : VRec := { adding with op := .drain, dst := .none, srcA := .none, srcB := .none, opa := 1 }
def tagging : VRec := { adding with op := .cfg, srcA := .none, srcB := .none, rezero := true }

theorem witness_ElementResults_syncs :
    (∀ r ∈ [opening1, syncing, fencing, draining, tagging], StepsNext (queued r) ⟨0, .hart 0⟩ ((queued r).gangOf 0)
      (((queued r).gangOf 0).hart 0) r) ∧
    (∀ r ∈ [opening1, syncing, fencing, draining], r.groups = 1 ∧ r.pi = 0) ∧
    (queued opening1).myGang.holdsArea winWord = true ∧
    (queued opening1).me.holder (windowBase + winArea winWord) (4096 * ((winSize winWord + 4095) / 4096)) true false = none ∧
    ((queued opening1).modGang 0 fun g => { g with allocs := [] }).myGang.holdsArea winWord = false ∧
    (queued syncing).me.wc = [] ∧ (queued fencing).me.mq = [] ∧ (queued fencing).me.xfers = [] ∧
    (queued fencing).myGang.unreleased (queued fencing).me = false ∧ (⟨1, 0x100, 0x100, [], true, false, 0, 0, [], none⟩ : WcEntry).slice ≠ 0 ∧
    (queued draining).myGang.queuesDrained 1 (fun w => decide (w.seq < 0)) = true ∧
    ((queued draining).modGang 0 fun g => { g with lq := [[5], [], [], [], [], [], [], []] }).myGang.queuesDrained 1
      (fun w => decide (w.seq < 0)) = false := by
  refine ⟨?_, by decide +kernel⟩
  have h : ∀ r ∈ [opening1, syncing, fencing, draining, tagging], stepsNext (queued r) r = true := by decide +kernel
  exact fun r hr => steps_of_stepsNext (h r hr)

/-- VWIN fills its area with zeros and VCFG of another width its register (R195, R235). -/
theorem test_vwin : (let s := (queued opening1).modGang 0 fun g => { g with spad := [(winArea winWord, 5#8)] }
    (after (exec (.elementGroupCompletion ⟨0, .hart 0⟩ 0) s)).myGang.spad) = [] := by decide +kernel

/-- Tags of the clauses on the tables, and corners of them: a division by zero, a sum that is clamped, a high half, a shift by
the width and one (R205). -/
theorem witness_ElementResults_tables : Tag.i8.integer = true ∧ Tag.f32.floating = true ∧ Tag.f32 ≠ .l6 ∧
    (elemAlu .div .n8 .n8 .n8 .n8 none 0 none 7 0).1 = 255 ∧ elemAlu .sadd .i8 .i8 .i8 .i8 none 0 none 127 1 = (127, fSAT) ∧
    (elemAlu .mulh .i8 .i8 .i8 .i8 none 0 none 0x80 0x80).1 = 0x40 ∧ (elemAlu .shr .i8 .i8 .i8 .i8 none 0 none 0x80 9).1 = 0xC0 ∧
    (elemAlu .div .i8 .i8 .i8 .i8 none 0 none 0x80 0xFF).1 = 0x80 ∧ (elemAlu .rem .i8 .i8 .i8 .i8 none 0 none 0x80 0xFF).1 = 0 ∧
    (Val.nan true).isNan = true := by decide +kernel

end Sys2Proof.Tests
end

section
/-! Changes of one gang, seen from its threads and from the thread in execution. -/

namespace Sys2Proof.Machine

theorem State.gangOf_of {s : State} {i : Nat} {g : Gang} (h : s.gangs[i]? = some g) : s.gangOf i = g := by
  simp [State.gangOf, h]

theorem State.getElem?_modGang (s : State) (i j : Nat) (f : Gang → Gang) :
    (s.modGang i f).gangs[j]? = if j = i then (s.gangs[j]?).map f else s.gangs[j]? := by
  simp [State.modGang]

theorem State.thread?_of {s : State} {a : Agent} {g : Gang} (h : s.gangs[a.gang]? = some g) :
    s.thread? a = g.thread? a.role := by
  simp [State.thread?, h]

/-- The threads of a gang after a change of it. -/
theorem State.thread?_modGang (s : State) (i : Nat) (f : Gang → Gang) (a : Agent) :
    (s.modGang i f).thread? a = if a.gang = i then (s.gangs[a.gang]?).bind fun g => (f g).thread? a.role else s.thread? a := by
  unfold State.thread?
  rw [State.getElem?_modGang]
  by_cases h : a.gang = i
  · rw [if_pos h, if_pos h]
    cases s.gangs[a.gang]? <;> rfl
  · rw [if_neg h, if_neg h]

/-- The agent in execution goes on existing when a gang is changed that keeps its threads. -/
theorem State.live_modGang {s : State} {i : Nat} {f : Gang → Gang} (hl : s.live = true)
    (hf : ∀ g r, ((f g).thread? r).isSome = (g.thread? r).isSome) : (s.modGang i f).live = true := by
  obtain ⟨a, t, hc, ht⟩ := State.live_iff.1 hl
  unfold State.live
  rw [State.modGang_cur, hc]
  show ((s.modGang i f).thread? a).isSome = true
  rw [State.thread?_modGang]
  split
  · unfold State.thread? at ht
    cases hg : s.gangs[a.gang]? with
    | none => rw [hg] at ht; cases ht
    | some g => rw [hg] at ht; simp [hf, show g.thread? a.role = some t from ht]
  · rw [ht]; rfl

@[simp] theorem State.onHart_modGang (s : State) (i : Nat) (f : Gang → Gang) : (s.modGang i f).onHart = s.onHart := rfl

/-- A gang that changes with as many harts as before has the same threads. -/
theorem Gang.isSome_thread?_of_length {g u : Gang} (h : u.harts.length = g.harts.length) (r : Role) :
    (u.thread? r).isSome = (g.thread? r).isSome := by
  cases r with
  | access => rfl
  | hart n =>
    rw [Bool.eq_iff_iff]
    simp [Gang.thread?, h]

/-- An outcome finishes as one that it equals does. -/
theorem Finishes.of_eq {o p : Out} {s : State} {d : Nat} {v : Word} (h : o = p) (hf : Finishes p s d v) :
    Finishes o s d v := h ▸ hf

end Sys2Proof.Machine
end

section
/-! Barriers: what an arrival leaves, and the instructions that arrive and wait (R34, R186). -/

namespace Sys2Proof.Machine

/-- An arrival that is still to be counted is counted, and completes the phase if it is the last. -/
theorem Gang.arrive_of_open {g : Gang} {h : Nat} (drop : Bool) (hm : g.members.getLsbD h = true)
    (ha : g.arrived.getLsbD h = false) :
    g.arrive h drop = Gang.completePhase { g with
      arrived := g.arrived ||| BitVec.ofNat 8 (2 ^ h)
      drops := if drop then g.drops ||| BitVec.ofNat 8 (2 ^ h) else g.drops
      harts := modifyAt g.harts h fun t => { t with pend := true } } := by
  simp [Gang.arrive, hm, ha]

/-- While a member has not arrived, no phase ends. -/
theorem Gang.completePhase_of_missing {g : Gang} (h : g.arrived &&& g.members ≠ g.members) : g.completePhase = g := by
  simp [Gang.completePhase, h]

/-- When every member has arrived the phase ends. -/
theorem Gang.completePhase_of_full {g : Gang} (h : g.arrived &&& g.members = g.members) (hm : g.members ≠ 0) :
    g.completePhase = { g with
      members := g.members &&& ~~~g.drops, arrived := 0, drops := 0, phase := g.phase + 1
      harts := g.harts.map fun t => if t.wait = .barrier then { t with pend := false }.wake else { t with pend := false } } := by
  unfold Gang.completePhase
  rw [if_pos (by simpa [h] using hm)]

theorem Gang.length_harts_completePhase (g : Gang) : g.completePhase.harts.length = g.harts.length := by
  unfold Gang.completePhase
  split <;> simp

/-- An arrival neither adds a hart nor takes one away. -/
theorem Gang.length_harts_arrive (g : Gang) (h : Nat) (drop : Bool) : (g.arrive h drop).harts.length = g.harts.length := by
  unfold Gang.arrive
  split
  · rfl
  · simp [Gang.length_harts_completePhase]

theorem State.live_arriveMe {s : State} (h : s.live = true) (drop : Bool) : (s.arriveMe drop).live = true :=
  State.live_modGang h fun g => Gang.isSome_thread?_of_length (Gang.length_harts_arrive g _ _)

/-- The wait of an arrival is over when nothing is in flight. -/
theorem Quiet.beforeArrival {s : State} (q : Quiet s) (k : State → Out) : s.beforeArrival k = k s := by
  simp [State.beforeArrival, q.afterRelease, q.mq]

/-- An arrival stalls behind a matrix instruction that has not completed (R284). -/
theorem State.beforeArrival_of_matrix {s : State} (hl : s.live = true) (hf : s.me.frz = false) (hv : s.me.vq = [])
    (hw : s.me.wc = []) (hx : s.me.xfers = []) (hm : s.me.mq ≠ []) (k : State → Out) :
    s.beforeArrival k = (s.setMe Thread.closeAll).stallFor .busy := by
  simp [State.beforeArrival, State.afterRelease, State.me_setMe hl, Thread.closeAll, Thread.faultedXfer, hx,
    State.vectorDrained, hv, hw, hf, hm]

/-- Waiting for the end of a phase: with PEND clear the instruction retires, else the hart waits. -/
theorem State.awaitPhase_cases {s : State} (h : s.live = true) :
    (s.me.pend = false → Finishes s.awaitPhase s 0 0) ∧
    (s.me.pend = true → s.awaitPhase = .next (s.setMe fun t => { t with wait := .barrier, stall := .none })) := by
  unfold State.awaitPhase
  exact ⟨fun hp => by simpa [hp] using Retires.ret h, fun hp => by simp [hp]⟩

/-- What an arrival of a member makes of its gang's barrier (R34). -/
theorem Gang.arrive_missing {g : Gang} {h : Nat} (drop : Bool) (hm : g.members.getLsbD h = true)
    (ha : g.arrived.getLsbD h = false)
    (hw : (g.arrived ||| BitVec.ofNat 8 (2 ^ h)) &&& g.members ≠ g.members) :
    g.arrive h drop = { g with
      arrived := g.arrived ||| BitVec.ofNat 8 (2 ^ h)
      drops := if drop then g.drops ||| BitVec.ofNat 8 (2 ^ h) else g.drops
      harts := modifyAt g.harts h fun t => { t with pend := true } } := by
  rw [Gang.arrive_of_open drop hm ha, Gang.completePhase_of_missing hw]

/-- What the last arrival of a phase makes of it (R34). -/
theorem Gang.arrive_last {g : Gang} {h : Nat} (drop : Bool) (hm : g.members.getLsbD h = true)
    (ha : g.arrived.getLsbD h = false)
    (hw : (g.arrived ||| BitVec.ofNat 8 (2 ^ h)) &&& g.members = g.members) :
    g.arrive h drop = { g with
      members := g.members &&& ~~~(if drop then g.drops ||| BitVec.ofNat 8 (2 ^ h) else g.drops)
      arrived := 0, drops := 0, phase := g.phase + 1
      harts := (modifyAt g.harts h fun t => { t with pend := true }).map fun t =>
        if t.wait = .barrier then { t with pend := false }.wake else { t with pend := false } } := by
  have h0 : g.members ≠ 0 := by rintro e; simp [e] at hm
  rw [Gang.arrive_of_open drop hm ha]
  exact Gang.completePhase_of_full hw h0

/-- The instructions of a hart that stand behind an arrival. -/
theorem exec_arrivals_of_matrix {s : State} (hl : s.live = true) (hh : s.onHart = true) (hf : s.me.frz = false)
    (hv : s.me.vq = []) (hw : s.me.wc = []) (hx : s.me.xfers = []) (hm : s.me.mq ≠ []) :
    ∀ i ∈ ([.barsync, .barrive, .bardrop] : List Instr), exec i s = (s.setMe Thread.closeAll).stallFor .busy := by
  have hb := fun k => (State.hart_of_onHart hl hh _).trans (State.beforeArrival_of_matrix hl hf hv hw hx hm k)
  simp only [List.forall_mem_cons, List.not_mem_nil, false_imp_iff, implies_true, and_true]
  exact ⟨hb _, hb _, hb _⟩

/-- Settles O30: an arrival with nothing in flight goes straight to its gang's barrier, whose phase ends with the last
member. -/
theorem barriersComplete : Obligations.BarriersComplete := by
  refine ⟨fun s q hh => ?_, fun s hl hh hf hv hw hx hm => exec_arrivals_of_matrix hl hh hf hv hw hx hm,
    fun s hl hh => ?_, fun g h drop _ hm ha => ⟨fun hw => ?_, fun hw => ?_⟩⟩
  · have arrives (k : State → Out) : s.hart (s.beforeArrival k) = k s := by
      rw [State.hart_of_onHart q.live hh, q.beforeArrival]
    have hl := State.live_arriveMe q.live
    obtain ⟨passes, waits⟩ := State.awaitPhase_cases (hl false)
    refine ⟨?_, ?_, fun hp => ?_, fun hp => ?_⟩
    · exact .of_eq (arrives _) (Retires.ret (hl false))
    · exact .of_eq (arrives _) (Retires.ret (hl true))
    · exact .of_eq (arrives _) (passes hp)
    · exact (arrives _).trans (waits hp)
  · have he : exec .barwait s = s.awaitPhase := State.hart_of_onHart hl hh _
    rw [he]
    exact State.awaitPhase_cases hl
  · rw [Gang.arrive_missing drop hm ha hw]
    refine ⟨rfl, rfl, rfl, rfl, fun n t ht => ?_⟩
    rw [getElem?_modifyAt, ht]
    split <;> rfl
  · rw [Gang.arrive_last drop hm ha hw]
    refine ⟨rfl, rfl, rfl, rfl, fun n t ht => ?_⟩
    refine ⟨if t.wait = .barrier then { t with pend := false }.wake else { t with pend := false }, ?_, ?_, ?_, ?_⟩
    · rw [List.getElem?_map, getElem?_modifyAt, ht]
      split <;> rfl
    · split <;> rfl
    · intro hb; simp [hb, Thread.wake, Thread.retire, Thread.retireTo]
    · intro hb; simp [hb]

end Sys2Proof.Machine
end

section
/-! The Gleaner: donations on one launch touch that launch alone, so that those of a boundary can be told one by one
(R28 to R31). -/

namespace Sys2Proof.Machine

/-! Changes at several places of a list. -/

section
variable {α β : Type} {key : β → Nat} (f : β → α → α) {L : List β}

/-- Changes at several places leave the others. -/
theorem getElem?_foldl_modifyAt_of_notMem {j : Nat} (hj : j ∉ L.map key) (l : List α) :
    (L.foldl (fun l d => modifyAt l (key d) (f d)) l)[j]? = l[j]? := by
  induction L generalizing l with
  | nil => rfl
  | cons d L ih =>
    simp only [List.map_cons, List.mem_cons, not_or] at hj
    rw [List.foldl_cons, ih hj.2, getElem?_modifyAt, if_neg hj.1]

/-- Where the places do not repeat, each changes once. -/
theorem getElem?_foldl_modifyAt_of_mem (hL : (L.map key).Nodup) {d : β} (hd : d ∈ L) (l : List α) :
    (L.foldl (fun l d => modifyAt l (key d) (f d)) l)[key d]? = (l[key d]?).map (f d) := by
  induction L generalizing l with
  | nil => cases hd
  | cons e L ih =>
    rw [List.map_cons, List.nodup_cons] at hL
    rw [List.foldl_cons]
    rcases List.mem_cons.1 hd with rfl | hd
    · rw [getElem?_foldl_modifyAt_of_notMem f hL.1, getElem?_modifyAt, if_pos rfl]
    · rw [ih hL.2 hd, getElem?_modifyAt, if_neg fun (h : key d = key e) => hL.1 (h ▸ List.mem_map_of_mem hd)]

end

/-- The same where the changes are given by their places. -/
theorem getElem?_foldl_modifyAt {α : Type} (f : Nat → α → α) {L : List Nat} (hL : L.Nodup) (l : List α) (j : Nat) :
    (L.foldl (fun l i => modifyAt l i (f i)) l)[j]? = if j ∈ L then (l[j]?).map (f j) else l[j]? := by
  split
  · exact getElem?_foldl_modifyAt_of_mem (key := id) f (by rwa [List.map_id]) ‹_› l
  · exact getElem?_foldl_modifyAt_of_notMem (key := id) f (by rwa [List.map_id]) l

@[simp] theorem length_foldl_modifyAt {α : Type} (f : Nat → α → α) (L : List Nat) (l : List α) :
    (L.foldl (fun l i => modifyAt l i (f i)) l).length = l.length := by
  induction L generalizing l with
  | nil => rfl
  | cons i L ih => rw [List.foldl_cons, ih, length_modifyAt]

theorem State.foldl_modLaunch (f : Nat → Launch → Launch) (L : List Nat) (s : State) :
    L.foldl (fun s i => s.modLaunch i (f i)) s =
      { s with launches := L.foldl (fun l i => modifyAt l i (f i)) s.launches } := by
  induction L generalizing s with
  | nil => rfl
  | cons i L ih => rw [List.foldl_cons, ih]; rfl

theorem State.getElem?_modLaunch (s : State) (i j : Nat) (f : Launch → Launch) :
    (s.modLaunch i f).launches[j]? = if j = i then (s.launches[j]?).map f else s.launches[j]? := by
  simp [State.modLaunch]

/-! Task queues. -/

/-- A change of the queue on one core that leaves it there is seen on that core alone. -/
theorem Launch.queueOn_modQueue {l : Launch} {c k : Nat} {f : TaskQueue → TaskQueue} (hf : ∀ q, (f q).core = q.core) :
    (l.modQueue c f).queueOn k = if k = c then (l.queueOn k).map f else l.queueOn k := by
  have hp : ((fun q : TaskQueue => decide (q.core = k)) ∘ fun q => if q.core = c then f q else q) =
      fun q => decide (q.core = k) := by
    funext q
    simp only [Function.comp_apply]
    split <;> simp [hf]
  unfold Launch.queueOn Launch.modQueue
  rw [List.find?_map, hp]
  cases hq : l.queues.find? fun q => decide (q.core = k) with
  | none => simp
  | some q =>
    have hk : q.core = k := by simpa using List.find?_some hq
    by_cases hc : k = c <;> simp [hk, hc]

theorem Launch.queueOn_modQueue_recs (l : Launch) (c k : Nat) (f : List (Word × Bool) → List (Word × Bool)) :
    (l.modQueue c fun q => { q with recs := f q.recs }).queueOn k =
      if k = c then (l.queueOn k).map fun q => { q with recs := f q.recs } else l.queueOn k :=
  Launch.queueOn_modQueue fun _ => rfl

/-- A queue after its core has heard the occupancy of a neighbour (R28). -/
def TaskQueue.hear (r : TaskQueue) (core n : Nat) : TaskQueue :=
  { r with heard := (r.heard.filter fun h => h.1 ≠ core) ++ [(core, n)] }

theorem TaskQueue.find?_heard_hear (r : TaskQueue) (core n : Nat) :
    ((r.hear core n).heard.find? fun h => h.1 = core) = some (core, n) := by
  have h : (r.heard.filter fun h => h.1 ≠ core).find? (fun h => h.1 = core) = none := by
    simp [List.find?_eq_none]
  simp only [TaskQueue.hear, List.find?_append, h]
  simp

/-- The queues of a launch after a core with two neighbours has reported its occupancy: the records are as they were, and
the neighbours have heard it. -/
theorem Launch.queueOn_report {l : Launch} {core a b : Nat} {q : TaskQueue} (hq : l.queueOn core = some q)
    (hn : neighbours core = [a, b]) (hab : a ≠ b) (k : Nat) :
    (l.report core).queueOn k =
      if k = a ∨ k = b then (l.queueOn k).map (·.hear core q.recs.length) else l.queueOn k := by
  have hr : l.report core =
      (l.modQueue a (·.hear core q.recs.length)).modQueue b (·.hear core q.recs.length) := by
    unfold Launch.report
    rw [hq, hn]
    rfl
  have hf : ∀ r : TaskQueue, (r.hear core q.recs.length).core = r.core := fun _ => rfl
  rw [hr, Launch.queueOn_modQueue hf, Launch.queueOn_modQueue hf]
  by_cases hb : k = b
  · simp [hb, hab.symm]
  · by_cases ha : k = a <;> simp [hb, ha, hab]

theorem Launch.report_of_none {l : Launch} {core : Nat} (hq : l.queueOn core = none) : l.report core = l := by
  unfold Launch.report
  rw [hq]

/-- A report changes no record (R28). -/
theorem Launch.recs_report (l : Launch) {core a b : Nat} (hn : neighbours core = [a, b]) (hab : a ≠ b) (k : Nat) :
    ((l.report core).queueOn k).map (·.recs) = (l.queueOn k).map (·.recs) := by
  cases hq : l.queueOn core with
  | none => rw [Launch.report_of_none hq]
  | some q =>
    rw [Launch.queueOn_report hq hn hab]
    split
    · rw [Option.map_map]; rfl
    · rfl

/-- Whoever has a queue beside a core that has one has heard how long that is (R28). -/
theorem Launch.heard_report {l : Launch} {core a b c : Nat} (hn : neighbours core = [a, b]) (hab : a ≠ b)
    (hc : c = a ∨ c = b) {q q' : TaskQueue} (hq : (l.report core).queueOn core = some q)
    (hq' : (l.report core).queueOn c = some q') :
    (q'.heard.find? fun h => h.1 = core) = some (core, q.recs.length) := by
  have hr := Launch.recs_report l hn hab core
  cases h0 : l.queueOn core with
  | none => rw [h0, hq] at hr; simp at hr
  | some q0 =>
    rw [h0, hq] at hr
    obtain hr : q.recs = q0.recs := by simpa using hr
    rw [Launch.queueOn_report h0 hn hab, if_pos hc, Option.map_eq_some_iff] at hq'
    obtain ⟨r, -, rfl⟩ := hq'
    rw [hr, TaskQueue.find?_heard_hear]

/-! Neighbours. -/

/-- A core has a lower and a higher neighbour, which are the cores beside it in its tile (R28). -/
theorem neighbours_spec (core : Nat) : ∃ a b, neighbours core = [a, b] ∧ a < b ∧ ∀ c, (c = a ∨ c = b) ↔
    c / 32 = core / 32 ∧ (c % 32 = (core + 1) % 32 ∨ core % 32 = (c + 1) % 32) := by
  unfold neighbours
  dsimp only
  split
  · exact ⟨_, _, rfl, ‹_›, fun c => by omega⟩
  · exact ⟨_, _, rfl, by omega, fun c => by omega⟩

theorem neighbours_ne {core a b : Nat} (h : neighbours core = [a, b]) : a ≠ b := by
  obtain ⟨a', b', h', hlt, -⟩ := neighbours_spec core
  rw [h] at h'
  simp only [List.cons.injEq, and_true] at h'
  omega

/-! Donations. -/

section
variable {s : State} {li core b : Nat} {l : Launch} {q : TaskQueue}

/-- A link that has heard nothing gives nothing. -/
theorem State.donate_unheard (hl : s.launches[li]? = some l) (hq : l.queueOn core = some q)
    (hh : (q.heard.find? fun h => h.1 = b) = none) : s.donate li core b = s := by
  simp [State.donate, State.launch?, hl, hq, hh]

/-- Nor does one whose difference is small or whose neighbour does not host the launch. -/
theorem State.donate_withheld {h : Nat × Nat} (hl : s.launches[li]? = some l) (hq : l.queueOn core = some q)
    (hh : (q.heard.find? fun h => h.1 = b) = some h) (hd : q.recs.length - h.2 < 4 ∨ s.hosts li b = false) :
    s.donate li core b = s := by
  rcases hd with hd | hd <;> simp [State.donate, State.launch?, hl, hq, hh, hd]

/-- What a donation takes from the tail of the queue, and sends (R29). -/
theorem State.donate_given {h : Nat × Nat} (hl : s.launches[li]? = some l) (hq : l.queueOn core = some q)
    (hh : (q.heard.find? fun h => h.1 = b) = some h) (hd : 4 ≤ q.recs.length - h.2) (hb : s.hosts li b = true) :
    let keep := q.recs.length - min 4 ((q.recs.length - h.2) / 4)
    s.donate li core b = { s with
      launches := modifyAt s.launches li fun l => l.modQueue core fun q => { q with recs := q.recs.take keep }
      moves := s.moves ++ [⟨li, b, q.recs.drop keep⟩] } := by
  simp only [State.donate, State.launch?, hl, hq, hh, Option.bind_some, hb, Bool.not_true, Bool.or_false]
  rw [if_neg (by simpa using hd)]
  rfl

end

/-- A donation changes its launch alone, and adds to the moves. -/
theorem State.donate_frame (s : State) (li core b : Nat) :
    (s.donate li core b).mem = s.mem ∧ (s.donate li core b).gangs = s.gangs ∧
    (s.donate li core b).launches.length = s.launches.length ∧
    ∀ j, j ≠ li → (s.donate li core b).launches[j]? = s.launches[j]? := by
  unfold State.donate
  split
  · simp
  · split
    · simp
    · dsimp only
      split
      · simp
      · exact ⟨rfl, rfl, by simp [State.modLaunch], fun j hj => by simp [State.modLaunch, hj]⟩

/-- What a donation does depends on the gangs and on its launch alone: two states that agree on them give the same. -/
theorem State.donate_congr {s t : State} {li : Nat} (core b : Nat) (hg : s.gangs = t.gangs)
    (hl : s.launches[li]? = t.launches[li]?) :
    (∃ m, (s.donate li core b).moves = s.moves ++ m ∧ (t.donate li core b).moves = t.moves ++ m) ∧
    (s.donate li core b).launches[li]? = (t.donate li core b).launches[li]? := by
  have hh : s.hosts li b = t.hosts li b := by unfold State.hosts; rw [hg]
  have h0 : (∃ m, s.moves = s.moves ++ m ∧ t.moves = t.moves ++ m) ∧ s.launches[li]? = t.launches[li]? :=
    ⟨⟨[], by simp⟩, hl⟩
  unfold State.donate State.launch?
  rw [hl, hh]
  split
  · exact h0
  · split
    · exact h0
    · dsimp only
      split
      · exact h0
      · exact ⟨⟨_, rfl, rfl⟩, by simp [State.modLaunch, hl]⟩

/-- The decisions of a core on its two links for one launch. -/
def State.donateBoth (s : State) (core a b li : Nat) : State := (s.donate li core a).donate li core b

theorem State.donateBoth_frame (s : State) (core a b li : Nat) :
    (s.donateBoth core a b li).mem = s.mem ∧ (s.donateBoth core a b li).gangs = s.gangs ∧
    (s.donateBoth core a b li).launches.length = s.launches.length ∧
    ∀ j, j ≠ li → (s.donateBoth core a b li).launches[j]? = s.launches[j]? := by
  obtain ⟨m1, g1, n1, l1⟩ := s.donate_frame li core a
  obtain ⟨m2, g2, n2, l2⟩ := (s.donate li core a).donate_frame li core b
  exact ⟨m2.trans m1, g2.trans g1, n2.trans n1, fun j hj => (l2 j hj).trans (l1 j hj)⟩

/-- What they take and send depends on the gangs and on that launch alone. -/
theorem State.donateBoth_congr {s t : State} {li : Nat} (core a b : Nat) (hg : s.gangs = t.gangs)
    (hl : s.launches[li]? = t.launches[li]?) :
    (s.donateBoth core a b li).moves = s.moves ++ (t.donateBoth core a b li).moves.drop t.moves.length ∧
    (s.donateBoth core a b li).launches[li]? = (t.donateBoth core a b li).launches[li]? := by
  obtain ⟨⟨m, hs, ht⟩, h1⟩ := State.donate_congr core a hg hl
  have hg' := (s.donate_frame li core a).2.1.trans (hg.trans (t.donate_frame li core a).2.1.symm)
  obtain ⟨⟨n, hs', ht'⟩, h2⟩ := State.donate_congr core b hg' h1
  refine ⟨?_, h2⟩
  unfold State.donateBoth
  rw [hs', ht', hs, ht]
  simp [List.append_assoc]

/-- The decisions for several launches, seen one launch at a time. -/
theorem State.foldl_donateBoth {s : State} (core a b : Nat) {L : List Nat} (hL : L.Nodup) {u : State}
    (hg : u.gangs = s.gangs) (hl : ∀ i ∈ L, u.launches[i]? = s.launches[i]?) :
    let v := L.foldl (fun u i => u.donateBoth core a b i) u
    v.mem = u.mem ∧ v.gangs = s.gangs ∧ v.launches.length = u.launches.length ∧
    v.moves = u.moves ++ L.flatMap (fun i => (s.donateBoth core a b i).moves.drop s.moves.length) ∧
    (∀ i ∈ L, v.launches[i]? = (s.donateBoth core a b i).launches[i]?) ∧
    ∀ i, i ∉ L → v.launches[i]? = u.launches[i]? := by
  induction L generalizing u with
  | nil => exact ⟨rfl, hg, rfl, by simp, by simp, fun _ _ => rfl⟩
  | cons i L ih =>
    obtain ⟨hi, hL⟩ := List.nodup_cons.1 hL
    obtain ⟨m1, g1, n1, l1⟩ := u.donateBoth_frame core a b i
    obtain ⟨c1, c2⟩ := State.donateBoth_congr core a b hg (hl i (List.mem_cons_self ..))
    have hne : ∀ j ∈ L, j ≠ i := fun j hj e => hi (e ▸ hj)
    obtain ⟨m2, g2, n2, c3, l3, l4⟩ := ih hL (g1.trans hg)
      fun j hj => (l1 j (hne j hj)).trans (hl j (List.mem_cons_of_mem _ hj))
    refine ⟨m2.trans m1, g2, n2.trans n1, ?_, fun j hj => ?_, fun j hj => ?_⟩
    · rw [List.foldl_cons, c3, c1, List.flatMap_cons, List.append_assoc]
    · rcases List.mem_cons.1 hj with rfl | hj
      · exact (l4 j hi).trans c2
      · exact l3 j hj
    · obtain ⟨hji, hj⟩ := not_or.1 (mt List.mem_cons.2 hj)
      exact (l4 j hj).trans (l1 j hji)

/-! The boundary. -/

/-- The launches that a core's boundary is about: those of its partition that may move records (R29, R31). -/
def State.gleaned (s : State) (core : Nat) : List Nat :=
  (List.range s.launches.length).filter fun i => match s.launch? i with
    | some l => l.part = s.partOfCore core && !l.determ && !l.complete
    | none => false

theorem State.gleaned_eq (s : State) (core : Nat) : s.gleaned core = (List.range s.launches.length).filter fun i =>
    (s.launches[i]?).any fun l => l.part = s.partOfCore core && !l.determ && !l.complete := by
  unfold State.gleaned State.launch?
  congr 1
  funext i
  cases s.launches[i]? <;> rfl

/-- The state of a boundary between the decisions and the reports. -/
def State.decided (s : State) (core a b : Nat) : State :=
  if (s.part (s.partOfCore core)).glean then
    (s.gleaned core).foldl (fun u i => u.donateBoth core a b i) s
  else s

theorem State.nodup_gleaned (s : State) (core : Nat) : (s.gleaned core).Nodup := List.nodup_range.filter _

theorem State.mem_gleaned {s : State} {core i : Nat} {l : Launch} (hl : s.launches[i]? = some l) :
    i ∈ s.gleaned core ↔ (l.part = s.partOfCore core && !l.determ && !l.complete) = true := by
  have hi := (List.getElem?_eq_some_iff.1 hl).1
  rw [State.gleaned_eq, List.mem_filter, hl, Option.any_some, List.mem_range, and_iff_right hi]

/-- A boundary is the decisions on every launch and then the reports. -/
theorem exec_gleanerBoundary {s : State} {core a b : Nat} (hn : neighbours core = [a, b]) :
    exec (.gleanerBoundary core) s =
      .next ((s.gleaned core).foldl (fun u i => u.modLaunch i (fun l => l.report core)) (s.decided core a b)) := by
  show execGleanerBoundary core s = _
  unfold execGleanerBoundary State.decided
  rw [hn]
  rfl

/-- What the decisions of a boundary come to, one launch at a time. -/
theorem State.decided_spec (s : State) (core a b : Nat) :
    let after (i : Nat) : State := if (s.part (s.partOfCore core)).glean then s.donateBoth core a b i else s
    let u := s.decided core a b
    u.mem = s.mem ∧ u.gangs = s.gangs ∧ u.launches.length = s.launches.length ∧
    u.moves = s.moves ++ (s.gleaned core).flatMap (fun i => (after i).moves.drop s.moves.length) ∧
    (∀ i ∈ s.gleaned core, u.launches[i]? = (after i).launches[i]?) ∧
    ∀ i, i ∉ s.gleaned core → u.launches[i]? = s.launches[i]? := by
  unfold State.decided
  cases (s.part (s.partOfCore core)).glean with
  | true => simpa using State.foldl_donateBoth core a b (s.nodup_gleaned core) (u := s) rfl fun _ _ => rfl
  | false => simp

/-- A launch after the boundary of a core: its decisions, then its report if it is one that moves. -/
theorem State.launches_reported (s : State) (core a b i : Nat) :
    (((s.gleaned core).foldl (fun u i => u.modLaunch i (fun l => l.report core)) (s.decided core a b)).launches)[i]? =
      if i ∈ s.gleaned core then ((s.decided core a b).launches[i]?).map (fun l => l.report core)
      else (s.decided core a b).launches[i]? := by
  rw [State.foldl_modLaunch (fun _ l => l.report core)]
  exact getElem?_foldl_modifyAt (fun _ (l : Launch) => l.report core) (s.nodup_gleaned core) _ i

/-- What the boundary of a core gives and reports (R28 to R30). -/
theorem gleanerBoundary_spec {s : State} {core a b : Nat} (hn : neighbours core = [a, b]) :
    let after (i : Nat) : State := if (s.part (s.partOfCore core)).glean then s.donateBoth core a b i else s
    Answers (exec (.gleanerBoundary core) s) fun t => t.mem = s.mem ∧ t.gangs = s.gangs ∧
      t.launches.length = s.launches.length ∧
      t.moves = s.moves ++ (s.gleaned core).flatMap (fun i => (after i).moves.drop s.moves.length) ∧
      ∀ (i : Nat) (l : Launch), s.launches[i]? = some l → ∃ l' : Launch, t.launches[i]? = some l' ∧
        (i ∉ s.gleaned core → l' = l) ∧
        (i ∈ s.gleaned core →
          (∀ k, (l'.queueOn k).map (·.recs) = (((after i).launches[i]?).bind (·.queueOn k)).map (·.recs)) ∧
          ∀ (c : Nat) (q q' : TaskQueue), c = a ∨ c = b → l'.queueOn core = some q → l'.queueOn c = some q' →
            (q'.heard.find? fun h => h.1 = core) = some (core, q.recs.length)) := by
  intro after
  obtain ⟨hm, hg, hlen, hmv, hin, hout⟩ := s.decided_spec core a b
  have hab := neighbours_ne hn
  refine .intro (exec_gleanerBoundary hn) ?_
  rw [State.foldl_modLaunch (fun _ l => l.report core)]
  refine ⟨hm, hg, ?_, hmv, fun i l hl => ?_⟩
  · exact (length_foldl_modifyAt _ _ _).trans hlen
  · have ht := s.launches_reported core a b i
    rw [State.foldl_modLaunch (fun _ l => l.report core)] at ht
    by_cases hi : i ∈ s.gleaned core
    · rw [if_pos hi, hin i hi] at ht
      have hlt : i < (after i).launches.length := by
        have : (after i).launches.length = s.launches.length := by
          show (if _ then _ else _ : State).launches.length = _
          split
          · exact (s.donateBoth_frame core a b i).2.2.1
          · rfl
        rw [this]; exact (List.getElem?_eq_some_iff.1 hl).1
      have hw : (after i).launches[i]? = some ((after i).launches[i]) := List.getElem?_eq_getElem hlt
      refine ⟨((after i).launches[i]).report core, ?_, (absurd hi ·), fun _ => ⟨fun k => ?_, fun c q q' hc hq hq' => ?_⟩⟩
      · rw [ht]; show Option.map _ (after i).launches[i]? = _; rw [hw]; rfl
      · rw [hw, Option.bind_some]; exact Launch.recs_report _ hn hab k
      · exact Launch.heard_report hn hab hc hq hq'
    · rw [if_neg hi, hout i hi, hl] at ht
      exact ⟨l, ht, fun _ => rfl, (absurd · hi)⟩

/-! Arrivals. -/

/-- A move that arrives joins the tail of its new queue (R29). -/
theorem gleanerArrival_spec {s : State} {x : Nat} {m : Move} {l : Launch} {q : TaskQueue} (hm : s.moves[x]? = some m)
    (hl : s.launches[m.launch]? = some l) (hq : l.queueOn m.core = some q) :
    Answers (exec (.gleanerArrival x) s) fun t => t.moves = s.moves.eraseIdx x ∧
      ∃ l' q', t.launches[m.launch]? = some l' ∧ l'.queueOn m.core = some q' ∧ q'.recs = q.recs ++ m.recs := by
  refine .intro (t := ({ s with moves := s.moves.eraseIdx x }).modLaunch m.launch fun l =>
    l.modQueue m.core fun q => { q with recs := q.recs ++ m.recs }) ?_ ⟨rfl, ?_⟩
  · show execGleanerArrival x s = _
    unfold execGleanerArrival
    rw [hm]
  · refine ⟨l.modQueue m.core fun q => { q with recs := q.recs ++ m.recs }, { q with recs := q.recs ++ m.recs }, ?_, ?_, rfl⟩
    · rw [State.getElem?_modLaunch, if_pos rfl]
      exact congrArg (Option.map _) hl
    · rw [Launch.queueOn_modQueue_recs _ _ _ (· ++ m.recs), if_pos rfl, hq]
      rfl

/-- Settles O51: each donation concerns one launch, and a report changes no record. -/
theorem gleanerMoves : Obligations.GleanerMoves := by
  refine ⟨neighbours_spec, fun s li core b l q => State.donate_unheard, fun s li core b l q h hl hq hh => ?_,
    fun s core a b hn => ?_, fun s x => ⟨fun hx => ?_, fun m l q => gleanerArrival_spec⟩⟩
  · refine ⟨State.donate_withheld hl hq hh, fun hd hb => ?_⟩
    let keep := q.recs.length - min 4 ((q.recs.length - h.2) / 4)
    refine ⟨_, l.modQueue core fun q => { q with recs := q.recs.take keep }, (State.donate_given hl hq hh hd hb).symm, ?_,
      rfl, by omega, by omega, ⟨{ q with recs := q.recs.take keep }, ?_, rfl⟩, rfl, rfl⟩
    · rw [getElem?_modifyAt, if_pos rfl, hl]; rfl
    · rw [Launch.queueOn_modQueue_recs _ _ _ (·.take keep), if_pos rfl, hq]; rfl
  · obtain ⟨t, ht, hm, hg, hlen, hmv, hls⟩ := gleanerBoundary_spec (s := s) hn
    rw [State.gleaned_eq] at hmv
    refine ⟨t, ht, hm, hg, hlen, hmv, fun i l hl => ?_⟩
    obtain ⟨l', hl', hout, hin⟩ := hls i l hl
    refine ⟨l', hl', fun h => hout ?_, fun h => hin ?_⟩
    · rw [State.mem_gleaned hl]; simpa using h
    · rwa [State.mem_gleaned hl]
  · show execGleanerArrival x s = _
    unfold execGleanerArrival
    rw [hx]

end Sys2Proof.Machine
end

section
/-! What the reads of an engine and a change of lgmode leave unchanged (R43, R65, R125, R414). -/

namespace Sys2Proof.Machine

/-! Gangs by place, cores by number. -/

theorem State.modGang_gangOf (s : State) (i j : Nat) (f : Gang → Gang) (hi : i < s.gangs.length) :
    (s.modGang i f).gangOf j = if j = i then f (s.gangOf j) else s.gangOf j := by
  unfold State.gangOf
  rw [State.getElem?_modGang]
  by_cases hj : j = i
  · subst hj; simp [hi]
  · simp [hj]

theorem State.modGang_modGang (s : State) (i : Nat) (f k : Gang → Gang) :
    (s.modGang i f).modGang i k = s.modGang i fun g => k (f g) := by
  unfold State.modGang
  rw [modifyAt_modifyAt]

theorem State.modGang_eq_self {s : State} {i : Nat} {f : Gang → Gang} (hf : ∀ g, f g = g) : s.modGang i f = s := by
  unfold State.modGang
  rw [modifyAt_id s.gangs i f fun g _ => hf g]

/-- Changes of several harts of a gang are one change of the gang. -/
theorem State.foldl_modThread_hart {β : Type} (gi : Nat) (key : β → Nat) (f : β → Thread → Thread) (L : List β) (s : State) :
    L.foldl (fun s d => s.modThread ⟨gi, .hart (key d)⟩ (f d)) s =
      s.modGang gi fun g => { g with harts := L.foldl (fun l d => modifyAt l (key d) (f d)) g.harts } := by
  induction L generalizing s with
  | nil => exact (State.modGang_eq_self fun _ => rfl).symm
  | cons d L ih =>
    rw [List.foldl_cons, ih]
    exact State.modGang_modGang s gi _ _

theorem State.core_modCore (s : State) (i k : Nat) (f : CoreSt → CoreSt) :
    (s.modCore i f).core k = if k = i ∧ k < s.cores.length then f (s.core k) else s.core k := by
  unfold State.core State.modCore
  rw [getElem?_modifyAt]
  by_cases hk : k = i
  · by_cases hl : k < s.cores.length
    · simp [hk, hk ▸ hl]
    · simp [hk, hk ▸ hl]
  · simp [hk]

theorem State.core_of_le {s : State} {k : Nat} (h : s.cores.length ≤ k) : s.core k = .reset := by
  simp [State.core, h]

/-- The lane table of a core that a change leaves alone on every core. -/
theorem State.lanes_modCore {s : State} {i : Nat} {f : CoreSt → CoreSt} (hf : ∀ c, (f c).lanes = c.lanes) (k : Nat) :
    ((s.modCore i f).core k).lanes = (s.core k).lanes := by
  rw [State.core_modCore]
  split
  · exact hf _
  · rfl

/-! What a read of an engine or of the dispatcher may note: the writes a thread's loads have returned, translations, and
charges. -/

/-- A thread but for what its reads have noted. -/
def Thread.Noted (t u : Thread) : Prop := u = { t with seen := u.seen, tcache := u.tcache }

theorem Thread.Noted.refl (t : Thread) : t.Noted t := rfl

theorem Thread.Noted.trans {t u v : Thread} (h : t.Noted u) (k : u.Noted v) : t.Noted v := by
  unfold Thread.Noted at *
  rw [k, h]

/-- A gang but for what the reads of its threads have noted. -/
structure Gang.Noted (g u : Gang) : Prop where
  rest : u = { g with harts := u.harts, access := u.access }
  length : u.harts.length = g.harts.length
  thread : ∀ r t, g.thread? r = some t → ∃ t', u.thread? r = some t' ∧ t.Noted t'

theorem Gang.Noted.refl (g : Gang) : g.Noted g := ⟨rfl, rfl, fun _ t h => ⟨t, h, .refl t⟩⟩

theorem Gang.Noted.trans {g u v : Gang} (h : g.Noted u) (k : u.Noted v) : g.Noted v := by
  refine ⟨?_, k.length.trans h.length, fun r t ht => ?_⟩
  · rw [k.rest, h.rest]
  · obtain ⟨t1, h1, n1⟩ := h.thread r t ht
    obtain ⟨t2, h2, n2⟩ := k.thread r t1 h1
    exact ⟨t2, h2, n1.trans n2⟩

/-- A state but for what reads have noted and charged. -/
structure State.Noted (s u : State) : Prop where
  rest : u = { s with gangs := u.gangs, cores := u.cores }
  length : u.gangs.length = s.gangs.length
  gang : ∀ (i : Nat) (g : Gang), s.gangs[i]? = some g → ∃ g' : Gang, u.gangs[i]? = some g' ∧ g.Noted g'
  cores : ∀ k, (u.core k).lanes = (s.core k).lanes

theorem State.Noted.refl (s : State) : s.Noted s := ⟨rfl, rfl, fun _ g h => ⟨g, h, .refl g⟩, fun _ => rfl⟩

theorem State.Noted.trans {s u v : State} (h : s.Noted u) (k : u.Noted v) : s.Noted v := by
  refine ⟨?_, k.length.trans h.length, fun i g hg => ?_, fun c => (k.cores c).trans (h.cores c)⟩
  · rw [k.rest, h.rest]
  · obtain ⟨g1, h1, n1⟩ := h.gang i g hg
    obtain ⟨g2, h2, n2⟩ := k.gang i g1 h1
    exact ⟨g2, h2, n1.trans n2⟩

theorem State.Noted.modCore (s : State) (i : Nat) {f : CoreSt → CoreSt} (hf : ∀ c, (f c).lanes = c.lanes) :
    s.Noted (s.modCore i f) :=
  ⟨rfl, rfl, fun _ g h => ⟨g, h, .refl g⟩, State.lanes_modCore hf⟩

theorem Gang.Noted.modThread (g : Gang) (r : Role) {f : Thread → Thread} (hf : ∀ t : Thread, t.Noted (f t)) :
    g.Noted (g.modThread r f) := by
  refine ⟨by cases r <;> rfl, by cases r <;> simp [Gang.modThread], fun q t ht => ?_⟩
  rw [Gang.thread?_modThread, ht]
  split
  · exact ⟨_, rfl, hf t⟩
  · exact ⟨_, rfl, .refl t⟩

theorem State.Noted.modThread (s : State) (a : Agent) {f : Thread → Thread} (hf : ∀ t : Thread, t.Noted (f t)) :
    s.Noted (s.modThread a f) := by
  refine ⟨rfl, length_modifyAt _ _ _, fun i g hg => ?_, fun _ => rfl⟩
  unfold State.modThread
  rw [State.getElem?_modGang, hg]
  split
  · exact ⟨_, rfl, .modThread g _ hf⟩
  · exact ⟨_, rfl, .refl g⟩

theorem State.Noted.charge (s : State) (gi k n : Nat) : s.Noted (s.charge gi k n) := by
  unfold State.charge
  dsimp only
  split
  · exact .refl s
  · exact .modCore s _ fun _ => rfl

theorem State.Noted.cacheLeaf (s : State) (a : Agent) (l : Leaf) : s.Noted (s.cacheLeaf a l) := by
  unfold State.cacheLeaf
  split
  · exact .modThread s a fun _ => rfl
  · exact .modCore s _ fun _ => rfl

theorem State.Noted.locate {s t : State} {a : Agent} {lvl n al : Nat} {acc : Acc} {first : Bool} {va : Word} {p : Place}
    (h : s.locate a lvl acc first va n al = .ok (p, t)) : s.Noted t := by
  rcases State.locate_frame h with rfl | ⟨l, m, rfl⟩
  · exact .refl _
  · exact .trans (.cacheLeaf s a l) (.charge _ _ _ _)

theorem State.Noted.noteRead (s : State) (a : Agent) (p : Place) (n : Nat) : s.Noted (s.noteRead a p n) := by
  unfold State.noteRead
  split
  · dsimp only
    split
    · exact .refl s
    · exact .modThread s a fun _ => rfl
  · exact .refl s

theorem State.Noted.chargeRun (s : State) (gi : Nat) (p : Place) (n va : Nat) (more : Bool) :
    s.Noted (s.chargeRun gi p n va more) := by
  unfold State.chargeRun
  split
  · exact .charge s _ _ _
  · exact .refl s

/-- The dwords that an engine reads for an agent leave everything but notes and charges (R125, R412, R428). -/
theorem State.Noted.readDwords {s t : State} {a : Agent} {lvl va n : Nat} {ws : List Word}
    (h : s.readDwords a lvl va n = .ok (ws, t)) : s.Noted t := by
  induction n generalizing s va ws with
  | zero => cases h; exact .refl _
  | succ n ih =>
    unfold State.readDwords at h
    dsimp only at h
    split at h
    · cases h
    · rename_i p s1 hp
      split at h
      · cases h
      · split at h
        · cases h
        · rename_i vs s2 hr
          cases h
          exact (State.Noted.locate hp).trans (((State.Noted.noteRead s1 a p 8).trans (.chargeRun _ _ _ _ _ _)).trans (ih hr))

theorem State.Noted.thread? {s u : State} (h : s.Noted u) {a : Agent} {t : Thread} (ht : s.thread? a = some t) :
    ∃ t', u.thread? a = some t' ∧ t.Noted t' := by
  unfold State.thread? at ht
  cases hg : s.gangs[a.gang]? with
  | none => rw [hg] at ht; cases ht
  | some g =>
    obtain ⟨g', hg', n⟩ := h.gang _ g hg
    obtain ⟨t', ht', m⟩ := n.thread a.role t (by rw [hg] at ht; exact ht)
    exact ⟨t', by rw [State.thread?_of hg']; exact ht', m⟩

theorem State.Noted.live {s u : State} (h : s.Noted u) (hl : s.live = true) : u.live = true := by
  obtain ⟨a, t, hc, ht⟩ := State.live_iff.1 hl
  obtain ⟨t', ht', -⟩ := h.thread? ht
  exact State.live_iff.2 ⟨a, t', by rw [h.rest]; exact hc, ht'⟩

/-! Changes of lgmode. -/

theorem CoreSt.foldl_setMode (l : List ModeChange) (c : CoreSt) :
    l.foldl CoreSt.setMode c =
      { c with accNow := (l.foldl CoreSt.setMode c).accNow, ownNow := (l.foldl CoreSt.setMode c).ownNow } := by
  induction l generalizing c with
  | nil => rfl
  | cons x l ih => rw [List.foldl_cons, ih]; rfl

theorem CoreSt.lanes_foldl_setMode (l : List ModeChange) (c : CoreSt) : (l.foldl CoreSt.setMode c).lanes = c.lanes := by
  rw [CoreSt.foldl_setMode]

/-- A change of lgmode touches the cores and the gangs alone. -/
theorem State.setModes_rest (s : State) (core : Nat) (l : List ModeChange) :
    s.setModes core l = { s with gangs := (s.setModes core l).gangs, cores := (s.setModes core l).cores } := rfl

/-- Of a gang it may reset the registers of the access-unit context (R65, R252). -/
theorem State.gangs_setModes {s : State} {i : Nat} {g : Gang} (core : Nat) (l : List ModeChange)
    (hg : s.gangs[i]? = some g) :
    (s.setModes core l).gangs[i]? = some g ∨ (s.setModes core l).gangs[i]? = some { g with access := resetAccess g } := by
  unfold State.setModes
  simp only [List.getElem?_mapIdx, State.modCore_gangs, hg, Option.map_some]
  split
  · exact .inr rfl
  · exact .inl rfl

@[simp] theorem State.length_gangs_setModes (s : State) (core : Nat) (l : List ModeChange) :
    (s.setModes core l).gangs.length = s.gangs.length := by
  unfold State.setModes
  simp

/-- The lane table stays as it is. -/
theorem State.lanes_setModes (s : State) (core : Nat) (l : List ModeChange) (k : Nat) :
    ((s.setModes core l).core k).lanes = (s.core k).lanes :=
  State.lanes_modCore (CoreSt.lanes_foldl_setMode l) k

/-- What a change of lgmode leaves of a gang as read by its number. -/
theorem State.gangOf_setModes (s : State) (core : Nat) (l : List ModeChange) (i : Nat) :
    (s.setModes core l).gangOf i = { s.gangOf i with access := ((s.setModes core l).gangOf i).access } := by
  cases hg : s.gangs[i]? with
  | none =>
    have h : (s.setModes core l).gangs[i]? = none := by
      rw [List.getElem?_eq_none_iff, State.length_gangs_setModes]
      exact List.getElem?_eq_none_iff.1 hg
    simp [State.gangOf, hg, h]
  | some g =>
    rcases State.gangs_setModes core l hg with h | h <;> simp [State.gangOf, hg, h]

/-- No change of lgmode changes nothing. -/
theorem State.setModes_nil (s : State) (core : Nat) : s.setModes core [] = s := by
  have h1 : s.modCore core (fun c => ([] : List ModeChange).foldl CoreSt.setMode c) = s := by
    unfold State.modCore
    rw [modifyAt_id s.cores core (fun c => ([] : List ModeChange).foldl CoreSt.setMode c) fun _ _ => rfl]
  unfold State.setModes
  simp only [h1]
  have h2 : s.gangs.mapIdx (fun i g =>
      if (g.core = core && decide (g.st = .resident) &&
        decide (((s.gangs.mapIdx fun i _ => s.accessLanes i)[i]?).getD [] ≠ s.accessLanes i)) = true
      then { g with access := resetAccess g } else g) = s.gangs := by
    refine List.ext_getElem? fun i => ?_
    rw [List.getElem?_mapIdx]
    cases hg : s.gangs[i]? with
    | none => rfl
    | some g => simp [List.getElem?_mapIdx, hg]
  rw [h2]

/-! Lane groups that are freed. -/

@[simp] theorem State.gangOf_freeLanes (s : State) (core : Nat) (p : Nat → Nat → Bool) (k : Nat) :
    (s.freeLanes core p).gangOf k = s.gangOf k := rfl

/-- A lane group after those of some holders are freed (R43). -/
theorem State.lanes_freeLanes (s : State) (core : Nat) (p : Nat → Nat → Bool) (k : Nat) :
    (((s.freeLanes core p).core core).lanes[k]?).getD none =
      (((s.core core).lanes[k]?).getD none).filter fun x => !p x.1 x.2.1 := by
  unfold State.freeLanes
  rw [State.core_modCore]
  split
  · rw [List.getElem?_map]
    cases (s.core core).lanes[k]? with
    | none => rfl
    | some x =>
      cases x with
      | none => rfl
      | some y => cases h : p y.1 y.2.1 <;> simp [Option.filter, h]
  · rename_i h
    rw [State.core_of_le (by omega)]
    rw [show CoreSt.reset.lanes = List.replicate 8 none from rfl, List.getElem?_replicate]
    split <;> rfl

end Sys2Proof.Machine
end

section
/-! Branch queues, tasks, launches from a hart, and the end of harts and contexts (R26, R187 to R192, R251). -/

namespace Sys2Proof.Machine

/-! Branch queues, tasks and launches. -/

/-- A change of the branch queues of a gang keeps the thread in execution. -/
theorem State.live_modGang_bq {s : State} (h : s.live = true) (i : Nat) (f : Gang → List (List Word)) :
    (s.modGang i fun g => { g with bq := f g }).live = true :=
  State.live_modGang h fun g r => by cases r <;> rfl

theorem exec_bqpop_of_cons {s : State} (hl : s.live = true) (hh : s.onHart = true) {d : BitVec 6} {k : BitVec 2} {v : Word}
    {rest : List Word} (hq : s.myGang.branch k.toNat = v :: rest) : Finishes (exec (.bqpop d k) s)
      (s.modGang s.who.gang fun g => { g with bq := modifyAt g.bq k.toNat fun _ => rest }) d.toNat v := by
  refine .of_eq ?_ (Retires.retWith (State.live_modGang_bq hl _ _) d v)
  show s.hart _ = _
  rw [State.hart_of_onHart hl hh, hq]

theorem exec_bqpop_of_nil {s : State} (hl : s.live = true) (hh : s.onHart = true) {k : BitVec 2} (d : BitVec 6)
    (hq : s.myGang.branch k.toNat = []) : exec (.bqpop d k) s = s.stallFor (.branch k.toNat) := by
  show s.hart _ = _
  rw [State.hart_of_onHart hl hh, hq]

/-- BQPUSH of a context, by the room in its queue (R192). -/
theorem exec_bqpush {s : State} (hl : s.live = true) (hh : s.onHart = false) (a : BitVec 6) (k : BitVec 2) :
    exec (.bqpush k a) s = if 16 ≤ (s.myGang.branch k.toNat).length then s.stallFor (.full k.toNat)
      else (s.modGang s.who.gang fun g => { g with bq := modifyAt g.bq k.toNat (· ++ [s.x a]) }).ret := by
  show s.agent _ = _
  rw [State.agent_of_live hl, hh]
  rfl

/-- TASKPUT in a launch whose harts may append (R188). -/
theorem exec_taskput {s : State} (q : Quiet s) (hh : s.onHart = true) {l : Launch} (hl : s.launch? s.myGang.launch = some l)
    {a : BitVec 6} (hp : l.panels = true) (hd : l.determ = false) (hw : (s.x a).toNat < 2 ^ 52)
    (ha : (s.x a).toNat % 64 = 0) (hr : l.appended s.myCore < 1024) :
    exec (.taskput a) s = (s.modLaunch s.myGang.launch fun l => l.append s.myCore (s.x a)).ret := by
  have hb : tooWide (s.x a) = false := by simpa [tooWide] using hw
  show s.hart _ = _
  rw [State.hart_of_onHart q.live hh, hl]
  simp only [hp, hd, Bool.not_true, Bool.or_self, Bool.false_eq_true, if_false, q.afterRelease, hb]
  rw [if_neg (by simp [ha]), if_neg (by omega)]

/-- TASKPUT anywhere else (R188). -/
theorem exec_taskput_illop {s : State} (hs : s.live = true) (hh : s.onHart = true) {l : Launch}
    (hl : s.launch? s.myGang.launch = some l) (a : BitVec 6) (hp : l.panels = false ∨ l.determ = true) :
    exec (.taskput a) s = s.illop := by
  show s.hart _ = _
  rw [State.hart_of_onHart hs hh, hl]
  rcases hp with hp | hp <;> simp [hp]

/-- A submitted descriptor leaves the machine as it is, or adds a launch (R18, R419). -/
theorem State.submitWords_next {s s2 : State} {part : Nat} {super : Bool} {va v : Word} {w : List Word}
    (h : s.submitWords part super va w = some (v, s2)) :
    s2 = s ∨ ∃ l, s2 = { s with launches := s.launches ++ [l], stamp := s.stamp + 1 } := by
  unfold State.submitWords at h
  generalize (if super = true then 1 else 0) = level at h
  dsimp only at h
  split at h
  · cases h; exact .inl rfl
  split at h
  · split at h <;> cases h
    exact .inl rfl
  split at h
  · cases h; exact .inl rfl
  split at h
  · cases h; exact .inl rfl
  generalize (if super = true then _ else _ : Bool) = full at h
  generalize (if full = true then none else s.freeLid part) = lid at h
  cases lid <;> cases h
  · exact .inl rfl
  · exact .inr ⟨_, rfl⟩

theorem State.submitWords_live {s s2 : State} {part : Nat} {super : Bool} {va v : Word} {w : List Word}
    (h : s.submitWords part super va w = some (v, s2)) : s2.live = s.live := by
  rcases State.submitWords_next h with rfl | ⟨l, rfl⟩ <;> rfl

/-- LAUNCH with nothing in flight of an address that names no descriptor (R189). -/
theorem exec_launch_refused {s : State} (q : Quiet s) (hh : s.onHart = true) (hd : s.gangDeterm s.myGang = false)
    (d : BitVec 6) {a : BitVec 6} (ha : (s.x a).toNat % 64 ≠ 0 ∨ inWindow (s.x a).toNat = true) :
    exec (.launch d a) s = s.retWith d 1 := by
  show s.hart _ = _
  rw [State.hart_of_onHart q.live hh, hd, if_neg (by decide), q.afterRelease]
  exact if_pos (by simpa using ha)

/-- LAUNCH with nothing in flight of a descriptor that is read and submitted (R189). -/
theorem exec_launch_submitted {s s1 s2 : State} (q : Quiet s) (hh : s.onHart = true)
    (hd : s.gangDeterm s.myGang = false) (d : BitVec 6) {a : BitVec 6} (ha : (s.x a).toNat % 64 = 0)
    (hw : inWindow (s.x a).toNat = false) {w : List Word} {v : Word}
    (hr : s.readDwords s.who s.me.lvl (s.x a).toNat 8 = .ok (w, s1))
    (hv : s1.submitWords s1.myPart false (s.x a) w = some (v, s2)) : exec (.launch d a) s = s2.retWith d v := by
  show s.hart _ = _
  rw [State.hart_of_onHart q.live hh, hd, if_neg (by decide), q.afterRelease]
  dsimp only
  rw [if_neg (by simp [ha, hw]), hr]
  dsimp only
  rw [hv]

/-! The end of a hart. -/

/-- What an arrival makes of a hart that does not wait at the barrier: PEND alone may change. -/
theorem Gang.getElem?_harts_arrive {g : Gang} {n : Nat} {t : Thread} (h : Nat) (drop : Bool) (ht : g.harts[n]? = some t)
    (hw : t.wait ≠ .barrier) : ∃ b, (g.arrive h drop).harts[n]? = some { t with pend := b } := by
  have complete (u : Gang) (b : Bool) (hu : u.harts[n]? = some { t with pend := b }) :
      ∃ b, u.completePhase.harts[n]? = some { t with pend := b } := by
    unfold Gang.completePhase
    split
    · exact ⟨false, by simp [hu, hw]⟩
    · exact ⟨b, hu⟩
  unfold Gang.arrive
  split
  · exact ⟨t.pend, ht⟩
  · refine complete _ (if n = h then true else t.pend) ?_
    rw [getElem?_modifyAt, ht]
    split <;> rfl

theorem Gang.arrive_rest (g : Gang) (h : Nat) (drop : Bool) :
    g.arrive h drop = { g with
      harts := (g.arrive h drop).harts, members := (g.arrive h drop).members, arrived := (g.arrive h drop).arrived
      drops := (g.arrive h drop).drops, phase := (g.arrive h drop).phase } := by
  unfold Gang.arrive
  split
  · rfl
  · unfold Gang.completePhase
    dsimp only
    split <;> rfl

/-- A gang after one of its harts has ended (R26, R190). -/
def Gang.endHart (g : Gang) (h : Nat) : Gang :=
  { g.arrive h true with harts := modifyAt (g.arrive h true).harts h fun t =>
      { t with ended := true, pend := false, wait := .none, stall := .none, vregs := [], vl := 0 } }

theorem Gang.endHart_rest (g : Gang) (h : Nat) :
    g.endHart h = { g with
      harts := (g.endHart h).harts, members := (g.endHart h).members, arrived := (g.endHart h).arrived
      drops := (g.endHart h).drops, phase := (g.endHart h).phase } := by
  unfold Gang.endHart
  rw [Gang.arrive_rest]

theorem State.endHart_eq (s : State) (gi h : Nat) :
    let s1 := s.modGang gi (·.endHart h)
    let core := (s1.gangOf gi).core
    s.endHart gi h = (s1.freeLanes core fun g n => g = gi && n = h).changeModes core fun k => (s1.lanesOf gi h).contains k :=
  rfl

/-- What the end of a hart leaves of every gang: the gang's own harts and barrier apart, the registers of an access-unit
context that a change of lgmode has met. -/
theorem State.gangOf_endHart {s : State} {gi h : Nat} (hi : gi < s.gangs.length) (k : Nat) :
    (s.endHart gi h).gangOf k = { if k = gi then (s.gangOf k).endHart h else s.gangOf k with
      access := ((s.endHart gi h).gangOf k).access } := by
  rw [State.endHart_eq, State.changeModes, State.gangOf_setModes]
  rw [State.gangOf_freeLanes, State.modGang_gangOf _ _ _ _ hi]

/-- The end of a hart stores nothing. -/
theorem SameBytes.endHart {s : State} {gi h : Nat} (hi : gi < s.gangs.length) : SameBytes s (s.endHart gi h) := by
  have hg (k : Nat) : ((s.endHart gi h).gangOf k).spad = (s.gangOf k).spad ∧
      ((s.endHart gi h).gangOf k).sdm = (s.gangOf k).sdm := by
    rw [State.gangOf_endHart hi]
    split
    · rw [Gang.endHart_rest]; exact ⟨rfl, rfl⟩
    · exact ⟨rfl, rfl⟩
  exact ⟨fun _ => rfl, fun k a => by rw [(hg k).1], fun k a => by rw [(hg k).2]⟩

/-- A hart that has ended holds no lane groups (R26, R43). -/
theorem State.lanesOf_endHart {s : State} {gi h : Nat} (hi : gi < s.gangs.length) : (s.endHart gi h).lanesOf gi h = [] := by
  have hc : ((s.endHart gi h).gangOf gi).core = ((s.modGang gi (·.endHart h)).gangOf gi).core := by
    rw [State.gangOf_endHart hi, if_pos rfl, State.modGang_gangOf _ _ _ _ hi, if_pos rfl]
  unfold State.lanesOf
  dsimp only
  rw [hc, State.endHart_eq, State.changeModes, State.lanes_setModes]
  refine List.filter_eq_nil_iff.2 fun k _ => ?_
  rw [State.lanes_freeLanes]
  cases ((((s.modGang gi (·.endHart h)).core _).lanes[k]?).getD none) with
  | none => simp
  | some x =>
    by_cases hx : x.1 = gi ∧ x.2.1 = h
    · simp [Option.filter, hx]
    · rw [Option.filter_some, if_pos (by simpa [imp_iff_not_or] using hx)]
      simpa using hx

/-- The thread of a hart after its end: it has ended, and its pc is as it was. -/
theorem State.thread?_endHart {s : State} {gi h : Nat} {t : Thread} (ht : s.thread? ⟨gi, .hart h⟩ = some t)
    (hw : t.wait = .none) :
    ∃ t', (s.endHart gi h).thread? ⟨gi, .hart h⟩ = some t' ∧ t'.ended = true ∧ t'.pc = t.pc := by
  cases hg : s.gangs[gi]? with
  | none => simp [State.thread?, hg] at ht
  | some g =>
    have hi := (List.getElem?_eq_some_iff.1 hg).1
    rw [State.thread?_of (g := g) hg] at ht
    obtain ⟨b, hb⟩ := Gang.getElem?_harts_arrive h true ht (by simp [hw])
    have hl : gi < (s.endHart gi h).gangs.length := by
      rw [State.endHart_eq, State.changeModes, State.length_gangs_setModes]
      exact (length_modifyAt _ _ _).symm ▸ hi
    have hu : (s.endHart gi h).gangs[gi]? = some ((s.endHart gi h).gangOf gi) := by
      simp [State.gangOf, hl]
    refine ⟨{ t with ended := true, pend := false, wait := .none, stall := .none, vregs := [], vl := 0 }, ?_, rfl, rfl⟩
    · rw [State.thread?_of (g := (s.endHart gi h).gangOf gi) hu, State.gangOf_endHart hi, if_pos rfl, State.gangOf_of hg]
      show (g.endHart h).harts[h]? = _
      unfold Gang.endHart
      rw [getElem?_modifyAt, if_pos rfl, hb]
      rfl

/-- KEND with nothing in flight ends the hart at the word after it (R190). -/
theorem exec_kend {s : State} {gi h : Nat} (hc : s.cur = some ⟨gi, .hart h⟩) (q : Quiet s) :
    exec .kend s = .next ((s.setMe fun t => t.retireTo (s.pc + 4)).endHart gi h) := by
  have hh : s.onHart = true := by simp [State.onHart, hc]
  have hw : s.who = ⟨gi, .hart h⟩ := by simp [State.who, hc]
  have hn : s.hartNo = h := by simp [State.hartNo, hw]
  have hr : s.setMe Thread.retire = s.setMe fun t => t.retireTo (s.pc + 4) := State.setMe_congr q.live rfl
  show s.hart _ = _
  rw [State.hart_of_onHart q.live hh, q.afterVector]
  simp only [Thread.faultedXfer, q.xfers, List.find?_nil, q.mq, q.wc, hr, hw, hn]
  rfl

/-- What the end of the hart in execution leaves (R26, R190). -/
theorem kend_spec {s : State} {gi h : Nat} (hc : s.cur = some ⟨gi, .hart h⟩) (q : Quiet s) (hw : s.me.wait = .none) :
    Answers (exec .kend s) fun t => t.me.ended = true ∧ t.me.pc = s.pc + 4 ∧ SameBytes s t ∧ t.lanesOf gi h = [] := by
  let s1 := s.setMe fun t => t.retireTo (s.pc + 4)
  have hl1 : s1.live = true := by rw [State.live_setMe]; exact q.live
  have hm1 : s1.me = s.me.retireTo (s.pc + 4) := State.me_setMe q.live _
  obtain ⟨a, t, hc1, ht⟩ := State.live_iff.1 hl1
  obtain rfl : a = ⟨gi, .hart h⟩ := by rw [State.setMe_cur, hc] at hc1; exact (Option.some.inj hc1).symm
  have hme : s1.me = t := by simp [State.me, hc1, ht]
  have hi : gi < s1.gangs.length := by
    by_contra hn
    simp [State.thread?, List.getElem?_eq_none (Nat.le_of_not_lt hn)] at ht
  obtain ⟨t', ht', he, hp⟩ := State.thread?_endHart ht (by rw [← hme, hm1]; exact hw)
  have hme' : (s1.endHart gi h).me = t' := by
    have hcur : (s1.endHart gi h).cur = some ⟨gi, .hart h⟩ := hc1
    simp [State.me, hcur, ht']
  refine .intro (exec_kend hc q) ⟨by rw [hme', he], ?_, (SameBytes.setMe s _).trans (.endHart hi), State.lanesOf_endHart hi⟩
  rw [hme', hp, ← hme, hm1]
  rfl

/-- KEND of a context with nothing in flight (R251). -/
theorem exec_accessKend {s : State} (hl : s.live = true) (hh : s.onHart = false) (hv : s.me.vq = []) (hx : s.me.xfers = [])
    (hw : s.me.wc = []) : exec .accessKend s = s.done fun t => { t with ended := true } := by
  have hc : s.setMe Thread.closeAll = s :=
    State.setMe_eq_self hl (by unfold Thread.closeAll; rw [hw, List.map_nil, ← hw])
  show s.agent _ = _
  rw [State.agent_of_live hl, hh]
  simp only [Bool.false_eq_true, if_false, Thread.faultedXfer, hx, List.find?_nil, hv, hc, hw]
  rfl

/-- Settles O34: each form is what its queue, its descriptor or its thread gives it. -/
theorem tasksAndEnds : Obligations.TasksAndEnds := by
  intro s hl
  refine ⟨fun hh d k => ⟨fun v rest => exec_bqpop_of_cons hl hh, exec_bqpop_of_nil hl hh d⟩,
    fun hh a k => ⟨fun hn => ?_, fun hn => ?_⟩,
    fun hh a l hs => ⟨fun hp hd q hw ha hr => ?_, exec_taskput_illop hl hh hs a⟩,
    fun hh d a => ⟨fun hd => ?_, fun hd q => ⟨fun hb => ?_, fun ha hw w s1 hr s2 v hv => ?_⟩⟩,
    fun gi h hc q => ⟨exec_kend hc q, kend_spec hc q⟩, fun hh hv hx hw => ?_⟩
  · refine .of_eq ?_ (Retires.ret (State.live_modGang_bq hl _ _))
    rw [exec_bqpush hl hh, if_neg (by omega)]
  · rw [exec_bqpush hl hh, if_pos hn]
  · exact .of_eq (exec_taskput q hh hs hp hd hw ha hr) (Retires.ret hl)
  · show s.hart _ = _
    rw [State.hart_of_onHart hl hh, if_pos hd]
  · exact .of_eq (exec_launch_refused q hh hd d hb) (Retires.retWith hl d 1)
  · have hl2 : s2.live = true := (State.submitWords_live hv).trans ((State.Noted.readDwords hr).live hl)
    exact .of_eq (exec_launch_submitted q hh hd d ha hw hr hv) (Retires.retWith hl2 d v)
  · refine .intro (exec_accessKend hl hh hv hx hw) ⟨OnlyThread.setMe hl _, SameBytes.setMe s _, ?_, ?_⟩ <;>
      rw [State.me_setMe hl] <;> rfl

end Sys2Proof.Machine
end

section
/-! Joining a collective settlement, and which settlement is made when all have joined (R44, R187, R201 to R203). -/

namespace Sys2Proof.Machine

/-! Joining. -/

/-- A hart whose queues run joins, and the settlement is tried. -/
theorem State.join_eq {s : State} {gi h : Nat} (hc : s.cur = some ⟨gi, .hart h⟩) (hf : s.me.frz = false) (kind : Nat)
    (d : BitVec 6) (ga gb : Word) : s.join kind d ga gb = .next
      ((s.setMe fun t => { t with wait := .settle kind d.toNat ga gb s.word, stall := .none }).trySettle gi) := by
  unfold State.join
  rw [hf, hc]
  rfl

/-- The configurations that R201 permits. -/
theorem configOk_iff (gb : Word) : configOk gb = true ↔
    1 ≤ gb.toNat % 16 ∧ gb.toNat % 16 ≤ 8 ∧ gb.toNat / 256 % 8 ≤ 4 ∧ gb.toNat < 2048 := by
  simp [configOk, and_assoc]

/-- VSETVL, VSETVL.P and TASKGET of a hart whose queues run: what joins, and what is illegal (R187, R201, R202). -/
theorem exec_collectives {s : State} {gi h : Nat} (hc : s.cur = some ⟨gi, .hart h⟩) (hl : s.live = true)
    (hf : s.me.frz = false) (d a b : BitVec 6) :
    let joins (kind : Nat) (ga gb : Word) : Out := .next
      ((s.setMe fun t => { t with wait := .settle kind d.toNat ga gb s.word, stall := .none }).trySettle gi)
    exec (.taskget d) s = joins 2 0 0 ∧
    exec (.vsetvl d a b) s = (if configOk (s.x b) = true then joins 0 (s.x a) (s.x b) else s.illop) ∧
    exec (.vsetvlP d a b) s =
      if (configOk (s.x b) && decide (1 ≤ (s.x a).toNat) && decide ((s.x a).toNat ≤ 16) && s.gangPanels s.myGang) = true
      then joins 1 (s.x a) (s.x b) else s.illop := by
  have hh : s.onHart = true := by simp [State.onHart, hc]
  have hart (k : Out) : s.hart k = k := State.hart_of_onHart hl hh k
  dsimp only
  simp only [← State.join_eq hc hf]
  exact ⟨hart _, hart _, hart _⟩

/-! Which settlement is made. -/

/-- The settlement a wait has joined: its form, and q of the panel form. -/
def Wait.joins : Wait → Option (Nat × Nat)
  | .settle kind _ ga _ _ => some (kind, ga.toNat % 32)
  | _ => Option.none

theorem Wait.joins_eq_some {w : Wait} {x : Nat × Nat} :
    w.joins = some x ↔ ∃ d ga gb u, w = .settle x.1 d ga gb u ∧ ga.toNat % 32 = x.2 := by
  cases w <;> simp [Wait.joins, Prod.ext_iff]

theorem Wait.joins_eq_none {w : Wait} : w.joins = Option.none ↔ ∀ k, ¬∃ d ga gb u, w = .settle k d ga gb u := by
  cases w <;> simp [Wait.joins]

/-- What the harts of a gang that have not ended have joined, in ascending hart number. -/
def Gang.joined (g : Gang) : List (Nat × Nat) := g.alive.filterMap fun h => (g.hart h).wait.joins

theorem Gang.mem_joined {g : Gang} {x : Nat × Nat} :
    x ∈ g.joined ↔ ∃ h ∈ g.alive, ∃ d ga gb u, (g.hart h).wait = .settle x.1 d ga gb u ∧ ga.toNat % 32 = x.2 := by
  simp only [Gang.joined, List.mem_filterMap, Wait.joins_eq_some]

/-- All have joined when each has. -/
theorem Gang.length_joined {g : Gang} :
    g.joined.length = g.alive.length ↔ ∀ h ∈ g.alive, ∃ x, (g.hart h).wait.joins = some x := by
  simp only [Gang.joined, List.filterMap_length_eq_length, Option.isSome_iff_exists]

/-- The grant is settled, and takes effect at once where it may (R44, R201). -/
def State.grant (s : State) (gi kind : Nat) : State :=
  if (s.settleGrant gi kind).grantReady gi then (s.settleGrant gi kind).applyGrant gi else s.settleGrant gi kind

theorem State.trySettle_eq (s : State) (gi : Nat) : s.trySettle gi =
    match (s.gangOf gi).joined with
    | [] => if s.grantReady gi then s.applyGrant gi else s
    | (kind, q) :: rest =>
      if ((kind, q) :: rest).length ≠ (s.gangOf gi).alive.length then s
      else if ((kind, q) :: rest).all fun x => x.1 = 2 then s.settleTask gi
      else if ((kind, q) :: rest).any fun x => x.1 = 2 then s
      else if rest.any fun x => x.1 ≠ kind || (kind = 1 && decide (x.2 ≠ q)) then s.raiseAll gi cILLOP 0
      else s.grant gi kind := by
  unfold State.trySettle
  dsimp only
  generalize hJ : List.filterMap _ (s.gangOf gi).alive = J
  rw [show (s.gangOf gi).joined = J from hJ]
  cases J <;> rfl

section
variable {s : State} {gi : Nat}

/-- Nothing settles while one has not joined. -/
theorem State.trySettle_missing (hj : (s.gangOf gi).joined ≠ [])
    (hm : ∃ h ∈ (s.gangOf gi).alive, ((s.gangOf gi).hart h).wait.joins = none) : s.trySettle gi = s := by
  have hne : (s.gangOf gi).joined.length ≠ (s.gangOf gi).alive.length := by
    rw [Ne, Gang.length_joined]
    obtain ⟨h, hh, hn⟩ := hm
    exact fun hall => by simpa [hn] using hall h hh
  rw [State.trySettle_eq]
  cases hJ : (s.gangOf gi).joined with
  | nil => exact absurd hJ hj
  | cons x rest => rw [hJ] at hne; exact if_pos hne

variable (hj : (s.gangOf gi).joined ≠ []) (hall : (s.gangOf gi).joined.length = (s.gangOf gi).alive.length)
include hj hall

/-- TASKGET settles once all have executed it (R187). -/
theorem State.trySettle_task (h2 : ∀ x ∈ (s.gangOf gi).joined, x.1 = 2) : s.trySettle gi = s.settleTask gi := by
  rw [State.trySettle_eq]
  cases hJ : (s.gangOf gi).joined with
  | nil => exact absurd hJ hj
  | cons x rest =>
    rw [hJ] at hall h2
    dsimp only
    rw [if_neg (not_not.2 hall), if_pos (by simpa using h2)]

/-- One form with one q settles a grant (R44). -/
theorem State.trySettle_grant {kind : Nat} (hk : kind ≠ 2) (h1 : ∀ x ∈ (s.gangOf gi).joined, x.1 = kind)
    (hq : kind = 1 → ∀ x ∈ (s.gangOf gi).joined, ∀ y ∈ (s.gangOf gi).joined, x.2 = y.2) :
    s.trySettle gi = s.grant gi kind := by
  rw [State.trySettle_eq]
  cases hJ : (s.gangOf gi).joined with
  | nil => exact absurd hJ hj
  | cons x rest =>
    rw [hJ] at hall h1 hq
    obtain ⟨k, q⟩ := x
    obtain rfl : k = kind := h1 _ (List.mem_cons_self ..)
    dsimp only
    rw [if_neg (not_not.2 hall), if_neg (by simp [hk]), if_neg, if_neg]
    · simp only [List.any_eq_true, not_exists, not_and]
      intro x hx
      have hxk := h1 x (List.mem_cons_of_mem _ hx)
      have hxq := fun e => hq e x (List.mem_cons_of_mem _ hx) _ (List.mem_cons_self ..)
      simpa [hxk] using hxq
    · simp only [List.any_eq_true, not_exists, not_and]
      intro x hx
      simp [h1 x hx, hk]

/-- A mixture of forms, or different q, raises ILLOP (R203). -/
theorem State.trySettle_mixed (h2 : ∀ x ∈ (s.gangOf gi).joined, x.1 ≠ 2)
    (hx : ∃ x ∈ (s.gangOf gi).joined, ∃ y ∈ (s.gangOf gi).joined, x.1 ≠ y.1 ∨ x.1 = 1 ∧ x.2 ≠ y.2) :
    s.trySettle gi = s.raiseAll gi cILLOP 0 := by
  rw [State.trySettle_eq]
  cases hJ : (s.gangOf gi).joined with
  | nil => exact absurd hJ hj
  | cons z rest =>
    rw [hJ] at hall h2 hx
    obtain ⟨k, q⟩ := z
    have hk := h2 _ (List.mem_cons_self ..)
    dsimp only
    rw [if_neg (not_not.2 hall), if_neg (by simp [hk]), if_neg, if_pos]
    · by_contra hn
      have same : ∀ x ∈ (k, q) :: rest, x.1 = k ∧ (k = 1 → x.2 = q) := by
        simp only [List.any_eq_true, not_exists, not_and] at hn
        intro x hx
        rcases List.mem_cons.1 hx with rfl | hx
        · exact ⟨rfl, fun _ => rfl⟩
        · simpa [not_or] using hn x hx
      obtain ⟨x, hx, y, hy, hxy⟩ := hx
      obtain ⟨hx1, hx2⟩ := same x hx
      obtain ⟨hy1, hy2⟩ := same y hy
      rcases hxy with h | ⟨h1, h⟩
      · exact h (hx1.trans hy1.symm)
      · exact h ((hx2 (hx1 ▸ h1)).trans (hy2 (hx1 ▸ h1)).symm)
    · simp only [List.any_eq_true, not_exists, not_and]
      intro x hx
      simpa using h2 x hx

end

/-- Which settlement is tried, by what the harts have joined (R44, R187, R203). -/
theorem trySettle_spec (s : State) (gi : Nat) :
    let g := s.gangOf gi
    let joined (kind h : Nat) : Prop := ∃ d ga gb w, (g.hart h).wait = .settle kind d ga gb w
    (∃ h ∈ g.alive, ∃ k, joined k h) →
    ((∃ h ∈ g.alive, ∀ k, ¬joined k h) → s.trySettle gi = s) ∧
    ((∀ h ∈ g.alive, joined 2 h) → s.trySettle gi = s.settleTask gi) ∧
    ((∀ h ∈ g.alive, joined 0 h) → s.trySettle gi = s.grant gi 0) ∧
    (∀ q, (∀ h ∈ g.alive, ∃ d ga gb w, (g.hart h).wait = .settle 1 d ga gb w ∧ ga.toNat % 32 = q) →
      s.trySettle gi = s.grant gi 1) ∧
    ((∃ h ∈ g.alive, ∃ k ∈ g.alive, ∃ d ga gb w d' ga' gb' w', (g.hart h).wait = .settle 1 d ga gb w ∧
        (g.hart k).wait = .settle 1 d' ga' gb' w' ∧ ga.toNat % 32 ≠ ga'.toNat % 32) → (∀ h ∈ g.alive, joined 1 h) →
      s.trySettle gi = s.raiseAll gi cILLOP 0) ∧
    ((∃ h ∈ g.alive, joined 0 h) → (∃ h ∈ g.alive, joined 1 h) → (∀ h ∈ g.alive, joined 0 h ∨ joined 1 h) →
      s.trySettle gi = s.raiseAll gi cILLOP 0) := by
  intro g joined some_joined
  have mem {h k d : Nat} {ga gb : Word} {w : Word32} (hh : h ∈ g.alive) (hw : (g.hart h).wait = .settle k d ga gb w) :
      (k, ga.toNat % 32) ∈ g.joined := Gang.mem_joined.2 ⟨h, hh, d, ga, gb, w, hw, rfl⟩
  have hj : g.joined ≠ [] := by
    obtain ⟨h, hh, k, d, ga, gb, w, hw⟩ := some_joined
    exact List.ne_nil_of_mem (mem hh hw)
  have all_of (ks : Nat → Prop) (h : ∀ h ∈ g.alive, ∃ k, ks k ∧ joined k h) :
      g.joined.length = g.alive.length ∧ ∀ x ∈ g.joined, ks x.1 := by
    refine ⟨Gang.length_joined.2 fun n hn => ?_, fun x hx => ?_⟩
    · obtain ⟨k, -, d, ga, gb, w, hw⟩ := h n hn
      exact ⟨(k, ga.toNat % 32), Wait.joins_eq_some.2 ⟨d, ga, gb, w, hw, rfl⟩⟩
    · obtain ⟨n, hn, d, ga, gb, w, hw, -⟩ := Gang.mem_joined.1 hx
      obtain ⟨k, hk, d', ga', gb', w', hw'⟩ := h n hn
      rw [hw] at hw'
      cases hw'
      exact hk
  have all_one (k : Nat) (h : ∀ h ∈ g.alive, joined k h) := all_of (· = k) fun n hn => ⟨k, rfl, h n hn⟩
  refine ⟨fun ⟨h, hh, hn⟩ => ?_, fun h2 => ?_, fun h0 => ?_, fun q hq => ?_, fun hd h1 => ?_, fun hx hy hz => ?_⟩
  · exact State.trySettle_missing hj ⟨h, hh, Wait.joins_eq_none.2 hn⟩
  · obtain ⟨hall, hk⟩ := all_one 2 h2
    exact State.trySettle_task hj hall hk
  · obtain ⟨hall, hk⟩ := all_one 0 h0
    exact State.trySettle_grant hj hall (by decide) hk (by simp)
  · obtain ⟨hall, hk⟩ := all_one 1 fun h hh => by
      obtain ⟨d, ga, gb, w, hw, -⟩ := hq h hh
      exact ⟨d, ga, gb, w, hw⟩
    have hq' : ∀ x ∈ g.joined, x.2 = q := by
      intro x hx
      obtain ⟨n, hn, d, ga, gb, w, hw, he⟩ := Gang.mem_joined.1 hx
      obtain ⟨d', ga', gb', w', hw', he'⟩ := hq n hn
      rw [hw, Wait.settle.injEq] at hw'
      obtain ⟨-, -, rfl, -⟩ := hw'
      exact he.symm.trans he'
    exact State.trySettle_grant hj hall (by decide) hk fun _ x hx y hy => (hq' x hx).trans (hq' y hy).symm
  · obtain ⟨hall, hk⟩ := all_one 1 h1
    obtain ⟨h, hh, k, hk', d, ga, gb, w, d', ga', gb', w', hw, hw', hne⟩ := hd
    exact State.trySettle_mixed hj hall (fun x hx => by simp [hk x hx])
      ⟨_, mem hh hw, _, mem hk' hw', .inr ⟨rfl, hne⟩⟩
  · obtain ⟨hall, hk⟩ := all_of (fun k => k = 0 ∨ k = 1) fun n hn => by
      rcases hz n hn with h | h
      · exact ⟨0, .inl rfl, h⟩
      · exact ⟨1, .inr rfl, h⟩
    obtain ⟨h, hh, d, ga, gb, w, hw⟩ := hx
    obtain ⟨k, hk', d', ga', gb', w', hw'⟩ := hy
    exact State.trySettle_mixed hj hall (fun x hx => by have := hk x hx; omega)
      ⟨_, mem hh hw, _, mem hk' hw', .inl Nat.zero_ne_one⟩

end Sys2Proof.Machine
end

section
/-! The settlement of a lane grant with no change of lgmode pending: the fair share, the groups dealt, the loans noted
(R44). -/

namespace Sys2Proof.Machine

/-! Sorting by a key keeps the elements. -/

theorem insertBy_perm {α : Type} (key : α → Nat) (x : α) (l : List α) : (insertBy key x l).Perm (x :: l) := by
  induction l with
  | nil => exact .refl _
  | cons y l ih =>
    unfold insertBy
    split
    · exact .refl _
    · exact (ih.cons y).trans (.swap x y l)

theorem foldl_insertBy_perm {α : Type} (key : α → Nat) (l acc : List α) :
    (l.foldl (fun acc x => insertBy key x acc) acc).Perm (acc ++ l) := by
  induction l generalizing acc with
  | nil => simp
  | cons x l ih =>
    exact (ih _).trans (((insertBy_perm key x acc).append_right l).trans List.perm_middle.symm)

theorem sortBy_perm {α : Type} (key : α → Nat) (l : List α) : (sortBy key l).Perm l := foldl_insertBy_perm key l []

/-! Lists with their places. -/

theorem map_fst_mapIdx_pair {α : Type} (l : List α) : (l.mapIdx fun i x => (i, x)).map (·.1) = List.range l.length := by
  refine List.ext_getElem? fun i => ?_
  by_cases h : i < l.length <;> simp [h]

theorem mem_mapIdx_pair {α : Type} {l : List α} {x : Nat × α} : x ∈ (l.mapIdx fun i x => (i, x)) ↔ l[x.1]? = some x.2 := by
  rw [List.mem_iff_getElem?]
  simp only [List.getElem?_mapIdx, Option.map_eq_some_iff]
  constructor
  · rintro ⟨i, y, hy, rfl⟩; exact hy
  · exact fun h => ⟨x.1, x.2, h, rfl⟩

/-- The resident gangs of a core, each once. -/
theorem State.mem_residents {s : State} {core : Nat} {x : Nat × Gang} :
    x ∈ s.residents core ↔ s.gangs[x.1]? = some x.2 ∧ x.2.st = .resident ∧ x.2.core = core := by
  unfold State.residents
  rw [(sortBy_perm _ _).mem_iff, List.mem_filter, mem_mapIdx_pair]
  simp

theorem State.nodup_residents (s : State) (core : Nat) : ((s.residents core).map (·.1)).Nodup := by
  unfold State.residents
  refine ((sortBy_perm _ _).map _).nodup_iff.2 ?_
  refine (List.Sublist.map _ List.filter_sublist).nodup ?_
  rw [map_fst_mapIdx_pair]
  exact List.nodup_range

/-! The fair share. -/

/-- The spare groups left after the gangs of a core have each been offered one more for every hart, in ascending slot (R44,
step 2). -/
def spareAfter : List (Nat × Gang) → Nat → Nat → Nat
  | _, n, 0 => n
  | [], n, _ + 1 => n
  | r :: rs, n, j + 1 => spareAfter rs (if r.2.alive.length ≤ n then n - r.2.alive.length else n) j

/-- Any sequence that falls as R44 has it is that of the spare groups. -/
theorem spare_eq_spareAfter {rs : List (Nat × Gang)} {spare : Nat → Nat}
    (hs : ∀ (j : Nat) (r : Nat × Gang), rs[j]? = some r →
      spare (j + 1) = if r.2.alive.length ≤ spare j then spare j - r.2.alive.length else spare j)
    {i : Nat} (hi : i ≤ rs.length) : spare i = spareAfter rs (spare 0) i := by
  induction rs generalizing spare i with
  | nil => obtain rfl : i = 0 := by simpa using hi
           rfl
  | cons r rs ih =>
    cases i with
    | zero => rfl
    | succ i =>
      have h0 := hs 0 r rfl
      have hr := ih (spare := fun j => spare (j + 1)) (fun j r' hj => hs (j + 1) r' hj) (i := i) (by simpa using hi)
      rw [spareAfter, ← h0]
      exact hr

/-- One gang's turn in R44, step 2: the spare groups, and the share of gang `gi`. -/
def shareStep (gi f : Nat) (acc : Nat × Nat) (r : Nat × Gang) : Nat × Nat :=
  if r.2.alive.length ≤ acc.1 then (acc.1 - r.2.alive.length, if r.1 = gi then f + 1 else acc.2) else acc

theorem foldl_shareStep_other {gi f : Nat} {rs : List (Nat × Gang)} (h : gi ∉ rs.map (·.1)) (acc : Nat × Nat) :
    (rs.foldl (shareStep gi f) acc).2 = acc.2 := by
  induction rs generalizing acc with
  | nil => rfl
  | cons r rs ih =>
    simp only [List.map_cons, List.mem_cons, not_or] at h
    rw [List.foldl_cons, ih h.2, shareStep]
    split
    · rw [if_neg (Ne.symm h.1)]
    · rfl

/-- The share of a gang is one more where the spare groups at its turn are enough for its harts. -/
theorem foldl_shareStep {gi f : Nat} {rs : List (Nat × Gang)} (hn : (rs.map (·.1)).Nodup) {i : Nat} {r : Nat × Gang}
    (hr : rs[i]? = some r) (hg : r.1 = gi) (n : Nat) :
    (rs.foldl (shareStep gi f) (n, f)).2 = if r.2.alive.length ≤ spareAfter rs n i then f + 1 else f := by
  induction rs generalizing n i with
  | nil => simp at hr
  | cons x rs ih =>
    rw [List.map_cons, List.nodup_cons] at hn
    rw [List.foldl_cons]
    cases i with
    | zero =>
      obtain rfl : x = r := by simpa using hr
      rw [foldl_shareStep_other (hg ▸ hn.1), shareStep, if_pos hg, spareAfter]
      split <;> rfl
    | succ i =>
      have hx : x.1 ≠ gi := fun e => hn.1 (e ▸ hg ▸ List.mem_map_of_mem (List.mem_of_getElem? hr))
      have hstep : shareStep gi f (n, f) x = (if x.2.alive.length ≤ n then n - x.2.alive.length else n, f) := by
        rw [shareStep, if_neg hx]
        split <;> rfl
      rw [hstep, spareAfter]
      exact ih hn.2 hr _

/-- The fair share of a gang that is resident with a hart that has not ended (R44, steps 1 and 2). -/
theorem State.fairShare_eq {s : State} {gi x i fair : Nat} {g : Gang} {spare : Nat → Nat} (hg : s.gangs[gi]? = some g)
    (ha : g.alive ≠ []) (h0 : spare 0 = x - x / (((s.residents g.core).map fun r => r.2.alive.length).sum) *
      ((s.residents g.core).map fun r => r.2.alive.length).sum)
    (hs : ∀ (j : Nat) (r : Nat × Gang), (s.residents g.core)[j]? = some r →
      spare (j + 1) = if r.2.alive.length ≤ spare j then spare j - r.2.alive.length else spare j)
    (hi : ((s.residents g.core)[i]?).map (·.1) = some gi)
    (hf : fair = if g.alive.length ≤ spare i then x / ((s.residents g.core).map fun r => r.2.alive.length).sum + 1
      else x / ((s.residents g.core).map fun r => r.2.alive.length).sum) :
    s.fairShare gi x = fair := by
  obtain ⟨r, hr, hri⟩ := Option.map_eq_some_iff.1 hi
  obtain ⟨hrg, -, -⟩ := State.mem_residents.1 (List.mem_of_getElem? hr)
  obtain rfl : r.2 = g := by rw [hri, hg] at hrg; exact (Option.some.inj hrg).symm
  have hpos : ((s.residents r.2.core).map fun r => r.2.alive.length).sum ≠ 0 := by
    have hle := List.le_sum_of_mem (List.mem_map_of_mem (f := fun r : Nat × Gang => r.2.alive.length) (List.mem_of_getElem? hr))
    have := List.length_pos_of_ne_nil ha
    omega
  have hle : i ≤ (s.residents r.2.core).length := (List.getElem?_eq_some_iff.1 hr).1.le
  unfold State.fairShare
  rw [State.gangOf_of hg]
  dsimp only
  rw [if_neg hpos]
  refine (foldl_shareStep (s.nodup_residents _) hr hri _).trans ?_
  rw [hf, spare_eq_spareAfter hs hle, h0]

/-! Dealing. -/

/-- The groups that each hart is dealt (R44, steps 3 and 4). -/
theorem getElem?_dealGroups (n fair : Nat) (hs free : List Nat) (i : Nat) :
    (dealGroups n fair hs free)[i]? =
      (hs[i]?).map fun h => (h, ((free.drop (n * i)).take n).mapIdx fun j k => (k, decide (fair ≤ j))) := by
  induction hs generalizing free i with
  | nil => rfl
  | cons h hs ih =>
    cases i with
    | zero => rfl
    | succ i =>
      rw [dealGroups, List.getElem?_cons_succ, ih, List.getElem?_cons_succ, List.drop_drop, Nat.mul_succ, Nat.add_comm]

theorem map_fst_dealGroups (n fair : Nat) (hs free : List Nat) : (dealGroups n fair hs free).map (·.1) = hs := by
  induction hs generalizing free with
  | nil => rfl
  | cons h hs ih => rw [dealGroups, List.map_cons, ih]

/-- The fewest groups that a hart of the gang asks for (R44, step 3). -/
def Gang.asks (g : Gang) : Nat :=
  (g.alive.map fun n => match (g.hart n).wait with
    | .settle _ _ _ gb _ => gb.toNat % 16
    | _ => 8).foldl min 8

theorem foldl_min_eq {l : List Nat} {a m : Nat} (ha : m ≤ a) (hl : ∀ x ∈ l, m ≤ x) (hm : m = a ∨ m ∈ l) :
    l.foldl min a = m := by
  induction l generalizing a with
  | nil => simpa [eq_comm] using hm
  | cons x l ih =>
    obtain ⟨hx, hl⟩ := List.forall_mem_cons.1 hl
    refine ih (le_min ha hx) hl ?_
    rcases hm with rfl | hm
    · exact .inl (min_eq_left hx).symm
    · rcases List.mem_cons.1 hm with rfl | hm
      · exact .inl (min_eq_right ha).symm
      · exact .inr hm

theorem Gang.asks_eq {g : Gang} {kind gr : Nat}
    (hall : ∀ h ∈ g.alive, ∃ n, (∃ d ga gb w, (g.hart h).wait = .settle kind d ga gb w ∧ gb.toNat % 16 = n) ∧ gr ≤ n ∧ n ≤ 8)
    (hone : ∃ h ∈ g.alive, ∃ d ga gb w, (g.hart h).wait = .settle kind d ga gb w ∧ gb.toNat % 16 = gr) : g.asks = gr := by
  obtain ⟨h, hh, d, ga, gb, w, hw, hn⟩ := hone
  refine foldl_min_eq ?_ ?_ (.inr (List.mem_map.2 ⟨h, hh, by rw [hw]; exact hn⟩))
  · obtain ⟨n, -, h1, h2⟩ := hall h hh
    exact h1.trans h2
  · intro x hx
    obtain ⟨k, hk, rfl⟩ := List.mem_map.1 hx
    obtain ⟨n, ⟨d, ga, gb, w, hw, hn⟩, h1, -⟩ := hall k hk
    rw [hw]
    exact h1.trans_eq hn.symm

/-! The settlement. -/

/-- A hart's request granted (R201). -/
def Thread.granted (kind fair : Nat) (groups : List (Nat × Bool)) (t : Thread) : Thread :=
  match t.wait with
  | .settle _ r ga gb _ => { t with wait := .granted kind r ga gb fair groups }
  | _ => t

/-- RECALL clear at the gang that is settled, and set at the loans of others where it falls short (R44, step 5). -/
def State.noteLoans (s : State) (gi core : Nat) (short : Bool) : State :=
  { s with gangs := s.gangs.mapIdx fun i o =>
      if i = gi then { o with harts := o.harts.map fun t => { t with rcl := false } }
      else if short && o.core = core && decide (o.st = .resident) then
        { o with harts := o.harts.mapIdx fun j t => if s.onLoan i j then { t with rcl := true } else t }
      else o }

/-- With no change of lgmode written there is none to make. -/
theorem CoreSt.modeChanges_nil {c : CoreSt} (ha : c.acc = c.accNow) (ho : c.own = c.ownNow) (p : Nat → Bool) :
    c.modeChanges p = [] := by
  simp [CoreSt.modeChanges, ha, ho]

section
variable {s : State} {gi kind : Nat} {g : Gang} (hg : s.gangs[gi]? = some g)
  (hacc : (s.core g.core).acc = (s.core g.core).accNow) (hown : (s.core g.core).own = (s.core g.core).ownNow)
include hg hacc hown

theorem State.settleLgmode_eq : s.settleLgmode gi = s := by
  unfold State.settleLgmode State.changeModes
  dsimp only
  rw [State.gangOf_of hg, CoreSt.modeChanges_nil hacc hown, State.setModes_nil]

theorem State.ownChanges_nil : s.ownChanges gi = [] := by
  unfold State.ownChanges
  rw [State.gangOf_of hg, CoreSt.modeChanges_nil hacc hown]

/-- The settlement of a grant, step by step (R44). -/
theorem State.settleGrant_eq :
    let x := ((List.range 8).filter fun k => !(s.core g.core).accNow.getLsbD k).length
    let free := s.freeGroups g.core gi
    let n := min g.asks (free.length / g.alive.length)
    let fair := s.fairShare gi x
    let deal := dealGroups n fair g.alive free
    s.settleGrant gi kind = (deal.foldl (fun s d => s.modThread ⟨gi, .hart d.1⟩ (Thread.granted kind fair d.2))
      ((s.noteLoans gi g.core (decide (n < min g.asks fair))).modGang gi fun g => { g with qenNext := g.qenW })).modCore
        g.core fun c => { c with claims := c.claims ++ (deal.flatMap fun d => d.2.map fun k => (k.1, gi)) } := by
  unfold State.settleGrant
  dsimp only
  rw [State.settleLgmode_eq hg hacc hown, State.ownChanges_nil hg hacc hown, State.setModes_nil, State.gangOf_of hg]
  simp only [List.map_nil, List.append_nil]
  rfl

end

/-- Harts that have not ended, in ascending number. -/
theorem Gang.mem_alive {g : Gang} {h : Nat} : h ∈ g.alive ↔ ∃ t, g.harts[h]? = some t ∧ t.ended = false := by
  unfold Gang.alive
  rw [List.mem_filter, List.mem_range]
  constructor
  · rintro ⟨hl, he⟩
    rw [List.getElem?_eq_getElem hl] at he
    exact ⟨_, List.getElem?_eq_getElem hl, by simpa using he⟩
  · rintro ⟨t, ht, he⟩
    rw [ht]
    exact ⟨(List.getElem?_eq_some_iff.1 ht).1, by simpa using he⟩

theorem Gang.nodup_alive (g : Gang) : g.alive.Nodup := List.nodup_range.filter _

theorem Gang.hart_of {g : Gang} {h : Nat} {t : Thread} (ht : g.harts[h]? = some t) : g.hart h = t := by
  simp [Gang.hart, ht]

/-- The lane groups that a gang may be dealt (R44, step 3). -/
theorem State.freeGroups_eq (s : State) (core gi : Nat) : s.freeGroups core gi = (List.range 8).filter fun k =>
    !(s.core core).accNow.getLsbD k && !((s.core core).claims.any fun y => y.1 = k && y.2 ≠ gi) &&
      (((s.core core).lanes[k]?).getD none).all fun y => y.1 = gi := by
  unfold State.freeGroups
  dsimp only
  congr 1
  funext k
  cases (((s.core core).lanes[k]?).getD none) <;> rfl

/-- What a settlement gives each hart, and what it leaves and notes (R44). -/
theorem settleGrant_spec {s : State} {gi kind : Nat} {g : Gang} (hg : s.gangs[gi]? = some g)
    (hacc : (s.core g.core).acc = (s.core g.core).accNow) (hown : (s.core g.core).own = (s.core g.core).ownNow) :
    let fair := s.fairShare gi ((List.range 8).filter fun k => !(s.core g.core).accNow.getLsbD k).length
    let free := s.freeGroups g.core gi
    let n := min g.asks (free.length / g.alive.length)
    let u := s.settleGrant gi kind
    (∀ (i h : Nat), g.alive[i]? = some h → ∃ t', u.thread? ⟨gi, .hart h⟩ = some t' ∧ t'.rcl = false ∧
      ∀ d ga gb w, (g.hart h).wait = .settle kind d ga gb w → t'.wait =
        .granted kind d ga gb fair (((free.drop (n * i)).take n).mapIdx fun j k => (k, decide (fair ≤ j)))) ∧
    (n < min g.asks fair → ∀ (j k : Nat) (o : Gang) (t : Thread), j ≠ gi → s.gangs[j]? = some o → o.core = g.core →
      o.st = .resident → o.harts[k]? = some t → s.onLoan j k = true → ∃ t', u.thread? ⟨j, .hart k⟩ = some t' ∧
        t'.rcl = true) ∧
    (u.gangOf gi).qenNext = g.qenW ∧ u.mem = s.mem ∧ (u.core g.core).lanes = (s.core g.core).lanes := by
  intro fair free n u
  let deal := dealGroups n fair g.alive free
  let noted := s.noteLoans gi g.core (decide (n < min g.asks fair))
  have hu : u = (noted.modGang gi fun g => { g with
      qenNext := g.qenW
      harts := deal.foldl (fun l d => modifyAt l d.1 (Thread.granted kind fair d.2)) g.harts }).modCore g.core
      fun c => { c with claims := c.claims ++ (deal.flatMap fun d => d.2.map fun k => (k.1, gi)) } := by
    refine (State.settleGrant_eq hg hacc hown).trans ?_
    rw [State.foldl_modThread_hart gi Prod.fst (fun d => Thread.granted kind fair d.2), State.modGang_modGang]
  have hnoted (j : Nat) (o : Gang) (ho : s.gangs[j]? = some o) : noted.gangs[j]? = some (
      if j = gi then { o with harts := o.harts.map fun t => { t with rcl := false } }
      else if decide (n < min g.asks fair) && o.core = g.core && decide (o.st = .resident) then
        { o with harts := o.harts.mapIdx fun k t => if s.onLoan j k then { t with rcl := true } else t }
      else o) := by
    show (List.mapIdx _ _)[j]? = _
    rw [List.getElem?_mapIdx, ho]
    rfl
  have hgang : u.gangs[gi]? = some { g with
      qenNext := g.qenW
      harts := deal.foldl (fun l d => modifyAt l d.1 (Thread.granted kind fair d.2))
        (g.harts.map fun t => { t with rcl := false }) } := by
    rw [hu, State.modCore_gangs, State.getElem?_modGang, hnoted gi g hg]
    simp
  refine ⟨fun i h hh => ?_, fun hlt j k o t hj ho hc hst ht hk => ?_, ?_, ?_, ?_⟩
  · obtain ⟨t, ht, -⟩ := Gang.mem_alive.1 (List.mem_of_getElem? hh)
    have hmem : (h, ((free.drop (n * i)).take n).mapIdx fun j k => (k, decide (fair ≤ j))) ∈ deal :=
      List.mem_of_getElem? (by rw [getElem?_dealGroups, hh]; rfl)
    have hnodup : (deal.map (·.1)).Nodup := by rw [map_fst_dealGroups]; exact g.nodup_alive
    refine ⟨Thread.granted kind fair (((free.drop (n * i)).take n).mapIdx fun j k => (k, decide (fair ≤ j)))
      { t with rcl := false }, ?_, ?_, fun d ga gb w hw => ?_⟩
    · rw [State.thread?_of (a := ⟨gi, .hart h⟩) hgang]
      refine (getElem?_foldl_modifyAt_of_mem (fun d => Thread.granted kind fair d.2) hnodup hmem _).trans ?_
      rw [List.getElem?_map, ht]
      rfl
    · unfold Thread.granted
      split <;> rfl
    · rw [Gang.hart_of ht] at hw
      simp [Thread.granted, hw]
  · have hoj : u.gangs[j]? = some { o with harts := o.harts.mapIdx fun k t => if s.onLoan j k then { t with rcl := true } else t } := by
      rw [hu, State.modCore_gangs, State.getElem?_modGang, if_neg hj, hnoted j o ho, if_neg hj, if_pos (by simp [hlt, hc, hst])]
    refine ⟨{ t with rcl := true }, ?_, rfl⟩
    rw [State.thread?_of (a := ⟨j, .hart k⟩) hoj]
    show (List.mapIdx _ _)[k]? = _
    rw [List.getElem?_mapIdx, ht]
    simp [hk]
  · rw [State.gangOf_of hgang]
  · rw [hu]; rfl
  · rw [hu]
    refine State.lanes_modCore ?_ g.core
    exact fun _ => rfl

end Sys2Proof.Machine
end

section
/-! The settlement of TASKGET: what every hart is given, and the cursor that follows (R24, R31, R187). -/

namespace Sys2Proof.Machine

/-! The answer of a settlement. -/

/-- Every hart of a gang that has executed TASKGET goes on with a value; `g` is the gang before the settlement. -/
def State.Given (u : State) (gi : Nat) (g : Gang) (v : Word) : Prop :=
  ∀ (h : Nat) (t : Thread) (d : Nat) (ga gb : Word) (w : Word32), g.harts[h]? = some t →
    t.wait = .settle 2 d ga gb w → ∃ t', u.thread? ⟨gi, .hart h⟩ = some t' ∧ t'.wait = .none ∧ t'.pc = t.pc + 4 ∧
      ∀ r, t'.reg r = if r = d ∧ r ≠ 0 then v else t.reg r

/-- Where the harts have only been noted upon, the answer reaches all that wait. -/
theorem State.given_answerAll {s : State} {gi : Nat} {g g' : Gang} (hg : s.gangs[gi]? = some g')
    (hn : ∀ (h : Nat) (t : Thread), g.harts[h]? = some t → ∃ t', g'.harts[h]? = some t' ∧ t.Noted t') (v : Word) :
    (s.answerAll gi v).Given gi g v := by
  intro h t d ga gb w ht hw
  obtain ⟨t', ht', hnt⟩ := hn h t ht
  have hwt : t'.wait = .settle 2 d ga gb w := by rw [hnt]; exact hw
  refine ⟨(t'.setReg d v).wake, ?_, rfl, ?_, fun r => ?_⟩
  · unfold State.answerAll
    rw [State.thread?_modGang, if_pos rfl, hg]
    show (List.map _ g'.harts)[h]? = _
    rw [List.getElem?_map, ht', Option.map_some, hwt]
  · show (t'.setReg d v).pc + 4 = t.pc + 4
    rw [Thread.setReg_pc, hnt]
  · show (t'.setReg d v).reg r = _
    rw [Thread.reg_setReg, hnt]
    rfl

/-- The answer leaves the cursor of the gang. -/
theorem State.gangOf_answerAll {s : State} {gi : Nat} {g : Gang} (hg : s.gangs[gi]? = some g) (v : Word) :
    (s.answerAll gi v).gangOf gi = { g with harts := ((s.answerAll gi v).gangOf gi).harts } := by
  unfold State.answerAll State.gangOf
  rw [State.getElem?_modGang, if_pos rfl, hg]
  rfl

/-! The settlement, case by case. -/

/-- The agent for which the record that TASKGET begins is read. -/
def Gang.reader (g : Gang) (gi : Nat) : Agent := ⟨gi, .hart (g.alive.headD 0)⟩

/-- Beginning the record at an address: it is read, the cursor of the gang holds it, and every hart is given the address
(R24, R187). `take` is what is taken of the strips or of the queue. -/
def State.beginRecord (s : State) (gi : Nat) (g : Gang) (va : Word) (take : State → State) : State :=
  match s.readDwords (g.reader gi) (s.nowLevel (g.reader gi)) va.toNat 8 with
  | .error e => if e.code = cWAIT then s else s.raiseAll gi e.code e.addr
  | .ok (w, s) =>
    (((take s).modGang gi fun g => { g with panel := some (Panel.ofRecord w) }).modLaunch g.launch fun l =>
      { l with left := l.left - 1 }).answerAll gi va

/-- A launch with a queue on a core after its oldest record has been taken (R24). -/
def Launch.takeRecord (l : Launch) (core : Nat) : Launch :=
  l.modQueue core fun q => { q with recs := q.recs.drop 1 }

section
variable {s : State} {gi : Nat} {g : Gang} {l : Launch} (hg : s.gangs[gi]? = some g) (hl : s.launchOf g = some l)
include hg hl

/-- In a normal launch without panels there is nothing to get. -/
theorem State.settleTask_plain (hp : l.panels = false) (hd : l.determ = false) :
    s.settleTask gi = s.answerAll gi (BitVec.allOnes 64) := by
  unfold State.settleTask
  rw [State.gangOf_of hg]
  dsimp only
  rw [hl]
  simp only [hp, hd, Bool.false_eq_true, if_false]

/-- In a deterministic launch the strips of the slot are given one by one (R31). -/
theorem State.settleTask_determ (hd : l.determ = true) :
    let j := g.number * l.nstrip / l.cslots + g.strip
    let next (s : State) : State := s.modGang gi fun g => { g with strip := g.strip + 1 }
    s.settleTask gi =
      if (g.number + 1) * l.nstrip / l.cslots ≤ j then
        (if l.panels = true then s.modGang gi fun g => { g with panel := none } else s).answerAll gi (BitVec.allOnes 64)
      else if l.panels = true then s.beginRecord gi g (BitVec.ofNat 64 (l.dw 2 + 64 * j)) next
      else (next s).answerAll gi (BitVec.ofNat 64 j) := by
  unfold State.settleTask
  rw [State.gangOf_of hg]
  dsimp only
  rw [hl]
  simp only [hd, if_true]
  rfl

/-- In a normal panel launch with no record in the local queue there is none to begin. -/
theorem State.settleTask_none (hp : l.panels = true) (hd : l.determ = false)
    (hq : ∀ q, l.queueOn g.core = some q → q.recs = []) :
    s.settleTask gi = (s.modGang gi fun g => { g with panel := none }).answerAll gi (BitVec.allOnes 64) := by
  have hnone : ((l.queues.find? fun q => q.core = g.core).bind fun q => q.recs.head?) = none := by
    cases h : l.queues.find? fun q => q.core = g.core with
    | none => rfl
    | some q => rw [Option.bind_some, hq q h]; rfl
  unfold State.settleTask
  rw [State.gangOf_of hg]
  dsimp only
  rw [hl]
  simp only [hp, hd, Bool.false_eq_true, if_false, if_true, hnone]

/-- Else the oldest record of the local queue is begun. -/
theorem State.settleTask_record (hp : l.panels = true) (hd : l.determ = false) {q : TaskQueue} {va : Word} {o : Bool}
    {rest : List (Word × Bool)} (hq : l.queueOn g.core = some q) (hr : q.recs = (va, o) :: rest) :
    s.settleTask gi = s.beginRecord gi g va fun s => s.modLaunch g.launch fun l => l.takeRecord g.core := by
  have hsome : ((l.queues.find? fun q => q.core = g.core).bind fun q => q.recs.head?) = some (va, o) := by
    rw [show (l.queues.find? fun q => q.core = g.core) = some q from hq, Option.bind_some, hr]
    rfl
  unfold State.settleTask
  rw [State.gangOf_of hg]
  dsimp only
  rw [hl]
  simp only [hp, hd, Bool.false_eq_true, if_false, if_true, hsome]
  rfl

end

/-! What a record begun leaves. -/

theorem State.beginRecord_error {s : State} {gi : Nat} {g : Gang} {va : Word} {take : State → State} {e : MemErr}
    (hc : e.code ≠ cWAIT) (hr : s.readDwords (g.reader gi) (s.nowLevel (g.reader gi)) va.toNat 8 = .error e) :
    s.beginRecord gi g va take = s.raiseAll gi e.code e.addr := by
  unfold State.beginRecord
  rw [hr]
  exact if_neg hc

/-- What is taken for a record changes no thread: of the gang at most its strip, of the launches at most its own. -/
structure TakesOnly (gi : Nat) (g : Gang) (take : State → State) (strip : Nat) (f : Launch → Launch) : Prop where
  gang : ∀ (s : State) (g' : Gang), s.gangs[gi]? = some g' → g'.strip = g.strip →
    (take s).gangs[gi]? = some { g' with strip := strip }
  mem : ∀ s : State, (take s).mem = s.mem
  launch : ∀ s : State, (take s).launches[g.launch]? = (s.launches[g.launch]?).map f

theorem State.beginRecord_ok {s s1 : State} {gi : Nat} {g : Gang} {l : Launch} {va : Word} {take : State → State}
    {w : List Word} {strip : Nat} {f : Launch → Launch} (hg : s.gangs[gi]? = some g)
    (hl : s.launches[g.launch]? = some l) (ht : TakesOnly gi g take strip f)
    (hr : s.readDwords (g.reader gi) (s.nowLevel (g.reader gi)) va.toNat 8 = .ok (w, s1)) :
    let u := s.beginRecord gi g va take
    u.Given gi g va ∧ (u.gangOf gi).panel = some (Panel.ofRecord w) ∧ (u.gangOf gi).strip = strip ∧ u.mem = s.mem ∧
      u.launches[g.launch]? = some { f l with left := (f l).left - 1 } := by
  have hn := State.Noted.readDwords hr
  obtain ⟨g1, hg1, n1⟩ := hn.gang gi g hg
  have hs1 : g1.strip = g.strip := by rw [n1.rest]
  have hl1 : s1.launches = s.launches := by rw [hn.rest]
  have hm1 : s1.mem = s.mem := by rw [hn.rest]
  let s2 := ((take s1).modGang gi fun g => { g with panel := some (Panel.ofRecord w) }).modLaunch g.launch fun l =>
      { l with left := l.left - 1 }
  have hu : s.beginRecord gi g va take = s2.answerAll gi va := by
    unfold State.beginRecord
    rw [hr]
  have hg2 : s2.gangs[gi]? = some { g1 with strip := strip, panel := some (Panel.ofRecord w) } := by
    show ((take s1).modGang gi _).gangs[gi]? = _
    rw [State.getElem?_modGang, if_pos rfl, ht.gang s1 g1 hg1 hs1]
    rfl
  rw [hu]
  refine ⟨State.given_answerAll hg2 (fun h t ht => n1.thread (.hart h) t ht) va, ?_, ?_, (ht.mem s1).trans hm1, ?_⟩
  · rw [State.gangOf_answerAll hg2]
  · rw [State.gangOf_answerAll hg2]
  · show s2.launches[g.launch]? = _
    rw [State.getElem?_modLaunch, if_pos rfl]
    show Option.map _ ((take s1).launches[g.launch]?) = _
    rw [ht.launch, hl1, hl]
    rfl

/-- Taking the next strip. -/
theorem TakesOnly.strip (gi : Nat) (g : Gang) :
    TakesOnly gi g (fun s => s.modGang gi fun g => { g with strip := g.strip + 1 }) (g.strip + 1) id where
  gang s g' h hs := by rw [State.getElem?_modGang, if_pos rfl, h]; simp [hs]
  mem _ := rfl
  launch s := by simp

/-- Taking the oldest record. -/
theorem TakesOnly.record (gi : Nat) (g : Gang) :
    TakesOnly gi g (fun s => s.modLaunch g.launch fun l => l.takeRecord g.core) g.strip (·.takeRecord g.core) where
  gang s g' h hs := by rw [← hs]; exact h
  mem _ := rfl
  launch s := by rw [State.getElem?_modLaunch, if_pos rfl]

end Sys2Proof.Machine
end

section
/-! The statement on joining a collective settlement. -/

namespace Sys2Proof.Machine

/-- A settlement of TASKGET that begins no record: every hart is given a value, and the cursor is as the gang then holds it
(R187). -/
theorem State.answerAll_given {s : State} {gi : Nat} {g g' : Gang} (hg : s.gangs[gi]? = some g') (hh : g'.harts = g.harts)
    (v : Word) : (s.answerAll gi v).Given gi g v ∧ ((s.answerAll gi v).gangOf gi).panel = g'.panel ∧
      ((s.answerAll gi v).gangOf gi).strip = g'.strip ∧ (s.answerAll gi v).mem = s.mem := by
  refine ⟨State.given_answerAll hg (fun h t ht => ⟨t, hh ▸ ht, .refl t⟩) v, ?_, ?_, rfl⟩ <;> rw [State.gangOf_answerAll hg]

/-- A queue after its oldest record has been taken. -/
theorem Launch.queueOn_takeRecord {l : Launch} {core : Nat} {q : TaskQueue} (hq : l.queueOn core = some q) :
    (l.takeRecord core).queueOn core = some { q with recs := q.recs.drop 1 } := by
  unfold Launch.takeRecord
  rw [Launch.queueOn_modQueue_recs _ _ _ (·.drop 1), if_pos rfl, hq]
  rfl

/-- The panel record at an address is begun, or every hart raises what its read met (R24, R187). -/
theorem beginRecord_spec {s : State} {gi : Nat} {g : Gang} {l : Launch} {take : State → State} {strip : Nat}
    {f : Launch → Launch} (hg : s.gangs[gi]? = some g) (hl : s.launches[g.launch]? = some l)
    (ht : TakesOnly gi g take strip f) (hf : ∀ l, (f l).left = l.left) (va : Word) :
    let u := s.beginRecord gi g va take
    let record := s.readDwords (g.reader gi) (s.nowLevel (g.reader gi)) va.toNat 8
    (∀ w s1, record = .ok (w, s1) → u.Given gi g va ∧ ((u.gangOf gi).panel = some (Panel.ofRecord w) ∧
      (u.gangOf gi).strip = strip ∧ u.mem = s.mem) ∧ ((u.launches[g.launch]?).map (·.left)) = some (l.left - 1)) ∧
    (∀ e, e.code ≠ cWAIT → record = .error e → u = s.raiseAll gi e.code e.addr) := by
  refine ⟨fun w s1 hr => ?_, fun e he hr => State.beginRecord_error he hr⟩
  obtain ⟨hgiven, hp, hs, hm, hl'⟩ := State.beginRecord_ok hg hl ht hr
  exact ⟨hgiven, ⟨hp, hs, hm⟩, by rw [hl']; exact congrArg (fun n => some (n - 1)) (hf l)⟩

/-- Settles O35: joining is tried at each join, the grant follows R44, and TASKGET follows R187's table. -/
theorem collectiveJoin : Obligations.CollectiveJoin := by
  refine ⟨fun s gi h d a b hc hl hf => ?_, trySettle_spec, fun s gi kind gr fair g hg ha hcore => ?_,
    fun s gi g l hg hlo hl ha => ?_⟩
  · obtain ⟨htask, hset, hpanel⟩ := exec_collectives hc hl hf d a b
    refine ⟨htask, fun hleg => ?_, fun hleg => ?_, fun hleg hp => ?_, fun hn => ?_⟩
    · rw [hset, if_pos ((configOk_iff _).2 hleg)]
    · rw [hset, if_neg fun h => hleg ((configOk_iff _).1 h)]
    · obtain ⟨h1, h2, h3⟩ := hp
      rw [hpanel, if_pos (by simp [(configOk_iff _).2 hleg, h1, h2, h3])]
    · rw [hpanel, if_neg]
      rw [Bool.and_eq_true, Bool.and_eq_true, Bool.and_eq_true, configOk_iff, decide_eq_true_eq, decide_eq_true_eq]
      rintro ⟨⟨⟨hleg, h1⟩, h2⟩, h3⟩
      exact hn.elim (· hleg) (· ⟨h1, h2, h3⟩)
  · intro c rs groupsOf hacc hown hall hone x count hfair free n u
    obtain ⟨spare, i, h0, hs, hi, hf⟩ := hfair
    have hshare : s.fairShare gi x = fair := State.fairShare_eq hg ha h0 hs hi hf
    have hasks : g.asks = gr := Gang.asks_eq hall hone
    obtain ⟨hgrant, hloans, hrest⟩ := settleGrant_spec (kind := kind) hg hacc hown
    rw [hasks, State.freeGroups_eq, hshare] at hgrant hloans
    exact ⟨hgrant, hloans, hrest⟩
  · intro ones u given cursor first record begun lo hi j
    have answered {s2 : State} {v : Word} {p : Option Panel} {n : Nat} (hu : u = s2.answerAll gi v)
        (hg2 : s2.gangs[gi]? = some { g with panel := p, strip := n }) (hm : s2.mem = s.mem) : given v ∧ cursor p n := by
      obtain ⟨hv, hp, hn, hm'⟩ := State.answerAll_given (g := g) hg2 rfl v
      rw [← hu] at hv hp hn hm'
      exact ⟨hv, hp, hn, hm'.trans hm⟩
    have modified (f : Gang → Gang) : (s.modGang gi f).gangs[gi]? = some (f g) := by
      rw [State.getElem?_modGang, if_pos rfl, hg]
      rfl
    refine ⟨fun hp hd => ?_, fun hp hd hj => ?_, fun hp hd hj => ?_, fun hp hd hj => ?_, fun hp hd hj => ?_,
      fun hp hd hq => ?_, fun hp hd q va o rest hq hr => ?_⟩
    · exact answered (State.settleTask_plain hg hlo hp hd) hg rfl
    · refine answered ((State.settleTask_determ hg hlo hd).trans ?_) hg rfl
      rw [if_pos hj, if_neg (by simp [hp])]
    · refine answered ?_ (modified fun g => { g with strip := g.strip + 1 }) rfl
      refine (State.settleTask_determ hg hlo hd).trans ?_
      rw [if_neg (Nat.not_le.2 hj), if_neg (by simp [hp])]
    · refine answered ?_ (modified fun g => { g with panel := none }) rfl
      refine (State.settleTask_determ hg hlo hd).trans ?_
      rw [if_pos hj, if_pos hp]
    · have hu : u = _ := State.settleTask_determ hg hlo hd
      rw [if_neg (Nat.not_le.2 hj), if_pos hp] at hu
      have hb := beginRecord_spec hg hl (.strip gi g) (fun _ => rfl) (BitVec.ofNat 64 (l.dw 2 + 64 * j))
      dsimp only at hb
      rwa [← hu] at hb
    · exact answered (State.settleTask_none hg hlo hp hd hq) (modified _) rfl
    · have hu : u = _ := State.settleTask_record hg hlo hp hd hq hr
      have hb := beginRecord_spec hg hl (.record gi g) (fun _ => rfl) va
      dsimp only at hb
      rw [← hu] at hb
      refine ⟨hb, fun w s1 hw => ?_⟩
      obtain ⟨-, -, -, -, hl'⟩ := State.beginRecord_ok hg hl (.record gi g) hw
      rw [← hu] at hl'
      refine ⟨_, _, hl', Launch.queueOn_takeRecord hq, ?_⟩
      rw [hr]
      rfl

end Sys2Proof.Machine
end


/-! Lane grants taking effect: the harts' threads (01_work.md, R25, R46, R201, R202). -/

section
namespace Sys2Proof.Machine

/-- What a settlement granted a hart: the hart, the form, gd, ga, gb, the fair share, the groups, and whether its set of
groups changes. -/
abbrev GrantRow := Nat × Nat × Nat × Word × Word × Nat × List (Nat × Bool) × Bool

abbrev GrantRow.kind (x : GrantRow) : Nat := x.2.1
abbrev GrantRow.gd (x : GrantRow) : Nat := x.2.2.1
abbrev GrantRow.ga (x : GrantRow) : Word := x.2.2.2.1
abbrev GrantRow.gb (x : GrantRow) : Word := x.2.2.2.2.1
abbrev GrantRow.fair (x : GrantRow) : Nat := x.2.2.2.2.2.1
abbrev GrantRow.groups (x : GrantRow) : List (Nat × Bool) := x.2.2.2.2.2.2.1
abbrev GrantRow.chg (x : GrantRow) : Bool := x.2.2.2.2.2.2.2

def State.grantRow (s : State) (gi h : Nat) : Option GrantRow :=
  match ((s.gangOf gi).hart h).wait with
  | .granted kind d ga gb fair groups => some (h, kind, d, ga, gb, fair, groups, s.setChanges gi h groups)
  | _ => none

/-- The lane table and the queues as the grant leaves them, before any hart goes on. -/
def State.grantLanes (s : State) (gi : Nat) (rows : List GrantRow) : State :=
  let core := (s.gangOf gi).core
  rows.foldl (fun s x => s.giveGroups core gi x.1 x.groups)
    (((s.giveUpModes gi).freeLanes core fun x _ => x = gi).dropClaims core gi)

/-- qen as the settlement found it; a queue that it disables holds nothing more. -/
def Gang.enableQueues (g : Gang) : Gang :=
  let on (base : Nat) (qs : List (List Nat)) : List (List Nat) :=
    qs.mapIdx fun k q => if g.qenNext.getLsbD (base + k) then q else []
  let lq := on 0 g.lq
  let sq := on 8 g.sq
  { g with
    qen := g.qenNext, lq := lq, sq := sq
    ents := g.ents.filter fun e => e.claimed || !(g.lq ++ g.sq).flatten.contains e.id ||
      (lq ++ sq).flatten.contains e.id }

/-- The state in which the harts go on. -/
def State.grantBase (s : State) (gi : Nat) (rows : List GrantRow) : State :=
  (s.grantLanes gi rows).modGang gi Gang.enableQueues

/-- The strip that the cursor deals next, with the user word of its panel (R25). -/
def strip (c : Option Panel) (q w limit : Nat) : Option ((Nat × Nat × Nat × Nat × List Word) × Word) :=
  c.bind fun p => (p.deal q w limit).2.map fun x => (x, p.user)

/-- The cursor after a hart's strip. -/
def GrantRow.next (x : GrantRow) (w limit : Nat) (c : Option Panel) : Option Panel :=
  if x.kind = 0 then c else c.map fun p => (p.deal (x.ga.toNat % 32) w limit).1

/-- The strip's place, bases and user word in g56 to g61. -/
def Thread.stripRegs (t : Thread) (row0 col0 b0 b1 b2 user : Word) : Thread :=
  (((((t.setReg 56 row0).setReg 57 col0).setReg 58 b0).setReg 59 b1).setReg 60 b2).setReg 61 user

/-- A hart's vector registers, CHG, fair share and BLK. -/
def Thread.regrouped (t : Thread) (x : GrantRow) (nv w vlmax : Nat) : Thread :=
  let (_, _, _, _, gb, fair, _, chg) := x
  let t := if chg then t.resetVregs nv vlmax (Tag.default w) else t
  { t with chg := chg, fair := fair, blk := gb.toNat / 2 ^ 8 % 8 }

/-- A hart's length, MROWS and strip. -/
def Thread.sized (t : Thread) (x : GrantRow) (w limit : Nat) (c : Option Panel) : Thread :=
  let (_, kind, _, ga, gb, _, _, _) := x
  if kind = 0 then { t with vl := min ga.toNat limit, mrows := gb.toNat / 16 % 16 }
  else match strip c (ga.toNat % 32) w limit with
    | some ((vl, rows, row0, col0, bases), user) =>
      Thread.stripRegs { t with vl := vl, mrows := if rows = 0 then t.mrows else rows - 1 } (BitVec.ofNat 64 row0)
        (BitVec.ofNat 64 col0) ((bases[0]?).getD 0) ((bases[1]?).getD 0) ((bases[2]?).getD 0) user
    | none => Thread.stripRegs { t with vl := 0 } 0 0 0 0 0 0

/-- What the grant makes of a hart that waited for it. -/
def Thread.takeGrant (t : Thread) (x : GrantRow) (nv w vlmax limit : Nat) (c : Option Panel) : Thread :=
  let t := (t.regrouped x nv w vlmax).sized x w limit c
  (t.setReg x.gd (vsetvlWord t.vl x.chg)).wake

/-- The limit of a hart's length in a state (R42). -/
def State.limitOf (s : State) (gi h : Nat) : Nat := (s.gangOf gi).lengthLimit (s.lanes ⟨gi, .hart h⟩)

/-- One hart's turn, with the sizes that a state `b` gives. -/
def State.grantHart (b : State) (gi : Nat) (x : GrantRow) (c : Option Panel) (t : Thread) : Thread :=
  t.takeGrant x (b.gangOf gi).nv (b.gangOf gi).w (b.vlmax ⟨gi, .hart x.1⟩) (b.limitOf gi x.1) c

def State.grantCursor (b : State) (gi : Nat) (c : Option Panel) (x : GrantRow) : Option Panel :=
  x.next (b.gangOf gi).w (b.limitOf gi x.1) c

/-- One hart's turn. -/
def State.grantStep (gi : Nat) (acc : State × Option Panel) (x : GrantRow) : State × Option Panel :=
  (acc.1.modThread ⟨gi, .hart x.1⟩ (acc.1.grantHart gi x acc.2), acc.1.grantCursor gi acc.2 x)

/-- The cursor of the panel and ecap once every hart has had its turn. -/
def State.noteCursor (gi : Nat) (acc : State × Option Panel) : State :=
  acc.1.modGang gi fun g =>
    { g with
      panel := acc.2
      ecap := (g.alive.map fun h => g.lengthLimit (acc.1.lanes ⟨gi, .hart h⟩)).foldl max 0 }

theorem State.applyGrant_eq (s : State) (gi : Nat) :
    let rows := (s.gangOf gi).alive.filterMap (s.grantRow gi)
    s.applyGrant gi = State.noteCursor gi (rows.foldl (State.grantStep gi) (s.grantBase gi rows, (s.gangOf gi).panel)) := by
  unfold State.applyGrant
  dsimp only
  refine congrArg (State.noteCursor gi) ?_
  refine congrFun (congrArg₂ List.foldl (funext₂ fun acc x => ?_) rfl) _
  obtain ⟨s, c⟩ := acc
  obtain ⟨h, kind, d, ga, gb, fair, groups, chg⟩ := x
  unfold State.grantStep State.grantHart State.grantCursor GrantRow.next Thread.takeGrant Thread.sized
  dsimp only
  by_cases hk : kind = 0
  · simp only [hk, if_true]
    rfl
  · simp only [hk, if_false]
    cases c with
    | none => rfl
    | some p =>
      unfold strip State.limitOf
      simp only [Option.bind_some, Option.map_some]
      rcases hd : p.deal (ga.toNat % 32) (s.gangOf gi).w ((s.gangOf gi).lengthLimit (s.lanes ⟨gi, .hart h⟩)) with
        ⟨q, _ | ⟨vl, n, row0, col0, bases⟩⟩
      · rfl
      · refine Prod.ext (congrArg (State.modThread _ _) (funext fun t => ?_)) rfl
        simp only [Option.map_some, Thread.stripRegs, Thread.setReg_vl]
        cases chg <;> rfl

end Sys2Proof.Machine
end


/-! Lane grants taking effect: one hart's turn among the others (01_work.md, R25). -/

section
namespace Sys2Proof.Machine

/-- Two states give the harts of a gang the same lane groups and sizes. -/
structure State.SameSizes (gi : Nat) (b s : State) : Prop where
  cores : s.cores = b.cores
  sizes : ((s.gangOf gi).core, (s.gangOf gi).nv, (s.gangOf gi).w, (s.gangOf gi).qen, (s.gangOf gi).harts.length) =
    ((b.gangOf gi).core, (b.gangOf gi).nv, (b.gangOf gi).w, (b.gangOf gi).qen, (b.gangOf gi).harts.length)

theorem State.SameSizes.refl (gi : Nat) (s : State) : s.SameSizes gi s := ⟨rfl, rfl⟩

theorem State.SameSizes.modGang {gi : Nat} {b s : State} (h : b.SameSizes gi s) {f : Gang → Gang}
    (hf : ∀ g, ((f g).core, (f g).nv, (f g).w, (f g).qen, (f g).harts.length) = (g.core, g.nv, g.w, g.qen, g.harts.length)) :
    b.SameSizes gi (s.modGang gi f) := by
  refine ⟨h.cores, .trans ?_ h.sizes⟩
  unfold State.gangOf
  rw [State.getElem?_modGang, if_pos rfl]
  cases s.gangs[gi]? with
  | none => rfl
  | some g => exact hf g

theorem State.SameSizes.modThread {gi : Nat} {b s : State} (h : b.SameSizes gi s) (k : Nat) (f : Thread → Thread) :
    b.SameSizes gi (s.modThread ⟨gi, .hart k⟩ f) :=
  h.modGang fun g => by simp [Gang.modThread]

section
variable {gi : Nat} {b s : State} (h : b.SameSizes gi s)
include h

theorem State.SameSizes.nv : (s.gangOf gi).nv = (b.gangOf gi).nv := (Prod.mk.inj (Prod.mk.inj h.sizes).2).1

theorem State.SameSizes.w : (s.gangOf gi).w = (b.gangOf gi).w :=
  (Prod.mk.inj (Prod.mk.inj (Prod.mk.inj h.sizes).2).2).1

theorem State.SameSizes.lanes (k : Nat) : s.lanes ⟨gi, .hart k⟩ = b.lanes ⟨gi, .hart k⟩ := by
  obtain ⟨hcores, hsizes⟩ := h
  have hcore := (Prod.mk.inj hsizes).1
  simp only [State.lanes, State.lanesOf, State.core, hcores, hcore]

theorem State.SameSizes.vlmax (k : Nat) : s.vlmax ⟨gi, .hart k⟩ = b.vlmax ⟨gi, .hart k⟩ := by
  unfold State.vlmax
  dsimp only
  rw [h.lanes, h.nv, h.w]

theorem State.SameSizes.limitOf (k : Nat) : s.limitOf gi k = b.limitOf gi k := by
  have hl := h.lanes k
  have hs := h.sizes
  simp only [Prod.mk.injEq] at hs
  unfold State.limitOf Gang.lengthLimit
  simp only [hl, hs]

theorem State.SameSizes.grantHart (x : GrantRow) (c : Option Panel) : s.grantHart gi x c = b.grantHart gi x c := by
  funext t
  unfold State.grantHart
  rw [h.nv, h.w, h.vlmax, h.limitOf]

theorem State.SameSizes.grantCursor (x : GrantRow) (c : Option Panel) : s.grantCursor gi c x = b.grantCursor gi c x := by
  unfold State.grantCursor
  rw [h.w, h.limitOf]

end

/-- The harts with the cursor that each of them finds. -/
def withCursor {α β : Type} (next : β → α → β) : β → List α → List (α × β)
  | _, [] => []
  | c, x :: l => (x, c) :: withCursor next (next c x) l

theorem map_fst_withCursor {α β : Type} (next : β → α → β) (c : β) (l : List α) : (withCursor next c l).map (·.1) = l := by
  induction l generalizing c with
  | nil => rfl
  | cons x l ih => rw [withCursor, List.map_cons, ih]

theorem mem_withCursor {α β : Type} (next : β → α → β) (c : β) (l r : List α) (x : α) :
    (x, l.foldl next c) ∈ withCursor next c (l ++ x :: r) := by
  induction l generalizing c with
  | nil => exact List.mem_cons_self
  | cons y l ih => exact List.mem_cons_of_mem _ (ih (next c y))

/-- Each turn changes one hart, as the sizes of the first state and the cursor so far have it. -/
theorem State.foldl_grantStep {gi : Nat} {b s : State} (h : b.SameSizes gi s) (c : Option Panel) (l : List GrantRow) :
    l.foldl (State.grantStep gi) (s, c) =
      ((withCursor (b.grantCursor gi) c l).foldl
        (fun s y => s.modThread ⟨gi, .hart y.1.1⟩ (b.grantHart gi y.1 y.2)) s, l.foldl (b.grantCursor gi) c) := by
  induction l generalizing s c with
  | nil => rfl
  | cons x l ih =>
    have hstep : State.grantStep gi (s, c) x =
        (s.modThread ⟨gi, .hart x.1⟩ (b.grantHart gi x c), b.grantCursor gi c x) := by
      unfold State.grantStep
      dsimp only
      rw [h.grantHart, h.grantCursor]
    rw [List.foldl_cons, hstep, ih (h.modThread _ _)]
    rfl

/-! The rows of a settlement. -/

theorem State.grantRow_of {s : State} {gi h kind d fair : Nat} {ga gb : Word} {groups : List (Nat × Bool)}
    (hw : ((s.gangOf gi).hart h).wait = .granted kind d ga gb fair groups) :
    s.grantRow gi h = some (h, kind, d, ga, gb, fair, groups, s.setChanges gi h groups) := by
  unfold State.grantRow
  rw [hw]

theorem State.of_grantRow {s : State} {gi h : Nat} {x : GrantRow} (hx : s.grantRow gi h = some x) :
    x.1 = h ∧ ((s.gangOf gi).hart h).wait = .granted x.kind x.gd x.ga x.gb x.fair x.groups := by
  unfold State.grantRow at hx
  split at hx
  · cases hx
    exact ⟨rfl, ‹_›⟩
  · cases hx

/-- The rows of a list of harts keep its order. -/
theorem State.sublist_grantRows (s : State) (gi : Nat) (l : List Nat) :
    ((l.filterMap (s.grantRow gi)).map (·.1)).Sublist l := by
  induction l with
  | nil => exact .slnil
  | cons h l ih =>
    cases hx : s.grantRow gi h with
    | none => rw [List.filterMap_cons_none hx]; exact ih.cons h
    | some x =>
      rw [List.filterMap_cons_some hx, List.map_cons, (State.of_grantRow hx).1]
      exact ih.cons_cons h

/-- A hart's row stands between those of the harts before and after it. -/
theorem State.grantRows_split {s : State} {gi h : Nat} {x : GrantRow} {l : List Nat} (hx : s.grantRow gi h = some x) (hm : h ∈ l) :
    ∃ r, l.filterMap (s.grantRow gi) = (l.takeWhile (· ≠ h)).filterMap (s.grantRow gi) ++ x :: r := by
  induction l with
  | nil => cases hm
  | cons k l ih =>
    by_cases hk : k = h
    · subst hk
      exact ⟨l.filterMap (s.grantRow gi), by rw [List.filterMap_cons_some hx]; simp⟩
    · obtain ⟨r, hr⟩ := ih ((List.mem_cons.1 hm).resolve_left fun e => hk e.symm)
      refine ⟨r, ?_⟩
      rw [List.takeWhile_cons_of_pos (by simpa using hk)]
      cases hy : s.grantRow gi k with
      | none => rw [List.filterMap_cons_none hy, List.filterMap_cons_none hy, hr]
      | some y => rw [List.filterMap_cons_some hy, List.filterMap_cons_some hy, hr, List.cons_append]

end Sys2Proof.Machine
end


/-! Lane grants taking effect: the lane table (01_work.md, R43, R46). -/

section
namespace Sys2Proof.Machine

/-- A lane group after a hart is given its groups. -/
def giveLane (gi h : Nat) (groups : List (Nat × Bool)) (k : Nat) (l : Option (Nat × Nat × Bool)) : Option (Nat × Nat × Bool) :=
  match groups.find? fun x => x.1 = k with
  | some x => some (gi, h, x.2)
  | none => l

theorem giveLane_of_mem {gi h : Nat} {groups : List (Nat × Bool)} (hn : (groups.map (·.1)).Nodup) {x : Nat × Bool}
    (hx : x ∈ groups) (l : Option (Nat × Nat × Bool)) : giveLane gi h groups x.1 l = some (gi, h, x.2) := by
  unfold giveLane
  cases hf : groups.find? fun y => y.1 = x.1 with
  | none => exact absurd (List.find?_eq_none.1 hf x hx) (by simp)
  | some y =>
    have hy : y.1 = x.1 := by simpa using List.find?_some hf
    rw [List.inj_on_of_nodup_map hn (List.mem_of_find?_eq_some hf) hx hy]

theorem giveLane_of_notMem {gi h k : Nat} {groups : List (Nat × Bool)} (hk : ∀ x ∈ groups, x.1 ≠ k)
    (l : Option (Nat × Nat × Bool)) : giveLane gi h groups k l = l := by
  unfold giveLane
  rw [List.find?_eq_none.2 fun x hx => by simpa using hk x hx]

/-- A lane group either is one of the groups given, or stays as it was. -/
theorem giveLane_cases (gi h k : Nat) (groups : List (Nat × Bool)) (l : Option (Nat × Nat × Bool)) :
    (∃ loan, (k, loan) ∈ groups ∧ giveLane gi h groups k l = some (gi, h, loan)) ∨ giveLane gi h groups k l = l := by
  unfold giveLane
  cases hf : groups.find? fun x => x.1 = k with
  | none => exact .inr rfl
  | some x =>
    obtain rfl : x.1 = k := by simpa using List.find?_some hf
    exact .inl ⟨x.2, List.mem_of_find?_eq_some hf, rfl⟩

/-- A lane group after every row's groups are given. -/
def giveLanes (gi k : Nat) (rows : List GrantRow) (l : Option (Nat × Nat × Bool)) : Option (Nat × Nat × Bool) :=
  rows.foldl (fun l x => giveLane gi x.1 x.groups k l) l

theorem giveLanes_of_notMem {gi k : Nat} {rows : List GrantRow} (hk : ∀ y ∈ rows, ∀ x ∈ y.groups, x.1 ≠ k)
    (l : Option (Nat × Nat × Bool)) : giveLanes gi k rows l = l := by
  induction rows generalizing l with
  | nil => rfl
  | cons y rows ih =>
    obtain ⟨hy, hrows⟩ := List.forall_mem_cons.1 hk
    exact (ih hrows _).trans (giveLane_of_notMem hy l)

theorem giveLanes_cases (gi k : Nat) (rows : List GrantRow) (l : Option (Nat × Nat × Bool)) :
    (∃ y ∈ rows, ∃ loan, (k, loan) ∈ y.groups ∧ giveLanes gi k rows l = some (gi, y.1, loan)) ∨
      giveLanes gi k rows l = l := by
  induction rows generalizing l with
  | nil => exact .inr rfl
  | cons y rows ih =>
    rcases ih (giveLane gi y.1 y.groups k l) with ⟨z, hz, loan, hmem, heq⟩ | heq
    · exact .inl ⟨z, List.mem_cons_of_mem _ hz, loan, hmem, heq⟩
    · rcases giveLane_cases gi y.1 k y.groups l with ⟨loan, hmem, hy⟩ | hy
      · exact .inl ⟨y, List.mem_cons_self, loan, hmem, heq.trans hy⟩
      · exact .inr (heq.trans hy)

/-- The rows given in turn are one change of the lane table. -/
theorem State.foldl_giveGroups (core gi : Nat) (rows : List GrantRow) (s : State) :
    rows.foldl (fun s x => s.giveGroups core gi x.1 x.groups) s =
      s.modCore core fun c => { c with lanes := c.lanes.mapIdx fun k l => giveLanes gi k rows l } := by
  induction rows generalizing s with
  | nil =>
    have hid : ∀ c : CoreSt, { c with lanes := c.lanes.mapIdx fun k l => giveLanes gi k [] l } = c := fun c => by
      have : (c.lanes.mapIdx fun k l => giveLanes gi k [] l) = c.lanes :=
        List.ext_getElem? fun i => by simp [giveLanes]
      rw [this]
    unfold State.modCore
    rw [modifyAt_id s.cores core _ fun c _ => hid c]
    rfl
  | cons y rows ih =>
    rw [List.foldl_cons, ih]
    unfold State.giveGroups State.modCore
    dsimp only
    rw [modifyAt_modifyAt]
    simp only [List.mapIdx_mapIdx]
    rfl

theorem State.length_cores_modCore (s : State) (i : Nat) (f : CoreSt → CoreSt) :
    (s.modCore i f).cores.length = s.cores.length := length_modifyAt _ _ _

section
variable {s : State} {gi : Nat} {g : Gang} (hg : s.gangs[gi]? = some g) (rows : List GrantRow)
include hg

/-- A lane group of the core once the groups are given: what another gang's hart holds stays (R43). -/
theorem State.lanes_grantLanes (hc : g.core < s.cores.length) (k : Nat) :
    ((((s.grantLanes gi rows).core g.core).lanes[k]?).getD none) =
      if k < (s.core g.core).lanes.length then
        giveLanes gi k rows (((((s.core g.core).lanes[k]?).getD none)).filter fun x => !decide (x.1 = gi))
      else none := by
  have hcore (s1 : State) (h1 : s1.cores.length = s.cores.length) (f : CoreSt → CoreSt) :
      (s1.modCore g.core f).core g.core = f (s1.core g.core) := by
    rw [State.core_modCore, if_pos ⟨rfl, by omega⟩]
  have hlen : (s.giveUpModes gi).cores.length = s.cores.length := length_modifyAt _ _ _
  have hfree := State.lanes_freeLanes (s.giveUpModes gi) g.core (fun x _ => x = gi) k
  have hlanes : ((s.giveUpModes gi).core g.core).lanes = (s.core g.core).lanes := State.lanes_setModes _ _ _ _
  have hcount : (((s.giveUpModes gi).freeLanes g.core fun x _ => x = gi).core g.core).lanes.length =
      (s.core g.core).lanes.length := by
    unfold State.freeLanes
    rw [hcore _ hlen, List.length_map, hlanes]
  rw [hlanes] at hfree
  unfold State.grantLanes
  rw [State.gangOf_of hg]
  dsimp only
  rw [State.foldl_giveGroups, hcore _ (by rw [State.dropClaims, State.length_cores_modCore, State.freeLanes, State.length_cores_modCore, hlen])]
  unfold State.dropClaims
  rw [hcore _ (by rw [State.freeLanes, State.length_cores_modCore, hlen]), List.getElem?_mapIdx, ← hcount, ← hfree]
  split
  next hk => rw [List.getElem?_eq_getElem hk]; rfl
  next hk => rw [List.getElem?_eq_none (Nat.le_of_not_lt hk)]; rfl

/-- Of the gang it may reset the registers of the access-unit context. -/
theorem State.gangs_grantLanes : ∃ a, (s.grantLanes gi rows).gangs[gi]? = some { g with access := a } := by
  unfold State.grantLanes
  dsimp only
  rw [State.foldl_giveGroups]
  rcases State.gangs_setModes (s.gangOf gi).core (((s.core (s.gangOf gi).core).giving.filter fun x => x.1 = gi).map (·.2)) hg
    with h | h
  · exact ⟨_, h⟩
  · exact ⟨_, h⟩

omit hg in
theorem State.grantLanes_rest : (s.grantLanes gi rows).mem = s.mem ∧ (s.grantLanes gi rows).launches = s.launches := by
  unfold State.grantLanes
  dsimp only
  rw [State.foldl_giveGroups]
  exact ⟨rfl, rfl⟩

end

end Sys2Proof.Machine
end


/-! Lane grants taking effect: the state after every hart's turn (01_work.md, R46). -/

section
namespace Sys2Proof.Machine

theorem length_foldl_modifyAt_key {α β : Type} (key : β → Nat) (f : β → α → α) (L : List β) (l : List α) :
    (L.foldl (fun l d => modifyAt l (key d) (f d)) l).length = l.length := by
  induction L generalizing l with
  | nil => rfl
  | cons d L ih => rw [List.foldl_cons, ih, length_modifyAt]

section
variable {s : State} {gi : Nat} {g : Gang} (hg : s.gangs[gi]? = some g)
include hg

/-- The harts with their rows and the cursor each of them finds. -/
def State.turns (s : State) (gi : Nat) (rows : List GrantRow) : List (GrantRow × Option Panel) :=
  withCursor ((s.grantBase gi rows).grantCursor gi) (s.gangOf gi).panel rows

/-- The grant is one change of the gang, of whose harts each that waited has had its turn. -/
theorem State.applyGrant_turns :
    let rows := g.alive.filterMap (s.grantRow gi)
    let b := s.grantBase gi rows
    ∃ f : Gang → Gang, s.applyGrant gi = b.modGang gi f ∧ ∀ g : Gang, f g =
      { g with harts := (s.turns gi rows).foldl (fun l y => modifyAt l y.1.1 (b.grantHart gi y.1 y.2)) g.harts,
               panel := (f g).panel, ecap := (f g).ecap } := by
  have hfold := State.applyGrant_eq s gi
  rw [State.gangOf_of hg] at hfold
  dsimp only at hfold
  rw [State.foldl_grantStep (.refl gi _), State.foldl_modThread_hart, State.noteCursor, State.modGang_modGang] at hfold
  refine ⟨_, hfold, fun g' => ?_⟩
  rw [State.turns, State.gangOf_of hg]

theorem State.gangs_grantBase (rows : List GrantRow) :
    ∃ a, (s.grantBase gi rows).gangs[gi]? = some { g with access := a }.enableQueues := by
  obtain ⟨a, ha⟩ := State.gangs_grantLanes hg rows
  exact ⟨a, by unfold State.grantBase; rw [State.getElem?_modGang, if_pos rfl, ha]; rfl⟩

theorem State.sameSizes_applyGrant :
    (s.grantBase gi (g.alive.filterMap (s.grantRow gi))).SameSizes gi (s.applyGrant gi) := by
  obtain ⟨f, hu, hf⟩ := State.applyGrant_turns hg
  rw [hu]
  refine (State.SameSizes.refl gi _).modGang fun g' => ?_
  rw [hf g']
  simp [length_foldl_modifyAt_key]

theorem State.applyGrant_rest : (s.applyGrant gi).mem = s.mem ∧ (s.applyGrant gi).launches = s.launches ∧
    ((s.applyGrant gi).gangOf gi).qen = g.qenNext ∧ ((s.applyGrant gi).gangOf gi).tiles = g.tiles := by
  obtain ⟨f, hu, hf⟩ := State.applyGrant_turns hg
  obtain ⟨a, ha⟩ := State.gangs_grantBase hg (g.alive.filterMap (s.grantRow gi))
  obtain ⟨hmem, hlaunches⟩ := State.grantLanes_rest (s := s) (gi := gi) (g.alive.filterMap (s.grantRow gi))
  have hgang : (s.applyGrant gi).gangOf gi = f { g with access := a }.enableQueues := by
    rw [hu]
    refine State.gangOf_of ?_
    rw [State.getElem?_modGang, if_pos rfl, ha]
    rfl
  rw [hgang, hf, hu]
  exact ⟨hmem, hlaunches, rfl, rfl⟩

/-- The hart that a row grants has its turn, at the cursor that the harts before it have left. -/
theorem State.thread?_applyGrant {h : Nat} {t : Thread} {x : GrantRow} (ht : g.harts[h]? = some t) (he : t.ended = false)
    (hx : s.grantRow gi h = some x) :
    let rows := g.alive.filterMap (s.grantRow gi)
    let b := s.grantBase gi rows
    (s.applyGrant gi).thread? ⟨gi, .hart h⟩ =
      some (b.grantHart gi x ((((g.alive.takeWhile (· ≠ h)).filterMap (s.grantRow gi)).foldl (b.grantCursor gi) g.panel)) t) := by
  intro rows b
  obtain ⟨f, hu, hf⟩ := State.applyGrant_turns hg
  obtain ⟨a, ha⟩ := State.gangs_grantBase hg rows
  obtain ⟨r, hr⟩ := State.grantRows_split hx (Gang.mem_alive.2 ⟨t, ht, he⟩)
  have hkey : x.1 = h := (State.of_grantRow hx).1
  have hmem := mem_withCursor (b.grantCursor gi) g.panel ((g.alive.takeWhile (· ≠ h)).filterMap (s.grantRow gi)) r x
  rw [← hr] at hmem
  have hnodup : ((s.turns gi rows).map fun y => y.1.1).Nodup := by
    unfold State.turns
    rw [show (fun y : GrantRow × Option Panel => y.1.1) = (fun x : GrantRow => x.1) ∘ Prod.fst from rfl, ← List.map_map,
      map_fst_withCursor]
    exact (State.sublist_grantRows s gi g.alive).nodup g.nodup_alive
  rw [hu]
  unfold State.modGang State.thread?
  rw [getElem?_modifyAt, if_pos rfl, ha]
  rw [Option.map_some, hf]
  have hmem' : (x, ((g.alive.takeWhile (· ≠ h)).filterMap (s.grantRow gi)).foldl (b.grantCursor gi) g.panel) ∈ s.turns gi rows := by
    unfold State.turns
    rw [State.gangOf_of hg]
    exact hmem
  have hone := getElem?_foldl_modifyAt_of_mem (key := fun y : GrantRow × Option Panel => y.1.1)
    (fun y => b.grantHart gi y.1 y.2) hnodup hmem' g.harts
  rw [hkey, ht] at hone
  exact hone

end

end Sys2Proof.Machine
end


/-! Lane grants taking effect: registers, lengths and strips of one hart (01_work.md, R46; 08_vector.md, R201 to R203). -/

section
namespace Sys2Proof.Machine

/-- A thread but for its scalar registers, vl and MROWS. -/
def Thread.Sized (t u : Thread) : Prop := u = { t with vl := u.vl, mrows := u.mrows, regs := u.regs }

theorem Thread.Sized.trans {t u v : Thread} (h : t.Sized u) (k : u.Sized v) : t.Sized v := by
  unfold Thread.Sized at *
  rw [k, h]

theorem Thread.Sized.setReg {t u : Thread} (h : t.Sized u) (r : Nat) (v : Word) : t.Sized (u.setReg r v) := by
  refine h.trans ?_
  unfold Thread.setReg
  split <;> rfl

theorem Thread.Sized.stripRegs {t u : Thread} (h : t.Sized u) (a b c d e f : Word) : t.Sized (u.stripRegs a b c d e f) :=
  (((((h.setReg 56 a).setReg 57 b).setReg 58 c).setReg 59 d).setReg 60 e).setReg 61 f

/-- g56 to g61 hold the strip, and no other register changes. -/
theorem Thread.reg_stripRegs (t : Thread) (a b c d e f : Word) (r : Nat) :
    (t.stripRegs a b c d e f).reg r = if r = 61 then f else if r = 60 then e else if r = 59 then d else
      if r = 58 then c else if r = 57 then b else if r = 56 then a else t.reg r := by
  unfold Thread.stripRegs
  simp only [Thread.reg_setReg]
  have hne (n : Nat) (hn : n ≠ 0) : (r = n ∧ r ≠ 0) = (r = n) := propext ⟨And.left, fun h => ⟨h, h ▸ hn⟩⟩
  simp only [hne _ (by decide : (61 : Nat) ≠ 0), hne _ (by decide : (60 : Nat) ≠ 0), hne _ (by decide : (59 : Nat) ≠ 0),
    hne _ (by decide : (58 : Nat) ≠ 0), hne _ (by decide : (57 : Nat) ≠ 0), hne _ (by decide : (56 : Nat) ≠ 0)]

section
variable (t : Thread) (x : GrantRow) (nv w vlmax limit : Nat) (c : Option Panel)

theorem Thread.regrouped_eq : t.regrouped x nv w vlmax =
    { t with vregs := (t.regrouped x nv w vlmax).vregs, chg := x.chg, fair := x.fair,
             blk := x.gb.toNat / 2 ^ 8 % 8 } := by
  unfold Thread.regrouped
  dsimp only
  split <;> rfl

theorem Thread.sized_sized : t.Sized (t.sized x w limit c) := by
  unfold Thread.sized
  dsimp only
  split
  · rfl
  · split
    · exact Thread.Sized.stripRegs (by rfl) _ _ _ _ _ _
    · exact Thread.Sized.stripRegs (by rfl) _ _ _ _ _ _

/-- The fields of a hart's thread that the grant leaves alone, and those that it sets whatever its form. -/
theorem Thread.takeGrant_eq : ∃ u : Thread, t.takeGrant x nv w vlmax limit c = u.wake ∧
    u = { t with vregs := (t.regrouped x nv w vlmax).vregs, chg := x.chg, fair := x.fair,
                 blk := x.gb.toNat / 2 ^ 8 % 8, vl := u.vl, mrows := u.mrows, regs := u.regs } := by
  refine ⟨_, rfl, ?_⟩
  have h := ((t.regrouped x nv w vlmax).sized_sized x w limit c).setReg x.gd
    (vsetvlWord ((t.regrouped x nv w vlmax).sized x w limit c).vl x.chg)
  have ht := t.regrouped_eq x nv w vlmax
  generalize ((t.regrouped x nv w vlmax).sized x w limit c).setReg x.gd _ = u at h ⊢
  generalize t.regrouped x nv w vlmax = t' at h ht ⊢
  refine Eq.trans h ?_
  rw [ht]

theorem Thread.takeGrant_fields :
    let u := t.takeGrant x nv w vlmax limit c
    u.blk = x.gb.toNat / 256 % 8 ∧ u.chg = x.chg ∧ u.fair = x.fair ∧ u.rcl = t.rcl ∧
      u.wait = .none ∧ u.pc = t.pc + 4 ∧ u.vregs = (t.regrouped x nv w vlmax).vregs ∧ u.vq = t.vq ∧ u.mq = t.mq ∧
      u.frm = t.frm ∧ u.fflags = t.fflags := by
  obtain ⟨v, hv, hrest⟩ := t.takeGrant_eq x nv w vlmax limit c
  rw [hv, hrest]
  exact ⟨rfl, rfl, rfl, rfl, rfl, rfl, rfl, rfl, rfl, rfl, rfl⟩

/-- Of the scalar registers gd is written last. -/
theorem Thread.reg_takeGrant (r : Nat) :
    (t.takeGrant x nv w vlmax limit c).reg r = if r = x.gd ∧ r ≠ 0 then
      vsetvlWord (t.takeGrant x nv w vlmax limit c).vl x.chg else ((t.regrouped x nv w vlmax).sized x w limit c).reg r := by
  have hvl : (t.takeGrant x nv w vlmax limit c).vl = ((t.regrouped x nv w vlmax).sized x w limit c).vl :=
    Thread.setReg_vl _ _ _
  rw [hvl]
  exact Thread.reg_setReg _ _ _ _

/-- Through VSETVL the length is the smaller of ga and the limit, and MROWS is gb's (R42, R201). -/
theorem Thread.takeGrant_vsetvl (hk : x.kind = 0) :
    (t.takeGrant x nv w vlmax limit c).vl = min x.ga.toNat limit ∧
      (t.takeGrant x nv w vlmax limit c).mrows = x.gb.toNat / 16 % 16 ∧
      ∀ r, r ≠ x.gd → (t.takeGrant x nv w vlmax limit c).reg r = t.reg r := by
  have hsized : (t.regrouped x nv w vlmax).sized x w limit c = { t.regrouped x nv w vlmax with
      vl := min x.ga.toNat limit, mrows := x.gb.toNat / 16 % 16 } := by
    unfold Thread.sized
    dsimp only
    rw [if_pos hk]
  refine ⟨?_, ?_, fun r hr => ?_⟩
  · exact (Thread.setReg_vl _ _ _).trans (by rw [hsized])
  · exact (Thread.setReg_mrows _ _ _).trans (by rw [hsized])
  · rw [Thread.reg_takeGrant, if_neg fun h => hr h.1, hsized, Thread.regrouped_eq]
    rfl

/-- Without a strip the length is zero and zeros stand in g56 to g61 (R203). -/
theorem Thread.takeGrant_noStrip (hk : x.kind ≠ 0) (hs : strip c (x.ga.toNat % 32) w limit = none) :
    (t.takeGrant x nv w vlmax limit c).vl = 0 ∧ (t.takeGrant x nv w vlmax limit c).mrows = t.mrows ∧
      ∀ r, r ≠ x.gd → (t.takeGrant x nv w vlmax limit c).reg r = if 56 ≤ r ∧ r ≤ 61 then 0 else t.reg r := by
  have hsized : (t.regrouped x nv w vlmax).sized x w limit c =
      Thread.stripRegs { t.regrouped x nv w vlmax with vl := 0 } 0 0 0 0 0 0 := by
    unfold Thread.sized
    dsimp only
    rw [if_neg hk, hs]
  refine ⟨?_, ?_, fun r hr => ?_⟩
  · exact (Thread.setReg_vl _ _ _).trans (by rw [hsized]; rfl)
  · exact (Thread.setReg_mrows _ _ _).trans (by rw [hsized, Thread.regrouped_eq]; rfl)
  · rw [Thread.reg_takeGrant, if_neg fun h => hr h.1, hsized, Thread.reg_stripRegs, Thread.regrouped_eq]
    have hreg : Thread.reg { t with
      vregs := (t.regrouped x nv w vlmax).vregs, chg := x.chg, fair := x.fair,
      blk := x.gb.toNat / 2 ^ 8 % 8, vl := 0 } r = t.reg r := rfl
    rw [hreg]
    grind

/-- With a strip, its columns are the length, its rows MROWS, and g56 to g61 hold its place, bases and user word (R203). -/
theorem Thread.takeGrant_strip (hk : x.kind ≠ 0) {n rows row0 col0 : Nat} {bases : List Word} {user : Word}
    (hs : strip c (x.ga.toNat % 32) w limit = some ((n, rows, row0, col0, bases), user)) :
    (t.takeGrant x nv w vlmax limit c).vl = n ∧
      (t.takeGrant x nv w vlmax limit c).mrows = (if rows = 0 then t.mrows else rows - 1) ∧
      ∀ r, r ≠ x.gd → (t.takeGrant x nv w vlmax limit c).reg r =
        if r = 61 then user else if r = 60 then (bases[2]?).getD 0 else if r = 59 then (bases[1]?).getD 0 else
        if r = 58 then (bases[0]?).getD 0 else if r = 57 then BitVec.ofNat 64 col0 else
        if r = 56 then BitVec.ofNat 64 row0 else t.reg r := by
  have hsized : (t.regrouped x nv w vlmax).sized x w limit c = Thread.stripRegs { t.regrouped x nv w vlmax with
      vl := n, mrows := if rows = 0 then (t.regrouped x nv w vlmax).mrows else rows - 1 } (BitVec.ofNat 64 row0)
        (BitVec.ofNat 64 col0) ((bases[0]?).getD 0) ((bases[1]?).getD 0) ((bases[2]?).getD 0) user := by
    unfold Thread.sized
    dsimp only
    rw [if_neg hk, hs]
  refine ⟨?_, ?_, fun r hr => ?_⟩
  · exact (Thread.setReg_vl _ _ _).trans (by rw [hsized]; rfl)
  · exact (Thread.setReg_mrows _ _ _).trans (by rw [hsized, Thread.regrouped_eq]; rfl)
  · rw [Thread.reg_takeGrant, if_neg fun h => hr h.1, hsized, Thread.reg_stripRegs, Thread.regrouped_eq]
    rfl

end

/-! Vector registers (R46, R49). -/

theorem Sparse.get_const {w : Nat} (n : Nat) (v : BitVec w) (e : Nat) :
    Sparse.get ((List.range n).map fun i => (i, v)) e = 0 ∨ Sparse.get ((List.range n).map fun i => (i, v)) e = v := by
  generalize List.range n = l
  induction l with
  | nil => exact .inl rfl
  | cons i l ih =>
    rw [List.map_cons, Sparse.get]
    split
    · exact .inr rfl
    · exact ih

theorem get_zeroData (t : Tag) (n e : Nat) : (zeroData t n).get e = 0 ∨ t = .l6 ∧ (zeroData t n).get e = 0x10 := by
  unfold zeroData
  split
  · exact (Sparse.get_const n 0x10#64 e).imp_right fun h => ⟨‹_›, h⟩
  · exact .inl rfl

theorem Thread.vregs_resetVregs (t : Thread) (nv vlmax : Nat) (base : Tag) :
    (t.resetVregs nv vlmax base).vregs.length = nv ∧ ∀ r ∈ (t.resetVregs nv vlmax base).vregs, r.tag = r.decl ∧
      ∀ e, r.data.get e = 0 ∨ r.tag = .l6 ∧ r.data.get e = 0x10 := by
  unfold Thread.resetVregs
  refine ⟨by simp, fun r hr => ?_⟩
  obtain ⟨n, -, rfl⟩ := List.mem_map.1 hr
  exact ⟨rfl, fun e => get_zeroData _ _ e⟩

end Sys2Proof.Machine
end


/-! Lane grants taking effect (01_work.md, R25, R43, R46; 08_vector.md, R201 to R203). -/

section
namespace Sys2Proof.Machine

/-- A strip of a panel, and when there is none (R25). -/
theorem Panel.deal_spec (p : Panel) (q w limit : Nat) :
    let fresh := decide (p.col0 = p.ncols ∨ p.band = 0)
    let row0 := if fresh then p.row0 + p.band else p.row0
    let col0 := if fresh then 0 else p.col0
    let band := if fresh then min q (p.nrows - row0) else p.band
    let n := min limit (p.ncols - col0)
    let base (k : Nat) : Word := if k < p.nbase then (p.bases[k]?).getD 0 + BitVec.ofInt 64 (row0 * (p.lds[k]?).getD 0) +
      BitVec.ofNat 64 (col0 * w) else 0
    (p.nrows = 0 ∨ p.ncols = 0 ∨ p.nrows ≤ row0 ∨ n = 0 → (p.deal q w limit).2 = none) ∧
    (p.nrows ≠ 0 → p.ncols ≠ 0 → row0 < p.nrows → n ≠ 0 → p.deal q w limit =
      ({ p with row0 := row0, col0 := col0 + n, band := band }, some (n, band, row0, col0, [base 0, base 1, base 2]))) := by
  unfold Panel.deal
  by_cases hf : p.col0 = p.ncols ∨ p.band = 0
  · have hb : (decide (p.col0 = p.ncols) || decide (p.band = 0)) = true := by simpa using hf
    simp only [hf, hb, decide_true, if_true]
    refine ⟨fun h => ?_, fun h1 h2 h3 h4 => ?_⟩
    · split
      · rfl
      · rename_i hn
        simp only [Bool.or_eq_true, decide_eq_true_eq, not_or] at hn
        rw [if_pos (by tauto)]
    · rw [if_neg (by simp [h1, h2]; omega), if_neg h4]
  · have hb : ¬ (decide (p.col0 = p.ncols) || decide (p.band = 0)) = true := by simpa using hf
    simp only [hf, hb, decide_false, if_false, Bool.false_eq_true]
    refine ⟨fun h => ?_, fun h1 h2 h3 h4 => ?_⟩
    · split
      · rfl
      · rename_i hn
        simp only [Bool.or_eq_true, decide_eq_true_eq, not_or] at hn
        rw [if_pos (by tauto)]
    · rw [if_neg (by simp [h1, h2]; omega), if_neg h4]

/-- A lane group of the core after a grant (R43). -/
theorem State.lane_applyGrant {s : State} {gi : Nat} {g : Gang} (hg : s.gangs[gi]? = some g) (hc : g.core < s.cores.length)
    (k : Nat) : ((((s.applyGrant gi).core g.core).lanes[k]?).getD none) =
      if k < (s.core g.core).lanes.length then
        giveLanes gi k (g.alive.filterMap (s.grantRow gi))
          ((((s.core g.core).lanes[k]?).getD none).filter fun x => !decide (x.1 = gi))
      else none := by
  rw [← State.lanes_grantLanes hg _ hc]
  show (((((s.applyGrant gi).cores[g.core]?).getD .reset).lanes[k]?).getD none) = _
  rw [(State.sameSizes_applyGrant hg).cores]
  rfl

section
variable {s : State} {gi h kind d fair : Nat} {g : Gang} {t : Thread} {ga gb : Word} {groups : List (Nat × Bool)}
  (hg : s.gangs[gi]? = some g) (ht : g.harts[h]? = some t) (he : t.ended = false)
  (hw : t.wait = .granted kind d ga gb fair groups)
include hg ht he hw

/-- The hart holds exactly the lane groups that its settlement gave it (R46). -/
theorem State.lanes_applyGrant (hc : g.core < s.cores.length) (hn : (groups.map (·.1)).Nodup)
    (hlt : ∀ x ∈ groups, x.1 < (s.core g.core).lanes.length)
    (hdis : ∀ k d' gb' ga' f gs, k ≠ h → (g.hart k).wait = .granted kind d' ga' gb' f gs → ∀ x ∈ groups, ∀ y ∈ gs, x.1 ≠ y.1)
    (hall : ∀ k ∈ g.alive, ∃ d' ga' gb' f gs, (g.hart k).wait = .granted kind d' ga' gb' f gs) :
    let lane (k : Nat) : Option (Nat × Nat × Bool) := ((((s.applyGrant gi).core g.core).lanes[k]?).getD none)
    (∀ x ∈ groups, lane x.1 = some (gi, h, x.2)) ∧ ∀ k loan, lane k = some (gi, h, loan) → (k, loan) ∈ groups := by
  intro lane
  have hrow := State.grantRow_of (s := s) (gi := gi) (h := h) (by rw [State.gangOf_of hg, Gang.hart_of ht]; exact hw)
  obtain ⟨r, hr⟩ := State.grantRows_split hrow (Gang.mem_alive.2 ⟨t, ht, he⟩)
  have hlane : ∀ k, lane k = _ := State.lane_applyGrant hg hc
  have hkeys : ((g.alive.filterMap (s.grantRow gi)).map (·.1)).Nodup := (State.sublist_grantRows s gi g.alive).nodup g.nodup_alive
  have hrows : ∀ y ∈ g.alive.filterMap (s.grantRow gi), ∃ k ∈ g.alive, s.grantRow gi k = some y := fun y hy =>
    List.mem_filterMap.1 hy
  refine ⟨fun x hx => ?_, fun k loan hk => ?_⟩
  · have hlater : ∀ y ∈ r, ∀ z ∈ y.groups, z.1 ≠ x.1 := fun y hy z hz => by
      have hy' : y ∈ g.alive.filterMap (s.grantRow gi) := by rw [hr]; simp [hy]
      obtain ⟨k, hk, hky⟩ := hrows y hy'
      obtain ⟨hfst, hwait⟩ := State.of_grantRow hky
      rw [State.gangOf_of hg] at hwait
      have hne : k ≠ h := fun e => by
        rw [hr, List.map_append, List.map_cons] at hkeys
        have := (List.nodup_cons.1 (List.nodup_append.1 hkeys).2.1).1
        exact this (List.mem_map.2 ⟨y, hy, hfst.trans e⟩)
      obtain ⟨d', ga', gb', f, gs, hgs⟩ := hall k hk
      have heq := hwait.symm.trans hgs
      injection heq with h1 h2 h3 h4 h5 h6
      exact fun e => hdis k _ _ _ _ _ hne hgs x hx z (h6 ▸ hz) e.symm
    rw [hlane, if_pos (hlt x hx), hr]
    unfold giveLanes
    rw [List.foldl_append, List.foldl_cons]
    exact (giveLanes_of_notMem hlater _).trans (giveLane_of_mem hn hx _)
  · rw [hlane] at hk
    split at hk
    · rcases giveLanes_cases gi k (g.alive.filterMap (s.grantRow gi))
        ((((s.core g.core).lanes[k]?).getD none).filter fun x => !decide (x.1 = gi)) with ⟨y, hy, loan', hmem, heq⟩ | heq
      · obtain ⟨k', -, hky⟩ := hrows y hy
        have hk' := heq.symm.trans hk
        simp only [Option.some.injEq, Prod.mk.injEq, true_and] at hk'
        have : k' = h := (State.of_grantRow hky).1.symm.trans hk'.1
        subst this
        rw [hrow] at hky
        cases hky
        exact hk'.2 ▸ hmem
      · rw [heq] at hk
        have := (Option.filter_eq_some_iff.1 hk).2
        simp at this
    · cases hk

end

end Sys2Proof.Machine
end


/-! What a lane grant gives each hart (01_work.md, R25, R46; 08_vector.md, R201 to R203). -/

section
namespace Sys2Proof.Machine

section
variable {s : State} {gi : Nat} {g : Gang} (hg : s.gangs[gi]? = some g)
include hg

theorem State.sizes_grantBase (rows : List GrantRow) :
    ((s.grantBase gi rows).gangOf gi).w = g.w ∧ ((s.grantBase gi rows).gangOf gi).nv = g.nv := by
  obtain ⟨a, ha⟩ := State.gangs_grantBase hg rows
  rw [State.gangOf_of ha]
  exact ⟨rfl, rfl⟩

/-- One hart's turn, with the sizes that the grant leaves. -/
theorem State.thread?_applyGrant_takeGrant {h : Nat} {t : Thread} {x : GrantRow} (ht : g.harts[h]? = some t)
    (he : t.ended = false) (hx : s.grantRow gi h = some x) :
    ∃ vlmax, (s.applyGrant gi).thread? ⟨gi, .hart h⟩ = some (t.takeGrant x g.nv g.w vlmax ((s.applyGrant gi).limitOf gi h)
      ((((g.alive.takeWhile (· ≠ h)).filterMap (s.grantRow gi)).foldl
        ((s.grantBase gi (g.alive.filterMap (s.grantRow gi))).grantCursor gi) g.panel))) := by
  obtain ⟨hw, hnv⟩ := State.sizes_grantBase hg (g.alive.filterMap (s.grantRow gi))
  have hturn := State.thread?_applyGrant hg ht he hx
  unfold State.grantHart at hturn
  dsimp only at hturn
  rw [hw, hnv, ← (State.sameSizes_applyGrant hg).limitOf, (State.of_grantRow hx).1] at hturn
  exact ⟨_, hturn⟩

/-- Where every hart waits through VSETVL.P with one q, the cursor passes from hart to hart in ascending number (R203). -/
theorem State.foldl_grantCursor {q : Nat} {l : List Nat} (hl : ∀ k ∈ l, ∃ d' ga' gb' f gs,
      (g.hart k).wait = .granted 1 d' ga' gb' f gs ∧ ga'.toNat % 32 = q) (c : Option Panel) :
    (l.filterMap (s.grantRow gi)).foldl ((s.grantBase gi (g.alive.filterMap (s.grantRow gi))).grantCursor gi) c =
      l.foldl (fun c k => c.map fun p => (p.deal q g.w ((s.applyGrant gi).limitOf gi k)).1) c := by
  induction l generalizing c with
  | nil => rfl
  | cons k l ih =>
    obtain ⟨hk, hrest⟩ := List.forall_mem_cons.1 hl
    obtain ⟨d', ga', gb', f, gs, hwait, hq⟩ := hk
    have hrow := State.grantRow_of (s := s) (gi := gi) (h := k) (by rw [State.gangOf_of hg]; exact hwait)
    rw [List.filterMap_cons_some hrow, List.foldl_cons, List.foldl_cons, ih hrest]
    congr 1
    unfold State.grantCursor GrantRow.next
    dsimp only
    rw [if_neg (show ¬(1 : Nat) = 0 by decide), (State.sizes_grantBase hg _).1, ← (State.sameSizes_applyGrant hg).limitOf, hq]

end

theorem strip_of_none {p : Panel} {q w limit : Nat} (h : (p.deal q w limit).2 = none) : strip (some p) q w limit = none := by
  simp [strip, h]

theorem strip_of_some {p : Panel} {q w limit : Nat} {y : Nat × Nat × Nat × Nat × List Word}
    (h : (p.deal q w limit).2 = some y) : strip (some p) q w limit = some (y, p.user) := by
  simp [strip, h]

theorem foldl_map_none {α : Type} (f : α → Panel → Panel) (l : List α) :
    l.foldl (fun c k => Option.map (f k) c) (Option.none : Option Panel) = Option.none := by
  induction l with
  | nil => rfl
  | cons k l ih => exact ih

section
variable (t : Thread) (x : GrantRow) (nv w vlmax limit : Nat) (c : Option Panel)

/-- Beside gd the grant writes no register but g56 to g61, and these through VSETVL.P alone. -/
theorem Thread.reg_takeGrant_other {r : Nat} (hr : r ≠ x.gd) (ho : x.kind = 0 ∨ r < 56 ∨ 61 < r) :
    (t.takeGrant x nv w vlmax limit c).reg r = t.reg r := by
  by_cases hk : x.kind = 0
  · exact (t.takeGrant_vsetvl x nv w vlmax limit c hk).2.2 r hr
  · have hr' := ho.resolve_left hk
    rcases hs : strip c (x.ga.toNat % 32) w limit with _ | ⟨⟨n, rows, row0, col0, bases⟩, user⟩
    · rw [(t.takeGrant_noStrip x nv w vlmax limit c hk hs).2.2 r hr, if_neg (by omega)]
    · rw [(t.takeGrant_strip x nv w vlmax limit c hk hs).2.2 r hr]
      simp only [show r ≠ 61 by omega, show r ≠ 60 by omega, show r ≠ 59 by omega, show r ≠ 58 by omega,
        show r ≠ 57 by omega, show r ≠ 56 by omega, if_false]

/-- The vector registers after a grant (R46). -/
theorem Thread.vregs_regrouped :
    (x.chg = false → (t.regrouped x nv w vlmax).vregs = t.vregs) ∧
    (x.chg = true → (t.regrouped x nv w vlmax).vregs.length = nv ∧
      ∀ r ∈ (t.regrouped x nv w vlmax).vregs, r.tag = r.decl ∧ ∀ e, r.data.get e = 0 ∨ r.tag = .l6 ∧ r.data.get e = 0x10) := by
  unfold Thread.regrouped
  dsimp only
  refine ⟨fun h => ?_, fun h => ?_⟩
  · simp only [h, Bool.false_eq_true, if_false]
  · simp only [h, if_true]
    exact t.vregs_resetVregs nv vlmax (Tag.default w)

end

/-- Settles O36: each hart's turn changes its own thread by the sizes that the grant leaves, so that the turns come apart. -/
theorem grantEffect : Obligations.GrantEffect := by
  unfold Obligations.GrantEffect
  refine ⟨?_, Panel.deal_spec⟩
  intro s gi h g t kind d ga gb fair groups hg ht he _ hw u limit chg
  have hrow := State.grantRow_of (s := s) (gi := gi) (h := h) (by rw [State.gangOf_of hg, Gang.hart_of ht]; exact hw)
  obtain ⟨vlmax, hthread⟩ := State.thread?_applyGrant_takeGrant hg ht he hrow
  obtain ⟨hmem, hlaunches, hqen, htiles⟩ := State.applyGrant_rest hg
  set c := ((g.alive.takeWhile (· ≠ h)).filterMap (s.grantRow gi)).foldl
    ((s.grantBase gi (g.alive.filterMap (s.grantRow gi))).grantCursor gi) g.panel
  set x : GrantRow := (h, kind, d, ga, gb, fair, groups, s.setChanges gi h groups) with hx
  change u.thread? _ = some (t.takeGrant x g.nv g.w vlmax limit c) at hthread
  obtain ⟨hblk, hchg, hfair, hrcl, hwait, hpc, hvregs, hvq, hmq, hfrm, hflags⟩ := t.takeGrant_fields x g.nv g.w vlmax limit c
  obtain ⟨hkeep, hzero⟩ := t.vregs_regrouped x g.nv g.w vlmax
  rw [← hvregs] at hkeep hzero
  refine ⟨_, hthread, hblk, hchg, hfair, hrcl, hwait, hpc, fun hd => ?_,
    fun r => t.reg_takeGrant_other x g.nv g.w vlmax limit c, fun h0 => ?_, State.lanes_applyGrant hg ht he hw, ?_,
    hkeep, hzero, hvq, hmq, hfrm, hflags, hqen, htiles, hmem, hlaunches⟩
  · exact (t.reg_takeGrant x g.nv g.w vlmax limit c d).trans (if_pos ⟨rfl, hd⟩)
  · obtain ⟨hvl, hmr, -⟩ := t.takeGrant_vsetvl x g.nv g.w vlmax limit c h0
    exact ⟨hvl, hmr⟩
  · intro noStrip dealtTo cursor h1 hall
    have hk : x.kind ≠ 0 := by rw [hx]; show kind ≠ 0; omega
    have hcursor : c = cursor := State.foldl_grantCursor hg
      (fun k hk => hall k ((List.takeWhile_sublist _).subset hk)) g.panel
    have hnone (hs : strip c (ga.toNat % 32) g.w limit = none) : noStrip := by
      obtain ⟨hvl, hmr, hregs⟩ := t.takeGrant_noStrip x g.nv g.w vlmax limit c hk hs
      exact ⟨hvl, hmr, fun r hr h56 h61 => (hregs r hr).trans (if_pos ⟨h56, h61⟩)⟩
    refine ⟨fun hp => hnone ?_, fun p q hp => ⟨fun hd => hnone ?_, fun n rows row0 col0 bases hd => ?_⟩⟩
    · have : c = none := by rw [hcursor]; show List.foldl dealtTo g.panel _ = _; rw [hp]; exact foldl_map_none _ _
      rw [this]; rfl
    · rw [hcursor, hp]
      exact strip_of_none (by rw [hd])
    · have hs : strip c (ga.toNat % 32) g.w limit = some ((n, rows, row0, col0, bases), p.user) := by
        rw [hcursor, hp]
        exact strip_of_some (by rw [hd])
      obtain ⟨hvl, hmr, hregs⟩ := t.takeGrant_strip x g.nv g.w vlmax limit c hk hs
      refine ⟨hvl, hmr, fun h => ?_, fun h => ?_, fun k hk h => ?_, fun h => ?_⟩
      · rw [hregs 56 (Ne.symm h)]; rfl
      · rw [hregs 57 (Ne.symm h)]; rfl
      · rw [hregs (58 + k) (Ne.symm h)]
        match k, hk with
        | 0, _ => rfl
        | 1, _ => rfl
        | 2, _ => rfl
      · rw [hregs 61 (Ne.symm h)]; rfl

end Sys2Proof.Machine
end


/-! Doorbells and the rings they serve (01_work.md, R17, R380, R420). -/

section
namespace Sys2Proof.Machine

theorem State.length_parts_modPart (s : State) (i : Nat) (f : PartSt → PartSt) : (s.modPart i f).parts.length = s.parts.length :=
  length_modifyAt _ _ _

theorem State.part_modPart {s : State} {i : Nat} (hi : i < s.parts.length) (f : PartSt → PartSt) :
    (s.modPart i f).part i = f (s.part i) := by
  unfold State.part State.modPart
  dsimp only
  rw [getElem?_modifyAt, if_pos rfl, List.getElem?_eq_getElem hi]
  rfl

/-- Serving one entry of a ring: HEAD has moved to the next, TAIL has not moved, no gang has changed, and a launch may have
been added after the others (R420). -/
structure Served (p : Nat) (super : Bool) (s t : State) : Prop where
  head : (t.part p).head super = (s.part p).head super + 1
  tail : (t.part p).tail super = (s.part p).tail super
  gangs : t.gangs = s.gangs
  launches : s.launches <+: t.launches
  parts : t.parts.length = s.parts.length

theorem PartSt.head_bumpHead (p : PartSt) (super : Bool) : (p.bumpHead super).head super = p.head super + 1 := by
  cases super <;> rfl

theorem PartSt.tail_bumpHead (p : PartSt) (super : Bool) : (p.bumpHead super).tail super = p.tail super := by
  cases super <;> rfl

/-- HEAD moves on after what leaves the partitions and the gangs alone. -/
theorem Served.bump {p : Nat} {super : Bool} {s t : State} (hp : p < s.parts.length) (hparts : t.parts = s.parts)
    (hgangs : t.gangs = s.gangs) (hlaunches : s.launches <+: t.launches) :
    Served p super s (t.modPart p (·.bumpHead super)) := by
  have hpart : (t.modPart p (·.bumpHead super)).part p = (s.part p).bumpHead super := by
    rw [State.part_modPart (hparts ▸ hp)]
    unfold State.part
    rw [hparts]
  refine ⟨?_, ?_, hgangs, hlaunches, ?_⟩
  · rw [hpart, PartSt.head_bumpHead]
  · rw [hpart, PartSt.tail_bumpHead]
  · rw [State.length_parts_modPart, hparts]

/-- An entry that is skipped: RINGERR is noted. -/
theorem Served.skip {p : Nat} {super : Bool} {s : State} (hp : p < s.parts.length) :
    Served p super s ((s.modPart p (·.bumpHead super)).modPart p fun q => { q with ringerr := true }) := by
  obtain ⟨hhead, htail, hgangs, hlaunches, hparts⟩ := Served.bump (super := super) (s := s) (t := s) hp rfl rfl (List.prefix_refl _)
  have hpart := State.part_modPart (s := s.modPart p (·.bumpHead super)) (hparts ▸ hp) fun q => { q with ringerr := true }
  refine ⟨?_, ?_, hgangs, hlaunches, ?_⟩
  · rw [hpart]; cases super <;> exact hhead
  · rw [hpart]; cases super <;> exact htail
  · rw [State.length_parts_modPart, hparts]

/-- A ring's submission adds a launch or nothing. -/
theorem State.submitRing_next {s s2 : State} {part : Nat} {super : Bool} {va v : Word}
    (h : s.submitRing part super va = some (v, s2)) :
    s2 = s ∨ ∃ l, s2 = { s with launches := s.launches ++ [l], stamp := s.stamp + 1 } := by
  unfold State.submitRing at h
  split at h
  · cases h; exact .inl rfl
  · split at h
    · split at h
      · cases h
      · cases h; exact .inl rfl
    · exact State.submitWords_next h

theorem State.serveEntry_served {s t : State} {p : Nat} {super : Bool} (hp : p < s.parts.length)
    (h : s.serveEntry p super = some t) : Served p super s t := by
  unfold State.serveEntry at h
  dsimp only at h
  split at h
  · split at h
    · cases h
    · cases h; exact .skip hp
  · split at h
    · cases h; exact .skip hp
    · split at h
      · cases h; exact .skip hp
      · split at h
        · cases h
        · rw [Option.map_eq_some_iff] at h
          obtain ⟨⟨v, s2⟩, hsub, rfl⟩ := h
          rcases State.submitRing_next hsub with rfl | ⟨l, rfl⟩
          · exact .bump hp rfl rfl (List.prefix_refl _)
          · exact .bump hp rfl rfl (List.prefix_append _ _)

/-- A ring is served up to TAIL, or to an entry that a channel in training holds up (R420, R459). -/
theorem State.serveRing_spec {p : Nat} {super : Bool} (n : Nat) {s : State} (hp : p < s.parts.length)
    (hn : ((s.part p).tail super - (s.part p).head super).toNat ≤ n) :
    let t := s.serveRing p super n
    ((t.part p).head super = (s.part p).tail super ∨ t.serveEntry p super = none) ∧
      (t.part p).tail super = (s.part p).tail super ∧ t.gangs = s.gangs ∧ s.launches <+: t.launches := by
  induction n generalizing s with
  | zero => exact ⟨.inl (by unfold State.serveRing; bv_omega), rfl, rfl, List.prefix_refl _⟩
  | succ n ih =>
    unfold State.serveRing
    split
    · exact ⟨.inl ‹_›, rfl, rfl, List.prefix_refl _⟩
    · rename_i hne
      split
      · rename_i t ht
        obtain ⟨hhead, htail, hgangs, hlaunches, hparts⟩ := State.serveEntry_served hp ht
        obtain ⟨hend, htail', hgangs', hlaunches'⟩ := ih (s := t) (hparts ▸ hp) (by rw [hhead, htail]; bv_omega)
        rw [htail] at hend htail'
        exact ⟨hend, htail', hgangs'.trans hgangs, hlaunches.trans hlaunches'⟩
      · rename_i hwait
        exact ⟨.inr hwait, rfl, rfl, List.prefix_refl _⟩

theorem PartSt.tail_setTail (q : PartSt) (super : Bool) (tail : BitVec 16) :
    PartSt.tail (if super then { q with tailS := tail } else { q with tailO := tail }) super = tail := by
  cases super <;> rfl

theorem PartSt.head_setTail (q : PartSt) (super : Bool) (tail : BitVec 16) :
    PartSt.head (if super then { q with tailS := tail } else { q with tailO := tail }) super = q.head super := by
  cases super <;> rfl

/-- A doorbell of a ring (R420). -/
theorem State.doorbell_spec (s : State) (p : Nat) (super : Bool) (tail : BitVec 16) :
    let ring := if super then (s.part p).ssring else (s.part p).sring
    let head := (s.part p).head super
    (2 ^ s.mod.plog ≤ p → s.doorbell p super tail = s) ∧
    (p < 2 ^ s.mod.plog → ring.getLsbD 0 = false ∨ 128 < (tail - head).toNat →
      s.doorbell p super tail = s.modPart p fun q => { q with ringerr := true }) ∧
    (p < 2 ^ s.mod.plog → p < s.parts.length → ring.getLsbD 0 = true → (tail - head).toNat ≤ 128 →
      let t := s.doorbell p super tail
      ((t.part p).head super = tail ∨ t.serveEntry p super = none) ∧ (t.part p).tail super = tail ∧ t.gangs = s.gangs ∧
        s.launches <+: t.launches) := by
  unfold State.doorbell
  dsimp only
  refine ⟨fun hp => if_neg (by omega), fun hp hno => ?_, fun hp hlt hon hn => ?_⟩
  · rw [if_pos hp, if_neg]
    rw [Bool.and_eq_true, decide_eq_true_eq]
    rintro ⟨hon, hn⟩
    rcases hno with hno | hno
    · rw [hno] at hon
      cases hon
    · exact absurd hn (by omega)
  · rw [if_pos hp, if_pos (by rw [Bool.and_eq_true, decide_eq_true_eq]; exact ⟨hon, hn⟩)]
    have hpart := State.part_modPart hlt fun q : PartSt => if super then { q with tailS := tail } else { q with tailO := tail }
    have htail := congrArg (fun q : PartSt => q.tail super) hpart
    have hhead := congrArg (fun q : PartSt => q.head super) hpart
    rw [PartSt.tail_setTail] at htail
    rw [PartSt.head_setTail] at hhead
    have h := State.serveRing_spec (super := super) (tail - (s.part p).head super).toNat
      (s := s.modPart p fun q => if super then { q with tailS := tail } else { q with tailO := tail })
      (by rw [State.length_parts_modPart]; exact hlt) (by rw [htail, hhead])
    rw [htail] at h
    exact h

/-- An event of a partition is set at its harts above level 0 (R380). -/
theorem State.raiseEvent_spec (s : State) (p : Nat) (bit : BitVec 3) :
    s.raiseEvent p bit = { s with gangs := (s.raiseEvent p bit).gangs } ∧
    (s.raiseEvent p bit).gangs.length = s.gangs.length ∧
    ∀ (gi h : Nat) (g : Gang) (u : Thread), s.gangs[gi]? = some g → g.harts[h]? = some u →
      ∃ g' : Gang, (s.raiseEvent p bit).gangs[gi]? = some g' ∧
        g' = { g with harts := g'.harts } ∧ g'.harts[h]? = some { u with sevent :=
          (if 1 ≤ u.lvl ∧ ¬(g.st = .retired) ∧ s.partOfCore g.core = p then u.sevent ||| bit else u.sevent) } := by
  refine ⟨rfl, by simp [State.raiseEvent], fun gi h g u hg hu => ?_⟩
  unfold State.raiseEvent
  rw [List.getElem?_map, hg, Option.map_some]
  by_cases hc : ¬(g.st = .retired) ∧ s.partOfCore g.core = p
  · rw [if_pos (by simpa using hc)]
    refine ⟨_, rfl, rfl, ?_⟩
    rw [List.getElem?_map, hu, Option.map_some]
    by_cases hl : 1 ≤ u.lvl
    · rw [if_pos hl, if_pos ⟨hl, hc⟩]
    · rw [if_neg hl, if_neg fun h => hl h.1]
  · rw [if_neg (by simpa using hc)]
    exact ⟨_, rfl, rfl, by rw [hu, if_neg fun h => hc h.2]⟩

end Sys2Proof.Machine
end


/-! Pending traps (01_work.md, R382, R383), and the stop of a context whose gang's harts have ended (R251). -/

section
namespace Sys2Proof.Machine

theorem State.thread?_modThread_self {s : State} {a : Agent} {t : Thread} (h : s.thread? a = some t) (f : Thread → Thread) :
    (s.modThread a f).thread? a = some (f t) := by
  rw [State.thread?_modThread, if_pos rfl, h]
  rfl

/-- A trap of a hart at a level whose handler is at `v` (R382, R383). -/
theorem State.enterTrap_entered {s : State} {gi h level : Nat} {t : Thread} {c : Cause} {v : Word}
    (ht : s.thread? ⟨gi, .hart h⟩ = some t) (hc : c.code ≠ cMCHK)
    (hl : t.lvl = 0 ∧ level = 1 ∧ v = (s.part (s.partOfCore (s.gangOf gi).core)).stvec ∧ v ≠ 0 ∨
      t.lvl = 1 ∧ level = 2 ∧ v = s.mod.fvec) :
    (s.enterTrap gi h c).mem = s.mem ∧ ∃ w, (s.enterTrap gi h c).thread? ⟨gi, .hart h⟩ = some w ∧
      Entered t w c (faultRecord c t.lvl (if c.src = 3 then 255 else h) (s.gangOf gi).slot (s.gangOf gi).core) level v := by
  unfold State.enterTrap
  dsimp only
  rw [ht]
  dsimp only
  rcases hl with ⟨h0, rfl, hv, hne⟩ | ⟨h1, rfl, hv⟩
  · rw [if_neg (by omega), if_pos (by rw [if_neg hc, h0]), if_neg (by rw [← hv]; exact hne)]
    refine ⟨rfl, _, State.thread?_modThread_self ht _, ?_⟩
    exact ⟨rfl, hv.symm, rfl, rfl, rfl, rfl, rfl, rfl, rfl, rfl, rfl, fun _ => ⟨rfl, rfl, rfl, rfl, rfl, rfl⟩,
      fun h => absurd h (by decide), rfl⟩
  · rw [if_neg (by omega), if_neg (by rw [if_neg hc, h1]; decide)]
    refine ⟨rfl, _, State.thread?_modThread_self ht _, ?_⟩
    exact ⟨rfl, hv.symm, rfl, rfl, rfl, rfl, rfl, rfl, rfl, rfl, rfl, fun h => absurd h (by decide),
      fun _ => ⟨rfl, rfl, rfl, rfl, rfl, rfl⟩, rfl⟩

/-- A cause that a hart takes is pending no more (R383). -/
def Gang.takeCause (h : Nat) (c : Cause) (g : Gang) : Gang :=
  { g with
    harts := modifyAt g.harts h fun t => { t with causes := t.causes.filter (· ≠ c) }
    access := if g.faultHart = some h then { g.access with causes := g.access.causes.filter (· ≠ c) } else g.access }

theorem State.takePending_eq {s : State} {gi h : Nat} {c : Cause} (hc : firstCause (s.pendingCauses gi h) = some c) :
    s.takePending gi h = (s.modGang gi (Gang.takeCause h c)).enterTrap gi h c := by
  unfold State.takePending
  rw [hc]
  rfl

section
variable {s : State} {gi h : Nat} {g : Gang} {u : Thread} (hg : s.gangs[gi]? = some g) (hu : g.harts[h]? = some u)
include hg hu

/-- TRAP_ENTRY does nothing for a hart that no cause is pending for, or that takes no trap now. -/
theorem exec_trapEntry_none (hno : s.pendingCauses gi h = [] ∨ g.st ≠ .resident ∨ u.ended = true ∨ u.debug = true) :
    exec (.trapEntry ⟨gi, .hart h⟩) s = .next s := by
  show execTrapEntry ⟨gi, .hart h⟩ s = _
  unfold execTrapEntry
  dsimp only
  rw [State.gangOf_of hg, State.thread?_of hg, if_neg]
  intro hall
  simp only [Bool.and_eq_true, decide_eq_true_eq, Bool.not_eq_true', List.isEmpty_eq_false_iff] at hall
  obtain ⟨⟨⟨⟨⟨hst, -⟩, -⟩, hended⟩, hdebug⟩, hpend⟩ := hall
  have hthread : g.thread? (.hart h) = some u := hu
  rw [hthread] at hended hdebug
  rcases hno with hno | hno | hno | hno
  · exact hpend hno
  · exact hno hst
  · exact absurd (hno.symm.trans hended) (by decide)
  · exact absurd (hno.symm.trans hdebug) (by decide)

/-- TRAP_ENTRY takes the first cause that is pending for the hart. -/
theorem exec_trapEntry_taken {c : Cause} {level : Nat} {v : Word} (hst : g.st = .resident) (hhalt : g.haltReq = none)
    (hstop : (s.core g.core).stopped = false) (hended : u.ended = false) (hdebug : u.debug = false) (hflight : u.flight = none)
    (hc : firstCause (s.pendingCauses gi h) = some c) (hcode : c.code ≠ cMCHK)
    (hl : u.lvl = 0 ∧ level = 1 ∧ v = (s.part (s.partOfCore g.core)).stvec ∧ v ≠ 0 ∨ u.lvl = 1 ∧ level = 2 ∧ v = s.mod.fvec) :
    Answers (exec (.trapEntry ⟨gi, .hart h⟩) s) fun t => t.mem = s.mem ∧ ∃ w : Thread,
      t.thread? ⟨gi, .hart h⟩ = some w ∧ Entered { u with causes := u.causes.filter fun x => decide (x ≠ c) } w c
        (faultRecord c u.lvl (if c.src = 3 then 255 else h) g.slot g.core) level v := by
  have hthread : s.thread? ⟨gi, .hart h⟩ = some u := (State.thread?_of hg).trans hu
  have hpend : (s.pendingCauses gi h).isEmpty = false := by
    rw [List.isEmpty_eq_false_iff]
    intro hnil
    rw [hnil] at hc
    cases hc
  have hexec : exec (.trapEntry ⟨gi, .hart h⟩) s = .next (s.takePending gi h) := by
    show execTrapEntry ⟨gi, .hart h⟩ s = _
    unfold execTrapEntry
    dsimp only
    rw [State.gangOf_of hg, hthread, if_pos (by simp [hst, hhalt, hstop, hended, hdebug, hpend])]
    unfold State.performFlight
    rw [hthread]
    simp only [Option.getD_some, hflight]
  refine .intro hexec ?_
  rw [State.takePending_eq hc]
  have hgang : (s.modGang gi (Gang.takeCause h c)).gangOf gi = g.takeCause h c :=
    State.gangOf_of (by rw [State.getElem?_modGang, if_pos rfl, hg]; rfl)
  have hnew : (s.modGang gi (Gang.takeCause h c)).thread? ⟨gi, .hart h⟩ =
      some { u with causes := u.causes.filter fun x => decide (x ≠ c) } := by
    rw [State.thread?_modGang, if_pos rfl, hg]
    show (modifyAt g.harts h _)[h]? = _
    rw [getElem?_modifyAt, if_pos rfl, hu]
    rfl
  have h := State.enterTrap_entered (v := v) (level := level) hnew hcode (by rw [hgang]; exact hl)
  rw [hgang] at h
  exact h

end

/-- Whether a gang's harts have all ended. -/
theorem Gang.alive_isEmpty {g : Gang} : g.alive.isEmpty = true ↔ ∀ u ∈ g.harts, u.ended = true := by
  rw [List.isEmpty_iff, List.eq_nil_iff_forall_not_mem]
  constructor
  · intro h u hu
    obtain ⟨i, hi⟩ := List.mem_iff_getElem?.1 hu
    by_contra he
    exact h i (Gang.mem_alive.2 ⟨u, hi, by simpa using he⟩)
  · intro h i hi
    obtain ⟨u, hu, he⟩ := Gang.mem_alive.1 hi
    rw [h u (List.mem_of_getElem? hu)] at he
    cases he

/-- The context stops, and its queues and entries are empty (R251). -/
def Gang.stopContext (g : Gang) : Gang :=
  { g with
    access := { g.access.closeAll with
      ended := true, wait := .none, stall := .none, vq := [], xfers := [], causes := [], faulted := false }
    lq := List.replicate 8 [], sq := List.replicate 4 [], bq := List.replicate 4 [], ents := [], bound := [] }

section
variable {s : State} {gi : Nat} {g : Gang} (hg : s.gangs[gi]? = some g)
include hg

theorem exec_accessContextStop_none (hno : ¬(g.st = .resident ∧ ∀ u ∈ g.harts, u.ended = true) ∨ g.access.ended = true) :
    exec (.accessContextStop gi) s = .next s := by
  show execAccessContextStop gi s = _
  unfold execAccessContextStop
  dsimp only
  rw [State.gangOf_of hg, if_neg]
  simp only [Bool.and_eq_true, decide_eq_true_eq, Bool.not_eq_true', Gang.alive_isEmpty]
  rintro ⟨hspent, haccess⟩
  rcases hno with hno | hno
  · exact hno hspent
  · exact absurd (hno.symm.trans haccess) (by decide)

theorem exec_accessContextStop (hst : g.st = .resident) (hend : ∀ u ∈ g.harts, u.ended = true) (ha : g.access.ended = false) :
    exec (.accessContextStop gi) s = .next (s.modGang gi Gang.stopContext) := by
  show execAccessContextStop gi s = _
  unfold execAccessContextStop
  dsimp only
  rw [State.gangOf_of hg, if_pos (by simp [hst, ha, Gang.alive_isEmpty.2 hend])]
  rfl

theorem accessContextStop_spec (hst : g.st = .resident) (hend : ∀ u ∈ g.harts, u.ended = true) (ha : g.access.ended = false) :
    Answers (exec (.accessContextStop gi) s) fun t => t.mem = s.mem ∧ (t.gangOf gi).access.ended = true ∧
      (t.gangOf gi).access.vq = [] ∧ (t.gangOf gi).harts = g.harts ∧ (t.gangOf gi).ents = [] ∧
      ∀ q ∈ (t.gangOf gi).lq ++ (t.gangOf gi).sq, q = [] := by
  have hgang : (s.modGang gi Gang.stopContext).gangOf gi = g.stopContext :=
    State.gangOf_of (by rw [State.getElem?_modGang, if_pos rfl, hg]; rfl)
  refine .intro (exec_accessContextStop hg hst hend ha) ?_
  rw [hgang]
  refine ⟨rfl, rfl, rfl, rfl, rfl, fun q hq => ?_⟩
  rcases List.mem_append.1 hq with hq | hq
  · exact List.eq_of_mem_replicate hq
  · exact List.eq_of_mem_replicate hq

end

end Sys2Proof.Machine
end


/-! Samples of the dispatcher: the forward-progress swap and aging (01_work.md, R37, R424). -/

section
namespace Sys2Proof.Machine

/-! Sorting and maps. -/

theorem insertBy_map {α β : Type} (key : β → Nat) (f : α → β) (x : α) (l : List α) :
    insertBy key (f x) (l.map f) = (insertBy (fun a => key (f a)) x l).map f := by
  induction l with
  | nil => rfl
  | cons y l ih =>
    rw [List.map_cons, insertBy, insertBy]
    split
    · rfl
    · rw [ih, List.map_cons]

theorem foldl_insertBy_map {α β : Type} (key : β → Nat) (f : α → β) (l acc : List α) :
    (l.map f).foldl (fun acc x => insertBy key x acc) (acc.map f) =
      (l.foldl (fun acc x => insertBy (fun a => key (f a)) x acc) acc).map f := by
  induction l generalizing acc with
  | nil => rfl
  | cons x l ih => rw [List.map_cons, List.foldl_cons, insertBy_map, ih]; rfl

theorem sortBy_map {α β : Type} (key : β → Nat) (f : α → β) (l : List α) :
    sortBy key (l.map f) = (sortBy (fun a => key (f a)) l).map f := foldl_insertBy_map key f l []

/-- A gang but for the halt asked of it. -/
def Gang.unasked (g : Gang) : Gang := { g with haltReq := none }

theorem mapIdx_pair_map {α β : Type} (f : α → β) (l : List α) :
    ((l.map f).mapIdx fun i x => (i, x)) = (l.mapIdx fun i x => (i, x)).map fun x => (x.1, f x.2) := by
  refine List.ext_getElem? fun i => ?_
  simp only [List.getElem?_mapIdx, List.getElem?_map, Option.map_map]
  rfl

/-- The suspended gangs of a launch do not depend on halts asked for. -/
theorem State.suspendedOf_unasked (s : State) (li : Nat) :
    { s with gangs := s.gangs.map Gang.unasked }.suspendedOf li = s.suspendedOf li := by
  unfold State.suspendedOf
  dsimp only
  rw [mapIdx_pair_map, List.filter_map, sortBy_map, List.map_map]
  rfl

/-- A state that differs in launches and in halts asked for. -/
structure State.Sampled (s t : State) : Prop where
  rest : t = { s with gangs := t.gangs, launches := t.launches }
  gangs : t.gangs.map Gang.unasked = s.gangs.map Gang.unasked

theorem State.Sampled.refl (s : State) : s.Sampled s := ⟨rfl, rfl⟩

theorem State.Sampled.trans {s t u : State} (h : s.Sampled t) (k : t.Sampled u) : s.Sampled u := by
  refine ⟨?_, k.gangs.trans h.gangs⟩
  have hr := h.rest
  have kr := k.rest
  rw [hr] at kr
  exact kr

theorem State.Sampled.modLaunch (s : State) (i : Nat) (f : Launch → Launch) : s.Sampled (s.modLaunch i f) := ⟨rfl, rfl⟩

theorem State.Sampled.modGang (s : State) (i : Nat) {f : Gang → Gang} (hf : ∀ g, (f g).unasked = g.unasked) :
    s.Sampled (s.modGang i f) := by
  refine ⟨rfl, List.ext_getElem? fun j => ?_⟩
  rw [List.getElem?_map, List.getElem?_map, State.getElem?_modGang]
  split
  · rw [Option.map_map]
    exact congrFun (congrArg Option.map (funext hf)) _
  · rfl

theorem State.Sampled.suspendedOf {s t : State} (h : s.Sampled t) (li : Nat) : t.suspendedOf li = s.suspendedOf li := by
  rw [← State.suspendedOf_unasked t, ← State.suspendedOf_unasked s]
  unfold State.suspendedOf
  dsimp only
  rw [h.gangs]

theorem State.Sampled.part {s t : State} (h : s.Sampled t) (p : Nat) : t.part p = s.part p := by
  rw [h.rest]
  rfl

/-- Asking for the halt of a gang unless one is asked for already. -/
def Gang.ask (n : Nat) (g : Gang) : Gang := { g with haltReq := g.haltReq.or (some n) }

theorem Gang.ask_eq (n : Nat) (g : Gang) : (if g.haltReq.isSome then g else { g with haltReq := some n }) = g.ask n := by
  cases h : g.haltReq with
  | none => simp [Gang.ask, h]
  | some k =>
    rw [if_pos (show (some k).isSome = true from rfl)]
    show g = { g with haltReq := g.haltReq.or (some n) }
    rw [h, Option.some_or, ← h]

/-! The forward-progress swap. -/

/-- The resident gangs of a launch, the boot gang aside. -/
def State.mine (s : State) (li : Nat) : List Nat :=
  (List.range s.gangs.length).filter fun i =>
    (s.gangOf i).launch = li && decide ((s.gangOf i).st = .resident) && !(s.mod.bootGang = some i)

theorem State.mem_mine {s : State} {li i : Nat} : i ∈ s.mine li ↔
    ∃ g, s.gangs[i]? = some g ∧ g.launch = li ∧ g.st = .resident ∧ s.mod.bootGang ≠ some i := by
  unfold State.mine
  rw [List.mem_filter, List.mem_range]
  constructor
  · rintro ⟨hi, h⟩
    have hg := List.getElem?_eq_getElem hi
    rw [State.gangOf_of hg] at h
    simp only [Bool.and_eq_true, decide_eq_true_eq, Bool.not_eq_true', decide_eq_false_iff_not] at h
    exact ⟨_, hg, h.1.1, h.1.2, h.2⟩
  · rintro ⟨g, hg, hl, hst, hb⟩
    refine ⟨(List.getElem?_eq_some_iff.1 hg).1, ?_⟩
    rw [State.gangOf_of hg]
    simp [hl, hst, hb]

/-- Whether every resident gang of a launch waits while one was never placed (R37). -/
def State.heldUp (s : State) (li : Nat) (l : Launch) : Bool :=
  !(s.mine li).isEmpty && (s.mine li).all (s.gangWaits ·) && !(l.freshGangs 1).isEmpty

/-- The younger of two gangs: the later placed, then the higher in number (R37). -/
def State.younger (s : State) (best : Option Nat) (i : Nat) : Option Nat :=
  match best with
  | none => some i
  | some b =>
    let x := s.gangOf i
    let y := s.gangOf b
    if y.placeOrd < x.placeOrd || (x.placeOrd = y.placeOrd && decide (y.number < x.number)) then some i else some b

/-- The youngest of a list of gangs is asked to halt. -/
def State.swapOut (s : State) (best : Option Nat) : State :=
  match best with
  | some i => s.modGang i (Gang.ask 2)
  | none => s

section
variable {s : State} {li : Nat} {l : Launch} (hl : s.launches[li]? = some l)
include hl

theorem State.sampleSwap_skip (h : (l.whole || l.complete) = true) : s.sampleSwap li = s := by
  unfold State.sampleSwap State.launch?
  rw [hl]
  dsimp only
  rw [if_pos h]

theorem State.sampleSwap_eq (h : (l.whole || l.complete) = false) :
    let s1 := s.modLaunch li fun m => { m with samples := if s.heldUp li l then m.samples + 1 else 0 }
    s.sampleSwap li = if s.heldUp li l && decide (1 ≤ l.samples) then s1.swapOut ((s.mine li).foldl s1.younger none) else s1 := by
  unfold State.sampleSwap State.launch?
  rw [hl]
  dsimp only
  rw [if_neg (by rw [h]; decide)]
  refine if_congr Iff.rfl ?_ rfl
  unfold State.swapOut
  rw [show Gang.ask 2 = _ from funext fun g => (Gang.ask_eq 2 g).symm]
  rfl

end

end Sys2Proof.Machine
end


/-! Samples of the dispatcher: every launch of a partition, and the waits on locks (01_work.md, R37, R180, R424). -/

section
namespace Sys2Proof.Machine

/-- Aging of a launch at a sample (R424). -/
def Launch.aged (age : Nat) (pending : Bool) (l : Launch) : Launch :=
  if age = 0 || !pending || l.progressed then { l with waited := 0, progressed := false }
  else if age ≤ l.waited + 1 then { l with waited := 0, effPrio := min 7 (l.effPrio + 1) }
  else { l with waited := l.waited + 1 }

theorem Launch.aged_of_still {age : Nat} {pending : Bool} {l : Launch} (h : age = 0 ∨ pending = false ∨ l.progressed = true) :
    (l.aged age pending).waited = 0 ∧ (l.aged age pending).effPrio = l.effPrio := by
  unfold Launch.aged
  rw [if_pos (by simpa [or_assoc] using h)]
  exact ⟨rfl, rfl⟩

theorem Launch.aged_of_due {age : Nat} {l : Launch} (ha : age ≠ 0) (hp : l.progressed = false) (h : age ≤ l.waited + 1) :
    (l.aged age true).waited = 0 ∧ (l.aged age true).effPrio = min 7 (l.effPrio + 1) := by
  unfold Launch.aged
  rw [if_neg (by simp [ha, hp]), if_pos h]
  exact ⟨rfl, rfl⟩

theorem Launch.aged_of_early {age : Nat} {l : Launch} (ha : age ≠ 0) (hp : l.progressed = false) (h : l.waited + 1 < age) :
    (l.aged age true).waited = l.waited + 1 ∧ (l.aged age true).effPrio = l.effPrio := by
  unfold Launch.aged
  rw [if_neg (by simp [ha, hp]), if_neg (by omega)]
  exact ⟨rfl, rfl⟩

theorem Launch.aged_samples (age : Nat) (pending : Bool) (l : Launch) : (l.aged age pending).samples = l.samples := by
  unfold Launch.aged
  split
  · rfl
  · split <;> rfl

/-- Whether a launch waits for a placement. -/
def State.wants (s : State) (li : Nat) (l : Launch) : Bool := !l.complete && !(s.pendingOf li l).isEmpty

theorem State.Sampled.pendingOf {s t : State} (h : s.Sampled t) (li : Nat) (l : Launch) : t.pendingOf li l = s.pendingOf li l := by
  unfold State.pendingOf
  rw [h.suspendedOf]

/-- A launch but for what a sample counts. -/
theorem State.pendingOf_samples (s : State) (li n : Nat) (l : Launch) : s.pendingOf li { l with samples := n } = s.pendingOf li l := rfl

section
variable {s : State} {li : Nat} {l : Launch} (hl : s.launches[li]? = some l)
include hl

theorem State.sampleAge_eq : s.sampleAge li = s.modLaunch li (Launch.aged (s.part l.part).age.toNat (s.wants li l)) := by
  unfold State.sampleAge State.launch?
  rw [hl]
  rfl

/-- The forward-progress swap changes what a sample counts, and halts asked for. -/
theorem State.sampleSwap_frame : s.Sampled (s.sampleSwap li) ∧ ∃ n : Launch → Nat,
    (s.sampleSwap li).launches = modifyAt s.launches li fun m => { m with samples := n m } := by
  cases h : l.whole || l.complete with
  | true =>
    rw [State.sampleSwap_skip hl h]
    exact ⟨.refl s, fun m => m.samples, (modifyAt_id s.launches li (fun m => { m with samples := m.samples }) fun _ _ => rfl).symm⟩
  | false =>
    rw [State.sampleSwap_eq hl h]
    split
    · generalize List.foldl _ _ _ = best
      cases best with
      | none => exact ⟨.modLaunch s li _, _, rfl⟩
      | some i => exact ⟨(State.Sampled.modLaunch s li _).trans (.modGang _ i fun _ => rfl), _, rfl⟩
    · exact ⟨.modLaunch s li _, _, rfl⟩

theorem State.sampleTurn_eq : (s.sampleSwap li).sampleAge li =
    (s.sampleSwap li).modLaunch li (Launch.aged (s.part l.part).age.toNat (s.wants li l)) := by
  obtain ⟨hs, n, hlaunches⟩ := State.sampleSwap_frame hl
  have hl' : (s.sampleSwap li).launches[li]? = some { l with samples := n l } := by
    rw [hlaunches, getElem?_modifyAt, if_pos rfl, hl]
    rfl
  have hwants : (s.sampleSwap li).wants li { l with samples := n l } = s.wants li l := by
    unfold State.wants
    rw [hs.pendingOf, State.pendingOf_samples]
  rw [State.sampleAge_eq hl', hs.part, hwants]

/-- What one sample makes of one launch. -/
theorem State.sampleTurn_spec :
    s.Sampled ((s.sampleSwap li).sampleAge li) ∧
    (∀ j, j ≠ li → ((s.sampleSwap li).sampleAge li).launches[j]? = s.launches[j]?) ∧
    ∃ n, ((s.sampleSwap li).sampleAge li).launches[li]? =
      some (Launch.aged (s.part l.part).age.toNat (s.wants li l) { l with samples := n }) := by
  obtain ⟨hs, n, hlaunches⟩ := State.sampleSwap_frame hl
  rw [State.sampleTurn_eq hl]
  refine ⟨hs.trans (.modLaunch _ _ _), fun j hj => ?_, n l, ?_⟩
  · rw [State.getElem?_modLaunch, if_neg hj, hlaunches, getElem?_modifyAt, if_neg hj]
  · rw [State.getElem?_modLaunch, if_pos rfl, hlaunches, getElem?_modifyAt, if_pos rfl, hl]
    rfl

end

/-- Launches sampled in turn: each as the first state has it. -/
theorem State.foldl_sample {s0 : State} (L : List Nat) (hL : L.Nodup) {s : State} (hs : s0.Sampled s)
    (h : ∀ i ∈ L, s.launches[i]? = s0.launches[i]?) :
    let t := L.foldl (fun s li => (s.sampleSwap li).sampleAge li) s
    s0.Sampled t ∧ (∀ i, i ∉ L → t.launches[i]? = s.launches[i]?) ∧
      ∀ i ∈ L, ∀ l, s0.launches[i]? = some l → ∃ n, t.launches[i]? =
        some (Launch.aged (s0.part l.part).age.toNat (s0.wants i l) { l with samples := n }) := by
  induction L generalizing s with
  | nil => exact ⟨hs, fun _ _ => rfl, fun _ h => absurd h List.not_mem_nil⟩
  | cons k L ih =>
    obtain ⟨hk, hL⟩ := List.nodup_cons.1 hL
    cases hl : s.launches[k]? with
    | none =>
      have hskip : (s.sampleSwap k).sampleAge k = s := by
        have h1 : s.sampleSwap k = s := by unfold State.sampleSwap State.launch?; rw [hl]
        rw [h1]
        unfold State.sampleAge State.launch?
        rw [hl]
      obtain ⟨h1, h2, h3⟩ := ih hL hs fun i hi => h i (List.mem_cons_of_mem _ hi)
      rw [List.foldl_cons, hskip]
      refine ⟨h1, fun i hi => h2 i fun hm => hi (List.mem_cons_of_mem _ hm), fun i hi l hil => ?_⟩
      rcases List.mem_cons.1 hi with rfl | hi
      · rw [← h i List.mem_cons_self, hl] at hil
        cases hil
      · exact h3 i hi l hil
    | some l =>
      obtain ⟨ht, hothers, n, hself⟩ := State.sampleTurn_spec hl
      obtain ⟨h1, h2, h3⟩ := ih hL (hs.trans ht) fun i hi =>
        (hothers i fun e => hk (e ▸ hi)).trans (h i (List.mem_cons_of_mem _ hi))
      rw [List.foldl_cons]
      refine ⟨h1, fun i hi => ?_, fun i hi m hm => ?_⟩
      · simp only [List.mem_cons, not_or] at hi
        exact (h2 i hi.2).trans (hothers i hi.1)
      · rcases List.mem_cons.1 hi with rfl | hi
        · obtain rfl : m = l := by rw [h i List.mem_cons_self, hm] at hl; exact Option.some.inj hl
          refine ⟨n, (h2 i hk).trans (hself.trans ?_)⟩
          unfold State.wants
          rw [hs.part, hs.pendingOf]
        · exact h3 i hi m hm

/-- A waiter's directed yield leaves launches, memory and sleepers alone. -/
theorem State.directedYield_rest (s : State) (a : Agent) :
    s.directedYield a = { s with gangs := (s.directedYield a).gangs, stamp := (s.directedYield a).stamp } := by
  unfold State.directedYield
  dsimp only
  split
  · split
    · rfl
    · split
      · rfl
      · split
        · rfl
        · split <;> rfl
  · rfl

theorem State.foldl_directedYield (p : Nat) (L : List Sleeper) (s : State) :
    let t := L.foldl (fun s r => if s.partOfCore (s.gangOf r.gang).core = p then s.directedYield r.agent else s) s
    t = { s with gangs := t.gangs, stamp := t.stamp } := by
  induction L generalizing s with
  | nil => rfl
  | cons r L ih =>
    rw [List.foldl_cons]
    split
    · refine (ih (s.directedYield r.agent)).trans ?_
      rw [State.directedYield_rest]
    · exact ih s

end Sys2Proof.Machine
end


/-! DISPATCH_SAMPLE (01_work.md, R37, R180, R424). -/

section
namespace Sys2Proof.Machine

/-- The launches of a partition that are sampled. -/
def State.sampledOf (s : State) (p : Nat) : List Nat :=
  (List.range s.launches.length).filter fun i => match s.launch? i with
    | some l => l.part = p && !l.complete
    | none => false

theorem State.mem_sampledOf {s : State} {p i : Nat} :
    i ∈ s.sampledOf p ↔ ∃ l, s.launches[i]? = some l ∧ l.part = p ∧ l.complete = false := by
  unfold State.sampledOf State.launch?
  rw [List.mem_filter, List.mem_range]
  constructor
  · rintro ⟨hi, h⟩
    rw [List.getElem?_eq_getElem hi] at h
    simp only [Bool.and_eq_true, decide_eq_true_eq, Bool.not_eq_true'] at h
    exact ⟨_, List.getElem?_eq_getElem hi, h⟩
  · rintro ⟨l, hl, hp, hc⟩
    refine ⟨(List.getElem?_eq_some_iff.1 hl).1, ?_⟩
    rw [hl]
    simp [hp, hc]

theorem State.nodup_sampledOf (s : State) (p : Nat) : (s.sampledOf p).Nodup := List.nodup_range.filter _

/-- Every launch of the partition after its sample. -/
def State.sampleAll (s : State) (p : Nat) : State :=
  (s.sampledOf p).foldl (fun s li => (s.sampleSwap li).sampleAge li) s

/-- The directed yields of the waiters of the partition. -/
def State.yieldAll (s : State) (p : Nat) : State :=
  s.sleepers.foldl (fun s r => if s.partOfCore (s.gangOf r.gang).core = p then s.directedYield r.agent else s) s

theorem exec_dispatchSample (s : State) (p : Nat) : exec (.dispatchSample p) s = .next ((s.sampleAll p).yieldAll p) := rfl

theorem State.yieldAll_rest (s : State) (p : Nat) :
    s.yieldAll p = { s with gangs := (s.yieldAll p).gangs, stamp := (s.yieldAll p).stamp } :=
  State.foldl_directedYield p s.sleepers s

/-- Aging at a sample (R424). -/
theorem dispatchSample_ages (s : State) (p : Nat) : Answers (exec (.dispatchSample p) s) fun t =>
    t.mem = s.mem ∧ t.sleepers = s.sleepers ∧
    ∀ (i : Nat) (l : Launch), s.launches[i]? = some l → ∃ l' : Launch, t.launches[i]? = some l' ∧
      (l.part ≠ p ∨ l.complete = true → l' = l) ∧
      (l.part = p → l.complete = false →
        let age := (s.part p).age.toNat
        (age = 0 ∨ s.pendingOf i l = [] ∨ l.progressed = true → l'.waited = 0 ∧ l'.effPrio = l.effPrio) ∧
        (age ≠ 0 → s.pendingOf i l ≠ [] → l.progressed = false →
          (age ≤ l.waited + 1 → l'.waited = 0 ∧ l'.effPrio = min 7 (l.effPrio + 1)) ∧
          (l.waited + 1 < age → l'.waited = l.waited + 1 ∧ l'.effPrio = l.effPrio))) := by
  obtain ⟨hs, hothers, hself⟩ :=
    State.foldl_sample (s0 := s) (s.sampledOf p) (s.nodup_sampledOf p) (.refl s) fun _ _ => rfl
  change s.Sampled (s.sampleAll p) at hs
  change ∀ i, i ∉ s.sampledOf p → (s.sampleAll p).launches[i]? = s.launches[i]? at hothers
  change ∀ i ∈ s.sampledOf p, ∀ l, s.launches[i]? = some l → ∃ n, (s.sampleAll p).launches[i]? = _ at hself
  refine .intro (exec_dispatchSample s p) ?_
  rw [State.yieldAll_rest]
  refine ⟨by rw [hs.rest], by rw [hs.rest], fun i l hl => ?_⟩
  by_cases hi : l.part = p ∧ l.complete = false
  · obtain ⟨hp, hc⟩ := hi
    obtain ⟨n, hn⟩ := hself i (State.mem_sampledOf.2 ⟨l, hl, hp, hc⟩) l hl
    rw [hp] at hn
    refine ⟨_, hn, fun h => ?_, fun _ _ => ⟨fun h => ?_, fun ha hpend hprog => ?_⟩⟩
    · rcases h with h | h
      · exact absurd hp h
      · exact absurd (h.symm.trans hc) (by decide)
    · refine Launch.aged_of_still ?_
      rcases h with h | h | h
      · exact .inl h
      · exact .inr (.inl (by simp [State.wants, h]))
      · exact .inr (.inr h)
    · have hwants : s.wants i l = true := by simp [State.wants, hc, hpend]
      rw [hwants]
      exact ⟨fun h => Launch.aged_of_due ha hprog h, fun h => Launch.aged_of_early ha hprog h⟩
  · refine ⟨l, (hothers i fun hm => ?_).trans hl, fun _ => rfl, fun hp hc => absurd ⟨hp, hc⟩ hi⟩
    obtain ⟨m, hm, hmp⟩ := State.mem_sampledOf.1 hm
    rw [hl] at hm
    cases hm
    exact hi hmp

theorem eq_singleton_of_nodup {α : Type} {l : List α} {k : α} (hn : l.Nodup) (h : ∀ j, j ∈ l ↔ j = k) : l = [k] :=
  List.perm_singleton.1 ((List.perm_ext_iff_of_nodup hn (List.nodup_singleton k)).2 fun j => by rw [h, List.mem_singleton])

/-! The forward-progress swap (R37). -/

/-- One gang is older than another: placed earlier, or in the same step and lower in number. -/
abbrev State.Older (s : State) (j k : Nat) : Prop :=
  (s.gangOf j).placeOrd < (s.gangOf k).placeOrd ∨
    (s.gangOf j).placeOrd = (s.gangOf k).placeOrd ∧ (s.gangOf j).number < (s.gangOf k).number

theorem State.younger_some (s : State) (b i : Nat) : s.younger (some b) i = if s.Older b i then some i else some b := by
  refine if_congr ?_ rfl rfl
  simp only [Bool.or_eq_true, Bool.and_eq_true, decide_eq_true_eq, State.Older,
    eq_comm (a := (s.gangOf i).placeOrd)]

/-- A gang that every other of a list is older than is its youngest. -/
theorem State.foldl_younger {s : State} {k : Nat} {L : List Nat} (h : ∀ j ∈ L, j ≠ k → s.Older j k) {best : Option Nat}
    (hb : ∀ b, best = some b → b ≠ k → s.Older b k) (hk : k ∈ L ∨ best = some k) : L.foldl s.younger best = some k := by
  induction L generalizing best with
  | nil => exact hk.resolve_left List.not_mem_nil
  | cons i L ih =>
    obtain ⟨hi, hL⟩ := List.forall_mem_cons.1 h
    have hcases : s.younger best i = some i ∨ s.younger best i = best := by
      cases best with
      | none => exact .inl rfl
      | some b =>
        rw [State.younger_some]
        split
        · exact .inl rfl
        · exact .inr rfl
    refine ih hL (fun b hb' hbk => ?_) ?_
    · rcases hcases with hc | hc
      · obtain rfl : i = b := Option.some.inj (hc.symm.trans hb')
        exact hi hbk
      · exact hb b (hc.symm.trans hb') hbk
    · by_cases hik : i = k
      · subst hik
        right
        cases best with
        | none => rfl
        | some b =>
          rw [State.younger_some]
          split
          · rfl
          · by_contra hne
            exact ‹¬s.Older b i› (hb b rfl fun e => hne (congrArg some e))
      · rcases hk with hk | rfl
        · exact .inl ((List.mem_cons.1 hk).resolve_left (Ne.symm hik))
        · right
          rw [State.younger_some, if_neg]
          have := hi hik
          omega

theorem State.swapOut_launches (s : State) (best : Option Nat) : (s.swapOut best).launches = s.launches := by
  cases best <;> rfl

theorem State.launches_sampleSwap {s : State} {li : Nat} {l : Launch} (hl : s.launches[li]? = some l)
    (h : (l.whole || l.complete) = false) : (s.sampleSwap li).launches =
      modifyAt s.launches li fun m => { m with samples := if s.heldUp li l then m.samples + 1 else 0 } := by
  rw [State.sampleSwap_eq hl h]
  split
  · rw [State.swapOut_launches]; rfl
  · rfl

/-- A launch is held up where it has resident gangs, every one of them waits, and one was never placed. -/
theorem State.heldUp_iff (s : State) (li : Nat) (l : Launch) :
    let mine (gi : Nat) (g : Gang) : Prop := s.gangs[gi]? = some g ∧ g.launch = li ∧ g.st = .resident ∧ s.mod.bootGang ≠ some gi
    s.heldUp li l = true ↔ (∃ gi g, mine gi g) ∧ (∀ gi g, mine gi g → s.gangWaits gi = true) ∧ l.freshGangs 1 ≠ [] := by
  unfold State.heldUp
  rw [Bool.and_eq_true, Bool.and_eq_true, Bool.not_eq_true', Bool.not_eq_true', List.isEmpty_eq_false_iff,
    List.isEmpty_eq_false_iff, List.all_eq_true, and_assoc]
  refine and_congr ?_ (and_congr ?_ Iff.rfl)
  · rw [← not_iff_not, not_not, List.eq_nil_iff_forall_not_mem, not_exists]
    exact forall_congr' fun i => not_congr State.mem_mine
  · exact forall_congr' fun i => ⟨fun h g hg => h (State.mem_mine.2 ⟨g, hg⟩), fun h hi => by
      obtain ⟨g, hg⟩ := State.mem_mine.1 hi
      exact h g hg⟩

/-- The sample of a partition whose only launch is this, with no waiter asleep. -/
theorem State.sampleAll_one {s : State} {p li : Nat} {l : Launch} (hl : s.launches[li]? = some l) (hp : l.part = p)
    (hc : l.complete = false) (hsleep : s.sleepers = [])
    (hone : ∀ j m, j ≠ li → s.launches[j]? = some m → m.part = p → m.complete = true) :
    (s.sampleAll p).yieldAll p = (s.sampleSwap li).modLaunch li (Launch.aged (s.part l.part).age.toNat (s.wants li l)) := by
  have hsampled : s.sampledOf p = [li] := eq_singleton_of_nodup (s.nodup_sampledOf p) fun j => by
    rw [State.mem_sampledOf]
    constructor
    · rintro ⟨m, hm, hmp, hmc⟩
      by_contra hj
      exact absurd ((hone j m hj hm hmp).symm.trans hmc) (by decide)
    · rintro rfl
      exact ⟨l, hl, hp, hc⟩
  have hsample : s.sampleAll p = (s.sampleSwap li).sampleAge li := by
    unfold State.sampleAll
    rw [hsampled]
    rfl
  rw [hsample, State.sampleTurn_eq hl]
  unfold State.yieldAll
  rw [show ((s.sampleSwap li).modLaunch li _).sleepers = s.sleepers by rw [(State.sampleSwap_frame hl).1.rest]; rfl, hsleep]
  rfl

/-- The forward-progress swap, where the launch is the only one of its partition and no waiter sleeps. -/
theorem dispatchSample_swaps {s : State} {p li : Nat} {l : Launch} (hl : s.launches[li]? = some l) (hp : l.part = p)
    (hc : l.complete = false) (hw : l.whole = false) (hsleep : s.sleepers = [])
    (hone : ∀ j m, j ≠ li → s.launches[j]? = some m → m.part = p → m.complete = true) :
    let mine (gi : Nat) (g : Gang) : Prop := s.gangs[gi]? = some g ∧ g.launch = li ∧ g.st = .resident ∧ s.mod.bootGang ≠ some gi
    let held : Prop := (∃ gi g, mine gi g) ∧ (∀ gi g, mine gi g → s.gangWaits gi = true) ∧ l.freshGangs 1 ≠ []
    Answers (exec (.dispatchSample p) s) fun t =>
      (∃ l' : Launch, t.launches[li]? = some l' ∧ (held → l'.samples = l.samples + 1) ∧ (¬held → l'.samples = 0)) ∧
      (¬held ∨ l.samples = 0 → t.gangs = s.gangs) ∧
      (held → 1 ≤ l.samples → ∀ gi g, mine gi g → (∀ j y, mine j y → j ≠ gi →
          y.placeOrd < g.placeOrd ∨ y.placeOrd = g.placeOrd ∧ y.number < g.number) →
        (∀ j, j ≠ gi → t.gangs[j]? = s.gangs[j]?) ∧ t.gangs[gi]? = some { g with haltReq := g.haltReq.or (some 2) }) := by
  intro mine held
  have hheld : s.heldUp li l = true ↔ held := s.heldUp_iff li l
  have hswap := State.sampleSwap_eq hl (by rw [hw, hc]; rfl)
  refine .intro (exec_dispatchSample s p) ?_
  rw [State.sampleAll_one hl hp hc hsleep hone]
  have hlaunch : ((s.sampleSwap li).modLaunch li (Launch.aged (s.part l.part).age.toNat (s.wants li l))).launches[li]? =
      some (Launch.aged (s.part l.part).age.toNat (s.wants li l)
        { l with samples := if s.heldUp li l then l.samples + 1 else 0 }) := by
    rw [State.getElem?_modLaunch, if_pos rfl, State.launches_sampleSwap hl (by rw [hw, hc]; rfl), getElem?_modifyAt, if_pos rfl,
      hl]
    rfl
  refine ⟨⟨_, hlaunch, fun h => ?_, fun h => ?_⟩, fun h => ?_, fun h hsamples gi g hmine hyoung => ?_⟩
  · rw [Launch.aged_samples, if_pos (hheld.2 h)]
  · rw [Launch.aged_samples, if_neg fun hh => h (hheld.1 hh)]
  · show (s.sampleSwap li).gangs = s.gangs
    rw [hswap, if_neg]
    · rfl
    · rw [Bool.and_eq_true, decide_eq_true_eq]
      rintro ⟨hh, hsamples⟩
      rcases h with h | h
      · exact h (hheld.1 hh)
      · omega
  · have hgangs : ((s.sampleSwap li).modLaunch li (Launch.aged (s.part l.part).age.toNat (s.wants li l))).gangs =
        (s.modGang gi (Gang.ask 2)).gangs := by
      show (s.sampleSwap li).gangs = _
      rw [hswap, if_pos (by rw [hheld.2 h, Bool.true_and, decide_eq_true_eq]; exact hsamples)]
      have hbest : (s.mine li).foldl
          (s.modLaunch li fun m => { m with samples := if s.heldUp li l then m.samples + 1 else 0 }).younger none = some gi := by
        refine State.foldl_younger (fun j hj hne => ?_) (fun b hb => by cases hb) (.inl (State.mem_mine.2 ⟨g, hmine⟩))
        obtain ⟨y, hy⟩ := State.mem_mine.1 hj
        have hgi : s.gangOf gi = g := State.gangOf_of hmine.1
        have hgj : s.gangOf j = y := State.gangOf_of hy.1
        show s.Older j gi
        unfold State.Older
        rw [hgi, hgj]
        exact hyoung j y hy hne
      rw [hbest]
      rfl
    rw [hgangs]
    refine ⟨fun j hj => ?_, ?_⟩
    · rw [State.getElem?_modGang, if_neg hj]
    · rw [State.getElem?_modGang, if_pos rfl, hmine.1]
      rfl

end Sys2Proof.Machine
end


/-! Directed yields (01_work.md, R180). -/

section
namespace Sys2Proof.Machine

/-- A change of a gang is known by what it does to that gang. -/
theorem State.modGang_congr {s : State} {i : Nat} {f k : Gang → Gang} (h : ∀ g, s.gangs[i]? = some g → f g = k g) :
    s.modGang i f = s.modGang i k := by
  have : modifyAt s.gangs i f = modifyAt s.gangs i k := List.ext_getElem? fun j => by
    rw [getElem?_modifyAt, getElem?_modifyAt]
    split
    · subst_vars
      cases hg : s.gangs[j]? with
      | none => rfl
      | some g => exact congrArg some (h g hg)
    · rfl
  unfold State.modGang
  rw [this]

/-- A halt asked for unless one is asked for already. -/
theorem State.modGang_ask (s : State) (i n : Nat) :
    s.modGang i (Gang.ask n) = if (s.gangOf i).haltReq.isSome then s else s.modGang i fun g => { g with haltReq := some n } := by
  split
  next h =>
    refine (State.modGang_congr (k := fun g => g) fun g hg => ?_).trans (State.modGang_eq_self fun _ => rfl)
    rw [State.gangOf_of hg] at h
    rw [← Gang.ask_eq, if_pos h]
  next h =>
    refine State.modGang_congr fun g hg => ?_
    rw [State.gangOf_of hg] at h
    rw [← Gang.ask_eq, if_neg h]

/-- A gang of the waiter's launch that is the owner, suspended. -/
def Gang.ownsFor (o g : Gang) (owner : Nat) : Bool :=
  o.launch = g.launch && o.number + 1 = owner && decide (o.st = .suspended)

section
variable {s : State} {ag : Agent} {g : Gang} {t : Thread} {l : Launch} {d key owner : Nat} (hg : s.gangs[ag.gang]? = some g)
  (ht : g.thread? ag.role = some t) (hw : t.wait = .word d key true owner) (hl : s.launchOf g = some l)
include hg ht hw hl

theorem State.directedYield_none
    (h : owner = 0 ∨ l.whole = true ∨ s.gangs.findIdx? (fun o => o.ownsFor g owner) = none) : s.directedYield ag = s := by
  unfold State.directedYield
  dsimp only
  rw [State.gangOf_of hg, State.thread?_of hg, ht, hl, Option.getD_some, hw]
  dsimp only
  split
  · rfl
  · rename_i hgo
    have hnone := (h.resolve_left fun e => hgo (by simp [e])).resolve_left fun e => hgo (by simp [e])
    change s.gangs.findIdx? (fun o => o.launch = g.launch && o.number + 1 = owner && decide (o.st = .suspended)) = none at hnone
    rw [hnone]

theorem State.directedYield_some (ho : owner ≠ 0) (hwh : l.whole = false) {i : Nat}
    (h : s.gangs.findIdx? (fun o => o.ownsFor g owner) = some i) :
    let s1 := ({ s with stamp := s.stamp + 1 } : State).modGang i fun o =>
      { o with resume := o.resume.or (some s.stamp), yielded := true }
    s.directedYield ag = if (s1.coresFor (.again i)).any fun c => s1.fitsCore (s1.shapeOf i) c true then s1
      else s1.modGang ag.gang (Gang.ask 3) := by
  change s.gangs.findIdx? (fun o => o.launch = g.launch && o.number + 1 = owner && decide (o.st = .suspended)) = some i at h
  unfold State.directedYield
  dsimp only
  rw [State.gangOf_of hg, State.thread?_of hg, ht, hl, Option.getD_some, hw]
  dsimp only
  rw [if_neg (by simp [ho, hwh]), h]
  dsimp only
  rw [State.modGang_ask]

end

/-- What a waiter's directed yield does (R180). -/
theorem directedYield_spec (s : State) (ag : Agent) (g : Gang) (t : Thread) (l : Launch) (d key owner : Nat)
    (hg : s.gangs[ag.gang]? = some g) (ht : g.thread? ag.role = some t) (hw : t.wait = .word d key true owner)
    (hl : s.launchOf g = some l) :
    let names (i : Nat) : Prop := ∃ o : Gang, s.gangs[i]? = some o ∧ o.launch = g.launch ∧ o.number + 1 = owner ∧ o.st = .suspended
    (owner = 0 ∨ l.whole = true ∨ (∀ i, ¬names i) → s.directedYield ag = s) ∧
    (∀ i, owner ≠ 0 → l.whole = false → names i → (∀ j < i, ¬names j) →
      let s1 := ({ s with stamp := s.stamp + 1 } : State).modGang i fun o =>
        { o with resume := o.resume.or (some s.stamp), yielded := true }
      let room : Prop := ∃ c ∈ s1.coresFor (.again i), s1.fitsCore (s1.shapeOf i) c true = true
      (room → s.directedYield ag = s1) ∧
      (¬room → s.directedYield ag = s1.modGang ag.gang fun g => { g with haltReq := g.haltReq.or (some 3) })) := by
  intro names
  have hnames (i : Nat) : names i ↔ ∃ o, s.gangs[i]? = some o ∧ o.ownsFor g owner = true := by
    simp only [Gang.ownsFor, Bool.and_eq_true, decide_eq_true_eq, and_assoc, names]
  refine ⟨fun h => State.directedYield_none hg ht hw hl (h.imp_right (Or.imp_right fun hno => ?_)), fun i ho hwh hi hfirst => ?_⟩
  · rw [List.findIdx?_eq_none_iff]
    intro o ho
    obtain ⟨i, hi⟩ := List.mem_iff_getElem?.1 ho
    by_contra hne
    exact hno i ((hnames i).2 ⟨o, hi, by simpa using hne⟩)
  · intro s1 room
    obtain ⟨o, hoi, hown⟩ := (hnames i).1 hi
    have hsome : s.gangs.findIdx? (fun o => o.ownsFor g owner) = some i := by
      rw [List.findIdx?_eq_some_iff_getElem]
      obtain ⟨hlt, hget⟩ := List.getElem?_eq_some_iff.1 hoi
      refine ⟨hlt, by rw [hget]; exact hown, fun j hj hown' => ?_⟩
      exact hfirst j hj ((hnames j).2 ⟨_, List.getElem?_eq_getElem (hj.trans hlt), hown'⟩)
    have hroom : ((s1.coresFor (.again i)).any fun c => s1.fitsCore (s1.shapeOf i) c true) = true ↔ room := List.any_eq_true
    rw [State.directedYield_some hg ht hw hl ho hwh hsome]
    exact ⟨fun h => if_pos (hroom.2 h), fun h => if_neg fun hr => h (hroom.1 hr)⟩

end Sys2Proof.Machine
end


/-! Making use of a core that has been freed (01_work.md, R37, R180, R422). -/

section
namespace Sys2Proof.Machine

/-! Gangs that energy, lane tables and answers leave alone. -/

@[simp] theorem State.gangs_chargeAt (s : State) (gi : Nat) (p : Place) (n : Nat) : (s.chargeAt gi p n).gangs = s.gangs := by
  unfold State.chargeAt
  exact State.charge_gangs _ _ _ _

@[simp] theorem State.gangs_chargeBlocks (s : State) (gi : Nat) (blocks : List Nat) : (s.chargeBlocks gi blocks).gangs = s.gangs := by
  unfold State.chargeBlocks
  induction blocks generalizing s with
  | nil => rfl
  | cons pa blocks ih => rw [List.foldl_cons, ih, State.gangs_chargeAt]

@[simp] theorem State.gangs_restoreGroups (s : State) (gi core : Nat) (l : List (Nat × Nat)) :
    (s.restoreGroups gi core l).gangs = s.gangs := by
  induction l generalizing s with
  | nil => rfl
  | cons x l ih => rw [State.restoreGroups, ih]; rfl

@[simp] theorem State.gangs_sealImage (s : State) (n : Nat) (blocks : List Nat) : (s.sealImage n blocks).gangs = s.gangs := by
  cases blocks <;> rfl

@[simp] theorem State.length_gangs_modGang (s : State) (i : Nat) (f : Gang → Gang) : (s.modGang i f).gangs.length = s.gangs.length :=
  length_modifyAt _ _ _

@[simp] theorem State.length_gangs_freePool (s : State) (gi : Nat) : (s.freePool gi).gangs.length = s.gangs.length := by
  unfold State.freePool
  dsimp only
  split
  · exact State.length_gangs_modGang _ _ _
  · rfl

@[simp] theorem State.length_gangs_evictTiles (s : State) (gi : Nat) : (s.evictTiles gi).gangs.length = s.gangs.length := by
  unfold State.evictTiles
  dsimp only
  rw [State.length_gangs_modGang]
  split
  · rfl
  · rw [State.gangs_chargeBlocks, State.gangs_sealImage]

@[simp] theorem State.length_gangs_changeCore (s : State) (gi core : Nat) :
    (s.changeCore gi core).gangs.length = s.gangs.length := by
  unfold State.changeCore
  dsimp only
  split
  · split
    · exact State.length_gangs_evictTiles s gi
    · rfl
  · split
    · exact State.length_gangs_evictTiles s gi
    · rfl

/-! Placements on one core. -/

/-! The next step of the dispatcher differs in its number alone. -/

theorem State.blocksAt_nextOrd (s : State) (part lvl : Nat) (acc : Acc) (va n : Nat) :
    s.nextOrd.blocksAt part lvl acc va n = s.blocksAt part lvl acc va n := by
  induction n generalizing va with
  | zero => rfl
  | succ n ih =>
    unfold State.blocksAt
    rw [ih, show s.nextOrd.imagePlace part lvl acc va = s.imagePlace part lvl acc va from rfl]
    rfl

theorem State.imageAt_nextOrd (s : State) (gi lvl : Nat) (acc : Acc) : s.nextOrd.imageAt gi lvl acc = s.imageAt gi lvl acc :=
  State.blocksAt_nextOrd s _ _ _ _ _

theorem State.imageStalls_nextOrd (s : State) : s.nextOrd.imageStalls = s.imageStalls := by
  funext gi
  unfold State.imageStalls State.imageWaits
  rw [State.imageAt_nextOrd]
  rfl

theorem State.fitsCore_nextOrd (s : State) (x : Shape) (core : Nat) (second : Bool) :
    s.nextOrd.fitsCore x core second = s.fitsCore x core second := by
  unfold State.fitsCore
  dsimp only
  rw [State.imageStalls_nextOrd]
  rfl

theorem State.readImage_nextOrd (s : State) (gi : Nat) :
    s.nextOrd.readImage gi (s.nextOrd.resumeLevel gi) = s.readImage gi (s.resumeLevel gi) := by
  unfold State.readImage
  dsimp only
  rw [State.imageAt_nextOrd]
  rfl

theorem State.chooseCore_fits {s : State} {x : Shape} {core : Nat} (h : s.fitsCore x core false = true) (cores : List Nat) :
    s.chooseCore x (core :: cores) = some (core, s) := by
  unfold State.chooseCore
  rw [List.find?_cons_of_pos (p := fun c => s.fitsCore x c false) h]

theorem State.chooseCore_none {s : State} {x : Shape} {core : Nat} (h1 : s.fitsCore x core false = false)
    (h2 : s.fitsCore x core true = false) : s.chooseCore x [core] = none := by
  unfold State.chooseCore
  rw [List.find?_cons_of_neg (p := fun c => s.fitsCore x c false) (by rw [h1]; decide), List.find?_nil,
    List.find?_cons_of_neg (p := fun c => s.fitsCore x c true) (by rw [h2]; decide), List.find?_nil]

/-- A gang placed for the first time joins the others (R421). -/
theorem State.gangs_placeNew {s : State} {li slot : Nat} {l : Launch} (hl : s.launches[li]? = some l) {core : Nat}
    (hslot : s.freeSlot core = some slot) (k ord : Nat) :
    (s.placeNew li k core ord).gangs = s.gangs ++ [l.newGang li k core slot ord] := by
  unfold State.placeNew State.launch?
  rw [hl, hslot]
  rfl

/-- A resumed gang stands on its core at once (R401). -/
theorem State.gangOf_resumeOn {s : State} {gi core slot : Nat} (hgi : gi < s.gangs.length) (hslot : s.freeSlot core = some slot)
    (ord : Nat) (recs : List (List Word)) :
    let m := (s.resumeOn gi core ord recs).gangOf gi
    m.st = .resident ∧ m.core = core ∧ m.slot = slot ∧ m.resume = none ∧ m.yielded = false := by
  intro m
  have hm : ∃ g : Gang, (s.resumeOn gi core ord recs).gangs[gi]? = some g ∧
      g.st = .resident ∧ g.core = core ∧ g.slot = slot ∧ g.resume = none ∧ g.yielded = false := by
    unfold State.resumeOn
    rw [hslot]
    dsimp only
    have hlt : gi < ((s.changeCore gi core).freePool gi).gangs.length := by simpa using hgi
    simp only [State.notePlaced, State.answerCtx, State.modLaunch_gangs, State.gangs_restoreGroups, State.freshTables,
      State.modCore_gangs, State.getElem?_modGang, List.getElem?_eq_getElem hlt, if_true, Option.map_some]
    exact ⟨_, rfl, rfl, rfl, rfl, rfl, rfl⟩
  obtain ⟨g, hg, h⟩ := hm
  rw [show m = g from State.gangOf_of hg]
  exact h

/-- A core that is free for a launch's next gang, for the owner of a lock, or for neither (R37, R180). -/
theorem placeFreed_spec (s : State) (core slot : Nat) (hslot : s.freeSlot core = some slot) :
    (∀ li k l, s.launches[li]? = some l → s.fitsCore l.shape core false = true → ∃ m : Gang,
      (s.placeFreed core (.fresh li k)).gangs = s.gangs ++ [m] ∧ m.launch = li ∧ m.number = k ∧ m.core = core ∧
        m.slot = slot ∧ m.st = .resident) ∧
    (∀ gi g l recs, s.gangs[gi]? = some g → s.launches[g.launch]? = some l → s.fitsCore (s.shapeOf gi) core false = true →
      s.readImage gi (s.resumeLevel gi) = some (some recs) →
      let m := (s.placeFreed core (.again gi)).gangOf gi
      m.st = .resident ∧ m.core = core ∧ m.slot = slot ∧ m.resume = none ∧ m.yielded = false) ∧
    (∀ p, s.fitsCore (s.pendingShape p) core false = false → s.fitsCore (s.pendingShape p) core true = false →
      s.placeFreed core p = s) := by
  refine ⟨fun li k l hl hfit => ?_, fun gi g l recs hg hl hfit himg => ?_, fun p h1 h2 => ?_⟩
  · have hplace : s.placeFreed core (.fresh li k) = s.nextOrd.placeNew li k core s.stamp := by
      unfold State.placeFreed State.placeAmong State.pendingLaunch State.pendingShape State.launch?
      dsimp only
      rw [show s.nextOrd.launches[li]? = some l from hl]
      dsimp only
      rw [State.chooseCore_fits ((State.fitsCore_nextOrd s _ _ _).trans hfit)]
      rfl
    rw [hplace, State.gangs_placeNew (s := s.nextOrd) hl hslot]
    exact ⟨_, rfl, rfl, rfl, rfl, rfl, rfl⟩
  · have hplace : s.placeFreed core (.again gi) = (s.nextOrd.resumeOn gi core s.stamp recs).chargeBlocks gi
        ((s.nextOrd.imageAt gi (s.nextOrd.resumeLevel gi) .read).getD []) := by
      unfold State.placeFreed State.placeAmong State.pendingLaunch State.pendingShape State.launch?
      dsimp only
      rw [show s.nextOrd.launches[(s.nextOrd.gangOf gi).launch]? = some l by
        rw [show s.nextOrd.gangOf gi = g from State.gangOf_of hg]; exact hl]
      dsimp only
      rw [show s.nextOrd.shapeOf gi = s.shapeOf gi from rfl,
        State.chooseCore_fits ((State.fitsCore_nextOrd s _ _ _).trans hfit)]
      dsimp only
      unfold State.resumeGang
      rw [State.readImage_nextOrd, himg]
      rfl
    have h := State.gangOf_resumeOn (s := s.nextOrd) (List.getElem?_eq_some_iff.1 hg).1 hslot s.stamp recs
    rw [hplace]
    unfold State.gangOf at h ⊢
    rw [State.gangs_chargeBlocks]
    exact h
  · unfold State.placeFreed State.placeAmong
    rw [show s.nextOrd.pendingShape p = s.pendingShape p from rfl,
      State.chooseCore_none ((State.fitsCore_nextOrd s _ _ _).trans h1) ((State.fitsCore_nextOrd s _ _ _).trans h2)]
    split
    · rfl
    · rfl

end Sys2Proof.Machine
end


/-! Halts that the dispatcher has asked for: the gang goes to the context pool (01_work.md, R37, R180, R389, R390, R425). -/

section
namespace Sys2Proof.Machine

/-! What keeps the number of gangs. -/

@[simp] theorem State.length_gangs_modThread (s : State) (a : Agent) (f : Thread → Thread) :
    (s.modThread a f).gangs.length = s.gangs.length := State.length_gangs_modGang _ _ _

theorem State.length_gangs_foldl {β : Type} {f : State → β → State} (hf : ∀ s x, (f s x).gangs.length = s.gangs.length)
    (l : List β) (s : State) : (l.foldl f s).gangs.length = s.gangs.length := by
  induction l generalizing s with
  | nil => rfl
  | cons x l ih => rw [List.foldl_cons, ih, hf]

@[simp] theorem State.length_gangs_wakeWord (s : State) (owner key : Nat) (v : Word) :
    (s.wakeWord owner key v).gangs.length = s.gangs.length := by
  unfold State.wakeWord
  exact State.length_gangs_foldl (fun s x => State.length_gangs_modThread s _ _) _ _

@[simp] theorem State.length_gangs_completeLaunch (s : State) (li : Nat) : (s.completeLaunch li).gangs.length = s.gangs.length := by
  unfold State.completeLaunch
  split
  · rfl
  · dsimp only
    split
    · rfl
    · split
      · rfl
      · rw [State.length_gangs_wakeWord]; rfl

@[simp] theorem State.length_gangs_finishLaunch (s : State) (li : Nat) : (s.finishLaunch li).gangs.length = s.gangs.length := by
  unfold State.finishLaunch
  split
  · split
    · exact State.length_gangs_completeLaunch s li
    · rfl
  · rfl

@[simp] theorem State.length_gangs_performEntry (s : State) (a : Agent) (k : Nat) :
    (s.performEntry a k).gangs.length = s.gangs.length := by
  unfold State.performEntry
  split
  · rfl
  · split
    · dsimp only
      split
      · rw [State.length_gangs_finishLaunch, State.length_gangs_modThread, State.gangs_chargeAt]
      · rw [State.length_gangs_modThread, State.gangs_chargeAt]
    · split
      · exact State.length_gangs_modThread _ _ _
      · rfl

@[simp] theorem State.length_gangs_drainAll (s : State) (a : Agent) (which : WcEntry → Bool) (fuel : Nat) :
    (s.drainAll a which fuel).gangs.length = s.gangs.length := by
  induction fuel generalizing s with
  | zero => rfl
  | succ fuel ih =>
    unfold State.drainAll
    dsimp only
    split
    · rw [ih, State.length_gangs_performEntry]
    · rfl

theorem State.length_gangs_settleGang (s : State) (gi : Nat) : (s.settleGang gi).gangs.length = s.gangs.length := by
  unfold State.settleGang
  dsimp only
  rw [State.length_gangs_modGang, State.length_gangs_foldl fun s x => State.length_gangs_drainAll s x _ _,
    State.length_gangs_modGang]
  rfl

theorem State.gangs_writeImage {s t : State} {gi va lvl room sub len : Nat}
    (h : s.writeImage gi va lvl room sub = .written t len) : t.gangs = s.gangs := by
  unfold State.writeImage at h
  dsimp only at h
  split at h
  · cases h
  · split at h
    · cases h
    · split at h
      · cases h
      · cases h
        rw [State.gangs_chargeBlocks, State.gangs_sealImage]

/-! Leaving a core. -/

/-- A gang that leaves its core keeps all but the registers of its context. -/
theorem State.gangOf_leaveCore (s : State) (gi i : Nat) :
    (s.leaveCore gi).gangOf i = { s.gangOf i with access := ((s.leaveCore gi).gangOf i).access } := by
  unfold State.leaveCore State.changeModes
  exact State.gangOf_setModes _ _ _ i

theorem State.length_gangs_leaveCore (s : State) (gi : Nat) : (s.leaveCore gi).gangs.length = s.gangs.length := by
  unfold State.leaveCore State.changeModes
  exact State.length_gangs_setModes _ _ _

/-- A gang that is suspended. -/
theorem State.gangOf_suspendGang {s : State} {gi : Nat} (hgi : gi < s.gangs.length) (reason : Nat) :
    ((s.suspendGang gi reason).gangOf gi).st = .suspended ∧ ((s.suspendGang gi reason).gangOf gi).reason = reason ∧
      ((s.suspendGang gi reason).gangOf gi).poolSlot = (s.gangOf gi).poolSlot := by
  have hpool : ((s.leaveCore gi).gangOf gi).poolSlot = (s.gangOf gi).poolSlot := by rw [State.gangOf_leaveCore]
  unfold State.suspendGang
  dsimp only
  rw [State.modGang_gangOf _ _ _ _ (by rw [← State.length_gangs_leaveCore s gi] at hgi; exact hgi), if_pos rfl]
  exact ⟨rfl, rfl, hpool⟩

/-- A gang that has a slot of the context pool (R425). -/
theorem State.suspendToPool_done {s v : State} {gi reason : Nat} {keep : Bool} (hgi : gi < s.gangs.length)
    (h : s.suspendToPool gi reason keep = .done v) :
    (v.gangOf gi).st = .suspended ∧ (v.gangOf gi).reason = reason ∧ (v.gangOf gi).poolSlot.isSome = true := by
  unfold State.suspendToPool at h
  dsimp only at h
  split at h
  · cases h
  · rename_i k _
    split at h
    · cases h
    · cases h
    · cases h
    · rename_i t len hw
      have hlen : gi < t.gangs.length := by
        rw [State.gangs_writeImage hw, State.length_gangs_modGang]
        exact hgi
      injection h with hv
      subst hv
      refine (State.gangOf_suspendGang ?_ reason).imp id fun h => h.imp id fun h => ?_
      · exact (State.length_gangs_modGang t gi _).symm ▸ hlen
      · rw [h]
        show ((t.modGang gi _).gangOf gi).poolSlot.isSome = true
        rw [State.modGang_gangOf _ _ _ _ hlen, if_pos rfl]
        rfl

/-! The halt (R389, R390). -/

section
variable {s : State} {gi : Nat} {g : Gang} (hg : s.gangs[gi]? = some g)
include hg

/-- A gang with no load in flight has none to wait for. -/
theorem State.landFlights_none (h : ∀ u ∈ g.access :: g.harts, u.flight = none) : s.landFlights gi = some s := by
  have hone : ∀ a ∈ g.agents gi, s.performFlight a = some s := fun a ha => by
    have hflight : ((s.thread? a).getD .empty).flight = none := by
      cases ht : s.thread? a with
      | none => rfl
      | some u =>
        refine h u ?_
        unfold Gang.agents at ha
        rcases List.mem_append.1 ha with ha | ha
        · obtain ⟨k, -, rfl⟩ := List.mem_map.1 ha
          rw [State.thread?_of hg] at ht
          exact List.mem_cons_of_mem _ (List.mem_of_getElem? (i := k) ht)
        · obtain rfl := List.mem_singleton.1 ha
          rw [State.thread?_of hg] at ht
          cases ht
          exact List.mem_cons_self
    unfold State.performFlight
    rw [hflight]
  unfold State.landFlights
  rw [State.gangOf_of hg]
  generalize g.agents gi = l at hone
  induction l with
  | nil => rfl
  | cons a l ih =>
    obtain ⟨ha, hl⟩ := List.forall_mem_cons.1 hone
    rw [List.foldl_cons, Option.bind_some, ha]
    exact ih hl

end

/-- The halt of a gang that is alone asked to (R37, R180, R425). -/
theorem gangHalt_spec (s v : State) (gi n : Nat) (g : Gang) (hg : s.gangs[gi]? = some g) (hreq : g.haltReq = some n)
    (hn : n = 2 ∨ n = 3) (hst : g.st = .resident) (hstop : (s.core g.core).stopped = false) (htog : s.together gi = [gi])
    (hfl : ∀ u ∈ g.access :: g.harts, u.flight = none) :
    let part := s.partOfCore g.core
    (s.settleGang gi).suspendToPool gi n (s.part part).keepsw = .done v →
    (v.gangOf gi).st = .suspended ∧ (v.gangOf gi).reason = n ∧ (v.gangOf gi).poolSlot.isSome = true ∧
    (let w := v.modPart part fun p => { p with swaps := bump16 p.swaps }
     n = 2 → ∀ l, w.launchOf g = some l → (l.freshGangs 1 = [] → exec (.gangHalt gi) s = .next w) ∧
      ∀ k rest, l.freshGangs 1 = k :: rest → exec (.gangHalt gi) s = .next (w.placeFreed g.core (.fresh g.launch k))) ∧
    (let w := v.modPart part fun p => { p with yields := bump16 p.yields }
     n = 3 → (w.lockOwners g = [] → exec (.gangHalt gi) s = .next w) ∧
      ∀ k rest, w.lockOwners g = k :: rest → exec (.gangHalt gi) s = .next (w.placeFreed g.core (.again k))) := by
  intro part hv
  obtain ⟨h1, h2, h3⟩ := State.suspendToPool_done
    (by rw [State.length_gangs_settleGang]; exact (List.getElem?_eq_some_iff.1 hg).1) hv
  have hexec : exec (.gangHalt gi) s = execGangHalt gi s := rfl
  unfold execGangHalt State.haltGang at hexec
  dsimp only at hexec
  rw [State.gangOf_of hg, hreq] at hexec
  dsimp only at hexec
  rw [if_neg (not_not.2 hst), if_neg (by omega), if_neg (by rw [hstop]; decide), htog, List.foldl_cons, List.foldl_nil,
    Option.bind_some, State.landFlights_none hg hfl] at hexec
  dsimp only at hexec
  rw [if_neg (by omega), if_neg (by omega), List.foldl_cons, List.foldl_nil, hv] at hexec
  dsimp only at hexec
  refine ⟨h1, h2, h3, fun h l hl => ?_, fun h => ?_⟩
  · rw [if_pos h, hl] at hexec
    dsimp only at hexec
    rw [hexec]
    exact ⟨fun h => by rw [h], fun k rest h => by rw [h]⟩
  · rw [if_neg (by omega)] at hexec
    rw [hexec]
    exact ⟨fun h => by rw [h], fun k rest h => by rw [h]⟩

end Sys2Proof.Machine
end


/-! Retirement of a gang (01_work.md, R26). -/

section
namespace Sys2Proof.Machine

/-! Completing a launch. -/

/-- A gang but for its threads. -/
def Gang.SameBody (g u : Gang) : Prop := u = { g with harts := u.harts, access := u.access }

theorem Gang.SameBody.trans {g u v : Gang} (h : g.SameBody u) (k : u.SameBody v) : g.SameBody v := by
  unfold Gang.SameBody at *
  rw [k, h]

theorem Gang.SameBody.refl (g : Gang) : g.SameBody g := rfl

theorem State.sameBody_modThread (s : State) (a : Agent) (f : Thread → Thread) (i : Nat) :
    (s.gangOf i).SameBody ((s.modThread a f).gangOf i) := by
  unfold State.gangOf State.modThread
  rw [State.getElem?_modGang]
  split
  · cases s.gangs[i]? with
    | none => rfl
    | some g => obtain ⟨j, r⟩ := a; cases r <;> rfl
  · rfl

/-- A state that differs in threads alone. -/
structure State.Threads (s t : State) : Prop where
  rest : t = { s with gangs := t.gangs }
  gangs : ∀ i, (s.gangOf i).SameBody (t.gangOf i)

theorem State.Threads.refl (s : State) : s.Threads s := ⟨rfl, fun _ => .refl _⟩

theorem State.Threads.trans {s t u : State} (h : s.Threads t) (k : t.Threads u) : s.Threads u := by
  refine ⟨?_, fun i => (h.gangs i).trans (k.gangs i)⟩
  have hr := h.rest
  have kr := k.rest
  rw [hr] at kr
  exact kr

theorem State.Threads.modThread (s : State) (a : Agent) (f : Thread → Thread) : s.Threads (s.modThread a f) :=
  ⟨rfl, State.sameBody_modThread s a f⟩

theorem State.Threads.foldl {β : Type} {f : State → β → State} (hf : ∀ (s : State) (x : β), s.Threads (f s x)) (l : List β) (s : State) :
    s.Threads (l.foldl f s) := by
  induction l generalizing s with
  | nil => exact .refl s
  | cons x l ih => exact (hf s x).trans (ih _)

/-- Waking the waiters of a word touches threads and registrations alone (R179). -/
theorem State.wakeWord_threads (s : State) (owner key : Nat) (v : Word) :
    ∃ l, ({ s with sleepers := l } : State).Threads (s.wakeWord owner key v) := by
  unfold State.wakeWord
  exact ⟨_, .foldl (fun s x => .modThread s _ _) _ _⟩

/-- What is left alone where a launch completes: the cores, the gangs but for their threads, and of the launch all but that
it is complete. -/
structure Completes (li : Nat) (s t : State) : Prop where
  cores : t.cores = s.cores
  gangs : ∀ i, (s.gangOf i).SameBody (t.gangOf i)
  launch : ∀ l, s.launches[li]? = some l → ∃ c, t.launches[li]? = some { l with complete := c }

theorem State.completeLaunch_completes (s : State) (li : Nat) : Completes li s (s.completeLaunch li) := by
  have hlaunch (l : Launch) (hl : s.launches[li]? = some l) :
      ∃ c, (s.modLaunch li fun l => { l with complete := true }).launches[li]? = some { l with complete := c } :=
    ⟨true, by rw [State.getElem?_modLaunch, if_pos rfl, hl]; rfl⟩
  unfold State.completeLaunch
  split
  · rename_i hnone
    exact ⟨rfl, fun _ => .refl _, fun l hl => by rw [hnone] at hl; cases hl⟩
  · dsimp only
    split
    · exact ⟨rfl, fun _ => .refl _, hlaunch⟩
    · split
      · exact ⟨rfl, fun _ => .refl _, hlaunch⟩
      · rename_i pa _
        obtain ⟨sl, hrest, hbody⟩ := State.wakeWord_threads
          { s.modLaunch li fun l => { l with complete := true } with mem := _ } (ownerOf 0 (.mem pa)) (keyOf 0 (.mem pa)) _
        exact ⟨by rw [hrest]; rfl, hbody, fun l hl => by rw [hrest]; exact hlaunch l hl⟩

theorem State.finishLaunch_completes (s : State) (li : Nat) : Completes li s (s.finishLaunch li) := by
  have hrefl : Completes li s s := ⟨rfl, fun _ => .refl _, fun l hl => ⟨l.complete, hl⟩⟩
  unfold State.finishLaunch
  split
  · split
    · exact State.completeLaunch_completes s li
    · exact hrefl
  · exact hrefl

/-! Leaving the core's tables. -/

theorem State.lanes_leaveCore {s : State} {gi : Nat} {g : Gang} (hg : s.gangs[gi]? = some g) (k : Nat) :
    (((s.leaveCore gi).core g.core).lanes[k]?).getD none =
      (((s.core g.core).lanes[k]?).getD none).filter fun x => !decide (x.1 = gi) := by
  have hsleep (t : State) : (t.dropSleepers gi).core g.core = t.core g.core := rfl
  have hclaims (t : State) : ((t.dropClaims g.core gi).core g.core).lanes = (t.core g.core).lanes := by
    unfold State.dropClaims
    refine State.lanes_modCore ?_ _
    exact fun _ => rfl
  unfold State.leaveCore State.changeModes
  rw [State.gangOf_of hg]
  dsimp only
  rw [hsleep, State.lanes_setModes, hclaims, State.lanes_freeLanes]

theorem State.cores_freePool (s : State) (gi : Nat) : (s.freePool gi).cores = s.cores := by
  unfold State.freePool
  dsimp only
  split <;> rfl

theorem State.mod_freePool (s : State) (gi : Nat) : (s.freePool gi).mod = s.mod := by
  unfold State.freePool
  dsimp only
  split <;> rfl

theorem State.launches_freePool (s : State) (gi : Nat) : (s.freePool gi).launches = s.launches := by
  unfold State.freePool
  dsimp only
  split <;> rfl

theorem State.mod_leaveCore (s : State) (gi : Nat) : (s.leaveCore gi).mod = s.mod := rfl

theorem State.launches_leaveCore (s : State) (gi : Nat) : (s.leaveCore gi).launches = s.launches := rfl

/-- A gang off its core, with its resources released. -/
def State.released (s : State) (gi : Nat) : State :=
  ((s.leaveCore gi).freePool gi).modGang gi fun g =>
    { g with
      st := .retired, tiles := [], tilesOn := none, ents := [], lq := List.replicate 8 [], sq := List.replicate 4 [],
      bq := List.replicate 4 [], allocs := [], spad := [], haltReq := none, resume := none, yielded := false,
      harts := g.harts.map fun t => { t.closeAll with
        ended := true, wait := .none, vq := [], mq := [], flight := none, taken := [], xfers := t.xfers.filter (·.outlives) },
      access := { g.access.closeAll with ended := true, wait := .none, vq := [], flight := none, xfers := [] } }

section
variable {s : State} {gi : Nat} {g : Gang} (hg : s.gangs[gi]? = some g)
include hg

/-- A released gang, and its core's lane table. -/
theorem State.released_spec :
    ((s.released gi).gangOf gi).st = .retired ∧ ((s.released gi).gangOf gi).tiles = [] ∧
      ((s.released gi).gangOf gi).allocs = [] ∧
      ∀ (k h : Nat) (b : Bool), (((s.released gi).core g.core).lanes[k]?).getD none ≠ some (gi, h, b) := by
  have hlt : gi < ((s.leaveCore gi).freePool gi).gangs.length := by
    rw [State.length_gangs_freePool, State.length_gangs_leaveCore]
    exact (List.getElem?_eq_some_iff.1 hg).1
  have hcore : (s.released gi).core g.core = (s.leaveCore gi).core g.core := by
    show (((s.leaveCore gi).freePool gi).cores[g.core]?).getD .reset = _
    rw [State.cores_freePool]
    rfl
  refine ⟨?_, ?_, ?_, fun k h b hk => ?_⟩
  · unfold State.released; rw [State.modGang_gangOf _ _ _ _ hlt, if_pos rfl]
  · unfold State.released; rw [State.modGang_gangOf _ _ _ _ hlt, if_pos rfl]
  · unfold State.released; rw [State.modGang_gangOf _ _ _ _ hlt, if_pos rfl]
  · rw [hcore, State.lanes_leaveCore hg] at hk
    have := (Option.filter_eq_some_iff.1 hk).2
    simp at this

/-- The boot gang raises its event, and parks the other cores (R447). -/
theorem State.retireGang_boot (hb : s.mod.bootGang = some gi) (outcome : Nat) : s.retireGang gi outcome =
    { s.released gi with
      mod := { s.mod with event := s.mod.event ||| 16#5, bootGang := none },
      cores := (s.released gi).cores.mapIdx fun i c => if i = g.core then c else { c with parked := true } } := by
  have hmod : (s.released gi).mod = s.mod := (State.mod_freePool _ _).trans (State.mod_leaveCore _ _)
  unfold State.retireGang
  dsimp only
  rw [State.gangOf_of hg]
  change (if (s.released gi).mod.bootGang = some gi then _ else _) = _
  rw [hmod, if_pos hb]
  rw [← hmod]
  rfl

/-- Another gang's launch counts it (R21, R26). -/
theorem State.retireGang_count (hb : s.mod.bootGang ≠ some gi) (outcome : Nat) :
    s.retireGang gi outcome = (s.released gi).countRetired g.launch 1 outcome := by
  have hmod : (s.released gi).mod = s.mod := (State.mod_freePool _ _).trans (State.mod_leaveCore _ _)
  unfold State.retireGang
  dsimp only
  rw [State.gangOf_of hg]
  change (if (s.released gi).mod.bootGang = some gi then _ else _) = _
  rw [hmod, if_neg hb]
  rfl

end

section
variable {s : State} {gi : Nat} {g : Gang} (hg : s.gangs[gi]? = some g)
include hg

/-- A gang that retires releases its tiles, allocations and lane groups, and its launch counts it (R21, R26). -/
theorem State.retireGang_spec :
    let t := s.retireGang gi 0
    (t.gangOf gi).st = .retired ∧ (t.gangOf gi).tiles = [] ∧ (t.gangOf gi).allocs = [] ∧
      (∀ (k h : Nat) (b : Bool), ((t.core g.core).lanes[k]?).getD none ≠ some (gi, h, b)) ∧
      ∀ l, s.mod.bootGang ≠ some gi → s.launches[g.launch]? = some l →
        ∃ l' : Launch, t.launches[g.launch]? = some l' ∧ l'.retired = l.retired + 1 ∧ l'.outcome = l.outcome := by
  intro t
  obtain ⟨hst, htiles, hallocs, hlanes⟩ := State.released_spec hg
  by_cases hb : s.mod.bootGang = some gi
  · have ht : t = _ := State.retireGang_boot hg hb 0
    have hcore : (t.core g.core).lanes = ((s.released gi).core g.core).lanes := by
      rw [ht]
      unfold State.core
      dsimp only
      rw [List.getElem?_mapIdx]
      cases (s.released gi).cores[g.core]? with
      | none => rfl
      | some c => simp only [Option.map_some, Option.getD_some, if_true]
    have hgang : t.gangOf gi = (s.released gi).gangOf gi := by rw [ht]; rfl
    rw [hgang, hcore]
    exact ⟨hst, htiles, hallocs, hlanes, fun l hne => absurd hb hne⟩
  · have ht : t = _ := State.retireGang_count hg hb 0
    obtain ⟨hcores, hgangs, hlaunch⟩ := State.finishLaunch_completes ((s.released gi).modLaunch g.launch fun l =>
      { l with retired := l.retired + 1, outcome := if l.outcome = 0 then 0 else l.outcome }) g.launch
    have hgang : ((s.released gi).gangOf gi).SameBody (t.gangOf gi) := by rw [ht]; exact hgangs gi
    have hcore : t.core g.core = (s.released gi).core g.core := by
      unfold State.core
      rw [ht]
      unfold State.countRetired
      rw [hcores]
      rfl
    have hlaunches : (s.released gi).launches = s.launches :=
      (State.launches_freePool _ _).trans (State.launches_leaveCore _ _)
    rw [hcore, hgang]
    refine ⟨hst, htiles, hallocs, hlanes, fun l _ hl => ?_⟩
    obtain ⟨c, hc⟩ := hlaunch _ (by rw [State.getElem?_modLaunch, if_pos rfl, hlaunches, hl]; rfl)
    refine ⟨_, by rw [ht]; exact hc, rfl, ?_⟩
    show (if l.outcome = 0 then 0 else l.outcome) = l.outcome
    split
    · exact (‹l.outcome = 0›).symm
    · rfl

theorem exec_gangRetirement_none
    (hno : ¬(g.st = .resident ∧ ∀ u ∈ g.harts, u.ended = true) ∨ g.access.ended = false ∨ g.access.wc ≠ []) :
    exec (.gangRetirement gi) s = .next s := by
  show execGangRetirement gi s = _
  unfold execGangRetirement
  dsimp only
  rw [State.gangOf_of hg, if_neg]
  simp only [Bool.and_eq_true, decide_eq_true_eq, Gang.alive_isEmpty]
  rintro ⟨⟨hspent, haccess⟩, hwc⟩
  rcases hno with hno | hno | hno
  · exact hno hspent
  · exact absurd (hno.symm.trans haccess) (by decide)
  · exact hno (List.isEmpty_iff.1 hwc)

theorem exec_gangRetirement (hst : g.st = .resident) (hend : ∀ u ∈ g.harts, u.ended = true) (ha : g.access.ended = true)
    (hwc : g.access.wc = []) : exec (.gangRetirement gi) s = .next (s.retireGang gi 0) := by
  show execGangRetirement gi s = _
  unfold execGangRetirement
  dsimp only
  rw [State.gangOf_of hg, if_pos (by simp [hst, ha, hwc, Gang.alive_isEmpty.2 hend])]

end

end Sys2Proof.Machine
end


/-! Placement steps: where nothing waits (01_work.md, R20, R421). -/

section
namespace Sys2Proof.Machine

/-! What is to be placed in a step. -/

theorem State.asked_nil {s : State} {f : Gang → Launch → Bool}
    (h : ∀ g ∈ s.gangs, g.st = .suspended → ∀ l, s.launchOf g = some l → l.complete = false → f g l = false) : s.asked f = [] := by
  unfold State.asked
  rw [List.filter_eq_nil_iff.2]
  · rfl
  · intro i hi hcond
    have hg := List.getElem?_eq_getElem (List.mem_range.1 hi)
    rw [State.gangOf_of hg] at hcond
    rw [Bool.and_eq_true, Bool.and_eq_true, decide_eq_true_eq] at hcond
    obtain ⟨⟨-, hst⟩, hl⟩ := hcond
    split at hl
    · rename_i l hlaunch
      rw [Bool.and_eq_true, Bool.not_eq_true'] at hl
      rw [h _ (List.getElem_mem _) hst l hlaunch hl.1] at hl
      exact absurd hl.2 (by decide)
    · cases hl

theorem State.mem_launchesBy {s : State} {f : Launch → Bool} {i : Nat} :
    i ∈ s.launchesBy f ↔ ∃ l, s.launches[i]? = some l ∧ l.complete = false ∧ f l = true := by
  unfold State.launchesBy State.launch?
  rw [(sortBy_perm _ _).mem_iff, List.mem_filter, List.mem_range]
  constructor
  · rintro ⟨hi, h⟩
    rw [List.getElem?_eq_getElem hi] at h
    simp only [Bool.and_eq_true, Bool.not_eq_true'] at h
    exact ⟨_, List.getElem?_eq_getElem hi, h⟩
  · rintro ⟨l, hl, hc, hf⟩
    refine ⟨(List.getElem?_eq_some_iff.1 hl).1, ?_⟩
    rw [hl]
    simp [hc, hf]

theorem State.nodup_launchesBy (s : State) (f : Launch → Bool) : (s.launchesBy f).Nodup := by
  unfold State.launchesBy
  exact (sortBy_perm _ _).nodup_iff.2 (List.nodup_range.filter _)

/-- No gang of an incomplete launch of the partition is suspended. -/
def State.NoneAsked (s : State) (p : Nat) : Prop :=
  ∀ g ∈ s.gangs, g.st = .suspended → ∀ l, s.launchOf g = some l → l.part = p → l.complete = true

/-- No launch of the partition waits for a placement. -/
def State.NonePending (s : State) (p : Nat) : Prop :=
  ∀ (i : Nat) (l : Launch), s.launches[i]? = some l → l.part = p → l.complete = false → s.pendingOf i l = []

section
variable {x : StepAcc} {p : Nat}

theorem State.asked_noneAsked {s : State} (h : s.NoneAsked p) {f : Gang → Launch → Bool} (hf : ∀ g l, f g l = true → l.part = p) :
    s.asked f = [] :=
  State.asked_nil fun g hg hst l hl hc => by
    by_contra hne
    exact absurd ((h g hg hst l hl (hf g l (by simpa using hne))).symm.trans hc) (by decide)

theorem StepAcc.owners_none (h : x.s.NoneAsked p) (prio : Nat) : x.owners p prio = x := by
  unfold StepAcc.owners
  rw [State.asked_noneAsked h]
  · rfl
  · intro g l hl
    simp only [Bool.and_eq_true, decide_eq_true_eq] at hl
    exact hl.1.1.2

/-- A launch with nothing to place is passed over. -/
theorem StepAcc.launch_none {li : Nat} {l : Launch} (hl : x.s.launches[li]? = some l) (h : x.s.pendingOf li l = []) (mayHold : Bool) :
    x.launch li mayHold = x := by
  unfold StepAcc.launch State.launch?
  rw [hl]
  dsimp only
  rw [h, if_pos (by simp)]

/-- The launches of one effective priority that are not the supervisor's. -/
def Launch.atPrio (p prio : Nat) (l : Launch) : Bool := l.part = p && !l.super && decide (l.effPrio = prio)

theorem Launch.part_of_atPrio {prio : Nat} {l : Launch} (h : l.atPrio p prio = true) : l.part = p := by
  unfold Launch.atPrio at h
  simp only [Bool.and_eq_true, decide_eq_true_eq] at h
  exact h.1.1

/-- One launch of a priority's turn. -/
def StepAcc.turn (p : Nat) (y : StepAcc × Bool) (li : Nat) : StepAcc × Bool :=
  let x := y.1.owners p (y.1.s.prioOf li)
  let z := x.launch li y.2
  (z, y.2 && z.held.length = x.held.length)

/-- A priority at which no gang is asked for visits its launches in turn. -/
theorem StepAcc.priority_eq (h : x.s.NoneAsked p) (prio : Nat) :
    x.priority p prio = ((x.s.launchesBy (Launch.atPrio p prio)).foldl (StepAcc.turn p) (x, true)).1 := by
  unfold StepAcc.priority
  dsimp only
  rw [State.asked_noneAsked h]
  · rfl
  · exact fun g l hl => Launch.part_of_atPrio hl

/-- Where nothing waits, no priority changes anything. -/
theorem StepAcc.priority_none (h : x.s.NoneAsked p) (hp : x.s.NonePending p) (prio : Nat) : x.priority p prio = x := by
  rw [StepAcc.priority_eq h]
  have hmem : ∀ i ∈ x.s.launchesBy (Launch.atPrio p prio), ∃ l, x.s.launches[i]? = some l ∧ x.s.pendingOf i l = [] := fun i hi => by
    obtain ⟨l, hl, hc, hf⟩ := State.mem_launchesBy.1 hi
    exact ⟨l, hl, hp i l hl (Launch.part_of_atPrio hf) hc⟩
  generalize x.s.launchesBy (Launch.atPrio p prio) = L at hmem
  generalize true = b
  induction L generalizing b with
  | nil => rfl
  | cons i L ih =>
    obtain ⟨⟨l, hl, hpend⟩, hL⟩ := List.forall_mem_cons.1 hmem
    have hturn : StepAcc.turn p (x, b) i = (x, b) := by
      unfold StepAcc.turn
      dsimp only
      rw [StepAcc.owners_none h, StepAcc.launch_none hl hpend]
      simp
    rw [List.foldl_cons, hturn]
    exact ih hL b

theorem StepAcc.priorities_none (h : x.s.NoneAsked p) (hp : x.s.NonePending p) (L : List Nat) :
    L.foldl (fun x q => x.priority p q) x = x := by
  induction L with
  | nil => rfl
  | cons q L ih => rw [List.foldl_cons, StepAcc.priority_none h hp, ih]

end

/-! The work of a step before the placements. -/

theorem State.serveRings_idle {s : State} {p : Nat} (h : ∀ super, (s.part p).head super = (s.part p).tail super) :
    s.serveRings p = s := by
  have hone (super : Bool) : s.serveRing p super 128 = s := by
    unfold State.serveRing
    rw [if_pos (h super)]
  unfold State.serveRings
  rw [hone true, hone false]

theorem State.finishWaiting_none {s : State} {p : Nat}
    (h : ∀ (i : Nat) (l : Launch), s.launches[i]? = some l → l.part = p → l.complete = true ∨ l.retired < l.gangs) :
    s.finishWaiting p = s := by
  have hone (i : Nat) (l : Launch) (hl : s.launches[i]? = some l) (hp : l.part = p) : s.finishLaunch i = s := by
    unfold State.finishLaunch
    rw [hl]
    dsimp only
    rw [if_neg]
    simp only [Bool.and_eq_true, decide_eq_true_eq, Bool.not_eq_true']
    rintro ⟨⟨⟨hle, hc⟩, -⟩, -⟩
    rcases h i l hl hp with h | h
    · exact absurd (h.symm.trans hc) (by decide)
    · omega
  unfold State.finishWaiting State.launch?
  generalize List.range s.launches.length = L
  induction L with
  | nil => rfl
  | cons i L ih =>
    rw [List.foldl_cons]
    cases hl : s.launches[i]? with
    | none => exact ih
    | some l =>
      dsimp only
      split
      · rw [hone i l hl ‹_›]; exact ih
      · exact ih

theorem State.resumeBoot_none {s : State} (h : s.mod.bootGang = none) (p : Nat) : s.resumeBoot p = s := by
  unfold State.resumeBoot
  rw [h]

/-- A step in which no ring, no completion and no boot gang has anything to do, and the supervisor has no launch. -/
theorem State.placementStep_eq {s : State} {p : Nat} (hring : ∀ super, (s.part p).head super = (s.part p).tail super)
    (hboot : s.mod.bootGang = none)
    (hfin : ∀ (i : Nat) (l : Launch), s.launches[i]? = some l → l.part = p → l.complete = true ∨ l.retired < l.gangs)
    (hasked : s.nextOrd.NoneAsked p)
    (hsuper : ∀ (i : Nat) (l : Launch), s.launches[i]? = some l → l.part = p → l.complete = false → l.super = false) :
    s.placementStep p = ([7, 6, 5, 4, 3, 2, 1, 0].foldl (fun x q => x.priority p q)
      (⟨s.nextOrd, s.stamp, 0, []⟩ : StepAcc)).s := by
  have hby : s.nextOrd.launchesBy (fun l => l.part = p && l.super) = [] := by
    rw [List.eq_nil_iff_forall_not_mem]
    intro i hi
    obtain ⟨l, hl, hc, hf⟩ := State.mem_launchesBy.1 hi
    simp only [Bool.and_eq_true, decide_eq_true_eq] at hf
    exact absurd ((hsuper i l hl hf.1 hc).symm.trans hf.2) (by decide)
  unfold State.placementStep
  rw [State.serveRings_idle hring, State.finishWaiting_none hfin]
  dsimp only
  rw [State.resumeBoot_none hboot, State.asked_noneAsked hasked (f := fun _ l => l.part = p && l.super)]
  · rw [List.foldl_nil, hby]
    rfl
  · intro g l hl
    simp only [Bool.and_eq_true, decide_eq_true_eq] at hl
    exact hl.1

end Sys2Proof.Machine
end


/-! Placement steps: one gang that waits and fits (01_work.md, R20, R421, R422). -/

section
namespace Sys2Proof.Machine

/-- The registers of a hart at its first instruction (R16). -/
theorem Launch.newHart_spec (l : Launch) (gang h : Nat) :
    (l.newHart gang h).pc = wordAligned l.head.entry ∧ (l.newHart gang h).lvl = l.level ∧
      (l.newHart gang h).reg 1 = BitVec.ofNat 64 gang ∧ (l.newHart gang h).reg 2 = BitVec.ofNat 64 h ∧
      (l.newHart gang h).reg 3 = (l.desc[1]?).getD 0 := by
  refine ⟨rfl, rfl, ?_, ?_, ?_⟩
  · simp [Launch.newHart, Thread.reg]
  · simp [Launch.newHart, Thread.reg]
  · simp [Launch.newHart, Thread.reg]

/-- No gang of a launch is suspended. -/
theorem State.suspendedOf_nil {s : State} {li : Nat} (h : ∀ g ∈ s.gangs, g.launch = li → g.st ≠ .suspended) :
    s.suspendedOf li = [] := by
  unfold State.suspendedOf
  rw [List.filter_eq_nil_iff.2]
  · rfl
  · rintro ⟨i, g⟩ hx hcond
    have hg : s.gangs[i]? = some g := mem_mapIdx_pair.1 hx
    simp only [Bool.and_eq_true, decide_eq_true_eq] at hcond
    exact h g (List.mem_of_getElem? hg) hcond.1 hcond.2

/-- The last gang of a launch that has never been placed. -/
theorem Launch.freshGangs_last {l : Launch} (hc : l.complete = false) (hk : l.killed = []) (hn : l.next + 1 = l.gangs) (n : Nat) :
    l.freshGangs (n + 1) = [l.next] := by
  unfold Launch.freshGangs
  rw [hc, hk, ← hn]
  simp

theorem Launch.freshGangs_none {l : Launch} (hn : l.next = l.gangs) (n : Nat) : l.freshGangs n = [] := by
  unfold Launch.freshGangs
  rw [hn]
  simp

/-- The state after the only gang that waits has been placed. -/
def State.placedOne (s : State) (li core : Nat) (l : Launch) : State := s.nextOrd.placeNew li l.next core s.stamp

section
variable {s : State} {p li core slot : Nat} {l : Launch} (hl : s.launches[li]? = some l)
include hl

theorem State.placedOne_spec (hslot : s.freeSlot core = some slot) :
    let t := s.placedOne li core l
    t.gangs = s.gangs ++ [l.newGang li l.next core slot s.stamp] ∧ t.mem = s.mem ∧ t.mod = s.mod ∧
      t.launches[li]? = some { l with next := l.next + 1, progressed := true, effPrio := l.prio, waited := 0 } ∧
      ∀ j, j ≠ li → t.launches[j]? = s.launches[j]? := by
  have hplace : s.placedOne li core l =
      ((({ s.nextOrd with gangs := s.gangs ++ [l.newGang li l.next core slot s.stamp] } : State).freshTables core
        (l.newGang li l.next core slot s.stamp)).modLaunch li fun m =>
          { m with next := l.next + 1, killed := m.killed }).notePlaced li := by
    unfold State.placedOne State.placeNew State.launch?
    rw [show s.nextOrd.launches[li]? = some l from hl, show s.nextOrd.freeSlot core = some slot from hslot]
    rfl
  rw [hplace]
  refine ⟨rfl, rfl, rfl, ?_, fun j hj => ?_⟩
  · unfold State.notePlaced
    rw [State.getElem?_modLaunch, if_pos rfl, State.getElem?_modLaunch, if_pos rfl]
    show Option.map _ (Option.map _ s.launches[li]?) = _
    rw [hl]
    rfl
  · unfold State.notePlaced
    rw [State.getElem?_modLaunch, if_neg hj, State.getElem?_modLaunch, if_neg hj]
    rfl

/-- The visit of the launch places its gang. -/
theorem StepAcc.launch_places (hc : l.complete = false) (hco : l.coresident = false) (hd : l.determ = false)
    (hk : l.killed = []) (hn : l.next + 1 = l.gangs) (hnone : ∀ g ∈ s.gangs, g.launch = li → g.st ≠ .suspended)
    (he : s.energyFor l = true) {rest : List Nat} (hcores : s.allowedCores l l.next = core :: rest)
    (hfit : s.fitsCore l.shape core false = true) (mayHold : Bool) :
    (⟨s.nextOrd, s.stamp, 0, []⟩ : StepAcc).launch li mayHold = ⟨s.placedOne li core l, s.stamp, 1, []⟩ := by
  have hwhole : l.whole = false := by unfold Launch.whole; rw [hco, hd]; rfl
  have hpend : s.nextOrd.pendingOf li l = [.fresh li l.next] := by
    unfold State.pendingOf
    rw [State.suspendedOf_nil (s := s.nextOrd) hnone, hwhole, if_neg (by decide), Launch.freshGangs_last hc hk hn 31]
    rfl
  have hone : s.nextOrd.placeOne s.stamp (.fresh li l.next) = some (s.placedOne li core l, true) := by
    unfold State.placeOne State.placeAmong State.pendingLaunch State.coresFor State.pendingShape State.launch?
    dsimp only
    rw [show s.nextOrd.launches[li]? = some l from hl]
    dsimp only
    rw [if_pos (show s.nextOrd.energyFor l = true from he), show s.nextOrd.allowedCores l l.next = core :: rest from hcores,
      State.chooseCore_fits ((State.fitsCore_nextOrd s _ _ _).trans hfit)]
    rfl
  unfold StepAcc.launch State.launch?
  dsimp only
  rw [show s.nextOrd.launches[li]? = some l from hl]
  dsimp only
  rw [hpend, if_neg (by simp), if_neg (by rw [hwhole]; decide)]
  unfold StepAcc.visit
  rw [if_neg (show ¬32 ≤ 0 by decide)]
  dsimp only
  rw [if_neg (show ¬StepAcc.holds ⟨s.nextOrd, s.stamp, 0, []⟩ _ = true from Bool.false_ne_true), hone]
  rfl

end

/-- A gang whose launch is the boot code object or an incomplete launch of the partition. -/
theorem State.noneAsked_of {s : State} {p : Nat} (hboot : ∀ m, s.mod.boot = some m → m.complete = true)
    (h : ∀ g ∈ s.gangs, g.st = .suspended → ∀ l, s.launches[g.launch]? = some l → l.part = p → l.complete = true) :
    s.NoneAsked p := by
  intro g hg hst l hl hp
  unfold State.launchOf at hl
  split at hl
  · exact hboot l hl
  · exact h g hg hst l hl hp

/-- A placement step where nothing waits takes its place in the order and no more. -/
theorem exec_placementStep_idle {s : State} {p : Nat} (hp : p < 2 ^ s.mod.plog)
    (hring : ∀ super, (s.part p).head super = (s.part p).tail super) (hbg : s.mod.bootGang = none)
    (hboot : ∀ m, s.mod.boot = some m → m.complete = true) (hall : ∀ l ∈ s.launches, l.part = p → l.complete = true) :
    exec (.placementStep p) s = .next { s with stamp := s.stamp + 1 } := by
  have hcomplete (i : Nat) (l : Launch) (hl : s.launches[i]? = some l) (hlp : l.part = p) : l.complete = true :=
    hall l (List.mem_of_getElem? hl) hlp
  have hasked : s.nextOrd.NoneAsked p := State.noneAsked_of hboot fun g _ _ l hl hlp => hcomplete _ l hl hlp
  have hpending : s.nextOrd.NonePending p := fun i l hl hlp hc =>
    absurd ((hcomplete i l hl hlp).symm.trans hc) (by decide)
  have hstep := State.placementStep_eq hring hbg (fun i l hl hlp => .inl (hcomplete i l hl hlp)) hasked
    fun i l hl hlp hc => absurd ((hcomplete i l hl hlp).symm.trans hc) (by decide)
  show execPlacementStep p s = _
  unfold execPlacementStep
  rw [if_pos hp, hstep, StepAcc.priorities_none (x := ⟨s.nextOrd, s.stamp, 0, []⟩) hasked hpending]
  rfl

section
variable {s : State} {p li core slot : Nat} {l : Launch} (hl : s.launches[li]? = some l) (hn : l.next + 1 = l.gangs)
  (hone : ∀ j m, s.launches[j]? = some m → m.part = p → m.complete = false → j = li)
  (hboot : ∀ m, s.mod.boot = some m → m.complete = true) (hnone : ∀ g ∈ s.gangs, g.launch = li → g.st ≠ .suspended)
  (hslot : s.freeSlot core = some slot)
include hone hboot hnone

theorem State.noneAsked_nextOrd : s.nextOrd.NoneAsked p :=
  State.noneAsked_of hboot fun g hg hst m hm hmp => by
    by_contra hmc
    exact hnone g hg (hone _ m hm hmp (by simpa using hmc)) hst

include hl hn hslot

/-- Once its gang is placed, nothing waits in the partition. -/
theorem State.placedOne_idle : (s.placedOne li core l).NoneAsked p ∧ (s.placedOne li core l).NonePending p := by
  obtain ⟨hgangs, -, hmod, hself, hothers⟩ := State.placedOne_spec hl hslot
  have hst : ∀ g ∈ (s.placedOne li core l).gangs, g.launch = li → g.st ≠ .suspended := fun g hg hgl => by
    rw [hgangs] at hg
    rcases List.mem_append.1 hg with hg | hg
    · exact hnone g hg hgl
    · rw [List.mem_singleton.1 hg]
      exact fun h => by cases h
  have hincomplete (i : Nat) (m : Launch) (hm : (s.placedOne li core l).launches[i]? = some m) (hmp : m.part = p)
      (hmc : m.complete = false) : i = li := by
    by_contra hi
    exact hi (hone i m ((hothers i hi).symm.trans hm) hmp hmc)
  refine ⟨State.noneAsked_of (by rw [hmod]; exact hboot) fun g hg hgs m hm hmp => ?_, fun i m hm hmp hmc => ?_⟩
  · by_contra hmc
    exact hst g hg (hincomplete _ m hm hmp (by simpa using hmc)) hgs
  · obtain rfl := hincomplete i m hm hmp hmc
    rw [hself] at hm
    cases hm
    unfold State.pendingOf
    rw [State.suspendedOf_nil hst, Launch.freshGangs_none hn]
    rfl

end

/-- Where only one priority of a list does anything, it alone counts. -/
theorem StepAcc.priorities_one {x y : StepAcc} {p e : Nat} {L : List Nat} (he : e ∈ L)
    (hskip : ∀ q, q ≠ e → x.priority p q = x) (hhit : x.priority p e = y) (hafter : ∀ L : List Nat, L.foldl (fun x q => x.priority p q) y = y) :
    L.foldl (fun x q => x.priority p q) x = y := by
  induction L with
  | nil => cases he
  | cons q L ih =>
    rw [List.foldl_cons]
    by_cases hq : q = e
    · rw [hq, hhit, hafter]
    · rw [hskip q hq]
      exact ih ((List.mem_cons.1 he).resolve_left (Ne.symm hq))

section
variable {s : State} {p li core slot : Nat} {l : Launch} (hl : s.launches[li]? = some l) (hlp : l.part = p)
  (hc : l.complete = false) (hs : l.super = false)
  (hone : ∀ j m, s.launches[j]? = some m → m.part = p → m.complete = false → j = li)
include hl hlp hc hs hone

/-- The only launch of a partition is visited at its own priority. -/
theorem State.launchesBy_atPrio (q : Nat) :
    s.nextOrd.launchesBy (Launch.atPrio p q) = if q = l.effPrio then [li] else [] := by
  have hmem (i : Nat) : i ∈ s.nextOrd.launchesBy (Launch.atPrio p q) ↔ i = li ∧ q = l.effPrio := by
    rw [State.mem_launchesBy]
    constructor
    · rintro ⟨m, hm, hmc, hmf⟩
      obtain rfl := hone i m hm (Launch.part_of_atPrio hmf) hmc
      rw [show s.nextOrd.launches[i]? = s.launches[i]? from rfl, hl] at hm
      cases hm
      unfold Launch.atPrio at hmf
      simp only [Bool.and_eq_true, decide_eq_true_eq] at hmf
      exact ⟨rfl, hmf.2.symm⟩
    · rintro ⟨rfl, rfl⟩
      exact ⟨l, hl, hc, by simp [Launch.atPrio, hlp, hs]⟩
  split
  · exact eq_singleton_of_nodup (State.nodup_launchesBy _ _) fun i => (hmem i).trans (and_iff_left ‹_›)
  · rw [List.eq_nil_iff_forall_not_mem]
    exact fun i hi => ‹¬q = l.effPrio› ((hmem i).1 hi).2

end

/-- A placement step where one gang waits, which fits. -/
theorem exec_placementStep_places {s : State} {p li core slot : Nat} {l : Launch} {rest : List Nat} (hp : p < 2 ^ s.mod.plog)
    (hring : ∀ super, (s.part p).head super = (s.part p).tail super) (hbg : s.mod.bootGang = none)
    (hl : s.launches[li]? = some l) (hlp : l.part = p) (hc : l.complete = false) (hs : l.super = false) (hprio : l.effPrio ≤ 7)
    (hco : l.coresident = false) (hd : l.determ = false) (hk : l.killed = []) (hn : l.next + 1 = l.gangs)
    (hret : l.retired < l.gangs) (hone : ∀ j m, s.launches[j]? = some m → m.part = p → m.complete = false → j = li)
    (hboot : ∀ m, s.mod.boot = some m → m.complete = true) (hnone : ∀ g ∈ s.gangs, g.launch = li → g.st ≠ .suspended)
    (he : s.energyFor l = true) (hcores : s.allowedCores l l.next = core :: rest)
    (hfit : s.fitsCore l.shape core false = true) (hslot : s.freeSlot core = some slot) :
    exec (.placementStep p) s = .next (s.placedOne li core l) := by
  have hthis (i : Nat) (m : Launch) (hm : s.launches[i]? = some m) (hmp : m.part = p) (hmc : m.complete = false) : m = l := by
    rw [hone i m hm hmp hmc, hl] at hm
    exact (Option.some.inj hm).symm
  have hasked := State.noneAsked_nextOrd hone hboot hnone
  obtain ⟨hasked', hpending'⟩ := State.placedOne_idle hl hn hone hboot hnone hslot
  have hstep := State.placementStep_eq hring hbg
    (fun i m hm hmp => (Bool.eq_false_or_eq_true m.complete).imp_right fun hmc => hthis i m hm hmp hmc ▸ hret) hasked
    fun i m hm hmp hmc => hthis i m hm hmp hmc ▸ hs
  have hskip (q : Nat) (hq : q ≠ l.effPrio) :
      StepAcc.priority ⟨s.nextOrd, s.stamp, 0, []⟩ p q = ⟨s.nextOrd, s.stamp, 0, []⟩ := by
    rw [StepAcc.priority_eq hasked, State.launchesBy_atPrio hl hlp hc hs hone, if_neg hq]
    rfl
  have hhit : StepAcc.priority ⟨s.nextOrd, s.stamp, 0, []⟩ p l.effPrio = ⟨s.placedOne li core l, s.stamp, 1, []⟩ := by
    rw [StepAcc.priority_eq hasked, State.launchesBy_atPrio hl hlp hc hs hone, if_pos rfl, List.foldl_cons, List.foldl_nil]
    unfold StepAcc.turn
    dsimp only
    rw [StepAcc.owners_none (x := ⟨s.nextOrd, s.stamp, 0, []⟩) hasked,
      StepAcc.launch_places hl hc hco hd hk hn hnone he hcores hfit]
  have hlist : l.effPrio ∈ [7, 6, 5, 4, 3, 2, 1, 0] := by
    simp only [List.mem_cons, List.not_mem_nil, or_false]
    omega
  show execPlacementStep p s = _
  unfold execPlacementStep
  rw [if_pos hp, hstep, StepAcc.priorities_one hlist hskip hhit
    (StepAcc.priorities_none (x := ⟨s.placedOne li core l, s.stamp, 1, []⟩) hasked' hpending')]

end Sys2Proof.Machine
end


/-! Doorbells, placement, samples, swaps, pending traps, and the end of contexts and gangs (01_work.md, R20, R26, R37,
R180, R251, R382, R420 to R425). -/

section
namespace Sys2Proof.Machine

/-- What a doorbell of a ring answers (R420). -/
def State.ServesRing (s : State) (o : Out) (p : Nat) (super : Bool) (tail : BitVec 16) : Prop :=
  let ring := if super then (s.part p).ssring else (s.part p).sring
  let head := (s.part p).head super
  (2 ^ s.mod.plog ≤ p → o = .next s) ∧
  (p < 2 ^ s.mod.plog → ring.getLsbD 0 = false ∨ 128 < (tail - head).toNat →
    o = .next (s.modPart p fun q => { q with ringerr := true })) ∧
  (p < 2 ^ s.mod.plog → p < s.parts.length → ring.getLsbD 0 = true → (tail - head).toNat ≤ 128 →
    Answers o fun t => ((t.part p).head super = tail ∨ t.serveEntry p super = none) ∧
      (t.part p).tail super = tail ∧ t.gangs = s.gangs ∧ s.launches <+: t.launches)

theorem State.servesRing_doorbell (s : State) (p : Nat) (super : Bool) (tail : BitVec 16) :
    s.ServesRing (.next (s.doorbell p super tail)) p super tail := by
  obtain ⟨h1, h2, h3⟩ := s.doorbell_spec p super tail
  exact ⟨fun hp => congrArg _ (h1 hp), fun hp hno => congrArg _ (h2 hp hno), fun hp hlt hon hn => .intro rfl (h3 hp hlt hon hn)⟩

/-- The doorbell of kind 2 (R380, R420). -/
theorem exec_doorbellDbell (s : State) (p : Nat) :
    exec (.doorbellDbell p) s = .next (if p < 2 ^ s.mod.plog then s.raiseEvent p 1 else s) := rfl

theorem exec_placementStep (s : State) (p : Nat) :
    exec (.placementStep p) s = .next (if p < 2 ^ s.mod.plog then s.placementStep p else s) := rfl

/-- The harts of a gang at its first placement (R16). -/
theorem Launch.newGang_harts {l : Launch} {li gang core slot ord h : Nat} {u : Thread}
    (hu : (l.newGang li gang core slot ord).harts[h]? = some u) : u = l.newHart gang h := by
  change ((List.range l.harts).map (l.newHart gang))[h]? = some u at hu
  rw [List.getElem?_map, Option.map_eq_some_iff] at hu
  obtain ⟨k, hk, rfl⟩ := hu
  obtain ⟨hlt, hk⟩ := List.getElem?_eq_some_iff.1 hk
  rw [List.getElem_range] at hk
  rw [hk]

theorem Launch.newGang_length (l : Launch) (li gang core slot ord : Nat) :
    (l.newGang li gang core slot ord).harts.length = l.harts := by
  simp [Launch.newGang]

/-- Settles O56: each clause is the lemma about its step. -/
theorem dispatchAndRetirement : Obligations.DispatchAndRetirement := by
  unfold Obligations.DispatchAndRetirement
  refine ⟨?_, ?_, dispatchSample_ages, ?_, ?_, ?_, directedYield_spec, gangHalt_spec, placeFreed_spec⟩
  · intro s p tail served
    refine ⟨s.servesRing_doorbell p false tail, s.servesRing_doorbell p true tail, fun hp => ?_, fun hp => ?_⟩
    · rw [exec_doorbellDbell, if_neg (by omega)]
    · rw [exec_doorbellDbell, if_pos hp]
      exact .intro rfl (s.raiseEvent_spec p 1)
  · intro s p
    refine ⟨fun hp => by rw [exec_placementStep, if_neg (by omega)], ?_⟩
    intro idle
    refine ⟨fun hp hidle hbg hboot hall => exec_placementStep_idle hp hidle hbg hboot hall, ?_⟩
    intro li core slot l rest hp hidle hbg hl hlp hc hs hprio hco hd hk hn hret hone hboot hnone he hcores hfit hslot
    refine .intro (exec_placementStep_places hp hidle hbg hl hlp hc hs hprio hco hd hk hn hret hone hboot hnone he hcores hfit
      hslot) ?_
    obtain ⟨hgangs, hmem, -⟩ := State.placedOne_spec hl hslot
    refine ⟨hmem, _, hgangs, rfl, rfl, rfl, rfl, rfl, l.newGang_length _ _ _ _ _, fun h u hu => ?_⟩
    rw [Launch.newGang_harts hu]
    exact l.newHart_spec l.next h
  · intro s gi h g u hg hu
    exact ⟨rfl, fun hno => exec_trapEntry_none hg hu hno, fun c level v hst hhalt hstop hended hdebug hflight hc hcode hl =>
      exec_trapEntry_taken hg hu hst hhalt hstop hended hdebug hflight hc hcode hl⟩
  · intro s gi g hg spent
    exact ⟨fun hno => exec_accessContextStop_none hg hno, fun h ha => accessContextStop_spec hg h.1 h.2 ha,
      fun hno => exec_gangRetirement_none hg hno,
      fun h ha hwc => .intro (exec_gangRetirement hg h.1 h.2 ha hwc) (State.retireGang_spec hg)⟩
  · intro s p li l hl hp hc hw hsleep hone
    exact dispatchSample_swaps hl hp hc hw hsleep hone

end Sys2Proof.Machine
end

section
/-! The issue of a fetched word: what a fetch leaves, and the step of an agent that is to issue (R53, R140, R166, R382). -/

namespace Sys2Proof.Machine

/-- A sector that may not be fetched gives no word. -/
theorem State.fetchSector_error {s : State} {pa : Nat} {r : Fetched} (h : s.fetchSector pa = .error r) :
    ∀ w u, r ≠ .word w u := by
  have hs : r = .fault cPROT ∨ r = .stall := by
    unfold State.fetchSector at h
    cases hr : s.training pa <;> rw [hr] at h
    · split at h
      · exact .inl (Except.error.inj h).symm
      · simp at h
    · split at h
      · exact .inl (Except.error.inj h).symm
      · exact .inr (Except.error.inj h).symm
  rcases hs with rfl | rfl <;> simp

/-- A fetch that gives a word notes translations and charges, and fills a cache line. -/
theorem State.Noted.fetch {s u : State} {a : Agent} {w : Word32} (h : s.fetch a = .word w u) : s.Noted u := by
  unfold State.fetch at h
  dsimp only at h
  split at h
  · cases h
  split at h
  · cases h
  split at h
  · cases h; exact .refl s
  split at h
  · cases h
  · rename_i pa s1 ht
    have hn : s.Noted s1 := by
      rcases State.translate_frame ht with rfl | ⟨l, n, rfl⟩
      · exact .refl _
      · exact .trans (.cacheLeaf s a l) (.charge _ _ _ _)
    split at h
    · rename_i hf
      exact absurd h (State.fetchSector_error hf _ _)
    · cases h
      refine hn.trans ?_
      split
      · exact .charge _ _ _ _
      · exact .trans (.charge _ _ _ _) (.modCore _ _ fun _ => rfl)

section
variable {s : State} {a : Agent} {t : Thread} {w : Word32}

/-- What the thread of an agent holds of loads after its fetch. -/
theorem State.fetch_thread? {u : State} (h : s.fetch a = .word w u) (ht : s.thread? a = some t) :
    ∃ v, u.thread? a = some v ∧ v.flight = t.flight ∧ v.taken = t.taken := by
  obtain ⟨v, hv, hn⟩ := (State.Noted.fetch h).thread? ht
  exact ⟨v, hv, by rw [hn], by rw [hn]⟩

/-- An agent that may issue and has nothing pending or to wait for goes on to its word (R382). -/
theorem State.issueWith_eq (ht : s.thread? a = some t) (hw : t.wait = .none) (hm : s.mayIssue a = true)
    (hb : (s.gangOf a.gang).bad = false) (hp : ∀ h, a.role = .hart h → s.pendingCauses a.gang h = [])
    (k : State → Word32 → Out) : s.issueWith a k = s.runPc a k := by
  have hg : s.goOn a k = s.runPc a k := by simp [State.goOn, ht, hw]
  unfold State.issueWith
  rw [hm, hb]
  cases hr : a.role with
  | access => exact hg
  | hart h =>
    simp only [hp h hr]
    exact hg

/-- Above level 0 no breakpoint comes before the word that is fetched (R381). -/
theorem State.runPc_of_word {u : State} (ht : s.thread? a = some t) (hl : t.lvl ≠ 0) (hf : s.fetch a = .word w u)
    (k : State → Word32 → Out) : s.runPc a k = k u w := by
  simp [State.runPc, ht, hl, hf]

/-- Giving up nothing that was taken ahead changes nothing. -/
theorem State.forgetTaken_of_nil (ht : s.thread? a = some t) (hn : t.taken = []) : s.forgetTaken a = s := by
  simp [State.forgetTaken, ht, hn]

/-- With nothing taken ahead and no load in flight a word is executed as it is. -/
theorem State.landFor_of_no_flight (ht : s.thread? a = some t) (hn : t.taken = []) (hf : t.flight = none)
    (o : State → Out) : s.landFor a w o = some s := by
  simp [State.landFor, State.forgetTaken_of_nil ht hn, ht, hf]

section
variable {f : Flight} {o : State → Out} (ht : s.thread? a = some t) (hn : t.taken = []) (hf : t.flight = some f)
include ht hn hf

/-- A word that passes the load in flight, and does not trap, is executed as it is (R117). -/
theorem State.landFor_of_passes (hp : s.passesLoad a f.d w = true)
    (hk : ∀ u, o s = .next u → s.trapped u a = false) : s.landFor a w o = some s := by
  simp only [State.landFor, State.forgetTaken_of_nil ht hn, ite_self, ht, Option.getD_some, hf]
  cases ho : o s with
  | next u => simp [hp, hk u ho]
  | fault r => simp [hp]
  | refused r => simp [hp]

/-- Any other word finds the load performed (R166). -/
theorem State.landFor_of_waits (hp : s.passesLoad a f.d w = false) : s.landFor a w o = s.performFlight a := by
  simp [State.landFor, State.forgetTaken_of_nil ht hn, ht, hf, hp]

/-- A word that traps finds the load performed (R166). -/
theorem State.landFor_of_traps {u : State} (ho : o s = .next u) (hk : s.trapped u a = true) :
    s.landFor a w o = s.performFlight a := by
  simp [State.landFor, State.forgetTaken_of_nil ht hn, ht, hf, ho, hk]

end

/-- What a word that decodes does once it is fetched (R143, R166, R250). -/
theorem State.runWord_eq {i : Instr} (hd : Sys2Proof.decode (ctxOf a) w = .ok i) :
    let u := { s with cur := some a, word := w }
    s.runWord a w = if u.waitsScalar a w then u.stallFor .busy else
      match u.landFor a w (exec i) with
      | none => u.stallFor .busy
      | some v => mapNext (exec i v) fun x => x.ownsScalar a w := by
  have hm : (fun u : State => u.meaning a w) = exec i := by
    funext u
    unfold State.meaning
    rw [hd]
  intro u
  unfold State.runWord
  rw [hm]
  simp only [congrFun hm]
  rfl

end

/-- The step of an agent above level 0 that is to issue is the run of the word it fetches. -/
theorem step_issue {s s1 : State} {a : Agent} {rest : List Turn} {t : Thread} {w : Word32} (ha : s.agenda = .issue a :: rest)
    (ho : s.mod.off = false) (ht : s.thread? a = some t) (hw : t.wait = .none) (hl : t.lvl ≠ 0)
    (hm : ({ s with agenda := rest }).mayIssue a = true) (hb : (s.gangOf a.gang).bad = false)
    (hp : ∀ h, a.role = .hart h → s.pendingCauses a.gang h = []) (hf : ({ s with agenda := rest }).fetch a = .word w s1) :
    step s = s1.runWord a w := by
  let s0 : State := { s with agenda := rest }
  have hs : step s = s0.issueWith a fun u w => u.runWord a w := by
    unfold step
    rw [ha]
    simp only [ho, Bool.false_and, Bool.false_eq_true, if_false]
    rfl
  rw [hs, State.issueWith_eq (t := t) (s := s0) ht hw hm hb hp]
  exact State.runPc_of_word (s := s0) ht hl hf _

/-- Settles O4: the step runs the word it fetches, and the fetch leaves what the agent's loads have in flight. -/
theorem stepRunsDecodedWord : Obligations.StepRunsDecodedWord := by
  unfold Obligations.StepRunsDecodedWord
  intro s s1 a rest t w i ha ho ht hw hl hm hb hp hf hd s2
  obtain ⟨v, hv, hflight, htaken⟩ := State.fetch_thread? (s := { s with agenda := rest }) hf ht
  have hv : s2.thread? a = some v := hv
  have hstep := (step_issue ha ho ht hw hl hm hb hp hf).trans (State.runWord_eq hd)
  rw [← hflight, ← htaken]
  refine ⟨fun hs => ?_, fun hs => ⟨fun h1 h2 => ?_, fun h => ?_, fun s3 h => ?_⟩,
    fun h1 h2 => State.landFor_of_no_flight hv h2 h1 _, fun f h1 h2 => ⟨State.landFor_of_passes hv h2 h1,
      State.landFor_of_waits hv h2 h1, fun u => State.landFor_of_traps hv h2 h1⟩⟩
  · rw [hstep, if_pos hs]
  · rw [hstep, if_neg (by rw [hs]; nofun), State.landFor_of_no_flight hv h2 h1]
  · rw [hstep, if_neg (by rw [hs]; nofun), h]
  · rw [hstep, if_neg (by rw [hs]; nofun), h]

end Sys2Proof.Machine
end

section
/-! Atomics: the access, the wait of a release, and the update (R110, R129, R167, R177, R178). -/

namespace Sys2Proof.Machine

/-! Where the agent in execution stands. -/

/-- The agent in execution of `t` exists, at the pc and with the registers that it has in `s`. -/
structure State.StandsAs (s t : State) : Prop where
  live : t.live = true
  pc : t.pc = s.pc
  x : ∀ r, t.x r = s.x r

theorem State.StandsAs.trans {s t u : State} (h : s.StandsAs t) (k : t.StandsAs u) : s.StandsAs u :=
  ⟨k.live, k.pc.trans h.pc, fun r => (k.x r).trans (h.x r)⟩

theorem State.StandsAs.refl {s : State} (h : s.live = true) : s.StandsAs s := ⟨h, rfl, fun _ => rfl⟩

/-- A change that keeps the pc and the registers of every thread moves no agent. -/
theorem State.StandsAs.of_thread {s t : State} (hl : s.live = true) (hc : t.cur = s.cur)
    (ht : ∀ a u, s.thread? a = some u → ∃ v, t.thread? a = some v ∧ v.pc = u.pc ∧ v.regs = u.regs) : s.StandsAs t := by
  obtain ⟨a, u, ha, hu⟩ := State.live_iff.1 hl
  obtain ⟨v, hv, hpc, hregs⟩ := ht a u hu
  refine ⟨State.live_iff.2 ⟨a, v, hc.trans ha, hv⟩, ?_, fun r => ?_⟩
  · simp [State.pc, State.me, hc, ha, hu, hv, hpc]
  · simp [State.x, State.me, Thread.reg, hc, ha, hu, hv, hregs]

theorem State.Noted.standsAs {s t : State} (h : s.Noted t) (hl : s.live = true) : s.StandsAs t :=
  .of_thread hl (by rw [h.rest]) fun _ _ hu => by
    obtain ⟨v, hv, hn⟩ := h.thread? hu
    exact ⟨v, hv, by rw [hn], by rw [hn]⟩

theorem State.StandsAs.setMe {s : State} (h : s.live = true) {f : Thread → Thread} (hp : ∀ t, (f t).pc = t.pc)
    (hr : ∀ t, (f t).regs = t.regs) : s.StandsAs (s.setMe f) :=
  ⟨by simpa using h, by simp [State.pc, h, hp], fun r => by simp [State.x, Thread.reg, h, hr]⟩

theorem State.thread?_pokeAt (s : State) (a b : Agent) (p : Place) (n v : Nat) :
    (s.pokeAt a p n v).thread? b = s.thread? b := by
  cases p with
  | mem pa => rfl
  | spad off | sdm off =>
    unfold State.pokeAt
    dsimp only
    rw [State.thread?_modGang]
    split
    · rename_i h
      unfold State.thread?
      rw [h]
      cases s.gangs[a.gang]? with
      | none => rfl
      | some g => cases b.role <;> rfl
    · rfl

theorem State.StandsAs.pokeAt {s : State} (h : s.live = true) (a : Agent) (p : Place) (n v : Nat) :
    s.StandsAs (s.pokeAt a p n v) :=
  .of_thread h (by cases p <;> rfl) fun b u hu => ⟨u, (s.thread?_pokeAt a b p n v).trans hu, rfl, rfl⟩

/-! The access. -/

/-- Finding a place notes a translation and its charge. -/
theorem State.Noted.place {s t : State} {a : Agent} {lvl n al : Nat} {acc : Acc} {first : Bool} {va : Word} {p : Place}
    (h : s.place a lvl acc first va n al = .ok (p, t)) : s.Noted t := by
  rcases State.place_frame h with rfl | ⟨l, m, rfl⟩
  · exact .refl _
  · exact .trans (.cacheLeaf s a l) (.charge _ _ _ _)

/-- A scalar access that passes its checks goes on at its place. -/
theorem State.scalarAccess_of_reaches {s t : State} {acc : Acc} {va : Word} {n : Nat} {p : Place}
    (h : s.reaches acc va n p t) (k : State → Place → Out) : s.scalarAccess acc va n k = k t p := by
  obtain ⟨⟨hplace, hfree⟩, hread⟩ := h
  unfold State.scalarAccess State.accessIn
  rw [hplace]
  dsimp only
  rw [hfree]
  dsimp only
  rw [hread]

/-- A scalar access that fails a check, or meets a transfer, comes to what R129 and R167 say, whatever would follow it. -/
theorem State.Denies.scalarAccess (s : State) (acc : Acc) (va : Word) (n : Nat) (k : State → Place → Out) :
    s.Denies (s.scalarAccess acc va n k) acc va n where
  placed e he := by
    unfold State.scalarAccess State.accessIn
    rw [he]
  crossed s1 pl x hp hx := by
    unfold State.scalarAccess State.accessIn
    rw [hp]
    dsimp only
    rw [hx]
  spoilt s1 pl c hp hc := by
    obtain ⟨hplace, hfree⟩ := hp
    unfold State.scalarAccess State.accessIn
    rw [hplace]
    dsimp only
    rw [hfree]
    dsimp only
    rw [hc]

/-- Every atomic begins with its access, made before a release waits. -/
theorem State.amo_access {s : State} (hl : s.live = true) (d a b : BitVec 6) (q : BitVec 2) (sys w fp : Bool)
    (f : Nat → Nat → Nat → Nat → Option Nat) (after : State → Place → Nat → Nat → State) :
    s.Denies (s.amo d a b q sys w fp f after) .rmw (s.x a) (if w then 8 else 4) := by
  unfold State.amo
  dsimp only
  rw [State.agent_of_live hl]
  split
  · exact .scalarAccess ..
  · exact .scalarAccess ..

/-- An atomic that is no release, or whose release has nothing to wait for, comes from `s` to its access in `s0`. -/
def State.Released (s s0 : State) (q : BitVec 2) (va : Word) (n : Nat) (pl0 : Place) : Prop :=
  q.getLsbD 1 = false ∧ s0 = s ∨ q.getLsbD 1 = true ∧ s.reaches .rmw va n pl0 s0 ∧ Quiet s0

section
variable {s s0 s1 : State} {d a b : BitVec 6} {q : BitVec 2} {w : Bool} {pl pl0 : Place} (hl : s.live = true)
  (hq : s.Released s0 q (s.x a) (if w then 8 else 4) pl0) (hr : s0.reaches .rmw (s.x a) (if w then 8 else 4) pl s1)
include hl hq

theorem State.Released.standsAs : s.StandsAs s0 := by
  rcases hq with ⟨-, rfl⟩ | ⟨-, ⟨⟨hp, -⟩, -⟩, -⟩
  · exact .refl hl
  · exact (State.Noted.place hp).standsAs hl

include hr

theorem State.Released.standsAs_closed : s.StandsAs (s1.setMe (·.closeSlice 0)) :=
  have h0 := State.Released.standsAs hl hq
  have h1 := h0.trans ((State.Noted.place hr.1.1).standsAs h0.live)
  h1.trans (.setMe h1.live (fun _ => rfl) fun _ => rfl)

/-- With nothing before it in its slice, an atomic reads, writes and returns at once (R110, R177). -/
theorem State.amo_eq (sys fp : Bool) (f : Nat → Nat → Nat → Nat → Option Nat) (after : State → Place → Nat → Nat → State)
    (hwc : ∀ e ∈ (s1.setMe (·.closeSlice 0)).me.wc, e.slice ≠ 0)
    (hheld : (s1.setMe (·.closeSlice 0)).heldOver (s1.setMe (·.closeSlice 0)).who pl (if w then 8 else 4) = false)
    (hst : (s1.setMe (·.closeSlice 0)).stalled pl = false) :
    let n := if w then 8 else 4
    let lim := 2 ^ (8 * n)
    let s2 := s1.setMe (·.closeSlice 0)
    let m := s2.peekAt s2.who pl n
    let s3 := s2.chargeAt s2.who.gang pl n
    s.amo d a b q sys w fp f after = State.retWith
      (after (match f n m ((s.x b).toNat % lim) ((s.x d).toNat % lim) with
        | some v => s3.pokeAt s3.who pl n (v % lim)
        | none => s3) pl n m) d (if w || fp then BitVec.ofNat 64 m else sextBytes n m) := by
  intro n lim s2 m s3
  have hx := (State.Released.standsAs hl hq).x a
  have hnone : s2.me.wc.any (fun e => decide (e.slice = 0)) = false := by simpa using hwc
  have performs (g : Nat → Option Nat) (k : State → Place → Nat → Out) : s0.scalarAtomic (s0.x a) n g k =
      match g m with
      | some v => k (s3.pokeAt s3.who pl n v) pl m
      | none => k s3 pl m := by
    unfold State.scalarAtomic
    rw [hx, State.scalarAccess_of_reaches hr]
    dsimp only
    exact (if_neg (by rw [hnone, hheld, hst]; nofun)).trans rfl
  unfold State.amo
  dsimp only
  rw [State.agent_of_live hl]
  have hs : ∀ k : State → Out, (if q.getLsbD 1 = true then s.scalarAccess .rmw (s.x a) n fun u _ =>
      u.afterRelease (if sys then 5 else 4) k else k s) = k s0 := by
    intro k
    rcases hq with ⟨hb, rfl⟩ | ⟨hb, hreach, hquiet⟩
    · rw [hb, if_neg nofun]
    · rw [hb, if_pos rfl, State.scalarAccess_of_reaches hreach, hquiet.afterRelease]
  rw [hs, performs]
  cases f n m ((s.x b).toNat % lim) ((s.x d).toNat % lim) <;> rfl

end

/-- What an atomic answers whose new value is `new` and whose result is `v`. -/
theorem State.StandsAs.retires {s t : State} (h : s.StandsAs t) (d : BitVec 6) (v : Word) :
    Answers (t.retWith d v) fun u => Retires t u d.toNat v (s.pc + 4) := by
  rw [← h.pc]
  exact Retires.retWith h.live d v

/-! The atomics. -/

/-- What R177 calls the choice of a minimum or a maximum. -/
theorem amoPick_unsigned (n : Nat) (isMax : Bool) (m b : Nat) :
    amoPick n isMax false m b = if isMax then max m b else min m b := by
  unfold amoPick
  by_cases h : m < b
  · cases isMax <;> simp [h, Nat.max_eq_right (Nat.le_of_lt h), Nat.min_eq_left (Nat.le_of_lt h)]
  · cases isMax <;> simp [h, Nat.max_eq_left (Nat.le_of_not_lt h), Nat.min_eq_right (Nat.le_of_not_lt h)]

theorem amoPick_signed (n : Nat) (isMax : Bool) (m b : Nat) :
    amoPick n isMax true m b = if signedBytes n m < signedBytes n b then (if isMax then b else m) else if isMax then m else b := by
  unfold amoPick
  by_cases h : signedBytes n m < signedBytes n b <;> cases isMax <;> simp [h]

/-- Each form of R177 is the atomic of its new value. -/
theorem exec_atomicForms : ∀ p ∈ atomicForms, ∀ (d a b : BitVec 6) (q : BitVec 2) (sys w : Bool) (s : State),
    exec (p.instr d a b q sys w) s = s.amo d a b q sys w p.float p.new noAfter := by
  have min_signed : (fun n m b _ => some (amoPick n false true m b)) =
      fun n m b (_ : Nat) => some (if signedBytes n m < signedBytes n b then m else b) := by
    funext n m b _; rw [amoPick_signed]; rfl
  have max_signed : (fun n m b _ => some (amoPick n true true m b)) =
      fun n m b (_ : Nat) => some (if signedBytes n m < signedBytes n b then b else m) := by
    funext n m b _; rw [amoPick_signed]; rfl
  have min_unsigned : (fun n m b _ => some (amoPick n false false m b)) = fun _ m b (_ : Nat) => some (min m b) := by
    funext n m b _; rw [amoPick_unsigned]; rfl
  have max_unsigned : (fun n m b _ => some (amoPick n true false m b)) = fun _ m b (_ : Nat) => some (max m b) := by
    funext n m b _; rw [amoPick_unsigned]; rfl
  simp only [atomicForms, List.forall_mem_cons, List.not_mem_nil, false_imp_iff, implies_true, and_true]
  rw [← min_signed, ← max_signed, ← min_unsigned, ← max_unsigned]
  exact ⟨fun _ _ _ _ _ _ _ => rfl, fun _ _ _ _ _ _ _ => rfl, fun _ _ _ _ _ _ _ => rfl, fun _ _ _ _ _ _ _ => rfl,
    fun _ _ _ _ _ _ _ => rfl, fun _ _ _ _ _ _ _ => rfl, fun _ _ _ _ _ _ _ => rfl, fun _ _ _ _ _ _ _ => rfl,
    fun _ _ _ _ _ _ _ => rfl, fun _ _ _ _ _ _ _ => rfl, fun _ _ _ _ _ _ _ => rfl⟩

/-! AMOADD.TW. -/

/-- The dword that a place lies in. -/
def Place.dword : Place → Place
  | .mem x => .mem (x / 8 * 8)
  | .spad x => .spad (x / 8 * 8)
  | .sdm x => .sdm (x / 8 * 8)

/-- The registrants of the dword of a place wake with its value (R178). -/
def State.wakeAt (s : State) (pl : Place) : State :=
  s.wakeWord (ownerOf s.myCore pl.dword) (keyOf s.who.gang pl.dword) (BitVec.ofNat 64 (s.peekAt s.who pl.dword 8))

/-- What AMOADD.TW does after its update (R178). -/
def wakeCrossed (op cmp : Nat) (s : State) (pl : Place) (n m : Nat) : State :=
  if crosses n m ((m + op) % 2 ^ (8 * n)) (cmp % 2 ^ (8 * n)) then s.wakeAt pl else s

theorem exec_amoaddTw (d a b : BitVec 6) (q : BitVec 2) (sys w : Bool) (s : State) :
    exec (.amoaddTw d a b q sys w) s =
      s.amo d a b q sys w false (fun _ m b _ => some (m + b)) (wakeCrossed (s.x b).toNat (s.x d).toNat) := by
  have h : wakeCrossed (s.x b).toNat (s.x d).toNat = fun s' p n m =>
      let new := (m + (s.x b).toNat) % 2 ^ (8 * n)
      if crosses n m new ((s.x d).toNat % 2 ^ (8 * n)) then
        let base := match p with
          | .mem pa => Place.mem (pa / 8 * 8)
          | .spad o => Place.spad (o / 8 * 8)
          | .sdm o => Place.sdm (o / 8 * 8)
        s'.wakeWord (ownerOf s'.myCore base) (keyOf s'.who.gang base) (BitVec.ofNat 64 (s'.peekAt s'.who base 8))
      else s' := by
    funext s' p n m
    cases p <;> rfl
  rw [h]
  rfl

/-- A state that differs in threads alone has the same bytes. -/
theorem State.Threads.sameBytes {s t : State} (h : s.Threads t) : SameBytes s t :=
  ⟨fun _ => by rw [h.rest], fun k _ => by rw [h.gangs k], fun k _ => by rw [h.gangs k]⟩

theorem State.live_foldl_modThread {β : Type} (a : β → Agent) (f : β → Thread → Thread) (l : List β) {s : State}
    (h : s.live = true) : (l.foldl (fun s r => s.modThread (a r) (f r)) s).live = true := by
  induction l generalizing s with
  | nil => exact h
  | cons r l ih =>
    refine ih (State.live_modGang h fun g q => ?_)
    rw [Gang.thread?_modThread]
    split <;> simp

/-- Waking the registrants of a dword stores nothing, and leaves the agent in execution in being. -/
theorem State.wakeWord_keeps (s : State) (owner key : Nat) (v : Word) :
    SameBytes s (s.wakeWord owner key v) ∧ (s.live = true → (s.wakeWord owner key v).live = true) := by
  obtain ⟨l, hl⟩ := s.wakeWord_threads owner key v
  have hb := hl.sameBytes
  refine ⟨⟨hb.mem, hb.spad, hb.sdm⟩, fun h => ?_⟩
  unfold State.wakeWord
  exact State.live_foldl_modThread Sleeper.agent _ _ (s := { s with sleepers := _ }) h

/-- The condition of R178, on the numbers that the bytes stand for. -/
theorem crosses_iff (n m op cmp : Nat) : crosses n m ((m + op % 2 ^ (8 * n)) % 2 ^ (8 * n)) (cmp % 2 ^ (8 * n)) = true ↔
    let old := (BitVec.ofNat (8 * n) m).toInt
    let new := (BitVec.ofNat (8 * n) (m + op % 2 ^ (8 * n))).toInt
    let thr := (BitVec.ofNat (8 * n) (cmp % 2 ^ (8 * n))).toInt
    min old new ≤ thr ∧ thr ≤ max old new ∧ thr ≠ old := by
  have hmod (v : Nat) : BitVec.ofNat (8 * n) (v % 2 ^ (8 * n)) = BitVec.ofNat (8 * n) v := by
    apply BitVec.eq_of_toNat_eq; simp
  unfold crosses signedBytes
  rw [hmod (m + op % 2 ^ (8 * n))]
  simp only [Bool.and_eq_true, decide_eq_true_eq, and_assoc]

/-- What an atomic returns: a word is sign-extended unless it is a floating-point one (R40, R177). -/
theorem ite_sextBytes (w fp : Bool) (m : Nat) : (if w || fp then BitVec.ofNat 64 m else sextBytes (if w then 8 else 4) m) =
    if w = true ∨ fp = true then BitVec.ofNat 64 m else (BitVec.ofNat 32 m).signExtend 64 := by
  cases w <;> cases fp <;> simp [sextBytes]

theorem State.wakeCrossed_keeps (s : State) (op cmp : Nat) (pl : Place) (n m : Nat) :
    SameBytes s (wakeCrossed op cmp s pl n m) ∧ (s.live = true → (wakeCrossed op cmp s pl n m).live = true) := by
  unfold wakeCrossed
  split
  · exact s.wakeWord_keeps ..
  · exact ⟨.refl s, id⟩

theorem wakeCrossed_eq (op cmp : Nat) (s : State) (pl : Place) (n m : Nat) :
    let lim := 2 ^ (8 * n)
    let old := (BitVec.ofNat (8 * n) m).toInt
    let new := (BitVec.ofNat (8 * n) (m + op % lim)).toInt
    let thr := (BitVec.ofNat (8 * n) (cmp % lim)).toInt
    let dword := match pl with
      | .mem x => Place.mem (x / 8 * 8)
      | .spad x => .spad (x / 8 * 8)
      | .sdm x => .sdm (x / 8 * 8)
    wakeCrossed op cmp s pl n m = if min old new ≤ thr ∧ thr ≤ max old new ∧ thr ≠ old then
        s.wakeWord (ownerOf s.myCore dword) (keyOf s.who.gang dword) (BitVec.ofNat 64 (s.peekAt s.who dword 8))
      else s := by
  intro lim old new thr dword
  have hd : pl.dword = dword := by cases pl <;> rfl
  have hc : crosses n m ((m + op) % lim) (cmp % lim) = true ↔ min old new ≤ thr ∧ thr ≤ max old new ∧ thr ≠ old := by
    rw [← Nat.add_mod_mod]
    exact crosses_iff n m op cmp
  rw [← hd]
  exact if_congr hc rfl rfl

section
variable {s s0 s1 : State} {d a b : BitVec 6} {q : BitVec 2} {w : Bool} {pl pl0 : Place} (hl : s.live = true)
  (hq : s.Released s0 q (s.x a) (if w then 8 else 4) pl0) (hr : s0.reaches .rmw (s.x a) (if w then 8 else 4) pl s1)
  (hwc : ∀ e ∈ (s1.setMe (·.closeSlice 0)).me.wc, e.slice ≠ 0)
  (hheld : (s1.setMe (·.closeSlice 0)).heldOver (s1.setMe (·.closeSlice 0)).who pl (if w then 8 else 4) = false)
  (hst : (s1.setMe (·.closeSlice 0)).stalled pl = false)
include hl hq hr hwc hheld hst

/-- The atomics but for AMOADD.TW write their new value and return the old one (R177). -/
theorem exec_atomicForms_retires (sys : Bool) : ∀ p ∈ atomicForms,
    let n := if w then 8 else 4
    let lim := 2 ^ (8 * n)
    let s2 := s1.setMe (·.closeSlice 0)
    let m := s2.peekAt s2.who pl n
    let s3 := s2.chargeAt s2.who.gang pl n
    Answers (exec (p.instr d a b q sys w) s) fun t =>
      Retires (match p.new n m ((s.x b).toNat % lim) ((s.x d).toNat % lim) with
        | some v => s3.pokeAt s3.who pl n (v % lim)
        | none => s3) t d.toNat
        (if w = true ∨ p.float = true then BitVec.ofNat 64 m else (BitVec.ofNat 32 m).signExtend 64) (s.pc + 4) := by
  intro p hp n lim s2 m s3
  have h2 := State.Released.standsAs_closed hl hq hr
  have h3 : s.StandsAs s3 := h2.trans ((State.Noted.charge s2 _ _ _).standsAs h2.live)
  rw [exec_atomicForms p hp, State.amo_eq hl hq hr sys _ _ _ hwc hheld hst, ite_sextBytes]
  refine State.StandsAs.retires ?_ d _
  unfold noAfter
  split
  · exact h3.trans (.pokeAt h3.live ..)
  · exact h3

/-- AMOADD.TW adds, wakes the registrants of the dword when the update reaches or crosses the threshold, and returns the
old value (R178). -/
theorem exec_amoaddTw_retires (sys : Bool) :
    let n := if w then 8 else 4
    let lim := 2 ^ (8 * n)
    let s2 := s1.setMe (·.closeSlice 0)
    let m := s2.peekAt s2.who pl n
    let s3 := s2.chargeAt s2.who.gang pl n
    let s4 := s3.pokeAt s3.who pl n ((m + (s.x b).toNat % lim) % lim)
    let s5 := wakeCrossed (s.x b).toNat (s.x d).toNat s4 pl n m
    Answers (exec (.amoaddTw d a b q sys w) s) fun t => SameBytes s4 t ∧
      Retires s5 t d.toNat (if w = true then BitVec.ofNat 64 m else (BitVec.ofNat 32 m).signExtend 64) (s5.pc + 4) := by
  intro n lim s2 m s3 s4 s5
  have h2 := State.Released.standsAs_closed hl hq hr
  have h3 : s.StandsAs s3 := h2.trans ((State.Noted.charge s2 _ _ _).standsAs h2.live)
  have h4 : s.StandsAs s4 := h3.trans (.pokeAt h3.live ..)
  obtain ⟨hbytes, hlive⟩ := s4.wakeCrossed_keeps (s.x b).toNat (s.x d).toNat pl n m
  obtain ⟨t, ht, hret⟩ := Retires.retWith (hlive h4.live) d
    (if w = true then BitVec.ofNat 64 m else (BitVec.ofNat 32 m).signExtend 64)
  refine ⟨t, ?_, hbytes.trans hret.bytes, hret⟩
  rw [exec_amoaddTw, State.amo_eq hl hq hr sys _ _ _ hwc hheld hst, ite_sextBytes]
  simp only [Bool.false_eq_true, or_false]
  exact ht

end

/-- Settles O28: each form is one atomic of the model, which the access, the wait of a release and the update make. -/
theorem atomicResults : Obligations.AtomicResults := by
  unfold Obligations.AtomicResults
  refine ⟨fun d a b q sys w s hl => ⟨fun p hp => ?_, ?_⟩, ?_⟩
  · rw [exec_atomicForms p hp]
    exact State.amo_access hl ..
  · rw [exec_amoaddTw]
    exact State.amo_access hl ..
  · intro d a b q sys w s s0 s1 pl pl0 hl n lim op cmp hq hr s2 hwc hheld hst m s3
    refine ⟨exec_atomicForms_retires hl hq hr hwc hheld hst sys, ?_⟩
    intro s4 old new thr dword s5
    have hwake : wakeCrossed (s.x b).toNat (s.x d).toNat s4 pl n m = s5 := wakeCrossed_eq ..
    rw [← hwake]
    exact exec_amoaddTw_retires hl hq hr hwc hheld hst sys

end Sys2Proof.Machine
end

section
/-! CSR steps: the write that a CSR instruction of the agent would make (R184, R263, R380, R407, R409, R427, R434, R440,
R443). -/

namespace Sys2Proof.Machine

/-! The steps. -/

/-- The step of a CSR that the agent may not name is ILLOP. -/
theorem State.csrStep_of_none {s : State} (hl : s.live = true) {c : BitVec 12} (hc : s.readCsr c = none) (v : Word) :
    s.csrStep c v = s.illop := by
  simp [State.csrStep, hl, hc]

/-- What is made of a CSR that the agent may name: the write, or ILLOP where the CSR refuses the value. -/
def State.Writes (s : State) (c : BitVec 12) (i : Instr) (w : Word) : Prop :=
  (∀ t, s.writeCsr c w = some t → exec i s = .next t) ∧ (s.writeCsr c w = none → exec i s = s.illop)

/-- A step of a CSR that the agent may name makes the CSR's write. -/
theorem State.Writes.of_csrStep {s : State} (hl : s.live = true) {c : BitVec 12} (hc : s.readCsr c ≠ none) {i : Instr}
    {w : Word} (hi : exec i s = s.csrStep c w) : s.Writes c i w := by
  rw [State.Writes, hi]
  unfold State.csrStep
  rw [hl]
  cases hr : s.readCsr c with
  | none => exact absurd hr hc
  | some x => exact ⟨fun t ht => by rw [ht]; rfl, fun hn => by rw [hn]; rfl⟩

theorem exec_fbtabWrite {k : Nat} (hk : k < 4) (v : Word) (s : State) :
    exec (.fbtabWrite k v) s = s.csrStep (0x219 + BitVec.ofNat 12 k) v := if_pos hk

/-- The CSR at place k of fbtab. -/
theorem toNat_fbtab {k : Nat} (hk : k < 4) : (0x219 + BitVec.ofNat 12 k).toNat = 0x219 + k := by
  simp
  omega

/-- SDSTAT_READ is of level 1, and clears what it returns (R426). -/
theorem exec_sdstatRead {s : State} (hl : s.live = true) (hh : s.onHart = true) :
    (s.me.lvl = 0 → exec .sdstatRead s = s.illop) ∧
    (1 ≤ s.me.lvl → exec .sdstatRead s = .next (s.modPart s.myPart fun p =>
      { p with swaps := 0, yields := 0, poolmiss := 0, ringerr := false, doneerr := false })) := by
  have hr : s.readCsr 0x127 = if 1 ≤ s.me.lvl then
      some ((s.part s.myPart).sdstat, s.modPart s.myPart PartSt.clearSdstat) else none := by
    simp [State.readCsr, hh, State.readSuper]
  have he : exec .sdstatRead s = execSdstatRead s := rfl
  rw [he]
  unfold execSdstatRead
  rw [hl, hr]
  refine ⟨fun h => ?_, fun h => ?_⟩
  · rw [if_neg (show ¬1 ≤ s.me.lvl by omega)]; rfl
  · rw [if_pos h]; rfl

/-! The writes. -/

/-- A hart writes the CSRs from 0x200 up as firmware does. -/
theorem State.writeCsr_firm {s : State} (hh : s.onHart = true) {c : BitVec 12} (hc : 0x200 ≤ c.toNat) (v : Word) :
    s.writeCsr c v = s.writeFirm c.toNat v := by
  unfold State.writeCsr
  rw [hh]
  dsimp only
  rw [if_neg nofun, if_neg (by omega), if_neg (by omega)]

/-- The gang of the agent in execution is there. -/
theorem State.myGang_mem {s : State} (hl : s.live = true) : s.gangs[s.who.gang]? = some s.myGang := by
  obtain ⟨a, t, ha, ht⟩ := State.live_iff.1 hl
  unfold State.thread? at ht
  cases hg : s.gangs[a.gang]? with
  | none => rw [hg] at ht; cases ht
  | some g => simp [State.myGang, State.gangOf, State.who, ha, hg]

theorem State.myGang_modGang {s : State} (hl : s.live = true) (f : Gang → Gang) :
    (s.modGang s.who.gang f).myGang = f s.myGang := by
  have hw : (s.modGang s.who.gang f).who = s.who := rfl
  unfold State.myGang State.gangOf at *
  rw [hw, State.getElem?_modGang, if_pos rfl, State.myGang_mem hl]
  rfl

/-- qen is written, and stays in effect as it is until the next settlement (R64, R185). -/
theorem State.writeCsr_qen {s t : State} (hl : s.live = true) (hh : s.onHart = true) {v : Word}
    (h : s.writeCsr 0x020 v = some t) : t.myGang.qenW = v.setWidth 12 ∧ t.myGang.qen = s.myGang.qen := by
  have ht : t = s.modGang s.who.gang fun g => { g with qenW := v.setWidth 12 } := by
    unfold State.writeCsr at h
    rw [hh] at h
    exact (Option.some.inj h).symm
  rw [ht, State.myGang_modGang hl]
  exact ⟨rfl, rfl⟩

/-- sevent loses the bits that are written as one (R380). -/
theorem State.writeCsr_sevent {s t : State} (hl : s.live = true) (hh : s.onHart = true) {v : Word}
    (h : s.writeCsr 0x104 v = some t) : t.me.sevent = s.me.sevent &&& ~~~v.setWidth 3 := by
  have ht : t = s.setMe fun t => { t with sevent := t.sevent &&& ~~~v.setWidth 3 } := by
    unfold State.writeCsr at h
    rw [hh] at h
    exact (Option.some.inj h).symm
  rw [ht, State.me_setMe hl]

section
variable {s t : State} {v : Word}

/-- FSVN only rises (R440). -/
theorem State.writeFsvn_fsvn (s : State) (v : Word) :
    (s.writeFsvn v).mod.fsvn = if s.mod.svn < v.toNat % 64 then v.toNat % 64 else s.mod.fsvn := by
  unfold State.writeFsvn
  split <;> rfl

/-- fpart keeps memory and every gang (R407). -/
theorem State.writeFpart_keeps (h : s.writeFpart v = some t) :
    t.mod.plog = v.toNat % 4 ∧ t.mem = s.mem ∧ t.gangs.length = s.gangs.length := by
  unfold State.writeFpart at h
  split at h
  · cases h
  · cases h
    exact ⟨rfl, rfl, List.length_map _⟩

/-- A write that would take the rates past 30,000 is ignored (R427). -/
theorem State.writeFgrate_fgrate (hp : s.mod.fpsel < s.parts.length) :
    ((s.writeFgrate v).part s.mod.fpsel).fgrate =
      if 30000 < (((List.range 8).filter (· ≠ s.mod.fpsel)).map fun p => (s.part p).fgrate.toNat).sum + v.toNat % 2 ^ 32
      then (s.part s.mod.fpsel).fgrate else v.setWidth 32 := by
  unfold State.writeFgrate
  dsimp only
  split
  · rfl
  · simp [State.part, State.modPart, List.getElem?_eq_getElem hp]

/-- Reading a map after entries of one run of keys have been written. -/
theorem Sparse.get_foldl_set {w : Nat} (b : Nat) (f : Nat → BitVec w) (js : List Nat) (m : Sparse w) (i : Nat) :
    (js.foldl (fun (t : Sparse w) j => t.set (b + j) (f j)) m).get i =
      if b ≤ i ∧ i - b ∈ js then f (i - b) else m.get i := by
  induction js generalizing m with
  | nil => simp
  | cons j js ih =>
    rw [List.foldl_cons, ih, Sparse.get_set]
    by_cases hi : i = b + j
    · subst hi
      simp
    · have hne : ¬(b ≤ i ∧ i - b = j) := by omega
      have hiff : (b ≤ i ∧ i - b ∈ j :: js) ↔ b ≤ i ∧ i - b ∈ js := by
        simp only [List.mem_cons]
        tauto
      rw [if_neg hi]
      simp only [hiff]

/-- The slots that register k of fbtab gives: S(0) is what the others leave (R409). -/
theorem mem_fbtabSlots (k j : Nat) :
    j ∈ (if k = 0 then [1, 2, 3] else [0, 1, 2, 3]) ↔ j < 4 ∧ ¬(k = 0 ∧ j = 0) := by
  split
  · simp; omega
  · simp; omega

/-- The place of a slot in the tables of the arbiters. -/
theorem fbtabPlace_iff {sel k : Nat} (hk : k < 4) (i : Nat) :
    (16 * sel + 4 * k ≤ i ∧ i - (16 * sel + 4 * k) ∈ (if k = 0 then [1, 2, 3] else [0, 1, 2, 3])) ↔
      i / 16 = sel ∧ i % 16 / 4 = k ∧ i % 16 ≠ 0 := by
  rw [mem_fbtabSlots]
  omega

/-- A write to fbtab gives the selected arbiter the slots written, unless its classes would get more than 3,840 (R434). -/
theorem State.writeFbtab_spec {k : Nat} (hk : k < 4) (s : State) (v : Word) :
    let slot (j : Nat) : Nat := v.toNat / 2 ^ (16 * j) % 4096
    let mine := (List.range 4).filter fun j => !(k == 0 && j == 0)
    let others := ((List.range 16).filter fun i => decide (1 ≤ i) && decide (i / 4 ≠ k)).map fun i =>
      (s.mod.fbtab.get (16 * s.mod.fbsel + i)).toNat
    let t := s.writeFbtab k v
    t = { s with mod := { s.mod with fbtab := t.mod.fbtab } } ∧
    (3840 < others.sum + (mine.map slot).sum → t.mod.fbtab = s.mod.fbtab) ∧
    (others.sum + (mine.map slot).sum ≤ 3840 → ∀ i, t.mod.fbtab.get i =
      if i / 16 = s.mod.fbsel ∧ i % 16 / 4 = k ∧ i % 16 ≠ 0 then BitVec.ofNat 12 (slot (i % 4)) else s.mod.fbtab.get i) := by
  intro slot mine others t
  have hmine : mine = if k = 0 then [1, 2, 3] else [0, 1, 2, 3] := by
    by_cases h : k = 0
    · subst h; rfl
    · simp [mine, h, List.range, List.range.loop]
  let table := mine.foldl (fun (t : Sparse 12) j => t.set (16 * s.mod.fbsel + 4 * k + j) (BitVec.ofNat 12 (slot j))) s.mod.fbtab
  have ht : t = if 3840 < others.sum + (mine.map slot).sum then s else { s with mod := { s.mod with fbtab := table } } := by
    simp only [table, hmine]
    rfl
  refine ⟨?_, fun h => ?_, fun h i => ?_⟩
  · rw [ht]
    split <;> rfl
  · rw [ht, if_pos h]
  · rw [ht, if_neg (by omega)]
    show Sparse.get table i = _
    rw [Sparse.get_foldl_set, hmine]
    simp only [fbtabPlace_iff hk]
    refine ite_congr rfl (fun hi => ?_) fun _ => rfl
    rw [show i - (16 * s.mod.fbsel + 4 * k) = i % 4 by omega]

end

/-- Settles O53: each step is the write of its CSR, and each write does what its register's rule says. -/
theorem csrSteps : Obligations.CsrSteps := by
  unfold Obligations.CsrSteps
  refine ⟨fun s c v hl hc => State.csrStep_of_none hl hc v, fun s c v hl hc => ?_, fun s hl hh => exec_sdstatRead hl hh,
    fun s t v hl hh => ?_⟩
  · have step {i : Instr} {w : Word} : exec i s = s.csrStep c w → s.Writes c i w := State.Writes.of_csrStep hl hc
    refine ⟨step rfl, ?_, ?_, ?_, ?_, ?_, ?_, fun k hk hn => ?_, ?_, ?_, ?_, ?_, ?_⟩
    case refine_7 =>
      have hck : c = 0x219 + BitVec.ofNat 12 k := BitVec.eq_of_toNat_eq (hn.trans (toNat_fbtab hk).symm)
      exact step (by rw [exec_fbtabWrite hk, hck])
    all_goals
      rintro rfl
      exact step rfl
  · have firm {c : BitVec 12} (hc : 0x200 ≤ c.toNat) (h : s.writeCsr c v = some t) : s.writeFirm c.toNat v = some t :=
      (State.writeCsr_firm hh hc v).symm.trans h
    refine ⟨State.writeCsr_qen hl hh, State.writeCsr_sevent hl hh, fun h => ?_, fun h => ?_, fun h => ?_, fun hp h => ?_,
      fun k hk h => ?_⟩
    · obtain rfl := Option.some.inj (firm (by decide) h)
      exact s.writeFsvn_fsvn v
    · obtain rfl := Option.some.inj (firm (by decide) h)
      rfl
    · exact State.writeFpart_keeps (firm (by decide) h)
    · obtain rfl := Option.some.inj (firm (by decide) h)
      exact State.writeFgrate_fgrate hp
    · have hw : s.writeFirm (0x219 + k) v = some (s.writeFbtab k v) := by
        interval_cases k <;> rfl
      have hn := toNat_fbtab hk
      have h2 := firm (by omega) h
      rw [hn, hw] at h2
      obtain rfl := Option.some.inj h2
      exact State.writeFbtab_spec hk s v

end Sys2Proof.Machine
end

section
/-! Pushing forms: what resolving the sources claims, what a form of length 0 comes to, and the element-wise arithmetic of
VOP (R51, R77, R196, R204). -/

namespace Sys2Proof.Machine

/-! What resolving sources leaves unchanged. -/

/-- A state but for which entries of the gang in execution are claimed (R51). -/
def State.Claims (s u : State) : Prop := ∃ f : List Entry → List Entry, u = s.modGang s.who.gang fun g => { g with ents := f g.ents }

theorem State.Claims.refl (s : State) : s.Claims s := ⟨id, (State.modGang_eq_self fun _ => rfl).symm⟩

theorem State.Claims.trans {s u v : State} (h : s.Claims u) (k : u.Claims v) : s.Claims v := by
  obtain ⟨f, rfl⟩ := h
  obtain ⟨f', rfl⟩ := k
  exact ⟨fun l => f' (f l), State.modGang_modGang s s.who.gang _ _⟩

section
variable {s u : State} (h : s.Claims u)
include h

theorem State.Claims.cur : u.cur = s.cur := by obtain ⟨f, rfl⟩ := h; rfl

theorem State.Claims.word : u.word = s.word := by obtain ⟨f, rfl⟩ := h; rfl

theorem State.Claims.who : u.who = s.who := by simp [State.who, h.cur]

theorem State.Claims.onHart : u.onHart = s.onHart := by simp [State.onHart, h.cur]

theorem State.Claims.thread? (a : Agent) : u.thread? a = s.thread? a := by
  obtain ⟨f, rfl⟩ := h
  rw [State.thread?_modGang]
  split
  · rename_i ha
    unfold State.thread?
    rw [ha]
    cases s.gangs[s.who.gang]? with
    | none => rfl
    | some g => cases a.role <;> rfl
  · rfl

theorem State.Claims.live : u.live = s.live := by simp [State.live, h.cur, h.thread?]

theorem State.Claims.me : u.me = s.me := by simp [State.me, h.cur, h.thread?]

theorem State.Claims.room : u.room ↔ s.room := by simp [State.room, h.live, h.me, h.onHart]

theorem State.Claims.myGang (hl : s.live = true) : ∃ l, u.myGang = { s.myGang with ents := l } := by
  obtain ⟨f, rfl⟩ := h
  exact ⟨_, State.myGang_modGang hl _⟩

theorem State.Claims.fits (hl : s.live = true) (t : Tag) : u.fits t = s.fits t := by
  obtain ⟨l, hg⟩ := h.myGang hl
  simp [State.fits, hg]

theorem State.Claims.scaleOk (sc : Bool) (l : List Tag) : u.scaleOk sc l = s.scaleOk sc l := by
  simp [State.scaleOk, h.me]

theorem State.Claims.vdest (f : Fields) : u.vdest f = s.vdest f := by simp [State.vdest, h.onHart]

theorem State.Claims.destTag (hl : s.live = true) (d : Dst) : u.destTag d = s.destTag d := by
  obtain ⟨l, hg⟩ := h.myGang hl
  cases d <;> simp [State.destTag, h.me, hg]

theorem State.Claims.vlmax (hl : s.live = true) : u.vlmax u.who = s.vlmax s.who := by
  have hcores : u.cores = s.cores := by obtain ⟨f, rfl⟩ := h; rfl
  obtain ⟨l, hg⟩ := h.myGang hl
  unfold State.myGang at hg
  rw [h.who] at hg
  have hlanes : u.lanes s.who = s.lanes s.who := by
    have hl : ∀ n, u.lanesOf s.who.gang n = s.lanesOf s.who.gang n := fun n => by
      unfold State.lanesOf State.core
      rw [hcores, hg]
    have ha : u.accessLanes s.who.gang = s.accessLanes s.who.gang := by
      unfold State.accessLanes State.core
      rw [hcores, hg]
    simp only [State.lanes, hl, ha]
  simp [State.vlmax, h.who, hlanes, hg]

theorem State.Claims.length (hl : s.live = true) (f : Fields) (n : Option Nat) : u.length f n = s.length f n := by
  obtain ⟨l, hg⟩ := h.myGang hl
  unfold State.length
  rw [h.onHart, h.me, hg, h.vlmax hl]

end

theorem State.Claims.popSource {s u : State} {k : Nat} {x : Operand} (h : s.popSource k = .ok (x, u)) : s.Claims u := by
  unfold State.popSource at h
  split at h
  · cases h
  · rename_i e _
    cases h
    exact ⟨fun l => l.map fun y => if y.id = e.id then { y with claimed := true } else y, rfl⟩

/-- Resolving a vector source claims an entry at most. -/
theorem State.Claims.vsource {s u : State} {t : Option Tag} {f : BitVec 6} {x : Operand} (h : s.vsource t f = .ok (x, u)) :
    s.Claims u := by
  unfold State.vsource at h
  dsimp only at h
  split at h
  · cases h; exact .refl s
  · split at h
    · cases h; exact .refl s
    · exact .popSource h

/-- Where a tag stands for the entries, nothing is claimed, and a source always resolves (R196). -/
theorem State.vsource_some (s : State) (t : Tag) (f : BitVec 6) : ∃ x, s.vsource (some t) f = .ok (x, s) := by
  unfold State.vsource
  dsimp only
  split <;> exact ⟨_, rfl⟩

/-- The second source as the statements name it. -/
theorem State.second.vsecond {s s1 s2 : State} {u : Option Tag} {x y : Operand} {b : BitVec 6} {g : Bool} (hc : s.Claims s1)
    (h : s.second u s1 s2 x y b g) : s1.vsecond u g x.tag b (s.x b) = .ok (y, s2) := by
  unfold State.second at h
  unfold State.vsecond
  split at h
  · rename_i hg
    obtain ⟨rfl, rfl⟩ := h
    rw [if_pos hg, hc.me]
  · rename_i hg
    rw [if_neg hg, h]

/-! Forms. -/

/-- A push that either succeeds or is refused with ILLOP. -/
def Settled {α : Type} (p : Push α) : Prop := illegalPush p = true ∨ ∃ v, p = .ok v

theorem Settled.ok {α : Type} (v : α) : Settled (.ok v : Push α) := .inr ⟨v, rfl⟩

theorem Settled.illop {α : Type} : Settled (illopP : Push α) := .inl rfl

theorem Settled.need (b : Bool) : Settled (Machine.need b) := by
  cases b
  · exact .illop
  · exact .ok ()

theorem Settled.bind {α β : Type} {p : Push α} {k : α → Push β} (hp : Settled p) (hk : ∀ v, p = .ok v → Settled (k v)) :
    Settled (p >>= k) := by
  rcases hp with hp | ⟨v, rfl⟩
  · cases p with
    | ok v => cases hp
    | error e => exact .inl (by cases e <;> exact hp)
  · exact hk v rfl

/-- Every tag is among those that a form with nothing to pop tries. -/
theorem mem_tags (t : Tag) : t ∈ (List.range 18).filterMap Tag.ofCode := by cases t <;> decide

/-- A form of length 0 with a queue among its sources is pushed to no effect, if some tag lets its checks hold (R196). -/
theorem State.form_popsNothing {s : State} {f : Fields} (hn : s.named f = .ok ())
    (hp : s.popsNothing f = true) {k : Option Tag → Push State} (hk : ∀ t, Settled (k (some t))) {u : Tag} {v : State}
    (hu : k (some u) = .ok v) (e : VRec) : s.form f e k = s.pushVec e := by
  unfold State.form
  rw [hn, hp]
  have hsome : (((List.range 18).filterMap Tag.ofCode).find? fun t => !illegalPush (k (some t))).isSome = true :=
    List.find?_isSome.2 ⟨u, mem_tags u, by rw [hu]; rfl⟩
  obtain ⟨t, ht⟩ := Option.isSome_iff_exists.1 hsome
  have hlegal : illegalPush (k (some t)) = false := by simpa using List.find?_some ht
  obtain ⟨w, hw⟩ := (hk t).resolve_left (by rw [hlegal]; nofun)
  show (match ((List.range 18).filterMap Tag.ofCode).find? fun t => !illegalPush (k (some t)) with
    | none => illopP
    | some t => (k (some t)) >>= fun _ => s.pushVec e) = s.pushVec e
  rw [ht]
  show (k (some t)) >>= (fun _ => s.pushVec e) = s.pushVec e
  rw [hw]
  rfl

theorem State.form_pops {s : State} {f : Fields} (hn : s.named f = .ok ()) (hp : s.popsNothing f = false)
    (k : Option Tag → Push State) (e : VRec) : s.form f e k = k none := by
  unfold State.form
  rw [hn, hp]
  rfl

/-- What a form comes to whose sources resolve under `u` and whose checks hold. -/
theorem State.Takes.of_form {s v : State} (hr : s.room) (hv : v.room) {f : Fields} {k : Option Tag → Push State}
    (hk : ∀ t, Settled (k (some t))) {u : Option Tag} {r : VRec} (hu : k u = v.pushVec r) (e : VRec) :
    s.Takes f u (s.pushOut (s.form f e k)) v r e := by
  obtain ⟨w, hw, hq⟩ := hv.pushVec r
  intro hn
  cases hp : s.popsNothing f with
  | true =>
    intro hs
    obtain ⟨t, rfl⟩ := Option.isSome_iff_exists.1 hs
    obtain ⟨x, hx, hxq⟩ := hr.pushVec e
    exact .of_ok ((State.form_popsNothing hn hp hk (hu.trans hw) e).trans hx) hxq
  | false =>
    rintro rfl
    exact .of_ok ((State.form_pops hn hp k e).trans (hu.trans hw)) hq

/-- Reserving Sower indices changes frm alone. -/
theorem State.reserveSower_eq {s v : State} {rounds : Bool} {vl : Nat} (h : s.reserveSower rounds vl = .ok v) :
    ∃ f : Word → Word, v = s.setMe fun t => { t with frm := f t.frm } := by
  unfold State.reserveSower at h
  split at h
  · split at h
    · cases h
    · cases h
      exact ⟨fun w => frmAdvance w vl, rfl⟩
  · cases h
    refine ⟨id, ?_⟩
    unfold State.setMe
    cases s.cur with
    | none => rfl
    | some a => exact (State.modGang_eq_self fun g => by cases a.role <;> simp [Gang.modThread, modifyAt_id]).symm

theorem State.room.setFrm {s : State} (h : s.room) (f : Word → Word) : (s.setMe fun t => { t with frm := f t.frm }).room := by
  obtain ⟨hl, hf, hq⟩ := h
  exact ⟨by simpa using hl, by simpa [hl] using hf, by simpa [hl] using hq⟩

theorem State.room.reserveSower {s v : State} {rounds : Bool} {vl : Nat} (hr : s.room) (h : s.reserveSower rounds vl = .ok v) :
    v.room := by
  obtain ⟨f, rfl⟩ := State.reserveSower_eq h
  exact hr.setFrm f

theorem Settled.reserveSower (s : State) (rounds : Bool) (vl : Nat) : Settled (s.reserveSower rounds vl) := by
  unfold State.reserveSower
  split
  · split
    · exact .illop
    · exact .ok _
  · exact .ok _

theorem State.room.settled_pushVec {s : State} (h : s.room) (r : VRec) : Settled (s.pushVec r) := by
  obtain ⟨t, ht, -⟩ := h.pushVec r
  exact .inr ⟨t, ht⟩

/-! VOP. -/

/-- Each form of VOP pushes its function (R204). -/
theorem exec_vopForms : ∀ p ∈ vopForms, ∀ (d a b : BitVec 6) (n sc m g l : Bool) (s : State),
    exec (p.1 d a b n sc m g l) s = s.both (s.pushVop p.2 d a (if p.2.unary then 0 else b) n sc m g l) := by
  simp only [vopForms, List.forall_mem_cons, List.not_mem_nil, false_imp_iff, implies_true, and_true]
  refine ⟨?_, ?_, ?_, ?_, ?_, ?_, ?_, ?_, ?_, ?_, ?_, ?_, ?_, ?_, ?_, ?_, ?_, ?_, ?_, ?_, ?_, ?_, ?_⟩
  all_goals exact fun _ _ _ _ _ _ _ _ _ => rfl

/-- What VOP does with its sources (R204). -/
def State.vopWith (s : State) (f : AluFn) (fs : Fields) (a b : BitVec 6) (n sc g l : Bool) (u : Option Tag) : Push State :=
  s.vsource u a >>= fun p => (if f.unary then .ok p else p.2.vsecond u g p.1.tag b (s.x b)) >>= fun q =>
    q.2.pushAlu f fs p.1 q.1 n sc l

/-- The fields that a form of VOP names. -/
def vopFields (f : AluFn) (d a b : BitVec 6) (m g : Bool) : Fields := ⟨if f.unary || g then [a] else [a, b], some d, true, m⟩

theorem State.pushVop_eq (s : State) (f : AluFn) (d a b : BitVec 6) (n sc m g l : Bool) :
    s.pushVop f d a (if f.unary then 0 else b) n sc m g l =
      s.form (vopFields f d a b m g) (s.blank (.alu f) 0) (s.vopWith f (vopFields f d a b m g) a b n sc g l) := by
  have hfields : (⟨pairFields (f.unary || g) a (if f.unary then 0 else b), some d, true, m⟩ : Machine.Fields) =
      vopFields f d a b m g := by
    unfold vopFields pairFields
    cases f.unary <;> rfl
  unfold State.pushVop
  dsimp only
  rw [hfields]
  refine congrArg (s.form _ _) (funext fun u => ?_)
  unfold State.vopWith
  cases s.vsource u a with
  | error e => rfl
  | ok p => cases f.unary <;> rfl

theorem Settled.aluOutTag (f : AluFn) (t : Tag) (n sc : Bool) : Settled (Machine.aluOutTag f t n sc) := by
  unfold Machine.aluOutTag
  split
  · split
    · exact .illop
    · exact .ok _
  · split
    · split
      · exact .ok _
      · exact .illop
    · exact .ok _

/-- Once its length is known, VOP is pushed or refused. -/
theorem Settled.pushAlu {s : State} (hr : s.room) {fs : Fields} {vl : Nat} (hvl : s.length fs none = .ok vl) (f : AluFn)
    (x y : Operand) (n sc l : Bool) : Settled (s.pushAlu f fs x y n sc l) := by
  unfold State.pushAlu
  cases promote x.tag y.tag with
  | none => exact .illop
  | some t =>
    refine (Settled.need _).bind fun _ _ => (Settled.aluOutTag f t n sc).bind fun dt _ => (Settled.need _).bind fun _ _ => ?_
    rw [hvl]
    exact (Settled.reserveSower s _ vl).bind fun v hv => (hr.reserveSower hv).settled_pushVec _

theorem Settled.vopWith {s : State} (hr : s.room) {fs : Fields} {vl : Nat} (hvl : s.length fs none = .ok vl) (f : AluFn)
    (a b : BitVec 6) (n sc g l : Bool) (t : Tag) : Settled (s.vopWith f fs a b n sc g l (some t)) := by
  obtain ⟨x, hx⟩ := s.vsource_some t a
  have hy : ∃ y, (if f.unary then Except.ok (x, s) else s.vsecond (some t) g x.tag b (s.x b)) = .ok (y, s) := by
    unfold State.vsecond
    split
    · exact ⟨x, rfl⟩
    · split
      · exact ⟨_, rfl⟩
      · exact s.vsource_some t b
  obtain ⟨y, hy⟩ := hy
  have h : s.vopWith f fs a b n sc g l (some t) = s.pushAlu f fs x y n sc l := by
    unfold State.vopWith
    rw [hx]
    show (if f.unary then Except.ok (x, s) else s.vsecond (some t) g x.tag b (s.x b)) >>= _ = _
    rw [hy]
    rfl
  rw [h]
  exact .pushAlu hr hvl ..

/-- The checks that VOP makes once its sources are known, with the tags it operates under and writes (R204 to R208). -/
structure State.AluChecks (s : State) (f : AluFn) (x y : Tag) (n sc : Bool) (t dt : Tag) : Prop where
  operates : promote x y = some t
  defined : f.defined t = true
  integer : s.onHart = true ∨ t.integer = true
  out : aluOutTag f t n sc = .ok dt
  fits : s.fits t = true
  fitsOut : s.fits dt = true
  scale : s.scaleOk sc [x, y, dt] = true
  product : ¬(sc = true ∧ t = .l6 ∧ f = .mul)

/-- The record of a form of VOP (R204). -/
def State.vopRecord (s : State) (f : AluFn) (dst : Dst) (tagD : Tag) (m sc l : Bool) (x y : Operand) (t dt : Tag) (vl : Nat) : VRec :=
  { s.blank (.alu f) vl with
    masked := m, scaled := sc, short := l, dst := dst, srcA := x.src, srcB := if f.unary then .none else y.src
    tagA := x.tag, tagB := y.tag, tagD := tagD, opTag := t, outTag := dt
    rezero := rezeroOf dst tagD dt, pops := if f.unary then popsOf [x] else popsOf [x, y] }

/-- VOP whose checks hold pushes its record. -/
theorem State.AluChecks.pushAlu {s v : State} {f : AluFn} {x y : Operand} {n sc : Bool} {t dt : Tag}
    (h : s.AluChecks f x.tag y.tag n sc t dt) (hy : f.unary = true → y = x) {fs : Fields} {vl : Nat}
    (hvl : s.length fs none = .ok vl) (hv : s.reserveSower (aluRounds f t n sc) vl = .ok v) (l : Bool) :
    s.pushAlu f fs x y n sc l =
      v.pushVec (s.vopRecord f (s.vdest fs) (s.destTag (s.vdest fs)) fs.mask sc l x y t dt vl) := by
  have h1 : (f.defined t && (s.onHart || t.integer)) = true := by simp [h.defined, h.integer]
  have h2 : (s.fits t && s.fits dt && s.scaleOk sc [x.tag, y.tag, dt] && !(sc && t = .l6 && f = .mul)) = true := by
    have := h.product
    simp only [h.fits, h.fitsOut, h.scale, Bool.true_and, Bool.not_eq_true', Bool.and_eq_false_iff, decide_eq_false_iff_not]
    by_cases hs : sc = true
    · by_cases ht : t = .l6
      · exact .inr fun hf => this ⟨hs, ht, hf⟩
      · exact .inl (.inr ht)
    · exact .inl (.inl (by simpa using hs))
  unfold State.pushAlu
  rw [h.operates]
  dsimp only
  rw [h1, h.out]
  show need (s.fits t && s.fits dt && s.scaleOk sc [x.tag, y.tag, dt] && !(sc && t = .l6 && f = .mul)) >>= _ = _
  rw [h2, hvl]
  show s.reserveSower _ _ >>= _ = _
  rw [hv]
  unfold State.vopRecord
  cases hf : f.unary
  · rfl
  · obtain rfl := hy hf
    rfl

/-- A form of VOP whose sources resolve and whose checks hold is pushed as its record, or pops nothing (R196, R204). -/
theorem State.takes_vop {s s1 s2 s3 : State} (hr : s.room) {f : AluFn} {d a b : BitVec 6} {n sc m g : Bool} {u : Option Tag}
    {x y : Operand} {t dt : Tag} {vl : Nat} (l : Bool) (hx : s.vsource u a = .ok (x, s1))
    (hy : if f.unary then y = x ∧ s2 = s1 else s.second u s1 s2 x y b g) (hc : s.AluChecks f x.tag y.tag n sc t dt)
    (hvl : s.length (vopFields f d a b m g) none = .ok vl) (hv : s2.reserveSower (aluRounds f t n sc) vl = .ok s3) :
    s.Takes (vopFields f d a b m g) u (s.both (s.pushVop f d a (if f.unary then 0 else b) n sc m g l)) s3
      (s2.vopRecord f (s.vdest (vopFields f d a b m g)) (s.destTag (s.vdest (vopFields f d a b m g))) m sc l x y t dt vl)
      (s.blank (.alu f) 0) := by
  have h1 : s.Claims s1 := .vsource hx
  have hy2 : (if f.unary then Except.ok (x, s1) else s1.vsecond u g x.tag b (s.x b)) = .ok (y, s2) ∧ s1.Claims s2 := by
    split at hy
    · rename_i hf
      obtain ⟨rfl, rfl⟩ := hy
      exact ⟨if_pos hf, .refl _⟩
    · rename_i hf
      have h := hy.vsecond h1
      refine ⟨(if_neg hf).trans h, ?_⟩
      unfold State.vsecond at h
      split at h
      · cases h; exact .refl _
      · exact .vsource h
  obtain ⟨hy2, h12⟩ := hy2
  have h2 : s.Claims s2 := h1.trans h12
  have hunary : f.unary = true → y = x := fun hf => by rw [if_pos hf] at hy; exact hy.1
  have hc2 : s2.AluChecks f x.tag y.tag n sc t dt :=
    ⟨hc.operates, hc.defined, by rw [h2.onHart]; exact hc.integer, hc.out, by rw [h2.fits hr.1]; exact hc.fits,
      by rw [h2.fits hr.1]; exact hc.fitsOut, by rw [h2.scaleOk]; exact hc.scale, hc.product⟩
  have hboth (p : Push State) : s.both p = s.pushOut p := by
    unfold State.both
    rw [State.agent_of_live hr.1, hr.2.1]
    rfl
  rw [State.pushVop_eq, hboth]
  refine .of_form hr ((h2.room.2 hr).reserveSower hv) (Settled.vopWith hr hvl f a b n sc g l) ?_ _
  unfold State.vopWith
  rw [hx]
  show (if f.unary then Except.ok (x, s1) else s1.vsecond u g x.tag b (s.x b)) >>= _ = _
  rw [hy2]
  show s2.pushAlu f _ x y n sc l = _
  rw [hc2.pushAlu hunary ((h2.length hr.1 _ _).trans hvl) hv, h2.vdest, h2.destTag hr.1]
  rfl

/-! Fields that are all vector registers of a hart. -/

section
variable {s : State} {d : BitVec 6} {l : List (BitVec 6)} (hh : s.onHart = true)
  (hf : ∀ f ∈ d :: l, f.toNat < s.myGang.nv ∧ isQueue f = false) (mayQueue mask : Bool)
include hf

/-- A hart may name registers below NV (R58, R154). -/
theorem State.named_registers (hh : s.onHart = true) : s.named ⟨l, some d, mayQueue, mask⟩ = .ok () := by
  have hbad (x : BitVec 6) (hx : x ∈ l) : s.badSource x = false ∧ s.sourceOff x = false := by
    obtain ⟨hn, hq⟩ := hf x (.tail _ hx)
    simp [State.badSource, State.sourceOff, hh, hq, hn]
  have hdst : s.badDest d mayQueue = false ∧ s.destOff d = false := by
    obtain ⟨hn, hq⟩ := hf d (.head _)
    have hlt : ¬60 ≤ d.toNat := by
      have : ¬56 ≤ d.toNat := by simpa [isQueue] using hq
      omega
    simp [State.badDest, State.destOff, hq, hn, hlt]
  have h1 : l.any s.badSource = false := List.any_eq_false.2 fun x hx => by rw [(hbad x hx).1]; nofun
  have h2 : l.any s.sourceOff = false := List.any_eq_false.2 fun x hx => by rw [(hbad x hx).2]; nofun
  unfold State.named
  simp only [h1, h2, Option.any_some, hdst.1, hdst.2, State.hasVregs, hh]
  rfl

theorem State.popsNothing_registers : s.popsNothing ⟨l, some d, mayQueue, mask⟩ = false := by
  have h : l.any isQueue = false := List.any_eq_false.2 fun x hx => by rw [(hf x (.tail _ hx)).2]; nofun
  simp [State.popsNothing, h]

theorem State.vdest_register : s.vdest ⟨l, some d, mayQueue, mask⟩ = .reg d.toNat := by
  simp [State.vdest, (hf d (.head _)).2]

end

theorem State.vsource_register (s : State) {f : BitVec 6} (h : isQueue f = false) (u : Option Tag) :
    s.vsource u f = .ok (⟨.reg f.toNat, (s.me.vreg f.toNat).tag, 2 ^ 32, none⟩, s) := by
  simp [State.vsource, h]

/-- The second source of a form of VOP whose fields are registers. -/
def State.vopSecond (s : State) (f : AluFn) (a b : BitVec 6) (g : Bool) : Operand :=
  let x : Operand := ⟨.reg a.toNat, (s.me.vreg a.toNat).tag, 2 ^ 32, none⟩
  if f.unary then x
  else if g then ⟨.scalar (scalarUnder x.tag s.me.frm (s.x b)), x.tag, 2 ^ 32, none⟩
  else ⟨.reg b.toNat, (s.me.vreg b.toNat).tag, 2 ^ 32, none⟩

theorem State.vopSecond_tag (s : State) (f : AluFn) (a b : BitVec 6) (g : Bool) : (s.vopSecond f a b g).tag =
    if f.unary || g then (s.me.vreg a.toNat).tag else (s.me.vreg b.toNat).tag := by
  unfold State.vopSecond
  cases f.unary <;> cases g <;> rfl

/-- Sower indices are there to reserve while frm.SRDIM is in range (R77). -/
theorem State.reserveSower_ok {s : State} {rounds : Bool} (h : rounds = true → frmRm s.me.frm = 4 → frmSrdim s.me.frm < s.me.sowDims)
    (vl : Nat) : ∃ v, s.reserveSower rounds vl = .ok v := by
  unfold State.reserveSower
  split
  · rename_i hr
    simp only [Bool.and_eq_true, decide_eq_true_eq] at hr
    rw [if_neg (by have := h hr.1 hr.2; omega)]
    exact ⟨_, rfl⟩
  · exact ⟨_, rfl⟩

/-- What a push on top of reserved Sower indices leaves of a hart (R198): the record is the youngest, the pc moves on, and its
destination carries the tag it will write. -/
theorem Queued.spec_register {s u : State} (hl : s.live = true) {f : Word → Word} {r : VRec} {d : Nat} {a : AluFn}
    (h : Queued (s.setMe fun t => { t with frm := f t.frm }) u r) (hd : r.dst = .reg d) (ho : r.op = .alu a)
    (hlen : d < s.me.vregs.length) :
    u.me.pc = s.pc + 4 ∧ u.me.vq = s.me.vq ++ [r] ∧
      (u.me.vreg d).tag = if r.vl = 0 then (s.me.vreg d).tag else r.outTag := by
  have hw : r.waits = false := by simp [VRec.waits, hd, ho]
  have hm := h.me
  rw [State.me_setMe hl] at hm
  refine ⟨?_, ?_, ?_⟩
  · rw [hm]
    simp [hw, State.pc, State.me_setMe hl]
  · rw [hm]
  · rw [hm]
    simp only [Thread.vreg, VRec.noteTag, hd, ho, VOp.always, and_true]
    split
    · rfl
    · simp [List.getElem?_eq_getElem hlen]

/-- Settles O40: VOP resolves its sources, makes its checks and pushes its record; registers always resolve. -/
theorem queuedElementwise : Obligations.QueuedElementwise := by
  unfold Obligations.QueuedElementwise
  intro p hp d a b n sc m g l s hr fs o
  have ho : o = s.both (s.pushVop p.2 d a (if p.2.unary then 0 else b) n sc m g l) := exec_vopForms p hp d a b n sc m g l s
  have hfs : fs = vopFields p.2 d a b m g := rfl
  rw [ho, hfs]
  refine ⟨?_, ?_⟩
  · intro u s1 s2 s3 x y t dt vl hx hy hprom hdef hint hout hfit hfitd hscale hprod hvl hv dst
    exact State.takes_vop hr l hx hy ⟨hprom, hdef, hint, hout, hfit, hfitd, hscale, hprod⟩ hvl hv
  · intro t dt hh hlen hf ta tb hprom hdef hout hfit hfitd hscale hprod hsow
    have ha : isQueue a = false := (hf a (by simp only [vopFields]; split <;> simp)).2
    have hy : if p.2.unary then s.vopSecond p.2 a b g = ⟨.reg a.toNat, ta, 2 ^ 32, none⟩ ∧ s = s else
        s.second none s s ⟨.reg a.toNat, ta, 2 ^ 32, none⟩ (s.vopSecond p.2 a b g) b g := by
      unfold State.vopSecond State.second
      cases hu : p.2.unary
      · cases hg : g
        · have hb : isQueue b = false := (hf b (by simp [vopFields, hu, hg])).2
          simp [State.vsource_register s hb]
        · simp [ta]
      · simp [ta]
    have htag := s.vopSecond_tag p.2 a b g
    obtain ⟨v, hv⟩ := State.reserveSower_ok hsow s.me.vl
    have htakes := State.takes_vop hr l (State.vsource_register s ha none) hy
      ⟨by rw [htag]; exact hprom, hdef, .inl hh, hout, hfit, hfitd, by rw [htag]; exact hscale, hprod⟩
      (show s.length (vopFields p.2 d a b m g) none = .ok s.me.vl by simp [State.length, hh]) hv
      (State.named_registers hf true m hh)
    have hnone : s.popsNothing (vopFields p.2 d a b m g) = false := State.popsNothing_registers hf true m
    rw [hnone] at htakes
    obtain ⟨u, hu, hq⟩ := htakes rfl
    obtain ⟨k, rfl⟩ := State.reserveSower_eq hv
    have hdst : s.vdest (vopFields p.2 d a b m g) = .reg d.toNat := State.vdest_register hf true m
    rw [hdst] at hq
    obtain ⟨hpc, hvq, hnote⟩ := Queued.spec_register hr.1 hq rfl rfl hlen
    exact ⟨u, hu, hpc, _, hvq, rfl, rfl, rfl, rfl, rfl, rfl, rfl, hnote⟩

end Sys2Proof.Machine
end

section
/-! A store of an element that is not aligned to its width and crosses a sector: the record of a hart's queue raises ALIGN
(R95, R228), although each of the two pieces that R121 cuts the element into is aligned to its own size. -/

namespace Sys2Proof.Machine

/-- The one record of the queue: element 0 of an F64 register to 28 bytes after 0x2000, which are 4 bytes before the end of
a sector. -/
def straddlingStore : VRec :=
  { State.reset.blank (.store .unit false) 1 with
    srcB := .reg 2, tagB := .f64, opTag := .f64, opa := 0x201C }

/-- A hart with that record queued. -/
def straddlingHart : Thread := { Thread.empty with
  lvl := 2, dlvl := 2, vl := 1, vregs := List.replicate 8 ⟨.f64, .f64, [(0, 1#64)], false, 0⟩, vq := [straddlingStore] }

/-- Its gang, resident on core 0. -/
def straddlingGang : Gang := { Gang.empty with st := .resident, harts := [straddlingHart] }

/-- The machine with it as the boot gang, and trained channels. -/
def straddlingState : State := { State.reset with
  gangs := [straddlingGang]
  mod := { ModSt.reset with bootGang := some 0, chans := List.replicate 256 { Chan.reset with train := false } } }

/-- The bytes of the element, as the store's clause of ElementResults gives them. -/
def straddlingPiece : Piece := (0, 0x201C, 8, 1)

/-- The record is one whose step may be performed. -/
theorem stepsNext_straddling : StepsNext straddlingState ⟨0, .hart 0⟩ straddlingGang straddlingHart straddlingStore where
  gang := rfl
  thread := rfl
  vq := rfl
  runs := by decide +kernel
  stuck := rfl
  left := rfl
  groups := by decide +kernel
  ready := by decide +kernel
  fresh := by decide +kernel
  popped := by decide +kernel
  uncut := rfl
  begins := by decide +kernel
  target := nofun
  vector := nofun
  quiet := by decide +kernel
  apart := by decide +kernel

/-- Pieces located and stored, from the test that says so. -/
theorem State.exists_storePieces {s : State} {a : Agent} {r : VRec} {k : Nat} {first nt : Bool} {l : List Piece}
    {sq : Option Nat} {runs : List (Nat × Nat × Nat)}
    (h : ((s.locatePieces a r k first l).toOption.bind fun x => x.2.storePieces a r nt sq runs x.1).isSome = true) :
    ∃ ps s1 s2, s.locatePieces a r k first l = .ok (ps, s1) ∧ s1.storePieces a r nt sq runs ps = some s2 := by
  cases hl : s.locatePieces a r k first l with
  | error e => simp [hl, Except.toOption] at h
  | ok x =>
    obtain ⟨s2, h2⟩ := Option.isSome_iff_exists.1 (by simpa [hl, Except.toOption] using h)
    exact ⟨x.1, x.2, s2, rfl, h2⟩

/-- The two halves of the element, each aligned to 4 bytes, can be located and stored. -/
theorem storePieces_straddling : ∃ ps s1 s2,
    straddlingState.locatePieces ⟨0, .hart 0⟩ straddlingStore 0 false (cutPiece straddlingPiece) = .ok (ps, s1) ∧
      s1.storePieces ⟨0, .hart 0⟩ straddlingStore false none [] ps = some s2 :=
  State.exists_storePieces (by decide +kernel)

/-- The step raises ALIGN, and the record stays in its queue. -/
theorem exec_straddling : Answers (exec (.elementGroupCompletion ⟨0, .hart 0⟩ straddlingStore.seq) straddlingState) fun u =>
    ∃ v, u.thread? ⟨0, .hart 0⟩ = some v ∧ v.causes.map (·.code) = [cALIGN] ∧ v.vq ≠ [] := by
  have hstep (u : State) (hu : (u.thread? ⟨0, .hart 0⟩).any
      (fun v => decide (v.causes.map (·.code) = [cALIGN]) && !v.vq.isEmpty) = true) :
      ∃ v, u.thread? ⟨0, .hart 0⟩ = some v ∧ v.causes.map (·.code) = [cALIGN] ∧ v.vq ≠ [] := by
    obtain ⟨v, hv, hc⟩ := (Option.any_eq_true _ _).1 hu
    exact ⟨v, hv, by simpa using hc⟩
  exact ⟨_, rfl, hstep _ (by decide +kernel)⟩

/-- Refutes O60: the clause of stores cuts the pieces of every store at sectors, while R228 checks the alignment of an
element before, so that an F64 element 4 bytes before the end of a sector raises ALIGN and is not stored. -/
theorem not_elementResults : ¬ Obligations.ElementResults := by
  unfold Obligations.ElementResults
  rintro ⟨-, hsteps, -⟩
  obtain ⟨-, -, -, -, -, -, -, -, -, -, -, -, -, hstore, -⟩ := hsteps _ _ _ _ _ stepsNext_straddling
  obtain ⟨ps, s1, s2, hlocate, hput⟩ := storePieces_straddling
  obtain ⟨u, hu, -, -, -, v, v2, hv, -, -, -, -, hdone, -⟩ :=
    hstore .unit false straddlingState s1 s2 ps rfl rfl rfl nofun hlocate hput
  obtain ⟨u', hu', v', hv', -, hkept⟩ := exec_straddling
  obtain rfl : u = u' := Host.Outcome.next.inj (hu.symm.trans hu')
  obtain rfl : v = v' := Option.some.inj (hv.symm.trans hv')
  exact hkept (hdone (by decide +kernel))

end Sys2Proof.Machine
end

section
/-! Scalar floating point: the write of a result with its flags, the rounding before it, and the Sower's words (R75, R77,
R80, R171 to R173, R338, R339). -/

namespace Sys2Proof.Machine

/-! What reading the Sower's words leaves unchanged. -/

/-- A thread but for what its scalar loads leave of its buffers: notes, translations, and entries that are closed. -/
def Thread.HasRead (t u : Thread) : Prop := u = { t with seen := u.seen, tcache := u.tcache, wc := u.wc }

theorem Thread.HasRead.trans {t u v : Thread} (h : t.HasRead u) (k : u.HasRead v) : t.HasRead v := by
  unfold Thread.HasRead at *
  rw [k, h]

theorem Thread.Noted.hasRead {t u : Thread} (h : t.Noted u) : t.HasRead u := by
  unfold Thread.Noted at h
  unfold Thread.HasRead
  rw [h]

/-- A state whose threads are as they were but for what their loads leave. -/
structure State.HasRead (s u : State) : Prop where
  cur : u.cur = s.cur
  thread : ∀ a t, s.thread? a = some t → ∃ v, u.thread? a = some v ∧ t.HasRead v

theorem State.HasRead.refl (s : State) : s.HasRead s := ⟨rfl, fun _ t h => ⟨t, h, rfl⟩⟩

theorem State.HasRead.trans {s u v : State} (h : s.HasRead u) (k : u.HasRead v) : s.HasRead v := by
  refine ⟨k.cur.trans h.cur, fun a t ht => ?_⟩
  obtain ⟨t1, ht1, h1⟩ := h.thread a t ht
  obtain ⟨t2, ht2, h2⟩ := k.thread a t1 ht1
  exact ⟨t2, ht2, h1.trans h2⟩

theorem State.Noted.hasRead {s u : State} (h : s.Noted u) : s.HasRead u := by
  refine ⟨by rw [h.rest], fun a t ht => ?_⟩
  obtain ⟨v, hv, hn⟩ := h.thread? ht
  exact ⟨v, hv, hn.hasRead⟩

theorem State.HasRead.closeSlice (s : State) (a : Agent) (n : Nat) : s.HasRead (s.modThread a (·.closeSlice n)) := by
  refine ⟨rfl, fun b t ht => ?_⟩
  rw [State.thread?_modThread, ht]
  split
  · exact ⟨_, rfl, rfl⟩
  · exact ⟨_, rfl, rfl⟩

/-- A core's cache is no part of a thread. -/
theorem State.HasRead.modCore (s : State) (i : Nat) (f : CoreSt → CoreSt) : s.HasRead (s.modCore i f) :=
  ⟨rfl, fun _ t ht => ⟨t, ht, rfl⟩⟩

section
variable {s t : State}

/-- The words of a direction table are loads of the scalar slice (R338). -/
theorem State.HasRead.readWords {a : Agent} {lvl va n : Nat} {ws : List (BitVec 32)}
    (h : s.readWords a lvl va n = .ok (ws, t)) : s.HasRead t := by
  induction n generalizing s va ws with
  | zero => cases h; exact .refl _
  | succ n ih =>
    unfold State.readWords at h
    split at h
    · cases h
    split at h
    · cases h
    rename_i p s1 hp
    split at h
    · cases h
    split at h
    · cases h
    rename_i hr
    cases h
    have hclosed : s1.HasRead (s1.modThread a (·.closeSlice 0)) := .closeSlice s1 a 0
    have hnoted := (State.Noted.noteRead (s1.modThread a (·.closeSlice 0)) a p 4).trans (.chargeRun _ a.gang p 4 va (n ≠ 0))
    exact ((State.Noted.locate hp).hasRead.trans hclosed).trans (hnoted.hasRead.trans (ih hr))

/-- A dimension comes from the core's cache, or from its words (R338). -/
theorem State.HasRead.dimension {a : Agent} {lvl dims d : Nat} {taddr : Word} {v : List (BitVec 32)}
    (h : s.dimension a lvl dims taddr d = .ok (v, t)) : s.HasRead t := by
  unfold State.dimension at h
  dsimp only at h
  split at h
  · cases h
    exact .modCore ..
  split at h
  · cases h
  rename_i hnumbers
  split at h
  · cases h
  rename_i hseed
  cases h
  exact ((State.HasRead.readWords hnumbers).trans (.readWords hseed)).trans (.modCore ..)

theorem State.HasRead.sowerN32 {a : Agent} {d n : Nat} {u : BitVec 32} (h : s.sowerN32 a d n = .ok (u, t)) : s.HasRead t := by
  unfold State.sowerN32 at h
  dsimp only at h
  split at h
  · cases h
  rename_i hd
  cases h
  exact .dimension hd

theorem State.HasRead.live (h : s.HasRead t) (hl : s.live = true) : t.live = true := by
  obtain ⟨a, u, ha, hu⟩ := State.live_iff.1 hl
  obtain ⟨v, hv, -⟩ := h.thread a u hu
  exact State.live_iff.2 ⟨a, v, h.cur.trans ha, hv⟩

theorem State.HasRead.me (h : s.HasRead t) (hl : s.live = true) : s.me.HasRead t.me := by
  obtain ⟨a, u, ha, hu⟩ := State.live_iff.1 hl
  obtain ⟨v, hv, hr⟩ := h.thread a u hu
  simpa [State.me, h.cur, ha, hu, hv] using hr

end

/-! The write of a result. -/

theorem RetiresFloat.setMe {s : State} (h : s.live = true) (d : Nat) (v : Word) (fl : BitVec 6) {frm : Word}
    {f : Thread → Word} (hf : f s.me = frm) :
    RetiresFloat s (s.setMe fun t => ({ t.setReg d v with fflags := t.fflags ||| fl, frm := f t } : Thread).retire) d v fl frm where
  thread := OnlyThread.setMe h _
  bytes := SameBytes.setMe _ _
  regs r := by
    rw [State.me_setMe h]
    exact Thread.reg_setReg s.me d r v
  rest := by
    rw [State.me_setMe h, hf]
    unfold Thread.setReg State.pc
    split <;> rfl

/-- What a result with its flags comes to: it is written, or FPX is raised and nothing written (R80, R171). -/
def State.GivesFloat (s : State) (o : Out) (d : BitVec 6) (r : Rounded) (frm : Word) : Prop :=
  (raisesFpx s.me.frm r.2 = false ∨ s.me.scalarSupp = true →
    Answers o fun t => RetiresFloat s t d.toNat r.1 r.2 frm) ∧
  (raisesFpx s.me.frm r.2 = true → s.me.scalarSupp = false → o = s.trap cFPX)

/-- A result is written with its flags, and frm goes on by the Sower words it has taken (R77, R80, R171). -/
theorem State.givesFloat_fpWrite {s : State} (h : s.live = true) (d : BitVec 6) (r : Rounded) (k : Nat) :
    s.GivesFloat (s.fpWrite d r k) d r (if k = 0 then s.me.frm else frmAdvance s.me.frm k) := by
  unfold State.GivesFloat State.fpWrite
  refine ⟨fun hw => ?_, fun hx hs => by rw [hx, hs]; rfl⟩
  rw [if_neg (by rcases hw with hw | hw <;> simp [hw])]
  exact .intro rfl (.setMe h d.toNat r.1 r.2 rfl)

/-! The one rounding. -/

/-- A value rounded once, with the flags of the rounding and those it comes with (R171). -/
def roundOnce (t : Tag) (frm : Word) (u : Option Nat) (v : Val × BitVec 6) : Rounded :=
  let r := roundTag t frm u v.1
  (r.1, r.2 ||| v.2)

section
variable {s : State} (hl : s.live = true) (hh : s.onHart = true) (d : BitVec 6) (t : Tag) (v : Val × BitVec 6)
include hl hh

/-- Without the Sower a value is rounded under frm alone (R77, R171). -/
theorem State.fpRound_of_plain {sto : Bool} (hp : frmRm s.me.frm ≠ 4 ∨ sto = false) :
    s.fpRound d t sto v = s.fpWrite d (roundOnce t s.me.frm none v) 0 := by
  unfold State.fpRound
  rw [State.hart_of_onHart hl hh]
  exact if_neg (by rcases hp with hp | hp <;> simp [hp])

/-- By the Sower a dimension that is not loaded is illegal (R77). -/
theorem State.fpRound_of_unloaded (hm : frmRm s.me.frm = 4) (hd : s.me.sowDims ≤ frmSrdim s.me.frm) :
    s.fpRound d t true v = s.illop := by
  unfold State.fpRound
  rw [State.hart_of_onHart hl hh]
  simp [hm, hd]

/-- By the Sower a value is rounded with one word, whatever it is (R77, R171). -/
theorem State.fpRound_of_sower (hm : frmRm s.me.frm = 4) (hd : frmSrdim s.me.frm < s.me.sowDims) {u : BitVec 32} {s1 : State}
    (hu : s.sowerN32 s.who (frmSrdim s.me.frm) (frmSridx s.me.frm) = .ok (u, s1)) :
    s.fpRound d t true v = s1.fpWrite d (roundOnce t s.me.frm (some u.toNat) v) 1 := by
  unfold State.fpRound
  rw [State.hart_of_onHart hl hh]
  simp [hm, Nat.not_le.2 hd, hu, roundOnce]

end

/-- Each rounding form rounds the exact value of its operands (R172, R173). -/
theorem exec_roundingForms : ∀ p ∈ roundingForms, ∀ (d a b c : BitVec 6) (s : State),
    exec (p.instr d a b c) s = s.fpRound d p.tag p.sower (p.value (frmRm s.me.frm) (s.x a) (s.x b) (s.x c)) := by
  simp only [roundingForms, List.forall_mem_cons, List.not_mem_nil, false_imp_iff, implies_true, and_true]
  refine ⟨?_, ?_, ?_, ?_, ?_, ?_, ?_, ?_, ?_, ?_, ?_, ?_, ?_, ?_, ?_, ?_, ?_, ?_, ?_, ?_, ?_, ?_, ?_, ?_, ?_, ?_, ?_⟩
  all_goals exact fun _ _ _ _ _ => rfl

/-- Settles O23: every form is one rounding of its exact value, and the Sower's word leaves the thread's frm and SUPP. -/
theorem floatRounding : Obligations.FloatRounding := by
  unfold Obligations.FloatRounding
  intro p hp d a b c s hl hh
  rw [exec_roundingForms p hp d a b c s]
  intro frm v gives
  refine ⟨fun hplain => ?_, fun hm hs => ?_⟩
  · dsimp only [gives]
    rw [State.fpRound_of_plain hl hh _ _ _ hplain]
    exact State.givesFloat_fpWrite hl d (roundOnce p.tag frm none v) 0
  · refine ⟨fun hd => hs ▸ State.fpRound_of_unloaded hl hh _ _ _ hm hd, fun hd u s1 hu => ?_⟩
    have hread := State.HasRead.sowerN32 hu
    have hme : s.me.HasRead s1.me := hread.me hl
    have hfrm : s1.me.frm = frm := by rw [hme]
    have hsupp : s1.me.scalarSupp = s.me.scalarSupp := by rw [Thread.scalarSupp, hme]; rfl
    have hgives := State.givesFloat_fpWrite (hread.live hl) d (roundOnce p.tag frm (some u.toNat) v) 1
    rw [State.GivesFloat, hfrm, hsupp] at hgives
    dsimp only [gives]
    rw [hs, State.fpRound_of_sower hl hh _ _ _ hm hd hu]
    exact hgives

end Sys2Proof.Machine
end

section
/-! CSRs that read as they were last written: registers of the hart, of its partition or the selected one, and of the module
(R75, R80, R279, R380, R409, R443). -/

namespace Sys2Proof.Machine

/-! Bits that a register keeps. -/

/-- A word written to a register of n bits and read. -/
theorem setWidth_setWidth_eq_and (v : Word) (n : Nat) : (v.setWidth n).setWidth 64 = v &&& BitVec.ofNat 64 (2 ^ n - 1) := by
  refine BitVec.eq_of_getLsbD_eq fun i hi => ?_
  rw [BitVec.getLsbD_setWidth, BitVec.getLsbD_setWidth, BitVec.getLsbD_and, BitVec.getLsbD_ofNat,
    Nat.testBit_two_pow_sub_one]
  simp [hi, Bool.and_comm]

/-! What a hart at its level reads and writes. -/

/-- The CSR that a hart reads by its number alone. -/
def State.hartReads (s : State) (n : Nat) : CsrRead :=
  if n < 0x100 then s.readUser n else if n < 0x200 then s.readSuper n else s.readFirm n

/-- The CSR that a hart writes by its number alone. -/
def State.hartWrites (s : State) (n : Nat) (v : Word) : Option State :=
  if n < 0x100 then some (s.writeUser n v) else if n < 0x200 then some (s.writeSuper n v) else s.writeFirm n v

section
variable {s t : State} (hh : s.onHart = true) {c : BitVec 12} {v : Word}
include hh

/-- A hart whose level may name a CSR reads it (R184, R379). -/
theorem State.readCsr_hart (hl : min (c.toNat / 0x100) 2 ≤ s.me.lvl) : s.readCsr c = s.hartReads c.toNat := by
  unfold State.readCsr State.hartReads
  rw [hh]
  dsimp only
  rw [if_neg nofun]
  split
  · rfl
  split
  · rw [if_pos (by omega)]
  · rw [if_pos (by omega)]

theorem State.writeCsr_hart : s.writeCsr c v = s.hartWrites c.toNat v := by
  unfold State.writeCsr State.hartWrites
  rw [hh]
  rfl

/-- A register whose value does not depend on who reads it is read back by the hart that wrote it. -/
theorem State.readCsr_of_writeCsr {u : State} {get : State → Word} (hl : min (c.toNat / 0x100) 2 ≤ s.me.lvl)
    (hw : s.hartWrites c.toNat v = some u) (hr : ∀ x : State, x.hartReads c.toNat = some (get x, x))
    (hu : u.onHart = s.onHart) (hlvl : u.me.lvl = s.me.lvl) (ht : s.writeCsr c v = some t) :
    t.readCsr c = some (get u, t) := by
  obtain rfl : u = t := Option.some.inj (hw.symm.trans ((State.writeCsr_hart hh).symm.trans ht))
  rw [State.readCsr_hart (hu.trans hh) (hlvl ▸ hl), hr]

end

/-- What a change at a place of a list leaves there. -/
theorem getD_modifyAt {α : Type} (l : List α) {i : Nat} (hi : i < l.length) (f : α → α) (d : α) :
    ((modifyAt l i f)[i]?).getD d = f ((l[i]?).getD d) := by
  rw [getElem?_modifyAt, if_pos rfl, List.getElem?_eq_getElem hi]
  rfl

/-! Registers of the hart, of a partition, and of the module. -/

/-- A CSR gives a hart that may name it the bits of the mask that were written to it. -/
def State.Keeps (s : State) (c : BitVec 12) (mask v : Word) : Prop :=
  ∀ t, s.writeCsr c v = some t → t.readCsr c = some (v &&& mask, t)

section
variable {s : State} (hh : s.onHart = true) {c : BitVec 12} {mask v : Word} (hl : min (c.toNat / 0x100) 2 ≤ s.me.lvl)
include hh hl

theorem State.keeps_thread (hlive : s.live = true) (get : Thread → Word) {f : Thread → Thread}
    (hw : s.hartWrites c.toNat v = some (s.setMe f)) (hr : ∀ x : State, x.hartReads c.toNat = some (get x.me, x))
    (hlvl : (f s.me).lvl = s.me.lvl) (hg : get (f s.me) = v &&& mask) : s.Keeps c mask v := by
  intro t ht
  have hme := State.me_setMe hlive f
  rw [State.readCsr_of_writeCsr hh hl hw hr (by simp) (by rw [hme, hlvl]) ht, hme, hg]

theorem State.keeps_part (i : State → Nat) (get : PartSt → Word) {f : PartSt → PartSt}
    (hw : s.hartWrites c.toNat v = some (s.modPart (i s) f))
    (hr : ∀ x : State, x.hartReads c.toNat = some (get (x.part (i x)), x)) (hi : i (s.modPart (i s) f) = i s)
    (hlen : i s < s.parts.length) (hg : ∀ p, get (f p) = v &&& mask) : s.Keeps c mask v := by
  intro t ht
  rw [State.readCsr_of_writeCsr hh hl hw hr rfl rfl ht, hi, State.part, State.modPart, getD_modifyAt _ hlen, hg]

theorem State.keeps_mod (get : ModSt → Word) {f : ModSt → ModSt}
    (hw : s.hartWrites c.toNat v = some { s with mod := f s.mod })
    (hr : ∀ x : State, x.hartReads c.toNat = some (get x.mod, x)) (hg : get (f s.mod) = v &&& mask) : s.Keeps c mask v := by
  intro t ht
  rw [State.readCsr_of_writeCsr hh hl hw hr rfl rfl ht]
  exact congrArg (fun w => some (w, t)) hg

end

/-- The stacks of the selected partition, beside what firmware is told of a stack that no partition has any more (R408). -/
theorem State.writeFpmem_eq (s : State) (v : Word) : ∃ e k, s.writeFpmem v =
    { s.modPart s.mod.fpsel fun p => { p with fpmem := v.setWidth 21 } with
      mod := { s.mod with event := e, evUnit := k } } := by
  unfold State.writeFpmem
  dsimp only
  split
  · exact ⟨_, _, rfl⟩
  · exact ⟨s.mod.event, s.mod.evUnit, rfl⟩

theorem State.keeps_fpmem {s : State} (hh : s.onHart = true) (hl : 2 ≤ s.me.lvl) (hlen : s.mod.fpsel < s.parts.length)
    (v : Word) : s.Keeps 0x212 0x1FFFFF v := by
  intro t ht
  obtain ⟨e, k, he⟩ := s.writeFpmem_eq v
  rw [State.readCsr_of_writeCsr hh (c := 0x212) (get := fun x => (x.part x.mod.fpsel).fpmem.setWidth 64) hl
    (congrArg some he) (fun _ => rfl) rfl rfl ht]
  have hpart := congrArg (fun p : PartSt => p.fpmem.setWidth 64)
    (getD_modifyAt s.parts hlen (fun p => { p with fpmem := v.setWidth 21 }) PartSt.reset)
  exact congrArg (fun w => some (w, t)) (hpart.trans (setWidth_setWidth_eq_and v 21))

/-- The place k of the four breakpoint registers keeps all but bit 1 (R380). -/
theorem State.keeps_sbkpt {s : State} (hlive : s.live = true) (hh : s.onHart = true) (hl : 1 ≤ s.me.lvl)
    (hlen : s.me.sbkpt.length = 4) {c : BitVec 12} {k : Nat} (hc : c.toNat = 0x110 + k) (hk : k < 4) (v : Word) :
    s.Keeps c 0xFFFFFFFFFFFFFFFD v := by
  refine State.keeps_thread hh (by omega) hlive (fun t => (t.sbkpt[k]?).getD 0)
    (f := fun t => { t with sbkpt := modifyAt t.sbkpt k fun _ => v &&& ~~~2#64 }) ?_ (fun x => ?_) rfl ?_
  · rw [hc]
    interval_cases k <;> rfl
  · rw [hc]
    interval_cases k <;> rfl
  · exact getD_modifyAt s.me.sbkpt (by omega) _ 0

/-- frm keeps its RM when 5, 6 or 7 is written there, and its reserved bits read as zero (R75). -/
theorem writeFrm_fields (old v : Word) : writeFrm old v &&& ~~~7#64 = v &&& 0xFFFFFFFF0FFF1F08 ∧
    writeFrm old v &&& 7#64 = if (v &&& 7#64).toNat ≤ 4 then v &&& 7#64 else old &&& 7#64 := by
  have hhigh (x : Word) : (v &&& 0xFFFFFFFF0FFF1F08#64 ||| x &&& 7#64) &&& ~~~7#64 = v &&& 0xFFFFFFFF0FFF1F08#64 := by
    rw [BitVec.and_or_distrib_right, BitVec.and_assoc, BitVec.and_assoc]
    simp
  have hlow (x : Word) : (v &&& 0xFFFFFFFF0FFF1F08#64 ||| x &&& 7#64) &&& 7#64 = x &&& 7#64 := by
    rw [BitVec.and_or_distrib_right, BitVec.and_assoc, BitVec.and_assoc]
    simp
  unfold writeFrm
  dsimp only
  split
  · exact ⟨hhigh v, hlow v⟩
  · exact ⟨hhigh old, hlow old⟩

/-- Settles O33: each register is written by a change of one field, and is read from that field. -/
theorem csrWriteThenRead : Obligations.CsrWriteThenRead := by
  unfold Obligations.CsrWriteThenRead
  refine ⟨fun p hp v s t hlive hh hl hpart hsel hbk => ?_, fun v s t hlive hh ht => ?_⟩
  · suffices s.Keeps p.1 p.2.1 v from this t
    have and_not (m : Word) : v &&& 0x000FFFFFFFFFFFFF#64 &&& m = v &&& (0x000FFFFFFFFFFFFF#64 &&& m) := BitVec.and_assoc ..
    revert p
    simp only [keptCsrs, List.forall_mem_cons, List.not_mem_nil, false_imp_iff, implies_true, and_true]
    exact ⟨
      fun hl => State.keeps_thread hh hl hlive (·.mshape.setWidth 64) rfl (fun _ => rfl) rfl
        (setWidth_setWidth_eq_and v 25),
      fun hl => State.keeps_thread hh hl hlive (·.fflags.setWidth 64) rfl (fun _ => rfl) rfl
        (setWidth_setWidth_eq_and v 6),
      fun hl => State.keeps_part hh hl State.myPart (·.stvec) rfl (fun _ => rfl) rfl hpart fun _ => rfl,
      fun hl => State.keeps_thread hh hl hlive (·.sepc) rfl (fun _ => rfl) rfl BitVec.and_allOnes.symm,
      fun hl => State.keeps_thread hh hl hlive (·.sscratch) rfl (fun _ => rfl) rfl BitVec.and_allOnes.symm,
      fun hl => State.keeps_thread hh hl hlive (·.seventen.setWidth 64) rfl (fun _ => rfl) rfl
        (setWidth_setWidth_eq_and v 3),
      fun hl => State.keeps_sbkpt hlive hh hl hbk (k := 0) rfl (by decide) v,
      fun hl => State.keeps_sbkpt hlive hh hl hbk (k := 1) rfl (by decide) v,
      fun hl => State.keeps_sbkpt hlive hh hl hbk (k := 2) rfl (by decide) v,
      fun hl => State.keeps_sbkpt hlive hh hl hbk (k := 3) rfl (by decide) v,
      fun hl => State.keeps_part hh hl State.myPart (·.sxroot) rfl (fun _ => rfl) rfl hpart fun _ => and_not _,
      fun hl => State.keeps_part hh hl State.myPart (·.scpool) rfl (fun _ => rfl) rfl hpart fun _ => and_not _,
      fun hl => State.keeps_part hh hl State.myPart (·.scslot) rfl (fun _ => rfl) rfl hpart fun _ => rfl,
      fun hl => State.keeps_part hh hl State.myPart (·.sring) rfl (fun _ => rfl) rfl hpart fun _ => and_not _,
      fun hl => State.keeps_part hh hl State.myPart (·.ssring) rfl (fun _ => rfl) rfl hpart fun _ => and_not _,
      fun hl => State.keeps_mod hh hl (·.fvec) (f := fun m => { m with fvec := v &&& ~~~3#64 }) rfl (fun _ => rfl) rfl,
      fun hl => State.keeps_thread hh hl hlive (·.fepc) rfl (fun _ => rfl) rfl BitVec.and_allOnes.symm,
      fun hl => State.keeps_thread hh hl hlive (·.fscratch) rfl (fun _ => rfl) rfl BitVec.and_allOnes.symm,
      fun hl => State.keeps_fpmem hh hl hsel v,
      fun hl => State.keeps_part hh hl (·.mod.fpsel) (·.fgcap.setWidth 64) rfl (fun _ => rfl) rfl hsel fun _ =>
        setWidth_setWidth_eq_and v 63,
      fun hl => State.keeps_part hh hl (·.mod.fpsel) (·.fclmap.setWidth 64) rfl (fun _ => rfl) rfl hsel fun _ =>
        setWidth_setWidth_eq_and v 40,
      fun hl => State.keeps_mod hh hl (·.fmodid.setWidth 64) (f := fun m => { m with fmodid := v.setWidth 16 }) rfl
        (fun _ => rfl) (setWidth_setWidth_eq_and v 16)⟩
  · have hread := State.readCsr_of_writeCsr hh (c := 0x010) (get := fun x => x.me.frm)
      (u := s.setMe fun t => { t with frm := writeFrm t.frm v }) (Nat.zero_le _) rfl (fun _ => rfl) (by simp)
      (by rw [State.me_setMe hlive]) ht
    rw [State.me_setMe hlive] at hread
    exact ⟨_, hread, writeFrm_fields s.me.frm v⟩

end Sys2Proof.Machine
end

section
/-! A queue whose one record writes a scalar register: the queue goes on running when it is pushed, and its last step gives the
scalar thread the register and empties the queue (R53, R56, R198). -/

namespace Sys2Proof.Machine

/-! Whether a queue runs does not depend on what it holds. -/

theorem any_modifyAt {α : Type} (l : List α) (i : Nat) (f : α → α) (p : α → Bool) (h : ∀ x, l[i]? = some x → p (f x) = p x) :
    (modifyAt l i f).any p = l.any p := by
  induction l generalizing i with
  | nil => rfl
  | cons x l ih =>
    cases i with
    | zero => simp [modifyAt, h x (by simp)]
    | succ i => simp only [modifyAt, List.any_cons]; rw [ih i fun y hy => h y (by simpa using hy)]

section
variable {s : State} {a : Agent} (hc : s.cur = some a) {f : Thread → Thread}
include hc

/-- Whether a gang's stores are held depends on the other gangs of its launch (R137). -/
theorem State.held_setMe (n : Nat) : (s.setMe f).held a.gang n = s.held a.gang n := by
  unfold State.held State.gangDeterm State.launchOf
  simp only [State.gangOf_setMe_launch, State.gangOf_setMe_number, State.setMe_mod, State.setMe_launches]
  congr 1
  unfold State.setMe
  rw [hc]
  refine any_modifyAt _ _ _ _ fun g hg => ?_
  have hnumber : (s.gangOf a.gang).number = g.number := by rw [State.gangOf_of hg]
  have hkeeps : (g.modThread a.role f).number = g.number := by cases a.role <;> rfl
  simp [hnumber, hkeeps]

/-- A change of a thread that leaves its stores unwritten as they are leaves what its gang waits for (R139). -/
theorem State.settling_setMe (hf : ∀ t, (f t).wc = t.wc) : (s.setMe f).settling a.gang = s.settling a.gang := by
  unfold State.settling
  simp only [State.held_setMe hc, State.gangOf_setMe_placeOrd]
  rcases s.gangOf_setMe f a.gang with h | h
  · rw [h]
  · rw [h]
    cases s.who.role with
    | access => simp [Gang.modThread, hf]
    | hart k =>
      simp only [Gang.modThread, List.any_append, List.any_flatMap]
      rw [any_modifyAt _ _ _ _ fun t _ => by rw [hf]]

/-- A queue runs on when its thread changes in what does not stop it (R384, R389, R402). -/
theorem State.mayRun_setMe (hf : ∀ t, (f t).wc = t.wc ∧ (f t).debug = t.debug ∧ (f t).frz = t.frz ∧ (f t).faulted = t.faulted) :
    (s.setMe f).mayRun a = s.mayRun a := by
  have hthread : (s.setMe f).thread? a = (s.thread? a).map f := by
    simp [State.setMe, hc, State.thread?_modThread]
  unfold State.mayRun State.engineRuns State.paused State.partOfCore State.part State.core
  rw [State.settling_setMe hc fun t => (hf t).1, hthread]
  simp only [State.gangOf_setMe_st, State.gangOf_setMe_core, State.setMe_cores, State.setMe_mod, State.setMe_parts]
  cases s.thread? a with
  | none => rfl
  | some t =>
    obtain ⟨-, hdebug, hfrz, hfaulted⟩ := hf t
    simp [hdebug, hfrz, hfaulted]

end

theorem Queued.cur {s t : State} {r : VRec} (h : Queued s t r) : t.cur = s.cur :=
  (congrArg State.cur h.thread).trans (State.setMe_cur s _)

theorem Queued.thread? {s t : State} {r : VRec} {a : Agent} (h : Queued s t r) (hl : s.live = true) (hc : s.cur = some a) :
    t.thread? a = some t.me := by
  have hlive : t.live = true := (congrArg State.live h.thread).trans ((State.live_setMe _).trans hl)
  obtain ⟨b, u, hb, hu⟩ := State.live_iff.1 hlive
  obtain rfl : a = b := Option.some.inj (hc.symm.trans (h.cur.symm.trans hb))
  rw [hu, State.me, hb]
  simp [hu]

/-- A queue that runs goes on doing so when an instruction is pushed on it. -/
theorem Queued.mayRun {s t : State} {r : VRec} {a : Agent} (h : Queued s t r) (hl : s.live = true) (hc : s.cur = some a) :
    t.mayRun a = s.mayRun a := by
  have ht : t = s.setMe fun u => { u with
      vq := t.me.vq, vqtail := t.me.vqtail, ordNext := t.me.ordNext, vregs := t.me.vregs, pc := t.me.pc, wait := t.me.wait
      stall := t.me.stall, supp := t.me.supp, suppNow := t.me.suppNow, retired := t.me.retired } :=
    h.thread.trans (State.setMe_congr hl (by rw [h.me]))
  rw [ht]
  exact State.mayRun_setMe hc fun _ => ⟨rfl, rfl, rfl, rfl⟩

/-! The one record of a queue. -/

theorem SameBytes.modRec (s : State) (a : Agent) (seq : Nat) (f : VRec → VRec) : SameBytes s (s.modRec a seq f) :=
  .modThread s a _

/-- From `s` to `u` every byte and the agent in execution stay as they are, and the thread of agent `a` becomes `t`. -/
structure State.Becomes (s u : State) (a : Agent) (t : Thread) : Prop where
  bytes : SameBytes s u
  cur : u.cur = s.cur
  thread : u.thread? a = some t

theorem State.Becomes.trans {s u v : State} {a : Agent} {t t' : Thread} (h : s.Becomes u a t) (k : u.Becomes v a t') :
    s.Becomes v a t' := ⟨h.bytes.trans k.bytes, k.cur.trans h.cur, k.thread⟩

section
variable {s : State} {a : Agent} {t : Thread} (ht : s.thread? a = some t)
include ht

theorem State.Becomes.modThread (f : Thread → Thread) : s.Becomes (s.modThread a f) a (f t) :=
  ⟨.modThread s a f, rfl, by simp [State.thread?_modThread, ht]⟩

theorem State.Becomes.charge (k n : Nat) : s.Becomes (s.charge a.gang k n) a t := by
  refine ⟨.charge .., ?_, ?_⟩
  · unfold State.charge
    dsimp only
    split <;> rfl
  · unfold State.thread?
    rw [State.charge_gangs]
    exact ht

variable {r : VRec} (hq : t.vq = [r])
include hq

/-- The completion of a group of the one record of a queue that runs (R53). -/
theorem exec_groupCompletion_of_single (hrun : s.mayRun a = true) (hst : r.stuck = false) (hd : r.done = false) :
    exec (.elementGroupCompletion a r.seq) s = .next (((s.vectorStep a r).deliver a r.seq).completeAll a 1) := by
  show execElementGroupCompletion a r.seq s = _
  simp [execElementGroupCompletion, ht, hq, hrun, hst, hd]

theorem State.Becomes.modRec (f : VRec → VRec) : s.Becomes (s.modRec a r.seq f) a { t with vq := [f r] } :=
  ⟨.modRec .., rfl, by simp [State.modRec, State.thread?_modThread, ht, hq]⟩

/-- Nothing comes before the one record of a queue whose matrix queue is empty: it waits for its entries alone, and as it
reads none, for nothing (R54, R132, R283). -/
theorem State.stepReady_of_single (hmq : t.mq = []) {n : Nat} (hA : r.srcA = .reg n) (hB : r.srcB = .none)
    (hm : r.op.memory = false) (k : Nat) : s.stepReady a r k = true := by
  simp [State.stepReady, Thread.behindDrain, Thread.older, Thread.olderMatrix, ht, hq, hmq, hA, hB, hm, VRec.entryReady]

variable {d : Nat} (hdst : r.dst = .scalar d)
include hdst

/-- A step of a record that writes a scalar register leaves its thread as it is but for the record. -/
theorem State.Becomes.commit_scalar (hp : r.pops = []) (hs : r.supp = false) :
    s.Becomes (s.commit a r 0 []) a { t with vq := [{ r with pi := 1, done := decide (r.groups ≤ 1) }] } := by
  have h : s.commit a r 0 [] = ((s.modGang a.gang fun g => g).modThread a fun t => t).modRec a r.seq fun w => { w with
      pi := 1, done := decide (w.groups ≤ 1), flags := w.flags ||| 0, supp := false, wrote := w.wrote || false
      out := match w.dst with
        | .sq _ => w.out ++ []
        | _ => w.out } := by
    unfold State.commit
    rw [hdst, hs, hp]
    rfl
  rw [h, State.modGang_eq_self fun _ => rfl]
  exact ⟨(SameBytes.modThread ..).trans (.modRec ..), rfl, by
    simp [State.modRec, State.thread?_modThread, ht, hq, hdst, hs]⟩

/-- A record that is done gives its scalar register and its flags, and the hart that waits for it goes on behind it (R56,
R80, R198). -/
theorem State.Becomes.deliver_scalar (hp : r.pops = []) (hd : r.done = true) (hst : r.stuck = false)
    (hw : t.wait = .gd r.seq) : s.Becomes ((s.deliver a r.seq).completeAll a 1) a
      { (t.setReg d r.scalarResult).wake with vq := [], fflags := t.fflags ||| r.flags } := by
  have hdeliver : s.Becomes (s.deliver a r.seq) a
      ({ t.setReg d r.scalarResult with vq := [{ r with dst := .none }] } : Thread).wake :=
    ⟨.modThread s a _, rfl, by
      simp [State.deliver, State.thread?_modThread, ht, hq, hd, hst, hdst, Thread.answered, hw]⟩
  have holdest : (s.deliver a r.seq).completeOldest a = some ((s.deliver a r.seq).modThread a fun t =>
      { t with vq := [], fflags := t.fflags ||| r.flags }) := by
    have hents (l : List Entry) : l.filter (fun e => !r.pops.contains e.id) = l := by simp [hp]
    simp only [State.completeOldest, hdeliver.thread, Thread.wake, Thread.retire_eq, Thread.retireTo_vq, Option.getD_some,
      hd, hst, hents, Bool.not_true, Bool.or_self, Bool.false_eq_true, if_false]
    rw [State.modGang_eq_self fun _ => rfl]
  have hall : (s.deliver a r.seq).completeAll a 1 = (s.deliver a r.seq).modThread a fun t =>
      { t with vq := [], fflags := t.fflags ||| r.flags } := by
    rw [State.completeAll, holdest]
    rfl
  rw [hall]
  have h := hdeliver.trans (.modThread hdeliver.thread fun t => { t with vq := [], fflags := t.fflags ||| r.flags })
  simpa [Thread.wake, Thread.retire_eq] using h

end

end Sys2Proof.Machine
end

section
/-! Reductions: what is pushed, and what has been written when the record has been performed (R88, R196, R198, R220). -/

namespace Sys2Proof.Machine

/-! The push. -/

/-- The record of a reduction: its seed is as much of gb as the tag it is made in takes (R220). -/
def State.redRecord (s : State) (f : FoldFn) (d : BitVec 6) (gb : Word) (sc m : Bool) (x : Operand) : VRec :=
  { s.blank (.red f) s.me.vl with
    masked := m, scaled := sc, dst := .scalar d.toNat, srcA := x.src, tagA := x.tag, opTag := reduceTag x.tag
    opb := if reduceTag x.tag = .f32 then gb &&& 0xFFFFFFFF#64 else gb, pops := popsOf [x] }

/-- What a reduction does with its source (R220). -/
def State.redWith (s : State) (f : FoldFn) (d a b : BitVec 6) (sc m : Bool) (u : Option Tag) : Push State :=
  s.vsource u a >>= fun p => need (!(f.bitwise && p.1.tag.floating) && s.scaleOk sc [p.1.tag]) >>= fun _ =>
    p.2.pushVec { p.2.redRecord f d (s.x b) sc m p.1 with vl := s.me.vl }

/-- Each form of VRED pushes its function (R220). -/
theorem exec_reduceForms : ∀ p ∈ reduceForms, ∀ (d a b : BitVec 6) (sc m : Bool) (s : State),
    exec (p.1 d a b sc m) s = s.execute (s.form ⟨[a], none, false, m⟩
      { s.blank (.red p.2) 0 with dst := .scalar d.toNat, opb := s.x b, opTag := .n64 } (s.redWith p.2 d a b sc m)) := by
  simp only [reduceForms, List.forall_mem_cons, List.not_mem_nil, false_imp_iff, implies_true, and_true]
  refine ⟨?_, ?_, ?_, ?_, ?_, ?_⟩
  all_goals exact fun _ _ _ _ _ _ => rfl

theorem FoldFn.bitwise_iff (f : FoldFn) : f.bitwise = true ↔ f ∈ ([.and, .or, .xor] : List FoldFn) := by
  cases f <;> decide

section
variable {s s1 : State} {f : FoldFn} {d a b : BitVec 6} {sc m : Bool} {u : Option Tag} {x : Operand}
  (hx : s.vsource u a = .ok (x, s1))
include hx

/-- A bitwise reduction of a floating-point source is refused (R220). -/
theorem State.redWith_of_floating (hb : f.bitwise = true) (hf : x.tag.floating = true) :
    s.redWith f d a b sc m u = illopP := by
  unfold State.redWith
  rw [hx]
  simp only [bind, Except.bind, hb, hf]
  rfl

/-- Any other pushes its record (R220). -/
theorem State.redWith_of_legal (hb : f.bitwise = true → x.tag.floating = false) (hs : s.scaleOk sc [x.tag] = true) :
    s.redWith f d a b sc m u = s1.pushVec { s1.redRecord f d (s.x b) sc m x with vl := s.me.vl } := by
  have hlegal : (!(f.bitwise && x.tag.floating) && s.scaleOk sc [x.tag]) = true := by
    rw [hs]
    cases hf : f.bitwise
    · rfl
    · simp [hb hf]
  unfold State.redWith
  rw [hx]
  simp only [bind, Except.bind, hlegal]
  rfl

end

/-- Under a tag that stands for its source, a reduction is pushed or refused. -/
theorem Settled.redWith {s : State} (hr : s.room) (f : FoldFn) (d a b : BitVec 6) (sc m : Bool) (t : Tag) :
    Settled (s.redWith f d a b sc m (some t)) := by
  obtain ⟨x, hx⟩ := s.vsource_some t a
  unfold State.redWith
  rw [hx]
  exact (Settled.need _).bind fun _ _ => hr.settled_pushVec _

/-- A reduction of a register may be named by a hart that has the register, and pops nothing off a queue. -/
theorem State.named_source {s : State} (hh : s.onHart = true) {a : BitVec 6} (hq : isQueue a = false)
    (hn : a.toNat < s.myGang.nv) (m : Bool) : s.named ⟨[a], none, false, m⟩ = .ok () := by
  simp [State.named, State.badSource, State.sourceOff, State.hasVregs, hh, hq, Nat.not_le.2 hn, need, bind, Except.bind,
    pure, Except.pure]

theorem State.popsNothing_source {s : State} {a : BitVec 6} (hq : isQueue a = false) (m : Bool) :
    s.popsNothing ⟨[a], none, false, m⟩ = false := by
  simp [State.popsNothing, hq]

/-! The step. -/

/-- A reduction is one step, or none where vl is 0 (R199). -/
theorem VRec.groups_red {r : VRec} {f : FoldFn} (h : r.op = .red f) : r.groups = if r.vl = 0 then 0 else 1 := by
  simp [VRec.groups, h, VOp.single, VOp.whole]

/-- No register that an instruction reads has expired. -/
theorem VRec.sregAt_of_fresh {t : Thread} (h : ∀ n, (t.vreg n).expired = false) (r : VRec) (g : Gang) (k : Nat) :
    r.sregAt g t k = none := by
  simp [VRec.sregAt, VRec.expired, h]

/-- While no trap is enabled, no flag raises one (R75). -/
theorem enabled_of_quiet {frm : Word} (h : frm.toNat / 2 ^ 8 % 32 = 0) (fl : BitVec 6) : enabled frm fl = false := by
  rw [enabled, h, Nat.zero_and]
  rfl

/-- The one record of the queue of an agent is a reduction of a vector register that has not been performed, whose step may be,
and its hart waits for it (R53, R54, R62, R80, R198). -/
structure State.Reduces (s : State) (a : Agent) (t : Thread) (r : VRec) (f : FoldFn) (d n : Nat) : Prop where
  thread : s.thread? a = some t
  vq : t.vq = [r]
  mq : t.mq = []
  wait : t.wait = .gd r.seq
  runs : s.mayRun a = true
  fresh : ∀ n, (t.vreg n).expired = false
  op : r.op = .red f
  dst : r.dst = .scalar d
  srcA : r.srcA = .reg n
  srcB : r.srcB = .none
  pops : r.pops = []
  pi : r.pi = 0
  flags : r.flags = 0
  done : r.done = false
  stuck : r.stuck = false
  supp : r.supp = false
  quiet : r.frm.toNat / 2 ^ 8 % 32 = 0

section
variable {s : State} {a : Agent} {t : Thread} {r : VRec} {f : FoldFn} {d n : Nat} (h : s.Reduces a t r f d n)
include h

/-- A reduction draws no Sower words. -/
theorem State.Reduces.stepDims : s.stepDims a r 0 = .ok ([], s) := by
  simp [State.stepDims, h.op, VRec.stochastic]

/-- What the step of a reduction gives: its record holds the sum and its flags (R88, R220). -/
theorem State.Reduces.computeStep :
    let v := Machine.reduced (s.gangOf a.gang) t r f
    s.Becomes (s.computeStep a r 0) a
      { t with vq := [{ r with opb := v.1, flags := r.flags ||| v.2, pi := 1, done := decide (r.groups ≤ 1) }] } := by
  intro v
  have hstep : s.computeStep a r 0 = (s.modRec a r.seq fun r => { r with opb := v.1, flags := r.flags ||| v.2 }).commit a
      { r with opb := v.1, flags := r.flags ||| v.2 } 0 [] := by
    unfold State.computeStep
    simp only [h.stepDims, h.op, h.thread, Option.getD_some, enabled_of_quiet h.quiet, Bool.and_false, Bool.false_eq_true,
      if_false, v]
  have hrec : s.Becomes (s.modRec a r.seq fun r => { r with opb := v.1, flags := r.flags ||| v.2 }) a
      { t with vq := [{ r with opb := v.1, flags := r.flags ||| v.2 }] } := .modRec h.thread h.vq _
  rw [hstep]
  exact hrec.trans (.commit_scalar hrec.thread rfl h.dst h.pops h.supp)

/-- The step with its energy (R428). -/
theorem State.Reduces.vectorStep (hv : r.vl ≠ 0) :
    let v := Machine.reduced (s.gangOf a.gang) t r f
    s.Becomes (s.vectorStep a r) a { t with vq := [{ r with opb := v.1, flags := r.flags ||| v.2, pi := 1, done := true }] } := by
  intro v
  have hg : r.groups = 1 := by rw [VRec.groups_red h.op, if_neg hv]
  have hcompute : s.Becomes (s.computeStep a r 0) a
      { t with vq := [{ r with opb := v.1, flags := r.flags ||| v.2, pi := 1, done := true }] } := by
    simpa [hg] using h.computeStep
  have hcharge : (s.computeStep a r 0).chargeStep a r 0 = (s.computeStep a r 0).charge a.gang 1 1 := by
    simp [State.chargeStep, hcompute.thread, h.op, VOp.energy, VRec.stochastic]
  have hready := State.stepReady_of_single h.thread h.vq h.mq h.srcA h.srcB (by rw [h.op]; rfl) 0
  have hstep : s.vectorStep a r = (s.computeStep a r 0).charge a.gang 1 1 := by
    rw [← hcharge]
    simp [State.vectorStep, hg, h.pi, hready, Thread.entryHeld, h.thread, h.dst, VRec.sregAt_of_fresh h.fresh,
      VRec.entryCause, h.srcA, h.srcB, h.op, State.beginEntry, State.recNow, h.vq, State.groupStep]
  rw [hstep]
  exact hcompute.trans (.charge hcompute.thread 1 1)

/-- A reduction of no elements has no step. -/
theorem State.Reduces.vectorStep_of_empty (hv : r.vl = 0) :
    s.Becomes (s.vectorStep a r) a { t with vq := [{ r with done := true }] } := by
  have hstep : s.vectorStep a r = s.modRec a r.seq fun r => { r with done := true } :=
    if_pos (by rw [VRec.groups_red h.op, if_pos hv])
  rw [hstep]
  exact .modRec h.thread h.vq _

/-- What a reduction leaves when its record has been performed: gd holds the sum, or the seed of one of no elements, its flags
are in fflags, and the hart goes on behind it (R198, R220). -/
theorem State.Reduces.performed :
    let v := if r.vl = 0 then (r.opb, 0) else Machine.reduced (s.gangOf a.gang) t r f
    Answers (exec (.elementGroupCompletion a r.seq) s) fun u => s.Becomes u a
      { (t.setReg d v.1).wake with vq := [], fflags := t.fflags ||| v.2 } := by
  intro v
  rw [exec_groupCompletion_of_single h.thread h.vq h.runs h.stuck h.done]
  refine .intro rfl ?_
  have hperformed : ∃ r1 : VRec, s.Becomes (s.vectorStep a r) a { t with vq := [r1] } ∧ r1.seq = r.seq ∧
      r1.dst = .scalar d ∧ r1.pops = [] ∧ r1.done = true ∧ r1.stuck = false ∧ r1.scalarResult = v.1 ∧ r1.flags = v.2 := by
    by_cases hv : r.vl = 0
    · refine ⟨_, h.vectorStep_of_empty hv, rfl, h.dst, h.pops, rfl, h.stuck, ?_, ?_⟩
      · simp [VRec.scalarResult, h.op, v, hv]
      · simp [v, hv, h.flags]
    · refine ⟨_, h.vectorStep hv, rfl, h.dst, h.pops, rfl, h.stuck, ?_, ?_⟩
      · simp [VRec.scalarResult, h.op, v, hv]
      · simp [v, hv, h.flags]
  obtain ⟨r1, hbecomes, hseq, hdst, hpops, hdone, hstuck, hresult, hflags⟩ := hperformed
  have hdeliver := hbecomes.trans
    (.deliver_scalar hbecomes.thread (r := r1) rfl hdst hpops hdone hstuck (h.wait.trans (by rw [hseq])))
  have hset : ({ t with vq := [r1] } : Thread).setReg d v.1 = { t.setReg d v.1 with vq := [r1] } := by
    unfold Thread.setReg
    split <;> rfl
  rw [hseq, hresult, hflags, hset] at hdeliver
  exact hdeliver

end

/-! What is written. -/

/-- A pushed reduction of a register, on a queue that held nothing, may be performed. -/
theorem RunsQueue.reduces {s t : State} {a : Agent} (h : RunsQueue s a) {f : FoldFn} {d : BitVec 6} {gb : Word} {sc m : Bool}
    {x : Operand} {n : Nat} (hx : x.src = .reg n) (hp : x.pop = none) (hq : Queued s t (s.redRecord f d gb sc m x)) :
    t.Reduces a t.me (s.redRecord f d gb sc m x) f d.toNat n where
  thread := hq.thread? h.room.1 h.cur
  vq := by rw [hq.me]; simp [h.vq]
  mq := by rw [hq.me]; exact h.mq
  wait := by rw [hq.me]; simp [h.onHart, VRec.waits, State.redRecord]
  runs := (hq.mayRun h.room.1 h.cur).trans h.runs
  fresh := by rw [hq.me]; exact h.fresh
  op := rfl
  dst := rfl
  srcA := hx
  srcB := rfl
  pops := by simp [State.redRecord, popsOf, hp]
  pi := rfl
  flags := rfl
  done := rfl
  stuck := rfl
  supp := rfl
  quiet := h.quiet

/-- The register, the flags and the hart after a record that was pushed on an empty queue and has been performed (R198). -/
theorem WroteScalar.of_becomes {s t u : State} {a : Agent} {r : VRec} {d : Nat} {v : Rounded} (hc : s.cur = some a)
    (hq : Queued s t r) (hw : (s.onHart && r.waits) = true) (hr : r.dst = .scalar d)
    (h : t.Becomes u a { (t.me.setReg d v.1).wake with vq := [], fflags := t.me.fflags ||| v.2 }) :
    WroteScalar s u d v.1 v.2 := by
  have hme : u.me = { (t.me.setReg d v.1).wake with vq := [], fflags := t.me.fflags ||| v.2 } := by
    simp [State.me, h.cur, hq.cur, hc, h.thread]
  have hpushed := hq.me
  rw [hw] at hpushed
  refine ⟨hq.bytes.trans h.bytes, fun n => ?_, ?_, ?_, ?_, ?_, ?_, ?_, ?_⟩
  · have hreg : u.me.reg n = (t.me.setReg d v.1).reg n := by rw [hme]; rfl
    rw [hreg, Thread.reg_setReg, hpushed]
    rfl
  all_goals rw [hme]
  · simp [Thread.wake, Thread.retire_eq, Thread.retireTo, hpushed]
  · rfl
  · simp [Thread.wake, Thread.retire_eq, Thread.retireTo, hpushed, VRec.noteTag, hr]
  · simp [hpushed]
  · simp [Thread.wake, Thread.retire_eq, Thread.retireTo, hpushed]
  · simp [Thread.wake, Thread.retire_eq, Thread.retireTo, hpushed]

/-- A reduction of a register sums its active elements and the seed (R88, R194, R220). -/
theorem reduced_of_register {g : Gang} {t : Thread} {r : VRec} {n : Nat} (h : r.srcA = .reg n) (f : FoldFn) :
    reduced g t r f = sumFixed f r.opTag ((List.range r.vl).filterMap fun i =>
      if r.masked && !((t.vreg 0).data.get i).getLsbD 0 then none
      else some (i, reduceElem r.tagA (r.scale t i) ((t.vreg n).data.get i))) r.opb := by
  unfold reduced
  rw [h]
  refine congrArg (fun xs => sumFixed f r.opTag xs r.opb) (List.filterMap_congr fun i hi => ?_)
  rw [VRec.active, decide_eq_true (List.mem_range.1 hi)]
  cases r.masked <;> cases ((t.vreg 0).data.get i).getLsbD 0 <;> rfl

/-- Settles O44: a reduction is a form of one source, and its record is performed in one step, which is its last. -/
theorem queuedReductions : Obligations.QueuedReductions := by
  unfold Obligations.QueuedReductions
  intro p hp d a b sc m s hr hh fs o bitwise
  have ho : o = s.pushOut (s.form fs { s.blank (.red p.2) 0 with dst := .scalar d.toNat, opb := s.x b, opTag := .n64 }
      (s.redWith p.2 d a b sc m)) :=
    (exec_reduceForms p hp d a b sc m s).trans (State.execute_eq hr.1 hh hr.2.1 _)
  have hbitwise : p.2.bitwise = true ↔ bitwise := p.2.bitwise_iff
  refine ⟨fun u s1 x hx => ⟨fun hb hf hu hn hpop => ?_, fun hb hs => ?_⟩, ?_⟩
  · rw [ho, State.form_pops hn hpop, ← hu, State.redWith_of_floating hx (hbitwise.2 hb) hf]
    rfl
  · have hc := State.Claims.vsource hx
    rw [ho]
    refine .of_form hr (hc.room.2 hr) (Settled.redWith hr p.2 d a b sc m) ?_ _
    exact State.redWith_of_legal hx (fun h => hb (hbitwise.1 h)) hs
  · intro ag hq ha hn v hb hs t seed scale xs r
    have hx := State.vsource_register s ha none
    obtain ⟨w, hw, hqueued⟩ := hr.pushVec (s.redRecord p.2 d (s.x b) sc m ⟨.reg a.toNat, v.tag, 2 ^ 32, none⟩)
    have hpush : o = .next w := by
      rw [ho, State.form_pops (State.named_source hh ha hn m) (State.popsNothing_source ha m),
        State.redWith_of_legal hx (fun h => hb (hbitwise.1 h)) hs]
      exact congrArg s.pushOut hw
    have hred := hq.reduces rfl rfl hqueued
    obtain ⟨u, hu, hbecomes⟩ := hred.performed
    refine ⟨w, hpush, u, hu, ?_⟩
    have hwrote := WroteScalar.of_becomes hq.cur hqueued (by rw [hh]; rfl) rfl hbecomes
    have hvreg (n : Nat) : w.me.vreg n = s.me.vreg n := by rw [hqueued.me]; rfl
    rw [reduced_of_register hred.srcA] at hwrote
    simp only [VRec.scale, hvreg] at hwrote
    exact hwrote

end Sys2Proof.Machine
end

section
/-! Scalar loads and load-acquires: the access and its read, the result, and what neither changes (R125, R175, R176). -/

namespace Sys2Proof.Machine

/-- A read of an engine or of a load stores nothing. -/
theorem State.Noted.sameBytes {s t : State} (h : s.Noted t) : SameBytes s t := by
  have hg (k : Nat) : (t.gangOf k).spad = (s.gangOf k).spad ∧ (t.gangOf k).sdm = (s.gangOf k).sdm := by
    unfold State.gangOf
    cases hk : s.gangs[k]? with
    | none =>
      have ht : t.gangs[k]? = none := by rw [List.getElem?_eq_none_iff, h.length, ← List.getElem?_eq_none_iff, hk]
      rw [ht]
      exact ⟨rfl, rfl⟩
    | some g =>
      obtain ⟨g', ht, hn⟩ := h.gang k g hk
      rw [ht, Option.getD_some, hn.rest]
      exact ⟨rfl, rfl⟩
  exact ⟨fun _ => by rw [h.rest], fun k _ => by rw [(hg k).1], fun k _ => by rw [(hg k).2]⟩

/-- A load of n bytes whose result is extended as `isSigned` says. -/
def State.loadTo (s : State) (d : BitVec 6) (va : Word) (n : Nat) (isSigned : Bool) : Out :=
  s.agent (s.scalarLoad va n fun s v => s.retWith d (loaded n isSigned v))

/-- Each form of R175 loads at its address. -/
theorem exec_loadForms : ∀ p ∈ loadForms, ∀ (d a : BitVec 6) (o : BitVec 11) (s : State), exec (p.1 d a o) s =
    s.loadTo d (s.x a + o.signExtend 64 * BitVec.ofNat 64 p.2.1) p.2.1 p.2.2 := by
  simp only [loadForms, List.forall_mem_cons, List.not_mem_nil, false_imp_iff, implies_true, and_true]
  exact ⟨fun _ _ _ _ => rfl, fun _ _ _ _ => rfl, fun _ _ _ _ => rfl, fun _ _ _ _ => rfl, fun _ _ _ _ => rfl,
    fun _ _ _ _ => rfl, fun _ _ _ _ => rfl⟩

/-- Each load-acquire loads at its register. -/
theorem exec_acquireForms : ∀ p ∈ acquireForms, ∀ (d a : BitVec 6) (sc : BitVec 3) (s : State), exec (p.1 d a sc) s =
    s.loadTo d (s.x a) p.2.1 p.2.2 := by
  simp only [acquireForms, List.forall_mem_cons, List.not_mem_nil, false_imp_iff, implies_true, and_true]
  exact ⟨fun _ _ _ _ => rfl, fun _ _ _ _ => rfl, fun _ _ _ _ => rfl, fun _ _ _ _ => rfl, fun _ _ _ _ => rfl,
    fun _ _ _ _ => rfl, fun _ _ _ _ => rfl⟩

section
variable {s : State} (hl : s.live = true) {d : BitVec 6} {va : Word} {n : Nat}
include hl

/-- A load that fails a check, or meets a transfer, comes to what R129 and R167 say. -/
theorem State.Denies.loadTo (isSigned : Bool) : s.Denies (s.loadTo d va n isSigned) .read va n := by
  unfold State.loadTo State.scalarLoad
  rw [State.agent_of_live hl]
  exact .scalarAccess ..

/-- A load whose bytes can be read notes them, is charged, writes its result and retires, and stores nothing (R175). -/
theorem State.loadTo_retires {s1 : State} {pl : Place} (hr : s.reaches .read va n pl s1) {v : Nat}
    (hv : (s1.setMe (·.closeSlice 0)).loadAt (s1.setMe (·.closeSlice 0)).who 0 pl n = some v) (isSigned : Bool) :
    let s2 := s1.setMe (·.closeSlice 0)
    let s3 := (s2.noteRead s2.who pl n).chargeAt s2.who.gang pl n
    Answers (s.loadTo d va n isSigned) fun t =>
      Retires s3 t d.toNat (loaded n isSigned v) (s.pc + 4) ∧ SameBytes s t := by
  intro s2 s3
  have hplace : s.Noted s1 := .place hr.1.1
  have hread : s2.Noted s3 := .trans (.noteRead s2 _ _ _) (.charge _ _ _ _)
  have h1 := hplace.standsAs hl
  have h2 : s.StandsAs s2 := h1.trans (.setMe h1.live (fun _ => rfl) fun _ => rfl)
  have hload : s.loadTo d va n isSigned = s3.retWith d (loaded n isSigned v) := by
    unfold State.loadTo State.scalarLoad
    rw [State.agent_of_live hl, State.scalarAccess_of_reaches hr]
    dsimp only
    rw [hv]
  obtain ⟨t, ht, hret⟩ := (h2.trans (hread.standsAs h2.live)).retires d (loaded n isSigned v)
  exact ⟨t, hload.trans ht, hret, hplace.sameBytes.trans ((SameBytes.setMe s1 _).trans (hread.sameBytes.trans hret.bytes))⟩

end

/-- Settles O25: loads and load-acquires are one load of the model, which its access and its read make. -/
theorem loadResults : Obligations.LoadResults := by
  unfold Obligations.LoadResults
  intro d a s hl reads
  have hreads (va : Word) (n : Nat) (isSigned : Bool) {i : Instr} (hi : exec i s = s.loadTo d va n isSigned) :
      reads i va n isSigned := by
    show _ ∧ s.Denies (exec i s) .read va n
    rw [hi]
    exact ⟨fun s1 pl v hr hv => State.loadTo_retires hl hr hv isSigned, .loadTo hl isSigned⟩
  exact ⟨fun p hp o => hreads _ _ _ (exec_loadForms p hp d a o s), fun p hp sc => hreads _ _ _ (exec_acquireForms p hp d a sc s)⟩

end Sys2Proof.Machine
end

section
/-! Pushing vector loads, stores and far gathers: what each instruction pushes, and the trim (R98, R225 to R230, R256 to
R260). -/

namespace Sys2Proof.Machine

/-! Pushes step by step. -/

theorem Push.bind_of_ok {α β : Type} {p : Push α} {v : α} (h : p = .ok v) (k : α → Push β) : p >>= k = k v := by
  rw [h]
  rfl

theorem Push.bind_need {β : Type} {b : Bool} (h : b = true) (k : Unit → Push β) : need b >>= k = k () :=
  Push.bind_of_ok (by rw [h]; rfl) k

/-- A check that is made only where `a` holds. -/
theorem not_or_of_imp {a b : Bool} (h : a = true → b = true) : (!a || b) = true := by
  cases a
  · rfl
  · exact h rfl

/-! The trim and the index vector. -/

/-- The trim changes no more than vl of the thread in execution. -/
theorem State.trimmed_state (s : State) (form : AddrForm) (t : Tag) (base opb : Word) (n : Nat) :
    (s.trimmed form t base opb n).2 = s ∨ ∃ k, (s.trimmed form t base opb n).2 = s.setMe fun th => { th with vl := k } := by
  unfold State.trimmed
  dsimp only
  split
  · exact .inr ⟨_, rfl⟩
  · exact .inl rfl

section
variable {s : State} (form : AddrForm) (t : Tag) (base opb : Word) (n : Nat)

theorem State.room.trimmed (h : s.room) : (s.trimmed form t base opb n).2.room := by
  obtain ⟨hl, hf, hq⟩ := h
  rcases s.trimmed_state form t base opb n with e | ⟨k, e⟩ <;> rw [e]
  · exact ⟨hl, hf, hq⟩
  · exact ⟨by simpa using hl, by simpa [hl] using hf, by simpa [hl] using hq⟩

theorem State.vdest_trimmed (fs : Fields) : (s.trimmed form t base opb n).2.vdest fs = s.vdest fs := by
  rcases s.trimmed_state form t base opb n with e | ⟨k, e⟩ <;> rw [e]
  simp [State.vdest]

theorem State.destTag_trimmed (hl : s.live = true) (d : Dst) : (s.trimmed form t base opb n).2.destTag d = s.destTag d := by
  rcases s.trimmed_state form t base opb n with e | ⟨k, e⟩ <;> rw [e]
  cases d <;> simp [State.destTag, State.myGang, State.me_setMe hl, Thread.vreg]

/-- The trim as the statements say it. -/
theorem State.trimmed_eq : s.trimmed form t base opb n = (s.trim form t base opb n,
    if s.onHart = true ∧ s.trim form t base opb n ≠ n then s.setMe fun th => { th with vl := s.trim form t base opb n }
    else s) := by
  simp [State.trimmed]

end

theorem State.Claims.indexSource {s u : State} {v : Option Tag} {form : AddrForm} {b : BitVec 6} {x : Operand}
    (h : s.indexSource v form b = .ok (x, u)) : s.Claims u := by
  unfold State.indexSource at h
  split at h
  · cases hv : s.vsource v b with
    | error e => rw [hv] at h; cases h
    | ok p =>
      rw [hv] at h
      cases hi : p.1.tag.integer <;> simp only [bind, Except.bind, hi] at h <;> cases h
      exact .vsource hv
  · cases h
    exact .refl s

/-- An index vector that is of an integer tag is resolved as any source. -/
theorem State.indexSource_of_vsource {s u : State} {v : Option Tag} {form : AddrForm} {b : BitVec 6} {x : Operand}
    (hf : form.hasIndex = true) (hx : s.vsource v b = .ok (x, u)) (hi : x.tag.integer = true) :
    s.indexSource v form b = .ok (x, u) := by
  unfold State.indexSource
  rw [hf, hx]
  simp only [bind, Except.bind, hi]
  rfl

theorem Settled.vsource (s : State) (t : Tag) (f : BitVec 6) : Settled (s.vsource (some t) f) := by
  obtain ⟨x, hx⟩ := s.vsource_some t f
  exact .inr ⟨_, hx⟩

/-- Under a tag that stands for its entry, an index vector resolves or is refused. -/
theorem Settled.indexSource (s : State) (t : Tag) (form : AddrForm) (b : BitVec 6) :
    Settled (s.indexSource (some t) form b) := by
  unfold State.indexSource
  split
  · exact (Settled.vsource s t b).bind fun p _ => (Settled.need _).bind fun _ _ => .ok _
  · exact .ok _

/-- A form of an access-unit context is what its push gives. -/
theorem State.access_eq {s : State} (h : s.live = true) (hh : s.onHart = false) (k : Out) : s.access k = k := by
  unfold State.access
  rw [State.agent_of_live h, hh]
  rfl

/-- The record of a form that fetches elements at the offsets `x`. -/
def State.fetchRecord (s : State) (op : VOp) (fs : Fields) (n : Nat) (t : Tag) (x : Operand) (short : Bool) (base opb : Word) :
    VRec :=
  { (s.record op fs n t).reading x with short := short, opa := base, opb := opb }

/-- That record, its destination named. -/
theorem State.fetchRecord_eq {s : State} {fs : Fields} {dst : Dst} {old : Tag} (hd : s.vdest fs = dst) (ho : s.destTag dst = old)
    (op : VOp) (n : Nat) (t : Tag) (x : Operand) (short : Bool) (base opb : Word) :
    s.fetchRecord op fs n t x short base opb = { s.blank op n with
      masked := fs.mask, short := short, dst := dst, srcA := x.src, tagA := x.tag, tagD := old, opTag := t, outTag := t
      rezero := rezeroOf dst old t, opa := base, opb := opb, pops := popsOf [x] } := by
  subst hd ho
  rfl

/-- The step or the descriptor that a form reads, 0 where it reads none. -/
def State.stepOf (s : State) (step : Option (BitVec 6)) : Word := step.elim 0 s.x

/-! Loads. -/

/-- The fields that a load names. -/
def LoadForm.fields (f : LoadForm) : Fields := ⟨if f.form.hasIndex then [f.index] else [], some f.d, true, f.masked⟩

/-- The operation of its record. -/
def LoadForm.op (f : LoadForm) : VOp := .load f.form f.arr f.ff

/-- The tag it loads (R226, R256). -/
def State.tagOf (s : State) (f : LoadForm) : Tag :=
  f.tag.getD (if isQueue f.d then Tag.default s.myGang.w else (s.me.vreg f.d.toNat).decl)

theorem State.loadTag_eq (s : State) (f : LoadForm) : s.loadTag f.tag (s.vdest f.fields) = s.tagOf f := by
  unfold State.loadTag State.tagOf State.vdest LoadForm.fields
  dsimp only
  cases isQueue f.d
  · rfl
  · cases s.onHart <;> rfl

/-- The checks of a load that need its index vector (R225 to R230). -/
def State.loadLegal (s : State) (f : LoadForm) (x : Operand) : Bool :=
  s.fits (s.tagOf f) && (!(s.tagOf f).subByte || f.form.packs) && !(s.onHart && sameReg (s.vdest f.fields) x.src)

/-- A short-lived load writes no queue (R225). -/
def LoadForm.shortLegal (f : LoadForm) : Bool := !f.short || !isQueue f.d

/-- A chained load names an address of the window, and no offsets (R105, R152). -/
def State.arrLegal (s : State) (f : LoadForm) : Bool :=
  !f.arr || (inWindow (s.x f.base).toNat && !tooWide (s.x f.base) && !f.form.hasIndex)

/-- What a load does with its index vector. -/
def State.loadWith (s : State) (f : LoadForm) (u : Option Tag) : Push State := do
  let (x, s1) ← s.indexSource u f.form f.index
  need (s.loadLegal f x)
  need f.shortLegal
  need (s.arrLegal f)
  let n ← s1.length f.fields none
  let (k, s2) := s1.trimmed f.form (s.tagOf f) (s.x f.base) (s.stepOf f.step) n
  s2.pushVec (s2.fetchRecord f.op f.fields k (s.tagOf f) x f.short (s.x f.base) (s.stepOf f.step))

/-- A load is a form of its index vector. -/
theorem State.pushLoad_eq (s : State) (f : LoadForm) :
    s.pushLoad f.form f.d f.index (s.x f.base) (s.stepOf f.step) f.tag f.arr f.ff f.short f.masked =
      s.form f.fields (s.blank f.op 0) (s.loadWith f) := by
  have htag := s.loadTag_eq f
  unfold LoadForm.fields at htag
  unfold State.pushLoad
  dsimp only
  rw [htag]
  rfl

/-- What each load of R225, R230 and R256 pushes. -/
theorem exec_loadForm {i : Instr} {f : LoadForm} {s : State} (h : loadForm? i = some f) (hr : s.room)
    (hh : s.onHart = f.onHart) : exec i s = s.pushOut (s.form f.fields (s.blank f.op 0) (s.loadWith f)) := by
  rw [← State.pushLoad_eq]
  unfold loadForm? at h
  split at h
  · cases h; exact State.execute_eq hr.1 hh hr.2.1 _
  · cases h; exact State.execute_eq hr.1 hh hr.2.1 _
  · cases h; exact State.execute_eq hr.1 hh hr.2.1 _
  · obtain ⟨t, ht, rfl⟩ := Option.map_eq_some_iff.1 h
    exact (State.access_eq hr.1 hh _).trans (by rw [ht]; rfl)
  · obtain ⟨t, ht, rfl⟩ := Option.map_eq_some_iff.1 h
    exact (State.access_eq hr.1 hh _).trans (by rw [ht]; rfl)
  · obtain ⟨t, ht, rfl⟩ := Option.map_eq_some_iff.1 h
    exact (State.access_eq hr.1 hh _).trans (by rw [ht]; rfl)
  · cases h

theorem Settled.loadWith {s : State} (hr : s.room) {f : LoadForm} {n : Nat} (hn : s.length f.fields none = .ok n) (t : Tag) :
    Settled (s.loadWith f (some t)) := by
  refine (Settled.indexSource s t f.form f.index).bind fun p hp => (Settled.need _).bind fun _ _ =>
    (Settled.need _).bind fun _ _ => (Settled.need _).bind fun _ _ => ?_
  have hc : s.Claims p.2 := .indexSource hp
  rw [hc.length hr.1, hn]
  exact ((hc.room.2 hr).trimmed ..).settled_pushVec _

/-- A load whose index vector resolves and whose checks hold is pushed as its record after the trim (R98, R225, R230). -/
theorem State.takes_load {s s1 : State} (hr : s.room) {f : LoadForm} {u : Option Tag} {x : Operand} {n : Nat}
    (hx : s.indexSource u f.form f.index = .ok (x, s1)) (hn : s.length f.fields none = .ok n)
    (hlegal : s.loadLegal f x = true) (hshort : f.shortLegal = true) (harr : s.arrLegal f = true) :
    let t := s.tagOf f
    let dst := s.vdest f.fields
    let base := s.x f.base
    let opb := s.stepOf f.step
    let k := s1.trim f.form t base opb n
    let s2 := if s.onHart = true ∧ k ≠ n then s1.setMe fun th => { th with vl := k } else s1
    s.Takes f.fields u (s.pushOut (s.form f.fields (s.blank f.op 0) (s.loadWith f))) s2 { s2.blank f.op k with
      masked := f.masked, short := f.short, dst := dst, srcA := x.src, tagA := x.tag, tagD := s.destTag dst, opTag := t
      outTag := t, rezero := rezeroOf dst (s.destTag dst) t, opa := base, opb := opb, pops := popsOf [x] }
      (s.blank f.op 0) := by
  intro t dst base opb k s2
  have hc : s.Claims s1 := .indexSource hx
  have hr1 := hc.room.2 hr
  have htrim : s1.trimmed f.form t base opb n = (k, s2) := by
    rw [State.trimmed_eq, hc.onHart]
  have hr2 : s2.room := by
    have h := hr1.trimmed f.form t base opb n
    rwa [htrim] at h
  have hdst : s2.vdest f.fields = dst := by
    have h := State.vdest_trimmed (s := s1) f.form t base opb n f.fields
    rw [htrim] at h
    exact h.trans (hc.vdest _)
  have htag : s2.destTag dst = s.destTag dst := by
    have h := State.destTag_trimmed f.form t base opb n hr1.1 dst
    rw [htrim] at h
    exact h.trans (hc.destTag hr.1 _)
  refine .of_form hr hr2 (Settled.loadWith hr hn) ?_ _
  calc s.loadWith f u
    _ = _ := Push.bind_of_ok hx _
    _ = _ := Push.bind_need hlegal _
    _ = _ := Push.bind_need hshort _
    _ = _ := Push.bind_need harr _
    _ = _ := Push.bind_of_ok ((hc.length hr.1 _ _).trans hn) _
    _ = s2.pushVec (s2.fetchRecord f.op f.fields k t x f.short base opb) := by dsimp only; rw [htrim]
    _ = _ := congrArg s2.pushVec (State.fetchRecord_eq hdst htag ..)

/-! Stores. -/

/-- The fields that a store names. -/
def StoreForm.fields (f : StoreForm) : Fields :=
  ⟨f.d :: if f.form.hasIndex then [f.index] else [], none, false, f.masked⟩

/-- The operation of its record. -/
def StoreForm.op (f : StoreForm) : VOp := .store f.form f.nt

/-- The record of a store of `y` at the offsets `x`, pushed on a state. -/
def State.storeRecord (s : State) (f : StoreForm) (x y : Operand) (base opb : Word) (k : Nat) : VRec :=
  { s.blank f.op k with
    masked := f.masked, srcA := x.src, srcB := y.src, tagA := x.tag, tagB := y.tag, opTag := y.tag, outTag := y.tag
    opa := base, opb := opb, pops := popsOf [y, x] }

/-- What a store does with its data and its index vector. -/
def State.storeWith (s : State) (f : StoreForm) (u : Option Tag) : Push State := do
  let (y, s1) ← s.vsource u f.d
  let (x, s2) ← s1.indexSource u f.form f.index
  need (!y.tag.subByte || f.form.packs)
  let n ← s2.length f.fields (if isQueue f.d then some y.count else none)
  let (k, s3) := s2.trimmed f.form y.tag (s.x f.base) (s.stepOf f.step) n
  s3.pushVec (s3.storeRecord f x y (s.x f.base) (s.stepOf f.step) k)

/-- A store is a form of its data and its index vector, but for one of an access-unit context whose data is an entry. -/
theorem State.pushStore_eq (s : State) (f : StoreForm) :
    s.pushStore f.form f.d f.index (s.x f.base) (s.stepOf f.step) f.nt f.masked =
      if !s.onHart && isQueue f.d then s.named f.fields >>= fun _ => s.storeWith f none
      else s.form f.fields (s.blank f.op 0) (s.storeWith f) := rfl

/-- What each store of R225, R230 and R256 pushes. -/
theorem exec_storeForm {i : Instr} {f : StoreForm} {s : State} (h : storeForm? i = some f) (hr : s.room)
    (hh : s.onHart = f.onHart) : exec i s = s.pushOut (if !s.onHart && isQueue f.d then
      s.named f.fields >>= fun _ => s.storeWith f none else s.form f.fields (s.blank f.op 0) (s.storeWith f)) := by
  rw [← State.pushStore_eq]
  unfold storeForm? at h
  split at h
  · cases h; exact State.execute_eq hr.1 hh hr.2.1 _
  · cases h; exact State.execute_eq hr.1 hh hr.2.1 _
  · cases h; exact State.execute_eq hr.1 hh hr.2.1 _
  · cases h; exact State.access_eq hr.1 hh _
  · cases h; exact State.access_eq hr.1 hh _
  · cases h

/-- What a store whose sources resolve and whose checks hold pushes, after the trim (R98, R225, R230). -/
theorem State.storeWith_eq {s s1 s2 : State} (hr : s.room) {f : StoreForm} {u : Option Tag} {x y : Operand} {n : Nat}
    (hy : s.vsource u f.d = .ok (y, s1)) (hx : s1.indexSource u f.form f.index = .ok (x, s2))
    (hpacks : y.tag.subByte = true → f.form.packs = true)
    (hn : s2.length f.fields (if isQueue f.d then some y.count else none) = .ok n) :
    let base := s.x f.base
    let opb := s.stepOf f.step
    let k := s2.trim f.form y.tag base opb n
    let s3 := if s.onHart = true ∧ k ≠ n then s2.setMe fun th => { th with vl := k } else s2
    s.storeWith f u = s3.pushVec (s3.storeRecord f x y base opb k) ∧ s3.room := by
  intro base opb k s3
  have hc : s.Claims s2 := (State.Claims.vsource hy).trans (.indexSource hx)
  have htrim : s2.trimmed f.form y.tag base opb n = (k, s3) := by
    rw [State.trimmed_eq, hc.onHart]
  have hlegal : (!y.tag.subByte || f.form.packs) = true := not_or_of_imp hpacks
  constructor
  · calc s.storeWith f u
      _ = _ := Push.bind_of_ok hy _
      _ = _ := Push.bind_of_ok hx _
      _ = _ := Push.bind_need hlegal _
      _ = _ := Push.bind_of_ok hn _
      _ = s3.pushVec (s3.storeRecord f x y base opb k) := by dsimp only; rw [htrim]
  · have h := (hc.room.2 hr).trimmed f.form y.tag base opb n
    rwa [htrim] at h

/-- Under tags that stand for its sources, a store whose length does not depend on them is pushed or refused. -/
theorem Settled.storeWith {s : State} (hr : s.room) {f : StoreForm}
    (hn : ∀ c, ∃ n, s.length f.fields (if isQueue f.d then some c else none) = .ok n) (t : Tag) :
    Settled (s.storeWith f (some t)) := by
  refine (Settled.vsource s t f.d).bind fun p hp => (Settled.indexSource p.2 t f.form f.index).bind fun q hq =>
    (Settled.need _).bind fun _ _ => ?_
  have hc : s.Claims q.2 := (State.Claims.vsource hp).trans (.indexSource hq)
  obtain ⟨n, hn⟩ := hn p.1.count
  rw [hc.length hr.1, hn]
  exact ((hc.room.2 hr).trimmed ..).settled_pushVec _

/-- The length of a store of a hart, or of one whose data is a register, does not depend on an entry. -/
theorem State.length_of_register {s : State} {fs : Fields} {d : BitVec 6} (h : s.onHart = true ∨ isQueue d = false) {c n : Nat}
    (hn : s.length fs (if isQueue d then some c else none) = .ok n) (c' : Nat) :
    s.length fs (if isQueue d then some c' else none) = .ok n := by
  rcases h with h | h
  · rw [← hn]
    unfold State.length
    rw [h]
    rfl
  · rw [h] at hn ⊢
    exact hn

/-! Far gathers. -/

/-- What a far gather of a descriptor does with its index vector (R259, R260). -/
def State.farWith (s : State) (d b : BitVec 6) (base desc : Word) (m : Bool) (u : Option Tag) : Push State := do
  let fs : Fields := ⟨[b], some d, true, m⟩
  let far := AddrForm.far (desc.toNat % 2 ^ 32)
  match Tag.ofCode (desc.toNat / 2 ^ 32 % 32) with
  | none => illopP
  | some t =>
    need (decide (desc.toNat < 2 ^ 37) && decide (desc.toNat % 2 ^ 32 ≠ 0) && !t.subByte && s.fits t)
    let (x, s1) ← s.indexSource u far b
    let n ← s1.length fs none
    s1.pushVec (s1.fetchRecord (.load far false false) fs n t x false base desc)

theorem State.pushFar_eq (s : State) (d b : BitVec 6) (base desc : Word) (m : Bool) :
    s.pushFar d b base desc m = s.form ⟨[b], some d, true, m⟩
      (s.blank (.load (.far (desc.toNat % 2 ^ 32)) false false) 0) (s.farWith d b base desc m) := rfl

/-- VFAR and AFAR push the same form; AFAR alone may be masked (R259). -/
theorem exec_far {s : State} (hr : s.room) (d a b : BitVec 6) (m : Bool) :
    (if s.onHart then exec (.vfar d a b) s else exec (.afar d a b m) s) =
      s.pushOut (s.pushFar d b (s.x a) (s.x (a + 1)) (m && !s.onHart)) := by
  cases hh : s.onHart with
  | true =>
    rw [Bool.not_true, Bool.and_false]
    exact State.execute_eq hr.1 hh hr.2.1 _
  | false =>
    rw [Bool.not_false, Bool.and_true]
    exact State.access_eq hr.1 hh _

theorem Settled.farWith {s : State} (hr : s.room) {d b : BitVec 6} {m : Bool} {n : Nat}
    (hn : s.length ⟨[b], some d, true, m⟩ none = .ok n) (base desc : Word) (t : Tag) :
    Settled (s.farWith d b base desc m (some t)) := by
  unfold State.farWith
  dsimp only
  split
  · exact .illop
  · refine (Settled.need _).bind fun _ _ => (Settled.indexSource s t _ b).bind fun p hp => ?_
    have hc : s.Claims p.2 := .indexSource hp
    rw [hc.length hr.1, hn]
    exact (hc.room.2 hr).settled_pushVec _

/-- A far gather whose descriptor is good and whose index vector resolves is pushed as its record (R260). -/
theorem State.takes_far {s s1 : State} (hr : s.room) {d b : BitVec 6} {m : Bool} {desc : Word} {u : Option Tag} {x : Operand}
    {n : Nat} {t : Tag} (ht : Tag.ofCode (desc.toNat / 2 ^ 32 % 32) = some t) (hdesc : desc.toNat < 2 ^ 37)
    (hlen : desc.toNat % 2 ^ 32 ≠ 0) (hsub : t.subByte = false) (hfits : s.fits t = true)
    (hx : s.vsource u b = .ok (x, s1)) (hint : x.tag.integer = true)
    (hn : s.length ⟨[b], some d, true, m⟩ none = .ok n) (base : Word) :
    let far := AddrForm.far (desc.toNat % 2 ^ 32)
    let fs : Fields := ⟨[b], some d, true, m⟩
    let dst := s.vdest fs
    s.Takes fs u (s.pushOut (s.pushFar d b base desc m)) s1
      { s1.blank (.load far false false) n with
        masked := m, dst := dst, srcA := x.src, tagA := x.tag, tagD := s.destTag dst, opTag := t, outTag := t
        rezero := rezeroOf dst (s.destTag dst) t, opa := base, opb := desc, pops := popsOf [x] }
      (s.blank (.load far false false) 0) := by
  intro far fs dst
  have hc : s.Claims s1 := .vsource hx
  have hlegal : (decide (desc.toNat < 2 ^ 37) && decide (desc.toNat % 2 ^ 32 ≠ 0) && !t.subByte && s.fits t) = true := by
    rw [decide_eq_true hdesc, decide_eq_true hlen, hsub, hfits]
    rfl
  rw [State.pushFar_eq]
  refine .of_form hr (hc.room.2 hr) (Settled.farWith hr hn base desc) ?_ _
  unfold State.farWith
  rw [ht]
  calc _
    _ = _ := Push.bind_need hlegal _
    _ = _ := Push.bind_of_ok (State.indexSource_of_vsource rfl hx hint) _
    _ = _ := Push.bind_of_ok ((hc.length hr.1 _ _).trans hn) _
    _ = _ := congrArg s1.pushVec (State.fetchRecord_eq (hc.vdest fs) (hc.destTag hr.1 dst) ..)

/-- Settles O45: each load, store and far gather is a form of its sources whose checks the hypotheses give. -/
theorem queuedVectorMemory : Obligations.QueuedVectorMemory := by
  unfold Obligations.QueuedVectorMemory
  refine ⟨?_, ?_, ?_⟩
  · intro i f u s s1 x n hf hr hh fs dst hx hn t base opb hfits hpacks hapart hshort harr k s2 op
    have hlegal : s.loadLegal f x = true := by
      have hreg : (!(s.onHart && sameReg dst x.src)) = true := by
        rw [Bool.not_and]
        exact not_or_of_imp fun h => by rw [hapart h]; rfl
      show (s.fits t && (!t.subByte || f.form.packs) && !(s.onHart && sameReg dst x.src)) = true
      rw [hfits, not_or_of_imp hpacks, hreg]
      rfl
    have hqueue : f.shortLegal = true := not_or_of_imp fun h => by rw [hshort h]; rfl
    have hwindow : s.arrLegal f = true := not_or_of_imp fun h => by
      obtain ⟨hin, hwide, hindex⟩ := harr h
      rw [hin, hwide, hindex]
      rfl
    rw [exec_loadForm hf hr hh]
    exact State.takes_load hr hx hn hlegal hqueue hwindow
  · intro i f u s s1 s2 x y n hf hr hh fs hy hx hpacks hn base opb k s3 op r
    obtain ⟨hpush, hr3⟩ := State.storeWith_eq hr hy hx hpacks hn
    have hc : s.Claims s2 := (State.Claims.vsource hy).trans (.indexSource hx)
    rw [exec_storeForm hf hr hh]
    refine ⟨fun hd => ?_, fun hctx hq hu hnamed => ?_⟩
    · have hform : (!s.onHart && isQueue f.d) = false := by
        rcases hd with h | h <;> simp [h]
      rw [hform]
      refine .of_form hr hr3 (Settled.storeWith hr fun c => ⟨n, ?_⟩) hpush _
      rw [hc.length hr.1] at hn
      exact State.length_of_register hd hn c
    · subst hu
      have hnamed : s.named f.fields = .ok () := hnamed
      obtain ⟨w, hw, hqueued⟩ := hr3.pushVec r
      rw [hctx, hq]
      refine .of_ok (t := w) ?_ hqueued
      show s.named f.fields >>= (fun _ => s.storeWith f none) = .ok w
      rw [hnamed]
      exact hpush.trans hw
  · intro d a b m u s s1 x n t hr desc far masked fs dst ht hdesc hlen hsub hfits hx hint hn
    rw [exec_far hr]
    exact State.takes_far hr ht hdesc hlen hsub hfits hx hint hn (s.x a)

end Sys2Proof.Machine
end

section
/-! SOWLOAD of a directory with more dimensions than R342 allows: the read of its DIMS is charged before ILLOP is raised (R342,
R428). -/

namespace Sys2Proof.Machine

/-- A hart of level 2 with the address of a directory in g1. -/
def overlongHart : Thread := { Thread.empty with lvl := 2, dlvl := 2, regs := [(1, 0x2000)] }

/-- Its gang, resident on core 0. -/
def overlongGang : Gang := { Gang.empty with st := .resident, harts := [overlongHart] }

/-- The machine with the hart in execution, trained channels, an energy for reads of HBM4E, and a directory at 0x2000 whose
DIMS is 4352. -/
def overlongState : State := { State.reset with
  gangs := [overlongGang], cur := some ⟨0, .hart 0⟩, mem := [(0x2001, 0x11#8)]
  mod := { ModSt.reset with fetab := [(10, 1)], chans := List.replicate 256 { Chan.reset with train := false } } }

theorem quiet_overlong : Quiet overlongState where
  live := by decide +kernel
  vq := rfl
  mq := rfl
  wc := rfl
  xfers := rfl
  flight := rfl
  seen := by decide +kernel

/-- The hart's accesses go to memory with no translation, so that the DIMS dword is found with no other effect. -/
theorem locate_overlong : overlongState.locate overlongState.who overlongState.me.lvl .read false (overlongState.x 1) 8 8 =
    .ok (.mem 0x2000, overlongState) := rfl

theorem loadAt_overlong : overlongState.loadAt overlongState.who 0 (.mem 0x2000) 8 = some 4352 := by decide +kernel

/-- The energy that core 0 has still to debit after an instruction. -/
def debitsAfter (o : Out) : List (Nat × Nat) :=
  match o with
  | .next t => (t.core 0).debits
  | _ => []

/-- Refutes O37: its clause on a directory of more than 4,096 dimensions raises ILLOP in the state before the DIMS dword is
charged, while SOWLOAD charges that read as every other (R428), whatever it finds. -/
theorem not_scratchAndSower : ¬ Obligations.ScratchAndSower := by
  unfold Obligations.ScratchAndSower
  intro h
  obtain ⟨-, -, -, hsow⟩ := h overlongState 0 1 0 quiet_overlong.live rfl
  obtain ⟨hlong, -⟩ := hsow quiet_overlong _ _ _ locate_overlong loadAt_overlong
  have hout : exec (.sowload 1) overlongState = overlongState.illop := hlong (by decide)
  have hcharged : debitsAfter (exec (.sowload 1) overlongState) = [(0, 1)] := by decide +kernel
  have huncharged : debitsAfter overlongState.illop = [] := by decide +kernel
  rw [hout, huncharged] at hcharged
  cases hcharged

end Sys2Proof.Machine
end

section
/-! VWACC of a hart with no window whose first source is a disabled queue: its specifiers are checked before its window, and the
queue raises QERR (R59, R143, R237). -/

namespace Sys2Proof.Machine

/-- A hart of level 1 that has declared no window. -/
def windowlessHart : Thread := { Thread.empty with lvl := 1 }

/-- Its gang, resident on core 0, with every queue disabled. -/
def windowlessGang : Gang := { Gang.empty with st := .resident, harts := [windowlessHart] }

/-- The machine with the hart in execution. -/
def windowlessState : State := { State.reset with gangs := [windowlessGang], cur := some ⟨0, .hart 0⟩ }

theorem room_windowless : windowlessState.room := ⟨by decide +kernel, by decide +kernel, by decide +kernel⟩

/-- The cause in the fault record of the hart's level 2 after an instruction (R386). -/
def causeTaken (o : Out) : Nat :=
  match o with
  | .next t => ((t.me.ffrec[0]?).getD 0).toNat % 256
  | _ => 0

/-- Refutes O46: its clause on a hart without a window has every VWACC raise ILLOP, while one that names a disabled queue
raises QERR, since specifiers are checked first (R59, R143). -/
theorem not_queuedWindows : ¬ Obligations.QueuedWindows := by
  unfold Obligations.QueuedWindows
  intro h
  obtain ⟨-, hhart⟩ := h windowlessState room_windowless
  obtain ⟨-, -, hnone, -⟩ := hhart rfl
  have hillop : exec (.vwacc 56 0 false) windowlessState = windowlessState.illop := (hnone (by decide +kernel)).2 56 0 false
  have hqueue : causeTaken (exec (.vwacc 56 0 false) windowlessState) = cQERR := by decide +kernel
  have hform : causeTaken windowlessState.illop = cILLOP := by decide +kernel
  rw [hillop, hform] at hqueue
  cases hqueue

end Sys2Proof.Machine
end

section
/-! Fences: what they wait for with work in the queues, and IFENCE (R119, R138, R182, R183, R275). -/

namespace Sys2Proof.Machine

section
variable {s : State} (hl : s.live = true)
include hl

/-- A queue that runs and holds instructions is not drained, whatever becomes of the open store entries (R119). -/
theorem State.vectorDrained_closeAll_of_queued (hf : s.me.frz = false) (hv : s.me.vq ≠ []) :
    (s.setMe Thread.closeAll).vectorDrained = false := by
  simp [State.vectorDrained, State.me_setMe hl, Thread.closeAll, hf, hv]

/-- What waits for the vector queue closes the open entries and stalls (R119). -/
theorem State.afterVector_of_queued (hf : s.me.frz = false) (hv : s.me.vq ≠ []) (k : State → Out) :
    s.afterVector k = (s.setMe Thread.closeAll).stallFor .vside := by
  unfold State.afterVector
  dsimp only
  rw [State.vectorDrained_closeAll_of_queued hl hf hv]
  rfl

/-- With no transfer whose cause is to be raised, so does a release (R119, R244). -/
theorem State.afterRelease_of_queued (hf : s.me.frz = false) (hv : s.me.vq ≠ []) (hx : s.me.xfers = []) (scope : Nat)
    (k : State → Out) : s.afterRelease scope k = (s.setMe Thread.closeAll).stallFor .vside := by
  have hnone : (s.setMe Thread.closeAll).me.faultedXfer = none := by
    simp [State.me_setMe hl, Thread.closeAll, Thread.faultedXfer, hx]
  unfold State.afterRelease
  dsimp only
  rw [hnone, State.vectorDrained_closeAll_of_queued hl hf hv]
  rfl

/-- A fence of either kind of wait (R122, R182). -/
theorem exec_fence (sc k : BitVec 3) : exec (.fence sc k) s =
    if k = 1 then s.afterAcquire State.ret else s.afterRelease sc.toNat State.ret :=
  State.agent_of_live hl _

/-- While the vector queue holds instructions, no fence retires (R119). -/
theorem exec_fence_of_queued (hf : s.me.frz = false) (hv : s.me.vq ≠ []) (hx : s.me.xfers = []) (sc k : BitVec 3) :
    exec (.fence sc k) s = (s.setMe Thread.closeAll).stallFor .vside := by
  rw [exec_fence hl]
  split
  · exact State.afterVector_of_queued hl hf hv _
  · exact State.afterRelease_of_queued hl hf hv hx ..

section
variable (hh : s.onHart = true)
include hh

theorem exec_fenceSv : exec .fenceSv s = s.afterVector State.ret := State.hart_of_onHart hl hh _

theorem exec_mwait (hf : s.me.frz = false) : exec .mwait s = if s.me.mq.isEmpty then s.ret else s.stallFor .busy :=
  (State.hart_of_onHart hl hh _).trans (if_neg (by rw [hf]; nofun))

theorem exec_ifence : exec .ifence s = (s.dropLines s.myCore s.myPart fun _ => true).ret := State.hart_of_onHart hl hh _

end

end

/-- With nothing in flight, every fence retires at once (R119, R122). -/
theorem Quiet.exec_fence {s : State} (q : Quiet s) (sc k : BitVec 3) : exec (.fence sc k) s = s.ret := by
  rw [Machine.exec_fence q.live]
  split
  · exact q.afterAcquire _
  · exact q.afterRelease ..

/-- Discarding the lines of a partition leaves none of them on the core (R138). -/
theorem State.icache_dropLines (s : State) (core part : Nat) :
    ∀ l ∈ ((s.dropLines core part fun _ => true).core core).icache, l.1 ≠ part := by
  intro l hmem
  unfold State.dropLines at hmem
  rw [State.core_modCore] at hmem
  split at hmem
  · simpa using (List.mem_filter.1 hmem).2
  · rename_i hno
    rw [State.core_of_le (by omega)] at hmem
    cases hmem

/-- Settles O29: with nothing in flight each wait is over, a queued instruction holds each up, and IFENCE waits for
nothing. -/
theorem fencesComplete : Obligations.FencesComplete := by
  unfold Obligations.FencesComplete
  refine ⟨fun s q => ⟨fun sc k => .of_eq (q.exec_fence sc k) (Retires.ret q.live), fun hh => ⟨?_, fun hf => ?_⟩⟩,
    fun s hl hf => ⟨fun hv hx => ⟨exec_fence_of_queued hl hf hv hx, fun hh => ?_⟩, fun hm hh => ?_⟩, fun s hl hh => ?_⟩
  · exact .of_eq ((exec_fenceSv q.live hh).trans (q.afterVector _)) (Retires.ret q.live)
  · exact .of_eq ((exec_mwait q.live hh hf).trans (if_pos (by rw [q.mq]; rfl))) (Retires.ret q.live)
  · exact (exec_fenceSv hl hh).trans (State.afterVector_of_queued hl hf hv _)
  · exact (exec_mwait hl hh hf).trans (if_neg (by simpa using hm))
  · have hdrop : (s.dropLines s.myCore s.myPart fun _ => true).live = true := hl
    refine ⟨.of_eq (exec_ifence hl hh) (Retires.ret hdrop), s.icache_dropLines s.myCore s.myPart, fun k hk => ?_⟩
    exact (State.core_modCore ..).trans (if_neg fun h => hk h.1)

end Sys2Proof.Machine
end

section
/-! Scalar stores: what a store leaves unchanged, and that its slice sees it (R113, R114, R116, R120, R129, R167, R175,
R176). -/

namespace Sys2Proof.Machine

/-! What a store changes. -/

/-- Between the states no byte has changed but n bytes at a place of the scratchpad or the scalar data memory of a gang. -/
structure State.StoresAt (s t : State) (gi : Nat) (pl : Place) (n : Nat) : Prop where
  mem : ∀ b, Sparse.get t.mem b = Sparse.get s.mem b
  spad : ∀ k b, (k = gi → ∀ off, pl = .spad off → b < off ∨ off + n ≤ b) →
    Sparse.get (t.gangOf k).spad b = Sparse.get (s.gangOf k).spad b
  sdm : ∀ k b, (k = gi → ∀ off, pl = .sdm off → b < off ∨ off + n ≤ b) →
    Sparse.get (t.gangOf k).sdm b = Sparse.get (s.gangOf k).sdm b

theorem SameBytes.storesAt {s t : State} (h : SameBytes s t) (gi : Nat) (pl : Place) (n : Nat) : s.StoresAt t gi pl n :=
  ⟨h.mem, fun k b _ => h.spad k b, fun k b _ => h.sdm k b⟩

theorem State.StoresAt.trans {s t u : State} {gi : Nat} {pl : Place} {n : Nat} (h : s.StoresAt t gi pl n)
    (k : t.StoresAt u gi pl n) : s.StoresAt u gi pl n :=
  ⟨fun b => (k.mem b).trans (h.mem b), fun i b hb => (k.spad i b hb).trans (h.spad i b hb),
    fun i b hb => (k.sdm i b hb).trans (h.sdm i b hb)⟩

theorem State.modGang_gangOf_cases (s : State) (i j : Nat) (f : Gang → Gang) :
    (s.modGang i f).gangOf j = s.gangOf j ∨ j = i ∧ (s.modGang i f).gangOf j = f (s.gangOf j) := by
  unfold State.gangOf
  rw [State.getElem?_modGang]
  by_cases hj : j = i
  · cases hg : s.gangs[j]? with
    | none => exact .inl (by simp)
    | some g => exact .inr ⟨hj, by simp [hj]⟩
  · exact .inl (by simp [hj])

/-- A write outside global memory reaches the bytes of its place alone. -/
theorem State.StoresAt.pokeAt (s : State) (a : Agent) {pl : Place} (hpl : ∀ pa, pl ≠ .mem pa) (n v : Nat) :
    s.StoresAt (s.pokeAt a pl n v) a.gang pl n := by
  cases pl with
  | mem pa => exact absurd rfl (hpl pa)
  | spad off =>
    refine ⟨fun _ => rfl, fun k b hb => ?_, fun k b _ => ?_⟩ <;> unfold State.pokeAt <;> dsimp only <;>
      rcases s.modGang_gangOf_cases a.gang k fun g => { g with spad := g.spad.write off n v } with h | ⟨hk, h⟩ <;> rw [h]
    exact Memory.get_write_other (hb hk off rfl)
  | sdm off =>
    refine ⟨fun _ => rfl, fun k b _ => ?_, fun k b hb => ?_⟩ <;> unfold State.pokeAt <;> dsimp only <;>
      rcases s.modGang_gangOf_cases a.gang k fun g => { g with sdm := g.sdm.write off n v } with h | ⟨hk, h⟩ <;> rw [h]
    exact Memory.get_write_other (hb hk off rfl)

/-- Only the buffer of a thread, and the values taken ahead for it, differ. -/
def Thread.Buffers (t u : Thread) : Prop := u = { t with wc := u.wc, taken := u.taken }

theorem Thread.Buffers.trans {t u v : Thread} (h : t.Buffers u) (k : u.Buffers v) : t.Buffers v := by
  unfold Thread.Buffers at *
  rw [k, h]

/-- The youngest entry of a slice (R120). -/
def Thread.youngest (t : Thread) (slice : Nat) : Option WcEntry := (t.wc.filter fun e => e.slice = slice).getLast?

/-- An entry, which takes in the bytes of a store if it is of a stamp (R120). -/
def WcEntry.takeIn (e : WcEntry) (stamp : Nat) (bytes : List (Nat × BitVec 8)) (sq : Option Nat) : WcEntry :=
  if e.stamp = stamp then
    { e with bytes := mergeBytes e.bytes bytes, sq := e.sq ++ sq.toList.filter fun q => !e.sq.contains q }
  else e

/-- A thread whose entry of a stamp takes in the bytes of a store (R120). -/
def Thread.extend (t : Thread) (stamp : Nat) (bytes : List (Nat × BitVec 8)) (sq : Option Nat) : Thread :=
  { t with wc := t.wc.map (·.takeIn stamp bytes sq) }

/-- The entry that a store opens (R120). -/
def State.newEntry (s : State) (slice va pa : Nat) (bytes : List (Nat × BitVec 8)) (nt : Bool) (epoch : Nat)
    (sq : Option Nat) : WcEntry :=
  ⟨slice, pa / 32, va / 32, bytes, !nt, nt, epoch, s.stamp, sq.toList, none⟩

/-- A thread that opens an entry, the older ones of its slice closed (R120). -/
def Thread.openEntry (t : Thread) (e : WcEntry) : Thread :=
  { t.closeSlice e.slice with wc := (t.closeSlice e.slice).wc ++ [e] }

/-- A store to global memory goes into the youngest entry of its slice, if that is of its sector, or opens one (R120). -/
theorem State.storeMem_cases {s t : State} {a : Agent} {slice va pa epoch : Nat} {bytes : List (Nat × BitVec 8)} {nt : Bool}
    {sq : Option Nat} (h : s.storeMem a slice va pa bytes nt epoch sq = some t) :
    (∃ e, ((s.thread? a).getD .empty).youngest slice = some e ∧ e.gang.isNone = true ∧ e.sector = pa / 32 ∧
      t = s.modThread a (·.extend e.stamp bytes sq)) ∨
    ∃ e : WcEntry, e.slice = slice ∧ e.gang = none ∧ e.sector = pa / 32 ∧ e.bytes = bytes ∧
      t = { s with stamp := s.stamp + 1 }.modThread a (·.openEntry e) := by
  have opens (h : (if 16 ≤ ((s.thread? a).getD .empty).wc.length then none
      else some ({ s with stamp := s.stamp + 1 }.modThread a (·.openEntry (s.newEntry slice va pa bytes nt epoch sq)))) =
        some t) :
      ∃ e : WcEntry, e.slice = slice ∧ e.gang = none ∧ e.sector = pa / 32 ∧ e.bytes = bytes ∧
        t = { s with stamp := s.stamp + 1 }.modThread a (·.openEntry e) := by
    split at h
    · cases h
    · exact ⟨_, rfl, rfl, rfl, rfl, (Option.some.inj h).symm⟩
  unfold State.storeMem at h
  dsimp only at h
  cases hy : ((s.thread? a).getD .empty).youngest slice with
  | none =>
    unfold Thread.youngest at hy
    rw [hy] at h
    exact .inr (opens h)
  | some y =>
    unfold Thread.youngest at hy
    rw [hy] at h
    dsimp only at h
    split at h
    · rename_i hmerge
      simp only [Bool.and_eq_true, decide_eq_true_eq] at hmerge
      obtain ⟨⟨⟨⟨⟨-, hgang⟩, -⟩, -⟩, hsector⟩, -⟩ := hmerge
      exact .inl ⟨y, rfl, hgang, hsector, (Option.some.inj h).symm⟩
    · exact .inr (opens h)

/-- A store to global memory changes the buffer of its thread, and the numbering of entries (R120). -/
theorem State.storeMem_eq {s t : State} {a : Agent} {slice va pa epoch : Nat} {bytes : List (Nat × BitVec 8)} {nt : Bool}
    {sq : Option Nat} (h : s.storeMem a slice va pa bytes nt epoch sq = some t) :
    ∃ (k : Nat) (f : Thread → Thread), t = { s with stamp := k }.modThread a f ∧ ∀ u : Thread, u.Buffers (f u) := by
  rcases State.storeMem_cases h with ⟨e, -, -, -, rfl⟩ | ⟨e, -, -, -, -, rfl⟩
  · exact ⟨s.stamp, _, rfl, fun _ => rfl⟩
  · exact ⟨_, _, rfl, fun _ => rfl⟩

/-- What was taken ahead is given up by a change of its thread, or nothing is (R116). -/
theorem State.dropTaken_eq (s : State) (a : Agent) (slice pa n : Nat) :
    ∃ f : Thread → Thread, s.dropTaken a slice pa n = s.modThread a f ∧ ∀ u : Thread, u.Buffers (f u) := by
  unfold State.dropTaken
  dsimp only
  split
  · exact ⟨_, rfl, fun _ => rfl⟩
  · exact ⟨id, (State.modGang_eq_self fun g => by cases a.role <;> simp [Gang.modThread, modifyAt_id]).symm, fun _ => rfl⟩

/-- A store waits in the buffer of its thread, or is made at once in the window (R116, R120). -/
theorem State.storeAt_cases {s t : State} {a : Agent} {slice va n v epoch : Nat} {pl : Place} {nt : Bool} {sq : Option Nat}
    (h : s.storeAt a slice va pl n v nt epoch sq = some t) :
    (∃ pa, pl = .mem pa) ∧ (∃ (k : Nat) (f : Thread → Thread), t = { s with stamp := k }.modThread a f ∧
      ∀ u : Thread, u.Buffers (f u)) ∨ (∀ pa, pl ≠ .mem pa) ∧ t = s.pokeAt a pl n v := by
  unfold State.storeAt at h
  cases pl with
  | mem pa =>
    refine .inl ⟨⟨pa, rfl⟩, ?_⟩
    obtain ⟨k, f, rfl, hf⟩ := State.storeMem_eq h
    obtain ⟨f0, h0, hf0⟩ := s.dropTaken_eq a slice pa n
    refine ⟨k, fun u => f (f0 u), ?_, fun u => (hf0 u).trans (hf (f0 u))⟩
    rw [h0]
    unfold State.modThread State.modGang
    simp only [modifyAt_modifyAt, Gang.modThread_modThread]
  | spad off | sdm off =>
    dsimp only at h
    split at h
    · cases h
      exact .inr ⟨nofun, rfl⟩
    · cases h

section
variable {s t : State} {slice va n v epoch : Nat} {pl : Place} {nt : Bool} {sq : Option Nat}

theorem State.StandsAs.modThread (hl : s.live = true) (a : Agent) {f : Thread → Thread} (hp : ∀ t, (f t).pc = t.pc)
    (hr : ∀ t, (f t).regs = t.regs) : s.StandsAs (s.modThread a f) := by
  refine .of_thread hl rfl fun b u hu => ?_
  rw [State.thread?_modThread, hu]
  split
  · exact ⟨_, rfl, hp u, hr u⟩
  · exact ⟨_, rfl, rfl, rfl⟩

/-- A store leaves its agent where it stands, and reaches no byte but those of a place in the window (R120). -/
theorem State.storeAt_keeps (hl : s.live = true) {a : Agent} (h : s.storeAt a slice va pl n v nt epoch sq = some t) :
    s.StandsAs t ∧ s.StoresAt t a.gang pl n := by
  rcases State.storeAt_cases h with ⟨-, k, f, rfl, hf⟩ | ⟨hpl, rfl⟩
  · have hstamp : s.StandsAs { s with stamp := k } := .of_thread hl rfl fun _ u hu => ⟨u, hu, rfl, rfl⟩
    have hbytes : SameBytes s { s with stamp := k } := ⟨fun _ => rfl, fun _ _ => rfl, fun _ _ => rfl⟩
    exact ⟨hstamp.trans (.modThread hstamp.live a (fun u => by rw [hf u]) fun u => by rw [hf u]),
      (hbytes.trans (.modThread _ a f)).storesAt ..⟩
  · exact ⟨.pokeAt hl a pl n v, .pokeAt s a hpl n v⟩

/-! The instructions. -/

/-- The charge of a store: one to global memory is charged when its entry is performed (R428). -/
def State.chargeStore (s : State) (pl : Place) (n : Nat) : State :=
  match pl with
  | .mem _ => s
  | _ => s.chargeAt s.who.gang pl n

theorem State.Noted.chargeStore (s : State) (pl : Place) (n : Nat) : s.Noted (s.chargeStore pl n) := by
  unfold State.chargeStore
  split
  · exact .refl _
  · exact .charge ..

/-- A store that passes its checks and enters its buffer retires, with nothing else written (R120, R175). -/
theorem State.scalarStore_retires {s1 s2 : State} {va : Word} (hl : s.live = true) (hr : s.reaches .write va n pl s1)
    (hst : s1.storeAt s1.who 0 va.toNat pl n v nt s1.me.epoch none = some s2) :
    Answers (s.scalarStore va n v nt State.ret) fun t =>
      Retires (s2.chargeStore pl n) t 0 0 (s.pc + 4) ∧ s.StoresAt t s.who.gang pl n := by
  have hplace : s.Noted s1 := .place hr.1.1
  have hwho : s1.who = s.who := by
    unfold State.who
    rw [hplace.rest]
  have h1 := hplace.standsAs hl
  obtain ⟨h2, hstores⟩ := State.storeAt_keeps h1.live hst
  have h3 : s2.Noted (s2.chargeStore pl n) := .chargeStore s2 pl n
  have hstands := (h1.trans h2).trans (h3.standsAs h2.live)
  obtain ⟨t, ht, hret⟩ := Retires.ret hstands.live
  rw [hstands.pc] at hret
  refine ⟨t, ?_, hret, ?_⟩
  · unfold State.scalarStore
    rw [State.scalarAccess_of_reaches hr, hst]
    exact ht
  · rw [hwho] at hstores
    exact (hplace.sameBytes.storesAt ..).trans (hstores.trans ((h3.sameBytes.trans hret.bytes).storesAt ..))

end

/-- Each form of R175 stores at its address. -/
theorem exec_storeForms : ∀ p ∈ storeForms, ∀ (d a : BitVec 6) (nt : Bool) (o : BitVec 10) (s : State),
    exec (p.1 d a nt o) s =
      s.agent (s.scalarStore (s.x a + o.signExtend 64 * BitVec.ofNat 64 p.2) p.2 (s.x d).toNat nt State.ret) := by
  simp only [storeForms, List.forall_mem_cons, List.not_mem_nil, false_imp_iff, implies_true, and_true]
  exact ⟨fun _ _ _ _ _ => rfl, fun _ _ _ _ _ => rfl, fun _ _ _ _ _ => rfl, fun _ _ _ _ _ => rfl⟩

/-- Each store-release makes its access, then waits, then stores (R124, R176). -/
theorem exec_releaseForms : ∀ p ∈ releaseForms, ∀ (d a : BitVec 6) (sc : BitVec 3) (s : State), exec (p.1 d a sc) s =
    s.agent (s.scalarAccess .write (s.x a) p.2 fun s _ => s.afterRelease sc.toNat fun s =>
      s.scalarStore (s.x a) p.2 (s.x d).toNat false State.ret) := by
  simp only [releaseForms, List.forall_mem_cons, List.not_mem_nil, false_imp_iff, implies_true, and_true]
  exact ⟨fun _ _ _ _ => rfl, fun _ _ _ _ => rfl, fun _ _ _ _ => rfl, fun _ _ _ _ => rfl⟩

/-- Settles O26: a store is its access and its entry in the buffer or the window; a store-release is one after its wait. -/
theorem storeResults : Obligations.StoreResults := by
  unfold Obligations.StoreResults
  intro d a s hl writes
  have hwrites {s0 : State} (h0 : s.StandsAs s0) (hb : SameBytes s s0) (hw : s0.who = s.who) {i : Instr} {va : Word} {n : Nat}
      {nt : Bool} (hi : exec i s = s0.scalarStore va n (s.x d).toNat nt State.ret) : writes i s0 va n nt := by
    intro s1 s2 pl hr hst s3
    obtain ⟨t, ht, hret, hkeeps⟩ := State.scalarStore_retires h0.live hr hst
    rw [hw] at hkeeps
    rw [h0.pc] at hret
    obtain ⟨hmem, hspad, hsdm⟩ := (hb.storesAt s.who.gang pl n).trans hkeeps
    exact ⟨t, hi.trans ht, hret, hmem, hspad, hsdm⟩
  refine ⟨fun p hp nt o => ?_, fun p hp sc => ?_⟩
  · have hi := (exec_storeForms p hp d a nt o s).trans (State.agent_of_live hl _)
    refine ⟨hwrites (.refl hl) (.refl s) rfl hi, ?_⟩
    rw [hi]
    exact .scalarAccess ..
  · have hi := (exec_releaseForms p hp d a sc s).trans (State.agent_of_live hl _)
    refine ⟨?_, fun s0 pl0 hr hq => ?_⟩
    · rw [hi]
      exact .scalarAccess ..
    · have hplace : s.Noted s0 := .place hr.1.1
      have h0 := hplace.standsAs hl
      refine hwrites h0 hplace.sameBytes (by unfold State.who; rw [hplace.rest]) ?_
      rw [hi, State.scalarAccess_of_reaches hr, hq.afterRelease, h0.x, h0.x]

end Sys2Proof.Machine
end

section
/-! Steps of engines for an agent: what a read notes leaves to be read, and what a write, a charge and a change of a transfer
leave of the agent's bytes and transfers (R113, R125, R128, R137, R428). -/

namespace Sys2Proof.Machine

/-! What the notes of a read leave to be read. -/

theorem Thread.Noted.shown {t u : Thread} (h : t.Noted u) : u.shown = t.shown := by
  rw [h]
  rfl

/-- A gang sees the same held writes after a read (R137). -/
theorem Gang.Noted.shown {g u : Gang} (h : g.Noted u) : u.shown = g.shown := by
  have haccess : u.access.shown = g.access.shown := by
    obtain ⟨t, ht, hn⟩ := h.thread .access g.access rfl
    rw [← Option.some.inj ht] at hn
    exact hn.shown
  have hharts : u.harts.map (·.shown) = g.harts.map (·.shown) := by
    refine List.ext_getElem? fun k => ?_
    rw [List.getElem?_map, List.getElem?_map]
    cases hk : g.harts[k]? with
    | none =>
      have hu : u.harts[k]? = none := by rw [List.getElem?_eq_none_iff, h.length, ← List.getElem?_eq_none_iff, hk]
      rw [hu]
    | some t =>
      obtain ⟨t', ht', hn⟩ := h.thread (.hart k) t hk
      rw [show u.harts[k]? = some t' from ht', Option.map_some, hn.shown]
      rfl
  unfold Gang.shown
  rw [List.flatMap_def, List.flatMap_def, hharts, haccess]

section
variable {s u : State} (h : s.Noted u)
include h

theorem State.Noted.gangOf (k : Nat) : (s.gangOf k).Noted (u.gangOf k) := by
  unfold State.gangOf
  cases hk : s.gangs[k]? with
  | none =>
    have hu : u.gangs[k]? = none := by rw [List.getElem?_eq_none_iff, h.length, ← List.getElem?_eq_none_iff, hk]
    rw [hu]
    exact .refl _
  | some g =>
    obtain ⟨g', hu, hn⟩ := h.gang k g hk
    rw [hu]
    exact hn

theorem State.Noted.mem : u.mem = s.mem := by rw [h.rest]

theorem State.Noted.spad (k : Nat) : (u.gangOf k).spad = (s.gangOf k).spad := by rw [(h.gangOf k).rest]

theorem State.Noted.sdm (k : Nat) : (u.gangOf k).sdm = (s.gangOf k).sdm := by rw [(h.gangOf k).rest]

theorem State.Noted.peekAt (a : Agent) (p : Place) (n : Nat) : u.peekAt a p n = s.peekAt a p n := by
  cases p <;> simp only [State.peekAt, h.mem, h.spad, h.sdm]

/-- What a gang sees at a place is the same after a read (R113). -/
theorem State.Noted.seenAt (a : Agent) (p : Place) (n : Nat) : u.seenAt a p n = s.seenAt a p n := by
  have hshown : (u.gangOf a.gang).shown = (s.gangOf a.gang).shown := (h.gangOf a.gang).shown
  cases p with
  | mem pa =>
    unfold State.seenAt State.heldOver
    dsimp only
    rw [hshown, h.mem]
  | spad off => exact h.peekAt a (.spad off) n
  | sdm off => exact h.peekAt a (.sdm off) n

end

/-! The bytes and transfers of an agent. -/

theorem State.mem_pokeAt_mem (s : State) (a : Agent) (pa n v : Nat) : (s.pokeAt a (.mem pa) n v).mem = s.mem.write pa n v := rfl

theorem State.gangs_of_thread? {s : State} {a : Agent} {t : Thread} (h : s.thread? a = some t) :
    ∃ g, s.gangs[a.gang]? = some g := by
  unfold State.thread? at h
  cases hg : s.gangs[a.gang]? with
  | none => rw [hg] at h; cases h
  | some g => exact ⟨g, rfl⟩

/-- In `u` the bytes that an agent reaches are those of `w`, and its transfers are `l`. -/
structure State.Leaves (u w : State) (a : Agent) (l : List Xfer) : Prop where
  mem : u.mem = w.mem
  spad : (u.gangOf a.gang).spad = (w.gangOf a.gang).spad
  sdm : (u.gangOf a.gang).sdm = (w.gangOf a.gang).sdm
  xfers : ∃ v, u.thread? a = some v ∧ v.xfers = l

theorem State.Leaves.refl {s : State} {a : Agent} {t : Thread} (h : s.thread? a = some t) : s.Leaves s a t.xfers :=
  ⟨rfl, rfl, rfl, t, h, rfl⟩

section
variable {u w : State} {a : Agent} {l : List Xfer} (h : u.Leaves w a l)
include h

theorem State.Leaves.noted {v : State} (hn : u.Noted v) : v.Leaves w a l := by
  obtain ⟨t, ht, hl⟩ := h.xfers
  obtain ⟨t', ht', hnoted⟩ := hn.thread? ht
  exact ⟨hn.mem.trans h.mem, (hn.spad _).trans h.spad, (hn.sdm _).trans h.sdm, t', ht', by rw [hnoted]; exact hl⟩

/-- A change of the gang that keeps its bytes and threads. -/
theorem State.Leaves.modGang {f : Gang → Gang} (hb : ∀ g, (f g).spad = g.spad ∧ (f g).sdm = g.sdm)
    (ht : ∀ g r, (f g).thread? r = g.thread? r) : (u.modGang a.gang f).Leaves w a l := by
  obtain ⟨t, hu, hl⟩ := h.xfers
  obtain ⟨g, hg⟩ := State.gangs_of_thread? hu
  have hgang : (u.modGang a.gang f).gangOf a.gang = f (u.gangOf a.gang) := by
    simp [State.gangOf, State.getElem?_modGang, hg]
  refine ⟨h.mem, ?_, ?_, t, ?_, hl⟩
  · rw [hgang, (hb _).1, h.spad]
  · rw [hgang, (hb _).2, h.sdm]
  · rw [State.thread?_modGang, if_pos rfl, hg, Option.bind_some, ht, ← State.thread?_of hg, hu]

/-- A change of the thread by what it does to its transfers. -/
theorem State.Leaves.modThread {f : Thread → Thread} {k : List Xfer → List Xfer} (hf : ∀ t, (f t).xfers = k t.xfers) :
    (u.modThread a f).Leaves w a (k l) := by
  obtain ⟨t, hu, hl⟩ := h.xfers
  obtain ⟨g, hg⟩ := State.gangs_of_thread? hu
  have hgang : (u.modThread a f).gangOf a.gang = (u.gangOf a.gang).modThread a.role f := by
    simp [State.modThread, State.gangOf, State.getElem?_modGang, hg]
  refine ⟨h.mem, ?_, ?_, f t, ?_, ?_⟩
  · rw [hgang, ← h.spad]
    cases a.role <;> rfl
  · rw [hgang, ← h.sdm]
    cases a.role <;> rfl
  · rw [State.thread?_modThread, if_pos rfl, hu]
    rfl
  · rw [hf, hl]

theorem State.Leaves.modXfer (x : Nat) (f : Xfer → Xfer) : (u.modXfer a x f).Leaves w a (modifyAt l x f) :=
  State.Leaves.modThread (k := fun l => modifyAt l x f) h fun _ => rfl

theorem State.Leaves.freeXfer (x : Nat) : (u.freeXfer a x).Leaves w a (l.eraseIdx x) :=
  State.Leaves.modThread (k := fun l => l.eraseIdx x) h fun _ => rfl

/-- Writes of the same bytes leave the same bytes. -/
theorem State.Leaves.pokeAt {t : Thread} (ht : w.thread? a = some t) (p : Place) (n v : Nat) :
    (u.pokeAt a p n v).Leaves (w.pokeAt a p n v) a l := by
  obtain ⟨t', hu, hl⟩ := h.xfers
  obtain ⟨g, hg⟩ := State.gangs_of_thread? hu
  obtain ⟨g', hg'⟩ := State.gangs_of_thread? ht
  have hgang {f : Gang → Gang} : (u.modGang a.gang f).gangOf a.gang = f (u.gangOf a.gang) ∧
      (w.modGang a.gang f).gangOf a.gang = f (w.gangOf a.gang) := by
    constructor
    · simp [State.gangOf, State.getElem?_modGang, hg]
    · simp [State.gangOf, State.getElem?_modGang, hg']
  have hthread : (u.pokeAt a p n v).thread? a = some t' := (u.thread?_pokeAt a a p n v).trans hu
  cases p with
  | mem pa => exact ⟨congrArg (·.write pa n v) h.mem, h.spad, h.sdm, t', hthread, hl⟩
  | spad off | sdm off =>
    unfold State.pokeAt at hthread ⊢
    exact ⟨h.mem, by rw [hgang.1, hgang.2, h.spad], by rw [hgang.1, hgang.2, h.sdm], t', hthread, hl⟩

end

end Sys2Proof.Machine
end

section
/-! A load after a store of its slice: the bytes that the buffer holds over memory (R113, R114, R116, R120). -/

namespace Sys2Proof.Machine

/-! The bytes of a number. -/

/-- A number made of digits to base 256 that are those of `v` is the low bytes of `v`. -/
theorem foldr_digits (v : Nat) (n : Nat) {g : Nat → Nat} (hg : ∀ i < n, g i = v / 256 ^ i % 256) :
    (List.range n).foldr (fun i r => g i + 256 * r) 0 = v % 256 ^ n := by
  induction n generalizing v g with
  | zero => simp [Nat.mod_one]
  | succ n ih =>
    have h0 : g 0 = v % 256 := by simpa using hg 0 (by omega)
    have hs : ∀ i < n, g (i + 1) = v / 256 / 256 ^ i % 256 := fun i hi => by
      rw [hg (i + 1) (by omega), Nat.div_div_eq_div_mul, ← Nat.pow_succ']
    rw [List.range_succ_eq_map, List.foldr_cons, List.foldr_map, ih (v / 256) hs, h0, Nat.pow_succ', Nat.mod_mul]

theorem bytesOf_fst_ge (n off v : Nat) : ∀ b ∈ bytesOf off v n, off ≤ b.1 := by
  induction n generalizing off v with
  | zero => nofun
  | succ n ih =>
    intro b hb
    rcases List.mem_cons.1 hb with rfl | hb
    · exact Nat.le_refl _
    · have := ih _ _ b hb
      omega

/-- The byte of a number at an offset. -/
theorem find?_bytesOf {n i : Nat} (hi : i < n) (off v : Nat) :
    (bytesOf off v n).find? (fun b => decide (b.1 = off + i)) = some (off + i, BitVec.ofNat 8 (v / 256 ^ i)) := by
  induction n generalizing off v i with
  | zero => omega
  | succ n ih =>
    unfold bytesOf
    cases i with
    | zero => simp
    | succ i =>
      have h := ih (i := i) (by omega) (off + 1) (v / 256)
      rw [List.find?_cons_of_neg (by simp), show off + (i + 1) = off + 1 + i by omega, h, Nat.div_div_eq_div_mul,
        ← Nat.pow_succ']

/-- New bytes of an entry stand before those that it held at the same offsets (R120). -/
theorem find?_mergeBytes {old new : List (Nat × BitVec 8)} {o : Nat} {b : Nat × BitVec 8}
    (h : new.find? (fun x => decide (x.1 = o)) = some b) : (mergeBytes old new).find? (fun x => decide (x.1 = o)) = some b := by
  have hb : b ∈ new ∧ b.1 = o := ⟨List.mem_of_find?_eq_some h, by simpa using List.find?_some h⟩
  have hnone : (old.filter fun x => !new.any fun c => decide (c.1 = x.1)).find? (fun x => decide (x.1 = o)) = none := by
    rw [List.find?_eq_none]
    intro x hx hxo
    have hno := (List.mem_filter.1 hx).2
    have hyes : new.any (fun c => decide (c.1 = x.1)) = true :=
      List.any_eq_true.2 ⟨b, hb.1, by rw [hb.2]; simpa [eq_comm] using hxo⟩
    rw [hyes] at hno
    cases hno
  unfold mergeBytes
  rw [List.find?_append, hnone, h]
  rfl

/-! What the youngest of the held writes gives. -/

/-- A byte of the youngest write is read from it. -/
theorem heldByte_append {es : List HeldBytes} {e : HeldBytes} {pa : Nat} {b : Nat × BitVec 8} (hs : e.1 = pa / 32)
    (hb : e.2.find? (fun x => decide (x.1 = pa % 32)) = some b) : heldByte (es ++ [e]) pa = some b.2 := by
  unfold heldByte
  rw [List.foldl_append, List.foldl_cons, List.foldl_nil, if_pos hs, hb]

/-- Bytes that the youngest write has over a run within its sector read as those of its value. -/
theorem heldByte_of_youngest {es : List HeldBytes} {e : HeldBytes} {pa n v i : Nat} {old : List (Nat × BitVec 8)}
    (hs : e.1 = pa / 32) (hb : e.2 = mergeBytes old (bytesOf (pa % 32) v n)) (hfit : pa % 32 + n ≤ 32) (hi : i < n) :
    heldByte (es ++ [e]) (pa + i) = some (BitVec.ofNat 8 (v / 256 ^ i)) := by
  have hsector : e.1 = (pa + i) / 32 := by omega
  have hoff : (pa + i) % 32 = pa % 32 + i := by omega
  refine heldByte_append (b := (pa % 32 + i, _)) hsector ?_
  rw [hb, hoff]
  exact find?_mergeBytes (find?_bytesOf hi ..)

/-- An aligned access of a size that instructions make lies within one sector. -/
theorem mod_add_le_sector {n pa : Nat} (hn : n ∈ [1, 2, 4, 8]) (ha : pa % n = 0) : pa % 32 + n ≤ 32 := by
  simp only [List.mem_cons, List.not_mem_nil, or_false] at hn
  rcases hn with rfl | rfl | rfl | rfl <;> omega

/-! The store. -/

/-- The bytes that an entry takes in are those of the youngest that its slice alone sees. -/
theorem Thread.unseen_extend {u : Thread} {slice : Nat} {e : WcEntry} (hy : u.youngest slice = some e)
    (hg : e.gang.isNone = true) (bytes : List (Nat × BitVec 8)) (sq : Option Nat) :
    ∃ es, (u.extend e.stamp bytes sq).unseen slice = es ++ [(e.sector, mergeBytes e.bytes bytes)] := by
  obtain ⟨ys, hys⟩ := List.getLast?_eq_some_iff.1 hy
  have hlast : u.wc.filter (fun x => decide (x.slice = slice) && x.gang.isNone) = ys.filter (·.gang.isNone) ++ [e] := by
    simp only [Bool.and_comm (decide _)]
    rw [← List.filter_filter, hys]
    simp [List.filter_append, hg]
  have hkeeps (x : WcEntry) : (x.takeIn e.stamp bytes sq).slice = x.slice ∧ (x.takeIn e.stamp bytes sq).gang = x.gang := by
    unfold WcEntry.takeIn
    split <;> exact ⟨rfl, rfl⟩
  have hmap : (u.wc.map (·.takeIn e.stamp bytes sq)).filter (fun x => decide (x.slice = slice) && x.gang.isNone) =
      (u.wc.filter fun x => decide (x.slice = slice) && x.gang.isNone).map (·.takeIn e.stamp bytes sq) := by
    rw [List.filter_map]
    simp only [Function.comp_def, hkeeps]
  refine ⟨((ys.filter (·.gang.isNone)).map (·.takeIn e.stamp bytes sq)).map fun x => (x.sector, x.bytes), ?_⟩
  unfold Thread.unseen Thread.extend
  dsimp only
  rw [hmap, hlast]
  simp [WcEntry.takeIn]

/-- An entry that is opened is the youngest of its slice. -/
theorem Thread.unseen_openEntry (u : Thread) {e : WcEntry} (hg : e.gang = none) :
    ∃ es, (u.openEntry e).unseen e.slice = es ++ [(e.sector, e.bytes)] := by
  refine ⟨(u.closeSlice e.slice).unseen e.slice, ?_⟩
  simp [Thread.unseen, Thread.openEntry, List.filter_append, hg]

/-- The bytes of a store to global memory are those of the youngest entry that its slice alone sees (R120). -/
theorem State.storeMem_unseen {s t : State} {a : Agent} {u : Thread} {slice va pa epoch : Nat}
    {bytes : List (Nat × BitVec 8)} {nt : Bool} {sq : Option Nat} (hu : s.thread? a = some u)
    (h : s.storeMem a slice va pa bytes nt epoch sq = some t) :
    ∃ (w : Thread) (es : List HeldBytes) (old : List (Nat × BitVec 8)), t.thread? a = some w ∧
      w.unseen slice = es ++ [(pa / 32, mergeBytes old bytes)] := by
  rcases State.storeMem_cases h with ⟨e, hy, hg, hs, rfl⟩ | ⟨e, rfl, hg, hs, rfl, rfl⟩
  · rw [hu, Option.getD_some] at hy
    obtain ⟨es, hes⟩ := Thread.unseen_extend hy hg bytes sq
    exact ⟨u.extend e.stamp bytes sq, es, e.bytes, by rw [State.thread?_modThread, if_pos rfl, hu]; rfl, by rw [hes, hs]⟩
  · obtain ⟨es, hes⟩ := u.unseen_openEntry hg
    refine ⟨u.openEntry e, es, [], ?_, by rw [hes, hs]; rfl⟩
    rw [State.thread?_modThread, if_pos rfl]
    exact congrArg (Option.map _) hu

/-- A run whose bytes are all in the youngest write of a slice is forwarded from it (R113, R116). -/
theorem State.loadMem_of_youngest {t : State} {a : Agent} {w : Thread} {slice pa n v : Nat} {es : List HeldBytes}
    {old : List (Nat × BitVec 8)} (hw : t.thread? a = some w)
    (hes : w.unseen slice = es ++ [(pa / 32, mergeBytes old (bytesOf (pa % 32) v n))]) (hn : 0 < n)
    (hfit : pa % 32 + n ≤ 32) : t.loadMem a slice pa n = some (v % 256 ^ n) := by
  have hown (xs : List HeldBytes) (i : Nat) (hi : i < n) :
      heldByte (xs ++ w.unseen slice) (pa + i) = some (BitVec.ofNat 8 (v / 256 ^ i)) := by
    rw [hes, ← List.append_assoc]
    exact heldByte_of_youngest rfl rfl hfit hi
  have hsome : ((List.range n).map fun i => heldByte (w.unseen slice) (pa + i)).all (·.isSome) = true := by
    rw [List.all_map, List.all_eq_true]
    intro i hi
    have h := hown [] i (List.mem_range.1 hi)
    rw [List.nil_append] at h
    simp [h]
  unfold State.loadMem
  rw [hw]
  dsimp only [Option.getD_some]
  rw [hsome, if_neg, if_pos (by simp)]
  · refine congrArg some ((foldr_digits v n fun i hi => ?_))
    rw [hown _ i hi]
    exact BitVec.toNat_ofNat ..
  · rw [List.all_map, List.all_eq_true]
    intro h
    have h0 := h 0 (List.mem_range.2 hn)
    simp only [Function.comp, hown _ 0 hn] at h0
    cases h0

/-- A load of global memory sees what its slice has stored there (R113, R114, R116). -/
theorem State.loadAt_storeAt_mem {s t : State} {a : Agent} {u : Thread} {slice va pa n v epoch : Nat} {nt : Bool}
    {sq : Option Nat} (hu : s.thread? a = some u) (hn : 0 < n) (hfit : pa % 32 + n ≤ 32) (htr : s.training pa = false)
    (h : s.storeAt a slice va (.mem pa) n v nt epoch sq = some t) : t.loadAt a slice (.mem pa) n = some (v % 256 ^ n) := by
  have hmod : t.mod = s.mod := by
    rcases State.storeAt_cases h with ⟨-, k, f, rfl, -⟩ | ⟨hno, -⟩
    · rfl
    · exact absurd rfl (hno pa)
  obtain ⟨f, hf, -⟩ := s.dropTaken_eq a slice pa n
  have hu' : (s.dropTaken a slice pa n).thread? a = some (f u) := by
    rw [hf, State.thread?_modThread, if_pos rfl, hu]
    rfl
  obtain ⟨w, es, old, hw, hes⟩ := State.storeMem_unseen hu' (show State.storeMem _ _ _ _ _ _ _ _ _ = some t from h)
  have htr' : t.training pa = false := by
    unfold State.training
    rw [hmod]
    exact htr
  show (if t.training pa = true then none else t.loadMem a slice pa n) = _
  rw [htr']
  exact State.loadMem_of_youngest hw hes hn hfit

/-- A load from the window reads what was last written there (R116, R120). -/
theorem State.loadAt_pokeAt_window {s : State} {a : Agent} {u : Thread} (hu : s.thread? a = some u) {pl : Place}
    (hpl : ∀ pa, pl ≠ .mem pa) (slice n v : Nat) : (s.pokeAt a pl n v).loadAt a slice pl n = some (v % 256 ^ n) := by
  obtain ⟨g, hg⟩ := State.gangs_of_thread? hu
  cases pl with
  | mem pa => exact absurd rfl (hpl pa)
  | spad off | sdm off => simp [State.pokeAt, State.loadAt, State.gangOf, State.getElem?_modGang, hg]

/-- Settles O27: in global memory the youngest entry of the slice gives the bytes, in the window the memory itself. -/
theorem storeIsSeen : Obligations.StoreIsSeen := by
  unfold Obligations.StoreIsSeen
  intro s t va n v pl nt hl hn hmem hst
  obtain ⟨a, u, hc, hu⟩ := State.live_iff.1 hl
  have hwho : s.who = a := by simp [State.who, hc]
  have hpow : 2 ^ (8 * n) = 256 ^ n := by rw [Nat.pow_mul]
  have hpos : 0 < n := Nat.pos_of_ne_zero fun h => by rw [h] at hn; revert hn; decide
  rw [hwho] at hst
  have hcur : t.cur = s.cur := by
    rcases State.storeAt_cases hst with ⟨-, k, f, rfl, -⟩ | ⟨-, rfl⟩
    · rfl
    · cases pl <;> rfl
  have hwho' : t.who = a := by simp [State.who, hcur, hc]
  rw [hwho', hpow]
  cases pl with
  | mem pa =>
    obtain ⟨halign, htr⟩ := hmem pa rfl
    exact State.loadAt_storeAt_mem hu hpos (mod_add_le_sector hn halign) htr hst
  | spad off | sdm off =>
    obtain ⟨⟨pa, hpa⟩, -⟩ | ⟨hno, rfl⟩ := State.storeAt_cases hst
    · cases hpa
    · exact State.loadAt_pokeAt_window hu hno 0 n v

end Sys2Proof.Machine
end

section
/-! The steps of a copy: its next sector, what landing one makes of its progress, and its completion (R104, R244, R245). -/

namespace Sys2Proof.Machine

/-! The next sector. -/

section
variable {y : Xfer} {c : CopyCmd} (hs : y.sect < c.perRow)
include hs

theorem Xfer.sector_row : (y.row * c.perRow + y.sect) / c.perRow = y.row := by
  rw [Nat.mul_comm, Nat.mul_add_div (by omega), Nat.div_eq_of_lt hs, Nat.add_zero]

theorem Xfer.sector_sect : (y.row * c.perRow + y.sect) % c.perRow = y.sect := by
  rw [Nat.mul_comm, Nat.mul_add_mod, Nat.mod_eq_of_lt hs]

variable (ha : y.ahead = [])
include ha

/-- A copy of which no bank has run ahead makes the sector where it has come to (R104). -/
theorem Xfer.nextIn_first (hr : y.row < c.rows) {bank : Nat}
    (hb : inWindow c.dst.toNat = true → bankOf ((sectorAddr c.dst c.dstride y.row y.sect).toNat - windowBase) = bank) :
    y.nextIn c bank (c.rows * c.perRow - (y.row * c.perRow + y.sect)) (y.row * c.perRow + y.sect) =
      some (y.row * c.perRow + y.sect) := by
  have hlt : y.row * c.perRow + y.sect < c.rows * c.perRow := by
    have := Nat.mul_le_mul_right c.perRow (Nat.succ_le_of_lt hr)
    rw [Nat.succ_mul] at this
    omega
  obtain ⟨k, hk⟩ := Nat.exists_eq_add_of_lt hlt
  rw [show c.rows * c.perRow - (y.row * c.perRow + y.sect) = k + 1 by omega]
  unfold Xfer.nextIn
  dsimp only
  rw [Xfer.sector_row hs, Xfer.sector_sect hs, ha]
  refine if_pos ?_
  cases hw : inWindow c.dst.toNat with
  | false => rfl
  | true => simp [hb hw]

/-- Landing that sector moves a copy to the next of its row, or to the next row (R244). -/
theorem Xfer.land_next : y.land c (y.row * c.perRow + y.sect) =
    if y.sect + 1 < c.perRow then { y with sect := y.sect + 1 } else { y with row := y.row + 1, sect := 0 } := by
  have hpast : pastAhead [y.row * c.perRow + y.sect] 1 (y.row * c.perRow + y.sect) = y.row * c.perRow + (y.sect + 1) := by
    simp [pastAhead, Nat.add_assoc]
  unfold Xfer.land
  rw [ha]
  dsimp only [List.nil_append, List.length_singleton]
  simp only [hpast]
  have hgone : [y.row * c.perRow + y.sect].filter (fun o => decide (y.row * c.perRow + (y.sect + 1) ≤ o)) = [] := by simp
  rw [hgone]
  split
  · rename_i hlt
    have hrow := Xfer.sector_row (y := { y with sect := y.sect + 1 }) (c := c) hlt
    have hsect := Xfer.sector_sect (y := { y with sect := y.sect + 1 }) (c := c) hlt
    dsimp only at hrow hsect
    rw [hrow, hsect]
  · have hnext : y.row * c.perRow + (y.sect + 1) = (y.row + 1) * c.perRow + 0 := by rw [Nat.succ_mul]; omega
    have hrow := Xfer.sector_row (y := { y with row := y.row + 1, sect := 0 }) (c := c) (show 0 < c.perRow by omega)
    have hsect := Xfer.sector_sect (y := { y with row := y.row + 1, sect := 0 }) (c := c) (show 0 < c.perRow by omega)
    dsimp only at hrow hsect
    rw [hnext, hrow, hsect]

end

/-- What a sector makes of its copy: it goes on, waits for its completion update, or is over (R244, R245). -/
def Xfer.afterSector (y : Xfer) (c : CopyCmd) : Option Xfer :=
  if y.sect + 1 < c.perRow then some { y with sect := y.sect + 1 }
  else if y.row + 1 < c.rows then some { y with row := y.row + 1, sect := 0 }
  else if c.done = 0 then none
  else some { y with row := y.row + 1, sect := 0, moved := true }

/-- Transfers of which one is changed, or has completed. -/
def putXfer (l : List Xfer) (x : Nat) : Option Xfer → List Xfer
  | some z => modifyAt l x fun _ => z
  | none => l.eraseIdx x

theorem modifyAt_of_getElem? {α : Type} {l : List α} {i : Nat} {y : α} (h : l[i]? = some y) (f : α → α) :
    modifyAt l i f = modifyAt l i fun _ => f y := by
  refine List.ext_getElem? fun j => ?_
  rw [getElem?_modifyAt, getElem?_modifyAt]
  split
  · rename_i hj
    subst hj
    rw [h]
    rfl
  · rfl

theorem eraseIdx_modifyAt {α : Type} (l : List α) (i : Nat) (f : α → α) : (modifyAt l i f).eraseIdx i = l.eraseIdx i := by
  induction l generalizing i with
  | nil => rfl
  | cons x l ih => cases i <;> simp [modifyAt, ih]

/-! The sector. -/

/-- A sector has landed at its place (R100, R244). -/
def State.land (s : State) (a : Agent) (i : Nat) (x : Xfer) (c : CopyCmd) (o : Nat) (p : Place) (v : Nat) : State :=
  let s := ((s.pokeAt a p 32 v).chargeAt a.gang p 32).modXfer a i (·.land c o)
  match p with
  | .spad off => match (x.land c o).wholeBlock c off with
    | some b => s.modGang a.gang (·.freshen [b])
    | none => s
  | _ => s

theorem State.Leaves.land {u w : State} {a : Agent} {l : List Xfer} (h : u.Leaves w a l) {t : Thread}
    (ht : w.thread? a = some t) (i : Nat) (x : Xfer) (c : CopyCmd) (o : Nat) (p : Place) (v : Nat) :
    (u.land a i x c o p v).Leaves (w.pokeAt a p 32 v) a (modifyAt l i (·.land c o)) := by
  have hput : (((u.pokeAt a p 32 v).chargeAt a.gang p 32).modXfer a i (·.land c o)).Leaves (w.pokeAt a p 32 v) a
      (modifyAt l i (·.land c o)) := ((h.pokeAt ht p 32 v).noted (.charge ..)).modXfer i _
  unfold State.land
  dsimp only
  split
  · split
    · exact hput.modGang (fun _ => ⟨rfl, rfl⟩) fun g r => by cases r <;> rfl
    · exact hput
  · exact hput

/-- The address of a sector on one side of a copy. -/
abbrev CopyCmd.srcAt (c : CopyCmd) (o : Nat) : Word := sectorAddr c.src c.sstride (o / c.perRow) (o % c.perRow)

/-- The address of a sector on the other side. -/
abbrev CopyCmd.dstAt (c : CopyCmd) (o : Nat) : Word := sectorAddr c.dst c.dstride (o / c.perRow) (o % c.perRow)

/-- The access of a copy to an address lies in the window if its side does. -/
abbrev winSide (v : Word) : Bool := inWindow v.toNat && !tooWide v

section
variable {s s1 s2 : State} {a : Agent} {i : Nat} {x : Xfer} {c : CopyCmd} {o : Nat} {p q : Place}

/-- A fill writes its value four times over (R243). -/
theorem State.copySector_fill (hf : c.fill = true)
    (hp : s.locate a (s.nowLevel a) .write (winSide c.dst) (c.dstAt o) 32 32 = .ok (p, s1)) (hst : s1.stalled p = false)
    (hh : s1.heldOver a p 32 = false) :
    s.copySector a i x c o = s1.land a i x c o p (c.src.toNat * (1 + 2 ^ 64 + 2 ^ 128 + 2 ^ 192)) := by
  unfold State.copySector
  dsimp only
  rw [if_pos hf]
  dsimp only
  rw [hp]
  dsimp only
  rw [hst, hh]
  rfl

/-- A copy reads what the gang sees and writes it (R113, R244). -/
theorem State.copySector_read (hf : c.fill = false)
    (hp : s.locate a (s.nowLevel a) .read (winSide c.src) (c.srcAt o) 32 32 = .ok (p, s1)) (hst : s1.stalled p = false)
    (hq : ((s1.noteRead a p 32).chargeAt a.gang p 32).locate a (s.nowLevel a) .write (winSide c.dst) (c.dstAt o) 32 32 =
      .ok (q, s2)) (hst2 : s2.stalled q = false) (hh : s2.heldOver a q 32 = false) :
    s.copySector a i x c o = s2.land a i x c o q (s1.seenAt a p 32) := by
  unfold State.copySector
  dsimp only
  rw [if_neg (by rw [hf]; nofun), hp]
  dsimp only
  rw [if_neg (by rw [hst]; nofun)]
  dsimp only
  rw [hq]
  dsimp only
  rw [hst2, hh]
  rfl

/-- A cause of the source stops a copy that has come to the sector (R244). -/
theorem State.copySector_error (hf : c.fill = false) {e : MemErr}
    (hp : s.locate a (s.nowLevel a) .read (winSide c.src) (c.srcAt (x.row * c.perRow + x.sect)) 32 32 = .error e)
    (he : e.code ≠ 0) :
    s.copySector a i x c (x.row * c.perRow + x.sect) =
      s.modXfer a i fun x => { x with fault := some (e.code, e.addr, 0) } := by
  unfold State.copySector
  dsimp only
  rw [if_neg (by rw [hf]; nofun), hp]
  dsimp only
  rw [if_neg he, if_pos rfl]

end

/-! The step. -/

/-- A copy of which every sector has landed is over, or waits for its completion update (R245). -/
def State.closeCopy (s : State) (a : Agent) (i : Nat) (c : CopyCmd) : State :=
  match ((s.thread? a).getD .empty).xfers[i]? with
  | some x =>
    if x.fault.isNone && decide (c.rows ≤ x.row) then
      if c.done = 0 then s.freeXfer a i else s.modXfer a i fun x => { x with moved := true }
    else s
  | none => s

theorem State.closeCopy_eq {u : State} {a : Agent} {v : Thread} {i : Nat} {z : Xfer} (hv : u.thread? a = some v)
    (hz : v.xfers[i]? = some z) (c : CopyCmd) : u.closeCopy a i c =
      if z.fault.isNone && decide (c.rows ≤ z.row) then
        if c.done = 0 then u.freeXfer a i else u.modXfer a i fun x => { x with moved := true }
      else u := by
  unfold State.closeCopy
  rw [hv, Option.getD_some, hz]

section
variable {s : State} {ag : Agent} {t : Thread} {x : Nat} {y : Xfer} {c : CopyCmd} (ht : s.thread? ag = some t)
  (hy : t.xfers[x]? = some y) (hk : y.kind = .copy c)
include ht hy hk

/-- A copy whose sectors are all performed makes no more of them (R244). -/
theorem exec_copyCommand_moved (hm : y.moved = true) (bank : Nat) : exec (.copyCommand ag ⟨x, bank⟩) s = .next s := by
  show Host.Outcome.next (s.copyStep ag x bank) = _
  unfold State.copyStep
  rw [ht, Option.getD_some, hy]
  dsimp only
  rw [hk]
  dsimp only
  rw [hm, if_pos (by simp)]

/-- Before that, a copy makes no completion update (R245). -/
theorem exec_copyCompletion_unmoved (hm : y.moved = false) : exec (.copyCompletion ag x) s = .next s := by
  show Host.Outcome.next (s.copyDone ag x) = _
  unfold State.copyDone
  rw [ht, Option.getD_some, hy]
  dsimp only
  rw [hk]
  dsimp only
  rw [hm, if_pos (by simp)]

variable (hf : y.fault = none) (hr : s.engineRuns ag = true)
include hf hr

section
variable (hm : y.moved = false)
include hm

/-- A copy that runs makes its next sector, and is looked at again (R244). -/
theorem exec_copyCommand {bank o : Nat}
    (ho : y.nextIn c (bank % 64) (c.rows * c.perRow - (y.row * c.perRow + y.sect)) (y.row * c.perRow + y.sect) = some o) :
    exec (.copyCommand ag ⟨x, bank⟩) s = .next ((s.copySector ag x y c o).closeCopy ag x c) := by
  show Host.Outcome.next (s.copyStep ag x bank) = _
  unfold State.copyStep
  rw [ht, Option.getD_some, hy]
  dsimp only
  rw [hk]
  dsimp only
  rw [if_neg (by rw [hr, hf, hm]; nofun), ho]
  rfl

variable (hrow : y.row < c.rows) (hsect : y.sect < c.perRow) (ha : y.ahead = []) {bank : Nat}
  (hb : inWindow c.dst.toNat = true → bankOf ((sectorAddr c.dst c.dstride y.row y.sect).toNat - windowBase) = bank % 64)
include hrow hsect ha hb

/-- The step of a sector that lands leaves its bytes written and its copy further on (R244). -/
theorem exec_copyCommand_lands {u : State} (hu : u.Leaves s ag t.xfers) {p : Place} {v : Nat}
    (hland : s.copySector ag x y c (y.row * c.perRow + y.sect) = u.land ag x y c (y.row * c.perRow + y.sect) p v) :
    Answers (exec (.copyCommand ag ⟨x, bank⟩) s) fun z =>
      z.Leaves (s.pokeAt ag p 32 v) ag (putXfer t.xfers x (y.afterSector c)) := by
  have hl := hu.land ht x y c (y.row * c.perRow + y.sect) p v
  rw [modifyAt_of_getElem? hy, Xfer.land_next hsect ha] at hl
  obtain ⟨w, hw, hx⟩ := hl.xfers
  have hz : w.xfers[x]? = some (if y.sect + 1 < c.perRow then { y with sect := y.sect + 1 }
      else { y with row := y.row + 1, sect := 0 }) := by
    rw [hx, getElem?_modifyAt, if_pos rfl, hy]
    rfl
  refine ⟨_, exec_copyCommand ht hy hk hf hr hm (Xfer.nextIn_first hsect ha hrow hb), ?_⟩
  rw [hland, State.closeCopy_eq hw hz]
  unfold Xfer.afterSector
  by_cases h1 : y.sect + 1 < c.perRow
  · rw [if_pos h1] at hl ⊢
    rw [if_neg (by simp; omega), if_pos h1]
    exact hl
  · rw [if_neg h1] at hl ⊢
    rw [if_neg h1]
    by_cases h2 : y.row + 1 < c.rows
    · rw [if_neg (by simp; omega), if_pos h2]
      exact hl
    · rw [if_pos (by simp [hf]; omega), if_neg h2]
      split
      · have := hl.freeXfer x
        rwa [eraseIdx_modifyAt] at this
      · have := hl.modXfer x fun z => { z with moved := true }
        rwa [modifyAt_modifyAt] at this

/-- The step of a sector whose source raises a cause stops its copy there (R244). -/
theorem exec_copyCommand_stops (hfill : c.fill = false) {e : MemErr} (he : e.code ≠ 0)
    (hp : s.locate ag (s.nowLevel ag) .read (winSide c.src) (sectorAddr c.src c.sstride y.row y.sect) 32 32 = .error e) :
    Answers (exec (.copyCommand ag ⟨x, bank⟩) s) fun z =>
      z.Leaves s ag (putXfer t.xfers x (some { y with fault := some (e.code, e.addr, 0) })) := by
  have hl := (State.Leaves.refl ht).modXfer x fun z => { z with fault := some (e.code, e.addr, 0) }
  rw [modifyAt_of_getElem? hy] at hl
  obtain ⟨w, hw, hx⟩ := hl.xfers
  have hz : w.xfers[x]? = some { y with fault := some (e.code, e.addr, 0) } := by
    rw [hx, getElem?_modifyAt, if_pos rfl, hy]
    rfl
  refine ⟨_, exec_copyCommand ht hy hk hf hr hm (Xfer.nextIn_first hsect ha hrow hb), ?_⟩
  rw [State.copySector_error hfill (by rw [CopyCmd.srcAt, Xfer.sector_row hsect, Xfer.sector_sect hsect]; exact hp) he,
    State.closeCopy_eq hw hz]
  exact hl

end

/-- The completion update of a copy adds to its DONE word, and the copy is over (R245). -/
theorem exec_copyCompletion (hm : y.moved = true) {p : Place} {s1 : State}
    (hp : s.locate ag (s.nowLevel ag) .rmw (winSide c.done) c.done 8 8 = .ok (p, s1)) (hst : s1.stalled p = false)
    (hh : s1.heldOver ag p 8 = false) : Answers (exec (.copyCompletion ag x) s) fun z =>
      z.Leaves (s.pokeAt ag p 8 ((s.peekAt ag p 8 + c.doneVal.toNat) % 2 ^ 64)) ag (putXfer t.xfers x none) := by
  have hn : s.Noted s1 := .locate hp
  refine ⟨((s1.pokeAt ag p 8 ((s.peekAt ag p 8 + c.doneVal.toNat) % 2 ^ 64)).chargeAt ag.gang p 8).freeXfer ag x, ?_, ?_⟩
  · show Host.Outcome.next (s.copyDone ag x) = _
    unfold State.copyDone
    rw [ht, Option.getD_some, hy]
    dsimp only
    rw [hk]
    dsimp only
    rw [if_neg (by rw [hr, hf, hm]; nofun), hp]
    dsimp only
    rw [hst, hh, hn.peekAt]
    rfl
  · exact ((((State.Leaves.refl ht).noted hn).pokeAt ht p 8 _).noted (.charge ..)).freeXfer x

end

end Sys2Proof.Machine
end

section
/-! Accesses that are performed on their own: store entries, folds of a merge, and a load in flight (R112, R117, R120, R135,
R137). -/

namespace Sys2Proof.Machine

theorem State.st_modThread (s : State) (a : Agent) (f : Thread → Thread) (i : Nat) :
    ((s.modThread a f).gangOf i).st = (s.gangOf i).st := by
  rw [State.sameBody_modThread s a f i]

/-- The bytes of an entry are in memory, and their sector is charged (R120, R121, R428). -/
def State.writeEntry (s : State) (a : Agent) (e : WcEntry) : State :=
  { s with mem := writeBytes s.mem (32 * e.sector) e.bytes }.chargeAt a.gang (.mem (32 * e.sector)) 32

theorem State.mem_writeEntry (s : State) (a : Agent) (e : WcEntry) :
    (s.writeEntry a e).mem = writeBytes s.mem (32 * e.sector) e.bytes :=
  State.Noted.mem (s := { s with mem := writeBytes s.mem (32 * e.sector) e.bytes }) (.charge _ _ _ _)

theorem State.gangs_writeEntry (s : State) (a : Agent) (e : WcEntry) : (s.writeEntry a e).gangs = s.gangs :=
  State.gangs_chargeAt ..

/-- The fold at a place waits for an earlier held write of its sector. -/
def State.foldsLater (s : State) (gi : Nat) (p : Place) (key : Nat) : Bool :=
  match p with
  | .mem pa => (s.gangOf gi).sectorBefore (pa / 32) key
  | _ => false

/-- A merge whose first element is folded. -/
def Xfer.pastFold (y : Xfer) (base : Word) (op : FoldFn) (tag : Tag) (rest : List (Nat × List (Option (BitVec 64)))) : Xfer :=
  { y with kind := .merge base op tag rest [] }

section
variable {s : State} {ag : Agent} {t : Thread} (ht : s.thread? ag = some t)
include ht

/-! Store entries. -/

section
variable {x : Nat} {e : WcEntry} (he : t.wc[x]? = some e)
include he

/-- An entry that may neither be performed nor be seen waits (R120). -/
theorem exec_entry_waits (hp : s.mayPerform ag x = false) (hw : s.mayShow ag x = false) :
    exec (.accessPerformed ag (.entry x)) s = .next s := by
  show Host.Outcome.next (s.performEntry ag x) = _
  unfold State.performEntry
  rw [ht, Option.getD_some, he]
  dsimp only
  rw [hp, hw]
  rfl

/-- An entry that may be performed writes its bytes and leaves its buffer (R112, R120). -/
theorem exec_entry_performed (hp : s.mayPerform ag x = true) (hst : (s.gangOf ag.gang).st ≠ .retired) :
    Answers (exec (.accessPerformed ag (.entry x)) s) fun u =>
      u.mem = writeBytes s.mem (32 * e.sector) e.bytes ∧ u.thread? ag = some { t with wc := t.wc.eraseIdx x } := by
  refine ⟨(s.writeEntry ag e).modThread ag fun t => { t with wc := t.wc.eraseIdx x }, ?_, s.mem_writeEntry ag e, ?_⟩
  · have hkeeps : (((s.writeEntry ag e).modThread ag fun t => { t with wc := t.wc.eraseIdx x }).gangOf ag.gang).st ≠
        .retired := by
      rw [State.st_modThread]
      unfold State.gangOf
      rw [s.gangs_writeEntry]
      exact hst
    show Host.Outcome.next (s.performEntry ag x) = _
    unfold State.performEntry
    rw [ht, Option.getD_some, he]
    dsimp only
    rw [hp, if_pos rfl]
    exact congrArg _ (if_neg hkeeps)
  · rw [State.thread?_modThread, if_pos rfl]
    unfold State.thread?
    rw [s.gangs_writeEntry]
    exact congrArg (Option.map _) ht

/-- An entry that is held, and comes next of its slice, is marked as seen by its gang (R137). -/
theorem exec_entry_shown (hp : s.mayPerform ag x = false) (hw : s.mayShow ag x = true) :
    Answers (exec (.accessPerformed ag (.entry x)) s) fun u => u.mem = s.mem ∧ u.stamp = s.stamp + 1 ∧
      u.thread? ag = some { t with wc := modifyAt t.wc x fun e => { e with gang := some s.stamp } } := by
  refine ⟨{ s with stamp := s.stamp + 1 }.modThread ag fun t =>
    { t with wc := modifyAt t.wc x fun e => { e with gang := some s.stamp } }, ?_, rfl, rfl, ?_⟩
  · show Host.Outcome.next (s.performEntry ag x) = _
    unfold State.performEntry
    rw [ht, Option.getD_some, he]
    dsimp only
    rw [hp, if_neg nofun, hw, if_pos rfl]
  · rw [State.thread?_modThread, if_pos rfl]
    exact congrArg (Option.map _) ht

end

/-! Folds. -/

/-- A merge that is not held folds the copies of its next element into memory (R135). -/
theorem exec_fold {x : Nat} {y : Xfer} {base : Word} {op : FoldFn} {tag : Tag} {e : Nat} {copies : List (Option (BitVec 64))}
    {rest : List (Nat × List (Option (BitVec 64)))} (hy : t.xfers[x]? = some y)
    (hk : y.kind = .merge base op tag ((e, copies) :: rest) []) (hf : y.fault = none) (hr : s.engineRuns ag = true)
    (hheld : winSide base = true ∨ s.held ag.gang y.epoch = false) {p : Place} {s1 : State}
    (hp : s.locate ag (s.nowLevel ag) .rmw (winSide base) (base + BitVec.ofNat 64 (e * tag.width)) tag.width tag.width =
      .ok (p, s1)) (hst : s1.stalled p = false)
    (hearly : ∀ pa, p = .mem pa → (s1.gangOf ag.gang).sectorBefore (pa / 32) (holdKey y.epoch (2 ^ 64 - 1)) = false) :
    Answers (exec (.accessPerformed ag (.fold x)) s) fun u => u.Leaves
      (s.pokeAt ag p tag.width (foldCopies op tag copies (BitVec.ofNat 64 (s.peekAt ag p tag.width))).toNat) ag
      (t.xfers.map fun z => if z = y then y.pastFold base op tag rest else z) := by
  have hn : s.Noted s1 := .locate hp
  have hnot : (!winSide base && s.held ag.gang y.epoch) = false := by
    rcases hheld with h | h <;> rw [h] <;> simp
  have hfree : s1.foldsLater ag.gang p (holdKey y.epoch (2 ^ 64 - 1)) = false := by
    cases p with
    | mem pa => exact hearly pa rfl
    | spad off | sdm off => rfl
  refine ⟨((s1.pokeAt ag p tag.width (foldCopies op tag copies (BitVec.ofNat 64 (s1.peekAt ag p tag.width))).toNat).chargeAt
    ag.gang p tag.width).modThread ag fun t =>
      { t with xfers := t.xfers.map fun z => if z = y then z.pastFold base op tag rest else z }, ?_, ?_⟩
  · show Host.Outcome.next (s.accessStep ag (.fold x)) = _
    unfold State.accessStep
    dsimp only
    rw [ht, Option.getD_some, hy]
    dsimp only
    rw [if_pos hr]
    unfold State.foldOne
    rw [hk]
    dsimp only
    rw [hnot, if_neg (by rw [hf]; nofun),
      show ((e, copies) :: rest)[if false = true then ([] : List Shown).length else 0]? = some (e, copies) from rfl]
    dsimp only
    rw [hp]
    dsimp only
    rw [hst]
    show Host.Outcome.next (if (s1.foldsLater ag.gang p (holdKey y.epoch (2 ^ 64 - 1))) = true then _ else _) = _
    rw [hfree]
    rfl
  · rw [hn.peekAt]
    have hmap (l : List Xfer) : (l.map fun z => if z = y then z.pastFold base op tag rest else z) =
        l.map fun z => if z = y then y.pastFold base op tag rest else z := by
      refine List.map_congr_left fun z _ => ?_
      split
      · rename_i hz
        rw [hz]
      · rfl
    rw [← hmap]
    exact ((((State.Leaves.refl ht).noted hn).pokeAt ht p _ _).noted (.charge ..)).modThread
      (k := fun l => l.map fun z => if z = y then z.pastFold base op tag rest else z) fun _ => rfl

/-! The load in flight. -/

/-- A load in flight whose bytes cannot be read yet waits (R116). -/
theorem exec_load_waits {f : Flight} (hf : t.flight = some f) (hr : s.engineRuns ag = true)
    (hv : s.loadAt ag 0 (.mem f.pa) f.n = none) : exec (.accessPerformed ag .load) s = .next s := by
  show Host.Outcome.next (s.accessStep ag .load) = _
  unfold State.accessStep State.performFlight
  dsimp only
  rw [if_pos hr, ht, Option.getD_some, hf]
  dsimp only
  rw [hv]
  rfl

/-- A load in flight takes its value, writes its register, and is over (R116, R117). -/
theorem exec_load_performed {f : Flight} (hf : t.flight = some f) (hr : s.engineRuns ag = true) {v : Nat}
    (hv : s.loadAt ag 0 (.mem f.pa) f.n = some v) :
    Answers (exec (.accessPerformed ag .load) s) fun u => u.mem = s.mem ∧
      ∃ z : Thread, u.thread? ag = some z ∧ z.flight = none ∧ z.pc = t.pc ∧ z.vq = t.vq ∧
        ∀ r, z.reg r = if r = f.d ∧ r ≠ 0 then loaded f.n f.signed v else t.reg r := by
  have hn : s.Noted ((s.noteRead ag (.mem f.pa) f.n).chargeAt ag.gang (.mem f.pa) f.n) :=
    .trans (.noteRead ..) (.charge ..)
  obtain ⟨t', ht', hnoted⟩ := hn.thread? ht
  refine ⟨((s.noteRead ag (.mem f.pa) f.n).chargeAt ag.gang (.mem f.pa) f.n).modThread ag fun t =>
    { t.setReg f.d (loaded f.n f.signed v) with flight := none }, ?_, hn.mem,
    { t'.setReg f.d (loaded f.n f.signed v) with flight := none }, ?_, rfl, ?_, ?_, fun r => ?_⟩
  · show Host.Outcome.next (s.accessStep ag .load) = _
    unfold State.accessStep State.performFlight
    dsimp only
    rw [if_pos hr, ht, Option.getD_some, hf]
    dsimp only
    rw [hv]
    rfl
  · rw [State.thread?_modThread, if_pos rfl, ht']
    rfl
  · rw [hnoted]
    exact Thread.setReg_pc ..
  · rw [hnoted]
    exact Thread.setReg_vq ..
  · rw [hnoted]
    exact Thread.reg_setReg ..

end

end Sys2Proof.Machine
end

section
/-! Orchard commands of a transfer: their start, their request and their two words (R348, R350, R359). -/

namespace Sys2Proof.Machine

/-- The numbers that an engine reads for an agent leave everything but notes and charges (R125, R412, R428). -/
theorem State.Noted.readNumbers {s u : State} {a : Agent} {len n : Nat} {va : Word} {l : List Nat}
    (h : s.readNumbers a len va n = .ok (l, u)) : s.Noted u := by
  induction n generalizing s va l with
  | zero => cases h; exact .refl _
  | succ n ih =>
    unfold State.readNumbers at h
    split at h
    · cases h
    · rename_i p s1 hp
      split at h
      · cases h
      · split at h
        · cases h
        · rename_i vs s2 hr
          cases h
          exact (State.Noted.locate hp).trans (((State.Noted.noteRead s1 a p len).trans (.chargeRun ..)).trans (ih hr))

/-- What starts a command of an opcode: EXPAND first reads its priors (R358, R359). -/
def State.orchStart (s : State) (a : Agent) (x opc : Nat) (w : List Word) : State :=
  if opc = 2 then
    match s.readNumbers a 2 ((w[2]?).getD 0) (((w[1]?).getD 0).toNat / 2 ^ 32) with
    | .ok (l, s) => s.orchStage a x w 1 (l.map (BitVec.ofNat 64))
    | .error c => if c = cWAIT then s else s.orchStage a x w 2 [oFAULT]
  else s.orchStage a x w 1 []

/-- A tile answers the request of a command, which is over if it has no words to write (R348, R350, R359). -/
def State.orchAsk (s : State) (a : Agent) (x : Nat) (w vals : List Word) : State :=
  match s.orchAt a ((w[0]?).getD 0) (orchRequest w vals) with
  | none => s.modXfer a x fun y => { y with fault := some (cORCHFULL, 0, 0) }
  | some (v, s) => if (w[3]?).getD 0 = 0 && (w[4]?).getD 0 = 0 then s.freeXfer a x else s.orchStage a x w 2 [v]

/-- The event of a command of each opcode. -/
abbrev orchEvents (a : Agent) (x : Nat) : List (Nat × Instr) := [(1, .desc a x), (2, .expand a x), (3, .backup a x)]

theorem exec_orchEvent {a : Agent} {x opc : Nat} {i : Instr} (hi : (opc, i) ∈ orchEvents a x) (s : State) :
    exec i s = .next (s.orchCmd a x opc (s.orchStart a x opc)) := by
  rcases hi with _ | ⟨_, _ | ⟨_, _ | ⟨_, hi⟩⟩⟩
  · rfl
  · rfl
  · rfl
  · cases hi

theorem State.Leaves.orchStage {u w : State} {a : Agent} {l : List Xfer} (h : u.Leaves w a l) {x : Nat} {y : Xfer}
    (hy : l[x]? = some y) (ws : List Word) (stage : Nat) (vals : List Word) :
    (u.orchStage a x ws stage vals).Leaves w a (putXfer l x (some { y with kind := .orchard ws stage vals })) := by
  have hl := h.modXfer x fun y => { y with kind := .orchard ws stage vals }
  rwa [modifyAt_of_getElem? hy] at hl

/-- A request to a tile leaves memory and the transfers of its agent (R348, R428). -/
theorem State.Leaves.orchAt {s u : State} {a : Agent} {t : Thread} (ht : s.thread? a = some t) {h v : Word}
    {f : OrchSlice → OrchReply} (ho : s.orchAt a h f = some (v, u)) : u.Leaves s a t.xfers := by
  unfold State.orchAt at ho
  dsimp only at ho
  split at ho
  · cases ho
    exact .refl ht
  · obtain ⟨r, -, hr⟩ := Option.map_eq_some_iff.1 ho
    cases hr
    have hl : { s with orch := modifyAt s.orch (handleTile h) fun _ => r.2 }.Leaves s a t.xfers :=
      ⟨rfl, rfl, rfl, t, ht, rfl⟩
    exact hl.noted (.charge ..)

section
variable {s : State} {ag : Agent} {t : Thread} {x : Nat} {y : Xfer} {w vals : List Word} {stage : Nat}
  (ht : s.thread? ag = some t) (hy : t.xfers[x]? = some y)
include ht hy

/-! The three commands. -/

section
variable (hk : y.kind = .orchard w stage vals) (hf : y.fault = none)
include hk hf

theorem State.orchCmd_eq (opc : Nat) (start : List Word → State) : s.orchCmd ag x opc start =
    if orchOpc w ≠ opc then s else if stage = 0 then start w else s.orchWrites ag x w stage vals := by
  unfold State.orchCmd
  rw [ht, Option.getD_some, hy]
  dsimp only
  rw [hk]
  dsimp only
  rw [hf]
  simp

variable {opc : Nat} {i : Instr} (hi : (opc, i) ∈ orchEvents ag x)
include hi

/-- The event of another command than the transfer's does nothing. -/
theorem exec_orchEvent_other (ho : orchOpc w ≠ opc) : exec i s = .next s := by
  rw [exec_orchEvent hi, State.orchCmd_eq ht hy hk hf, if_pos ho]

section
variable (ho : orchOpc w = opc)
include ho

theorem exec_orchEvent_start (h0 : stage = 0) : exec i s = .next (s.orchStart ag x opc w) := by
  rw [exec_orchEvent hi, State.orchCmd_eq ht hy hk hf, if_neg (not_not_intro ho), if_pos h0]

theorem exec_orchEvent_writes (h0 : stage ≠ 0) : exec i s = .next (s.orchWrites ag x w stage vals) := by
  rw [exec_orchEvent hi, State.orchCmd_eq ht hy hk hf, if_neg (not_not_intro ho), if_neg h0]

/-- DESC and BACKUP are ready for their request at once (R359). -/
theorem exec_orchEvent_ready (h0 : stage = 0) (h2 : opc ≠ 2) : Answers (exec i s) fun u =>
    u.Leaves s ag (putXfer t.xfers x (some { y with kind := .orchard w 1 [] })) := by
  refine ⟨s.orchStage ag x w 1 [], ?_, (State.Leaves.refl ht).orchStage hy w 1 []⟩
  rw [exec_orchEvent_start ht hy hk hf hi ho h0]
  exact congrArg _ (if_neg h2)

/-- EXPAND is ready for its request with the priors it has read (R358, R359). -/
theorem exec_orchEvent_priors (h0 : stage = 0) (h2 : opc = 2) {l : List Nat} {s1 : State}
    (hl : s.readNumbers ag 2 ((w[2]?).getD 0) (((w[1]?).getD 0).toNat / 2 ^ 32) = .ok (l, s1)) :
    Answers (exec i s) fun u =>
      u.Leaves s ag (putXfer t.xfers x (some { y with kind := .orchard w 1 (l.map (BitVec.ofNat 64)) })) := by
  refine ⟨s1.orchStage ag x w 1 (l.map (BitVec.ofNat 64)), ?_,
    ((State.Leaves.refl ht).noted (.readNumbers hl)).orchStage hy w 1 _⟩
  rw [exec_orchEvent_start ht hy hk hf hi ho h0]
  unfold State.orchStart
  rw [if_pos h2, hl]

/-- EXPAND waits for a channel in training before it reads its priors (R459). -/
theorem exec_orchEvent_waits (h0 : stage = 0) (h2 : opc = 2)
    (hl : s.readNumbers ag 2 ((w[2]?).getD 0) (((w[1]?).getD 0).toNat / 2 ^ 32) = .error cWAIT) : exec i s = .next s := by
  rw [exec_orchEvent_start ht hy hk hf hi ho h0]
  unfold State.orchStart
  rw [if_pos h2, hl]
  rfl

/-- A cause of its priors is EXPAND's result (R358). -/
theorem exec_orchEvent_faults (h0 : stage = 0) (h2 : opc = 2) {c : Nat} (hc : c ≠ cWAIT)
    (hl : s.readNumbers ag 2 ((w[2]?).getD 0) (((w[1]?).getD 0).toNat / 2 ^ 32) = .error c) :
    Answers (exec i s) fun u => u.Leaves s ag (putXfer t.xfers x (some { y with kind := .orchard w 2 [oFAULT] })) := by
  refine ⟨s.orchStage ag x w 2 [oFAULT], ?_, (State.Leaves.refl ht).orchStage hy w 2 _⟩
  rw [exec_orchEvent_start ht hy hk hf hi ho h0]
  unfold State.orchStart
  rw [if_pos h2, hl]
  dsimp only
  rw [if_neg hc]

/-- A command that waits for its request makes no step of its own (R359). -/
theorem exec_orchEvent_requested (h1 : stage = 1) : exec i s = .next s := by
  rw [exec_orchEvent_writes ht hy hk hf hi ho (by omega), h1]
  rfl

/-- A performed command makes its result word (R359). -/
theorem exec_orchEvent_result (h2 : stage = 2) : exec i s = .next (s.orchResult ag x w ((vals[0]?).getD 0)) := by
  rw [exec_orchEvent_writes ht hy hk hf hi ho (by omega), h2]
  rfl

/-- Then it makes its completion word (R359). -/
theorem exec_orchEvent_done (h3 : stage = 3) : exec i s = .next (s.orchDone ag x w) := by
  rw [exec_orchEvent_writes ht hy hk hf hi ho (by omega), h3]
  rfl

end

end

/-! The two words. -/

/-- A result that goes nowhere leaves only its stage. -/
theorem State.orchResult_none (h3 : (w[3]?).getD 0 = 0) (v : Word) : (s.orchResult ag x w v).Leaves s ag
    (putXfer t.xfers x (some { y with kind := .orchard w 3 [v] })) := by
  rw [show s.orchResult ag x w v = s.orchStage ag x w 3 [v] from if_pos h3]
  exact (State.Leaves.refl ht).orchStage hy w 3 [v]

/-- A result is written to its word (R359). -/
theorem State.orchResult_word {p : Place} {s1 : State} (h3 : (w[3]?).getD 0 ≠ 0) (hst : s1.stalled p = false)
    (hp : s.locate ag (s.nowLevel ag) .write false ((w[3]?).getD 0) 8 8 = .ok (p, s1)) (hh : s1.heldOver ag p 8 = false)
    (v : Word) : (s.orchResult ag x w v).Leaves (s.pokeAt ag p 8 v.toNat) ag
      (putXfer t.xfers x (some { y with kind := .orchard w 3 [v] })) := by
  have hstep : s.orchResult ag x w v = ((s1.pokeAt ag p 8 v.toNat).chargeAt ag.gang p 8).orchStage ag x w 3 [v] := by
    unfold State.orchResult
    dsimp only
    rw [if_neg h3, hp]
    dsimp only
    rw [hst, hh]
    rfl
  rw [hstep]
  exact ((((State.Leaves.refl ht).noted (.locate hp)).pokeAt ht p 8 _).noted (.charge ..)).orchStage hy w 3 [v]

omit hy in
/-- A command without a completion word is over. -/
theorem State.orchDone_none (h4 : (w[4]?).getD 0 = 0) : (s.orchDone ag x w).Leaves s ag (putXfer t.xfers x none) := by
  rw [show s.orchDone ag x w = s.freeXfer ag x from if_pos h4]
  exact (State.Leaves.refl ht).freeXfer x

omit hy in
/-- A command adds to its completion word, and is over (R359). -/
theorem State.orchDone_word {p : Place} {s1 : State} (h4 : (w[4]?).getD 0 ≠ 0) (hst : s1.stalled p = false)
    (hp : s.locate ag (s.nowLevel ag) .rmw false ((w[4]?).getD 0) 8 8 = .ok (p, s1)) (hh : s1.heldOver ag p 8 = false) :
    (s.orchDone ag x w).Leaves (s.pokeAt ag p 8 ((s.peekAt ag p 8 + ((w[5]?).getD 0).toNat) % 2 ^ 64)) ag
      (putXfer t.xfers x none) := by
  have hn : s.Noted s1 := .locate hp
  have hstep : s.orchDone ag x w = ((s1.pokeAt ag p 8 ((s1.peekAt ag p 8 + ((w[5]?).getD 0).toNat) % 2 ^ 64)).chargeAt
      ag.gang p 8).freeXfer ag x := by
    unfold State.orchDone
    dsimp only
    rw [if_neg h4, hp]
    dsimp only
    rw [hst, hh]
    rfl
  rw [hstep, hn.peekAt]
  exact ((((State.Leaves.refl ht).noted hn).pokeAt ht p 8 _).noted (.charge ..)).freeXfer x

/-! The request. -/

section
variable (hk : y.kind = .orchard w stage vals)
include hk

/-- Only a command that is ready for its request makes it (R359). -/
theorem exec_request_unready (h1 : stage ≠ 1) : exec (.orchardRequestPerformed ag x) s = .next s := by
  show execOrchardRequestPerformed ag x s = _
  unfold execOrchardRequestPerformed
  dsimp only
  rw [ht, Option.getD_some, hy]
  dsimp only
  rw [hk]
  split
  · rename_i heq
    cases heq
    exact absurd rfl h1
  · rfl

variable (hf : y.fault = none) (h1 : stage = 1)
include hf h1

theorem exec_request_eq : exec (.orchardRequestPerformed ag x) s =
    .next (if (t.xfers.take x).any fun z => z.unperformed && z.fault.isNone then s else s.orchAsk ag x w vals) := by
  show execOrchardRequestPerformed ag x s = _
  unfold execOrchardRequestPerformed
  dsimp only
  rw [ht, Option.getD_some, hy]
  dsimp only
  rw [hk, h1]
  show Host.Outcome.next (if (y.fault.isSome || (t.xfers.take x).any fun z => z.unperformed && z.fault.isNone) = true
    then s else s.orchAsk ag x w vals) = _
  rw [hf, Option.isSome_none, Bool.false_or]

/-- A request waits for every earlier one of the hart (R348, R349). -/
theorem exec_request_waits (he : ∃ z ∈ t.xfers.take x, z.unperformed = true ∧ z.fault = none) :
    exec (.orchardRequestPerformed ag x) s = .next s := by
  obtain ⟨z, hz, hu, hn⟩ := he
  rw [exec_request_eq ht hy hk hf h1, if_pos (List.any_eq_true.2 ⟨z, hz, by rw [hu, hn]; rfl⟩)]

section
variable (he : ∀ z ∈ t.xfers.take x, z.unperformed = true → z.fault ≠ none)
include he

/-- A request that no earlier one of the hart holds back asks its tile (R348). -/
theorem exec_request_asks : exec (.orchardRequestPerformed ag x) s = .next (s.orchAsk ag x w vals) := by
  rw [exec_request_eq ht hy hk hf h1, if_neg]
  rw [List.any_eq_true]
  rintro ⟨z, hz, hb⟩
  obtain ⟨hu, hn⟩ := Bool.and_eq_true_iff.1 hb
  exact he z hz hu (Option.isNone_iff_eq_none.1 hn)

/-- A failed allocation stops its command (R359). -/
theorem exec_request_full (ho : s.orchAt ag ((w[0]?).getD 0) (orchRequest w vals) = none) :
    Answers (exec (.orchardRequestPerformed ag x) s) fun u => u.orch = s.orch ∧
      u.Leaves s ag (putXfer t.xfers x (some { y with fault := some (cORCHFULL, 0, 0) })) := by
  refine ⟨s.modXfer ag x fun y => { y with fault := some (cORCHFULL, 0, 0) }, ?_, rfl, ?_⟩
  · rw [exec_request_asks ht hy hk hf h1 he]
    unfold State.orchAsk
    rw [ho]
  · have hl := (State.Leaves.refl ht).modXfer x fun y => { y with fault := some (cORCHFULL, 0, 0) }
    rwa [modifyAt_of_getElem? hy] at hl

/-- A performed command is over if it has no words to write, and otherwise goes on with its answer (R350, R359). -/
theorem exec_request_performed {v : Word} {s1 : State}
    (ho : s.orchAt ag ((w[0]?).getD 0) (orchRequest w vals) = some (v, s1)) :
    Answers (exec (.orchardRequestPerformed ag x) s) fun u => u.orch = s1.orch ∧
      u.Leaves s ag (putXfer t.xfers x
        (if (w[3]?).getD 0 = 0 ∧ (w[4]?).getD 0 = 0 then none else some { y with kind := .orchard w 2 [v] })) := by
  have hl : s1.Leaves s ag t.xfers := .orchAt ht ho
  by_cases hw : (w[3]?).getD 0 = 0 ∧ (w[4]?).getD 0 = 0
  · refine ⟨s1.freeXfer ag x, ?_, rfl, ?_⟩
    · rw [exec_request_asks ht hy hk hf h1 he]
      unfold State.orchAsk
      rw [ho]
      dsimp only
      rw [if_pos (by simpa using hw)]
    · rw [if_pos hw]
      exact hl.freeXfer x
  · refine ⟨s1.orchStage ag x w 2 [v], ?_, rfl, ?_⟩
    · rw [exec_request_asks ht hy hk hf h1 he]
      unfold State.orchAsk
      rw [ho]
      dsimp only
      rw [if_neg (by simpa using hw)]
    · rw [if_neg hw]
      exact hl.orchStage hy w 2 [v]

end

end

end

end Sys2Proof.Machine
end

section
/-! The steps of engines for an agent, together (05_ordering.md, 09_vmem.md, 14_sower_orchard.md). -/

namespace Sys2Proof.Machine

/-! What a sector makes of its copy, as R244 and R245 say it. -/

/-- How far a copy that stood at a sector has come with it: to the next sector of its row, to the next row, or through its
last one. -/
def State.CopyCameOn (u : State) (a : Agent) (l : List Xfer) (x : Nat) (y : Xfer) (c : CopyCmd) : Prop :=
  (y.sect + 1 < c.perRow →
    ∃ v, u.thread? a = some v ∧ v.xfers = putXfer l x (some { y with sect := y.sect + 1 })) ∧
  (c.perRow ≤ y.sect + 1 → y.row + 1 < c.rows →
    ∃ v, u.thread? a = some v ∧ v.xfers = putXfer l x (some { y with row := y.row + 1, sect := 0 })) ∧
  (c.perRow ≤ y.sect + 1 → c.rows = y.row + 1 → ∃ v, u.thread? a = some v ∧
    v.xfers = putXfer l x (if c.done = 0 then none else some { y with row := y.row + 1, sect := 0, moved := true }))

theorem State.Leaves.copyCameOn {u w : State} {a : Agent} {l : List Xfer} {x : Nat} {y : Xfer} {c : CopyCmd}
    (h : u.Leaves w a (putXfer l x (y.afterSector c))) : u.CopyCameOn a l x y c := by
  have hx := h.xfers
  unfold Xfer.afterSector at hx
  refine ⟨fun hs => ?_, fun hs hr => ?_, fun hs hr => ?_⟩
  · rwa [if_pos hs] at hx
  · rwa [if_neg (Nat.not_lt.2 hs), if_pos hr] at hx
  · rwa [if_neg (Nat.not_lt.2 hs), if_neg (by omega)] at hx

/-- What an answer leaves of memory and of the transfers of its agent. -/
theorem Answers.mem_xfers {o : Out} {w : State} {a : Agent} {l : List Xfer} (h : Answers o fun u => u.Leaves w a l) :
    Answers o fun u => u.mem = w.mem ∧ ∃ v, u.thread? a = some v ∧ v.xfers = l := by
  obtain ⟨u, hu, hl⟩ := h
  exact ⟨u, hu, hl.mem, hl.xfers⟩

/-! Transfers that are not there. -/

section
variable {s : State} {ag : Agent} {t : Thread} {x : Nat} (ht : s.thread? ag = some t) (hx : t.xfers[x]? = none)
include ht hx

theorem exec_copyCommand_missing (bank : Nat) : exec (.copyCommand ag ⟨x, bank⟩) s = .next s := by
  show Host.Outcome.next (s.copyStep ag x bank) = _
  unfold State.copyStep
  rw [ht, Option.getD_some, hx]

theorem exec_copyCompletion_missing : exec (.copyCompletion ag x) s = .next s := by
  show Host.Outcome.next (s.copyDone ag x) = _
  unfold State.copyDone
  rw [ht, Option.getD_some, hx]

theorem exec_orchEvent_missing {opc : Nat} {i : Instr} (hi : (opc, i) ∈ orchEvents ag x) : exec i s = .next s := by
  rw [exec_orchEvent hi]
  unfold State.orchCmd
  rw [ht, Option.getD_some, hx]

theorem exec_request_missing : exec (.orchardRequestPerformed ag x) s = .next s := by
  show execOrchardRequestPerformed ag x s = _
  unfold execOrchardRequestPerformed
  dsimp only
  rw [ht, Option.getD_some, hx]

theorem exec_missing (bank : Nat) : ∀ i ∈ ([.copyCommand ag ⟨x, bank⟩, .copyCompletion ag x, .desc ag x, .expand ag x,
    .backup ag x, .orchardRequestPerformed ag x] : List Instr), exec i s = .next s := by
  have hdesc : (1, .desc ag x) ∈ orchEvents ag x := .head _
  have hexpand : (2, .expand ag x) ∈ orchEvents ag x := .tail _ (.head _)
  have hbackup : (3, .backup ag x) ∈ orchEvents ag x := .tail _ (.tail _ (.head _))
  simp only [List.forall_mem_cons]
  exact ⟨exec_copyCommand_missing ht hx bank, exec_copyCompletion_missing ht hx, exec_orchEvent_missing ht hx hdesc,
    exec_orchEvent_missing ht hx hexpand, exec_orchEvent_missing ht hx hbackup, exec_request_missing ht hx,
    List.forall_mem_nil _⟩

end

/-- Settles O58: every clause is the rule of its step, whose bytes and transfers `State.Leaves` gives. -/
theorem engineSteps : Obligations.EngineSteps := by
  unfold Obligations.EngineSteps
  intro s ag x t ht
  refine ⟨exec_missing ht, fun y c hy hk hf hr => ?copy, fun e he => ?entry, ?fold, ?load, ?orchard⟩
  case copy =>
    dsimp only
    refine ⟨fun bank hm => exec_copyCommand_moved ht hy hk hm bank, exec_copyCompletion_unmoved ht hy hk,
      fun bank hm hrow hsect ha hb => ⟨fun p s1 hfill hp hst hh => ?fill, fun p q s1 s2 hfill hp hst hq hst2 hh => ?read,
        fun e hfill he hp => ?stop⟩, fun hm p s1 hp hst hh => ?done⟩
    case fill =>
      obtain ⟨u, hu, hl⟩ := exec_copyCommand_lands ht hy hk hf hr hm hrow hsect ha hb
        ((State.Leaves.refl ht).noted (.locate hp)) (State.copySector_fill hfill
          (by rw [CopyCmd.dstAt, Xfer.sector_row hsect, Xfer.sector_sect hsect]; exact hp) hst hh)
      exact ⟨u, hu, hl.copyCameOn, hl.mem, hl.spad, hl.sdm⟩
    case read =>
      have hn : s.Noted s1 := .locate hp
      have hn2 : s1.Noted s2 := .trans (.noteRead ..) (.trans (.charge ..) (.locate hq))
      obtain ⟨u, hu, hl⟩ := exec_copyCommand_lands ht hy hk hf hr hm hrow hsect ha hb
        ((State.Leaves.refl ht).noted (hn.trans hn2)) (State.copySector_read hfill
          (by rw [CopyCmd.srcAt, Xfer.sector_row hsect, Xfer.sector_sect hsect]; exact hp) hst
          (by rw [CopyCmd.dstAt, Xfer.sector_row hsect, Xfer.sector_sect hsect]; exact hq) hst2 hh)
      rw [hn.seenAt] at hl
      exact ⟨u, hu, hl.copyCameOn, hl.mem, hl.spad, hl.sdm⟩
    case stop => exact (exec_copyCommand_stops ht hy hk hf hr hm hrow hsect ha hb hfill he hp).mem_xfers
    case done =>
      obtain ⟨u, hu, hl⟩ := exec_copyCompletion ht hy hk hf hr hm hp hst hh
      exact ⟨u, hu, hl.xfers, hl.mem, hl.spad, hl.sdm⟩
  case entry =>
    exact ⟨exec_entry_waits ht he, exec_entry_performed ht he, exec_entry_shown ht he⟩
  case fold =>
    intro y base op tag e copies rest hy hk hf hr win hheld p s1 hp hst hearly
    obtain ⟨u, hu, hl⟩ := exec_fold ht hy hk hf hr hheld hp hst hearly
    exact ⟨u, hu, hl.mem, hl.spad, hl.sdm, hl.xfers⟩
  case load =>
    exact fun f hf hr => ⟨exec_load_waits ht hf hr, fun v hv => exec_load_performed ht hf hr hv⟩
  case orchard =>
    intro y w vals stage hy hk hf
    dsimp only
    refine ⟨fun opc i hi => ⟨exec_orchEvent_other ht hy hk hf hi, fun ho => ?event⟩, exec_request_unready ht hy hk,
      fun h1 he => exec_request_waits ht hy hk hf h1 he, fun h1 he => ⟨fun hfull => ?full, fun v s1 hasked => ?performed⟩⟩
    case event =>
      refine ⟨fun h0 h2 => (exec_orchEvent_ready ht hy hk hf hi ho h0 h2).mem_xfers,
        fun h0 h2 => ⟨fun l s1 hl => (exec_orchEvent_priors ht hy hk hf hi ho h0 h2 hl).mem_xfers, fun e he => ?_⟩,
        exec_orchEvent_requested ht hy hk hf hi ho, fun h2 hw => ?_, fun pa s1 h2 hw hst hp hh => ?_, fun h3 hw => ?_,
        fun pa s1 h3 hw hst hp hh => ?_⟩
      · split
        · rename_i hwait
          exact exec_orchEvent_waits ht hy hk hf hi ho h0 h2 (hwait ▸ he)
        · rename_i hcause
          exact (exec_orchEvent_faults ht hy hk hf hi ho h0 h2 hcause he).mem_xfers
      · have hl := State.orchResult_none ht hy hw ((vals[0]?).getD 0)
        exact ⟨_, exec_orchEvent_result ht hy hk hf hi ho h2, hl.mem, hl.xfers⟩
      · have hl := State.orchResult_word (p := .mem pa) ht hy hw hst hp hh ((vals[0]?).getD 0)
        exact ⟨_, exec_orchEvent_result ht hy hk hf hi ho h2, hl.mem.trans (State.mem_pokeAt_mem ..), hl.xfers⟩
      · have hl := State.orchDone_none (x := x) ht hw
        exact ⟨_, exec_orchEvent_done ht hy hk hf hi ho h3, hl.mem, hl.xfers⟩
      · have hl := State.orchDone_word (p := .mem pa) (x := x) ht hw hst hp hh
        exact ⟨_, exec_orchEvent_done ht hy hk hf hi ho h3, hl.mem.trans (State.mem_pokeAt_mem ..), hl.xfers⟩
    case full =>
      obtain ⟨u, hu, ho, hl⟩ := exec_request_full ht hy hk hf h1 he hfull
      exact ⟨u, hu, hl.mem, ho, hl.xfers⟩
    case performed =>
      obtain ⟨u, hu, ho, hl⟩ := exec_request_performed ht hy hk hf h1 he hasked
      have hx := hl.xfers
      refine ⟨u, hu, hl.mem, ho, fun hw => ?_, fun hw => ?_⟩
      · rwa [if_pos hw] at hx
      · rwa [if_neg hw] at hx

end Sys2Proof.Machine
end

section
/-! PROOFS. The two directions of the round trip of 06_encoding.md. What a reader gives has the fields it was given, so
a word that decodes is the word of its instruction; and every instruction's own round trip gives the other direction. -/

namespace Sys2Proof.Laws

/-- What a reader gives, if anything, has the fields `x`. -/
def Reads (x : Fields) (o : Option Instr) : Prop := ∀ i, o = some i → encodeFields i = some x

/-- A reader that refuses gives nothing to check. -/
theorem reads_none (x : Fields) : Reads x none := nofun

/-- A reader that answers an instruction answers one of the fields it read. -/
theorem reads_some {x y : Fields} {i : Instr} (h : encodeFields i = some y) (hy : y = x) :
    Reads x (some i) := by
  rintro _ ⟨⟩
  rw [h, hy]

/-- One function code of a reader, and the codes after it. -/
theorem reads_branch {x y : Fields} {i : Instr} {o : Option Instr} {p : Prop} [Decidable p]
    (h : encodeFields i = some y) (hy : p → y = x) (ho : Reads x o) :
    Reads x (if p then some i else o) := by
  split
  · exact reads_some h (hy ‹_›)
  · exact ho

/-- Fields are given ones when each of the four is. -/
theorem mk_eq_iff {x : Fields} {o d a : BitVec 6} {l : BitVec 14} :
    Fields.mk o d a l = x ↔ o = x.op ∧ d = x.d ∧ a = x.a ∧ l = x.low := by
  cases x; simp

/-- Bits of the bits from `i` on. -/
theorem extractLsb'_extractLsb' {w : Nat} (x : BitVec w) {i j m n : Nat} (h : j + n ≤ m) :
    (x.extractLsb' i m).extractLsb' j n = x.extractLsb' (i + j) n := by
  ext k hk
  simp [Nat.add_assoc, show j + k < m by omega]

/-- One bit of a vector as a vector, which is how a word holds a flag. -/
theorem extractLsb'_one {w : Nat} (x : BitVec w) {i : Nat} (h : i < w) :
    x.extractLsb' i 1 = BitVec.ofBool x[i] := by
  ext j hj
  obtain rfl : j = 0 := by omega
  simp [h]

/-- A major opcode from its number, on which `readFields` splits. -/
theorem eq_ofNat_of_toNat {w n : Nat} {x : BitVec w} (h : x.toNat = n) : x = BitVec.ofNat w n := by
  rw [← h, BitVec.ofNat_toNat, BitVec.setWidth_eq]

/-- The immediate of the formats with fields O, D and I (R140) has the bits of A and of the low field. -/
theorem extractLsb'_append_20 (a : BitVec 6) (l : BitVec 14) :
    (a ++ l : BitVec 20).extractLsb' 14 6 = a ∧ (a ++ l : BitVec 20).extractLsb' 0 14 = l :=
  ⟨BitVec.extractLsb'_append_eq_left, BitVec.extractLsb'_append_eq_right⟩

variable {x : Fields}

/-- The majors 0x20 to 0x23, whose last two bits are G and L. -/
theorem reads_readMajor20 (h : x.op.extractLsb' 2 4 = 8) : Reads x (readMajor20 x) := by
  repeat' refine reads_branch rfl (fun _ => ?_) ?_
  any_goals exact reads_none x
  all_goals simp [mk_eq_iff, extractLsb'_extractLsb', extractLsb'_one, *]

/-- The scalar majors, as a hart reads them. -/
theorem reads_scalar (h : x.op.toNat < 0x20) : Reads x (readFields .execute x) := by
  unfold readFields
  dsimp only
  split
  any_goals omega
  all_goals repeat' refine reads_branch rfl (fun _ => ?_) ?_
  any_goals exact reads_none x
  any_goals refine reads_some rfl ?_
  all_goals simp [mk_eq_iff, extractLsb'_extractLsb', extractLsb'_one, extractLsb'_append_20,
    eq_ofNat_of_toNat ‹x.op.toNat = _›, *]

/-- The majors of the queued and the privileged forms, as a hart reads them. -/
theorem reads_queued (h : 0x20 ≤ x.op.toNat) : Reads x (readFields .execute x) := by
  unfold readFields
  dsimp only
  split
  any_goals omega
  any_goals exact reads_readMajor20 (by rw [eq_ofNat_of_toNat ‹x.op.toNat = _›]; rfl)
  all_goals repeat' refine reads_branch rfl (fun _ => ?_) ?_
  any_goals exact reads_none x
  all_goals simp [mk_eq_iff, extractLsb'_extractLsb', extractLsb'_one, eq_ofNat_of_toNat ‹x.op.toNat = _›, *]

/-- The majors that an access-unit context reads in its own way (R155, R256). -/
noncomputable def accessMajors : List (BitVec 6 × (Fields → Option Instr)) := [
  (0x1E, readMajor1EAccess), (0x30, readMajor30Access), (0x31, readMajor31Access), (0x32, readMajor32Access),
  (0x33, readMajor33Access), (0x34, readMajor34Access), (0x35, readMajor35Access)]

/-- An access-unit context reads a word as a hart does, but for the majors of `accessMajors`. -/
theorem readFields_access (x : Fields) : readFields .access x = readFields .execute x ∨
    ∃ p ∈ accessMajors, x.op = p.1 ∧ readFields .access x = p.2 x := by
  unfold readFields
  dsimp only
  split
  case h_65 => exact .inl (by simp [*])
  all_goals simp [accessMajors, eq_ofNat_of_toNat ‹x.op.toNat = _›]

/-- What a context reads of those majors has the fields read. -/
theorem reads_accessMajors : ∀ p ∈ accessMajors, x.op = p.1 → Reads x (p.2 x) := by
  simp only [accessMajors, List.forall_mem_cons, List.not_mem_nil, false_imp_iff, implies_true, and_true]
  refine ⟨?_, ?_, ?_, ?_, ?_, ?_, ?_⟩
  all_goals intro h
  all_goals repeat' refine reads_branch rfl (fun _ => ?_) ?_
  any_goals exact reads_none x
  any_goals refine reads_some rfl ?_
  all_goals simp [mk_eq_iff, extractLsb'_extractLsb', extractLsb'_one, *]

/-- What a hart reads has the fields read. -/
theorem reads_execute : Reads x (readFields .execute x) :=
  (Nat.lt_or_ge x.op.toNat 0x20).elim reads_scalar reads_queued

/-- What either decoder reads has the fields read: no bit is ignored. -/
theorem reads_readFields (c : Ctx) : Reads x (readFields c x) := by
  cases c with
  | execute => exact reads_execute
  | access =>
    obtain h | ⟨p, hp, ho, h⟩ := readFields_access x <;> rw [h]
    · exact reads_execute
    · exact reads_accessMajors p hp ho

/-- The four fields of a word, put together, are the word. -/
theorem word_ofWord (w : Word32) : (Fields.ofWord w).word = w := by
  unfold Fields.word Fields.ofWord
  dsimp only
  rw [BitVec.extractLsb'_append_extractLsb'_eq_extractLsb' (show 26 = 20 + 6 by decide),
    BitVec.extractLsb'_append_extractLsb'_eq_extractLsb' (show 20 = 14 + 6 by decide),
    BitVec.extractLsb'_append_extractLsb'_eq_extractLsb' (show 14 = 0 + 14 by decide)]
  exact BitVec.extractLsb'_eq_self

/-- Settles O3: what reads the fields of a word gives an instruction of those fields. -/
theorem encodeOfDecode : Obligations.EncodeOfDecode := by
  unfold Obligations.EncodeOfDecode Sys2Proof.decode
  intro c w i h
  split at h
  · cases h
  split at h
  · split at h
    · cases h
      refine ⟨‹_›, ?_⟩
      unfold encode
      rw [reads_readFields c i ‹_›, Option.map_some, word_ofWord]
    · cases h
  · cases h

/-- The round trip of every instruction: its own lemma for each constructor, in the order of `Instr`. -/
theorem roundTrip (i : Instr) : RoundTrip.Statement i :=
  @Instr.casesOn RoundTrip.Statement i
    RoundTrip.copyCommand RoundTrip.copyCompletion RoundTrip.adapt RoundTrip.adaptStatus RoundTrip.desc
    RoundTrip.expand RoundTrip.backup RoundTrip.orchardRequestPerformed RoundTrip.mopenBuildEnd
    RoundTrip.sheafSetBuilt RoundTrip.mrecutStatus RoundTrip.streamEntry RoundTrip.chunkResult
    RoundTrip.sq3Contribution RoundTrip.lq7Receive RoundTrip.accessContextStop RoundTrip.gangRetirement
    RoundTrip.trapEntry RoundTrip.suspend RoundTrip.killgang RoundTrip.killlaunch RoundTrip.dhalt RoundTrip.resume
    RoundTrip.dresume RoundTrip.gangHalt RoundTrip.contextCommandStatus RoundTrip.version RoundTrip.groupset
    RoundTrip.routeset RoundTrip.attest RoundTrip.linkstat RoundTrip.dispatchSample RoundTrip.placementStep
    RoundTrip.gleanerBoundary RoundTrip.gleanerArrival RoundTrip.shelfUnitTick RoundTrip.turnerRenewal
    RoundTrip.turnerMiss RoundTrip.registerRefresh RoundTrip.wcEntryTimeout RoundTrip.granaryTick
    RoundTrip.granaryDebit RoundTrip.arbiterPeriod RoundTrip.clockLower RoundTrip.clockRaise RoundTrip.thermtrip
    RoundTrip.moduleReset RoundTrip.selfTest RoundTrip.dclTraining RoundTrip.bgo RoundTrip.imageCopied
    RoundTrip.fboot RoundTrip.dclFailure RoundTrip.portDown RoundTrip.cxlPortLost RoundTrip.doorbellOrdinary
    RoundTrip.doorbellSupervisor RoundTrip.doorbellDbell RoundTrip.eventW1c RoundTrip.seventW1c
    RoundTrip.sdstatRead RoundTrip.fpartWrite RoundTrip.fgrateWrite RoundTrip.fbtabWrite RoundTrip.fctest
    RoundTrip.frcommit RoundTrip.fsvnWrite RoundTrip.fhtest RoundTrip.lgmodeWrite RoundTrip.qenWrite
    RoundTrip.cgroupWrite RoundTrip.csrWrite RoundTrip.elementGroupCompletion RoundTrip.matrixUnitCompletion
    RoundTrip.accessPerformed RoundTrip.catalogueAnswer RoundTrip.portRetrained RoundTrip.add RoundTrip.sub
    RoundTrip.and RoundTrip.or RoundTrip.xor RoundTrip.andn RoundTrip.sll RoundTrip.srl RoundTrip.sra RoundTrip.slt
    RoundTrip.sltu RoundTrip.seq RoundTrip.min RoundTrip.max RoundTrip.minu RoundTrip.maxu RoundTrip.mul
    RoundTrip.mulh RoundTrip.mulhu RoundTrip.div RoundTrip.divu RoundTrip.rem RoundTrip.remu RoundTrip.clz
    RoundTrip.ctz RoundTrip.popc RoundTrip.addi RoundTrip.andi RoundTrip.ori RoundTrip.xori RoundTrip.slti
    RoundTrip.sltiu RoundTrip.slli RoundTrip.srli RoundTrip.srai RoundTrip.lui RoundTrip.addpc RoundTrip.faddD
    RoundTrip.fsubD RoundTrip.fmulD RoundTrip.fdivD RoundTrip.fsqrtD RoundTrip.fminD RoundTrip.fmaxD
    RoundTrip.fsgnjD RoundTrip.fsgnjnD RoundTrip.fsgnjxD RoundTrip.feqD RoundTrip.fltD RoundTrip.fleD
    RoundTrip.fclassD RoundTrip.fcvtLD RoundTrip.fcvtLuD RoundTrip.fcvtFlD RoundTrip.fcvtFluD RoundTrip.fcvtWD
    RoundTrip.faddS RoundTrip.fsubS RoundTrip.fmulS RoundTrip.fdivS RoundTrip.fsqrtS RoundTrip.fminS
    RoundTrip.fmaxS RoundTrip.fsgnjS RoundTrip.fsgnjnS RoundTrip.fsgnjxS RoundTrip.feqS RoundTrip.fltS
    RoundTrip.fleS RoundTrip.fclassS RoundTrip.fcvtLS RoundTrip.fcvtLuS RoundTrip.fcvtFlS RoundTrip.fcvtFluS
    RoundTrip.fcvtWS RoundTrip.fmaddD RoundTrip.fmsubD RoundTrip.fnmaddD RoundTrip.fnmsubD RoundTrip.fmaddS
    RoundTrip.fmsubS RoundTrip.fnmaddS RoundTrip.fnmsubS RoundTrip.lb RoundTrip.lh RoundTrip.lw RoundTrip.ld
    RoundTrip.lbu RoundTrip.lhu RoundTrip.lwu RoundTrip.sb RoundTrip.sh RoundTrip.sw RoundTrip.sd RoundTrip.lbAq
    RoundTrip.lhAq RoundTrip.lwAq RoundTrip.ldAq RoundTrip.lbuAq RoundTrip.lhuAq RoundTrip.lwuAq RoundTrip.sbRl
    RoundTrip.shRl RoundTrip.swRl RoundTrip.sdRl RoundTrip.amoadd RoundTrip.amoswap RoundTrip.amoand
    RoundTrip.amoor RoundTrip.amoxor RoundTrip.amomin RoundTrip.amomax RoundTrip.amominu RoundTrip.amomaxu
    RoundTrip.amocas RoundTrip.amoaddTw RoundTrip.amofadd RoundTrip.beq RoundTrip.bne RoundTrip.blt RoundTrip.bge
    RoundTrip.bltu RoundTrip.bgeu RoundTrip.jal RoundTrip.jalr RoundTrip.fence RoundTrip.fenceSv RoundTrip.ifence
    RoundTrip.waitw RoundTrip.barsync RoundTrip.barrive RoundTrip.bardrop RoundTrip.barwait RoundTrip.csrrw
    RoundTrip.csrrs RoundTrip.csrrc RoundTrip.taskget RoundTrip.taskput RoundTrip.launch RoundTrip.kend
    RoundTrip.accessKend RoundTrip.brk RoundTrip.bqpop RoundTrip.bqpush RoundTrip.vadd RoundTrip.vsub
    RoundTrip.vmul RoundTrip.vdiv RoundTrip.vmin RoundTrip.vmax RoundTrip.vsadd RoundTrip.vssub RoundTrip.vmulh
    RoundTrip.vrem RoundTrip.vand RoundTrip.vor RoundTrip.vxor RoundTrip.vsll RoundTrip.vshr RoundTrip.vsqrt
    RoundTrip.vabs RoundTrip.vneg RoundTrip.vsgnj RoundTrip.vsgnjn RoundTrip.vsgnjx RoundTrip.vclass RoundTrip.vmv
    RoundTrip.vfmadd RoundTrip.vfmsub RoundTrip.vfnmadd RoundTrip.vfnmsub RoundTrip.vaddAcc RoundTrip.vsubAcc
    RoundTrip.vmulAcc RoundTrip.vdivAcc RoundTrip.vminAcc RoundTrip.vmaxAcc RoundTrip.vsaddAcc RoundTrip.vssubAcc
    RoundTrip.vmulhAcc RoundTrip.vremAcc RoundTrip.vandAcc RoundTrip.vorAcc RoundTrip.vxorAcc RoundTrip.vsllAcc
    RoundTrip.vshrAcc RoundTrip.vsqrtAcc RoundTrip.vabsAcc RoundTrip.vnegAcc RoundTrip.vsgnjAcc RoundTrip.vsgnjnAcc
    RoundTrip.vsgnjxAcc RoundTrip.vclassAcc RoundTrip.vmvAcc RoundTrip.vfmaddAcc RoundTrip.vfmsubAcc
    RoundTrip.vfnmaddAcc RoundTrip.vfnmsubAcc RoundTrip.vcmpeq RoundTrip.vcmpne RoundTrip.vcmplt RoundTrip.vcmple
    RoundTrip.vcmpgt RoundTrip.vcmpge RoundTrip.vcmpunord RoundTrip.vmand RoundTrip.vmor RoundTrip.vmxor
    RoundTrip.vmandn RoundTrip.vmnot RoundTrip.vmpopc RoundTrip.vmfirst RoundTrip.vmset RoundTrip.vcvt
    RoundTrip.vslideup RoundTrip.vslidedn RoundTrip.vgathr RoundTrip.vsend RoundTrip.vcmprs RoundTrip.vexpnd
    RoundTrip.vresh RoundTrip.vbcast RoundTrip.vslide1up RoundTrip.vslide1dn RoundTrip.vredsum RoundTrip.vredmin
    RoundTrip.vredmax RoundTrip.vredand RoundTrip.vredor RoundTrip.vredxor RoundTrip.vscansum RoundTrip.vscanmin
    RoundTrip.vscanmax RoundTrip.vfunc RoundTrip.vcfg RoundTrip.vsetvl RoundTrip.vsetvlP RoundTrip.vid
    RoundTrip.vsel RoundTrip.vgete RoundTrip.vsete RoundTrip.vsalsel RoundTrip.vld RoundTrip.vlds RoundTrip.vldx
    RoundTrip.vst RoundTrip.vsts RoundTrip.vstx RoundTrip.vwin RoundTrip.vwacc RoundTrip.vwmerge RoundTrip.vlsync
    RoundTrip.vfence RoundTrip.qdrain RoundTrip.spalloc RoundTrip.spfree RoundTrip.sprenew RoundTrip.spage
    RoundTrip.vfar RoundTrip.mma RoundTrip.mld RoundTrip.mst RoundTrip.mzero RoundTrip.mwrow RoundTrip.maddrow
    RoundTrip.mwait RoundTrip.mopen RoundTrip.mclose RoundTrip.mstream RoundTrip.msheaf RoundTrip.mgenrel
    RoundTrip.mrecut RoundTrip.mquery RoundTrip.vsowF32 RoundTrip.vsowF64 RoundTrip.vsowN32 RoundTrip.sowload
    RoundTrip.onew RoundTrip.odesc RoundTrip.oexpand RoundTrip.obackup RoundTrip.oreuse RoundTrip.ofree
    RoundTrip.oread RoundTrip.cmdbCopy RoundTrip.cmdbCat RoundTrip.cmdbOrch RoundTrip.tret RoundTrip.ctxsave
    RoundTrip.ctxload RoundTrip.xlinv RoundTrip.wfi RoundTrip.fwcall RoundTrip.haltc RoundTrip.haltcRelease
    RoundTrip.ald RoundTrip.aldCl RoundTrip.agather RoundTrip.atrans RoundTrip.ast RoundTrip.astCl RoundTrip.ascat
    RoundTrip.afar

/-- Settles O2, by the round trip of each constructor. -/
theorem decodeOfEncode : Obligations.DecodeOfEncode :=
  fun c i w hw he => roundTrip i c w hw he

/-- Settles O1: a sample word is the word of its instruction, and the two others are refused. -/
theorem sampleWordsDecode : Obligations.SampleWordsDecode := by
  unfold Obligations.SampleWordsDecode
  refine ⟨?_, ?_, ?_, ?_, ?_, ?_, ?_, ?_, ?_, ?_, ?_, if_pos rfl, if_pos rfl, rfl⟩
  all_goals exact decodeOfEncode _ _ _ rfl rfl

end Sys2Proof.Laws
end

section
/-! PROOFS. Which of the two contexts reads a form (R155). -/

namespace Sys2Proof.Machine

/-- Outside a hart a hart's form is the ILLOP trap (R155). -/
theorem State.hart_of_not_onHart {s : State} (h : s.live = true) (hh : s.onHart = false) (k : Out) :
    s.hart k = s.illop := by
  simp [State.hart, State.agent_of_live h, hh]

/-- On a hart an access unit's form is the ILLOP trap (R155). -/
theorem State.access_of_onHart {s : State} (h : s.live = true) (hh : s.onHart = true) (k : Out) :
    s.access k = s.illop := by
  simp [State.access, State.agent_of_live h, hh]

/-- Every form of `hartOnly` asks first whether it runs on a hart. -/
theorem exec_hartOnly {i : Instr} (h : hartOnly i = true) (s : State) : ∃ k, exec i s = s.hart k := by
  cases i
  any_goals cases h
  all_goals exact ⟨_, rfl⟩

/-- Every form of `accessOnly` asks first whether it runs in an access-unit context. -/
theorem exec_accessOnly {i : Instr} (h : accessOnly i = true) (s : State) : ∃ k, exec i s = s.access k := by
  cases i
  any_goals cases h
  all_goals exact ⟨_, rfl⟩

/-- Settles O15, from the guard that each form of a hart, and each of an access unit, opens with. -/
theorem hartFormsInContext : Obligations.HartFormsInContext := by
  unfold Obligations.HartFormsInContext
  refine fun i s hl => ⟨fun h hh => ?_, fun h hh => ?_⟩
  · obtain ⟨k, hk⟩ := exec_hartOnly h s
    rw [hk, State.hart_of_not_onHart hl hh]
  · obtain ⟨k, hk⟩ := exec_accessOnly h s
    rw [hk, State.access_of_onHart hl hh]

end Sys2Proof.Machine
end

section
/-! PROOFS. A step never ends the run. A fault comes of a form or a trap with no agent in execution: an issue has one,
and what the forms share keeps it up to every trap they raise; the moves that no instruction makes raise none. -/

namespace Sys2Proof.Machine

/-- What an instruction or a step comes to is a next state. -/
def IsNext (o : Out) : Prop := ∃ t, o = .next t

theorem IsNext.next (s : State) : IsNext (.next s) := ⟨s, rfl⟩

theorem IsNext.ite {p : Prop} [Decidable p] {x y : Out} (hx : IsNext x) (hy : IsNext y) :
    IsNext (if p then x else y) := by
  split
  · exact hx
  · exact hy

/-- What goes on from a next state is one. -/
theorem IsNext.mapNext {o : Out} (h : IsNext o) (f : State → State) : IsNext (mapNext o f) := by
  obtain ⟨t, rfl⟩ := h
  exact .next (f t)

section
variable {s : State}

/-! The traps of the agent in execution. -/

/-- A trap is a next state as long as some agent is in execution. -/
theorem IsNext.trapWith (h : s.cur ≠ none) (c : Cause) : IsNext (s.trapWith c) := by
  obtain ⟨⟨gi, r⟩, hc⟩ := Option.ne_none_iff_exists'.1 h
  unfold State.trapWith
  rw [hc]
  cases r with
  | access => exact .next _
  | hart n =>
    dsimp only
    split
    · exact .ite (.next _) (.next _)
    · exact .next _

theorem IsNext.trap (h : s.cur ≠ none) (code : Nat) : IsNext (s.trap code) := .trapWith h _

theorem IsNext.illop (h : s.cur ≠ none) : IsNext s.illop := .trap h _

theorem IsNext.trapMem (h : s.cur ≠ none) (e : MemErr) (acc : Acc) : IsNext (s.trapMem e acc) := .trapWith h _

theorem State.setMe_cur_ne_none (h : s.cur ≠ none) (f : Thread → Thread) : (s.setMe f).cur ≠ none := by
  rwa [State.setMe_cur]

theorem IsNext.trapXfer (h : s.cur ≠ none) (x : Xfer) : IsNext (s.trapXfer x) := by
  unfold State.trapXfer
  refine .trapWith ?_ _
  split
  · split
    · exact h
    · exact State.setMe_cur_ne_none h _
  · exact State.setMe_cur_ne_none h _

/-! Who may issue a form. -/

theorem State.cur_ne_none (h : s.live = true) : s.cur ≠ none := by
  obtain ⟨a, t, hc, -⟩ := State.live_iff.1 h
  simp [hc]

theorem IsNext.agent (hl : s.live = true) {k : Out} (hk : IsNext k) : IsNext (s.agent k) := by
  rwa [State.agent_of_live hl]

theorem IsNext.hart (hl : s.live = true) {k : Out} (hk : IsNext k) : IsNext (s.hart k) :=
  .agent hl (.ite hk (.illop (State.cur_ne_none hl)))

theorem IsNext.access (hl : s.live = true) {k : Out} (hk : IsNext k) : IsNext (s.access k) :=
  .agent hl (.ite (.illop (State.cur_ne_none hl)) hk)

theorem IsNext.privileged (hl : s.live = true) (lvl : Nat) {k : Out} (hk : IsNext k) : IsNext (s.privileged lvl k) :=
  .hart hl (.ite (.trap (State.cur_ne_none hl) _) hk)

/-! Waits. -/

theorem IsNext.afterVector (h : s.cur ≠ none) {k : State → Out} (hk : ∀ t : State, t.cur ≠ none → IsNext (k t)) :
    IsNext (s.afterVector k) :=
  .ite (hk _ (State.setMe_cur_ne_none h _)) (.next _)

theorem IsNext.afterRelease (h : s.cur ≠ none) (scope : Nat) {k : State → Out}
    (hk : ∀ t : State, t.cur ≠ none → IsNext (k t)) : IsNext (s.afterRelease scope k) := by
  have hc := State.setMe_cur_ne_none h Thread.closeAll
  unfold State.afterRelease
  dsimp only
  split
  · exact .trapXfer hc _
  · exact .ite (.next _) (.ite (hk _ hc) (.next _))

theorem IsNext.afterAcquire (h : s.cur ≠ none) {k : State → Out} (hk : ∀ t : State, t.cur ≠ none → IsNext (k t)) :
    IsNext (s.afterAcquire k) := by
  refine .afterVector h fun t ht => ?_
  split
  · exact .trapXfer ht _
  · exact .ite (hk t ht) (.next _)

theorem IsNext.beforeArrival (h : s.cur ≠ none) {k : State → Out} (hk : ∀ t : State, t.cur ≠ none → IsNext (k t)) :
    IsNext (s.beforeArrival k) :=
  .afterRelease h _ fun t ht => .ite (hk t ht) (.next _)

theorem IsNext.awaitPhase (s : State) : IsNext s.awaitPhase := .ite (.next _) (.next _)

/-! Accesses to memory. -/

theorem State.Noted.cur {s u : State} (h : s.Noted u) : u.cur = s.cur := by rw [h.rest]

theorem IsNext.accessIn (h : s.cur ≠ none) (acc : Acc) (first : Bool) (va : Word) (n : Nat) {k : State → Place → Out}
    (hk : ∀ t p, t.cur ≠ none → IsNext (k t p)) : IsNext (s.accessIn acc first va n k) := by
  unfold State.accessIn
  split
  · exact .trapMem h _ _
  rename_i p t hp
  have ht : t.cur ≠ none := by rwa [(State.Noted.place hp).cur]
  split
  · exact .ite (.trapXfer ht _) (.next _)
  · split
    · exact .trapMem ht _ _
    · exact hk t p ht

theorem IsNext.scalarAccess (h : s.cur ≠ none) (acc : Acc) (va : Word) (n : Nat) {k : State → Place → Out}
    (hk : ∀ t p, t.cur ≠ none → IsNext (k t p)) : IsNext (s.scalarAccess acc va n k) :=
  .accessIn h _ _ _ _ hk

/-- A load notes what it read and is charged for it. -/
theorem State.cur_noteRead_chargeAt (s : State) (a : Agent) (p : Place) (n gi : Nat) :
    ((s.noteRead a p n).chargeAt gi p n).cur = s.cur :=
  ((State.Noted.noteRead s a p n).trans (.charge _ _ _ _)).cur

theorem IsNext.scalarLoad (h : s.cur ≠ none) (va : Word) (n : Nat) {k : State → Nat → Out}
    (hk : ∀ t v, t.cur ≠ none → IsNext (k t v)) : IsNext (s.scalarLoad va n k) := by
  refine .scalarAccess h _ _ _ fun t p ht => ?_
  dsimp only
  split
  · exact hk _ _ (by rw [State.cur_noteRead_chargeAt]; exact State.setMe_cur_ne_none ht _)
  · exact .next _

theorem IsNext.scalarStore (h : s.cur ≠ none) (va : Word) (n v : Nat) (nt : Bool) {k : State → Out}
    (hk : ∀ t, IsNext (k t)) : IsNext (s.scalarStore va n v nt k) := by
  refine .scalarAccess h _ _ _ fun t p _ => ?_
  split
  · exact hk _
  · exact .next _

theorem IsNext.scalarAtomic (h : s.cur ≠ none) (va : Word) (n : Nat) (f : Nat → Option Nat) {k : State → Place → Nat → Out}
    (hk : ∀ t p m, IsNext (k t p m)) : IsNext (s.scalarAtomic va n f k) := by
  refine .scalarAccess h _ _ _ fun t p _ => .ite (.next _) ?_
  dsimp only
  split
  · exact hk _ _ _
  · exact hk _ _ _

theorem IsNext.load (hl : s.live = true) (d a : BitVec 6) (o : BitVec 11) (n : Nat) (signed : Bool) :
    IsNext (s.load d a o n signed) :=
  .agent hl (.scalarLoad (State.cur_ne_none hl) _ _ fun _ _ _ => .next _)

theorem IsNext.loadAcquire (hl : s.live = true) (d a : BitVec 6) (n : Nat) (signed : Bool) :
    IsNext (s.loadAcquire d a n signed) :=
  .agent hl (.scalarLoad (State.cur_ne_none hl) _ _ fun _ _ _ => .next _)

theorem IsNext.store (hl : s.live = true) (d a : BitVec 6) (nt : Bool) (o : BitVec 10) (n : Nat) :
    IsNext (s.store d a nt o n) :=
  .agent hl (.scalarStore (State.cur_ne_none hl) _ _ _ _ fun _ => .next _)

theorem IsNext.storeRelease (hl : s.live = true) (d a : BitVec 6) (scope n : Nat) : IsNext (s.storeRelease d a scope n) :=
  .agent hl (.scalarAccess (State.cur_ne_none hl) _ _ _ fun _ _ ht =>
    .afterRelease ht _ fun _ hu => .scalarStore hu _ _ _ _ fun _ => .next _)

theorem IsNext.amo (hl : s.live = true) (d a b : BitVec 6) (q : BitVec 2) (sys w fp : Bool)
    (f : Nat → Nat → Nat → Nat → Option Nat) (after : State → Place → Nat → Nat → State) :
    IsNext (s.amo d a b q sys w fp f after) :=
  .agent hl (.ite
    (.scalarAccess (State.cur_ne_none hl) _ _ _ fun _ _ ht =>
      .afterRelease ht _ fun _ hu => .scalarAtomic hu _ _ _ fun _ _ _ => .next _)
    (.scalarAtomic (State.cur_ne_none hl) _ _ _ fun _ _ _ => .next _))

/-- The value of a plain load in either form of its move: what memory gives now, or a wait. -/
theorem IsNext.startLoad (hl : s.live = true) (d : BitVec 6) (va : Word) (n : Nat) (signed : Bool) :
    IsNext (s.startLoad d va n signed) := by
  refine .agent hl (.scalarAccess (State.cur_ne_none hl) _ _ _ fun t p _ => ?_)
  dsimp only
  split
  · exact .next _
  · split
    · exact .next _
    · exact .next _

theorem IsNext.earlyLoad (hl : s.live = true) (d : BitVec 6) (va : Word) (n : Nat) (signed : Bool) :
    IsNext (s.earlyLoad d va n signed) := by
  refine .agent hl (.scalarAccess (State.cur_ne_none hl) _ _ _ fun t p _ => ?_)
  dsimp only
  split
  · exact .next _
  · split
    · exact .next _
    · exact .next _

theorem IsNext.readCommand (h : s.cur ≠ none) (va : Word) (n : Nat) {k : State → List Word → Out}
    (hk : ∀ t w, IsNext (k t w)) : IsNext (s.readCommand va n k) := by
  induction n generalizing s va k with
  | zero => exact hk _ _
  | succ n ih => exact .scalarLoad h _ _ fun t v ht => ih ht _ fun u w => hk _ _

theorem IsNext.context (hl : s.live = true) (load : Bool) (va : Word) : IsNext (s.context load va) :=
  .privileged hl _ (.afterVector (State.cur_ne_none hl) fun _ ht =>
    .ite (.trapMem ht _ _) (.ite (.trapMem ht _ _) (.readCommand ht _ _ fun _ _ => .next _)))

/-! Arithmetic and branches. -/

theorem IsNext.alu (hl : s.live = true) (d : BitVec 6) (v : Word) : IsNext (s.alu d v) := .agent hl (.next _)

theorem IsNext.branch (hl : s.live = true) (c : Bool) (i : BitVec 14) : IsNext (s.branch c i) :=
  .agent hl (.ite (.next _) (.next _))

theorem IsNext.fpWrite (h : s.cur ≠ none) (d : BitVec 6) (r : Rounded) (k : Nat) : IsNext (s.fpWrite d r k) :=
  .ite (.trap h _) (.next _)

theorem IsNext.fpExact (hl : s.live = true) (d : BitVec 6) (r : Rounded) : IsNext (s.fpExact d r) :=
  .hart hl (.fpWrite (State.cur_ne_none hl) _ _ _)

theorem IsNext.missOut (h : s.cur ≠ none) (m : Miss) : IsNext (s.missOut m) := by
  cases m with
  | cause e => exact .trapMem h _ _
  | behind x => exact .ite (.trapXfer h _) (.next _)
  | wait => exact .next _

theorem IsNext.fpRound (hl : s.live = true) (d : BitVec 6) (t : Tag) (sto : Bool) (v : Val × BitVec 6) :
    IsNext (s.fpRound d t sto v) := by
  have h := State.cur_ne_none hl
  refine .hart hl (.ite (.ite (.illop h) ?_) (.fpWrite h _ _ _))
  split
  · exact .missOut h _
  · rename_i hu
    exact .fpWrite (by rwa [(State.HasRead.sowerN32 hu).cur]) _ _ _

/-! Queues. -/

theorem IsNext.pushOut (h : s.cur ≠ none) (r : Push State) : IsNext (s.pushOut r) := by
  unfold State.pushOut
  split
  · exact .next _
  · exact .trap h _
  · exact .trapMem h _ _
  · exact .next _

theorem IsNext.both (hl : s.live = true) (r : Push State) : IsNext (s.both r) :=
  .agent hl (.ite (.illop (State.cur_ne_none hl)) (.pushOut (State.cur_ne_none hl) r))

theorem IsNext.execute (hl : s.live = true) (r : Push State) : IsNext (s.execute r) :=
  .hart hl (.ite (.illop (State.cur_ne_none hl)) (.pushOut (State.cur_ne_none hl) r))

theorem IsNext.accessPush (hl : s.live = true) (r : Push State) : IsNext (s.access (s.pushOut r)) :=
  .access hl (.pushOut (State.cur_ne_none hl) r)

theorem IsNext.join (h : s.cur ≠ none) (kind : Nat) (d : BitVec 6) (ga gb : Word) : IsNext (s.join kind d ga gb) := by
  refine .ite (.illop h) ?_
  split
  · exact .next _
  · exact .illop h

theorem IsNext.allocFrom (h : s.cur ≠ none) (va : Word) {k : Alloc → Out} (hk : ∀ x, IsNext (k x)) :
    IsNext (s.allocFrom va k) := by
  unfold State.allocFrom
  split
  · exact hk _
  · exact .trapWith h _

theorem IsNext.orchForm (h : s.cur ≠ none) (d : BitVec 6) (info : Word) (f : State → Option (Word × State)) :
    IsNext (s.orchForm d info f) := by
  refine .afterVector h fun t ht => ?_
  dsimp only
  split
  · exact .ite (.trapXfer ht _) (.next _)
  · split
    · exact .next _
    · exact .trapWith ht _

/-! CSRs. -/

/-- A read of a CSR, if the agent may make it, leaves the agent in execution. -/
def CsrRead.KeepsCur (s : State) (r : CsrRead) : Prop := ∀ x, r = some x → x.2.cur = s.cur

theorem CsrRead.KeepsCur.some {v : Word} {t : State} (h : t.cur = s.cur) : CsrRead.KeepsCur s (some (v, t)) := by
  rintro _ ⟨⟩
  exact h

theorem CsrRead.KeepsCur.none (s : State) : CsrRead.KeepsCur s none :=
  fun _ h => absurd h (Option.some_ne_none _).symm

theorem CsrRead.KeepsCur.ite {p : Prop} [Decidable p] {x y : CsrRead} (hx : CsrRead.KeepsCur s x)
    (hy : CsrRead.KeepsCur s y) : CsrRead.KeepsCur s (if p then x else y) := by
  split
  · exact hx
  · exact hy

theorem CsrRead.KeepsCur.readShared (s : State) (c : Nat) : CsrRead.KeepsCur s (s.readShared c) := by
  unfold State.readShared
  dsimp only
  split
  case h_9 => exact .none s
  all_goals exact .some rfl

theorem CsrRead.KeepsCur.readAccess (s : State) (c : Nat) : CsrRead.KeepsCur s (s.readAccess c) := by
  unfold State.readAccess
  dsimp only
  split
  case h_3 => exact .readShared s c
  all_goals exact .some rfl

theorem CsrRead.KeepsCur.readUser (s : State) (c : Nat) : CsrRead.KeepsCur s (s.readUser c) := by
  unfold State.readUser
  dsimp only
  split
  case h_9 => exact .readShared s c
  all_goals exact .some rfl

theorem CsrRead.KeepsCur.readSuper (s : State) (c : Nat) : CsrRead.KeepsCur s (s.readSuper c) := by
  unfold State.readSuper
  dsimp only
  split
  case h_15 => exact .ite (.some rfl) (.ite (.some rfl) (.none s))
  all_goals exact .some rfl

theorem CsrRead.KeepsCur.readFirm (s : State) (c : Nat) : CsrRead.KeepsCur s (s.readFirm c) := by
  unfold State.readFirm
  dsimp only
  split
  case h_22 => exact .ite (.some rfl) (.ite (.some rfl) (.ite (.some rfl) (.none s)))
  all_goals exact .some rfl

theorem CsrRead.KeepsCur.readCsr (s : State) (c : BitVec 12) : CsrRead.KeepsCur s (s.readCsr c) :=
  .ite (.readAccess s _) (.ite (.readUser s _) (.ite (.ite (.readSuper s _) (.none s)) (.ite (.readFirm s _) (.none s))))

theorem IsNext.csr (hl : s.live = true) (d : BitVec 6) (c : BitVec 12) (f : Word → Option Word) : IsNext (s.csr d c f) := by
  refine .agent hl ?_
  split
  · exact .illop (State.cur_ne_none hl)
  rename_i v t hr
  split
  · exact .next _
  · split
    · exact .illop (by rw [CsrRead.KeepsCur.readCsr s c _ hr]; exact State.cur_ne_none hl)
    · exact .next _

theorem IsNext.csrStep (hl : s.live = true) (c : BitVec 12) (v : Word) : IsNext (s.csrStep c v) := by
  refine .ite (.next _) ?_
  split
  · exact .illop (State.cur_ne_none hl)
  · split
    · exact .illop (State.cur_ne_none hl)
    · exact .next _

theorem IsNext.sdstatRead (s : State) : IsNext (execSdstatRead s) := by
  unfold execSdstatRead
  split
  · exact .next s
  · rename_i hl
    split
    · exact .illop (State.cur_ne_none (by simpa using hl))
    · exact .next _

/-! Forms that are no instance of a shape above. -/

theorem IsNext.fence (hl : s.live = true) (sc k : BitVec 3) : IsNext (execFence sc k s) :=
  .agent hl (.ite (.afterAcquire (State.cur_ne_none hl) fun _ _ => .next _)
    (.afterRelease (State.cur_ne_none hl) _ fun _ _ => .next _))

theorem IsNext.waitw (hl : s.live = true) (d a b : BitVec 6) : IsNext (execWaitw d a b s) :=
  .agent hl (.ite (.trapMem (State.cur_ne_none hl) _ _)
    (.scalarAccess (State.cur_ne_none hl) _ _ _ fun _ _ _ => .ite (.next _) (.ite (.next _) (.next _))))

theorem IsNext.jalr (hl : s.live = true) (d a : BitVec 6) (i : BitVec 14) : IsNext (execJalr d a i s) :=
  .agent hl (.ite (.trapWith (State.cur_ne_none hl) _) (.next _))

theorem IsNext.qdrain (hl : s.live = true) (a : BitVec 6) : IsNext (execQdrain a s) :=
  .agent hl (.ite (.illop (State.cur_ne_none hl)) (.ite (.pushOut (State.cur_ne_none hl) _) (.ite (.next _) (.next _))))

theorem IsNext.bqpush (hl : s.live = true) (k : BitVec 2) (a : BitVec 6) : IsNext (execBqpush k a s) :=
  .agent hl (.ite (.illop (State.cur_ne_none hl)) (.ite (.next _) (.next _)))

theorem IsNext.bqpop (hl : s.live = true) (d : BitVec 6) (k : BitVec 2) : IsNext (execBqpop d k s) := by
  refine .hart hl ?_
  split
  · exact .next _
  · exact .next _

theorem IsNext.accessKend (hl : s.live = true) : IsNext (execAccessKend s) := by
  refine .agent hl (.ite (.illop (State.cur_ne_none hl)) ?_)
  split
  · exact .trapXfer (State.cur_ne_none hl) _
  · exact .ite (.next _) (.ite (.next _) (.next _))

theorem IsNext.kend (hl : s.live = true) : IsNext (execKend s) := by
  refine .hart hl (.afterVector (State.cur_ne_none hl) fun t ht => ?_)
  split
  · exact .trapXfer ht _
  · exact .ite (.next _) (.next _)

theorem IsNext.taskput (hl : s.live = true) (a : BitVec 6) : IsNext (execTaskput a s) := by
  have h := State.cur_ne_none hl
  refine .hart hl ?_
  dsimp only
  split
  · exact .illop h
  · exact .ite (.illop h) (.afterRelease h _ fun t ht =>
      .ite (.trapMem ht _ _) (.ite (.trapMem ht _ _) (.ite (.trap ht _) (.next _))))

theorem IsNext.launch (hl : s.live = true) (d a : BitVec 6) : IsNext (execLaunch d a s) := by
  have h := State.cur_ne_none hl
  refine .hart hl (.ite (.illop h) (.afterRelease h _ fun t _ => .ite (.next _) ?_))
  split
  · exact .ite (.next _) (.next _)
  · split
    · exact .next _
    · exact .next _

theorem IsNext.vsetvl (hl : s.live = true) (d a b : BitVec 6) : IsNext (execVsetvl d a b s) :=
  .hart hl (.ite (.join (State.cur_ne_none hl) _ _ _ _) (.illop (State.cur_ne_none hl)))

theorem IsNext.vsetvlP (hl : s.live = true) (d a b : BitVec 6) : IsNext (execVsetvlP d a b s) :=
  .hart hl (.ite (.join (State.cur_ne_none hl) _ _ _ _) (.illop (State.cur_ne_none hl)))

theorem IsNext.spalloc (hl : s.live = true) (d a b : BitVec 6) : IsNext (execSpalloc d a b s) := by
  refine .hart hl (.ite (.next _) ?_)
  split
  · exact .next _
  · exact .next _

theorem IsNext.spfree (hl : s.live = true) (a : BitVec 6) : IsNext (execSpfree a s) := by
  refine .hart hl (.allocFrom (State.cur_ne_none hl) _ fun x => .afterVector (State.cur_ne_none hl) fun t ht => ?_)
  dsimp only
  split
  · exact .trapXfer ht _
  · exact .ite (.next _) (.next _)

theorem IsNext.sprenew (hl : s.live = true) (d a : BitVec 6) : IsNext (execSprenew d a s) := by
  refine .hart hl (.allocFrom (State.cur_ne_none hl) _ fun x => .afterVector (State.cur_ne_none hl) fun t ht => ?_)
  dsimp only
  split
  · exact .ite (.trapXfer ht _) (.next _)
  · exact .next _

theorem IsNext.sowload (hl : s.live = true) (a : BitVec 6) : IsNext (execSowload a s) := by
  refine .hart hl (.afterVector (State.cur_ne_none hl) fun t ht => .accessIn ht _ _ _ _ fun u p hu => ?_)
  dsimp only
  split
  · exact .next _
  · exact .ite (.illop (by rw [State.cur_noteRead_chargeAt]; exact State.setMe_cur_ne_none hu _)) (.next _)

theorem IsNext.onew (hl : s.live = true) (d a : BitVec 6) : IsNext (execOnew d a s) :=
  .hart hl (.ite (.illop (State.cur_ne_none hl)) (.orchForm (State.cur_ne_none hl) _ _ _))

theorem IsNext.oread (hl : s.live = true) (d a b : BitVec 6) : IsNext (execOread d a b s) :=
  .hart hl (.ite (.illop (State.cur_ne_none hl)) (.orchForm (State.cur_ne_none hl) _ _ _))

theorem IsNext.xlinv (hl : s.live = true) (a b : BitVec 6) : IsNext (execXlinv a b s) :=
  .privileged hl _ (.ite (.illop (State.cur_ne_none hl))
    (.afterVector (State.cur_ne_none hl) fun _ _ => .ite (.next _) (.ite (.next _) (.next _))))

theorem IsNext.haltc (hl : s.live = true) (a : BitVec 6) : IsNext (execHaltc a s) :=
  .privileged hl _ (.ite (.illop (State.cur_ne_none hl)) (.ite (.next _) (.ite (.next _) (.next _))))

theorem IsNext.haltcRelease (hl : s.live = true) (a : BitVec 6) : IsNext (execHaltcRelease a s) :=
  .privileged hl _ (.ite (.illop (State.cur_ne_none hl)) (.next _))

theorem IsNext.fbtabWrite (hl : s.live = true) (k : Nat) (v : Word) : IsNext (execFbtabWrite k v s) :=
  .ite (.csrStep hl _ _) (.next _)

/-! Every instruction. -/

/-- A move that no instruction makes answers a state, whoever is in execution. -/
theorem exec_isNext_of_isMove {i : Instr} (h : isMove i = true) (s : State) : IsNext (exec i s) := by
  cases i
  any_goals cases h -- an instruction, or the step of a CSR
  all_goals exact .next _

/-- Every instruction of an agent that exists answers a state. -/
theorem exec_isNext (hl : s.live = true) (i : Instr) : IsNext (exec i s) := by
  have h := State.cur_ne_none hl
  cases i
  case fboot | seventW1c | fpartWrite | fgrateWrite | fctest | frcommit | fsvnWrite | fhtest | lgmodeWrite |
      qenWrite | cgroupWrite | csrWrite => exact .csrStep hl _ _
  case add | sub | and | or | xor | andn | sll | srl | sra | slt | sltu | seq | min | max | minu | maxu | mul |
      mulh | mulhu | div | divu | rem | remu | clz | ctz | popc | addi | andi | ori | xori | slti | sltiu |
      slli | srli | srai | lui | addpc => exact .alu hl _ _
  case faddD | fsubD | fmulD | fdivD | fsqrtD | fcvtLD | fcvtLuD | fcvtFlD | fcvtFluD | fcvtWD | faddS |
      fsubS | fmulS | fdivS | fsqrtS | fcvtLS | fcvtLuS | fcvtFlS | fcvtFluS | fmaddD | fmsubD | fnmaddD |
      fnmsubD | fmaddS | fmsubS | fnmaddS | fnmsubS => exact .fpRound hl _ _ _ _
  case fminD | fmaxD | fsgnjD | fsgnjnD | fsgnjxD | feqD | fltD | fleD | fclassD | fminS | fmaxS | fsgnjS |
      fsgnjnS | fsgnjxS | feqS | fltS | fleS | fclassS | fcvtWS => exact .fpExact hl _ _
  case lb | lh | lw | ld | lbu | lhu | lwu => exact .load hl _ _ _ _ _
  case sb | sh | sw | sd => exact .store hl _ _ _ _ _
  case lbAq | lhAq | lwAq | ldAq | lbuAq | lhuAq | lwuAq => exact .loadAcquire hl _ _ _ _
  case sbRl | shRl | swRl | sdRl => exact .storeRelease hl _ _ _ _
  case amoadd | amoswap | amoand | amoor | amoxor | amomin | amomax | amominu | amomaxu | amocas | amoaddTw |
      amofadd => unfold exec; exact .amo hl _ _ _ _ _ _ _ _ _
  case beq | bne | blt | bge | bltu | bgeu => exact .branch hl _ _
  case csrrw | csrrs | csrrc => unfold exec; exact .csr hl _ _ _
  case vadd | vsub | vmul | vdiv | vmin | vmax | vsadd | vssub | vmulh | vrem | vand | vor | vxor | vsll |
      vshr | vsqrt | vabs | vneg | vsgnj | vsgnjn | vsgnjx | vclass | vmv | vcmpeq | vcmpne | vcmplt | vcmple |
      vcmpgt | vcmpge | vcmpunord | vmand | vmor | vmxor | vmandn | vmnot | vmpopc | vmfirst | vmset |
      vslideup | vslidedn | vgathr | vsend | vcmprs | vexpnd | vresh | vbcast | vslide1up | vslide1dn | vid |
      vsel | vfence | mstream => exact .both hl _
  case vfmadd | vfmsub | vfnmadd | vfnmsub | vaddAcc | vsubAcc | vmulAcc | vdivAcc | vminAcc | vmaxAcc |
      vsaddAcc | vssubAcc | vmulhAcc | vremAcc | vandAcc | vorAcc | vxorAcc | vsllAcc | vshrAcc | vsqrtAcc |
      vabsAcc | vnegAcc | vsgnjAcc | vsgnjnAcc | vsgnjxAcc | vclassAcc | vmvAcc | vfmaddAcc | vfmsubAcc |
      vfnmaddAcc | vfnmsubAcc | vcvt | vredsum | vredmin | vredmax | vredand | vredor | vredxor | vscansum |
      vscanmin | vscanmax | vfunc | vcfg | vgete | vsete | vsalsel | vld | vlds | vldx | vst | vsts | vstx |
      vwin | vwacc | vwmerge | vlsync | vfar | mma | mld | mst | mzero | mwrow | maddrow | vsowF32 | vsowF64 |
      vsowN32 | oexpand | cmdbCopy | cmdbCat | cmdbOrch => exact .execute hl _
  case ctxsave | ctxload => exact .context hl _ _
  case ald | aldCl | agather | atrans | ast | astCl | ascat | afar => exact .accessPush hl _
  case jal => exact .agent hl (.next _)
  case fence => exact .fence hl _ _
  case waitw => exact .waitw hl _ _ _
  case jalr => exact .jalr hl _ _ _
  case qdrain => exact .qdrain hl _
  case bqpush => exact .bqpush hl _ _
  case bqpop => exact .bqpop hl _ _
  case accessKend => exact .accessKend hl
  case kend => exact .kend hl
  case taskput => exact .taskput hl _
  case launch => exact .launch hl _ _
  case vsetvl => exact .vsetvl hl _ _ _
  case vsetvlP => exact .vsetvlP hl _ _ _
  case spalloc => exact .spalloc hl _ _ _
  case spfree => exact .spfree hl _
  case sprenew => exact .sprenew hl _ _
  case sowload => exact .sowload hl _
  case onew => exact .onew hl _ _
  case oread => exact .oread hl _ _ _
  case xlinv => exact .xlinv hl _ _
  case haltc => exact .haltc hl _
  case haltcRelease => exact .haltcRelease hl _
  case fbtabWrite => exact .fbtabWrite hl _ _
  case sdstatRead => exact .sdstatRead s
  case fenceSv => exact .hart hl (.afterVector h fun _ _ => .next _)
  case ifence => exact .hart hl (.next _)
  case barsync => exact .hart hl (.beforeArrival h fun _ _ => .awaitPhase _)
  case barrive | bardrop => exact .hart hl (.beforeArrival h fun _ _ => .next _)
  case barwait => exact .hart hl (.awaitPhase s)
  case taskget => exact .hart hl (.join h _ _ _ _)
  case brk => exact .hart hl (.trap h _)
  case spage => exact .hart hl (.allocFrom h _ fun _ => .next _)
  case mwait => exact .hart hl (.ite (.illop h) (.ite (.next _) (.next _)))
  case mopen => exact .hart hl (.afterRelease h _ fun _ _ => .next _)
  case mrecut => exact .hart hl (.afterRelease h _ fun _ _ => .ite (.next _) (.next _))
  case mclose => exact .hart hl (.next _)
  case msheaf | mgenrel | mquery => exact .hart hl (.ite (.illop h) (.next _))
  case odesc | obackup | oreuse | ofree => exact .hart hl (.orchForm h _ _ _)
  case wfi => exact .privileged hl _ (.ite (.next _) (.next _))
  case tret | fwcall => exact .privileged hl _ (.next _)
  all_goals exact exec_isNext_of_isMove rfl s

/-! An agent that stays while it issues. -/

theorem State.isSome_thread?_modThread (s : State) (a b : Agent) (f : Thread → Thread) :
    ((s.modThread a f).thread? b).isSome = (s.thread? b).isSome := by
  rw [State.thread?_modThread]
  split
  · exact Option.isSome_map
  · rfl

theorem State.Noted.isSome_thread? {u : State} (h : s.Noted u) {a : Agent} (ha : (s.thread? a).isSome = true) :
    (u.thread? a).isSome = true := by
  obtain ⟨t, ht⟩ := Option.isSome_iff_exists.1 ha
  obtain ⟨t', ht', -⟩ := h.thread? ht
  exact Option.isSome_iff_exists.2 ⟨t', ht'⟩

/-- The agent in execution is this one, and it exists. -/
structure State.Runs (s : State) (a : Agent) : Prop where
  cur : s.cur = some a
  thread : (s.thread? a).isSome = true

section
variable {a : Agent}

theorem State.Runs.live (h : s.Runs a) : s.live = true := by
  unfold State.live
  rw [h.cur]
  exact h.thread

theorem State.Runs.noted {u : State} (h : s.Runs a) (hu : s.Noted u) : u.Runs a :=
  ⟨hu.cur.trans h.cur, hu.isSome_thread? h.thread⟩

theorem State.Runs.modThread (h : s.Runs a) (b : Agent) (f : Thread → Thread) : (s.modThread b f).Runs a :=
  ⟨h.cur, by rw [State.isSome_thread?_modThread, h.thread]⟩

theorem State.Runs.forgetTaken (h : s.Runs a) (b : Agent) : (s.forgetTaken b).Runs a := by
  unfold State.forgetTaken
  split
  · exact h
  · exact h.modThread ..

theorem State.Runs.performFlight {b : Agent} {u : State} (h : s.Runs a) (hu : s.performFlight b = some u) : u.Runs a := by
  unfold State.performFlight at hu
  split at hu
  · cases hu
    exact h
  · obtain ⟨v, -, rfl⟩ := Option.map_eq_some_iff.1 hu
    exact (h.noted ((State.Noted.noteRead ..).trans (.charge ..))).modThread ..

/-- The agent whose word is executed stays, whether or not its load in flight lands before. -/
theorem State.Runs.landFor {u : State} {w : Word32} {o : State → Out} (h : s.Runs a) (hu : s.landFor a w o = some u) :
    u.Runs a := by
  have hv : (if keepsTaken w then s else s.forgetTaken a).Runs a := by
    split
    · exact h
    · exact h.forgetTaken a
  unfold State.landFor at hu
  dsimp only at hu
  generalize (if keepsTaken w then s else s.forgetTaken a) = v at hu hv
  split at hu
  · obtain ⟨-, he⟩ | ⟨-, he⟩ := ite_eq_iff.1 hu
    · rwa [← Option.some.inj he]
    · exact hv.performFlight he
  · rwa [← Option.some.inj hu]

/-- The state in which an agent's word is executed. -/
theorem State.Runs.enter (ha : (s.thread? a).isSome = true) (w : Word32) :
    ({ s with cur := some a, word := w } : State).Runs a := ⟨rfl, ha⟩

/-! The word at a pc. -/

theorem IsNext.meaning (hl : s.live = true) (a : Agent) (w : Word32) : IsNext (s.meaning a w) := by
  unfold State.meaning
  split
  · exact .trap (State.cur_ne_none hl) _
  · exact .illop (State.cur_ne_none hl)
  · exact exec_isNext hl _

theorem IsNext.runWord (ha : (s.thread? a).isSome = true) (w : Word32) : IsNext (s.runWord a w) := by
  refine .ite (.next _) ?_
  split
  · exact .next _
  · rename_i u hu
    exact (IsNext.meaning ((State.Runs.enter ha w).landFor hu).live a w).mapNext _

theorem IsNext.runLate (ha : (s.thread? a).isSome = true) (w : Word32) : IsNext (s.runLate a w) := by
  unfold State.runLate
  split
  · exact .ite (.next _) ((IsNext.startLoad (State.Runs.enter ha w).live _ _ _ _).mapNext _)
  · exact .runWord ha w

theorem IsNext.runEarly (ha : (s.thread? a).isSome = true) (w : Word32) : IsNext (s.runEarly a w) := by
  unfold State.runEarly
  split
  · exact .ite (.next _) ((IsNext.earlyLoad (State.Runs.enter ha w).live _ _ _ _).mapNext _)
  · exact .runWord ha w

end

/-! Issue. -/

theorem State.isSome_thread?_of_mayIssue {a : Agent} (h : s.mayIssue a = true) : (s.thread? a).isSome = true := by
  unfold State.mayIssue at h
  split at h
  · cases h
  · rename_i ht
    rw [ht]
    rfl

theorem IsNext.landed (s : State) (a : Agent) {k : State → Out} (hk : ∀ t, IsNext (k t)) : IsNext (s.landed a k) := by
  unfold State.landed
  split
  · exact hk _
  · exact .next _

section
variable {a : Agent} {k : State → Word32 → Out} (hk : ∀ (t : State) w, (t.thread? a).isSome = true → IsNext (k t w))
include hk

theorem IsNext.runPc (ha : (s.thread? a).isSome = true) : IsNext (s.runPc a k) := by
  unfold State.runPc
  dsimp only
  split
  · exact .next _
  · exact .landed s a fun t => .trapMem (Option.some_ne_none a) _ _
  · rename_i w u hw
    have hu : (u.thread? a).isSome = true := (State.Noted.fetch hw).isSome_thread? ha
    refine .ite (.ite (.landed u a fun t => .trap (Option.some_ne_none a) _) ?_) (hk u w hu)
    exact (hk _ w (by rw [State.isSome_thread?_modThread, hu])).mapNext _

theorem IsNext.goOn (ha : (s.thread? a).isSome = true) : IsNext (s.goOn a k) := by
  unfold State.goOn
  dsimp only
  split
  · exact .runPc hk ha
  all_goals exact .next _

theorem IsNext.issueWith (s : State) : IsNext (s.issueWith a k) := by
  unfold State.issueWith
  split
  · exact .next s
  rename_i hm
  have ha := State.isSome_thread?_of_mayIssue (s := s) (a := a) (by simpa using hm)
  refine .ite (.next _) ?_
  split
  · split
    · exact .landed s a fun _ => .next _
    · exact .goOn hk ha
  · exact .goOn hk ha

end

end

theorem IsNext.move (s : State) (m : Turn) : IsNext (s.move m) := by
  cases m with
  | issue a => exact .issueWith (fun _ w ha => .runWord ha w) s
  | late a => exact .issueWith (fun _ w ha => .runLate ha w) s
  | look a va n => exact .next _
  | early a => exact .issueWith (fun _ w ha => .runEarly ha w) s
  | event i =>
    show IsNext (if isMove i then exec i s else .next s)
    split
    · exact exec_isNext_of_isMove ‹_› s
    · exact .next s

/-- Settles O7: a trap needs an agent in execution, which an issue has, and a move raises none. -/
theorem stepNeverStops : Obligations.StepNeverStops := by
  unfold Obligations.StepNeverStops step
  intro s
  split
  · exact IsNext.ite (.next _) (.move _ _)
  · refine IsNext.ite (.next _) ?_
    split
    · exact .move _ _
    · exact .next _

end Sys2Proof.Machine
end

section
/-! Scalar instructions that compute a word from words: integer arithmetic, shifts, divisions and immediates (R168 to
R170). -/

namespace Sys2Proof.Machine

/-- A computed word is written, and the instruction retires to the next (R166). -/
theorem Finishes.alu {s : State} (hl : s.live = true) (d : BitVec 6) (v : Word) : Finishes (s.alu d v) s d.toNat v := by
  unfold State.alu
  rw [State.agent_of_live hl]
  exact Retires.retWith hl d v

/-! Comparisons and choices. -/

theorem boolWord_slt (x y : Word) : boolWord (x.slt y) = if x.toInt < y.toInt then 1 else 0 := by
  simp [boolWord, BitVec.slt]

theorem boolWord_ult (x y : Word) : boolWord (x.ult y) = if x.toNat < y.toNat then 1 else 0 := by
  simp [boolWord, BitVec.ult]

theorem boolWord_eq (x y : Word) : boolWord (x = y) = if x = y then 1 else 0 := by
  simp [boolWord]

/-- Words that a signed comparison does not tell apart are the same word, so that either may be chosen. -/
theorem ite_slt (x y : Word) {u v : Word} (h : x = y → u = v) :
    (if x.slt y then u else v) = if x.toInt ≤ y.toInt then u else v := by
  rcases Int.lt_trichotomy x.toInt y.toInt with hlt | heq | hgt
  · simp [BitVec.slt, hlt, Int.le_of_lt hlt]
  · simp [h (BitVec.toInt_inj.1 heq)]
  · simp [BitVec.slt, Int.not_lt.2 (Int.le_of_lt hgt), Int.not_le.2 hgt]

theorem ite_ult (x y : Word) {u v : Word} (h : x = y → u = v) :
    (if x.ult y then u else v) = if x.toNat ≤ y.toNat then u else v := by
  rcases Nat.lt_trichotomy x.toNat y.toNat with hlt | heq | hgt
  · simp [BitVec.ult, hlt, Nat.le_of_lt hlt]
  · simp [h (BitVec.eq_of_toNat_eq heq)]
  · simp [BitVec.ult, Nat.not_lt.2 (Nat.le_of_lt hgt), Nat.not_le.2 hgt]

/-! Shifts by the low six bits. -/

theorem toNat_extractLsb'_six (y : Word) : (y.extractLsb' 0 6).toNat = y.toNat % 64 := by
  rw [BitVec.extractLsb'_toNat, Nat.shiftRight_zero]

/-! Products. -/

theorem ofInt_toInt_mul (x y : Word) : BitVec.ofInt 64 (x.toInt * y.toInt) = x * y := by
  rw [BitVec.ofInt_mul, BitVec.ofInt_toInt, BitVec.ofInt_toInt]

/-- The high half of a product, taken of its 128 bits. -/
theorem highBits_eq_extractLsb' (z : Int) : highBits z = (BitVec.ofInt 128 z).extractLsb' 64 64 := by
  refine BitVec.eq_of_toNat_eq ?_
  rw [highBits, BitVec.extractLsb'_toNat, BitVec.toNat_ofInt, BitVec.toNat_ofInt, Nat.shiftRight_eq_div_pow]
  omega

theorem highBits_signed (x y : Word) :
    highBits (x.toInt * y.toInt) = (x.signExtend 128 * y.signExtend 128).extractLsb' 64 64 := by
  rw [highBits_eq_extractLsb', BitVec.ofInt_mul]
  rfl

theorem highBits_unsigned (x y : Word) :
    highBits (x.toNat * y.toNat : Nat) = (x.setWidth 128 * y.setWidth 128).extractLsb' 64 64 := by
  rw [highBits_eq_extractLsb', BitVec.ofInt_natCast, BitVec.ofNat_mul, BitVec.ofNat_toNat, BitVec.ofNat_toNat]

/-! Quotients and remainders. -/

theorem divWord_eq (x y : Word) : divWord x y = if y = 0 then 0xFFFFFFFFFFFFFFFF else x.sdiv y := by
  unfold divWord
  refine ite_congr rfl (fun _ => rfl) fun _ => BitVec.eq_of_toInt_eq ?_
  rw [BitVec.toInt_ofInt, BitVec.toInt_sdiv]

theorem remWord_eq (x y : Word) : remWord x y = if y = 0 then x else x.srem y := by
  unfold remWord
  refine ite_congr rfl (fun _ => rfl) fun _ => ?_
  rw [← BitVec.toInt_srem, BitVec.ofInt_toInt]

theorem divuWord_eq (x y : Word) : divuWord x y = if y = 0 then 0xFFFFFFFFFFFFFFFF else x / y := by
  unfold divuWord
  refine ite_congr rfl (fun _ => rfl) fun _ => ?_
  rw [← BitVec.toNat_udiv, BitVec.ofNat_toNat, BitVec.setWidth_eq]

theorem remuWord_eq (x y : Word) : remuWord x y = if y = 0 then x else x % y := by
  unfold remuWord
  refine ite_congr rfl (fun _ => rfl) fun _ => ?_
  rw [← BitVec.toNat_umod, BitVec.ofNat_toNat, BitVec.setWidth_eq]

/-! Counts of bits. -/

/-- The first place of a range at which a test fails is the length of the run before it. -/
theorem length_takeWhile_range {n k : Nat} {p : Nat → Bool} (hk : k ≤ n) (hp : ∀ i < k, p i = true)
    (hn : k < n → p k = false) : ((List.range n).takeWhile p).length = k := by
  obtain ⟨m, rfl⟩ := Nat.exists_eq_add_of_le hk
  rw [List.range_add, List.takeWhile_append_of_pos fun i hi => hp i (List.mem_range.1 hi)]
  cases m with
  | zero => simp
  | succ m => simp [List.range_succ_eq_map, hn (by omega)]

theorem clzWord_eq (x : Word) :
    clzWord x = BitVec.ofNat 64 ((List.range 64).takeWhile fun i => !x.getMsbD i).length := by
  unfold clzWord
  congr 1
  split
  · rename_i hx
    exact (length_takeWhile_range (Nat.le_refl 64) (fun i _ => by simp [hx]) nofun).symm
  · rename_i hx
    have hx0 : x.toNat ≠ 0 := fun h => hx (BitVec.eq_of_toNat_eq h)
    have hlog : x.toNat.log2 < 64 := (Nat.log2_lt hx0).2 x.isLt
    refine (length_takeWhile_range (by omega) (fun i hi => ?_) fun hi => ?_).symm
    · have hlt : x.toNat < 2 ^ (63 - i) := (Nat.log2_lt hx0).1 (by omega)
      simp [BitVec.getMsbD, BitVec.getLsbD, Nat.testBit_lt_two_pow hlt]
    · have hplace : 63 - (63 - x.toNat.log2) = x.toNat.log2 := by omega
      simp [BitVec.getMsbD, BitVec.getLsbD, hplace, Nat.testBit_log2 hx0]
      omega

theorem ctzWord_eq (x : Word) :
    ctzWord x = BitVec.ofNat 64 ((List.range 64).takeWhile fun i => !x.getLsbD i).length := by
  unfold ctzWord
  congr 1
  cases hfind : (List.range 64).find? fun i => x.getLsbD i with
  | none =>
    rw [List.find?_range_eq_none] at hfind
    exact (length_takeWhile_range (Nat.le_refl 64) hfind nofun).symm
  | some k =>
    rw [List.find?_range_eq_some] at hfind
    obtain ⟨hk, hmem, hbefore⟩ := hfind
    exact (length_takeWhile_range (List.mem_range.1 hmem).le hbefore fun _ => by simp [hk]).symm

theorem ofNat_popcount (x : Word) :
    BitVec.ofNat 64 (popcount x) = BitVec.ofNat 64 ((List.range 64).countP fun i => x.getLsbD i) := by
  rw [popcount, List.countP_eq_length_filter]

/-! The instructions. -/

/-- Each instruction of major 0x00 computes its word of R168 and R169. -/
theorem exec_integerForms : ∀ p ∈ integerForms, ∀ (d a b : BitVec 6) (s : State),
    exec (p.1 d a b) s = s.alu d (p.2 (s.x a) (s.x b)) := by
  simp only [integerForms, List.forall_mem_cons, List.not_mem_nil, false_imp_iff, implies_true, and_true,
    toNat_extractLsb'_six, ofInt_toInt_mul, ← boolWord_slt, ← boolWord_ult, ← boolWord_eq, ← highBits_signed,
    ← highBits_unsigned, ← divWord_eq, ← divuWord_eq, ← remWord_eq, ← remuWord_eq, ← clzWord_eq, ← ctzWord_eq,
    ← ofNat_popcount]
  refine ⟨?_, ?_, ?_, ?_, ?_, ?_, ?_, ?_, ?_, ?_, ?_, ?_,
    fun d a b s => congrArg (s.alu d) (ite_slt (s.x a) (s.x b) id),
    fun d a b s => congrArg (s.alu d) (ite_slt (s.x a) (s.x b) Eq.symm),
    fun d a b s => congrArg (s.alu d) (ite_ult (s.x a) (s.x b) id),
    fun d a b s => congrArg (s.alu d) (ite_ult (s.x a) (s.x b) Eq.symm),
    ?_, ?_, ?_, ?_, ?_, ?_, ?_, ?_, ?_, ?_⟩
  all_goals exact fun _ _ _ _ => rfl

/-- Settles O19: each instruction writes the word that R168 gives, however the model computes it. -/
theorem integerResults : Obligations.IntegerResults := by
  unfold Obligations.IntegerResults
  intro p hp d a b s hl
  rw [exec_integerForms p hp]
  exact Finishes.alu hl d _

/-- Each immediate form computes its word of R170. -/
theorem exec_immediateForms : ∀ p ∈ immediateForms, ∀ (d a : BitVec 6) (i : BitVec 14) (s : State),
    exec (p.1 d a i) s = s.alu d (p.2 (s.x a) i) := by
  simp only [immediateForms, List.forall_mem_cons, List.not_mem_nil, false_imp_iff, implies_true, and_true,
    ← boolWord_slt, ← boolWord_ult]
  exact ⟨fun _ _ _ _ => rfl, fun _ _ _ _ => rfl, fun _ _ _ _ => rfl, fun _ _ _ _ => rfl, fun _ _ _ _ => rfl,
    fun _ _ _ _ => rfl⟩

/-- Each shift by an immediate amount computes its word of R170. -/
theorem exec_shiftForms : ∀ p ∈ shiftForms, ∀ (d a n : BitVec 6) (s : State),
    exec (p.1 d a n) s = s.alu d (p.2 (s.x a) n.toNat) := by
  simp only [shiftForms, List.forall_mem_cons, List.not_mem_nil, false_imp_iff, implies_true, and_true]
  exact ⟨fun _ _ _ _ => rfl, fun _ _ _ _ => rfl, fun _ _ _ _ => rfl⟩

/-- Settles O21: each immediate form computes one word of its source and its immediate. -/
theorem immediateResults : Obligations.ImmediateResults := by
  unfold Obligations.ImmediateResults
  intro d a s hl
  refine ⟨fun p hp i => ?_, fun p hp n => ?_, fun w => ⟨Finishes.alu hl d _, Finishes.alu hl d _⟩⟩
  · rw [exec_immediateForms p hp]
    exact Finishes.alu hl d _
  · rw [exec_shiftForms p hp]
    exact Finishes.alu hl d _

/-- Settles O20: the divisions test for a zero divisor, and the quotient that overflows wraps. -/
theorem divisionCorners : Obligations.DivisionCorners := by
  unfold Obligations.DivisionCorners
  intro d a b s hl gives
  have gives_of_eq {v w : Word} (h : v = w) : Finishes (s.alu d v) s d.toNat w := h ▸ Finishes.alu hl d v
  refine ⟨?_, fun hb => ?_, fun ha hb => ?_⟩
  · simp only [List.forall_mem_cons, List.not_mem_nil, false_imp_iff, implies_true, and_true]
    exact ⟨⟨_, gives_of_eq rfl⟩, ⟨_, gives_of_eq rfl⟩, ⟨_, gives_of_eq rfl⟩, ⟨_, gives_of_eq rfl⟩⟩
  · have hdiv := (divWord_eq (s.x a) (s.x b)).trans (if_pos hb)
    have hrem := (remWord_eq (s.x a) (s.x b)).trans (if_pos hb)
    have hdivu := (divuWord_eq (s.x a) (s.x b)).trans (if_pos hb)
    have hremu := (remuWord_eq (s.x a) (s.x b)).trans (if_pos hb)
    exact ⟨gives_of_eq hdiv, gives_of_eq hrem, gives_of_eq hdivu, gives_of_eq hremu⟩
  · have hne : s.x b ≠ 0 := by rw [hb]; decide
    have hdiv : divWord (s.x a) (s.x b) = 0x8000000000000000 := by rw [ha, hb]; decide
    have hrem : remWord (s.x a) (s.x b) = 0 := by rw [ha, hb]; decide
    have hdivu := (divuWord_eq (s.x a) (s.x b)).trans (if_neg hne)
    have hremu := (remuWord_eq (s.x a) (s.x b)).trans (if_neg hne)
    exact ⟨gives_of_eq hdiv, gives_of_eq hrem, gives_of_eq hdivu, gives_of_eq hremu⟩

end Sys2Proof.Machine
end

section
/-! Branches and jumps (R174). -/

namespace Sys2Proof.Machine

/-- A jump that writes no register. -/
theorem Retires.jump {s : State} (hl : s.live = true) (pc : Word) : Answers (s.jump pc) fun t => Retires s t 0 0 pc :=
  .intro rfl (Retires.setMe hl 0 0 pc)

/-- A branch writes no register, and goes by its condition to its target or to the next word. -/
theorem State.branch_retires {s : State} (hl : s.live = true) (c : Bool) (i : BitVec 14) :
    Answers (s.branch c i) fun t => Retires s t 0 0 (if c then s.pc + (i.signExtend 64 <<< 2) else s.pc + 4) := by
  unfold State.branch
  rw [State.agent_of_live hl]
  cases c with
  | true => exact Retires.jump hl _
  | false => exact Retires.ret hl

/-- Each branch tests gd and ga. -/
theorem exec_branchForms : ∀ p ∈ branchForms, ∀ (d a : BitVec 6) (i : BitVec 14) (s : State),
    exec (p.1 d a i) s = s.branch (p.2 (s.x d) (s.x a)) i := by
  simp only [branchForms, List.forall_mem_cons, List.not_mem_nil, false_imp_iff, implies_true, and_true]
  refine ⟨fun _ _ _ _ => rfl, fun _ _ _ _ => rfl, fun _ _ _ _ => rfl, fun d a i s => congrArg (s.branch · i) ?_,
    fun _ _ _ _ => rfl, fun d a i s => congrArg (s.branch · i) ?_⟩
  · simp [BitVec.slt, ← decide_not]
  · simp [BitVec.ult, ← decide_not]

/-- The low two bits of an address tell whether it is a multiple of 4. -/
theorem extractLsb'_two_eq_zero_iff (v : Word) : v.extractLsb' 0 2 = 0 ↔ v.toNat % 4 = 0 := by
  rw [← BitVec.toNat_inj, BitVec.extractLsb'_toNat, Nat.shiftRight_zero]
  rfl

/-- Settles O22: each branch is the one branch of the model, and a jump writes its link as it retires. -/
theorem branchesAndJumps : Obligations.BranchesAndJumps := by
  unfold Obligations.BranchesAndJumps
  intro d a s hl
  refine ⟨fun p hp i => ?_, fun w => ?_, fun i => ?_⟩
  · rw [exec_branchForms p hp]
    exact State.branch_retires hl _ i
  · exact .intro (State.agent_of_live hl _) (Retires.setMe hl d.toNat _ _)
  · intro target
    have hexec : exec (.jalr d a i) s =
        if target.extractLsb' 0 2 ≠ 0 then s.trapWith (s.scalarCause cALIGN target 0)
        else .next (s.setMe fun t => (t.setReg d.toNat (s.pc + 4)).retireTo target) := State.agent_of_live hl _
    refine ⟨fun h => ?_, fun h => ?_⟩
    · rw [hexec, if_neg (not_not.2 ((extractLsb'_two_eq_zero_iff target).2 h))]
      exact .intro rfl (Retires.setMe hl d.toNat _ target)
    · rw [hexec, if_pos (mt (extractLsb'_two_eq_zero_iff target).1 h)]

end Sys2Proof.Machine
end

section
/-! Scalar floating point that never rounds (R171, R172). -/

namespace Sys2Proof.Machine

/-- Each exact form writes a result with the flags of R172. -/
theorem exec_exactForms : ∀ p ∈ exactForms, ∀ (d a b : BitVec 6) (s : State),
    exec (p.1 d a b) s = s.fpExact d (p.2 (s.x a) (s.x b)) := by
  simp only [exactForms, List.forall_mem_cons, List.not_mem_nil, false_imp_iff, implies_true, and_true]
  refine ⟨?_, ?_, ?_, ?_, ?_, ?_, ?_, ?_, ?_, ?_, ?_, ?_, ?_, ?_, ?_, ?_, ?_, ?_, ?_⟩
  all_goals exact fun _ _ _ _ => rfl

/-- Settles O24: every form is one write of a result with its flags, which takes no Sower word. -/
theorem floatExact : Obligations.FloatExact := by
  unfold Obligations.FloatExact
  intro p hp d a b s hl hh
  rw [exec_exactForms p hp, State.fpExact, State.hart_of_onHart hl hh]
  exact State.givesFloat_fpWrite hl d (p.2 (s.x a) (s.x b)) 0

end Sys2Proof.Machine
end

section
/-! BREAK (R191). -/

namespace Sys2Proof.Machine

section
variable {s : State} {gi h : Nat} {c : Cause} (hl : s.live = true) (hc : s.cur = some ⟨gi, .hart h⟩)

include hl hc in
/-- The thread of the hart in execution. -/
theorem State.thread?_me : s.thread? ⟨gi, .hart h⟩ = some s.me := by
  obtain ⟨a, t, ha, ht⟩ := State.live_iff.1 hl
  obtain rfl : a = ⟨gi, .hart h⟩ := Option.some.inj (ha.symm.trans hc)
  simp [State.me, ha, ht]

include hc in
/-- The gang of the hart in execution. -/
theorem State.gangOf_cur : s.gangOf gi = s.myGang := by simp [State.myGang, State.who, hc]

variable (hm : c.code ≠ cMCHK) (hv : s.me.lvl = 0 ∧ (s.part s.myPart).stvec ≠ 0 ∨ s.me.lvl = 1)
include hl hc hm hv

/-- A trap that a handler of the hart in execution takes changes that hart's thread alone (R383). -/
theorem State.enterTrap_eq_setMe : ∃ f, s.enterTrap gi h c = s.setMe f := by
  have hset (f : Thread → Thread) : s.setMe f = s.modThread ⟨gi, .hart h⟩ f := by simp [State.setMe, hc]
  have hpart : s.partOfCore s.myGang.core = s.myPart := rfl
  unfold State.enterTrap
  dsimp only
  rw [State.thread?_me hl hc, State.gangOf_cur hc, hpart]
  dsimp only
  rw [if_neg hm]
  rcases hv with ⟨h0, hne⟩ | h1
  · rw [if_neg (by omega), if_pos (by omega), if_neg hne]
    exact ⟨_, (hset _).symm⟩
  · rw [if_neg (by omega), if_neg (by omega)]
    exact ⟨_, (hset _).symm⟩

/-- What the hart in execution is in the handler of its level (R383, R386). -/
theorem State.entered_enterTrap : Entered s.me (s.enterTrap gi h c).me c
    (faultRecord c s.me.lvl (if c.src = 3 then 255 else h) s.myGang.slot s.myGang.core) (s.me.lvl + 1)
    (if s.me.lvl = 0 then (s.part s.myPart).stvec else s.mod.fvec) := by
  obtain ⟨f, hf⟩ := State.enterTrap_eq_setMe hl hc hm hv
  obtain ⟨-, w, hw, he⟩ := State.enterTrap_entered (level := s.me.lvl + 1)
    (v := if s.me.lvl = 0 then (s.part s.myPart).stvec else s.mod.fvec) (State.thread?_me hl hc) hm (by
      rw [State.gangOf_cur hc]
      rcases hv with ⟨h0, hne⟩ | h1
      · exact .inl ⟨h0, by rw [h0], if_pos h0, by rwa [if_pos h0]⟩
      · exact .inr ⟨h1, by rw [h1], if_neg (by omega)⟩)
  have hme : (s.enterTrap gi h c).me = w := by
    have hcur : (s.enterTrap gi h c).cur = some ⟨gi, .hart h⟩ := by rw [hf, State.setMe_cur, hc]
    rw [State.me, hcur]
    dsimp only
    rw [hw, Option.getD_some]
  rwa [hme, ← State.gangOf_cur hc]

end

/-- Settles O17: with no cause pending BREAK enters the handler of its level. -/
theorem breakRaisesDebug : Obligations.BreakRaisesDebug := by
  unfold Obligations.BreakRaisesDebug
  intro s gi h hl hc hp hv
  have hh : s.onHart = true := by simp [State.onHart, hc]
  have hexec : exec .brk s = .next (s.enterTrap gi h (s.scalarCause cDEBUG 0 0)) :=
    (State.hart_of_onHart hl hh _).trans (State.trapWith_hart hc hp)
  have hm : (s.scalarCause cDEBUG 0 0).code ≠ cMCHK := show cDEBUG ≠ cMCHK by decide
  have hsrc : (s.scalarCause cDEBUG 0 0).src ≠ 3 := by simp [State.scalarCause, hh]
  have hentered := State.entered_enterTrap hl hc hm hv
  rw [if_neg hsrc] at hentered
  obtain ⟨f, hf⟩ := State.enterTrap_eq_setMe hl hc hm hv
  exact .intro hexec ⟨hf ▸ OnlyThread.setMe hl f, hf ▸ SameBytes.setMe s f, hentered⟩

end Sys2Proof.Machine
end

section
/-! WAITW: the read of its dword, the registration and the wait (R178, R179). -/

namespace Sys2Proof.Machine

/-- Bits 2 and 1 of an address. -/
theorem ushiftRight_one_and_three_eq_zero_iff (v : Word) : (v >>> 1) &&& 3#64 = 0 ↔ v.toNat / 2 % 4 = 0 := by
  rw [← BitVec.toNat_inj, BitVec.toNat_and, BitVec.toNat_ushiftRight, Nat.shiftRight_eq_div_pow]
  exact (Nat.and_two_pow_sub_one_eq_mod (v.toNat / 2 ^ 1) 2).congr_left

/-- Whether a stored write of the agent in execution is still to be performed in the sector of a place (R116). -/
def State.ownsWrite (s : State) (pl : Place) : Bool :=
  match pl with
  | .mem pa => s.me.wc.any fun e => e.gang.isNone && e.sector = pa / 32
  | _ => false

theorem State.ownsWrite_eq_false {s : State} {pl : Place}
    (h : ∀ e ∈ s.me.wc, e.gang = none → ∀ pa, pl = .mem pa → e.sector ≠ pa / 32) : s.ownsWrite pl = false := by
  cases pl with
  | mem pa =>
    refine List.any_eq_false.2 fun e he => ?_
    cases hg : e.gang with
    | none => simpa using h e he hg pa rfl
    | some k => simp
  | spad off | sdm off => rfl

/-- Room for one more registration at an owner (R179). -/
def State.hasRoom (s : State) (owner : Nat) : Prop :=
  (s.sleepers.filter fun r => r.owner = owner).length < tableSize owner

/-- The agent in execution registered at the owner of a word and waiting for it, with the directed yield it asks for
(R179, R180). -/
def State.sleepsOn (s : State) (pl : Place) (d : Nat) (yields : Bool) (m : Word) : State :=
  let key := keyOf s.who.gang pl
  let u := { s with sleepers := s.sleepers ++ [Sleeper.mk (ownerOf s.myCore pl) key s.who.gang s.hartNo] }
  (u.setMe fun t => { t with
    wait := .word d key yields (m.toNat / 2 ^ 40 % 2 ^ 24), stall := .none }).directedYield s.who

section
variable {s : State} (hl : s.live = true) (d a b : BitVec 6)
include hl

theorem State.waitw_misaligned (h : (s.x a).toNat / 2 % 4 ≠ 0) :
    exec (.waitw d a b) s = s.trapMem ⟨cALIGN, s.x a⟩ .read :=
  (State.agent_of_live hl _).trans (if_pos (mt (ushiftRight_one_and_three_eq_zero_iff _).1 h))

/-- WAITW whose access passes its checks compares the dword as its slice sees it. -/
theorem State.waitw_of_reaches {s1 : State} {pl : Place} (ha : (s.x a).toNat / 2 % 4 = 0)
    (hr : s.reaches .read (s.x a &&& ~~~7#64) 8 pl s1) (hown : (s1.setMe (·.closeSlice 0)).ownsWrite pl = false)
    (hst : (s1.setMe (·.closeSlice 0)).stalled pl = false) :
    let s2 := s1.setMe (·.closeSlice 0)
    let m : Word := BitVec.ofNat 64 (s2.seenAt s2.who pl 8)
    let s3 := (s2.noteRead s2.who pl 8).chargeAt s2.who.gang pl 8
    (m ≠ s3.x b ∨ ¬s3.hasRoom (ownerOf s3.myCore pl) → exec (.waitw d a b) s = s3.retWith d m) ∧
    (m = s3.x b → s3.hasRoom (ownerOf s3.myCore pl) →
      exec (.waitw d a b) s = .next (s3.sleepsOn pl d.toNat ((s.x a).getLsbD 0) m)) := by
  intro s2 m s3
  have hexec : exec (.waitw d a b) s =
      if m ≠ s3.x b || decide (tableSize (ownerOf s3.myCore pl) ≤
          (s3.sleepers.filter fun r => r.owner = ownerOf s3.myCore pl).length) then s3.retWith d m
      else .next (s3.sleepsOn pl d.toNat ((s.x a).getLsbD 0) m) := by
    refine (State.agent_of_live hl _).trans ((if_neg ?_).trans ((State.scalarAccess_of_reaches hr _).trans ?_))
    · exact not_not.2 ((ushiftRight_one_and_three_eq_zero_iff _).2 ha)
    · refine (if_neg (c := (s2.ownsWrite pl || s2.stalled pl) = true) (by rw [hown, hst]; decide)).trans ?_
      exact ite_congr rfl (fun _ => rfl) fun _ =>
        congrArg (fun w => Host.Outcome.next (State.directedYield _ w)) (State.who_setMe ..)
  have hroom : s3.hasRoom (ownerOf s3.myCore pl) ↔ ¬tableSize (ownerOf s3.myCore pl) ≤
      (s3.sleepers.filter fun r => r.owner = ownerOf s3.myCore pl).length := Nat.not_le.symm
  rw [hexec, hroom]
  exact ⟨fun h => if_pos (by simpa using h), fun hm hr => if_neg (by simpa [hm] using hr)⟩

end

/-- Settles O31: the dword is read as a load of the slice would, and the agent sleeps on it if it is equal and there is
room. -/
theorem sleepOnWord : Obligations.SleepOnWord := by
  unfold Obligations.SleepOnWord
  intro d a b s hl
  refine ⟨State.waitw_misaligned hl d a b, fun s1 pl ha hr => ?_⟩
  intro s2 hwc hst m s3 owner key room
  have hread : s2.Noted s3 := .trans (.noteRead s2 _ _ _) (.charge _ _ _ _)
  have h1 := (State.Noted.place hr.1.1).standsAs hl
  have h2 : s.StandsAs s2 := h1.trans (.setMe h1.live (fun _ => rfl) fun _ => rfl)
  have h3 : s.StandsAs s3 := h2.trans (hread.standsAs h2.live)
  obtain ⟨hret, hsleep⟩ := State.waitw_of_reaches hl d a b ha hr (State.ownsWrite_eq_false hwc) hst
  rw [← h3.x b]
  exact ⟨fun h => Finishes.of_eq (hret h) (Retires.retWith h3.live d m), hsleep⟩

end Sys2Proof.Machine
end

section
/-! The CSR forms: what is read, what is written, and that the agent in execution stays through both (R184, R185, R262,
R379, R380). -/

namespace Sys2Proof.Machine

/-! Changes through which the agent in execution stays. -/

section
variable {s t : State} {a : Agent} (h : s.Runs a)
include h

/-- An agent stays where every gang keeps its number of harts. -/
theorem State.Runs.of_gang (hc : t.cur = s.cur)
    (hg : ∀ (i : Nat) (g : Gang), s.gangs[i]? = some g →
      ∃ u : Gang, t.gangs[i]? = some u ∧ u.harts.length = g.harts.length) : t.Runs a := by
  refine ⟨hc.trans h.cur, ?_⟩
  have ht := h.thread
  unfold State.thread? at *
  cases hs : s.gangs[a.gang]? with
  | none =>
    rw [hs] at ht
    cases ht
  | some g =>
    obtain ⟨u, hu, hlen⟩ := hg _ g hs
    rw [hs] at ht
    rw [hu]
    exact (Gang.isSome_thread?_of_length hlen a.role).trans ht

theorem State.Runs.of_gangs (hc : t.cur = s.cur) (hg : t.gangs = s.gangs) : t.Runs a :=
  h.of_gang hc fun _ g hs => ⟨g, hg ▸ hs, rfl⟩

theorem State.Runs.modGang (i : Nat) {f : Gang → Gang} (hf : ∀ g, (f g).harts.length = g.harts.length) :
    (s.modGang i f).Runs a := by
  refine h.of_gang rfl fun j g hs => ?_
  rw [State.getElem?_modGang, hs]
  split
  · exact ⟨_, rfl, hf g⟩
  · exact ⟨_, rfl, rfl⟩

theorem State.Runs.map_gangs {f : Gang → Gang} (hc : t.cur = s.cur) (hg : t.gangs = s.gangs.map f)
    (hf : ∀ g, (f g).harts.length = g.harts.length) : t.Runs a :=
  h.of_gang hc fun _ g hs => ⟨f g, by rw [hg, List.getElem?_map, hs]; rfl, hf g⟩

theorem State.Runs.setMe (f : Thread → Thread) : (s.setMe f).Runs a := by
  unfold State.setMe
  split
  · exact h.modThread ..
  · exact h

end

theorem State.Runs.ite {s t : State} {a : Agent} {p : Prop} [Decidable p] (hs : s.Runs a) (ht : t.Runs a) :
    (if p then s else t).Runs a := by
  split
  · exact hs
  · exact ht

theorem State.Runs.foldl {β : Type} {a : Agent} {f : State → β → State} (hf : ∀ s b, s.Runs a → (f s b).Runs a)
    (l : List β) {s : State} (h : s.Runs a) : (l.foldl f s).Runs a := by
  induction l generalizing s with
  | nil => exact h
  | cons b l ih => exact ih (hf s b h)

theorem State.Runs.of_live {s : State} (hl : s.live = true) : ∃ a, s.Runs a := by
  obtain ⟨a, t, hc, ht⟩ := State.live_iff.1 hl
  exact ⟨a, hc, by rw [ht]; rfl⟩

/-! Reads. -/

section
variable {s t : State} {a : Agent} (hs : s.Runs a) {v : Word} {c : Nat}
include hs

theorem State.Runs.readShared (h : s.readShared c = some (v, t)) : t.Runs a := by
  unfold State.readShared at h
  dsimp only at h
  split at h
  case h_7 =>
    cases h
    exact hs.of_gangs rfl rfl
  case h_9 => cases h
  all_goals
    cases h
    exact hs

theorem State.Runs.readAccess (h : s.readAccess c = some (v, t)) : t.Runs a := by
  unfold State.readAccess at h
  dsimp only at h
  split at h
  case h_3 => exact hs.readShared h
  all_goals
    cases h
    exact hs

theorem State.Runs.readUser (h : s.readUser c = some (v, t)) : t.Runs a := by
  unfold State.readUser at h
  dsimp only at h
  split at h
  case h_9 => exact hs.readShared h
  all_goals
    cases h
    exact hs

/-- A register of a run of them is read with no effect. -/
theorem State.Runs.ite_read {p : Prop} [Decidable p] {w : Word} {o : CsrRead}
    (h : (if p then some (w, s) else o) = some (v, t)) (ho : o = some (v, t) → t.Runs a) : t.Runs a := by
  split at h
  · cases h
    exact hs
  · exact ho h

theorem State.Runs.readSuper (h : s.readSuper c = some (v, t)) : t.Runs a := by
  unfold State.readSuper at h
  dsimp only at h
  split at h
  case h_14 =>
    cases h
    exact hs.of_gangs rfl rfl
  case h_15 => exact hs.ite_read h fun h => hs.ite_read h nofun
  all_goals
    cases h
    exact hs

theorem State.Runs.readFirm (h : s.readFirm c = some (v, t)) : t.Runs a := by
  unfold State.readFirm at h
  dsimp only at h
  split at h
  case h_22 => exact hs.ite_read h fun h => hs.ite_read h fun h => hs.ite_read h nofun
  all_goals
    cases h
    exact hs

theorem State.Runs.readCsr {c : BitVec 12} (h : s.readCsr c = some (v, t)) : t.Runs a := by
  unfold State.readCsr at h
  dsimp only at h
  split at h
  · exact hs.readAccess h
  split at h
  · exact hs.readUser h
  split at h
  · split at h
    · exact hs.readSuper h
    · cases h
  split at h
  · exact hs.readFirm h
  · cases h

end

/-! Writes. -/

section
variable {s t : State} {a : Agent} (hs : s.Runs a)
include hs

theorem State.Runs.endSeries (gi : Nat) : (s.endSeries gi).Runs a := by
  unfold State.endSeries
  dsimp only
  split
  · exact hs
  · refine State.Runs.modGang ?_ gi fun _ => rfl
    exact hs.of_gangs rfl rfl

theorem State.Runs.writeCgroup (gi gidx : Nat) : (s.writeCgroup gi gidx).Runs a :=
  (hs.endSeries gi).modGang gi fun _ => rfl

theorem State.Runs.writeLgmode (core : Nat) (v : Word) : (s.writeLgmode core v).Runs a := by
  unfold State.writeLgmode
  refine State.Runs.foldl (fun u k hu => ?_) _ (hs.map_gangs rfl rfl fun g => ?_)
  · split
    · exact .ite (hu.modThread ..) hu
    · exact hu
  · split
    · rfl
    · exact List.length_map _

theorem State.Runs.writeShared (c : Nat) (v : Word) : (s.writeShared c v).Runs a := by
  unfold State.writeShared
  dsimp only
  split
  case h_1 => exact hs.writeCgroup ..
  case h_5 => exact .ite (hs.writeLgmode ..) hs
  case h_6 => exact hs
  all_goals exact hs.modGang _ fun _ => rfl

theorem State.Runs.writeAccess (c : Nat) (v : Word) : (s.writeAccess c v).Runs a :=
  .ite (hs.setMe _) (hs.writeShared c v)

theorem State.Runs.writeUser (c : Nat) (v : Word) : (s.writeUser c v).Runs a := by
  unfold State.writeUser
  split
  case h_4 => exact hs.writeShared c v
  all_goals exact hs.setMe _

theorem State.Runs.writeSuper (c : Nat) (v : Word) : (s.writeSuper c v).Runs a := by
  unfold State.writeSuper
  dsimp only
  split
  case h_1 | h_3 | h_4 | h_5 | h_6 => exact hs.setMe _
  case h_13 => exact .ite (hs.setMe _) hs
  all_goals exact hs.of_gangs rfl rfl

theorem State.Runs.writeFpmem (v : Word) : (s.writeFpmem v).Runs a := by
  obtain ⟨e, k, he⟩ := s.writeFpmem_eq v
  rw [he]
  exact hs.of_gangs rfl rfl

theorem State.Runs.coreTest (core : Nat) : (s.coreTest core).Runs a := by
  unfold State.coreTest
  generalize (s.mod.binding[core]?).getD none = b
  cases b with
  | none => exact hs.of_gangs rfl rfl
  | some p => exact hs.of_gangs rfl rfl

theorem State.Runs.writeFbtab (i : Nat) (v : Word) : (s.writeFbtab i v).Runs a :=
  .ite hs (hs.of_gangs rfl rfl)

variable {v : Word}

theorem State.Runs.writeFpart (h : s.writeFpart v = some t) : t.Runs a := by
  unfold State.writeFpart at h
  split at h
  · cases h
  · cases h
    exact hs.map_gangs rfl rfl fun _ => rfl

theorem State.Runs.writeFhtest (h : s.writeFhtest v = some t) : t.Runs a := by
  unfold State.writeFhtest at h
  split at h
  · cases h
  · cases h
    refine State.Runs.setMe ?_ _
    exact hs.of_gangs rfl rfl

theorem State.Runs.writeFctest (h : s.writeFctest v = some t) : t.Runs a := by
  unfold State.writeFctest at h
  split at h
  · cases h
    exact hs.coreTest _
  · cases h

theorem State.Runs.writeFrcommit (h : s.writeFrcommit = some t) : t.Runs a := by
  unfold State.writeFrcommit at h
  split at h
  · cases h
    exact hs.of_gangs rfl rfl
  · cases h

theorem State.Runs.writeFirm {c : Nat} (h : s.writeFirm c v = some t) : t.Runs a := by
  unfold State.writeFirm at h
  dsimp only at h
  split at h
  case h_5 => exact hs.writeFpart h
  case h_15 => exact hs.writeFhtest h
  case h_18 => exact hs.writeFctest h
  case h_19 => exact hs.writeFrcommit h
  case h_21 =>
    split at h
    · rw [← Option.some.inj h]
      exact hs.writeFbtab ..
    split at h
    · cases h
      exact hs.of_gangs rfl rfl
    · cases h
      exact hs
  case h_1 | h_3 | h_4 =>
    cases h
    exact hs.setMe _
  case h_7 =>
    cases h
    exact hs.writeFpmem v
  case h_8 =>
    cases h
    exact .ite hs (hs.of_gangs rfl rfl)
  case h_12 =>
    cases h
    exact (hs.setMe _).of_gangs rfl rfl
  case h_17 =>
    cases h
    exact .ite (hs.of_gangs rfl rfl) hs
  all_goals
    cases h
    exact hs.of_gangs rfl rfl

theorem State.Runs.writeCsr {c : BitVec 12} (h : s.writeCsr c v = some t) : t.Runs a := by
  unfold State.writeCsr at h
  dsimp only at h
  split at h
  · cases h
    exact hs.writeAccess ..
  split at h
  · cases h
    exact hs.writeUser ..
  split at h
  · cases h
    exact hs.writeSuper ..
  · exact hs.writeFirm h

end

/-! The forms. -/

theorem exec_csrrw (d a : BitVec 6) (c : BitVec 12) (s : State) :
    exec (.csrrw d a c) s = s.csr d c fun _ => some (s.x a) := rfl

theorem exec_csrrs (d a : BitVec 6) (c : BitVec 12) (s : State) :
    exec (.csrrs d a c) s = s.csr d c fun v => if a = 0 then none else some (v ||| s.x a) := rfl

theorem exec_csrrc (d a : BitVec 6) (c : BitVec 12) (s : State) :
    exec (.csrrc d a c) s = s.csr d c fun v => if a = 0 then none else some (v &&& ~~~s.x a) := rfl

section
variable {s s1 : State} (hl : s.live = true) (d : BitVec 6) {c : BitVec 12}
include hl

/-- A form of a CSR that the agent may not name is ILLOP. -/
theorem State.csr_of_none (h : s.readCsr c = none) (f : Word → Option Word) : s.csr d c f = s.illop := by
  rw [State.csr, State.agent_of_live hl, h]

variable {v : Word} (h : s.readCsr c = some (v, s1)) {f : Word → Option Word}
include h

/-- A form that writes nothing returns what it has read. -/
theorem State.csr_of_read (hf : f v = none) : Finishes (s.csr d c f) s1 d.toNat v := by
  rw [State.csr, State.agent_of_live hl, h]
  dsimp only
  rw [hf]
  obtain ⟨a, ha⟩ := State.Runs.of_live hl
  exact Retires.retWith (ha.readCsr h).live d v

/-- A form that writes a value returns the old one, unless the CSR refuses what is written. -/
theorem State.csr_of_write {w : Word} (hf : f v = some w) :
    (∀ s2, s1.writeCsr c w = some s2 → Finishes (s.csr d c f) s2 d.toNat v) ∧
    (s1.writeCsr c w = none → s.csr d c f = s1.illop) := by
  rw [State.csr, State.agent_of_live hl, h]
  dsimp only
  rw [hf]
  dsimp only
  obtain ⟨a, ha⟩ := State.Runs.of_live hl
  refine ⟨fun s2 h2 => ?_, fun h2 => by rw [h2]⟩
  rw [h2]
  exact Retires.retWith ((ha.readCsr h).writeCsr h2).live d v

end

/-- The level that a CSR asks of a hart (R379). -/
theorem State.readCsr_of_low {s : State} (hh : s.onHart = true) {c : BitVec 12} {n : Nat} (hc : 256 * n ≤ c.toNat)
    (hn : n ≤ 2) (hl : s.me.lvl < n) : s.readCsr c = none := by
  unfold State.readCsr
  rw [hh]
  dsimp only
  rw [if_neg nofun, if_neg (by omega)]
  split
  · exact if_neg (by omega)
  · exact if_neg (by omega)

/-- Settles O32: the three forms are one read and one write, through which the agent in execution stays. -/
theorem csrAccess : Obligations.CsrAccess := by
  unfold Obligations.CsrAccess
  refine ⟨fun d a c s s1 v hl hr => ?_, fun d a c s hl hr => ?_, fun c s hh => ?_⟩
  · have hwrites {i : Instr} {w : Word} {f : Word → Option Word} (hi : exec i s = s.csr d c f) (hf : f v = some w) :
        (∀ s2, s1.writeCsr c w = some s2 → Finishes (exec i s) s2 d.toNat v) ∧
        (s1.writeCsr c w = none → exec i s = s1.illop) := hi ▸ State.csr_of_write hl d hr hf
    have hreads {i : Instr} {f : Word → Option Word} (hi : exec i s = s.csr d c f) (hf : f v = none) :
        Finishes (exec i s) s1 d.toNat v := hi ▸ State.csr_of_read hl d hr hf
    exact ⟨hwrites (exec_csrrw d a c s) rfl,
      fun ha => ⟨hwrites (exec_csrrs d a c s) (if_neg ha), hwrites (exec_csrrc d a c s) (if_neg ha)⟩,
      fun ha => ⟨hreads (exec_csrrs d a c s) (if_pos ha), hreads (exec_csrrc d a c s) (if_pos ha)⟩⟩
  · have hnone {i : Instr} {f : Word → Option Word} (hi : exec i s = s.csr d c f) : exec i s = s.illop :=
      hi.trans (State.csr_of_none hl d hr f)
    exact ⟨hnone (exec_csrrw d a c s), hnone (exec_csrrs d a c s), hnone (exec_csrrc d a c s)⟩
  · exact ⟨fun hc hl => State.readCsr_of_low hh (n := 1) hc (by decide) (by omega),
      fun hc hl => State.readCsr_of_low hh (n := 2) hc (by decide) (by omega)⟩

end Sys2Proof.Machine
end

section
/-! Forms whose sources resolve and whose checks hold, by the number of their sources (R143, R196, R197). -/

namespace Sys2Proof.Machine

/-- The fields of a form of one source, and of two. -/
def oneSource (a d : BitVec 6) (q m : Bool) : Fields := ⟨[a], some d, q, m⟩

@[inherit_doc oneSource]
def twoSources (a b d : BitVec 6) (q m : Bool) : Fields := ⟨[a, b], some d, q, m⟩

/-- A form that contexts issue too is what its push gives, where the queues are not frozen (R384). -/
theorem State.both_eq {s : State} (hr : s.room) (p : Push State) : s.both p = s.pushOut p := by
  obtain ⟨hl, hf, -⟩ := hr
  unfold State.both
  rw [State.agent_of_live hl, hf]
  rfl

theorem State.Claims.vsecond {s u : State} {t : Option Tag} {g : Bool} {tag : Tag} {b : BitVec 6} {gb : Word} {y : Operand}
    (h : s.vsecond t g tag b gb = .ok (y, u)) : s.Claims u := by
  unfold State.vsecond at h
  split at h
  · cases h
    exact .refl s
  · exact .vsource h

theorem Settled.vsecond (s : State) (t : Tag) (g : Bool) (tag : Tag) (b : BitVec 6) (gb : Word) :
    Settled (s.vsecond (some t) g tag b gb) := by
  unfold State.vsecond
  split
  · exact .ok _
  · exact .vsource s t b

/-- The record of a form on a state that differs in claimed entries alone. -/
theorem State.Claims.record {s u : State} (h : s.Claims u) (hl : s.live = true) (op : VOp) (f : Fields) (n : Nat) (out : Tag) :
    u.record op f n out = { u.blank op n with
      masked := f.mask, dst := s.vdest f, tagD := s.destTag (s.vdest f), opTag := out, outTag := out
      rezero := rezeroOf (s.vdest f) (s.destTag (s.vdest f)) out } := by
  unfold State.record
  dsimp only
  rw [h.vdest, h.destTag hl]

theorem State.length_of_hart {s : State} (hh : s.onHart = true) (f : Fields) (n : Option Nat) :
    s.length f n = .ok s.me.vl := if_pos hh

/-- Two sources in field order, one after the other (R197). -/
theorem State.vsources_bind {β : Type} (s : State) (u : Option Tag) (a b : BitVec 6) (k : Operand × Operand × State → Push β) :
    s.vsources u a b >>= k = s.vsource u a >>= fun p => p.2.vsource u b >>= fun q => k (p.1, q.1, q.2) := by
  unfold State.vsources
  cases s.vsource u a with
  | error e => rfl
  | ok p =>
    show (p.2.vsource u b >>= fun q => pure (p.1, q.1, q.2)) >>= k = p.2.vsource u b >>= fun q => k (p.1, q.1, q.2)
    cases p.2.vsource u b <;> rfl

/-- A choice of tags that is refused where there is none. -/
theorem Settled.elim {β : Type} {o : Option β} {k : β → Push State} (hk : ∀ v, o = some v → Settled (k v)) :
    Settled (o.elim illopP k) := by
  cases o with
  | none => exact .illop
  | some v => exact hk v rfl

/-- What most forms do once their sources are known: one check, the length and the push. -/
def State.pushIf (s : State) (ok : Bool) (f : Fields) (r : Nat → VRec) : Push State :=
  need ok >>= fun _ => s.length f none >>= fun n => s.pushVec (r n)

section
variable {s u v : State} (hr : s.room) {f : Fields} {n : Nat}
include hr

theorem Settled.pushIf (hn : s.length f none = .ok n) (hc : s.Claims u) (ok : Bool) (r : Nat → VRec) :
    Settled (u.pushIf ok f r) := by
  refine (Settled.need ok).bind fun _ _ => ?_
  rw [hc.length hr.1, hn]
  exact (hc.room.2 hr).settled_pushVec _

theorem State.pushIf_of_ok (hn : s.length f none = .ok n) (hc : s.Claims u) {ok : Bool} (h : ok = true) (r : Nat → VRec) :
    u.pushIf ok f r = u.pushVec (r n) :=
  (Push.bind_need h _).trans (Push.bind_of_ok ((hc.length hr.1 _ _).trans hn) _)

variable {t : Option Tag} {a : BitVec 6} {x : Operand} {s1 : State} (hx : s.vsource t a = .ok (x, s1)) (hv : v.room) {r : VRec}
  (e : VRec)
include hx hv

/-- A form of one source. -/
theorem State.takes_one {k : Operand → State → Push State} (hk : ∀ x u, s.Claims u → Settled (k x u))
    (h : k x s1 = v.pushVec r) :
    s.Takes f t (s.pushOut (s.form f e fun t => s.vsource t a >>= fun p => k p.1 p.2)) v r e :=
  .of_form hr hv (fun t => (Settled.vsource s t a).bind fun p hp => hk p.1 p.2 (.vsource hp))
    ((Push.bind_of_ok hx _).trans h) e

/-- A form of two sources, the second of which may be a scalar (R150). -/
theorem State.takes_two {k : Operand → Operand → State → Push State} (hk : ∀ x y u, s.Claims u → Settled (k x y u))
    {s2 : State} {y : Operand} {b : BitVec 6} {g : Bool} (hy : s.second t s1 s2 x y b g) (h : k x y s2 = v.pushVec r) :
    s.Takes f t (s.pushOut (s.form f e fun t => s.vsource t a >>= fun p => p.2.vsecond t g p.1.tag b (s.x b) >>= fun q =>
      k p.1 q.1 q.2)) v r e :=
  .of_form hr hv (fun t => (Settled.vsource s t a).bind fun p hp => (Settled.vsecond ..).bind fun q hq =>
      hk p.1 q.1 q.2 ((State.Claims.vsource hp).trans (.vsecond hq)))
    ((Push.bind_of_ok hx _).trans ((Push.bind_of_ok (hy.vsecond (.vsource hx)) _).trans h)) e

end

/-- A form of one source with one check. -/
theorem State.takes_oneIf {s s1 : State} (hr : s.room) {f : Fields} {n : Nat} (hn : s.length f none = .ok n) {t : Option Tag}
    {a : BitVec 6} {x : Operand} (hx : s.vsource t a = .ok (x, s1)) {ok : Operand → Bool} (h : ok x = true)
    (r : Operand → State → Nat → VRec) (e : VRec) :
    s.Takes f t (s.pushOut (s.form f e fun t => s.vsource t a >>= fun p => p.2.pushIf (ok p.1) f (r p.1 p.2))) s1
      (r x s1 n) e :=
  State.takes_one hr hx ((State.Claims.vsource hx).room.2 hr) e (k := fun x u => u.pushIf (ok x) f (r x u))
    (fun _ _ hc => .pushIf hr hn hc _ _) (State.pushIf_of_ok hr hn (.vsource hx) h _)

/-- A form of two vector sources. -/
theorem State.takes_vsources {s s1 s2 : State} (hr : s.room) {f : Fields} {t : Option Tag} {a b : BitVec 6} {x y : Operand}
    (hx : s.vsource t a = .ok (x, s1)) (hy : s1.vsource t b = .ok (y, s2)) {k : Operand → Operand → State → Push State}
    (hk : ∀ x y u, s.Claims u → Settled (k x y u)) {r : VRec} (h : k x y s2 = s2.pushVec r) (e : VRec) :
    s.Takes f t (s.pushOut (s.form f e fun t => s.vsources t a b >>= fun p => k p.1 p.2.1 p.2.2)) s2 r e := by
  have hc : s.Claims s2 := (State.Claims.vsource hx).trans (.vsource hy)
  simp only [State.vsources_bind]
  exact State.takes_two hr hx (hc.room.2 hr) e hk (g := false) hy h

/-- A form of two vector sources with one check. -/
theorem State.takes_vsourcesIf {s s1 s2 : State} (hr : s.room) {f : Fields} {n : Nat} (hn : s.length f none = .ok n)
    {t : Option Tag} {a b : BitVec 6} {x y : Operand} (hx : s.vsource t a = .ok (x, s1)) (hy : s1.vsource t b = .ok (y, s2))
    {ok : Operand → Operand → Bool} (h : ok x y = true) (r : Operand → Operand → State → Nat → VRec) (e : VRec) :
    s.Takes f t (s.pushOut (s.form f e fun t => s.vsources t a b >>= fun p =>
      p.2.2.pushIf (ok p.1 p.2.1) f (r p.1 p.2.1 p.2.2))) s2 (r x y s2 n) e :=
  State.takes_vsources hr hx hy (k := fun x y u => u.pushIf (ok x y) f (r x y u)) (fun _ _ _ hc => .pushIf hr hn hc _ _)
    (State.pushIf_of_ok hr hn ((State.Claims.vsource hx).trans (.vsource hy)) h _) e

/-- A form without sources. -/
theorem State.pushes_unsourced {s : State} (hr : s.room) {f : Fields} (hs : f.srcs = []) (hf : s.named f = .ok ())
    {p : Push State} {r : VRec} (hp : p = s.pushVec r) (e : VRec) : Pushes (s.pushOut (s.form f e fun _ => p)) s r := by
  have hpops : s.popsNothing f = false := by simp [State.popsNothing, hs]
  obtain ⟨t, ht, hq⟩ := hr.pushVec r
  exact .of_ok ((State.form_pops hf hpops _ e).trans (hp.trans ht)) hq

end Sys2Proof.Machine
end

section
/-! Pushing the forms of VACC and the fused forms (R208, R209). -/

namespace Sys2Proof.Machine

/-- Each form of VACC pushes its function (R209). -/
theorem exec_vaccForms : ∀ p ∈ vaccForms, ∀ (d a b : BitVec 6) (n sc m : Bool) (s : State),
    exec (p.1 d a b n sc m) s = s.execute (s.pushVacc p.2 d a (if p.2.unary then 0 else b) n sc m) := by
  simp only [vaccForms, List.forall_mem_cons, List.not_mem_nil, false_imp_iff, implies_true, and_true]
  refine ⟨?_, ?_, ?_, ?_, ?_, ?_, ?_, ?_, ?_, ?_, ?_, ?_, ?_, ?_, ?_, ?_, ?_, ?_, ?_, ?_, ?_, ?_, ?_⟩
  all_goals exact fun _ _ _ _ _ _ _ => rfl

/-- Each fused form pushes its function, of two sources or of a row and a source (R208, R209). -/
theorem exec_fmaForms : ∀ p ∈ fmaForms, ∀ (d a b : BitVec 6) (n sc m : Bool) (s : State),
    (∀ g, exec (p.1 d a b n sc m g) s = s.execute (s.pushFma p.2.2 d a b n sc m g)) ∧
      exec (p.2.1 d a b n sc m) s = s.execute (s.pushFmaAcc p.2.2 d a b n sc m) := by
  simp only [fmaForms, List.forall_mem_cons, List.not_mem_nil, false_imp_iff, implies_true, and_true]
  refine ⟨?_, ?_, ?_, ?_⟩
  all_goals exact fun _ _ _ _ _ _ _ => ⟨fun _ => rfl, rfl⟩

/-- An accumulator row as a source (R209). -/
def rowOf (tile row : Nat) (t : Tag) : Operand := ⟨.row tile row, t, 2048, none⟩

/-- A row selector resolves or is refused. -/
theorem Settled.rowOperand (s : State) (a : BitVec 6) : Settled (s.rowOperand a) := by
  refine Settled.bind ?_ fun p _ => (Settled.need _).bind fun _ _ => .ok _
  unfold State.rowSource
  dsimp only
  split
  · exact .illop
  · split
    · exact .ok _
    · exact .illop

theorem State.rowOperand_ok {s : State} {a : BitVec 6} {tile row : Nat} {t : Tag} (h : s.rowSource (s.x a) = .ok (tile, row, t))
    (hvl : s.me.vl ≤ 2048) : s.rowOperand a = .ok (rowOf tile row t) :=
  (Push.bind_of_ok h _).trans (Push.bind_need (decide_eq_true hvl) _)

/-! VACC. -/

/-- The second source of a form of VACC: a unary function has its row alone. -/
def State.vaccSecond (s : State) (f : AluFn) (u : Option Tag) (x : Operand) (b : BitVec 6) : Push (Operand × State) :=
  if f.unary then .ok (x, s) else s.vsource u b

/-- The fields that a form of VACC names. -/
def vaccFields (f : AluFn) (d b : BitVec 6) (m : Bool) : Fields := ⟨if f.unary then [] else [b], some d, true, m⟩

theorem State.pushVacc_eq (s : State) (f : AluFn) (d a b : BitVec 6) (n sc m : Bool) :
    s.pushVacc f d a (if f.unary then 0 else b) n sc m = s.form (vaccFields f d b m) (s.blank (.alu f) 0) fun u =>
      s.rowOperand a >>= fun x => s.vaccSecond f u x b >>= fun q => q.2.pushAlu f (vaccFields f d b m) x q.1 n sc false := by
  unfold State.pushVacc State.vaccSecond vaccFields
  cases f.unary <;> rfl

theorem State.Claims.vaccSecond {s v : State} {f : AluFn} {u : Option Tag} {x y : Operand} {b : BitVec 6}
    (h : s.vaccSecond f u x b = .ok (y, v)) : s.Claims v := by
  unfold State.vaccSecond at h
  split at h
  · cases h
    exact .refl s
  · exact .vsource h

theorem Settled.vaccSecond (s : State) (f : AluFn) (t : Tag) (x : Operand) (b : BitVec 6) :
    Settled (s.vaccSecond f (some t) x b) := by
  unfold State.vaccSecond
  split
  · exact .ok _
  · exact .vsource s t b

theorem State.AluChecks.of_claims {s u : State} (hc : s.Claims u) (hl : s.live = true) {f : AluFn} {x y t dt : Tag}
    {n sc : Bool} (h : s.AluChecks f x y n sc t dt) : u.AluChecks f x y n sc t dt :=
  ⟨h.operates, h.defined, by rw [hc.onHart]; exact h.integer, h.out, by rw [hc.fits hl]; exact h.fits,
    by rw [hc.fits hl]; exact h.fitsOut, by rw [hc.scaleOk]; exact h.scale, h.product⟩

/-- A form of VACC whose sources resolve and whose checks hold is pushed as its record (R209). -/
theorem State.takes_vacc {s s2 s3 : State} (hr : s.room) {f : AluFn} {d a b : BitVec 6} {n sc m : Bool} {u : Option Tag}
    {tile row : Nat} {ta t dt : Tag} {y : Operand} {vl : Nat} (hrow : s.rowOperand a = .ok (rowOf tile row ta))
    (hy : if f.unary then y = rowOf tile row ta ∧ s2 = s else s.vsource u b = .ok (y, s2))
    (hc : s.AluChecks f ta y.tag n sc t dt) (hvl : s.length (vaccFields f d b m) none = .ok vl)
    (hv : s2.reserveSower (aluRounds f t n sc) vl = .ok s3) :
    s.Takes (vaccFields f d b m) u (s.pushOut (s.pushVacc f d a (if f.unary then 0 else b) n sc m)) s3
      (s2.vopRecord f (s.vdest (vaccFields f d b m)) (s.destTag (s.vdest (vaccFields f d b m))) m sc false
        (rowOf tile row ta) y t dt vl)
      (s.blank (.alu f) 0) := by
  have hsecond : s.vaccSecond f u (rowOf tile row ta) b = .ok (y, s2) := by
    unfold State.vaccSecond
    split at hy
    · rename_i hf
      obtain ⟨rfl, rfl⟩ := hy
      exact if_pos hf
    · rename_i hf
      exact (if_neg hf).trans hy
  have hclaims : s.Claims s2 := .vaccSecond hsecond
  have hunary : f.unary = true → y = rowOf tile row ta := fun hf => by
    rw [if_pos hf] at hy
    exact hy.1
  rw [State.pushVacc_eq]
  refine .of_form hr ((hclaims.room.2 hr).reserveSower hv) (fun t => ?_) ?_ _
  · exact (Settled.rowOperand s a).bind fun x _ => (Settled.vaccSecond s f t x b).bind fun q hq =>
      have hq : s.Claims q.2 := .vaccSecond hq
      .pushAlu (hq.room.2 hr) ((hq.length hr.1 _ _).trans hvl) ..
  · calc _
      _ = _ := Push.bind_of_ok hrow _
      _ = _ := Push.bind_of_ok hsecond _
      _ = _ := State.AluChecks.pushAlu (x := rowOf tile row ta) (hc.of_claims hclaims hr.1) hunary
        ((hclaims.length hr.1 _ _).trans hvl) hv false
      _ = _ := by rw [hclaims.vdest, hclaims.destTag hr.1]; rfl

/-! Fused forms. -/

/-- The record of a fused form (R208). -/
def State.fmaRecord (s : State) (f : FmaFn) (dst : Dst) (old : Tag) (m sc : Bool) (x y : Operand) (t dt : Tag) (vl : Nat) :
    VRec :=
  { s.blank (.fma f) vl with
    masked := m, scaled := sc, dst := dst, srcA := x.src, srcB := y.src, tagA := x.tag, tagB := y.tag
    tagD := old, opTag := t, outTag := dt, rezero := rezeroOf dst old dt, pops := popsOf [x, y] }

theorem Settled.pushFmaWith {s : State} (hr : s.room) {fs : Fields} {vl : Nat} (hvl : s.length fs none = .ok vl) (f : FmaFn)
    (x y : Operand) (n sc : Bool) : Settled (s.pushFmaWith f fs x y n sc) := by
  unfold State.pushFmaWith
  dsimp only
  split
  · exact .illop
  · refine (Settled.need _).bind fun _ _ => (Settled.aluOutTag ..).bind fun dt _ => (Settled.need _).bind fun _ _ => ?_
    rw [hvl]
    exact (Settled.reserveSower s _ vl).bind fun v hv => (hr.reserveSower hv).settled_pushVec _

/-- The checks of a fused form once its sources are known, `old` being the tag of its destination (R208). -/
structure State.FmaChecks (s : State) (x y old : Tag) (n sc : Bool) (t dt : Tag) : Prop where
  operates : (promote x y).bind (promote · old) = some t
  value : t ≠ .l6
  out : aluOutTag .add t n sc = .ok dt
  fits : s.fits t = true
  fitsOut : s.fits dt = true
  scale : s.scaleOk sc [x, y, old, dt] = true

/-- A fused form whose checks hold pushes its record. -/
theorem State.FmaChecks.pushFmaWith {s v : State} {fs : Fields} {x y : Operand} {n sc : Bool} {t dt : Tag}
    (h : s.FmaChecks x.tag y.tag (s.destTag (s.vdest fs)) n sc t dt) {vl : Nat} (hvl : s.length fs none = .ok vl)
    (hv : s.reserveSower t.floating vl = .ok v) (f : FmaFn) :
    s.pushFmaWith f fs x y n sc =
      v.pushVec (s.fmaRecord f (s.vdest fs) (s.destTag (s.vdest fs)) fs.mask sc x y t dt vl) := by
  have hlegal : (s.fits t && s.fits dt && s.scaleOk sc [x.tag, y.tag, s.destTag (s.vdest fs), dt]) = true := by
    rw [h.fits, h.fitsOut, h.scale]
    rfl
  unfold State.pushFmaWith
  dsimp only
  rw [h.operates]
  calc _
    _ = _ := Push.bind_need (decide_eq_true h.value) _
    _ = _ := Push.bind_of_ok h.out _
    _ = _ := Push.bind_need hlegal _
    _ = _ := Push.bind_of_ok hvl _
    _ = v.pushVec (s.fmaRecord f (s.vdest fs) (s.destTag (s.vdest fs)) fs.mask sc x y t dt vl) := Push.bind_of_ok hv _

theorem State.pushFmaAcc_eq (s : State) (f : FmaFn) (d a b : BitVec 6) (n sc m : Bool) :
    s.pushFmaAcc f d a b n sc m = s.form ⟨[b], some d, false, m⟩ (s.blank (.fma f) 0) fun u =>
      s.rowOperand a >>= fun x => s.vsource u b >>= fun q =>
        q.2.pushFmaWith f ⟨[b], some d, false, m⟩ x q.1 n sc := rfl

section
variable {s s2 s3 : State} (hr : s.room) {f : FmaFn} {d a b : BitVec 6} {n sc m : Bool} {u : Option Tag} {x y : Operand}
  {t dt : Tag} (hh : s.onHart = true) (hd : isQueue d = false)
  (hc : s.FmaChecks x.tag y.tag (s.me.vreg d.toNat).tag n sc t dt) (hv : s2.reserveSower t.floating s.me.vl = .ok s3)
include hr hh hd hc hv

/-- What a fused form with a register as its destination pushes once its sources have resolved. -/
theorem State.pushFmaWith_register {srcs : List (BitVec 6)} (h2 : s.Claims s2) :
    s2.pushFmaWith f ⟨srcs, some d, false, m⟩ x y n sc = s3.pushVec
      (s2.fmaRecord f (.reg d.toNat) (s.me.vreg d.toNat).tag m sc x y t dt s.me.vl) := by
  have hdst : s2.vdest ⟨srcs, some d, false, m⟩ = .reg d.toNat := (h2.vdest _).trans (by simp [State.vdest, hd])
  have hold : s2.destTag (.reg d.toNat) = (s.me.vreg d.toNat).tag := h2.destTag hr.1 _
  have hchecks : s2.FmaChecks x.tag y.tag (s2.destTag (s2.vdest ⟨srcs, some d, false, m⟩)) n sc t dt := by
    rw [hdst, hold]
    exact ⟨hc.operates, hc.value, hc.out, by rw [h2.fits hr.1]; exact hc.fits, by rw [h2.fits hr.1]; exact hc.fitsOut,
      by rw [h2.scaleOk]; exact hc.scale⟩
  have hvl : s2.length ⟨srcs, some d, false, m⟩ none = .ok s.me.vl :=
    (h2.length hr.1 _ _).trans (State.length_of_hart hh _ _)
  rw [hchecks.pushFmaWith hvl hv f, hdst, hold]

/-- A fused form of two sources (R208). -/
theorem State.takes_fma {s1 : State} {g : Bool} (hx : s.vsource u a = .ok (x, s1)) (hy : s.second u s1 s2 x y b g) :
    s.Takes ⟨if g then [a] else [a, b], some d, false, m⟩ u (s.pushOut (s.pushFma f d a b n sc m g)) s3
      (s2.fmaRecord f (.reg d.toNat) (s.me.vreg d.toNat).tag m sc x y t dt s.me.vl) (s.blank (.fma f) 0) := by
  have hclaims : s.Claims s2 := (State.Claims.vsource hx).trans (.vsecond (hy.vsecond (.vsource hx)))
  exact State.takes_two hr hx ((hclaims.room.2 hr).reserveSower hv) _
    (k := fun x y v => v.pushFmaWith f ⟨pairFields g a b, some d, false, m⟩ x y n sc)
    (fun x y v hv => .pushFmaWith (hv.room.2 hr) (State.length_of_hart (hv.onHart.trans hh) _ _) ..) hy
    (State.pushFmaWith_register hr hh hd hc hv hclaims)

/-- A fused form of an accumulator row and a source (R208, R209). -/
theorem State.takes_fmaAcc (hrow : s.rowOperand a = .ok x) (hy : s.vsource u b = .ok (y, s2)) :
    s.Takes ⟨[b], some d, false, m⟩ u (s.pushOut (s.pushFmaAcc f d a b n sc m)) s3
      (s2.fmaRecord f (.reg d.toNat) (s.me.vreg d.toNat).tag m sc x y t dt s.me.vl) (s.blank (.fma f) 0) := by
  have hclaims : s.Claims s2 := .vsource hy
  rw [State.pushFmaAcc_eq]
  refine .of_form hr ((hclaims.room.2 hr).reserveSower hv) (fun t => ?_) ?_ _
  · exact (Settled.rowOperand s a).bind fun x _ => (Settled.vsource s t b).bind fun q hq =>
      have hq : s.Claims q.2 := .vsource hq
      .pushFmaWith (hq.room.2 hr) (State.length_of_hart (hq.onHart.trans hh) _ _) ..
  · calc _
      _ = _ := Push.bind_of_ok hrow _
      _ = _ := Push.bind_of_ok hy _
      _ = _ := State.pushFmaWith_register hr hh hd hc hv hclaims

end

/-- A fused form writes no queue (R197). -/
theorem State.isQueue_of_named {s : State} {srcs : List (BitVec 6)} {d : BitVec 6} {m : Bool}
    (h : s.named ⟨srcs, some d, false, m⟩ = .ok ()) : isQueue d = false := by
  cases hd : isQueue d with
  | false => rfl
  | true =>
    have hbad : s.badDest d false = true := by simp [State.badDest, hd]
    simp [State.named, hbad, need, illopP, bind, Except.bind] at h

/-- Settles O41: the first source of VACC and VACCF is a row, and what follows is that of VOP and VFMA. -/
theorem queuedAccumulator : Obligations.QueuedAccumulator := by
  unfold Obligations.QueuedAccumulator
  intro d a b n sc m s hr hh
  refine ⟨?_, ?_⟩
  · intro p hp u s2 s3 tile row ta y t dt fs dst hrow hvl hy hprom hdef hout hfits hfitd hscale hprod hv
    rw [exec_vaccForms p hp, State.execute_eq hr.1 hh hr.2.1]
    exact State.takes_vacc hr (State.rowOperand_ok hrow hvl) hy ⟨hprom, hdef, .inl hh, hout, hfits, hfitd, hscale, hprod⟩
      (State.length_of_hart hh _ _) hv
  · intro p hp u s1 s2 s3 x y t0 t dt g old dst hprom0 hprom hl6 hout hfits hfitd hscale hv r e
    have hc : s.FmaChecks x.tag y.tag old n sc t dt :=
      ⟨by rw [hprom0]; exact hprom, hl6, hout, hfits, hfitd, hscale⟩
    obtain ⟨hfma, hacc⟩ := exec_fmaForms p hp d a b n sc m s
    refine ⟨fun hx hy hn => ?_, fun tile row ta hrow hvl hxrow hy hn => ?_⟩
    · rw [hfma g, State.execute_eq hr.1 hh hr.2.1]
      exact State.takes_fma hr hh (State.isQueue_of_named hn) hc hv hx hy hn
    · rw [hacc, State.execute_eq hr.1 hh hr.2.1]
      exact State.takes_fmaAcc hr hh (State.isQueue_of_named hn) hc hv (hxrow ▸ State.rowOperand_ok hrow hvl) hy hn

end Sys2Proof.Machine
end

section
/-! Pushing moves, conversions, scans, functions and the Sower's vector forms
    (R200, R213 to R219, R221, R222, R341). -/

namespace Sys2Proof.Machine

/-- Register 0 reads as zero (R154). -/
theorem State.x_zero (s : State) : s.x 0 = 0 := rfl

/-! The moving forms. -/

/-- Each moving form of one source (R216, R218). -/
theorem exec_moveForms : ∀ p ∈ moveForms, ∀ (d a b : BitVec 6) (m : Bool) (s : State),
    exec (p.instr d a b m) s = s.both (s.pushSlide p.op d (if p.swapped then b else a)
      (if p.reads then if p.swapped then a else b else 0) m p.toQueue p.mayAlias p.tagged) := by
  simp only [moveForms, List.forall_mem_cons, List.not_mem_nil, false_imp_iff, implies_true,
    and_true]
  refine ⟨?_, ?_, ?_, ?_, ?_, ?_⟩
  all_goals exact fun _ _ _ _ _ => rfl

/-- Each moving form with an index vector (R217). -/
theorem exec_indexForms : ∀ p ∈ indexForms, ∀ (d a b : BitVec 6) (m : Bool) (s : State),
    exec (p.1 d a b m) s = s.both (s.pushIndexed p.2.1 d a b m p.2.2) := by
  simp only [indexForms, List.forall_mem_cons, List.not_mem_nil, false_imp_iff, implies_true,
    and_true]
  exact ⟨fun _ _ _ _ _ => rfl, fun _ _ _ _ _ => rfl⟩

section
variable {s s1 s2 : State} (hr : s.room) {d a b : BitVec 6} {m : Bool} {u : Option Tag}
    {x y : Operand} {n : Nat}
  (hx : s.vsource u a = .ok (x, s1))
include hr hx

/-- A move whose source resolves and whose checks hold is pushed as its record (R216, R218). -/
theorem State.takes_slide {q : Bool} (hn : s.length (oneSource a d q m) none = .ok n)
    (hint : s.onHart = true ∨ x.tag.integer = true) {free : Bool}
    (hfree : free = true ∨ sameReg (s.vdest (oneSource a d q m)) x.src = false) (op : VOp)
        (r : BitVec 6) (tagged : Bool) :
    s.Takes (oneSource a d q m) u (s.pushOut (s.pushSlide op d a r m q free tagged)) s1
        { (s1.record op (oneSource a d q m) n x.tag).reading x with
          opa := if tagged then scalarUnder x.tag s.me.frm (s.x r) else s.x r } (s.blank op 0) := by
  exact State.takes_oneIf hr hn hx (ok := fun x => (s.onHart || x.tag.integer) &&
      (free || !sameReg (s.vdest (oneSource a d q m)) x.src))
    (by simp [hint, hfree]) (fun x u n => { (u.record op (oneSource a d q m) n x.tag).reading x with
      opa := if tagged then scalarUnder x.tag s.me.frm (s.x r) else s.x r }) _

/-- A gather or a send whose sources resolve and whose checks hold is pushed as its record (R217). -/
theorem State.takes_indexed {q : Bool} (hy : s1.vsource u b = .ok (y, s2))
    (hn : s.length (twoSources a b d q m) none = .ok n)
    (hindex : y.tag.integer = true) (hint : s.onHart = true ∨ x.tag.integer = true)
    (hxd : sameReg (s.vdest (twoSources a b d q m)) x.src = false)
    (hyd : sameReg (s.vdest (twoSources a b d q m)) y.src = false) (op : VOp) :
    s.Takes (twoSources a b d q m) u (s.pushOut (s.pushIndexed op d a b m q)) s2
        ((s2.record op (twoSources a b d q m) n x.tag).reading2 x y) (s.blank op 0) := by
  exact State.takes_vsourcesIf hr hn hx hy
      (ok := fun x y => y.tag.integer && (s.onHart || x.tag.integer) &&
      !sameReg (s.vdest (twoSources a b d q m)) x.src &&
      !sameReg (s.vdest (twoSources a b d q m)) y.src)
    (by simp [hindex, hint, hxd, hyd])
    (fun x y u n => (u.record op (twoSources a b d q m) n x.tag).reading2 x y) _

/-- VSALSEL of two floating-point sources is pushed as its record (R213). -/
theorem State.takes_salsel (hy : s1.vsource u b = .ok (y, s2)) (hh : s.onHart = true)
    (hfloat : x.tag.floating = true ∧ y.tag.floating = true) (hl6 : x.tag ≠ .l6 ∧ y.tag ≠ .l6)
        (g k : Nat) :
    s.Takes (twoSources a b d true m) u (s.pushOut (s.pushSalsel d a b m g k)) s2
      { (s2.record (.salsel g k) (twoSources a b d true m) s.me.vl .n8).reading2 x y with
        opTag := .f32 } (s.blank (.salsel g k) 0) := by
  exact State.takes_vsourcesIf hr (State.length_of_hart hh (twoSources a b d true m) none) hx hy
    (ok := fun x y => x.tag.floating && y.tag.floating && decide (x.tag ≠ .l6) &&
      decide (y.tag ≠ .l6))
    (by simp [hfloat, hl6])
    (fun x y u n => { (u.record (.salsel g k) (twoSources a b d true m) n .n8).reading2 x y with
      opTag := .f32 }) _

/-! Conversions, scans, functions and the Sower's forms. -/

variable (hn : s.length (oneSource a d true m) none = .ok n)
include hn

/-- VRESH to a tag of the same width, or of an exact pair, is pushed as its record (R215). -/
theorem State.takes_resh {code : BitVec 6} {t : Tag} (ht : Tag.ofCode code.toNat = some t)
    (hfits : s.fits t = true)
    (hpair : x.tag.width = t.width ∨ exactPair x.tag t = true)
    (hint : s.onHart = true ∨ t.integer = true ∧ x.tag.integer = true) :
    s.Takes (oneSource a d true m) u (s.pushOut (s.pushResh d a code m)) s1
        ((s1.record .resh (oneSource a d true m) n t).reading x) (s.blank .resh 0) := by
  have hc : s.Claims s1 := .vsource hx
  have hwidth : (s.fits t && (decide (x.tag.width = t.width) || exactPair x.tag t)) = true := by
      simp [hfits, hpair]
  have hlegal : (s.onHart || (t.integer && x.tag.integer)) = true := by simp [hint]
  unfold State.pushResh
  rw [ht]
  exact State.takes_one hr hx (hc.room.2 hr) _ (k := fun x u =>
    need (s.fits t && (decide (x.tag.width = t.width) || exactPair x.tag t)) >>= fun _ =>
      u.pushIf (s.onHart || (t.integer && x.tag.integer)) (oneSource a d true m) fun n =>
          (u.record .resh (oneSource a d true m) n t).reading x)
    (fun _ _ hc => (Settled.need _).bind fun _ _ => .pushIf hr hn hc _ _)
    ((Push.bind_need hwidth _).trans (State.pushIf_of_ok hr hn hc hlegal _))

/-- VCVT to a tag that fits is pushed as its record, behind the Sower indices that it reserves (R77, R214). -/
theorem State.takes_cvt {sc : Bool} {code : BitVec 5} {t : Tag}
    (ht : Tag.ofCode code.toNat = some t)
    (hfits : s.fits t = true) (hscale : s.scaleOk sc [x.tag, t] = true)
        (hv : s1.reserveSower (t ≠ .l6) n = .ok s2) :
    s.Takes (oneSource a d true m) u (s.pushOut (s.pushCvt d a sc m code)) s2
        { (s1.record .cvt (oneSource a d true m) n t).reading x with scaled := sc }
      (s.blank .cvt 0) := by
  have hc : s.Claims s1 := .vsource hx
  have hlegal : (s.fits t && s.scaleOk sc [x.tag, t]) = true := by simp [hfits, hscale]
  unfold State.pushCvt
  rw [ht]
  refine State.takes_one hr hx ((hc.room.2 hr).reserveSower hv) _ (k := fun x u =>
    need (s.fits t && s.scaleOk sc [x.tag, t]) >>= fun _ =>
      u.length (oneSource a d true m) none >>= fun n =>
      u.reserveSower (t ≠ .l6) n >>= fun v => v.pushVec
          { (u.record .cvt (oneSource a d true m) n t).reading x with scaled := sc })
    (fun _ u hc => (Settled.need _).bind fun _ _ => ?_) ?_
  · rw [hc.length hr.1, hn]
    exact (Settled.reserveSower u _ n).bind fun v hv =>
        ((hc.room.2 hr).reserveSower hv).settled_pushVec _
  · calc _
      _ = _ := Push.bind_need hlegal _
      _ = _ := Push.bind_of_ok ((hc.length hr.1 _ _).trans hn) _
      _ = s2.pushVec { (s1.record .cvt (oneSource a d true m) n t).reading x with scaled := sc } :=
          Push.bind_of_ok hv _

/-- A scan of a source that is not L6 is pushed as its record (R221). -/
theorem State.takes_scan (hl6 : x.tag ≠ .l6) (f : FoldFn) :
    s.Takes (oneSource a d true m) u (s.pushOut (s.pushScan f d a false m)) s1
        ((s1.record (.scan f) (oneSource a d true m) n x.tag).reading x)
      (s.blank (.scan f) 0) :=
  State.takes_oneIf hr hn hx (ok := fun x => !false && decide (x.tag ≠ .l6)) (by simp [hl6])
    (fun x u n => (u.record (.scan f) (oneSource a d true m) n x.tag).reading x) _

/-- VFUNC of a slot that the code object holds is pushed as its record (R222). -/
theorem State.takes_func {slot : BitVec 5} {c : CoefSlot}
    (hslot : coefSlot (s.coefWord s.who.gang) slot.toNat = some c)
    (hfits : s.fits c.p = true) (hfloat : x.tag.floating = true) :
    s.Takes (oneSource a d true m) u (s.pushOut (s.pushFunc d a m slot)) s1
        ((s1.record (.func slot.toNat) (oneSource a d true m) n c.p).reading x)
      (s.blank (.func slot.toNat) 0) := by
  unfold State.pushFunc
  rw [hslot]
  exact State.takes_oneIf hr hn hx (ok := fun x => s.fits c.p && x.tag.floating)
      (by simp [hfits, hfloat])
    (fun x u n => (u.record (.func slot.toNat) (oneSource a d true m) n c.p).reading x) _

/-- VSOW of a dimension that the directory holds is pushed as its record (R341). -/
theorem State.takes_sow (hh : s.onHart = true) {f : SowFn} {t : Tag}
    (hzero : (s.x b).toNat / 2 ^ 12 % 2 ^ 20 = 0)
    (hdim : (s.x b).toNat % 2 ^ 12 < s.me.sowDims) (hfits : s.fits t = true)
        (hint : x.tag.integer = true) :
    s.Takes (oneSource a d true m) u (s.pushOut (s.pushSow f t d a b m)) s1
        { (s1.record (.sow f) (oneSource a d true m) n t).reading x with opb := s.x b }
      (s.blank (.sow f) 0) := by
  have hc : s.Claims s1 := .vsource hx
  obtain rfl : s.me.vl = n := Except.ok.inj
      ((State.length_of_hart hh (oneSource a d true m) none).symm.trans hn)
  have hlegal : (decide ((s.x b).toNat / 2 ^ 12 % 2 ^ 20 = 0) &&
      decide ((s.x b).toNat % 2 ^ 12 < s.me.sowDims) && s.fits t) = true := by rw [decide_eq_true hzero, decide_eq_true hdim, hfits]; rfl
  unfold State.pushSow
  dsimp only
  rw [hlegal]
  exact State.takes_one hr hx (hc.room.2 hr) _ (f := (oneSource a d true m)) (k := fun x u =>
      need x.tag.integer >>= fun _ => u.pushVec
          { (u.record (.sow f) (oneSource a d true m) s.me.vl t).reading x with opb := s.x b })
    (fun _ _ hc => (Settled.need _).bind fun _ _ => (hc.room.2 hr).settled_pushVec _)
        (Push.bind_need hint _)

end

/-! Forms without a vector source. -/

/-- The tag that VBCAST writes (R219). -/
theorem State.bcastTag_vdest (s : State) (d : BitVec 6) (q m : Bool) :
    s.bcastTag (s.vdest ⟨[], some d, q, m⟩) =
    if isQueue d then Tag.default s.myGang.w else (s.me.vreg d.toNat).decl := by
  cases hq : isQueue d
  · simp [State.vdest, State.bcastTag, hq]
  · cases hh : s.onHart <;> simp [State.vdest, State.bcastTag, hq, hh]

/-- VBCAST is pushed as its record (R219). -/
theorem State.pushes_bcast {s : State} (hr : s.room) {d : BitVec 6} {m : Bool} {n : Nat}
    (hf : s.named ⟨[], some d, true, m⟩ = .ok ()) (hn : s.length ⟨[], some d, true, m⟩ none = .ok n)
        {t : Tag}
    (ht : s.bcastTag (s.vdest ⟨[], some d, true, m⟩) = t)
        (hint : s.onHart = true ∨ t.integer = true) (a : BitVec 6) :
    let dst := s.vdest ⟨[], some d, true, m⟩
    Pushes (s.pushOut (s.pushBcast d a m)) s { s.blank .bcast n with
      masked := m, dst := dst, tagD := s.destTag dst, opTag := t, outTag := t,
      opa := scalarUnder t s.me.frm (s.x a)
      rezero := rezeroOf dst (s.destTag dst) t } := by
  have hlegal : (s.onHart || t.integer) = true := by simpa using hint
  unfold State.pushBcast
  dsimp only
  rw [ht]
  exact State.pushes_unsourced hr rfl hf (State.pushIf_of_ok hr hn (.refl s) hlegal fun n =>
    { s.record .bcast ⟨[], some d, true, m⟩ n t with opa := scalarUnder t s.me.frm (s.x a) }) _

/-- VSETE is pushed as its record: its register keeps its tag (R212). -/
theorem State.pushes_sete {s : State} (hr : s.room) (hh : s.onHart = true) {d : BitVec 6}
    (hq : isQueue d = false)
    (hd : d.toNat < s.myGang.nv) (a b : BitVec 6) :
    let old := (s.me.vreg d.toNat).tag
    Pushes (s.pushOut (s.pushSete d a b)) s { s.blank .sete s.me.vl with
      dst := .reg d.toNat, tagD := old, opTag := old, outTag := old,
      opb := scalarUnder old s.me.frm (s.x b)
      opa := s.element (s.x a) } := by
  intro old
  have hdst : s.vdest ⟨[], some d, false, false⟩ = .reg d.toNat := by simp [State.vdest, hq]
  have hnamed : s.named ⟨[], some d, false, false⟩ = .ok () :=
    State.named_registers (by simp [hd, hq]) false false hh
  have hrecord : s.record .sete ⟨[], some d, false, false⟩ s.me.vl
      (s.destTag (s.vdest ⟨[], some d, false, false⟩)) =
      { s.blank .sete s.me.vl with
        dst := .reg d.toNat, tagD := old, opTag := old, outTag := old } := by
    simp [State.record, hdst, State.destTag, rezeroOf, State.blank, old]
  refine State.pushes_unsourced hr rfl hnamed ?_ _
  dsimp only
  rw [hrecord, hdst]
  rfl

theorem State.room.modVreg {s : State} (h : s.room) (n : Nat) (f : VReg → VReg) :
    (s.setMe fun t => t.modVreg n f).room := by
  obtain ⟨hl, hf, hq⟩ := h
  exact ⟨by simpa using hl, by simpa [hl] using hf, by simpa [hl] using hq⟩

/-- VCFG records the declared tag, and is pushed as its record where the hart has lanes (R200). -/
theorem State.pushCfg_eq {s : State} {d a : BitVec 6} (hd : d.toNat < s.myGang.nv) {t : Tag}
    (hlow : (s.x a).toNat < 32)
    (ht : Tag.ofCode (s.x a).toNat = some t) (hfits : s.fits t = true) :
    let old := (s.me.vreg d.toNat).tag
    let s1 := s.setMe fun u => u.modVreg d.toNat fun r => { r with decl := t }
    s.pushCfg d a = if s.lanes s.who = 0 then s1.pushVec (s.blank .cfg 0)
      else s1.pushVec { s.blank .cfg s.me.vl with
        dst := .reg d.toNat, tagD := old, opTag := t, outTag := t
        rezero := decide (old.width ≠ t.width) } := by
  have hlegal : (s.fits t && decide (d.toNat < s.myGang.nv)) = true := by simp [hfits, hd]
  unfold State.pushCfg
  dsimp only
  rw [if_neg (Nat.not_le.2 hlow), ht]
  exact Push.bind_need hlegal _

/-! The statement. -/

theorem exec_scanForms : ∀ p ∈ scanForms, ∀ (d a : BitVec 6) (sc m : Bool) (s : State),
    exec (p.1 d a sc m) s = s.execute (s.pushScan p.2 d a sc m) := by
  simp only [scanForms, List.forall_mem_cons, List.not_mem_nil, false_imp_iff, implies_true,
    and_true]
  exact ⟨fun _ _ _ _ _ => rfl, fun _ _ _ _ _ => rfl, fun _ _ _ _ _ => rfl⟩

theorem exec_sowForms : ∀ p ∈ sowForms, ∀ (d a b : BitVec 6) (m : Bool) (s : State),
    exec (p.1 d a b m) s = s.execute (s.pushSow p.2.1 p.2.2 d a b m) := by
  simp only [sowForms, List.forall_mem_cons, List.not_mem_nil, false_imp_iff, implies_true,
    and_true]
  exact ⟨fun _ _ _ _ _ => rfl, fun _ _ _ _ _ => rfl, fun _ _ _ _ _ => rfl⟩

/-- Settles O43: each form resolves its sources, makes its checks and pushes its record. -/
theorem queuedMoves : Obligations.QueuedMoves := by
  unfold Obligations.QueuedMoves
  intro d a b m sc s hr
  refine ⟨?_, ?_, ?_, ?_, ?_⟩
  · intro p hp u s1 x vl v r w fs dst hx hint hvl hfree
    have hw : s.x (if p.reads then r else 0) = w := by
      show s.x (if p.reads then r else 0) = if p.reads then s.x r else 0
      split
      · rfl
      · exact s.x_zero
    have htakes := State.takes_slide hr hx hvl hint hfree p.op (if p.reads then r else 0) p.tagged
    have hc : s.Claims s1 := .vsource hx
    rw [hc.record hr.1, hw, ← State.both_eq hr, ← exec_moveForms p hp] at htakes
    exact htakes
  · intro u s1 s2 x y vl hx hy both
    have hc : s.Claims s2 := (State.Claims.vsource hx).trans (.vsource hy)
    refine ⟨?_, ?_⟩
    · intro p hp hindex hint fs hxd hyd hvl
      have htakes := State.takes_indexed hr hx hy hvl hindex hint hxd hyd p.2.1
      rw [hc.record hr.1, ← State.both_eq hr, ← exec_indexForms p hp] at htakes
      exact htakes
    · intro g k hh hxf hyf hxl hyl fs hvl
      subst hvl
      have htakes := State.takes_salsel hr hx hy (d := d) (m := m) hh ⟨hxf, hyf⟩ ⟨hxl, hyl⟩
        g.toNat k.toNat
      rw [hc.record hr.1, ← State.execute_eq hr.1 hh hr.2.1] at htakes
      exact htakes
  · intro u s1 s2 x vl hx fs dst hvl r
    have hc : s.Claims s1 := .vsource hx
    refine ⟨?_, fun hh => ⟨?_, ?_, ?_, ?_⟩⟩
    · intro code t ht hfits hpair hint
      have htakes := State.takes_resh hr hx hvl ht hfits hpair hint
      rw [hc.record hr.1, ← State.both_eq hr] at htakes
      exact htakes
    · intro code t ht hfits hscale hv
      have htakes := State.takes_cvt hr hx hvl ht hfits hscale hv
      rw [hc.record hr.1, ← State.execute_eq hr.1 hh hr.2.1] at htakes
      exact htakes
    · intro p hp hl6
      have htakes := State.takes_scan hr hx hvl hl6 p.2
      rw [hc.record hr.1, ← State.execute_eq hr.1 hh hr.2.1, ← exec_scanForms p hp] at htakes
      exact htakes
    · intro slot c hslot hfits hfloat
      have htakes := State.takes_func hr hx hvl hslot hfits hfloat
      rw [hc.record hr.1, ← State.execute_eq hr.1 hh hr.2.1] at htakes
      exact htakes
    · intro p hp hzero hdim hfits hint
      have htakes := State.takes_sow hr hx hvl hh (f := p.2.1) hzero hdim hfits hint
      rw [hc.record hr.1, ← State.execute_eq hr.1 hh hr.2.1, ← exec_sowForms p hp] at htakes
      exact htakes
  · intro vl fs dst t hf hvl hint
    show Pushes (s.both (s.pushBcast d a m)) _ _
    rw [State.both_eq hr]
    exact State.pushes_bcast hr hf hvl (s.bcastTag_vdest d true m) hint a
  · intro hh hq hd old
    refine ⟨?_, ?_⟩
    · show Pushes (s.execute (s.pushSete d a b)) _ _
      rw [State.execute_eq hr.1 hh hr.2.1]
      exact State.pushes_sete hr hh hq hd a b
    · intro t hlow ht hfits s1
      have hr1 : s1.room := hr.modVreg d.toNat _
      have hcfg := State.pushCfg_eq hd hlow ht hfits
      have hexec : exec (.vcfg d a) s = s.pushOut (s.pushCfg d a) :=
        State.execute_eq hr.1 hh hr.2.1 _
      refine ⟨fun hl => ?_, fun hl => ?_⟩
      · obtain ⟨v, hv, hqueued⟩ := hr1.pushVec (s.blank .cfg 0)
        rw [hexec]
        exact .of_ok (hcfg.trans ((if_pos hl).trans hv)) hqueued
      · obtain ⟨v, hv, hqueued⟩ := hr1.pushVec { s.blank .cfg s.me.vl with
          dst := .reg d.toNat, tagD := old, opTag := t, outTag := t
          rezero := decide (old.width ≠ t.width) }
        rw [hexec]
        exact .of_ok (hcfg.trans ((if_neg hl).trans hv)) hqueued

end Sys2Proof.Machine
end

section
/-! Pushing compares, mask functions, selections, counts and the forms of one element (R210 to R212). -/

namespace Sys2Proof.Machine

/-- Each compare pushes its function (R210). -/
theorem exec_cmpForms : ∀ p ∈ cmpForms, ∀ (d a b : BitVec 6) (m g : Bool) (s : State),
    exec (p.1 d a b m g) s = s.both (s.pushCmp p.2 d a b m g) := by
  simp only [cmpForms, List.forall_mem_cons, List.not_mem_nil, false_imp_iff, implies_true, and_true]
  refine ⟨?_, ?_, ?_, ?_, ?_, ?_, ?_⟩
  all_goals exact fun _ _ _ _ _ _ => rfl

/-- What a mask function of two sources pushes: as any form of two vector sources (R211). -/
def State.pushMask2 (s : State) (f : MaskFn) (d a b : BitVec 6) : Push State :=
  let fs : Fields := ⟨[a, b], some d, true, false⟩
  s.form fs (s.blank (.mask f) 0) fun u => s.vsources u a b >>= fun p =>
    p.2.2.pushIf (s.onHart || (p.1.tag.integer && p.2.1.tag.integer)) fs fun n =>
      (p.2.2.record (.mask f) fs n .n8).reading2 p.1 p.2.1

/-- Each mask function of two sources (R211). -/
theorem exec_maskForms : ∀ p ∈ maskForms, ∀ (d a b : BitVec 6) (s : State),
    exec (p.1 d a b) s = s.both (s.pushMask2 p.2 d a b) := by
  have hmask (f : MaskFn) (hf : f ≠ .not) (d a b : BitVec 6) (s : State) : s.pushMask f d a b = s.pushMask2 f d a b := by
    unfold State.pushMask State.pushMask2
    dsimp only
    simp only [decide_eq_false hf, State.vsources_bind]
    rfl
  simp only [maskForms, List.forall_mem_cons, List.not_mem_nil, false_imp_iff, implies_true, and_true]
  refine ⟨fun d a b s => ?_, fun d a b s => ?_, fun d a b s => ?_, fun d a b s => ?_⟩
  all_goals exact congrArg s.both (hmask _ (by decide) d a b s)

theorem State.pushCmp_eq (s : State) (f : CmpFn) (d a b : BitVec 6) (m g : Bool) :
    let fs : Fields := ⟨pairFields g a b, some d, true, m⟩
    s.pushCmp f d a b m g = s.form fs (s.blank (.cmp f) 0) fun u => s.vsource u a >>= fun p =>
      p.2.vsecond u g p.1.tag b (s.x b) >>= fun q => (promote p.1.tag q.1.tag).elim illopP fun t =>
        q.2.pushIf (s.fits t && (s.onHart || t.integer) && !(decide (f = .unord) && t.integer)) fs fun n =>
          { (q.2.record (.cmp f) fs n .n8).reading2 p.1 q.1 with opTag := t } := by
  intro fs
  unfold State.pushCmp
  dsimp only
  refine congrArg (s.form _ _) (funext fun u => bind_congr fun p => bind_congr fun q => ?_)
  cases promote p.1.tag q.1.tag <;> rfl

theorem State.pushSel_eq (s : State) (d a b : BitVec 6) :
    let fs : Fields := ⟨[a, b], some d, true, true⟩
    s.pushSel d a b = s.form fs (s.blank .sel 0) fun u => s.vsources u a b >>= fun p =>
      (promote p.1.tag p.2.1.tag).elim illopP fun t => p.2.2.pushIf (s.fits t && (s.onHart || t.integer)) fs fun n =>
        { (p.2.2.record .sel fs n t).reading2 p.1 p.2.1 with masked := false } := by
  intro fs
  unfold State.pushSel
  dsimp only
  refine congrArg (s.form _ _) (funext fun u => bind_congr fun p => ?_)
  cases promote p.1.tag p.2.1.tag <;> rfl

section
variable {s s1 s2 : State} (hr : s.room) {d a b : BitVec 6} {u : Option Tag} {x y : Operand} {n : Nat}
  (hx : s.vsource u a = .ok (x, s1))
include hr hx

/-- A compare whose sources resolve and whose checks hold is pushed as its record: it writes a mask (R210). -/
theorem State.takes_cmp {m g : Bool} (hy : s.second u s1 s2 x y b g) {t : Tag} (ht : promote x.tag y.tag = some t)
    (hfits : s.fits t = true) (hint : s.onHart = true ∨ t.integer = true) {f : CmpFn}
    (hunord : ¬(f = .unord ∧ t.integer = true)) (hn : s.length ⟨if g then [a] else [a, b], some d, true, m⟩ none = .ok n) :
    let fs : Fields := ⟨if g then [a] else [a, b], some d, true, m⟩
    let dst := s.vdest fs
    s.Takes fs u (s.pushOut (s.pushCmp f d a b m g)) s2 { s2.blank (.cmp f) n with
      masked := m, dst := dst, srcA := x.src, srcB := y.src, tagA := x.tag, tagB := y.tag, tagD := s.destTag dst
      opTag := t, outTag := .n8, rezero := rezeroOf dst (s.destTag dst) .n8, pops := popsOf [x, y] }
      (s.blank (.cmp f) 0) := by
  intro fs dst
  have hc : s.Claims s2 := (State.Claims.vsource hx).trans (.vsecond (hy.vsecond (.vsource hx)))
  have hlegal : (s.fits t && (s.onHart || t.integer) && !(decide (f = .unord) && t.integer)) = true := by
    have h1 : (s.onHart || t.integer) = true := by simpa using hint
    have h2 : (decide (f = .unord) && t.integer) = false := by simpa using hunord
    rw [hfits, h1, h2]
    rfl
  rw [State.pushCmp_eq]
  refine State.takes_two hr hx (hc.room.2 hr) (s.blank (.cmp f) 0) (f := fs)
    (k := fun x y u => (promote x.tag y.tag).elim illopP fun t =>
      u.pushIf (s.fits t && (s.onHart || t.integer) && !(decide (f = .unord) && t.integer)) fs fun n =>
        { (u.record (.cmp f) fs n .n8).reading2 x y with opTag := t })
    (fun _ _ _ hc => .elim fun _ _ => .pushIf hr hn hc _ _) hy ?_
  dsimp only
  rw [ht]
  exact (State.pushIf_of_ok hr hn hc hlegal _).trans (by rw [hc.record hr.1]; rfl)

/-- A mask function of two sources is pushed as its record (R211). -/
theorem State.takes_mask (hy : s1.vsource u b = .ok (y, s2)) (f : MaskFn)
    (hint : s.onHart = true ∨ x.tag.integer = true ∧ y.tag.integer = true)
    (hn : s.length ⟨[a, b], some d, true, false⟩ none = .ok n) :
    let fs : Fields := ⟨[a, b], some d, true, false⟩
    let dst := s.vdest fs
    s.Takes fs u (s.pushOut (s.pushMask2 f d a b)) s2 { s2.blank (.mask f) n with
      dst := dst, srcA := x.src, srcB := y.src, tagA := x.tag, tagB := y.tag, tagD := s.destTag dst
      opTag := .n8, outTag := .n8, rezero := rezeroOf dst (s.destTag dst) .n8, pops := popsOf [x, y] }
      (s.blank (.mask f) 0) := by
  intro fs dst
  have hc : s.Claims s2 := (State.Claims.vsource hx).trans (.vsource hy)
  have hlegal : (s.onHart || (x.tag.integer && y.tag.integer)) = true := by simpa using hint
  refine State.takes_vsources hr hx hy (f := fs) (k := fun x y u =>
    u.pushIf (s.onHart || (x.tag.integer && y.tag.integer)) fs fun n => (u.record (.mask f) fs n .n8).reading2 x y)
    (fun _ _ _ hc => .pushIf hr hn hc _ _) ?_ _
  exact (State.pushIf_of_ok hr hn hc hlegal _).trans (by rw [hc.record hr.1]; rfl)

/-- VSEL is pushed as its record, under the tag its sources promote to (R212). -/
theorem State.takes_sel (hy : s1.vsource u b = .ok (y, s2)) {t : Tag} (ht : promote x.tag y.tag = some t)
    (hfits : s.fits t = true) (hint : s.onHart = true ∨ t.integer = true)
    (hn : s.length ⟨[a, b], some d, true, true⟩ none = .ok n) :
    let fs : Fields := ⟨[a, b], some d, true, true⟩
    let dst := s.vdest fs
    s.Takes fs u (s.pushOut (s.pushSel d a b)) s2 { s2.blank .sel n with
      dst := dst, srcA := x.src, srcB := y.src, tagA := x.tag, tagB := y.tag, tagD := s.destTag dst
      opTag := t, outTag := t, rezero := rezeroOf dst (s.destTag dst) t, pops := popsOf [x, y] } (s.blank .sel 0) := by
  intro fs dst
  have hc : s.Claims s2 := (State.Claims.vsource hx).trans (.vsource hy)
  have hlegal : (s.fits t && (s.onHart || t.integer)) = true := by simp [hfits, hint]
  rw [State.pushSel_eq]
  refine State.takes_vsources hr hx hy (f := fs) (k := fun x y u => (promote x.tag y.tag).elim illopP fun t =>
    u.pushIf (s.fits t && (s.onHart || t.integer)) fs fun n =>
      { (u.record .sel fs n t).reading2 x y with masked := false })
    (fun _ _ _ hc => .elim fun _ _ => .pushIf hr hn hc _ _) ?_ _
  dsimp only
  rw [ht]
  exact (State.pushIf_of_ok hr hn hc hlegal _).trans (by rw [hc.record hr.1]; rfl)

/-- VMNOT is pushed as its record (R211). -/
theorem State.takes_not (hint : s.onHart = true ∨ x.tag.integer = true)
    (hn : s.length ⟨[a], some d, true, false⟩ none = .ok n) :
    let fs : Fields := ⟨[a], some d, true, false⟩
    let dst := s.vdest fs
    s.Takes fs u (s.pushOut (s.pushMask .not d a 0)) s1 { s1.blank (.mask .not) n with
      dst := dst, srcA := x.src, tagA := x.tag, tagB := x.tag, tagD := s.destTag dst, opTag := .n8, outTag := .n8
      rezero := rezeroOf dst (s.destTag dst) .n8, pops := popsOf [x] } (s.blank (.mask .not) 0) := by
  intro fs dst
  have h := State.takes_oneIf hr hn hx (ok := fun x => s.onHart || (x.tag.integer && x.tag.integer)) (by simpa using hint)
    (fun x u n => { (u.record (.mask .not) fs n .n8).reading x with tagB := x.tag }) (s.blank (.mask .not) 0)
  rw [(State.Claims.vsource hx).record hr.1] at h
  exact h

/-- VMPOPC and VMFIRST are pushed with a scalar register as their destination (R211). -/
theorem State.takes_count (op : VOp) (hint : s.onHart = true ∨ x.tag.integer = true)
    (hn : s.length ⟨[a], none, false, false⟩ none = .ok n) :
    s.Takes ⟨[a], none, false, false⟩ u (s.pushOut (s.pushCount op d a)) s1 { s1.blank op n with
      dst := .scalar d.toNat, srcA := x.src, tagA := x.tag, pops := popsOf [x] }
      { s.blank op 0 with dst := .scalar d.toNat } :=
  State.takes_oneIf hr hn hx (ok := fun x => s.onHart || x.tag.integer) (by simpa using hint)
    (fun x u n => { (u.blank op n).reading x with dst := .scalar d.toNat }) { s.blank op 0 with dst := .scalar d.toNat }

end

/-- VGETE is pushed with its element number, which it has claimed its source for (R212). -/
theorem State.pushes_gete {s s1 : State} (hr : s.room) {a : BitVec 6} {x : Operand}
    (hf : s.named ⟨[a], none, false, false⟩ = .ok ()) (hx : s.vsource none a = .ok (x, s1)) (d b : BitVec 6) :
    Pushes (s.pushOut (s.pushGete d a b)) s1 { s1.blank .gete s.me.vl with
      dst := .scalar d.toNat, srcA := x.src, tagA := x.tag, pops := popsOf [x], opa := s.element (s.x b) } := by
  have hc : s.Claims s1 := .vsource hx
  obtain ⟨t, ht, hq⟩ := (hc.room.2 hr).pushVec { s1.blank .gete s.me.vl with
    dst := .scalar d.toNat, srcA := x.src, tagA := x.tag, pops := popsOf [x], opa := s.element (s.x b) }
  have hpush : s.pushGete d a b = .ok t := (Push.bind_of_ok hf _).trans ((Push.bind_of_ok hx _).trans ht)
  exact .of_ok hpush hq

/-- VMSET and VID are pushed under a tag of their own (R211, R212). -/
theorem State.pushes_fill {s : State} (hr : s.room) {d : BitVec 6} {m : Bool} {n : Nat}
    (hf : s.named ⟨[], some d, true, m⟩ = .ok ()) (hn : s.length ⟨[], some d, true, m⟩ none = .ok n) (op : VOp) (t : Tag) :
    let dst := s.vdest ⟨[], some d, true, m⟩
    Pushes (s.pushOut (s.pushFill op t d m)) s { s.blank op n with
      masked := m, dst := dst, tagD := s.destTag dst, opTag := t, outTag := t
      rezero := rezeroOf dst (s.destTag dst) t } :=
  State.pushes_unsourced hr rfl hf (State.pushIf_of_ok hr hn (.refl s) (ok := true) rfl fun n =>
    s.record op ⟨[], some d, true, m⟩ n t) _

end Sys2Proof.Machine
end

section
/-! VMPOPC, VMFIRST and VGETE of a vector register when they are performed: what each step makes of the record, and what the
scalar thread is told (R53, R198, R211, R212). -/

namespace Sys2Proof.Machine

/-! Steps that leave the queue running. -/

/-- From `s` to `u` the thread of agent `a` becomes `t` and nothing else that its queue depends on changes. -/
structure State.Moves (s u : State) (a : Agent) (t : Thread) : Prop where
  becomes : s.Becomes u a t
  runs : u.mayRun a = s.mayRun a

theorem State.Moves.trans {s u v : State} {a : Agent} {t t' : Thread} (h : s.Moves u a t) (k : u.Moves v a t') :
    s.Moves v a t' := ⟨h.becomes.trans k.becomes, k.runs.trans h.runs⟩

theorem State.mayRun_modCore (s : State) (i : Nat) {f : CoreSt → CoreSt} (hf : ∀ c, (f c).stopped = c.stopped) (a : Agent) :
    (s.modCore i f).mayRun a = s.mayRun a := by
  have hstopped (k : Nat) : ((s.modCore i f).core k).stopped = (s.core k).stopped := by
    rw [State.core_modCore]
    split
    · exact hf _
    · rfl
  have hengine : (s.modCore i f).engineRuns a = s.engineRuns a := by
    show (decide ((s.gangOf a.gang).st = .resident) && !((s.modCore i f).core (s.gangOf a.gang).core).stopped) = _
    rw [hstopped]
    rfl
  unfold State.mayRun
  rw [hengine]
  rfl

/-- Noting energy to debit stops no queue (R428, R430). -/
theorem State.mayRun_charge (s : State) (gi k n : Nat) (a : Agent) : (s.charge gi k n).mayRun a = s.mayRun a := by
  unfold State.charge
  dsimp only
  split
  · rfl
  · rw [State.mayRun_modCore]
    exact fun _ => rfl

section
variable {s : State} {a : Agent} {t : Thread} (ht : s.thread? a = some t)
include ht

theorem State.Moves.charge (k n : Nat) : s.Moves (s.charge a.gang k n) a t :=
  ⟨.charge ht k n, s.mayRun_charge a.gang k n a⟩

variable (hc : s.cur = some a) {r : VRec} (hq : t.vq = [r])
include hc hq

theorem State.Moves.modRec (f : VRec → VRec) : s.Moves (s.modRec a r.seq f) a { t with vq := [f r] } := by
  refine ⟨.modRec ht hq f, ?_⟩
  have h : s.modRec a r.seq f = s.setMe fun t => { t with vq := t.vq.map fun w => if w.seq = r.seq then f w else w } := by
    simp [State.setMe, hc, State.modRec]
  rw [h]
  exact State.mayRun_setMe hc fun _ => ⟨rfl, rfl, rfl, rfl⟩

omit hq in
theorem State.modThread_eq_self {f : Thread → Thread} (hf : f t = t) : s.modThread a f = s := by
  have hme : s.me = t := by simp [State.me, hc, ht]
  have h := State.setMe_eq_self (s := s) (by simp [State.live, hc, ht]) (hme ▸ hf)
  simpa [State.setMe, hc] using h

/-- A record that is not done has nothing to tell, and does not leave its queue (R56, R198). -/
theorem State.deliver_of_left (hd : r.done = false) : (s.deliver a r.seq).completeAll a 1 = s := by
  have hdeliver : s.deliver a r.seq = s := State.modThread_eq_self ht hc (by simp [hq, hd])
  rw [hdeliver]
  simp [State.completeAll, State.completeOldest, ht, hq, hd]

end

/-- A record after the commit of step k with no element written (R53). -/
def VRec.committed (k : Nat) (w : VRec) : VRec :=
  { w with
    pi := k + 1, done := decide (w.groups ≤ k + 1), flags := w.flags ||| 0, supp := false, wrote := w.wrote || false
    out := match w.dst with
      | .sq _ => w.out ++ []
      | _ => w.out }

/-- Of a record that writes a scalar register it moves on the step alone. -/
theorem VRec.committed_scalar {r : VRec} {d : Nat} (hd : r.dst = .scalar d) (hs : r.supp = false) (k : Nat) :
    r.committed k = { r with pi := k + 1, done := decide (r.groups ≤ k + 1) } := by
  simp [VRec.committed, hd, hs]

/-- The commit of a step that writes a scalar register alone changes the record alone. -/
theorem State.commit_scalar {r : VRec} {d : Nat} (hd : r.dst = .scalar d) (hp : r.pops = []) (hs : r.supp = false)
    (s : State) (a : Agent) (k : Nat) : s.commit a r k [] = s.modRec a r.seq (VRec.committed k) := by
  have hpop (g : Gang) : (if k = 0 then g.popEntries [] else g) = g := by
    split <;> rfl
  have hnothing : (s.modGang a.gang fun g => if k = 0 then g.popEntries [] else g).modThread a (fun t => t) = s := by
    rw [State.modGang_eq_self hpop]
    exact State.modGang_eq_self fun g => by cases a.role <;> simp [Gang.modThread, modifyAt_id]
  unfold State.commit
  rw [hd, hs, hp]
  exact congrArg (fun s : State => s.modRec a r.seq (VRec.committed k)) hnothing

/-! What a step makes of the record. -/

/-- The instructions that tell the scalar thread what they find in a vector register, and write nothing else. -/
def VOp.tells (op : VOp) : Prop := op = .mpopc ∨ op = .mfirst ∨ op = .gete

/-- Bit 0 of an element of a register (R211). -/
def VReg.bit (v : VReg) (i : Nat) : Bool := (v.data.get i).getLsbD 0

/-- What step k makes of what the record holds, with its flags: the elements counted so far, one more than the first of
them that is set, or the element (R211, R212). -/
def VRec.found (r : VRec) (v : VReg) (k : Nat) : Rounded :=
  match r.op with
  | .mpopc => (r.opb + BitVec.ofNat 64 ((r.elems k).filter v.bit).length, 0)
  | .mfirst => (((r.elems k).find? v.bit).elim r.opb fun i => if r.opb = 0 then BitVec.ofNat 64 (i + 1) else r.opb, 0)
  | _ => if r.opa = BitVec.allOnes 64 then (0, 0) else geteWord r.tagA (v.data.get r.opa.toNat)

section
variable {r : VRec} (v : VReg) (k : Nat)

theorem VRec.found_mpopc (h : r.op = .mpopc) : r.found v k =
    (r.opb + BitVec.ofNat 64 ((r.elems k).filter v.bit).length, 0) := by
  simp only [VRec.found, h]

theorem VRec.found_mfirst (h : r.op = .mfirst) : r.found v k =
    (((r.elems k).find? v.bit).elim r.opb fun i =>
      if r.opb = 0 then BitVec.ofNat 64 (i + 1) else r.opb, 0) := by
  simp only [VRec.found, h]

theorem VRec.found_gete (h : r.op = .gete) : r.found v k =
    if r.opa = BitVec.allOnes 64 then (0, 0) else geteWord r.tagA (v.data.get r.opa.toNat) := by
  simp only [VRec.found, h]

end

/-- The record after its next step. -/
def VRec.stepped (v : VReg) (r : VRec) : VRec :=
  { r with
    opb := (r.found v r.pi).1, flags := r.flags ||| (r.found v r.pi).2, pi := r.pi + 1, done := decide (r.groups ≤ r.pi + 1) }

theorem VRec.stepped_of_found {r : VRec} {v : VReg} {x : Word} {fl : BitVec 6} (h : r.found v r.pi = (x, fl)) :
    r.stepped v = { r with opb := x, flags := r.flags ||| fl, pi := r.pi + 1, done := decide (r.groups ≤ r.pi + 1) } := by
  unfold VRec.stepped
  rw [h]

/-- The one record of the queue of the agent in execution is VMPOPC, VMFIRST or VGETE of a vector register, which may be
performed, and its hart waits for it (R53, R54, R62, R80, R198). -/
structure State.Tells (s : State) (a : Agent) (t : Thread) (r : VRec) (d n : Nat) : Prop where
  cur : s.cur = some a
  thread : s.thread? a = some t
  vq : t.vq = [r]
  mq : t.mq = []
  wait : t.wait = .gd r.seq
  runs : s.mayRun a = true
  fresh : ∀ n, (t.vreg n).expired = false
  op : r.op.tells
  dst : r.dst = .scalar d
  srcA : r.srcA = .reg n
  srcB : r.srcB = .none
  pops : r.pops = []
  done : r.done = false
  stuck : r.stuck = false
  supp : r.supp = false
  quiet : r.frm.toNat / 2 ^ 8 % 32 = 0

section
variable {s : State} {a : Agent} {t : Thread} {r : VRec} {d n : Nat} (h : s.Tells a t r d n)
include h

theorem State.Tells.not_stochastic : r.stochastic = false := by
  rcases h.op with ho | ho | ho <;> simp [VRec.stochastic, ho]

/-- A step that notes a word and flags in the record, and commits no element. -/
theorem State.Tells.moves_noted (o : VRec → Word) (p : VRec → BitVec 6) :
    s.Moves ((s.modRec a r.seq fun w => { w with opb := o w, flags := p w }).commit a r r.pi []) a { t with
      vq := [{ r with opb := o r, flags := p r, pi := r.pi + 1, done := decide (r.groups ≤ r.pi + 1) }] } := by
  have hnote := State.Moves.modRec h.thread h.cur h.vq fun w => { w with opb := o w, flags := p w }
  have hcommit := hnote.trans (.modRec hnote.becomes.thread (hnote.becomes.cur.trans h.cur)
    (r := { r with opb := o r, flags := p r }) rfl (VRec.committed r.pi))
  have hrecord : ({ r with opb := o r, flags := p r } : VRec).committed r.pi =
      { r with opb := o r, flags := p r, pi := r.pi + 1, done := decide (r.groups ≤ r.pi + 1) } :=
    VRec.committed_scalar (r := { r with opb := o r, flags := p r }) h.dst h.supp _
  rw [State.commit_scalar h.dst h.pops h.supp, ← hrecord]
  exact hcommit

/-- What a step finds is noted in the record. -/
theorem State.Tells.computeStep : s.Moves (s.computeStep a r r.pi) a { t with vq := [r.stepped (t.vreg n)] } := by
  have hdims : s.stepDims a r r.pi = .ok ([], s) := by
    rcases h.op with ho | ho | ho <;> simp [State.stepDims, ho, h.not_stochastic]
  have hzero (fl : BitVec 6) : fl ||| 0 = fl := BitVec.or_zero
  rcases h.op with ho | ho | ho
  · have hstep : s.computeStep a r r.pi = (s.modRec a r.seq fun w => { w with
        opb := w.opb + BitVec.ofNat 64 ((r.elems r.pi).filter fun i => ((t.vreg n).data.get i).getLsbD 0).length
        flags := w.flags }).commit a r r.pi [] := by
      simp only [State.computeStep, hdims, ho, h.thread, Option.getD_some, h.srcA, srcElem]
    rw [hstep, VRec.stepped_of_found (VRec.found_mpopc _ _ ho), hzero]
    exact h.moves_noted _ (·.flags)
  · have hstep : s.computeStep a r r.pi = (s.modRec a r.seq fun w => { w with
        opb := ((r.elems r.pi).find? fun i => ((t.vreg n).data.get i).getLsbD 0).elim r.opb fun i =>
          if r.opb = 0 then BitVec.ofNat 64 (i + 1) else r.opb
        flags := w.flags }).commit a r r.pi [] := by
      simp only [State.computeStep, hdims, ho, h.thread, Option.getD_some, h.srcA, srcElem]
      cases (r.elems r.pi).find? fun i => ((t.vreg n).data.get i).getLsbD 0 <;> rfl
    rw [hstep, VRec.stepped_of_found (VRec.found_mfirst _ _ ho), hzero]
    exact h.moves_noted _ (·.flags)
  · have hstep : s.computeStep a r r.pi = (s.modRec a r.seq fun w => { w with
        opb := (r.found (t.vreg n) r.pi).1, flags := w.flags ||| (r.found (t.vreg n) r.pi).2 }).commit a r r.pi [] := by
      simp only [State.computeStep, hdims, ho, h.thread, Option.getD_some, h.srcA, srcElem, VRec.found_gete _ _ ho,
        enabled_of_quiet h.quiet, Bool.and_false, Bool.false_eq_true, if_false]
    rw [hstep]
    exact h.moves_noted _ _

/-- The step with its energy (R428). -/
theorem State.Tells.vectorStep (hg : r.groups ≠ 0) : s.Moves (s.vectorStep a r) a { t with vq := [r.stepped (t.vreg n)] } := by
  have hcompute := h.computeStep
  have hmemory : r.op.memory = false := by rcases h.op with ho | ho | ho <;> rw [ho] <;> rfl
  have hgroup : s.groupStep a r r.pi = s.computeStep a r r.pi := by
    rcases h.op with ho | ho | ho <;> simp [State.groupStep, ho]
  have hstream : r.op ≠ .stream := by rcases h.op with ho | ho | ho <;> rw [ho] <;> nofun
  have hcharge : (s.computeStep a r r.pi).chargeStep a r r.pi = (s.computeStep a r r.pi).charge a.gang 1 1 := by
    have hpi : ¬(r.stepped (t.vreg n)).pi ≤ r.pi := Nat.not_succ_le_self _
    have hseq : (r.stepped (t.vreg n)).seq = r.seq := rfl
    rcases h.op with ho | ho | ho <;>
      simp [State.chargeStep, hcompute.becomes.thread, hpi, hseq, ho, VOp.energy, h.not_stochastic]
  have hready := State.stepReady_of_single h.thread h.vq h.mq h.srcA h.srcB hmemory r.pi
  have hstep : s.vectorStep a r = (s.computeStep a r r.pi).charge a.gang 1 1 := by
    rw [← hcharge, ← hgroup]
    simp [State.vectorStep, hg, hready, Thread.entryHeld, h.thread, h.dst, VRec.sregAt_of_fresh h.fresh, VRec.entryCause,
      h.srcA, h.srcB, hstream, State.beginEntry, State.recNow, h.vq]
  rw [hstep]
  exact hcompute.trans (.charge hcompute.becomes.thread 1 1)

/-- A step that is not the last leaves the record one step further, and its hart waiting. -/
theorem State.Tells.advance (hg : r.pi + 1 < r.groups) : Answers (exec (.elementGroupCompletion a r.seq) s) fun u =>
    s.Becomes u a { t with vq := [r.stepped (t.vreg n)] } ∧
      u.Tells a { t with vq := [r.stepped (t.vreg n)] } (r.stepped (t.vreg n)) d n := by
  have hmoves := h.vectorStep (by omega)
  have hleft : (r.stepped (t.vreg n)).done = false := decide_eq_false (by omega)
  have hcur := hmoves.becomes.cur.trans h.cur
  have hdeliver : ((s.vectorStep a r).deliver a r.seq).completeAll a 1 = s.vectorStep a r :=
    State.deliver_of_left hmoves.becomes.thread hcur (r := r.stepped (t.vreg n)) rfl hleft
  rw [exec_groupCompletion_of_single h.thread h.vq h.runs h.stuck h.done, hdeliver]
  exact .intro rfl ⟨hmoves.becomes, { h with
    cur := hcur, thread := hmoves.becomes.thread, vq := rfl, runs := hmoves.runs.trans h.runs, done := hleft }⟩

end

/-- The thread once a record of its queue, which had no other, has been performed and told: its register, its flags, and the
hart behind its instruction (R56, R80, R198). -/
def Thread.told (t : Thread) (d : Nat) (r : VRec) : Thread :=
  { (t.setReg d r.scalarResult).wake with vq := [], fflags := t.fflags ||| r.flags }

theorem Thread.told_vq (t : Thread) (d : Nat) (r : VRec) (l : List VRec) : ({ t with vq := l } : Thread).told d r = t.told d r := by
  have hset : ({ t with vq := l } : Thread).setReg d r.scalarResult = { t.setReg d r.scalarResult with vq := l } := by
    unfold Thread.setReg
    split <;> rfl
  unfold Thread.told
  rw [hset]
  rfl

section
variable {s : State} {a : Agent} {t : Thread} {r : VRec} {d n : Nat} (h : s.Tells a t r d n)
include h

/-- A step after which the record is done is the last: the scalar thread is told. -/
theorem State.Tells.finish {r1 : VRec} (hm : s.Becomes (s.vectorStep a r) a { t with vq := [r1] }) (hseq : r1.seq = r.seq)
    (hd : r1.dst = r.dst) (hp : r1.pops = r.pops) (hst : r1.stuck = r.stuck) (hdone : r1.done = true) :
    Answers (exec (.elementGroupCompletion a r.seq) s) fun u => s.Becomes u a (t.told d r1) := by
  rw [exec_groupCompletion_of_single h.thread h.vq h.runs h.stuck h.done]
  refine .intro rfl ?_
  have hdeliver := hm.trans (.deliver_scalar hm.thread (r := r1) rfl (hd.trans h.dst) (hp.trans h.pops) hdone
    (hst.trans h.stuck) (h.wait.trans (by rw [hseq])))
  have htold := t.told_vq d r1 [r1]
  unfold Thread.told at htold ⊢
  rw [← htold, ← hseq]
  exact hdeliver

/-- A record of no elements is done at once (R199). -/
theorem State.Tells.finish_of_empty (hg : r.groups = 0) : Answers (exec (.elementGroupCompletion a r.seq) s) fun u =>
    s.Becomes u a (t.told d { r with done := true }) := by
  have hstep : s.vectorStep a r = s.modRec a r.seq fun r => { r with done := true } := if_pos hg
  refine h.finish (r1 := { r with done := true }) ?_ rfl rfl rfl rfl rfl
  rw [hstep]
  exact .modRec h.thread h.vq _

end

theorem AfterGroups.imp {a : Agent} {seq : Nat} {p q : State → Prop} (hpq : ∀ u, p u → q u) {k : Nat} {s : State}
    (h : AfterGroups a seq p k s) : AfterGroups a seq q k s := by
  induction k generalizing s with
  | zero => exact hpq s h
  | succ k ih =>
    obtain ⟨u, hu, hk⟩ := h
    exact ⟨u, hu, ih hk⟩

/-- Step by step to the last: the scalar thread is told what the last step leaves in the record (R53, R198). -/
theorem State.Tells.afterGroups {a : Agent} {d n : Nat} (k : Nat) {s : State} {t : Thread} {r : VRec} (h : s.Tells a t r d n)
    (hk : r.groups = r.pi + (k + 1)) : AfterGroups a r.seq
      (fun u => s.Becomes u a (t.told d ((VRec.stepped (t.vreg n))^[k + 1] r))) (k + 1) s := by
  induction k generalizing s t r with
  | zero => exact h.finish (h.vectorStep (by omega)).becomes rfl rfl rfl rfl (decide_eq_true (by omega))
  | succ k ih =>
    obtain ⟨u, hu, hbecomes, htells⟩ := h.advance (by omega)
    refine ⟨u, hu, (ih htells ?_).imp fun w hw => ?_⟩
    · show r.groups = r.pi + 1 + (k + 1)
      omega
    · rw [Thread.told_vq] at hw
      exact hbecomes.trans hw

end Sys2Proof.Machine
end

section
/-! What VMPOPC and VMFIRST find in all of their elements, and the statement on masks (R198, R210 to R212). -/

namespace Sys2Proof.Machine

/-! Counting step by step. -/

/-- The elements of a run of steps of a lane group each, and those of the next (R199). -/
theorem range_min_add (a n vl : Nat) : List.range (min (a + n) vl) =
    List.range (min a vl) ++ (List.range n).filterMap fun j => if a + j < vl then some (a + j) else none := by
  induction n with
  | zero => simp
  | succ n ih =>
    rw [List.range_succ, List.filterMap_append, ← List.append_assoc, ← ih]
    by_cases h : a + n < vl
    · rw [Nat.min_eq_left (by omega : a + (n + 1) ≤ vl), Nat.min_eq_left h.le, ← Nat.add_assoc, List.range_succ]
      simp [h]
    · rw [Nat.min_eq_right (by omega : vl ≤ a + (n + 1)), Nat.min_eq_right (by omega : vl ≤ a + n)]
      simp [h]

theorem VRec.range_succ_elems {r : VRec} (h : r.op.whole = false) (k : Nat) :
    List.range (min ((k + 1) * r.lanes) r.vl) = List.range (min (k * r.lanes) r.vl) ++ r.elems k := by
  rw [Nat.succ_mul, range_min_add, VRec.elems, h]
  rfl

/-- What VMPOPC and VMFIRST hold once they have seen a list of elements: their count, or one more than the first. -/
def VOp.tally (op : VOp) (bit : Nat → Bool) (l : List Nat) : Word :=
  match op with
  | .mfirst => (l.find? bit).elim 0 fun i => BitVec.ofNat 64 (i + 1)
  | _ => BitVec.ofNat 64 (l.countP bit)

theorem ofNat_succ_ne_zero {i : Nat} (h : i < 2 ^ 32) : BitVec.ofNat 64 (i + 1) ≠ 0 := fun he => by
  have := congrArg BitVec.toNat he
  rw [BitVec.toNat_ofNat, Nat.mod_eq_of_lt (by omega)] at this
  exact absurd this (Nat.succ_ne_zero i)

section
variable {r : VRec} {v : VReg} {l : List Nat} {k : Nat}

theorem VRec.found_tally_mpopc (ho : r.op = .mpopc) (hb : r.opb = VOp.tally .mpopc v.bit l) :
    r.found v k = (VOp.tally .mpopc v.bit (l ++ r.elems k), 0) := by
  rw [VRec.found_mpopc _ _ ho, hb]
  simp only [VOp.tally, List.countP_append, BitVec.ofNat_add, ← List.countP_eq_length_filter]

theorem VRec.found_tally_mfirst (ho : r.op = .mfirst) (hl : ∀ i ∈ l, i < 2 ^ 32) (hb : r.opb = VOp.tally .mfirst v.bit l) :
    r.found v k = (VOp.tally .mfirst v.bit (l ++ r.elems k), 0) := by
  rw [VRec.found_mfirst _ _ ho]
  cases hf : l.find? v.bit with
  | none =>
    have hzero : r.opb = 0 := by simp [hb, VOp.tally, hf]
    simp [hzero, VOp.tally, List.find?_append, hf]
  | some i =>
    have hi : i < 2 ^ 32 := hl i (List.mem_of_find?_eq_some hf)
    have hvalue : r.opb = BitVec.ofNat 64 (i + 1) := by simp [hb, VOp.tally, hf]
    have hne : r.opb ≠ 0 := hvalue ▸ ofNat_succ_ne_zero hi
    simp only [if_neg hne]
    cases (r.elems k).find? v.bit <;> simp [hvalue, VOp.tally, List.find?_append, hf]

end

/-- From `r0` the record `r` has done k steps, and holds what they have found (R211). -/
structure VRec.Tallied (r0 : VRec) (v : VReg) (k : Nat) (r : VRec) : Prop where
  op : r.op = r0.op
  vl : r.vl = r0.vl
  lanes : r.lanes = r0.lanes
  pi : r.pi = k
  flags : r.flags = 0
  opb : r.opb = r0.op.tally v.bit (List.range (min (k * r0.lanes) r0.vl))

section
variable {r0 : VRec} (ho : r0.op = .mpopc ∨ r0.op = .mfirst) (hvl : r0.vl < 2 ^ 32) (v : VReg)
include ho hvl

theorem VRec.Tallied.stepped {k : Nat} {r : VRec} (h : r0.Tallied v k r) : r0.Tallied v (k + 1) (r.stepped v) := by
  have hwhole : r.op.whole = false := by
    rw [h.op]
    rcases ho with ho | ho <;> rw [ho] <;> rfl
  have helems := VRec.range_succ_elems hwhole k
  rw [h.lanes, h.vl] at helems
  have hfound : r.found v r.pi = (r0.op.tally v.bit (List.range (min ((k + 1) * r0.lanes) r0.vl)), 0) := by
    have hb := h.opb
    rw [helems, h.pi]
    rcases ho with ho | ho
    · rw [ho] at hb ⊢
      exact VRec.found_tally_mpopc (h.op.trans ho) hb
    · rw [ho] at hb ⊢
      exact VRec.found_tally_mfirst (h.op.trans ho) (fun i hi => by have := List.mem_range.1 hi; omega) hb
  rw [VRec.stepped_of_found hfound]
  exact ⟨h.op, h.vl, h.lanes, congrArg (· + 1) h.pi, by rw [h.flags]; rfl, rfl⟩

theorem VRec.tallied_iterate (hpi : r0.pi = 0) (hb : r0.opb = 0) (hf : r0.flags = 0) (k : Nat) :
    r0.Tallied v k ((VRec.stepped v)^[k] r0) := by
  induction k with
  | zero =>
    refine ⟨rfl, rfl, rfl, hpi, hf, hb.trans ?_⟩
    rcases ho with ho | ho <;> simp [ho, VOp.tally]
  | succ k ih =>
    rw [Function.iterate_succ_apply']
    exact ih.stepped ho hvl

end

/-! The scalar register. -/

/-- The record of VMPOPC, VMFIRST and VGETE (R211, R212). -/
def State.tellRecord (s : State) (op : VOp) (d : BitVec 6) (x : Operand) (opa : Word) : VRec :=
  { s.blank op s.me.vl with dst := .scalar d.toNat, srcA := x.src, tagA := x.tag, pops := popsOf [x], opa := opa }

/-- A vector register as a source. -/
def State.registerOf (s : State) (a : BitVec 6) : Operand := ⟨.reg a.toNat, (s.me.vreg a.toNat).tag, 2 ^ 32, none⟩

section
variable {s : State} {ag : Agent} (h : RunsQueue s ag) {op : VOp} (ho : op.tells) {d a : BitVec 6} {opa : Word}
include h ho

/-- A record pushed on a queue that held nothing may be performed. -/
theorem RunsQueue.tells {t : State} (hq : Queued s t (s.tellRecord op d (s.registerOf a) opa)) :
    t.Tells ag t.me (s.tellRecord op d (s.registerOf a) opa) d.toNat a.toNat where
  cur := hq.cur.trans h.cur
  thread := hq.thread? h.room.1 h.cur
  vq := by rw [hq.me]; simp [h.vq]
  mq := by rw [hq.me]; exact h.mq
  wait := by rw [hq.me]; simp [h.onHart, VRec.waits, State.tellRecord]
  runs := (hq.mayRun h.room.1 h.cur).trans h.runs
  fresh := by rw [hq.me]; exact h.fresh
  op := ho
  dst := rfl
  srcA := rfl
  srcB := rfl
  pops := rfl
  done := rfl
  stuck := rfl
  supp := rfl
  quiet := h.quiet

/-- What has been written when the steps of such a record have been performed, if there are any (R198). -/
theorem RunsQueue.wroteScalar {i : Instr} (hi : Pushes (exec i s) s (s.tellRecord op d (s.registerOf a) opa)) {k : Nat}
    (hk : (s.tellRecord op d (s.registerOf a) opa).groups = k + 1) :
    let r := (VRec.stepped (s.me.vreg a.toNat))^[k + 1] (s.tellRecord op d (s.registerOf a) opa)
    Answers (exec i s) (AfterGroups ag s.me.vqtail (fun u => WroteScalar s u d.toNat r.scalarResult r.flags) (k + 1)) := by
  obtain ⟨w, hw, hq⟩ := hi
  have hvreg : w.me.vreg a.toNat = s.me.vreg a.toNat := by rw [hq.me]; rfl
  refine ⟨w, hw, ((h.tells ho hq).afterGroups k (hk.trans (Nat.zero_add _).symm)).imp fun u hu => ?_⟩
  rw [hvreg] at hu
  exact .of_becomes (v := (_, _)) h.cur hq (by rw [h.onHart]; rfl) rfl hu

/-- A record of no elements is over at its first step (R199). -/
theorem RunsQueue.wroteScalar_of_empty {i : Instr} (hi : Pushes (exec i s) s (s.tellRecord op d (s.registerOf a) opa))
    (hk : (s.tellRecord op d (s.registerOf a) opa).groups = 0) :
    Answers (exec i s) (AfterGroups ag s.me.vqtail (fun u =>
      WroteScalar s u d.toNat (s.tellRecord op d (s.registerOf a) opa).scalarResult 0) 1) := by
  obtain ⟨w, hw, hq⟩ := hi
  obtain ⟨u, hu, hbecomes⟩ := (h.tells ho hq).finish_of_empty hk
  exact ⟨w, hw, u, hu, .of_becomes (v := (_, _)) h.cur hq (by rw [h.onHart]; rfl) rfl hbecomes⟩

end

/-- What VMPOPC and VMFIRST give for n elements: how many have bit 0 set, or the first that has, else all ones (R211). -/
def VOp.counted (op : VOp) (bit : Nat → Bool) (n : Nat) : Word :=
  match op with
  | .mfirst => ((List.range n).find? bit).elim (BitVec.allOnes 64) (BitVec.ofNat 64)
  | _ => BitVec.ofNat 64 ((List.range n).countP bit)

theorem VRec.Tallied.scalarResult {r0 r : VRec} (ho : r0.op = .mpopc ∨ r0.op = .mfirst) (hvl : r0.vl < 2 ^ 32) {v : VReg}
    {k : Nat} (h : r0.Tallied v k r) (hall : r0.vl ≤ k * r0.lanes) : r.scalarResult = r0.op.counted v.bit r0.vl := by
  have hopb := h.opb
  rw [Nat.min_eq_right hall] at hopb
  unfold VRec.scalarResult
  rw [h.op]
  rcases ho with ho | ho
  · rw [ho] at hopb ⊢
    exact hopb
  · rw [ho] at hopb ⊢
    simp only [VOp.tally, VOp.counted] at hopb ⊢
    cases hf : (List.range r0.vl).find? v.bit with
    | none => simp [hopb, hf]
    | some i =>
      have hi : i < r0.vl := List.mem_range.1 (List.mem_of_find?_eq_some hf)
      rw [hf, Option.elim_some] at hopb
      rw [hopb, Option.elim_some, if_neg (ofNat_succ_ne_zero (by omega)), BitVec.ofNat_add]
      exact BitVec.add_sub_cancel _ _

/-- A lane group has at least one lane, and a hart without any counts as if it had all 32 (R41, R55). -/
theorem State.blank_lanes_pos (s : State) (op : VOp) (n : Nat) : 0 < (s.blank op n).lanes := by
  show 0 < if s.lanes s.who = 0 then 32 else s.lanes s.who
  split <;> omega

/-- A count over all lane groups (R199, R211). -/
theorem VRec.groups_count {r : VRec} (ho : r.op = .mpopc ∨ r.op = .mfirst) : r.groups = (r.vl + r.lanes - 1) / r.lanes := by
  rcases ho with ho | ho <;> simp [VRec.groups, ho, VOp.single, VOp.whole, VOp.always]

/-- No element number below VLMAX is all ones (R41). -/
theorem State.vlmax_lt (s : State) (a : Agent) : s.vlmax a < 2 ^ 32 := by
  have hfilter (p : Nat → Bool) : 4 * ((List.range 8).filter p).length ≤ 32 :=
    Nat.mul_le_mul_left 4 (List.length_filter_le p (List.range 8))
  have hlanes : s.lanes a ≤ 32 := by
    unfold State.lanes State.lanesOf State.accessLanes
    split <;> exact hfilter _
  calc s.lanes a * (16384 / ((s.gangOf a.gang).nv * (s.gangOf a.gang).w))
    _ ≤ 32 * 16384 := Nat.mul_le_mul hlanes (Nat.div_le_self _ _)
    _ < 2 ^ 32 := by decide

section
variable {s : State} {ag : Agent} (h : RunsQueue s ag) {d a : BitVec 6} {i : Instr}
include h

/-- VMPOPC and VMFIRST of a register on a hart with nothing else queued (R198, R211). -/
theorem RunsQueue.wroteCount {op : VOp} (ho : op = .mpopc ∨ op = .mfirst) (hvl : s.me.vl < 2 ^ 32)
    (hi : Pushes (exec i s) s (s.tellRecord op d (s.registerOf a) 0)) :
    let lanes := if s.lanes s.who = 0 then 32 else s.lanes s.who
    Answers (exec i s) (AfterGroups ag s.me.vqtail (fun u =>
        WroteScalar s u d.toNat (op.counted (s.me.vreg a.toNat).bit s.me.vl) 0)
      (max 1 ((s.me.vl + lanes - 1) / lanes))) := by
  intro lanes
  have hop : (s.tellRecord op d (s.registerOf a) 0).op = .mpopc ∨ (s.tellRecord op d (s.registerOf a) 0).op = .mfirst := ho
  have htells : op.tells := ho.imp_right .inl
  have hpos : 0 < lanes := s.blank_lanes_pos op s.me.vl
  have hgroups : (s.tellRecord op d (s.registerOf a) 0).groups = (s.me.vl + lanes - 1) / lanes := VRec.groups_count hop
  have htally (k : Nat) := VRec.tallied_iterate hop hvl (s.me.vreg a.toNat) rfl rfl rfl k
  cases hk : (s.me.vl + lanes - 1) / lanes with
  | zero =>
    have hempty : s.me.vl ≤ 0 * lanes := by
      have := (Nat.div_eq_zero_iff.1 hk).resolve_left (by omega)
      omega
    have hresult := (htally 0).scalarResult hop hvl hempty
    have hwrote := h.wroteScalar_of_empty htells hi (hgroups.trans hk)
    rw [Function.iterate_zero_apply] at hresult
    rw [hresult] at hwrote
    exact hwrote
  | succ k =>
    have hall : s.me.vl ≤ (k + 1) * lanes := by
      rw [← hk]
      have := Nat.div_add_mod (s.me.vl + lanes - 1) lanes
      have := Nat.mod_lt (s.me.vl + lanes - 1) hpos
      rw [Nat.mul_comm]
      omega
    have hresult := (htally (k + 1)).scalarResult hop hvl hall
    have hwrote := h.wroteScalar htells hi (hgroups.trans hk)
    rw [Nat.max_eq_right (by omega)]
    dsimp only at hwrote
    rw [hresult, (htally (k + 1)).flags] at hwrote
    exact hwrote

/-- VGETE of a register on a hart with nothing else queued (R198, R212). -/
theorem RunsQueue.wroteElement {n : Word} (hi : Pushes (exec i s) s (s.tellRecord .gete d (s.registerOf a) (s.element n))) :
    let r := geteWord (s.me.vreg a.toNat).tag ((s.me.vreg a.toNat).data.get n.toNat)
    Answers (exec i s) (AfterGroups ag s.me.vqtail (fun u =>
      WroteScalar s u d.toNat (if n.toNat < s.vlmax s.who then r.1 else 0) (if n.toNat < s.vlmax s.who then r.2 else 0)) 1) := by
  intro r
  have hwrote := h.wroteScalar (.inr (.inr rfl)) hi (k := 0) rfl
  have hfound : (s.tellRecord .gete d (s.registerOf a) (s.element n)).found (s.me.vreg a.toNat) 0 =
      (if n.toNat < s.vlmax s.who then r.1 else 0, if n.toNat < s.vlmax s.who then r.2 else 0) := by
    rw [VRec.found_gete _ _ rfl]
    show (if s.element n = BitVec.allOnes 64 then (0, 0) else geteWord (s.me.vreg a.toNat).tag
      ((s.me.vreg a.toNat).data.get (s.element n).toNat)) = _
    unfold State.element
    by_cases hn : n.toNat < s.vlmax s.who
    · have hne : n ≠ BitVec.allOnes 64 := by
        rintro rfl
        have := s.vlmax_lt s.who
        rw [BitVec.toNat_allOnes] at hn
        omega
      simp only [if_pos hn, if_neg hne, r]
    · simp only [if_neg hn, if_true]
  have hzero (fl : BitVec 6) : 0 ||| fl = fl := BitVec.zero_or
  have hstepped := VRec.stepped_of_found hfound
  dsimp only at hwrote
  rw [Function.iterate_one, hstepped] at hwrote
  exact hzero (if n.toNat < s.vlmax s.who then r.2 else 0) ▸ hwrote

end

/-! The statement. -/

section
variable {s : State} {ag : Agent} (h : RunsQueue s ag) {a : BitVec 6} (hq : isQueue a = false) (ha : a.toNat < s.myGang.nv)
  (d : BitVec 6)
include h hq ha

/-- What the counts of a register push (R211). -/
theorem RunsQueue.pushes_count (op : VOp) :
    Pushes (s.both (s.pushCount op d a)) s (s.tellRecord op d (s.registerOf a) 0) := by
  have htakes := State.takes_count h.room (State.vsource_register s hq none) (d := d) op (.inl h.onHart)
    (State.length_of_hart h.onHart _ _) (State.named_source h.onHart hq ha false)
  rw [State.popsNothing_source hq] at htakes
  rw [State.both_eq h.room]
  exact htakes rfl

/-- What VGETE of a register pushes (R212). -/
theorem RunsQueue.pushes_gete (b : BitVec 6) :
    Pushes (exec (.vgete d a b) s) s (s.tellRecord .gete d (s.registerOf a) (s.element (s.x b))) := by
  show Pushes (s.execute (s.pushGete d a b)) _ _
  rw [State.execute_eq h.room.1 h.onHart h.room.2.1]
  exact State.pushes_gete h.room (State.named_source h.onHart hq ha false) (State.vsource_register s hq none) d b

end

/-- Settles O42: each form resolves its sources and pushes its record, and what tells the scalar thread is performed step by
step. -/
theorem queuedMasks : Obligations.QueuedMasks := by
  unfold Obligations.QueuedMasks
  intro d a b m s hr
  refine ⟨?_, ?_, ?_, ?_⟩
  · intro u s1 s2 x y vl hx both
    refine ⟨?_, fun hy => ⟨?_, ?_⟩, fun hint => ⟨?_, ?_⟩⟩
    · intro p hp g t hy ht hfits hint hunord fs hvl
      rw [exec_cmpForms p hp, State.both_eq hr]
      exact State.takes_cmp hr hx hy ht hfits hint hunord hvl
    · intro p hp hint fs hvl
      rw [exec_maskForms p hp, State.both_eq hr]
      exact State.takes_mask hr hx hy p.2 hint hvl
    · intro t ht hfits hint fs hvl
      show s.Takes fs u (s.both (s.pushSel d a b)) _ _ _
      rw [State.both_eq hr]
      exact State.takes_sel hr hx hy ht hfits hint hvl
    · intro fs dst hvl
      show s.Takes fs u (s.both (s.pushMask .not d a 0)) _ _ _
      rw [State.both_eq hr]
      exact State.takes_not hr hx hint hvl
    · intro fs p hp hvl
      have hexec : exec (p.1 d a) s = s.both (s.pushCount p.2 d a) := by
        simp only [List.mem_cons, List.not_mem_nil, or_false] at hp
        obtain rfl | rfl := hp <;> rfl
      rw [hexec, State.both_eq hr]
      exact State.takes_count hr hx p.2 hint hvl
  · intro s1 x hh hn hx
    show Pushes (s.execute (s.pushGete d a b)) _ _
    rw [State.execute_eq hr.1 hh hr.2.1]
    exact State.pushes_gete hr hn hx d b
  · intro vl fill fs fm t
    refine ⟨fun hn hvl => ?_, fun hn hvl => ?_⟩
    · show Pushes (s.both (s.pushFill .mset .n8 d false)) _ _
      rw [State.both_eq hr]
      exact State.pushes_fill hr hn hvl .mset .n8
    · show Pushes (s.both (s.pushFill .vid t d m)) _ _
      rw [State.both_eq hr]
      exact State.pushes_fill hr hn hvl .vid t
  · intro ag hruns hq ha hvl bit lanes steps ends
    exact ⟨hruns.wroteCount (.inl rfl) hvl (hruns.pushes_count hq ha d .mpopc),
      hruns.wroteCount (.inr rfl) hvl (hruns.pushes_count hq ha d .mfirst),
      hruns.wroteElement (hruns.pushes_gete hq ha d b)⟩

end Sys2Proof.Machine
end

section
/-! QDRAIN: what a drain of load and store queues waits for (R132, R241, R250). -/

namespace Sys2Proof.Machine

/-- Bit k of a queue mask, as the model reads it from the mask's number. -/
theorem bit_toNat_iff (w : Word) (k : Nat) : w.toNat / 2 ^ k % 2 = 1 ↔ w.getLsbD k = true := by
  rw [← BitVec.testBit_toNat, Nat.testBit_eq_decide_div_mod_eq, decide_eq_true_iff]

theorem bit_toNat_ne_one {w : Word} {k : Nat} (h : w.getLsbD k = false) : ¬ w.toNat / 2 ^ k % 2 = 1 := by
  rw [bit_toNat_iff, h]
  exact Bool.false_ne_true

/-- The queues that a mask names hold nothing: each that is enabled is empty (R64, R241). -/
theorem Gang.namedQueues_all_isEmpty (g : Gang) (w : Word) :
    ((g.namedQueues w.toNat).all (·.isEmpty)) = true ↔
      ∀ k q, (g.lq ++ g.sq)[k]? = some q → w.getLsbD k = true → g.qen.getLsbD k = true → q = [] := by
  simp only [Gang.namedQueues, List.all_eq_true, List.mem_mapIdx, bit_toNat_iff, Bool.and_eq_true, decide_eq_true_eq,
    List.isEmpty_iff]
  constructor
  · intro h k q hq hw he
    obtain ⟨hk, rfl⟩ := List.getElem?_eq_some_iff.1 hq
    exact h _ ⟨k, hk, if_pos ⟨hw, he⟩⟩
  · rintro h _ ⟨k, hk, rfl⟩
    split_ifs with hnamed
    · exact h k _ (List.getElem?_eq_getElem hk) hnamed.1 hnamed.2
    · rfl

/-- A thread whose records and transfers name no queue of the mask, but for records of length 0, produces nothing for it. -/
theorem Thread.produces_eq_false {t : Thread} {w : Word} (counts : VRec → Bool)
    (hvq : ∀ r ∈ t.vq, r.vl = 0 ∨ ((∀ n, r.dst = .sq n → w.getLsbD (8 + n) = false) ∧
      ∀ q e, r.dst = .lq q e → w.getLsbD q = false))
    (hx : ∀ x ∈ t.xfers, ∀ q l, x.kind = .stream q l → w.getLsbD q = false) :
    t.produces w.toNat counts = false := by
  unfold Thread.produces
  rw [Bool.or_eq_false_iff, List.any_eq_false, List.any_eq_false]
  constructor
  · intro r hr
    rcases hvq r hr with hvl | ⟨hsq, hlq⟩
    · cases r.dst <;> simp [hvl]
    · cases hd : r.dst with
      | sq n => simp [bit_toNat_ne_one (hsq n hd)]
      | lq q e => simp [bit_toNat_ne_one (hlq q e hd)]
      | _ => simp
  · intro x hmem
    cases hkind : x.kind with
    | stream q l => simp [bit_toNat_ne_one (hx x hmem q l hkind)]
    | _ => simp

/-- Named queues that are empty, with nothing in flight that produces for them or stores from them, are drained (R241). -/
theorem Gang.queuesDrained_of_silent {g : Gang} {m : Nat} {counts : VRec → Bool}
    (hempty : ((g.namedQueues m).all (·.isEmpty)) = true)
    (hprod : ∀ t ∈ g.access :: g.harts, ∀ c, t.produces m c = false)
    (hstore : m < 256 ∨ g.access.wc = [] ∧ ∀ r ∈ g.access.vq, ∀ f n, r.op ≠ .store f n) :
    g.queuesDrained m counts = true := by
  have haccess := hprod g.access List.mem_cons_self counts
  have hharts : (g.harts.any (·.produces m fun _ => true)) = false :=
    List.any_eq_false.2 fun t ht => by rw [hprod t (List.mem_cons_of_mem _ ht)]; exact Bool.false_ne_true
  unfold Gang.queuesDrained
  dsimp only
  rw [hempty, haccess, hharts]
  rcases hstore with hlow | ⟨hwc, hops⟩
  · simp [hlow]
  · have hstores : g.access.storesFrom m = false := by rw [Thread.storesFrom, hwc, List.any_nil]
    rw [hstores]
    refine Bool.and_eq_true_iff.2 ⟨rfl, Bool.or_eq_true_iff.2 (.inr (Bool.and_eq_true_iff.2 ⟨?_, rfl⟩))⟩
    rw [Bool.not_eq_true', List.any_eq_false]
    intro e _
    cases e.sq with
    | none => exact Bool.false_ne_true
    | some p =>
      intro htaken
      obtain ⟨r, hr, hstoring⟩ := List.any_eq_true.1 (Bool.and_eq_true_iff.1 htaken).2
      cases hop : r.op with
      | store f n => exact hops r hr f n hop
      | _ => simp [hop] at hstoring

/-- While a named queue holds an entry, the queues are not drained (R241). -/
theorem Gang.not_queuesDrained {g : Gang} {m : Nat} {counts : VRec → Bool}
    (h : ((g.namedQueues m).all (·.isEmpty)) = false) : g.queuesDrained m counts = false := by
  unfold Gang.queuesDrained
  dsimp only
  rw [h]
  rfl

/-- What QDRAIN does: it refuses a mask above bit 11, a context queues it, and a hart waits until the queues are drained. -/
theorem exec_qdrain {s : State} (hl : s.live = true) (a : BitVec 6) : exec (.qdrain a) s =
    if 2 ^ 12 ≤ (s.x a).toNat then s.illop
    else if !s.onHart then s.pushOut (s.pushVec { s.blank .drain 1 with opa := s.x a })
    else if s.myGang.queuesDrained (s.x a).toNat fun _ => true then s.ret
    else s.stallFor (.drain (s.x a).toNat) :=
  State.agent_of_live hl _

/-- QDRAIN of a hart, with a mask of queues. -/
theorem exec_qdrain_of_onHart {s : State} (hl : s.live = true) (hh : s.onHart = true) {a : BitVec 6}
    (hm : (s.x a).toNat < 4096) : exec (.qdrain a) s =
      if s.myGang.queuesDrained (s.x a).toNat fun _ => true then s.ret else s.stallFor (.drain (s.x a).toNat) := by
  rw [exec_qdrain hl, if_neg (by omega), hh]
  rfl

/-- Settles O38: a hart waits exactly for the drain of the named queues, and a context pushes its record. -/
theorem queueDrain : Obligations.QueueDrain := by
  unfold Obligations.QueueDrain
  intro s a hl
  refine ⟨fun hm => ?_, fun hr hh hm => ?_, fun hh hm hempty hthreads hstore => ?_, fun hh hm k q hq hne hw he => ?_⟩
  · exact (exec_qdrain hl a).trans (if_pos hm)
  · obtain ⟨t, ht, hqueued⟩ := hr.pushVec { s.blank .drain 1 with opa := s.x a }
    rw [exec_qdrain hl, if_neg (by omega), hh]
    exact .of_ok ht hqueued
  · have hdrained : (s.myGang.queuesDrained (s.x a).toNat fun _ => true) = true :=
      Gang.queuesDrained_of_silent ((Gang.namedQueues_all_isEmpty ..).2 hempty)
        (fun t ht c => Thread.produces_eq_false c (hthreads t ht).1 (hthreads t ht).2) hstore
    exact .of_eq ((exec_qdrain_of_onHart hl hh hm).trans (if_pos hdrained)) (Retires.ret hl)
  · have hheld : ((s.myGang.namedQueues (s.x a).toNat).all (·.isEmpty)) = false :=
      Bool.eq_false_iff.2 fun hall => hne ((Gang.namedQueues_all_isEmpty ..).1 hall k q hq hw he)
    rw [exec_qdrain_of_onHart hl hh hm, Gang.not_queuesDrained hheld]
    rfl

end Sys2Proof.Machine
end

section
/-! The Catalogue's instructions: what a hart sends, and what MSTREAM pushes (R261, R301, R305 to R308, R311, R312,
R333). -/

namespace Sys2Proof.Machine

/-! Requests of a hart. -/

/-- The field checks of MSHEAF (R312). -/
theorem exec_msheaf {s : State} (hl : s.live = true) (hh : s.onHart = true) (d a b : BitVec 6) :
    exec (.msheaf d a b) s =
      if mwKind (s.x a) = 0 ∧ mwFmask (s.x a) = 0 ∧ mwChunk (s.x a) = 0 ∧ mwReservedOk (s.x a) = true
      then s.ask d .msheaf (s.x a) (s.x b) else s.illop := by
  refine (State.hart_of_onHart hl hh _).trans ?_
  rw [← ite_not]
  refine if_congr ?_ rfl rfl
  simp only [Bool.or_eq_true, decide_eq_true_eq, Bool.not_eq_true', ← Bool.not_eq_true]
  tauto

/-- The field checks of MQUERY (R308, R311). -/
theorem exec_mquery {s : State} (hl : s.live = true) (hh : s.onHart = true) (d a : BitVec 6) :
    exec (.mquery d a) s =
      if mwKind (s.x a) ∉ [5, 6, 7, 15] ∧ (8 ≤ mwKind (s.x a) → mwFmask (s.x a) = 0 ∧ mwChunk (s.x a) = 0) ∧
        (mwKind (s.x a) < 5 → mwReservedOk (s.x a) = true) ∧ (mwKind (s.x a) = 3 → hi32 (s.x d) = 0)
      then s.ask d .mquery (s.x a) (s.x d) else s.illop := by
  refine (State.hart_of_onHart hl hh _).trans ?_
  rw [← ite_not]
  refine if_congr ?_ rfl rfl
  simp only [Bool.or_eq_true, Bool.and_eq_true, decide_eq_true_eq, Bool.not_eq_true', ← Bool.not_eq_true, List.mem_cons,
    List.not_mem_nil, or_false]
  have h3 : mwKind (s.x a) = 3 → mwKind (s.x a) < 5 := by omega
  tauto

/-! MSTREAM. -/

/-- The field checks of MSTREAM on its word and its range. -/
def streamLegal (w range : Word) : Bool :=
  decide (mwKind w < 5) && mwReservedOk w && decide (mwFmask w ≠ 0) && decide (mwFmask w < 2 ^ kindFields (mwKind w)) &&
    !(mwKind w = 3 && decide (hi32 range ≠ 0))

/-- What they check (R307, R308). -/
theorem streamLegal_iff (w range : Word) : streamLegal w range = true ↔ mwKind w < 5 ∧ mwReservedOk w = true ∧
    mwFmask w ≠ 0 ∧ mwFmask w < 2 ^ kindFields (mwKind w) ∧ (mwKind w = 3 → hi32 range = 0) := by
  simp [streamLegal, and_assoc, imp_iff_not_or]

/-- The record that MSTREAM pushes. -/
def State.streamRecord (s : State) (q : BitVec 3) (a b : BitVec 6) : VRec :=
  { s.blank .stream 1 with dst := .lq q.toNat none, opa := s.x a, opb := s.x b }

/-- MSTREAM makes its field checks, then those of its queue, and is pushed (R59, R261, R307). -/
theorem exec_mstream {s : State} (hr : s.room) (q : BitVec 3) (a b : BitVec 6) :
    exec (.mstream q a b) s =
      if streamLegal (s.x a) (s.x b) = true then
        if s.myGang.qen.getLsbD q.toNat = true then
          if s.myGang.boundTo q.toNat = true then s.stallFor .busy
          else s.pushOut (s.pushVec (s.streamRecord q a b))
        else s.trap cQERR
      else s.illop := by
  have hexec : exec (.mstream q a b) s = s.pushOut (need (streamLegal (s.x a) (s.x b)) >>= fun _ => do
      if !s.myGang.qen.getLsbD q.toNat then Except.error (.trap cQERR)
      if s.myGang.boundTo q.toNat then Except.error (.wait .busy)
      s.pushVec (s.streamRecord q a b)) :=
    State.both_eq hr _
  rw [hexec]
  cases streamLegal (s.x a) (s.x b)
  · rfl
  · cases s.myGang.qen.getLsbD q.toNat
    · rfl
    · cases s.myGang.boundTo q.toNat <;> rfl

/-- Settles O48: a hart's request is sent where its fields are legal, and MSTREAM is pushed where its queue takes it. -/
theorem catalogueRequests : Obligations.CatalogueRequests := by
  unfold Obligations.CatalogueRequests
  intro d a b s hl
  refine ⟨fun hh => ?_, fun hr q => ?_⟩
  · have hart (k : Out) : s.hart k = k := State.hart_of_onHart hl hh k
    refine ⟨fun hq => ⟨?_, ?_⟩, hart _, fun hb => ?_, fun hb => ?_, ⟨fun h => ?_, fun h => ?_⟩, fun h => ?_, fun h => ?_⟩
    · exact (hart _).trans (hq.afterRelease _ _)
    · exact ((hart _).trans (hq.afterRelease _ _)).trans (if_neg (by simp [hq.xfers]))
    · exact (hart _).trans (if_neg (Nat.not_le.2 hb))
    · exact (hart _).trans (if_pos hb)
    · exact (exec_msheaf hl hh d a b).trans (if_pos h)
    · exact (exec_msheaf hl hh d a b).trans (if_neg h)
    · exact (exec_mquery hl hh d a).trans (if_pos h)
    · exact (exec_mquery hl hh d a).trans (if_neg h)
  · rw [exec_mstream hr]
    dsimp only
    rw [← streamLegal_iff]
    refine ⟨fun hlegal hready hfree => ?_, fun hlegal => ⟨fun hoff => ?_, fun hready hbound => ?_⟩, fun h => if_neg h⟩
    · obtain ⟨t, ht, hqueued⟩ := hr.pushVec (s.streamRecord q a b)
      rw [if_pos hlegal, if_pos hready, if_neg (by simp [hfree])]
      exact .of_ok ht hqueued
    · rw [if_pos hlegal, if_neg hoff]
    · rw [if_pos hlegal, if_pos hready, if_pos (by simpa using hbound)]

end Sys2Proof.Machine
end

section
/-! Collective forms of a context: ALD.CL and AST.CL read the group registers at issue (R256, R265). -/

namespace Sys2Proof.Machine

/-! Changes of a gang that keep its threads. -/

section
variable {s : State} {i : Nat} {f : Gang → Gang} (hf : ∀ g r, (f g).thread? r = g.thread? r)
include hf

theorem State.thread?_modGang_of_thread? (a : Agent) : (s.modGang i f).thread? a = s.thread? a := by
  rw [State.thread?_modGang]
  split
  · unfold State.thread?
    cases s.gangs[a.gang]? with
    | none => rfl
    | some g => exact hf g a.role
  · rfl

theorem State.room.modGang (h : s.room) : (s.modGang i f).room := by
  have hthread := State.thread?_modGang_of_thread? (s := s) (i := i) hf
  have hlive : (s.modGang i f).live = s.live := by simp [State.live, hthread]
  have hme : (s.modGang i f).me = s.me := by simp [State.me, hthread]
  unfold State.room
  rw [hlive, hme]
  exact h

end

theorem countColl_thread? (g : Gang) (send : Bool) (r : Role) : (countColl g send).thread? r = g.thread? r := by
  cases r <;> rfl

/-- Counting a chunk keeps the room of the queue. -/
theorem State.room.countColl {s : State} (h : s.room) (i : Nat) (send : Bool) :
    (s.modGang i fun g => countColl g send).room :=
  h.modGang fun g r => countColl_thread? g send r

/-! ALD.CL. -/

/-- Load queue q is the destination of a context's form that names it (R58). -/
theorem State.vdest_loadQueue {s : State} (hh : s.onHart = false) (q : BitVec 3) :
    s.vdest ⟨[], some (7#3 ++ q), true, false⟩ = .lq q.toNat none := by
  have hq : isQueue (7#3 ++ q) = true ∧ (7#3 ++ q).toNat - 56 = q.toNat := by
    revert q
    decide
  unfold State.vdest
  dsimp only
  rw [hq.1, hq.2, hh]
  rfl

/-- The record of ALD.CL. -/
def State.receiveRecord (s : State) (q : BitVec 3) : VRec :=
  let c := s.myGang.coll
  { s.blank .receive c.clen with
    dst := .lq q.toNat none, opTag := (collTag c.tag).getD .f64, outTag := (collTag c.tag).getD .f64
    opa := BitVec.ofNat 64 (c.recv + c.clen * 2 ^ 32)
    opb := BitVec.ofNat 64 (c.gidx + c.rank * 2 ^ 8 + c.nrm1 * 2 ^ 20 + c.cop.toNat * 2 ^ 32) }

section
variable {s : State} {q : BitVec 3} (hl : s.live = true) (hh : s.onHart = false) (he : s.myGang.ecap ≠ 0)
  (hn : s.named ⟨[], some (7#3 ++ q), true, false⟩ = .ok ())
include hl hh he hn

theorem exec_aldCl_refused {k : Nat} (hk : s.collCause s.myGang none = some k) : exec (.aldCl q) s = s.trap k := by
  refine (State.access_eq hl hh _).trans ?_
  unfold State.pushAldCl
  dsimp only
  rw [hn, State.vdest_loadQueue hh, if_neg he, hk]
  rfl

theorem exec_aldCl_pushed (hk : s.collCause s.myGang none = none) : exec (.aldCl q) s =
    s.pushOut ((s.modGang s.who.gang fun g => countColl g false).pushVec (s.receiveRecord q)) := by
  refine (State.access_eq hl hh _).trans ?_
  unfold State.pushAldCl
  dsimp only
  rw [hn, State.vdest_loadQueue hh, if_neg he, hk]
  rfl

end

/-! AST.CL. -/

/-- The record of AST.CL, of an entry that has been resolved. -/
def State.contributeRecord (s : State) (x : Operand) : VRec :=
  let c := s.myGang.coll
  { s.blank .contribute x.count with
    srcA := x.src, tagA := x.tag, opa := BitVec.ofNat 64 (c.sent + c.clen * 2 ^ 32)
    opb := BitVec.ofNat 64 (c.gidx + c.rank * 2 ^ 8 + c.nrm1 * 2 ^ 20 + c.cop.toNat * 2 ^ 32), pops := popsOf [x] }

section
variable {s s1 : State} {q : BitVec 2} {x : Operand} (hl : s.live = true) (hh : s.onHart = false)
  (hn : s.named ⟨[14#4 ++ q], none, false, false⟩ = .ok ()) (hx : s.vsource none (14#4 ++ q) = .ok (x, s1))
include hl hh hn hx

theorem exec_astCl_refused {k : Nat} (hk : s1.collCause s1.myGang (some (x.count, x.tag)) = some k) :
    exec (.astCl q) s = s.trap k := by
  refine (State.access_eq hl hh _).trans ?_
  unfold State.pushAstCl
  rw [hn, hx]
  simp only [bind, Except.bind, hk]
  rfl

theorem exec_astCl_pushed (hk : s1.collCause s1.myGang (some (x.count, x.tag)) = none) : exec (.astCl q) s =
    s.pushOut ((s1.modGang s1.who.gang fun g => countColl g true).pushVec (s1.contributeRecord x)) := by
  refine (State.access_eq hl hh _).trans ?_
  unfold State.pushAstCl
  rw [hn, hx]
  simp only [bind, Except.bind, hk]
  rfl

end

end Sys2Proof.Machine
end

section
/-! The context of a gang with no access program: its contributions from sq3 and its entries of lq7 (R269). -/

namespace Sys2Proof.Machine

/-- A gang that exists, after a change of it. -/
theorem State.gangOf_modGang_of {s : State} {i : Nat} {g : Gang} (hg : s.gangs[i]? = some g) (f : Gang → Gang) :
    (s.modGang i f).gangOf i = f g :=
  State.gangOf_of (by rw [State.getElem?_modGang, if_pos rfl, hg]; rfl)

/-! Nothing to do. -/

section
variable {s : State} {gi : Nat} {g : Gang} (hg : s.gangs[gi]? = some g)

theorem exec_queueSteps_of_not_carries (hc : s.carries gi = false) :
    exec (.sq3Contribution gi) s = .next s ∧ exec (.lq7Receive gi) s = .next s := by
  show execSq3Contribution gi s = .next s ∧ execLq7Receive gi s = .next s
  unfold execSq3Contribution execLq7Receive
  rw [hc]
  exact ⟨rfl, rfl⟩

include hg

theorem exec_sq3Contribution_of_empty (hu : g.unclaimed ((g.sq[3]?).getD []) = none) :
    exec (.sq3Contribution gi) s = .next s := by
  show execSq3Contribution gi s = .next s
  unfold execSq3Contribution
  dsimp only
  rw [State.gangOf_of hg, hu]
  cases s.carries gi <;> rfl

theorem exec_lq7Receive_of_full (hq : 2 ≤ ((g.lq[7]?).getD []).length) : exec (.lq7Receive gi) s = .next s := by
  show execLq7Receive gi s = .next s
  unfold execLq7Receive
  dsimp only
  rw [State.gangOf_of hg, if_pos (by simp [hq])]

end

/-! Contributions. -/

/-- An entry that leaves sq3 and the pool. -/
def Gang.dropSq3 (id : Nat) (g : Gang) : Gang :=
  { g with sq := modifyAt g.sq 3 fun q => q.filter (· ≠ id), ents := g.ents.filter fun x => x.id ≠ id }

/-- The cause that a hart is given for an entry of its own that is discarded (R269, R386). -/
def Pusher.discardCause (w : Pusher) (code : Nat) : Cause :=
  { code := code, sub := 0, src := 3, elem := 0, qdist := 0, group := 0, seq := w.seq, addr := 0, pc := w.pc, info := 0
    word := w.word, acc := 0, ord := w.ord }

/-- A contribution that agrees with those to its chunk is kept after them (R266, R270). -/
theorem State.acceptChunk_of_agrees {s : State} {part : Nat} {c : Chunk}
    (h : ∀ b ∈ (s.part part).chunks, b.gidx = c.gidx → b.k = c.k → b.agrees c = true) :
    s.acceptChunk part c = s.modPart part fun p => { p with chunks := p.chunks ++ [c] } := by
  refine if_neg fun hany => ?_
  obtain ⟨b, hb, hdiffers⟩ := List.any_eq_true.1 hany
  simp only [Bool.and_eq_true, decide_eq_true_eq, Bool.not_eq_true'] at hdiffers
  obtain ⟨⟨hgidx, hk⟩, hnot⟩ := hdiffers
  exact Bool.false_ne_true (hnot.symm.trans (h b hb hgidx hk))

section
variable {s : State} {gi : Nat} {g : Gang} {e : Entry} (hg : s.gangs[gi]? = some g) (hc : s.carries gi = true)
  (hu : g.unclaimed ((g.sq[3]?).getD []) = some e)
include hg hc hu

theorem exec_sq3Contribution_accepted (hk : s.collCause g (some (e.count, e.tag)) = none) :
    exec (.sq3Contribution gi) s = .next
      (((s.acceptChunk (s.partOfCore g.core) (s.contributionOf g (entryList e))).modGang gi (Gang.dropSq3 e.id)).modGang gi
        fun g => countColl g true) := by
  show execSq3Contribution gi s = _
  unfold execSq3Contribution
  dsimp only
  rw [State.gangOf_of hg, hu, hc]
  simp only [hk]
  rfl

theorem exec_sq3Contribution_discarded {k : Nat} {w : Pusher} (hk : s.collCause g (some (e.count, e.tag)) = some k)
    (hw : e.sq = some w) : exec (.sq3Contribution gi) s = .next
      ((s.modGang gi (Gang.dropSq3 e.id)).modThread ⟨gi, .hart w.hart⟩ fun t =>
        { t with causes := t.causes ++ [w.discardCause k] }) := by
  show execSq3Contribution gi s = _
  unfold execSq3Contribution
  dsimp only
  rw [State.gangOf_of hg, hu, hc]
  simp only [hk, hw]
  rfl

/-- The oldest entry of sq3 is contributed (R269). -/
theorem sq3Contribution_contributes (hk : s.collCause g (some (e.count, e.tag)) = none)
    (hagree : ∀ b ∈ (s.part (s.partOfCore g.core)).chunks, b.gidx = g.coll.gidx →
      b.k = (s.contributionOf g (entryList e)).k → b.agrees (s.contributionOf g (entryList e)) = true)
    (hpart : s.partOfCore g.core < s.parts.length) :
    Answers (exec (.sq3Contribution gi) s) fun t => t.mem = s.mem ∧
      (t.part (s.partOfCore g.core)).chunks =
        (s.part (s.partOfCore g.core)).chunks ++ [s.contributionOf g (entryList e)] ∧
      (t.gangOf gi).coll = { g.coll with sent := (g.coll.sent + 1) % 2 ^ 32 } ∧
      (t.gangOf gi).ents = (g.ents.filter fun x => decide (x.id ≠ e.id)) ∧ (t.gangOf gi).harts = g.harts := by
  refine .intro (exec_sq3Contribution_accepted hg hc hu hk) ?_
  rw [State.acceptChunk_of_agrees hagree, State.modGang_modGang, State.gangOf_modGang_of (s := s.modPart _ _) hg]
  exact ⟨rfl, congrArg PartSt.chunks (State.part_modPart hpart _), rfl, rfl, rfl⟩

/-- The oldest entry of sq3 is discarded, and the hart that pushed it is given the cause (R269). -/
theorem sq3Contribution_discards {k : Nat} {w : Pusher} {u : Thread}
    (hk : s.collCause g (some (e.count, e.tag)) = some k) (hw : e.sq = some w) (hh : g.harts[w.hart]? = some u) :
    Answers (exec (.sq3Contribution gi) s) fun t => t.mem = s.mem ∧ t.parts = s.parts ∧ (t.gangOf gi).coll = g.coll ∧
      (t.gangOf gi).ents = (g.ents.filter fun x => decide (x.id ≠ e.id)) ∧
      ∃ c : Cause, t.thread? ⟨gi, .hart w.hart⟩ = some { u with causes := u.causes ++ [c] } ∧ c.code = k ∧ c.src = 3 ∧
        c.seq = w.seq ∧ c.pc = w.pc := by
  refine .intro (exec_sq3Contribution_discarded hg hc hu hk hw) ?_
  have hthread : (s.modGang gi (Gang.dropSq3 e.id)).thread? ⟨gi, .hart w.hart⟩ = some u := by
    rw [State.thread?_modGang, if_pos rfl, hg]
    exact hh
  refine ⟨rfl, rfl, ?_, ?_, _, State.thread?_modThread_self hthread _, rfl, rfl, rfl, rfl⟩
  all_goals
    rw [State.modThread, State.modGang_modGang, State.gangOf_modGang_of hg]
    rfl

end

/-! Entries of lq7. -/

/-- The entry for a gang's next chunk. -/
def Gang.chunkEntry (g : Gang) : Entry :=
  let t := (collTag g.coll.tag).getD .f64
  ⟨g.entNext, t, g.coll.clen, 0, zeroData t g.coll.clen, false, none, some (g.coll.gidx, g.coll.rank, g.nextChunk), none⟩

/-- An entry is pushed to lq7. -/
def Gang.pushLq7 (e : Entry) (g : Gang) : Gang :=
  { g with ents := g.ents ++ [e], entNext := g.entNext + 1, lq := modifyAt g.lq 7 (· ++ [e.id]) }

section
variable {s : State} {gi : Nat} {g : Gang} {q : List Nat} (hg : s.gangs[gi]? = some g) (hc : s.carries gi = true)
  (hon : g.qen.getLsbD 7 = true) (hbound : g.bound.contains 7 = false) (hq : g.lq[7]? = some q) (hroom : q.length < 2)
  (hcap : g.ecap ≠ 0) (hlen : g.coll.clen ≠ 0) (hk : s.collCause g none = none) (hrec : g.coll.receives = true)
include hg hc hon hbound hq hroom hcap hlen hk hrec

theorem exec_lq7Receive_pushed :
    exec (.lq7Receive gi) s = .next (s.modGang gi (Gang.pushLq7 g.chunkEntry)) := by
  show execLq7Receive gi s = _
  unfold execLq7Receive
  dsimp only
  rw [State.gangOf_of hg, if_neg (by simp [-List.contains_eq_mem, hc, hon, hbound, hq, hroom, hcap, hlen, hrec]), hk]
  rfl

/-- An entry for the next chunk is pushed to lq7 (R269). -/
theorem lq7Receive_pushes :
    Answers (exec (.lq7Receive gi) s) fun t => t.mem = s.mem ∧ (t.gangOf gi).lq[7]? = some (q ++ [g.entNext]) ∧
      (t.gangOf gi).coll = g.coll ∧ ∃ e : Entry, (t.gangOf gi).ents = g.ents ++ [e] ∧ e.id = g.entNext ∧
        e.count = g.coll.clen ∧ e.prog = 0 ∧ e.cause = none ∧
        e.chunk = some (g.coll.gidx, g.coll.rank, g.nextChunk) := by
  refine .intro (exec_lq7Receive_pushed hg hc hon hbound hq hroom hcap hlen hk hrec) ?_
  rw [State.gangOf_modGang_of hg]
  refine ⟨rfl, ?_, rfl, _, rfl, rfl, rfl, rfl, rfl, rfl⟩
  show (modifyAt g.lq 7 _)[7]? = _
  rw [getElem?_modifyAt, if_pos rfl, hq]
  rfl

end

end Sys2Proof.Machine
end

section
/-! How a chunk of a reduction forms, and how its results reach the entries that wait for them (R266 to R268, R390). -/

namespace Sys2Proof.Machine

/-- A result not yet delivered: its group, rank and chunk, and its elements. -/
abbrev ChunkResult := Nat × Nat × Nat × List (BitVec 64)

/-! Forming. -/

/-- Every rank of a group has made all its contributions to a chunk whose contributions are `cs` (R267, R268). -/
def chunkWhole (l : Option Launch) (ranks : Nat) (cs : List Chunk) : Prop :=
  ∀ r < ranks, contributionsOf l r ≤ (cs.filter fun c => decide (c.rank = r)).length

theorem chunkWhole_iff (l : Option Launch) (ranks : Nat) (cs : List Chunk) :
    ((List.range ranks).all fun r => decide (contributionsOf l r ≤ (cs.filter fun c => decide (c.rank = r)).length)) = true ↔
      chunkWhole l ranks cs := by
  simp [chunkWhole]

/-- What a reduction gives its ranks: REDUCE its root alone, ALLREDUCE every one (R266). -/
def reducedFor (c : Chunk) (ranks : Nat) (v : List (BitVec 64)) : List (Nat × List (BitVec 64)) :=
  if c.kind = 2 then [(c.root, v)] else (List.range ranks).map fun r => (r, v)

/-- A rank of a group is of this module. -/
def State.rankHere (s : State) (e : GroupEntry) (r : Nat) : Bool :=
  match e.ranks[r]? with
  | some x => x.1 = s.mod.fmodid.toNat % 2 ^ 16
  | none => false

theorem State.rankHere_of {s : State} {e : GroupEntry} {r : Nat} {m : Nat × Nat × Nat} (hr : e.ranks[r]? = some m)
    (hm : m.1 = s.mod.fmodid.toNat % 2 ^ 16) : s.rankHere e r = true := by
  unfold State.rankHere
  rw [hr]
  exact decide_eq_true hm

/-- The results that a reduced chunk leaves to be delivered. -/
def State.reducedResults (s : State) (e : GroupEntry) (k : Nat) (c : Chunk) (v : List (BitVec 64)) : List ChunkResult :=
  ((reducedFor c e.ranks.length v).filter fun r => s.rankHere e r.1).map fun r => (e.gidx, r.1, k, r.2)

/-- Each of them holds the elements of the chunk. -/
theorem State.data_of_mem_reducedResults {s : State} {e : GroupEntry} {k : Nat} {c : Chunk} {v : List (BitVec 64)}
    {r : ChunkResult} (h : r ∈ s.reducedResults e k c v) : r.2.2.2 = v := by
  obtain ⟨x, hx, rfl⟩ := List.mem_map.1 h
  have hmem := (List.mem_filter.1 hx).1
  unfold reducedFor at hmem
  split at hmem
  · rw [List.mem_singleton.1 hmem]
  · obtain ⟨_, -, rfl⟩ := List.mem_map.1 hmem
    rfl

/-- A rank of this module that the reduction gives its elements is among them. -/
theorem State.mem_reducedResults {s : State} {e : GroupEntry} {r : Nat} {m : Nat × Nat × Nat} {c : Chunk}
    (hr : e.ranks[r]? = some m) (hm : m.1 = s.mod.fmodid.toNat % 2 ^ 16) (hroot : c.kind = 2 → r = c.root) (k : Nat)
    (v : List (BitVec 64)) : (e.gidx, r, k, v) ∈ s.reducedResults e k c v := by
  refine List.mem_map.2 ⟨(r, v), List.mem_filter.2 ⟨?_, State.rankHere_of hr hm⟩, rfl⟩
  unfold reducedFor
  split
  next hkind => exact List.mem_singleton.2 (by rw [hroot hkind])
  next => exact List.mem_map.2 ⟨r, List.mem_range.2 (List.getElem?_eq_some_iff.1 hr).1, rfl⟩

/-- Contributions that go are those that a filter leaves out. -/
theorem filterMap_ite_none {α : Type} (p : α → Bool) (l : List α) :
    (l.filterMap fun c => if p c = true then none else some c) = l.filter fun c => !p c := by
  rw [← List.filterMap_eq_filter]
  refine congrArg (List.filterMap · l) (funext fun c => ?_)
  cases h : p c <;> simp [Option.guard, h]

/-- The partition after a reduced chunk has formed: its contributions have gone and its results wait. -/
def PartSt.reduced (p : PartSt) (gidx k : Nat) (rs : List ChunkResult) : PartSt :=
  { p with
    chunks := p.chunks.filter fun c => !(decide (c.gidx = gidx) && decide (c.k = k))
    results := p.results ++ rs }

section
variable {s : State} {p k : Nat} {e : GroupEntry} {cs rest : List Chunk} {c : Chunk}
  (hcs : orderChunks ((s.part p).chunks.filter fun c => decide (c.gidx = e.gidx) && decide (c.k = k)) = cs)
  (hc : cs = c :: rest) (hkind : c.kind = 1 ∨ c.kind = 2)
include hcs hc hkind

/-- A reduction forms when every rank has made its contributions, and otherwise nothing happens (R267). -/
theorem State.formChunk_of_reduces : s.formChunk p e k =
    if ((List.range e.ranks.length).all fun r =>
      decide (contributionsOf (s.groupLaunch p e) r ≤ (cs.filter fun c => decide (c.rank = r)).length)) = true
    then s.modPart p fun q => q.reduced e.gidx k (s.reducedResults e k c
      (foldChunk ((s.groupLaunch p e).any (·.determ)) e.ranks.length cs))
    else s := by
  unfold State.formChunk State.reducedResults reducedFor PartSt.reduced
  dsimp only
  rw [hcs, hc]
  simp only [← filterMap_ite_none]
  rcases hkind with h | h <;> rw [h] <;> cases s.groupLaunch p e <;> rfl

theorem State.formChunk_of_not_whole (hw : ¬chunkWhole (s.groupLaunch p e) e.ranks.length cs) : s.formChunk p e k = s :=
  (State.formChunk_of_reduces hcs hc hkind).trans (if_neg fun h => hw ((chunkWhole_iff ..).1 h))

theorem State.formChunk_of_whole (hw : chunkWhole (s.groupLaunch p e) e.ranks.length cs) :
    s.formChunk p e k = s.modPart p fun q => q.reduced e.gidx k (s.reducedResults e k c
      (foldChunk ((s.groupLaunch p e).any (·.determ)) e.ranks.length cs)) :=
  (State.formChunk_of_reduces hcs hc hkind).trans (if_pos ((chunkWhole_iff ..).2 hw))

end

/-! Delivery. -/

/-- The elements of an entry after those of a result have been put into it. -/
theorem get_foldl_set_mapIdx (d : List (BitVec 64)) (m : Sparse 64) (j : Nat) :
    Sparse.get ((d.mapIdx fun i v => (i, v)).foldl (fun m x => m.set x.1 x.2) m) j = (d[j]?).getD (m.get j) := by
  induction d using List.reverseRecOn with
  | nil => rfl
  | append_singleton l a ih =>
    rw [List.mapIdx_concat, List.foldl_append, List.foldl_cons, List.foldl_nil, Sparse.get_set, ih]
    by_cases hj : j = l.length
    · subst hj
      simp
    · rw [if_neg hj]
      rcases Nat.lt_or_gt_of_ne hj with h | h
      · rw [List.getElem?_append_left h]
      · rw [List.getElem?_eq_none (Nat.le_of_lt h), List.getElem?_eq_none (by simp; omega)]

/-- An entry that a result has filled. -/
def Entry.filledWith (e : Entry) (d : List (BitVec 64)) : Entry :=
  { e with data := (d.mapIdx fun i v => (i, v)).foldl (fun m x => m.set x.1 x.2) e.data, prog := e.count }

theorem Entry.waitsFor_iff (e : Entry) (gidx rank k : Nat) :
    e.waitsFor gidx rank k = true ↔ e.chunk = some (gidx, rank, k) ∧ e.prog < e.count ∧ e.cause = none := by
  simp [Entry.waitsFor, and_assoc]

/-- A filled entry waits for nothing. -/
theorem Entry.waitsFor_filledWith (e : Entry) (d : List (BitVec 64)) (gidx rank k : Nat) :
    (e.filledWith d).waitsFor gidx rank k = false :=
  Bool.eq_false_iff.2 fun h => Nat.lt_irrefl e.count ((Entry.waitsFor_iff ..).1 h).2.1

/-- What the delivery of a result makes of a gang. -/
def State.deliverGang (s : State) (part : Nat) (r : ChunkResult) (g : Gang) : Gang :=
  if s.awaits part g r.1 r.2.1 r.2.2.1 then
    let g := deliverTo g r.1 r.2.1 r.2.2.1 r.2.2.2
    if !s.hasAccess g && g.coll.gidx = r.1 && g.coll.rank = r.2.1 then countColl g false else g
  else g

/-- The delivery of a result. -/
def State.deliverOne (part : Nat) (s : State) (r : ChunkResult) : State :=
  { s with gangs := s.gangs.map (s.deliverGang part r) }

/-- An entry that waits for a result, in a gang on a core of the partition. -/
theorem State.awaits_of {s : State} {part : Nat} {g : Gang} (hres : g.st = .resident) (hpart : s.partOfCore g.core = part)
    {x : Entry} (hx : x ∈ g.ents) {gidx rank k : Nat} (hw : x.waitsFor gidx rank k = true) :
    s.awaits part g gidx rank k = true := by
  have hany : (g.ents.any (·.waitsFor gidx rank k)) = true := List.any_eq_true.2 ⟨x, hx, hw⟩
  simp [State.awaits, hres, hpart, hany]

/-- A result of a chunk is delivered when some entry waits for it. -/
def State.dueResult (s : State) (part gidx k : Nat) (r : ChunkResult) : Bool :=
  r.1 = gidx && r.2.2.1 = k && s.gangs.any fun g => s.awaits part g r.1 r.2.1 r.2.2.1

theorem State.deliverResults_eq (s : State) (part gidx k : Nat) : s.deliverResults part gidx k =
    ((s.part part).results.filter (s.dueResult part gidx k)).foldl (State.deliverOne part)
      (s.modPart part fun p => { p with results := (s.part part).results.filter fun r => !s.dueResult part gidx k r }) := by
  unfold State.deliverResults
  dsimp only
  rw [List.partition_eq_filter_filter]
  rfl

/-- The chunks of a partition and memory are as they were after results have been delivered. -/
theorem State.deliverOne_frame (part : Nat) (L : List ChunkResult) (s : State) :
    (L.foldl (State.deliverOne part) s).mem = s.mem ∧ (L.foldl (State.deliverOne part) s).parts = s.parts := by
  induction L generalizing s with
  | nil => exact ⟨rfl, rfl⟩
  | cons r L ih => exact ih (s.deliverOne part r)

/-- An entry after the delivery of a result. -/
def Entry.deliver (r : ChunkResult) (e : Entry) : Entry :=
  if e.waitsFor r.1 r.2.1 r.2.2.1 then e.filledWith r.2.2.2 else e

section
variable (s : State) (part : Nat) (r : ChunkResult) (g : Gang)

theorem State.deliverGang_st : (s.deliverGang part r g).st = g.st := by
  unfold State.deliverGang
  dsimp only
  split
  · split <;> rfl
  · rfl

theorem State.deliverGang_core : (s.deliverGang part r g).core = g.core := by
  unfold State.deliverGang
  dsimp only
  split
  · split <;> rfl
  · rfl

theorem State.deliverGang_ents : (s.deliverGang part r g).ents =
    if s.awaits part g r.1 r.2.1 r.2.2.1 then g.ents.map (Entry.deliver r) else g.ents := by
  unfold State.deliverGang
  dsimp only
  split
  · split <;> rfl
  · rfl

end

/-- An entry that does not wait for a result stays as it is when the result is delivered. -/
theorem State.mem_deliverGang_of_not_waitsFor {g : Gang} {y : Entry} (hy : y ∈ g.ents) {r : ChunkResult}
    (hw : y.waitsFor r.1 r.2.1 r.2.2.1 = false) (s : State) (part : Nat) : y ∈ (s.deliverGang part r g).ents := by
  rw [State.deliverGang_ents]
  split
  · exact List.mem_map.2 ⟨y, hy, if_neg (by simp [hw])⟩
  · exact hy

/-- An entry of a gang on a core of the partition that waits for a result is filled when the result is delivered. -/
theorem State.mem_deliverGang_of_waitsFor {s : State} {part : Nat} {g : Gang} (hres : g.st = .resident)
    (hpart : s.partOfCore g.core = part) {x : Entry} (hx : x ∈ g.ents) {r : ChunkResult}
    (hw : x.waitsFor r.1 r.2.1 r.2.2.1 = true) : x.filledWith r.2.2.2 ∈ (s.deliverGang part r g).ents := by
  rw [State.deliverGang_ents, if_pos (State.awaits_of hres hpart hx hw)]
  exact List.mem_map.2 ⟨x, hx, if_pos hw⟩

/-- Of the results delivered in turn, the one that an entry waits for fills it, and no later one changes it. -/
theorem State.mem_deliverOne_foldl {part gi gidx rank k : Nat} {x : Entry} {d : List (BitVec 64)}
    (hw : x.waitsFor gidx rank k = true) (L : List ChunkResult)
    (hdata : ∀ r ∈ L, r.1 = gidx → r.2.1 = rank → r.2.2.1 = k → r.2.2.2 = d) :
    ∀ (s : State) (g : Gang), s.gangs[gi]? = some g → g.st = .resident → s.partOfCore g.core = part →
      (x ∈ g.ents ∧ (gidx, rank, k, d) ∈ L ∨ x.filledWith d ∈ g.ents) →
      x.filledWith d ∈ ((L.foldl (State.deliverOne part) s).gangOf gi).ents := by
  induction L with
  | nil =>
    rintro s g hg - - (⟨-, hmem⟩ | hfilled)
    · cases hmem
    · exact (congrArg Gang.ents (State.gangOf_of hg)) ▸ hfilled
  | cons r L ih =>
    intro s g hg hres hpart hstate
    refine ih (fun r hr => hdata r (List.mem_cons_of_mem _ hr)) (s.deliverOne part r) (s.deliverGang part r g) ?_ ?_ ?_ ?_
    · show (s.gangs.map _)[gi]? = _
      rw [List.getElem?_map, hg]
      rfl
    · rw [State.deliverGang_st, hres]
    · rw [State.deliverGang_core]
      exact hpart
    · rcases hstate with ⟨hx, hmem⟩ | hfilled
      · cases hr : x.waitsFor r.1 r.2.1 r.2.2.1 with
        | true =>
          have hkey := ((Entry.waitsFor_iff ..).1 hr).1.symm.trans ((Entry.waitsFor_iff ..).1 hw).1
          simp only [Option.some.injEq, Prod.mk.injEq] at hkey
          obtain ⟨hgidx, hrank, hk⟩ := hkey
          exact .inr (hdata r List.mem_cons_self hgidx hrank hk ▸ State.mem_deliverGang_of_waitsFor hres hpart hx hr)
        | false =>
          refine .inl ⟨State.mem_deliverGang_of_not_waitsFor hx hr s part, ?_⟩
          rcases List.mem_cons.1 hmem with rfl | hmem
          · exact absurd (hr.symm.trans hw) Bool.false_ne_true
          · exact hmem
      · exact .inr (State.mem_deliverGang_of_not_waitsFor hfilled (Entry.waitsFor_filledWith ..) s part)

theorem State.part_congr {s t : State} (h : t.parts = s.parts) (p : Nat) : t.part p = s.part p := by
  unfold State.part
  rw [h]

/-- Delivery changes neither memory nor the contributions of the partition. -/
theorem State.deliverResults_frame {s : State} {p : Nat} (hp : p < s.parts.length) (gidx k : Nat) :
    (s.deliverResults p gidx k).mem = s.mem ∧ ((s.deliverResults p gidx k).part p).chunks = (s.part p).chunks := by
  rw [State.deliverResults_eq]
  obtain ⟨hmem, hparts⟩ := State.deliverOne_frame p ((s.part p).results.filter (s.dueResult p gidx k))
    (s.modPart p fun q => { q with results := (s.part p).results.filter fun r => !s.dueResult p gidx k r })
  refine ⟨hmem, ?_⟩
  rw [State.part_congr hparts, State.part_modPart hp]

/-- An entry that waits for a result of the chunk is filled by it. -/
theorem State.deliverResults_fills {s : State} {p gi gidx rank k : Nat} {g : Gang} {x : Entry} {d : List (BitVec 64)}
    (hg : s.gangs[gi]? = some g) (hres : g.st = .resident) (hpart : s.partOfCore g.core = p) (hx : x ∈ g.ents)
    (hw : x.waitsFor gidx rank k = true) (hmem : (gidx, rank, k, d) ∈ (s.part p).results)
    (hdata : ∀ r ∈ (s.part p).results, r.1 = gidx → r.2.2.1 = k → r.2.2.2 = d) :
    x.filledWith d ∈ ((s.deliverResults p gidx k).gangOf gi).ents := by
  have hany : (s.gangs.any fun g => s.awaits p g gidx rank k) = true :=
    List.any_eq_true.2 ⟨g, List.mem_of_getElem? hg, State.awaits_of hres hpart hx hw⟩
  have hdue : s.dueResult p gidx k (gidx, rank, k, d) = true := by simp [State.dueResult, hany]
  rw [State.deliverResults_eq]
  exact State.mem_deliverOne_foldl hw _ (fun r hr hgidx _ hk => hdata r (List.mem_filter.1 hr).1 hgidx hk)
    (s.modPart p _) g hg hres hpart (.inl ⟨hx, List.mem_filter.2 ⟨hmem, hdue⟩⟩)

/-! The chunk of a reduction. -/

section
variable {s : State} {p k : Nat} {e : GroupEntry} {cs rest : List Chunk} {c : Chunk}
  (he : (s.part p).group? e.gidx = some e) (hbroken : e.broken = false) (hp : p < s.parts.length)
  (hcs : orderChunks ((s.part p).chunks.filter fun c => decide (c.gidx = e.gidx) && decide (c.k = k)) = cs)
  (hc : cs = c :: rest) (hkind : c.kind = 1 ∨ c.kind = 2)
include he hbroken hp

omit hp in
theorem exec_chunkResult : exec (.chunkResult p e.gidx k) s = .next ((s.formChunk p e k).deliverResults p e.gidx k) := by
  show execChunkResult p e.gidx k s = _
  unfold execChunkResult
  dsimp only
  rw [he]
  simp only [hbroken]
  rfl

include hcs hc hkind

/-- While contributions are missing, they stay (R267). -/
theorem chunkResult_of_not_whole (hw : ¬chunkWhole (s.groupLaunch p e) e.ranks.length cs) :
    Answers (exec (.chunkResult p e.gidx k) s) fun t => t.mem = s.mem ∧ (t.part p).chunks = (s.part p).chunks := by
  refine .intro (exec_chunkResult he hbroken) ?_
  rw [State.formChunk_of_not_whole hcs hc hkind hw]
  exact State.deliverResults_frame hp e.gidx k

/-- When every contribution is there, they go, and each entry that waits receives the fold (R267, R390). -/
theorem chunkResult_of_whole (hnone : ∀ x ∈ (s.part p).results, ¬(x.1 = e.gidx ∧ x.2.2.1 = k))
    (hw : chunkWhole (s.groupLaunch p e) e.ranks.length cs) :
    Answers (exec (.chunkResult p e.gidx k) s) fun t => t.mem = s.mem ∧
      (t.part p).chunks = ((s.part p).chunks.filter fun c => !(decide (c.gidx = e.gidx) && decide (c.k = k))) ∧
      ∀ (gi r : Nat) (g : Gang) (x : Entry) (m : Nat × Nat × Nat), s.gangs[gi]? = some g → g.st = .resident →
        s.partOfCore g.core = p → x ∈ g.ents → x.chunk = some (e.gidx, r, k) → x.prog < x.count → x.cause = none →
        e.ranks[r]? = some m → m.1 = s.mod.fmodid.toNat % 2 ^ 16 → (c.kind = 2 → r = c.root) →
        ∃ y ∈ (t.gangOf gi).ents, y.id = x.id ∧ y.prog = x.count ∧ ∀ (j : Nat) (v : BitVec 64),
          (foldChunk ((s.groupLaunch p e).any (·.determ)) e.ranks.length cs)[j]? = some v → y.data.get j = v := by
  refine .intro (exec_chunkResult he hbroken) ?_
  rw [State.formChunk_of_whole hcs hc hkind hw]
  generalize foldChunk ((s.groupLaunch p e).any (·.determ)) e.ranks.length cs = d
  have hpart := State.part_modPart hp fun q => q.reduced e.gidx k (s.reducedResults e k c d)
  obtain ⟨hmem, hchunks⟩ := State.deliverResults_frame
    (s := s.modPart p fun q => q.reduced e.gidx k (s.reducedResults e k c d))
    (by rwa [State.length_parts_modPart]) e.gidx k
  rw [hpart] at hchunks
  refine ⟨hmem, hchunks, ?_⟩
  intro gi r g x m hg hres hcore hx hchunk hprog hcause hr hm hroot
  refine ⟨x.filledWith d, ?_, rfl, rfl, fun j v hv => ?_⟩
  · refine State.deliverResults_fills (s := s.modPart p _) (rank := r) hg hres hcore hx
      ((Entry.waitsFor_iff ..).2 ⟨hchunk, hprog, hcause⟩) ?_ ?_
    · rw [hpart]
      exact List.mem_append_right _ (State.mem_reducedResults hr hm hroot k d)
    · rw [hpart]
      intro x hx hgidx hk
      rcases List.mem_append.1 hx with hold | hnew
      · exact absurd ⟨hgidx, hk⟩ (hnone x hold)
      · exact State.data_of_mem_reducedResults hnew
  · exact (get_foldl_set_mapIdx d x.data j).trans (by rw [hv]; rfl)

end

end Sys2Proof.Machine
end

section
/-! The statement on collectives (10_access.md, R265 to R271). -/

namespace Sys2Proof.Machine

/-- Settles O57: the forms of a context, the two steps of a context for a gang with no program, and the chunk of a
reduction. -/
theorem collectiveSteps : Obligations.CollectiveSteps := by
  unfold Obligations.CollectiveSteps
  refine ⟨?_, ?_, ?_⟩
  · intro s hr hh he c words regs
    refine ⟨fun q hn => ⟨fun k hk => ?_, fun hk => ?_⟩, fun q x s1 hn hx hcoll hr1 => ⟨fun k hk => ?_, fun hk => ?_⟩⟩
    · exact exec_aldCl_refused hr.1 hh he hn hk
    · obtain ⟨t, ht, hqueued⟩ := (hr.countColl s.who.gang false).pushVec (s.receiveRecord q)
      rw [exec_aldCl_pushed hr.1 hh he hn hk]
      exact .of_ok ht hqueued
    · exact exec_astCl_refused hr.1 hh hn hx hk
    · obtain ⟨t, ht, hqueued⟩ := (hr1.countColl s1.who.gang true).pushVec (s1.contributeRecord x)
      rw [exec_astCl_pushed hr.1 hh hn hx hk]
      dsimp only [words, regs]
      rw [← hcoll]
      exact .of_ok ht hqueued
  · intro s gi g hg part
    refine ⟨exec_queueSteps_of_not_carries, exec_sq3Contribution_of_empty hg, exec_lq7Receive_of_full hg,
      fun e hc hu => ⟨?_, ?_⟩, ?_⟩
    · exact sq3Contribution_contributes hg hc hu
    · exact fun k w u => sq3Contribution_discards hg hc hu
    · exact fun q hc => lq7Receive_pushes hg hc
  · intro s p k e he hbroken hp hnone cs l determ whole c rest hcs hkind
    exact ⟨chunkResult_of_not_whole he hbroken hp rfl hcs hkind,
      chunkResult_of_whole he hbroken hp rfl hcs hkind hnone⟩

end Sys2Proof.Machine
end

section
/-! The statement on the matrix pushes (11_matrix.md, R273 to R289). -/

namespace Sys2Proof.Machine

/-! The matrix queue. -/

/-- The matrix queue takes a push of the agent in execution (R273, R384). -/
structure State.MatrixRoom (s : State) : Prop where
  live : s.live = true
  unfrozen : s.me.frz = false
  room : s.me.mq.length < 16

theorem State.MatrixRoom.modTile {s : State} (h : s.MatrixRoom) (t : Nat) (f : Tile → Tile) :
    (s.modTile t f).MatrixRoom := by
  have hthread : ∀ a, (s.modTile t f).thread? a = s.thread? a :=
    State.thread?_modGang_of_thread? fun g r => by cases r <;> rfl
  have hlive : (s.modTile t f).live = s.live := by
    simp only [State.live, hthread]
    rfl
  have hme : (s.modTile t f).me = s.me := by
    simp only [State.me, hthread]
    rfl
  exact ⟨hlive.trans h.live, by rw [hme]; exact h.unfrozen, by rw [hme]; exact h.room⟩

/-- A form of a hart whose push comes down to one record on the matrix queue. -/
theorem State.MatrixRoom.answers {s u : State} (h : s.MatrixRoom) (hh : s.onHart = true) (hu : u.MatrixRoom) {p : Push State}
    {r : VRec} (hp : p = u.pushMatrix r) : Answers (s.execute p) fun t => QueuedMatrix u t r := by
  obtain ⟨t, ht, hqueued⟩ := State.pushMatrix_ok hu.live hu.unfrozen hu.room r
  exact ⟨t, by rw [State.execute_eq h.live hh h.unfrozen, hp, ht]; rfl, hqueued⟩

theorem State.tile_of {s : State} {d : Nat} {tile : Tile} (h : s.myGang.tiles[d]? = some tile) : s.tile d = .ok tile := by
  unfold State.tile
  rw [h]

theorem State.tile_of_length_le {s : State} {d : Nat} (h : s.myGang.tiles.length ≤ d) : s.tile d = illopP := by
  unfold State.tile
  rw [List.getElem?_eq_none h]

/-! MMA. -/

/-- The accumulator format (R281). -/
def accFormat (narrow : Bool) : Tag := if narrow then .f32 else .f64

/-- The checks of MMA of tile d, which is `tile`, with operating tag `op` (R280, R281). -/
structure State.MmaChecks (s : State) (d a b : Nat) (scaled first narrow : Bool) (tile : Tile) (op : Tag) : Prop where
  declared : s.myGang.tiles[d]? = some tile
  regA : a < s.myGang.nv
  slab : b + 8 ≤ s.myGang.nv
  length : s.me.vl ≤ 2048
  oneTag : ∀ k < 8, (s.me.vreg (b + k)).tag = (s.me.vreg b).tag
  operates : promote (s.me.vreg a).tag (s.me.vreg b).tag = some op
  floating : op.floating = true
  l6 : op = .l6 → narrow = true
  accumulates : first = false → tile.tag = accFormat narrow
  shape : s.me.vl = 0 ∨ 8 * s.me.mrows + 7 * shapeSa s.me.mshape + shapeOa s.me.mshape < s.vlmax s.who ∧
    (s.me.vl - 1) * shapeSb s.me.mshape + shapeOb s.me.mshape < s.vlmax s.who
  scale : s.scaleOk scaled [(s.me.vreg a).tag, (s.me.vreg b).tag] = true

/-- The record of MMA on a tile of tag `old` (R281). -/
def State.mmaRecord (s : State) (d a b : Nat) (scaled first narrow nb na : Bool) (old op : Tag) : VRec :=
  { s.blank (.mma na nb first narrow) s.me.vl with
    scaled := scaled, dst := .tile d 0, srcA := .reg a, srcB := .reg b, tagA := (s.me.vreg a).tag, tagB := (s.me.vreg b).tag
    tagD := old, opTag := op, outTag := accFormat narrow }

/-- The state in which MMA is pushed: the tag of its tile changes at once, unless the length is 0 (R276, R281). -/
def State.mmaTagged (s : State) (d : Nat) (narrow : Bool) : State :=
  if s.me.vl = 0 then s else s.modTile d fun x => { x with tag := accFormat narrow }

theorem State.MatrixRoom.mmaTagged {s : State} (h : s.MatrixRoom) (d : Nat) (narrow : Bool) :
    (s.mmaTagged d narrow).MatrixRoom := by
  unfold State.mmaTagged
  split
  · exact h
  · exact h.modTile _ _

/-- An MMA whose checks hold pushes its record. -/
theorem State.MmaChecks.pushMma {s : State} {d a b : Nat} {scaled first narrow : Bool} {tile : Tile} {op : Tag}
    (h : s.MmaChecks d a b scaled first narrow tile op) (nb na : Bool) :
    s.pushMma d a b scaled first narrow nb na =
      (s.mmaTagged d narrow).pushMatrix (s.mmaRecord d a b scaled first narrow nb na tile.tag op) := by
  have hregs : (decide (a < s.myGang.nv) && decide (b + 8 ≤ s.myGang.nv) && decide (s.me.vl ≤ 2048)) = true := by
    simp [h.regA, h.slab, h.length]
  have htags : ((List.range 8).all fun k => (s.me.vreg (b + k)).tag = (s.me.vreg b).tag) = true := by
    simpa using h.oneTag
  have hformat : (op.floating && !(op = .l6 && !narrow) && !(!first && tile.tag ≠ accFormat narrow)) = true := by
    simpa [h.floating, imp_iff_not_or] using And.intro h.l6 h.accumulates
  have hshape : (s.me.vl = 0 || (decide (8 * s.me.mrows + 7 * shapeSa s.me.mshape + shapeOa s.me.mshape < s.vlmax s.who) &&
      decide ((s.me.vl - 1) * shapeSb s.me.mshape + shapeOb s.me.mshape < s.vlmax s.who))) = true := by
    simpa using h.shape
  unfold State.pushMma
  dsimp only
  rw [h.operates]
  calc _
    _ = _ := Push.bind_of_ok (State.tile_of h.declared) _
    _ = _ := Push.bind_need hregs _
    _ = _ := Push.bind_need htags _
    _ = _ := Push.bind_need hformat _
    _ = _ := Push.bind_need hshape _
    _ = _ := Push.bind_need h.scale _

/-! MLD and MST. -/

/-- The window offset behind the last slot of a tile move (R286). -/
def State.moveEnd (s : State) (ga gb : Word) : Nat :=
  ga.toNat - windowBase + slotOff (gb.getLsbD 63) (gb.toNat % 2 ^ 32) (s.me.mrows + 1 - 1) (s.me.vl - 1) + 8

/-- The checks of a tile move, in the order of R286; `x` is the allocation that holds slot (0, 0). -/
structure State.MoveChecks (s : State) (d : Nat) (ga gb : Word) (tile : Tile) (x : Alloc) : Prop where
  reserved : gb.toNat / 2 ^ 32 % 2 ^ 31 = 0
  nonempty : 1 ≤ s.me.vl
  length : s.me.vl ≤ 2048
  declared : s.myGang.tiles[d]? = some tile
  window : inWindow ga.toNat = true
  narrow : tooWide ga = false
  alignedBase : ga.toNat % 32 = 0
  alignedPitch : gb.toNat % 2 ^ 32 % 32 = 0
  byColumn : gb.getLsbD 63 = true → 1 < s.me.vl → 8 * (s.me.mrows + 1) ≤ gb.toNat % 2 ^ 32
  byRow : gb.getLsbD 63 = false → 1 < s.me.mrows + 1 → 8 * s.me.vl ≤ gb.toNat % 2 ^ 32
  belowGates : s.moveEnd ga gb ≤ 0x3040000
  alloc : s.myGang.allocAt (ga.toNat - windowBase) = some x
  within : s.moveEnd ga gb ≤ x.off + 4096 * x.ages.length

/-- The record of a tile move of a tile of tag `t` (R286, R288). -/
def State.moveRecord (s : State) (op : VOp) (d : Nat) (ga gb : Word) (t : Tag) : VRec :=
  { s.blank op s.me.vl with
    dst := .tile d 0, tagD := t, outTag := t, opa := ga, opb := gb, srcA := .scalar (BitVec.ofNat 64 s.stamp) }

/-- A tile move whose checks hold pushes its record. -/
theorem State.MoveChecks.pushMove {s : State} {d : Nat} {ga gb : Word} {tile : Tile} {x : Alloc}
    (h : s.MoveChecks d ga gb tile x) (op : VOp) :
    s.pushMove op d ga gb = s.pushMatrix (s.moveRecord op d ga gb tile.tag) := by
  obtain ⟨hdeclared, -⟩ := List.getElem?_eq_some_iff.1 h.declared
  have hfields : (decide (gb.toNat / 2 ^ 32 % 2 ^ 31 = 0) && decide (1 ≤ s.me.vl) && decide (s.me.vl ≤ 2048) &&
      decide (d < s.myGang.tiles.length)) = true := by
    simp only [h.reserved, h.nonempty, h.length, hdeclared]
    decide
  have hwindow : (inWindow ga.toNat && !tooWide ga) = true := by simp [h.window, h.narrow]
  have haligned : ¬ (ga.toNat % 32 ≠ 0 || gb.toNat % 2 ^ 32 % 32 ≠ 0) = true := by
    simp only [h.alignedBase, h.alignedPitch]
    decide
  have hpitch : (if gb.getLsbD 63 then
      !(decide (1 < s.me.vl) && decide (gb.toNat % 2 ^ 32 < 8 * (s.me.mrows + 1)))
      else !(decide (1 < s.me.mrows + 1) && decide (gb.toNat % 2 ^ 32 < 8 * s.me.vl))) = true := by
    cases hdir : gb.getLsbD 63
    · simpa [imp_iff_not_or] using h.byRow hdir
    · simpa [imp_iff_not_or] using h.byColumn hdir
  have hgates :
      ¬ reachesGates (ga.toNat - windowBase) (gb.getLsbD 63) (gb.toNat % 2 ^ 32) (s.me.mrows + 1) s.me.vl = true :=
    fun hreach => Nat.not_le.2 (of_decide_eq_true hreach) h.belowGates
  unfold State.pushMove
  dsimp only
  rw [h.alloc]
  calc _
    _ = _ := Push.bind_need hfields _
    _ = _ := Push.bind_need hwindow _
    _ = _ := if_neg haligned
    _ = _ := Push.bind_need hpitch _
    _ = _ := if_neg hgates
    _ = _ := if_pos h.within
    _ = s.pushMatrix (s.moveRecord op d ga gb tile.tag) := Push.bind_of_ok (State.tile_of h.declared) _

/-! MWROW and MADDROW. -/

/-- The record of a write of a row of a tile of tag `t` (R289). -/
def State.rowRecord (s : State) (add : Bool) (tile row b : Nat) (t : Tag) : VRec :=
  { s.blank (.mwrow add) s.me.vl with
    dst := .tile tile row, srcB := .reg b, tagB := (s.me.vreg b).tag, tagD := t, outTag := t }

/-- A write of a declared row pushes its record. -/
theorem State.pushRow_of_rowSource {s : State} {a b : BitVec 6} {tile row : Nat} {t : Tag}
    (h : s.rowSource (s.x a) = .ok (tile, row, t)) (hb : b.toNat < s.myGang.nv) (hvl : s.me.vl ≤ 2048) (add : Bool) :
    s.pushRow add a b = s.pushMatrix (s.rowRecord add tile row b.toNat t) :=
  (Push.bind_of_ok h _).trans (Push.bind_need (by simp [hb, hvl]) _)

/-- Settles O47: each form is a push of a hart, which comes down to one record once its checks hold. -/
theorem matrixPushes : Obligations.MatrixPushes := by
  unfold Obligations.MatrixPushes
  intro s hl hh hf hm
  have hroom : s.MatrixRoom := ⟨hl, hf, hm⟩
  refine ⟨?_, ?_, fun t => ⟨fun ht => ?_, fun ht => ?_⟩, ?_⟩
  · intro t a b sc na nb first narrow tile op tagA tagB af htile ha hb hvl htags hop hfloat hl6 hacc hshape hscale
    have hchecks : s.MmaChecks t.toNat a.toNat b.toNat sc first narrow tile op :=
      ⟨htile, ha, hb, hvl, htags, hop, hfloat, hl6, hacc, hshape, hscale⟩
    exact hroom.answers hh (hroom.mmaTagged t.toNat narrow) (hchecks.pushMma nb na)
  · intro t a b tile x ga gb byColumn pitch rows off hres hpos hvl htile hwin hwide hga hpitch hcol hrow last
      hlast halloc hin r
    have hchecks : s.MoveChecks t.toNat ga gb tile x :=
      ⟨hres, hpos, hvl, htile, hwin, hwide, hga, hpitch, hcol, hrow, hlast, halloc, hin⟩
    exact ⟨hroom.answers hh hroom (hchecks.pushMove .mld), hroom.answers hh hroom (hchecks.pushMove .mst)⟩
  · exact hroom.answers hh (hroom.modTile _ _) (Push.bind_of_ok (State.tile_of (List.getElem?_eq_getElem ht)) _)
  · have hexec : exec (.mzero t) s = s.pushOut (s.tile t.toNat >>= fun _ =>
        (s.modTile t.toNat fun x => { x with tag := .f64 }).pushMatrix
          { s.blank .mzero s.me.vl with dst := .tile t.toNat 0 }) :=
      State.execute_eq hl hh hf _
    rw [hexec, State.tile_of_length_le ht]
    rfl
  · intro a b tile row tag hsource hb hvl r
    have hpush := State.pushRow_of_rowSource hsource hb hvl
    exact ⟨hroom.answers hh hroom (hpush false), hroom.answers hh hroom (hpush true)⟩

end Sys2Proof.Machine
end

section
/-! Moves of the agenda, what a stopped clock leaves, and module reset (R443, R463). -/

namespace Sys2Proof.Machine

/-- Settles O6: the first turn of the agenda is the event, which `State.move` carries out. -/
theorem stepMovesEvent : Obligations.StepMovesEvent := by
  unfold Obligations.StepMovesEvent
  intro s i rest ha ho hm
  simp [step, ha, ho, State.move, hm]

/-- Settles O8: a step takes a turn off the agenda, or counts one of the cyclic order, and moves nothing. -/
theorem offUntilModuleReset : Obligations.OffUntilModuleReset := by
  unfold Obligations.OffUntilModuleReset
  intro s ho hr
  cases ha : s.agenda with
  | nil => exact .intro (t := { s with turn := s.turn + 1 }) (by simp [step, ha, ho]) (by simp)
  | cons m rest =>
    have hm : m ≠ .event .moduleReset := fun h => hr rest (by rw [ha, h])
    exact .intro (t := { s with agenda := rest }) (by simp [step, ha, ho, hm]) (by simp)

/-- Every place of a table of equal entries reads as that entry, and so does any place past its end. -/
theorem getD_getElem?_replicate {α : Type} (n i : Nat) (x : α) : ((List.replicate n x)[i]?).getD x = x := by
  rw [List.getElem?_replicate]
  split <;> rfl

/-- Settles O9: each table of the reset state holds one reset entry throughout. -/
theorem resetState : Obligations.ResetState := by
  unfold Obligations.ResetState
  have hpart (p : Nat) : State.reset.part p = PartSt.reset := getD_getElem?_replicate ..
  have hchan (n : Nat) : State.reset.chan n = Chan.reset := getD_getElem?_replicate ..
  have hmesh (p k : Nat) : State.reset.mesh p k = MeshSlot.reset := by
    rw [State.mesh, hpart]
    exact getD_getElem?_replicate ..
  have hslice (t : Nat) : State.reset.slice t = OrchSlice.reset := getD_getElem?_replicate ..
  refine ⟨rfl, rfl, rfl, rfl, rfl, rfl, rfl, rfl, fun p => ?_, fun n => ?_, fun p k => ?_, fun t => ?_, rfl⟩
  · rw [hpart]; exact ⟨rfl, rfl, rfl, rfl⟩
  · rw [hchan]; exact ⟨rfl, rfl⟩
  · rw [hmesh]; rfl
  · rw [hslice]; rfl

end Sys2Proof.Machine
end

section
/-! What comes before a form: the level it requires (R379), and the frozen queues (R384). -/

namespace Sys2Proof.Machine

/-- Every privileged form asks first for its level. -/
theorem exec_requiredLevel {i : Instr} {n : Nat} (h : requiredLevel i = some n) (s : State) :
    ∃ k, exec i s = s.privileged n k := by
  cases i
  any_goals cases h
  all_goals exact ⟨_, rfl⟩

/-- Settles O14, from the level that each privileged form asks for. -/
theorem privilegedBelowLevel : Obligations.PrivilegedBelowLevel := by
  unfold Obligations.PrivilegedBelowLevel
  intro i n s h hl hh hlt
  obtain ⟨k, hk⟩ := exec_requiredLevel h s
  rw [hk, State.privileged, State.hart_of_onHart hl hh, if_pos hlt]

section
variable {s : State} (hl : s.live = true) (hh : s.onHart = true) (hf : s.me.frz = true)

include hl hf in
theorem State.both_of_frozen (p : Push State) : s.both p = s.illop := by
  rw [State.both, State.agent_of_live hl, if_pos hf]

include hl hh hf in
theorem State.execute_of_frozen (p : Push State) : s.execute p = s.illop := by
  rw [State.execute, State.hart_of_onHart hl hh, if_pos hf]

include hf in
theorem State.join_of_frozen (kind : Nat) (d : BitVec 6) (ga gb : Word) : s.join kind d ga gb = s.illop := by
  rw [State.join, if_pos hf]

end

/-- A form that a frozen queue refuses is a push of either agent, a push of a hart, or one of the four forms that join
a settlement or wait for the matrix queue. -/
theorem exec_frozenIllop {i : Instr} (h : frozenIllop i = true) (s : State) :
    (∃ p, exec i s = s.both p) ∨ (∃ p, exec i s = s.execute p) ∨
      (∃ d a b, i = .vsetvl d a b) ∨ (∃ d a b, i = .vsetvlP d a b) ∨ (∃ d, i = .taskget d) ∨ i = .mwait := by
  cases i
  any_goals cases h
  case vsetvl d a b => exact .inr (.inr (.inl ⟨d, a, b, rfl⟩))
  case vsetvlP d a b => exact .inr (.inr (.inr (.inl ⟨d, a, b, rfl⟩)))
  case taskget d => exact .inr (.inr (.inr (.inr (.inl ⟨d, rfl⟩))))
  case mwait => exact .inr (.inr (.inr (.inr (.inr rfl))))
  all_goals first
    | exact .inl ⟨_, rfl⟩
    | exact .inr (.inl ⟨_, rfl⟩)

/-- Settles O16, from the shapes of the forms that a frozen queue refuses. -/
theorem frozenQueueIllop : Obligations.FrozenQueueIllop := by
  unfold Obligations.FrozenQueueIllop
  intro i s h hl hh hf
  have hhart (k : Out) : s.hart k = k := State.hart_of_onHart hl hh k
  rcases exec_frozenIllop h s with ⟨p, hp⟩ | ⟨p, hp⟩ | ⟨d, a, b, rfl⟩ | ⟨d, a, b, rfl⟩ | ⟨d, rfl⟩ | rfl
  · rw [hp, State.both_of_frozen hl hf]
  · rw [hp, State.execute_of_frozen hl hh hf]
  · show execVsetvl d a b s = _
    rw [execVsetvl, hhart, State.join_of_frozen hf, ite_self]
  · show execVsetvlP d a b s = _
    simp only [execVsetvlP, hhart, State.join_of_frozen hf, ite_self]
  · exact (hhart _).trans (State.join_of_frozen hf ..)
  · exact (hhart _).trans (if_pos hf)

end Sys2Proof.Machine
end

section
/-! The step of an agent at level 0 (R381). -/

namespace Sys2Proof.Machine

section
variable {s s1 : State} {a : Agent} {t : Thread} {w : Word32} (ht : s.thread? a = some t) (h0 : t.lvl = 0)
  (hf : s.fetch a = .word w s1) (k : State → Word32 → Out)
include ht h0 hf

/-- At level 0 a word that no breakpoint stops runs with BSKIP clear. -/
theorem State.runPc_of_skip (hb : t.breaksAt t.pc = false ∨ t.bskip = true) : s.runPc a k =
    mapNext (k (s1.modThread a fun t => { t with bskip := false }) w) fun u => u.keepSkip a t.bskip := by
  have hc : (t.breaksAt t.pc && !t.bskip) = false := by rcases hb with h | h <;> simp [h]
  simp [State.runPc, ht, h0, hf, hc]

/-- At level 0 a breakpoint at the pc comes before the word (R381). -/
theorem State.runPc_of_breakpoint (hb : t.breaksAt t.pc = true) (hs : t.bskip = false) :
    s.runPc a k = s1.landed a fun s => ({ s with cur := some a, word := w }).trap cDEBUG := by
  simp [State.runPc, ht, h0, hf, hb, hs]

end

/-- The step of an agent that is to issue is what its pc gives. -/
theorem step_issue_runPc {s : State} {a : Agent} {rest : List Turn} {t : Thread} (ha : s.agenda = .issue a :: rest)
    (ho : s.mod.off = false) (ht : s.thread? a = some t) (hw : t.wait = .none)
    (hm : ({ s with agenda := rest }).mayIssue a = true) (hb : (s.gangOf a.gang).bad = false)
    (hp : ∀ h, a.role = .hart h → s.pendingCauses a.gang h = []) :
    step s = ({ s with agenda := rest }).runPc a fun u w => u.runWord a w := by
  rw [← State.issueWith_eq (t := t) (s := { s with agenda := rest }) ht hw hm hb hp]
  unfold step
  rw [ha]
  simp only [ho, Bool.false_and, Bool.false_eq_true, if_false]
  rfl

/-- Settles O5: without a breakpoint the word runs as at the other levels, with BSKIP clear; with one the load in flight is
performed first. -/
theorem stepRunsUserWord : Obligations.StepRunsUserWord := by
  unfold Obligations.StepRunsUserWord
  intro s s1 a rest t w i ha ho ht hw h0 hm hb hp hf hd
  obtain ⟨v, hv, hflight, htaken⟩ := State.fetch_thread? (s := { s with agenda := rest }) hf ht
  have hstep := step_issue_runPc ha ho ht hw hm hb hp
  refine ⟨fun hskip => ?_, fun hbreak hclear => ?_⟩
  · intro s2 runs
    have hv2 : s2.thread? a = some { v with bskip := false } := State.thread?_modThread_self hv _
    rw [State.runPc_of_skip (s := { s with agenda := rest }) ht h0 hf _ hskip] at hstep
    have hword := State.runWord_eq (s := s1.modThread a fun t => { t with bskip := false }) hd
    rw [← hflight, ← htaken]
    refine ⟨fun hs => ?_, fun hs => ⟨fun h1 h2 => ?_, fun h => ?_, fun s3 h => ?_⟩⟩
    · exact hstep.trans (congrArg (mapNext · _) (hword.trans (if_pos hs)))
    all_goals
      have hword := hword.trans (if_neg (by rw [hs]; nofun))
      refine hstep.trans (congrArg (mapNext · _) (hword.trans ?_))
    · rw [State.landFor_of_no_flight hv2 h2 h1]
    · rw [h]
    · rw [h]
  · rw [State.runPc_of_breakpoint (s := { s with agenda := rest }) ht h0 hf _ hbreak hclear] at hstep
    rw [← hflight]
    refine ⟨fun h => ?_, fun s3 h => ?_, fun h => ?_⟩
    · rw [hstep, State.landed, State.performFlight, hv]
      simp only [Option.getD_some, h]
    · rw [hstep, State.landed, h]
    · rw [hstep, State.landed, h]

end Sys2Proof.Machine
end

section
/-! Taking a trap (R382, R383, R386, R448): the entry of a handler, the stop of a core, and what stands in their way. -/

namespace Sys2Proof.Machine

/-- A change of an agent's thread is the thread that it makes. -/
theorem State.modThread_const {s : State} {a : Agent} {t : Thread} (h : s.thread? a = some t) (f : Thread → Thread) :
    s.modThread a f = s.modThread a fun _ => f t := by
  have hlive : ({ s with cur := some a } : State).live = true := State.live_iff.2 ⟨a, t, rfl, h⟩
  have hme : ({ s with cur := some a } : State).me = t := by simp [State.me, show ({ s with cur := some a } : State).thread? a = some t from h]
  have he := State.setMe_congr hlive (f := f) (g := fun _ => f t) (by rw [hme])
  exact congrArg (fun u : State => { u with cur := s.cur }) he

section
variable {s : State} {gi h : Nat} {c : Cause} {t : Thread} (ht : s.thread? ⟨gi, .hart h⟩ = some t)
include ht

/-- A trap to level 1 at the partition's handler. -/
theorem State.enterTrap_supervisor (h0 : t.lvl = 0) (hc : c.code ≠ cMCHK)
    (hv : (s.part (s.partOfCore (s.gangOf gi).core)).stvec ≠ 0) :
    ∃ u, Entered t u c (faultRecord c t.lvl (if c.src = 3 then 255 else h) (s.gangOf gi).slot (s.gangOf gi).core) 1
      (s.part (s.partOfCore (s.gangOf gi).core)).stvec ∧ s.enterTrap gi h c = s.modThread ⟨gi, .hart h⟩ fun _ => u := by
  unfold State.enterTrap
  dsimp only
  rw [ht]
  dsimp only
  rw [if_neg (show t.lvl ≠ 2 by omega), if_pos (show (if c.code = cMCHK then 2 else t.lvl + 1) = 1 by rw [if_neg hc, h0]),
    if_neg hv]
  refine ⟨_, ?_, State.modThread_const ht _⟩
  exact ⟨rfl, rfl, rfl, rfl, rfl, rfl, rfl, rfl, rfl, rfl, rfl, fun _ => ⟨rfl, rfl, rfl, rfl, rfl, rfl⟩,
    fun h => absurd h (by decide), rfl⟩

/-- A trap to level 1 without a handler ends the gang. -/
theorem State.enterTrap_unhandled (h0 : t.lvl = 0) (hc : c.code ≠ cMCHK)
    (hv : (s.part (s.partOfCore (s.gangOf gi).core)).stvec = 0) : s.enterTrap gi h c = s.killGang gi 2 := by
  unfold State.enterTrap
  dsimp only
  rw [ht]
  dsimp only
  rw [if_neg (show t.lvl ≠ 2 by omega), if_pos (show (if c.code = cMCHK then 2 else t.lvl + 1) = 1 by rw [if_neg hc, h0]),
    if_pos hv]

/-- A trap to level 2 at the firmware's handler. -/
theorem State.enterTrap_firmware (hl : t.lvl = 1 ∨ t.lvl = 0 ∧ c.code = cMCHK) :
    ∃ u, Entered t u c (faultRecord c t.lvl (if c.src = 3 then 255 else h) (s.gangOf gi).slot (s.gangOf gi).core) 2
      s.mod.fvec ∧ s.enterTrap gi h c = s.modThread ⟨gi, .hart h⟩ fun _ => u := by
  have htarget : (if c.code = cMCHK then 2 else t.lvl + 1) ≠ 1 := by
    rcases hl with h1 | ⟨-, hc⟩
    · split <;> omega
    · simp [hc]
  unfold State.enterTrap
  dsimp only
  rw [ht]
  dsimp only
  rw [if_neg (show t.lvl ≠ 2 by omega), if_neg htarget]
  refine ⟨_, ?_, State.modThread_const ht _⟩
  exact ⟨rfl, rfl, rfl, rfl, rfl, rfl, rfl, rfl, rfl, rfl, rfl, fun h => absurd h (by decide),
    fun _ => ⟨rfl, rfl, rfl, rfl, rfl, rfl⟩, rfl⟩

/-- A trap of the highest level stops the core. -/
theorem State.enterTrap_stops (h2 : t.lvl = 2) : s.enterTrap gi h c = s.stopCore (s.gangOf gi).core
    (faultRecord c t.lvl (if c.src = 3 then 255 else h) (s.gangOf gi).slot (s.gangOf gi).core) := by
  unfold State.enterTrap
  dsimp only
  rw [ht]
  dsimp only
  rw [if_pos h2]

end

/-! What a core that stops loses. -/

section
variable (g : Gang) (core n : Nat)

theorem Gang.lose_st : (g.lose core n).st = g.st := by
  unfold Gang.lose
  dsimp only
  repeat' split
  all_goals rfl

/-- A gang that the core does not run and that has left no tiles there loses nothing. -/
theorem Gang.lose_of_elsewhere {g : Gang} {core : Nat} (n : Nat) (h : g.core ≠ core) (ht : g.tilesOn ≠ some core) :
    g.lose core n = g := by
  simp [Gang.lose, h, ht]

/-- A change of every thread alike, seen from one role. -/
theorem Gang.thread?_of_all {g u : Gang} {f : Thread → Thread} (hh : u.harts = g.harts.map f) (ha : u.access = f g.access)
    {r : Role} {t : Thread} (ht : g.thread? r = some t) : u.thread? r = some (f t) := by
  cases r with
  | hart k =>
    show u.harts[k]? = _
    rw [hh, List.getElem?_map, show g.harts[k]? = some t from ht]
    rfl
  | access => exact congrArg some (ha.trans (congrArg f (Option.some.inj ht)))

/-- A gang that the core runs loses its tiles, its allocations and its vector registers there. -/
theorem Gang.lose_of_resident {g : Gang} {core : Nat} (n : Nat) (hst : g.st = .resident) (h : g.core = core) :
    (g.lose core n).tiles = [] ∧ (g.lose core n).allocs = [] ∧
      ∀ r t, g.thread? r = some t → (g.lose core n).thread? r = some { t with vregs := [] } := by
  have hlost : (g.lose core n).tiles = [] ∧ (g.lose core n).allocs = [] ∧
      (g.lose core n).harts = (g.harts.map fun t => { t with vregs := [] }) ∧
      (g.lose core n).access = { g.access with vregs := [] } := by
    by_cases hk : g.tilesOn = some core <;> simp [Gang.lose, hk, h, hst]
  obtain ⟨htiles, hallocs, hharts, haccess⟩ := hlost
  exact ⟨htiles, hallocs, fun r t => Gang.thread?_of_all hharts haccess⟩

end

section
variable (s : State) (core : Nat)

/-- A gang by place after a core has been lost. -/
theorem State.getElem?_loseCore {j : Nat} {g : Gang} (h : s.gangs[j]? = some g) :
    (s.loseCore core).gangs[j]? = some (g.lose core (s.free + 2 ^ 19 * j)) := by
  simp [State.loseCore, h]

theorem State.core_loseCore_other {k : Nat} (h : k ≠ core) : (s.loseCore core).core k = s.core k := by
  simp [State.loseCore, State.core, State.modCore, h]

/-- The core that is lost stands still with nothing dealt. -/
theorem State.core_loseCore_self (h : core < s.cores.length) : (s.loseCore core).core core =
    { s.core core with stopped := true, lanes := List.replicate 8 none, claims := [], giving := [] } := by
  have hcore := List.getElem?_eq_getElem h
  simp only [State.loseCore, State.core, State.modCore, getElem?_modifyAt, if_pos, hcore]
  rfl

end

/-- Settles O11: each level's entry is one branch of the trap, and the stop of a core is the loss of what it runs. -/
theorem trapEntry : Obligations.TrapEntry := by
  unfold Obligations.TrapEntry
  intro s gi h c t ht g rec0 v entered
  refine ⟨fun h0 hc hv => State.enterTrap_unhandled ht h0 hc hv, fun h0 hc hv => State.enterTrap_supervisor ht h0 hc hv,
    fun hl => State.enterTrap_firmware ht hl, fun h2 => ?_⟩
  dsimp only
  rw [State.enterTrap_stops ht h2]
  refine ⟨rfl, fun k hk => State.core_loseCore_other s _ hk, fun hlt => ?_, fun j x hx => ?_, rfl⟩
  · have hcore : (s.stopCore g.core rec0).core g.core = (s.loseCore g.core).core g.core := rfl
    rw [hcore, State.core_loseCore_self s _ hlt]
    exact ⟨rfl, rfl, rfl⟩
  · exact ⟨_, State.getElem?_loseCore s _ hx, Gang.lose_st .., Gang.lose_of_elsewhere _,
      fun hcore hst => Gang.lose_of_resident _ hst hcore⟩

/-- Some cause is taken first where any is pending. -/
theorem firstCause_isSome {l : List Cause} (h : l ≠ []) : ∃ c, firstCause l = some c := by
  unfold firstCause
  have hfold : ∀ (l : List Cause) (o : Option Cause), (o.isSome = true ∨ l ≠ []) →
      ∃ c, l.foldl (fun acc c =>
        match acc with
        | none => some c
        | some b => if b.code = cMCHK then some b else if c.code = cMCHK || decide (c.ord < b.ord) then some c else some b) o =
          some c := by
    intro l
    induction l with
    | nil => exact fun o ho => Option.isSome_iff_exists.1 (ho.resolve_right fun h => h rfl)
    | cons x l ih =>
      intro o _
      refine ih _ (.inl ?_)
      cases o with
      | none => rfl
      | some b =>
        dsimp only
        split
        · rfl
        · split <;> rfl
  exact hfold l none (.inr h)

/-- Settles O12, from the one place where an instruction's trap is raised. -/
theorem trapOfInstruction : Obligations.TrapOfInstruction := by
  unfold Obligations.TrapOfInstruction
  refine fun s gi c => ⟨fun h hc hp => State.trapWith_hart hc hp, fun h hc hp hm => ?_, fun h hc hm => ?_, fun hc hl => ?_⟩
  · obtain ⟨b, hb⟩ := firstCause_isSome hp
    simp [State.trapWith, hc, hb, hm]
  · unfold State.trapWith
    rw [hc]
    dsimp only
    split
    · rw [if_pos hm]
    · rfl
  · exact .intro (State.trapWith_access hc) ⟨OnlyThread.setMe hl _, SameBytes.setMe s _, State.me_setMe hl _⟩

/-- The low half of the first dword of a fault record holds the code and SUB (R386). -/
theorem faultRecord_code (c : Cause) (lvl hart slot core : Nat) (h : c.code + c.sub * 2 ^ 8 < 2 ^ 16) :
    (((faultRecord c lvl hart slot core)[0]?).getD 0).toNat % 2 ^ 16 = c.code + c.sub * 2 ^ 8 := by
  simp only [faultRecord, List.getElem?_cons_zero, Option.getD_some, BitVec.toNat_ofNat]
  omega

/-- Settles O18: the call retires, and then enters the firmware's handler from the next word. -/
theorem firmwareCall : Obligations.FirmwareCall := by
  unfold Obligations.FirmwareCall
  intro s gi h hl hc hp h1
  have hh : s.onHart = true := by simp [State.onHart, hc]
  have hwho : s.who = ⟨gi, .hart h⟩ := by simp [State.who, hc]
  let c : Cause := { s.scalarCause 0 0 0 with sub := 1 }
  let s1 := s.setMe Thread.retire
  have hl1 : s1.live = true := (State.live_setMe _).trans hl
  have hc1 : s1.cur = some ⟨gi, .hart h⟩ := (State.setMe_cur ..).trans hc
  have hme1 : s1.me = s.me.retire := State.me_setMe hl _
  have hm : c.code ≠ cMCHK := show (0 : Nat) ≠ cMCHK by decide
  have hv1 : s1.me.lvl = 0 ∧ (s1.part s1.myPart).stvec ≠ 0 ∨ s1.me.lvl = 1 := .inr (by rw [hme1]; exact h1)
  have hexec : exec .fwcall s = .next (s1.enterTrap gi h c) := by
    show execFwcall s = _
    unfold execFwcall
    rw [State.privileged, State.hart_of_onHart hl hh, if_neg (by omega)]
    simp [hwho, State.hartNo, hp, firstCause, s1, c]
  have he := State.entered_enterTrap hl1 hc1 hm hv1
  obtain ⟨f, hf⟩ := State.enterTrap_eq_setMe hl1 hc1 hm hv1
  have hset : s1.enterTrap gi h c = s.setMe fun t => f t.retire := hf.trans (State.setMe_setMe ..)
  have hlvl : s1.me.lvl = 1 := by rw [hme1]; exact h1
  rw [hlvl] at he
  obtain ⟨hffrec, hfepc, hfplvl, -, -, -⟩ := he.saved2 rfl
  refine .intro hexec ⟨hset ▸ OnlyThread.setMe hl _, hset ▸ SameBytes.setMe s _, he.lvl, ?_, ?_, ?_, he.frz, fun r => ?_, ?_⟩
  · rw [hfplvl, hlvl]
  · rw [he.pc]; exact congrArg ModSt.fvec (State.setMe_mod ..)
  · rw [hfepc, hme1]; rfl
  · rw [he.rest, hme1]; rfl
  · rw [hffrec, faultRecord_code c _ _ _ _ (show 0 + 1 * 2 ^ 8 < 2 ^ 16 by norm_num)]
    show 0 + 1 * 2 ^ 8 = 256
    norm_num

end Sys2Proof.Machine
end

section
/-! The return from a trap (R385). -/

namespace Sys2Proof.Machine

/-- A change of a gang that keeps its harts leaves the thread of a hart in execution. -/
theorem State.me_modGang_of_harts {s : State} (h : s.onHart = true) (i : Nat) {f : Gang → Gang}
    (hf : ∀ g, (f g).harts = g.harts) : (s.modGang i f).me = s.me := by
  unfold State.onHart at h
  split at h
  · rename_i gi n hc
    unfold State.me
    rw [State.modGang_cur, hc]
    dsimp only
    rw [State.thread?_modGang]
    split
    · simp only [State.thread?]
      cases s.gangs[gi]? with
      | none => rfl
      | some g => simp [Gang.thread?, hf]
    · rfl
  · cases h

/-- A change of a gang that keeps its scratchpad and its scalar data memory stores nothing. -/
theorem SameBytes.modGang (s : State) (i : Nat) {f : Gang → Gang} (hf : ∀ g, (f g).spad = g.spad ∧ (f g).sdm = g.sdm) :
    SameBytes s (s.modGang i f) := by
  have hgang (k : Nat) : ((s.modGang i f).gangOf k).spad = (s.gangOf k).spad ∧
      ((s.modGang i f).gangOf k).sdm = (s.gangOf k).sdm := by
    unfold State.gangOf
    rw [State.getElem?_modGang]
    split
    · cases s.gangs[k]? with
      | none => exact ⟨rfl, rfl⟩
      | some g => exact hf g
    · exact ⟨rfl, rfl⟩
  exact ⟨fun _ => rfl, fun k a => by rw [(hgang k).1], fun k a => by rw [(hgang k).2]⟩

/-- On a hart, going on with the access context's faults leaves what a return has made of the thread in execution. -/
theorem State.resumeAccess_frame {s : State} (h : s.onHart = true) : s.resumeAccess.me = s.me ∧
    SameBytes s s.resumeAccess ∧ s.resumeAccess.mod = s.mod ∧ s.resumeAccess.launches = s.launches := by
  unfold State.resumeAccess
  dsimp only
  split
  · exact ⟨State.me_modGang_of_harts h _ fun _ => rfl, SameBytes.modGang s _ fun _ => ⟨rfl, rfl⟩, rfl, rfl⟩
  · exact ⟨rfl, .refl s, rfl, rfl⟩

/-- What TRET leaves beside the thread in execution. -/
theorem exec_tret {s : State} (hl : s.live = true) (hh : s.onHart = true) (h1 : 1 ≤ s.me.lvl) : ∃ u, exec .tret s = .next u ∧
    u.me = s.returnTrap.me ∧ SameBytes s u ∧ u.mod = s.mod ∧ u.launches = s.launches := by
  have hb : SameBytes s s.returnTrap := SameBytes.setMe s _
  have hm : s.returnTrap.mod = s.mod := State.setMe_mod ..
  have hn : s.returnTrap.launches = s.launches := State.setMe_launches ..
  obtain ⟨hme, hbytes, hmod, hlaunches⟩ := State.resumeAccess_frame (s := s.returnTrap) ((State.onHart_setMe ..).trans hh)
  have hexec : exec .tret s = .next (if (((if s.me.lvl = 2 then s.me.ffrec else s.me.sfrec)[0]?).getD 0).toNat / 2 ^ 16 % 16 = 3
      then s.returnTrap.resumeAccess else s.returnTrap) := by
    show execTret s = _
    rw [execTret, State.privileged, State.hart_of_onHart hl hh, if_neg (by omega)]
  by_cases hsrc : (((if s.me.lvl = 2 then s.me.ffrec else s.me.sfrec)[0]?).getD 0).toNat / 2 ^ 16 % 16 = 3
  · rw [if_pos hsrc] at hexec
    exact ⟨_, hexec, hme, hb.trans hbytes, hmod.trans hm, hlaunches.trans hn⟩
  · rw [if_neg hsrc] at hexec
    exact ⟨_, hexec, rfl, hb, hm, hn⟩

/-- A thread back at the address and the level that its trap has saved, before its queues thaw (R385). -/
def Thread.back (t : Thread) (suppNow : Bool) (suppKept : List Nat) : Thread :=
  { t with
    pc := wordAligned (if t.lvl = 2 then t.fepc else t.sepc), lvl := if t.lvl = 2 then t.fplvl else t.plvl
    stall := .none, retired := t.retired + 1, suppNow := suppNow, suppKept := suppKept }

/-- A thread whose queues have thawed (R385): no record stays stuck but one whose cause still waits, and what the thread
waited for goes on. -/
structure Thread.Thawed (t u : Thread) : Prop where
  flags : u.frz = false ∧ u.aflt = false ∧ u.wq = false
  seq : u.vq.map (·.seq) = t.vq.map (·.seq)
  pi : u.vq.map (·.pi) = t.vq.map (·.pi)
  stuck : ∀ r, r ∈ u.vq ∨ r ∈ u.mq → r.stuck = true → ∃ c ∈ t.causes, c.ord = r.ord
  gd : ∀ n, t.kept = .gd n → u.wait = if t.wq then .gd n else .none
  barrier : t.kept = .barrier → u.wait = .barrier
  rest : u = { t with
    frz := u.frz, aflt := u.aflt, wq := u.wq, kept := u.kept, vq := u.vq, mq := u.mq, xfers := u.xfers, wait := u.wait }

/-- A record that stays stuck has a cause among those that wait. -/
theorem VRec.stuck_goesOn {l : List Cause} {r : VRec} (h : (r.goesOn l).stuck = true) : ∃ c ∈ l, c.ord = r.ord := by
  simpa [VRec.goesOn] using (Bool.and_eq_true_iff.1 h).2

/-- A return goes back to the saved address and level, and thaws the queues at the dispatch level. -/
theorem State.me_returnTrap {s : State} (hl : s.live = true) : ∃ suppNow suppKept,
    ((s.me.back suppNow suppKept).lvl = s.me.dlvl → (s.me.back suppNow suppKept).Thawed s.returnTrap.me) ∧
    ((s.me.back suppNow suppKept).lvl ≠ s.me.dlvl → s.returnTrap.me = s.me.back suppNow suppKept) := by
  unfold State.returnTrap
  rw [State.me_setMe hl]
  generalize s.me = t
  dsimp only
  have hstuck (again : VRec → VRec) (ha : ∀ r, (again r).stuck = (r.goesOn t.causes).stuck ∧ (again r).ord = r.ord) (r : VRec)
      (hr : r ∈ t.vq.map again ∨ r ∈ t.mq.map (·.goesOn t.causes)) (hs : r.stuck = true) : ∃ c ∈ t.causes, c.ord = r.ord := by
    simp only [List.mem_map] at hr
    obtain ⟨q, -, rfl⟩ | ⟨q, -, rfl⟩ := hr
    · rw [(ha q).2]; exact VRec.stuck_goesOn ((ha q).1 ▸ hs)
    · exact VRec.stuck_goesOn (r := q) hs
  by_cases h2 : t.lvl = 2 <;> simp only [Thread.back, h2, if_true, if_false]
  all_goals
    apply Exists.intro
    apply Exists.intro
    split
    · rename_i hd
      refine ⟨fun _ => ⟨⟨rfl, rfl, rfl⟩, List.map_map .., List.map_map .., hstuck _ fun r => ⟨rfl, rfl⟩, fun n hk => ?_, fun hk => ?_, rfl⟩,
        fun h => absurd hd h⟩
      · dsimp only
        rw [hk]
      · dsimp only
        rw [hk]
    · rename_i hd
      exact ⟨fun h => absurd h hd, fun _ => rfl⟩

/-- Settles O13: the thread is what the return makes of it, and an access context that goes on leaves it. -/
theorem trapReturn : Obligations.TrapReturn := by
  unfold Obligations.TrapReturn
  intro s hl hh hlvl
  obtain ⟨u, hu, hme, hbytes, hmod, hlaunches⟩ := exec_tret hl hh (by omega)
  obtain ⟨now, kept, hthaw, hstay⟩ := State.me_returnTrap hl
  rw [← hme] at hthaw hstay
  refine .intro hu ⟨hbytes, ?_⟩
  rw [hmod, hlaunches]
  by_cases hd : (s.me.back now kept).lvl = s.me.dlvl
  · obtain ⟨⟨hfrz, haflt, hwq⟩, hseq, hpi, hstuck, hgd, hbarrier, hrest⟩ := hthaw hd
    rw [hrest]
    refine ⟨rfl, rfl, rfl, fun _ => rfl, rfl, rfl, rfl, rfl, rfl, rfl, rfl, rfl, rfl, rfl, rfl,
      fun _ => ⟨hfrz, haflt, hwq, hseq, hpi, hstuck, fun n hk hq => ?_, fun n hk hq => ?_, hbarrier⟩, fun h => absurd hd h⟩
    · exact (hgd n hk).trans (if_pos hq)
    · exact (hgd n hk).trans (if_neg (by rw [show (s.me.back now kept).wq = false from hq]; nofun))
  · rw [hstay hd]
    exact ⟨rfl, rfl, rfl, fun _ => rfl, rfl, rfl, rfl, rfl, rfl, rfl, rfl, rfl, rfl, rfl, rfl, fun h => absurd h hd,
      fun _ => ⟨rfl, rfl, rfl⟩⟩

end Sys2Proof.Machine
end

section
/-! Memory in canonical form: what the updates of the state, the accesses and the traps keep of it (04_storage.md). A
function of the model keeps the form if what it calls does, and if what it writes itself is one of the writes of
Laws/Memory. -/

namespace Sys2Proof.Machine

/-- Global memory and the repair store are in canonical form. -/
structure State.Canon (s : State) : Prop where
  mem : Memory.wf s.mem = true
  store : Memory.wf s.mod.store = true

/-- The next state that an outcome may be has memory in canonical form. -/
structure NextCanon (o : Out) : Prop where
  of_next : ∀ t, o = .next t → t.Canon

/-- A push that succeeds, or a read, gives a state with memory in canonical form; `f` is the state among what it gives. -/
structure GivesCanon {ε α : Type} (f : α → State) (p : Except ε α) : Prop where
  of_ok : ∀ x, p = .ok x → (f x).Canon

namespace State.Canon
variable {s t : State}

theorem iff_mk {mem gangs launches cores parts orch sleepers moves ctx errors mod cur word agenda turn free stamp} :
    State.Canon ⟨mem, gangs, launches, cores, parts, orch, sleepers, moves, ctx, errors, mod, cur, word, agenda, turn, free,
      stamp⟩ ↔ Memory.wf mem = true ∧ Memory.wf mod.store = true :=
  ⟨fun h => ⟨h.mem, h.store⟩, fun h => ⟨h.1, h.2⟩⟩

theorem reset : State.reset.Canon := ⟨rfl, rfl⟩

/-- What a read notes, or a thread's change, leaves memory. -/
theorem of_eq (h : s.Canon) (hm : t.mem = s.mem) (hn : t.mod = s.mod) : t.Canon :=
  ⟨hm ▸ h.mem, hn ▸ h.store⟩

theorem of_noted (h : s.Canon) (hn : s.Noted t) : t.Canon := h.of_eq (by rw [hn.rest]) (by rw [hn.rest])

theorem of_threads (h : s.Canon) (hn : s.Threads t) : t.Canon := h.of_eq (by rw [hn.rest]) (by rw [hn.rest])

theorem ite {c : Prop} [Decidable c] (hs : s.Canon) (ht : t.Canon) : (if c then s else t).Canon := by
  split
  · exact hs
  · exact ht

/-- A fold of changes that each keep the form. -/
theorem foldl {α : Type} {f : State → α → State} (hf : ∀ s a, s.Canon → (f s a).Canon) (l : List α) :
    ∀ {s : State}, s.Canon → (l.foldl f s).Canon := by
  induction l with
  | nil => exact fun h => h
  | cons a l ih => exact fun h => ih (hf _ a h)

/-! Updates by place. -/

section
variable (h : s.Canon)
include h

theorem modGang (i : Nat) (f : Gang → Gang) : (s.modGang i f).Canon := ⟨h.mem, h.store⟩
theorem modThread (a : Agent) (f : Thread → Thread) : (s.modThread a f).Canon := ⟨h.mem, h.store⟩
theorem modCore (i : Nat) (f : CoreSt → CoreSt) : (s.modCore i f).Canon := ⟨h.mem, h.store⟩
theorem modPart (i : Nat) (f : PartSt → PartSt) : (s.modPart i f).Canon := ⟨h.mem, h.store⟩
theorem modLaunch (i : Nat) (f : Launch → Launch) : (s.modLaunch i f).Canon := ⟨h.mem, h.store⟩
theorem setMe (f : Thread → Thread) : (s.setMe f).Canon := h.of_eq (State.setMe_mem ..) (State.setMe_mod ..)
theorem modRec (a : Agent) (seq : Nat) (f : VRec → VRec) : (s.modRec a seq f).Canon := h.modThread ..
theorem modMatrix (a : Agent) (ord : Nat) (f : VRec → VRec) : (s.modMatrix a ord f).Canon := h.modThread ..
theorem modXfer (a : Agent) (x : Nat) (f : Xfer → Xfer) : (s.modXfer a x f).Canon := h.modThread ..
theorem modTile (t : Nat) (f : Tile → Tile) : (s.modTile t f).Canon := h.modGang ..
theorem modMesh (part k : Nat) (f : MeshSlot → MeshSlot) : (s.modMesh part k f).Canon := h.modPart ..
theorem modCmd (c : Nat) (f : CtxCmd → CtxCmd) : (s.modCmd c f).Canon := ⟨h.mem, h.store⟩
theorem modChan (f : Chan → Chan) : (s.modChan f).Canon := ⟨h.mem, h.store⟩
theorem dropLines (core part : Nat) (p : Nat → Bool) : (s.dropLines core part p).Canon := h.modCore ..

/-! Charges, reads and their notes. -/

theorem charge (gi k n : Nat) : (s.charge gi k n).Canon := h.of_noted (.charge ..)
theorem chargeAt (gi : Nat) (p : Place) (n : Nat) : (s.chargeAt gi p n).Canon := h.charge ..
theorem chargeRun (gi : Nat) (p : Place) (n va : Nat) (more : Bool) : (s.chargeRun gi p n va more).Canon :=
  h.of_noted (.chargeRun ..)
theorem cacheLeaf (a : Agent) (l : Leaf) : (s.cacheLeaf a l).Canon := h.of_noted (.cacheLeaf ..)
theorem noteRead (a : Agent) (p : Place) (n : Nat) : (s.noteRead a p n).Canon := h.of_noted (.noteRead ..)
theorem forgetTaken (a : Agent) : (s.forgetTaken a).Canon := by grind [State.forgetTaken, modThread]
theorem dropTaken (a : Agent) (slice pa n : Nat) : (s.dropTaken a slice pa n).Canon := by grind [State.dropTaken, modThread]

theorem translate {a : Agent} {lvl va pa : Nat} {acc : Acc} (e : s.translate a lvl acc va = .ok (pa, t)) : t.Canon := by
  rcases State.translate_frame e with rfl | ⟨l, n, rfl⟩
  · exact h
  · exact (h.cacheLeaf a l).charge ..

theorem place {a : Agent} {lvl n al : Nat} {acc : Acc} {first : Bool} {va : Word} {p : Place}
    (e : s.place a lvl acc first va n al = .ok (p, t)) : t.Canon := h.of_noted (.place e)

theorem locate {a : Agent} {lvl n al : Nat} {acc : Acc} {first : Bool} {va : Word} {p : Place}
    (e : s.locate a lvl acc first va n al = .ok (p, t)) : t.Canon := h.of_noted (.locate e)

theorem readDwords {a : Agent} {lvl va n : Nat} {ws : List Word} (e : s.readDwords a lvl va n = .ok (ws, t)) : t.Canon :=
  h.of_noted (.readDwords e)

/-! Writes of bytes: to global memory a write of its own, elsewhere the gang's. -/

theorem pokeAt (a : Agent) (p : Place) (n v : Nat) : (s.pokeAt a p n v).Canon := by
  cases p with
  | mem pa => exact ⟨Memory.wf_write h.mem, h.store⟩
  | spad off => exact h.modGang ..
  | sdm off => exact h.modGang ..

theorem storeMem {a : Agent} {slice va pa epoch : Nat} {bytes : List (Nat × BitVec 8)} {nt : Bool} {sq : Option Nat}
    (e : s.storeMem a slice va pa bytes nt epoch sq = some t) : t.Canon := by
  grind [State.storeMem, iff_mk, State.Canon, modThread]

theorem storeAt {a : Agent} {slice va n v epoch : Nat} {p : Place} {nt : Bool} {sq : Option Nat}
    (e : s.storeAt a slice va p n v nt epoch sq = some t) : t.Canon := by
  cases p with
  | mem pa => exact (h.dropTaken ..).storeMem e
  | spad off => grind [State.storeAt, modGang]
  | sdm off => grind [State.storeAt, modGang]

theorem storeSome {a : Agent} {slice va epoch : Nat} {bytes : List (Nat × BitVec 8)} {p : Place} {nt : Bool} {sq : Option Nat}
    (e : s.storeSome a slice va p bytes nt epoch sq = some t) : t.Canon := by
  cases p with
  | mem pa => exact h.storeMem e
  | spad off => grind [State.storeSome, modGang]
  | sdm off => grind [State.storeSome, modGang]

end

end State.Canon

end Sys2Proof.Machine
end

section
namespace Sys2Proof.Machine

namespace State.Canon
variable {s t : State} (h : s.Canon)
include h

/-! The life of harts, gangs and launches. -/

theorem readNumbers {a : Agent} {len n : Nat} {va : Word} {l : List Nat} (e : s.readNumbers a len va n = .ok (l, t)) :
    t.Canon := h.of_noted (.readNumbers e)

theorem freeLanes (core : Nat) (p : Nat → Nat → Bool) : (s.freeLanes core p).Canon := h.modCore ..
theorem dropClaims (core gi : Nat) : (s.dropClaims core gi).Canon := h.modCore ..
theorem dropSleepers (gi : Nat) : (s.dropSleepers gi).Canon := ⟨h.mem, h.store⟩

theorem wakeWord (owner key : Nat) (v : Word) : (s.wakeWord owner key v).Canon :=
  foldl (fun _ _ h => h.modThread _ _) _ (State.Canon.mk h.mem h.store)

/-- The completion word is a write of eight bytes. -/
theorem completeLaunch (li : Nat) : (s.completeLaunch li).Canon := by
  grind [State.completeLaunch, modLaunch, modPart, wakeWord, iff_mk, State.Canon, Memory.wf_write]

theorem finishLaunch (li : Nat) : (s.finishLaunch li).Canon := by
  grind [State.finishLaunch, completeLaunch]

theorem countRetired (li n outcome : Nat) : (s.countRetired li n outcome).Canon := (h.modLaunch ..).finishLaunch _

theorem freePool (gi : Nat) : (s.freePool gi).Canon := by
  grind [State.freePool, modPart, modGang]

theorem setModes (core : Nat) (l : List ModeChange) : (s.setModes core l).Canon := ⟨h.mem, h.store⟩
theorem changeModes (core : Nat) (p : Nat → Bool) : (s.changeModes core p).Canon := h.setModes ..

theorem endHart (gi k : Nat) : (s.endHart gi k).Canon := ((h.modGang ..).freeLanes ..).changeModes ..

theorem leaveCore (gi : Nat) : (s.leaveCore gi).Canon :=
  (((h.freeLanes ..).dropClaims ..).changeModes ..).dropSleepers _

theorem loseCore (core : Nat) : (s.loseCore core).Canon := ⟨h.mem, h.store⟩

theorem retireGang (gi outcome : Nat) : (s.retireGang gi outcome).Canon := by
  grind [State.retireGang, leaveCore, freePool, modGang, countRetired, iff_mk, State.Canon]

theorem killGang (gi outcome : Nat) : (s.killGang gi outcome).Canon := by
  grind [State.killGang, retireGang]

theorem breakGroup (part gidx : Nat) : (s.breakGroup part gidx).Canon := ⟨h.mem, h.store⟩

/-! Traps. -/

theorem stopCore (core : Nat) (record : List Word) : (s.stopCore core record).Canon := ⟨h.mem, h.store⟩

theorem enterTrap (gi k : Nat) (c : Cause) : (s.enterTrap gi k c).Canon := by
  grind [State.enterTrap, stopCore, killGang, modThread]

theorem takePending (gi k : Nat) : (s.takePending gi k).Canon := by
  grind [State.takePending, modGang, enterTrap]

theorem returnTrap : s.returnTrap.Canon := h.setMe _

theorem resumeAccess : s.resumeAccess.Canon := by
  grind [State.resumeAccess, modGang]

theorem performFlight {a : Agent} (e : s.performFlight a = some t) : t.Canon := by
  unfold State.performFlight at e
  split at e
  · cases e; exact h
  · obtain ⟨v, -, rfl⟩ := Option.map_eq_some_iff.1 e
    exact ((h.noteRead ..).chargeAt ..).modThread ..

end State.Canon

namespace NextCanon
variable {s t : State}

theorem next (h : s.Canon) : NextCanon (.next s) := by
  constructor
  rintro _ ⟨⟩
  exact h


theorem fault (r : Fault) : NextCanon (.fault r) := by
  constructor
  intro t e
  cases e

theorem refused (r : Refusal) : NextCanon (.refused r) := by
  constructor
  intro t e
  cases e

theorem ite {p : Prop} [Decidable p] {x y : Out} (hx : NextCanon x) (hy : NextCanon y) : NextCanon (if p then x else y) := by
  split
  · exact hx
  · exact hy

theorem mapNext {o : Out} (ho : NextCanon o) {f : State → State} (hf : ∀ s : State, s.Canon → (f s).Canon) :
    NextCanon (mapNext o f) := by
  cases o with
  | next s => exact next (hf s (ho.of_next s rfl))
  | fault r => exact fault r
  | refused r => exact refused r

section
variable (h : s.Canon)
include h

theorem done (f : Thread → Thread) : NextCanon (s.done f) := next (h.setMe _)
theorem retWith (d : BitVec 6) (v : Word) : NextCanon (s.retWith d v) := done h _
theorem ret : NextCanon s.ret := done h _
theorem jump (pc : Word) : NextCanon (s.jump pc) := next (h.setMe _)
theorem stallFor (w : Stall) : NextCanon (s.stallFor w) := next (h.setMe _)

theorem trapWith (c : Cause) : NextCanon (s.trapWith c) := by
  unfold State.trapWith
  split
  · exact fault _
  · split
    · exact ite (next (h.enterTrap ..)) (next (h.takePending ..))
    · exact next (h.enterTrap ..)
  · exact next (h.modGang ..)

theorem trap (code : Nat) : NextCanon (s.trap code) := trapWith h _
theorem illop : NextCanon s.illop := trap h _
theorem trapMem (e : MemErr) (acc : Acc) : NextCanon (s.trapMem e acc) := trapWith h _

theorem trapXfer (x : Xfer) : NextCanon (s.trapXfer x) := by
  refine trapWith ?_ _
  split
  · split
    · exact h
    · exact h.setMe _
  · exact h.setMe _

/-! Who may issue a form, and what it waits for. -/

omit h in
theorem agent {k : Out} (hk : NextCanon k) : NextCanon (s.agent k) := ite hk (fault _)
theorem hart {k : Out} (hk : NextCanon k) : NextCanon (s.hart k) := agent (ite hk (illop h))
theorem access {k : Out} (hk : NextCanon k) : NextCanon (s.access k) := agent (ite (illop h) hk)
theorem privileged (lvl : Nat) {k : Out} (hk : NextCanon k) : NextCanon (s.privileged lvl k) := hart h (ite (trap h _) hk)

variable {k : State → Out} (hk : ∀ t : State, t.Canon → NextCanon (k t))
include hk

theorem afterVector : NextCanon (s.afterVector k) := ite (hk _ (h.setMe _)) (stallFor (h.setMe _) _)

theorem afterRelease (scope : Nat) : NextCanon (s.afterRelease scope k) := by
  have hc := h.setMe Thread.closeAll
  unfold State.afterRelease
  dsimp only
  split
  · exact trapXfer hc _
  · exact ite (stallFor hc _) (ite (hk _ hc) (stallFor hc _))

theorem afterAcquire : NextCanon (s.afterAcquire k) := by
  refine afterVector h fun t ht => ?_
  split
  · exact trapXfer ht _
  · exact ite (hk t ht) (stallFor ht _)

theorem beforeArrival : NextCanon (s.beforeArrival k) := afterRelease h (fun t ht => ite (hk t ht) (stallFor ht _)) _

theorem landed (a : Agent) : NextCanon (s.landed a k) := by
  unfold State.landed
  split
  · exact hk _ (h.performFlight ‹_›)
  · exact next (h.modThread ..)

end

/-! Accesses of the scalar slice. -/

section
variable (h : s.Canon)
include h

theorem accessIn (acc : Acc) (first : Bool) (va : Word) (n : Nat) {k : State → Place → Out}
    (hk : ∀ (t : State) (p : Place), t.Canon → NextCanon (k t p)) : NextCanon (s.accessIn acc first va n k) := by
  unfold State.accessIn
  split
  · exact trapMem h _ _
  · rename_i p t hp
    have ht := h.place hp
    split
    · exact ite (trapXfer ht _) (stallFor ht _)
    · split
      · exact trapMem ht _ _
      · exact hk t p ht

theorem scalarAccess (acc : Acc) (va : Word) (n : Nat) {k : State → Place → Out}
    (hk : ∀ (t : State) (p : Place), t.Canon → NextCanon (k t p)) : NextCanon (s.scalarAccess acc va n k) :=
  accessIn h _ _ _ _ hk

theorem scalarLoad (va : Word) (n : Nat) {k : State → Nat → Out} (hk : ∀ (t : State) (v : Nat), t.Canon → NextCanon (k t v)) :
    NextCanon (s.scalarLoad va n k) := by
  refine scalarAccess h _ _ _ fun t p ht => ?_
  dsimp only
  split
  · exact hk _ _ (((ht.setMe _).noteRead ..).chargeAt ..)
  · exact stallFor (ht.setMe _) _

theorem scalarStore (va : Word) (n v : Nat) (nt : Bool) {k : State → Out} (hk : ∀ t : State, t.Canon → NextCanon (k t)) :
    NextCanon (s.scalarStore va n v nt k) := by
  refine scalarAccess h _ _ _ fun t p ht => ?_
  split
  · rename_i u hu
    refine hk _ ?_
    split
    · exact ht.storeAt hu
    · exact (ht.storeAt hu).chargeAt ..
  · exact stallFor ht _

theorem scalarAtomic (va : Word) (n : Nat) (f : Nat → Option Nat) {k : State → Place → Nat → Out}
    (hk : ∀ (t : State) (p : Place) (m : Nat), t.Canon → NextCanon (k t p m)) : NextCanon (s.scalarAtomic va n f k) := by
  refine scalarAccess h _ _ _ fun t p ht => ite (stallFor (ht.setMe _) _) ?_
  have hc := (ht.setMe (·.closeSlice 0)).chargeAt (t.setMe (·.closeSlice 0)).who.gang p n
  dsimp only
  split
  · exact hk _ _ _ (hc.pokeAt ..)
  · exact hk _ _ _ hc

end

end NextCanon

end Sys2Proof.Machine
end

section
/-! Memory in canonical form: the operands and the pushes of the vector forms (08_vector.md). A push is a chain of checks
and of reads of operands: each link keeps the form. -/

namespace Sys2Proof.Machine

namespace GivesCanon
variable {ε α β : Type} {f : β → State}

theorem ok {x : β} (h : (f x).Canon) : GivesCanon f (.ok x : Except ε β) := by
  constructor
  rintro _ ⟨⟩
  exact h

theorem pure {x : β} (h : (f x).Canon) : GivesCanon f (pure x : Except ε β) := ok h

theorem error {r : ε} : GivesCanon f (.error r : Except ε β) := by
  constructor
  intro x e
  cases e

theorem illop {f : β → State} : GivesCanon f (illopP : Push β) := error

/-- A link that gives no state: a check, or a value read of the state. -/
theorem after {p : Except ε α} {k : α → Except ε β} (hk : ∀ x, GivesCanon f (k x)) : GivesCanon f (p >>= k) := by
  constructor
  intro y e
  cases p with
  | ok x => exact (hk x).of_ok y e
  | error r => cases e

/-- A link that gives a state. -/
theorem bind {g : α → State} {p : Except ε α} {k : α → Except ε β} (hp : GivesCanon g p)
    (hk : ∀ x, (g x).Canon → GivesCanon f (k x)) : GivesCanon f (p >>= k) := by
  constructor
  intro y e
  cases p with
  | ok x => exact (hk x (hp.of_ok x rfl)).of_ok y e
  | error r => cases e

theorem ite {c : Prop} [Decidable c] {p q : Except ε β} (hp : GivesCanon f p) (hq : GivesCanon f q) :
    GivesCanon f (if c then p else q) := by
  split
  · exact hp
  · exact hq

end GivesCanon

namespace State.Canon
variable {s t : State} (h : s.Canon)
include h

/-! The Sower's reads through the dimension cache. -/

omit h in
theorem readWords {a : Agent} {lvl n : Nat} : ∀ {s t : State} {va : Nat} {v : List (BitVec 32)}, s.Canon →
    s.readWords a lvl va n = .ok (v, t) → t.Canon := by
  induction n with
  | zero =>
    rintro s t va v h ⟨⟩
    exact h
  | succ n ih =>
    intro s t va v h e
    grind [State.readWords, locate, modThread, noteRead, chargeRun]

theorem dimension {a : Agent} {lvl dims : Nat} {taddr : Word} {d : Nat} {v : List (BitVec 32)}
    (e : s.dimension a lvl dims taddr d = .ok (v, t)) : t.Canon := by
  unfold State.dimension at e
  dsimp only at e
  split at e
  · cases e
    exact h.modCore ..
  · split at e
    · cases e
    · split at e
      · cases e
      · rename_i hv _ _ _ hw
        cases e
        exact (readWords (readWords h hv) hw).modCore ..

theorem sowerN32 {a : Agent} {d n : Nat} {v : BitVec 32} (e : s.sowerN32 a d n = .ok (v, t)) : t.Canon := by
  grind [State.sowerN32, dimension]

theorem missOut (m : Miss) : NextCanon (s.missOut m) := by
  unfold State.missOut
  split
  · exact .trapMem h ..
  · exact .ite (.trapXfer h _) (.stallFor h _)
  · exact .stallFor (h.setMe _) _

theorem pushOut {r : Push State} (hr : GivesCanon id r) : NextCanon (s.pushOut r) := by
  unfold State.pushOut
  split
  · exact .next (hr.of_ok _ rfl)
  · exact .trap h _
  · exact .trapMem h ..
  · exact .stallFor h _

/-! Operands, and the push itself. -/

theorem popSource (k : Nat) : GivesCanon Prod.snd (s.popSource k) := by
  unfold State.popSource
  split
  · exact .error
  · exact .ok (h.modGang ..)

theorem vsource (u : Option Tag) (f : BitVec 6) : GivesCanon Prod.snd (s.vsource u f) := by
  refine .ite (.ok h) ?_
  split
  · exact .ok h
  · exact h.popSource _

theorem vsources (u : Option Tag) (a b : BitVec 6) : GivesCanon (·.2.2) (s.vsources u a b) :=
  .bind (h.vsource _ _) fun _ h => .bind (h.vsource _ _) fun _ h => .pure h

theorem vsecond (u : Option Tag) (scalar : Bool) (t : Tag) (b : BitVec 6) (gb : Word) :
    GivesCanon Prod.snd (s.vsecond u scalar t b gb) := .ite (.ok h) (h.vsource _ _)

theorem pushVec (r : VRec) : GivesCanon id (s.pushVec r) := .after fun _ => .pure (h.setMe _)

theorem reserveSower (rounds : Bool) (vl : Nat) : GivesCanon id (s.reserveSower rounds vl) :=
  .ite (.ite .illop (.ok (h.setMe _))) (.ok h)

theorem form (f : Fields) (e : VRec) {k : Option Tag → Push State} (hk : ∀ u, GivesCanon id (k u)) :
    GivesCanon id (s.form f e k) := by
  refine .after fun _ => .ite ?_ (hk _)
  split
  · exact .illop
  · exact .after fun _ => h.pushVec e

/-! The vector arithmetic forms. -/

theorem pushAlu (f : AluFn) (fs : Fields) (x y : Operand) (n sc l : Bool) : GivesCanon id (s.pushAlu f fs x y n sc l) := by
  unfold State.pushAlu
  split
  · exact .illop
  · exact .after fun _ => .after fun _ => .after fun _ => .after fun _ => .bind (h.reserveSower ..) fun _ h => h.pushVec _

theorem pushVop (f : AluFn) (d a b : BitVec 6) (n sc m g l : Bool) : GivesCanon id (s.pushVop f d a b n sc m g l) := by
  unfold State.pushVop
  exact h.form _ _ fun _ => .bind (h.vsource _ _) fun _ h =>
    .ite (.bind (.ok h) fun _ h => h.pushAlu ..) (.bind (h.vsecond ..) fun _ h => h.pushAlu ..)

theorem pushVacc (f : AluFn) (d a b : BitVec 6) (n sc m : Bool) : GivesCanon id (s.pushVacc f d a b n sc m) := by
  unfold State.pushVacc
  exact h.form _ _ fun _ => .after fun _ =>
    .ite (.bind (.ok h) fun _ h => h.pushAlu ..) (.bind (h.vsource ..) fun _ h => h.pushAlu ..)

theorem pushFmaWith (f : FmaFn) (fs : Fields) (x y : Operand) (n sc : Bool) :
    GivesCanon id (s.pushFmaWith f fs x y n sc) := by
  unfold State.pushFmaWith
  dsimp only
  split
  · exact .illop
  · exact .after fun _ => .after fun _ => .after fun _ => .after fun _ => .bind (h.reserveSower ..) fun _ h => h.pushVec _

theorem pushFma (f : FmaFn) (d a b : BitVec 6) (n sc m g : Bool) : GivesCanon id (s.pushFma f d a b n sc m g) := by
  unfold State.pushFma
  exact h.form _ _ fun _ => .bind (h.vsource _ _) fun _ h => .bind (h.vsecond ..) fun _ h => h.pushFmaWith ..

theorem pushFmaAcc (f : FmaFn) (d a b : BitVec 6) (n sc m : Bool) : GivesCanon id (s.pushFmaAcc f d a b n sc m) := by
  unfold State.pushFmaAcc
  exact h.form _ _ fun _ => .after fun _ => .bind (h.vsource _ _) fun _ h => h.pushFmaWith ..

theorem pushCmp (f : CmpFn) (d a b : BitVec 6) (m g : Bool) : GivesCanon id (s.pushCmp f d a b m g) := by
  unfold State.pushCmp
  refine h.form _ _ fun u => .bind (h.vsource _ _) fun _ h => .bind (h.vsecond ..) fun _ h => ?_
  dsimp only
  split
  · exact .illop
  · exact .after fun _ => .after fun _ => h.pushVec _

theorem pushMask (f : MaskFn) (d a b : BitVec 6) : GivesCanon id (s.pushMask f d a b) := by
  unfold State.pushMask
  exact h.form _ _ fun _ => .bind (h.vsource _ _) fun _ h =>
    .ite (.bind (.ok h) fun _ h => .after fun _ => .after fun _ => h.pushVec _)
      (.bind (h.vsource _ _) fun _ h => .after fun _ => .after fun _ => h.pushVec _)

theorem pushCount (op : VOp) (d a : BitVec 6) : GivesCanon id (s.pushCount op d a) := by
  unfold State.pushCount
  exact h.form _ _ fun _ => .bind (h.vsource _ _) fun _ h => .after fun _ => .after fun _ => h.pushVec _

theorem pushFill (op : VOp) (t : Tag) (d : BitVec 6) (m : Bool) : GivesCanon id (s.pushFill op t d m) := by
  unfold State.pushFill
  exact h.form _ _ fun _ => .after fun _ => h.pushVec _

theorem pushSel (d a b : BitVec 6) : GivesCanon id (s.pushSel d a b) := by
  unfold State.pushSel
  refine h.form _ _ fun u => .bind (h.vsources _ _ _) fun _ h => ?_
  dsimp only
  split
  · exact .illop
  · exact .after fun _ => .after fun _ => h.pushVec _

theorem pushGete (d a b : BitVec 6) : GivesCanon id (s.pushGete d a b) := by
  unfold State.pushGete
  exact .after fun _ => .bind (h.vsource _ _) fun _ h => h.pushVec _

theorem pushSete (d a b : BitVec 6) : GivesCanon id (s.pushSete d a b) := h.form _ _ fun _ => h.pushVec _

theorem pushSalsel (d a b : BitVec 6) (m : Bool) (g k : Nat) : GivesCanon id (s.pushSalsel d a b m g k) := by
  unfold State.pushSalsel
  exact h.form _ _ fun _ => .bind (h.vsources _ _ _) fun _ h => .after fun _ => .after fun _ => h.pushVec _

theorem pushCvt (d a : BitVec 6) (sc m : Bool) (code : BitVec 5) : GivesCanon id (s.pushCvt d a sc m code) := by
  unfold State.pushCvt
  refine h.form _ _ fun u => .bind (h.vsource _ _) fun _ h => ?_
  dsimp only
  split
  · exact .illop
  · exact .after fun _ => .after fun _ => .bind (h.reserveSower ..) fun _ h => h.pushVec _

theorem pushResh (d a code : BitVec 6) (m : Bool) : GivesCanon id (s.pushResh d a code m) := by
  unfold State.pushResh
  refine h.form _ _ fun u => .bind (h.vsource _ _) fun _ h => ?_
  dsimp only
  split
  · exact .illop
  · exact .after fun _ => .after fun _ => .after fun _ => h.pushVec _

theorem pushSlide (op : VOp) (d v r : BitVec 6) (m mayQueue mayAlias under : Bool) :
    GivesCanon id (s.pushSlide op d v r m mayQueue mayAlias under) := by
  unfold State.pushSlide
  exact h.form _ _ fun _ => .bind (h.vsource _ _) fun _ h => .after fun _ => .after fun _ => h.pushVec _

theorem pushIndexed (op : VOp) (d a b : BitVec 6) (m mayQueue : Bool) :
    GivesCanon id (s.pushIndexed op d a b m mayQueue) := by
  unfold State.pushIndexed
  exact h.form _ _ fun _ => .bind (h.vsources _ _ _) fun _ h => .after fun _ => .after fun _ => h.pushVec _

theorem pushBcast (d a : BitVec 6) (m : Bool) : GivesCanon id (s.pushBcast d a m) := by
  unfold State.pushBcast
  exact h.form _ _ fun _ => .after fun _ => .after fun _ => h.pushVec _

theorem pushRed (f : FoldFn) (d a b : BitVec 6) (sc m : Bool) : GivesCanon id (s.pushRed f d a b sc m) := by
  unfold State.pushRed
  exact h.form _ _ fun _ => .bind (h.vsource _ _) fun _ h => .after fun _ => h.pushVec _

theorem pushScan (f : FoldFn) (d a : BitVec 6) (sc m : Bool) : GivesCanon id (s.pushScan f d a sc m) := by
  unfold State.pushScan
  exact h.form _ _ fun _ => .bind (h.vsource _ _) fun _ h => .after fun _ => .after fun _ => h.pushVec _

theorem pushFunc (d a : BitVec 6) (m : Bool) (slot : BitVec 5) : GivesCanon id (s.pushFunc d a m slot) := by
  unfold State.pushFunc
  refine h.form _ _ fun u => ?_
  split
  · exact .illop
  · exact .bind (h.vsource _ _) fun _ h => .after fun _ => .after fun _ => h.pushVec _

theorem pushCfg (d a : BitVec 6) : GivesCanon id (s.pushCfg d a) := by
  unfold State.pushCfg
  dsimp only
  split
  · exact .illop
  · exact .after fun _ => .ite ((h.setMe _).pushVec _) ((h.setMe _).pushVec _)

end State.Canon

end Sys2Proof.Machine
end

section
/-! Memory in canonical form: collective settlements, and the pushes of the vector side's memory forms and of the matrix
forms (R44, R187, R201, R225 to R242, R273 to R289). -/

namespace Sys2Proof.Machine

namespace State.Canon
variable {s t : State}

variable (h : s.Canon)
include h

theorem gangs (l : List Gang) : ({ s with gangs := l } : State).Canon := ⟨h.mem, h.store⟩

theorem cores (l : List CoreSt) : ({ s with cores := l } : State).Canon := ⟨h.mem, h.store⟩

theorem raiseAt (gi k code : Nat) (addr : Word) (acc : Nat) : (s.raiseAt gi k code addr acc).Canon := by
  unfold State.raiseAt
  dsimp only
  split
  · exact h.takePending ..
  · exact h.enterTrap ..

theorem settleLgmode (gi : Nat) : (s.settleLgmode gi).Canon := h.changeModes ..
theorem giveUpModes (gi : Nat) : (s.giveUpModes gi).Canon := h.setModes ..
theorem giveGroups (core gi k : Nat) (groups : List (Nat × Bool)) : (s.giveGroups core gi k groups).Canon := h.modCore ..
theorem answerAll (gi : Nat) (v : Word) : (s.answerAll gi v).Canon := h.modGang ..

theorem settleGrant (gi kind : Nat) : (s.settleGrant gi kind).Canon := 
  (foldl (fun _ _ h => h.modThread ..) _ (((h.settleLgmode gi).gangs _).modGang ..)).modCore ..

theorem applyGrant (gi : Nat) : (s.applyGrant gi).Canon := by
  refine (List.foldlRecOn (motive := fun x : State × Option Panel => x.1.Canon) _ _
    ((foldl (fun _ _ h => h.giveGroups ..) _ (((h.giveUpModes gi).freeLanes ..).dropClaims ..)).modGang ..) ?_).modGang ..
  rintro ⟨s, p⟩ h ⟨k, kind, d, ga, gb, fair, groups, chg⟩ -
  dsimp only
  split
  · exact h.modThread ..
  · split
    · exact modThread h ..
    · exact modThread h ..

theorem raiseAll (gi code : Nat) (addr : Word) : (s.raiseAll gi code addr).Canon := by
  unfold State.raiseAll
  dsimp only
  split
  · rename_i u e
    refine foldl (fun _ _ h => h.raiseAt ..) _ ?_
    refine List.foldlRecOn (motive := fun o : Option State => ∀ u, o = some u → u.Canon) _ _ ?_ ?_ u e
    · rintro _ ⟨⟩
      exact h
    · intro o ho k _ u e
      obtain ⟨v, rfl, e⟩ := Option.bind_eq_some_iff.1 e
      exact (ho v rfl).performFlight e
  · exact h

theorem settleTask (gi : Nat) : (s.settleTask gi).Canon := by
  have hnone {c : Bool} : (if c then s.modGang gi fun g => { g with panel := none } else s).Canon := by
    split
    · exact h.modGang ..
    · exact h
  unfold State.settleTask
  dsimp only
  split
  · exact h.answerAll ..
  · split
    · split
      · exact hnone.answerAll ..
      · split
        · split
          · split
            · exact h
            · exact h.raiseAll ..
          · exact ((((h.readDwords ‹_›).modGang ..).modGang ..).modLaunch ..).answerAll ..
        · exact (h.modGang ..).answerAll ..
    · split
      · split
        · exact (h.modGang ..).answerAll ..
        · split
          · split
            · exact h
            · exact h.raiseAll ..
          · exact ((((h.readDwords ‹_›).modLaunch ..).modGang ..).modLaunch ..).answerAll ..
      · exact h.answerAll ..

theorem trySettle (gi : Nat) : (s.trySettle gi).Canon := by
  unfold State.trySettle
  dsimp only
  split
  · split
    · exact h.applyGrant _
    · exact h
  · split
    · exact h
    · split
      · exact h.settleTask _
      · split
        · exact h
        · split
          · exact h.raiseAll ..
          · split
            · exact (h.settleGrant ..).applyGrant _
            · exact h.settleGrant ..

/-! The memory forms of the vector side. -/

theorem indexSource (u : Option Tag) (form : AddrForm) (b : BitVec 6) :
    GivesCanon Prod.snd (s.indexSource u form b) :=
  .ite (.bind (h.vsource _ _) fun _ h => .after fun _ => .pure h) (.ok h)

theorem trimmed (form : AddrForm) (t : Tag) (base opb : Word) (n : Nat) : (s.trimmed form t base opb n).2.Canon := by
  unfold State.trimmed
  dsimp only
  split
  · exact h.setMe _
  · exact h

theorem pushLoad (form : AddrForm) (d b : BitVec 6) (base opb : Word) (tag : Option Tag) (arr ff sl m : Bool) :
    GivesCanon id (s.pushLoad form d b base opb tag arr ff sl m) := by
  unfold State.pushLoad
  exact h.form _ _ fun _ => .bind (h.indexSource _ _ _) fun _ h => .after fun _ => .after fun _ => .after fun _ =>
    .after fun _ => (h.trimmed ..).pushVec _

theorem pushStore (form : AddrForm) (d b : BitVec 6) (base opb : Word) (nt m : Bool) :
    GivesCanon id (s.pushStore form d b base opb nt m) := by
  unfold State.pushStore
  extract_lets index fs k
  have hk (u : Option Tag) : GivesCanon id (k u) := .bind (h.vsource _ _) fun _ h =>
    .bind (h.indexSource _ _ _) fun _ h => .after fun _ => .after fun _ => (h.trimmed ..).pushVec _
  exact .ite (.after fun _ => hk _) (h.form _ _ hk)

theorem pushFar (d b : BitVec 6) (base desc : Word) (m : Bool) : GivesCanon id (s.pushFar d b base desc m) := by
  unfold State.pushFar
  refine h.form _ _ fun u => ?_
  split
  · exact .illop
  · exact .after fun _ => .bind (h.indexSource _ _ _) fun _ h => .after fun _ => h.pushVec _

theorem pushWin (ga gb : Word) : GivesCanon id (s.pushWin ga gb) := by
  unfold State.pushWin
  exact .after fun _ => .ite .error (.ite .error ((h.setMe _).pushVec _))

theorem pushWacc (a b : BitVec 6) (m : Bool) : GivesCanon id (s.pushWacc a b m) := by
  unfold State.pushWacc
  exact .after fun _ => .after fun _ => h.form _ _ fun _ => .bind (h.vsources ..) fun _ h => .after fun _ => h.pushVec _

theorem pushCmdb (e : Engine) (d a : BitVec 6) (m : Bool) : GivesCanon id (s.pushCmdb e d a m) := by
  unfold State.pushCmdb
  exact .after fun _ => .after fun _ => h.pushVec _

theorem pushSow (f : SowFn) (t : Tag) (d a b : BitVec 6) (m : Bool) : GivesCanon id (s.pushSow f t d a b m) := by
  unfold State.pushSow
  exact h.form _ _ fun _ => .after fun _ => .bind (h.vsource _ _) fun _ h => .after fun _ => h.pushVec _

/-! The matrix forms. -/

theorem pushMatrix (r : VRec) : GivesCanon id (s.pushMatrix r) := .after fun _ => .ok (h.setMe _)

theorem pushMma (d a b : Nat) (scaled first narrow nb na : Bool) :
    GivesCanon id (s.pushMma d a b scaled first narrow nb na) := by
  unfold State.pushMma
  refine .after fun _ => .after fun _ => .after fun _ => ?_
  dsimp only
  split
  · exact .illop
  · refine .after fun _ => .after fun _ => .after fun _ => pushMatrix ?_ _
    split
    · exact h
    · exact h.modTile ..

theorem pushMove (op : VOp) (d : Nat) (ga gb : Word) : GivesCanon id (s.pushMove op d ga gb) := by
  unfold State.pushMove
  refine .after fun _ => .after fun _ => .ite .error (.after fun _ => .ite .error ?_)
  split
  · exact .ite (.after fun _ => h.pushMatrix _) .error
  · exact .error

theorem pushRow (add : Bool) (a b : BitVec 6) : GivesCanon id (s.pushRow add a b) := by
  unfold State.pushRow
  exact .after fun _ => .after fun _ => h.pushMatrix _

end State.Canon

namespace NextCanon
variable {s t : State} (h : s.Canon)
include h

/-! The vector forms, by who issues them, and the forms that wait. -/

theorem both {r : Push State} (hr : GivesCanon id r) : NextCanon (s.both r) := agent (ite (illop h) (h.pushOut hr))
theorem execute {r : Push State} (hr : GivesCanon id r) : NextCanon (s.execute r) := hart h (ite (illop h) (h.pushOut hr))
theorem accessPush {r : Push State} (hr : GivesCanon id r) : NextCanon (s.access (s.pushOut r)) :=
  access h (h.pushOut hr)

theorem join (kind : Nat) (d : BitVec 6) (ga gb : Word) : NextCanon (s.join kind d ga gb) := by
  refine ite (illop h) ?_
  split
  · exact next ((h.setMe _).trySettle _)
  · exact illop h

theorem vsetvl (d a b : BitVec 6) : NextCanon (execVsetvl d a b s) := hart h (ite (join h ..) (illop h))

theorem vsetvlP (d a b : BitVec 6) : NextCanon (execVsetvlP d a b s) := hart h (ite (join h ..) (illop h))

theorem allocFrom (va : Word) {k : Alloc → Out} (hk : ∀ x, NextCanon (k x)) : NextCanon (s.allocFrom va k) := by
  unfold State.allocFrom
  split
  · exact hk _
  · exact trapWith h _

theorem sowload (a : BitVec 6) : NextCanon (execSowload a s) := by
  refine hart h (afterVector h fun t h => accessIn h _ _ _ _ fun t p h => ?_)
  dsimp only
  split
  · exact stallFor (h.setMe _) _
  · have h := ((h.setMe (·.closeSlice 0)).noteRead (t.setMe (·.closeSlice 0)).who p 8).chargeAt
      (t.setMe (·.closeSlice 0)).who.gang p 8
    exact ite (illop h) (done (h.cores _) _)

theorem spalloc (d a b : BitVec 6) : NextCanon (execSpalloc d a b s) := by
  refine hart h (ite (retWith h ..) ?_)
  split
  · exact retWith h ..
  · exact retWith (h.modGang ..) ..

theorem spfree (a : BitVec 6) : NextCanon (execSpfree a s) := by
  refine hart h (allocFrom h _ fun x => afterVector h fun t h => ?_)
  dsimp only
  split
  · exact trapXfer h _
  · exact ite (stallFor h _) (ret (h.modGang ..))

theorem sprenew (d a : BitVec 6) : NextCanon (execSprenew d a s) := by
  refine hart h (allocFrom h _ fun x => afterVector h fun t h => ?_)
  dsimp only
  split
  · exact ite (trapXfer h _) (stallFor h _)
  · exact retWith (h.modGang ..) ..

theorem spage (d a : BitVec 6) : NextCanon (execSpage d a s) := hart h (allocFrom h _ fun _ => retWith h ..)

theorem qdrain (a : BitVec 6) : NextCanon (execQdrain a s) :=
  agent (ite (illop h) (ite (h.pushOut (h.pushVec _)) (ite (ret h) (stallFor h _))))

theorem vfence (sc k : BitVec 3) : NextCanon (execVfence sc k s) := by
  refine both h (.bind (h.pushVec _) fun t h => .pure ?_)
  split
  · exact State.Canon.setMe h _
  · exact h

theorem mwait : NextCanon (execMwait s) := hart h (ite (illop h) (ite (ret h) (stallFor h _)))

end NextCanon

end Sys2Proof.Machine
end

section
/-! Memory in canonical form: the write-combining buffers, and the steps of the queues' records (R53, R120, R137, R228,
R274). The stores of an element, the fold of a merge and the step of an MST write bytes; every other step changes the gang
alone. -/

namespace Sys2Proof.Machine

/-- The states that a step of a memory record, or the load of one element, gives have memory in canonical form. -/
def MemStep.Canon : MemStep → Prop
  | .ok s _ | .cut s _ _ | .stop s => s.Canon

@[inherit_doc MemStep.Canon]
def ElemLoad.Canon : ElemLoad → Prop
  | .got s _ | .wait s => s.Canon
  | .fails _ | .behind _ => True

/-- A check that passes or ends the step leaves memory in canonical form; `f` is the state among what it gives. -/
def LeavesCanon {α : Type} (f : α → State) : Except State α → Prop
  | .ok x => (f x).Canon
  | .error s => s.Canon

namespace LeavesCanon
variable {α : Type} {f : α → State} {p : Except State α} (h : LeavesCanon f p)
include h

theorem of_ok {x : α} (e : p = .ok x) : (f x).Canon := by
  subst e
  exact h

theorem of_error {s : State} (e : p = .error s) : s.Canon := by
  subst e
  exact h

end LeavesCanon

namespace MemStep.Canon
variable {m : MemStep} (h : m.Canon) {s : State} {w : Written} {i : Nat}
include h

theorem of_ok (e : m = .ok s w) : s.Canon := by
  subst e
  exact h
theorem of_cut (e : m = .cut s w i) : s.Canon := by
  subst e
  exact h
theorem of_stop (e : m = .stop s) : s.Canon := by
  subst e
  exact h

end MemStep.Canon

namespace ElemLoad.Canon
variable {m : ElemLoad} (h : m.Canon) {s : State} {v : Nat}
include h

theorem of_got (e : m = .got s v) : s.Canon := by
  subst e
  exact h
theorem of_wait (e : m = .wait s) : s.Canon := by
  subst e
  exact h

end ElemLoad.Canon

namespace State.Canon
variable {s t : State} (h : s.Canon)
include h

/-! The entries of a write-combining buffer. -/

theorem performEntry (a : Agent) (k : Nat) : (s.performEntry a k).Canon := by
  grind [State.performEntry, chargeAt, modThread, finishLaunch, iff_mk, State.Canon, Memory.wf_writeBytes]

theorem performSome {a : Agent} (e : s.performSome a = some t) : t.Canon := by
  obtain ⟨k, -, rfl⟩ := Option.map_eq_some_iff.1 e
  exact h.performEntry ..

omit h in
theorem drainAll (a : Agent) (which : WcEntry → Bool) (n : Nat) : ∀ {s : State}, s.Canon → (s.drainAll a which n).Canon := by
  induction n with
  | zero => exact fun h => h
  | succ n ih =>
    intro s h
    unfold State.drainAll
    dsimp only
    split
    · exact ih (h.performEntry ..)
    · exact h

theorem closeVector (a : Agent) : (s.closeVector a).Canon := h.modThread ..

omit h in
theorem storeDraining {a : Agent} {put : State → Option State} (hp : ∀ {s t : State}, s.Canon → put s = some t → t.Canon)
    (n : Nat) : ∀ {s t : State}, s.Canon → s.storeDraining a put n = some t → t.Canon := by
  induction n with
  | zero => exact fun h e => hp h e
  | succ n ih =>
    intro s t h e
    unfold State.storeDraining at e
    split at e
    · cases e
      exact hp h ‹_›
    · split at e
      · exact ih (h.performSome ‹_›) e
      · cases e

theorem timeoutEntry (a : Agent) (k : Nat) : (s.timeoutEntry a k).Canon := h.modThread ..

/-! Element groups. -/

theorem raiseVec (a : Agent) (r : VRec) (k elem code : Nat) (addr : Word) (acc : Nat) :
    (s.raiseVec a r k elem code addr acc).Canon := by
  have hd (n : Nat) := drainAll a (·.ofVector a) n ((h.modRec a r.seq fun r => { r.afresh with stuck := true }).closeVector a)
  unfold State.raiseVec
  dsimp only
  split
  · exact (hd _).modThread ..
  · exact (hd _).modThread ..

theorem raiseFpx (a : Agent) (r : VRec) (k elem : Nat) : (s.raiseFpx a r k elem).Canon :=
  ((h.modThread ..).modRec ..).raiseVec ..

theorem commit (a : Agent) (r : VRec) (k : Nat) (w : Written) : (s.commit a r k w).Canon :=
  ((h.modGang ..).modThread ..).modRec ..

theorem deliver (a : Agent) (seq : Nat) : (s.deliver a seq).Canon := h.modThread ..

theorem completeOldest {a : Agent} (e : s.completeOldest a = some t) : t.Canon := by
  grind [State.completeOldest, modGang, modThread]

omit h in
theorem completeAll (a : Agent) (n : Nat) : ∀ {s : State}, s.Canon → (s.completeAll a n).Canon := by
  induction n with
  | zero => exact fun h => h
  | succ n ih =>
    intro s h
    unfold State.completeAll
    split
    · exact ih (h.completeOldest ‹_›)
    · exact h

theorem raiseHeld (a : Agent) (r : VRec) (x : Xfer) : (s.raiseHeld a r x).Canon := (h.modRec ..).modThread ..

theorem waitFor (a : Agent) (r : VRec) (x : Xfer) : (s.waitFor a r x).Canon := by
  grind [State.waitFor, raiseHeld]

/-! Steps of the memory forms. -/

omit h in
theorem loadRuns (a : Agent) (slice : Nat) (arr first : Bool) (va : Word) (al : Nat) (l : List (Nat × Nat × Nat)) :
    ∀ {s : State} (shift v : Nat), s.Canon → (s.loadRuns a slice arr first va al l shift v).Canon := by
  induction l with
  | nil => exact fun _ _ h => h
  | cons x l ih =>
    intro s shift v h
    unfold State.loadRuns
    split
    · trivial
    · have hp := h.place ‹_›
      split
      · trivial
      · split
        · trivial
        · dsimp only
          split
          · exact hp.modThread ..
          · exact ih _ _ ((hp.modThread ..).noteRead ..)

theorem loadElem (a : Agent) (r : VRec) (form : AddrForm) (arr first : Bool) (i : Nat) :
    (s.loadElem a r form arr first i).Canon := loadRuns _ _ _ _ _ _ _ _ _ h

omit h in
theorem loadElems (a : Agent) (r : VRec) (form : AddrForm) (arr ff : Bool) (k : Nat) (first : Bool) (is : List Nat) :
    ∀ {s : State} (w : Written), s.Canon → (s.loadElems a r form arr ff k first is w).Canon := by
  induction is with
  | nil => exact fun _ h => h
  | cons i is ih =>
    intro s w h
    have he := h.loadElem a r form arr first i
    unfold State.loadElems
    split
    · exact ih w h
    · split
      · exact ih _ h
      · split
        · split
          · exact h
          · exact h.raiseVec ..
        · exact h.waitFor ..
        · exact he.of_wait ‹_›
        · exact ih _ (he.of_got ‹_›)

theorem memFirst (a : Agent) (r : VRec) (form : AddrForm) (acc : Nat) : (s.memFirst a r form acc).Canon := by
  unfold State.memFirst
  split
  · exact h.raiseVec ..
  · split
    · exact h.raiseVec ..
    · split
      · exact h.modRec ..
      · exact h

theorem beginEntry {a : Agent} {r : VRec} (e : s.beginEntry a r = some t) : t.Canon := by
  grind [State.beginEntry, modGang, modRec]

/-- The checks at the first step, and nothing at a later one. -/
theorem firstStep (a : Agent) (r : VRec) (form : AddrForm) (acc k : Nat) :
    (if k = 0 then s.memFirst a r form acc else .ok s []).Canon := by
  split
  · exact h.memFirst ..
  · exact h

theorem loadStep (a : Agent) (r : VRec) (form : AddrForm) (arr ff : Bool) (k : Nat) :
    (s.loadStep a r form arr ff k).Canon := by
  have hf := h.firstStep a r form 0 k
  unfold State.loadStep
  dsimp only
  split
  · exact hf.of_stop ‹_›
  · exact hf.of_cut ‹_›
  · have hl (r : VRec) (first : Bool) := loadElems a r form arr ff k first (r.elems k) [] (hf.of_ok ‹_›)
    split
    · exact (hl _ _).of_stop ‹_›
    · exact ((hl _ _).of_ok ‹_›).commit ..
    · exact (((hl _ _).of_cut ‹_›).commit ..).modRec ..

omit h in
theorem takeElems {a : Agent} {r : VRec} {form : AddrForm} {arr : Bool} (is : List Nat) :
    ∀ {s t : State} {vs : List (Nat × BitVec 64)}, s.Canon → s.takeElems a r form arr is = some (vs, t) → t.Canon := by
  induction is with
  | nil =>
    rintro s t vs h ⟨⟩
    exact h
  | cons i is ih =>
    intro s t vs h e
    have he := h.loadElem a r form arr (s.windowed a r form) i
    unfold State.takeElems at e
    split at e
    · obtain ⟨x, hx, e⟩ := Option.map_eq_some_iff.1 e
      cases e
      exact ih (he.of_got ‹_›) hx
    · cases e

theorem loadEarly (a : Agent) (seq i : Nat) : (s.loadEarly a seq i).Canon := by
  unfold State.loadEarly
  dsimp only
  split
  · exact h
  · split
    · refine iteInduction (motive := State.Canon) (fun _ => h) fun _ => ?_
      split
      · exact (takeElems _ h ‹_›).modRec ..
      · exact h
    · exact h

omit h in
theorem farPages (a : Agent) (n : Nat) : ∀ {s : State} (page : Nat), s.Canon → (s.farPages a page n).2.Canon := by
  induction n with
  | zero => exact fun _ h => h
  | succ n ih =>
    intro s page h
    unfold State.farPages
    dsimp only
    refine ih _ ?_
    split
    · exact h.translate ‹_›
    · exact h

omit h in
theorem farElems (a : Agent) (r : VRec) (nelem k : Nat) (pages : List Nat) (is : List Nat) :
    ∀ {s : State} (w : Written), s.Canon → (s.farElems a r nelem k pages is w).Canon := by
  induction is with
  | nil => exact fun _ h => h
  | cons i is ih =>
    intro s w h
    unfold State.farElems
    dsimp only
    split
    · exact ih w h
    · split
      · exact h.raiseVec ..
      · split
        · exact h.raiseVec ..
        · split
          · exact h
          · exact ih _ (h.noteRead ..)

theorem farStep (a : Agent) (r : VRec) (nelem k : Nat) : (s.farStep a r nelem k).Canon := by
  unfold State.farStep
  extract_lets t n go
  have hgo {s : State} (h : s.Canon) (pages : List Nat) : (go s pages).Canon := by
    have hf := farElems a r nelem k pages (r.elems k) [] h
    unfold go
    split
    · exact hf.of_stop ‹_›
    · exact hf.of_cut ‹_›
    · dsimp only
      split
      · exact ((hf.of_ok ‹_›).commit ..).modThread ..
      · exact (hf.of_ok ‹_›).commit ..
  split
  · exact hgo h _
  · split
    · exact h.raiseVec ..
    · split
      · exact h.waitFor ..
      · split
        · exact h
        · split
          · exact h.modThread ..
          · exact hgo (((farPages _ _ _ h).modRec ..).modThread ..) _

omit h in
theorem locatePieces {a : Agent} {r : VRec} {k : Nat} {first : Bool} (l : List Piece) :
    ∀ {s : State}, s.Canon → LeavesCanon Prod.snd (s.locatePieces a r k first l) := by
  induction l with
  | nil => exact fun h => h
  | cons x l ih =>
    intro s h
    unfold State.locatePieces
    dsimp only
    split
    · exact h.raiseVec ..
    · have hp := h.place ‹_›
      split
      · exact hp.waitFor ..
      · split
        · exact hp.raiseVec ..
        · split
          · exact (ih hp).of_error ‹_›
          · rename_i e
            have hl := (ih hp).of_ok e
            exact hl

theorem supersede (a : Agent) (r : VRec) (i : Nat) (p : Place) (n : Nat) : (s.supersede a r i p n).Canon := by
  unfold State.supersede
  dsimp only
  split
  · exact h.modThread ..
  · exact h

omit h in
theorem storePieces {a : Agent} {r : VRec} {nt : Bool} {sq : Option Nat} {runs : List (Nat × Nat × Nat)}
    (l : List (Piece × Place)) : ∀ {s t : State}, s.Canon → s.storePieces a r nt sq runs l = some t → t.Canon := by
  induction l with
  | nil =>
    rintro s t h ⟨⟩
    exact h
  | cons x l ih =>
    intro s t h e
    have hs (c : Bool) (i : Nat) (p : Place) (n : Nat) : (if c then s.supersede a r i p n else s).Canon := by
      split
      · exact h.supersede ..
      · exact h
    unfold State.storePieces at e
    dsimp only at e
    split at e
    · refine ih (storeDraining ?_ _ (hs ..) ‹_›) e
      intro s t h e
      grind [storeAt, storeSome]
    · cases e

theorem storeStep (a : Agent) (r : VRec) (form : AddrForm) (nt : Bool) (k : Nat) :
    (s.storeStep a r form nt k).Canon := by
  have hf := h.firstStep a r form 1 k
  unfold State.storeStep
  dsimp only
  split
  · exact hf.of_stop ‹_›
  · exact hf.of_cut ‹_›
  · have hs := hf.of_ok ‹_›
    refine iteInduction (motive := State.Canon) (fun _ => hs) fun _ => ?_
    split
    · exact (locatePieces _ hs).of_error ‹_›
    · split
      · exact (locatePieces _ hs).of_ok ‹_›
      · have hp := storePieces _ ((locatePieces _ hs).of_ok ‹_›) ‹_›
        refine commit (modRec ?_ ..) ..
        split
        · exact hp.modGang ..
        · exact hp

theorem waccStep (a : Agent) (r : VRec) (k : Nat) : (s.waccStep a r k).Canon := by
  grind [State.waccStep, modThread, raiseVec, raiseFpx, modGang, commit]

theorem winStep (a : Agent) (r : VRec) : (s.winStep a r).Canon := by
  grind [State.winStep, raiseVec, waitFor, modGang, commit]

theorem mergeStep (a : Agent) (r : VRec) : (s.mergeStep a r).Canon := by
  grind [State.mergeStep, raiseVec, waitFor, modThread, modGang, commit]

theorem foldOne (a : Agent) (x : Xfer) : (s.foldOne a x).Canon := by
  unfold State.foldOne
  extract_lets put
  have hput {s : State} (h : s.Canon) (f : Xfer → Xfer) : (put s f).Canon := h.modThread ..
  split
  · dsimp only
    split
    · exact h
    · split
      · split
        · exact h.modThread ..
        · exact h
      · split
        · exact hput h _
        · have hl := h.locate ‹_›
          refine iteInduction (motive := State.Canon) (fun _ => hl) fun _ => ?_
          split
          · split
            · exact ⟨hl.mem, hl.store⟩
            · exact hl
          · exact hput ((hl.pokeAt ..).chargeAt ..) _
  · exact h

theorem lsyncStep (a : Agent) (r : VRec) : (s.lsyncStep a r).Canon := by
  grind [State.lsyncStep, modThread, commit]

theorem fenceStep (a : Agent) (r : VRec) (scope kind : Nat) : (s.fenceStep a r scope kind).Canon := by
  grind [State.fenceStep, modThread, raiseHeld, commit]

/-! Steps of the records that compute. -/

theorem commitOr (a : Agent) (r : VRec) (k : Nat) (w : Written) : (s.commitOr a r k w).Canon := by
  grind [State.commitOr, raiseFpx, commit]

theorem stepDims {a : Agent} {r : VRec} {k : Nat} {v : List (BitVec 32)} (e : s.stepDims a r k = .ok (v, t)) : t.Canon := by
  grind [State.stepDims, dimension]

theorem computeStep (a : Agent) (r : VRec) (k : Nat) : (s.computeStep a r k).Canon := by
  unfold State.computeStep
  extract_lets g t
  split
  · exact h.raiseVec ..
  · exact h.waitFor ..
  · exact h.modThread ..
  · have hd := h.stepDims ‹_›
    split
    · exact (hd.modRec ..).commit ..
    · exact (hd.modRec ..).commit ..
    · exact iteInduction (motive := State.Canon) (fun _ => hd.raiseFpx ..) fun _ => (hd.modRec ..).commit ..
    · exact hd.commit ..
    · exact hd.commit ..
    · exact iteInduction (motive := State.Canon) (fun _ => hd.raiseFpx ..) fun _ => (hd.modRec ..).commit ..
    · exact hd.commit ..
    · exact hd.commit ..
    · exact hd.commit ..
    · exact hd.commit ..
    · exact hd.commit ..
    · dsimp only
      split
      · exact hd.raiseFpx ..
      · split
        · exact (hd.modRec ..).commit ..
        · exact hd.commit ..
    · refine commitOr ?_ ..
      exact iteInduction (motive := State.Canon) (fun _ => hd.modRec ..) fun _ => hd

/-! Units of the matrix records. -/

theorem unitDone (a : Agent) (m : VRec) : (s.unitDone a m).Canon := h.modThread ..

theorem raiseMatrix (a : Agent) (m : VRec) (elem code : Nat) (addr : Word) (acc : Nat) :
    (s.raiseMatrix a m elem code addr acc).Canon := (h.modMatrix ..).modThread ..

theorem slotPlace (a : Agent) (m : VRec) (acc : Acc) (x : Nat × Nat) :
    LeavesCanon (fun _ => s) (s.slotPlace a m acc x) := by
  unfold State.slotPlace
  dsimp only
  split
  · exact h.raiseMatrix ..
  · split
    · exact h.raiseMatrix ..
    · exact h

theorem readSlots (a : Agent) (m : VRec) (l : List (Nat × Nat)) :
    ∀ d, LeavesCanon (fun _ => s) (s.readSlots a m l d) := by
  induction l with
  | nil => exact fun _ => h
  | cons x l ih =>
    intro d
    unfold State.readSlots
    split
    · exact (h.slotPlace ..).of_error ‹_›
    · exact ih _

theorem checkSlots (a : Agent) (m : VRec) (l : List (Nat × Nat)) : LeavesCanon (fun _ => s) (s.checkSlots a m l) := by
  induction l with
  | nil => exact h
  | cons x l ih =>
    unfold State.checkSlots
    split
    · exact (h.slotPlace ..).of_error ‹_›
    · split
      · exact ih.of_error ‹_›
      · exact h

theorem writeSlots (a : Agent) (x : Tile) (ps : List (Place × Nat)) : (s.writeSlots a x ps).Canon :=
  foldl (fun _ _ h => h.pokeAt ..) _ h

theorem raiseBehind (a : Agent) (m : VRec) (x : Xfer) : (s.raiseBehind a m x).Canon := (h.modMatrix ..).modThread ..

theorem startTile (a : Agent) (m : VRec) : (s.startTile a m).Canon := by
  unfold State.startTile
  split
  · exact h
  · split
    · exact h.modGang ..
    · exact h
  · exact h

theorem matrixUnit (a : Agent) : (s.matrixUnit a).Canon := by
  unfold State.matrixUnit
  dsimp only
  split
  · exact h
  · rename_i m l _
    have hs : (if ((s.thread? a).getD .empty).frz || m.stuck then s else s.startTile a m).Canon := by
      split
      · exact h
      · exact h.startTile ..
    refine iteInduction (motive := State.Canon) (fun _ => hs) fun _ => ?_
    split
    · exact hs.modThread ..
    · split
      · exact hs.raiseBehind ..
      · split
        · split
          · exact hs.raiseMatrix ..
          · split
            · exact hs.raiseMatrix ..
            · split
              · exact (modGang (hs.modMatrix ..) ..).unitDone ..
              · exact (hs.modGang ..).unitDone ..
              · exact (hs.modGang ..).unitDone ..
              · split
                · exact (hs.readSlots ..).of_error ‹_›
                · exact (hs.modGang ..).unitDone ..
              · split
                · exact (hs.checkSlots ..).of_error ‹_›
                · exact ((hs.writeSlots ..).modGang ..).unitDone ..
              · exact hs
        · exact hs

end State.Canon

end Sys2Proof.Machine
end

section
/-! Memory in canonical form: transfers, collectives, and the acceptance of launches (R129, R244, R262 to R271, R419,
R420). A sector of a copy, its completion word, and the status word of a ring's entry are the bytes they write. -/

namespace Sys2Proof.Machine

namespace State.Canon
variable {s t : State} (h : s.Canon)
include h

theorem freeXfer (a : Agent) (x : Nat) : (s.freeXfer a x).Canon := h.modThread ..

theorem cmdbStep (a : Agent) (r : VRec) (k : Nat) {answer : State → VRec → Nat → List Word → CmdAnswer × State}
    (hans : ∀ {s : State}, s.Canon → ∀ r j w, (answer s r j w).2.Canon) : (s.cmdbStep a r k answer).Canon := by
  have hfinish {s : State} (h : s.Canon) (out : List (Nat × BitVec 64)) :
      (if out.length = (r.elems k).length then
        (s.modRec a r.seq fun r => { r with out := [] }).commit a { r with out := [] } k (out.map fun x => (x.1, x.2, 0))
      else s.modRec a r.seq fun r => { r with out := out }).Canon := by
    split
    · exact (h.modRec ..).commit ..
    · exact h.modRec ..
  unfold State.cmdbStep
  extract_lets t finish
  split
  · exact hfinish h _
  · extract_lets record
    split
    · exact hfinish h _
    · rename_i j _ _
      have ha := hans h r j (commandWords t r j)
      split
      · rename_i e
        rw [e] at ha
        exact hfinish ha _
      · rename_i e
        rwa [e] at ha
      · rename_i e
        rw [e] at ha
        extract_lets runs
        split
        · exact h
        · split
          · exact h.waitFor ..
          · split
            · exact h
            · split
              · exact h.modThread ..
              · exact hfinish (modThread ha ..) _

theorem copySector (a : Agent) (i : Nat) (x : Xfer) (c : CopyCmd) (o : Nat) : (s.copySector a i x c o).Canon := by
  have hstop {s : State} (h : s.Canon) (e : MemErr) (acc : Nat) : (if o = x.row * c.perRow + x.sect then
      s.modXfer a i fun x => { x with fault := some (e.code, e.addr, acc) } else s).Canon := ite (h.modXfer ..) h
  unfold State.copySector
  dsimp only
  split
  · exact ite h (hstop h ..)
  · rename_i v u e
    have hu : u.Canon := by
      split at e
      · cases e
        exact h
      · split at e
        · cases e
        · split at e
          · cases e
          · cases e
            exact ((h.locate ‹_›).noteRead ..).chargeAt ..
    split
    · exact hstop hu ..
    · rename_i p w _
      have hw := hu.locate ‹_›
      have hl := ((hw.pokeAt a p 32 v).chargeAt a.gang p 32).modXfer a i (·.land c o)
      refine ite hw ?_
      split
      · split
        · exact hl.modGang ..
        · exact hl
      · exact hl

theorem copyStep (a : Agent) (i bank : Nat) : (s.copyStep a i bank).Canon := by
  unfold State.copyStep
  split
  · split
    · refine ite h ?_
      extract_lets lo u
      have hu : u.Canon := by
        unfold u
        split
        · exact h.copySector ..
        · exact h
      split
      · split
        · split
          · exact hu.freeXfer ..
          · exact hu.modXfer ..
        · exact hu
      · exact hu
    · exact h
  · exact h

theorem copyDone (a : Agent) (i : Nat) : (s.copyDone a i).Canon := by
  unfold State.copyDone
  split
  · split
    · split
      · exact h
      · split
        · exact h.modXfer ..
        · have hl := h.locate ‹_›
          split
          · exact hl
          · exact ((hl.pokeAt ..).chargeAt ..).freeXfer ..
    · exact h
  · exact h

theorem accessStep (a : Agent) (x : Access) : (s.accessStep a x).Canon := by
  unfold State.accessStep
  split
  · exact h.performEntry ..
  · split
    · split
      · exact h.foldOne ..
      · exact h
    · exact h
  · split
    · exact h.loadEarly ..
    · exact h
  · split
    · cases e : s.performFlight a with
      | none => exact h
      | some t => exact h.performFlight e
    · exact h

theorem chargeUnit (a : Agent) (t : Thread) : (s.chargeUnit a t).Canon := by
  unfold State.chargeUnit
  split
  · exact h
  · dsimp only
    split
    · exact ite (h.charge ..) h
    · exact ite (h.charge ..) h
    · exact ite (h.charge ..) h
    · exact h

/-! Collectives. -/

theorem endSeries (gi : Nat) : (s.endSeries gi).Canon := by
  unfold State.endSeries
  dsimp only
  split
  · exact h
  · exact (h.modPart ..).modGang ..

theorem writeCgroup (gi gidx : Nat) : (s.writeCgroup gi gidx).Canon := (h.endSeries gi).modGang ..

theorem acceptChunk (part : Nat) (c : Chunk) : (s.acceptChunk part c).Canon := by
  unfold State.acceptChunk
  dsimp only
  split
  · exact h.breakGroup ..
  · exact h.modPart ..

theorem pushAstCl (d : BitVec 6) : GivesCanon id (s.pushAstCl d) := by
  unfold State.pushAstCl
  refine .after fun _ => .bind (h.vsource _ _) fun _ h => ?_
  dsimp only
  split
  · exact .error
  · exact (h.modGang ..).pushVec _

theorem collRaise (a : Agent) (r : VRec) (code : Nat) : (s.collRaise a r code).Canon := (h.raiseVec ..).modRec ..

theorem contributeStep (a : Agent) (r : VRec) : (s.contributeStep a r).Canon := by
  unfold State.contributeStep
  dsimp only
  split
  · exact h
  · refine ite h ?_
    split
    · exact h.collRaise ..
    · exact ((ite (h.modGang ..) h).acceptChunk ..).commit ..

theorem pushAldCl (d : BitVec 6) : GivesCanon id (s.pushAldCl d) := by
  unfold State.pushAldCl
  refine .after fun _ => ?_
  dsimp only
  split
  · refine .ite .error ?_
    split
    · exact .error
    · exact (h.modGang ..).pushVec _
  · exact .illop

theorem receiveStep (a : Agent) (r : VRec) : (s.receiveStep a r).Canon := by
  unfold State.receiveStep
  dsimp only
  split
  · exact h
  · refine ite ?_ (ite ((h.modThread ..).modRec ..) (ite (h.collRaise ..) (ite h (ite h ((h.modThread ..).modGang ..)))))
    split
    · exact h.collRaise ..
    · exact (h.modGang ..).modRec ..

theorem deliverResults (part gidx k : Nat) : (s.deliverResults part gidx k).Canon :=
  foldl (fun _ _ h => h.gangs _) _ (h.modPart ..)

theorem formChunk (part : Nat) (e : GroupEntry) (k : Nat) : (s.formChunk part e k).Canon := by
  unfold State.formChunk
  dsimp only
  split
  · exact h
  · split
    · split
      · exact h.modPart ..
      · exact h
    · exact h.modPart ..
    · exact ite (h.modPart ..) h

/-! Launches and rings. -/

theorem submitWords {part : Nat} {super : Bool} {va v : Word} {w : List Word}
    (e : s.submitWords part super va w = some (v, t)) : t.Canon := by
  grind [State.submitWords, iff_mk, State.Canon]

theorem submitRing {part : Nat} {super : Bool} {va v : Word} (e : s.submitRing part super va = some (v, t)) : t.Canon := by
  grind [State.submitRing, submitWords]

/-- The status of a ring's entry is a write of eight bytes. -/
theorem serveEntry {part : Nat} {super : Bool} (e : s.serveEntry part super = some t) : t.Canon := by
  have hskip (f g : PartSt → PartSt) := (h.modPart part f).modPart part g
  unfold State.serveEntry at e
  dsimp only at e
  split at e
  · split at e
    · cases e
    · cases e
      exact hskip ..
  · split at e
    · cases e
      exact hskip ..
    · split at e
      · cases e
        exact hskip ..
      · split at e
        · cases e
        · obtain ⟨x, hx, rfl⟩ := Option.map_eq_some_iff.1 e
          have hs := h.submitRing (t := x.2) hx
          exact modPart (s := { x.2 with mem := _ }) ⟨Memory.wf_write hs.mem, hs.store⟩ ..

omit h in
theorem serveRing (part : Nat) (super : Bool) (n : Nat) : ∀ {s : State}, s.Canon → (s.serveRing part super n).Canon := by
  induction n with
  | zero => exact fun h => h
  | succ n ih =>
    intro s h
    unfold State.serveRing
    split
    · exact h
    · split
      · exact ih (h.serveEntry ‹_›)
      · exact h

theorem serveRings (part : Nat) : (s.serveRings part).Canon := serveRing _ _ _ (serveRing _ _ _ h)

theorem doorbell (part : Nat) (super : Bool) (tail : BitVec 16) : (s.doorbell part super tail).Canon :=
  ite (ite (serveRing _ _ _ (h.modPart ..)) (h.modPart ..)) h

theorem raiseEvent (part : Nat) (bit : BitVec 3) : (s.raiseEvent part bit).Canon := h.gangs _

end State.Canon

namespace NextCanon
variable {s t : State} (h : s.Canon)
include h

theorem matrixUnitCompletion (ag : Agent) (ord : Nat) : NextCanon (execMatrixUnitCompletion ag ord s) := by
  exact next (.ite (((h.matrixUnit ag).chargeUnit ..).modCore ..) h)

theorem chunkResult (p gidx chunk : Nat) : NextCanon (execChunkResult p gidx chunk s) := by
  refine next (State.Canon.deliverResults ?_ ..)
  split
  · split
    · exact h
    · exact h.formChunk ..
  · exact h

theorem sq3Contribution (gang : Nat) : NextCanon (execSq3Contribution gang s) := by
  refine next ?_
  dsimp only
  split
  · exact h
  · split
    · exact h
    · split
      · exact ((h.acceptChunk ..).modGang ..).modGang ..
      · exact (h.modGang ..).modThread ..

theorem lq7Receive (gang : Nat) : NextCanon (execLq7Receive gang s) := by
  refine next ?_
  dsimp only
  split
  · exact h
  · split
    · exact h.modGang ..
    · exact h.modGang ..

theorem launch (d a : BitVec 6) : NextCanon (execLaunch d a s) := by
  refine hart h (ite (illop h) (afterRelease h (fun s h => ite (retWith h ..) ?_) _))
  split
  · exact ite (stallFor h _) (retWith h ..)
  · have hr := h.readDwords ‹_›
    split
    · exact retWith (hr.submitWords ‹_›) ..
    · exact stallFor hr _

theorem doorbellDbell (p : Nat) : NextCanon (execDoorbellDbell p s) := by
  refine next ?_
  split
  · exact h.raiseEvent ..
  · exact h

end NextCanon

end Sys2Proof.Machine
end

section
/-! Memory in canonical form: context images, and the placement, suspension and halt of gangs (R391, R392, R399, R421 to
R425). An image is written block by block, sealed with its CHECK, and later given its tiles and its kept allocations. -/

namespace Sys2Proof.Machine

theorem Memory.wf_putImageDwords (blocks : List Nat) (l : List Nat) :
    ∀ {m : Memory} (o : Nat), m.wf = true → (putImageDwords m blocks o l).wf = true := by
  induction l with
  | nil => exact fun _ h => h
  | cons v l ih => exact fun _ h => ih _ (Memory.wf_write h)

/-- The state that writing an image, or a suspension, gives has memory in canonical form. -/
def ImageResult.Canon : ImageResult → Prop
  | .written s _ => s.Canon
  | .small _ | .fault | .wait => True

@[inherit_doc ImageResult.Canon]
def Suspended.Canon : Suspended → Prop
  | .done s => s.Canon
  | .fails _ _ | .waits => True

@[inherit_doc ImageResult.Canon]
def AllSuspended.Canon : AllSuspended → Prop
  | .done s => s.Canon
  | .fails _ _ _ | .waits => True

theorem ImageResult.Canon.of_written {r : ImageResult} {s : State} {n : Nat} (h : r.Canon) (e : r = .written s n) : s.Canon := by
  subst e
  exact h

theorem Suspended.Canon.of_done {r : Suspended} {s : State} (h : r.Canon) (e : r = .done s) : s.Canon := by
  subst e
  exact h

theorem AllSuspended.Canon.of_done {r : AllSuspended} {s : State} (h : r.Canon) (e : r = .done s) : s.Canon := by
  subst e
  exact h

namespace State.Canon
variable {s t : State} (h : s.Canon)
include h

theorem withMem {m : Memory} (hm : m.wf = true) : ({ s with mem := m } : State).Canon := ⟨hm, h.store⟩
theorem withFree (n : Nat) : ({ s with free := n } : State).Canon := ⟨h.mem, h.store⟩
theorem withStamp (n : Nat) : ({ s with stamp := n } : State).Canon := ⟨h.mem, h.store⟩
theorem withCtx (l : List CtxCmd) : ({ s with ctx := l } : State).Canon := ⟨h.mem, h.store⟩

/-! Images. -/

theorem chargeBlocks (gi : Nat) (blocks : List Nat) : (s.chargeBlocks gi blocks).Canon :=
  foldl (fun _ _ h => h.chargeAt ..) _ h

theorem sealImage (harts : Nat) (blocks : List Nat) : (s.sealImage harts blocks).Canon := by
  unfold State.sealImage
  split
  · exact h
  · exact h.withMem (Memory.wf_write h.mem)

theorem writeImage (gi va lvl room sub : Nat) : (s.writeImage gi va lvl room sub).Canon := by
  have hm (c : Bool) (img : Memory) (n : Nat) (a b l : List Nat) : Memory.wf (if c then
      writeBlocks (writeBlocks s.mem img 0 a) img n b else writeBlocks s.mem img 0 l) = true := by
    split
    · exact Memory.wf_writeBlocks _ _ _ _ (Memory.wf_writeBlocks _ _ _ _ h.mem)
    · exact Memory.wf_writeBlocks _ _ _ _ h.mem
  unfold State.writeImage
  dsimp only
  split
  · trivial
  · split
    · trivial
    · split
      · trivial
      · exact (((h.withMem (hm ..)).withFree _).sealImage ..).chargeBlocks ..

theorem evictTiles (gi : Nat) : (s.evictTiles gi).Canon := by
  refine modGang ?_ ..
  split
  · exact h
  · exact ((h.withMem (Memory.wf_write (Memory.wf_writeBlocks _ _ _ _ h.mem))).sealImage ..).chargeBlocks ..

theorem wf_appendKept (g : Gang) (blocks : List Nat) : (s.appendKept g blocks).wf = true :=
  Memory.wf_putImageDwords _ _ _ (Memory.wf_putImageDwords _ _ _
    (Memory.wf_foldl (fun _ _ h => Memory.wf_putImageDwords _ _ _ h) _ _ (Memory.wf_writeBlocks _ _ _ _ h.mem)))

theorem evictKept (gi : Nat) : (s.evictKept gi).Canon := by
  refine modGang (ite h ?_) ..
  split
  · exact h
  · dsimp only
    split
    · exact (h.modGang ..).modGang ..
    · exact ((h.modGang ..).withMem ((h.modGang ..).wf_appendKept ..)).sealImage ..

/-! Placement. -/

omit h in
theorem makeRoom (x : Shape) (core : Nat) (l : List Nat) : ∀ {s : State}, s.Canon → (s.makeRoom x core l).Canon := by
  induction l with
  | nil => exact fun h => h
  | cons gi l ih =>
    intro s h
    have ht := ite (c := !s.tilesFit x core (s.othersLeft x core) && decide ((s.gangOf gi).tilesOn = some core))
      (h.evictTiles gi) h
    exact ih (ite (ht.evictKept gi) ht)

theorem chooseCore {x : Shape} {cores : List Nat} {c : Nat} (e : s.chooseCore x cores = some (c, t)) : t.Canon := by
  unfold State.chooseCore at e
  split at e
  · cases e
    exact h
  · split at e
    · cases e
      exact makeRoom _ _ _ h
    · cases e

theorem notePlaced (li : Nat) : (s.notePlaced li).Canon := h.modLaunch ..
theorem freshTables (core : Nat) (g : Gang) : (s.freshTables core g).Canon := h.modCore ..
theorem nextOrd : s.nextOrd.Canon := h.withStamp _
theorem answerCtx (gi op : Nat) (load : Bool) (v extra : Nat) : (s.answerCtx gi op load v extra).Canon := h.withCtx _

theorem placeNew (li k core ord : Nat) : (s.placeNew li k core ord).Canon := by
  unfold State.placeNew
  split
  · exact (((h.gangs _).freshTables ..).modLaunch ..).notePlaced _
  · exact h

omit h in
theorem restoreGroups (gi core : Nat) (l : List (Nat × Nat)) : ∀ {s : State}, s.Canon → (s.restoreGroups gi core l).Canon := by
  induction l with
  | nil => exact fun h => h
  | cons x l ih => exact fun h => ih (h.modCore ..)

theorem changeCore (gi core : Nat) : (s.changeCore gi core).Canon := by
  have ht := ite (c := (s.gangOf gi).tilesOn.isSome && decide ((s.gangOf gi).tilesOn ≠ some core)) (h.evictTiles gi) h
  exact ite ht (ht.modCore ..)

theorem resumeOn (gi core ord : Nat) (recs : List (List Word)) : (s.resumeOn gi core ord recs).Canon := by
  unfold State.resumeOn
  split
  · exact h
  · exact ((restoreGroups _ _ _ ((((h.changeCore ..).freePool _).modGang ..).freshTables ..)).answerCtx ..).notePlaced _

theorem resumeGang {gi core ord : Nat} {b : Bool} (e : s.resumeGang gi core ord = some (t, b)) : t.Canon := by
  unfold State.resumeGang at e
  split at e
  · cases e
  · cases e
    exact (h.answerCtx ..).killGang ..
  · cases e
    exact (h.resumeOn ..).chargeBlocks ..

theorem placeAmong {ord : Nat} {cores : List Nat} {p : Pending} {b : Bool} (e : s.placeAmong ord cores p = some (t, b)) :
    t.Canon := by
  unfold State.placeAmong at e
  split at e
  · cases e
  · split at e
    · cases e
    · have hc := h.chooseCore ‹_›
      split at e
      · cases e
        exact hc.placeNew ..
      · exact hc.resumeGang e

theorem placeOne {ord : Nat} {p : Pending} {b : Bool} (e : s.placeOne ord p = some (t, b)) : t.Canon := by
  unfold State.placeOne at e
  split at e
  · split at e
    · exact h.placeAmong e
    · cases e
  · cases e

omit h in
theorem placeWhole (ord : Nat) (ps : List Pending) :
    ∀ {s t : State} {n : Nat}, s.Canon → s.placeWhole ord ps = some (t, n) → t.Canon := by
  induction ps with
  | nil =>
    rintro s t n h ⟨⟩
    exact h
  | cons p ps ih =>
    intro s t n h e
    unfold State.placeWhole at e
    split at e
    · obtain ⟨x, hx, e⟩ := Option.map_eq_some_iff.1 e
      cases e
      exact ih (h.placeOne ‹_›) hx
    · cases e

end State.Canon

/-! A placement step carries the state along. -/

namespace StepAcc
variable {x : StepAcc} (h : x.s.Canon)

theorem canon_visit (ps : List Pending) : ∀ {x : StepAcc}, x.s.Canon → (x.visit ps).s.Canon := by
  induction ps with
  | nil => exact fun h => h
  | cons p ps ih =>
    intro x h
    unfold StepAcc.visit
    split
    · exact h
    · refine ih ?_
      split
      · exact h
      · split
        · exact h.placeOne ‹_›
        · exact h

include h

theorem canon_launch (li : Nat) (mayHold : Bool) : (x.launch li mayHold).s.Canon := by
  have hw (range : Nat × Nat) : (if mayHold then { x with held := x.held ++ [range] } else x).s.Canon := by
    split
    · exact h
    · exact h
  unfold StepAcc.launch
  dsimp only
  split
  · exact h
  · split
    · exact h
    · split
      · split
        · exact hw _
        · split
          · exact State.Canon.placeWhole _ _ h ‹_›
          · exact hw _
      · exact canon_visit _ h

theorem canon_ask (i : Nat) : (x.ask i).s.Canon := by
  unfold StepAcc.ask
  dsimp only
  split
  · exact h
  · exact iteInduction (motive := fun y : StepAcc => y.s.Canon) (fun _ => canon_launch h ..) fun _ => canon_visit _ h

theorem canon_foldl_ask (l : List Nat) : (l.foldl StepAcc.ask x).s.Canon :=
  List.foldlRecOn (motive := fun x : StepAcc => x.s.Canon) _ _ h fun _ h i _ => canon_ask h i

theorem canon_owners (part prio : Nat) : (x.owners part prio).s.Canon := canon_foldl_ask h _

theorem canon_priority (part prio : Nat) : (x.priority part prio).s.Canon := by
  refine List.foldlRecOn (motive := fun y : StepAcc × Bool => y.1.s.Canon) _ _ ?_ fun _ h li _ =>
    canon_launch (canon_owners h ..) ..
  exact List.foldlRecOn (motive := fun x : StepAcc => x.s.Canon) _ _ h fun _ h i _ => canon_ask (canon_owners h ..) i

end StepAcc

namespace State.Canon
variable {s t : State} (h : s.Canon)
include h

theorem resumeBoot (part : Nat) : (s.resumeBoot part).Canon := by
  unfold State.resumeBoot
  split
  · exact h
  · refine ite ?_ h
    cases e : ((s.makeRoom _ _ _).resumeGang _ _ _) with
    | none => exact h
    | some x => exact (makeRoom _ _ _ h).resumeGang e

theorem finishWaiting (part : Nat) : (s.finishWaiting part).Canon := by
  refine foldl (fun s li h => ?_) _ h
  split
  · exact ite (h.finishLaunch _) h
  · exact h

theorem placementStep (part : Nat) : (s.placementStep part).Canon := by
  have hs := (((h.serveRings part).finishWaiting part).resumeBoot part).nextOrd
  refine List.foldlRecOn (motive := fun x : StepAcc => x.s.Canon) _ _ ?_ fun _ h q _ => StepAcc.canon_priority h ..
  refine List.foldlRecOn (motive := fun x : StepAcc => x.s.Canon) _ _ ?_ fun _ h li _ => StepAcc.canon_launch h ..
  exact StepAcc.canon_foldl_ask (x := ⟨_, _, _, _⟩) hs _

/-! Halts and suspensions. -/

theorem landFlights {gi : Nat} (e : s.landFlights gi = some t) : t.Canon := by
  refine List.foldlRecOn (motive := fun o : Option State => ∀ u, o = some u → u.Canon) _ _ ?_ ?_ t e
  · rintro _ ⟨⟩
    exact h
  · intro o ho a _ u e
    obtain ⟨v, rfl, e⟩ := Option.bind_eq_some_iff.1 e
    exact (ho v rfl).performFlight e

theorem settleGang (gi : Nat) : (s.settleGang gi).Canon :=
  (foldl (fun _ _ h => drainAll _ _ _ h) _ (((h.dropSleepers _).dropClaims ..).modGang ..)).modGang ..

theorem suspendGang (gi reason : Nat) : (s.suspendGang gi reason).Canon := ((h.leaveCore gi).withStamp _).modGang ..

theorem suspendToPool (gi reason : Nat) (keep : Bool) : (s.suspendToPool gi reason keep).Canon := by
  unfold State.suspendToPool
  dsimp only
  split
  · trivial
  · split
    · trivial
    · trivial
    · trivial
    · exact (((((h.modGang ..).writeImage ..).of_written ‹_›).modGang ..).modPart ..).suspendGang ..

theorem poolMiss (part : Nat) : (s.poolMiss part).Canon := h.modPart ..

theorem suspendTo (gi reason : Nat) (keep : Bool) : (s.suspendTo gi reason keep).Canon := by
  unfold State.suspendTo
  split
  · exact h.suspendToPool ..
  · dsimp only
    split
    · trivial
    · trivial
    · trivial
    · exact (((((h.modGang ..).writeImage ..).of_written ‹_›).modGang ..).suspendGang ..).answerCtx ..

omit h in
theorem suspendAll (reason : Nat) (keep : Bool) (l : List Nat) : ∀ {s : State}, s.Canon → (s.suspendAll reason keep l).Canon := by
  induction l with
  | nil => exact fun h => h
  | cons gi l ih =>
    intro s h
    unfold State.suspendAll
    split
    · trivial
    · trivial
    · exact ih ((h.suspendTo ..).of_done ‹_›)

omit h in
theorem haltAll (part : Nat) (l : List Nat) : ∀ {s t : State}, s.Canon → s.haltAll part l = some t → t.Canon := by
  induction l with
  | nil =>
    rintro s t h ⟨⟩
    exact h
  | cons gi l ih =>
    intro s t h e
    unfold State.haltAll at e
    split at e
    · exact ih ((h.suspendToPool ..).of_done ‹_›) e
    · exact ih ((h.poolMiss _).killGang ..) e
    · cases e

theorem stay (gi : Nat) : (s.stay gi).Canon := h.modGang ..

theorem askHalt (gi reason : Nat) : (s.askHalt gi reason).Canon := foldl (fun _ _ h => h.modGang ..) _ h

theorem placeFreed (core : Nat) (p : Pending) : (s.placeFreed core p).Canon := by
  unfold State.placeFreed
  cases e : s.nextOrd.placeAmong s.stamp [core] p with
  | none => exact h
  | some x => exact h.nextOrd.placeAmong e

theorem haltGang (gi : Nat) : (s.haltGang gi).Canon := by
  unfold State.haltGang
  dsimp only
  split
  · exact h
  · refine ite (h.modGang ..) (ite ((h.answerCtx ..).killGang ..) (ite ((h.answerCtx ..).modGang ..) ?_))
    split
    · exact h
    · rename_i s0 e
      have h0 : s0.Canon := by
        refine List.foldlRecOn (motive := fun o : Option State => ∀ u, o = some u → u.Canon) _ _ ?_ ?_ s0 e
        · rintro _ ⟨⟩
          exact h
        · intro o ho a _ u e
          obtain ⟨v, rfl, e⟩ := Option.bind_eq_some_iff.1 e
          exact (ho v rfl).landFlights e
      have hs := foldl (fun _ i h => settleGang h i) (s.together gi) h0
      refine ite ?_ (ite (ite (foldl (fun _ _ h => h.stay _) _ hs) ?_) ?_)
      · cases e : State.haltAll _ _ _ with
        | none => exact h0
        | some u => exact haltAll _ _ hs e
      · split
        · exact (suspendAll _ _ _ hs).of_done ‹_›
        · exact h0
        · exact foldl (fun _ _ h => (h.stay _).answerCtx ..) _ (ite (hs.poolMiss _) hs)
      · split
        · exact (hs.poolMiss _).stay _
        · exact h0
        · have hd := (hs.suspendToPool ..).of_done ‹_›
          refine ite ?_ ?_
          · split
            · split
              · exact (hd.modPart ..).placeFreed ..
              · exact hd.modPart ..
            · exact hd.modPart ..
          · split
            · exact (hd.modPart ..).placeFreed ..
            · exact hd.modPart ..

/-! Samples of the dispatcher. -/

theorem directedYield (a : Agent) : (s.directedYield a).Canon := by
  unfold State.directedYield
  dsimp only
  split
  · refine ite h ?_
    split
    · exact h
    · have hs (f : Gang → Gang) (i : Nat) := (h.withStamp (s.stamp + 1)).modGang i f
      exact ite (hs ..) (ite (hs ..) ((hs ..).modGang ..))
  · exact h

theorem sampleSwap (li : Nat) : (s.sampleSwap li).Canon := by
  unfold State.sampleSwap
  split
  · exact h
  · refine ite h (ite ?_ (h.modLaunch ..))
    dsimp only
    split
    · exact (h.modLaunch ..).modGang ..
    · exact h.modLaunch ..

theorem sampleAge (li : Nat) : (s.sampleAge li).Canon := by
  unfold State.sampleAge
  split
  · exact h
  · exact h.modLaunch ..

end State.Canon

namespace NextCanon
variable {s : State} (h : s.Canon)
include h

theorem placementStep (p : Nat) : NextCanon (execPlacementStep p s) := next (.ite (h.placementStep p) h)

theorem dispatchSample (p : Nat) : NextCanon (execDispatchSample p s) :=
  next (State.Canon.foldl (fun _ _ h => .ite (h.directedYield _) h) _
    (State.Canon.foldl (fun _ _ h => (h.sampleSwap _).sampleAge _) _ h))

theorem accessContextStop (gang : Nat) : NextCanon (execAccessContextStop gang s) := next (.ite (h.modGang ..) h)

theorem gangRetirement (gang : Nat) : NextCanon (execGangRetirement gang s) := next (.ite (h.retireGang ..) h)

end NextCanon

end Sys2Proof.Machine
end

section
/-! Memory in canonical form: what time brings, the repair map, resets, boot and the functions of firmware calls (R394,
R395, R426 to R440, R443 to R457). -/

namespace Sys2Proof.Machine

namespace State.Canon
variable {s t : State} (h : s.Canon)
include h

/-- A change of the module's registers that leaves the repair store. -/
theorem withMod {m : ModSt} (hm : m.store = s.mod.store := by rfl) : ({ s with mod := m } : State).Canon :=
  ⟨h.mem, hm ▸ h.store⟩

theorem withMoves (l : List Move) : ({ s with moves := l } : State).Canon := ⟨h.mem, h.store⟩
theorem withCur (a : Option Agent) : ({ s with cur := a } : State).Canon := ⟨h.mem, h.store⟩

/-! Time. -/

theorem writeMissRecord (gi : Nat) (w : List Word) : (s.writeMissRecord gi w).Canon := by
  unfold State.writeMissRecord
  refine ite (h.modGang ..) ?_
  split
  · exact h.withMem (Memory.wf_putDwords _ _ _ h.mem)
  · exact h.modGang ..

theorem donate (li core b : Nat) : (s.donate li core b).Canon := by
  unfold State.donate
  split
  · exact h
  · split
    · exact h
    · exact ite h ((h.modLaunch ..).withMoves _)

/-! The repair map. -/

theorem selfTest : s.selfTest.Canon := by
  unfold State.selfTest
  split
  · exact h
  · refine iff_mk.2 ⟨Memory.wf_foldl (fun _ _ h => Memory.wf_writeMap _ _ h) _ _ (Memory.wf_copyRun _ _ _ _ h.mem), ?_⟩
    split
    · exact h.store
    · exact h.store

theorem coreTest (core : Nat) : (s.coreTest core).Canon := by
  unfold State.coreTest
  extract_lets t
  split
  · exact h.withMod
  · exact iff_mk.2 ⟨Memory.wf_writeMap _ _ h.mem, h.store⟩

theorem commitMirror : s.commitMirror.Canon := ⟨h.mem, Memory.wf_copyRun _ _ _ _ rfl⟩

/-! Resets and boot. -/

theorem partitionResets : s.partitionResets.Canon := ⟨h.mem, h.store⟩
theorem moduleReset : s.moduleReset.Canon := ⟨Sparse.wf_clear h.mem, h.store⟩
theorem startBoot : s.startBoot.Canon := ⟨h.mem, h.store⟩

/-! The functions of firmware calls. -/

theorem fwReturn (a : Agent) (status value : Word) : (s.fwReturn a status value).Canon :=
  ((h.withCur _).setMe _).returnTrap

theorem fwCall (a : Agent) (fn : Nat) (ht : t.Canon) : NextCanon (s.fwCall a fn t) :=
  .next (ite ht (ite (h.fwReturn ..) h))

theorem replaceGroup (part gidx : Nat) (e : Option GroupEntry) : (s.replaceGroup part gidx e).Canon :=
  (h.breakGroup ..).modPart ..

end State.Canon

namespace NextCanon
variable {s : State} (h : s.Canon)
include h

theorem turnerRenewal (tile : Nat) : NextCanon (execTurnerRenewal tile s) := by
  refine next ?_
  split
  · exact (h.modGang ..).charge ..
  · exact h

theorem turnerMiss (tile : Nat) : NextCanon (execTurnerMiss tile s) := by
  refine next ?_
  split
  · exact .ite h (((h.modGang ..).writeMissRecord ..).raiseEvent ..)
  · exact h

theorem gleanerBoundary (core : Nat) : NextCanon (execGleanerBoundary core s) :=
  next (State.Canon.foldl (fun _ _ h => h.modLaunch ..) _
    (.ite (State.Canon.foldl (fun _ _ h => State.Canon.foldl (fun _ _ h => h.donate ..) _ h) _ h) h))

theorem gleanerArrival (x : Nat) : NextCanon (execGleanerArrival x s) := by
  refine next ?_
  split
  · exact (h.withMoves _).modLaunch ..
  · exact h

theorem granaryDebit (core : Nat) : NextCanon (execGranaryDebit core s) := by
  have hs (g : List Gang) (n : Nat) : ({ s with free := n, gangs := g } : State).Canon := ⟨h.mem, h.store⟩
  exact next (State.Canon.foldl (fun _ _ h => h.modLaunch ..) _ (((hs ..).modCore ..).modPart ..))

theorem thermtrip : NextCanon (execThermtrip s) := next ⟨Sparse.wf_filter _ h.moduleReset.mem, h.store⟩

theorem dclTraining : NextCanon (execDclTraining s) := next (.ite (h.withMod) h)

theorem imageCopied : NextCanon (execImageCopied s) := by
  refine next (.ite h (.ite h.withMod ?_))
  have hm (a n : Nat) := h.withMem (Memory.wf_copyRun s.mem fwBase a n (Sparse.wf_clear (lo := fwBase) (n := 0x700000) h.mem))
  dsimp only
  split
  · exact (hm ..).withMod
  · exact ((hm ..).withMod).startBoot

theorem dclFailure : NextCanon (execDclFailure s) := next (State.Canon.foldl (fun _ _ h => h.loseCore _) _ (h.withMod))

theorem portDown (q : Nat) : NextCanon (execPortDown q s) :=
  next (.ite h (State.Canon.foldl (fun _ _ h => State.Canon.foldl (fun _ _ h => h.breakGroup ..) _ h) _ (h.withMod)))

theorem portRetrained (q : Nat) : NextCanon (execPortRetrained q s) := next (.ite h (h.withMod))

theorem cxlPortLost (p : Nat) : NextCanon (execCxlPortLost p s) := next (.ite h ⟨h.mem, h.store⟩)

theorem version (ag : Agent) : NextCanon (execVersion ag s) := h.fwCall _ _ (h.fwReturn ..)

theorem groupset (ag : Agent) : NextCanon (execGroupset ag s) := by
  refine h.fwCall _ _ (.ite (h.fwReturn ..) (.ite ((h.replaceGroup ..).fwReturn ..) ?_))
  split
  · exact h
  · exact h.fwReturn ..
  · exact (h.replaceGroup ..).fwReturn ..

theorem routeset (ag : Agent) : NextCanon (execRouteset ag s) :=
  h.fwCall _ _ (.ite (h.fwReturn ..) (.ite (h.fwReturn ..) (.ite h (.ite (h.fwReturn ..) ((h.withMod).fwReturn ..)))))

theorem attest (ag : Agent) : NextCanon (execAttest ag s) :=
  h.fwCall _ _ (.ite (h.fwReturn ..) (.ite (h.fwReturn ..) (.ite h
    (State.Canon.fwReturn (s := { s with free := _, mem := _ }) ⟨Memory.wf_putBytes _ _ _ h.mem, h.store⟩ ..))))

theorem linkstat (ag : Agent) : NextCanon (execLinkstat ag s) := h.fwCall _ _ ((h.modThread ..).fwReturn ..)

end NextCanon

end Sys2Proof.Machine
end

section
/-! Memory in canonical form: the Catalogue, the Orchard, and the completion of element groups (R301 to R337, R344 to
R361, R53). Status and completion words, remap records and cuts are the bytes they write. -/

namespace Sys2Proof.Machine

namespace State.Canon
variable {s t : State} (h : s.Canon)
include h

/-! Streams. -/

theorem pushStream (q : BitVec 3) (a b : BitVec 6) : GivesCanon id (s.pushStream q a b) := by
  unfold State.pushStream
  exact .after fun _ => .ite (.after fun _ => .ite (.after fun _ => h.pushVec _) (h.pushVec _))
    (.ite (.after fun _ => h.pushVec _) (h.pushVec _))

theorem subLast (a : Agent) (sub : Nat) : (s.subLast a sub).Canon := h.modThread ..

theorem streamStep (a : Agent) (r : VRec) : (s.streamStep a r).Canon := by
  unfold State.streamStep
  dsimp only
  split
  · refine ite h (ite (h.raiseVec ..) (ite h (ite (h.raiseVec ..) ?_)))
    split
    · exact h
    · exact (h.raiseVec ..).subLast ..
    · exact ite (h.commit ..) (ite h (((h.modThread ..).modGang ..).commit ..))
  · exact h

/-! Requests on meshes. -/

theorem raiseAsk (a : Agent) (q : Ask) (code sub : Nat) : (s.raiseAsk a q code sub).Canon := by
  unfold State.raiseAsk
  split
  · exact h
  · dsimp only
    split
    · exact h
    · have hf := h.performFlight ‹_›
      split
      · exact hf.takePending ..
      · exact hf.enterTrap ..

theorem giveAnswer (a : Agent) (d : Nat) (v : Word) : (s.giveAnswer a d v).Canon := h.modThread ..

theorem readDesc {a : Agent} {va : Word} {w : List Word} (e : s.readDesc a va = .ok (w, t)) : t.Canon := by
  unfold State.readDesc at e
  dsimp only at e
  split at e
  · split at e
    · cases e
    · split at e
      · cases e
      · cases e
        exact h.readDwords ‹_›
  · split at e
    · cases e
      exact h
    · cases e

theorem answerOpen {a : Agent} {va v : Word} (e : s.answerOpen a va = some (v, t)) : t.Canon := by
  unfold State.answerOpen at e
  dsimp only at e
  split at e
  · split at e
    · cases e
    · cases e
      exact h
  · have hd := h.readDesc ‹_›
    split at e
    · cases e
      exact hd
    · split at e
      · cases e
        exact hd
      · have hl := hd.locate ‹_›
        split at e
        · cases e
          exact hl
        · cases e
          exact hl.modMesh ..

theorem closeMesh (part k : Nat) : (s.closeMesh part k).Canon := by
  refine modMesh ?_ ..
  split
  · exact h.withMem (Memory.wf_write h.mem)
  · exact h

theorem releaseGen {part k number : Nat} (e : s.releaseGen part k number = some t) : t.Canon := by
  unfold State.releaseGen at e
  extract_lets m cur at e
  split at e
  · cases e
  · cases e
    exact h.modMesh ..

theorem answerSheaf {part : Nat} {w range v : Word} (e : s.answerSheaf part w range = .ok (v, t)) : t.Canon := by
  unfold State.answerSheaf at e
  split at e
  · cases e
  · extract_lets k m fs lo hi busy at e
    split at e
    · cases e
    · split at e
      · cases e
        exact h
      · split at e
        · cases e
          exact h
        · cases e
          exact h.modMesh ..

theorem answerRecut {a : Agent} {q : Ask} {v : Word} (e : s.answerRecut a q = .ok (v, t)) : t.Canon := by
  unfold State.answerRecut at e
  dsimp only at e
  split at e
  · split at e
    · cases e
    · cases e
      exact h
  · have hd := h.readDesc ‹_›
    split at e
    · cases e
      exact hd
    · split at e
      · cases e
        exact hd
      · have hl := hd.locate ‹_›
        split at e
        · cases e
        · split at e
          · cases e
          · split at e
            · cases e
              exact hl
            · cases e
              exact hl.modThread ..

theorem chargePlaced (gi part lvl va n : Nat) : (s.chargePlaced gi part lvl va n).Canon := by
  refine foldl (fun s k h => ?_) _ h
  split
  · exact h.chargeAt ..
  · exact h

theorem catAnswer (a : Agent) (w : List Word) : (s.catAnswer a w).2.Canon := by
  unfold State.catAnswer
  dsimp only
  split
  · exact h
  · split
    · exact h
    · split
      · exact h
      · exact h.modMesh ..

theorem buildAdapt (a : Agent) (m : MeshSlot) (g : Gen) (w : List Word) (part : Nat) :
    (s.buildAdapt a m g w part).2.Canon := by
  unfold State.buildAdapt
  split
  · exact h
  · have hr := h.readNumbers ‹_›
    split
    · exact hr
    · dsimp only
      split
      · exact hr
      · split
        · exact hr
        · split
          · exact hr
          · exact hr

/-! What an adaptation and a re-cutting write. -/

omit h in
theorem writeRecords (a : Agent) (l : List (Nat × Nat)) :
    ∀ {s : State} (va : Word), s.Canon → (s.writeRecords a va l).2.Canon := by
  induction l with
  | nil => exact fun _ h => h
  | cons r l ih =>
    intro s va h
    unfold State.writeRecords
    split
    · exact h
    · exact ih _ (((h.locate ‹_›).pokeAt ..).chargeRun ..)

omit h in
theorem writeCuts (a : Agent) (l : List Nat) : ∀ {s : State} (va : Word), s.Canon → (s.writeCuts a va l).2.Canon := by
  induction l with
  | nil => exact fun _ h => h
  | cons r l ih =>
    intro s va h
    unfold State.writeCuts
    split
    · exact h
    · exact ih _ (((h.locate ‹_›).pokeAt ..).chargeRun ..)

theorem adaptStatus (a : Agent) (x : Nat) (w : List Word) (v : Nat) : (s.adaptStatus a x w v).Canon := by
  unfold State.adaptStatus
  dsimp only
  split
  · exact h.modXfer ..
  · have hl := h.locate ‹_›
    exact ite hl (((hl.pokeAt ..).chargeAt ..).freeXfer ..)

theorem moveSegs {part k : Nat} {g : Gen} {ws : List Nat} (e : s.moveSegs part k g ws = some t) : t.Canon := by
  unfold State.moveSegs at e
  dsimp only at e
  split at e
  · cases e
    exact h.modMesh ..
  · cases e

theorem recut (a : Agent) (w : List Word) : (s.recut a w).2.Canon := by
  unfold State.recut
  dsimp only
  split
  · exact h
  · split
    · exact h
    · split
      · exact h
      · rename_i ws u e
        have hu : u.Canon := by
          split at e
          · cases e
            exact h
          · exact h.readNumbers e
        split
        · exact hu
        · have hc (va : Word) (l : List Nat) := writeCuts a l va hu
          split
          · rename_i ec
            have hv : State.Canon _ := ec ▸ hc _ _
            exact hv
          · rename_i ec
            have hv : State.Canon _ := ec ▸ hc _ _
            split
            · exact hv
            · split
              · exact hv.moveSegs ‹_›
              · exact hv

/-! The Orchard. -/

theorem withOrch (l : List OrchSlice) : ({ s with orch := l } : State).Canon := ⟨h.mem, h.store⟩

theorem orchAt {a : Agent} {w v : Word} {f : OrchSlice → OrchReply} (e : s.orchAt a w f = some (v, t)) : t.Canon := by
  unfold State.orchAt at e
  dsimp only at e
  split at e
  · cases e
    exact h
  · obtain ⟨r, -, e⟩ := Option.map_eq_some_iff.1 e
    cases e
    exact (h.withOrch _).charge ..

theorem pushOexpand (d a b : BitVec 6) : GivesCanon id (s.pushOexpand d a b) := by
  unfold State.pushOexpand
  exact .after fun _ => .after fun _ => .bind (h.vsource _ _) fun _ h => .after fun _ => h.pushVec _

theorem oexpandStep (a : Agent) (r : VRec) : (s.oexpandStep a r).Canon := by
  unfold State.oexpandStep
  dsimp only
  split
  · exact h.waitFor ..
  · refine ite h ?_
    split
    · exact ((h.orchAt ‹_›).modRec ..).commit ..
    · exact (h.raiseVec ..).modThread ..

theorem orchAnswer (a : Agent) (r : VRec) (w : List Word) : (s.orchAnswer a r w).2.Canon := by
  unfold State.orchAnswer
  dsimp only
  split
  · exact h.waitFor ..
  · split
    · exact h
    · split
      · exact h
      · exact h

theorem orchStage (a : Agent) (x : Nat) (w : List Word) (stage : Nat) (vals : List Word) :
    (s.orchStage a x w stage vals).Canon := h.modXfer ..

theorem orchResult (a : Agent) (x : Nat) (w : List Word) (v : Word) : (s.orchResult a x w v).Canon := by
  refine ite (h.orchStage ..) ?_
  split
  · exact h.modXfer ..
  · have hl := h.locate ‹_›
    exact ite hl (((hl.pokeAt ..).chargeAt ..).orchStage ..)

theorem orchDone (a : Agent) (x : Nat) (w : List Word) : (s.orchDone a x w).Canon := by
  refine ite (h.freeXfer ..) ?_
  split
  · exact h.modXfer ..
  · have hl := h.locate ‹_›
    exact ite hl (((hl.pokeAt ..).chargeAt ..).freeXfer ..)

theorem orchWrites (a : Agent) (x : Nat) (w : List Word) (stage : Nat) (vals : List Word) :
    (s.orchWrites a x w stage vals).Canon := ite (h.orchResult ..) (ite (h.orchDone ..) h)

theorem orchCmd (a : Agent) (x opc : Nat) {start : List Word → State} (hs : ∀ w, (start w).Canon) :
    (s.orchCmd a x opc start).Canon := by
  unfold State.orchCmd
  split
  · exact h
  · split
    · exact ite h (ite (hs _) (h.orchWrites ..))
    · exact h

/-! Element groups. -/

theorem engineAnswer (a : Agent) (e : Engine) (r : VRec) (w : List Word) : (s.engineAnswer a e r w).2.Canon := by
  cases e with
  | copy => exact h
  | catalogue => exact (h.charge ..).catAnswer ..
  | orchard => exact h.orchAnswer ..

theorem drainStep (a : Agent) (r : VRec) : (s.drainStep a r).Canon := ite (h.commit ..) h

theorem groupStep (a : Agent) (r : VRec) (k : Nat) : (s.groupStep a r k).Canon := by
  unfold State.groupStep
  split
  case h_1 => exact h.farStep ..
  case h_2 => exact h.loadStep ..
  case h_3 => exact h.storeStep ..
  case h_4 => exact h.winStep ..
  case h_5 => exact h.waccStep ..
  case h_6 => exact h.mergeStep ..
  case h_7 => exact h.lsyncStep ..
  case h_8 => exact h.fenceStep ..
  case h_9 => exact h.cmdbStep _ _ _ fun h r _ w => h.engineAnswer ..
  case h_10 => exact h.streamStep ..
  case h_11 => exact h.oexpandStep ..
  case h_12 => exact h.contributeStep ..
  case h_13 => exact h.receiveStep ..
  case h_14 => exact h.drainStep ..
  case h_20 => exact h.computeStep ..
  all_goals exact h

theorem chargeSectors (gi : Nat) (l : List (Nat × Nat)) : (s.chargeSectors gi l).Canon := foldl (fun _ _ h => h.charge ..) _ h

theorem chargeStep (a : Agent) (r : VRec) (k : Nat) : (s.chargeStep a r k).Canon := by
  unfold State.chargeStep
  dsimp only
  split
  · exact h
  · refine ite h ?_
    split
    · exact (h.charge ..).charge ..
    · exact (h.charge ..).chargeSectors ..
    · exact (h.charge ..).chargeSectors ..
    · exact (h.charge ..).charge ..
    · exact (h.charge ..).charge ..
    · exact (h.charge ..).charge ..
    · exact (h.charge ..).charge ..
    · exact (h.charge ..).charge ..
    · exact ite ((h.charge ..).charge ..) (h.charge ..)

theorem vectorStep (a : Agent) (r : VRec) : (s.vectorStep a r).Canon := by
  have hb {t : State} (e : (if r.op = .stream then some s else s.beginEntry a r) = some t) : t.Canon := by
    split at e
    · cases e
      exact h
    · exact h.beginEntry e
  unfold State.vectorStep
  dsimp only
  refine ite (h.modRec ..) (ite h ?_)
  split
  · exact h.raiseVec ..
  · split
    · exact h.raiseVec ..
    · split
      · exact h
      · exact ((hb ‹_›).groupStep ..).chargeStep ..

end State.Canon

namespace NextCanon
variable {s : State} (h : s.Canon)
include h

theorem ask (d : BitVec 6) (fn : AskFn) (a b : Word) : NextCanon (s.ask d fn a b) := next (h.setMe _)

theorem mopen (d a : BitVec 6) : NextCanon (execMopen d a s) := hart h (afterRelease h (fun _ h => ask h ..) _)
theorem mclose (a : BitVec 6) : NextCanon (execMclose a s) := hart h (ask h ..)
theorem mgenrel (a b : BitVec 6) : NextCanon (execMgenrel a b s) := hart h (ite (illop h) (ask h ..))
theorem msheaf (d a b : BitVec 6) : NextCanon (execMsheaf d a b s) := hart h (ite (illop h) (ask h ..))
theorem mquery (d a : BitVec 6) : NextCanon (execMquery d a s) := hart h (ite (illop h) (ask h ..))
theorem mrecut (d a : BitVec 6) : NextCanon (execMrecut d a s) :=
  hart h (afterRelease h (fun _ h => ite (stallFor h _) (ask h ..)) _)

theorem streamEntry (ag : Agent) (x : Nat) : NextCanon (execStreamEntry ag x s) := by
  refine next ?_
  split
  · split
    · dsimp only
      refine .ite h ?_
      have hc (f : Gang → Gang) (b : Prop) [Decidable b] (n : Nat) :
          (if b then (s.modGang ag.gang f).charge ag.gang 15 n else s.modGang ag.gang f).Canon :=
        .ite ((h.modGang ..).charge ..) (h.modGang ..)
      exact .ite (((hc ..).freeXfer ..).modGang ..) ((hc ..).modXfer ..)
    · exact h
  · exact h

theorem catalogueAnswer (ag : Agent) : NextCanon (execCatalogueAnswer ag s) := by
  refine next ?_
  split
  · refine .ite h ?_
    have hfail (q : Ask) (c : Nat) := (h.charge ag.gang 15 1).raiseAsk ag q cMESHGEN c
    dsimp only
    split
    · split
      · exact ((h.answerOpen ‹_›).charge ..).giveAnswer ..
      · exact h
    · exact .ite (hfail ..) (.ite h (((h.closeMesh ..).charge ..).giveAnswer ..))
    · refine .ite (hfail ..) ?_
      split
      · exact ((h.releaseGen ‹_›).charge ..).giveAnswer ..
      · exact hfail ..
    · split
      · exact ((h.answerSheaf ‹_›).charge ..).giveAnswer ..
      · exact hfail ..
    · split
      · exact (h.charge ..).giveAnswer ..
      · exact h
      · exact hfail ..
    · split
      · exact ((h.answerRecut ‹_›).charge ..).giveAnswer ..
      · exact .ite h (hfail ..)
  · exact h

theorem mopenBuildEnd (p slot : Nat) : NextCanon (execMopenBuildEnd p slot s) := by
  have hstatus {t : State} (ht : t.Canon) (m : Memory) (hm : m.wf = true) (gi : Nat) (pl : Place) (n gi' part lvl va k : Nat) :
      ((({ t with mem := m } : State).chargeAt gi pl n).chargePlaced gi' part lvl va k).Canon :=
    ((ht.withMem hm).chargeAt ..).chargePlaced ..
  refine next ?_
  split
  · exact h
  · dsimp only
    refine .ite h ?_
    split
    · exact hstatus (h.modMesh ..) _ (Memory.wf_write h.mem) ..
    · exact .ite h (hstatus (h.modMesh ..) _ (Memory.wf_write h.mem) ..)

theorem adapt (ag : Agent) (x : Nat) : NextCanon (execAdapt ag x s) := by
  refine next ?_
  split
  · split
    · dsimp only
      refine .ite (h.modXfer ..) ?_
      split
      · exact h.modXfer ..
      · have hb (m : MeshSlot) (g : Gen) (w : List Word) (part : Nat) := h.buildAdapt ag m g w part
        split
        · rename_i e
          have hu : State.Canon _ := e ▸ hb _ _ _ _
          exact .ite hu ((hu.modMesh ..).modXfer ..)
        · rename_i e
          have hu : State.Canon _ := e ▸ hb _ _ _ _
          exact (hu.modMesh ..).modXfer ..
    · exact h
  · exact h

theorem adaptStatus (ag : Agent) (x : Nat) : NextCanon (execAdaptStatus ag x s) := by
  refine next ?_
  split
  · split
    · dsimp only
      refine .ite h (.ite (h.adaptStatus ..) (.ite (h.adaptStatus ..) (.ite ((h.modXfer ..).adaptStatus ..) (.ite h ?_))))
      have hw (va : Word) (l : List (Nat × Nat)) := State.Canon.writeRecords ag l va h
      split
      · rename_i e
        have hu : State.Canon _ := e ▸ hw _ _
        exact ((hu.modMesh ..).modXfer ..).adaptStatus ..
      · rename_i e
        have hu : State.Canon _ := e ▸ hw _ _
        exact (((hu.modMesh ..).modXfer ..).modXfer ..).adaptStatus ..
    · exact h
  · exact h

theorem mrecutStatus (ag : Agent) (x : Nat) : NextCanon (execMrecutStatus ag x s) := by
  refine next ?_
  split
  · split
    · refine .ite h ?_
      have hr := h.recut ag
      dsimp only
      exact .ite h ((((hr _).withMem (Memory.wf_write (hr _).mem)).chargeAt ..).freeXfer ..)
    · exact h
  · exact h

theorem orchForm (d : BitVec 6) (info : Word) {f : State → Option (Word × State)}
    (hf : ∀ {s t : State} {v : Word}, s.Canon → f s = some (v, t) → t.Canon) : NextCanon (s.orchForm d info f) := by
  refine afterVector h fun t h => ?_
  split
  · exact ite (trapXfer h _) (stallFor h _)
  · split
    · exact retWith (hf h ‹_›) ..
    · exact trapWith h _

theorem onew (d a : BitVec 6) : NextCanon (execOnew d a s) := by
  refine hart h (ite (illop h) (orchForm h _ _ fun h e => ?_))
  split at e
  · cases e
    exact h
  · obtain ⟨r, -, e⟩ := Option.map_eq_some_iff.1 e
    cases e
    exact (h.withOrch _).charge ..

theorem orchOn (d : BitVec 6) (info : Word) (f : State → Word × (OrchSlice → OrchReply)) :
    NextCanon (s.orchForm d info fun s => s.orchAt s.who (f s).1 (f s).2) := orchForm h _ _ fun h e => h.orchAt e

theorem expand (ag : Agent) (x : Nat) : NextCanon (execExpand ag x s) := by
  refine next (h.orchCmd _ _ _ fun w => ?_)
  split
  · exact (h.readNumbers ‹_›).orchStage ..
  · exact .ite h (h.orchStage ..)

theorem orchardRequestPerformed (ag : Agent) (x : Nat) : NextCanon (execOrchardRequestPerformed ag x s) := by
  refine next ?_
  split
  · exact h
  · split
    · refine .ite h ?_
      split
      · exact h.modXfer ..
      · exact .ite ((h.orchAt ‹_›).freeXfer ..) ((h.orchAt ‹_›).orchStage ..)
    · exact h

theorem elementGroupCompletion (ag : Agent) (seq : Nat) : NextCanon (execElementGroupCompletion ag seq s) := by
  refine next ?_
  split
  · exact h
  · exact .ite h (State.Canon.completeAll _ _ ((State.Canon.ite h (h.vectorStep ..)).deliver ..))

end NextCanon

end Sys2Proof.Machine
end

section
/-! Memory in canonical form: the CSRs, the synchronizing forms and the privileged forms with their steps (R64, R179 to
R186, R385, R395 to R405, R417). A read of a CSR changes a count or a partition at most, and a write only FRCOMMIT's store;
a debugger's halt and a command's status write bytes. -/

namespace Sys2Proof.Machine

namespace State.Canon
variable {s t : State} (h : s.Canon)
include h

/-! Reads of CSRs. -/

theorem readShared {c : Nat} {v : Word} (e : s.readShared c = some (v, t)) : t.Canon := by
  unfold State.readShared at e
  dsimp only at e
  split at e
  case h_7 => cases e; exact h.withFree _
  case h_9 => cases e
  all_goals cases e; exact h

theorem readAccess {c : Nat} {v : Word} (e : s.readAccess c = some (v, t)) : t.Canon := by
  unfold State.readAccess at e
  dsimp only at e
  split at e
  case h_3 => exact h.readShared e
  all_goals cases e; exact h

theorem readUser {c : Nat} {v : Word} (e : s.readUser c = some (v, t)) : t.Canon := by
  unfold State.readUser at e
  dsimp only at e
  split at e
  case h_9 => exact h.readShared e
  all_goals cases e; exact h

theorem readSuper {c : Nat} {v : Word} (e : s.readSuper c = some (v, t)) : t.Canon := by
  unfold State.readSuper at e
  dsimp only at e
  split at e
  case h_14 => cases e; exact h.modPart ..
  case h_15 => grind
  all_goals cases e; exact h

theorem readFirm {c : Nat} {v : Word} (e : s.readFirm c = some (v, t)) : t.Canon := by
  unfold State.readFirm at e
  dsimp only at e
  split at e
  case h_22 => grind
  all_goals cases e; exact h

theorem readCsr {c : BitVec 12} {v : Word} (e : s.readCsr c = some (v, t)) : t.Canon := by
  unfold State.readCsr at e
  dsimp only at e
  split at e
  · exact h.readAccess e
  · split at e
    · exact h.readUser e
    · split at e
      · exact h.readSuper (Option.ite_none_right_eq_some.1 e).2
      · exact h.readFirm (Option.ite_none_right_eq_some.1 e).2

/-! Writes of CSRs. -/

theorem writeLgmode (core : Nat) (v : Word) : (s.writeLgmode core v).Canon := by
  unfold State.writeLgmode
  refine foldl (fun _ _ h => ?_) _ ((h.modCore ..).gangs _)
  split
  · exact ite (h.modThread ..) h
  · exact h

theorem writeShared (c : Nat) (v : Word) : (s.writeShared c v).Canon := by
  unfold State.writeShared
  dsimp only
  split
  case h_1 => exact h.writeCgroup ..
  case h_5 => exact ite (h.writeLgmode ..) h
  case h_6 => exact h
  all_goals exact h.modGang ..

theorem writeAccess (c : Nat) (v : Word) : (s.writeAccess c v).Canon := ite (h.setMe _) (h.writeShared ..)

theorem writeUser (c : Nat) (v : Word) : (s.writeUser c v).Canon := by
  unfold State.writeUser
  split
  case h_4 => exact h.writeShared ..
  all_goals exact h.setMe _

theorem writeSuper (c : Nat) (v : Word) : (s.writeSuper c v).Canon := by
  unfold State.writeSuper
  dsimp only
  split
  case h_13 => exact ite (h.setMe _) h
  case h_1 | h_3 | h_4 | h_5 | h_6 => exact h.setMe _
  all_goals exact h.modPart ..

theorem writeFpart {v : Word} (e : s.writeFpart v = some t) : t.Canon := by
  unfold State.writeFpart at e
  split at e
  · cases e
  · cases e
    exact h.withMod.partitionResets

theorem writeFpmem (v : Word) : (s.writeFpmem v).Canon := by
  unfold State.writeFpmem
  dsimp only
  split
  · exact (h.modPart ..).withMod
  · exact h.modPart ..

theorem writeFhtest {v : Word} (e : s.writeFhtest v = some t) : t.Canon := by
  unfold State.writeFhtest at e
  split at e
  · cases e
  · cases e
    exact (h.withFree _).setMe _

theorem writeFctest {v : Word} (e : s.writeFctest v = some t) : t.Canon := by
  obtain ⟨-, ⟨⟩⟩ := Option.ite_none_right_eq_some.1 e
  exact h.coreTest _

theorem writeFrcommit (e : s.writeFrcommit = some t) : t.Canon := by
  obtain ⟨-, ⟨⟩⟩ := Option.ite_none_right_eq_some.1 e
  exact h.commitMirror

theorem writeFbtab (i : Nat) (v : Word) : (s.writeFbtab i v).Canon := by
  unfold State.writeFbtab
  extract_lets
  split
  · exact h
  · exact h.withMod

theorem writeFirm {c : Nat} {v : Word} (e : s.writeFirm c v = some t) : t.Canon := by
  unfold State.writeFirm at e
  dsimp only at e
  split at e
  case h_5 => exact h.writeFpart e
  case h_15 => exact h.writeFhtest e
  case h_18 => exact h.writeFctest e
  case h_19 => exact h.writeFrcommit e
  case h_21 =>
    split at e
    · exact Option.some.inj e ▸ h.writeFbtab ..
    · split at e <;> cases e
      · exact h.withMod
      · exact h
  all_goals cases e
  case h_1 | h_3 | h_4 => exact h.setMe _
  case h_7 => exact h.writeFpmem _
  case h_8 => exact ite h (h.modPart ..)
  case h_9 | h_10 => exact h.modPart ..
  case h_12 => exact (h.setMe _).modChan _
  case h_13 | h_14 => exact h.modChan _
  case h_16 => exact ⟨h.mem, h.store⟩
  case h_17 => exact ite h.withMod h
  all_goals exact h.withMod

theorem writeCsr {c : BitVec 12} {v : Word} (e : s.writeCsr c v = some t) : t.Canon := by
  unfold State.writeCsr at e
  dsimp only at e
  split at e
  · cases e
    exact h.writeAccess ..
  · split at e
    · cases e
      exact h.writeUser ..
    · split at e
      · cases e
        exact h.writeSuper ..
      · exact h.writeFirm e

/-! The ends that context commands ask for. -/

theorem askKill (gi outcome : Nat) : (s.askKill gi outcome).Canon := ite (h.modGang ..) (h.killGang ..)

theorem killFresh (li k : Nat) : (s.killFresh li k).Canon := (h.modLaunch ..).countRetired ..

theorem breakGroups (li : Nat) : (s.breakGroups li).Canon := by
  unfold State.breakGroups
  split
  · exact h
  · exact foldl (fun _ _ h => h.breakGroup ..) _ h

theorem killLaunch (li : Nat) : (s.killLaunch li).Canon := by
  unfold State.killLaunch
  split
  · exact h
  · exact (foldl (fun _ _ h => h.askKill ..) _ ((h.breakGroups li).modLaunch ..)).countRetired ..

theorem queueCommand (load : Bool) (w : List Word) : (s.queueCommand load w).Canon :=
  ite (h.withCtx _) (ite ((h.withCtx _).killLaunch _) ((h.withCtx _).askKill ..))

theorem answerCmd (c v extra : Nat) : (s.answerCmd c v extra).Canon := h.modCmd ..

theorem beginCmd (c gi : Nat) : (s.beginCmd c gi).Canon := h.modCmd ..

theorem lostCmd (c : Nat) (x : CtxCmd) : (s.lostCmd c x).Canon := ite (h.answerCmd ..) h

theorem onCmd (c op : Nat) (load : Bool) {f : CtxCmd → State} (hf : ∀ x, (f x).Canon) : (s.onCmd c op load f).Canon := by
  unfold State.onCmd
  split
  · exact ite (hf _) h
  · exact h

theorem withSleepers (l : List Sleeper) : ({ s with sleepers := l } : State).Canon := ⟨h.mem, h.store⟩

theorem stopRole (a : Agent) : (s.stopRole a).Canon := (h.withSleepers _).modThread ..

theorem invalidate (part lo hi : Nat) : (s.invalidate part lo hi).Canon := ⟨h.mem, h.store⟩

theorem releaseCore (core : Nat) : (s.releaseCore core).Canon := h.modCore ..

end State.Canon

namespace NextCanon
variable {s : State} (h : s.Canon)
include h

theorem csr (d : BitVec 6) (c : BitVec 12) (f : Word → Option Word) : NextCanon (s.csr d c f) := by
  refine agent ?_
  split
  · exact illop h
  · have hr := h.readCsr ‹_›
    split
    · exact retWith hr ..
    · split
      · exact illop hr
      · exact retWith (hr.writeCsr ‹_›) ..

theorem csrStep (c : BitVec 12) (v : Word) : NextCanon (s.csrStep c v) := by
  refine ite (next h) ?_
  split
  · exact illop h
  · split
    · exact illop h
    · exact next (h.writeCsr ‹_›)

theorem sdstatRead : NextCanon (execSdstatRead s) := by
  refine ite (next h) ?_
  split
  · exact illop h
  · exact next (h.readCsr ‹_›)

/-! Fences, waits and barriers. -/

theorem fence (sc k : BitVec 3) : NextCanon (execFence sc k s) :=
  agent (ite (afterAcquire h fun _ h => ret h) (afterRelease h (fun _ h => ret h) _))

theorem waitw (d a b : BitVec 6) : NextCanon (execWaitw d a b s) := by
  refine agent (ite (trapMem h ..) (scalarAccess h _ _ _ fun t p ht => ?_))
  have hm := ht.setMe (·.closeSlice 0)
  have hr := (hm.noteRead (t.setMe (·.closeSlice 0)).who p 8).chargeAt (t.setMe (·.closeSlice 0)).who.gang p 8
  exact ite (stallFor hm _) (ite (retWith hr ..)
    (next (((hr.withSleepers _).setMe _).directedYield _)))

theorem awaitPhase : NextCanon s.awaitPhase := ite (next (h.setMe _)) (ret h)

theorem arriving (drop : Bool) {k : State → Out} (hk : ∀ t : State, t.Canon → NextCanon (k t)) :
    NextCanon (s.hart (s.beforeArrival fun s => k (s.arriveMe drop))) :=
  hart h (beforeArrival h fun _ h => hk _ (h.modGang ..))

theorem wfi : NextCanon (execWfi s) := privileged h _ (ite (ret h) (next (h.setMe _)))

/-! Privileged forms. -/

theorem tret : NextCanon (execTret s) := privileged h _ (next (.ite h.returnTrap.resumeAccess h.returnTrap))

theorem trapEntry (ag : Agent) : NextCanon (execTrapEntry ag s) := by
  refine next ?_
  split
  · refine .ite ?_ h
    split
    · exact (h.performFlight ‹_›).takePending ..
    · exact h
  · exact h

omit h in
theorem readCommand {k : State → List Word → Out} (hk : ∀ (t : State) (l : List Word), t.Canon → NextCanon (k t l)) (n : Nat) :
    ∀ {s : State} (va : Word), s.Canon → NextCanon (s.readCommand va n k) := by
  induction n generalizing k with
  | zero => exact fun _ h => hk _ _ h
  | succ n ih => exact fun _ h => scalarLoad h _ _ fun _ _ h => ih (fun _ _ h => hk _ _ h) _ h

theorem context (load : Bool) (va : Word) : NextCanon (s.context load va) :=
  privileged h _ (afterVector h fun _ h => ite (trapMem h ..) (ite (trapMem h ..)
    (readCommand (fun _ _ h => ret (h.queueCommand ..)) _ _ h)))

theorem xlinv (a b : BitVec 6) : NextCanon (execXlinv a b s) :=
  privileged h _ (ite (illop h) (afterVector h fun _ h => ite (stallFor h _)
    (ite (stallFor (h.invalidate ..) _) (ret (h.invalidate ..)))))

theorem fwcall : NextCanon (execFwcall s) := by
  refine privileged h _ (next ?_)
  split
  · exact h.takePending ..
  · exact (h.setMe _).enterTrap ..

theorem haltc (a : BitVec 6) : NextCanon (execHaltc a s) := by
  refine privileged h _ (ite (illop h) (ite (ret (h.releaseCore _)) ?_))
  have hf (l : List Nat) := State.Canon.foldl (f := fun (s : State) i => s.modGang i fun g =>
    { g with haltReq := if g.haltReq = some 1 then some 1 else some 4 }) (fun _ _ h => h.modGang ..) l
    (h.modCore ((s.x a).toNat % 256) fun c => { c with held := true })
  exact ite (next ((hf _).setMe _)) (ret (hf _))

theorem haltcRelease (a : BitVec 6) : NextCanon (execHaltcRelease a s) :=
  privileged h _ (ite (illop h) (ret (h.releaseCore _)))

/-! Steps of context commands. -/

theorem suspend (c : Nat) : NextCanon (execSuspend c s) := by
  refine next (h.onCmd _ _ _ fun x => .ite (.ite h (h.answerCmd ..)) ?_)
  split
  · exact h.answerCmd ..
  · exact .ite (h.answerCmd ..) (.ite (h.answerCmd ..) (.ite (h.answerCmd ..) (.ite h ((h.beginCmd ..).askHalt ..))))

theorem killgang (c : Nat) : NextCanon (execKillgang c s) := by
  refine next (h.onCmd _ _ _ fun x => .ite (h.lostCmd ..) ?_)
  split
  · exact .ite (h.answerCmd ..) (.ite (h.answerCmd ..)
      (.ite (((h.beginCmd ..).askKill ..).answerCmd ..) ((h.beginCmd ..).askKill ..)))
  · split
    · exact .ite (h.answerCmd ..) ((h.killFresh ..).answerCmd ..)
    · exact h.answerCmd ..

theorem killlaunch (c : Nat) : NextCanon (execKilllaunch c s) := by
  refine next (h.onCmd _ _ _ fun x => ?_)
  split
  · exact h.answerCmd ..
  · exact .ite (.ite (h.answerCmd ..) h) (.ite (h.answerCmd ..) ((h.modCmd ..).killLaunch _))

theorem dhalt (c : Nat) : NextCanon (execDhalt c s) := by
  refine next (h.onCmd _ _ _ fun x => ?_)
  split
  · exact h.answerCmd ..
  · dsimp only
    split
    · exact h.answerCmd ..
    · refine .ite (h.answerCmd ..) (.ite (h.answerCmd ..) (.ite (h.answerCmd ..) (.ite h (.ite (h.answerCmd ..) ?_))))
      split
      · exact h
      · exact h.answerCmd ..
      · have hp := h.performFlight ‹_›
        exact .ite hp (((((hp.withMem (Memory.wf_writeBlocks _ _ _ _ hp.mem)).withFree _).chargeBlocks ..).stopRole _).answerCmd ..)

theorem resume (c : Nat) : NextCanon (execResume c s) := by
  refine next (h.onCmd _ _ _ fun x => .ite (h.lostCmd ..) ?_)
  split
  · exact h.answerCmd ..
  · refine .ite (h.answerCmd ..) (.ite (h.answerCmd ..) (.ite h ?_))
    split
    · exact h.answerCmd ..
    · exact h.answerCmd ..
    · exact ((h.beginCmd ..).withStamp _).modGang ..

theorem dresume (c : Nat) : NextCanon (execDresume c s) := by
  refine next (h.onCmd _ _ _ fun x => ?_)
  split
  · exact h.answerCmd ..
  · refine .ite (h.answerCmd ..) (.ite (h.answerCmd ..) ?_)
    split
    · exact h.answerCmd ..
    · exact .ite h (((h.chargeBlocks ..).modThread ..).answerCmd ..)

/-- The status word is a write of eight bytes, and so is the length after it. -/
theorem contextCommandStatus (c : Nat) : NextCanon (execContextCommandStatus c s) := by
  refine next ?_
  split
  · exact h
  · split
    · exact h
    · rename_i x _ _ v extra _
      have hput (o : Option Nat) (v : Nat) {s : State} (h : s.Canon) : State.Canon (match o with
          | some pa => { s with mem := s.mem.write pa 8 v }.chargeAt x.issuer.gang (.mem pa) 8
          | none => s) := by
        split
        · exact (h.withMem (Memory.wf_write h.mem)).chargeAt ..
        · exact h
      exact .ite h (.ite (h.withCtx _) ((State.Canon.ite (hput _ _ (hput _ _ (h.withCtx _))) (hput _ _ (h.withCtx _))).modThread ..))

end NextCanon

end Sys2Proof.Machine
end

section
/-! Memory in canonical form: the scalar forms and the task forms, and with them every instruction (R162 to R178, R187 to
R192). -/

namespace Sys2Proof.Machine

namespace NextCanon
variable {s : State} (h : s.Canon)
include h

theorem alu (d : BitVec 6) (v : Word) : NextCanon (s.alu d v) := agent (retWith h ..)

theorem branch (c : Bool) (i : BitVec 14) : NextCanon (s.branch c i) := agent (ite (jump h _) (ret h))

theorem fpWrite (d : BitVec 6) (r : Rounded) (k : Nat) : NextCanon (s.fpWrite d r k) := ite (trap h _) (done h _)

theorem fpExact (d : BitVec 6) (r : Rounded) : NextCanon (s.fpExact d r) := hart h (fpWrite h ..)

theorem fpRound (d : BitVec 6) (t : Tag) (sto : Bool) (v : Val × BitVec 6) : NextCanon (s.fpRound d t sto v) := by
  refine hart h (ite (ite (illop h) ?_) (fpWrite h ..))
  split
  · exact h.missOut _
  · exact fpWrite (h.sowerN32 ‹_›) ..

/-! Loads, stores and atomics. -/

theorem load (d a : BitVec 6) (o : BitVec 11) (n : Nat) (signed : Bool) : NextCanon (s.load d a o n signed) :=
  agent (scalarLoad h _ _ fun _ _ h => retWith h ..)

theorem loadAcquire (d a : BitVec 6) (n : Nat) (signed : Bool) : NextCanon (s.loadAcquire d a n signed) :=
  agent (scalarLoad h _ _ fun _ _ h => retWith h ..)

theorem startLoad (d : BitVec 6) (va : Word) (n : Nat) (signed : Bool) : NextCanon (s.startLoad d va n signed) := by
  refine agent (scalarAccess h _ _ _ fun t p ht => ?_)
  have hc := ht.setMe (·.closeSlice 0)
  dsimp only
  split
  · exact ret ((hc.forgetTaken _).setMe _)
  · split
    · exact retWith (hc.chargeAt ..) ..
    · exact stallFor hc _

theorem earlyLoad (d : BitVec 6) (va : Word) (n : Nat) (signed : Bool) : NextCanon (s.earlyLoad d va n signed) := by
  refine agent (scalarAccess h _ _ _ fun t p ht => ?_)
  have hc := ht.setMe (·.closeSlice 0)
  dsimp only
  split
  · exact retWith ((hc.setMe _).chargeAt ..) ..
  · split
    · exact retWith (((hc.noteRead ..).forgetTaken _).chargeAt ..) ..
    · exact stallFor hc _

theorem store (d a : BitVec 6) (nt : Bool) (o : BitVec 10) (n : Nat) : NextCanon (s.store d a nt o n) :=
  agent (scalarStore h _ _ _ _ fun _ h => ret h)

theorem storeRelease (d a : BitVec 6) (scope n : Nat) : NextCanon (s.storeRelease d a scope n) :=
  agent (scalarAccess h _ _ _ fun _ _ h => afterRelease h (fun _ h => scalarStore h _ _ _ _ fun _ h => ret h) _)

theorem amo (d a b : BitVec 6) (q : BitVec 2) (sys w fp : Bool) (f : Nat → Nat → Nat → Nat → Option Nat)
    {after : State → Place → Nat → Nat → State} (hf : ∀ (t : State) (p : Place) (n m : Nat), t.Canon → (after t p n m).Canon) :
    NextCanon (s.amo d a b q sys w fp f after) := by
  have hp {t : State} (h : t.Canon) := scalarAtomic h (t.x a) (if w then 8 else 4)
    (fun m => (f (if w then 8 else 4) m ((s.x b).toNat % 2 ^ (8 * if w then 8 else 4))
      ((s.x d).toNat % 2 ^ (8 * if w then 8 else 4))).map (· % 2 ^ (8 * if w then 8 else 4)))
    (k := fun s p m => (after s p (if w then 8 else 4) m).retWith d
      (if w || fp then BitVec.ofNat 64 m else sextBytes (if w then 8 else 4) m)) fun _ _ _ h => retWith (hf _ _ _ _ h) ..
  exact agent (ite (scalarAccess h _ _ _ fun _ _ h => afterRelease h (fun _ h => hp h) _) (hp h))

theorem plainAmo (d a b : BitVec 6) (q : BitVec 2) (sys w fp : Bool) (f : Nat → Nat → Nat → Nat → Option Nat) :
    NextCanon (s.amo d a b q sys w fp f noAfter) := amo h _ _ _ _ _ _ _ _ fun _ _ _ _ h => h

theorem amoaddTw (d a b : BitVec 6) (q : BitVec 2) (sc w : Bool) : NextCanon (execAmoaddTw d a b q sc w s) :=
  amo h _ _ _ _ _ _ _ _ fun _ _ _ _ h => .ite (h.wakeWord ..) h

theorem jalr (d a : BitVec 6) (i : BitVec 14) : NextCanon (execJalr d a i s) :=
  agent (ite (trapWith h _) (next (h.setMe _)))

/-! Tasks, the ends of harts and contexts, and the branch queues. -/

theorem taskput (a : BitVec 6) : NextCanon (execTaskput a s) := by
  refine hart h ?_
  dsimp only
  split
  · exact illop h
  · exact ite (illop h) (afterRelease h (fun _ h => ite (trapMem h ..) (ite (trapMem h ..)
      (ite (trap h _) (ret (h.modLaunch ..))))) _)

theorem kend : NextCanon (execKend s) := by
  refine hart h (afterVector h fun t h => ?_)
  split
  · exact trapXfer h _
  · exact ite (stallFor h _) (next ((h.setMe _).endHart ..))

theorem accessKend : NextCanon (execAccessKend s) := by
  refine agent (ite (illop h) ?_)
  split
  · exact trapXfer h _
  · exact ite (stallFor h _) (ite (stallFor (h.setMe _) _) (done (h.setMe _) _))

theorem bqpop (d : BitVec 6) (k : BitVec 2) : NextCanon (execBqpop d k s) := by
  refine hart h ?_
  split
  · exact stallFor h _
  · exact retWith (h.modGang ..) ..

theorem bqpush (k : BitVec 2) (a : BitVec 6) : NextCanon (execBqpush k a s) :=
  agent (ite (illop h) (ite (stallFor h _) (ret (h.modGang ..))))

theorem oread (d a b : BitVec 6) : NextCanon (execOread d a b s) :=
  hart h (ite (illop h) (orchOn h _ _ fun t => (t.x a, fun o => o.readNode (t.x a) (t.x b).toNat)))

end NextCanon

/-! Every instruction and every step of an engine. -/

/-- A load of an access-unit context names its tag by a code. -/
theorem State.Canon.pushTagged {s : State} (h : s.Canon) (t : BitVec 5) (form : AddrForm) (d b : BitVec 6) (base opb : Word)
    (m : Bool) : GivesCanon id (match Tag.ofCode t.toNat with
      | none => illopP
      | some t => s.pushLoad form d b base opb (some t) false false false m) := by
  split
  · exact .illop
  · exact h.pushLoad ..

section
variable {s : State} (h : s.Canon)
include h

/-- The moves that no instruction makes. -/
theorem NextCanon.exec_of_isMove {i : Instr} (hi : isMove i = true) : NextCanon (exec i s) := by
  cases i
  any_goals cases hi -- an instruction, or the step of a CSR
  case copyCommand => exact .next (h.copyStep ..)
  case copyCompletion => exact .next (h.copyDone ..)
  case adapt => exact .adapt h ..
  case adaptStatus => exact .adaptStatus h ..
  case desc | backup => exact .next (h.orchCmd _ _ _ fun _ => h.orchStage ..)
  case expand => exact .expand h ..
  case orchardRequestPerformed => exact .orchardRequestPerformed h ..
  case mopenBuildEnd => exact .mopenBuildEnd h ..
  case sheafSetBuilt => exact .next (h.modMesh ..)
  case mrecutStatus => exact .mrecutStatus h ..
  case streamEntry => exact .streamEntry h ..
  case chunkResult => exact .chunkResult h ..
  case sq3Contribution => exact .sq3Contribution h _
  case lq7Receive => exact .lq7Receive h _
  case accessContextStop => exact .accessContextStop h _
  case gangRetirement => exact .gangRetirement h _
  case trapEntry => exact .trapEntry h _
  case suspend => exact .suspend h _
  case killgang => exact .killgang h _
  case killlaunch => exact .killlaunch h _
  case dhalt => exact .dhalt h _
  case resume => exact .resume h _
  case dresume => exact .dresume h _
  case gangHalt => exact .next (h.haltGang _)
  case contextCommandStatus => exact .contextCommandStatus h _
  case version => exact .version h _
  case groupset => exact .groupset h _
  case routeset => exact .routeset h _
  case attest => exact .attest h _
  case linkstat => exact .linkstat h _
  case dispatchSample => exact .dispatchSample h _
  case placementStep => exact .placementStep h _
  case gleanerBoundary => exact .gleanerBoundary h _
  case gleanerArrival => exact .gleanerArrival h _
  case shelfUnitTick => exact .next (h.gangs _)
  case turnerRenewal => exact .turnerRenewal h _
  case turnerMiss => exact .turnerMiss h _
  case registerRefresh => exact .next h
  case wcEntryTimeout => exact .next (h.timeoutEntry ..)
  case granaryTick => exact .next ⟨h.mem, h.store⟩
  case granaryDebit => exact .granaryDebit h _
  case arbiterPeriod | clockLower | clockRaise | bgo | eventW1c => exact .next h.withMod
  case thermtrip => exact .thermtrip h
  case moduleReset => exact .next h.moduleReset
  case selfTest => exact .next h.selfTest
  case dclTraining => exact .dclTraining h
  case imageCopied => exact .imageCopied h
  case dclFailure => exact .dclFailure h
  case portDown => exact .portDown h _
  case portRetrained => exact .portRetrained h _
  case cxlPortLost => exact .cxlPortLost h _
  case doorbellOrdinary | doorbellSupervisor => exact .next (h.doorbell ..)
  case doorbellDbell => exact .doorbellDbell h _
  case elementGroupCompletion => exact .elementGroupCompletion h ..
  case matrixUnitCompletion => exact .matrixUnitCompletion h ..
  case accessPerformed => exact .next (h.accessStep ..)
  case catalogueAnswer => exact .catalogueAnswer h _

/-- Every instruction, of whoever is in execution. -/
theorem NextCanon.exec (i : Instr) : NextCanon (exec i s) := by
  cases i
  case fboot | seventW1c | fpartWrite | fgrateWrite | fctest | frcommit | fsvnWrite | fhtest | lgmodeWrite |
      qenWrite | cgroupWrite | csrWrite => exact .csrStep h ..
  case add | sub | and | or | xor | andn | sll | srl | sra | slt | sltu | seq | min | max | minu | maxu | mul |
      mulh | mulhu | div | divu | rem | remu | clz | ctz | popc | addi | andi | ori | xori | slti | sltiu |
      slli | srli | srai | lui | addpc => exact .alu h ..
  case faddD | fsubD | fmulD | fdivD | fsqrtD | fcvtLD | fcvtLuD | fcvtFlD | fcvtFluD | fcvtWD | faddS |
      fsubS | fmulS | fdivS | fsqrtS | fcvtLS | fcvtLuS | fcvtFlS | fcvtFluS | fmaddD | fmsubD | fnmaddD |
      fnmsubD | fmaddS | fmsubS | fnmaddS | fnmsubS => exact .fpRound h ..
  case fminD | fmaxD | fsgnjD | fsgnjnD | fsgnjxD | feqD | fltD | fleD | fclassD | fminS | fmaxS | fsgnjS |
      fsgnjnS | fsgnjxS | feqS | fltS | fleS | fclassS | fcvtWS => exact .fpExact h ..
  case lb | lh | lw | ld | lbu | lhu | lwu => exact .load h ..
  case sb | sh | sw | sd => exact .store h ..
  case lbAq | lhAq | lwAq | ldAq | lbuAq | lhuAq | lwuAq => exact .loadAcquire h ..
  case sbRl | shRl | swRl | sdRl => exact .storeRelease h ..
  case amoadd | amoswap | amoand | amoor | amoxor | amomin | amomax | amominu | amomaxu | amocas | amofadd =>
    unfold Machine.exec
    exact .plainAmo h ..
  case amoaddTw => exact .amoaddTw h ..
  case beq | bne | blt | bge | bltu | bgeu => exact .branch h ..
  case csrrw | csrrs | csrrc =>
    unfold Machine.exec
    exact .csr h ..
  case vadd | vsub | vmul | vdiv | vmin | vmax | vsadd | vssub | vmulh | vrem | vand | vor | vxor | vsll |
      vshr | vsqrt | vabs | vneg | vsgnj | vsgnjn | vsgnjx | vclass | vmv => exact .both h (h.pushVop ..)
  case vcmpeq | vcmpne | vcmplt | vcmple | vcmpgt | vcmpge | vcmpunord => exact .both h (h.pushCmp ..)
  case vmand | vmor | vmxor | vmandn | vmnot => exact .both h (h.pushMask ..)
  case vmpopc | vmfirst => exact .both h (h.pushCount ..)
  case vmset | vid => exact .both h (h.pushFill ..)
  case vslideup | vslidedn | vcmprs | vexpnd | vslide1up | vslide1dn => exact .both h (h.pushSlide ..)
  case vgathr | vsend => exact .both h (h.pushIndexed ..)
  case vresh => exact .both h (h.pushResh ..)
  case vbcast => exact .both h (h.pushBcast ..)
  case vsel => exact .both h (h.pushSel ..)
  case vfence => exact .vfence h ..
  case mstream => exact .both h (h.pushStream ..)
  case vfmadd | vfmsub | vfnmadd | vfnmsub => exact .execute h (h.pushFma ..)
  case vfmaddAcc | vfmsubAcc | vfnmaddAcc | vfnmsubAcc => exact .execute h (h.pushFmaAcc ..)
  case vaddAcc | vsubAcc | vmulAcc | vdivAcc | vminAcc | vmaxAcc | vsaddAcc | vssubAcc | vmulhAcc | vremAcc |
      vandAcc | vorAcc | vxorAcc | vsllAcc | vshrAcc | vsqrtAcc | vabsAcc | vnegAcc | vsgnjAcc | vsgnjnAcc |
      vsgnjxAcc | vclassAcc | vmvAcc => exact .execute h (h.pushVacc ..)
  case vcvt => exact .execute h (h.pushCvt ..)
  case vredsum | vredmin | vredmax | vredand | vredor | vredxor => exact .execute h (h.pushRed ..)
  case vscansum | vscanmin | vscanmax => exact .execute h (h.pushScan ..)
  case vfunc => exact .execute h (h.pushFunc ..)
  case vcfg => exact .execute h (h.pushCfg ..)
  case vgete => exact .execute h (h.pushGete ..)
  case vsete => exact .execute h (h.pushSete ..)
  case vsalsel => exact .execute h (h.pushSalsel ..)
  case vlds => exact .execute h (h.pushLoad ..)
  case vsts => exact .execute h (h.pushStore ..)
  case vld | vldx => exact .execute h (.ite .illop (h.pushLoad ..))
  case vst | vstx => exact .execute h (.ite .illop (h.pushStore ..))
  case vwin => exact .execute h (h.pushWin ..)
  case vwacc => exact .execute h (h.pushWacc ..)
  case vwmerge => exact .execute h (.after fun _ => h.pushVec _)
  case vlsync => exact .execute h (h.pushVec _)
  case vfar => exact .execute h (h.pushFar ..)
  case mma => exact .execute h (h.pushMma ..)
  case mld | mst => exact .execute h (h.pushMove ..)
  case mzero => exact .execute h (.after fun _ => (h.modTile ..).pushMatrix _)
  case mwrow | maddrow => exact .execute h (h.pushRow ..)
  case vsowF32 | vsowF64 | vsowN32 => exact .execute h (h.pushSow ..)
  case oexpand => exact .execute h (h.pushOexpand ..)
  case cmdbCopy | cmdbCat | cmdbOrch => exact .execute h (h.pushCmdb ..)
  case ald | agather | atrans => exact .accessPush h (h.pushTagged ..)
  case aldCl => exact .accessPush h (h.pushAldCl _)
  case ast | ascat => exact .accessPush h (h.pushStore ..)
  case astCl => exact .accessPush h (h.pushAstCl _)
  case afar => exact .accessPush h (h.pushFar ..)
  case ctxsave | ctxload => exact .context h ..
  case jal => exact .agent (.next (h.setMe _))
  case jalr => exact .jalr h ..
  case fence => exact .fence h ..
  case fenceSv => exact .hart h (.afterVector h fun _ h => .ret h)
  case ifence => exact .hart h (.ret (h.dropLines ..))
  case waitw => exact .waitw h ..
  case barsync => exact .arriving h false fun _ h => .awaitPhase h
  case barrive => exact .arriving h false fun _ h => .ret h
  case bardrop => exact .arriving h true fun _ h => .ret h
  case barwait => exact .hart h (.awaitPhase h)
  case taskget => exact .hart h (.join h ..)
  case taskput => exact .taskput h _
  case launch => exact .launch h ..
  case kend => exact .kend h
  case accessKend => exact .accessKend h
  case brk => exact .hart h (.trap h _)
  case bqpop => exact .bqpop h ..
  case bqpush => exact .bqpush h ..
  case vsetvl => exact .vsetvl h ..
  case vsetvlP => exact .vsetvlP h ..
  case qdrain => exact .qdrain h _
  case spalloc => exact .spalloc h ..
  case spfree => exact .spfree h _
  case sprenew => exact .sprenew h ..
  case spage => exact .spage h ..
  case sowload => exact .sowload h _
  case mwait => exact .mwait h
  case mopen => exact .mopen h ..
  case mclose => exact .mclose h _
  case msheaf => exact .msheaf h ..
  case mgenrel => exact .mgenrel h ..
  case mrecut => exact .mrecut h ..
  case mquery => exact .mquery h ..
  case onew => exact .onew h ..
  case odesc d a => exact .hart h (.orchOn h _ _ fun t => (t.x a, fun o => o.desc (t.x a)))
  case obackup d a b => exact .hart h (.orchOn h _ _ fun t => (t.x a, fun o => o.backupFrom (t.x a) (t.x b) false))
  case oreuse d a => exact .hart h (.orchOn h _ _ fun t => (t.x a, fun o => o.reuse (t.x a)))
  case ofree d a => exact .hart h (.orchOn h _ _ fun t => (t.x a, fun o => o.release (t.x a)))
  case oread => exact .oread h ..
  case tret => exact .tret h
  case xlinv => exact .xlinv h ..
  case wfi => exact .wfi h
  case fwcall => exact .fwcall h
  case haltc => exact .haltc h _
  case haltcRelease => exact .haltcRelease h _
  case fbtabWrite => exact .ite (.csrStep h ..) (.next h)
  case sdstatRead => exact .sdstatRead h
  all_goals exact .exec_of_isMove h rfl

end

end Sys2Proof.Machine
end

section
/-! Memory in canonical form: the issue of an instruction, the moves and the step (R12, R26, R143, R166, R382). -/

namespace Sys2Proof.Machine

namespace State.Canon
variable {s : State} (h : s.Canon)
include h

theorem keepSkip (a : Agent) (skip : Bool) : (s.keepSkip a skip).Canon := h.modThread ..

theorem ownsScalar (a : Agent) (w : Word32) : (s.ownsScalar a w).Canon := by
  unfold State.ownsScalar
  dsimp only
  split
  · exact ite (h.modThread ..) h
  · exact h

theorem trapBad (gi : Nat) : (s.trapBad gi).Canon := by
  refine foldl (fun _ _ h => ?_) _ (h.modGang ..)
  split
  · exact h.enterTrap ..
  · exact h

theorem lookAhead (a : Agent) (va : Word) (n : Nat) : (s.lookAhead a va n).Canon := by
  refine ite h ?_
  split
  · rename_i t _ hp _
    have ht : t.Canon := h.place hp
    split
    · exact (ht.noteRead ..).modThread ..
    · exact ht
  · exact h

theorem landFor {a : Agent} {w : Word32} {o : State → Out} {t : State} (e : s.landFor a w o = some t) : t.Canon := by
  have hv : State.Canon (if keepsTaken w then s else s.forgetTaken a) := ite h (h.forgetTaken a)
  unfold State.landFor at e
  dsimp only at e
  split at e
  · obtain ⟨-, he⟩ | ⟨-, he⟩ := ite_eq_iff.1 e
    · exact Option.some.inj he ▸ hv
    · exact hv.performFlight he
  · exact Option.some.inj e ▸ hv

/-- A word about to be executed is in no byte of memory. -/
theorem enter (a : Agent) (w : Word32) : ({ s with cur := some a, word := w } : State).Canon := ⟨h.mem, h.store⟩

end State.Canon

namespace NextCanon
variable {s : State}

section
variable (h : s.Canon)
include h

theorem meaning (a : Agent) (w : Word32) : NextCanon (s.meaning a w) := by
  unfold State.meaning
  split
  · exact trap h _
  · exact illop h
  · exact exec h _

theorem runWord (a : Agent) (w : Word32) : NextCanon (s.runWord a w) := by
  refine ite (stallFor (h.enter a w) _) ?_
  split
  · exact stallFor (h.enter a w) _
  · exact (meaning ((h.enter a w).landFor ‹_›) a w).mapNext fun _ h => h.ownsScalar a w

theorem runLate (a : Agent) (w : Word32) : NextCanon (s.runLate a w) := by
  unfold State.runLate
  split
  · exact ite (stallFor (h.enter a w) _) ((startLoad (h.enter a w) ..).mapNext fun _ h => h.ownsScalar a w)
  · exact runWord h a w

theorem runEarly (a : Agent) (w : Word32) : NextCanon (s.runEarly a w) := by
  unfold State.runEarly
  split
  · exact ite (stallFor (h.enter a w) _) ((earlyLoad (h.enter a w) ..).mapNext fun _ h => h.ownsScalar a w)
  · exact runWord h a w

/-! Issue, with any meaning of the fetched word that keeps the form. -/

variable {a : Agent} {k : State → Word32 → Out} (hk : ∀ (t : State) (w : Word32), t.Canon → NextCanon (k t w))
include hk

theorem runPc : NextCanon (s.runPc a k) := by
  unfold State.runPc
  dsimp only
  split
  · exact next (h.modThread ..)
  · exact landed h (fun _ h => trapMem (h.enter ..) ..) a
  · have hf := h.of_noted (State.Noted.fetch ‹_›)
    exact ite (ite (landed hf (fun _ h => trap (h.enter ..) _) a)
      ((hk _ _ (hf.modThread ..)).mapNext fun _ h => h.keepSkip ..)) (hk _ _ hf)

theorem goOn : NextCanon (s.goOn a k) := by
  unfold State.goOn
  dsimp only
  split
  case h_1 => exact runPc h hk
  case h_2 | h_3 | h_4 => exact next h
  case h_5 | h_6 => exact next (h.trySettle _)
  all_goals exact next (.ite (h.modThread ..) h)

theorem issueWith : NextCanon (s.issueWith a k) := by
  refine ite (next h) (ite (next (h.trapBad _)) ?_)
  split
  · split
    · exact landed h (fun _ h => next (h.takePending ..)) a
    · exact goOn h hk
  · exact goOn h hk

end

theorem move (h : s.Canon) (m : Turn) : NextCanon (s.move m) := by
  cases m with
  | issue a => exact issueWith h fun _ w h => runWord h a w
  | late a => exact issueWith h fun _ w h => runLate h a w
  | look a va n => exact next (h.lookAhead a va n)
  | early a => exact issueWith h fun _ w h => runEarly h a w
  | event i => exact ite (exec h i) (next h)

/-- A step takes a move off the agenda, or counts a turn, and makes the move. -/
theorem step (h : s.Canon) : NextCanon (step s) := by
  have hr (l : List Turn) : State.Canon { s with agenda := l } := ⟨h.mem, h.store⟩
  have hn : State.Canon { s with turn := s.turn + 1 } := ⟨h.mem, h.store⟩
  unfold Machine.step
  split
  · exact ite (next (hr _)) (move (hr _) _)
  · refine ite (next hn) ?_
    split
    · exact move hn _
    · exact next hn

end NextCanon

/-- Settles O10: every function that a step is made of keeps the form, since what it writes itself is one of the writes of
Laws/Memory. -/
theorem stepKeepsMemoryForm : Obligations.StepKeepsMemoryForm := by
  unfold Obligations.StepKeepsMemoryForm
  intro s t hmem hstore e
  have ht := (NextCanon.step ⟨hmem, hstore⟩).of_next t e
  exact ⟨ht.mem, ht.store⟩

end Sys2Proof.Machine
end

section
/-! HALTC of a stopped core (R20, R405, R448): the gangs of a launch that is halted whole are asked to leave together, but
for those on a stopped core, so that one on the core that HALTC names is not asked. -/

namespace Sys2Proof.Machine

/-- A hart at level 2 that names core 1 in g1. -/
def holdingHart : Thread := { Thread.empty with lvl := 2, dlvl := 2, regs := [(1, 1)] }

/-- Its gang, resident on core 0, of no launch. -/
def holdingGang : Gang := { Gang.empty with st := .resident, launch := 1, harts := [holdingHart] }

/-- A deterministic launch of one gang. -/
def wholeLaunch : Launch :=
  { part := 0, lid := 1, desc := [0, 0, 0, 1, 0x200, 0, 0, 0], level := 0, super := false
    head := ⟨true, 8, 8, 1, 1, 0, 1024, false, 0x1000, 0, 0, 0⟩
    coef := [], dirDims := 0, queues := [], left := 0, outcome := 0, eacct := 0, effPrio := 0, waited := 0, samples := 0
    acceptOrd := 0, next := 1, killed := [], retired := 0, complete := false, epochs := [], progressed := false }

/-- The machine with the hart in execution, and the gang of the launch on core 1, which has stopped. -/
def stoppedNeighbour : State := { State.reset with
  gangs := [holdingGang, { Gang.empty with st := .resident, core := 1 }], launches := [wholeLaunch], cur := some ⟨0, .hart 0⟩
  cores := modifyAt State.reset.cores 1 fun c => { c with stopped := true } }

/-- What the hart waits for after an instruction. -/
def waitAfter (o : Out) : Option Wait :=
  match o with
  | .next t => some t.me.wait
  | _ => none

/-- Refutes O39: HALTC of a stopped core retires although a gang of a deterministic launch is resident there, since the gangs
that are asked to leave together with it are those on running cores, and it is none of them. -/
theorem not_privilegedComplete : ¬ Obligations.PrivilegedComplete := by
  unfold Obligations.PrivilegedComplete
  intro h
  obtain ⟨-, hfirm⟩ := h stoppedNeighbour 1 0 (by decide +kernel) rfl
  obtain ⟨-, -, hhold⟩ := hfirm (by decide +kernel)
  obtain ⟨-, -, -, hwaits⟩ := hhold (by decide +kernel)
  obtain ⟨t, ht, hwait, -⟩ := hwaits (by decide +kernel) (by decide +kernel)
  have hretired : waitAfter (exec (.haltc 1) stoppedNeighbour) = some .none := by decide +kernel
  rw [ht] at hretired
  cases (Option.some.inj hretired).symm.trans hwait

end Sys2Proof.Machine
end

section
/-! What a run of stopping cores loses, and what a run of breaking groups breaks (R271, R448, R452, R457). -/

namespace Sys2Proof.Machine

/-! Cores that stop, one after the other. -/

/-- The core stands still with nothing dealt. -/
def CoreSt.Lost (c : CoreSt) : Prop := c.stopped = true ∧ c.lanes = List.replicate 8 none

/-- The gang has no tile and no allocation. -/
def Gang.Bare (g : Gang) : Prop := g.tiles = [] ∧ g.allocs = []

/-- A gang after some cores have stopped. -/
structure Gang.Loses (g u : Gang) : Prop where
  st : u.st = g.st
  core : u.core = g.core
  bare : g.st = .resident → g.Bare → u.Bare

/-- A state after some cores have stopped. -/
structure State.Loses (s t : State) : Prop where
  mem : t.mem = s.mem
  mod : t.mod = s.mod
  length : t.cores.length = s.cores.length
  core : ∀ k, (s.core k).Lost → (t.core k).Lost
  gang : ∀ (j : Nat) (g : Gang), s.gangs[j]? = some g → ∃ u, t.gangs[j]? = some u ∧ g.Loses u

theorem Gang.Loses.trans {g u v : Gang} (h : g.Loses u) (k : u.Loses v) : g.Loses v :=
  ⟨k.st.trans h.st, k.core.trans h.core, fun hr hb => k.bare (h.st.trans hr) (h.bare hr hb)⟩

theorem Gang.loses_lose (g : Gang) (core n : Nat) : g.Loses (g.lose core n) := by
  by_cases hk : g.tilesOn = some core <;> by_cases hc : g.core = core <;> cases hs : g.st
  all_goals exact ⟨by simp [Gang.lose, hk, hc, hs], by simp [Gang.lose, hk, hc, hs], fun hr ⟨ht, ha⟩ => by
    simp_all [Gang.lose, Gang.Bare]⟩

theorem State.Loses.refl (s : State) : s.Loses s := ⟨rfl, rfl, rfl, fun _ => id, fun _ g h => ⟨g, h, rfl, rfl, fun _ => id⟩⟩

theorem State.Loses.trans {s t u : State} (h : s.Loses t) (k : t.Loses u) : s.Loses u := by
  refine ⟨k.mem.trans h.mem, k.mod.trans h.mod, k.length.trans h.length, fun i => k.core i ∘ h.core i, fun j g hg => ?_⟩
  obtain ⟨v, hv, hgv⟩ := h.gang j g hg
  obtain ⟨w, hw, hvw⟩ := k.gang j v hv
  exact ⟨w, hw, hgv.trans hvw⟩

/-- The core that stops is lost. -/
theorem State.lost_loseCore {s : State} {core : Nat} (h : core < s.cores.length) : ((s.loseCore core).core core).Lost := by
  rw [State.core_loseCore_self s core h]
  exact ⟨rfl, rfl⟩

theorem State.Loses.loseCore (s : State) (core : Nat) : s.Loses (s.loseCore core) := by
  refine ⟨rfl, rfl, length_modifyAt .., fun k hk => ?_, fun j g hg => ⟨_, State.getElem?_loseCore s core hg, g.loses_lose ..⟩⟩
  by_cases h : k = core
  · subst h
    by_cases hlt : k < s.cores.length
    · exact State.lost_loseCore hlt
    · have hnone : s.core k = .reset := by simp [State.core, List.getElem?_eq_none (Nat.le_of_not_lt hlt)]
      rw [hnone] at hk
      cases hk.1
  · rwa [State.core_loseCore_other s core h]

/-- Each of the cores has stopped, and the gangs that were resident on them have lost what they held there. -/
theorem State.Loses.foldl (l : List Nat) (s : State) :
    s.Loses (l.foldl State.loseCore s) ∧ (∀ k ∈ l, k < s.cores.length → ((l.foldl State.loseCore s).core k).Lost) ∧
      ∀ (j : Nat) (g : Gang), s.gangs[j]? = some g → g.st = .resident → g.core ∈ l →
        ((l.foldl State.loseCore s).gangOf j).Bare := by
  induction l generalizing s with
  | nil => exact ⟨.refl s, nofun, fun _ _ _ _ h => absurd h List.not_mem_nil⟩
  | cons c l ih =>
    have hc := Loses.loseCore s c
    obtain ⟨hl, hcores, hgangs⟩ := ih (s.loseCore c)
    refine ⟨hc.trans hl, fun k hk hlt => ?_, fun j g hg hst hk => ?_⟩
    · rw [List.foldl_cons]
      obtain rfl | hk := List.mem_cons.1 hk
      · exact hl.core k (State.lost_loseCore hlt)
      · exact hcores k hk (hc.length ▸ hlt)
    · have hlose := State.getElem?_loseCore s c hg
      obtain rfl | hk := List.mem_cons.1 hk
      · obtain ⟨htiles, hallocs, -⟩ := Gang.lose_of_resident (s.free + 2 ^ 19 * j) hst rfl
        obtain ⟨u, hu, hgu⟩ := hl.gang j _ hlose
        rw [List.foldl_cons, State.gangOf_of hu]
        exact hgu.bare ((g.lose_st ..).trans hst) ⟨htiles, hallocs⟩
      · have hgl := g.loses_lose c (s.free + 2 ^ 19 * j)
        exact hgangs j _ hlose (hgl.st.trans hst) (hgl.core ▸ hk)

/-! Groups that break. -/

/-- An entry of the group table, broken where it is hit. -/
def GroupEntry.brokenIf (e : GroupEntry) (hit : Bool) : GroupEntry := if hit then { e with broken := true } else e

/-- A gang after some groups have broken: what names its group stays, and the gang is told if it is hit. -/
structure Gang.Breaks (g u : Gang) (hit : Bool) : Prop where
  core : u.core = g.core
  st : u.st = g.st
  gidx : u.coll.gidx = g.coll.gidx
  notMem : u.coll.notMem = g.coll.notMem
  kept : g.coll.broken = true → u.coll.broken = true
  broken : hit = true → g.st ≠ .retired → g.coll.notMem = false → u.coll.broken = true
  same : hit = false → u = g

/-- A state after the groups that `hit` tells by partition and index have broken. -/
structure State.Breaks (s t : State) (hit : Nat → Nat → Bool) : Prop where
  mem : t.mem = s.mem
  mod : t.mod = s.mod
  groups : ∀ p, (t.part p).groups = (s.part p).groups.map fun e => e.brokenIf (hit p e.gidx)
  gang : ∀ (k : Nat) (g : Gang), s.gangs[k]? = some g →
    ∃ u, t.gangs[k]? = some u ∧ g.Breaks u (hit (s.partOfCore g.core) g.coll.gidx)

theorem GroupEntry.brokenIf_gidx (e : GroupEntry) (hit : Bool) : (e.brokenIf hit).gidx = e.gidx := by
  cases hit <;> rfl

theorem GroupEntry.brokenIf_brokenIf (e : GroupEntry) (a b : Bool) : (e.brokenIf a).brokenIf b = e.brokenIf (a || b) := by
  cases a <;> cases b <;> rfl

theorem GroupEntry.brokenIf_anyRoute (e : GroupEntry) (hit : Bool) (m : ModSt) (p : Option Nat → Bool) :
    (e.brokenIf hit).anyRoute m p = e.anyRoute m p := by
  cases hit <;> rfl

theorem Gang.Breaks.refl (g : Gang) : g.Breaks g false := ⟨rfl, rfl, rfl, rfl, id, nofun, fun _ => rfl⟩

theorem Gang.Breaks.trans {g u v : Gang} {a b : Bool} (h : g.Breaks u a) (k : u.Breaks v b) : g.Breaks v (a || b) := by
  refine ⟨k.core.trans h.core, k.st.trans h.st, k.gidx.trans h.gidx, k.notMem.trans h.notMem, k.kept ∘ h.kept,
    fun hit hst hn => ?_, fun hit => ?_⟩
  · cases a
    · exact k.broken hit (h.st ▸ hst) (h.notMem.trans hn)
    · exact k.kept (h.broken rfl hst hn)
  · obtain ⟨ha, hb⟩ := Bool.or_eq_false_iff.1 hit
    rw [k.same hb, h.same ha]

theorem State.Breaks.refl (s : State) : s.Breaks s fun _ _ => false :=
  ⟨rfl, rfl, fun _ => (List.map_id _).symm, fun _ g h => ⟨g, h, .refl g⟩⟩

theorem State.Breaks.trans {s t u : State} {a b : Nat → Nat → Bool} (h : s.Breaks t a) (k : t.Breaks u b) :
    s.Breaks u fun p g => a p g || b p g := by
  refine ⟨k.mem.trans h.mem, k.mod.trans h.mod, fun p => ?_, fun j g hg => ?_⟩
  · rw [k.groups, h.groups, List.map_map]
    refine List.map_congr_left fun e _ => ?_
    rw [Function.comp_apply, GroupEntry.brokenIf_gidx, GroupEntry.brokenIf_brokenIf]
  · obtain ⟨v, hv, hgv⟩ := h.gang j g hg
    obtain ⟨w, hw, hvw⟩ := k.gang j v hv
    have hpart : t.partOfCore v.core = s.partOfCore g.core := by rw [State.partOfCore, h.mod, hgv.core]; rfl
    rw [hpart, hgv.gidx] at hvw
    exact ⟨w, hw, hgv.trans hvw⟩

theorem State.Breaks.congr {s t : State} {a b : Nat → Nat → Bool} (h : s.Breaks t a) (e : ∀ p g, a p g = b p g) : s.Breaks t b :=
  (funext fun p => funext fun g => e p g : a = b) ▸ h

/-- A gang by place after a group has broken. -/
theorem State.getElem?_breakGroup {s : State} {k : Nat} {g : Gang} (part gidx : Nat) (hg : s.gangs[k]? = some g) :
    ∃ l, (s.breakGroup part gidx).gangs[k]? = some
      (if decide (g.st ≠ .retired) && decide (g.coll.gidx = gidx) && !g.coll.notMem && decide (s.partOfCore g.core = part) then
        { g with coll := { g.coll with broken := true }, ents := l } else g) := by
  unfold State.breakGroup
  dsimp only
  rw [List.getElem?_map, show (s.modPart part _).gangs[k]? = some g from hg]
  exact ⟨_, rfl⟩

theorem State.Breaks.breakGroup (s : State) (part gidx : Nat) :
    s.Breaks (s.breakGroup part gidx) fun p g => decide (p = part) && decide (g = gidx) := by
  refine ⟨rfl, rfl, fun p => ?_, fun k g hg => ?_⟩
  · show (((modifyAt s.parts part _)[p]?).getD .reset).groups = _
    unfold State.part
    rw [getElem?_modifyAt]
    by_cases hp : p = part
    · subst hp
      rw [if_pos rfl]
      cases s.parts[p]? with
      | none => rfl
      | some q => simp [GroupEntry.brokenIf]
    · simp [hp, GroupEntry.brokenIf]
  · obtain ⟨l, hl⟩ := State.getElem?_breakGroup part gidx hg
    refine ⟨_, hl, ?_⟩
    split
    · rename_i hc
      obtain ⟨⟨⟨-, hi⟩, -⟩, hp⟩ : ((g.st ≠ .retired ∧ g.coll.gidx = gidx) ∧ g.coll.notMem = false) ∧
        s.partOfCore g.core = part := by simpa using hc
      exact ⟨rfl, rfl, rfl, rfl, fun _ => rfl, fun _ _ _ => rfl, by simp [hi, hp]⟩
    · rename_i hc
      refine ⟨rfl, rfl, rfl, rfl, id, fun hit hst hn => absurd ?_ hc, fun _ => rfl⟩
      obtain ⟨hp, hi⟩ : s.partOfCore g.core = part ∧ g.coll.gidx = gidx := by simpa using hit
      simp [hst, hi, hn, hp]

/-- The groups of some entries of a partition, broken one after the other. -/
theorem State.Breaks.foldl (p : Nat) (l : List GroupEntry) (s : State) :
    s.Breaks (l.foldl (fun s e => s.breakGroup p e.gidx) s) fun q g => decide (q = p) && l.any fun e => decide (e.gidx = g) := by
  induction l generalizing s with
  | nil => exact (refl s).congr fun _ _ => (Bool.and_false _).symm
  | cons e l ih =>
    refine ((breakGroup s p e.gidx).trans (ih _)).congr fun q g => ?_
    rw [List.any_cons, Bool.and_or_distrib_left, decide_eq_decide.2 (eq_comm (a := g) (b := e.gidx))]

/-- The group of an index of a partition names a module whose route is the port. -/
def State.needs (s : State) (q p gidx : Nat) : Bool :=
  (s.part p).groups.any fun e => e.anyRoute s.mod (fun r => r = some q) && decide (e.gidx = gidx)

/-- What a port is needed for stays so while groups break. -/
theorem State.Breaks.needs {s t : State} {hit : Nat → Nat → Bool} (h : s.Breaks t hit) (q p gidx : Nat) :
    t.needs q p gidx = s.needs q p gidx := by
  unfold State.needs
  rw [h.groups, h.mod, List.any_map]
  simp only [Function.comp_def, GroupEntry.brokenIf_gidx, GroupEntry.brokenIf_anyRoute]

/-- The groups of some partitions that need a port, broken one after the other. -/
theorem State.Breaks.port (q : Nat) (l : List Nat) (s : State) :
    s.Breaks (l.foldl (fun (s : State) p => ((s.part p).groups.filter fun e => e.anyRoute s.mod fun r => r = some q).foldl
      (fun (s : State) e => s.breakGroup p e.gidx) s) s) fun p g => l.contains p && s.needs q p g := by
  induction l generalizing s with
  | nil => exact refl s
  | cons p l ih =>
    have hp := State.Breaks.foldl p ((s.part p).groups.filter fun e => e.anyRoute s.mod fun r => r = some q) s
    refine (hp.trans (ih _)).congr fun p' g => ?_
    rw [hp.needs, List.any_filter, List.contains_cons]
    by_cases hpp : p' = p
    · subst hpp
      have hself : ((s.part p').groups.any fun e => e.anyRoute s.mod (fun r => r = some q) && decide (e.gidx = g)) =
        s.needs q p' g := rfl
      rw [hself]
      cases s.needs q p' g <;> simp
    · simp [beq_eq_false_iff_ne.2 hpp, hpp]

end Sys2Proof.Machine
end

section
/-! Resets, the path to the boot gang, and links (R443 to R457, R463). -/

namespace Sys2Proof.Machine

section
variable (s : State)

/-! Resets. -/

theorem exec_moduleReset : exec .moduleReset s = .next s.moduleReset := rfl

/-- Nothing of an expander or of the host lies in the firmware store. -/
theorem regionOf_firmware {a : Nat} (h : fwBase ≤ a ∧ a < fwBase + 2 ^ 23) : regionOf a = some .firmware := by
  unfold fwBase at h
  unfold regionOf
  rw [if_neg (by omega), if_neg (by simp; omega), if_neg (by simp; omega), if_pos (by simp; omega)]

/-- Overtemperature leaves the expanders' bytes and the host's. -/
theorem State.get_thermtrip (p : Nat → Bool) (hp : ∀ a, fwBase ≤ a ∧ a < fwBase + 2 ^ 23 → p a = false) (a : Nat) :
    Sparse.get (s.moduleReset.mem.filter fun e => p e.1) a = if p a then Sparse.get s.mem a else 0 := by
  rw [Sparse.get_filter, show s.moduleReset.mem = Sparse.clear s.mem fwBase (2 ^ 23) from rfl, Sparse.get_clear]
  by_cases h : fwBase ≤ a ∧ a < fwBase + 2 ^ 23
  · simp [hp a h]
  · rw [if_neg h]

/-- The bytes that overtemperature leaves are of an expander or of the host. -/
def outlivesTrip (a : Nat) : Bool :=
  match regionOf a with
  | some (.cxl _) | some .host => true
  | _ => false

theorem get_outlivesTrip (m : Memory) (a : Nat) : (if outlivesTrip a then Sparse.get m a else 0) =
    match regionOf a with
    | some (.cxl _) | some .host => Sparse.get m a
    | _ => 0 := by
  unfold outlivesTrip
  split <;> rfl

theorem exec_thermtrip : Answers (exec .thermtrip s) fun t => t.mod.off = true ∧ t.mod.bstat = 0x8000000000000008 ∧ t.gangs = [] ∧
    t.launches = [] ∧ t.mod.fsvn = s.mod.fsvn ∧ t.mod.store = s.mod.store ∧
    (∀ a, Sparse.get t.mem a = if outlivesTrip a then Sparse.get s.mem a else 0) :=
  .intro rfl ⟨rfl, rfl, rfl, rfl, rfl, rfl, s.get_thermtrip outlivesTrip fun a h => by rw [outlivesTrip, regionOf_firmware h]⟩

/-! The self-test and the training. -/

theorem exec_selfTest_done (h : s.mod.bstat ≠ 0 ∨ s.mod.tested = true) : exec .selfTest s = .next s := by
  show Host.Outcome.next s.selfTest = _
  unfold State.selfTest
  rw [if_pos (by simpa using h)]

theorem exec_selfTest (hb : s.mod.bstat = 0) (ht : s.mod.tested = false) : Answers (exec .selfTest s) fun t =>
    t.mod.tested = true ∧ t.free = s.free + 1 ∧ (t.mod.bstat = 0 ∨ t.mod.bstat = 0x8000000000000001) ∧ t.gangs = s.gangs := by
  refine .intro (t := s.selfTest) rfl ?_
  unfold State.selfTest
  rw [if_neg (by simp [hb, ht])]
  refine ⟨?_, rfl, ?_, rfl⟩
  · dsimp only
    split <;> rfl
  · dsimp only
    split
    · exact .inr rfl
    · exact .inl hb

theorem exec_dclTraining : exec .dclTraining s = .next (if (s.mod.tested && decide (s.mod.bstat = 0) && s.mod.dclUp) ||
    [bistFail, imgFault, badImg, badSig, revoked, rollback].contains s.mod.bstat then
      { s with mod := { s.mod with bstat := 1 } } else s) := rfl

/-! The boot gang. -/

theorem exec_imageCopied_idle (h : s.mod.bstat ≠ 2) : exec .imageCopied s = .next s := by
  show Host.Outcome.next (if s.mod.bstat ≠ 2 then s else _) = _
  rw [if_pos h]

/-- The firmware's one hart. -/
theorem bootObject_harts (m : Memory) : (bootObject m).harts = 1 := by
  have hdesc : (bootObject m).desc = [BitVec.ofNat 64 (fwBase + 256), BitVec.ofNat 64 fwBase, 0, 1, 1 + 2 ^ 32, 0, 0, 0] := rfl
  unfold Launch.harts Launch.dw
  rw [hdesc]
  rfl

theorem bootObject_level (m : Memory) : (bootObject m).level = 2 := rfl

/-- The boot gang has one hart, at level 2, with no register but g3 set. -/
theorem State.startBoot_gang : ∃ g : Gang, s.startBoot.gangs = s.gangs ++ [g] ∧ g.core = 0 ∧ g.harts.length = 1 ∧
    ∀ th ∈ g.harts, th.lvl = 2 ∧ th.dlvl = 2 ∧ ∀ r, r ≠ 3 → th.reg r = 0 := by
  refine ⟨_, rfl, rfl, ?_, fun th hth => ?_⟩
  · rw [List.length_map, Launch.newGang_length, bootObject_harts]
  · obtain ⟨u, hu, rfl⟩ := List.mem_map.1 hth
    obtain ⟨h, hh⟩ := List.getElem?_of_mem hu
    have hlt : h < 1 := by
      have := (List.getElem?_eq_some_iff.1 hh).1
      rwa [Launch.newGang_length, bootObject_harts] at this
    obtain rfl : h = 0 := by omega
    rw [Launch.newGang_harts hh]
    refine ⟨rfl, rfl, fun r hr => ?_⟩
    rw [Thread.reg_setReg]
    split
    · rfl
    · by_cases hr0 : r = 0
      · rw [hr0]
        rfl
      · have h4 : r ≠ 4 := fun h => ‹¬(r = 4 ∧ r ≠ 0)› ⟨h, hr0⟩
        simp [Thread.reg, Launch.newHart, Sparse.get, hr, hr0, h4]

theorem State.startBoot_parked {k : Nat} (h0 : 0 < k) (hk : k < s.cores.length) : (s.startBoot.core k).parked = true := by
  have hcore := List.getElem?_eq_getElem hk
  unfold State.core
  rw [show s.startBoot.cores = s.cores.mapIdx fun i c => if i = 0 then c else { c with parked := true } from rfl,
    List.getElem?_mapIdx, hcore, Option.map_some, Option.getD_some, if_neg (by omega)]

/-- The firmware store with the image read into it. -/
def State.imageRead (s : State) : Memory :=
  copyRun (Sparse.clear s.mem fwBase 0x700000) s.mem fwBase s.mod.bimg.toNat (min s.mod.blen.toNat 0x700000)

/-- The image's place cannot be read. -/
def State.imageFaults (s : State) : Bool :=
  !s.mod.dclUp || decide (s.mod.bimg.toNat < 2 ^ 50) || decide (2 ^ 51 < s.mod.bimg.toNat + min s.mod.blen.toNat 0x700000)

theorem exec_imageCopied_fault (hb : s.mod.bstat = 2) (hf : s.imageFaults = true) :
    exec .imageCopied s = .next { s with mod := { s.mod with bstat := imgFault } } := by
  show execImageCopied s = _
  unfold execImageCopied
  unfold State.imageFaults at hf
  rw [if_neg (not_not.2 hb)]
  dsimp only
  rw [if_pos hf]

section
variable {s} (hb : s.mod.bstat = 2) (hf : s.imageFaults = false)
include hb hf

theorem exec_imageCopied_bad {v : Word} (hv : ({ s with mem := s.imageRead } : State).imageFailure = some v) :
    exec .imageCopied s = .next { s with mem := s.imageRead, mod := { s.mod with bstat := v } } := by
  show execImageCopied s = _
  unfold execImageCopied
  rw [if_neg (not_not.2 hb)]
  dsimp only
  unfold State.imageFaults at hf
  rw [hf, if_neg Bool.false_ne_true]
  split
  · cases hv.symm.trans ‹_›
    rfl
  · cases hv.symm.trans ‹_›

theorem exec_imageCopied_starts (hv : ({ s with mem := s.imageRead } : State).imageFailure = none) :
    ∃ m, exec .imageCopied s = .next ({ s with mem := s.imageRead, mod := m } : State).startBoot := by
  show ∃ m, execImageCopied s = _
  unfold execImageCopied
  rw [if_neg (not_not.2 hb)]
  dsimp only
  unfold State.imageFaults at hf
  rw [hf, if_neg Bool.false_ne_true]
  split
  · cases hv.symm.trans ‹_›
  · exact ⟨_, rfl⟩

end

/-! Links. -/

theorem exec_dclFailure : Answers (exec .dclFailure s) fun t => t.mod = { s.mod with dclUp := false } ∧ t.mem = s.mem ∧
    t.cores.length = s.cores.length ∧ (∀ c ∈ t.cores, c.stopped = true ∧ c.lanes = List.replicate 8 none) ∧
    ∀ (j : Nat) (x : Gang), s.gangs[j]? = some x → ∃ y : Gang, t.gangs[j]? = some y ∧ y.st = x.st ∧
      (x.st = .resident → x.core < s.cores.length → y.tiles = [] ∧ y.allocs = []) := by
  obtain ⟨hl, hcores, hgangs⟩ := State.Loses.foldl (List.range s.cores.length) { s with mod := { s.mod with dclUp := false } }
  refine .intro rfl ⟨hl.mod, hl.mem, hl.length, fun c hc => ?_, fun j x hx => ?_⟩
  · obtain ⟨k, hk⟩ := List.getElem?_of_mem hc
    have hlt : k < s.cores.length := hl.length ▸ (List.getElem?_eq_some_iff.1 hk).1
    have hlost := hcores k (List.mem_range.2 hlt) hlt
    rwa [State.core, hk] at hlost
  · obtain ⟨y, hy, hxy⟩ := hl.gang j x hx
    refine ⟨y, hy, hxy.st, fun hst hlt => ?_⟩
    have hbare := hgangs j x hx hst (List.mem_range.2 hlt)
    rwa [State.gangOf_of hy] at hbare

theorem exec_ports_none {q : Nat} (hq : 24 ≤ q) : exec (.portDown q) s = .next s ∧ exec (.portRetrained q) s = .next s :=
  ⟨congrArg _ (if_pos hq), congrArg _ (if_pos hq)⟩

theorem exec_portRetrained {q : Nat} (hq : q < 24) : exec (.portRetrained q) s =
    .next { s with mod := { s.mod with fabricUp := s.mod.fabricUp ||| BitVec.ofNat 24 (2 ^ q) } } :=
  congrArg _ (if_neg (Nat.not_le.2 hq))

/-- The bit of a port that is cleared. -/
theorem getLsbD_and_not_twoPow {w : Nat} (b : BitVec w) {q : Nat} (hq : q < w) :
    (b &&& ~~~BitVec.ofNat w (2 ^ q)).getLsbD q = false := by
  rw [BitVec.getLsbD_and, BitVec.getLsbD_not, BitVec.getLsbD_ofNat, Nat.testBit_two_pow_self]
  simp [hq]

/-- The module's registers after a port went down. -/
def State.withPortDown (s : State) (q : Nat) : State := { s with mod := { s.mod with
  fabricUp := s.mod.fabricUp &&& ~~~BitVec.ofNat 24 (2 ^ q), event := s.mod.event ||| 2#5, evPort := BitVec.ofNat 5 q } }

theorem exec_portDown {q : Nat} (hq : q < 24) : Answers (exec (.portDown q) s) fun t =>
    (s.withPortDown q).Breaks t fun p g => (List.range 8).contains p && s.needs q p g := by
  refine .intro (congrArg Host.Outcome.next (if_neg (Nat.not_le.2 hq))) ?_
  exact State.Breaks.port q (List.range 8) (s.withPortDown q)

/-- What a port is needed for, as the group table says it. -/
theorem State.needs_iff {q p gidx : Nat} : s.needs q p gidx = true ↔ ∃ e ∈ (s.part p).groups, e.gidx = gidx ∧
    ∃ r ∈ e.ranks, r.1 ≠ s.mod.fmodid.toNat ∧ s.mod.route r.1 = some q := by
  simp only [State.needs, GroupEntry.anyRoute, List.any_eq_true, Bool.and_eq_true, decide_eq_true_eq]
  exact exists_congr fun e => and_congr_right fun _ => and_comm

theorem exec_cxlPortLost {p : Nat} (hp : p < 12) : Answers (exec (.cxlPortLost p) s) fun t => t.mem = s.mem ∧
    t.gangs = s.gangs ∧ t.mod.cxlUp.getLsbD p = false ∧ t.mod.event = s.mod.event ||| 4#5 ∧ t.mod.evCxl.toNat = p ∧
    ∀ x ∈ t.parts, x.fpmem.getLsbD (8 + p) = false := by
  refine .intro (congrArg Host.Outcome.next (if_neg (Nat.not_le.2 hp))) ⟨rfl, rfl, getLsbD_and_not_twoPow _ hp, rfl, ?_, fun x hx => ?_⟩
  · show p % 2 ^ 4 = p
    omega
  · obtain ⟨y, -, rfl⟩ := List.mem_map.1 hx
    exact getLsbD_and_not_twoPow _ (by omega)

end

/-- Settles O52: each clause is the lemma about its move. -/
theorem resetsAndLinks : Obligations.ResetsAndLinks := by
  unfold Obligations.ResetsAndLinks
  intro s
  refine ⟨?_, ?_, exec_selfTest_done s, exec_selfTest s, fun ht hb hd => ?_, fun hf => ?_, fun _ _ => rfl, exec_imageCopied_idle s,
    fun hb hf => exec_imageCopied_fault s hb ?_, fun hb hd hlo hhi => ?_, exec_dclFailure s, fun q => ⟨exec_ports_none s, fun hq =>
    ⟨?_, exec_portRetrained s hq⟩⟩, fun p => ⟨fun hp => congrArg _ (if_pos hp), exec_cxlPortLost s⟩, fun v => ?_⟩
  · exact .intro rfl ⟨rfl, rfl, fun a => Sparse.get_clear⟩
  · obtain ⟨t, ht, hoff, hbstat, hgangs, hlaunches, hfsvn, hstore, hmem⟩ := exec_thermtrip s
    exact ⟨t, ht, hoff, hbstat, hgangs, hlaunches, hfsvn, hstore, fun _ a => (hmem a).trans (get_outlivesTrip s.mem a)⟩
  · rw [exec_dclTraining, if_pos (by simp [ht, hb, hd])]
  · rw [exec_dclTraining, if_pos]
    rw [show [bistFail, imgFault, badImg, badSig, revoked, rollback].contains s.mod.bstat = true from List.contains_iff_mem.2 hf,
      Bool.or_true]
  · unfold State.imageFaults
    simpa [or_assoc] using hf
  · have hf : s.imageFaults = false := by
      unfold State.imageFaults
      rw [hd, decide_eq_false (Nat.not_lt.2 hlo), decide_eq_false (Nat.not_lt.2 hhi)]
      rfl
    refine ⟨fun v hv => exec_imageCopied_bad hb hf hv, fun hv => ?_⟩
    obtain ⟨m, hm⟩ := exec_imageCopied_starts hb hf hv
    exact .intro hm ⟨rfl, rfl, rfl, by
      obtain ⟨g, hg, hcore, hlen, hharts⟩ := State.startBoot_gang ({ s with mem := s.imageRead, mod := m } : State)
      exact ⟨g, hg, hcore, hlen, hharts, fun k h0 hk => State.startBoot_parked _ h0 hk⟩⟩
  · obtain ⟨t, ht, hb⟩ := exec_portDown s hq
    refine ⟨t, ht, hb.mem, ?_, ?_, ?_, fun p hp => ?_⟩
    · rw [hb.mod]
      exact getLsbD_and_not_twoPow _ hq
    · rw [hb.mod]
      rfl
    · rw [hb.mod]
      show q % 2 ^ 5 = q
      omega
    · have hin : (List.range 8).contains p = true := List.contains_iff_mem.2 (List.mem_range.2 hp)
      intro needed
      have hneeds (gidx : Nat) : needed gidx ↔ s.needs q p gidx = true := (s.needs_iff).symm
      refine ⟨fun k e he => ⟨e.brokenIf (s.needs q p e.gidx), ?_, fun h => ?_, fun h => ?_⟩, fun k g hg hpart => ?_⟩
      · rw [hb.groups, List.getElem?_map, show ((s.withPortDown q).part p).groups[k]? = some e from he, Option.map_some, hin,
          Bool.true_and]
      · rw [(hneeds _).1 h]
        rfl
      · rw [Bool.eq_false_of_not_eq_true (mt (hneeds _).2 h)]
        rfl
      · obtain ⟨u, hu, hgu⟩ := hb.gang k g hg
        rw [show (s.withPortDown q).partOfCore g.core = p from hpart, hin, Bool.true_and] at hgu
        exact ⟨u, hu, fun h => hgu.broken ((hneeds _).1 h), fun h => hgu.same (Bool.eq_false_of_not_eq_true (mt (hneeds _).2 h))⟩
  · refine .intro rfl ⟨rfl, fun k hk => ?_⟩
    simp [hk]

end Sys2Proof.Machine
end

section
/-! Maps in canonical form by what they list, and a copied run of bytes. -/

namespace Sys2Proof.Machine

/-- A canonical map lists the places that are not zero. -/
theorem Sparse.mem_iff {w : Nat} {m : Sparse w} {lo : Nat} (hm : m.wfFrom lo = true) {k : Nat} {v : BitVec w} :
    (k, v) ∈ m ↔ v ≠ 0 ∧ Sparse.get m k = v := by
  induction m generalizing lo with
  | nil => exact ⟨nofun, fun ⟨hv, h⟩ => absurd h.symm hv⟩
  | cons e m ih =>
    obtain ⟨i, x⟩ := e
    simp only [Sparse.wfFrom, Bool.and_eq_true, decide_eq_true_eq] at hm
    obtain ⟨⟨-, hx⟩, htail⟩ := hm
    rw [List.mem_cons, ih htail, Sparse.get]
    by_cases hk : k = i
    · subst hk
      have h0 : Sparse.get m k = 0 := Sparse.get_of_lt htail (Nat.lt_succ_self k)
      rw [if_pos rfl, h0]
      constructor
      · rintro (h | ⟨hv, h⟩)
        · cases h
          exact ⟨hx, rfl⟩
        · exact absurd h.symm hv
      · rintro ⟨-, rfl⟩
        exact .inl rfl
    · rw [if_neg hk]
      exact ⟨fun h => h.resolve_left fun h => hk (congrArg Prod.fst h), .inr⟩

theorem Sparse.any_iff {w : Nat} {m : Sparse w} (hm : m.wf = true) (p : Nat × BitVec w → Bool) :
    m.any p = true ↔ ∃ k, Sparse.get m k ≠ 0 ∧ p (k, Sparse.get m k) = true := by
  rw [List.any_eq_true]
  constructor
  · rintro ⟨⟨k, v⟩, he, hp⟩
    obtain ⟨hv, rfl⟩ := (Sparse.mem_iff hm).1 he
    exact ⟨k, hv, hp⟩
  · rintro ⟨k, hv, hp⟩
    exact ⟨_, (Sparse.mem_iff hm).2 ⟨hv, rfl⟩, hp⟩

/-- Listed bytes put elsewhere, at the same distances. -/
theorem Memory.get_foldl_shift {dst0 src0 : Nat} (l : Memory) (j : Nat) : ∀ (m : Memory) (lo : Nat), l.wfFrom lo = true →
    (∀ e ∈ l, src0 ≤ e.1) →
    Sparse.get (l.foldl (fun (m : Memory) e => Sparse.set m (dst0 + (e.1 - src0)) e.2) m) j =
      if dst0 ≤ j ∧ Sparse.get l (src0 + (j - dst0)) ≠ 0 then Sparse.get l (src0 + (j - dst0)) else Sparse.get m j := by
  induction l with
  | nil => exact fun m _ _ _ => (if_neg fun h => h.2 rfl).symm
  | cons e l ih =>
    intro m lo hl hsrc
    obtain ⟨k, v⟩ := e
    simp only [Sparse.wfFrom, Bool.and_eq_true, decide_eq_true_eq] at hl
    obtain ⟨⟨-, hv⟩, htail⟩ := hl
    have hk : src0 ≤ k := hsrc _ (List.mem_cons_self ..)
    rw [List.foldl_cons, ih _ _ htail fun x hx => hsrc x (List.mem_cons_of_mem _ hx), Sparse.get_set, Sparse.get]
    by_cases hj : j = dst0 + (k - src0)
    · have hkey : src0 + (j - dst0) = k := by omega
      have h0 : Sparse.get l k = 0 := Sparse.get_of_lt htail (Nat.lt_succ_self k)
      rw [hkey, h0, if_neg fun h => h.2 rfl, if_pos hj, if_pos rfl, if_pos ⟨by omega, hv⟩]
    · by_cases hd : dst0 ≤ j
      · rw [if_neg hj, if_neg (by omega : src0 + (j - dst0) ≠ k)]
      · rw [if_neg fun h => hd h.1, if_neg hj, if_neg fun h => hd h.1]

/-- A run of bytes copied into an empty memory. -/
theorem Memory.get_copyRun {src : Memory} (hsrc : Memory.wf src = true) (src0 n k : Nat) :
    Sparse.get (copyRun [] src 0 src0 n) k = if k < n then Sparse.get src (src0 + k) else 0 := by
  have hin (e : Nat × BitVec 8) (he : e ∈ src.filter fun e => decide (src0 ≤ e.1) && decide (e.1 < src0 + n)) : src0 ≤ e.1 := by
    have := (List.mem_filter.1 he).2
    simp only [Bool.and_eq_true, decide_eq_true_eq] at this
    exact this.1
  unfold copyRun
  rw [Memory.get_foldl_shift _ k _ 0 (Sparse.wfFrom_filter _ hsrc) hin,
    Sparse.get_filter (p := fun i => decide (src0 ≤ i) && decide (i < src0 + n)), show Sparse.get (Sparse.clear [] 0 n) k = 0 from rfl]
  by_cases hk : k < n
  · rw [Nat.sub_zero, if_pos hk]
    simp [hk, eq_comm]
  · simp [hk]

end Sys2Proof.Machine
end

section
/-! The functions of firmware calls (R404, R450, R451, R455, R456). -/

namespace Sys2Proof.Machine

/-! The lengths of what a report is made of. -/

theorem length_bigBytes (v n : Nat) : (bigBytes v n).length = n := by
  induction n generalizing v with
  | zero => rfl
  | succ n ih => rw [bigBytes, List.length_append, ih, List.length_singleton]

theorem length_sha384 (l : List (BitVec 8)) : (sha384 l).length = 48 := by
  simp [sha384, length_bigBytes]

theorem length_publicKey (d : Nat) : (publicKey d).length = 97 := by
  unfold publicKey
  split
  · simp [length_bigBytes]
  · exact List.length_replicate

theorem length_sign (d k : Nat) (l : List (BitVec 8)) : (sign d k l).length = 96 := by
  unfold sign
  split
  · exact List.length_replicate
  · simp [length_bigBytes]

theorem State.length_report (s : State) {nonce : List (BitVec 8)} (h : nonce.length = 48) : (s.report nonce).length = 1024 := by
  unfold State.report State.reportBytes
  simp only [List.length_append, List.length_cons, List.length_nil, List.length_replicate, List.length_map, List.length_range,
    List.length_take, length_sha384, length_publicKey, length_sign, h]
  omega

theorem length_memBytes (m : Memory) (a n : Nat) : (memBytes m a n).length = n := by
  simp [memBytes]

/-! The caller. -/

/-- A caller's registers as the firmware leaves them: the status in g10, and the value in g11 where the call succeeds (R451). -/
def Thread.answer (t : Thread) (status value : Word) : Thread :=
  if status = 0 then (t.setReg 10 0).setReg 11 value else t.setReg 10 status

theorem Thread.reg_answer (t : Thread) (status value : Word) (r : Nat) : (t.answer status value).reg r =
    if r = 10 then status else if r = 11 ∧ status = 0 then value else t.reg r := by
  unfold Thread.answer
  by_cases hs : status = 0
  · simp only [hs, if_true, Thread.reg_setReg, and_true]
    by_cases h11 : r = 11
    · subst h11; rfl
    · by_cases h10 : r = 10
      · subst h10; rfl
      · simp only [h11, h10, false_and, if_false]
  · simp only [hs, if_false, Thread.reg_setReg, and_false]
    by_cases h10 : r = 10
    · subst h10; rfl
    · simp only [h10, false_and, if_false]

theorem Thread.answer_kept (t : Thread) (status value : Word) :
    (t.answer status value).lvl = t.lvl ∧ (t.answer status value).fepc = t.fepc ∧ (t.answer status value).fplvl = t.fplvl := by
  unfold Thread.answer
  split <;> exact ⟨rfl, rfl, rfl⟩

/-- A caller that has its answer: back at the saved address and level, every register but g10 and g11 kept (R404, R451). -/
structure Thread.Answered (u v : Thread) (status value : Word) : Prop where
  pc : v.pc = wordAligned u.fepc
  lvl : v.lvl = u.fplvl
  g10 : v.reg 10 = status
  g11 : v.reg 11 = if status = 0 then value else u.reg 11
  rest : ∀ r, r ≠ 10 → r ≠ 11 → v.reg r = u.reg r

/-- The return from level 2 answers the caller. -/
theorem Thread.Answered.of_back {u v : Thread} (hl : u.lvl = 2) {status value : Word} {now : Bool} {kept : List Nat}
    (hpc : v.pc = ((u.answer status value).back now kept).pc) (hlvl : v.lvl = ((u.answer status value).back now kept).lvl)
    (hregs : v.regs = (u.answer status value).regs) : u.Answered v status value := by
  obtain ⟨hl', hepc, hplvl⟩ := u.answer_kept status value
  have hreg (r : Nat) : v.reg r = (u.answer status value).reg r := by unfold Thread.reg; rw [hregs]
  refine ⟨hpc.trans ?_, hlvl.trans ?_, ?_, ?_, fun r h10 h11 => ?_⟩
  · simp [Thread.back, hl', hl, hepc]
  · simp [Thread.back, hl', hl, hplvl]
  · rw [hreg, Thread.reg_answer, if_pos rfl]
  · rw [hreg, Thread.reg_answer]
    simp
  · rw [hreg, Thread.reg_answer, if_neg h10, if_neg fun h => h11 h.1]

section
variable {s : State} {ag : Agent} {u : Thread} (ht : s.thread? ag = some u)
include ht

/-- A caller waits in firmware at level 2, whatever function its number names. -/
theorem State.called_eq (p : Nat → Bool) : s.called ag p = (s.called ag (fun _ => true) && p (u.reg 10).toNat) := by
  unfold State.called
  rw [ht]
  dsimp only
  rw [Bool.and_true]

theorem State.called_lvl {p : Nat → Bool} (h : s.called ag p = true) : u.lvl = 2 := by
  unfold State.called at h
  rw [ht] at h
  simp only [Bool.and_eq_true, decide_eq_true_eq] at h
  exact h.1.1.2

/-- A number above 4 names no function. -/
theorem State.called_bad {fn : Nat} (hfn : fn ≤ 4) (h : s.called ag (fun n => decide (5 ≤ n)) = true) :
    s.called ag (fun n => n = fn) = false := by
  rw [State.called_eq ht, Bool.and_eq_true, decide_eq_true_eq] at h
  rw [State.called_eq ht, Bool.and_eq_false_iff, decide_eq_false_iff_not]
  exact .inr (by omega)

/-- The caller goes back to the saved address and level with its registers as the firmware leaves them. -/
theorem State.thread?_fwReturn (hl : u.lvl = 2) (status value : Word) :
    ∃ v, (s.fwReturn ag status value).thread? ag = some v ∧ u.Answered v status value := by
  let s0 : State := { s with cur := some ag }
  let s1 := s0.setMe fun t => t.answer status value
  have hl1 : s1.live = true := (State.live_setMe _).trans (State.live_iff.2 ⟨ag, u, rfl, ht⟩)
  have ht1 : s1.thread? ag = some (u.answer status value) := State.thread?_modThread_self (s := s0) ht _
  have hme : s1.me = u.answer status value := by
    show (s1.thread? ag).getD .empty = _
    rw [ht1]; rfl
  obtain ⟨now, kept, hthaw, hstay⟩ := State.me_returnTrap hl1
  rw [hme] at hthaw hstay
  have hself : s1.returnTrap.thread? ag = some s1.returnTrap.me := by
    obtain ⟨f, hf⟩ : ∃ f, s1.returnTrap = s1.modThread ag f := ⟨_, rfl⟩
    show _ = some ((s1.returnTrap.thread? ag).getD .empty)
    rw [hf, State.thread?_modThread_self ht1]
    rfl
  refine ⟨s1.returnTrap.me, hself, ?_⟩
  by_cases hd : ((u.answer status value).back now kept).lvl = (u.answer status value).dlvl
  · have h := (hthaw hd).rest
    exact .of_back hl (by rw [h]) (by rw [h]) (by rw [h]; rfl)
  · rw [hstay hd]
    exact .of_back hl rfl rfl rfl

end

theorem State.fwReturn_rest (s : State) (ag : Agent) (status value : Word) :
    (s.fwReturn ag status value).mem = s.mem ∧ (s.fwReturn ag status value).mod = s.mod ∧
      (s.fwReturn ag status value).parts = s.parts ∧ (s.fwReturn ag status value).launches = s.launches := ⟨rfl, rfl, rfl, rfl⟩

/-- What firmware finds at the places it reads: a valid entry keeps its number and is not broken, and an error is not 0 (R456). -/
theorem State.readGroup_ok {s : State} {gidx addr : Nat} {e : GroupEntry} (h : s.readGroup gidx addr = some (.ok e)) :
    e.gidx = gidx ∧ e.broken = false := by
  unfold State.readGroup at h
  dsimp only at h
  split at h
  · cases h
  · split at h
    · cases h
    · split at h
      · cases h
      · split at h
        · cases h
        · split at h
          · cases h
          · split at h
            · cases h
            · split at h <;> cases h
              exact ⟨rfl, rfl⟩

/-- A group that is replaced leaves the threads of every agent and the memory (R456). -/
theorem State.thread?_replaceGroup {s : State} {ag : Agent} {u : Thread} (ht : s.thread? ag = some u) (part gidx : Nat)
    (e : Option GroupEntry) : (s.replaceGroup part gidx e).thread? ag = some u := by
  obtain ⟨g, hg, hgt⟩ : ∃ g, s.gangs[ag.gang]? = some g ∧ g.thread? ag.role = some u := by
    unfold State.thread? at ht
    split at ht
    · exact ⟨_, ‹_›, ht⟩
    · cases ht
  obtain ⟨l, hl⟩ := State.getElem?_breakGroup part gidx hg
  rw [State.thread?_of (s := s.replaceGroup part gidx e) hl]
  split <;> exact hgt

theorem State.group?_replaceGroup {s : State} {part gidx : Nat} (hp : part < s.parts.length) {e : Option GroupEntry}
    (he : ∀ x ∈ e, x.gidx = gidx) : ((s.replaceGroup part gidx e).part part).group? gidx = e := by
  have hlen : part < (s.breakGroup part gidx).parts.length := by
    show part < (modifyAt s.parts part _).length
    rwa [length_modifyAt]
  unfold State.replaceGroup
  rw [State.part_modPart hlen]
  unfold PartSt.group?
  dsimp only
  rw [List.find?_append, List.find?_eq_none.2 fun x hx => by simpa using (List.mem_filter.1 hx).2]
  cases e with
  | none => rfl
  | some x => simp [he x rfl]

/-- A cleared entry is none, of whatever partition. -/
theorem State.group?_replaceGroup_none (s : State) (part gidx : Nat) :
    ((s.replaceGroup part gidx none).part part).group? gidx = none := by
  by_cases hp : part < s.parts.length
  · exact State.group?_replaceGroup hp nofun
  · have hnone : (s.replaceGroup part gidx none).parts[part]? = none := by
      show (modifyAt (modifyAt s.parts part _) part _)[part]? = none
      rw [List.getElem?_eq_none_iff, length_modifyAt, length_modifyAt]
      omega
    unfold State.part
    rw [hnone]
    rfl

end Sys2Proof.Machine
end

section
/-! The calls one by one. -/

namespace Sys2Proof.Machine

section
variable {s : State} {ag : Agent} {u : Thread}

/-- The performed function's state, returned to the caller, is an answer. -/
theorem answers_fwReturn {i : Instr} {s1 : State} {status value : Word} {p : State → Prop}
    (hexec : exec i s = .next (s1.fwReturn ag status value)) (ht : s1.thread? ag = some u) (hl : u.lvl = 2)
    (hi : ¬(i = .linkstat ag ∧ status = 0)) (hp : p (s1.fwReturn ag status value)) :
    Answers (exec i s) fun t => p t ∧
      ∃ v : Thread, t.thread? ag = some v ∧ v.pc = wordAligned u.fepc ∧ v.lvl = u.fplvl ∧ v.reg 10 = status ∧
        v.reg 11 = (if status = 0 then value else u.reg 11) ∧
        (∀ r, r ≠ 10 → r ≠ 11 → v.reg r = if r = 12 ∧ i = .linkstat ag ∧ status = 0 then s.mod.cxlUp.setWidth 64 else u.reg r) := by
  obtain ⟨v, hv, hpc, hlvl, hg10, hg11, hrest⟩ := State.thread?_fwReturn ht hl status value
  exact .intro hexec ⟨hp, v, hv, hpc, hlvl, hg10, hg11, fun r h10 h11 => (hrest r h10 h11).trans (if_neg fun h => hi h.2).symm⟩

theorem State.fwCall_called {fn : Nat} (h : s.called ag (fun n => n = fn) = true) (k : State) : s.fwCall ag fn k = .next k := by
  unfold State.fwCall
  rw [if_pos h]

theorem State.fwCall_none {fn : Nat} (h : s.called ag (fun n => n = fn) = false) (hb : s.called ag (fun n => decide (5 ≤ n)) = false)
    (k : State) : s.fwCall ag fn k = .next s := by
  unfold State.fwCall
  rw [h, hb]
  rfl

theorem State.fwCall_bad {fn : Nat} (h : s.called ag (fun n => n = fn) = false) (hb : s.called ag (fun n => decide (5 ≤ n)) = true)
    (k : State) : s.fwCall ag fn k = .next (s.fwReturn ag fwBadFn 0) := by
  unfold State.fwCall
  rw [h, hb]
  rfl

/-- The caller's arguments are its registers. -/
theorem State.arg_of (ht : s.thread? ag = some u) (n : Nat) : s.arg ag n = (u.reg n).toNat := by
  unfold State.arg
  rw [ht]
  rfl

/-- The instructions of the firmware's functions by number (R451). -/
def fwInstrs (ag : Agent) : List (Nat × Instr) :=
  [(0, .version ag), (1, .groupset ag), (2, .routeset ag), (3, .attest ag), (4, .linkstat ag)]

/-- Each function is a firmware call of its number. -/
theorem exec_fwInstr {c : Nat × Instr} (hc : c ∈ fwInstrs ag) : c.1 ≤ 4 ∧ ∃ k, exec c.2 s = s.fwCall ag c.1 k := by
  unfold fwInstrs at hc
  simp only [List.mem_cons, List.not_mem_nil, or_false] at hc
  obtain rfl | rfl | rfl | rfl | rfl := hc <;> exact ⟨by norm_num, _, rfl⟩

end

/-- A route byte that no table may hold (R455): reserved bits, or a port that does not exist. -/
theorem badRoute_iff (v : BitVec 8) : (decide (v.toNat / 32 % 4 ≠ 0) || (v.getLsbD 7 && decide (24 ≤ v.toNat % 32))) = true ↔
    v.toNat / 32 % 4 ≠ 0 ∨ 128 ≤ v.toNat ∧ 24 ≤ v.toNat % 32 := by
  have h7 : v.getLsbD 7 = true ↔ 128 ≤ v.toNat := by
    rw [BitVec.getLsbD, Nat.testBit_eq_decide_div_mod_eq, decide_eq_true_eq]
    omega
  rw [Bool.or_eq_true, Bool.and_eq_true, h7, decide_eq_true_eq, decide_eq_true_eq]

/-- The table that ROUTESET reads is refused for a byte of it that is not allowed, but the module's own (R455). -/
theorem Memory.any_routes_iff {m : Memory} (hm : Memory.wf m = true) (a own : Nat) :
    ((copyRun [] m 0 a 65536).any fun e => decide (e.1 ≠ own) && (decide (e.2.toNat / 32 % 4 ≠ 0) ||
      (e.2.getLsbD 7 && decide (24 ≤ e.2.toNat % 32)))) = true ↔
    ∃ k < 65536, k ≠ own ∧ ((Sparse.get m (a + k)).toNat / 32 % 4 ≠ 0 ∨
      128 ≤ (Sparse.get m (a + k)).toNat ∧ 24 ≤ (Sparse.get m (a + k)).toNat % 32) := by
  rw [Sparse.any_iff (Memory.wf_copyRun m 0 a 65536 rfl)]
  refine exists_congr fun k => ?_
  dsimp only
  rw [Bool.and_eq_true, badRoute_iff, decide_eq_true_eq, Memory.get_copyRun hm]
  by_cases hk : k < 65536
  · rw [if_pos hk]
    refine ⟨fun ⟨_, h⟩ => ⟨hk, h⟩, fun ⟨_, h⟩ => ⟨fun h0 => ?_, h⟩⟩
    rw [h0] at h
    exact h.2.elim (fun h => h rfl) fun h => absurd h.1 (by decide)
  · rw [if_neg hk]
    exact ⟨fun h => absurd rfl h.1, fun h => absurd h.1 hk⟩

theorem Memory.get_putBytes_of_length {l : List (BitVec 8)} {n : Nat} (h : l.length = n) (m : Memory) (a i : Nat) :
    Sparse.get (putBytes m a l) i = if a ≤ i ∧ i < a + n then (l[i - a]?).getD 0 else Sparse.get m i := by
  rw [Memory.get_putBytes, h]

/-- LINKSTAT gives the expanders in g12 beside its answer (R451). -/
theorem exec_linkstat {s : State} {ag : Agent} {u : Thread} (ht : s.thread? ag = some u)
    (h : s.called ag (fun n => n = 4) = true) : ∃ t v, exec (.linkstat ag) s = .next t ∧ t.mem = s.mem ∧ t.mod = s.mod ∧
      t.parts = s.parts ∧ t.launches = s.launches ∧ t.thread? ag = some v ∧
      (u.setReg 12 (s.mod.cxlUp.setWidth 64)).Answered v 0 (s.mod.fabricUp.setWidth 64) := by
  have ht1 := State.thread?_modThread_self ht fun t => t.setReg 12 (s.mod.cxlUp.setWidth 64)
  obtain ⟨v, hv, hans⟩ := State.thread?_fwReturn ht1 (show u.lvl = 2 from State.called_lvl ht h) 0 (s.mod.fabricUp.setWidth 64)
  exact ⟨_, v, State.fwCall_called h _, rfl, rfl, rfl, rfl, hv, hans⟩

/-- Settles O54: each function answers its caller through the one return from the firmware. -/
theorem firmwareCalls : Obligations.FirmwareCalls := by
  unfold Obligations.FirmwareCalls
  intro s ag u ht answered same x y part
  have hx : s.arg ag 11 = x.toNat := State.arg_of ht 11
  have hy : s.arg ag 12 = y.toNat := State.arg_of ht 12
  have hy0 : y.toNat = 0 ↔ y = 0 := ⟨fun h => BitVec.eq_of_toNat_eq h, fun h => h ▸ rfl⟩
  have hsame (status value : Word) : same (s.fwReturn ag status value) := State.fwReturn_rest ..
  refine ⟨fun c hc => ?_, fun hcall => ?_, fun hcall => ?_, fun hcall hwf => ?_, fun hcall => ?_, fun hcall => ?_⟩
  · obtain ⟨hle, k, hk⟩ := exec_fwInstr (s := s) (ag := ag) hc
    refine ⟨fun h hb => hk.trans (State.fwCall_none h hb k), fun hb => ?_⟩
    exact answers_fwReturn (hk.trans (State.fwCall_bad (State.called_bad ht hle hb) hb k)) ht (State.called_lvl ht hb)
      (fun h => absurd h.2 (by decide)) (hsame ..)
  · exact answers_fwReturn (State.fwCall_called hcall _) ht (State.called_lvl ht hcall) nofun (hsame ..)
  · have hl := State.called_lvl ht hcall
    have hexec : exec (.groupset ag) s = .next _ := State.fwCall_called hcall _
    rw [hx, hy] at hexec
    refine ⟨fun h => ?_, fun hlt h0 => ?_, fun hlt hal hne => ⟨fun h => ?_, fun v h => ?_, fun e hp h => ?_⟩⟩
    · rw [if_pos (by simpa using h)] at hexec
      exact answers_fwReturn hexec ht hl nofun (hsame ..)
    · rw [if_neg (by simp [hlt, h0]), if_pos (hy0.2 h0)] at hexec
      exact answers_fwReturn hexec (State.thread?_replaceGroup ht ..) hl nofun ⟨rfl, State.group?_replaceGroup_none ..⟩
    all_goals
      rw [if_neg (by simp [hlt, hal]), if_neg (mt hy0.1 hne), h] at hexec
    · exact hexec
    · exact answers_fwReturn hexec ht hl nofun (hsame ..)
    · obtain ⟨hi, hb⟩ := State.readGroup_ok h
      exact answers_fwReturn hexec (State.thread?_replaceGroup ht ..) hl nofun
        ⟨rfl, State.group?_replaceGroup hp fun _ h => by cases h; exact hi, hb⟩
  · have hl := State.called_lvl ht hcall
    intro bad entry
    have hexec : exec (.routeset ag) s = .next _ := State.fwCall_called hcall _
    rw [hx] at hexec
    refine ⟨fun hp => ?_, fun hp h => ?_, fun hp h htr => ?_, fun hp h htr => ⟨fun hbad => ?_, fun hgood => ?_⟩⟩
    · rw [if_pos hp] at hexec
      exact answers_fwReturn hexec ht hl nofun (hsame ..)
    · rw [if_neg (not_not.2 hp), if_pos (by simp [h])] at hexec
      exact answers_fwReturn hexec ht hl nofun (hsame ..)
    · rw [if_neg (not_not.2 hp), if_neg (by simp [h]), if_pos htr] at hexec
      exact hexec
    all_goals
      rw [if_neg (not_not.2 hp), if_neg (by simp [h]), if_neg (by simp [htr])] at hexec
    · rw [if_pos ((Memory.any_routes_iff hwf ..).2 hbad)] at hexec
      exact answers_fwReturn hexec ht hl nofun (hsame ..)
    · rw [if_neg fun h => ?_] at hexec
      · exact answers_fwReturn hexec ht hl nofun
          ⟨rfl, rfl, fun k hk => (Memory.get_copyRun hwf x.toNat 65536 k).trans (if_pos hk)⟩
      · obtain ⟨k, hk, hne, hb⟩ := (Memory.any_routes_iff hwf ..).1 h
        exact (hgood k hk).elim hne fun h => h hb
  · have hl := State.called_lvl ht hcall
    have hexec : exec (.attest ag) s = .next _ := State.fwCall_called hcall _
    rw [hx, hy] at hexec
    have hlen := State.length_report s (length_memBytes s.mem x.toNat 48)
    generalize s.report (memBytes s.mem x.toNat 48) = report at hexec hlen ⊢
    refine ⟨fun h => ?_, fun hal h => ?_, fun hal h1 h2 h => ?_, fun hal h1 h2 h3 h4 => ?_⟩
    · rw [if_pos h] at hexec
      exact answers_fwReturn hexec ht hl nofun (hsame ..)
    · rw [if_neg (not_not.2 hal), if_pos (by simpa using h)] at hexec
      exact answers_fwReturn hexec ht hl nofun (hsame ..)
    · rw [if_neg (not_not.2 hal), if_neg (by simp [h1, h2]), if_pos (by simpa using h)] at hexec
      exact hexec
    · rw [if_neg (not_not.2 hal), if_neg (by simp [h1, h2]), if_neg (by simp [h3, h4])] at hexec
      exact answers_fwReturn hexec ht hl nofun
        ⟨rfl, Memory.get_putBytes_of_length hlen s.mem y.toNat⟩
  · obtain ⟨t, v, hexec, hmem, hmod, hparts, hlaunches, hv, hpc, hlvl, hg10, hg11, hrest⟩ := exec_linkstat ht hcall
    refine .intro hexec ⟨⟨hmem, hmod, hparts, hlaunches⟩, v, hv, hpc, hlvl, hg10, hg11.trans (by rw [if_pos rfl, if_pos rfl]),
      fun r h10 h11 => (hrest r h10 h11).trans ?_⟩
    rw [Thread.reg_setReg]
    by_cases hr : r = 12
    · rw [if_pos ⟨hr, by omega⟩, if_pos ⟨hr, rfl, rfl⟩]
    · rw [if_neg fun h => hr h.1, if_neg fun h => hr h.1]

end Sys2Proof.Machine
end

section
/-! What the end of gangs and launches leaves alone: the commands, who is in execution, and which agents there are; a gang
that has ended, or is asked to, stays so (R26, R397, R448). -/

namespace Sys2Proof.Machine

/-- The gang has ended, or it is asked to. -/
def Gang.Ending (g : Gang) : Prop := g.st = .retired ∨ g.haltReq = some 5

/-- No fresh gang of the launch is left to place, and its outcome is that of a kill. -/
def Launch.Killed (l : Launch) : Prop := l.outcome = 1 ∧ l.next = l.gangs

/-- A gang after the ends of some gangs. -/
structure Gang.Ends (g u : Gang) : Prop where
  launch : u.launch = g.launch
  harts : u.harts.length = g.harts.length
  ending : g.Ending → u.Ending

/-- A launch after the ends of some gangs. -/
structure Launch.Ends (l u : Launch) : Prop where
  gangs : u.gangs = l.gangs
  killed : l.Killed → u.Killed

/-- A state after the ends of some gangs. -/
structure State.Ends (s t : State) : Prop where
  ctx : t.ctx = s.ctx
  cur : t.cur = s.cur
  length : t.gangs.length = s.gangs.length
  gang : ∀ i, (s.gangOf i).Ends (t.gangOf i)
  launch : ∀ (i : Nat) (l : Launch), s.launches[i]? = some l → ∃ u, t.launches[i]? = some u ∧ l.Ends u

theorem Gang.Ends.refl (g : Gang) : g.Ends g := ⟨rfl, rfl, id⟩

theorem Gang.Ends.trans {g u v : Gang} (h : g.Ends u) (k : u.Ends v) : g.Ends v :=
  ⟨k.launch.trans h.launch, k.harts.trans h.harts, k.ending ∘ h.ending⟩

theorem Gang.Ends.modThread (g : Gang) (r : Role) (f : Thread → Thread) : g.Ends (g.modThread r f) := by
  cases r with
  | hart n => exact ⟨rfl, length_modifyAt .., id⟩
  | access => exact ⟨rfl, rfl, id⟩

theorem Launch.Ends.refl (l : Launch) : l.Ends l := ⟨rfl, id⟩

theorem Launch.Ends.trans {l u v : Launch} (h : l.Ends u) (k : u.Ends v) : l.Ends v :=
  ⟨k.gangs.trans h.gangs, k.killed ∘ h.killed⟩

namespace State.Ends
variable {s t u : State}

theorem refl (s : State) : s.Ends s := ⟨rfl, rfl, rfl, fun _ => .refl _, fun _ l h => ⟨l, h, .refl l⟩⟩

theorem trans (h : s.Ends t) (k : t.Ends u) : s.Ends u := by
  refine ⟨k.ctx.trans h.ctx, k.cur.trans h.cur, k.length.trans h.length, fun i => (h.gang i).trans (k.gang i), fun i l hl => ?_⟩
  obtain ⟨l', hl', hlt⟩ := h.launch i l hl
  obtain ⟨l'', hl'', hlu⟩ := k.launch i l' hl'
  exact ⟨l'', hl'', hlt.trans hlu⟩

theorem ite {p : Prop} [Decidable p] (h : s.Ends t) (k : s.Ends u) : s.Ends (if p then t else u) := by
  split
  · exact h
  · exact k

theorem foldl {β : Type} {f : State → β → State} (hf : ∀ (s : State) (x : β), s.Ends (f s x)) (l : List β) (s : State) :
    s.Ends (l.foldl f s) := by
  induction l generalizing s with
  | nil => exact refl s
  | cons x l ih => exact (hf s x).trans (ih _)

/-- Changes elsewhere. -/
theorem of_gangs (hctx : t.ctx = s.ctx) (hcur : t.cur = s.cur) (hgangs : t.gangs = s.gangs) (hl : t.launches = s.launches) :
    s.Ends t := by
  refine ⟨hctx, hcur, by rw [hgangs], fun i => ?_, fun i l h => ⟨l, by rw [hl, h], .refl l⟩⟩
  unfold State.gangOf
  rw [hgangs]
  exact .refl _

theorem withMem (s : State) (m : Memory) : s.Ends { s with mem := m } := of_gangs rfl rfl rfl rfl

theorem modGang (s : State) (i : Nat) {f : Gang → Gang} (hf : ∀ g : Gang, g.Ends (f g)) : s.Ends (s.modGang i f) := by
  refine ⟨rfl, rfl, State.length_gangs_modGang .., fun j => ?_, fun i l h => ⟨l, h, .refl l⟩⟩
  obtain h | ⟨-, h⟩ := State.modGang_gangOf_cases s i j f
  · exact h ▸ .refl _
  · exact h ▸ hf _

theorem modThread (s : State) (a : Agent) (f : Thread → Thread) : s.Ends (s.modThread a f) :=
  modGang s _ fun g => .modThread g _ f

theorem modLaunch (s : State) (i : Nat) {f : Launch → Launch} (hf : ∀ l : Launch, l.Ends (f l)) : s.Ends (s.modLaunch i f) := by
  refine ⟨rfl, rfl, rfl, fun _ => .refl _, fun j l h => ?_⟩
  rw [State.getElem?_modLaunch, h]
  split
  · exact ⟨_, rfl, hf l⟩
  · exact ⟨l, rfl, .refl l⟩

/-- A change of every gang by itself. -/
theorem mapGangs {f : Gang → Gang} (hf : ∀ g : Gang, g.Ends (f g)) (s : State) : s.Ends { s with gangs := s.gangs.map f } := by
  refine ⟨rfl, rfl, List.length_map _, fun i => ?_, fun i l h => ⟨l, h, .refl l⟩⟩
  unfold State.gangOf
  dsimp only
  rw [List.getElem?_map]
  cases s.gangs[i]? with
  | none => exact .refl _
  | some g => exact hf g

theorem setModes (s : State) (core : Nat) (l : List ModeChange) : s.Ends (s.setModes core l) := by
  refine ⟨rfl, rfl, State.length_gangs_setModes .., fun i => ?_, fun i l h => ⟨l, h, .refl l⟩⟩
  rw [State.gangOf_setModes]
  exact ⟨rfl, rfl, id⟩

theorem wakeWord (s : State) (owner key : Nat) (v : Word) : s.Ends (s.wakeWord owner key v) :=
  trans (t := { s with sleepers := s.sleepers.filter fun r => !(r.owner = owner && r.key = key) })
    (of_gangs rfl rfl rfl rfl) (foldl (fun _ _ => modThread _ _ _) _ _)

/-! Launches. -/

theorem completeLaunch (s : State) (li : Nat) : s.Ends (s.completeLaunch li) := by
  have hm : s.Ends (s.modLaunch li fun l => { l with complete := true }) := modLaunch s li fun _ => ⟨rfl, id⟩
  unfold State.completeLaunch
  split
  · exact refl s
  · dsimp only
    split
    · exact hm
    · split
      · exact hm.trans (of_gangs rfl rfl rfl rfl)
      · exact (hm.trans (withMem ..)).trans (wakeWord ..)

theorem finishLaunch (s : State) (li : Nat) : s.Ends (s.finishLaunch li) := by
  unfold State.finishLaunch
  split
  · exact ite (completeLaunch s li) (refl s)
  · exact refl s

theorem countRetired (s : State) (li n outcome : Nat) : s.Ends (s.countRetired li n outcome) := by
  have hl (l : Launch) : l.Ends { l with
      retired := l.retired + n, outcome := if l.outcome = 0 then outcome else l.outcome } := by
    refine ⟨rfl, fun ⟨hout, hnext⟩ => ⟨?_, hnext⟩⟩
    dsimp only
    rw [hout]
    rfl
  exact (modLaunch s li hl).trans (finishLaunch _ li)

/-! Gangs. -/

theorem leaveCore (s : State) (gi : Nat) : s.Ends (s.leaveCore gi) :=
  ((of_gangs rfl rfl rfl rfl : s.Ends ((s.freeLanes (s.gangOf gi).core fun x _ => x = gi).dropClaims (s.gangOf gi).core gi)).trans
    (setModes ..)).trans (of_gangs rfl rfl rfl rfl)

theorem freePool (s : State) (gi : Nat) : s.Ends (s.freePool gi) := by
  unfold State.freePool
  dsimp only
  split
  · exact (of_gangs rfl rfl rfl rfl : s.Ends (s.modPart ..)).trans (modGang _ _ fun _ => ⟨rfl, rfl, id⟩)
  · exact refl s

theorem released (s : State) (gi : Nat) : s.Ends (s.released gi) :=
  ((leaveCore s gi).trans (freePool _ gi)).trans (modGang _ _ fun _ => ⟨rfl, List.length_map _, fun _ => .inl rfl⟩)

end State.Ends

/-- A gang's end is its release, and the count of its launch or the event of the boot gang (R26, R447). -/
theorem State.retireGang_eq {s : State} {gi : Nat} {g : Gang} (hg : s.gangs[gi]? = some g) (outcome : Nat) :
    s.retireGang gi outcome = (s.released gi).countRetired g.launch 1 outcome ∨
      ∃ m cs, s.retireGang gi outcome = { s.released gi with mod := m, cores := cs } := by
  by_cases hb : s.mod.bootGang = some gi
  · exact .inr ⟨_, _, State.retireGang_boot hg hb outcome⟩
  · exact .inl (State.retireGang_count hg hb outcome)

/-- The released gang ends retired. -/
theorem State.st_retireGang {s : State} {gi : Nat} {g : Gang} (hg : s.gangs[gi]? = some g) (outcome : Nat) :
    ((s.retireGang gi outcome).gangOf gi).st = .retired := by
  obtain ⟨hst, -⟩ := State.released_spec hg
  obtain h | ⟨m, cs, h⟩ := State.retireGang_eq hg outcome
  · rw [h]
    have hbody := (State.finishLaunch_completes ((s.released gi).modLaunch g.launch fun l =>
      { l with retired := l.retired + 1, outcome := if l.outcome = 0 then outcome else l.outcome }) g.launch).gangs gi
    unfold State.countRetired
    rw [hbody]
    exact hst
  · rw [h]
    exact hst

namespace State.Ends
variable {s : State}

theorem retireGang {gi : Nat} {g : Gang} (hg : s.gangs[gi]? = some g) (outcome : Nat) : s.Ends (s.retireGang gi outcome) := by
  obtain h | ⟨m, cs, h⟩ := State.retireGang_eq hg outcome
  · exact h ▸ (released s gi).trans (countRetired ..)
  · exact h ▸ (released s gi).trans (of_gangs rfl rfl rfl rfl)

theorem killGang {gi : Nat} (hgi : gi < s.gangs.length) (outcome : Nat) : s.Ends (s.killGang gi outcome) := by
  unfold State.killGang
  split
  · exact refl s
  · exact retireGang (List.getElem?_eq_getElem hgi) outcome

theorem askKill {gi : Nat} (hgi : gi < s.gangs.length) (outcome : Nat) : s.Ends (s.askKill gi outcome) :=
  ite (modGang _ _ fun _ => ⟨rfl, rfl, fun _ => .inr rfl⟩) (killGang hgi outcome)

theorem breakGroup (s : State) (part gidx : Nat) : s.Ends (s.breakGroup part gidx) := by
  refine (of_gangs rfl rfl rfl rfl : s.Ends (s.modPart part _)).trans (mapGangs (fun g => ?_) _)
  split
  · exact ⟨rfl, rfl, id⟩
  · exact .refl g

theorem breakGroups (s : State) (li : Nat) : s.Ends (s.breakGroups li) := by
  unfold State.breakGroups
  split
  · exact refl s
  · exact foldl (fun _ _ => breakGroup ..) _ _

theorem killFresh (s : State) (li k : Nat) : s.Ends (s.killFresh li k) :=
  (modLaunch s li (f := fun l => { l with killed := l.killed ++ [k] }) fun _ => ⟨rfl, id⟩).trans (countRetired ..)

/-- Each of a list of gangs is asked to end, or ends. -/
theorem foldl_askKill (outcome : Nat) (l : List Nat) (h : ∀ i ∈ l, i < s.gangs.length) :
    s.Ends (l.foldl (fun s i => s.askKill i outcome) s) := by
  induction l generalizing s with
  | nil => exact refl s
  | cons i l ih =>
    have hi := askKill (h i (List.mem_cons_self ..)) outcome
    exact hi.trans (ih fun j hj => hi.length ▸ h j (List.mem_cons_of_mem _ hj))

end State.Ends

section
variable {s t : State}

/-! What the ends come to. -/

theorem State.Ends.isSome_thread? (h : s.Ends t) (a : Agent) : (t.thread? a).isSome = (s.thread? a).isSome := by
  have hlen := h.length
  have hharts := (h.gang a.gang).harts
  obtain ⟨i, r⟩ := a
  unfold State.thread?
  dsimp only
  by_cases hi : i < s.gangs.length
  · have hs := List.getElem?_eq_getElem hi
    have ht := List.getElem?_eq_getElem (l := t.gangs) (hlen ▸ hi)
    rw [State.gangOf_of hs, State.gangOf_of ht] at hharts
    rw [hs, ht]
    cases r with
    | hart n =>
      show (t.gangs[i].harts[n]?).isSome = (s.gangs[i].harts[n]?).isSome
      rw [Bool.eq_iff_iff, Option.isSome_iff_ne_none, Option.isSome_iff_ne_none, Ne, Ne, List.getElem?_eq_none_iff,
        List.getElem?_eq_none_iff, hharts]
    | access => rfl
  · rw [List.getElem?_eq_none (by omega), List.getElem?_eq_none (by omega)]

theorem State.Ends.live (h : s.Ends t) : t.live = s.live := by
  unfold State.live
  rw [h.cur]
  cases s.cur with
  | none => rfl
  | some a => exact h.isSome_thread? a

/-- A gang asked to end is to end, or has. -/
theorem State.ending_askKill {gi : Nat} (hgi : gi < s.gangs.length) (outcome : Nat) :
    ((s.askKill gi outcome).gangOf gi).Ending := by
  have hg := List.getElem?_eq_getElem hgi
  unfold State.askKill
  dsimp only
  split
  · rw [State.gangOf_modGang_of hg]
    exact .inr rfl
  · unfold State.killGang
    split
    · exact .inl ‹_›
    · exact .inl (State.st_retireGang hg outcome)

theorem State.ending_foldl_askKill {outcome : Nat} {l : List Nat} (h : ∀ i ∈ l, i < s.gangs.length) {i : Nat} (hi : i ∈ l) :
    ((l.foldl (fun s i => s.askKill i outcome) s).gangOf i).Ending := by
  induction l generalizing s with
  | nil => cases hi
  | cons j l ih =>
    have hj := h j (List.mem_cons_self ..)
    have hl (k : Nat) (hk : k ∈ l) : k < (s.askKill j outcome).gangs.length :=
      (State.Ends.askKill hj outcome).length ▸ h k (List.mem_cons_of_mem _ hk)
    obtain rfl | hi := List.mem_cons.1 hi
    · exact ((State.Ends.foldl_askKill outcome l hl).gang i).ending (State.ending_askKill hj outcome)
    · exact ih hl hi

/-- The gangs of a launch that have not ended. -/
def State.unended (s : State) (li : Nat) : List Nat :=
  (List.range s.gangs.length).filter fun i => (s.gangOf i).launch = li && decide ((s.gangOf i).st ≠ .retired)

/-- The launch with its groups broken, its outcome set and no gang of it left to place. -/
def State.condemned (s : State) (li : Nat) : State :=
  (s.breakGroups li).modLaunch li fun l => { l with outcome := 1, next := l.gangs }

theorem State.Ends.condemned (s : State) (li : Nat) : s.Ends (s.condemned li) :=
  (breakGroups s li).trans (modLaunch _ _ fun _ => ⟨rfl, fun _ => ⟨rfl, rfl⟩⟩)

theorem State.killLaunch_eq {li : Nat} {l : Launch} (hl : s.launch? li = some l) : ∃ n, s.killLaunch li =
    (((s.condemned li).unended li).foldl (fun s gi => s.askKill gi 1) (s.condemned li)).countRetired li n 1 := by
  unfold State.killLaunch
  rw [hl]
  exact ⟨_, rfl⟩

theorem State.lt_of_mem_unended {li i : Nat} (h : i ∈ s.unended li) : i < s.gangs.length :=
  List.mem_range.1 (List.mem_filter.1 h).1

theorem State.Ends.killLaunch (s : State) (li : Nat) : s.Ends (s.killLaunch li) := by
  cases hl : s.launch? li with
  | none =>
    unfold State.killLaunch
    rw [hl]
    exact refl s
  | some l =>
    obtain ⟨n, hn⟩ := State.killLaunch_eq hl
    exact hn ▸ ((Ends.condemned s li).trans (foldl_askKill 1 _ fun _ => State.lt_of_mem_unended)).trans (countRetired ..)

/-- The end of a launch asks every gang of it to end. -/
theorem State.ending_killLaunch {li gi : Nat} {l : Launch} {g : Gang} (hl : s.launch? li = some l) (hg : s.gangs[gi]? = some g)
    (hli : g.launch = li) : ((s.killLaunch li).gangOf gi).Ending := by
  have hc := State.Ends.condemned s li
  have hlen : gi < (s.condemned li).gangs.length := hc.length ▸ (List.getElem?_eq_some_iff.1 hg).1
  have hlaunch : ((s.condemned li).gangOf gi).launch = li := by rw [(hc.gang gi).launch, State.gangOf_of hg, hli]
  obtain ⟨n, hn⟩ := State.killLaunch_eq hl
  rw [hn]
  refine ((State.Ends.countRetired _ li n 1).gang gi).ending ?_
  by_cases hst : ((s.condemned li).gangOf gi).st = .retired
  · exact ((State.Ends.foldl_askKill 1 _ fun _ => State.lt_of_mem_unended).gang gi).ending (.inl hst)
  · refine State.ending_foldl_askKill (fun _ => State.lt_of_mem_unended) (List.mem_filter.2 ⟨List.mem_range.2 hlen, ?_⟩)
    simp [hlaunch, hst]

/-- The end of a launch leaves it no gang to place. -/
theorem State.killed_killLaunch {li : Nat} {l : Launch} (hl : s.launches[li]? = some l) :
    ∃ u, (s.killLaunch li).launches[li]? = some u ∧ u.outcome = 1 ∧ u.next = l.gangs := by
  obtain ⟨l1, hl1, hb⟩ := (State.Ends.breakGroups s li).launch li l hl
  have hc : (s.condemned li).launches[li]? = some { l1 with outcome := 1, next := l1.gangs } := by
    unfold State.condemned
    rw [State.getElem?_modLaunch, if_pos rfl, hl1]
    rfl
  obtain ⟨n, hn⟩ := State.killLaunch_eq hl
  obtain ⟨u, hu, he⟩ := ((State.Ends.foldl_askKill 1 _ fun _ => State.lt_of_mem_unended).trans
    (State.Ends.countRetired _ li n 1)).launch li _ hc
  obtain ⟨hout, hnext⟩ := he.killed ⟨rfl, rfl⟩
  exact ⟨u, hn ▸ hu, hout, hnext.trans (he.gangs.trans hb.gangs)⟩

end

end Sys2Proof.Machine
end

section
/-! Context commands: whom they take and what they answer (R397, R398, R402). -/

namespace Sys2Proof.Machine

section
variable {s : State} {c : Nat}

/-! A command that is found, and its status. -/

theorem State.onCmd_none (h : s.ctx[c]? = none) (op : Nat) (load : Bool) (f : CtxCmd → State) : s.onCmd c op load f = s := by
  unfold State.onCmd
  rw [h]

theorem State.onCmd_answered {x : CtxCmd} (hx : s.ctx[c]? = some x) (hr : x.result.isSome = true) (op : Nat) (load : Bool)
    (f : CtxCmd → State) : s.onCmd c op load f = s := by
  unfold State.onCmd
  rw [hx]
  dsimp only
  rw [if_neg fun h => ?_]
  have := (Bool.and_eq_true_iff.1 h).2
  rw [Option.isNone_iff_eq_none] at this
  rw [this] at hr
  cases hr

theorem State.onCmd_of {x : CtxCmd} (hx : s.ctx[c]? = some x) (hr : x.result = none) {op : Nat} {load : Bool} (hop : x.op = op)
    (hload : x.load = load) (f : CtxCmd → State) : s.onCmd c op load f = f x := by
  unfold State.onCmd
  rw [hx]
  dsimp only
  rw [if_pos (by simp [hop, hload, hr])]

theorem State.getElem?_modCmd {x : CtxCmd} (hx : s.ctx[c]? = some x) (f : CtxCmd → CtxCmd) :
    (s.modCmd c f).ctx[c]? = some (f x) := by
  unfold State.modCmd
  dsimp only
  rw [getElem?_modifyAt, if_pos rfl, hx]
  rfl

theorem State.result_answerCmd {x : CtxCmd} (hx : s.ctx[c]? = some x) (v e : Nat) :
    ∃ y : CtxCmd, (s.answerCmd c v e).ctx[c]? = some y ∧ y.result = some (v, e) :=
  ⟨_, State.getElem?_modCmd hx _, rfl⟩

/-- A command that has taken hold of a gang. -/
theorem State.took_beginCmd {x : CtxCmd} (hx : s.ctx[c]? = some x) (gi : Nat) {t : State} (ht : t.ctx = (s.beginCmd c gi).ctx) :
    ∃ y : CtxCmd, t.ctx[c]? = some y ∧ y.begun = true ∧ y.gang = gi :=
  ⟨_, by rw [ht]; exact State.getElem?_modCmd hx _, rfl, rfl⟩

end

/-- The gang that a command names is one of the machine's. -/
theorem State.lt_of_gangIndex {s : State} {li k gi : Nat} (h : s.gangIndex li k = some gi) : gi < s.gangs.length :=
  (List.findIdx?_eq_some_iff_getElem.1 h).1

theorem State.onCore_iff {s : State} {gi : Nat} :
    s.onCore gi = true ↔ (s.gangOf gi).st = .resident ∧ (s.core (s.gangOf gi).core).stopped = false := by
  unfold State.onCore
  simp

theorem State.askKill_of_onCore {s : State} {gi : Nat} (h : s.onCore gi = true) (outcome : Nat) :
    s.askKill gi outcome = s.modGang gi fun g => { g with haltReq := some 5 } := by
  unfold State.onCore at h
  unfold State.askKill
  exact if_pos h

/-- A gang that is not on a running core ends at once (R397, R448). -/
theorem State.st_askKill {s : State} {gi : Nat} (hgi : gi < s.gangs.length) (h : s.onCore gi = false)
    (hst : (s.gangOf gi).st ≠ .retired) (outcome : Nat) : ((s.askKill gi outcome).gangOf gi).st = .retired := by
  unfold State.onCore at h
  unfold State.askKill
  dsimp only
  rw [if_neg (by rw [h]; decide)]
  unfold State.killGang
  split
  · exact absurd ‹_› hst
  · exact State.st_retireGang (List.getElem?_eq_getElem hgi) outcome

/-! Asking for a halt. -/

/-- A gang is asked to halt, one that is asked with it only where it is not asked already (R389). -/
def Gang.asked (gi reason i : Nat) (g : Gang) : Gang :=
  { g with haltReq := if i = gi || g.haltReq.isNone then some reason else g.haltReq }

theorem State.foldl_modGang_gangs (f : Nat → Gang → Gang) (l : List Nat) (s : State) :
    ∃ gs, l.foldl (fun s i => s.modGang i (f i)) s = { s with gangs := gs } := by
  induction l generalizing s with
  | nil => exact ⟨_, rfl⟩
  | cons i l ih =>
    rw [List.foldl_cons]
    obtain ⟨gs, h⟩ := ih (s.modGang i (f i))
    exact ⟨gs, h⟩

/-- The gang of the request among the gangs asked. -/
theorem State.gangOf_foldl_asked (gi reason : Nat) (l : List Nat) (s : State) (hgi : gi < s.gangs.length)
    (h : gi ∈ l ∨ (s.gangOf gi).haltReq = some reason) :
    (l.foldl (fun s i => s.modGang i (Gang.asked gi reason i)) s).gangOf gi = { s.gangOf gi with haltReq := some reason } := by
  induction l generalizing s with
  | nil =>
    obtain h | h := h
    · cases h
    · show s.gangOf gi = _
      rw [← h]
  | cons i l ih =>
    rw [List.foldl_cons]
    have hlen : gi < (s.modGang i (Gang.asked gi reason i)).gangs.length := by rwa [State.length_gangs_modGang]
    by_cases hi : i = gi
    · subst hi
      have hself : (s.modGang i (Gang.asked i reason i)).gangOf i = { s.gangOf i with haltReq := some reason } := by
        rw [State.modGang_gangOf _ _ _ _ hgi, if_pos rfl]
        simp [Gang.asked]
      rw [ih _ hlen (.inr (by rw [hself])), hself]
    · have hother : (s.modGang i (Gang.asked gi reason i)).gangOf gi = s.gangOf gi :=
        (State.modGang_gangOf_cases s i gi _).resolve_right fun h => hi h.1.symm
      rw [ih _ hlen (by rw [hother]; exact h.imp_left fun h => (List.mem_cons.1 h).resolve_left (Ne.symm hi)), hother]

/-- A gang on a running core that is not to end is among those suspended with it. -/
theorem State.mem_together {s : State} {gi : Nat} (hgi : gi < s.gangs.length) (h : s.onCore gi = true)
    (hreq : (s.gangOf gi).haltReq = none) : gi ∈ s.together gi := by
  obtain ⟨hst, hstop⟩ := State.onCore_iff.1 h
  unfold State.together
  dsimp only
  split
  · split
    · exact List.mem_filter.2 ⟨List.mem_range.2 hgi, by simp [hst, hstop, hreq]⟩
    · exact List.mem_singleton_self _
  · exact List.mem_singleton_self _

theorem State.askHalt_spec {s : State} {gi : Nat} (hgi : gi < s.gangs.length) (h : s.onCore gi = true)
    (hreq : (s.gangOf gi).haltReq = none) (reason : Nat) : (∃ gs, s.askHalt gi reason = { s with gangs := gs }) ∧
      (s.askHalt gi reason).gangOf gi = { s.gangOf gi with haltReq := some reason } :=
  ⟨State.foldl_modGang_gangs (Gang.asked gi reason) _ s,
    State.gangOf_foldl_asked gi reason _ s hgi (.inl (State.mem_together hgi h hreq))⟩

end Sys2Proof.Machine
end

section
/-! What each operation comes to. -/

namespace Sys2Proof.Machine

section
variable {s : State} {c : Nat} {x : CtxCmd} (hx : s.ctx[c]? = some x) (hr : x.result = none)
include hx hr

/-- SUSPEND (R397). -/
theorem exec_suspend (hop : x.op = 0) (hl : x.load = false) (hb : x.begun = false) :
    (s.gangIndex x.launch x.number = none → exec (.suspend c) s = .next (s.answerCmd c cNOTFOUND 0)) ∧
    ∀ gi, s.gangIndex x.launch x.number = some gi →
      (s.onCore gi = false → exec (.suspend c) s = .next (s.answerCmd c cNOTFOUND 0)) ∧
      (s.onCore gi = true →
        (x.issuer.gang = gi → exec (.suspend c) s = .next (s.answerCmd c cSELF 0)) ∧
        (x.issuer.gang ≠ gi →
          (s.cmdBusy c gi = true → exec (.suspend c) s = .next (s.answerCmd c cBUSY 0)) ∧
          (s.cmdBusy c gi = false → (s.gangOf gi).haltReq = none →
            exec (.suspend c) s = .next ((s.beginCmd c gi).askHalt gi 1)))) := by
  have hexec : exec (.suspend c) s = .next _ := congrArg Host.Outcome.next (State.onCmd_of hx hr hop hl _)
  rw [hexec, hb]
  refine ⟨fun h => by rw [h]; rfl, fun gi h => ?_⟩
  rw [h]
  refine ⟨fun hon => by simp [hon], fun hon => ⟨fun hself => by simp [hon, hself], fun hself => ⟨fun hbusy => ?_, fun hbusy hreq => ?_⟩⟩⟩
  · simp [hon, hself, hbusy]
  · simp [hon, hself, hbusy, hreq]

/-- KILLGANG (R397). -/
theorem exec_killgang (hop : x.op = 1) (hl : x.load = false) (hb : x.begun = false) :
    (∀ l, s.gangIndex x.launch x.number = none → s.launches[x.launch]? = some l → l.complete = false → x.number < l.gangs →
      l.killed.contains x.number = false → exec (.killgang c) s = .next ((s.killFresh x.launch x.number).answerCmd c 1 0)) ∧
    ∀ gi, s.gangIndex x.launch x.number = some gi →
      ((s.gangOf gi).st = .retired → exec (.killgang c) s = .next (s.answerCmd c cNOTFOUND 0)) ∧
      ((s.gangOf gi).st ≠ .retired →
        (s.cmdBusy c gi = true → exec (.killgang c) s = .next (s.answerCmd c cBUSY 0)) ∧
        (s.cmdBusy c gi = false → exec (.killgang c) s = .next (
          if (((s.beginCmd c gi).askKill gi 2).gangOf gi).st = .retired then ((s.beginCmd c gi).askKill gi 2).answerCmd c 1 0
          else (s.beginCmd c gi).askKill gi 2))) := by
  have hexec : exec (.killgang c) s = .next _ := congrArg Host.Outcome.next (State.onCmd_of hx hr hop hl _)
  rw [hexec, hb]
  refine ⟨fun l h hlaunch hcomp hlt hk => ?_, fun gi h => ?_⟩
  · rw [h, show s.launch? x.launch = some l from hlaunch]
    simp [hcomp, hlt, List.contains_iff_mem.symm.trans (by rw [hk]; decide : _ ↔ False)]
  · rw [h]
    refine ⟨fun hst => by simp [hst], fun hst => ⟨fun hbusy => by simp [hst, hbusy], fun hbusy => by simp [hst, hbusy]⟩⟩

/-- KILLLAUNCH (R397). -/
theorem exec_killlaunch (hop : x.op = 2) (hl : x.load = false) :
    (s.launches[x.launch]? = none → exec (.killlaunch c) s = .next (s.answerCmd c cNOTFOUND 0)) ∧
    ∀ l, s.launches[x.launch]? = some l →
      (l.complete = true → x.begun = false → exec (.killlaunch c) s = .next (s.answerCmd c cNOTFOUND 0)) ∧
      (l.complete = true → x.begun = true → exec (.killlaunch c) s = .next (s.answerCmd c 1 0)) ∧
      (l.complete = false → x.begun = true → exec (.killlaunch c) s = .next s) ∧
      (l.complete = false → x.begun = false →
        exec (.killlaunch c) s = .next ((s.modCmd c fun x => { x with begun := true }).killLaunch x.launch)) := by
  have hexec : exec (.killlaunch c) s = .next _ := congrArg Host.Outcome.next (State.onCmd_of hx hr hop hl _)
  rw [hexec]
  refine ⟨fun h => by rw [show s.launch? x.launch = none from h], fun l h => ?_⟩
  rw [show s.launch? x.launch = some l from h]
  refine ⟨fun hc hb => ?_, fun hc hb => ?_, fun hc hb => ?_, fun hc hb => ?_⟩ <;> simp only [hc, hb] <;> rfl

/-- RESUME (R397, R398). -/
theorem exec_resume (hop : x.op = 0) (hl : x.load = true) (hb : x.begun = false) {gi : Nat}
    (h : s.gangIndex x.launch x.number = some gi) :
    ((s.gangOf gi).st ≠ .suspended ∨ (s.gangOf gi).image ≠ x.image → exec (.resume c) s = .next (s.answerCmd c cNOTFOUND 0)) ∧
    ((s.gangOf gi).st = .suspended → (s.gangOf gi).image = x.image → s.cmdBusy c gi = false →
      s.imageWaits gi (s.nowLevel x.issuer) = false →
      (s.readImage gi (s.nowLevel x.issuer) = none → exec (.resume c) s = .next (s.answerCmd c cFAULT 0)) ∧
      (s.readImage gi (s.nowLevel x.issuer) = some none → exec (.resume c) s = .next (s.answerCmd c cBADIMAGE 0)) ∧
      (∀ r, s.readImage gi (s.nowLevel x.issuer) = some (some r) → exec (.resume c) s =
        .next (({ s.beginCmd c gi with stamp := s.stamp + 1 } : State).modGang gi fun g =>
          if g.resume.isSome then g else { g with resume := some s.stamp }))) := by
  have hexec : exec (.resume c) s = .next _ := congrArg Host.Outcome.next (State.onCmd_of hx hr hop hl _)
  rw [hexec, hb, h]
  refine ⟨fun hn => ?_, fun hst himg hbusy hw => ?_⟩
  · dsimp only
    rw [if_neg (by decide), if_pos (by simpa using hn)]
  · dsimp only
    rw [if_neg (by decide), if_neg (by simp [hst, himg]), hbusy, hw, if_neg (by decide), if_neg (by decide)]
    exact ⟨fun h => by rw [h], fun h => by rw [h], fun r h => by rw [h]⟩

end

end Sys2Proof.Machine
end

section
/-! DHALT and DRESUME (R402). -/

namespace Sys2Proof.Machine

/-- A record in an image gives a thread its pc, and as many registers as it has (R402). -/
theorem Thread.reg_foldl_record (w : List Word) (n : Nat) (t : Thread) :
    let u := (List.range n).foldl (fun (t : Thread) i => t.setReg (i + 1) ((w[i + 1]?).getD 0)) t
    u.pc = t.pc ∧ u.debug = t.debug ∧ u.frz = t.frz ∧ ∀ r, u.reg r = if r = 0 then 0 else if n < r then t.reg r else (w[r]?).getD 0 := by
  induction n with
  | zero =>
    refine ⟨rfl, rfl, rfl, fun r => ?_⟩
    by_cases hr : r = 0
    · subst hr; rfl
    · rw [if_neg hr, if_pos (by omega)]
      rfl
  | succ n ih =>
    obtain ⟨hpc, hdebug, hfrz, hreg⟩ := ih
    rw [List.range_succ, List.foldl_append, List.foldl_cons, List.foldl_nil]
    refine ⟨hpc, hdebug, hfrz, fun r => ?_⟩
    rw [Thread.reg_setReg, hreg]
    by_cases hr : r = 0
    · rw [if_neg fun h => h.2 hr, if_pos hr, if_pos hr]
    · by_cases hn : r = n + 1
      · rw [if_pos ⟨hn, hr⟩, if_neg hr, if_neg (by omega), hn]
      · rw [if_neg fun h => hn h.1, if_neg hr, if_neg hr]
        by_cases hlt : n < r
        · rw [if_pos hlt, if_pos (by omega)]
        · rw [if_neg hlt, if_neg (by omega)]

theorem Thread.loadRecord_spec (t : Thread) (n : Nat) (w : List Word) : (t.loadRecord n w).pc = wordAligned ((w[0]?).getD 0) ∧
    ∀ r, (t.loadRecord n w).reg r = if r = 0 then 0 else if n < r then t.reg r else (w[r]?).getD 0 := by
  obtain ⟨hpc, -, -, hreg⟩ := Thread.reg_foldl_record w n { t with pc := wordAligned ((w[0]?).getD 0) }
  exact ⟨hpc, hreg⟩

/-- A charge changes the debits of a core alone. -/
theorem State.chargeAt_rest (s : State) (gi : Nat) (p : Place) (n : Nat) : ∃ cs, s.chargeAt gi p n = { s with cores := cs } := by
  unfold State.chargeAt State.charge
  dsimp only
  split
  · exact ⟨_, rfl⟩
  · exact ⟨_, rfl⟩

theorem State.chargeBlocks_rest (s : State) (gi : Nat) (blocks : List Nat) :
    ∃ cs, s.chargeBlocks gi blocks = { s with cores := cs } := by
  induction blocks generalizing s with
  | nil => exact ⟨_, rfl⟩
  | cons pa blocks ih =>
    unfold State.chargeBlocks at ih ⊢
    rw [List.foldl_cons]
    obtain ⟨cs, h⟩ := s.chargeAt_rest gi (.mem pa) 256
    rw [h]
    exact (ih _).imp fun _ h => h

section
variable {s : State} {c : Nat} {x : CtxCmd} (hx : s.ctx[c]? = some x) (hr : x.result = none) {gi : Nat}
  (h : s.gangIndex x.launch x.number = some gi) {u : Thread} (hu : s.thread? (x.agent gi) = some u) (hon : s.onCore gi = true)
  (hbusy : s.cmdBusy c gi = false)
include hx hr h hu hon hbusy

theorem exec_dhalt (hop : x.op = 3) (hl : x.load = false) (hself : x.issuer.gang ≠ gi) (hreq : (s.gangOf gi).haltReq = none)
    (hfl : u.flight = none) :
    (x.imageLen < 8192 → exec (.dhalt c) s = .next (s.answerCmd c cSMALL 8192)) ∧
    (8192 ≤ x.imageLen → s.blocksAt x.part (s.nowLevel x.issuer) .write x.image.toNat 32 = none →
      exec (.dhalt c) s = .next (s.answerCmd c cFAULT 0)) ∧
    (∀ b, 8192 ≤ x.imageLen → s.blocksAt x.part (s.nowLevel x.issuer) .write x.image.toNat 32 = some b →
      b.any s.training = false → exec (.dhalt c) s = .next (((({ s with
        mem := writeBlocks s.mem (freeBytes (freeBytes (u.image (s.gangOf gi) [] 0) s.free 512 512) s.free 7168 1024) 0 b
        free := s.free + 1 } : State).chargeBlocks gi b).stopRole (x.agent gi)).answerCmd c 1 0)) := by
  have hexec : exec (.dhalt c) s = .next _ := congrArg Host.Outcome.next (State.onCmd_of hx hr hop hl _)
  have hland : s.performFlight (x.agent gi) = some s := by
    unfold State.performFlight
    rw [hu]
    show (match u.flight with | none => _ | some f => _) = _
    rw [hfl]
  rw [hexec, h]
  dsimp only
  rw [hu]
  dsimp only
  rw [hon, if_neg (by decide), if_neg hself, hbusy, if_neg (by decide), hreq, if_neg (by decide)]
  refine ⟨fun hlen => by rw [if_pos hlen], fun hlen hb => ?_, fun b hlen hb ht => ?_⟩
  · rw [if_neg (by omega), hland, hb]
  · rw [if_neg (by omega), hland, hb]
    dsimp only
    rw [hu, ht, if_neg (by decide)]
    rfl

theorem exec_dresume (hop : x.op = 1) (hl : x.load = true) :
    (u.debug = false → exec (.dresume c) s = .next (s.answerCmd c cNOTFOUND 0)) ∧
    (∀ b, u.debug = true → s.blocksAt x.part (s.nowLevel x.issuer) .read x.image.toNat 2 = some b →
      b.any s.training = false → exec (.dresume c) s = .next (((s.chargeBlocks gi b).modThread (x.agent gi) fun t =>
        (t.loadRecord (if x.role = 255 then 31 else 63) ((List.range 64).map fun i =>
          BitVec.ofNat 64 (s.mem.read ((b[8 * i / 256]?).getD 0 + 8 * i % 256) 8))).goOn).answerCmd c 1 0)) := by
  have hexec : exec (.dresume c) s = .next _ := congrArg Host.Outcome.next (State.onCmd_of hx hr hop hl _)
  rw [hexec, h]
  dsimp only
  rw [hu, Option.getD_some, hon]
  refine ⟨fun hd => by rw [hd]; rfl, fun b hd hb ht => ?_⟩
  rw [hd, if_neg (by decide), hbusy, if_neg (by decide), hb]
  dsimp only
  rw [ht, if_neg (by decide)]

end

/-- A role that stops for a debugger (R383, R402). -/
theorem State.stopRole_spec {s : State} {a : Agent} {u : Thread} (hu : s.thread? a = some u) :
    (s.stopRole a).ctx = s.ctx ∧ (s.stopRole a).mem = s.mem ∧ (∀ r ∈ (s.stopRole a).sleepers, r.agent ≠ a) ∧
    ∃ v : Thread, (s.stopRole a).thread? a = some v ∧ v.debug = true ∧ v.pc = u.pc ∧ (∀ r, v.reg r = u.reg r) ∧
      (u.debug = true → v = u) ∧ (u.debug = false → v.wait = .none ∧ v.halted = u.wait ∧ v.frz = true) := by
  refine ⟨rfl, rfl, fun r hr => by simpa using (List.mem_filter.1 hr).2,
    _, State.thread?_modThread_self (s := { s with sleepers := _ }) hu _, ?_⟩
  cases hd : u.debug
  · exact ⟨rfl, rfl, fun _ => rfl, nofun, fun _ => ⟨rfl, rfl, rfl⟩⟩
  · exact ⟨hd, rfl, fun _ => rfl, fun _ => rfl, nofun⟩

end Sys2Proof.Machine
end

section
/-! The status word of a context command (R397, R398). -/

namespace Sys2Proof.Machine

/-- A dword of a status word is written, and charged to the issuer's gang. -/
def State.putStatus (s : State) (gi pa v : Nat) : State := ({ s with mem := s.mem.write pa 8 v } : State).chargeAt gi (.mem pa) 8

theorem State.putStatus_frame (s : State) (gi pa v : Nat) :
    (s.putStatus gi pa v).ctx = s.ctx ∧ (s.putStatus gi pa v).mem = s.mem.write pa 8 v := by
  unfold State.putStatus
  obtain ⟨cs, h⟩ := ({ s with mem := s.mem.write pa 8 v } : State).chargeAt_rest gi (.mem pa) 8
  rw [h]
  exact ⟨rfl, rfl⟩

/-- The place of a dword of the status word. -/
theorem State.statusPlace_of {s : State} {x : CtxCmd} (h8 : x.status.toNat % 8 = 0) (hw : tooWide x.status = false) (hin : inWindow x.status.toNat = false)
    {k pa : Nat} (hp : s.imagePlace x.part (s.nowLevel x.issuer) .write (x.status.toNat + 8 * k) = .ok pa) :
    (if x.status.toNat % 8 ≠ 0 || tooWide x.status || inWindow x.status.toNat then none
      else (s.imagePlace x.part (s.nowLevel x.issuer) .write (x.status.toNat + 8 * k)).toOption) = some pa := by
  rw [if_neg (by simp [h8, hw, hin]), hp]
  rfl

section
variable {s : State} {c : Nat} {x : CtxCmd} (hx : s.ctx[c]? = some x)
include hx

theorem exec_contextCommandStatus_none (hr : x.result = none) : exec (.contextCommandStatus c) s = .next s := by
  show execContextCommandStatus c s = _
  unfold execContextCommandStatus
  rw [hx]
  dsimp only
  rw [hr]

theorem exec_contextCommandStatus {v e pa : Nat} (hr : x.result = some (v, e)) (hv : v ≠ cSMALL) (h8 : x.status.toNat % 8 = 0)
    (hw : tooWide x.status = false) (hin : inWindow x.status.toNat = false)
    (hp : s.imagePlace x.part (s.nowLevel x.issuer) .write x.status.toNat = .ok pa) :
    (s.training pa = true → exec (.contextCommandStatus c) s = .next s) ∧
    (s.training pa = false → exec (.contextCommandStatus c) s =
      .next ((({ s with ctx := s.ctx.eraseIdx c, mem := s.mem.write pa 8 v } : State).chargeAt x.issuer.gang (.mem pa) 8).modThread
        x.issuer fun t => { t with sevent := t.sevent ||| 2 })) := by
  have hplace := State.statusPlace_of h8 hw hin (k := 0) hp
  have hexec : exec (.contextCommandStatus c) s = execContextCommandStatus c s := rfl
  unfold execContextCommandStatus at hexec
  rw [hx] at hexec
  dsimp only at hexec
  rw [hr] at hexec
  dsimp only at hexec
  simp only [hplace, decide_eq_false hv, Option.any_some, Bool.false_and, Bool.or_false, Option.isNone_some, Bool.false_eq_true, if_false] at hexec
  rw [hexec]
  exact ⟨fun h => by rw [if_pos h], fun h => by rw [if_neg (by rw [h]; decide)]⟩

/-- SMALL has the length needed after it. -/
theorem exec_contextCommandStatus_small {e pa pb : Nat} (hr : x.result = some (cSMALL, e)) (h8 : x.status.toNat % 8 = 0)
    (hw : tooWide x.status = false) (hin : inWindow x.status.toNat = false)
    (hp : s.imagePlace x.part (s.nowLevel x.issuer) .write x.status.toNat = .ok pa)
    (hq : s.imagePlace x.part (s.nowLevel x.issuer) .write (x.status.toNat + 8) = .ok pb) (ha : s.training pa = false)
    (hb : s.training pb = false) : Answers (exec (.contextCommandStatus c) s) fun t => t.ctx = s.ctx.eraseIdx c ∧
      t.mem = (s.mem.write pa 8 cSMALL).write pb 8 (e * 2 ^ 32) := by
  have hplace := State.statusPlace_of h8 hw hin (k := 0) hp
  have hnext := State.statusPlace_of h8 hw hin (k := 1) hq
  have hexec : exec (.contextCommandStatus c) s = execContextCommandStatus c s := rfl
  unfold execContextCommandStatus at hexec
  rw [hx] at hexec
  dsimp only at hexec
  rw [hr] at hexec
  dsimp only at hexec
  simp only [hplace, hnext, decide_true, Option.any_some, Bool.true_and, Option.isNone_some, Bool.false_eq_true, if_false, ha, hb, Bool.or_self, if_true] at hexec
  have hput : exec (.contextCommandStatus c) s = .next (((({ s with ctx := s.ctx.eraseIdx c } : State).putStatus
      x.issuer.gang pa cSMALL).putStatus x.issuer.gang pb (e * 2 ^ 32)).modThread x.issuer fun t =>
        { t with sevent := t.sevent ||| 2 }) := hexec
  obtain ⟨hctx, hmem⟩ := ({ s with ctx := s.ctx.eraseIdx c } : State).putStatus_frame x.issuer.gang pa cSMALL
  obtain ⟨hctx', hmem'⟩ := (({ s with ctx := s.ctx.eraseIdx c } : State).putStatus x.issuer.gang pa cSMALL).putStatus_frame
    x.issuer.gang pb (e * 2 ^ 32)
  exact .intro hput ⟨hctx'.trans hctx, hmem'.trans (by rw [hmem])⟩

end

end Sys2Proof.Machine
end

section
/-! The work in flight of a gang is settled (R390). -/

namespace Sys2Proof.Machine

/-- A gang that is where it was, with as many harts. -/
structure Gang.Stays (g u : Gang) : Prop where
  st : u.st = g.st
  core : u.core = g.core
  harts : u.harts.length = g.harts.length

/-- A state in which work of gangs has gone on, or has been given up, where they are. -/
structure State.Settles (s t : State) : Prop where
  ctx : t.ctx = s.ctx
  mod : t.mod = s.mod
  parts : t.parts = s.parts
  length : t.gangs.length = s.gangs.length
  held : ∀ k, (t.core k).held = (s.core k).held
  gang : ∀ i, (s.gangOf i).Stays (t.gangOf i)

theorem Gang.Stays.refl (g : Gang) : g.Stays g := ⟨rfl, rfl, rfl⟩

theorem Gang.Stays.trans {g u v : Gang} (h : g.Stays u) (k : u.Stays v) : g.Stays v :=
  ⟨k.st.trans h.st, k.core.trans h.core, k.harts.trans h.harts⟩

theorem Gang.Stays.modThread (g : Gang) (r : Role) (f : Thread → Thread) : g.Stays (g.modThread r f) := by
  cases r with
  | hart n => exact ⟨rfl, rfl, length_modifyAt ..⟩
  | access => exact ⟨rfl, rfl, rfl⟩

namespace State.Settles
variable {s t u : State}

theorem refl (s : State) : s.Settles s := ⟨rfl, rfl, rfl, rfl, fun _ => rfl, fun _ => .refl _⟩

theorem trans (h : s.Settles t) (k : t.Settles u) : s.Settles u :=
  ⟨k.ctx.trans h.ctx, k.mod.trans h.mod, k.parts.trans h.parts, k.length.trans h.length, fun i => (k.held i).trans (h.held i),
    fun i => (h.gang i).trans (k.gang i)⟩

/-- Changes of what no gang's place rests on. -/
theorem of_gangs (hctx : t.ctx = s.ctx) (hmod : t.mod = s.mod) (hparts : t.parts = s.parts) (hgangs : t.gangs = s.gangs)
    (hheld : ∀ k, (t.core k).held = (s.core k).held) : s.Settles t := by
  refine ⟨hctx, hmod, hparts, by rw [hgangs], hheld, fun i => ?_⟩
  unfold State.gangOf
  rw [hgangs]
  exact .refl _

theorem modGang (s : State) (i : Nat) {f : Gang → Gang} (hf : ∀ g : Gang, g.Stays (f g)) : s.Settles (s.modGang i f) := by
  refine ⟨rfl, rfl, rfl, State.length_gangs_modGang .., fun _ => rfl, fun j => ?_⟩
  obtain h | ⟨-, h⟩ := State.modGang_gangOf_cases s i j f
  · exact h ▸ .refl _
  · exact h ▸ hf _

theorem modThread (s : State) (a : Agent) (f : Thread → Thread) : s.Settles (s.modThread a f) :=
  modGang s _ fun g => .modThread g _ f

theorem modCore (s : State) (k : Nat) {f : CoreSt → CoreSt} (hf : ∀ c : CoreSt, (f c).held = c.held) : s.Settles (s.modCore k f) := by
  refine of_gangs rfl rfl rfl rfl fun j => ?_
  unfold State.core State.modCore
  dsimp only
  rw [getElem?_modifyAt]
  split
  · cases s.cores[j]? with
    | none => rfl
    | some c => exact hf c
  · rfl

theorem chargeAt (s : State) (gi : Nat) (p : Place) (n : Nat) : s.Settles (s.chargeAt gi p n) := by
  unfold State.chargeAt State.charge
  dsimp only
  split
  · exact refl s
  · exact modCore s _ fun _ => rfl

/-- An entry of the buffer of a gang that has not ended. -/
theorem performEntry {a : Agent} (hst : (s.gangOf a.gang).st ≠ .retired) (k : Nat) : s.Settles (s.performEntry a k) := by
  unfold State.performEntry
  split
  · exact refl s
  · split
    · rename_i e _ _
      have hs : s.Settles ((({ s with mem := writeBytes s.mem (32 * e.sector) e.bytes } : State).chargeAt a.gang
          (.mem (32 * e.sector)) 32).modThread a fun t => { t with wc := t.wc.eraseIdx k }) :=
        ((of_gangs rfl rfl rfl rfl fun _ => rfl : s.Settles { s with mem := writeBytes s.mem (32 * e.sector) e.bytes }).trans
          (chargeAt ..)).trans (modThread ..)
      dsimp only
      rw [if_neg (by rw [(hs.gang a.gang).st]; exact hst)]
      exact hs
    · split
      · exact (of_gangs rfl rfl rfl rfl fun _ => rfl : s.Settles { s with stamp := s.stamp + 1 }).trans (modThread ..)
      · exact refl s

theorem drainAll {a : Agent} (which : WcEntry → Bool) (fuel : Nat) (hst : (s.gangOf a.gang).st ≠ .retired) :
    s.Settles (s.drainAll a which fuel) := by
  induction fuel generalizing s with
  | zero => exact refl s
  | succ fuel ih =>
    unfold State.drainAll
    dsimp only
    split
    · have h := performEntry hst ‹_›
      exact h.trans (ih (by rw [(h.gang a.gang).st]; exact hst))
    · exact refl s

theorem drainAgents {gi : Nat} (l : List Agent) (hl : ∀ a ∈ l, a.gang = gi) (hst : (s.gangOf gi).st ≠ .retired) :
    s.Settles (l.foldl (fun s a => s.drainAll a (fun _ => true) 16) s) := by
  induction l generalizing s with
  | nil => exact refl s
  | cons a l ih =>
    obtain ⟨ha, hl⟩ := List.forall_mem_cons.1 hl
    rw [List.foldl_cons]
    have h := drainAll (s := s) (a := a) (fun _ => true) 16 (by rw [ha]; exact hst)
    exact h.trans (ih hl (by rw [(h.gang gi).st]; exact hst))

theorem settleGang {gi : Nat} (hst : (s.gangOf gi).st ≠ .retired) : s.Settles (s.settleGang gi) := by
  have h1 : s.Settles ((s.dropSleepers gi).dropClaims (s.gangOf gi).core gi) :=
    (of_gangs rfl rfl rfl rfl fun _ => rfl : s.Settles (s.dropSleepers gi)).trans (modCore _ _ fun _ => rfl)
  have h2 := h1.trans (modGang _ gi (f := fun g => { g with harts := g.harts.map Thread.settle, access := g.access.settle })
    fun g => ⟨rfl, rfl, List.length_map _⟩)
  have hagents (g : Gang) : ∀ a ∈ g.agents gi, a.gang = gi := by
    intro a ha
    unfold Gang.agents at ha
    obtain ha | ha := List.mem_append.1 ha
    · obtain ⟨k, -, rfl⟩ := List.mem_map.1 ha
      rfl
    · rw [List.mem_singleton.1 ha]
  exact (h2.trans (drainAgents _ (hagents _) (by rw [(h2.gang gi).st]; exact hst))).trans (modGang _ _ fun _ => ⟨rfl, rfl, rfl⟩)

end State.Settles

end Sys2Proof.Machine
end

section
/-! Images, and the core that a gang leaves (R391, R392, R399). -/

namespace Sys2Proof.Machine

/-- The regions of a gang's image. -/
def State.imageLens (s : State) (gi : Nat) : List Nat := (s.gangOf gi).regionLens ((s.holders gi).map (·.2)).sum

/-- Memory with the image of a gang in blocks, sealed (R399). -/
def State.imaged (s : State) (gi harts : Nat) (bs : List Nat) (sub : Nat) : Memory :=
  let img := s.imageOf gi (s.holders gi) (s.imageLens gi) (s.imageRecord gi sub)
  let lo := regionOff (s.imageLens gi) 5 / 256
  let hi := regionOff (s.imageLens gi) 6 / 256
  let m := if (s.gangOf gi).tiles = [] then writeBlocks s.mem img 0 bs
    else writeBlocks (writeBlocks s.mem img 0 (bs.take lo)) img (256 * hi) (bs.drop hi)
  m.write (bs.headD 0 + 24) 8 (checkOf m harts bs)

/-- Memory with the image of a gang in blocks, before it is sealed: the blocks of the tiles are left out where they are kept. -/
def State.draft (s : State) (gi : Nat) (keep : Bool) (bs : List Nat) (sub : Nat) : Memory :=
  let img := s.imageOf gi (s.holders gi) (s.imageLens gi) (s.imageRecord gi sub)
  let lo := regionOff (s.imageLens gi) 5 / 256
  let hi := regionOff (s.imageLens gi) 6 / 256
  if keep then writeBlocks (writeBlocks s.mem img 0 (bs.take lo)) img (256 * hi) (bs.drop hi)
  else writeBlocks s.mem img 0 bs

/-- The blocks that it writes. -/
def State.drafted (s : State) (gi : Nat) (keep : Bool) (bs : List Nat) : List Nat :=
  let lo := regionOff (s.imageLens gi) 5 / 256
  let hi := regionOff (s.imageLens gi) 6 / 256
  if keep then bs.take lo ++ bs.drop hi else bs

theorem State.imaged_eq (s : State) (gi harts : Nat) (bs : List Nat) (sub : Nat) : s.imaged gi harts bs sub =
    (s.draft gi (!(s.gangOf gi).tiles.isEmpty) bs sub).write (bs.headD 0 + 24) 8
      (checkOf (s.draft gi (!(s.gangOf gi).tiles.isEmpty) bs sub) harts bs) := by
  unfold State.imaged State.draft
  dsimp only
  cases (s.gangOf gi).tiles <;> rfl

/-- The writing of an image by its parts. -/
theorem State.writeImage_eq (s : State) (gi va lvl room sub : Nat) : s.writeImage gi va lvl room sub =
    if room < (s.imageLens gi).sum then .small (s.imageLens gi).sum
    else match s.blocksAt (s.partOfCore (s.gangOf gi).core) lvl .write va ((s.imageLens gi).sum / 256) with
      | none => .fault
      | some bs => if bs.any s.training then .wait else .written ((({ s with
            mem := s.draft gi (s.gangOf gi).tilesOn.isSome bs sub, free := s.free + 1 } : State).sealImage
          (s.gangOf gi).harts.length bs).chargeBlocks gi (s.drafted gi (s.gangOf gi).tilesOn.isSome bs)) (s.imageLens gi).sum := by
  unfold State.writeImage State.draft State.drafted State.imageLens
  rfl

theorem State.length_blocksAt {s : State} {part lvl : Nat} {acc : Acc} {n va : Nat} {bs : List Nat}
    (h : s.blocksAt part lvl acc va n = some bs) : bs.length = n := by
  induction n generalizing va bs with
  | zero => cases h; rfl
  | succ n ih =>
    unfold State.blocksAt at h
    split at h
    · cases h
    · split at h
      · cases h
      · obtain ⟨l, hl, rfl⟩ := Option.map_eq_some_iff.1 h
        rw [List.length_cons, ih hl]

theorem State.sealImage_of_ne_nil (s : State) (n : Nat) {bs : List Nat} (h : bs ≠ []) :
    s.sealImage n bs = { s with mem := s.mem.write (bs.headD 0 + 24) 8 (checkOf s.mem n bs) } := by
  cases bs with
  | nil => exact absurd rfl h
  | cons pa bs => rfl

/-- An image has its header at least. -/
theorem State.imageLens_ge (s : State) (gi : Nat) : 4096 ≤ (s.imageLens gi).sum := by
  unfold State.imageLens Gang.regionLens
  dsimp only
  rw [List.sum_cons]
  omega

section
variable {s : State} {gi va lvl room sub : Nat}

theorem State.writeImage_small (h : room < (s.imageLens gi).sum) : s.writeImage gi va lvl room sub = .small (s.imageLens gi).sum := by
  rw [State.writeImage_eq, if_pos h]

theorem State.writeImage_fault (h : (s.imageLens gi).sum ≤ room)
    (hb : s.blocksAt (s.partOfCore (s.gangOf gi).core) lvl .write va ((s.imageLens gi).sum / 256) = none) :
    s.writeImage gi va lvl room sub = .fault := by
  rw [State.writeImage_eq, if_neg (Nat.not_lt.2 h), hb]

/-- An image that fits and can be written. -/
theorem State.writeImage_written (h : (s.imageLens gi).sum ≤ room) {bs : List Nat}
    (hb : s.blocksAt (s.partOfCore (s.gangOf gi).core) lvl .write va ((s.imageLens gi).sum / 256) = some bs)
    (ht : bs.any s.training = false) (htiles : (s.gangOf gi).tilesOn.isSome = !(s.gangOf gi).tiles.isEmpty) :
    ∃ cs, s.writeImage gi va lvl room sub =
      .written { s with mem := s.imaged gi (s.gangOf gi).harts.length bs sub, free := s.free + 1, cores := cs } (s.imageLens gi).sum := by
  have hne : bs ≠ [] := by
    intro h0
    have := State.length_blocksAt hb
    have := s.imageLens_ge gi
    rw [h0, List.length_nil] at *
    omega
  rw [State.writeImage_eq, if_neg (Nat.not_lt.2 h), hb]
  dsimp only
  rw [if_neg (by rw [ht]; decide), State.sealImage_of_ne_nil _ _ hne, State.imaged_eq, htiles]
  dsimp only
  generalize s.draft gi (!(s.gangOf gi).tiles.isEmpty) bs sub = m
  obtain ⟨cs, hcs⟩ := State.chargeBlocks_rest ({ s with
    mem := m.write (bs.headD 0 + 24) 8 (checkOf m (s.gangOf gi).harts.length bs), free := s.free + 1 } : State) gi
    (s.drafted gi (!(s.gangOf gi).tiles.isEmpty) bs)
  exact ⟨cs, congrArg (ImageResult.written · _) hcs⟩

end

end Sys2Proof.Machine
end

section
/-! The halt of a gang (R389, R390, R397, R425). -/

namespace Sys2Proof.Machine

/-- A gang as its image is written: the allocations that are kept, and the core that its tiles stay on. -/
def Gang.leaving (mask : Nat) (g : Gang) : Gang :=
  { g.markKept mask with tilesOn := if g.tiles.isEmpty then none else some g.core }

def State.marked (s : State) (gi mask : Nat) : State := s.modGang gi (Gang.leaving mask)

section
variable {s : State} {gi : Nat} (hgi : gi < s.gangs.length)
include hgi

theorem State.gangOf_marked (mask : Nat) : (s.marked gi mask).gangOf gi = (s.gangOf gi).leaving mask := by
  unfold State.marked
  rw [State.modGang_gangOf _ _ _ _ hgi, if_pos rfl]

/-- A suspended gang is off its core, with its place as it was given (R391, R392). -/
theorem State.suspendGang_spec (reason : Nat) :
    ((s.suspendGang gi reason).gangOf gi).st = .suspended ∧ ((s.suspendGang gi reason).gangOf gi).reason = reason ∧
    ((s.suspendGang gi reason).gangOf gi).haltReq = none ∧
    ((s.suspendGang gi reason).gangOf gi).image = (s.gangOf gi).image ∧
    ((s.suspendGang gi reason).gangOf gi).imageLen = (s.gangOf gi).imageLen ∧
    ((s.suspendGang gi reason).gangOf gi).poolSlot = (s.gangOf gi).poolSlot ∧
    (s.suspendGang gi reason).mem = s.mem ∧ (s.suspendGang gi reason).ctx = s.ctx ∧
    ∀ x ∈ ((s.suspendGang gi reason).core (s.gangOf gi).core).lanes, ∀ y, x = some y → y.1 ≠ gi := by
  have hg := List.getElem?_eq_getElem hgi
  have hlen : gi < (s.leaveCore gi).gangs.length := by rwa [State.length_gangs_leaveCore]
  have hself : (s.suspendGang gi reason).gangOf gi = { (s.leaveCore gi).gangOf gi with
      st := .suspended, reason := reason, suspOrd := s.stamp, haltReq := none, resume := none, yielded := false, missRec := [] } := by
    unfold State.suspendGang
    dsimp only
    rw [State.modGang_gangOf _ _ _ _ (by exact hlen), if_pos rfl]
    rfl
  rw [hself, State.gangOf_leaveCore s gi gi]
  refine ⟨rfl, rfl, rfl, rfl, rfl, rfl, rfl, rfl, fun x hx y hy hgi => ?_⟩
  obtain ⟨k, hk⟩ := List.mem_iff_getElem?.1 hx
  have hlane := State.lanes_leaveCore hg k
  rw [State.gangOf_of hg] at hk
  rw [show ((s.leaveCore gi).core s.gangs[gi].core).lanes[k]? = some x from hk, Option.getD_some, hy] at hlane
  have := (Option.filter_eq_some_iff.1 hlane.symm).2
  simp [hgi] at this

/-- A gang whose suspension has failed is where it was, its halt no longer asked for unless its core is held (R405). -/
theorem State.gangOf_stay : ((s.stay gi).gangOf gi).st = (s.gangOf gi).st ∧
    ((s.stay gi).gangOf gi).haltReq = if (s.core (s.gangOf gi).core).held then some 4 else none := by
  unfold State.stay
  rw [State.modGang_gangOf _ _ _ _ hgi, if_pos rfl]
  exact ⟨rfl, rfl⟩

end

/-- A gang's record of the image it has, and of the slot of the pool that holds it. -/
def Gang.imagedAt (va : Word) (len room lvl : Nat) (slot : Option Nat → Option Nat) (g : Gang) : Gang :=
  { g with image := va, imageLen := len, imageRoom := room, imageLvl := lvl, poolSlot := slot g.poolSlot }

/-- What a suspended gang comes to: off its core, with an image in memory. -/
structure State.Suspends (s t : State) (gi core : Nat) (mem : Memory) (reason : Nat) (image : Word) (len : Nat)
    (slot : Option Nat) : Prop where
  st : (t.gangOf gi).st = .suspended
  reason : (t.gangOf gi).reason = reason
  haltReq : (t.gangOf gi).haltReq = none
  image : (t.gangOf gi).image = image
  imageLen : (t.gangOf gi).imageLen = len
  poolSlot : (t.gangOf gi).poolSlot = slot
  mem : t.mem = mem
  ctx : t.ctx = s.ctx
  lanes : ∀ x ∈ (t.core core).lanes, ∀ y, x = some y → y.1 ≠ gi

section
variable {s : State} {gi : Nat} (hgi : gi < s.gangs.length)
include hgi

/-- With its image written, and its record of it, a gang leaves its core. -/
theorem State.Suspends.of_written {v : State} {mask : Nat} {va : Word} {len room lvl : Nat} {slot : Option Nat → Option Nat}
    {w : State} (hw : w.gangs = (s.marked gi mask).gangs) (hv : v.gangs = (w.modGang gi (Gang.imagedAt va len room lvl slot)).gangs)
    {m : Memory} (hm : v.mem = m) (hctx : v.ctx = s.ctx) (reason : Nat) :
    s.Suspends (v.suspendGang gi reason) gi (s.gangOf gi).core m reason va len (slot (s.gangOf gi).poolSlot) := by
  have hlen : gi < w.gangs.length := by rw [hw]; exact (State.length_gangs_modGang s gi _).symm ▸ hgi
  have hself : v.gangOf gi = ((s.gangOf gi).leaving mask).imagedAt va len room lvl slot := by
    have hwg : w.gangOf gi = (s.gangOf gi).leaving mask := by
      rw [← State.gangOf_marked hgi mask]
      unfold State.gangOf
      rw [hw]
    rw [← hwg, ← if_pos (c := gi = gi) (t := Gang.imagedAt va len room lvl slot (w.gangOf gi)) (e := w.gangOf gi) rfl,
      ← State.modGang_gangOf _ _ _ _ hlen]
    unfold State.gangOf
    rw [hv]
  obtain ⟨hst, hreason, hreq, himg, hlen', hslot, hmem, hctx', hlanes⟩ := State.suspendGang_spec (s := v) (gi := gi)
    (by rw [hv, State.length_gangs_modGang]; exact hlen) reason
  rw [hself] at himg hlen' hslot hlanes
  exact ⟨hst, hreason, hreq, himg, hlen', hslot, hmem.trans hm, hctx'.trans hctx, hlanes⟩

/-- The image of a gang that fits and can be written. -/
theorem State.writeImage_marked {mask va lvl room sub : Nat} (hlen : ((s.marked gi mask).imageLens gi).sum ≤ room) {bs : List Nat}
    (hb : (s.marked gi mask).blocksAt (s.partOfCore (s.gangOf gi).core) lvl .write va
      (((s.marked gi mask).imageLens gi).sum / 256) = some bs)
    (ht : bs.any (s.marked gi mask).training = false) : ∃ cs, (s.marked gi mask).writeImage gi va lvl room sub =
      .written { s.marked gi mask with
        mem := (s.marked gi mask).imaged gi (s.gangOf gi).harts.length bs sub, free := s.free + 1, cores := cs }
        ((s.marked gi mask).imageLens gi).sum := by
  have hself := State.gangOf_marked hgi mask
  have hcore : ((s.marked gi mask).gangOf gi).core = (s.gangOf gi).core := by rw [hself]; rfl
  have hharts : ((s.marked gi mask).gangOf gi).harts = (s.gangOf gi).harts := by rw [hself]; rfl
  have htiles : ((s.marked gi mask).gangOf gi).tilesOn.isSome = !((s.marked gi mask).gangOf gi).tiles.isEmpty := by
    rw [hself]
    unfold Gang.leaving Gang.markKept
    dsimp only
    cases (s.gangOf gi).tiles <;> rfl
  obtain ⟨cs, hw⟩ := State.writeImage_written (sub := sub) hlen (by rw [hcore]; exact hb) ht htiles
  rw [hharts] at hw
  exact ⟨cs, hw⟩

end

/-! The pool. -/

section
variable {s : State} {gi reason : Nat} {keep : Bool}

theorem State.suspendToPool_full (h : (s.part (s.partOfCore (s.gangOf gi).core)).freeSlot = none) :
    s.suspendToPool gi reason keep = .fails (2 ^ 63 + 7) 0 := by
  unfold State.suspendToPool
  dsimp only
  rw [h]

/-- A gang that goes into a slot of the pool (R425). -/
theorem State.suspendToPool_slot (hgi : gi < s.gangs.length) {k : Nat} {p : PartSt}
    (hp : s.part (s.partOfCore (s.gangOf gi).core) = p) (hk : p.freeSlot = some k)
    (hlen : ((s.marked gi 0).imageLens gi).sum ≤ p.slotBytes) {bs : List Nat}
    (hb : (s.marked gi 0).blocksAt (s.partOfCore (s.gangOf gi).core) 1 .write (p.slotAddr k)
      (((s.marked gi 0).imageLens gi).sum / 256) = some bs)
    (ht : bs.any (s.marked gi 0).training = false) :
    ∃ t, s.suspendToPool gi reason false = .done t ∧ s.Suspends t gi (s.gangOf gi).core
      ((s.marked gi 0).imaged gi (s.gangOf gi).harts.length bs reason) reason (BitVec.ofNat 64 (p.slotAddr k))
      ((s.marked gi 0).imageLens gi).sum (some k) := by
  obtain ⟨cs, hw⟩ := State.writeImage_marked hgi (sub := reason) hlen hb ht
  have hpool : s.suspendToPool gi reason false = (match p.freeSlot with
    | none => .fails (2 ^ 63 + 7) 0
    | some k => match (s.marked gi 0).writeImage gi (p.slotAddr k) 1 p.slotBytes reason with
      | .small _ | .fault => .fails (2 ^ 63 + 7) 0
      | .wait => .waits
      | .written s1 len => .done (((s1.modGang gi (Gang.imagedAt (BitVec.ofNat 64 (p.slotAddr k)) len p.slotBytes 1 fun _ => some k)).modPart
          (s.partOfCore (s.gangOf gi).core) fun p => { p with pool := p.pool ++ [k] }).suspendGang gi reason)) := by
    rw [← hp]
    rfl
  rw [hpool, hk]
  dsimp only
  rw [hw]
  generalize (s.marked gi 0).imaged gi (s.gangOf gi).harts.length bs reason = m
  refine ⟨_, rfl, .of_written hgi (w := { s.marked gi 0 with mem := m, free := s.free + 1, cores := cs })
    (mask := 0) (room := p.slotBytes) (lvl := 1) (slot := fun _ => some k) ?_ ?_ ?_ ?_ reason⟩
  · rfl
  · rfl
  · rfl
  · rfl

end

/-! A SUSPEND command's own image. -/

section
variable {s : State} {gi : Nat} {x : CtxCmd} (hcmd : s.suspendCmd gi = some x) (keep : Bool)
include hcmd

theorem State.suspendTo_eq : s.suspendTo gi 1 keep =
    (match (s.marked gi x.keep.toNat).writeImage gi x.image.toNat ((s.marked gi x.keep.toNat).nowLevel x.issuer) x.imageLen 1 with
    | .small n => .fails (2 ^ 63 + 4) n
    | .fault => .fails (2 ^ 63 + 7) 0
    | .wait => .waits
    | .written t len => .done (((t.modGang gi (Gang.imagedAt x.image len x.imageLen ((s.marked gi x.keep.toNat).nowLevel x.issuer)
        fun k => k)).suspendGang gi 1).answerCtx gi 0 false (1 + len * 2 ^ 32) 0)) := by
  unfold State.suspendTo
  rw [if_pos rfl, hcmd]
  rfl

theorem State.suspendTo_small (h : x.imageLen < ((s.marked gi x.keep.toNat).imageLens gi).sum) :
    s.suspendTo gi 1 keep = .fails (2 ^ 63 + 4) ((s.marked gi x.keep.toNat).imageLens gi).sum := by
  rw [State.suspendTo_eq hcmd, State.writeImage_small h]

variable (hgi : gi < s.gangs.length) (hlen : ((s.marked gi x.keep.toNat).imageLens gi).sum ≤ x.imageLen)
include hgi hlen

theorem State.suspendTo_fault (hb : (s.marked gi x.keep.toNat).blocksAt (s.partOfCore (s.gangOf gi).core)
      ((s.marked gi x.keep.toNat).nowLevel x.issuer) .write x.image.toNat
      (((s.marked gi x.keep.toNat).imageLens gi).sum / 256) = none) : s.suspendTo gi 1 keep = .fails (2 ^ 63 + 7) 0 := by
  have hcore : ((s.marked gi x.keep.toNat).gangOf gi).core = (s.gangOf gi).core := by rw [State.gangOf_marked hgi]; rfl
  rw [State.suspendTo_eq hcmd, State.writeImage_fault hlen (by rw [hcore]; exact hb)]

theorem State.suspendTo_done {bs : List Nat} (hb : (s.marked gi x.keep.toNat).blocksAt (s.partOfCore (s.gangOf gi).core)
      ((s.marked gi x.keep.toNat).nowLevel x.issuer) .write x.image.toNat
      (((s.marked gi x.keep.toNat).imageLens gi).sum / 256) = some bs)
    (ht : bs.any (s.marked gi x.keep.toNat).training = false) :
    ∃ t, s.suspendTo gi 1 keep = .done (t.answerCtx gi 0 false (1 + ((s.marked gi x.keep.toNat).imageLens gi).sum * 2 ^ 32) 0) ∧
      s.Suspends t gi (s.gangOf gi).core ((s.marked gi x.keep.toNat).imaged gi (s.gangOf gi).harts.length bs 1) 1 x.image
        ((s.marked gi x.keep.toNat).imageLens gi).sum (s.gangOf gi).poolSlot := by
  obtain ⟨cs, hw⟩ := State.writeImage_marked hgi (sub := 1) hlen hb ht
  rw [State.suspendTo_eq hcmd, hw]
  generalize (s.marked gi x.keep.toNat).imaged gi (s.gangOf gi).harts.length bs 1 = m
  exact ⟨_, rfl, .of_written hgi (w := { s.marked gi x.keep.toNat with mem := m, free := s.free + 1, cores := cs })
    (mask := x.keep.toNat) (room := x.imageLen) (lvl := (s.marked gi x.keep.toNat).nowLevel x.issuer) (slot := fun k => k)
    rfl rfl rfl rfl 1⟩

end

/-- The answer to the commands of a gang that are under way reaches the one that asked for its suspension. -/
theorem State.result_answerCtx {s t : State} {gi c : Nat} {x : CtxCmd} (hc : s.ctx[c]? = some x) (hcmd : s.suspendCmd gi = some x)
    (ht : t.ctx = s.ctx) (v e : Nat) :
    ∃ y : CtxCmd, (t.answerCtx gi 0 false v e).ctx[c]? = some y ∧ y.result = some (v, e) := by
  have hx : (x.gang = gi && x.op = 0 && !x.load && x.result.isNone) = true := List.find?_some (p := fun c : CtxCmd =>
    c.gang = gi && c.op = 0 && !c.load && c.result.isNone) hcmd
  unfold State.answerCtx
  dsimp only
  rw [List.getElem?_map, ht, hc]
  exact ⟨_, rfl, by simp_all⟩

/-! The halt itself. -/

section
variable {s : State} {gi n : Nat} {g : Gang} (hg : s.gangs[gi]? = some g) (hreq : g.haltReq = some n)
include hg hreq

theorem exec_gangHalt_away (hst : g.st ≠ .resident) :
    exec (.gangHalt gi) s = .next (s.modGang gi fun g => { g with haltReq := none }) := by
  show execGangHalt gi s = _
  unfold execGangHalt State.haltGang
  dsimp only
  rw [State.gangOf_of hg, hreq]
  dsimp only
  rw [if_pos hst]

theorem exec_gangHalt_end (hst : g.st = .resident) (hn : n = 5) :
    exec (.gangHalt gi) s = .next ((s.answerCtx gi 1 false 1 0).killGang gi 2) := by
  show execGangHalt gi s = _
  unfold execGangHalt State.haltGang
  dsimp only
  rw [State.gangOf_of hg, hreq]
  dsimp only
  rw [if_neg (not_not.2 hst), if_pos hn]

/-- On a core that has stopped nothing is left to be saved (R448; log 108). -/
theorem exec_gangHalt_stopped (hst : g.st = .resident) (hn : n ≠ 5) (hstop : (s.core g.core).stopped = true) :
    exec (.gangHalt gi) s =
      .next ((s.answerCtx gi 0 false (2 ^ 63 + 2) 0).modGang gi fun g => { g with haltReq := none }) := by
  show execGangHalt gi s = _
  unfold execGangHalt State.haltGang
  dsimp only
  rw [State.gangOf_of hg, hreq]
  dsimp only
  rw [if_neg (not_not.2 hst), if_neg hn, if_pos hstop]

/-- The halt of a gang that is suspended alone, by what asked for it. -/
theorem exec_gangHalt_alone (hst : g.st = .resident) (hstop : (s.core g.core).stopped = false) (htog : s.together gi = [gi])
    (hfl : ∀ u ∈ g.access :: g.harts, u.flight = none) :
    (n = 1 → ∀ x, (s.settleGang gi).suspendCmd gi = some x → exec (.gangHalt gi) s = .next (
      match (s.settleGang gi).suspendTo gi 1 (s.part (s.partOfCore g.core)).keepsw with
      | .done t => t
      | .waits => s
      | .fails v e => ((s.settleGang gi).stay gi).answerCtx gi 0 false v e)) ∧
    (n = 2 ∨ n = 3 → (s.settleGang gi).suspendToPool gi n (s.part (s.partOfCore g.core)).keepsw = .fails (2 ^ 63 + 7) 0 →
      exec (.gangHalt gi) s = .next (((s.settleGang gi).poolMiss (s.partOfCore g.core)).stay gi)) ∧
    (n = 4 → exec (.gangHalt gi) s = .next (
      match (s.settleGang gi).suspendToPool gi 4 false with
      | .done t => t
      | .fails _ _ => ((s.settleGang gi).poolMiss (s.partOfCore g.core)).killGang gi 2
      | .waits => s)) := by
  have hexec : exec (.gangHalt gi) s = execGangHalt gi s := rfl
  unfold execGangHalt State.haltGang at hexec
  dsimp only at hexec
  rw [State.gangOf_of hg, hreq] at hexec
  dsimp only at hexec
  rw [hexec, if_neg (not_not.2 hst)]
  refine ⟨fun hn x hcmd => ?_, fun hn hfull => ?_, fun hn => ?_⟩
  all_goals
    rw [if_neg (by omega), if_neg (by rw [hstop]; decide), htog, List.foldl_cons, List.foldl_nil, Option.bind_some,
      State.landFlights_none hg hfl]
    dsimp only
    rw [List.foldl_cons, List.foldl_nil]
  · rw [if_neg (by omega), if_pos hn, if_neg (by simp [hcmd])]
    unfold State.suspendAll
    cases (s.settleGang gi).suspendTo gi 1 (s.part (s.partOfCore g.core)).keepsw with
    | done t => rfl
    | waits => rfl
    | fails v e =>
      dsimp only
      rw [hcmd, List.foldl_cons, List.foldl_nil, if_pos rfl, if_pos rfl]
      rfl
  · rw [if_neg (by omega), if_neg (by omega), hfull]
  · rw [if_pos hn]
    unfold State.haltAll
    cases (s.settleGang gi).suspendToPool gi 4 false <;> rfl

end

end Sys2Proof.Machine
end

section
/-! The halts that a command, the dispatcher and HALTC ask for, and the obligation. -/

namespace Sys2Proof.Machine

/-- The answer to commands changes the commands alone. -/
theorem State.answerCtx_rest (s : State) (gi op : Nat) (load : Bool) (v e : Nat) :
    ∃ l, s.answerCtx gi op load v e = { s with ctx := l } := ⟨_, rfl⟩

section
variable {s : State} {gi n : Nat} {g : Gang} (hg : s.gangs[gi]? = some g) (hreq : g.haltReq = some n) (hst : g.st = .resident)
include hg hst

/-- What the work that is settled leaves of the gang that halts. -/
theorem State.settled_gang : s.Settles (s.settleGang gi) ∧ gi < (s.settleGang gi).gangs.length ∧
    ((s.settleGang gi).gangOf gi).st = .resident ∧ ((s.settleGang gi).gangOf gi).core = g.core ∧
    ((s.settleGang gi).gangOf gi).harts.length = g.harts.length ∧ (s.settleGang gi).partOfCore g.core = s.partOfCore g.core ∧
    (s.settleGang gi).part (s.partOfCore g.core) = s.part (s.partOfCore g.core) := by
  have h := State.Settles.settleGang (s := s) (gi := gi) (by rw [State.gangOf_of hg, hst]; decide)
  obtain ⟨hs, hcore, hharts⟩ := h.gang gi
  rw [State.gangOf_of hg] at hs hcore hharts
  refine ⟨h, ?_, hs.trans hst, hcore, hharts, ?_, ?_⟩
  · rw [h.length]
    exact (List.getElem?_eq_some_iff.1 hg).1
  · unfold State.partOfCore
    rw [h.mod]
  · unfold State.part
    rw [h.parts]

include hreq

/-- The end of a gang on its core. -/
theorem gangHalt_end (hn : n = 5) : Answers (exec (.gangHalt gi) s) fun t => (t.gangOf gi).st = .retired := by
  refine .intro (exec_gangHalt_end hg hreq hst hn) ?_
  have hg' : (s.answerCtx gi 1 false 1 0).gangs[gi]? = some g := hg
  unfold State.killGang
  rw [State.gangOf_of hg', hst]
  exact State.st_retireGang hg' 2

variable (hstop : (s.core g.core).stopped = false) (htog : s.together gi = [gi])
  (hfl : ∀ u ∈ g.access :: g.harts, u.flight = none)
include hstop htog hfl

/-- Without a slot in the pool a swap or a yield comes to nothing, and a HALTC ends the gang (R405, R425). -/
theorem gangHalt_noSlot (hslot : (s.part (s.partOfCore g.core)).freeSlot = none) :
    (n = 2 ∨ n = 3 → Answers (exec (.gangHalt gi) s) fun t => (t.gangOf gi).st = .resident ∧
      (t.gangOf gi).haltReq = if (s.core g.core).held then some 4 else none) ∧
    (n = 4 → Answers (exec (.gangHalt gi) s) fun t => (t.gangOf gi).st = .retired) := by
  obtain ⟨hS, hgi, hst0, hcore, -, hpart, hp⟩ := State.settled_gang hg hst
  obtain ⟨-, hswap, hhalt⟩ := exec_gangHalt_alone hg hreq hst hstop htog hfl
  have hfull (reason : Nat) (keep : Bool) : (s.settleGang gi).suspendToPool gi reason keep = .fails (2 ^ 63 + 7) 0 :=
    State.suspendToPool_full (by rw [hcore, hpart, hp]; exact hslot)
  refine ⟨fun hn => .intro (hswap hn (hfull ..)) ?_, fun hn => .intro (hhalt hn) ?_⟩
  · obtain ⟨h1, h2⟩ := State.gangOf_stay (s := (s.settleGang gi).poolMiss (s.partOfCore g.core)) hgi
    refine ⟨h1.trans hst0, h2.trans ?_⟩
    rw [show (((s.settleGang gi).poolMiss (s.partOfCore g.core)).gangOf gi).core = g.core from hcore,
      show (((s.settleGang gi).poolMiss (s.partOfCore g.core)).core g.core).held = (s.core g.core).held from hS.held _]
  · rw [hfull]
    dsimp only
    have hst1 : (((s.settleGang gi).poolMiss (s.partOfCore g.core)).gangOf gi).st = .resident := hst0
    unfold State.killGang
    rw [hst1]
    exact State.st_retireGang (List.getElem?_eq_getElem (show gi < ((s.settleGang gi).poolMiss _).gangs.length from hgi)) 2

/-- A HALTC's gang goes into a slot of the pool (R405, R425). -/
theorem gangHalt_slot (hn : n = 4) {k : Nat} {bs : List Nat} {p : PartSt} (hp : (s.settleGang gi).part (s.partOfCore g.core) = p)
    (hk : p.freeSlot = some k)
    (hlen : (((s.settleGang gi).marked gi 0).imageLens gi).sum ≤ p.slotBytes)
    (hb : ((s.settleGang gi).marked gi 0).blocksAt (s.partOfCore g.core) 1 .write (p.slotAddr k)
      ((((s.settleGang gi).marked gi 0).imageLens gi).sum / 256) = some bs)
    (ht : bs.any ((s.settleGang gi).marked gi 0).training = false) :
    Answers (exec (.gangHalt gi) s) fun t => (t.gangOf gi).st = .suspended ∧ (t.gangOf gi).reason = 4 ∧
      (t.gangOf gi).poolSlot = some k ∧ (t.gangOf gi).image = BitVec.ofNat 64 (p.slotAddr k) ∧
      t.mem = ((s.settleGang gi).marked gi 0).imaged gi g.harts.length bs 4 ∧
      ∀ x ∈ (t.core g.core).lanes, ∀ y, x = some y → y.1 ≠ gi := by
  obtain ⟨-, hgi, -, hcore, hharts, hpart, -⟩ := State.settled_gang hg hst
  obtain ⟨-, -, hhalt⟩ := exec_gangHalt_alone hg hreq hst hstop htog hfl
  obtain ⟨t, hdone, h⟩ := State.suspendToPool_slot (reason := 4) hgi (by rw [hcore, hpart]; exact hp) hk hlen
    (by rw [hcore, hpart]; exact hb) ht
  rw [hdone] at hhalt
  rw [hcore, hharts] at h
  exact .intro (hhalt hn) ⟨h.st, h.reason, h.poolSlot, h.image, h.mem, h.lanes⟩

/-- A SUSPEND command's gang is suspended into its image, or it stays and the command has its status (R397, R398). -/
theorem gangHalt_command (hn : n = 1) {c : Nat} {x : CtxCmd} (hc : (s.settleGang gi).ctx[c]? = some x)
    (hcmd : (s.settleGang gi).suspendCmd gi = some x) :
    let u := (s.settleGang gi).marked gi x.keep.toNat
    let len := (u.imageLens gi).sum
    let blocks := u.blocksAt (s.partOfCore g.core) (u.nowLevel x.issuer) .write x.image.toNat (len / 256)
    let status (t : State) (v e : Nat) : Prop := ∃ y : CtxCmd, t.ctx[c]? = some y ∧ y.result = some (v, e)
    (x.imageLen < len → Answers (exec (.gangHalt gi) s) fun t => (t.gangOf gi).st = .resident ∧
      t.mem = (s.settleGang gi).mem ∧ status t (2 ^ 63 + 4) len) ∧
    (len ≤ x.imageLen → blocks = none → Answers (exec (.gangHalt gi) s) fun t => (t.gangOf gi).st = .resident ∧
      t.mem = (s.settleGang gi).mem ∧ status t (2 ^ 63 + 7) 0) ∧
    (∀ bs, len ≤ x.imageLen → blocks = some bs → bs.any u.training = false →
      Answers (exec (.gangHalt gi) s) fun t => (t.gangOf gi).st = .suspended ∧ (t.gangOf gi).reason = 1 ∧
        (t.gangOf gi).haltReq = none ∧ (t.gangOf gi).image = x.image ∧ (t.gangOf gi).imageLen = len ∧
        t.mem = u.imaged gi g.harts.length bs 1 ∧ (∀ x ∈ (t.core g.core).lanes, ∀ y, x = some y → y.1 ≠ gi) ∧
        status t (1 + len * 2 ^ 32) 0) := by
  intro u len blocks status
  obtain ⟨-, hgi, hst0, hcore, hharts, hpart, -⟩ := State.settled_gang hg hst
  obtain ⟨hsusp, -, -⟩ := exec_gangHalt_alone hg hreq hst hstop htog hfl
  have hexec := hsusp hn x hcmd
  have hstay (v e : Nat) : (((((s.settleGang gi).stay gi).answerCtx gi 0 false v e).gangOf gi).st = .resident ∧
      (((s.settleGang gi).stay gi).answerCtx gi 0 false v e).mem = (s.settleGang gi).mem ∧
      status (((s.settleGang gi).stay gi).answerCtx gi 0 false v e) v e) :=
    ⟨(State.gangOf_stay hgi).1.trans hst0, rfl, State.result_answerCtx hc hcmd rfl v e⟩
  refine ⟨fun h => ?_, fun h hb => ?_, fun bs h hb ht => ?_⟩
  · rw [State.suspendTo_small hcmd _ h] at hexec
    exact .intro hexec (hstay _ _)
  · rw [State.suspendTo_fault hcmd _ hgi h (by rw [hcore, hpart]; exact hb)] at hexec
    exact .intro hexec (hstay _ _)
  · obtain ⟨t, hdone, hs⟩ := State.suspendTo_done hcmd (s.part (s.partOfCore g.core)).keepsw hgi h
      (by rw [hcore, hpart]; exact hb) ht
    rw [hdone] at hexec
    rw [hcore, hharts] at hs
    exact .intro hexec ⟨hs.st, hs.reason, hs.haltReq, hs.image, hs.imageLen, hs.mem, hs.lanes,
      State.result_answerCtx hc hcmd hs.ctx _ _⟩

end

end Sys2Proof.Machine
end

section
/-! The obligation on context commands. -/

namespace Sys2Proof.Machine

section
variable {s : State} {c : Nat}

/-- A step of no command, or of one that has its status, does nothing. -/
theorem exec_ctxCmd_none (h : s.ctx[c]? = none) : ∀ i ∈ ([.suspend c, .killgang c, .killlaunch c, .dhalt c, .resume c,
    .dresume c, .contextCommandStatus c] : List Instr), exec i s = .next s := by
  intro i hi
  simp only [List.mem_cons, List.not_mem_nil, or_false] at hi
  obtain rfl | rfl | rfl | rfl | rfl | rfl | rfl := hi
  case inr.inr.inr.inr.inr.inr =>
    show execContextCommandStatus c s = _
    unfold execContextCommandStatus
    rw [h]
  all_goals exact congrArg Host.Outcome.next (State.onCmd_none h _ _ _)

variable {x : CtxCmd} (hx : s.ctx[c]? = some x)
include hx

theorem exec_ctxCmd_answered (hr : x.result.isSome = true) : ∀ i ∈ ([.suspend c, .killgang c, .killlaunch c, .dhalt c,
    .resume c, .dresume c] : List Instr), exec i s = .next s := by
  intro i hi
  simp only [List.mem_cons, List.not_mem_nil, or_false] at hi
  obtain rfl | rfl | rfl | rfl | rfl | rfl := hi
  all_goals exact congrArg Host.Outcome.next (State.onCmd_answered hx hr _ _ _)

variable (hr : x.result = none)
include hr

/-- A KILLGANG that takes hold of a gang: asked to end where it runs, and else ended with the status (R397). -/
theorem exec_killgang_took (hop : x.op = 1) (hl : x.load = false) (hb : x.begun = false) {gi : Nat}
    (h : s.gangIndex x.launch x.number = some gi) (hst : (s.gangOf gi).st ≠ .retired) (hbusy : s.cmdBusy c gi = false) :
    Answers (exec (.killgang c) s) fun t => (∃ y : CtxCmd, t.ctx[c]? = some y ∧ y.begun = true ∧ y.gang = gi) ∧
      (s.onCore gi = true → t.gangOf gi = { s.gangOf gi with haltReq := some 5 }) ∧
      (s.onCore gi = false → (t.gangOf gi).st = .retired ∧ ∃ y : CtxCmd, t.ctx[c]? = some y ∧ y.result = some (1, 0)) := by
  obtain ⟨-, hk⟩ := exec_killgang hx hr hop hl hb
  have hexec := ((hk gi h).2 hst).2 hbusy
  have hgi : gi < (s.beginCmd c gi).gangs.length := State.lt_of_gangIndex h
  have hctx : ((s.beginCmd c gi).askKill gi 2).ctx = (s.beginCmd c gi).ctx := (State.Ends.askKill hgi 2).ctx
  cases hon : s.onCore gi with
  | true =>
    have hgang : ((s.beginCmd c gi).askKill gi 2).gangOf gi = { s.gangOf gi with haltReq := some 5 } := by
      rw [State.askKill_of_onCore (s := s.beginCmd c gi) hon, State.modGang_gangOf _ _ _ _ hgi, if_pos rfl]
      rfl
    rw [if_neg (by rw [hgang]; exact hst)] at hexec
    exact .intro hexec ⟨State.took_beginCmd hx gi hctx, fun _ => hgang, nofun⟩
  | false =>
    have hend : (((s.beginCmd c gi).askKill gi 2).gangOf gi).st = .retired :=
      State.st_askKill (s := s.beginCmd c gi) hgi hon hst 2
    have hbegun : ((s.beginCmd c gi).askKill gi 2).ctx[c]? = some { x with begun := true, gang := gi } := by
      rw [hctx]
      exact State.getElem?_modCmd hx _
    rw [if_pos hend] at hexec
    exact .intro hexec ⟨⟨_, State.getElem?_modCmd hbegun _, rfl, rfl⟩, nofun, fun _ => ⟨hend, State.result_answerCmd hbegun 1 0⟩⟩

/-- A KILLGANG of a gang never placed (R26, R397). -/
theorem exec_killgang_fresh (hop : x.op = 1) (hl : x.load = false) (hb : x.begun = false)
    (h : s.gangIndex x.launch x.number = none) {l : Launch} (hlaunch : s.launches[x.launch]? = some l) (hc : l.complete = false)
    (hlt : x.number < l.gangs) (hk : l.killed.contains x.number = false) :
    Answers (exec (.killgang c) s) fun t => (∃ y : CtxCmd, t.ctx[c]? = some y ∧ y.result = some (1, 0)) ∧
      ∃ l' : Launch, t.launches[x.launch]? = some l' ∧ l'.killed = l.killed ++ [x.number] ∧ l'.retired = l.retired + 1 := by
  obtain ⟨hfresh, -⟩ := exec_killgang hx hr hop hl hb
  refine .intro (hfresh l h hlaunch hc hlt hk)
    ⟨State.result_answerCmd (by rw [(State.Ends.killFresh s x.launch x.number).ctx]; exact hx) 1 0, ?_⟩
  obtain ⟨d, hd⟩ := (State.finishLaunch_completes ((s.modLaunch x.launch fun l => { l with killed := l.killed ++ [x.number] }).modLaunch
    x.launch fun l => { l with retired := l.retired + 1, outcome := if l.outcome = 0 then 2 else l.outcome }) x.launch).launch _
      (by rw [State.getElem?_modLaunch, if_pos rfl, State.getElem?_modLaunch, if_pos rfl, hlaunch]; rfl)
  exact ⟨_, hd, rfl, rfl⟩

/-- A KILLLAUNCH that takes hold of a launch (R397, R448). -/
theorem exec_killlaunch_took (hop : x.op = 2) (hl : x.load = false) {l : Launch} (hlaunch : s.launches[x.launch]? = some l)
    (hc : l.complete = false) (hb : x.begun = false) : Answers (exec (.killlaunch c) s) fun t =>
      (∃ l' : Launch, t.launches[x.launch]? = some l' ∧ l'.outcome = 1 ∧ l'.next = l.gangs) ∧
      ∀ (gi : Nat) (g : Gang), s.gangs[gi]? = some g → g.launch = x.launch →
        ∃ g' : Gang, t.gangs[gi]? = some g' ∧ (g'.st = .retired ∨ g'.haltReq = some 5) := by
  obtain ⟨-, hk⟩ := exec_killlaunch hx hr hop hl
  have h1 : (s.modCmd c fun x => { x with begun := true }).launches[x.launch]? = some l := hlaunch
  refine .intro ((hk l hlaunch).2.2.2 hc hb) ⟨State.killed_killLaunch h1, fun gi g hg hgl => ?_⟩
  have hlen := (State.Ends.killLaunch (s.modCmd c fun x => { x with begun := true }) x.launch).length
  have hgi : gi < ((s.modCmd c fun x => { x with begun := true }).killLaunch x.launch).gangs.length := by
    rw [hlen]
    exact (List.getElem?_eq_some_iff.1 hg).1
  have hend := State.ending_killLaunch (s := s.modCmd c fun x => { x with begun := true }) h1 hg hgl
  rw [State.gangOf_of (List.getElem?_eq_getElem hgi)] at hend
  exact ⟨_, List.getElem?_eq_getElem hgi, hend⟩

/-- A DHALT that reaches its role (R402). -/
theorem exec_dhalt_stops (hop : x.op = 3) (hl : x.load = false) {gi : Nat} (h : s.gangIndex x.launch x.number = some gi)
    {u : Thread} (hu : s.thread? (x.agent gi) = some u) (hon : s.onCore gi = true) (hbusy : s.cmdBusy c gi = false)
    (hself : x.issuer.gang ≠ gi) (hreq : (s.gangOf gi).haltReq = none) (hfl : u.flight = none) {b : List Nat}
    (hlen : 8192 ≤ x.imageLen) (hb : s.blocksAt x.part (s.nowLevel x.issuer) .write x.image.toNat 32 = some b)
    (ht : b.any s.training = false) :
    Answers (exec (.dhalt c) s) fun t => (∃ y : CtxCmd, t.ctx[c]? = some y ∧ y.result = some (1, 0)) ∧
      t.mem = writeBlocks s.mem
        (freeBytes (freeBytes (u.image (s.gangOf gi) [] 0) s.free 512 512) s.free 7168 1024) 0 b ∧
      (∃ v : Thread, t.thread? (x.agent gi) = some v ∧ v.debug = true ∧ v.pc = u.pc ∧ (∀ r, v.reg r = u.reg r) ∧
        (u.debug = true → v = u) ∧ (u.debug = false → v.wait = .none ∧ v.halted = u.wait ∧ v.frz = true)) ∧
      ∀ r ∈ t.sleepers, r.agent ≠ x.agent gi := by
  obtain ⟨-, -, hstop⟩ := exec_dhalt hx hr h hu hon hbusy hop hl hself hreq hfl
  have hexec := hstop b hlen hb ht
  generalize writeBlocks s.mem (freeBytes (freeBytes (u.image (s.gangOf gi) [] 0) s.free 512 512) s.free 7168 1024) 0 b = m at hexec ⊢
  obtain ⟨cs, hcs⟩ := State.chargeBlocks_rest ({ s with mem := m, free := s.free + 1 } : State) gi b
  rw [hcs] at hexec
  obtain ⟨hctx, hmem, hsleep, hv⟩ := State.stopRole_spec (s := { s with mem := m, free := s.free + 1, cores := cs }) hu
  exact .intro hexec ⟨State.result_answerCmd (hctx ▸ hx) 1 0, hmem, hv, hsleep⟩

/-- A DRESUME that finds its role stopped (R402). -/
theorem exec_dresume_loads (hop : x.op = 1) (hl : x.load = true) {gi : Nat} (h : s.gangIndex x.launch x.number = some gi)
    {u : Thread} (hu : s.thread? (x.agent gi) = some u) (hon : s.onCore gi = true) (hbusy : s.cmdBusy c gi = false)
    (hd : u.debug = true) {b : List Nat} (hb : s.blocksAt x.part (s.nowLevel x.issuer) .read x.image.toNat 2 = some b)
    (ht : b.any s.training = false) :
    Answers (exec (.dresume c) s) fun t => (∃ y : CtxCmd, t.ctx[c]? = some y ∧ y.result = some (1, 0)) ∧
      t.mem = s.mem ∧ ∃ v : Thread, t.thread? (x.agent gi) = some v ∧ v.debug = false ∧
        v.pc = wordAligned (BitVec.ofNat 64 (s.mem.read ((b[0]?).getD 0) 8)) ∧
        ∀ r, r < 64 → v.reg r = if r = 0 then 0 else if x.role = 255 ∧ 31 < r then u.reg r
          else BitVec.ofNat 64 (s.mem.read ((b[r / 32]?).getD 0 + 8 * r % 256) 8) := by
  obtain ⟨-, hloads⟩ := exec_dresume hx hr h hu hon hbusy hop hl
  have hexec := hloads b hd hb ht
  obtain ⟨cs, hcs⟩ := s.chargeBlocks_rest gi b
  rw [hcs] at hexec
  have hw (r : Nat) (hlt : r < 64) : ((((List.range 64).map fun i =>
      BitVec.ofNat 64 (s.mem.read ((b[8 * i / 256]?).getD 0 + 8 * i % 256) 8))[r]?).getD 0) =
        BitVec.ofNat 64 (s.mem.read ((b[r / 32]?).getD 0 + 8 * r % 256) 8) := by
    rw [List.getElem?_map, List.getElem?_range hlt, show r / 32 = 8 * r / 256 by omega]
    rfl
  obtain ⟨hpc, hreg⟩ := u.loadRecord_spec (if x.role = 255 then 31 else 63) ((List.range 64).map fun i =>
    BitVec.ofNat 64 (s.mem.read ((b[8 * i / 256]?).getD 0 + 8 * i % 256) 8))
  refine .intro hexec ⟨State.result_answerCmd (s := State.modThread { s with cores := cs } _ _) hx 1 0, rfl, _,
    State.thread?_modThread_self (s := { s with cores := cs }) hu _, rfl, ?_, fun r hlt => ?_⟩
  · exact hpc.trans (congrArg wordAligned (hw 0 (by decide)))
  · refine (hreg r).trans ?_
    rw [hw r hlt]
    by_cases hrole : x.role = 255
    · simp only [hrole, if_true, true_and]
    · rw [if_neg hrole, if_neg (show ¬ 63 < r by omega), if_neg (show ¬(x.role = 255 ∧ 31 < r) from fun h => hrole h.1)]

end

/-- Settles O55, from what each operation comes to and from the halt of a gang alone. -/
theorem contextCommands : Obligations.ContextCommands := by
  unfold Obligations.ContextCommands
  intro s c
  refine ⟨exec_ctxCmd_none, fun x hx => ⟨exec_ctxCmd_answered hx, exec_contextCommandStatus_none hx,
    fun v e pa hr hv h8 hw hin hp => exec_contextCommandStatus hx hr hv h8 hw hin hp,
    fun e pa pb hr h8 hw hin hp hq ha hb => exec_contextCommandStatus_small hx hr h8 hw hin hp hq ha hb, fun hr => ?_⟩,
    fun gi g hg => ⟨fun hreq => ?_, fun n hreq => ?_⟩⟩
  · intro answer took nowhere runs
    have hruns (gi : Nat) : s.onCore gi = true ↔ runs gi := State.onCore_iff
    have hnot (gi : Nat) : s.onCore gi = false ↔ ¬runs gi := by rw [← hruns, Bool.not_eq_true]
    refine ⟨fun hop hl hb => ?_, fun hop hl hb => ?_, fun hop hl => ?_, fun gi h u hu hon hbusy => ?_, fun hop hl hb gi h => ?_⟩
    · obtain ⟨hno, hyes⟩ := exec_suspend hx hr hop hl hb
      refine ⟨hno, fun gi h => ?_⟩
      obtain ⟨hoff, hrun⟩ := hyes gi h
      refine ⟨fun hn => hoff ((hnot gi).2 hn), fun hn => (hrun ((hruns gi).2 hn)).1,
        fun hn hne => ((hrun ((hruns gi).2 hn)).2 hne).1, fun hn hne hbusy hreq => ?_⟩
      obtain ⟨⟨gs, hgs⟩, hgang⟩ := State.askHalt_spec (s := s.beginCmd c gi) (State.lt_of_gangIndex h) ((hruns gi).2 hn) hreq 1
      exact .intro (((hrun ((hruns gi).2 hn)).2 hne).2 hbusy hreq)
        ⟨State.took_beginCmd hx gi (by rw [hgs]), by rw [hgs]; rfl, hgang⟩
    · obtain ⟨-, hk⟩ := exec_killgang hx hr hop hl hb
      refine ⟨fun gi h => ⟨(hk gi h).1, fun hst => ((hk gi h).2 hst).1, fun hst hbusy => ?_⟩,
        fun h l hlaunch hc hlt hkd => exec_killgang_fresh hx hr hop hl hb h hlaunch hc hlt hkd⟩
      obtain ⟨t, ht, htook, hon, hoff⟩ := exec_killgang_took hx hr hop hl hb h hst hbusy
      exact .intro ht ⟨htook, fun hn => hon ((hruns gi).2 hn), fun hn => hoff ((hnot gi).2 hn)⟩
    · obtain ⟨hnone, hk⟩ := exec_killlaunch hx hr hop hl
      refine ⟨hnone, fun l hlaunch => ?_⟩
      obtain ⟨h1, h2, h3, -⟩ := hk l hlaunch
      exact ⟨h1, h2, h3, exec_killlaunch_took hx hr hop hl hlaunch⟩
    · have hon' := (hruns gi).2 hon
      refine ⟨fun hop hl hself hreq hfl => ?_, fun hop hl => ⟨(exec_dresume hx hr h hu hon' hbusy hop hl).1,
        fun b hd hb ht => exec_dresume_loads hx hr hop hl h hu hon' hbusy hd hb ht⟩⟩
      obtain ⟨hsmall, hfault, -⟩ := exec_dhalt hx hr h hu hon' hbusy hop hl hself hreq hfl
      exact ⟨hsmall, hfault, fun b hlen hb ht => exec_dhalt_stops hx hr hop hl h hu hon' hbusy hself hreq hfl hlen hb ht⟩
    · obtain ⟨hno, hyes⟩ := exec_resume hx hr hop hl hb h
      refine ⟨hno, fun hst himg hbusy hw => ?_⟩
      obtain ⟨hfault, hbad, hgood⟩ := hyes hst himg hbusy hw
      refine ⟨hfault, hbad, fun r hr' hres => .intro (hgood r hr') ⟨State.took_beginCmd hx gi rfl, rfl, ?_, rfl⟩⟩
      rw [State.modGang_gangOf _ _ _ _ (show gi < ({ s.beginCmd c gi with stamp := s.stamp + 1 } : State).gangs.length from
        State.lt_of_gangIndex h), if_pos rfl]
      exact if_neg (show ¬(s.gangOf gi).resume.isSome = true by rw [hres]; decide)
  · show Host.Outcome.next (s.haltGang gi) = _
    unfold State.haltGang
    dsimp only
    rw [State.gangOf_of hg, hreq]
  · have hgi : gi < s.gangs.length := (List.getElem?_eq_some_iff.1 hg).1
    have hcleared (t : State) (ht : t.gangs = s.gangs) :
        (t.modGang gi fun g => { g with haltReq := none }).gangOf gi = { g with haltReq := none } :=
      State.gangOf_modGang_of (ht ▸ hg) _
    refine ⟨fun hst => .intro (exec_gangHalt_away hg hreq hst) (hcleared s rfl), gangHalt_end hg hreq,
      fun hst hn hstop => .intro (exec_gangHalt_stopped hg hreq hst hn hstop) ⟨rfl, hcleared _ rfl⟩,
      fun hst hstop htog hfl hslot => gangHalt_noSlot hg hreq hst hstop htog hfl hslot, fun hst hstop htog hfl => ?_⟩
    intro s0 part marked lens written offCore
    have hmarked : marked = s0.marked gi := rfl
    have hlens : lens = fun u => u.imageLens gi := rfl
    have hwritten : written = fun u => u.imaged gi g.harts.length := rfl
    clear_value written lens marked
    subst hmarked hlens hwritten
    exact ⟨fun hn c x hc hcmd => gangHalt_command hg hreq hst hstop htog hfl hn hc hcmd,
      fun hn k bs hk hlen hb ht => gangHalt_slot hg hreq hst hstop htog hfl hn rfl hk hlen hb ht⟩

end Sys2Proof.Machine
end

section
/-! The scalar Orchard forms, performed whole at their tile (R349 to R357). -/

namespace Sys2Proof.Machine

/-! Requests at a tile. -/

/-- A request that always has an answer (R350). -/
def Answering (f : OrchSlice → OrchReply) : Prop := ∀ o, (f o).isSome = true

theorem isSome_ite {α : Type} (c : Prop) [Decidable c] (x y : α) : (if c then some x else some y).isSome = true := by
  split <;> rfl

/-- A request on a node has an answer if the request of every node has (R345). -/
theorem Answering.onNode (w : Word) {f : OrchSlice → Tree → Node → OrchReply} (hf : ∀ o t x, (f o t x).isSome = true) :
    Answering fun o => o.onNode w (f o) := by
  intro o
  dsimp only
  unfold OrchSlice.onNode
  split
  · rfl
  · split
    · rfl
    · exact hf ..

theorem Answering.desc (w : Word) : Answering (·.desc w) := .onNode w fun _ _ _ => rfl

theorem Answering.backupFrom (w v : Word) : Answering (·.backupFrom w v false) := .onNode w fun _ _ _ => rfl

theorem Answering.reuse (w : Word) : Answering (·.reuse w) := .onNode w fun _ _ _ => isSome_ite ..

theorem Answering.release (w : Word) : Answering (·.release w) := .onNode w fun _ _ _ => isSome_ite ..

theorem Answering.readNode (w : Word) (k : Nat) : Answering (·.readNode w k) := .onNode w fun o t x => by
  dsimp only
  split
  · rfl
  · exact isSome_ite ..

/-- A charge leaves all but the cores. -/
theorem State.charge_rest (s : State) (gi k n : Nat) : ∃ cs, s.charge gi k n = { s with cores := cs } := by
  unfold State.charge
  dsimp only
  split <;> exact ⟨_, rfl⟩

section
variable {s : State} {a : Agent} {w : Word} {f : OrchSlice → OrchReply}

/-- A handle of another partition is stale, and changes nothing (R345). -/
theorem State.orchAt_other (h : s.partOfCore (32 * handleTile w) ≠ s.partOfCore (s.gangOf a.gang).core) :
    s.orchAt a w f = some (oSTALEH, s) := if_pos h

theorem State.orchAt_own (h : s.partOfCore (32 * handleTile w) = s.partOfCore (s.gangOf a.gang).core) :
    s.orchAt a w f = (f (s.slice (handleTile w))).map fun r =>
      (r.1, { s with orch := modifyAt s.orch (handleTile w) fun _ => r.2 }.charge a.gang 16 1) := if_neg (not_not.2 h)

/-- What a request leaves of the state beside the slices. -/
theorem State.orchAt_rest {v : Word} {u : State} (h : s.orchAt a w f = some (v, u)) :
    ∃ cs, u = { s with orch := u.orch, cores := cs } := by
  by_cases hp : s.partOfCore (32 * handleTile w) = s.partOfCore (s.gangOf a.gang).core
  · rw [State.orchAt_own hp] at h
    obtain ⟨r, -, hr⟩ := Option.map_eq_some_iff.1 h
    cases hr
    obtain ⟨cs, hcs⟩ := State.charge_rest { s with orch := modifyAt s.orch (handleTile w) fun _ => r.2 } a.gang 16 1
    rw [hcs]
    exact ⟨cs, rfl⟩
  · rw [State.orchAt_other hp] at h
    cases h
    exact ⟨s.cores, rfl⟩

theorem State.orchAt_answers (hf : Answering f) : ∃ v u, s.orchAt a w f = some (v, u) := by
  by_cases hp : s.partOfCore (32 * handleTile w) = s.partOfCore (s.gangOf a.gang).core
  · obtain ⟨r, hr⟩ := Option.isSome_iff_exists.1 (hf (s.slice (handleTile w)))
    exact ⟨_, _, by rw [State.orchAt_own hp, hr]; rfl⟩
  · exact ⟨_, _, State.orchAt_other hp⟩

end

/-! The forms. -/

section
variable {s : State} (hq : Quiet s)
include hq

/-- With nothing of the hart in flight a form waits for nothing. -/
theorem Quiet.orchForm (d : BitVec 6) (info : Word) (f : State → Option (Word × State)) : s.orchForm d info f =
    match f s with
    | some (v, s) => s.retWith d v
    | none => s.trapWith { s.scalarCause cORCHFULL 0 0 with info := info } := by
  unfold State.orchForm
  rw [hq.afterVector, hq.xfers]
  rfl

/-- A state that differs in its slices and charges is live. -/
theorem Quiet.finishes_orch {u : State} {cs : List CoreSt} (hu : u = { s with orch := u.orch, cores := cs }) (d : BitVec 6)
    (v : Word) : Finishes (u.retWith d v) u d.toNat v :=
  Retires.retWith (show u.live = true by rw [hu]; exact hq.live) d v

/-- A form that performs a request on a node is performed whole, and its answer reaches gd (R349, R350). -/
theorem Quiet.performs (hh : s.onHart = true) {i : Instr} {d a : BitVec 6} {f : OrchSlice → OrchReply} (hf : Answering f)
    {k : State → Option (Word × State)} (hk : k s = s.orchAt s.who (s.x a) f)
    (hi : exec i s = s.hart (s.orchForm d (s.x a) k)) :
    (∃ v s1, s.orchAt s.who (s.x a) f = some (v, s1) ∧ s1 = { s with orch := s1.orch, cores := s1.cores } ∧
      Finishes (exec i s) s1 d.toNat v) ∧
    (s.partOfCore (32 * handleTile (s.x a)) ≠ s.myPart → Finishes (exec i s) s d.toNat oSTALEH) := by
  rw [hi, State.hart_of_onHart hq.live hh, hq.orchForm, hk]
  refine ⟨?_, fun hp => ?_⟩
  · obtain ⟨v, u, hu⟩ := State.orchAt_answers (s := s) (a := s.who) (w := s.x a) hf
    obtain ⟨cs, hcs⟩ := State.orchAt_rest hu
    refine ⟨v, u, hu, ?_, ?_⟩
    · rw [hcs]
    · rw [hu]
      exact hq.finishes_orch hcs d v
  · rw [State.orchAt_other hp]
    exact Retires.retWith hq.live d oSTALEH

end

/-! ONEW (R351). -/

/-- No room for a tree's root in a slice that has a tree slot left. -/
def OrchSlice.full (o : OrchSlice) : Prop := freeRun 1 0 o.nodes = none ∧ ∃ k < 256, o.tree? k = none

theorem OrchSlice.find_tree {o : OrchSlice} : ((List.range 256).find? fun t => (o.tree? t).isNone) = none ↔
    ∀ k < 256, o.tree? k ≠ none := by
  simp [List.find?_eq_none]

theorem OrchSlice.newTree_full {o : OrchSlice} (h : o.full) (tile : Nat) (w : Word) :
    o.newTree tile w = if w.getLsbD 36 then none else some (oFULL, o) := by
  obtain ⟨hrun, k, hk, hnone⟩ := h
  obtain ⟨t, ht⟩ := Option.ne_none_iff_exists'.1 fun h => OrchSlice.find_tree.1 h k hk hnone
  unfold OrchSlice.newTree
  rw [ht, hrun]

theorem OrchSlice.newTree_none {o : OrchSlice} (h : ∀ k < 256, o.tree? k ≠ none) (tile : Nat) (w : Word) :
    o.newTree tile w = some (oNOTREE, o) := by
  unfold OrchSlice.newTree
  rw [OrchSlice.find_tree.2 h]

/-- Only a full slice whose tree is to trap has no answer. -/
theorem OrchSlice.newTree_answers {o : OrchSlice} {w : Word} (h : ¬o.full ∨ w.getLsbD 36 = false) (tile : Nat) :
    ∃ v o', o.newTree tile w = some (v, o') := by
  by_cases hfull : o.full
  · exact ⟨_, _, by rw [OrchSlice.newTree_full hfull, h.resolve_left (not_not.2 hfull)]; rfl⟩
  · unfold OrchSlice.newTree
    split
    · exact ⟨_, _, rfl⟩
    · rename_i t ht
      split
      · rename_i hrun
        have := List.find?_some ht
        exact absurd ⟨hrun, t, List.mem_range.1 (List.mem_of_find?_eq_some ht), Option.isNone_iff_eq_none.1 this⟩ hfull
      · exact ⟨_, _, rfl⟩

section
variable {s : State} (hq : Quiet s) (hh : s.onHart = true) {a : BitVec 6} (d : BitVec 6) (hw : (s.x a).toNat < 2 ^ 37)
include hq hh hw

theorem exec_onew : exec (.onew d a) s =
    match (if s.partTiles ≤ (s.x a).toNat / 2 ^ 32 % 8 then some (oBADTILE, s)
      else ((s.slice (s.myPart * s.partTiles + (s.x a).toNat / 2 ^ 32 % 8)).newTree
        (s.myPart * s.partTiles + (s.x a).toNat / 2 ^ 32 % 8) (s.x a)).map fun r => (r.1, { s with
          orch := modifyAt s.orch (s.myPart * s.partTiles + (s.x a).toNat / 2 ^ 32 % 8) fun _ => r.2 }.charge s.who.gang 16 1)) with
    | some (v, s) => s.retWith d v
    | none => s.trapWith { s.scalarCause cORCHFULL 0 0 with
        info := BitVec.ofNat 64 ((s.myPart * s.partTiles + (s.x a).toNat / 2 ^ 32 % 8) * 2 ^ 21) } := by
  show execOnew d a s = _
  unfold execOnew
  rw [State.hart_of_onHart hq.live hh]
  dsimp only
  rw [if_neg (Nat.not_le.2 hw), hq.orchForm]

/-- ONEW at a tile of the partition (R351). -/
theorem exec_onew_tile (hj : (s.x a).toNat / 2 ^ 32 % 8 < s.partTiles) :
    let tile := s.myPart * s.partTiles + (s.x a).toNat / 2 ^ 32 % 8
    (¬(s.slice tile).full ∨ (s.x a).getLsbD 36 = false → ∃ v o', (s.slice tile).newTree tile (s.x a) = some (v, o') ∧
      ((s.slice tile).full → v = oFULL ∧ o' = s.slice tile) ∧
      ((∀ k < 256, (s.slice tile).tree? k ≠ none) → v = oNOTREE ∧ o' = s.slice tile) ∧
      Finishes (exec (.onew d a) s) ({ s with orch := modifyAt s.orch tile fun _ => o' }.charge s.who.gang 16 1) d.toNat v) ∧
    ((s.slice tile).full → (s.x a).getLsbD 36 = true → exec (.onew d a) s = s.trapWith
      { s.scalarCause cORCHFULL 0 0 with info := BitVec.ofNat 64 (tile * 2 ^ 21) }) := by
  intro tile
  have hexec := exec_onew hq hh d hw
  rw [if_neg (Nat.not_le.2 hj)] at hexec
  refine ⟨fun h => ?_, fun hfull htrap => ?_⟩
  · obtain ⟨v, o', ho⟩ := OrchSlice.newTree_answers h tile
    refine ⟨v, o', ho, fun hfull => ?_, fun hall => ?_, ?_⟩
    · rw [OrchSlice.newTree_full hfull, h.resolve_left (not_not.2 hfull)] at ho
      cases ho
      exact ⟨rfl, rfl⟩
    · rw [OrchSlice.newTree_none hall] at ho
      cases ho
      exact ⟨rfl, rfl⟩
    · rw [hexec, ho]
      obtain ⟨cs, hcs⟩ := State.charge_rest { s with orch := modifyAt s.orch tile fun _ => o' } s.who.gang 16 1
      exact hq.finishes_orch (cs := cs) (by rw [hcs]) d v
  · rw [hexec, OrchSlice.newTree_full hfull, htrap]
    rfl

end

/-! A backup at a root (R354). -/

/-- The node that a handle names is the one in its slot. -/
theorem OrchSlice.node?_of_named {o : OrchSlice} {w : Word} {x : Node} (h : o.named w = some x) : o.node? x.slot = some x := by
  unfold OrchSlice.named at h
  dsimp only at h
  split at h
  · cases h
  · split at h
    · have hx := (Option.filter_eq_some_iff.1 h).1
      have hslot : x.slot = w.toNat % 2 ^ 21 := of_decide_eq_true (List.find?_some (p := fun x : Node => decide (x.slot = w.toNat % 2 ^ 21)) hx)
      rw [hslot]
      exact hx
    · cases h

theorem OrchSlice.backupFrom_root {o : OrchSlice} {w v : Word} {x : Node} {t : Tree} (hx : o.named w = some x)
    (ht : o.tree? x.tree = some t) (hr : x.root = true) : o.backupFrom w v false =
      some (1, o.modNode x.slot fun y => y.backup (decode .f64 v) false) := by
  unfold OrchSlice.backupFrom OrchSlice.onNode
  rw [hx]
  dsimp only
  rw [ht]
  dsimp only
  unfold OrchSlice.backup
  rw [OrchSlice.node?_of_named hx]
  dsimp only
  rw [if_pos hr]
  rfl

end Sys2Proof.Machine
end

section
/-! OEXPAND: its push, its step, and what its hart is told (R349, R353). -/

namespace Sys2Proof.Machine

/-! The push. -/

section
variable {s : State} (hr : s.room) (hh : s.onHart = true) {b : BitVec 6} (hq : isQueue b = false)
  (hn : s.named ⟨[b], none, false, false⟩ = .ok ()) {x : Operand} {s1 : State} (hx : s.vsource none b = .ok (x, s1))
  (h0 : 0 < s.me.vl) (h1 : s.me.vl ≤ 4096) (hf : x.tag.floating = true) (h6 : x.tag ≠ .l6)
include hr hh hq hn hx h0 h1 hf h6

theorem exec_oexpand_pushes (d a : BitVec 6) : Pushes (exec (.oexpand d a b) s) s1 { s1.blank .oexpand s.me.vl with
    dst := .scalar d.toNat, srcA := x.src, tagA := x.tag, opa := s.x a } := by
  have hsource := s.vsource_register hq none
  rw [hsource] at hx
  cases hx
  obtain ⟨t, ht, hqueued⟩ := hr.pushVec { s.blank .oexpand s.me.vl with
    dst := .scalar d.toNat, srcA := .reg b.toNat, tagA := (s.me.vreg b.toNat).tag, opa := s.x a }
  have hlegal : (decide (0 < s.me.vl) && decide (s.me.vl ≤ 4096) && (s.me.vreg b.toNat).tag.floating &&
      decide ((s.me.vreg b.toNat).tag ≠ .l6)) = true := by simpa [h0, h1, hf] using h6
  have hpush : s.pushOexpand d a b = .ok t :=
    (Push.bind_need (by rw [hq]; rfl) _).trans ((Push.bind_of_ok hn _).trans ((Push.bind_of_ok hsource _).trans
      ((Push.bind_need hlegal _).trans ht)))
  rw [show exec (.oexpand d a b) s = s.execute (s.pushOexpand d a b) from rfl, State.execute_eq hr.1 hh hr.2.1]
  exact .of_ok hpush hqueued

end

/-! What becomes of the slices and of the causes of a thread while its queue goes on. -/

/-- From `s` to `u` the slices stay, and agent `a` keeps its causes. -/
structure State.KeepsCauses (s u : State) (a : Agent) : Prop where
  orch : u.orch = s.orch
  cur : u.cur = s.cur
  causes : ∀ t, s.thread? a = some t → ∃ t', u.thread? a = some t' ∧ t'.causes = t.causes

namespace State.KeepsCauses
variable {s u v : State} {a : Agent}

theorem refl (s : State) (a : Agent) : s.KeepsCauses s a := ⟨rfl, rfl, fun t ht => ⟨t, ht, rfl⟩⟩

theorem trans (h : s.KeepsCauses u a) (k : u.KeepsCauses v a) : s.KeepsCauses v a := by
  refine ⟨k.orch.trans h.orch, k.cur.trans h.cur, fun t ht => ?_⟩
  obtain ⟨t', ht', hc⟩ := h.causes t ht
  obtain ⟨t'', ht'', hc'⟩ := k.causes t' ht'
  exact ⟨t'', ht'', hc'.trans hc⟩

/-- Changes elsewhere. -/
theorem of_gangs (ho : u.orch = s.orch) (hc : u.cur = s.cur) (hg : u.gangs = s.gangs) : s.KeepsCauses u a := by
  refine ⟨ho, hc, fun t ht => ⟨t, ?_, rfl⟩⟩
  unfold State.thread?
  rw [hg]
  exact ht

theorem modThread (s : State) (a b : Agent) {f : Thread → Thread} (hf : ∀ t : Thread, (f t).causes = t.causes) :
    s.KeepsCauses (s.modThread b f) a := by
  refine ⟨rfl, rfl, fun t ht => ?_⟩
  rw [State.thread?_modThread]
  split
  · exact ⟨f t, by rw [ht]; rfl, hf t⟩
  · exact ⟨t, ht, rfl⟩

theorem modGang (s : State) (a : Agent) (i : Nat) {f : Gang → Gang} (hf : ∀ g r, (f g).thread? r = g.thread? r) :
    s.KeepsCauses (s.modGang i f) a := by
  refine ⟨rfl, rfl, fun t ht => ⟨t, ?_, rfl⟩⟩
  rw [State.thread?_modGang]
  split
  · unfold State.thread? at ht
    cases hg : s.gangs[a.gang]? with
    | none => rw [hg] at ht; cases ht
    | some g =>
      rw [hg] at ht
      exact (hf g a.role).trans ht
  · exact ht

theorem charge (s : State) (a : Agent) (gi k n : Nat) : s.KeepsCauses (s.charge gi k n) a := by
  obtain ⟨cs, h⟩ := s.charge_rest gi k n
  rw [h]
  exact of_gangs rfl rfl rfl

theorem foldl {β : Type} {f : State → β → State} (hf : ∀ s x, State.KeepsCauses s (f s x) a) (l : List β) (s : State) :
    s.KeepsCauses (l.foldl f s) a := by
  induction l generalizing s with
  | nil => exact refl s a
  | cons x l ih => exact (hf s x).trans (ih _)

theorem wakeWord (s : State) (a : Agent) (owner key : Nat) (v : Word) : s.KeepsCauses (s.wakeWord owner key v) a := by
  refine (of_gangs rfl rfl rfl : s.KeepsCauses { s with
    sleepers := s.sleepers.filter fun r => !(r.owner = owner && r.key = key) } a).trans (foldl (fun s r => modThread s a _ fun t => ?_) _ _)
  split
  · split
    · unfold Thread.setReg
      split <;> rfl
    · rfl
  · rfl

theorem withMem (s : State) (a : Agent) (m : Memory) : s.KeepsCauses { s with mem := m } a := of_gangs rfl rfl rfl

theorem finishLaunch (s : State) (a : Agent) (li : Nat) : s.KeepsCauses (s.finishLaunch li) a := by
  have hm : s.KeepsCauses (s.modLaunch li fun l => { l with complete := true }) a := of_gangs rfl rfl rfl
  unfold State.finishLaunch
  split
  · split
    · unfold State.completeLaunch
      split
      · exact refl s a
      · dsimp only
        split
        · exact hm
        · split
          · exact hm.trans (of_gangs rfl rfl rfl)
          · exact (hm.trans (withMem ..)).trans (wakeWord ..)
    · exact refl s a
  · exact refl s a

theorem performEntry (s : State) (a b : Agent) (k : Nat) : s.KeepsCauses (s.performEntry b k) a := by
  unfold State.performEntry
  split
  · exact refl s a
  · split
    · rename_i e _ _
      have hs : s.KeepsCauses ((({ s with mem := writeBytes s.mem (32 * e.sector) e.bytes } : State).chargeAt b.gang
          (.mem (32 * e.sector)) 32).modThread b fun t => { t with wc := t.wc.eraseIdx k }) a :=
        ((of_gangs rfl rfl rfl : s.KeepsCauses { s with mem := writeBytes s.mem (32 * e.sector) e.bytes } a).trans
          (charge ..)).trans (modThread _ _ _ fun _ => rfl)
      dsimp only
      split
      · exact hs.trans (finishLaunch ..)
      · exact hs
    · split
      · exact (of_gangs rfl rfl rfl : s.KeepsCauses { s with stamp := s.stamp + 1 } a).trans (modThread _ _ _ fun _ => rfl)
      · exact refl s a

theorem drainAll (s : State) (a b : Agent) (which : WcEntry → Bool) (fuel : Nat) : s.KeepsCauses (s.drainAll b which fuel) a := by
  induction fuel generalizing s with
  | zero => exact refl s a
  | succ fuel ih =>
    unfold State.drainAll
    dsimp only
    split
    · exact (performEntry ..).trans (ih _)
    · exact refl s a

theorem deliver (s : State) (a : Agent) (seq : Nat) : s.KeepsCauses (s.deliver a seq) a := by
  refine modThread s a a fun t => ?_
  have hanswered (w : Thread) (n : Nat) : (w.answered n).causes = w.causes := by
    unfold Thread.answered
    split <;> rfl
  dsimp only
  split
  · rfl
  · split
    · rfl
    · split
      · rw [hanswered]
        unfold Thread.setReg
        split <;> rfl
      · rw [hanswered]
      · rfl

theorem thread?_ite {p : Prop} [Decidable p] {x y g : Gang} {r : Role} (hx : x.thread? r = g.thread? r)
    (hy : y.thread? r = g.thread? r) : (if p then x else y).thread? r = g.thread? r := by
  split
  · exact hx
  · exact hy

theorem completeAll (s : State) (a : Agent) (n : Nat) : s.KeepsCauses (s.completeAll a n) a := by
  induction n generalizing s with
  | zero => exact refl s a
  | succ n ih =>
    unfold State.completeAll
    split
    · rename_i u hu
      refine trans ?_ (ih u)
      unfold State.completeOldest at hu
      split at hu
      · cases hu
      · dsimp only at hu
        obtain ⟨-, hu⟩ := Option.ite_none_left_eq_some.1 hu
        obtain ⟨-, hu⟩ := Option.ite_none_left_eq_some.1 hu
        injection hu with hu
        subst hu
        refine (modGang s a _ fun g r => ?_).trans (modThread _ _ _ fun _ => rfl)
        split
        · refine thread?_ite ?_ ?_ <;> cases r <;> rfl
        · cases r <;> rfl
        · cases r <;> rfl
    · exact refl s a

end State.KeepsCauses

end Sys2Proof.Machine
end

section
/-! The step of OEXPAND (R349, R353). -/

namespace Sys2Proof.Machine

/-- Charging a step leaves the causes. -/
theorem State.KeepsCauses.chargeStep (s : State) (a : Agent) (r : VRec) (k : Nat) : s.KeepsCauses (s.chargeStep a r k) a := by
  unfold State.chargeStep
  dsimp only
  split
  · exact .refl s a
  · split
    · exact .refl s a
    · have hc (m n : Nat) : s.KeepsCauses ((s.charge a.gang r.op.energy 1).charge a.gang m n) a :=
        (State.KeepsCauses.charge ..).trans (.charge ..)
      have hs (l : List (Nat × Nat)) : s.KeepsCauses ((s.charge a.gang r.op.energy 1).chargeSectors a.gang l) a :=
        (State.KeepsCauses.charge ..).trans (.foldl (fun _ _ => .charge ..) _ _)
      split
      · exact hc ..
      · exact hs _
      · exact hs _
      · exact hc ..
      · exact hc ..
      · exact hc ..
      · exact hc ..
      · exact hc ..
      · split
        · exact hc ..
        · exact .charge ..

/-- A cause that is raised comes last among those of its agent (R384). -/
theorem State.raiseVec_raises (s : State) (a : Agent) (r : VRec) (k elem code : Nat) (addr : Word) (acc : Nat) :
    ∃ (u : State) (c : Cause) (f : Thread → Thread), s.KeepsCauses u a ∧ c.code = code ∧
      s.raiseVec a r k elem code addr acc = u.modThread a f ∧ ∀ t : Thread, (f t).causes = t.causes ++ [c] := by
  unfold State.raiseVec
  dsimp only
  have hkeeps (f : VRec → VRec) (n : Nat) :
      s.KeepsCauses (((s.modRec a r.seq f).closeVector a).drainAll a (·.ofVector a) n) a := by
    have hrec : s.KeepsCauses (s.modRec a r.seq f) a := .modThread s a a fun _ => rfl
    have hclose : (s.modRec a r.seq f).KeepsCauses ((s.modRec a r.seq f).closeVector a) a := .modThread _ a a fun _ => rfl
    exact (hrec.trans hclose).trans (.drainAll ..)
  cases a.role with
  | hart k =>
    refine ⟨_, ?cause, _, hkeeps _ _, ?code, rfl, fun _ => ?causes⟩
    case causes => exact rfl
    case code => rfl
  | access =>
    refine ⟨_, ?causeOf, _, hkeeps _ _, ?codeOf, rfl, fun _ => ?causesOf⟩
    case causesOf => exact rfl
    case codeOf => rfl

/-- The one record of the queue of the agent in execution is OEXPAND of a vector register, which may be performed, with no
transfer in flight, and its hart waits for it (R53, R54, R62, R80, R198, R349). -/
structure State.Expands (s : State) (a : Agent) (t : Thread) (r : VRec) (d n : Nat) : Prop where
  cur : s.cur = some a
  thread : s.thread? a = some t
  vq : t.vq = [r]
  mq : t.mq = []
  xfers : t.xfers = []
  wait : t.wait = .gd r.seq
  runs : s.mayRun a = true
  fresh : ∀ n, (t.vreg n).expired = false
  op : r.op = .oexpand
  dst : r.dst = .scalar d
  srcA : r.srcA = .reg n
  srcB : r.srcB = .none
  pops : r.pops = []
  pi : r.pi = 0
  flags : r.flags = 0
  done : r.done = false
  stuck : r.stuck = false
  supp : r.supp = false
  vl : r.vl ≠ 0

/-- The priors that children take from a register (R353). -/
def VReg.priors (v : VReg) (vl : Nat) : List (BitVec 16) := (List.range vl).map fun i => priorOf v.tag (v.data.get i)

/-- A request for children, by what it leaves of the state. -/
def State.expansion (s : State) (a : Agent) (h : Word) (l : List (BitVec 16)) : Option (Word × State) :=
  s.orchAt a h fun o => o.expand h l

section
variable {s : State} {a : Agent} {t : Thread} {r : VRec} {d n : Nat} (h : s.Expands a t r d n)
include h

theorem State.Expands.groups : r.groups = 1 := by
  simp [VRec.groups, h.op, VOp.single, VOp.whole, h.vl]

theorem State.Expands.vectorStep : s.vectorStep a r = (s.oexpandStep a r).chargeStep a r 0 := by
  have hready := State.stepReady_of_single h.thread h.vq h.mq h.srcA h.srcB (by rw [h.op]; rfl) 0
  simp [State.vectorStep, h.groups, h.pi, hready, Thread.entryHeld, h.thread, h.dst, VRec.sregAt_of_fresh h.fresh,
    VRec.entryCause, h.srcA, h.srcB, h.op, State.beginEntry, State.recNow, h.vq, State.groupStep]

/-- The step asks the tile of the handle for the children (R353). -/
theorem State.Expands.oexpandStep (htag : r.tagA = (t.vreg n).tag) : s.oexpandStep a r =
    match s.expansion a r.opa ((t.vreg n).priors r.vl) with
    | some (v, s) => (s.modRec a r.seq fun r => { r with opb := v }).commit a { r with opb := v } 0 []
    | none => (s.raiseVec a r 0 0 cORCHFULL 0 0).modThread a fun t => { t with causes := match t.causes.getLast? with
        | some c => t.causes.dropLast ++ [{ c with info := r.opa }]
        | none => [] } := by
  have holder : t.older r = [] := by simp [Thread.older, h.vq]
  unfold State.oexpandStep
  dsimp only
  rw [h.thread, Option.getD_some, h.xfers, holder, h.srcA, htag]
  rfl

/-- A step that gives the hart its answer. -/
theorem State.Expands.answered (htag : r.tagA = (t.vreg n).tag) {v : Word} {s1 : State}
    (hv : s.expansion a r.opa ((t.vreg n).priors r.vl) = some (v, s1)) :
    Answers (exec (.elementGroupCompletion a r.seq) s) fun u =>
      s.Becomes u a { (t.setReg d v).wake with vq := [], fflags := t.fflags ||| 0 } ∧ u.orch = s1.orch := by
  obtain ⟨cs, hs1⟩ := State.orchAt_rest hv
  have hthread : s1.thread? a = some t := by rw [hs1]; exact h.thread
  have hbegin : s.Becomes s1 a t := by
    refine ⟨?_, by rw [hs1], hthread⟩
    rw [hs1]
    exact ⟨fun _ => rfl, fun _ _ => rfl, fun _ _ => rfl⟩
  have hrec : s1.Becomes (s1.modRec a r.seq fun r => { r with opb := v }) a { t with vq := [{ r with opb := v }] } :=
    .modRec hthread h.vq _
  have hcommit := State.Becomes.commit_scalar (r := { r with opb := v }) hrec.thread rfl h.dst h.pops h.supp
  have hdone : decide (VRec.groups { r with opb := v } ≤ 1) = true := decide_eq_true (le_of_eq h.groups)
  rw [hdone] at hcommit
  let s2 := (s1.modRec a r.seq fun r => { r with opb := v }).commit a { r with opb := v } 0 []
  have hthread2 : s2.thread? a = some { t with vq := [{ r with opb := v, pi := 1, done := true }] } := hcommit.thread
  have hcharge : s2.chargeStep a r 0 = s2.charge a.gang 1 1 := by
    simp [State.chargeStep, hthread2, h.op, VOp.energy, VRec.stochastic]
  have hstep : s.vectorStep a r = s2.charge a.gang 1 1 := by
    rw [h.vectorStep, h.oexpandStep htag, hv]
    exact hcharge
  have hcharged := ((hbegin.trans hrec).trans hcommit).trans (.charge hcommit.thread 1 1)
  have hdeliver := hcharged.trans (.deliver_scalar hcharged.thread (r := { r with opb := v, pi := 1, done := true }) rfl h.dst
    h.pops rfl h.stuck h.wait)
  rw [exec_groupCompletion_of_single h.thread h.vq h.runs h.stuck h.done, hstep]
  refine .intro rfl ⟨?_, ?_⟩
  · have hresult : VRec.scalarResult { r with opb := v, pi := 1, done := true } = v := by simp [VRec.scalarResult, h.op]
    have hset : ({ t with vq := [{ r with opb := v, pi := 1, done := true }] } : Thread).setReg d v =
        { t.setReg d v with vq := [{ r with opb := v, pi := 1, done := true }] } := by
      unfold Thread.setReg
      split <;> rfl
    rw [hresult, hset, h.flags] at hdeliver
    exact hdeliver
  · rw [((State.KeepsCauses.deliver _ a r.seq).trans (.completeAll _ a 1)).orch, (State.KeepsCauses.charge s2 a a.gang 1 1).orch]
    rfl

/-- A step that finds no room where the tree is to trap raises ORCHFULL with the handle (R353). -/
theorem State.Expands.full (htag : r.tagA = (t.vreg n).tag) (hv : s.expansion a r.opa ((t.vreg n).priors r.vl) = none) :
    Answers (exec (.elementGroupCompletion a r.seq) s) fun u =>
      u.orch = s.orch ∧ ∃ c ∈ u.me.causes, c.code = cORCHFULL ∧ c.info = r.opa := by
  obtain ⟨s', c, f, hkeeps, hcode, hraise, hf⟩ := State.raiseVec_raises s a r 0 0 cORCHFULL 0 0
  obtain ⟨t', ht', -⟩ := hkeeps.causes t h.thread
  let g (t : Thread) : Thread := { t with causes := match t.causes.getLast? with
    | some c => t.causes.dropLast ++ [{ c with info := r.opa }]
    | none => [] }
  let s2 := (s'.modThread a f).modThread a g
  have hthread : s2.thread? a = some (g (f t')) :=
    State.thread?_modThread_self (State.thread?_modThread_self ht' f) g
  have hcauses : (g (f t')).causes = t'.causes ++ [{ c with info := r.opa }] := by
    simp only [g, hf, List.getLast?_concat, List.dropLast_concat]
  have hstep : s.vectorStep a r = s2.chargeStep a r 0 := by
    rw [h.vectorStep, h.oexpandStep htag, hv]
    dsimp only
    rw [hraise]
  have hrest := ((State.KeepsCauses.chargeStep s2 a r 0).trans (.deliver _ a r.seq)).trans (.completeAll _ a 1)
  rw [exec_groupCompletion_of_single h.thread h.vq h.runs h.stuck h.done, hstep]
  obtain ⟨u, hu, hcs⟩ := hrest.causes _ hthread
  refine .intro rfl ⟨hrest.orch.trans hkeeps.orch, { c with info := r.opa }, ?_, hcode, rfl⟩
  have hme : (((s2.chargeStep a r 0).deliver a r.seq).completeAll a 1).me = u := by
    unfold State.me
    rw [hrest.cur.trans (hkeeps.cur.trans h.cur)]
    dsimp only
    rw [hu]
    rfl
  rw [hme, hcs, hcauses]
  exact List.mem_append_right _ (List.mem_singleton_self _)

end

end Sys2Proof.Machine
end

section
/-! OEXPAND on an empty queue, and the obligation on the Orchard's forms. -/

namespace Sys2Proof.Machine

/-- A request at a tile depends on the slices, on the partition, and on the core of the asking gang (R345). -/
theorem State.orchAt_congr {s t : State} {a : Agent} (ho : t.orch = s.orch) (hm : t.mod = s.mod)
    (hc : (t.gangOf a.gang).core = (s.gangOf a.gang).core) (w : Word) (f : OrchSlice → OrchReply) :
    (s.orchAt a w f = none → t.orchAt a w f = none) ∧
    ∀ v s1, s.orchAt a w f = some (v, s1) → ∃ t1, t.orchAt a w f = some (v, t1) ∧ t1.orch = s1.orch := by
  have hpart (k : Nat) : t.partOfCore k = s.partOfCore k := by unfold State.partOfCore; rw [hm]
  have hslice (k : Nat) : t.slice k = s.slice k := by unfold State.slice; rw [ho]
  by_cases hp : s.partOfCore (32 * handleTile w) = s.partOfCore (s.gangOf a.gang).core
  · rw [State.orchAt_own hp, State.orchAt_own (by rw [hpart, hc, hpart]; exact hp), hslice]
    cases f (s.slice (handleTile w)) with
    | none =>
      rw [Option.map_none, Option.map_none]
      exact ⟨fun _ => rfl, fun v s1 h => absurd h.symm (Option.some_ne_none _)⟩
    | some r =>
      rw [Option.map_some, Option.map_some]
      refine ⟨fun h => absurd h (Option.some_ne_none _), fun v s1 h => ?_⟩
      obtain ⟨hv, hs1⟩ := Prod.mk.inj (Option.some.inj h)
      refine ⟨_, by rw [hv], ?_⟩
      · rw [← hs1]
        obtain ⟨cs, hcs⟩ := State.charge_rest { t with orch := modifyAt t.orch (handleTile w) fun _ => r.2 } a.gang 16 1
        obtain ⟨ds, hds⟩ := State.charge_rest { s with orch := modifyAt s.orch (handleTile w) fun _ => r.2 } a.gang 16 1
        rw [hcs, hds, ho]
  · rw [State.orchAt_other hp, State.orchAt_other (by rw [hpart, hc, hpart]; exact hp)]
    refine ⟨fun h => absurd h (Option.some_ne_none _), fun v s1 h => ?_⟩
    obtain ⟨hv, hs1⟩ := Prod.mk.inj (Option.some.inj h)
    exact ⟨t, by rw [hv], hs1 ▸ ho⟩

/-- The record of OEXPAND of a vector register (R353). -/
def State.expandRecord (s : State) (d a b : BitVec 6) : VRec :=
  { s.blank .oexpand s.me.vl with
    dst := .scalar d.toNat, srcA := .reg b.toNat, tagA := (s.me.vreg b.toNat).tag, opa := s.x a }

section
variable {s : State} {ag : Agent} (h : RunsQueue s ag) (hx : s.me.xfers = []) (h0 : 0 < s.me.vl) {d a b : BitVec 6}
include h

include hx h0 in
/-- A record pushed on a queue that held nothing may be performed. -/
theorem RunsQueue.expands {t : State} (hq : Queued s t (s.expandRecord d a b)) :
    t.Expands ag t.me (s.expandRecord d a b) d.toNat b.toNat where
  cur := hq.cur.trans h.cur
  thread := hq.thread? h.room.1 h.cur
  vq := by rw [hq.me]; simp [h.vq]
  mq := by rw [hq.me]; exact h.mq
  xfers := by rw [hq.me]; exact hx
  wait := by rw [hq.me]; simp [h.onHart, VRec.waits, State.expandRecord]
  runs := (hq.mayRun h.room.1 h.cur).trans h.runs
  fresh := by rw [hq.me]; exact h.fresh
  op := rfl
  dst := rfl
  srcA := rfl
  srcB := rfl
  pops := rfl
  pi := rfl
  flags := rfl
  done := rfl
  stuck := rfl
  supp := rfl
  vl := Nat.ne_of_gt h0

/-- The request of the pushed record is that of the instruction. -/
theorem RunsQueue.expansion {t : State} (hq : Queued s t (s.expandRecord d a b)) (w : Word) (f : OrchSlice → OrchReply) :
    (s.orchAt s.who w f = none → t.orchAt ag w f = none) ∧
    ∀ v s1, s.orchAt s.who w f = some (v, s1) → ∃ t1, t.orchAt ag w f = some (v, t1) ∧ t1.orch = s1.orch := by
  have hwho : s.who = ag := by simp [State.who, h.cur]
  rw [hwho]
  have ht := hq.thread
  refine State.orchAt_congr ?_ ?_ ?_ w f
  · rw [ht]; exact State.setMe_orch ..
  · rw [ht]; exact State.setMe_mod ..
  · rw [ht]; exact State.gangOf_setMe_core ..

end

/-- Settles O49: a scalar form is one request at a tile, and OEXPAND's record is performed in one step. -/
theorem orchardForms : Obligations.OrchardForms := by
  unfold Obligations.OrchardForms
  intro d a b s hl hh
  refine ⟨fun hq => ?_, fun hw => ?_, fun hb => ?_, fun hr s1 x hqb hn hx h0 h1 hf h6 => exec_oexpand_pushes hr hh hqb hn hx h0 h1 hf h6 d a,
    fun ag hq hx hqb hnv h0 h1 hf h6 => ?_, fun o w v x t hx ht hr => ?_⟩
  · intro performs
    refine ⟨hq.performs hh (.desc _) rfl rfl, hq.performs hh (.backupFrom _ _) rfl rfl, hq.performs hh (.reuse _) rfl rfl,
      hq.performs hh (.release _) rfl rfl, fun hb => hq.performs hh (.readNode _ _)
      (k := fun s => s.orchAt s.who (s.x a) fun o => o.readNode (s.x a) (s.x b).toNat) rfl ?_, fun hw => ⟨fun hj => ?_, fun hj => ?_⟩⟩
    · show s.hart (if 6 ≤ (s.x b).toNat then s.illop else _) = _
      rw [if_neg (Nat.not_le.2 hb)]
    · rw [exec_onew hq hh d hw, if_pos hj]
      exact Retires.retWith hl d oBADTILE
    · exact exec_onew_tile hq hh d hw hj
  · show execOnew d a s = _
    unfold execOnew
    rw [State.hart_of_onHart hl hh]
    exact if_pos hw
  · show execOread d a b s = _
    unfold execOread
    rw [State.hart_of_onHart hl hh]
    exact if_pos hb
  · intro src priors reply
    have hpush := exec_oexpand_pushes hq.room hh hqb (State.named_source hh hqb hnv false) (s.vsource_register hqb none) h0 h1 hf h6 d a
    obtain ⟨t, ht, hqueued⟩ := hpush
    have hexp := hq.expands hx h0 hqueued
    have hvreg : t.me.vreg b.toNat = src := by rw [hqueued.me]; rfl
    obtain ⟨hnone, hsome⟩ := hq.expansion hqueued (s.x a) fun o => o.expand (s.x a) priors
    have hpriors : (t.me.vreg b.toNat).priors (s.expandRecord d a b).vl = priors := by rw [hvreg]; rfl
    refine ⟨fun v s1 hv => ?_, fun hv => ?_⟩
    · obtain ⟨t1, ht1, horch⟩ := hsome v s1 hv
      obtain ⟨u, hu, hbecomes, huo⟩ := hexp.answered (by rw [hvreg]; rfl) (v := v) (s1 := t1) (by rw [hpriors]; exact ht1)
      exact ⟨t, ht, u, hu, .of_becomes (v := (v, 0)) hq.cur hqueued (by rw [hh]; rfl) rfl hbecomes, huo.trans horch⟩
    · obtain ⟨u, hu, huo, hc⟩ := hexp.full (by rw [hvreg]; rfl) (by rw [hpriors]; exact hnone hv)
      have horch : t.orch = s.orch := by rw [hqueued.thread]; exact State.setMe_orch ..
      exact ⟨t, ht, u, hu, huo.trans horch, hc⟩
  · exact OrchSlice.backupFrom_root hx ht hr

end Sys2Proof.Machine
end

section
/-! Meshes of a partition, the end of a build, and the sheaf sets (R292, R301, R312). -/

namespace Sys2Proof.Machine

/-! Changes of a mesh. -/

/-- Where the meshes of two states agree. -/
theorem State.mesh_of_parts {s u : State} (h : u.parts = s.parts) (p k : Nat) : u.mesh p k = s.mesh p k := by
  unfold State.mesh State.part
  rw [h]

section
variable {s : State} {p k : Nat}

/-- A mesh that is not as module reset leaves it is in a slot of a partition. -/
theorem State.mesh_inRange (h : s.mesh p k ≠ .reset) : p < s.parts.length ∧ k < (s.part p).meshes.length := by
  have hk : k < (s.part p).meshes.length := by
    by_contra hk
    exact h (by unfold State.mesh; rw [List.getElem?_eq_none (Nat.not_lt.1 hk)]; rfl)
  refine ⟨?_, hk⟩
  by_contra hp
  refine h ?_
  have hpart : s.part p = .reset := by unfold State.part; rw [List.getElem?_eq_none (Nat.not_lt.1 hp)]; rfl
  rw [hpart] at hk
  unfold State.mesh
  rw [hpart, List.getElem?_eq_getElem hk]
  exact List.getElem_replicate ..

theorem State.mesh_modMesh (h : s.mesh p k ≠ .reset) (f : MeshSlot → MeshSlot) : (s.modMesh p k f).mesh p k = f (s.mesh p k) := by
  obtain ⟨hp, hk⟩ := State.mesh_inRange h
  unfold State.modMesh
  unfold State.mesh
  rw [State.part_modPart hp]
  exact getD_modifyAt _ hk f _

theorem State.mesh_ne_reset_of_opening {o : Opening} (h : (s.mesh p k).opening = some o) : s.mesh p k ≠ .reset := by
  intro hm
  rw [hm] at h
  cases h

theorem State.mesh_ne_reset_of_opn (h : (s.mesh p k).opn = true) : s.mesh p k ≠ .reset := by
  intro hm
  rw [hm] at h
  cases h

theorem State.mesh_ne_reset_of_current {g : Gen} (h : (s.mesh p k).current = some g) : s.mesh p k ≠ .reset := by
  intro hm
  rw [hm] at h
  cases h

theorem State.mesh_ne_reset_of_set {n : Nat} {st : SheafSet} (h : (s.mesh p k).sets[n]? = some (some st)) : s.mesh p k ≠ .reset := by
  intro hm
  rw [hm] at h
  obtain ⟨hn, he⟩ := List.getElem?_eq_some_iff.1 h
  rw [show MeshSlot.reset.sets[n] = none from List.getElem_replicate ..] at he
  cases he

end

/-! The end of a build. -/

section
variable {s : State} {p : Nat} {o : Opening}

/-- Roots that cannot be read: training, or BADROOT (R301, R459). -/
theorem State.readRoots_error {k n c : Nat} (h : s.readRoots p o k n = .error c) : c = cWAIT ∨ c = 0x11 := by
  induction n generalizing k c with
  | zero => cases h
  | succ n ih =>
    unfold State.readRoots at h
    split at h
    · cases h
      exact ite_eq_or_eq ..
    · split at h
      · cases h
        exact .inr rfl
      · cases hr : s.readRoots p o (k + 1) n with
        | ok l => rw [hr] at h; cases h
        | error e => rw [hr] at h; cases h; exact ih hr

theorem State.buildMesh_error {c : Nat} (hc : c ≠ cWAIT) (h : s.buildMesh p o = .error c) : c ∈ [0x10, 0x11, 0x12] := by
  unfold State.buildMesh at h
  split at h
  · rename_i hr
    cases h
    rw [(State.readRoots_error hr).resolve_left hc]
    decide
  · dsimp only at h
    split at h
    · cases h; decide
    · split at h
      · cases h
      · cases h; decide

theorem State.buildMesh_ok {roots : List RootCell} {g : Gen} (h : s.buildMesh p o = .ok (roots, g)) :
    g.number = 0 ∧ g.built = true := by
  unfold State.buildMesh at h
  split at h
  · cases h
  · dsimp only at h
    split at h
    · cases h
    · split at h
      · cases h; exact ⟨rfl, rfl⟩
      · cases h

theorem State.chargePlaced_rest (s : State) (gi part lvl va n : Nat) :
    ∃ cs, s.chargePlaced gi part lvl va n = { s with cores := cs } := by
  unfold State.chargePlaced
  generalize List.range n = l
  induction l generalizing s with
  | nil => exact ⟨_, rfl⟩
  | cons k l ih =>
    rw [List.foldl_cons]
    split
    · rename_i pa _
      obtain ⟨cs, hcs⟩ := s.chargeAt_rest gi (.mem pa) 32
      rw [hcs]
      obtain ⟨ds, hds⟩ := ih { s with cores := cs }
      exact ⟨ds, hds⟩
    · exact ih s

/-- The status word of a build, and the energy that the build is charged with (R301, R428). -/
def State.buildStatus (s : State) (p : Nat) (o : Opening) (v : Nat) : State :=
  ({ s with mem := s.mem.write o.status 8 v }.chargeAt o.asker.gang (.mem o.status) 8).chargePlaced o.asker.gang p
    (s.nowLevel o.asker) o.roots.toNat (2 * o.nroot)

theorem State.buildStatus_frame (s : State) (p : Nat) (o : Opening) (v : Nat) :
    (s.buildStatus p o v).mem = s.mem.write o.status 8 v ∧ (s.buildStatus p o v).parts = s.parts := by
  unfold State.buildStatus
  obtain ⟨cs, hcs⟩ := State.chargeAt_rest { s with mem := s.mem.write o.status 8 v } o.asker.gang (.mem o.status) 8
  rw [hcs]
  obtain ⟨ds, hds⟩ := State.chargePlaced_rest { { s with mem := s.mem.write o.status 8 v } with cores := cs }
    o.asker.gang p (s.nowLevel o.asker) o.roots.toNat (2 * o.nroot)
  rw [hds]
  exact ⟨rfl, rfl⟩

theorem exec_mopenBuildEnd_idle {slot : Nat} (h : (s.mesh p slot).opening = none) : exec (.mopenBuildEnd p slot) s = .next s := by
  show execMopenBuildEnd p slot s = _
  unfold execMopenBuildEnd
  rw [h]

section
variable {slot : Nat} (ho : (s.mesh p slot).opening = some o)
include ho

/-- The end of a build by what the build is. -/
theorem exec_mopenBuildEnd : exec (.mopenBuildEnd p slot) s = .next (if s.training o.status then s else match s.buildMesh p o with
    | .ok (roots, g) =>
      (s.modMesh p slot fun m => { m with opening := none, roots := roots, gens := [g] }).buildStatus p o 1
    | .error c => if c = cWAIT then s
      else (s.modMesh p slot fun m => { m with opn := false, opening := none, gens := [] }).buildStatus p o (failStatus c)) := by
  show execMopenBuildEnd p slot s = _
  unfold execMopenBuildEnd
  rw [ho]
  rfl

theorem State.answers_buildStatus (f : MeshSlot → MeshSlot) (v : Nat) :
    Answers (.next ((s.modMesh p slot f).buildStatus p o v)) fun t => t.mem = s.mem.write o.status 8 v ∧
      t.mesh p slot = f (s.mesh p slot) := by
  obtain ⟨hmem, hparts⟩ := (s.modMesh p slot f).buildStatus_frame p o v
  exact ⟨_, rfl, hmem, (State.mesh_of_parts hparts ..).trans (State.mesh_modMesh (State.mesh_ne_reset_of_opening ho) f)⟩

theorem exec_mopenBuildEnd_waits (h : s.training o.status = true ∨ s.buildMesh p o = .error cWAIT) :
    exec (.mopenBuildEnd p slot) s = .next s := by
  rw [exec_mopenBuildEnd ho]
  rcases h with h | h
  · rw [if_pos h]
  · rw [h]
    exact congrArg Host.Outcome.next (ite_self _)

theorem exec_mopenBuildEnd_ok (ht : s.training o.status = false) {roots : List RootCell} {g : Gen} (h : s.buildMesh p o = .ok (roots, g)) :
    Answers (exec (.mopenBuildEnd p slot) s) fun t => t.mem = s.mem.write o.status 8 1 ∧
      t.mesh p slot = { s.mesh p slot with opening := none, roots := roots, gens := [g] } := by
  rw [exec_mopenBuildEnd ho, ht, h]
  exact State.answers_buildStatus ho _ _

theorem exec_mopenBuildEnd_error (ht : s.training o.status = false) {c : Nat} (hc : c ≠ cWAIT) (h : s.buildMesh p o = .error c) :
    Answers (exec (.mopenBuildEnd p slot) s) fun t => t.mem = s.mem.write o.status 8 (2 ^ 63 + c) ∧
      t.mesh p slot = { s.mesh p slot with opn := false, opening := none, gens := [] } := by
  rw [exec_mopenBuildEnd ho, ht, h]
  dsimp only
  rw [if_neg hc]
  exact State.answers_buildStatus ho _ _

end
end

/-! A sheaf set that is built. -/

theorem modifyAt_eq_set {α : Type} {l : List α} {n : Nat} {a : α} (h : l[n]? = some a) (f : α → α) :
    modifyAt l n f = l.set n (f a) := by
  refine List.ext_getElem? fun j => ?_
  rw [getElem?_modifyAt, List.getElem?_set]
  by_cases hj : j = n
  · subst hj
    rw [if_pos rfl, if_pos rfl, if_pos (List.getElem?_eq_some_iff.1 h).1, h]
    rfl
  · rw [if_neg hj, if_neg (Ne.symm hj)]

theorem exec_sheafSetBuilt {s : State} {p slot n : Nat} {st : SheafSet} (h : (s.mesh p slot).sets[n]? = some (some st)) :
    Answers (exec (.sheafSetBuilt p slot n) s) fun t => t.mem = s.mem ∧ t.gangs = s.gangs ∧
      t.mesh p slot = { s.mesh p slot with sets := (s.mesh p slot).sets.set n (some { st with built := true }) } := by
  refine ⟨_, rfl, rfl, rfl, (State.mesh_modMesh (State.mesh_ne_reset_of_set h) _).trans ?_⟩
  rw [modifyAt_eq_set h]
  rfl

end Sys2Proof.Machine
end

section
/-! Adaptations: the build and the status step (R322 to R327). -/

namespace Sys2Proof.Machine

/-! Changes that agree where they are made. -/

theorem modifyAt_congr {α : Type} {l : List α} {i : Nat} {f k : α → α} (h : ∀ y, l[i]? = some y → f y = k y) :
    modifyAt l i f = modifyAt l i k := by
  cases hi : l[i]? with
  | none =>
    refine List.ext_getElem? fun j => ?_
    rw [getElem?_modifyAt, getElem?_modifyAt]
    split
    · rename_i hj
      rw [hj, hi]
      rfl
    · rfl
  | some y => rw [modifyAt_of_getElem? hi f, modifyAt_of_getElem? hi k, h y hi]

theorem State.modThread_congr {s : State} {a : Agent} {t : Thread} (ht : s.thread? a = some t) {f k : Thread → Thread}
    (h : f t = k t) : s.modThread a f = s.modThread a k := by
  refine State.modGang_congr fun g hg => ?_
  rw [State.thread?_of hg] at ht
  unfold Gang.modThread
  unfold Gang.thread? at ht
  cases hr : a.role with
  | hart n =>
    rw [hr] at ht
    exact congrArg (fun l => { g with harts := l }) (modifyAt_congr fun y hy => by cases ht.symm.trans hy; exact h)
  | access =>
    rw [hr] at ht
    cases ht
    exact congrArg (fun l => { g with access := l }) h

theorem State.modXfer_congr {s : State} {a : Agent} {t : Thread} (ht : s.thread? a = some t) {x : Nat} {y : Xfer}
    (hx : t.xfers[x]? = some y) {f k : Xfer → Xfer} (h : f y = k y) : s.modXfer a x f = s.modXfer a x k :=
  State.modThread_congr ht (congrArg (fun l => { t with xfers := l }) (modifyAt_congr fun z hz => by cases hx.symm.trans hz; exact h))

theorem State.modXfer_modXfer (s : State) (a : Agent) (x : Nat) (f k : Xfer → Xfer) :
    (s.modXfer a x f).modXfer a x k = s.modXfer a x fun y => k (f y) := by
  have hthread (f k : Thread → Thread) (g : Gang) : (g.modThread a.role f).modThread a.role k = g.modThread a.role fun t => k (f t) := by
    unfold Gang.modThread
    cases a.role with
    | hart n => exact congrArg (fun l => { g with harts := l }) (modifyAt_modifyAt ..)
    | access => rfl
  unfold State.modXfer State.modThread State.modGang
  dsimp only
  rw [modifyAt_modifyAt]
  refine congrArg (fun l => { s with gangs := l }) (modifyAt_congr fun g _ => ?_)
  rw [hthread]
  unfold Gang.modThread
  simp only [modifyAt_modifyAt]

/-- A change of a mesh leaves the bytes and the transfers of an agent. -/
theorem State.Leaves.modMesh {u w : State} {a : Agent} {l : List Xfer} (h : u.Leaves w a l) (p k : Nat) (f : MeshSlot → MeshSlot) :
    (u.modMesh p k f).Leaves w a l :=
  ⟨h.mem, h.spad, h.sdm, h.xfers⟩

theorem State.Noted.parts {s u : State} (h : s.Noted u) : u.parts = s.parts := by rw [h.rest]

/-! The build. -/

theorem State.Noted.buildAdapt (s : State) (a : Agent) (m : MeshSlot) (g : Gen) (w : List Word) (part : Nat) :
    s.Noted (s.buildAdapt a m g w part).2 := by
  unfold State.buildAdapt
  split
  · exact .refl s
  · rename_i flags u hr
    have hn : s.Noted u := .readNumbers hr
    dsimp only
    split
    · exact hn
    · split
      · exact hn
      · split
        · exact hn
        · split <;> exact hn

/-- A build that waits for a channel in training has noted nothing (R459). -/
theorem State.buildAdapt_wait {s : State} {a : Agent} {m : MeshSlot} {g : Gen} {w : List Word} {part : Nat}
    (h : (s.buildAdapt a m g w part).1 = .error cWAIT) : s.buildAdapt a m g w part = (.error cWAIT, s) := by
  have hcode {c : Nat} {u : State} (hc : c ≠ cWAIT)
      (he : ((.error c, u) : Except Nat (List (Nat × Nat) × List Cell × List Nat) × State).1 = .error cWAIT) : False :=
    hc (Except.error.inj he)
  unfold State.buildAdapt at h ⊢
  split at h
  · exact congrArg (·, s) h
  · exfalso
    dsimp only at h
    split at h
    · exact hcode (by decide) h
    · split at h
      · exact hcode (by decide) h
      · split at h
        · exact hcode (by decide) h
        · split at h
          · exact hcode (by decide) h
          · cases h

section
variable {s : State} {ag : Agent} {x : Nat} {t : Thread} (ht : s.thread? ag = some t)
include ht

/-- Without a transfer there, none of the Catalogue's steps of it does anything. -/
theorem exec_catalogueSteps_none (hx : t.xfers[x]? = none) :
    ∀ i ∈ ([.adapt ag x, .adaptStatus ag x, .mrecutStatus ag x, .streamEntry ag x] : List Instr), exec i s = .next s := by
  have hnone : ((s.thread? ag).getD .empty).xfers[x]? = none := by rw [ht]; exact hx
  simp only [List.forall_mem_cons]
  refine ⟨?_, ?_, ?_, ?_, nofun⟩
  · show execAdapt ag x s = _
    unfold execAdapt
    rw [hnone]
  · show execAdaptStatus ag x s = _
    unfold execAdaptStatus
    rw [hnone]
  · show execMrecutStatus ag x s = _
    unfold execMrecutStatus
    rw [hnone]
  · show execStreamEntry ag x s = _
    unfold execStreamEntry
    rw [hnone]

section
variable {y : Xfer} (hx : t.xfers[x]? = some y)
include hx

omit ht in
/-- What a change of the transfer leaves, over what reads have noted. -/
theorem State.Leaves.xfer_set {u : State} (h : u.Leaves s ag t.xfers) (f : Xfer → Xfer) :
    ∃ v : Thread, (u.modXfer ag x f).thread? ag = some v ∧ v.xfers = modifyAt t.xfers x fun _ => f y := by
  obtain ⟨v, hv, hl⟩ := (h.modXfer x f).xfers
  exact ⟨v, hv, hl.trans (modifyAt_of_getElem? hx f)⟩

variable {w : List Word} {stage : Nat} {recs : List (Nat × Nat)} (hk : y.kind = .catalogue w stage recs)
include hk

theorem exec_adapt_built (h : stage ≠ 0) : exec (.adapt ag x) s = .next s := by
  show execAdapt ag x s = _
  unfold execAdapt
  rw [ht, Option.getD_some, hx]
  dsimp only
  rw [hk]
  cases stage with
  | zero => exact absurd rfl h
  | succ n => rfl

variable {part : Nat} (hp : s.partOfCore (s.gangOf ag.gang).core = part)
include hp

theorem exec_adapt_stale (h : stage = 0) (hc : s.handleOk part ((w[0]?).getD 0) = false ∨
      (s.mesh part (mwSlot ((w[0]?).getD 0))).current = none) :
    exec (.adapt ag x) s = .next (s.modXfer ag x fun y => { y with kind := .catalogue w 0x14 [] }) := by
  show execAdapt ag x s = _
  unfold execAdapt
  rw [ht, Option.getD_some, hx]
  dsimp only
  rw [hk, h, hp]
  simp only
  rcases hc with hc | hc
  · rw [hc]
    rfl
  · rw [hc]
    exact congrArg Host.Outcome.next (ite_self _)

variable {g : Gen} (h0 : stage = 0) (hh : s.handleOk part ((w[0]?).getD 0) = true)
  (hg : (s.mesh part (mwSlot ((w[0]?).getD 0))).current = some g)
include h0 hh hg

theorem exec_adapt : exec (.adapt ag x) s = .next (match s.buildAdapt ag (s.mesh part (mwSlot ((w[0]?).getD 0))) g w part with
    | (.error c, u) => if c = cWAIT then u else
      (u.modMesh part (mwSlot ((w[0]?).getD 0)) fun m => { m with gens := m.gens.filter (·.built) }).modXfer ag x fun y =>
        { y with kind := .catalogue w c [] }
    | (.ok (l, cs, sg), u) => (u.modMesh part (mwSlot ((w[0]?).getD 0)) fun m => { m with
        gens := m.gens.map fun g => if g.built then g else { g with leaves := cs, segs := sg } }).modXfer ag x fun y =>
          { y with kind := .catalogue w 1 l }) := by
  show execAdapt ag x s = _
  unfold execAdapt
  rw [ht, Option.getD_some, hx]
  dsimp only
  rw [hk, h0, hp]
  simp only
  rw [hh, hg]
  rfl

omit hh hp h0 hk in
/-- What the end of a build of an adaptation leaves: the mesh and the transfer that it has changed. -/
theorem State.Noted.adapted {u : State} (hn : s.Noted u) (f : MeshSlot → MeshSlot) (k : Xfer → Xfer) :
    Answers (.next ((u.modMesh part (mwSlot ((w[0]?).getD 0)) f).modXfer ag x k)) fun v => v.mem = s.mem ∧
      (∃ z : Thread, v.thread? ag = some z ∧ z.xfers = modifyAt t.xfers x fun _ => k y) ∧
      v.mesh part (mwSlot ((w[0]?).getD 0)) = f (s.mesh part (mwSlot ((w[0]?).getD 0))) := by
  have hl := ((State.Leaves.refl ht).noted hn).modMesh part (mwSlot ((w[0]?).getD 0)) f
  have hm : u.mesh part (mwSlot ((w[0]?).getD 0)) = s.mesh part (mwSlot ((w[0]?).getD 0)) := State.mesh_of_parts hn.parts ..
  refine ⟨_, rfl, (hl.modXfer x k).mem, hl.xfer_set hx k, ?_⟩
  refine Eq.trans (State.mesh_modMesh (s := u) ?_ f) (congrArg f hm)
  rw [hm]
  exact State.mesh_ne_reset_of_current hg

theorem exec_adapt_wait (h : (s.buildAdapt ag (s.mesh part (mwSlot ((w[0]?).getD 0))) g w part).1 = .error cWAIT) :
    exec (.adapt ag x) s = .next s := by
  rw [exec_adapt ht hx hk hp h0 hh hg, State.buildAdapt_wait h]
  rfl

theorem exec_adapt_error {c : Nat} (hc : c ≠ cWAIT)
    (h : (s.buildAdapt ag (s.mesh part (mwSlot ((w[0]?).getD 0))) g w part).1 = .error c) :
    Answers (exec (.adapt ag x) s) fun u => u.mem = s.mem ∧
      (∃ z : Thread, u.thread? ag = some z ∧ z.xfers = modifyAt t.xfers x fun _ => { y with kind := .catalogue w c [] }) ∧
      u.mesh part (mwSlot ((w[0]?).getD 0)) =
        { s.mesh part (mwSlot ((w[0]?).getD 0)) with gens := (s.mesh part (mwSlot ((w[0]?).getD 0))).gens.filter (·.built) } := by
  have hn := State.Noted.buildAdapt s ag (s.mesh part (mwSlot ((w[0]?).getD 0))) g w part
  rw [exec_adapt ht hx hk hp h0 hh hg]
  generalize s.buildAdapt ag (s.mesh part (mwSlot ((w[0]?).getD 0))) g w part = r at h hn
  obtain ⟨e, u⟩ := r
  cases h
  dsimp only
  rw [if_neg hc]
  exact hn.adapted ht hx hg _ _

theorem exec_adapt_ok {l : List (Nat × Nat)} {cs : List Cell} {sg : List Nat}
    (h : (s.buildAdapt ag (s.mesh part (mwSlot ((w[0]?).getD 0))) g w part).1 = .ok (l, cs, sg)) :
    Answers (exec (.adapt ag x) s) fun u => u.mem = s.mem ∧
      (∃ z : Thread, u.thread? ag = some z ∧ z.xfers = modifyAt t.xfers x fun _ => { y with kind := .catalogue w 1 l }) ∧
      u.mesh part (mwSlot ((w[0]?).getD 0)) = { s.mesh part (mwSlot ((w[0]?).getD 0)) with
        gens := (s.mesh part (mwSlot ((w[0]?).getD 0))).gens.map fun g => if g.built then g else { g with leaves := cs, segs := sg } } := by
  have hn := State.Noted.buildAdapt s ag (s.mesh part (mwSlot ((w[0]?).getD 0))) g w part
  rw [exec_adapt ht hx hk hp h0 hh hg]
  generalize s.buildAdapt ag (s.mesh part (mwSlot ((w[0]?).getD 0))) g w part = r at h hn
  obtain ⟨e, u⟩ := r
  cases h
  exact hn.adapted ht hx hg _ _

end
end

end Sys2Proof.Machine
end

section
/-! The status step of an adaptation, the status of a re-cutting, and the entries of a stream (R309, R326, R327, R334). -/

namespace Sys2Proof.Machine

/-- In a state an agent has a thread whose transfers are `l`. -/
def State.HasXfers (u : State) (a : Agent) (l : List Xfer) : Prop := ∃ v : Thread, u.thread? a = some v ∧ v.xfers = l

theorem State.HasXfers.noted {u v : State} {a : Agent} {l : List Xfer} (h : u.HasXfers a l) (hn : u.Noted v) : v.HasXfers a l := by
  obtain ⟨t, ht, hl⟩ := h
  obtain ⟨z, hz, hk⟩ := hn.thread? ht
  exact ⟨z, hz, by rw [hk]; exact hl⟩

theorem State.HasXfers.modMesh {u : State} {a : Agent} {l : List Xfer} (h : u.HasXfers a l) (p k : Nat) (f : MeshSlot → MeshSlot) :
    (u.modMesh p k f).HasXfers a l :=
  h

/-- The records of an adaptation are written without a change of the transfers (R325). -/
theorem State.HasXfers.writeRecords {s s2 : State} {a : Agent} {l : List Xfer} {va : Word} {recs : List (Nat × Nat)} {b : Bool}
    (h : s.HasXfers a l) (hw : s.writeRecords a va recs = (b, s2)) : s2.HasXfers a l := by
  induction recs generalizing s va with
  | nil => cases hw; exact h
  | cons r rs ih =>
    unfold State.writeRecords at hw
    split at hw
    · cases hw
      exact h
    · rename_i p s1 hp
      obtain ⟨v, hv, hl⟩ := h.noted (.locate hp)
      have hpoke : (s1.pokeAt a p 16 (r.1 + r.2 * 2 ^ 64)).HasXfers a l := ⟨v, (State.thread?_pokeAt ..).trans hv, hl⟩
      exact ih (hpoke.noted (.chargeRun ..)) hw

/-- A state that differs from `st` in what a written status word leaves. -/
structure State.WroteStatus (u st : State) (a : Agent) (l : List Xfer) (m : Memory) : Prop where
  mem : u.mem = m
  parts : u.parts = st.parts
  xfers : u.HasXfers a l

theorem State.WroteStatus.answers {u st : State} {a : Agent} {l : List Xfer} {m : Memory} (h : u.WroteStatus st a l m) (x : Nat)
    (p : Place) (n : Nat) :
    Answers (.next ((u.chargeAt a.gang p n).freeXfer a x)) fun v => (∃ z : Thread, v.thread? a = some z ∧ z.xfers = l.eraseIdx x) ∧
      v.mem = m ∧ ∀ p k, v.mesh p k = st.mesh p k := by
  obtain ⟨z, hz, hl⟩ := h.xfers
  obtain ⟨cs, hcs⟩ := u.chargeAt_rest a.gang p n
  rw [hcs]
  refine ⟨_, rfl, ⟨_, State.thread?_modThread_self (t := z) hz _, ?_⟩, h.mem, fun p k => State.mesh_of_parts (s := st) h.parts p k⟩
  exact congrArg (List.eraseIdx · x) hl

/-- The status word of an adaptation frees its transfer and changes no mesh (R326, R327). -/
theorem State.answers_adaptStatus {st s1 : State} {a : Agent} {x v pa : Nat} {w : List Word} {l : List Xfer} (h : st.HasXfers a l)
    (hp : s1.training pa = false) (hl : st.locate a (st.nowLevel a) .write false ((w[4]?).getD 0) 8 8 = .ok (.mem pa, s1))
    (hh : s1.heldOver a (.mem pa) 8 = false) :
    Answers (.next (st.adaptStatus a x w v)) fun u => (∃ z : Thread, u.thread? a = some z ∧ z.xfers = l.eraseIdx x) ∧
      u.mem = st.mem.write pa 8 v ∧ ∀ p k, u.mesh p k = st.mesh p k := by
  have hn : st.Noted s1 := .locate hl
  obtain ⟨z, hz, hxf⟩ := h.noted hn
  have hpoke : (s1.pokeAt a (.mem pa) 8 v).WroteStatus st a l (st.mem.write pa 8 v) :=
    ⟨(State.mem_pokeAt_mem ..).trans (congrArg (Memory.write · pa 8 v) hn.mem), hn.parts, z, (State.thread?_pokeAt ..).trans hz, hxf⟩
  have hadapt : st.adaptStatus a x w v = ((s1.pokeAt a (.mem pa) 8 v).chargeAt a.gang (.mem pa) 8).freeXfer a x := by
    unfold State.adaptStatus
    dsimp only
    rw [hl]
    dsimp only
    rw [hh, show s1.stalled (.mem pa) = false from hp]
    rfl
  rw [hadapt]
  exact hpoke.answers x _ _

section
variable {s : State} {ag : Agent} {x : Nat} {t : Thread} (ht : s.thread? ag = some t) {y : Xfer} (hx : t.xfers[x]? = some y)
  {w : List Word} {stage : Nat} {recs : List (Nat × Nat)} (hk : y.kind = .catalogue w stage recs)
include ht hx hk

theorem exec_adaptStatus_idle (h : stage = 0 ∨ y.fault.isSome = true) : exec (.adaptStatus ag x) s = .next s := by
  show execAdaptStatus ag x s = _
  unfold execAdaptStatus
  rw [ht, Option.getD_some, hx]
  dsimp only
  rw [hk]
  dsimp only
  rw [if_pos]
  simpa using h.symm

variable (hf : y.fault = none)
include hf

theorem exec_adaptStatus_late {v : Nat} (hv : stage = 2 ∧ v = y.row + recs.length * 2 ^ 32 ∨ 2 < stage ∧ v = 2 ^ 63 + stage) :
    exec (.adaptStatus ag x) s = .next (s.adaptStatus ag x w v) := by
  show execAdaptStatus ag x s = _
  unfold execAdaptStatus
  rw [ht, Option.getD_some, hx]
  dsimp only
  rw [hk, hf]
  dsimp only
  rcases hv with ⟨h, rfl⟩ | ⟨h, rfl⟩
  · subst h
    rfl
  · rw [if_neg (by simp; omega), if_neg (by omega), if_pos (by omega)]
    rfl

/-- The command with another stage and row. -/
def State.staged (u : State) (a : Agent) (x : Nat) (w : List Word) (recs : List (Nat × Nat)) (c row : Nat) : State :=
  u.modXfer a x fun z => { z with kind := .catalogue w c recs, row := row }

omit ht hx hk hf in
theorem State.HasXfers.staged {u : State} {l : List Xfer} (h : u.HasXfers ag l) (c row : Nat) :
    (u.staged ag x w recs c row).HasXfers ag (modifyAt l x fun z => { z with kind := .catalogue w c recs, row := row }) := by
  obtain ⟨v, hv, hl⟩ := h
  exact ⟨_, State.thread?_modThread_self hv _, congrArg (modifyAt · x _) hl⟩

omit ht hk hf in
/-- A change of the stage alone keeps the row. -/
theorem State.HasXfers.modXfer_stage {u : State} (h : u.HasXfers ag t.xfers) (c : Nat) :
    (u.modXfer ag x fun z => { z with kind := .catalogue w c recs }) = u.staged ag x w recs c y.row := by
  obtain ⟨v, hv, hl⟩ := h
  exact State.modXfer_congr hv (y := y) (by rw [hl]; exact hx) rfl

omit ht hk hf hx in
/-- The status word written from a state that has staged the command. -/
theorem State.HasXfers.ends {u s1 : State} (h : u.HasXfers ag t.xfers) {c row v pa : Nat}
    (he : exec (.adaptStatus ag x) s = .next ((u.staged ag x w recs c row).adaptStatus ag x w v)) (hp : s1.training pa = false)
    (hl : (u.staged ag x w recs c row).locate ag ((u.staged ag x w recs c row).nowLevel ag) .write false ((w[4]?).getD 0) 8 8 =
      .ok (.mem pa, s1)) (hh : s1.heldOver ag (.mem pa) 8 = false) :
    Answers (exec (.adaptStatus ag x) s) fun u' => (∃ z : Thread, u'.thread? ag = some z ∧ z.xfers = t.xfers.eraseIdx x) ∧
      u'.mem = (u.staged ag x w recs c row).mem.write pa 8 v ∧ ∀ p k, u'.mesh p k = (u.staged ag x w recs c row).mesh p k := by
  rw [he, ← eraseIdx_modifyAt]
  exact State.answers_adaptStatus (h.staged c row) hp hl hh

variable {part : Nat} (hp : s.partOfCore (s.gangOf ag.gang).core = part) (h1 : stage = 1)
include hp h1

theorem exec_adaptStatus_closed (hh : s.handleOk part ((w[0]?).getD 0) = false) : exec (.adaptStatus ag x) s =
    .next ((s.staged ag x w recs 0x14 y.row).adaptStatus ag x w (2 ^ 63 + 0x14)) := by
  show execAdaptStatus ag x s = _
  unfold execAdaptStatus
  rw [ht, Option.getD_some, hx]
  dsimp only
  rw [hk, hf, hp]
  subst h1
  dsimp only
  rw [hh, State.HasXfers.modXfer_stage hx ⟨t, ht, rfl⟩]
  rfl

variable (hh : s.handleOk part ((w[0]?).getD 0) = true)
include hh

theorem exec_adaptStatus_stalls (hw : s.writesStall ag 16 ((w[2]?).getD 0) recs.length = true) :
    exec (.adaptStatus ag x) s = .next s := by
  show execAdaptStatus ag x s = _
  unfold execAdaptStatus
  rw [ht, Option.getD_some, hx]
  dsimp only
  rw [hk, hf, hp]
  subst h1
  dsimp only
  rw [hh, hw]
  rfl

variable (hw : s.writesStall ag 16 ((w[2]?).getD 0) recs.length = false) {s2 : State}
include hw

theorem exec_adaptStatus_written (h2 : s.writeRecords ag ((w[2]?).getD 0) recs = (true, s2)) {number : Nat}
    (hnum : number = ((s.mesh part (mwSlot ((w[0]?).getD 0))).gens.getLast?.map (·.number)).getD 0) :
    exec (.adaptStatus ag x) s = .next (((s2.modMesh part (mwSlot ((w[0]?).getD 0)) fun m => { m with
      gens := (m.gens.filter fun g => g.built || !g.released).map fun g => { g with built := true } }).staged ag x w recs 2
        number).adaptStatus ag x w (number + recs.length * 2 ^ 32)) := by
  show execAdaptStatus ag x s = _
  unfold execAdaptStatus
  rw [ht, Option.getD_some, hx]
  dsimp only
  rw [hk, hf, hp]
  subst h1 hnum
  dsimp only
  rw [hh, hw, h2]
  dsimp only
  rw [State.modXfer_modXfer]
  rfl

theorem exec_adaptStatus_unwritten (h2 : s.writeRecords ag ((w[2]?).getD 0) recs = (false, s2)) :
    exec (.adaptStatus ag x) s = .next (((s2.modMesh part (mwSlot ((w[0]?).getD 0)) fun m => { m with
      gens := m.gens.filter (·.built) }).staged ag x w recs 0x16 y.row).adaptStatus ag x w (2 ^ 63 + 0x16)) := by
  obtain ⟨v, hv, hl⟩ := State.HasXfers.writeRecords ⟨t, ht, rfl⟩ h2
  show execAdaptStatus ag x s = _
  unfold execAdaptStatus
  rw [ht, Option.getD_some, hx]
  dsimp only
  rw [hk, hf, hp]
  subst h1
  dsimp only
  rw [hh, hw, h2]
  dsimp only
  rw [State.HasXfers.modXfer_stage (u := s2.modMesh part (mwSlot ((w[0]?).getD 0)) _) hx ⟨v, hv, hl⟩]
  rfl

end

end Sys2Proof.Machine
end

section
/-! The status of a re-cutting and the entries of a stream (R309, R334 to R336). -/

namespace Sys2Proof.Machine

section
variable {s : State} {ag : Agent} {x : Nat} {t : Thread} (ht : s.thread? ag = some t) {y : Xfer} (hx : t.xfers[x]? = some y)
include ht hx

theorem exec_mrecutStatus {w : List Word} {pa v : Nat} {s1 : State} (hk : y.kind = .recut w pa) (hr : s.recut ag w = (v, s1)) :
    exec (.mrecutStatus ag x) s = .next (if v = cWAIT ∨ s.training pa = true then s else
      (({ s1 with mem := s1.mem.write pa 8 v } : State).chargeAt ag.gang (.mem pa) 8).freeXfer ag x) := by
  show execMrecutStatus ag x s = _
  unfold execMrecutStatus
  rw [ht, Option.getD_some, hx]
  dsimp only
  rw [hk]
  dsimp only
  rw [hr]
  by_cases hp : s.training pa = true
  · rw [if_pos hp, if_pos (.inr hp)]
  · rw [if_neg hp]
    exact congrArg Host.Outcome.next (if_congr (by simp [hp]) rfl rfl)

end

/-! The data of an entry. -/

/-- The elements set in order of their indices are the values of a list. -/
theorem Sparse.get_foldl_mapIdx (vals : List Nat) {k v : Nat} (h : vals[k]? = some v) :
    Sparse.get ((vals.mapIdx fun i v => (i, v)).foldl (fun (m : Sparse 64) z => m.set z.1 (BitVec.ofNat 64 z.2)) []) k =
      BitVec.ofNat 64 v := by
  induction vals using List.reverseRecOn with
  | nil => cases h
  | append_singleton l a ih =>
    rw [List.mapIdx_concat, List.foldl_append, List.foldl_cons, List.foldl_nil, Sparse.get_set]
    by_cases hk : k = l.length
    · subst hk
      rw [List.getElem?_concat_length] at h
      cases h
      exact if_pos rfl
    · rw [if_neg hk]
      refine ih ?_
      have hlt : k < (l ++ [a]).length := (List.getElem?_eq_some_iff.1 h).1
      rw [List.length_append, List.length_singleton] at hlt
      rwa [List.getElem?_append_left (by omega)] at h

/-- The entry that a stream pushes next (R309). -/
def Stream.entry (p : Stream) (id : Nat) : Entry :=
  let vals := (p.recs.take p.chunk).map fun r => (r[p.pos]?).getD 0
  ⟨id, .n32, vals.length, vals.length,
    (vals.mapIdx fun i v => (i, v)).foldl (fun (m : Sparse 64) z => m.set z.1 (BitVec.ofNat 64 z.2)) [], false, none, none, none⟩

theorem Stream.entry_count (p : Stream) (id : Nat) : (p.entry id).count = min p.chunk p.recs.length := by
  unfold Stream.entry
  simp

theorem Stream.get_entry (p : Stream) (id : Nat) {k : Nat} {r : List Nat} (hk : k < p.chunk) (hr : p.recs[k]? = some r) :
    Sparse.get (p.entry id).data k = BitVec.ofNat 64 ((r[p.pos]?).getD 0) := by
  refine Sparse.get_foldl_mapIdx _ ?_
  rw [List.getElem?_map, List.getElem?_take_of_lt hk, hr]
  rfl

/-! What the queues of a gang hold. -/

/-- The load queues and entries of a gang in a state. -/
def State.HasEntries (u : State) (i : Nat) (lq : List (List Nat)) (ents : List Entry) : Prop :=
  ∃ g, u.gangs[i]? = some g ∧ g.lq = lq ∧ g.ents = ents

section
variable {u : State} {i : Nat} {lq : List (List Nat)} {ents : List Entry} (h : u.HasEntries i lq ents)
include h

theorem State.HasEntries.gangOf : (u.gangOf i).lq = lq ∧ (u.gangOf i).ents = ents := by
  obtain ⟨g, hg, hl, he⟩ := h
  rw [State.gangOf_of hg]
  exact ⟨hl, he⟩

theorem State.HasEntries.modGang {f : Gang → Gang} (hf : ∀ g : Gang, (f g).lq = g.lq ∧ (f g).ents = g.ents) :
    (u.modGang i f).HasEntries i lq ents := by
  obtain ⟨g, hg, hl, he⟩ := h
  exact ⟨f g, by rw [State.getElem?_modGang, if_pos rfl, hg]; rfl, (hf g).1.trans hl, (hf g).2.trans he⟩

theorem State.HasEntries.modThread (r : Role) (f : Thread → Thread) : (u.modThread ⟨i, r⟩ f).HasEntries i lq ents :=
  State.HasEntries.modGang h fun _ => by cases r <;> exact ⟨rfl, rfl⟩

theorem State.HasEntries.charge (gi k n : Nat) : (u.charge gi k n).HasEntries i lq ents := by
  obtain ⟨cs, hcs⟩ := u.charge_rest gi k n
  rw [hcs]
  exact h

end

/-! A stream's step. -/

section
variable {s : State} {ag : Agent} {x : Nat} {t : Thread} (ht : s.thread? ag = some t) {y : Xfer} (hx : t.xfers[x]? = some y)
  {q : Nat} {p : Stream} {l : List Nat} (hk : y.kind = .stream q p) (hrun : s.engineRuns ag = true)
  (hq : (s.gangOf ag.gang).lq[q]? = some l)
include ht hx hk hrun hq

omit hrun in
theorem exec_streamEntry_full (hl : 2 ≤ l.length) : exec (.streamEntry ag x) s = .next s := by
  show execStreamEntry ag x s = _
  unfold execStreamEntry
  rw [ht, Option.getD_some, hx]
  dsimp only
  rw [hk]
  dsimp only
  rw [if_pos]
  rw [hq]
  simpa using .inr hl

omit ht hx hk hrun hq in
/-- The state once a stream has pushed its next entry to a queue, and been charged with its records (R309, R428). -/
def State.streamed (s : State) (ag : Agent) (q : Nat) (p : Stream) : State :=
  let e := p.entry (s.gangOf ag.gang).entNext
  let s := s.modGang ag.gang fun g => { g with ents := g.ents ++ [e], entNext := g.entNext + 1, lq := modifyAt g.lq q (· ++ [e.id]) }
  if p.pos = 0 then s.charge ag.gang 15 e.count else s

theorem exec_streamEntry (hl : l.length < 2) : exec (.streamEntry ag x) s = .next (if p.next.recs.isEmpty then
    ((s.streamed ag q p).freeXfer ag x).modGang ag.gang fun g => { g with bound := g.bound.filter (· ≠ q) }
    else (s.streamed ag q p).modXfer ag x fun y => { y with kind := .stream q p.next }) := by
  show execStreamEntry ag x s = _
  unfold execStreamEntry
  rw [ht, Option.getD_some, hx]
  dsimp only
  rw [hk]
  dsimp only
  rw [if_neg (by rw [hq, hrun]; simpa using hl)]
  rfl

omit hx hk hrun in
theorem State.streamed_spec : (s.streamed ag q p).Leaves s ag t.xfers ∧ (s.streamed ag q p).HasEntries ag.gang
    ((s.gangOf ag.gang).lq.set q (l ++ [(s.gangOf ag.gang).entNext]))
    ((s.gangOf ag.gang).ents ++ [p.entry (s.gangOf ag.gang).entNext]) := by
  have hpush : (s.modGang ag.gang fun g => { g with
      ents := g.ents ++ [p.entry (s.gangOf ag.gang).entNext], entNext := g.entNext + 1
      lq := modifyAt g.lq q (· ++ [(p.entry (s.gangOf ag.gang).entNext).id]) }).Leaves s ag t.xfers :=
    (State.Leaves.refl ht).modGang (fun _ => ⟨rfl, rfl⟩) fun _ _ => rfl
  obtain ⟨g, hg⟩ := State.gangs_of_thread? ht
  have hent : (s.modGang ag.gang fun g => { g with
      ents := g.ents ++ [p.entry (s.gangOf ag.gang).entNext], entNext := g.entNext + 1
      lq := modifyAt g.lq q (· ++ [(p.entry (s.gangOf ag.gang).entNext).id]) }).HasEntries ag.gang
      ((s.gangOf ag.gang).lq.set q (l ++ [(s.gangOf ag.gang).entNext]))
      ((s.gangOf ag.gang).ents ++ [p.entry (s.gangOf ag.gang).entNext]) := by
    refine ⟨_, by rw [State.getElem?_modGang, if_pos rfl, hg]; rfl, ?_, ?_⟩
    · rw [← State.gangOf_of hg]
      exact modifyAt_eq_set hq _
    · rw [← State.gangOf_of hg]
  unfold State.streamed
  dsimp only
  split
  · exact ⟨hpush.noted (.charge ..), hent.charge ..⟩
  · exact ⟨hpush, hent⟩

theorem answers_streamEntry (hl : l.length < 2) : Answers (exec (.streamEntry ag x) s) fun u => u.mem = s.mem ∧
    (u.gangOf ag.gang).lq[q]? = some (l ++ [(s.gangOf ag.gang).entNext]) ∧
    (u.gangOf ag.gang).ents = (s.gangOf ag.gang).ents ++ [p.entry (s.gangOf ag.gang).entNext] ∧
    (p.next.recs = [] → ∃ v : Thread, u.thread? ag = some v ∧ v.xfers = t.xfers.eraseIdx x) ∧
    (p.next.recs ≠ [] → ∃ v : Thread, u.thread? ag = some v ∧ v.xfers = modifyAt t.xfers x fun _ => { y with kind := .stream q p.next }) := by
  obtain ⟨hleaves, hent⟩ := State.streamed_spec (p := p) ht hq
  have hqueue : ((s.gangOf ag.gang).lq.set q (l ++ [(s.gangOf ag.gang).entNext]))[q]? = some (l ++ [(s.gangOf ag.gang).entNext]) :=
    List.getElem?_set_self (List.getElem?_eq_some_iff.1 hq).1
  rw [exec_streamEntry ht hx hk hrun hq hl]
  by_cases hr : p.next.recs = []
  · rw [hr]
    have hu := (hleaves.freeXfer x).modGang (f := fun g => { g with bound := g.bound.filter (· ≠ q) }) (fun _ => ⟨rfl, rfl⟩) fun _ _ => rfl
    have he := ((hent.modThread ag.role fun u => { u with xfers := u.xfers.eraseIdx x }).modGang
      (f := fun g => { g with bound := g.bound.filter (· ≠ q) }) fun _ => ⟨rfl, rfl⟩).gangOf
    exact ⟨_, rfl, hu.mem, (congrArg (·[q]?) he.1).trans hqueue, he.2, fun _ => hu.xfers, (absurd rfl ·)⟩
  · rw [if_neg (by simpa using hr)]
    have he := (hent.modThread ag.role fun u => { u with xfers := modifyAt u.xfers x fun y => { y with kind := .stream q p.next } }).gangOf
    exact ⟨_, rfl, (hleaves.modXfer x _).mem, (congrArg (·[q]?) he.1).trans hqueue, he.2, (absurd · hr), fun _ => hleaves.xfer_set hx _⟩

end

end Sys2Proof.Machine
end

section
/-! The Catalogue's answers to a waiting thread (R301, R305, R306, R311, R312, R333). -/

namespace Sys2Proof.Machine

/-! What the Catalogue looks up and changes leaves the thread that waits where it stands. -/

/-- In a state an agent has a thread with the pc and the registers of `t`. -/
def State.StandsAt (u : State) (a : Agent) (t : Thread) : Prop := ∃ z : Thread, u.thread? a = some z ∧ z.pc = t.pc ∧ z.regs = t.regs

theorem State.StandsAt.noted {u v : State} {a : Agent} {t : Thread} (h : u.StandsAt a t) (hn : u.Noted v) : v.StandsAt a t := by
  obtain ⟨z, hz, hpc, hregs⟩ := h
  obtain ⟨z', hz', hnoted⟩ := hn.thread? hz
  exact ⟨z', hz', by rw [hnoted]; exact hpc, by rw [hnoted]; exact hregs⟩

theorem State.Noted.readDesc {s u : State} {a : Agent} {va : Word} {w : List Word} (h : s.readDesc a va = .ok (w, u)) : s.Noted u := by
  unfold State.readDesc at h
  dsimp only at h
  split at h
  · split at h
    · cases h
    · split at h
      · cases h
      · rename_i hr
        cases h
        exact .readDwords hr
  · split at h
    · cases h
      exact .refl s
    · cases h

theorem State.answerOpen_frame {s s1 : State} {a : Agent} {va v : Word} (h : s.answerOpen a va = some (v, s1)) :
    ∃ u, s.Noted u ∧ (s1 = u ∨ ∃ p k f, s1 = u.modMesh p k f) := by
  unfold State.answerOpen at h
  dsimp only at h
  split at h
  · obtain ⟨-, h⟩ := Option.ite_none_left_eq_some.1 h
    cases h
    exact ⟨s, .refl s, .inl rfl⟩
  · rename_i w s2 hd
    have hn : s.Noted s2 := .readDesc hd
    split at h
    · cases h
      exact ⟨_, hn, .inl rfl⟩
    · split at h
      · cases h
        exact ⟨_, hn, .inl rfl⟩
      · rename_i p s3 hl
        have hn3 : s.Noted s3 := hn.trans (.locate hl)
        split at h
        · cases h
          exact ⟨_, hn3, .inl rfl⟩
        · cases h
          exact ⟨_, hn3, .inr ⟨_, _, _, rfl⟩⟩

theorem State.answerSheaf_frame {s s1 : State} {part : Nat} {w range v : Word} (h : s.answerSheaf part w range = .ok (v, s1)) :
    s1 = s ∨ ∃ p k f, s1 = s.modMesh p k f := by
  unfold State.answerSheaf at h
  split at h
  · cases h
  · extract_lets k m fs lo hi busy at h
    split at h
    · cases h
    · split at h
      · cases h
        exact .inl rfl
      · split at h
        · cases h
          exact .inl rfl
        · cases h
          exact .inr ⟨_, _, _, rfl⟩

theorem State.answerRecut_frame {s s1 : State} {a : Agent} {q : Ask} {v : Word} (h : s.answerRecut a q = .ok (v, s1)) :
    ∃ u, s.Noted u ∧ (s1 = u ∨ ∃ x : Xfer, s1 = u.modThread a fun t => { t with xfers := t.xfers ++ [x] }) := by
  unfold State.answerRecut at h
  dsimp only at h
  split at h
  · split at h
    · cases h
    · cases h
      exact ⟨s, .refl s, .inl rfl⟩
  · rename_i w s2 hd
    have hn : s.Noted s2 := .readDesc hd
    split at h
    · cases h
      exact ⟨_, hn, .inl rfl⟩
    · split at h
      · cases h
        exact ⟨_, hn, .inl rfl⟩
      · rename_i p s3 hl
        have hn3 : s.Noted s3 := hn.trans (.locate hl)
        split at h
        · cases h
        · split at h
          · cases h
          · split at h
            · cases h
              exact ⟨_, hn3, .inl rfl⟩
            · cases h
              exact ⟨_, hn3, .inr ⟨_, rfl⟩⟩

section
variable {s s1 : State} {ag : Agent} {t : Thread} (ht : s.thread? ag = some t)
include ht

theorem State.answerOpen_keeps {va v : Word} (h : s.answerOpen ag va = some (v, s1)) : s1.mem = s.mem ∧ s1.StandsAt ag t := by
  obtain ⟨u, hn, hs⟩ := State.answerOpen_frame h
  have hu : u.StandsAt ag t := State.StandsAt.noted ⟨t, ht, rfl, rfl⟩ hn
  rcases hs with rfl | ⟨p, k, f, rfl⟩
  · exact ⟨hn.mem, hu⟩
  · exact ⟨hn.mem, hu⟩

theorem State.answerSheaf_keeps {part : Nat} {w range v : Word} (h : s.answerSheaf part w range = .ok (v, s1)) :
    s1.mem = s.mem ∧ s1.StandsAt ag t := by
  rcases State.answerSheaf_frame h with rfl | ⟨p, k, f, rfl⟩
  · exact ⟨rfl, t, ht, rfl, rfl⟩
  · exact ⟨rfl, t, ht, rfl, rfl⟩

theorem State.answerRecut_keeps {q : Ask} {v : Word} (h : s.answerRecut ag q = .ok (v, s1)) :
    s1.mem = s.mem ∧ s1.parts = s.parts ∧ s1.StandsAt ag t := by
  obtain ⟨u, hn, hs⟩ := State.answerRecut_frame h
  have hu : u.StandsAt ag t := State.StandsAt.noted ⟨t, ht, rfl, rfl⟩ hn
  rcases hs with rfl | ⟨x, rfl⟩
  · exact ⟨hn.mem, hn.parts, hu⟩
  · obtain ⟨z, hz, hpc, hregs⟩ := hu
    exact ⟨hn.mem, hn.parts, _, State.thread?_modThread_self hz _, hpc, hregs⟩

end

/-! The answer. -/

/-- The thread has the answer in its register and goes on (R311). -/
def State.AnswerGiven (u : State) (a : Agent) (t : Thread) (d : Nat) (v : Word) : Prop :=
  ∃ z : Thread, u.thread? a = some z ∧ z.wait = .none ∧ z.pc = t.pc + 4 ∧ ∀ r, z.reg r = if r = d ∧ r ≠ 0 then v else t.reg r

theorem Thread.pc_setReg (t : Thread) (d : Nat) (v : Word) : (t.setReg d v).pc = t.pc := by
  unfold Thread.setReg
  split <;> rfl

theorem State.StandsAt.answers_give {u : State} {ag : Agent} {t : Thread} (h : u.StandsAt ag t) (d : Nat) (v : Word) :
    Answers (.next ((u.charge ag.gang 15 1).giveAnswer ag d v)) fun w => w.AnswerGiven ag t d v ∧ w.mem = u.mem ∧ w.parts = u.parts := by
  obtain ⟨z, hz, hpc, hregs⟩ := h
  obtain ⟨cs, hcs⟩ := u.charge_rest ag.gang 15 1
  rw [hcs]
  refine ⟨_, rfl, ⟨_, State.thread?_modThread_self (t := z) hz _, rfl, ?_, fun r => ?_⟩, rfl, rfl⟩
  · exact congrArg (· + 4) ((Thread.pc_setReg z d v).trans hpc)
  · refine (Thread.reg_setReg z d r v).trans ?_
    unfold Thread.reg
    rw [hregs]

/-- A mesh that is closed keeps its serial (R306). -/
theorem State.closeMesh_spec {s : State} {part k : Nat} (ho : (s.mesh part k).opn = true) :
    (s.closeMesh part k).gangs = s.gangs ∧ ((s.closeMesh part k).mesh part k).opn = false ∧
      ((s.closeMesh part k).mesh part k).serial = (s.mesh part k).serial := by
  have hne : s.mesh part k ≠ .reset := State.mesh_ne_reset_of_opn ho
  unfold State.closeMesh
  dsimp only
  split
  · rename_i o _
    have hmesh := State.mesh_modMesh (s := { s with mem := s.mem.write o.status 8 (failStatus 0x14) }) hne fun m => { m with
      opn := false, opening := none, gens := m.gens.filter (·.built) }
    exact ⟨rfl, by rw [hmesh], by rw [hmesh]; rfl⟩
  · have hmesh := State.mesh_modMesh hne fun m => { m with
      opn := false, opening := none, gens := m.gens.filter (·.built) }
    exact ⟨rfl, by rw [hmesh], by rw [hmesh]⟩

section
variable {s : State} {ag : Agent} {t : Thread} (ht : s.thread? ag = some t)
include ht

theorem exec_catalogueAnswer_idle (h : (∀ d q, t.wait ≠ .answer d q) ∨ s.engineRuns ag = false) :
    exec (.catalogueAnswer ag) s = .next s := by
  show execCatalogueAnswer ag s = _
  unfold execCatalogueAnswer
  rw [ht, Option.getD_some]
  dsimp only
  split
  · rename_i d q hw
    rw [h.resolve_left fun hn => hn d q hw]
    rfl
  · rfl

variable {d : Nat} {q : Ask} (hw : t.wait = .answer d q) (hrun : s.engineRuns ag = true) (hhalt : (s.gangOf ag.gang).haltReq = none)
  {part : Nat} (hp : s.partOfCore (s.gangOf ag.gang).core = part)
include hw hrun hhalt hp

/-- The answer to a thread that waits for one, by what it has asked. -/
theorem exec_catalogueAnswer {give : State → Word → State} {fail : Nat → State}
    (hgive : give = fun u v => (u.charge ag.gang 15 1).giveAnswer ag d v)
    (hfail : fail = fun c => (s.charge ag.gang 15 1).raiseAsk ag q cMESHGEN c) :
    exec (.catalogueAnswer ag) s = .next (match q.fn with
      | .mopen => match s.answerOpen ag q.a with
        | some (v, u) => give u v
        | none => s
      | .mclose =>
        if !s.handleOk part q.a then fail 1
        else if s.statusStalls part (mwSlot q.a) then s
        else give (s.closeMesh part (mwSlot q.a)) 0
      | .mgenrel =>
        if !s.handleOk part q.a then fail 1
        else match s.releaseGen part (mwSlot q.a) q.b.toNat with
          | some u => give u 0
          | none => fail 6
      | .msheaf => match s.answerSheaf part q.a q.b with
        | .ok (v, u) => give u v
        | .error c => fail c
      | .mquery => match s.answerQuery part q.a q.b with
        | .ok (some n) => give s (BitVec.ofNat 64 n)
        | .ok none => s
        | .error c => fail c
      | .mrecut => match s.answerRecut ag q with
        | .ok (v, u) => give u v
        | .error c => if c = cWAIT then s else fail c) := by
  subst hgive hfail
  show execCatalogueAnswer ag s = _
  unfold execCatalogueAnswer
  rw [ht, Option.getD_some, hw]
  dsimp only
  rw [hrun, hhalt, hp]
  rfl

end

end Sys2Proof.Machine
end

section
/-! The obligation on the Catalogue's steps. -/

namespace Sys2Proof.Machine

/-- The release of a generation changes a mesh only (R305). -/
theorem State.releaseGen_keeps {s s1 : State} {ag : Agent} {t : Thread} (ht : s.thread? ag = some t) {part k n : Nat}
    (h : s.releaseGen part k n = some s1) : s1.mem = s.mem ∧ s1.StandsAt ag t := by
  obtain ⟨-, hs1⟩ := Option.ite_none_left_eq_some.1 h
  cases hs1
  exact ⟨rfl, t, ht, rfl, rfl⟩

section
variable {s : State} {ag : Agent} {t : Thread} (ht : s.thread? ag = some t) {d : Nat} {q : Ask} (hw : t.wait = .answer d q)
  (hrun : s.engineRuns ag = true) (hhalt : (s.gangOf ag.gang).haltReq = none)
  {part : Nat} (hp : s.partOfCore (s.gangOf ag.gang).core = part)
include ht hw hrun hhalt hp

/-- MCLOSE and MGENREL of a handle that names no open mesh (R305, R306). -/
theorem exec_catalogueAnswer_stale (hf : q.fn = .mclose ∨ q.fn = .mgenrel) (hh : s.handleOk part q.a = false) :
    exec (.catalogueAnswer ag) s = .next ((s.charge ag.gang 15 1).raiseAsk ag q cMESHGEN 1) := by
  rw [exec_catalogueAnswer ht hw hrun hhalt hp rfl rfl]
  rcases hf with hf | hf
  · rw [hf, hh]
    rfl
  · rw [hf, hh]
    rfl

theorem exec_catalogueAnswer_mclose (hf : q.fn = .mclose) (hh : s.handleOk part q.a = true) :
    (s.statusStalls part (mwSlot q.a) = true → exec (.catalogueAnswer ag) s = .next s) ∧
    (s.statusStalls part (mwSlot q.a) = false → Answers (exec (.catalogueAnswer ag) s) fun u => u.AnswerGiven ag t d 0 ∧
      (u.mesh part (mwSlot q.a)).opn = false ∧ (u.mesh part (mwSlot q.a)).serial = (s.mesh part (mwSlot q.a)).serial) := by
  rw [exec_catalogueAnswer ht hw hrun hhalt hp rfl rfl, hf]
  dsimp only
  rw [hh]
  refine ⟨fun hs => by rw [hs]; rfl, fun hs => ?_⟩
  rw [hs]
  have hopn : (s.mesh part (mwSlot q.a)).opn = true := (Bool.and_eq_true_iff.1 hh).1
  obtain ⟨hgangs, hclosed, hserial⟩ := State.closeMesh_spec hopn
  have hstands : (s.closeMesh part (mwSlot q.a)).StandsAt ag t := ⟨t, by unfold State.thread?; rw [hgangs]; exact ht, rfl, rfl⟩
  obtain ⟨u, hu, hgiven, -, hparts⟩ := hstands.answers_give d 0
  have hmesh := State.mesh_of_parts hparts part (mwSlot q.a)
  exact ⟨u, hu, hgiven, by rw [hmesh]; exact hclosed, by rw [hmesh]; exact hserial⟩

theorem exec_catalogueAnswer_mgenrel (hf : q.fn = .mgenrel) (hh : s.handleOk part q.a = true) :
    (s.releaseGen part (mwSlot q.a) q.b.toNat = none →
      exec (.catalogueAnswer ag) s = .next ((s.charge ag.gang 15 1).raiseAsk ag q cMESHGEN 6)) ∧
    (∀ s1, s.releaseGen part (mwSlot q.a) q.b.toNat = some s1 →
      Answers (exec (.catalogueAnswer ag) s) fun u => u.AnswerGiven ag t d 0 ∧ u.parts = s1.parts ∧ u.mem = s.mem) := by
  rw [exec_catalogueAnswer ht hw hrun hhalt hp rfl rfl, hf]
  dsimp only
  rw [hh]
  refine ⟨fun hr => by rw [hr]; rfl, fun s1 hr => ?_⟩
  rw [hr]
  obtain ⟨hmem, hstands⟩ := State.releaseGen_keeps ht hr
  obtain ⟨u, hu, hgiven, hm, hparts⟩ := hstands.answers_give d 0
  exact ⟨u, hu, hgiven, hparts, hm.trans hmem⟩

theorem exec_catalogueAnswer_mopen (hf : q.fn = .mopen) :
    (s.answerOpen ag q.a = none → exec (.catalogueAnswer ag) s = .next s) ∧
    (∀ v s1, s.answerOpen ag q.a = some (v, s1) → Answers (exec (.catalogueAnswer ag) s) fun u =>
      u.AnswerGiven ag t d v ∧ u.mem = s.mem ∧ u.parts = s1.parts) := by
  rw [exec_catalogueAnswer ht hw hrun hhalt hp rfl rfl, hf]
  refine ⟨fun hr => by rw [hr], fun v s1 hr => ?_⟩
  rw [hr]
  obtain ⟨hmem, hstands⟩ := State.answerOpen_keeps ht hr
  obtain ⟨u, hu, hgiven, hm, hparts⟩ := hstands.answers_give d v
  exact ⟨u, hu, hgiven, hm.trans hmem, hparts⟩

theorem exec_catalogueAnswer_msheaf (hf : q.fn = .msheaf) :
    (∀ c, s.answerSheaf part q.a q.b = .error c →
      exec (.catalogueAnswer ag) s = .next ((s.charge ag.gang 15 1).raiseAsk ag q cMESHGEN c)) ∧
    (∀ v s1, s.answerSheaf part q.a q.b = .ok (v, s1) → Answers (exec (.catalogueAnswer ag) s) fun u =>
      u.AnswerGiven ag t d v ∧ u.mem = s.mem ∧ u.parts = s1.parts) := by
  rw [exec_catalogueAnswer ht hw hrun hhalt hp rfl rfl, hf]
  refine ⟨fun c hr => by rw [hr], fun v s1 hr => ?_⟩
  rw [hr]
  obtain ⟨hmem, hstands⟩ := State.answerSheaf_keeps ht hr
  obtain ⟨u, hu, hgiven, hm, hparts⟩ := hstands.answers_give d v
  exact ⟨u, hu, hgiven, hm.trans hmem, hparts⟩

theorem exec_catalogueAnswer_mquery (hf : q.fn = .mquery) :
    (∀ c, s.answerQuery part q.a q.b = .error c →
      exec (.catalogueAnswer ag) s = .next ((s.charge ag.gang 15 1).raiseAsk ag q cMESHGEN c)) ∧
    (s.answerQuery part q.a q.b = .ok none → exec (.catalogueAnswer ag) s = .next s) ∧
    (∀ n, s.answerQuery part q.a q.b = .ok (some n) → Answers (exec (.catalogueAnswer ag) s) fun u =>
      u.AnswerGiven ag t d (BitVec.ofNat 64 n) ∧ u.mem = s.mem ∧ u.parts = s.parts) := by
  rw [exec_catalogueAnswer ht hw hrun hhalt hp rfl rfl, hf]
  refine ⟨fun c hr => by rw [hr], fun hr => by rw [hr], fun n hr => ?_⟩
  rw [hr]
  exact State.StandsAt.answers_give ⟨t, ht, rfl, rfl⟩ d _

theorem exec_catalogueAnswer_mrecut (hf : q.fn = .mrecut) :
    (s.answerRecut ag q = .error cWAIT → exec (.catalogueAnswer ag) s = .next s) ∧
    (∀ c, c ≠ cWAIT → s.answerRecut ag q = .error c →
      exec (.catalogueAnswer ag) s = .next ((s.charge ag.gang 15 1).raiseAsk ag q cMESHGEN c)) ∧
    (∀ v s1, s.answerRecut ag q = .ok (v, s1) → Answers (exec (.catalogueAnswer ag) s) fun u =>
      u.AnswerGiven ag t d v ∧ u.mem = s.mem ∧ u.parts = s.parts) := by
  rw [exec_catalogueAnswer ht hw hrun hhalt hp rfl rfl, hf]
  refine ⟨fun hr => by rw [hr]; rfl, fun c hc hr => ?_, fun v s1 hr => ?_⟩
  · rw [hr]
    exact congrArg Host.Outcome.next (if_neg hc)
  · rw [hr]
    obtain ⟨hmem, hkept, hstands⟩ := State.answerRecut_keeps ht hr
    obtain ⟨u, hu, hgiven, hm, hparts⟩ := hstands.answers_give d v
    exact ⟨u, hu, hgiven, hm.trans hmem, hparts.trans hkept⟩

end

/-- Settles O59: the end of a build and of a sheaf set by the mesh that it changes; an adaptation, a re-cutting and a stream by
what each leaves of the transfer, over what the reads have noted; an answer by what the Catalogue makes of the question, which
leaves the waiting thread where it stands. -/
theorem catalogueSteps : Obligations.CatalogueSteps := by
  unfold Obligations.CatalogueSteps
  refine ⟨fun s p slot => ⟨exec_mopenBuildEnd_idle, fun o ho => ⟨exec_mopenBuildEnd_waits ho, fun roots g htr hb => ?_,
    fun c htr hc hb => ⟨State.buildMesh_error hc hb, exec_mopenBuildEnd_error ho htr hc hb⟩⟩, fun n st => exec_sheafSetBuilt⟩,
    fun s ag x t ht => ?_⟩
  · obtain ⟨hnumber, hbuilt⟩ := State.buildMesh_ok hb
    exact ⟨hnumber, hbuilt, exec_mopenBuildEnd_ok ho htr hb⟩
  intro part now freed
  refine ⟨exec_catalogueSteps_none ht, fun y w stage recs hx hk => ?_, fun y w pa v s1 hx hk hr => exec_mrecutStatus ht hx hk hr,
    fun y q p l hx hk hrun hq => ⟨exec_streamEntry_full ht hx hk hq, fun hl => ?_⟩, exec_catalogueAnswer_idle ht,
    fun d q hw hrun hhalt => ?_⟩
  · intro n m
    refine ⟨exec_adapt_built ht hx hk, exec_adaptStatus_idle ht hx hk, fun h0 hc => ?_, fun g h0 hh hg =>
      ⟨exec_adapt_wait ht hx hk rfl h0 hh hg, fun c hc hb => exec_adapt_error ht hx hk rfl h0 hh hg hc hb,
        fun l cs sg hb => exec_adapt_ok ht hx hk rfl h0 hh hg hb⟩, fun hf => ?_⟩
    · have hl := State.Leaves.refl ht
      exact ⟨_, exec_adapt_stale ht hx hk rfl h0 hc, (hl.modXfer x _).mem, hl.xfer_set hx _⟩
    · intro ends coded number
      have hself : s.HasXfers ag t.xfers := ⟨t, ht, rfl⟩
      refine ⟨fun h2 pa s1 hp hl hh => ?_, fun h2 pa s1 hp hl hh => ?_, fun h1 hh pa s1 hp hl hheld => ?_, fun h1 hh =>
        ⟨exec_adaptStatus_stalls ht hx hk hf rfl h1 hh, fun hw => ⟨fun s2 h2 pa s1 hp hl hheld => ?_,
          fun s2 h2 pa s1 hp hl hheld => ?_⟩⟩⟩
      · rw [exec_adaptStatus_late ht hx hk hf (.inl ⟨h2, rfl⟩)]
        exact State.answers_adaptStatus hself hp hl hh
      · rw [exec_adaptStatus_late ht hx hk hf (.inr ⟨h2, rfl⟩)]
        exact State.answers_adaptStatus hself hp hl hh
      · exact hself.ends (exec_adaptStatus_closed ht hx hk hf rfl h1 hh) hp hl hheld
      · have he := exec_adaptStatus_written ht hx hk hf rfl h1 hh hw h2 rfl
        exact ((hself.writeRecords h2).modMesh ..).ends he hp hl hheld
      · have he := exec_adaptStatus_unwritten ht hx hk hf rfl h1 hh hw h2
        exact ((hself.writeRecords h2).modMesh ..).ends he hp hl hheld
  · obtain ⟨u, hu, hmem, hlq, hents, hend, hnext⟩ := answers_streamEntry ht hx hk hrun hq hl
    exact ⟨u, hu, hmem, hlq, ⟨_, hents, rfl, rfl, p.entry_count _, rfl, fun k r hk hr => p.get_entry _ hk hr⟩, hend, hnext⟩
  · intro given fails
    have hclose := exec_catalogueAnswer_mclose ht hw hrun hhalt rfl
    have hrelease := exec_catalogueAnswer_mgenrel ht hw hrun hhalt rfl
    have hopen := exec_catalogueAnswer_mopen ht hw hrun hhalt rfl
    have hsheaf := exec_catalogueAnswer_msheaf ht hw hrun hhalt rfl
    have hquery := exec_catalogueAnswer_mquery ht hw hrun hhalt rfl
    have hrecut := exec_catalogueAnswer_mrecut ht hw hrun hhalt rfl
    have hstale := exec_catalogueAnswer_stale ht hw hrun hhalt rfl
    exact ⟨fun hf => hstale (.inl hf), fun hf hh => (hclose hf hh).1, fun hf hh => (hclose hf hh).2, fun hf => hstale (.inr hf),
      fun hf hh => (hrelease hf hh).1, fun s1 hf hh => (hrelease hf hh).2 s1, fun hf => (hopen hf).1, fun v s1 hf => (hopen hf).2 v s1,
      fun c hf => (hsheaf hf).1 c, fun v s1 hf => (hsheaf hf).2 v s1, fun c hf => (hquery hf).1 c, fun hf => (hquery hf).2.1,
      fun n hf => (hquery hf).2.2 n, fun hf => (hrecut hf).1, fun c hf => (hrecut hf).2.1 c, fun v s1 hf => (hrecut hf).2.2 v s1⟩

end Sys2Proof.Machine
end
